-- ==== Sys2Proof/Word.lean ====
section
/-! DEFINITION. The word types of the module (00 R5, R10) and the types of exact values (05 R129). -/

namespace Sys2Proof

/-- A byte of memory. -/
abbrev Byte := BitVec 8

/-- A 64-bit scalar register (01 R15). -/
abbrev Word := BitVec 64

/-- A 512-bit vector, a 64-byte line, or a bundle (02 R45, 06 R147). -/
abbrev Vec := BitVec 512

/-- A bundle address: a virtual byte address divided by 64 (01 R15). -/
abbrev BPc := BitVec 51

/-- A core in the COREID layout: DX [3:0], DY [7:4], CL [13:8], CC [19:14] (01 R21). -/
abbrev CoreId := BitVec 20

/-- A cluster: the low 14 bits of a COREID (DX, DY, CL). -/
abbrev ClusterId := BitVec 14

namespace Machine

/-- The flag bits of 01 R21: NV, OF and UF of one result. -/
abbrev Flags := BitVec 3

/-- An exact rational num / den. -/
structure Q where
  num : Int
  den : Nat
deriving DecidableEq, Repr

/-- A value of a format, or an exact result: NaN and infinity with their sign, a finite rational; `nz` is the sign of a zero (05 R129). -/
inductive XV where
  | nan (neg : Bool)
  | inf (neg : Bool)
  | fin (nz : Bool) (q : Q)
deriving DecidableEq, Repr

end Machine

end Sys2Proof
end

