-- ==== Sys2Proof/Syntax.lean ====
section
/-! DEFINITION. The instruction formats (02 R56-R61, 24 R440), the payloads of the events, and the one inductive `Instr`:
one constructor per row of spec/opcode_table.json. A slot instruction carries the fields of its format; a waggle step the
fields of R440; an event the core, line, record or message that it concerns. -/

namespace Sys2Proof

/-- Format SR (02 R56): rd [51:46], ra [45:40], rb [39:34], rc [33:28]. -/
structure SR where
  rd : BitVec 6
  ra : BitVec 6
  rb : BitVec 6
  rc : BitVec 6
deriving DecidableEq, Repr

/-- Format SI (02 R56): rd, ra, imm [39:0] signed. -/
structure SI where
  rd : BitVec 6
  ra : BitVec 6
  imm : BitVec 40
deriving DecidableEq, Repr

/-- Format SW (02 R56): rd, imm [45:0] signed. -/
structure SW where
  rd : BitVec 6
  imm : BitVec 46
deriving DecidableEq, Repr

/-- Format SF (02 R56): rd, ra, pos [39:34], len [33:27]. -/
structure SF where
  rd : BitVec 6
  ra : BitVec 6
  pos : BitVec 6
  len : BitVec 7
deriving DecidableEq, Repr

/-- Format SL (02 R56): rd, ra, rb, sh [33:32], disp [31:0] signed. -/
structure SL where
  rd : BitVec 6
  ra : BitVec 6
  rb : BitVec 6
  sh : BitVec 2
  disp : BitVec 32
deriving DecidableEq, Repr

/-- Format SB (02 R56): ra [51:46], off [40:0] signed; zf [45] is the constructor `br` or `brZ`. -/
structure SB where
  ra : BitVec 6
  off : BitVec 41
deriving DecidableEq, Repr

/-- Format SP of `loop` (02 R56): ra [51:46], end [19:0]. -/
structure SP where
  ra : BitVec 6
  last : BitVec 20
deriving DecidableEq, Repr

/-- Format SP of `loopi` (02 R56): cnt [51:20], end [19:0]. -/
structure SQ where
  cnt : BitVec 32
  last : BitVec 20
deriving DecidableEq, Repr

/-- Format SX (02 R56): reg [51:46], n [45:36], imm [15:0]. -/
structure SX where
  reg : BitVec 6
  n : BitVec 10
  imm : BitVec 16
deriving DecidableEq, Repr

/-- Format SH (02 R56): reg [51:46], x [45:42], y [41:38], fld [37:32], disp [31:0] signed. -/
structure SH where
  reg : BitVec 6
  x : BitVec 4
  y : BitVec 4
  fld : BitVec 6
  disp : BitVec 32
deriving DecidableEq, Repr

/-- Format V (02 R57). `slotB` says in which of the two vector slots the syllable stands (VB-only operations, accumulator rows). -/
structure VF where
  slotB : Bool
  vd : BitVec 8
  va : BitVec 6
  vb : BitVec 6
  vc : BitVec 6
  ty : BitVec 4
  tyd : BitVec 4
  rnd : BitVec 2
  ctl : BitVec 12
deriving DecidableEq, Repr

/-- Format MA (02 R58). -/
structure MA where
  bk : BitVec 3
  bd : BitVec 3
  va : BitVec 6
  vb : BitVec 6
  reg : BitVec 6
  ty : BitVec 4
  tyd : BitVec 4
  rnd : BitVec 2
  ctl : BitVec 14
deriving DecidableEq, Repr

/-- Format LS (02 R59). -/
structure LS where
  f0 : BitVec 8
  base : BitVec 6
  idx : BitVec 6
  h : BitVec 4
  ty : BitVec 4
  rnd : BitVec 2
  fe : BitVec 2
  sz : BitVec 2
  disp : BitVec 22
deriving DecidableEq, Repr

/-- Format CE (02 R60). -/
structure CE where
  a : BitVec 6
  b : BitVec 6
  c : BitVec 6
  d : BitVec 6
  h : BitVec 4
  mode : BitVec 8
  imm : BitVec 20
deriving DecidableEq, Repr

/-- Format YA (02 R61). -/
structure YA where
  a : BitVec 6
  b : BitVec 6
  c : BitVec 6
  d : BitVec 6
  h : BitVec 4
  seg : BitVec 1
  wf : BitVec 1
  ctl : BitVec 6
  imm : BitVec 20
deriving DecidableEq, Repr

/-- The fields of `wsend` and `wrecv` (24 R440). -/
structure WP where
  buf : BitVec 2
  pmul : BitVec 2
  poff : BitVec 18
  cmul : BitVec 2
  crk : BitVec 2
  cb : BitVec 24
deriving DecidableEq, Repr

/-- The fields of `wrrs` (24 R440). -/
structure WR where
  buf : BitVec 2
  mode : BitVec 2
  dst : BitVec 2
  root : BitVec 17
deriving DecidableEq, Repr

/-- The fields of `wcopy` (24 R440); `low` is [51:0], non-zero only in the reserved form of R442. -/
structure WC where
  src : BitVec 2
  dst : BitVec 2
  low : BitVec 52
deriving DecidableEq, Repr

/-- On whose behalf an effect runs: the task whose fault domain a class A report goes to (13 R293), the host, or nobody. -/
inductive Source where
  | task (tser : Nat)
  | host
  | nobody
deriving DecidableEq, Repr

/-- A fault report to a fault domain (01 R40, 16 R371): class A or E, cause code, TRAPINFO, TRAPPC, SLOT and SV of TRAPCAUSE,
task serial, gang, strand and core. `tser = 0` names no task: the report goes to the region `rnum`. -/
structure FaultReport where
  async : Bool
  code : Nat
  info : Word
  pc : BPc
  slotBits : BitVec 4
  tser : Nat
  rnum : Nat
  gix : Nat
  lin : Nat
  core : CoreId
  /-- TIMEBASE at the fault (16 R371) -/
  time : Nat
deriving DecidableEq, Repr

/-- What a chunk message of a collective carries (24 R443-R445): a `wsend` chunk, a contribution to a reduction, a final chunk, or the
prefix of ranks 0 to the message's rank that a switch has combined under INNET, as exact elements with the flags they raised. The spec
gives that prefix no form of its own (DESIGN CHOICE, log entry 141). -/
inductive ChunkKind where
  | send
  | contrib
  | final
  | combined (acc : List Machine.XV) (fl : Machine.Flags)
deriving DecidableEq, Repr

/-- A chunk message (24 R443-R445): tag and launch number, sending rank, the step instance (for a send, its count), chunk, bytes. -/
structure ChunkMsg where
  kind : ChunkKind
  tag : Nat
  launch : Nat
  rank : Nat
  inst : Nat
  chunk : Nat
  data : List Byte
deriving DecidableEq, Repr

/-- What a fabric message does at its receiver (23 R428, R429; 24 R439-R446). -/
inductive GBody where
  /-- acknowledges the message of that sequence number -/
  | ack (seq : Nat)
  /-- a remote piece that writes: its operation, piece, virtual address and bytes -/
  | write (op piece : Nat) (va : Word) (data : List Byte)
  /-- a remote piece that reads n bytes -/
  | read (op piece : Nat) (va : Word) (n : Nat)
  /-- a read piece's bytes -/
  | data (op piece : Nat) (bytes : List Byte)
  /-- a written piece's confirmation -/
  | done (op piece : Nat)
  /-- a piece, check or add that failed: cause of 13 R309 and its address -/
  | fail (op piece : Nat) (cause : Nat) (info : Word)
  /-- the launch check of a remote counter -/
  | check (op : Nat) (va : Word)
  /-- the remote counter passed its launch check -/
  | checked (op : Nat)
  /-- the remote completion add -/
  | add (op : Nat) (va : Word) (n : Word) (fl : BitVec 32)
  /-- the remote add was applied, or refused (13 R293) -/
  | added (op : Nat) (refused : Bool)
  /-- a launch's signature -/
  | wsig (tag launch rank : Nat) (sig : List Word)
  /-- a rank's value of an order-free reduction: `wagree` (kind 0) or `wflags` (kind 1) -/
  | wval (kind tag launch inst rank : Nat) (v : Word)
  /-- the k-th `wsend` chunk of a rank has landed at its peer -/
  | sent (tag launch rank inst : Nat)
  | chunk (m : ChunkMsg)
  | abort (tag launch : Nat) (poison : Bool)
  /-- the owner of a chunk asks for the contributions to the inst-th reduction again (23 R434) -/
  | rerun (tag launch inst chunk : Nat)
deriving DecidableEq, Repr

/-- The operation that a message belongs to, by which its port is chosen (23 R427). -/
def GBody.op : GBody → Nat
  | .ack n => n
  | .write op .. => op | .read op .. => op | .data op .. => op | .done op _ => op | .fail op .. => op
  | .check op _ => op | .checked op => op | .add op .. => op | .added op _ => op
  | .wsig tag launch .. => tag + 2 ^ 16 * launch
  | .wval _ tag launch .. => tag + 2 ^ 16 * launch
  | .sent tag launch .. => tag + 2 ^ 16 * launch
  | .chunk m => m.tag + 2 ^ 16 * m.launch
  | .abort tag launch _ => tag + 2 ^ 16 * launch
  | .rerun tag launch .. => tag + 2 ^ 16 * launch

/-- A fabric message at its receiver (23 R428): source module, the pair's sequence number, body. -/
structure GMsg where
  src : BitVec 17
  seq : Nat
  body : GBody
deriving DecidableEq, Repr

/-- What a pool answers to a MemRd (23 R431, R433): the line's bytes with an E or an S grant, or poison. -/
inductive PoolReply where
  | data (excl : Bool) (bytes : Vec)
  | poisoned
deriving DecidableEq, Repr

/-- The domain table and the route table that the Abavas controller writes with it (23 R425, R427): DOMID, SELF, the entries 0 to
COUNT − 1 with MOD and V, and each destination's ports. -/
structure DomainTable where
  domid : Nat
  self : Nat
  members : List (BitVec 17 × Bool)
  routes : List (BitVec 17 × List Nat)
deriving DecidableEq, Repr

/-- One step of the machine: a slot instruction, a waggle step, or an event (one constructor per row of the opcode table). -/
inductive Instr where
  /-- VARIABLE_LATENCY_RESULT (R32) -/
  | variableLatencyResult (c : CoreId) (k : Nat)
  /-- IMAGE_LANDING (R224) -/
  | imageLanding (c : CoreId) (k : Nat)
  /-- MULTICAST_LANDING (R233) -/
  | multicastLanding (k : Nat)
  /-- MATRIX_ENGINE_EXECUTE (R179) -/
  | matrixEngineExecute (c : CoreId)
  /-- SPLINE_ARRAY_EXECUTE (R199) -/
  | splineArrayExecute (c : CoreId)
  /-- ADD (R79) -/
  | add (f : SR)
  /-- SUB (R79) -/
  | sub (f : SR)
  /-- MUL (R79) -/
  | mul (f : SR)
  /-- MULH (R79) -/
  | mulh (f : SR)
  /-- MULHU (R79) -/
  | mulhu (f : SR)
  /-- DIV (R80) -/
  | div (f : SR)
  /-- DIVU (R80) -/
  | divu (f : SR)
  /-- REM (R80) -/
  | rem (f : SR)
  /-- REMU (R80) -/
  | remu (f : SR)
  /-- AND (R79) -/
  | and (f : SR)
  /-- OR (R79) -/
  | or (f : SR)
  /-- XOR (R79) -/
  | xor (f : SR)
  /-- SHL (R79) -/
  | shl (f : SR)
  /-- SHR (R79) -/
  | shr (f : SR)
  /-- SAR (R79) -/
  | sar (f : SR)
  /-- MIN (R79) -/
  | min (f : SR)
  /-- MAX (R79) -/
  | max (f : SR)
  /-- MINU (R79) -/
  | minu (f : SR)
  /-- MAXU (R79) -/
  | maxu (f : SR)
  /-- CLZ (R79) -/
  | clz (f : SR)
  /-- POPC (R79) -/
  | popc (f : SR)
  /-- SEL (R79) -/
  | sel (f : SR)
  /-- ADDI (R81) -/
  | addi (f : SI)
  /-- ANDI (R81) -/
  | andi (f : SI)
  /-- ORI (R81) -/
  | ori (f : SI)
  /-- XORI (R81) -/
  | xori (f : SI)
  /-- SHLI (R81) -/
  | shli (f : SI)
  /-- SHRI (R81) -/
  | shri (f : SI)
  /-- SARI (R81) -/
  | sari (f : SI)
  /-- MOVI (R81) -/
  | movi (f : SW)
  /-- MOVHI (R81) -/
  | movhi (f : SI)
  /-- LEA (R84) -/
  | lea (f : SL)
  /-- EXT (R83) -/
  | ext (f : SF)
  /-- INS (R83) -/
  | ins (f : SF)
  /-- CEQ (R82) -/
  | ceq (f : SR)
  /-- CNE (R82) -/
  | cne (f : SR)
  /-- CLT (R82) -/
  | clt (f : SR)
  /-- CLE (R82) -/
  | cle (f : SR)
  /-- CLTU (R82) -/
  | cltu (f : SR)
  /-- CLEU (R82) -/
  | cleu (f : SR)
  /-- CEQI (R81) -/
  | ceqi (f : SI)
  /-- CLTI (R81) -/
  | clti (f : SI)
  /-- BR (R85) -/
  | br (f : SB)
  /-- BR_Z (R85) -/
  | brZ (f : SB)
  /-- JMP (R85) -/
  | jmp (f : SB)
  /-- CALL (R85) -/
  | call (f : SB)
  /-- JR (R85) -/
  | jr (f : SX)
  /-- LOOP (R87) -/
  | loop (f : SP)
  /-- LOOPI (R87) -/
  | loopi (f : SQ)
  /-- LIDX (R89) -/
  | lidx (f : SX)
  /-- TRAP (R91) -/
  | trap (f : SX)
  /-- SPLD (R92) -/
  | spld (f : SX)
  /-- SPST (R92) -/
  | spst (f : SX)
  /-- SYSRD (R93) -/
  | sysrd (f : SX)
  /-- SYSWR (R93) -/
  | syswr (f : SX)
  /-- CAPQ (R95) -/
  | capq (f : SX)
  /-- HLD (R98) -/
  | hld (f : SH)
  /-- HST (R98) -/
  | hst (f : SH)
  /-- HSET (R99) -/
  | hset (f : SH)
  /-- HGET (R99) -/
  | hget (f : SH)
  /-- HMOV (R98) -/
  | hmov (f : SH)
  /-- PCFG (R103) -/
  | pcfg (f : SH)
  /-- PSET (R104) -/
  | pset (f : SH)
  /-- PGET (R104) -/
  | pget (f : SH)
  /-- VADD (R152) -/
  | vadd (f : VF)
  /-- VSUB (R152) -/
  | vsub (f : VF)
  /-- VMUL (R152) -/
  | vmul (f : VF)
  /-- VFMA (R152) -/
  | vfma (f : VF)
  /-- VFMS (R152) -/
  | vfms (f : VF)
  /-- VMAX (R152) -/
  | vmax (f : VF)
  /-- VMIN (R152) -/
  | vmin (f : VF)
  /-- VABS (R152) -/
  | vabs (f : VF)
  /-- VNEG (R152) -/
  | vneg (f : VF)
  /-- VRCP (R154) -/
  | vrcp (f : VF)
  /-- VRSQ (R154) -/
  | vrsq (f : VF)
  /-- VEXP2 (R154) -/
  | vexp2 (f : VF)
  /-- VLOG2 (R154) -/
  | vlog2 (f : VF)
  /-- VTANH (R154) -/
  | vtanh (f : VF)
  /-- VAND (R155) -/
  | vand (f : VF)
  /-- VOR (R155) -/
  | vor (f : VF)
  /-- VXOR (R155) -/
  | vxor (f : VF)
  /-- VSHL (R155) -/
  | vshl (f : VF)
  /-- VSHR (R155) -/
  | vshr (f : VF)
  /-- VSAR (R155) -/
  | vsar (f : VF)
  /-- VCEQ (R156) -/
  | vceq (f : VF)
  /-- VCLT (R156) -/
  | vclt (f : VF)
  /-- VCLE (R156) -/
  | vcle (f : VF)
  /-- VSEL (R157) -/
  | vsel (f : VF)
  /-- VCVT (R158) -/
  | vcvt (f : VF)
  /-- VQNT (R161) -/
  | vqnt (f : VF)
  /-- VDQ (R162) -/
  | vdq (f : VF)
  /-- VSRND (R159) -/
  | vsrnd (f : VF)
  /-- VSCAL (R160) -/
  | vscal (f : VF)
  /-- VREDSUM (R163) -/
  | vredsum (f : VF)
  /-- VREDMAX (R163) -/
  | vredmax (f : VF)
  /-- VREDMIN (R163) -/
  | vredmin (f : VF)
  /-- VBCAST (R164) -/
  | vbcast (f : VF)
  /-- VEXTR (R164) -/
  | vextr (f : VF)
  /-- VPERM (R165) -/
  | vperm (f : VF)
  /-- VMOV (R166) -/
  | vmov (f : VF)
  /-- VZERO (R166) -/
  | vzero (f : VF)
  /-- VACC (R168) -/
  | vacc (f : VF)
  /-- VACCW (R168) -/
  | vaccw (f : VF)
  /-- VADAM (R170) -/
  | vadam (f : VF)
  /-- VSGDM (R171) -/
  | vsgdm (f : VF)
  /-- VBFPN (R169) -/
  | vbfpn (f : VF)
  /-- MOP (R183) -/
  | mop (f : MA)
  /-- MMAC (R183) -/
  | mmac (f : MA)
  /-- MBFP (R183) -/
  | mbfp (f : MA)
  /-- MZERO (R184) -/
  | mzero (f : MA)
  /-- MDRAIN (R185) -/
  | mdrain (f : MA)
  /-- MLOAD (R188) -/
  | mload (f : MA)
  /-- MSAVE (R188) -/
  | msave (f : MA)
  /-- MLEND (R189) -/
  | mlend (f : MA)
  /-- MRECL (R190) -/
  | mrecl (f : MA)
  /-- MCFG (R184) -/
  | mcfg (f : MA)
  /-- MREALN (R191) -/
  | mrealn (f : MA)
  /-- KNSET (R200) -/
  | knset (f : MA)
  /-- KNGET (R200) -/
  | knget (f : MA)
  /-- SPLLD (R206) -/
  | splld (f : MA)
  /-- SPLST (R206) -/
  | splst (f : MA)
  /-- SPLEV (R202) -/
  | splev (f : MA)
  /-- SPLBWD (R203) -/
  | splbwd (f : MA)
  /-- SPLGS (R204) -/
  | splgs (f : MA)
  /-- SPLGX (R205) -/
  | splgx (f : MA)
  /-- SPLCNT (R208) -/
  | splcnt (f : MA)
  /-- LD (R211) -/
  | ld (f : LS)
  /-- SLD (R213) -/
  | sld (f : LS)
  /-- GLD (R219) -/
  | gld (f : LS)
  /-- GLDR (R220) -/
  | gldr (f : LS)
  /-- TMRD (R225) -/
  | tmrd (f : LS)
  /-- WMRD (R226) -/
  | wmrd (f : LS)
  /-- PREF (R227) -/
  | pref (f : LS)
  /-- ST (R212) -/
  | st (f : LS)
  /-- SST (R214) -/
  | sst (f : LS)
  /-- GST (R221) -/
  | gst (f : LS)
  /-- GSTR (R222) -/
  | gstr (f : LS)
  /-- SFE (R215) -/
  | sfe (f : LS)
  /-- WMC (R232) -/
  | wmc (f : LS)
  /-- DPOP (R229) -/
  | dpop (f : LS)
  /-- CPY (R303) -/
  | cpy (f : CE)
  /-- CPY2 (R306) -/
  | cpy2 (f : CE)
  /-- CPYG (R305) -/
  | cpyg (f : CE)
  /-- CPYS (R305) -/
  | cpys (f : CE)
  /-- CPYX (R305) -/
  | cpyx (f : CE)
  /-- CPYR (R308) -/
  | cpyr (f : CE)
  /-- CPYO (R304) -/
  | cpyo (f : CE)
  /-- CPYQ (R310) -/
  | cpyq (f : CE)
  /-- CPYK (R311) -/
  | cpyk (f : CE)
  /-- CADD (R292) -/
  | cadd (f : YA)
  /-- CADDI (R292) -/
  | caddi (f : YA)
  /-- CWAIT (R296) -/
  | cwait (f : YA)
  /-- CRD (R295) -/
  | crd (f : YA)
  /-- CFLG (R292) -/
  | cflg (f : YA)
  /-- CCEIL (R294) -/
  | cceil (f : YA)
  /-- AMADD (R299) -/
  | amadd (f : YA)
  /-- AMAX (R299) -/
  | amax (f : YA)
  /-- AMIN (R299) -/
  | amin (f : YA)
  /-- ASWP (R299) -/
  | aswp (f : YA)
  /-- ACAS (R299) -/
  | acas (f : YA)
  /-- AAND (R299) -/
  | aand (f : YA)
  /-- AOR (R299) -/
  | aor (f : YA)
  /-- AFADD (R301) -/
  | afadd (f : YA)
  /-- BARR (R239) -/
  | barr (f : YA)
  /-- BWAIT (R240) -/
  | bwait (f : YA)
  /-- BARQ (R241) -/
  | barq (f : YA)
  /-- TMOPN (R332) -/
  | tmopn (f : YA)
  /-- TMCLS (R324) -/
  | tmcls (f : YA)
  /-- TMGOV (R334) -/
  | tmgov (f : YA)
  /-- TMSET (R333) -/
  | tmset (f : YA)
  /-- TMFLT (R332) -/
  | tmflt (f : YA)
  /-- SPAWN (R369) -/
  | spawn (f : YA)
  /-- ROUTE (R392) -/
  | route (f : YA)
  /-- RTVER (R393) -/
  | rtver (f : YA)
  /-- WGL (R438) -/
  | wgl (f : YA)
  /-- WGLQ (R448) -/
  | wglq (f : YA)
  /-- WGLK (R446) -/
  | wglk (f : YA)
  /-- RESERVE (R277) -/
  | reserve (c : CoreId) (home : Nat)
  /-- APPLY (R276) -/
  | apply (c : CoreId) (home : Nat)
  /-- APPLY_ADD (R292) -/
  | applyAdd (ctr : Nat) (va : Word) (n : Word) (fl : BitVec 32) (src : Source) (t : Nat)
  /-- APPLY_CFLG (R292) -/
  | applyCflg (ctr : Nat) (b : BitVec 32) (t : Nat)
  /-- APPLY_CEIL (R294) -/
  | applyCeil (ctr : Nat) (va : Word) (v : Word) (src : Source) (t : Nat)
  /-- CWAIT_WAKE (R297) -/
  | cwaitWake (c : CoreId) (flags : BitVec 32) (t : Nat)
  /-- BWAIT_RETURN (R240) -/
  | bwaitReturn (c : CoreId)
  /-- COPY_LAUNCH_ACCEPT (R303) -/
  | copyLaunchAccept (cl : ClusterId)
  /-- COPY_PIECE (R304) -/
  | copyPiece (op : Nat) (k : Nat)
  /-- FLUSH_REQUEST (R324) -/
  | flushRequest (c : CoreId) (rec : Nat)
  /-- CLOSE_PUBLICATION (R327) -/
  | closePublication (rec : Nat)
  /-- DESCRIPTOR_FETCH (R359) -/
  | descriptorFetch (rnum : Nat)
  /-- DEPENDENCY_MET (R360) -/
  | dependencyMet (tser : Nat) (k : Nat) (flags : BitVec 32)
  /-- QUANTUM_EXPIRY (R366) -/
  | quantumExpiry (tser : Nat) (gix : Nat)
  /-- TASK_COMPLETE (R367) -/
  | taskComplete (tser : Nat)
  /-- FAULT_REPORT (R372) -/
  | faultReport (r : FaultReport)
  /-- MIGRATE_TRAP_RECEIPT (R380) -/
  | migrateTrapReceipt (c : CoreId)
  /-- SPAWN_APPEND (R369) -/
  | spawnAppend (rcb : Word) (desc : Word) (tser : Nat) (t : Nat)
  /-- ROUTE_CHOICE (R392) -/
  | routeChoice (k : Nat)
  /-- ROUTE_DELIVERY (R392) -/
  | routeDelivery (k : Nat)
  /-- ROUTED_ADD (R392) -/
  | routedAdd (k : Nat)
  /-- SWARM_SAMPLE (R394) -/
  | swarmSample (tab : Nat)
  /-- REPLICA_COPY_DONE (R395) -/
  | replicaCopyDone (sw : Nat)
  /-- REPLICA_COPY_STOP (R395) -/
  | replicaCopyStop (sw : Nat)
  /-- REDIRECTION (R396) -/
  | redirection (sw : Nat)
  /-- GRADIENT_MERGE (R398) -/
  | gradientMerge (tab : Nat)
  /-- WAGGLE_LAUNCH (R438) -/
  | waggleLaunch (k : Nat)
  /-- SIGNATURE_AGREEMENT (R439) -/
  | signatureAgreement (k : Nat)
  /-- WSEND (R443) -/
  | wsend (f : WP)
  /-- WRECV (R443) -/
  | wrecv (f : WP)
  /-- WRRS (R444) -/
  | wrrs (f : WR)
  /-- WCOPY (R443) -/
  | wcopy (f : WC)
  /-- WWAIT (R443) -/
  | wwait (thr : BitVec 48)
  /-- WSIG (R443) -/
  | wsig (n : BitVec 20)
  /-- WLOOP (R440) -/
  | wloop (cnt : BitVec 32)
  /-- WAGREE (R443) -/
  | wagree (buf : BitVec 2) (off : BitVec 32)
  /-- CHUNK_ARRIVAL (R445) -/
  | chunkArrival (m : ChunkMsg)
  /-- WAGGLE_ABORT (R446) -/
  | waggleAbort (tag : Nat) (launch : Nat) (poison : Bool)
  /-- GLODRIC_MESSAGE (R428) -/
  | glodricMessage (m : GMsg)
  /-- DESTINATION_TIMEOUT (R428) -/
  | destinationTimeout (m : BitVec 17)
  /-- BISNPINV (R431) -/
  | bisnpinv (line : Nat)
  /-- BISNPDATA (R431) -/
  | bisnpdata (line : Nat)
  /-- BISNPCUR (R431) -/
  | bisnpcur (line : Nat)
  /-- SNOOP_PIN_TIMEOUT (R431) -/
  | snoopPinTimeout (line : Nat)
  /-- MEMWR_COMPLETION (R431) -/
  | memwrCompletion (line : Nat) (refused : Bool)
  /-- LINE_POISONED (R433) -/
  | linePoisoned (line : Nat)
  /-- INBOUND_WRITE (R286) -/
  | inboundWrite (link : Nat) (off : BitVec 36) (data : List Byte)
  /-- INVALIDATION_DONE (R267) -/
  | invalidationDone (ctr : Nat)
  /-- LOCK_DONE (R268) -/
  | lockDone (ctr : Nat)
  /-- RENEW (R277) -/
  | renew (c : CoreId) (line : Nat)
  /-- SWITCH_SLOT_LOSS (R445) -/
  | switchSlotLoss (k : Nat) (inst : Nat) (chunk : Nat)
  /-- REPLICA_LOSS (R396) -/
  | replicaLoss (tab : Nat) (e : Nat) (r : Nat)
  /-- REPLICA0_LOSS (R397) -/
  | replica0Loss (tab : Nat) (e : Nat)
  /-- BAR2_READ (R340) -/
  | bar2Read (link : Nat) (off : BitVec 36) (n : Nat)
  /-- RESULT_LANDS (R30) -/
  | resultLands (c : CoreId)
  /-- SCRATCHPAD_WRITE_LANDS (R121) -/
  | scratchpadWriteLands (c : CoreId)
  /-- DEBUG_RESTART (R41) -/
  | debugRestart (c : CoreId)
  /-- GRANT (R273) -/
  | grant (c : CoreId) (line : Nat)
  /-- STAMP_RAISE (R274) -/
  | stampRaise (home : Nat)
  /-- BARRIER_ARRIVAL (R237) -/
  | barrierArrival (c : CoreId) (seg : Nat) (t : Nat)
  /-- DELTA_FLUSH (R321) -/
  | deltaFlush (c : CoreId) (slot : Nat)
  /-- LAUNCH (R339) -/
  | launch (root : Word)
  /-- DIE_FAULT (R366) -/
  | dieFault (die : Nat)
  /-- CORE_WITHDRAWN (R242) -/
  | coreWithdrawn (c : CoreId)
  /-- GLODRIC_PORT_WITHDRAWN (R428) -/
  | glodricPortWithdrawn (p : Nat)
  /-- LINK_WITHDRAWN (R261) -/
  | linkWithdrawn (bit : Nat)
  /-- MEMRD_COMPLETION (R431) -/
  | memrdCompletion (line : Nat) (r : PoolReply)
  /-- CXL_PORT_DOWN (R433) -/
  | cxlPortDown (p : Nat)
  /-- COMB_SRAM_ERROR (R256) -/
  | combSramError (home : Nat)
  /-- HOST_COUNTER_ADD (R341) -/
  | hostCounterAdd (amt : BitVec 32) (fl : BitVec 32)
  /-- INVALIDATION (R267) -/
  | invalidation (d : BitVec 256)
  /-- PAGE_LOCK (R268) -/
  | pageLock (d : BitVec 128)
  /-- PAGE_UNLOCK (R268) -/
  | pageUnlock (d : BitVec 128)
  /-- COUNTER_WATCH (R342) -/
  | counterWatch (i : Nat) (w : Word)
  /-- REGISTER_WRITE (R338) -/
  | registerWrite (off : BitVec 16) (w : Word)
  /-- NEGOTIATE_ALGORITHMS (R350) -/
  | negotiateAlgorithms (algs : BitVec 64)
  /-- GET_CERTIFICATE (R350) -/
  | getCertificate (slot : BitVec 8) (off : BitVec 16) (len : BitVec 16)
  /-- CHALLENGE (R350) -/
  | challenge (slot : BitVec 8) (nonce : BitVec 256)
  /-- GET_MEASUREMENTS (R350) -/
  | getMeasurements (idx : BitVec 8)
  /-- DBGCTL_WRITE (R21) -/
  | dbgctlWrite (c : CoreId) (w : Word)
  /-- DOMAIN_TABLE_WRITE (R425) -/
  | domainTableWrite (t : DomainTable)
  /-- CXL_PORT_RETURN_TO_SERVICE (R433) -/
  | cxlPortReturnToService (p : Nat)
  /-- ABAVAS_MAILBOX_MESSAGE (R342) -/
  | abavasMailboxMessage (m : Word)
  /-- MEMINV_COMPLETION (R431) -/
  | meminvCompletion (line : Nat)
  /-- CHECKPOINT (R22) -/
  | checkpoint
  /-- ORDERED_BUNDLE (R31) -/
  | orderedBundle
  /-- BREAKPOINT (R44) -/
  | breakpoint
  /-- LBRK (R89) -/
  | lbrk
  /-- ERET (R37) -/
  | eret
  /-- HALT (R26) -/
  | halt
  /-- SPLGZ (R205) -/
  | splgz
  /-- GRIDREF (R207) -/
  | gridref
  /-- YIELD (R369) -/
  | yield
  /-- PIN_TOKEN_GRANT (R279) -/
  | pinTokenGrant
  /-- SCHEDULER_ROUND (R363) -/
  | schedulerRound
  /-- SCHEDULER_TAKEOVER (R374) -/
  | schedulerTakeover
  /-- WENDL (R440) -/
  | wendl
  /-- WFLAGS (R443) -/
  | wflags
  /-- WEND (R443) -/
  | wend
  /-- WARM_RESET (R347) -/
  | warmReset
  /-- COLD_RESET (R347) -/
  | coldReset
  /-- ABAVAS_TAKEOVER (R349) -/
  | abavasTakeover
  /-- THROTTLING (R351) -/
  | throttling
  /-- GET_VERSION (R350) -/
  | getVersion
  /-- GET_CAPABILITIES (R350) -/
  | getCapabilities
  /-- GET_DIGESTS (R350) -/
  | getDigests
  /-- THROTTLING_END (R351) -/
  | throttlingEnd
deriving DecidableEq, Repr

end Sys2Proof
end

