-- ==== Sys2Proof/WellFormed.lean ====
section
/-! DEFINITION. Well-formed instructions: the operand limits of every slot instruction's entry and of every waggle step
(02 R49-R56, R66-R68 and the entries of 03, 06-10, 13, 14, 16, 18, 24). A syllable whose operands break one of these raises the
illegal-encoding trap at decode (02 R67). An event has no encoding and every event is well formed. -/

namespace Sys2Proof

/-- A scalar destination field: bit 5 is 0 (02 R49). -/
def dstOk (r : BitVec 6) : Bool := r < 32

/-- A vector source selector of 02 R50: p0-p5, d0-d3 or a broadcast. -/
def selOk (v : BitVec 6) : Bool := v < 6 || (8 ≤ v && v < 12) || 32 ≤ v

/-- A vector source selector under an operand type: no broadcast under mx4 (06 R148). -/
def selTy (v : BitVec 6) (ty : BitVec 4) : Bool := selOk v && !(ty == 4 && 32 ≤ v)

/-- A write-port destination q0-q3 (02 R51). -/
def portDst (v : BitVec 8) : Bool := 0x10 ≤ v && v < 0x14

/-- A scalar destination of a reduction or `vextr` (02 R51). -/
def scalDst (v : BitVec 8) : Bool := 0x20 ≤ v && v < 0x40

/-- An accumulator-row destination (02 R51): VB only. -/
def rowDst (f : VF) : Bool := f.slotB && 0x80 ≤ f.vd

/-- A rounding field 0, 1 or 2 (02 R53). -/
def rndOk (r : BitVec 2) : Bool := r != 3

/-- The port names of format SH: 0-5 and 8-11 (02 R56). -/
def portOk (x : BitVec 4) : Bool := x < 6 || (8 ≤ x && x < 12)

/-- Number of elements of a 512-bit vector (06 R147). -/
def elems (ty : BitVec 4) : Nat :=
  match ty.toNat with
  | 0 => 16 | 1 => 32 | 2 => 64 | 3 => 64 | 4 => 64 | 5 => 64 | 6 => 16 | 7 => 16 | _ => 0

/-- A floating type f32 or bf16. -/
def tyFB (ty : BitVec 4) : Bool := ty == 0 || ty == 1

/-- An integer type i8 or i32. -/
def tyInt (ty : BitVec 4) : Bool := ty == 5 || ty == 6

/-- A type of 02 R52 other than governed. -/
def tyAny (ty : BitVec 4) : Bool := ty < 8

/-- A type a data-movement instruction takes: any but mx4 (06 R157, R164, R165). -/
def tyMove (ty : BitVec 4) : Bool := ty < 8 && ty != 4

/-- The two-operand arithmetic of 06 R151. -/
def wfArith2 (f : VF) : Bool :=
  portDst f.vd && selOk f.va && selOk f.vb && f.vc == 0 && f.tyd == 0 && f.ctl == 0 &&
    ((tyFB f.ty && rndOk f.rnd) || (tyInt f.ty && f.rnd == 0))

/-- The fused operations of 06 R151: floating only. -/
def wfArith3 (f : VF) : Bool :=
  portDst f.vd && selOk f.va && selOk f.vb && selOk f.vc && f.tyd == 0 && f.ctl == 0 && tyFB f.ty && rndOk f.rnd

/-- `vabs` and `vneg` (06 R151). -/
def wfArith1 (f : VF) : Bool :=
  portDst f.vd && selOk f.va && f.vb == 0 && f.vc == 0 && f.tyd == 0 && f.ctl == 0 &&
    ((tyFB f.ty && rndOk f.rnd) || (tyInt f.ty && f.rnd == 0))

/-- The transcendentals (06 R154): with ty f32 the rounding field is 0. -/
def wfTrans (f : VF) : Bool :=
  portDst f.vd && selOk f.va && f.vb == 0 && f.vc == 0 && f.tyd == 0 && f.ctl == 0 &&
    ((f.ty == 0 && f.rnd == 0) || (f.ty == 1 && rndOk f.rnd))

/-- The bitwise operations (06 R155). -/
def wfBit (f : VF) : Bool :=
  portDst f.vd && selOk f.va && selOk f.vb && f.vc == 0 && f.tyd == 0 && f.ctl == 0 && tyInt f.ty && f.rnd == 0

/-- The shifts (06 R155): an immediate count with ctl[11] = 1, a vector count otherwise. -/
def wfShift (f : VF) : Bool :=
  portDst f.vd && selOk f.va && f.vc == 0 && f.tyd == 0 && tyInt f.ty && f.rnd == 0 &&
    (if f.ctl.getLsbD 11 then
      f.vb == 0 && f.ctl.extractLsb' 5 6 == 0 && (f.ty == 6 || f.ctl.extractLsb' 0 5 < 8)
    else selOk f.vb && f.ctl == 0)

/-- The comparisons (06 R156); `u` tells whether ctl[0] is allowed with an integer type. -/
def wfCmp (f : VF) (u : Bool) : Bool :=
  portDst f.vd && selOk f.va && selOk f.vb && f.vc == 0 && f.tyd == 0 && f.rnd == 0 &&
    ((f.ty < 4 && f.ctl == 0) || (tyInt f.ty && (f.ctl == 0 || (u && f.ctl == 1))))

/-- `vcvt` (06 R158): the sources the element counts fix, and `part`. -/
def wfVcvt (f : VF) : Bool :=
  let ns := elems f.ty
  let nd := elems f.tyd
  portDst f.vd && tyAny f.ty && tyAny f.tyd && rndOk f.rnd && (f.tyd != 7 || f.rnd == 0) &&
    selTy f.va f.ty && f.ctl.extractLsb' 8 4 == 0 &&
    (if nd = ns then f.vb == 0 && f.vc == 0 && f.ctl == 0
     else if nd = 2 * ns then selTy f.vb f.ty && f.vc == 0 && f.ctl == 0
     else if nd = 4 * ns then
       selTy f.vb f.ty && selTy f.vc f.ty && selTy (f.ctl.extractLsb' 0 6) f.ty && f.ctl.extractLsb' 6 2 == 0
     else f.vb == 0 && f.vc == 0 && f.ctl.extractLsb' 0 6 == 0 && (f.ctl.extractLsb' 6 2).toNat < ns / nd)

/-- `vqnt` (06 R161). -/
def wfVqnt (f : VF) : Bool :=
  portDst f.vd && f.tyd == 15 && tyFB f.ty && rndOk f.rnd && selOk f.va && selOk f.vb && selOk f.vc &&
    selOk (f.ctl.extractLsb' 4 6) && f.ctl.extractLsb' 10 2 == 0

/-- `vdq` (06 R162). -/
def wfVdq (f : VF) : Bool :=
  portDst f.vd && f.ty == 15 && tyFB f.tyd && rndOk f.rnd && selOk f.va && 32 ≤ f.vb && f.vc == 0 &&
    f.ctl.extractLsb' 4 4 == 0 && f.ctl.extractLsb' 10 2 == 0

/-- `vsrnd` (06 R159): tyd narrower than ty. -/
def wfVsrnd (f : VF) : Bool :=
  portDst f.vd && selOk f.va && f.vb == 0 && f.vc == 0 && f.ctl == 0 && rndOk f.rnd &&
    ((f.ty == 0 && (f.tyd == 1 || f.tyd == 2 || f.tyd == 3)) || (f.ty == 1 && (f.tyd == 2 || f.tyd == 3)))

/-- `vscal` (06 R160). In the register form ctl[8:0], which has no use there, is reserved like every unused bit (02 R55), though the entry asks
for 0 in ctl[10:9] alone (DEDUCED, log entry 132). -/
def wfVscal (f : VF) : Bool :=
  portDst f.vd && selOk f.va && f.vc == 0 && f.tyd == 0 && tyFB f.ty && rndOk f.rnd && f.ctl.extractLsb' 9 2 == 0 &&
    (if f.ctl.getLsbD 11 then f.vb == 0 else 32 ≤ f.vb && f.ctl == 0)

/-- The reductions (06 R163). An integer reduction to a scalar does not round, so its rounding field is 0 (02 R53). -/
def wfRed (f : VF) : Bool :=
  (portDst f.vd || scalDst f.vd) && selOk f.va && f.vb == 0 && f.vc == 0 && f.ctl == 0 &&
    ((tyFB f.ty && tyFB f.tyd && rndOk f.rnd) ||
     (tyInt f.ty && f.tyd == 6 && (if scalDst f.vd then f.rnd == 0 else rndOk f.rnd)))

/-- `vbcast` and `vextr` (06 R164): the lane index lies below n(ty). -/
def wfLane (f : VF) (dst : Bool) : Bool :=
  dst && selOk f.va && f.vb == 0 && f.vc == 0 && f.tyd == 0 && f.rnd == 0 && tyMove f.ty &&
    f.ctl.extractLsb' 6 6 == 0 && f.ctl.toNat < elems f.ty

/-- `vperm` (06 R165). -/
def wfVperm (f : VF) : Bool :=
  let kind := f.ctl.extractLsb' 8 4
  let par := f.ctl.extractLsb' 0 8
  portDst f.vd && selOk f.va && f.vc == 0 && f.tyd == 0 && f.rnd == 0 && tyMove f.ty && kind < 7 &&
    (if kind == 0 then par.toNat < elems f.ty && f.vb == 0
     else par == 0 && (if kind == 1 then f.vb == 0 else selOk f.vb))

/-- `vmov` (06 R166, R167). -/
def wfVmov (f : VF) : Bool :=
  (portDst f.vd || rowDst f) && selTy f.va f.ty && tyAny f.ty && f.vb == 0 && f.vc == 0 && f.tyd == 0 && f.rnd == 0 && f.ctl == 0

/-- `vzero` (06 R166, R167). -/
def wfVzero (f : VF) : Bool :=
  (portDst f.vd || rowDst f) && f.va == 0 && f.vb == 0 && f.vc == 0 && f.ty == 0 && f.tyd == 0 && f.rnd == 0 && f.ctl == 0

/-- `vacc` (06 R168). -/
def wfVacc (f : VF) : Bool :=
  rowDst f && selOk f.va && tyFB f.ty && f.vb == 0 && f.vc == 0 && f.tyd == 0 && f.rnd == 0 && f.ctl == 0

/-- `vaccw` (06 R168): r is a multiple of the number of rows written. -/
def wfVaccw (f : VF) : Bool :=
  rowDst f && selOk f.va && (f.ty == 1 || f.ty == 2 || f.ty == 3) && f.vb == 0 && f.vc == 0 && f.tyd == 0 &&
    f.rnd == 0 && f.ctl == 0 && (f.vd.toNat % 16) % (elems f.ty / 16) == 0

/-- `vadam` (06 R170). -/
def wfVadam (f : VF) : Bool :=
  f.slotB && portDst f.vd && selOk f.va && selOk f.vb && selOk f.vc && f.ty == 0 && f.tyd == 0 && f.rnd == 0 &&
    f.ctl.extractLsb' 7 5 == 0 && f.ctl.extractLsb' 5 2 != 3 && f.ctl.extractLsb' 0 5 != 0 && f.ctl.extractLsb' 0 5 != 31

/-- `vsgdm` (06 R171). -/
def wfVsgdm (f : VF) : Bool :=
  f.slotB && portDst f.vd && selOk f.va && selOk f.vb && selOk f.vc && f.ty == 0 && f.tyd == 0 && f.rnd == 0 &&
    f.ctl.extractLsb' 7 5 == 0 && f.ctl.extractLsb' 5 2 < 2 && f.ctl.extractLsb' 0 5 != 0

/-- `vbfpn` (06 R169). -/
def wfVbfpn (f : VF) : Bool :=
  rowDst f && f.vd.extractLsb' 0 2 == 0 && f.va == 0 && f.vb == 0 && f.vc == 0 && f.ty == 7 && f.tyd == 0 && f.rnd == 0 && f.ctl == 0

/-- `mop`, `mmac` and `mbfp` (07 R177, R182); `top` is the first control bit that must be 0. -/
def wfMop (f : MA) (top : Nat) : Bool :=
  f.bd == 0 && f.reg == 0 && f.rnd == 0 && selTy f.va f.ty && selTy f.vb f.ty && f.ctl.toNat < 2 ^ top &&
    (((f.ty == 2 || f.ty == 3) && (f.tyd == 0 || f.tyd == 2 || f.tyd == 3)) || ((f.ty == 1 || f.ty == 4) && f.tyd == 0))

/-- The M-slot forms that use the bank alone (07 R177): `mzero`, `mrecl`, and `mlend` with its borrower in ctl. -/
def wfBank (f : MA) (ctlMax : Nat) : Bool :=
  f.bd == 0 && f.va == 0 && f.vb == 0 && f.reg == 0 && f.ty == 0 && f.tyd == 0 && f.rnd == 0 && f.ctl.toNat ≤ ctlMax

/-- `mdrain` (07 R177, R185). -/
def wfMdrain (f : MA) : Bool :=
  f.bd < 4 && f.va == 0 && f.vb == 0 && f.ty == 0 && tyAny f.tyd && rndOk f.rnd && f.ctl.toNat ≤ 1 &&
    (f.tyd != 7 || (f.rnd == 0 && f.reg == 0))

/-- `mload` and `msave` (07 R177, R187). -/
def wfPark (f : MA) : Bool :=
  f.bd == 0 && f.va == 0 && f.vb == 0 && (f.ty == 0 || f.ty == 7) && f.tyd == 0 && f.rnd == 0 && f.ctl.extractLsb' 12 2 != 3

/-- `mcfg` (07 R177). -/
def wfMcfg (f : MA) : Bool :=
  f.bd == 0 && f.va == 0 && f.vb == 0 && f.reg == 0 && (f.ty == 0 || f.ty == 7) && f.tyd == 0 && f.rnd == 0 && f.ctl == 0

/-- `mrealn` (07 R177, R191). -/
def wfMrealn (f : MA) : Bool :=
  f.bd == 0 && f.va == 0 && f.vb == 0 && f.ty == 7 && f.tyd == 0 && f.rnd == 0 && f.ctl.extractLsb' 5 9 == 0 &&
    f.ctl.extractLsb' 0 4 != 0 && (!f.ctl.getLsbD 4 || f.reg == 0)

/-- `knset` and `knget` (08 R198). -/
def wfKn (f : MA) : Bool :=
  f.bk == 0 && f.bd < 4 && f.va == 0 && f.vb == 0 && f.ty == 0 && f.tyd == 0 && f.rnd == 0 && f.ctl == 0

/-- `splld` (08 R198). -/
def wfSplld (f : MA) : Bool :=
  f.bk == 0 && f.bd == 0 && f.va == 0 && f.vb == 0 && f.tyd == 0 && f.ctl.extractLsb' 4 2 != 3 &&
    ((f.ty == 1 && f.rnd == 0) || (f.ty == 0 && rndOk f.rnd))

/-- `splst` and `splgx` (08 R198); `alt` is the second type beside f32. -/
def wfSplst (f : MA) (alt : BitVec 4) : Bool :=
  f.bk == 0 && f.bd == 0 && f.va == 0 && f.vb == 0 && f.ty == 0 && (f.tyd == 0 || f.tyd == alt) && f.rnd == 0 &&
    f.ctl.extractLsb' 4 2 != 3

/-- `splev` (08 R198). -/
def wfSplev (f : MA) : Bool :=
  f.bk == 0 && f.bd == 0 && selOk f.va && f.vb == 0 && f.reg == 0 && tyFB f.ty && f.tyd == 0 && f.rnd == 0 && f.ctl.toNat < 64

/-- `splbwd` and `splgs` (08 R198). -/
def wfSplbwd (f : MA) (ctlMax : Nat) : Bool :=
  f.bk == 0 && f.bd == 0 && selOk f.va && selOk f.vb && f.reg == 0 && f.ty == 0 && f.tyd == 0 && f.rnd == 0 && f.ctl.toNat ≤ ctlMax

/-- `splcnt` (08 R198). -/
def wfSplcnt (f : MA) : Bool :=
  f.bk == 0 && f.bd == 0 && f.va == 0 && f.vb == 0 && dstOk f.reg && f.ty == 0 && f.tyd == 0 && f.rnd == 0 && f.ctl.toNat < 4

/-- f0 as a scalar or vector source: [55:54] are 0 (02 R59). -/
def f0Src (f : LS) : Bool := f.f0 < 64

/-- f0 as a scalar destination (02 R49, R59). -/
def f0Dst (f : LS) : Bool := f.f0 < 32

/-- f0 as a vector source selector (02 R50, R59). -/
def f0Sel (f : LS) : Bool := f.f0 < 64 && selOk (f.f0.setWidth 6)

/-- `ld` and `sld` (09 R209): ty 0 or i32. -/
def wfLd (f : LS) (fe : Bool) : Bool :=
  f0Dst f && f.h == 0 && (f.ty == 0 || f.ty == 6) && f.rnd == 0 && (if fe then f.fe != 3 else f.fe == 0)

/-- `gld` (09 R209, R219). -/
def wfGld (f : LS) : Bool :=
  f0Src f && rndOk f.rnd && f.fe != 3 && f.sz < 2 && f.ty < 7 && (f.ty != 4 || f.sz == 1)

/-- `gldr` (09 R209, R220). -/
def wfGldr (f : LS) : Bool :=
  f0Src f && f.rnd == 0 && f.fe != 3 && f.sz < 2 && (f.ty < 8 || f.ty == 15)

/-- `gst` (09 R209, R221). -/
def wfGst (f : LS) : Bool :=
  f0Sel f && f.rnd == 0 && f.fe == 0 && f.disp == 0 && selTy (f.f0.setWidth 6) f.ty &&
    ((f.sz == 0 && f.ty < 8 && f.ty != 4) || (f.sz == 1 && (f.ty == 2 || f.ty == 3 || f.ty == 5 || f.ty == 4)))

/-- `gstr` (09 R209, R222). -/
def wfGstr (f : LS) : Bool :=
  f0Sel f && f.rnd == 0 && f.fe == 0 && f.disp == 0 && selTy (f.f0.setWidth 6) f.ty && f.sz < 2 && (f.ty < 8 || f.ty == 15)

/-- `tmrd` (09 R209). -/
def wfTmrd (f : LS) : Bool :=
  f0Dst f && f.base == 0 && f.idx == 0 && f.ty == 0 && f.rnd == 0 && f.fe == 0 && f.sz == 0 && f.disp < 16

/-- The address forms without handle, type or rounding (09 R209). -/
def wfPlain (f : LS) : Bool := f.h == 0 && f.ty == 0 && f.rnd == 0

/-- A watermark operand in a copy's mode (13 R302). -/
def wfWm (mode : BitVec 8) : Bool :=
  mode < 0x40 && mode.extractLsb' 4 2 != 3 && (mode.extractLsb' 0 4 == 0 || mode.extractLsb' 4 2 == 2)

/-- A non-negative 20-bit amount (13 R291, R302). -/
def amtOk (imm : BitVec 20) : Bool := imm < 0x80000

/-- The YA fields besides a, b, c, d and imm that most Y-slot instructions leave 0. -/
def yaPlain (f : YA) : Bool := f.h == 0 && f.seg == 0 && f.wf == 0 && f.ctl == 0

/-- A memory atomic (13 R299). -/
def wfAtomic (f : YA) (u : Bool) : Bool :=
  dstOk f.c && f.d == 0 && f.h == 0 && f.seg == 0 && f.wf == 0 && f.ctl < (if u then 4 else 2)

/-- The optional counter of a TMR instruction (14 R330): s0 names none, and then the amount is 0. -/
def wfTmCtr (f : YA) : Bool :=
  f.c == 0 && f.d == 0 && f.seg == 0 && f.wf == 0 && amtOk f.imm && (f.a.extractLsb' 0 5 != 0 || f.imm == 0)

/-- `wsend` and `wrecv` (24 R440): no multiplier code 3. -/
def wfPeer (f : WP) : Bool := f.pmul != 3 && f.cmul != 3 && f.crk != 3

namespace Instr

/-- The operand limits that the instruction's entry states (02 R67 step 1). -/
def wf : Instr → Bool
  | .add f => dstOk f.rd && f.rc == 0
  | .sub f => dstOk f.rd && f.rc == 0
  | .mul f => dstOk f.rd && f.rc == 0
  | .mulh f => dstOk f.rd && f.rc == 0
  | .mulhu f => dstOk f.rd && f.rc == 0
  | .div f => dstOk f.rd && f.rc == 0
  | .divu f => dstOk f.rd && f.rc == 0
  | .rem f => dstOk f.rd && f.rc == 0
  | .remu f => dstOk f.rd && f.rc == 0
  | .and f => dstOk f.rd && f.rc == 0
  | .or f => dstOk f.rd && f.rc == 0
  | .xor f => dstOk f.rd && f.rc == 0
  | .shl f => dstOk f.rd && f.rc == 0
  | .shr f => dstOk f.rd && f.rc == 0
  | .sar f => dstOk f.rd && f.rc == 0
  | .min f => dstOk f.rd && f.rc == 0
  | .max f => dstOk f.rd && f.rc == 0
  | .minu f => dstOk f.rd && f.rc == 0
  | .maxu f => dstOk f.rd && f.rc == 0
  | .ceq f => dstOk f.rd && f.rc == 0
  | .cne f => dstOk f.rd && f.rc == 0
  | .clt f => dstOk f.rd && f.rc == 0
  | .cle f => dstOk f.rd && f.rc == 0
  | .cltu f => dstOk f.rd && f.rc == 0
  | .cleu f => dstOk f.rd && f.rc == 0
  | .clz f => dstOk f.rd && f.rb == 0 && f.rc == 0
  | .popc f => dstOk f.rd && f.rb == 0 && f.rc == 0
  | .sel f => dstOk f.rd
  | .addi f => dstOk f.rd
  | .andi f => dstOk f.rd
  | .ori f => dstOk f.rd
  | .xori f => dstOk f.rd
  | .ceqi f => dstOk f.rd
  | .clti f => dstOk f.rd
  | .shli f => dstOk f.rd && f.imm < 64
  | .shri f => dstOk f.rd && f.imm < 64
  | .sari f => dstOk f.rd && f.imm < 64
  | .movi f => dstOk f.rd
  | .movhi f => dstOk f.rd && f.imm < 0x100000000
  | .lea f => dstOk f.rd
  | .ext f => dstOk f.rd && f.len != 0 && f.pos.toNat + f.len.toNat ≤ 64
  | .ins f => dstOk f.rd && f.len != 0 && f.pos.toNat + f.len.toNat ≤ 64
  | .br _ => true
  | .brZ _ => true
  | .jmp f => f.ra == 0
  | .call f => f.ra == 0
  | .jr f => f.n == 0 && f.imm == 0
  | .loop f => f.last != 0
  | .loopi f => f.last != 0
  | .lbrk => true
  | .lidx f => dstOk f.reg && f.n < 6 && f.imm == 0
  | .trap f => f.reg == 0 && f.n == 0
  | .eret => true
  | .halt => true
  | .spld f => dstOk f.reg && f.n < 512 && f.imm == 0
  | .spst f => f.n < 512 && f.imm == 0
  | .sysrd f => dstOk f.reg && f.n < 16 && f.imm == 0
  | .syswr f => f.n < 16 && f.imm == 0
  | .capq f => dstOk f.reg && f.n < 14 && f.imm == 0
  | .hld f => f.y == 0 && f.fld == 0
  | .hst f => f.x == 0 && f.fld == 0
  | .hset f => f.y == 0 && f.disp == 0 && f.fld < 12
  | .hget f => dstOk f.reg && f.x == 0 && f.disp == 0 && f.fld < 12
  | .hmov f => f.reg == 0 && f.fld == 0 && f.disp == 0
  | .pcfg f => portOk f.x && f.y == 0 && f.fld == 0
  | .pset f => portOk f.x && f.y == 0 && f.disp == 0 && f.fld < 16
  | .pget f => dstOk f.reg && portOk f.x && f.y == 0 && f.disp == 0 && f.fld < 16
  | .vadd f => wfArith2 f
  | .vsub f => wfArith2 f
  | .vmul f => wfArith2 f
  | .vmax f => wfArith2 f
  | .vmin f => wfArith2 f
  | .vfma f => wfArith3 f
  | .vfms f => wfArith3 f
  | .vabs f => wfArith1 f
  | .vneg f => wfArith1 f
  | .vrcp f => wfTrans f
  | .vrsq f => wfTrans f
  | .vexp2 f => wfTrans f
  | .vlog2 f => wfTrans f
  | .vtanh f => wfTrans f
  | .vand f => wfBit f
  | .vor f => wfBit f
  | .vxor f => wfBit f
  | .vshl f => wfShift f
  | .vshr f => wfShift f
  | .vsar f => wfShift f
  | .vceq f => wfCmp f false
  | .vclt f => wfCmp f true
  | .vcle f => wfCmp f true
  | .vsel f => portDst f.vd && selOk f.va && selOk f.vb && selOk f.vc && tyMove f.ty && f.tyd == 0 && f.rnd == 0 && f.ctl == 0
  | .vcvt f => wfVcvt f
  | .vqnt f => wfVqnt f
  | .vdq f => wfVdq f
  | .vsrnd f => wfVsrnd f
  | .vscal f => wfVscal f
  | .vredsum f => wfRed f
  | .vredmax f => wfRed f
  | .vredmin f => wfRed f
  | .vbcast f => wfLane f (portDst f.vd)
  | .vextr f => wfLane f (scalDst f.vd)
  | .vperm f => wfVperm f
  | .vmov f => wfVmov f
  | .vzero f => wfVzero f
  | .vacc f => wfVacc f
  | .vaccw f => wfVaccw f
  | .vadam f => wfVadam f
  | .vsgdm f => wfVsgdm f
  | .vbfpn f => wfVbfpn f
  | .mop f => wfMop f 2
  | .mmac f => wfMop f 2
  | .mbfp f => wfMop f 3
  | .mzero f => wfBank f 0
  | .mdrain f => wfMdrain f
  | .mload f => wfPark f
  | .msave f => wfPark f
  | .mlend f => wfBank f 1
  | .mrecl f => wfBank f 0
  | .mcfg f => wfMcfg f
  | .mrealn f => wfMrealn f
  | .knset f => wfKn f
  | .knget f => wfKn f && dstOk f.reg
  | .splld f => wfSplld f
  | .splst f => wfSplst f 1
  | .splev f => wfSplev f
  | .splbwd f => wfSplbwd f 63
  | .splgs f => wfSplbwd f 0
  | .splgx f => wfSplst f 7
  | .splgz => true
  | .gridref => true
  | .splcnt f => wfSplcnt f
  | .ld f => wfLd f false
  | .sld f => wfLd f true
  | .gld f => wfGld f
  | .gldr f => wfGldr f
  | .tmrd f => wfTmrd f
  | .wmrd f => f0Dst f && wfPlain f && f.fe == 0 && f.sz == 0
  | .pref f => f.f0 == 0 && wfPlain f && f.fe == 0 && f.sz == 0
  | .st f => f0Src f && wfPlain f && f.fe == 0
  | .sst f => f0Src f && wfPlain f && f.fe != 3
  | .gst f => wfGst f
  | .gstr f => wfGstr f
  | .sfe f => f0Src f && wfPlain f && (f.fe == 0 || f.fe == 2) && f.sz == 0
  | .wmc f => f0Sel f && wfPlain f && (f.fe == 0 || f.fe == 2) && f.sz == 0
  | .dpop f => 8 ≤ f.f0 && f.f0 < 12 && wfPlain f && f.fe != 3 && f.sz == 0
  | .cpy f => f.h == 0 && wfWm f.mode && amtOk f.imm
  | .cpy2 f => f.c == 0 && wfWm f.mode && amtOk f.imm
  | .cpyg f => f.h == 0 && f.mode == 0 && amtOk f.imm
  | .cpys f => f.h == 0 && wfWm f.mode && f.mode.extractLsb' 4 2 != 1 && amtOk f.imm
  | .cpyx f => f.h == 0 && f.mode == 0 && amtOk f.imm
  | .cpyr f => f.h == 0 && f.mode < 3 && amtOk f.imm
  | .cpyo f => f.h == 0 && wfWm f.mode && amtOk f.imm
  | .cpyq f => dstOk f.a && f.c == 0 && f.d == 0 && f.h == 0 && f.mode == 0 && f.imm == 0
  | .cpyk f => f.a == 0 && f.d == 0 && f.h == 0 && f.mode < 8
  | .cadd f => f.c == 0 && f.d == 0 && yaPlain f
  | .cflg f => f.c == 0 && f.d == 0 && yaPlain f
  | .cceil f => f.c == 0 && f.d == 0 && yaPlain f
  | .caddi f => f.b == 0 && f.c == 0 && f.d == 0 && yaPlain f && amtOk f.imm
  | .cwait f => dstOk f.c && f.d == 0 && f.h == 0 && f.seg == 0 && f.ctl == 0
  | .crd f => dstOk f.c && f.b == 0 && f.d == 0 && f.h == 0 && f.seg == 0 && f.wf == 0 && f.ctl < 2
  | .amadd f => wfAtomic f false
  | .amax f => wfAtomic f true
  | .amin f => wfAtomic f true
  | .aswp f => wfAtomic f false
  | .aand f => wfAtomic f false
  | .aor f => wfAtomic f false
  | .acas f => dstOk f.c && f.h == 0 && f.seg == 0 && f.wf == 0 && f.ctl < 2
  | .afadd f => wfAtomic f false && f.ctl == 1
  | .barr f => dstOk f.a && f.b == 0 && f.c == 0 && f.d == 0 && f.h == 0 && f.wf == 0 && f.ctl == 0 && f.imm == 0
  | .bwait f => f.b == 0 && f.c == 0 && f.d == 0 && f.h == 0 && f.wf == 0 && f.ctl == 0 && f.imm == 0
  | .barq f => dstOk f.a && f.b == 0 && f.c == 0 && f.d == 0 && f.h == 0 && f.wf == 0 && f.ctl == 0 && f.imm == 0
  | .tmopn f => f.b == 0 && f.ctl == 0 && wfTmCtr f
  | .tmcls f => f.b == 0 && f.ctl == 0 && wfTmCtr f
  | .tmflt f => f.b == 0 && f.ctl == 0 && wfTmCtr f
  | .tmset f => f.ctl < 4 && wfTmCtr f
  | .tmgov f => f.a == 0 && f.b == 0 && dstOk f.c && f.d == 0 && f.seg == 0 && f.wf == 0 && f.ctl == 0 && f.imm == 0
  | .spawn f => f.c == 0 && f.d == 0 && yaPlain f && f.imm == 0
  | .yield => true
  | .route f => yaPlain f && amtOk f.imm && (f.d.extractLsb' 0 5 != 0 || f.imm == 0)
  | .rtver f => dstOk f.c && f.d == 0 && yaPlain f
  | .wgl f => f.b == 0 && f.c == 0 && f.d == 0 && yaPlain f
  | .wglq f => f.a == 0 && dstOk f.c && f.d == 0 && yaPlain f && f.imm == 0
  | .wglk f => f.a == 0 && f.c == 0 && f.d == 0 && yaPlain f && f.imm == 0
  | .wsend f => wfPeer f
  | .wrecv f => wfPeer f
  | .wrrs f => f.mode != 3
  | .wcopy f => f.low == 0 || (f.src == 0 && f.dst == 0 && (f.low.extractLsb' 32 20 == 1 || f.low.extractLsb' 32 20 == 2))
  | .wwait _ => true
  | .wsig _ => true
  | .wloop cnt => cnt != 0
  | .wendl => true
  | .wagree _ off => off.extractLsb' 0 3 == 0
  | .wflags => true
  | .wend => true
  | .checkpoint => true
  | .orderedBundle => true
  | .breakpoint => true
  | .resultLands _ => true
  | .variableLatencyResult _ _ => true
  | .scratchpadWriteLands _ => true
  | .imageLanding _ _ => true
  | .multicastLanding _ => true
  | .matrixEngineExecute _ => true
  | .splineArrayExecute _ => true
  | .debugRestart _ => true
  | .grant _ _ => true
  | .reserve _ _ => true
  | .renew _ _ => true
  | .apply _ _ => true
  | .pinTokenGrant => true
  | .stampRaise _ => true
  | .applyAdd _ _ _ _ _ _ => true
  | .applyCflg _ _ _ => true
  | .applyCeil _ _ _ _ _ => true
  | .cwaitWake _ _ _ => true
  | .barrierArrival _ _ _ => true
  | .bwaitReturn _ => true
  | .copyLaunchAccept _ => true
  | .copyPiece _ _ => true
  | .deltaFlush _ _ => true
  | .flushRequest _ _ => true
  | .closePublication _ => true
  | .launch _ => true
  | .schedulerRound => true
  | .descriptorFetch _ => true
  | .dependencyMet _ _ _ => true
  | .quantumExpiry _ _ => true
  | .taskComplete _ => true
  | .faultReport _ => true
  | .migrateTrapReceipt _ => true
  | .spawnAppend _ _ _ _ => true
  | .schedulerTakeover => true
  | .dieFault _ => true
  | .coreWithdrawn _ => true
  | .routeChoice _ => true
  | .routeDelivery _ => true
  | .routedAdd _ => true
  | .swarmSample _ => true
  | .replicaCopyDone _ => true
  | .replicaCopyStop _ => true
  | .redirection _ => true
  | .replicaLoss _ _ _ => true
  | .replica0Loss _ _ => true
  | .gradientMerge _ => true
  | .waggleLaunch _ => true
  | .signatureAgreement _ => true
  | .chunkArrival _ => true
  | .switchSlotLoss _ _ _ => true
  | .waggleAbort _ _ _ => true
  | .glodricMessage _ => true
  | .glodricPortWithdrawn _ => true
  | .destinationTimeout _ => true
  | .linkWithdrawn _ => true
  | .bisnpinv _ => true
  | .bisnpdata _ => true
  | .bisnpcur _ => true
  | .snoopPinTimeout _ => true
  | .memrdCompletion _ _ => true
  | .memwrCompletion _ _ => true
  | .meminvCompletion _ => true
  | .cxlPortDown _ => true
  | .cxlPortReturnToService _ => true
  | .linePoisoned _ => true
  | .combSramError _ => true
  | .inboundWrite _ _ _ => true
  | .bar2Read _ _ _ => true
  | .hostCounterAdd _ _ => true
  | .invalidation _ => true
  | .invalidationDone _ => true
  | .pageLock _ => true
  | .pageUnlock _ => true
  | .lockDone _ => true
  | .counterWatch _ _ => true
  | .registerWrite _ _ => true
  | .warmReset => true
  | .coldReset => true
  | .abavasTakeover => true
  | .throttling => true
  | .throttlingEnd => true
  | .getVersion => true
  | .getCapabilities => true
  | .negotiateAlgorithms _ => true
  | .getDigests => true
  | .getCertificate _ _ _ => true
  | .challenge _ _ => true
  | .getMeasurements _ => true
  | .dbgctlWrite _ _ => true
  | .domainTableWrite _ => true
  | .abavasMailboxMessage _ => true

end Instr

end Sys2Proof
end

