-- ==== Sys2Proof/Decode.lean ====
section
/-! DEFINITION. The decoder and the encoder of ONA syllables and waggle steps (02 R45-R47, R56-R65, R68; 24 R440), the whole-bundle
checks of 02 R48 rule 3 and 16 R369, and the decoder of one table word. Both directions are written from the same encoding tables. -/

namespace Sys2Proof

/-- What a 64-bit syllable is in its slot: empty, an illegal encoding, or an instruction. -/
inductive Syl where
  | empty
  | illegal
  | instr (i : Instr)
deriving DecidableEq, Repr

/-- The fields of format SR in a syllable. -/
def SR.of (w : Word) : SR :=
  ⟨w.extractLsb' 46 6, w.extractLsb' 40 6, w.extractLsb' 34 6, w.extractLsb' 28 6⟩

/-- The reserved bits of format SR are 0 (02 R55). -/
def SR.zeros (w : Word) : Bool := w.extractLsb' 0 28 == 0

/-- The syllable of an opcode and the fields of format SR. -/
def SR.word (op : BitVec 8) (f : SR) : Word :=
  op ++ 0#4 ++ f.rd ++ f.ra ++ f.rb ++ f.rc ++ 0#28

/-- The fields of format SI in a syllable. -/
def SI.of (w : Word) : SI :=
  ⟨w.extractLsb' 46 6, w.extractLsb' 40 6, w.extractLsb' 0 40⟩

/-- The reserved bits of format SI are 0 (02 R55). -/
def SI.zeros (_ : Word) : Bool := true

/-- The syllable of an opcode and the fields of format SI. -/
def SI.word (op : BitVec 8) (f : SI) : Word :=
  op ++ 0#4 ++ f.rd ++ f.ra ++ f.imm

/-- The fields of format SW in a syllable. -/
def SW.of (w : Word) : SW :=
  ⟨w.extractLsb' 46 6, w.extractLsb' 0 46⟩

/-- The reserved bits of format SW are 0 (02 R55). -/
def SW.zeros (_ : Word) : Bool := true

/-- The syllable of an opcode and the fields of format SW. -/
def SW.word (op : BitVec 8) (f : SW) : Word :=
  op ++ 0#4 ++ f.rd ++ f.imm

/-- The fields of format SF in a syllable. -/
def SF.of (w : Word) : SF :=
  ⟨w.extractLsb' 46 6, w.extractLsb' 40 6, w.extractLsb' 34 6, w.extractLsb' 27 7⟩

/-- The reserved bits of format SF are 0 (02 R55). -/
def SF.zeros (w : Word) : Bool := w.extractLsb' 0 27 == 0

/-- The syllable of an opcode and the fields of format SF. -/
def SF.word (op : BitVec 8) (f : SF) : Word :=
  op ++ 0#4 ++ f.rd ++ f.ra ++ f.pos ++ f.len ++ 0#27

/-- The fields of format SL in a syllable. -/
def SL.of (w : Word) : SL :=
  ⟨w.extractLsb' 46 6, w.extractLsb' 40 6, w.extractLsb' 34 6, w.extractLsb' 32 2, w.extractLsb' 0 32⟩

/-- The reserved bits of format SL are 0 (02 R55). -/
def SL.zeros (_ : Word) : Bool := true

/-- The syllable of an opcode and the fields of format SL. -/
def SL.word (op : BitVec 8) (f : SL) : Word :=
  op ++ 0#4 ++ f.rd ++ f.ra ++ f.rb ++ f.sh ++ f.disp

/-- The fields of format SP (`loop`) in a syllable. -/
def SP.of (w : Word) : SP :=
  ⟨w.extractLsb' 46 6, w.extractLsb' 0 20⟩

/-- The reserved bits of format SP (`loop`) are 0 (02 R55). -/
def SP.zeros (w : Word) : Bool := w.extractLsb' 20 26 == 0

/-- The syllable of an opcode and the fields of format SP (`loop`). -/
def SP.word (op : BitVec 8) (f : SP) : Word :=
  op ++ 0#4 ++ f.ra ++ 0#26 ++ f.last

/-- The fields of format SP (`loopi`) in a syllable. -/
def SQ.of (w : Word) : SQ :=
  ⟨w.extractLsb' 20 32, w.extractLsb' 0 20⟩

/-- The reserved bits of format SP (`loopi`) are 0 (02 R55). -/
def SQ.zeros (_ : Word) : Bool := true

/-- The syllable of an opcode and the fields of format SP (`loopi`). -/
def SQ.word (op : BitVec 8) (f : SQ) : Word :=
  op ++ 0#4 ++ f.cnt ++ f.last

/-- The fields of format SX in a syllable. -/
def SX.of (w : Word) : SX :=
  ⟨w.extractLsb' 46 6, w.extractLsb' 36 10, w.extractLsb' 0 16⟩

/-- The reserved bits of format SX are 0 (02 R55). -/
def SX.zeros (w : Word) : Bool := w.extractLsb' 16 20 == 0

/-- The syllable of an opcode and the fields of format SX. -/
def SX.word (op : BitVec 8) (f : SX) : Word :=
  op ++ 0#4 ++ f.reg ++ f.n ++ 0#20 ++ f.imm

/-- The fields of format SH in a syllable. -/
def SH.of (w : Word) : SH :=
  ⟨w.extractLsb' 46 6, w.extractLsb' 42 4, w.extractLsb' 38 4, w.extractLsb' 32 6, w.extractLsb' 0 32⟩

/-- The reserved bits of format SH are 0 (02 R55). -/
def SH.zeros (_ : Word) : Bool := true

/-- The syllable of an opcode and the fields of format SH. -/
def SH.word (op : BitVec 8) (f : SH) : Word :=
  op ++ 0#4 ++ f.reg ++ f.x ++ f.y ++ f.fld ++ f.disp

/-- The fields of format MA in a syllable. -/
def MA.of (w : Word) : MA :=
  ⟨w.extractLsb' 53 3, w.extractLsb' 50 3, w.extractLsb' 44 6, w.extractLsb' 38 6, w.extractLsb' 32 6, w.extractLsb' 28 4, w.extractLsb' 24 4, w.extractLsb' 22 2, w.extractLsb' 8 14⟩

/-- The reserved bits of format MA are 0 (02 R55). -/
def MA.zeros (w : Word) : Bool := w.extractLsb' 0 8 == 0

/-- The syllable of an opcode and the fields of format MA. -/
def MA.word (op : BitVec 8) (f : MA) : Word :=
  op ++ f.bk ++ f.bd ++ f.va ++ f.vb ++ f.reg ++ f.ty ++ f.tyd ++ f.rnd ++ f.ctl ++ 0#8

/-- The fields of format LS in a syllable. -/
def LS.of (w : Word) : LS :=
  ⟨w.extractLsb' 48 8, w.extractLsb' 42 6, w.extractLsb' 36 6, w.extractLsb' 32 4, w.extractLsb' 28 4, w.extractLsb' 26 2, w.extractLsb' 24 2, w.extractLsb' 22 2, w.extractLsb' 0 22⟩

/-- The reserved bits of format LS are 0 (02 R55). -/
def LS.zeros (_ : Word) : Bool := true

/-- The syllable of an opcode and the fields of format LS. -/
def LS.word (op : BitVec 8) (f : LS) : Word :=
  op ++ f.f0 ++ f.base ++ f.idx ++ f.h ++ f.ty ++ f.rnd ++ f.fe ++ f.sz ++ f.disp

/-- The fields of format CE in a syllable. -/
def CE.of (w : Word) : CE :=
  ⟨w.extractLsb' 50 6, w.extractLsb' 44 6, w.extractLsb' 38 6, w.extractLsb' 32 6, w.extractLsb' 28 4, w.extractLsb' 20 8, w.extractLsb' 0 20⟩

/-- The reserved bits of format CE are 0 (02 R55). -/
def CE.zeros (_ : Word) : Bool := true

/-- The syllable of an opcode and the fields of format CE. -/
def CE.word (op : BitVec 8) (f : CE) : Word :=
  op ++ f.a ++ f.b ++ f.c ++ f.d ++ f.h ++ f.mode ++ f.imm

/-- The fields of format YA in a syllable. -/
def YA.of (w : Word) : YA :=
  ⟨w.extractLsb' 50 6, w.extractLsb' 44 6, w.extractLsb' 38 6, w.extractLsb' 32 6, w.extractLsb' 28 4, w.extractLsb' 27 1, w.extractLsb' 26 1, w.extractLsb' 20 6, w.extractLsb' 0 20⟩

/-- The reserved bits of format YA are 0 (02 R55). -/
def YA.zeros (_ : Word) : Bool := true

/-- The syllable of an opcode and the fields of format YA. -/
def YA.word (op : BitVec 8) (f : YA) : Word :=
  op ++ f.a ++ f.b ++ f.c ++ f.d ++ f.h ++ f.seg ++ f.wf ++ f.ctl ++ f.imm

/-- The fields of format `wsend`/`wrecv` in a syllable. -/
def WP.of (w : Word) : WP :=
  ⟨w.extractLsb' 54 2, w.extractLsb' 52 2, w.extractLsb' 34 18, w.extractLsb' 32 2, w.extractLsb' 30 2, w.extractLsb' 6 24⟩

/-- The reserved bits of format `wsend`/`wrecv` are 0 (02 R55). -/
def WP.zeros (w : Word) : Bool := w.extractLsb' 0 6 == 0

/-- The syllable of an opcode and the fields of format `wsend`/`wrecv`. -/
def WP.word (op : BitVec 8) (f : WP) : Word :=
  op ++ f.buf ++ f.pmul ++ f.poff ++ f.cmul ++ f.crk ++ f.cb ++ 0#6

/-- The fields of format `wrrs` in a syllable. -/
def WR.of (w : Word) : WR :=
  ⟨w.extractLsb' 54 2, w.extractLsb' 52 2, w.extractLsb' 50 2, w.extractLsb' 32 17⟩

/-- The reserved bits of format `wrrs` are 0 (02 R55). -/
def WR.zeros (w : Word) : Bool := w.extractLsb' 49 1 == 0 && w.extractLsb' 0 32 == 0

/-- The syllable of an opcode and the fields of format `wrrs`. -/
def WR.word (op : BitVec 8) (f : WR) : Word :=
  op ++ f.buf ++ f.mode ++ f.dst ++ 0#1 ++ f.root ++ 0#32

/-- The fields of format `wcopy` in a syllable. -/
def WC.of (w : Word) : WC :=
  ⟨w.extractLsb' 54 2, w.extractLsb' 52 2, w.extractLsb' 0 52⟩

/-- The reserved bits of format `wcopy` are 0 (02 R55). -/
def WC.zeros (_ : Word) : Bool := true

/-- The syllable of an opcode and the fields of format `wcopy`. -/
def WC.word (op : BitVec 8) (f : WC) : Word :=
  op ++ f.src ++ f.dst ++ f.low

/-- The fields of format SB in a syllable. -/
def SB.of (w : Word) : SB := ⟨w.extractLsb' 46 6, w.extractLsb' 0 41⟩

/-- The reserved bits of format SB are 0 (02 R55). -/
def SB.zeros (w : Word) : Bool := w.extractLsb' 41 4 == 0

/-- The syllable of an opcode, zf and the fields of format SB. -/
def SB.word (op : BitVec 8) (zf : BitVec 1) (f : SB) : Word :=
  op ++ 0#4 ++ f.ra ++ zf ++ 0#4 ++ f.off

/-- The fields of format V in a syllable of slot VA or VB. -/
def VF.of (b : Bool) (w : Word) : VF :=
  ⟨b, w.extractLsb' 48 8, w.extractLsb' 42 6, w.extractLsb' 36 6, w.extractLsb' 30 6, w.extractLsb' 26 4, w.extractLsb' 22 4, w.extractLsb' 20 2, w.extractLsb' 8 12⟩

/-- The reserved bits of format V are 0 (02 R55). -/
def VF.zeros (w : Word) : Bool := w.extractLsb' 0 8 == 0

/-- The syllable of an opcode and the fields of format V. -/
def VF.word (op : BitVec 8) (f : VF) : Word :=
  op ++ f.vd ++ f.va ++ f.vb ++ f.vc ++ f.ty ++ f.tyd ++ f.rnd ++ f.ctl ++ 0#8

/-- An instruction whose reserved bits are 0 and whose operands are within its entry's limits, or an illegal encoding. -/
def legal (zeros : Bool) (i : Instr) : Syl := if zeros && i.wf then .instr i else .illegal

/-- Slot S (02 R62). The bundle flags [55:52] are not the instruction's (R45). -/
def decodeS (w : Word) : Syl :=
  match (w.extractLsb' 56 8).toNat with
  | 0 => if w.extractLsb' 0 52 == 0 then .empty else .illegal
  | 1 => legal (SR.zeros w) (.add (SR.of w))
  | 2 => legal (SR.zeros w) (.sub (SR.of w))
  | 3 => legal (SR.zeros w) (.mul (SR.of w))
  | 4 => legal (SR.zeros w) (.mulh (SR.of w))
  | 5 => legal (SR.zeros w) (.mulhu (SR.of w))
  | 6 => legal (SR.zeros w) (.div (SR.of w))
  | 7 => legal (SR.zeros w) (.divu (SR.of w))
  | 8 => legal (SR.zeros w) (.rem (SR.of w))
  | 9 => legal (SR.zeros w) (.remu (SR.of w))
  | 10 => legal (SR.zeros w) (.and (SR.of w))
  | 11 => legal (SR.zeros w) (.or (SR.of w))
  | 12 => legal (SR.zeros w) (.xor (SR.of w))
  | 13 => legal (SR.zeros w) (.shl (SR.of w))
  | 14 => legal (SR.zeros w) (.shr (SR.of w))
  | 15 => legal (SR.zeros w) (.sar (SR.of w))
  | 16 => legal (SR.zeros w) (.min (SR.of w))
  | 17 => legal (SR.zeros w) (.max (SR.of w))
  | 18 => legal (SR.zeros w) (.minu (SR.of w))
  | 19 => legal (SR.zeros w) (.maxu (SR.of w))
  | 20 => legal (SR.zeros w) (.clz (SR.of w))
  | 21 => legal (SR.zeros w) (.popc (SR.of w))
  | 22 => legal (SR.zeros w) (.sel (SR.of w))
  | 24 => legal (SI.zeros w) (.addi (SI.of w))
  | 25 => legal (SI.zeros w) (.andi (SI.of w))
  | 26 => legal (SI.zeros w) (.ori (SI.of w))
  | 27 => legal (SI.zeros w) (.xori (SI.of w))
  | 28 => legal (SI.zeros w) (.shli (SI.of w))
  | 29 => legal (SI.zeros w) (.shri (SI.of w))
  | 30 => legal (SI.zeros w) (.sari (SI.of w))
  | 31 => legal (SW.zeros w) (.movi (SW.of w))
  | 32 => legal (SI.zeros w) (.movhi (SI.of w))
  | 33 => legal (SL.zeros w) (.lea (SL.of w))
  | 34 => legal (SF.zeros w) (.ext (SF.of w))
  | 35 => legal (SF.zeros w) (.ins (SF.of w))
  | 40 => legal (SR.zeros w) (.ceq (SR.of w))
  | 41 => legal (SR.zeros w) (.cne (SR.of w))
  | 42 => legal (SR.zeros w) (.clt (SR.of w))
  | 43 => legal (SR.zeros w) (.cle (SR.of w))
  | 44 => legal (SR.zeros w) (.cltu (SR.of w))
  | 45 => legal (SR.zeros w) (.cleu (SR.of w))
  | 46 => legal (SI.zeros w) (.ceqi (SI.of w))
  | 47 => legal (SI.zeros w) (.clti (SI.of w))
  | 49 => legal (SB.zeros w && !w.getLsbD 45) (.jmp (SB.of w))
  | 50 => legal (SB.zeros w && !w.getLsbD 45) (.call (SB.of w))
  | 51 => legal (SX.zeros w) (.jr (SX.of w))
  | 52 => legal (SP.zeros w) (.loop (SP.of w))
  | 53 => legal (SQ.zeros w) (.loopi (SQ.of w))
  | 54 => legal (w.extractLsb' 0 52 == 0) .lbrk
  | 55 => legal (SX.zeros w) (.lidx (SX.of w))
  | 56 => legal (SX.zeros w) (.trap (SX.of w))
  | 57 => legal (w.extractLsb' 0 52 == 0) .eret
  | 58 => legal (w.extractLsb' 0 52 == 0) .halt
  | 64 => legal (SX.zeros w) (.spld (SX.of w))
  | 65 => legal (SX.zeros w) (.spst (SX.of w))
  | 72 => legal (SX.zeros w) (.sysrd (SX.of w))
  | 73 => legal (SX.zeros w) (.syswr (SX.of w))
  | 74 => legal (SX.zeros w) (.capq (SX.of w))
  | 80 => legal (SH.zeros w) (.hld (SH.of w))
  | 81 => legal (SH.zeros w) (.hst (SH.of w))
  | 82 => legal (SH.zeros w) (.hset (SH.of w))
  | 83 => legal (SH.zeros w) (.hget (SH.of w))
  | 84 => legal (SH.zeros w) (.hmov (SH.of w))
  | 88 => legal (SH.zeros w) (.pcfg (SH.of w))
  | 89 => legal (SH.zeros w) (.pset (SH.of w))
  | 90 => legal (SH.zeros w) (.pget (SH.of w))
  | 48 => if w.getLsbD 45 then legal (SB.zeros w) (.brZ (SB.of w)) else legal (SB.zeros w) (.br (SB.of w))
  | _ => .illegal

/-- Slots VA (b = false) and VB (b = true) (02 R63). -/
def decodeV (b : Bool) (w : Word) : Syl :=
  match (w.extractLsb' 56 8).toNat with
  | 0 => if w.extractLsb' 0 56 == 0 then .empty else .illegal
  | 1 => legal (VF.zeros w) (.vadd (VF.of b w))
  | 2 => legal (VF.zeros w) (.vsub (VF.of b w))
  | 3 => legal (VF.zeros w) (.vmul (VF.of b w))
  | 4 => legal (VF.zeros w) (.vfma (VF.of b w))
  | 5 => legal (VF.zeros w) (.vfms (VF.of b w))
  | 6 => legal (VF.zeros w) (.vmax (VF.of b w))
  | 7 => legal (VF.zeros w) (.vmin (VF.of b w))
  | 8 => legal (VF.zeros w) (.vabs (VF.of b w))
  | 9 => legal (VF.zeros w) (.vneg (VF.of b w))
  | 10 => legal (VF.zeros w) (.vrcp (VF.of b w))
  | 11 => legal (VF.zeros w) (.vrsq (VF.of b w))
  | 12 => legal (VF.zeros w) (.vexp2 (VF.of b w))
  | 13 => legal (VF.zeros w) (.vlog2 (VF.of b w))
  | 14 => legal (VF.zeros w) (.vtanh (VF.of b w))
  | 16 => legal (VF.zeros w) (.vand (VF.of b w))
  | 17 => legal (VF.zeros w) (.vor (VF.of b w))
  | 18 => legal (VF.zeros w) (.vxor (VF.of b w))
  | 19 => legal (VF.zeros w) (.vshl (VF.of b w))
  | 20 => legal (VF.zeros w) (.vshr (VF.of b w))
  | 21 => legal (VF.zeros w) (.vsar (VF.of b w))
  | 24 => legal (VF.zeros w) (.vceq (VF.of b w))
  | 25 => legal (VF.zeros w) (.vclt (VF.of b w))
  | 26 => legal (VF.zeros w) (.vcle (VF.of b w))
  | 27 => legal (VF.zeros w) (.vsel (VF.of b w))
  | 32 => legal (VF.zeros w) (.vcvt (VF.of b w))
  | 33 => legal (VF.zeros w) (.vqnt (VF.of b w))
  | 34 => legal (VF.zeros w) (.vdq (VF.of b w))
  | 35 => legal (VF.zeros w) (.vsrnd (VF.of b w))
  | 36 => legal (VF.zeros w) (.vscal (VF.of b w))
  | 40 => legal (VF.zeros w) (.vredsum (VF.of b w))
  | 41 => legal (VF.zeros w) (.vredmax (VF.of b w))
  | 42 => legal (VF.zeros w) (.vredmin (VF.of b w))
  | 43 => legal (VF.zeros w) (.vbcast (VF.of b w))
  | 44 => legal (VF.zeros w) (.vextr (VF.of b w))
  | 45 => legal (VF.zeros w) (.vperm (VF.of b w))
  | 48 => legal (VF.zeros w) (.vmov (VF.of b w))
  | 49 => legal (VF.zeros w) (.vzero (VF.of b w))
  | 56 => if b then legal (VF.zeros w) (.vacc (VF.of b w)) else .illegal
  | 57 => if b then legal (VF.zeros w) (.vaccw (VF.of b w)) else .illegal
  | 58 => if b then legal (VF.zeros w) (.vadam (VF.of b w)) else .illegal
  | 59 => if b then legal (VF.zeros w) (.vsgdm (VF.of b w)) else .illegal
  | 60 => if b then legal (VF.zeros w) (.vbfpn (VF.of b w)) else .illegal
  | _ => .illegal

/-- Slot M (02 R64). -/
def decodeM (w : Word) : Syl :=
  match (w.extractLsb' 56 8).toNat with
  | 0 => if w.extractLsb' 0 56 == 0 then .empty else .illegal
  | 1 => legal (MA.zeros w) (.mop (MA.of w))
  | 2 => legal (MA.zeros w) (.mmac (MA.of w))
  | 3 => legal (MA.zeros w) (.mbfp (MA.of w))
  | 4 => legal (MA.zeros w) (.mzero (MA.of w))
  | 5 => legal (MA.zeros w) (.mdrain (MA.of w))
  | 6 => legal (MA.zeros w) (.mload (MA.of w))
  | 7 => legal (MA.zeros w) (.msave (MA.of w))
  | 8 => legal (MA.zeros w) (.mlend (MA.of w))
  | 9 => legal (MA.zeros w) (.mrecl (MA.of w))
  | 10 => legal (MA.zeros w) (.mcfg (MA.of w))
  | 11 => legal (MA.zeros w) (.mrealn (MA.of w))
  | 16 => legal (MA.zeros w) (.knset (MA.of w))
  | 17 => legal (MA.zeros w) (.knget (MA.of w))
  | 18 => legal (MA.zeros w) (.splld (MA.of w))
  | 19 => legal (MA.zeros w) (.splst (MA.of w))
  | 20 => legal (MA.zeros w) (.splev (MA.of w))
  | 21 => legal (MA.zeros w) (.splbwd (MA.of w))
  | 22 => legal (MA.zeros w) (.splgs (MA.of w))
  | 23 => legal (MA.zeros w) (.splgx (MA.of w))
  | 24 => legal (w.extractLsb' 0 56 == 0) .splgz
  | 25 => legal (w.extractLsb' 0 56 == 0) .gridref
  | 26 => legal (MA.zeros w) (.splcnt (MA.of w))
  | _ => .illegal

/-- Slot L (02 R65). -/
def decodeL (w : Word) : Syl :=
  match (w.extractLsb' 56 8).toNat with
  | 0 => if w.extractLsb' 0 56 == 0 then .empty else .illegal
  | 1 => legal (LS.zeros w) (.ld (LS.of w))
  | 2 => legal (LS.zeros w) (.sld (LS.of w))
  | 3 => legal (LS.zeros w) (.gld (LS.of w))
  | 4 => legal (LS.zeros w) (.gldr (LS.of w))
  | 5 => legal (LS.zeros w) (.tmrd (LS.of w))
  | 6 => legal (LS.zeros w) (.wmrd (LS.of w))
  | 7 => legal (LS.zeros w) (.pref (LS.of w))
  | _ => .illegal

/-- Slot W (02 R65). -/
def decodeW (w : Word) : Syl :=
  match (w.extractLsb' 56 8).toNat with
  | 0 => if w.extractLsb' 0 56 == 0 then .empty else .illegal
  | 1 => legal (LS.zeros w) (.st (LS.of w))
  | 2 => legal (LS.zeros w) (.sst (LS.of w))
  | 3 => legal (LS.zeros w) (.gst (LS.of w))
  | 4 => legal (LS.zeros w) (.gstr (LS.of w))
  | 5 => legal (LS.zeros w) (.sfe (LS.of w))
  | 6 => legal (LS.zeros w) (.wmc (LS.of w))
  | 7 => legal (LS.zeros w) (.dpop (LS.of w))
  | _ => .illegal

/-- Slot C (02 R65). -/
def decodeC (w : Word) : Syl :=
  match (w.extractLsb' 56 8).toNat with
  | 0 => if w.extractLsb' 0 56 == 0 then .empty else .illegal
  | 1 => legal (CE.zeros w) (.cpy (CE.of w))
  | 2 => legal (CE.zeros w) (.cpy2 (CE.of w))
  | 3 => legal (CE.zeros w) (.cpyg (CE.of w))
  | 4 => legal (CE.zeros w) (.cpys (CE.of w))
  | 5 => legal (CE.zeros w) (.cpyx (CE.of w))
  | 6 => legal (CE.zeros w) (.cpyr (CE.of w))
  | 7 => legal (CE.zeros w) (.cpyo (CE.of w))
  | 8 => legal (CE.zeros w) (.cpyq (CE.of w))
  | 9 => legal (CE.zeros w) (.cpyk (CE.of w))
  | _ => .illegal

/-- Slot Y (02 R65). -/
def decodeY (w : Word) : Syl :=
  match (w.extractLsb' 56 8).toNat with
  | 0 => if w.extractLsb' 0 56 == 0 then .empty else .illegal
  | 1 => legal (YA.zeros w) (.cadd (YA.of w))
  | 2 => legal (YA.zeros w) (.caddi (YA.of w))
  | 3 => legal (YA.zeros w) (.cwait (YA.of w))
  | 4 => legal (YA.zeros w) (.crd (YA.of w))
  | 5 => legal (YA.zeros w) (.cflg (YA.of w))
  | 6 => legal (YA.zeros w) (.cceil (YA.of w))
  | 8 => legal (YA.zeros w) (.amadd (YA.of w))
  | 9 => legal (YA.zeros w) (.amax (YA.of w))
  | 10 => legal (YA.zeros w) (.amin (YA.of w))
  | 11 => legal (YA.zeros w) (.aswp (YA.of w))
  | 12 => legal (YA.zeros w) (.acas (YA.of w))
  | 13 => legal (YA.zeros w) (.aand (YA.of w))
  | 14 => legal (YA.zeros w) (.aor (YA.of w))
  | 15 => legal (YA.zeros w) (.afadd (YA.of w))
  | 16 => legal (YA.zeros w) (.barr (YA.of w))
  | 17 => legal (YA.zeros w) (.bwait (YA.of w))
  | 18 => legal (YA.zeros w) (.barq (YA.of w))
  | 24 => legal (YA.zeros w) (.tmopn (YA.of w))
  | 25 => legal (YA.zeros w) (.tmcls (YA.of w))
  | 26 => legal (YA.zeros w) (.tmgov (YA.of w))
  | 27 => legal (YA.zeros w) (.tmset (YA.of w))
  | 28 => legal (YA.zeros w) (.tmflt (YA.of w))
  | 32 => legal (YA.zeros w) (.spawn (YA.of w))
  | 33 => legal (w.extractLsb' 0 56 == 0) .yield
  | 40 => legal (YA.zeros w) (.route (YA.of w))
  | 41 => legal (YA.zeros w) (.rtver (YA.of w))
  | 48 => legal (YA.zeros w) (.wgl (YA.of w))
  | 49 => legal (YA.zeros w) (.wglq (YA.of w))
  | 50 => legal (YA.zeros w) (.wglk (YA.of w))
  | _ => .illegal

/-- A waggle step (02 R68, 24 R440): opcode 0x00 and 0x0C-0xFF are not assigned. -/
def decodeStep (w : Word) : Option Instr :=
  let ok (zeros : Bool) (i : Instr) : Option Instr := if zeros && i.wf then some i else none
  match (w.extractLsb' 56 8).toNat with
  | 1 => ok (WP.zeros w) (.wsend (WP.of w))
  | 2 => ok (WP.zeros w) (.wrecv (WP.of w))
  | 3 => ok (WR.zeros w) (.wrrs (WR.of w))
  | 4 => ok (WC.zeros w) (.wcopy (WC.of w))
  | 5 => ok (w.extractLsb' 48 8 == 0) (.wwait (w.extractLsb' 0 48))
  | 6 => ok (w.extractLsb' 20 36 == 0) (.wsig (w.extractLsb' 0 20))
  | 7 => ok (w.extractLsb' 32 24 == 0) (.wloop (w.extractLsb' 0 32))
  | 8 => ok (w.extractLsb' 0 56 == 0) .wendl
  | 9 => ok (w.extractLsb' 32 22 == 0) (.wagree (w.extractLsb' 54 2) (w.extractLsb' 0 32))
  | 10 => ok (w.extractLsb' 0 56 == 0) .wflags
  | 11 => ok (w.extractLsb' 0 56 == 0) .wend
  | _ => none

/-- A syllable in slot k = 0 to 7 (02 R45). -/
def decodeSyl (k : Nat) (w : Word) : Syl :=
  match k with
  | 0 => decodeS w | 1 => decodeV false w | 2 => decodeV true w | 3 => decodeM w
  | 4 => decodeL w | 5 => decodeW w | 6 => decodeC w | _ => decodeY w

/-- Syllable k of a bundle (02 R45). -/
def sylOf (b : Vec) (k : Nat) : Word := b.extractLsb' (64 * k) 64

namespace Instr

/-- The vector format fields of a vector instruction. -/
def vform : Instr → Option VF
  | .vadd f  | .vsub f  | .vmul f  | .vfma f  | .vfms f  | .vmax f  | .vmin f  | .vabs f  | .vneg f  | .vrcp f  | .vrsq f  | .vexp2 f
  | .vlog2 f  | .vtanh f  | .vand f  | .vor f  | .vxor f  | .vshl f  | .vshr f  | .vsar f  | .vceq f  | .vclt f  | .vcle f  | .vsel f
  | .vcvt f  | .vqnt f  | .vdq f  | .vsrnd f  | .vscal f  | .vredsum f  | .vredmax f  | .vredmin f  | .vbcast f  | .vextr f
  | .vperm f  | .vmov f  | .vzero f  | .vacc f  | .vaccw f  | .vadam f  | .vsgdm f  | .vbfpn f => some f
  | .checkpoint  | .orderedBundle  | .breakpoint  | .resultLands _  | .variableLatencyResult _ _  | .scratchpadWriteLands _
  | .imageLanding _ _  | .multicastLanding _  | .matrixEngineExecute _  | .splineArrayExecute _  | .debugRestart _  | .add _  | .sub _
  | .mul _  | .mulh _  | .mulhu _  | .div _  | .divu _  | .rem _  | .remu _  | .and _  | .or _  | .xor _  | .shl _  | .shr _  | .sar _
  | .min _  | .max _  | .minu _  | .maxu _  | .clz _  | .popc _  | .sel _  | .addi _  | .andi _  | .ori _  | .xori _  | .shli _
  | .shri _  | .sari _  | .movi _  | .movhi _  | .lea _  | .ext _  | .ins _  | .ceq _  | .cne _  | .clt _  | .cle _  | .cltu _
  | .cleu _  | .ceqi _  | .clti _  | .br _  | .brZ _  | .jmp _  | .call _  | .jr _  | .loop _  | .loopi _  | .lbrk  | .lidx _
  | .trap _  | .eret  | .halt  | .spld _  | .spst _  | .sysrd _  | .syswr _  | .capq _  | .hld _  | .hst _  | .hset _  | .hget _
  | .hmov _  | .pcfg _  | .pset _  | .pget _  | .mop _  | .mmac _  | .mbfp _  | .mzero _  | .mdrain _  | .mload _  | .msave _
  | .mlend _  | .mrecl _  | .mcfg _  | .mrealn _  | .knset _  | .knget _  | .splld _  | .splst _  | .splev _  | .splbwd _  | .splgs _
  | .splgx _  | .splgz  | .gridref  | .splcnt _  | .ld _  | .sld _  | .gld _  | .gldr _  | .tmrd _  | .wmrd _  | .pref _  | .st _
  | .sst _  | .gst _  | .gstr _  | .sfe _  | .wmc _  | .dpop _  | .cpy _  | .cpy2 _  | .cpyg _  | .cpys _  | .cpyx _  | .cpyr _
  | .cpyo _  | .cpyq _  | .cpyk _  | .cadd _  | .caddi _  | .cwait _  | .crd _  | .cflg _  | .cceil _  | .amadd _  | .amax _
  | .amin _  | .aswp _  | .acas _  | .aand _  | .aor _  | .afadd _  | .barr _  | .bwait _  | .barq _  | .tmopn _  | .tmcls _
  | .tmgov _  | .tmset _  | .tmflt _  | .spawn _  | .yield  | .route _  | .rtver _  | .wgl _  | .wglq _  | .wglk _  | .grant _ _
  | .reserve _ _  | .renew _ _  | .apply _ _  | .pinTokenGrant  | .stampRaise _  | .applyAdd _ _ _ _ _ _  | .applyCflg _ _ _
  | .applyCeil _ _ _ _ _  | .cwaitWake _ _ _  | .barrierArrival _ _ _  | .bwaitReturn _  | .copyLaunchAccept _  | .copyPiece _ _
  | .deltaFlush _ _  | .flushRequest _ _  | .closePublication _  | .launch _  | .schedulerRound  | .descriptorFetch _
  | .dependencyMet _ _ _  | .quantumExpiry _ _  | .taskComplete _  | .faultReport _  | .migrateTrapReceipt _  | .spawnAppend _ _ _ _
  | .schedulerTakeover  | .dieFault _  | .coreWithdrawn _  | .routeChoice _  | .routeDelivery _  | .routedAdd _  | .swarmSample _
  | .replicaCopyDone _  | .replicaCopyStop _  | .redirection _  | .replicaLoss _ _ _  | .replica0Loss _ _  | .gradientMerge _
  | .waggleLaunch _  | .signatureAgreement _  | .wsend _  | .wrecv _  | .wrrs _  | .wcopy _  | .wwait _  | .wsig _  | .wloop _
  | .wendl  | .wagree _ _  | .wflags  | .wend  | .chunkArrival _  | .switchSlotLoss _ _ _  | .waggleAbort _ _ _  | .glodricMessage _
  | .glodricPortWithdrawn _  | .destinationTimeout _  | .linkWithdrawn _  | .bisnpinv _  | .bisnpdata _  | .bisnpcur _
  | .snoopPinTimeout _  | .memrdCompletion _ _  | .memwrCompletion _ _  | .cxlPortDown _  | .linePoisoned _  | .combSramError _
  | .inboundWrite _ _ _  | .bar2Read _ _ _  | .hostCounterAdd _ _  | .invalidation _  | .invalidationDone _  | .pageLock _
  | .pageUnlock _  | .lockDone _  | .counterWatch _ _  | .registerWrite _ _  | .warmReset  | .coldReset  | .abavasTakeover
  | .throttling  | .getVersion  | .getCapabilities  | .negotiateAlgorithms _  | .getDigests  | .getCertificate _ _ _  | .challenge _ _
  | .getMeasurements _  | .dbgctlWrite _ _  | .domainTableWrite _  | .cxlPortReturnToService _  | .throttlingEnd
  | .abavasMailboxMessage _  | .meminvCompletion _ => none

/-- The slot 0 to 7 in which a slot instruction stands (02 R62-R65). -/
def slot : Instr → Option Nat
  | .vadd f  | .vsub f  | .vmul f  | .vfma f  | .vfms f  | .vmax f  | .vmin f  | .vabs f  | .vneg f  | .vrcp f  | .vrsq f  | .vexp2 f
  | .vlog2 f  | .vtanh f  | .vand f  | .vor f  | .vxor f  | .vshl f  | .vshr f  | .vsar f  | .vceq f  | .vclt f  | .vcle f  | .vsel f
  | .vcvt f  | .vqnt f  | .vdq f  | .vsrnd f  | .vscal f  | .vredsum f  | .vredmax f  | .vredmin f  | .vbcast f  | .vextr f
  | .vperm f  | .vmov f  | .vzero f  | .vacc f  | .vaccw f  | .vadam f  | .vsgdm f  | .vbfpn f => some (if f.slotB then 2 else 1)
  | .add _  | .sub _  | .mul _  | .mulh _  | .mulhu _  | .div _  | .divu _  | .rem _  | .remu _  | .and _  | .or _  | .xor _  | .shl _
  | .shr _  | .sar _  | .min _  | .max _  | .minu _  | .maxu _  | .clz _  | .popc _  | .sel _  | .addi _  | .andi _  | .ori _
  | .xori _  | .shli _  | .shri _  | .sari _  | .movi _  | .movhi _  | .lea _  | .ext _  | .ins _  | .ceq _  | .cne _  | .clt _
  | .cle _  | .cltu _  | .cleu _  | .ceqi _  | .clti _  | .br _  | .brZ _  | .jmp _  | .call _  | .jr _  | .loop _  | .loopi _
  | .lbrk  | .lidx _  | .trap _  | .eret  | .halt  | .spld _  | .spst _  | .sysrd _  | .syswr _  | .capq _  | .hld _  | .hst _
  | .hset _  | .hget _  | .hmov _  | .pcfg _  | .pset _  | .pget _ => some 0
  | .mop _  | .mmac _  | .mbfp _  | .mzero _  | .mdrain _  | .mload _  | .msave _  | .mlend _  | .mrecl _  | .mcfg _  | .mrealn _
  | .knset _  | .knget _  | .splld _  | .splst _  | .splev _  | .splbwd _  | .splgs _  | .splgx _  | .splgz  | .gridref  | .splcnt _ => some 3
  | .ld _  | .sld _  | .gld _  | .gldr _  | .tmrd _  | .wmrd _  | .pref _ => some 4
  | .st _  | .sst _  | .gst _  | .gstr _  | .sfe _  | .wmc _  | .dpop _ => some 5
  | .cpy _  | .cpy2 _  | .cpyg _  | .cpys _  | .cpyx _  | .cpyr _  | .cpyo _  | .cpyq _  | .cpyk _ => some 6
  | .cadd _  | .caddi _  | .cwait _  | .crd _  | .cflg _  | .cceil _  | .amadd _  | .amax _  | .amin _  | .aswp _  | .acas _
  | .aand _  | .aor _  | .afadd _  | .barr _  | .bwait _  | .barq _  | .tmopn _  | .tmcls _  | .tmgov _  | .tmset _  | .tmflt _
  | .spawn _  | .yield  | .route _  | .rtver _  | .wgl _  | .wglq _  | .wglk _ => some 7
  | .checkpoint  | .orderedBundle  | .breakpoint  | .resultLands _  | .variableLatencyResult _ _  | .scratchpadWriteLands _
  | .imageLanding _ _  | .multicastLanding _  | .matrixEngineExecute _  | .splineArrayExecute _  | .debugRestart _  | .grant _ _
  | .reserve _ _  | .renew _ _  | .apply _ _  | .pinTokenGrant  | .stampRaise _  | .applyAdd _ _ _ _ _ _  | .applyCflg _ _ _
  | .applyCeil _ _ _ _ _  | .cwaitWake _ _ _  | .barrierArrival _ _ _  | .bwaitReturn _  | .copyLaunchAccept _  | .copyPiece _ _
  | .deltaFlush _ _  | .flushRequest _ _  | .closePublication _  | .launch _  | .schedulerRound  | .descriptorFetch _
  | .dependencyMet _ _ _  | .quantumExpiry _ _  | .taskComplete _  | .faultReport _  | .migrateTrapReceipt _  | .spawnAppend _ _ _ _
  | .schedulerTakeover  | .dieFault _  | .coreWithdrawn _  | .routeChoice _  | .routeDelivery _  | .routedAdd _  | .swarmSample _
  | .replicaCopyDone _  | .replicaCopyStop _  | .redirection _  | .replicaLoss _ _ _  | .replica0Loss _ _  | .gradientMerge _
  | .waggleLaunch _  | .signatureAgreement _  | .wsend _  | .wrecv _  | .wrrs _  | .wcopy _  | .wwait _  | .wsig _  | .wloop _
  | .wendl  | .wagree _ _  | .wflags  | .wend  | .chunkArrival _  | .switchSlotLoss _ _ _  | .waggleAbort _ _ _  | .glodricMessage _
  | .glodricPortWithdrawn _  | .destinationTimeout _  | .linkWithdrawn _  | .bisnpinv _  | .bisnpdata _  | .bisnpcur _
  | .snoopPinTimeout _  | .memrdCompletion _ _  | .memwrCompletion _ _  | .cxlPortDown _  | .linePoisoned _  | .combSramError _
  | .inboundWrite _ _ _  | .bar2Read _ _ _  | .hostCounterAdd _ _  | .invalidation _  | .invalidationDone _  | .pageLock _
  | .pageUnlock _  | .lockDone _  | .counterWatch _ _  | .registerWrite _ _  | .warmReset  | .coldReset  | .abavasTakeover
  | .throttling  | .getVersion  | .getCapabilities  | .negotiateAlgorithms _  | .getDigests  | .getCertificate _ _ _  | .challenge _ _
  | .getMeasurements _  | .dbgctlWrite _ _  | .domainTableWrite _  | .cxlPortReturnToService _  | .throttlingEnd
  | .abavasMailboxMessage _  | .meminvCompletion _ => none

/-- Whether the row is a waggle step (24 R440). -/
def isStep : Instr → Bool
  | .wsend _  | .wrecv _  | .wrrs _  | .wcopy _  | .wwait _  | .wsig _  | .wloop _  | .wendl  | .wagree _ _  | .wflags  | .wend => true
  | .checkpoint  | .orderedBundle  | .breakpoint  | .resultLands _  | .variableLatencyResult _ _  | .scratchpadWriteLands _
  | .imageLanding _ _  | .multicastLanding _  | .matrixEngineExecute _  | .splineArrayExecute _  | .debugRestart _  | .add _  | .sub _
  | .mul _  | .mulh _  | .mulhu _  | .div _  | .divu _  | .rem _  | .remu _  | .and _  | .or _  | .xor _  | .shl _  | .shr _  | .sar _
  | .min _  | .max _  | .minu _  | .maxu _  | .clz _  | .popc _  | .sel _  | .addi _  | .andi _  | .ori _  | .xori _  | .shli _
  | .shri _  | .sari _  | .movi _  | .movhi _  | .lea _  | .ext _  | .ins _  | .ceq _  | .cne _  | .clt _  | .cle _  | .cltu _
  | .cleu _  | .ceqi _  | .clti _  | .br _  | .brZ _  | .jmp _  | .call _  | .jr _  | .loop _  | .loopi _  | .lbrk  | .lidx _
  | .trap _  | .eret  | .halt  | .spld _  | .spst _  | .sysrd _  | .syswr _  | .capq _  | .hld _  | .hst _  | .hset _  | .hget _
  | .hmov _  | .pcfg _  | .pset _  | .pget _  | .vadd _  | .vsub _  | .vmul _  | .vfma _  | .vfms _  | .vmax _  | .vmin _  | .vabs _
  | .vneg _  | .vrcp _  | .vrsq _  | .vexp2 _  | .vlog2 _  | .vtanh _  | .vand _  | .vor _  | .vxor _  | .vshl _  | .vshr _  | .vsar _
  | .vceq _  | .vclt _  | .vcle _  | .vsel _  | .vcvt _  | .vqnt _  | .vdq _  | .vsrnd _  | .vscal _  | .vredsum _  | .vredmax _
  | .vredmin _  | .vbcast _  | .vextr _  | .vperm _  | .vmov _  | .vzero _  | .vacc _  | .vaccw _  | .vadam _  | .vsgdm _  | .vbfpn _
  | .mop _  | .mmac _  | .mbfp _  | .mzero _  | .mdrain _  | .mload _  | .msave _  | .mlend _  | .mrecl _  | .mcfg _  | .mrealn _
  | .knset _  | .knget _  | .splld _  | .splst _  | .splev _  | .splbwd _  | .splgs _  | .splgx _  | .splgz  | .gridref  | .splcnt _
  | .ld _  | .sld _  | .gld _  | .gldr _  | .tmrd _  | .wmrd _  | .pref _  | .st _  | .sst _  | .gst _  | .gstr _  | .sfe _  | .wmc _
  | .dpop _  | .cpy _  | .cpy2 _  | .cpyg _  | .cpys _  | .cpyx _  | .cpyr _  | .cpyo _  | .cpyq _  | .cpyk _  | .cadd _  | .caddi _
  | .cwait _  | .crd _  | .cflg _  | .cceil _  | .amadd _  | .amax _  | .amin _  | .aswp _  | .acas _  | .aand _  | .aor _  | .afadd _
  | .barr _  | .bwait _  | .barq _  | .tmopn _  | .tmcls _  | .tmgov _  | .tmset _  | .tmflt _  | .spawn _  | .yield  | .route _
  | .rtver _  | .wgl _  | .wglq _  | .wglk _  | .grant _ _  | .reserve _ _  | .renew _ _  | .apply _ _  | .pinTokenGrant
  | .stampRaise _  | .applyAdd _ _ _ _ _ _  | .applyCflg _ _ _  | .applyCeil _ _ _ _ _  | .cwaitWake _ _ _  | .barrierArrival _ _ _
  | .bwaitReturn _  | .copyLaunchAccept _  | .copyPiece _ _  | .deltaFlush _ _  | .flushRequest _ _  | .closePublication _
  | .launch _  | .schedulerRound  | .descriptorFetch _  | .dependencyMet _ _ _  | .quantumExpiry _ _  | .taskComplete _
  | .faultReport _  | .migrateTrapReceipt _  | .spawnAppend _ _ _ _  | .schedulerTakeover  | .dieFault _  | .coreWithdrawn _
  | .routeChoice _  | .routeDelivery _  | .routedAdd _  | .swarmSample _  | .replicaCopyDone _  | .replicaCopyStop _  | .redirection _
  | .replicaLoss _ _ _  | .replica0Loss _ _  | .gradientMerge _  | .waggleLaunch _  | .signatureAgreement _  | .chunkArrival _
  | .switchSlotLoss _ _ _  | .waggleAbort _ _ _  | .glodricMessage _  | .glodricPortWithdrawn _  | .destinationTimeout _
  | .linkWithdrawn _  | .bisnpinv _  | .bisnpdata _  | .bisnpcur _  | .snoopPinTimeout _  | .memrdCompletion _ _
  | .memwrCompletion _ _  | .cxlPortDown _  | .linePoisoned _  | .combSramError _  | .inboundWrite _ _ _  | .bar2Read _ _ _
  | .hostCounterAdd _ _  | .invalidation _  | .invalidationDone _  | .pageLock _  | .pageUnlock _  | .lockDone _  | .counterWatch _ _
  | .registerWrite _ _  | .warmReset  | .coldReset  | .abavasTakeover  | .throttling  | .getVersion  | .getCapabilities
  | .negotiateAlgorithms _  | .getDigests  | .getCertificate _ _ _  | .challenge _ _  | .getMeasurements _  | .dbgctlWrite _ _
  | .domainTableWrite _  | .cxlPortReturnToService _  | .throttlingEnd  | .abavasMailboxMessage _  | .meminvCompletion _ => false

/-- The encoding of an instruction as a syllable or a step (02 R45, R56-R65, R68); an event has none and gives 0. -/
def encode : Instr → Word
  | .add f => SR.word 1 f
  | .sub f => SR.word 2 f
  | .mul f => SR.word 3 f
  | .mulh f => SR.word 4 f
  | .mulhu f => SR.word 5 f
  | .div f => SR.word 6 f
  | .divu f => SR.word 7 f
  | .rem f => SR.word 8 f
  | .remu f => SR.word 9 f
  | .and f => SR.word 10 f
  | .or f => SR.word 11 f
  | .xor f => SR.word 12 f
  | .shl f => SR.word 13 f
  | .shr f => SR.word 14 f
  | .sar f => SR.word 15 f
  | .min f => SR.word 16 f
  | .max f => SR.word 17 f
  | .minu f => SR.word 18 f
  | .maxu f => SR.word 19 f
  | .clz f => SR.word 20 f
  | .popc f => SR.word 21 f
  | .sel f => SR.word 22 f
  | .addi f => SI.word 24 f
  | .andi f => SI.word 25 f
  | .ori f => SI.word 26 f
  | .xori f => SI.word 27 f
  | .shli f => SI.word 28 f
  | .shri f => SI.word 29 f
  | .sari f => SI.word 30 f
  | .movi f => SW.word 31 f
  | .movhi f => SI.word 32 f
  | .lea f => SL.word 33 f
  | .ext f => SF.word 34 f
  | .ins f => SF.word 35 f
  | .ceq f => SR.word 40 f
  | .cne f => SR.word 41 f
  | .clt f => SR.word 42 f
  | .cle f => SR.word 43 f
  | .cltu f => SR.word 44 f
  | .cleu f => SR.word 45 f
  | .ceqi f => SI.word 46 f
  | .clti f => SI.word 47 f
  | .br f => SB.word 48 0 f
  | .brZ f => SB.word 48 1 f
  | .jmp f => SB.word 49 0 f
  | .call f => SB.word 50 0 f
  | .jr f => SX.word 51 f
  | .loop f => SP.word 52 f
  | .loopi f => SQ.word 53 f
  | .lbrk => 54#8 ++ 0#56
  | .lidx f => SX.word 55 f
  | .trap f => SX.word 56 f
  | .eret => 57#8 ++ 0#56
  | .halt => 58#8 ++ 0#56
  | .spld f => SX.word 64 f
  | .spst f => SX.word 65 f
  | .sysrd f => SX.word 72 f
  | .syswr f => SX.word 73 f
  | .capq f => SX.word 74 f
  | .hld f => SH.word 80 f
  | .hst f => SH.word 81 f
  | .hset f => SH.word 82 f
  | .hget f => SH.word 83 f
  | .hmov f => SH.word 84 f
  | .pcfg f => SH.word 88 f
  | .pset f => SH.word 89 f
  | .pget f => SH.word 90 f
  | .vadd f => VF.word 1 f
  | .vsub f => VF.word 2 f
  | .vmul f => VF.word 3 f
  | .vfma f => VF.word 4 f
  | .vfms f => VF.word 5 f
  | .vmax f => VF.word 6 f
  | .vmin f => VF.word 7 f
  | .vabs f => VF.word 8 f
  | .vneg f => VF.word 9 f
  | .vrcp f => VF.word 10 f
  | .vrsq f => VF.word 11 f
  | .vexp2 f => VF.word 12 f
  | .vlog2 f => VF.word 13 f
  | .vtanh f => VF.word 14 f
  | .vand f => VF.word 16 f
  | .vor f => VF.word 17 f
  | .vxor f => VF.word 18 f
  | .vshl f => VF.word 19 f
  | .vshr f => VF.word 20 f
  | .vsar f => VF.word 21 f
  | .vceq f => VF.word 24 f
  | .vclt f => VF.word 25 f
  | .vcle f => VF.word 26 f
  | .vsel f => VF.word 27 f
  | .vcvt f => VF.word 32 f
  | .vqnt f => VF.word 33 f
  | .vdq f => VF.word 34 f
  | .vsrnd f => VF.word 35 f
  | .vscal f => VF.word 36 f
  | .vredsum f => VF.word 40 f
  | .vredmax f => VF.word 41 f
  | .vredmin f => VF.word 42 f
  | .vbcast f => VF.word 43 f
  | .vextr f => VF.word 44 f
  | .vperm f => VF.word 45 f
  | .vmov f => VF.word 48 f
  | .vzero f => VF.word 49 f
  | .vacc f => VF.word 56 f
  | .vaccw f => VF.word 57 f
  | .vadam f => VF.word 58 f
  | .vsgdm f => VF.word 59 f
  | .vbfpn f => VF.word 60 f
  | .mop f => MA.word 1 f
  | .mmac f => MA.word 2 f
  | .mbfp f => MA.word 3 f
  | .mzero f => MA.word 4 f
  | .mdrain f => MA.word 5 f
  | .mload f => MA.word 6 f
  | .msave f => MA.word 7 f
  | .mlend f => MA.word 8 f
  | .mrecl f => MA.word 9 f
  | .mcfg f => MA.word 10 f
  | .mrealn f => MA.word 11 f
  | .knset f => MA.word 16 f
  | .knget f => MA.word 17 f
  | .splld f => MA.word 18 f
  | .splst f => MA.word 19 f
  | .splev f => MA.word 20 f
  | .splbwd f => MA.word 21 f
  | .splgs f => MA.word 22 f
  | .splgx f => MA.word 23 f
  | .splgz => 24#8 ++ 0#56
  | .gridref => 25#8 ++ 0#56
  | .splcnt f => MA.word 26 f
  | .ld f => LS.word 1 f
  | .sld f => LS.word 2 f
  | .gld f => LS.word 3 f
  | .gldr f => LS.word 4 f
  | .tmrd f => LS.word 5 f
  | .wmrd f => LS.word 6 f
  | .pref f => LS.word 7 f
  | .st f => LS.word 1 f
  | .sst f => LS.word 2 f
  | .gst f => LS.word 3 f
  | .gstr f => LS.word 4 f
  | .sfe f => LS.word 5 f
  | .wmc f => LS.word 6 f
  | .dpop f => LS.word 7 f
  | .cpy f => CE.word 1 f
  | .cpy2 f => CE.word 2 f
  | .cpyg f => CE.word 3 f
  | .cpys f => CE.word 4 f
  | .cpyx f => CE.word 5 f
  | .cpyr f => CE.word 6 f
  | .cpyo f => CE.word 7 f
  | .cpyq f => CE.word 8 f
  | .cpyk f => CE.word 9 f
  | .cadd f => YA.word 1 f
  | .caddi f => YA.word 2 f
  | .cwait f => YA.word 3 f
  | .crd f => YA.word 4 f
  | .cflg f => YA.word 5 f
  | .cceil f => YA.word 6 f
  | .amadd f => YA.word 8 f
  | .amax f => YA.word 9 f
  | .amin f => YA.word 10 f
  | .aswp f => YA.word 11 f
  | .acas f => YA.word 12 f
  | .aand f => YA.word 13 f
  | .aor f => YA.word 14 f
  | .afadd f => YA.word 15 f
  | .barr f => YA.word 16 f
  | .bwait f => YA.word 17 f
  | .barq f => YA.word 18 f
  | .tmopn f => YA.word 24 f
  | .tmcls f => YA.word 25 f
  | .tmgov f => YA.word 26 f
  | .tmset f => YA.word 27 f
  | .tmflt f => YA.word 28 f
  | .spawn f => YA.word 32 f
  | .yield => 33#8 ++ 0#56
  | .route f => YA.word 40 f
  | .rtver f => YA.word 41 f
  | .wgl f => YA.word 48 f
  | .wglq f => YA.word 49 f
  | .wglk f => YA.word 50 f
  | .wsend f => WP.word 1 f
  | .wrecv f => WP.word 2 f
  | .wrrs f => WR.word 3 f
  | .wcopy f => WC.word 4 f
  | .wwait thr => 5#8 ++ 0#8 ++ thr
  | .wsig n => 6#8 ++ 0#36 ++ n
  | .wloop cnt => 7#8 ++ 0#24 ++ cnt
  | .wendl => 8#8 ++ 0#56
  | .wagree buf off => 9#8 ++ buf ++ 0#22 ++ off
  | .wflags => 10#8 ++ 0#56
  | .wend => 11#8 ++ 0#56
  | .checkpoint  | .orderedBundle  | .breakpoint  | .resultLands _  | .variableLatencyResult _ _  | .scratchpadWriteLands _
  | .imageLanding _ _  | .multicastLanding _  | .matrixEngineExecute _  | .splineArrayExecute _  | .debugRestart _  | .grant _ _
  | .reserve _ _  | .renew _ _  | .apply _ _  | .pinTokenGrant  | .stampRaise _  | .applyAdd _ _ _ _ _ _  | .applyCflg _ _ _
  | .applyCeil _ _ _ _ _  | .cwaitWake _ _ _  | .barrierArrival _ _ _  | .bwaitReturn _  | .copyLaunchAccept _  | .copyPiece _ _
  | .deltaFlush _ _  | .flushRequest _ _  | .closePublication _  | .launch _  | .schedulerRound  | .descriptorFetch _
  | .dependencyMet _ _ _  | .quantumExpiry _ _  | .taskComplete _  | .faultReport _  | .migrateTrapReceipt _  | .spawnAppend _ _ _ _
  | .schedulerTakeover  | .dieFault _  | .coreWithdrawn _  | .routeChoice _  | .routeDelivery _  | .routedAdd _  | .swarmSample _
  | .replicaCopyDone _  | .replicaCopyStop _  | .redirection _  | .replicaLoss _ _ _  | .replica0Loss _ _  | .gradientMerge _
  | .waggleLaunch _  | .signatureAgreement _  | .chunkArrival _  | .switchSlotLoss _ _ _  | .waggleAbort _ _ _  | .glodricMessage _
  | .glodricPortWithdrawn _  | .destinationTimeout _  | .linkWithdrawn _  | .bisnpinv _  | .bisnpdata _  | .bisnpcur _
  | .snoopPinTimeout _  | .memrdCompletion _ _  | .memwrCompletion _ _  | .cxlPortDown _  | .linePoisoned _  | .combSramError _
  | .inboundWrite _ _ _  | .bar2Read _ _ _  | .hostCounterAdd _ _  | .invalidation _  | .invalidationDone _  | .pageLock _
  | .pageUnlock _  | .lockDone _  | .counterWatch _ _  | .registerWrite _ _  | .warmReset  | .coldReset  | .abavasTakeover
  | .throttling  | .getVersion  | .getCapabilities  | .negotiateAlgorithms _  | .getDigests  | .getCertificate _ _ _  | .challenge _ _
  | .getMeasurements _  | .dbgctlWrite _ _  | .domainTableWrite _  | .cxlPortReturnToService _  | .throttlingEnd
  | .abavasMailboxMessage _  | .meminvCompletion _ => 0

end Instr

/-- The write port a syllable pushes, if any (02 R48 rule 3). A syllable that is illegal by itself pushes nothing, so the slot of the
illegality of a bundle with such a syllable is that one (DESIGN CHOICE, log entry 154). -/
def Syl.pushes : Syl → Option (BitVec 8)
  | .instr i => match i.vform with
    | some f => if portDst f.vd then some f.vd else none
    | none => none
  | _ => none

/-- Whether the bundle breaks a rule across its syllables: two pushes of one port (02 R48), or a `yield` that does not stand alone
(16 R369). The answer is the slot the illegality belongs to. -/
def crossIllegal (syls : List Syl) : Option Nat :=
  let va := (syls.getD 1 .empty).pushes
  if va != none && va == (syls.getD 2 .empty).pushes then some 1
  else if syls.getD 7 .empty == .instr .yield && !((syls.take 7).all (· == .empty)) then some 7
  else none

/-- A decoded bundle: an illegal slot, or the flags [55:52] of the S syllable and the filled slots in order. -/
inductive Bundle where
  | illegal (slot : Nat)
  | ok (flags : BitVec 4) (slots : List (Nat × Instr))
deriving DecidableEq, Repr

/-- Decode of a whole bundle (02 R67 step 1): the lowest-numbered illegal slot, or the slots. -/
def decodeBundle (b : Vec) : Bundle :=
  let syls := (List.range 8).map fun k => decodeSyl k (sylOf b k)
  let bad (k : Nat) : Bool :=
    syls.getD k .empty == .illegal || (k == 0 && b.getLsbD 52) || crossIllegal syls == some k
  match (List.range 8).find? bad with
  | some k => .illegal k
  | none => .ok (b.extractLsb' 52 4) ((List.range 8).filterMap fun k =>
      match syls.getD k .empty with
      | .instr i => some (k, i)
      | _ => none)

/-- The instruction the decoder reads from a bundle whose bits are w: the lowest-numbered filled slot's instruction, or, when every
slot is empty, the row of a bundle flag that is set. -/
def decodeTableWord (nbits w : Nat) : Option Instr :=
  match decodeBundle (BitVec.ofNat 512 (w % 2 ^ nbits)) with
  | .illegal _ => none
  | .ok _ ((_, i) :: _) => some i
  | .ok flags [] =>
    if flags.getLsbD 3 then some .checkpoint
    else if flags.getLsbD 2 then some .orderedBundle
    else if flags.getLsbD 1 then some .breakpoint
    else none

end Sys2Proof
end

