-- ==== Sys2Proof/Config.lean ====
section
/-! DEFINITION. What one module fixes (real latencies of the two grades, fixed costs) and the free values: opaque constants with no
body, for results and times that the spec leaves open. -/

namespace Sys2Proof.Config

/-- Real latency of class LCn on an F-grade die (01 "Latency classes", 17 R375). -/
def latF (n : Nat) : Nat := [1, 3, 1, 2, 2, 4, 8, 3, 2, 6, 4, 2].getD n 1

/-- Real latency of class LCn on an L-grade die; LC9 is absent there. -/
def latL (n : Nat) : Nat := [1, 4, 1, 3, 3, 6, 12, 4, 3, 6, 6, 3].getD n 1

/-- Clocks until a variable-latency result lands (01 R32: implementation-dependent), by the state's free-value counter. -/
opaque freeTime : Nat → Nat

/-- The fixed function of `vrsq` between the two f32 neighbours of 1/√x (06 R154), by the f32 bits of x. -/
opaque vrsqUp : BitVec 32 → Bool

/-- The fixed functions of `vexp2`, `vlog2` and `vtanh` (06 R154): which of the f32 values within the error bound, by the f32 bits
of x. -/
opaque vexp2 : BitVec 32 → Nat
opaque vlog2 : BitVec 32 → Nat
opaque vtanh : BitVec 32 → Nat

/-- The set, of 1,024, of a die's translation cache that a page falls in (11 R266: 8,192 entries, 8-way), by the page's address and bits. -/
opaque tlbSet : Nat → Nat → Nat

/-- Waiter registrations that a comb die's SRAM and overflow area hold together, beyond 2^18 (11 R255: 16 MiB; the size of a
registration is not given). -/
opaque waiterRoom : Nat → Nat

/-- The hash of source module, destination module and operation by which a message's port is chosen (23 R427). -/
opaque portHash : Nat → Nat → Nat → Nat

/-- Where the firmware has reserved the spill area in pool memory, as an offset from 2^56 (24 R445: the place is not given). -/
opaque spillBase : Nat

/-- A free choice, by the state's free-value counter. -/
opaque freeChoice : Nat → Nat

/-- A free byte, by the state's free-value counter and an index. -/
opaque freeByte : Nat → Nat → Byte

/-- A byte of the certificate chain of an SPDM slot, and the chain's length (15 R350: the spec does not give them). -/
opaque certByte : Nat → Nat → Byte
opaque certLen : Nat → Nat
/-- A byte of a slot's certificate digest. -/
opaque digestByte : Nat → Nat → Byte

/-- Whether the Abavas image, and the firmware that the controller then verifies, pass at a cold reset (15 R349): inputs of the bring-up. -/
opaque abavasPass : Nat → Bool
opaque imagesPass : Nat → Bool

/-- What a function's header and serial number hold (15 R337, R344: the spec does not give the codes). -/
opaque vendorCode : BitVec 16
opaque deviceCode : BitVec 16
opaque classCode : BitVec 24
opaque serial : BitVec 64
/-- The order of a function's capabilities in its two lists, the dwords free after each, the versions of the extended ones, the addresses
given to its windows, and the dwords of its configuration space that the spec does not give, by function and offset (15 R337, R344). -/
opaque capOrder : Nat → Nat
opaque capGap : Nat → Nat → Nat
opaque capVersion : Nat → BitVec 4
opaque barBase : Nat → Nat → BitVec 64
opaque cfgDword : Nat → Nat → BitVec 32

/-- A byte of a measurement block that is no digest of state (15 R350), by its index. -/
opaque measureByte : Nat → Nat → Byte
/-- The length of the measurement blocks that are no SHA-256 value, 1 and 4. -/
opaque measureLen : Nat → Nat

end Sys2Proof.Config
end

