-- ==== Sys2Proof/Machine/Numbers.lean ====
section
/-! DEFINITION. The core's numbers (05): exact values, the formats of R127-R133, the three roundings of R134, convert_sat (R137),
mx4_encode (R138), the BFP24 helpers (R142), the reduction trees (R144), and the lanes of a vector (06 R147). Flags are returned as
three bits NV, OF, UF (R140). Every function is exact integer arithmetic. -/

namespace Sys2Proof.Machine

def flagNV : Flags := 1
def flagOF : Flags := 2
def flagUF : Flags := 4

namespace Q
def zero : Q := ⟨0, 1⟩
def ofInt (n : Int) : Q := ⟨n, 1⟩
/-- n × 2^k. -/
def scaled (n : Int) (k : Int) : Q := if 0 ≤ k then ⟨n * 2 ^ k.toNat, 1⟩ else ⟨n, 2 ^ (-k).toNat⟩
def add (a b : Q) : Q := if a.den = b.den then ⟨a.num + b.num, a.den⟩ else ⟨a.num * b.den + b.num * a.den, a.den * b.den⟩
def mul (a b : Q) : Q := ⟨a.num * b.num, a.den * b.den⟩
def neg (a : Q) : Q := ⟨-a.num, a.den⟩
def sub (a b : Q) : Q := a.add b.neg
/-- Quotient by a non-zero b. -/
def div (a b : Q) : Q := ⟨a.num * b.den * b.num.sign, a.den * b.num.natAbs⟩
def scale (a : Q) (k : Int) : Q := if 0 ≤ k then ⟨a.num * 2 ^ k.toNat, a.den⟩ else ⟨a.num, a.den * 2 ^ (-k).toNat⟩
def lt (a b : Q) : Bool := a.num * b.den < b.num * a.den
def le (a b : Q) : Bool := a.num * b.den ≤ b.num * a.den
def eq (a b : Q) : Bool := a.num * b.den == b.num * a.den
def abs (a : Q) : Q := ⟨a.num.natAbs, a.den⟩
def floor (a : Q) : Int := a.num / a.den
end Q

namespace XV
def zero : XV := .fin false .zero
def ofInt (n : Int) : XV := .fin false (.ofInt n)
def isNaN : XV → Bool | .nan _ => true | _ => false
/-- The sign of a value, −0 counting as negative. -/
def isNeg : XV → Bool
  | .nan s => s
  | .inf s => s
  | .fin nz q => if q.num = 0 then nz else q.num < 0
def isZero : XV → Bool | .fin _ q => q.num == 0 | _ => false
def isInf : XV → Bool | .inf _ => true | _ => false
/-- −x; a NaN changes its sign too (`vneg`, 06 R152). -/
def neg : XV → XV
  | .nan s => .nan !s
  | .inf s => .inf !s
  | .fin nz q => .fin (!nz) q.neg
def abs : XV → XV
  | .nan _ => .nan false
  | .inf _ => .inf false
  | .fin _ q => .fin false q.abs
/-- Exact sum; the flag says that NaN was read or produced (06 R152, 05 R129). -/
def add (a b : XV) : XV × Flags :=
  match a, b with
  | .nan s, _ => (.nan s, flagNV)
  | _, .nan s => (.nan s, flagNV)
  | .inf s, .inf t => if s == t then (.inf s, 0) else (.nan false, flagNV)
  | .inf s, _ => (.inf s, 0)
  | _, .inf s => (.inf s, 0)
  | .fin za p, .fin zb q => (.fin (p.num == 0 && q.num == 0 && za && zb) (p.add q), 0)
/-- Exact difference; a NaN operand keeps its own sign. -/
def sub (a b : XV) : XV × Flags := if b.isNaN then add a b else add a b.neg
/-- Exact product; 0 × Inf gives the positive NaN. -/
def mul (a b : XV) : XV × Flags :=
  match a, b with
  | .nan s, _ => (.nan s, flagNV)
  | _, .nan s => (.nan s, flagNV)
  | .inf s, y => if y.isZero then (.nan false, flagNV) else (.inf (s != y.isNeg), 0)
  | x, .inf t => if x.isZero then (.nan false, flagNV) else (.inf (x.isNeg != t), 0)
  | .fin za p, .fin zb q => (.fin ((XV.fin za p).isNeg != (XV.fin zb q).isNeg) (p.mul q), 0)
/-- x × 2^k. -/
def scale (k : Int) : XV → XV
  | .fin nz q => .fin nz (q.scale k)
  | x => x
/-- a < b by value; −0 equals +0; NaN is never compared. -/
def lt (a b : XV) : Bool :=
  match a, b with
  | .fin _ p, .fin _ q => p.lt q
  | .inf s, .inf t => s && !t
  | .inf s, .fin _ _ => s
  | .fin _ _, .inf t => !t
  | _, _ => false
/-- a = b by value. -/
def eqv (a b : XV) : Bool :=
  match a, b with
  | .fin _ p, .fin _ q => p.eq q
  | .inf s, .inf t => s == t
  | _, _ => false
/-- a < b with −0 below +0 (05 R144, 06 R152). -/
def ltz (a b : XV) : Bool := a.lt b || (a.isZero && b.isZero && a.isNeg && !b.isNeg)
/-- Maximum or minimum of two values, NaN first (06 R152). -/
def maxmin (mx : Bool) (a b : XV) : XV × Flags :=
  if a.isNaN then (a, flagNV) else if b.isNaN then (b, flagNV)
  else if (if mx then a.ltz b else b.ltz a) then (b, 0) else (a, 0)
end XV

/-- Precision p, emin, exponent bits, mantissa bits and bias of a floating format (R127, R128), by type code. -/
structure FFmt where
  p : Int
  emin : Int
  eb : Nat
  mb : Nat
  bias : Int
  /-- The largest finite value, as n × 2^k. -/
  maxN : Int
  maxK : Int
deriving DecidableEq, Repr

/-- The floating formats f32, bf16, e4m3, e5m2 and the mx4 element (R128). -/
def ffmt (ty : Nat) : Option FFmt :=
  match ty with
  | 0 => some ⟨24, -126, 8, 23, 127, 16777215, 104⟩
  | 1 => some ⟨8, -126, 8, 7, 127, 255, 120⟩
  | 2 => some ⟨4, -6, 4, 3, 7, 14, 5⟩
  | 3 => some ⟨3, -14, 5, 2, 15, 7, 13⟩
  | 4 => some ⟨2, 0, 2, 1, 1, 3, 1⟩
  | _ => none

/-- emax of a format, as the binning rule uses it (R128, 14 R318). -/
def emaxOf (ty : Nat) : Int :=
  match ty with
  | 0 => 127 | 1 => 127 | 2 => 8 | 3 => 15 | 4 => 2 | _ => 0

/-- Width of a lane in bits (06 R147); an mx4 element has 4. -/
def widthOf (ty : Nat) : Nat :=
  match ty with
  | 0 => 32 | 1 => 16 | 2 => 8 | 3 => 8 | 4 => 4 | 5 => 8 | 6 => 32 | 7 => 32 | _ => 8

/-- Two's-complement reading of the low w bits. -/
def sint (w n : Nat) : Int :=
  let m := n % 2 ^ w
  if m < 2 ^ (w - 1) then m else (m : Int) - 2 ^ w

/-- The low w bits of an integer. -/
def ubits (w : Nat) (n : Int) : Nat := (n % (2 ^ w : Int)).toNat

/-- The exact value of a code of a format (R127-R132). -/
def valueOf (ty bits : Nat) : XV :=
  match ffmt ty with
  | none => .ofInt (sint (widthOf ty) bits)
  | some f =>
    let b := bits % 2 ^ widthOf ty
    let s := b / 2 ^ (f.eb + f.mb) == 1
    let e := b / 2 ^ f.mb % 2 ^ f.eb
    let m := b % 2 ^ f.mb
    let sg (n : Int) : Int := if s then -n else n
    if ty != 4 && ty != 2 && e == 2 ^ f.eb - 1 then (if m == 0 then .inf s else .nan s)
    else if ty == 2 && e == 15 && m == 7 then .nan s
    else if e == 0 then .fin s (.scaled (sg m) (1 - f.bias - f.mb))
    else .fin s (.scaled (sg (2 ^ f.mb + m)) (e - f.bias - f.mb))

/-- The canonical NaN of a sign (R129). -/
def canonNaN (ty : Nat) (neg : Bool) : Nat :=
  let s := if neg then 1 else 0
  match ty with
  | 0 => 0x7FC00000 + s * 0x80000000
  | 1 => 0x7FC0 + s * 0x8000
  | 2 => 0x7F + s * 0x80
  | 3 => 0x7E + s * 0x80
  | _ => 0

/-- floor(log2 (a / d)) of positive a and d. -/
def floorLog2 (a d : Nat) : Int :=
  let k : Int := (a.log2 : Int) - d.log2
  let ge := if 0 ≤ k then d * 2 ^ k.toNat ≤ a else d ≤ a * 2 ^ (-k).toNat
  if ge then k else k - 1

/-- The rounding of R134 in units of 2^k: the kept magnitude, rounded up or not; mode 0 RNE, 1 RTZ, 2 SR with draw r. -/
def roundUnits (a d : Nat) (k : Int) (mode r : Nat) : Nat :=
  let nu := if 0 ≤ k then a else a * 2 ^ (-k).toNat
  let de := if 0 ≤ k then d * 2 ^ k.toNat else d
  let n := nu / de
  let rem := nu % de
  let up := match mode with
    | 0 => 2 * rem > de || (2 * rem == de && n % 2 == 1)
    | 1 => false
    | _ => rem * 65536 / de + r ≥ 65536
  if up then n + 1 else n

/-- The bits of sign × m × 2^k, a value on the format's grid that is at most its largest finite value. -/
def encodeGrid (f : FFmt) (neg : Bool) (m : Nat) (k : Int) : Nat :=
  let s := if neg then 2 ^ (f.eb + f.mb) else 0
  if m == 0 then s else
  let e : Int := (m.log2 : Int) + k
  if e < f.emin then s + m
  else
    let sh : Int := f.mb - m.log2
    let man := if 0 ≤ sh then m * 2 ^ sh.toNat else m / 2 ^ (-sh).toNat
    s + (e + f.bias).toNat * 2 ^ f.mb + (man - 2 ^ f.mb)

/-- The bits of ±max of a format (R137). -/
def maxBits (ty : Nat) (neg : Bool) : Nat :=
  match ty with
  | 0 => 0x7F7FFFFF + (if neg then 0x80000000 else 0)
  | 1 => 0x7F7F + (if neg then 0x8000 else 0)
  | 2 => 0x7E + (if neg then 0x80 else 0)
  | 3 => 0x7B + (if neg then 0x80 else 0)
  | 4 => 7 + (if neg then 8 else 0)
  | 5 => if neg then 0x80 else 0x7F
  | _ => if neg then 0x80000000 else 0x7FFFFFFF

/-- The bits of ±Inf of f32, bf16 and e5m2. -/
def infBits (ty : Nat) (neg : Bool) : Nat :=
  match ty with
  | 0 => 0x7F800000 + (if neg then 0x80000000 else 0)
  | 1 => 0x7F80 + (if neg then 0x8000 else 0)
  | _ => 0x7C + (if neg then 0x80 else 0)

/-- convert_sat (R137): the destination bits and the flags. -/
def convertSat (x : XV) (ty mode r : Nat) : Nat × Flags :=
  match x with
  | .nan s => if ty == 5 || ty == 6 then (0, flagNV) else (canonNaN ty s, flagNV)
  | .inf s => if ty == 0 || ty == 1 || ty == 3 then (infBits ty s, 0) else (maxBits ty s, flagOF)
  | .fin nz q =>
    if q.num = 0 then
      match ffmt ty with
      | some f => (encodeGrid f nz 0 0, 0)
      | none => (0, 0)
    else
      let neg := decide (q.num < 0)
      let a := q.num.natAbs
      match ffmt ty with
      | none =>
        let w := widthOf ty
        let n := roundUnits a q.den 0 mode r
        if neg then (if n > 2 ^ (w - 1) then (maxBits ty true, flagOF) else (ubits w (-(n : Int)), 0))
        else (if n ≥ 2 ^ (w - 1) then (maxBits ty false, flagOF) else (n, 0))
      | some f =>
        let e := floorLog2 a q.den
        let k := max e f.emin - f.p + 1
        let n := roundUnits a q.den k mode r
        if (Q.scaled f.maxN f.maxK).lt (.scaled n k) then
          if (ty == 0 || ty == 1) && mode != 1 then (infBits ty neg, flagOF) else (maxBits ty neg, flagOF)
        else
          let uf := ty != 4 && e < f.emin && !(Q.eq ⟨a, q.den⟩ (.scaled n k))
          (encodeGrid f neg n k, if uf then flagUF else 0)

/-- A sum from its first term on: −0 terms alone give −0 (R129). -/
def sumXV : List (XV × Flags) → XV × Flags
  | [] => (.zero, 0)
  | t :: ts => ts.foldl (fun acc u => let (r, f) := acc.1.add u.1; (r, acc.2 ||| u.2 ||| f)) t

/-- convert_sat toward f32 under RNE, as a value with its flags; NaN comes back canonical. -/
def toF32 (x : XV) : XV × Flags := let (b, f) := convertSat x 0 0 0; (valueOf 0 b, f)

/-- mx4_encode (R138): the scale byte, the 32 element codes and the flags. -/
def mx4Encode (xs : List XV) (mode : Nat) (rs : List Nat) : Nat × List Nat × Flags :=
  if xs.any XV.isNaN then (0xFF, List.replicate xs.length 0, flagNV) else
  let m := xs.foldl (fun (acc : Q) x => match x with
    | .fin _ q => if acc.lt q.abs then q.abs else acc
    | _ => acc) .zero
  let sc : Nat :=
    if m.num = 0 then 0 else
    let f := floorLog2 m.num.natAbs (6 * m.den)
    let j := if m.eq (.scaled 6 f) then f else f + 1
    min (j + 127).toNat 0xFE
  let cs := (xs.zip (rs ++ List.replicate xs.length 0)).map fun (x, r) => convertSat (x.scale (127 - sc)) 4 mode r
  (sc, cs.map (·.1), cs.foldl (fun f c => f ||| c.2) 0)

/-- The value of an mx4 element under its block scale (R131, R138). The spec gives the NaN of a block with scale 0xFF no sign: it reads as
positive (DESIGN CHOICE, log entry 115). -/
def mx4Value (sc code : Nat) : XV :=
  if sc == 0xFF then .nan false else (valueOf 4 code).scale ((sc : Int) - 127)

/-! ### BFP24 (R133, R142) -/

/-- The NaN marker of a bfp24 element. -/
def nan24 : Int := -8388608
/-- The largest finite mantissa. -/
def max24 : Int := 8388607

/-- A bfp24 block: its exponent and its mantissas. -/
structure Bfp where
  e : Nat
  m : List Int
deriving DecidableEq, Repr

/-- rne_int (R142). -/
def rneInt (q : Q) : Int :=
  let n := roundUnits q.num.natAbs q.den 0 0 0
  if q.num < 0 then -(n : Int) else n

/-- One whole-block realignment step (R142). -/
def Bfp.realign (b : Bfp) : Bfp :=
  ⟨b.e + 1, b.m.map fun m => if m = nan24 then m else rneInt ⟨m, 2⟩⟩

/-- The realignment loop of bfp_add on finite addends (`none` at a lane outside L). -/
def Bfp.addLoop (fuel : Nat) (b : Bfp) (xs : List (Option Q)) : Bfp × Flags :=
  let sums := (b.m.zip xs).map fun (m, x) => x.map fun q => m + rneInt (q.scale (149 - b.e))
  let fits (s : Option Int) : Bool := match s with
    | some v => v.natAbs ≤ 8388607
    | none => true
  let put (f : Int → Int) : List Int := (b.m.zip sums).map fun (m, s) => match s with
    | some v => f v
    | none => m
  if sums.all fits then (⟨b.e, put id⟩, 0)
  else if b.e ≥ 0xFE then (⟨b.e, put fun v => if v.natAbs ≤ 8388607 then v else v.sign * max24⟩, flagOF)
  else match fuel with
    | 0 => (b, 0)
    | n + 1 => Bfp.addLoop n b.realign xs

/-- bfp_add (R142): `none` at lanes outside L. A lane that has become NAN24 has left L: an infinite addend changes it no more (DESIGN
CHOICE, log entry 116). -/
def Bfp.add (b : Bfp) (xs : List (Option XV)) : Bfp × Flags :=
  let z := b.m.zip (xs ++ List.replicate b.m.length none)
  let nv := z.any fun (m, x) => match x with
    | some v => v.isNaN || m = nan24
    | none => false
  let anyOver := z.any fun (m, x) => match x with
    | some v => !(v.isNaN || m = nan24) && v.isInf
    | none => false
  let ms := z.map fun (m, x) => match x with
    | some v => if v.isNaN || m = nan24 then nan24 else match v with
      | .inf s => if s then -max24 else max24
      | _ => m
    | none => m
  let rest := z.map fun (m, x) => match x with
    | some (.fin _ q) => if m = nan24 then none else some q
    | _ => none
  let (b', f) := Bfp.addLoop 256 ⟨b.e, ms⟩ rest
  (b', f ||| (if nv then flagNV else 0) ||| (if anyOver then flagOF else 0))

/-- bfp_encode of 64 values (R142). -/
def bfpEncode (xs : List XV) : Bfp × Flags := Bfp.add ⟨0, List.replicate xs.length 0⟩ (xs.map some)

/-- The value of one mantissa at an exponent (R133, R139). -/
def bfpValue (e : Nat) (m : Int) : XV := if m = nan24 then .nan false else .fin false (.scaled m (e - 149))

/-- A word of the memory layout: EX [31:24], M [23:0] (R133). -/
def bfpWord (e : Nat) (m : Int) : Nat := e * 2 ^ 24 + ubits 24 m

/-- An exponent read from memory: 0xFF reads as 0xFE (R133). -/
def bfpExp (w : Nat) : Nat := min (w / 2 ^ 24 % 256) 0xFE

/-- The block in a list of memory words; the exponent is word 0's. -/
def bfpOfWords (ws : List Nat) : Bfp := ⟨bfpExp (ws.headD 0), ws.map fun w => sint 24 w⟩

/-! ### Square root and the transcendentals (06 R154, R170) -/

/-- floor(√n) by Newton's iteration from above. -/
def isqrtFrom (n : Nat) : Nat → Nat → Nat
  | 0, x => x
  | fuel + 1, x => let y := (x + n / x) / 2; if y < x then isqrtFrom n fuel y else x
def isqrt (n : Nat) : Nat := if n = 0 then 0 else isqrtFrom n 64 (2 ^ (n.log2 / 2 + 1))

/-- √q of a non-negative q to 4,096 fraction bits, with a sticky half unit when inexact: rounding an expression of it that
`vadam` forms (06 R170) gives what rounding the exact expression gives, because such an expression differs from any rounding
boundary by more than 2^-2500. -/
def sqrtQ (q : Q) : Q :=
  let n := q.num.natAbs * 2 ^ 8192 / q.den
  let s := isqrt n
  if s * s * q.den == q.num.natAbs * 2 ^ 8192 then ⟨s, 2 ^ 4096⟩ else ⟨2 * s + 1, 2 ^ 4097⟩

/-- `vrcp` on an f32 value: t and its flags (06 R154). -/
def rcpT (x : XV) : Nat × Flags :=
  match x with
  | .nan s => (canonNaN 0 s, flagNV)
  | .inf s => (if s then 0x80000000 else 0, 0)
  | .fin nz q => if q.num = 0 then (infBits 0 nz, 0) else convertSat (.fin false ((Q.ofInt 1).div q)) 0 0 0

/-- `vrsq`: the exact value where it is on the f32 grid, else one of its two neighbours by the fixed function (06 R154). -/
def rsqT (x : XV) (bits : BitVec 32) : Nat × Flags :=
  match x with
  | .nan s => (canonNaN 0 s, flagNV)
  | .inf s => if s then (canonNaN 0 false, flagNV) else (0, 0)
  | .fin nz q =>
    if q.num = 0 then (infBits 0 nz, 0)
    else if q.num < 0 then (canonNaN 0 false, flagNV)
    else
      let a := q.num.natAbs
      let k := (floorLog2 q.den a) / 2 - 23
      let nu := if 0 ≤ k then q.den else q.den * 2 ^ (2 * (-k).toNat)
      let de := if 0 ≤ k then a * 2 ^ (2 * k.toNat) else a
      let n := isqrt (nu / de)
      let m := if n * n * de == nu then n else if Config.vrsqUp bits then n + 1 else n
      convertSat (.fin false (.scaled m k)) 0 1 0

/-- The f32 bits of an integer power of two in the normal or subnormal range. -/
def pow2Bits (k : Int) : Nat := (convertSat (.fin false (.scaled 1 k)) 0 1 0).1

/-- One of the grid points that lie from `below` units under the greatest of [lo, hi] to `above` units over the least: the fixed
function's choice. With lo and hi in one unit these are the values on the grid of that unit within the bound of 06 R154. Just above a power
of two a value on the finer grid below it can lie within the bound too; the model never takes it (DESIGN CHOICE, log entry 21). -/
def pickUnits (lo hi below above c : Nat) : Int := (hi : Int) - below + c % (lo + below + above + 1 - hi)

/-- The exponent of the f32 grid at a positive value (05 R134). -/
def gridExp (q : Q) : Int := max (floorLog2 q.num.natAbs q.den) (-126) - 23

/-- q in whole units of 2^k, rounded down. -/
def inUnits (q : Q) (k : Int) : Nat := (q.scale (-k)).floor.toNat

/-- One, in fixed point with 640 fraction bits. -/
def fixOne : Nat := 2 ^ 640

/-- 2^(a / 2^n) in fixed point, from `root` = 2^(2^-i) on, by a square root for each bit of a: at most 2^32 units below the exact value. -/
def exp2Bits (a : Nat) : Nat → Nat → Nat → Nat
  | 0, _, acc => acc
  | n + 1, root, acc =>
    let r := isqrt (root * fixOne)
    exp2Bits a n r (if a / 2 ^ n % 2 = 1 then acc * r / fixOne else acc)

/-- `vexp2` (06 R154): exact at integers; elsewhere an f32 value less than one ulp from 2^x, chosen by the fixed function. -/
def exp2T (x : XV) (bits : BitVec 32) : Nat × Flags :=
  match x with
  | .nan s => (canonNaN 0 s, flagNV)
  | .inf s => (if s then 0 else infBits 0 false, 0)
  | .fin _ q =>
    let n := q.floor
    if n ≥ 128 then (infBits 0 false, flagOF)
    else if q.eq (.ofInt n) && n ≥ -149 then (pow2Bits n, 0)
    else
      let f := if n < -150 then 0 else exp2Bits (q.num - n * q.den).toNat q.den.log2 (2 * fixOne) fixOne
      let v (f : Nat) : Q := if n < -150 then .zero else Q.scale ⟨f, fixOne⟩ n
      let k := max n (-126) - 23
      let m := pickUnits (inUnits (v f) k) (inUnits (v (f + 2 ^ 32)) k) 0 1 (Config.vexp2 bits)
      ((convertSat (.fin false (.scaled m k)) 0 1 0).1, if n < -126 then flagUF else 0)

/-- The first n fraction bits of log2 y, for y in [1, 2) in fixed point, by squaring; `up` rounds every step up instead of down. -/
def log2Bits (up : Nat) : Nat → Nat → Nat → Nat
  | 0, _, acc => acc
  | n + 1, y, acc =>
    let z := y * y / fixOne + up
    if 2 * fixOne ≤ z then log2Bits up n ((z + up) / 2) (2 * acc + 1) else log2Bits up n z (2 * acc)

/-- `vlog2` (06 R154): exact at powers of two; elsewhere an f32 value less than one ulp from log2 x, chosen by the fixed function. -/
def log2T (x : XV) (bits : BitVec 32) : Nat × Flags :=
  match x with
  | .nan s => (canonNaN 0 s, flagNV)
  | .inf s => if s then (canonNaN 0 false, flagNV) else (infBits 0 false, 0)
  | .fin _ q =>
    if q.num = 0 then (infBits 0 true, 0)
    else if q.num < 0 then (canonNaN 0 false, flagNV)
    else
      let e := floorLog2 q.num.natAbs q.den
      if q.eq (.scaled 1 e) then ((convertSat (.ofInt e) 0 0 0).1, 0)
      else
        let y := inUnits (q.scale (-e)) (-640)
        let f0 : Q := ⟨log2Bits 0 200 y 0, 2 ^ 200⟩
        let f1 : Q := ⟨log2Bits 1 200 y 0 + 1, 2 ^ 200⟩
        let lo := if e < 0 then (Q.ofInt (-e)).sub f1 else (Q.ofInt e).add f0
        let hi := if e < 0 then (Q.ofInt (-e)).sub f0 else (Q.ofInt e).add f1
        let k := gridExp lo
        let m := pickUnits (inUnits lo k) (inUnits hi k) 0 1 (Config.vlog2 bits)
        ((convertSat (.fin false (.scaled (if e < 0 then -m else m) k)) 0 1 0).1, 0)

/-- The first n terms of e^r in fixed point, from term i on. -/
def expTerms (r : Nat) : Nat → Nat → Nat → Nat
  | 0, _, _ => 0
  | n + 1, i, t => t + expTerms r n (i + 1) (t * r / fixOne / (i + 1))
/-- x^(2^n) in fixed point. -/
def squares : Nat → Nat → Nat
  | 0, x => x
  | n + 1, x => squares n (x * x / fixOne)

/-- Bounds of tanh a for 0 < a < 9.011. Below 2^-12 the exact value lies less than one unit below a, which is on the grid; elsewhere
e^(2a) is at most 2^100 units above its fixed-point value, and tanh a = (e^(2a) − 1) / (e^(2a) + 1). -/
def tanhUnits (a : Q) : Nat × Nat × Int :=
  if a.lt (.scaled 1 (-12)) then
    let e := floorLog2 a.num.natAbs a.den
    let k := max (if a.eq (.scaled 1 e) then e - 1 else e) (-126) - 23
    (inUnits a k - 1, inUnits a k - 1, k)
  else
    let x := squares 10 (expTerms (inUnits (a.scale (-9)) (-640)) 60 0 fixOne)
    let t (x : Nat) : Q := ⟨(x : Int) - fixOne, x + fixOne⟩
    let k := gridExp (t x)
    (inUnits (t x) k, inUnits (t (x + 2 ^ 100)) k, k)

/-- `vtanh` (06 R154): ±0 and ±Inf are exact; from |x| ≥ 9.011 the result is ±(1 − 2^−24) or ±1; elsewhere an f32 value less than two
ulp from tanh x, chosen by the fixed function. -/
def tanhT (x : XV) (bits : BitVec 32) : Nat × Flags :=
  match x with
  | .nan s => (canonNaN 0 s, flagNV)
  | .inf s => ((if s then 0x80000000 else 0) + 0x3F800000, 0)
  | .fin nz q =>
    let neg := (XV.fin nz q).isNeg
    let s := if neg then 0x80000000 else 0
    if q.num = 0 then (s, 0)
    else if Q.le ⟨9011, 1000⟩ q.abs then (s + 0x3F7FFFFF + Config.vtanh bits % 2, 0)
    else
      let (lo, hi, k) := tanhUnits q.abs
      let m := pickUnits lo hi 1 2 (Config.vtanh bits)
      ((convertSat (.fin neg (.scaled (if neg then -m else m) k)) 0 1 0).1, 0)

/-! ### Lanes (06 R147) -/

/-- Lane i of width w bits of a vector. -/
def laneN (v : Vec) (w i : Nat) : Nat := v.toNat / 2 ^ (w * i) % 2 ^ w

/-- The vector of lanes of width w, lane 0 lowest. -/
def ofLanes (w : Nat) (ls : List Nat) : Vec :=
  BitVec.ofNat 512 (ls.foldr (fun x acc => acc * 2 ^ w + x % 2 ^ w) 0)

/-- The byte list of a vector, lowest first. -/
def vecBytes (v : Vec) : List Byte := (List.range 64).map fun i => v.extractLsb' (8 * i) 8

/-- The vector of up to 64 bytes, lowest first. -/
def vecOfBytes (bs : List Byte) : Vec := ofLanes 8 (bs.map BitVec.toNat)

/-- The exact elements of a vector of a type (06 R147): mx4 in the mx4 vector form, bfp24 with lane 0's exponent. -/
def elemsOf (ty : Nat) (v : Vec) : List XV :=
  match ty with
  | 4 => (List.range 64).map fun i => mx4Value (laneN v 8 (32 + i / 32)) (laneN v 4 i)
  | 7 => let e := bfpExp (laneN v 32 0); (List.range 16).map fun i => bfpValue e (sint 24 (laneN v 32 i))
  | _ => (List.range (512 / widthOf ty)).map fun i => valueOf ty (laneN v (widthOf ty) i)

/-- The mx4 vector form of two blocks (06 R147). -/
def mx4Vec (b0 b1 : Nat × List Nat) : Vec :=
  ofLanes 4 (b0.2 ++ b1.2 ++ [b0.1 % 16, b0.1 / 16, b1.1 % 16, b1.1 / 16])

/-- A broadcast of the low bits of a register as a vector of a type (06 R148). -/
def bcastVec (ty : Nat) (w : Word) : Vec :=
  ofLanes (widthOf ty) (List.replicate (512 / widthOf ty) w.toNat)

/-- Convert a list of values into lanes of a type, lane by lane (R137), with one draw each. -/
def convLanes (xs : List XV) (ty mode : Nat) (rs : List Nat) : List Nat × Flags :=
  let cs := (xs.zip (rs ++ List.replicate xs.length 0)).map fun (x, r) => convertSat x ty mode r
  (cs.map (·.1), cs.foldl (fun f c => f ||| c.2) 0)

/-- The pairwise reduction tree of R144 over a list whose length is a power of two. -/
def treeRed (op : XV → XV → XV × Flags) : Nat → List XV → XV × Flags
  | 0, ws => (ws.headD .zero, 0)
  | n + 1, ws =>
    match ws with
    | [w] => (w, 0)
    | _ =>
      let rec pairs : List XV → List (XV × Flags)
        | a :: b :: t => op a b :: pairs t
        | [a] => [(a, 0)]
        | [] => []
      let ps := pairs ws
      let (r, f) := treeRed op n (ps.map (·.1))
      (r, f ||| ps.foldl (fun f p => f ||| p.2) 0)

/-- bin_of (14 R318): bin 0 O, 1-30 H0-H29, 31 U, 32 Z, 33 N. -/
def binOf (x : XV) (e : Int) (ty : Nat) : Nat :=
  match x with
  | .fin _ q =>
    if q.num = 0 then 32 else
    let d := emaxOf ty - (floorLog2 q.num.natAbs q.den - e)
    if d < 0 then 0 else if d ≤ 29 then d.toNat + 1 else 31
  | _ => 33

end Sys2Proof.Machine
end

