-- ==== Sys2Proof/Machine/StateCore.lean ====
section
/-! DEFINITION. The state of a strand and of the core that carries it (01, 03, 04, 07-10, 12): plain data only. -/

namespace Sys2Proof.Machine

/-- A sparse map in canonical form: keys rising, no entry equal to the default (see Ops: `SMap.wf`). -/
abbrev SMap (α : Type) := List (Nat × α)

/-- A loop-stack entry that is live (01 R17): COUNT, INDEX, START, END. -/
structure LoopEnt where
  count : BitVec 32
  index : BitVec 32
  start : BPc
  last : BPc
deriving DecidableEq, Repr

/-- The items of 01 R15 that the shadow set holds and a rollback restores. Ports 0-5 are p0-p5, ports 6-9 are q0-q3. -/
structure Arch where
  pc : BPc
  /-- live entries, l0 first -/
  loops : List LoopEnt
  regs : Vector Word 32
  empties : Vector Bool 32
  handles : Vector (BitVec 256) 16
  ports : Vector (BitVec 256) 10
  knots : Vector Word 4
  seed : Word
  flags : Flags
deriving DecidableEq, Repr

/-- What an exposed-latency result does when it lands (01 R30, 04 R121). -/
inductive PendAct where
  | sreg (r : BitVec 5) (v : Word)
  /-- scratchpad bytes and full/empty bits; the write port that they were pushed to, by its index -/
  | spad (port : Option Nat) (bytes : List (Nat × Byte)) (bits : List (Nat × Bool))
  /-- a field of a handle (03 R98): its lowest bit, width and value -/
  | hfield (h : BitVec 4) (lo w v : Nat)
  /-- the flags of a result with no other effect here: a drained tile, an engine operation -/
  | flags
deriving DecidableEq, Repr

/-- A pending exposed write (01 R30, R42): the strand cycle it is due (none: native), the clock its real latency has elapsed, a
second latency stage (06 R149), its bundle and slot order, its effect, its flags and its class. -/
structure Pend where
  due : Option Nat
  ready : Nat
  next : Option (Nat × Nat)
  seq : Nat
  act : PendAct
  flags : Flags
  cls : Nat
deriving DecidableEq, Repr

/-- The destination of a variable-latency result (01 R32, 03 R100). -/
inductive VDst where
  | sreg (r : BitVec 5)
  | handle (h : BitVec 4)
deriving DecidableEq, Repr

/-- An outstanding variable-latency result: no value while it has not arrived; `first` is the earliest clock it may land (03 R80); `div`
marks the divide unit's; `held` an atomic's, which waits for its region's commit (12 R283); `keep` is false once a later write has taken
the register (01 R33). -/
structure VRes where
  id : Nat
  dst : VDst
  val : Option (BitVec 256)
  first : Nat
  div : Bool
  held : Bool
  keep : Bool
deriving DecidableEq, Repr

/-- A row of an outstanding tile image (09 R224): its order number, its bytes, whether it sets its granules full, and its flags. -/
structure Img where
  id : Nat
  seq : Nat
  bytes : List (Nat × Byte)
  full : Bool
  flags : Flags
deriving DecidableEq, Repr

/-- The operations of the copy engine (13 R302). -/
inductive CopyKind where
  | cpy | cpy2 | cpyg | cpys | cpyx | cpyr | cpyo
deriving DecidableEq, Repr

/-- A copy launch (13 R302, R303): operands as read at issue. `core` is the launching core; dst and src are virtual addresses or
{core, offset}; for cpy2 the source base, strides, rows and row bytes; WMP and WMV; the remote module, DIR and RC of cpyr. -/
structure Launch where
  kind : CopyKind
  dst : Word
  src : Word
  len : Nat
  rows : Nat
  dstStride : Word
  srcStride : Word
  ctr : Word
  amt : Nat
  wmp : Nat
  wmv : Nat
  module : BitVec 17
  pull : Bool
  rc : Bool
deriving DecidableEq, Repr

/-- A TMR operation at its home (14 R330). -/
inductive TmKind where
  | opn | cls | set (fld : Nat) (v : Word) | flt
  /-- a `tmgov` that waits for a publication: its core, its result and its bundle -/
  | gov (c : CoreId) (id : Nat) (pc : BPc)
deriving DecidableEq, Repr

/-- The memory atomics (13 R299). -/
inductive AtomKind where
  | add | max | min | swp | cas | and | or | fadd
deriving DecidableEq, Repr

/-- A held piece of the store-hold buffer (01 R23), with the physical addresses translated at issue. -/
inductive Held where
  /-- one 64-byte block: line address, virtual address, data, byte mask, and a governed store's watermark -/
  | store (pa : Nat) (va : Word) (data : Vec) (mask : BitVec 64) (wm : Option Nat)
  | cadd (pa : Nat) (va : Word) (n : Word)
  | cflg (pa : Nat) (b : BitVec 32)
  | cceil (pa : Nat) (va : Word) (c : Word)
  /-- target, 4-byte form, unsigned, operand, new value of `acas`, destination register, id of its result -/
  | atomic (k : AtomKind) (pa : Nat) (w4 : Bool) (u : Bool) (x : Word) (y : Word) (r : BitVec 5) (id : Nat)
  | copy (l : Launch)
  | barr (seg : Nat)
  /-- record, reference, counter (physical and virtual), amount, operation; and the counts of the region's latest histogram piece for the
  record that come after it (06 R161: they take no piece of their own; 14 R331: they apply after it) -/
  | tm (pa : Nat) (ref : Word) (ctr : Option (Nat × Word)) (n : Nat) (k : TmKind) (after : SMap Nat)
  | spawn (rcb : Word) (desc : Word)
  | route (tab : Word) (src : Word) (key : BitVec 32) (e : Nat) (done : Word) (n : Nat)
  | wgl (va : Word)
  | wglk (tag : Nat)
  /-- a histogram piece: the record, and counts by bin -/
  | hist (pa : Nat) (counts : SMap Nat)
deriving DecidableEq, Repr

/-- The strand's waits that advance no cycle: `cwait` (13 R296), `bwait` (10 R240), launches not yet accepted (13 R303), the pin
token (12 R279), and a commit waiting on a LOCK (11 R269). -/
inductive Wait where
  | none
  /-- destination, counter, and the `cwait` bundle -/
  | cwait (rd : BitVec 5) (pa : Nat) (pc : BPc)
  | bwait (seg : Nat) (phase : BitVec 16)
deriving DecidableEq, Repr

/-- The run state of the core's strand. -/
inductive Run where
  /-- the core carries no strand -/
  | idle
  | running
  /-- issues no bundle: rolled back and stopped by a class E fault or a migrate trap (01 R40) -/
  | stopped
  /-- issues no bundle while its gang is being evicted (17 R380 step 1) -/
  | withheld
  | halted
deriving DecidableEq, Repr

/-- A strand (01 R15, R21, R39): its state, its shadow set, its trap state and its registers set at gang start. -/
structure Strand where
  a : Arch
  shadow : Arch
  ckptPc : BPc
  hckpt : BPc
  trapPc : BPc
  trapCause : Word
  trapInfo : Word
  trapBase : BPc
  lathdr : BitVec 48
  tm : Bool
  pin : Bool
  retry : Nat
  passed : Option BPc
  gangId : Word
  gangDim : Word
  strandIx : Word
  spilln : Nat
  spill : SMap Word
  /-- strand cycles (01 R30) -/
  cyc : Nat
  /-- the flags that results landing in this strand cycle have set (03 R94) -/
  fresh : Flags
  /-- order number of the next result -/
  seq : Nat
  pend : List Pend
  vls : List VRes
  imgs : List Img
  /-- the bundle at the PC has completed steps 1 to 4 of 01 R22 -/
  ckDone : Bool
  wait : Wait
  /-- the bundle that waits holds `halt`: the strand ends once the wait is over (01 R26, R30) -/
  ending : Bool
  run : Run
deriving DecidableEq, Repr

/-- An accumulator bank (07 R172, R173): status, and its 256 words in memory order (07 R187). -/
structure Bank where
  live : Bool
  block : Bool
  lent : Bool
  /-- borrower: false the spline array, true the copy engine -/
  toCopy : Bool
  img : SMap Nat
deriving DecidableEq, Repr

/-- A tile of a drain queue (07 R186): its id, the vectors left (none until the engine has converted it), the strand cycle from which
a pop sees it, and the clock of its arrival. -/
structure Tile where
  id : Nat
  vecs : Option (List Vec)
  due : Option Nat
  ready : Nat
deriving DecidableEq, Repr

/-- An operation of the outer-product engine with the operands it captured at issue (07 R179-R191, 06 R167-R169). -/
inductive EOp where
  | rank1 (clear : Bool) (block : Bool) (bk : Nat) (a b : Vec) (ta tb : Nat) (la lb : Bool)
  | zero (bk : Nat)
  | cfg (bk : Nat) (block : Bool)
  /-- destination queue and tile, type, exponent, rounding, draws, KEEP -/
  | drain (bk : Nat) (block : Bool) (q tile ty : Nat) (due : Option Nat) (x : Int) (rnd : Nat) (draws : List Nat) (keep : Bool)
  | load (bk : Nat) (block : Bool) (words : List Nat)
  /-- scratchpad offset, fe, strand cycle of the landing -/
  | save (bk off fe : Nat) (due : Option Nat)
  | lend (bk : Nat)
  | recl (bk : Nat)
  | realn (bk : Nat) (mask : Nat) (target : Option Nat)
  | rowMov (bk : Nat) (block : Bool) (row : Nat) (v : Vec)
  | rowZero (bk : Nat) (block : Bool) (row : Nat)
  | rowAdd (bk : Nat) (block : Bool) (row : Nat) (xs : List XV)
  | rowNorm (bk row : Nat)
deriving DecidableEq, Repr

/-- A queued engine operation: its order number, and whether it is an M-slot operation (the queue of four counts only those). -/
structure MOp where
  seq : Nat
  mslot : Bool
  op : EOp
deriving DecidableEq, Repr

/-- A spline operation with k0-k3 as captured at issue (08 R199-R208). -/
inductive SOp where
  | ld (row : Nat) (vals : List Nat) (f32 : Bool)
  | st (row off fe : Nat) (f32 : Bool) (due : Option Nat)
  | ev (bank row : Nat) (add : Bool) (k0 k1 k2 k3 : Word) (xs : List XV)
  | bwd (bank row : Nat) (add : Bool) (k0 k1 k2 k3 : Word) (xs dy : List XV)
  | gs (k0 k1 k2 k3 : Word) (xs dy : List XV)
  | gx (row off fe : Nat) (f32 : Bool) (due : Option Nat)
  | gz
  | ref (g : Nat)
  | cnt (rd : BitVec 5) (above clear : Bool) (due : Option Nat)
deriving DecidableEq, Repr

/-- A queued spline operation. `flags` are those of a conversion made at issue (`splld`). -/
structure SQOp where
  seq : Nat
  op : SOp
  flags : Flags
deriving DecidableEq, Repr

/-- An L1 line (04 R124) with its data, its leaf's watermark, which comes with the line in its sideband bits (11 R262), and the WTS it
was granted at (12 R273's LB reads it); the list of lines is in most-recent-use order. -/
structure L1Line where
  pa : Nat
  data : Vec
  rd : Bool
  rop : Bool
  lease : Nat
  wts : Nat
  mark : Nat
deriving DecidableEq, Repr

/-- A translation held in a micro-TLB or a die's translation cache (11 R266): page base, page bits (16, 21 or 30), physical base,
the permission bits R, W, X, IMM and SYNC. -/
structure Tlb where
  va : Nat
  bits : Nat
  pa : Nat
  r : Bool
  w : Bool
  x : Bool
  imm : Bool
  sync : Bool
deriving DecidableEq, Repr

/-- A delta slot (14 R320): the record, by its physical address, the issuing task, its counts by bin, and those of them that came while the
record was not OPEN, or from regions not ordered before the close in progress (14 R324). -/
structure Delta where
  pa : Nat
  tser : Nat
  counts : SMap Nat
  late : SMap Nat
deriving DecidableEq, Repr

/-- A parking slot (10 R250). -/
structure Slot where
  tser : Nat
  gix : Nat
  lin : Nat
  part : Nat
deriving DecidableEq, Repr

/-- A commit in progress (12 R276): homes still to reserve, the running maximum, the logical time once fixed, the lines still to
renew, and the homes still to apply. The reservations themselves stand in the directory. -/
structure Commit where
  todo : List Nat
  m : Nat
  t : Option Nat
  renewals : List Nat
  toApply : List Nat
deriving DecidableEq, Repr

/-- A core (01 R1, 04, 07, 08, 10, 12) and the strand it carries. -/
structure Core where
  id : CoreId
  st : Strand
  /-- CAPS.SPLIT -/
  split : Nat
  scratch : SMap Byte
  full : SMap Bool
  banks : Vector Bank 8
  queues : Vector (List Tile) 4
  mq : List MOp
  /-- clock until which the engine is occupied, and the bank it works on until then -/
  mBusy : Nat
  mOn : Nat
  sq : List SQOp
  /-- the same for the spline array; 8 stands for no bank -/
  sBusy : Nat
  sOn : Nat
  coef : SMap Nat
  grad : SMap Nat
  below : Nat
  above : Nat
  held : List Held
  l1 : List L1Line
  rvt : List (Nat × Nat)
  pts : Nat
  lb : Nat
  commit : Option Commit
  /-- holds the pin token; has requested it -/
  pinTok : Bool
  pinReq : Bool
  /-- the region's commit meets a LOCK: its granules -/
  lockWait : List Nat
  tlb : List Tlb
  /-- pages through which the region has translated (11 R267), and whether one was dropped -/
  xlat : List (Nat × Nat)
  stale : Bool
  delta : List Delta
  mcw : BitVec 128
  mskew : BitVec 8
  /-- L1 ways lent for parking, and the status of each slot: none where V = 0 -/
  lent : Nat
  slots : Vector (Option Slot) 4
  /-- DBGCTL: SSTEP, BRKEN, STOPPED; and the clock of the strand's last cycle before the debugger's stop (01 R41) -/
  sstep : Bool
  brken : Bool
  dstop : Bool
  dstopAt : Nat
  /-- withdrawn from service (10 R242) -/
  dead : Bool
deriving DecidableEq, Repr

end Sys2Proof.Machine
end

