-- ==== Sys2Proof/Machine/StateSys.lean ====
section
/-! DEFINITION. The state outside the cores: homes and counters (11-14), copy engines (13), barrier tree (10), pools and fabric (23),
scheduler (16, 17), swarm engine (18), waggle engines (24), host interface and controller (15). Plain data only. -/

namespace Sys2Proof.Machine

/-! ### Homes -/

/-- A home directory entry (11 R254). Times are held as whole logical times (12 R274); `pin` is the core whose pinned region set PIN,
`resv` the core whose commit has reserved the line, `gone` says that an eviction dropped a pool line's data (23 R431). -/
structure Dir where
  rts : Nat
  wts : Nat
  pin : Option CoreId
  pst : Nat
  psn : Bool
  ctr : Bool
  resv : Option CoreId
  gone : Bool
deriving DecidableEq, Repr

/-- A line in a cache slice (11 R252, R253): its number, and whether an HBM line is modified there. A pool line's state is its PST. -/
structure SliceLine where
  line : Nat
  mod : Bool
deriving DecidableEq, Repr

/-- Who waits on a counter (13 R297): a strand, a task's dependency, a queue, the job, a host watch, a merge. -/
inductive WaitWho where
  | core (c : CoreId)
  | dep (tser k : Nat)
  | queue (rnum : Nat)
  | job
  | watch (i : Nat)
  | merge (tab : Nat)
  /-- the first consumed add after a restart of replica 0 (18 R397) -/
  | consumed (tab e : Nat)
  /-- a `wwait` of a collective (24 R443) -/
  | wag (tag launch : Nat)
deriving DecidableEq, Repr

/-- A registered waiter (13 R296): counter, threshold, wake-on-fault. -/
structure Waiter where
  pa : Nat
  thr : Nat
  wf : Bool
  who : WaitWho
deriving DecidableEq, Repr

/-- A TMR operation at its record's home (14 R323, R324), with its time and issuing task. -/
structure TmOp where
  pa : Nat
  ref : Word
  ctr : Option (Nat × Word)
  n : Nat
  k : TmKind
  tser : Nat
  t : Nat
deriving DecidableEq, Repr

/-- A close in progress (14 R324): the `tmcls`, and the cores that have not yet answered the flush request. -/
structure Close where
  op : TmOp
  todo : List CoreId
deriving DecidableEq, Repr

/-! ### Copy engines, barrier tree, multicast -/

/-- A piece of a copy (13 R304): destination and source addresses (virtual, or scratchpad offsets), bytes, whether it is out
at a remote module or at a pool, and the bytes in hand for its write. -/
structure Piece where
  dst : Nat
  src : Nat
  n : Nat
  out : Bool
  bs : List Byte
deriving DecidableEq, Repr

/-- A running copy operation (13 R303): its cluster, gang, launch, remaining pieces, bytes delivered and counter found at launch;
`checked`/`radd` follow a remote counter's check and add (23 R429); `sw` is the switch whose weight copy it is (18 R395). -/
structure Cop where
  id : Nat
  cl : ClusterId
  core : CoreId
  tser : Nat
  gix : Nat
  l : Launch
  pieces : List Piece
  done : Nat
  t : Nat
  ctr : Option Nat
  checked : Bool
  radd : Bool
  sw : Option Nat
deriving DecidableEq, Repr

/-- A bank load of `cpyk` under way (13 R311): core, bank, row addresses (physical). -/
structure BankLoad where
  id : Nat
  core : CoreId
  bk : Nat
  rows : List (Nat × Nat)
  words : SMap Nat
deriving DecidableEq, Repr

/-- A launch that waits for its engine (13 R303). -/
structure LaunchQ where
  cl : ClusterId
  core : CoreId
  tser : Nat
  gix : Nat
  l : Launch
  t : Nat
deriving DecidableEq, Repr

/-- An entry of a cluster's status table (13 R310); the list of entries is in most-recent-write order. -/
structure StatEnt where
  cl : ClusterId
  ctr : Word
  done : Nat
  cause : Nat
  st : Nat
  op : Option Nat
deriving DecidableEq, Repr

/-- The saved barrier bits of a parked strand (10 R245). -/
structure Away where
  gix : Nat
  lin : Nat
  arrived : Bool
  excused : Bool
deriving DecidableEq, Repr

/-- A barrier segment (10 R236, R237), by its cores: members, arrived, members excused since arming, the bits of parked strands; PHASE,
ARMED, and the largest T of the phase's arrivals (12 R284). The bits of every node follow from these. -/
structure Seg where
  armed : Bool
  tser : Nat
  member : List CoreId
  arrived : List CoreId
  excuse : List CoreId
  away : List Away
  phase : BitVec 16
  tmax : Nat
deriving DecidableEq, Repr

/-- A multicast in flight (10 R232): landing clock, sender, order, targets, offset, data, whether granules are set full. -/
structure Mc where
  at_ : Nat
  sender : CoreId
  seq : Nat
  targets : List CoreId
  off : Nat
  data : Vec
  full : Bool
deriving DecidableEq, Repr

/-! ### Pools and fabric -/

/-- A CXL port (23 R430): advertised size, in service. -/
structure Port where
  size : Nat
  up : Bool
deriving DecidableEq, Repr

/-- What a MemWr in flight ends in (23 R431). -/
inductive WrWhy where
  | evict
  | snoopInv
  | snoopData
  | snoopCur
  | copy (op : Nat)
  | full
  /-- a line of a chunk slot that a waggle engine spills (24 R445) -/
  | spill
  /-- a remote module's piece (23 R429) -/
  | remote (m : GMsg)
deriving DecidableEq, Repr

/-- A pool transaction in flight (23 R431): MemRd (with ownership), MemInv, MemWr. -/
inductive PoolTx where
  | rd (line : Nat) (own : Bool)
  | inv (line : Nat)
  | wr (line : Nat) (why : WrWhy)
deriving DecidableEq, Repr

/-- A snoop that waits for a pin or for a write-back (23 R431): kind 0 Inv, 1 Data, 2 Cur, the clock from which it waits, and whether it
has met the line in O. -/
structure SnoopWait where
  line : Nat
  kind : Nat
  since : Nat
  owned : Bool
deriving DecidableEq, Repr

/-- An unacknowledged fabric message (23 R428): destination, sequence number, port, body. -/
structure GOut where
  dst : BitVec 17
  seq : Nat
  port : Nat
  body : GBody
deriving DecidableEq, Repr

/-! ### Scheduler -/

/-- A region of the tree with its effective values (16 R355, R356). `va` is the RCB's virtual address (the root's as its children name
it), `pa` its physical address; `pol` is the physical address of the effective policy table; `segs` the physical barrier segments of b0
and b1. -/
structure Region where
  va : Nat
  pa : Nat
  rnum : Nat
  kind : Nat
  prio : Nat
  fdom : Nat
  splm : Nat
  park : Nat
  qmode : Bool
  parent : Option Nat
  cores : Nat
  ctrs : Nat
  comb : Nat
  wtags : Nat
  nseg : Nat
  quant : Nat
  handler : Nat
  pol : Nat
  qctr : Nat
  segs : List Nat
  /-- next descriptor index, and the address of the descriptor fetched last -/
  qidx : Nat
  qlast : Nat
  deficit : Nat
  /-- faults that withhold the queue -/
  withheld : Nat
deriving DecidableEq, Repr

/-- A gang's migration record (17 R384) but for TSER, GIX and ADDS, which its gang holds. -/
structure MigRec where
  lin : Nat
  source : Nat
  target : Nat
  opc : Nat
  slot : Nat
  nmig : Nat
  ttrap : Nat
  tres : Nat
deriving DecidableEq, Repr

/-- A parked image (10 R247): the strand with its shadow set and trap state, its scratchpad and bits, the core it left and that core's
PTS, where it stands (parking slots of which cores, or the granules of comb memory that it occupies, in order), its size, the poisoned line
of it that its last resume met (17 R385: the strand was not resumed), and whether a later image of its strand has replaced it (17 R385 keeps it until every strand has issued). An image in comb memory
has its scratchpad, bits and spill words in the bytes there (R247), and none here. -/
structure Image where
  lin : Nat
  st : Strand
  scratch : SMap Byte
  full : SMap Bool
  left : CoreId
  pts : Nat
  slotsOf : List CoreId
  comb : List Nat
  size : Nat
  poison : Option Nat
  old : Bool
deriving DecidableEq, Repr

/-- Where a gang of a started task is. -/
inductive GangSt where
  | pending
  | running
  /-- being evicted: waits for engines and landings (16 R366) -/
  | evicting
  | parked
  | halted
  | killed
deriving DecidableEq, Repr

/-- A gang (16, 17): index, state, its cluster rectangle, its cores in LIN order, quantum start, images, added subsets, record, whether it
is in transit after a migrate trap, the rounds since that trap, the cores whose strand has yet to issue its first bundle since the
gang's start or resume: until then the images are kept (17 R385), and whether that resume is its migration's. -/
structure Gang where
  gix : Nat
  st : GangSt
  rect : List ClusterId
  cores : List CoreId
  qstart : Nat
  images : List Image
  adds : BitVec 5
  mig : Option MigRec
  transit : Bool
  rounds : Nat
  fresh : List CoreId
  landing : Bool
deriving DecidableEq, Repr

/-- The state of a task (16 R360, R361, R367): `ending` is a killed task whose DONE add has yet to apply. -/
inductive TaskSt where
  | waiting
  | ready
  | started
  | ending
  | done
  | killed
deriving DecidableEq, Repr

/-- A task (16 R358, R360): serial, leaf, descriptor and its addresses, code object header, unmet dependencies, ORDER predecessor,
rounds since ready, the order of its start, DONE's physical address, gangs, and the largest logical time its first region follows
(20 R405) or its strands committed at; the dependency counters' physical addresses as found at fetch, by k. For a handler task: its scope
region and domain level (0 TASK, 1 REGION, 2 JOB), whether a class E fault is among those it handles, and the queues it withholds. -/
structure Task where
  tser : Nat
  rnum : Nat
  desc : BitVec 1024
  va : Nat
  pa : Nat
  code : BitVec 1024
  st : TaskSt
  unmet : List Nat
  pred : Option Nat
  rounds : Nat
  start : Nat
  done : Option Nat
  gangs : List Gang
  t : Nat
  deps : List (Nat × Nat)
  handler : Option (Nat × Nat)
  classE : Bool
  withholds : List Nat
deriving DecidableEq, Repr

/-- The package scheduler (16). -/
structure Sched where
  ptroot : Nat
  tmrbase : Nat
  tmrcnt : Nat
  jobctr : Nat
  jobthr : Nat
  jobDone : Bool
  regions : List Region
  tasks : List Task
  nextTser : Nat
  nextStart : Nat
  /-- leaf served last (RNUM), by priority -/
  rr : SMap Nat
  pinQ : List CoreId
  pinHolder : Option CoreId
  /-- replicas' descriptors that the swarm engine has appended and no leaf has fetched, and whether the task is to end at its fetch
  (18 R396) -/
  reps : List (Nat × Bool)
deriving DecidableEq, Repr

/-! ### Swarm engine -/

/-- A switch of an expert (18 R394-R397): its kind. `restart` is the loss of replica 0. -/
inductive SwKind where
  | replicate
  | retire
  | loss
  | restart
  | abandon
  /-- R0LOSS returns to 0: no switch of the table -/
  | clear
deriving DecidableEq, Repr

/-- A switch under way: its table (by VA), expert, replica, kind, the step it has reached (0: the weight copy), the next and end slot of
a redirection (or the next line of GRAD to clear), and an abandoned expert's replicas that are still to be redirected, by bit. -/
structure Switch where
  id : Nat
  tab : Nat
  e : Nat
  r : Nat
  k : SwKind
  step : Nat
  j : Nat
  jEnd : Nat
  mask : Nat
deriving DecidableEq, Repr

/-- The position of a gradient merge (18 R398): expert, slot, element, and the flags raised so far. -/
structure MergePos where
  e : Nat
  r : Nat
  i : Nat
  flags : Flags
deriving DecidableEq, Repr

/-- A table that a `route` or `rtver` has named (18 R388): its VA, whether it is registered, the clock of its next sample, RES by 8e + r,
the lowest merge number still to run, the merge in progress, the experts abandoned, and the latest time of the engine's pieces on it. -/
structure Table where
  va : Nat
  ok : Bool
  next : Nat
  res : SMap Nat
  asked : Nat
  merging : Option MergePos
  abandoned : List Nat
  t : Nat
deriving DecidableEq, Repr

/-- How far a route operation has come (18 R392). -/
inductive RouteSt where
  | choice
  | room
  | deliver
  | routed
deriving DecidableEq, Repr

/-- A route operation (18 R392), or the redirection of one slot for a switch (R396): version and replica chosen, slot number, the payload
lines still to copy from `src0`, ORIG, VOID, and the cause of a stop with its TRAPINFO. -/
structure RouteOp where
  id : Nat
  tab : Nat
  src : Nat
  key : Nat
  e : Nat
  doneVa : Word
  donePa : Option Nat
  n : Nat
  tser : Nat
  t : Nat
  st : RouteSt
  v : Nat
  r : Nat
  j : Nat
  left : List Nat
  src0 : Nat
  orig : Nat
  isVoid : Bool
  redir : Option Nat
  stopped : Option (Nat × Word)
deriving DecidableEq, Repr

/-! ### Waggle engines -/

/-- A running collective of this module (24 R435-R448). Counters are physical addresses. -/
structure Coll where
  tag : Nat
  launch : Nat
  va : Nat
  tser : Nat
  t : Nat
  desc : BitVec 1024
  /-- module of each rank -/
  group : List (BitVec 17)
  steps : List Instr
  /-- the launch's signature, and the ranks whose own has arrived and matched -/
  sigw : List Word
  agreed : List Nat
  started : Bool
  sig : Option Nat
  wait : Option Nat
  done : Option Nat
  pc : Nat
  /-- start of body, iterations left, index of each live loop, innermost first -/
  loops : List (Nat × Nat × Nat)
  /-- executions of reducing steps so far: the number of the current one -/
  inst : Nat
  ae : Int
  lf : BitVec 32
  nfin : Nat
  /-- the current step has sent its own part, or is registered -/
  sent : Bool
  /-- the wake of a `wwait`: flag word and time -/
  woken : Option (Nat × Nat)
  /-- chunks of the current step that are still to contribute, and chunks whose final value is still to be written -/
  todo : List Nat
  owed : List Nat
  /-- pieces of the current read still to be made, and those made: addresses with lengths, addresses with bytes -/
  want : List (Nat × Nat)
  got : List (Nat × List Byte)
  /-- the current read is under way -/
  reading : Bool
  /-- pieces of the chunk in writing that are still to be written -/
  out : List (Nat × List Byte)
  /-- the physical addresses of the lines of the chunks in writing, translated as each was begun (24 R446) -/
  spots : List (Nat × Nat)
  writing : Bool
  /-- the chunk in hand, and the reductions entered so far, most recent first: number and step fields -/
  cur : Nat
  rs : List (Nat × WR)
  /-- chunks and values that have arrived -/
  held : List ChunkMsg
  /-- contributions spilled to pool memory: the place in the spill area, the length, the message without its bytes; and the chunks rerun
  after a poisoned refetch, by reduction (24 R445, 23 R434) -/
  spilled : List (Nat × Nat × ChunkMsg)
  reruns : List (Nat × Nat)
  vals : List (Nat × Nat × Nat × Word)
  /-- sends that have landed at their peer, by rank and count, and the counts of sends and receives by rank -/
  landed : List (Nat × Nat)
  sends : SMap Nat
  recvs : SMap Nat
  /-- an abort waits for the chunk in writing: its flags -/
  aborting : Option Nat
deriving DecidableEq, Repr

/-- A committed `wgl` that its engine has not yet read, by its descriptor (24 R438), or a committed `wglk`, by its tag (24 R446). -/
structure WglQ where
  id : Nat
  va : Nat
  kill : Option Nat
  tser : Nat
  t : Nat
deriving DecidableEq, Repr

/-! ### Host interface and controller -/

/-- An entry of the ordering point (15 R343): an inbound write with its link, physical address and bytes; a counter add through
CAMT/CFLG, with CADDR; a BAR2 read of n bytes that waits for the earlier writes of its link. -/
inductive Inb where
  | write (link pa : Nat) (data : List Byte)
  | add (pa n fl : Nat)
  | read (link pa n : Nat)
deriving DecidableEq, Repr

/-- A counter watch (15 R342). -/
structure Watch where
  addr : BitVec 57
  en : Bool
  thr : Word
deriving DecidableEq, Repr

/-- An entry of an event recorder (15 R348). -/
structure Event where
  time : Nat
  code : Nat
  sev : Nat
  die : Nat
  info : Word
  seq : Nat
deriving DecidableEq, Repr

/-- An invalidation that waits to be done (11 R267), or a lock or unlock (11 R268): the range, and the counter to add 1 to. -/
structure Inval where
  va : Nat
  bits : Nat
  all : Bool
  ctr : Nat
deriving DecidableEq, Repr

structure LockReq where
  pa : Nat
  bits : Nat
  unlock : Bool
  ctr : Nat
deriving DecidableEq, Repr

/-- BAR0's registers and the host-visible results (15 R338-R342). -/
structure HostIf where
  modid : BitVec 17
  root : Nat
  lstate : Nat
  /-- BUSY reads 1 until this clock -/
  busyTil : Nat
  apbase : BitVec 21
  evstat : BitVec 5
  caddr : BitVec 57
  /-- lower words of a multi-word register written so far -/
  parts : SMap Word
  watches : Vector Watch 16
  /-- 24 entries of 16 bytes, and the pending bits -/
  msix : SMap Word
  pba : BitVec 24
  /-- vectors signalled to the host, most recent first -/
  signalled : List Nat
  inq : List Inb
  /-- the completion of the last BAR2 read: bytes, or none for Unsupported Request -/
  read : Option (List Byte)
  /-- logical time of the last inbound write (12 R286) -/
  inT : Nat
deriving DecidableEq, Repr

/-- The last SPDM response (15 R350): the versions, as major and minor digits; a certificate's digests or a part of its chain; a signed
challenge; measurement blocks by index; a response of which the spec gives no part. -/
inductive SpdmOut where
  | none
  | versions (vs : List Nat)
  | digests (ds : List Byte)
  | certificate (part : List Byte)
  | signed (sig : List Byte)
  | measurements (blocks : List (Nat × List Byte))
  | other (bs : List Byte)
deriving DecidableEq, Repr

/-- The Abavas controller (15 R346-R351): active controller (0 or 3), mailbox, throttling, event recorders by die, sequence numbers,
die and link maps' changes, and the SPDM responder; the events told to hosts by management messages, most recent first (R348); whether the
module stays in bring-up, its images not verified, and whether the controller's own image was, without which it never runs (R349). -/
structure Ctl where
  active : Nat
  mailbox : List Word
  throttled : Bool
  recorders : SMap (List Event)
  seqs : SMap Nat
  deadDies : List Nat
  linksDown : List Nat
  /-- SPDM: version exchanged, capabilities exchanged, algorithms, and the last response -/
  spdmVer : Bool
  spdmCap : Bool
  spdmAlg : Option (BitVec 64)
  spdmOut : SpdmOut
  told : List Event
  bringUp : Bool
  abavas : Bool
deriving DecidableEq, Repr

end Sys2Proof.Machine
end

