-- ==== Sys2Proof/Machine/State.lean ====
section
/-! DEFINITION. The state of the module, the reasons a step can stop, and the state after reset. Everything is plain data. -/

namespace Sys2Proof.Machine

/-- Why the machine stops with a fault. The spec gives every trap, fault and refusal of the module an effect, so no step of this model
ends in a fault and the type has no constructor. -/
inductive Fault where
deriving DecidableEq, Repr

/-- Why an instruction has no meaning in the model. -/
inductive Refusal where
  /-- Raised by an arm of `exec` whose instruction has not been modelled; safe: nothing is proved of such a step. -/
  | notModelled (mnemonic : String)
deriving DecidableEq, Repr

/-- A trap cause of 01 R34 with its TRAPINFO and, where it is meaningful, the raising slot. -/
structure Cause where
  code : Nat
  info : Word
  slot : Option Nat
deriving DecidableEq, Repr

/-- What takes effect at the end of a bundle: `syswr` (03 R94), `pcfg` and `pset` (03 R105), `knset` (08 R200), the granules a clearing
read empties (04 R116), flags that land with the bundle (03 R94), and a variable-latency producer (01 R32: its destination becomes empty). -/
inductive EndAct where
  | syswr (n : Nat) (v : Word)
  | pcfg (p : Nat) (d : BitVec 256)
  | pset (p fld : Nat) (v : Word)
  | knset (n : Nat) (v : Word)
  | clear (granules : List Nat)
  | flags (f : Flags)
  | produce (v : VRes)
deriving DecidableEq, Repr

/-- Where the bundle goes next (03 R88): in sequence, a taken transfer, past a loop of count 0, or `lbrk` at an END bundle. -/
inductive Nxt where
  | inSeq
  | take (t : BPc)
  | skip (last : BPc)
  | brk (last : BPc)
deriving DecidableEq, Repr

/-- The context of the bundle in issue: the slot in execution and its syllable, the vectors popped so far by selector (02 R48), the cause
raised and whether some slot stalls, the next address, the end-of-bundle effects, what the bundle does to the strand's run, and what its
own earlier slots have produced, which no slot of it sees (02 R48): held pieces, a drained tile, and a bank's status before its change. -/
structure Ctx where
  slot : Nat
  syl : Word
  pops : List (Nat × Vec)
  cause : Option Cause
  stall : Bool
  nxt : Nxt
  ends : List EndAct
  /-- `halt` ends the strand, `eret` has left the handler, `yield` offers the gang to the scheduler -/
  halts : Bool
  erets : Bool
  yields : Bool
  wait : Wait
  /-- order number of the bundle's first result: results from there on are this bundle's own (02 R48) -/
  seq0 : Nat
  /-- the read-victim table is full: the region re-executes in pinned mode (04 R125) -/
  rvtFull : Bool
  ownHeld : Nat
  ownTile : Option Nat
  ownBank : Option (Nat × Bank)
deriving DecidableEq, Repr

/-- Due work: an event of the table and the clock from which it may happen. Internal work and outside inputs stand here alike. -/
structure Due where
  at_ : Nat
  act : Instr
deriving DecidableEq, Repr

/-- The module. `core` is the core in focus and `others` the cores whose state differs from an idle one. -/
structure State where
  /-- TIMEBASE (01 R21): core clocks since cold reset -/
  now : Nat
  core : Core
  others : List Core
  ctx : Ctx
  /-- cores that have yet to issue in this clock, and due work: the model's own fields (log entry 4) -/
  turn : List CoreId
  /-- collectives that have yet to run a step in this clock -/
  wturn : List Nat
  /-- the tag of the collective whose engine executes a step -/
  wcur : Nat
  agenda : List Due
  /-- the free-value counter (log entry 6) -/
  free : Nat
  /-- ids of operations, images and results -/
  nextId : Nat
  /-- bytes by physical address, leaf watermarks by leaf number, directory entries by line number -/
  mem : SMap Byte
  wm : SMap Nat
  dir : List (Nat × Dir)
  /-- home clocks by comb die number, locked granules by granule number -/
  hc : SMap Nat
  locks : SMap Bool
  /-- cache slices by home and set, each most recently used first; the bytes of the HBM stacks by stack and offset, which lag `mem` by the
  lines modified in a slice; counters in the sync engines' SRAM by comb die, most recently used first -/
  slices : List (Nat × List SliceLine)
  hbm : SMap Byte
  sram : List (Nat × List Nat)
  waiters : List Waiter
  closes : List Close
  tmq : List TmOp
  /-- translation caches by die -/
  dieTlb : List (Nat × Tlb)
  copies : List Cop
  loads : List BankLoad
  launchq : List LaunchQ
  stats : List StatEnt
  segs : List (Nat × Seg)
  mcs : List Mc
  ports : Vector Port 8
  ptx : List PoolTx
  snoops : List SnoopWait
  /-- answers to snoops: line and state, most recent first -/
  birsp : List (Nat × Nat)
  /-- MemClnEvct sent, by line, most recent first -/
  clnEvcts : List Nat
  dom : DomainTable
  gdown : List Nat
  gout : List GOut
  gseq : SMap Nat
  gseen : List (BitVec 17 × Nat)
  /-- acknowledgements sent, most recent first -/
  gacks : List (BitVec 17 × Nat)
  /-- logical times of remote pieces applied here, by source module and its operation (23 R429) -/
  rtimes : List (BitVec 17 × Nat × Nat)
  /-- counters found at a remote launch's check, by source module and operation (23 R429) -/
  rctrs : List (BitVec 17 × Nat × Nat)
  /-- stopped operations whose flag OR is out at a remote counter: operation and task (13 R457) -/
  cfOrs : List (Nat × Nat)
  sched : Sched
  /-- committed `spawn`s whose append is still to be made, in commit order: leaf, descriptor, task, time (16 R369) -/
  spawnq : List (Word × Word × Nat × Nat)
  /-- the standby's copy of the rounds' state, and the I/O die whose scheduler is active (0 or 2) -/
  standby : Sched
  schedAt : Nat
  tables : List Table
  /-- the adds that tasks have made to counters: counter, value after it, task (18 R398) -/
  adders : List (Nat × Nat × Nat)
  switches : List Switch
  routes : List RouteOp
  colls : List Coll
  wglq : List WglQ
  /-- launches per tag, last status per tag, kept aborts, and signatures, chunks and values that came before their launch -/
  wcount : SMap Nat
  wstat : SMap Nat
  waborts : List (Nat × Nat)
  wsigs : List (Nat × Nat × Nat × List Word)
  wchunks : List ChunkMsg
  wvals : List (Nat × Nat × Nat × Nat × Nat × Word)
  host : HostIf
  ctl : Ctl
  invals : List Inval
  lockreqs : List LockReq
deriving DecidableEq, Repr

/-- No bundle in issue. -/
def Ctx.init : Ctx :=
  { slot := 0, syl := 0, pops := [], cause := none, stall := false, nxt := .inSeq, ends := [], halts := false, erets := false, yields := false,
    wait := .none, seq0 := 0, rvtFull := false, ownHeld := 0, ownTile := none, ownBank := none }

/-- The items of 01 R19 with no start value of their own: all 0, SEED 1 (03 R93: SEED never holds 0). -/
def Arch.init : Arch :=
  { pc := 0, loops := [], regs := Vector.replicate 32 0, empties := Vector.replicate 32 false,
    handles := Vector.replicate 16 0, ports := Vector.replicate 10 0, knots := Vector.replicate 4 0, seed := 1, flags := 0 }

/-- A core's strand state before a gang starts on it. -/
def Strand.init : Strand :=
  { a := .init, shadow := .init, ckptPc := 0, hckpt := 0, trapPc := 0, trapCause := 0, trapInfo := 0, trapBase := 0, lathdr := 0,
    tm := false, pin := false, retry := 0, passed := none,
    gangId := 0, gangDim := 0, strandIx := 0, spilln := 0, spill := [], cyc := 0, fresh := 0, seq := 0, pend := [], vls := [], imgs := [],
    ckDone := false, wait := .none, ending := false, run := .idle }

/-- A bank in tile mode, zero, not live and not lent (07 R175). -/
def Bank.init : Bank := { live := false, block := false, lent := false, toCopy := false, img := [] }

/-- A core with no strand: SPLIT 3 with four ways lent (10 R246), arrays clear (04 R107). -/
def Core.init (id : CoreId) : Core :=
  { id := id, st := .init, split := 3, scratch := [], full := [], banks := Vector.replicate 8 .init, queues := Vector.replicate 4 [],
    mq := [], mBusy := 0, mOn := 0, sq := [], sBusy := 0, sOn := 8, coef := [], grad := [], below := 0, above := 0, held := [], l1 := [], rvt := [],
    pts := 0, lb := 0, commit := none, pinTok := false, pinReq := false, lockWait := [], tlb := [], xlat := [], stale := false,
    delta := [], mcw := 0, mskew := 8, lent := 4, slots := Vector.replicate 4 none, sstep := false, brken := false, dstop := false,
    dstopAt := 0, dead := false }

/-- No job. -/
def Sched.init : Sched :=
  { ptroot := 0, tmrbase := 0, tmrcnt := 0, jobctr := 0, jobthr := 0, jobDone := false, regions := [], tasks := [], nextTser := 1, nextStart := 0,
    rr := [], pinQ := [], pinHolder := none, reps := [] }

/-- BAR0 after reset (15 R338): every field 0 but the constants, LSTATE IDLE. -/
def HostIf.init : HostIf :=
  { modid := 0, root := 0, lstate := 0, busyTil := 0, apbase := 0, evstat := 0, caddr := 0, parts := [],
    watches := Vector.replicate 16 ⟨0, false, 0⟩, msix := [], pba := 0, signalled := [], inq := [], read := none, inT := 0 }

/-- The controller after reset: IO0 active, and the one event 0x000C that ends the bring-up (15 R352). -/
def Ctl.init : Ctl :=
  { active := 0, mailbox := [], throttled := false, recorders := [(256, [⟨0, 0xC, 0, 256, 0, 0⟩])], seqs := [(256, 1)], deadDies := [], linksDown := [], spdmVer := false,
    spdmCap := false, spdmAlg := none, spdmOut := .none, told := [⟨0, 0xC, 0, 256, 0, 0⟩], bringUp := false, abavas := true }

/-- The module right after a cold reset: no job, memory with nothing listed, clocks at 0, every link, port and die in service, the
domain table at its reset values (23 R425). -/
def State.reset : State :=
  { now := 0, core := .init 0, others := [], ctx := .init, turn := [], wturn := [], wcur := 0, agenda := [], free := 0, nextId := 0, mem := [], wm := [],
    dir := [], hc := [], locks := [], slices := [], hbm := [], sram := [], waiters := [], closes := [], tmq := [], dieTlb := [], copies := [], loads := [], launchq := [],
    stats := [], segs := [], mcs := [], ports := Vector.replicate 8 ⟨2 ^ 53, true⟩, ptx := [], snoops := [], birsp := [], clnEvcts := [],
    dom := { domid := 0, self := 0, members := [(0, false)], routes := [] }, gdown := [], gout := [], gseq := [], gseen := [], gacks := [], rtimes := [], rctrs := [], cfOrs := [],
    sched := .init, spawnq := [], standby := .init, schedAt := 0, tables := [], adders := [], switches := [], routes := [], colls := [], wglq := [], wcount := [],
    wstat := [], waborts := [], wsigs := [], wchunks := [], wvals := [], host := .init, ctl := .init, invals := [], lockreqs := [] }

end Sys2Proof.Machine
end

