-- ==== Sys2Proof/Machine/Ops.lean ====
section
/-! DEFINITION. The shared operations: sparse maps, the core in focus, bit fields, events, scalar registers and their interlocks,
landing of results (01 R30-R33), rollback (01 R24), taking a trap (01 R34-R40), the return from a handler (01 R37), and how an
instruction's issue becomes an outcome. -/

namespace Sys2Proof.Machine

/-! ### Sparse maps -/

/-- The value at a key; an unlisted key reads as the default d. -/
def SMap.get {α : Type} (d : α) : SMap α → Nat → α
  | [], _ => d
  | (k, v) :: t, a => if a = k then v else if a < k then d else SMap.get d t a

/-- Write a value; writing the default removes the entry. -/
def SMap.set {α : Type} [DecidableEq α] (d : α) : SMap α → Nat → α → SMap α
  | [], a, v => if v = d then [] else [(a, v)]
  | (k, w) :: t, a, v =>
    if a < k then (if v = d then (k, w) :: t else (a, v) :: (k, w) :: t)
    else if a = k then (if v = d then t else (a, v) :: t)
    else (k, w) :: SMap.set d t a v

/-- Write a list of entries in order. -/
def SMap.setAll {α : Type} [DecidableEq α] (d : α) (m : SMap α) (l : List (Nat × α)) : SMap α :=
  l.foldl (fun m e => SMap.set d m e.1 e.2) m

/-- Keys rise from a bound and no entry holds the default. -/
def SMap.wfFrom {α : Type} [DecidableEq α] (d : α) : Nat → SMap α → Bool
  | _, [] => true
  | lo, (k, v) :: t => lo ≤ k && v != d && SMap.wfFrom d (k + 1) t

/-- The canonical form: keys strictly rising, no entry equal to what an unlisted key reads as. -/
def SMap.wf {α : Type} [DecidableEq α] (d : α) (m : SMap α) : Bool := SMap.wfFrom d 0 m

/-- Lookup in a list keyed by a number. -/
def findKey {α : Type} (l : List (Nat × α)) (k : Nat) : Option α := (l.find? fun e => e.1 == k).map (·.2)

/-- Replace or insert an entry of a list keyed by a number. -/
def putKey {α : Type} (l : List (Nat × α)) (k : Nat) (v : α) : List (Nat × α) :=
  match l with
  | [] => [(k, v)]
  | (j, w) :: t => if j = k then (k, v) :: t else (j, w) :: putKey t k v

/-! ### The core in focus -/

def mapCore (f : Core → Core) (s : State) : State := { s with core := f s.core }
def mapSt (f : Strand → Strand) (s : State) : State := { s with core := { s.core with st := f s.core.st } }
def mapArch (f : Arch → Arch) (s : State) : State :=
  { s with core := { s.core with st := { s.core.st with a := f s.core.st.a } } }
def mapCtx (f : Ctx → Ctx) (s : State) : State := { s with ctx := f s.ctx }

/-- A core by its COREID; a core that is not listed is idle. -/
def coreOf (s : State) (c : CoreId) : Core :=
  if s.core.id = c then s.core else (s.others.find? fun k => k.id == c).getD (.init c)

/-- Bring a core into focus. -/
def focus (c : CoreId) (s : State) : State :=
  if s.core.id = c then s
  else { s with core := coreOf s c, others := s.core :: s.others.filter fun k => k.id != c }

/-- Change one core and keep the focus. -/
def onCore (c : CoreId) (f : Core → Core) (s : State) : State :=
  if s.core.id = c then mapCore f s
  else { s with others := f (coreOf s c) :: s.others.filter fun k => k.id != c }

/-- Every core the state lists. -/
def allCores (s : State) : List Core := s.core :: s.others

/-! ### Names of places (01 R21, 11 R257, 15 R335, R345) -/

def coreX (c : CoreId) : Nat := c.toNat % 16
def coreY (c : CoreId) : Nat := c.toNat / 16 % 16
/-- CL of a COREID. -/
def coreCL (c : CoreId) : Nat := c.toNat / 256 % 64
/-- CC of a COREID. -/
def coreCC (c : CoreId) : Nat := c.toNat / 16384 % 64
def clusterOf (c : CoreId) : ClusterId := c.extractLsb' 0 14
/-- Die map index of a compute die: y × 8 + x div 2. -/
def dieOf (c : CoreId) : Nat := coreY c * 8 + coreX c / 2
/-- Column of the die with a die map index: x + y is even. -/
def dieX (d : Nat) : Nat := 2 * (d % 8) + (d / 8) % 2
def dieY (d : Nat) : Nat := d / 8
/-- L-grade columns are 0, 1, 14 and 15. -/
def colL (x : Nat) : Bool := x == 0 || x == 1 || x == 14 || x == 15
/-- Whether the core's die is L-grade. -/
def isL (c : CoreId) : Bool := colL (coreX c)
/-- The subsets of a grade in the order of CAPS[4:0] (02 R66). -/
def subsets (l : Bool) : BitVec 5 := if l then 0b10011 else 0b11111
/-- The COREID of a core of a die map index, cluster and core number. -/
def mkCore (die cl cc : Nat) : CoreId := BitVec.ofNat 20 (dieX die + 16 * dieY die + 256 * cl + 16384 * cc)

/-- comb_home (11 R257): the number n of the comb die that homes a physical address. -/
def combHome (pa : Nat) : Nat :=
  let x := pa / 4096 % 2 ^ 45
  (x % 128) ^^^ (x / 2 ^ 7 % 128) ^^^ (x / 2 ^ 14 % 128) ^^^ (x / 2 ^ 21 % 128) ^^^ (x / 2 ^ 28 % 128) ^^^
    (x / 2 ^ 35 % 128) ^^^ (x / 2 ^ 42 % 8)
/-- Column and row of comb die n. -/
def combX (n : Nat) : Nat := 2 * (n % 8) + (n / 8 + 1) % 2
def combY (n : Nat) : Nat := n / 8

/-! ### Bits -/

/-- Bits [hi:lo] of a number. -/
def bits (n hi lo : Nat) : Nat := n / 2 ^ lo % 2 ^ (hi + 1 - lo)
/-- A bit of a number. -/
def bit (n k : Nat) : Bool := n / 2 ^ k % 2 == 1
/-- 1 or 0. -/
def b2n (b : Bool) : Nat := if b then 1 else 0
def word (n : Nat) : Word := BitVec.ofNat 64 n
/-- A signed field as a 64-bit word. -/
def sx {w : Nat} (v : BitVec w) : Word := v.signExtend 64
def zx {w : Nat} (v : BitVec w) : Word := v.setWidth 64
/-- Replace a field of a 256-bit value. -/
def setField (d : BitVec 256) (lo w v : Nat) : BitVec 256 :=
  BitVec.ofNat 256 (d.toNat - bits d.toNat (lo + w - 1) lo * 2 ^ lo + v % 2 ^ w * 2 ^ lo)
/-- Number of 1 bits of n's low w bits. -/
def popcount (n w : Nat) : Nat := ((List.range w).filter fun i => bit n i).length

/-! ### Events, due work, ids -/

/-- Append due work. -/
def due (at_ : Nat) (act : Instr) (s : State) : State := { s with agenda := s.agenda ++ [⟨at_, act⟩] }

/-- Signal an MSI-X vector (15 R342): pending while masked, else delivered; causes 0-4 show in EVSTAT. -/
def signal (v : Nat) (s : State) : State :=
  let masked := bit (SMap.get 0 s.host.msix (2 * v + 1)).toNat 32
  let h := s.host
  { s with host := { h with
      evstat := if v < 5 then h.evstat ||| BitVec.ofNat 5 (2 ^ v) else h.evstat,
      pba := if masked then h.pba ||| BitVec.ofNat 24 (2 ^ v) else h.pba,
      signalled := if masked then h.signalled else v :: h.signalled } }

/-- Severity of an event code (15 R348). -/
def eventSev (code : Nat) : Nat :=
  match code with
  | 2 => 3 | 3 => 3 | 4 => 2 | 5 => 3 | 0xB => 0 | 0xC => 0 | 0xF => 2 | _ => 1

/-- Record an event in a die's recorder (15 R348): the 256 most recent are kept; severities 2 and 3 signal vector 3. The Abavas controller
tells it to the hosts by a management message. -/
def record (die code : Nat) (info : Word) (s : State) : State :=
  let n := SMap.get 0 s.ctl.seqs die
  let e : Event := ⟨s.now, code, eventSev code, die, info, n⟩
  let r := (SMap.get [] s.ctl.recorders die ++ [e])
  let s := { s with ctl := { s.ctl with
    recorders := SMap.set [] s.ctl.recorders die (r.drop (r.length - 256)), seqs := SMap.set 0 s.ctl.seqs die (n + 1),
    told := e :: s.ctl.told } }
  if 2 ≤ eventSev code then signal 3 s else s

/-- A fresh id. -/
def freshId (s : State) : Nat × State := (s.nextId, { s with nextId := s.nextId + 1 })

/-! ### Stops of a slot -/

/-- Why a slot does not issue: a trap cause, a stall, a pool transaction it waits for, or a full read-victim table (04 R125). -/
inductive Stop where
  | trap (c : Cause)
  | stall
  | fetch (tx : PoolTx)
  | overflow
deriving DecidableEq, Repr

abbrev Res (α : Type) := Except Stop α

/-- Trap codes of 01 R34. -/
def cIllegal : Nat := 0x01
def cEmpty : Nat := 0x02
def cBreak : Nat := 0x03
def cTrap : Nat := 0x04
def cWindow : Nat := 0x05
def cQueue : Nat := 0x06
def cOwner : Nat := 0x07
def cLend : Nat := 0x08
def cKnot : Nat := 0x09
def cLoop : Nat := 0x0A
def cMigrate : Nat := 0x10
def cTrans : Nat := 0x20
def cAccess : Nat := 0x21
def cPoison : Nat := 0x22
def cStale : Nat := 0x23
def cTensor : Nat := 0x24
def cCeil : Nat := 0x25
def cDirty : Nat := 0x26
def cHold : Nat := 0x27
def cWaitHeld : Nat := 0x28
def cHandler : Nat := 0x29

/-- Priority of a cause (01 R34). -/
def prioOf (code : Nat) : Nat :=
  match code with
  | 0x01 => 1 | 0x10 => 2 | 0x26 => 3 | 0x03 => 4 | 0x28 => 5 | 0x02 => 6 | 0x05 => 7 | 0x20 => 8 | 0x21 => 9 | 0x22 => 10
  | 0x23 => 11 | 0x06 => 12 | 0x07 => 13 | 0x08 => 14 | 0x09 => 15 | 0x0A => 16 | 0x27 => 17 | 0x29 => 18 | _ => 19

/-- Whether a cause is of class I (01 R34). -/
def classI (code : Nat) : Bool := 1 ≤ code && code ≤ 0x0A

/-- Raise a cause at the slot in execution. -/
def raise {α : Type} (s : State) (code : Nat) (info : Word) : Res α := .error (.trap ⟨code, info, some s.ctx.slot⟩)
/-- Raise the illegal-encoding trap with the syllable (06 R150). -/
def raiseIllegal {α : Type} (s : State) : Res α := raise s cIllegal s.ctx.syl
/-- Go on only if the condition holds, else raise. -/
def need (s : State) (ok : Bool) (code : Nat) (info : Word) : Res Unit := if ok then .ok () else raise s code info
def needLegal (s : State) (ok : Bool) : Res Unit := if ok then .ok () else raiseIllegal s
def stallUnless (ok : Bool) : Res Unit := if ok then .ok () else .error .stall

/-- Within one cause, TRAPINFO names the lowest faulting address (09 R210); of a record's access fault and a tile's, the lower TRAPINFO too
(DESIGN CHOICE, log entry 38). -/
def Cause.lower (d c : Cause) : Bool := d.code == c.code && (c.code == cTrans || c.code == cAccess) && decide (d.info.toNat < c.info.toNat)

/-- Of two stops of one slot: a wait holds the bundle back before any cause is taken; of two causes the better one (01 R34). -/
def Stop.best (a b : Stop) : Stop :=
  match a, b with
  | .trap c, .trap d => if prioOf d.code < prioOf c.code || d.lower c then .trap d else .trap c
  | .trap _, e => e
  | e, _ => e
/-- The stop of a check, if it stops. -/
def stopOf {α : Type} (r : Res α) : Option Stop := match r with | .ok _ => none | .error e => some e
/-- An issue whose every check is made before a cause is chosen: when it stops, the best stop of all its checks is taken. -/
def gather {α : Type} (main : Res α) (checks : List (Option Stop)) : Res α :=
  match main with
  | .ok a => .ok a
  | .error e => .error (checks.foldl (fun b c => match c with | some d => b.best d | none => b) e)

/-! ### Latencies and pending results (01 R30, R31) -/

/-- Assumed latency of a class: the nibble of LATHDR. -/
def assumed (s : State) (cls : Nat) : Nat := bits s.core.st.lathdr.toNat (4 * cls + 3) (4 * cls)
/-- Real latency of a class on the core's grade. -/
def real (s : State) (cls : Nat) : Nat := if isL s.core.id then Config.latL cls else Config.latF cls
/-- The strand cycle t + A, or none when A = 0. -/
def dueAt (s : State) (cls : Nat) : Option Nat := if assumed s cls = 0 then none else some (s.core.st.cyc + assumed s cls)

/-- Append a pending result. -/
def addPend (d : Option Nat) (ready : Nat) (nx : Option (Nat × Nat)) (act : PendAct) (fl : Flags) (cls : Nat) (s : State) : State :=
  mapSt (fun t => { t with pend := t.pend ++ [⟨d, ready, nx, t.seq, act, fl, cls⟩], seq := t.seq + 1 }) s

/-- Append a pending result whose order number was taken at its issue. -/
def addPendAt (seq : Nat) (d : Option Nat) (ready : Nat) (act : PendAct) (fl : Flags) (cls : Nat) (s : State) : State :=
  mapSt (fun t => { t with pend := t.pend ++ [⟨d, ready, none, seq, act, fl, cls⟩] }) s

/-- A scalar result of a class: it lands in rd under R30; landing in s0 discards it (01 R16). -/
def writeS (rd : BitVec 6) (cls : Nat) (v : Word) (fl : Flags) (s : State) : State :=
  addPend (dueAt s cls) (s.now + real s cls) none (.sreg (rd.setWidth 5) v) fl cls s

/-- A scratchpad write that lands as class LC11 (04 R121), or as another class. -/
def writeSpad (cls : Nat) (bytes : List (Nat × Byte)) (fullBits : List (Nat × Bool)) (fl : Flags) (s : State) : State :=
  addPend (dueAt s cls) (s.now + real s cls) none (.spad none bytes fullBits) fl cls s

/-- Whether a pending result is due: a reader of its destination stalls until it lands. Results of the bundle in issue are not, nor is
one whose bytes land a number of strand cycles after it is ready (06 R149). -/
def Pend.isDue (s : State) (p : Pend) : Bool :=
  p.seq < s.ctx.seq0 && (match p.due with | none => true | some d => d ≤ s.core.st.cyc) &&
    (match p.next with | some (b, _) => b = 0 | none => true)

/-- The value of a scalar register. -/
def regVal (s : State) (r : BitVec 5) : Word := if r = 0 then 0 else s.core.st.a.regs[r.toNat]

/-- An atomic of the current region still holds its result for the register (12 R283). -/
def atomicHeld (s : State) (r : BitVec 5) : Bool :=
  s.core.st.vls.any fun v => v.held && v.keep && v.dst == .sreg r

/-- Read a scalar source field (02 R49, 01 R32): s0 reads 0; a register awaiting a held atomic raises wait-with-held; an empty one
stalls under policy 0 and traps under policy 1; one with a due result stalls until it lands. -/
def readS (f : BitVec 6) (s : State) : Res Word :=
  let r : BitVec 5 := f.setWidth 5
  if r = 0 then .ok 0
  else if atomicHeld s r then raise s cWaitHeld (word s.core.held.length)
  else if s.core.st.a.empties[r.toNat] then
    if f.getLsbD 5 then raise s cEmpty (zx r) else .error .stall
  else if s.core.st.pend.any fun p => p.isDue s && (match p.act with | .sreg q _ => q == r | _ => false) then .error .stall
  else if s.core.sq.any fun o => o.seq < s.ctx.seq0 && (match o.op with
      | .cnt q _ _ d => q == r && (match d with | none => true | some c => c ≤ s.core.st.cyc)
      | _ => false) then .error .stall
  else .ok (regVal s r)

/-- Make a scalar register the destination of a variable-latency result (01 R32, R33): from the end of the bundle it is empty. -/
def produceS (rd : BitVec 6) (val : Option Word) (first : Nat) (isDiv held : Bool) (s : State) : Nat × State :=
  let (i, s) := freshId s
  (i, mapCtx (fun c => { c with ends := c.ends ++ [.produce ⟨i, .sreg (rd.setWidth 5), val.map (·.setWidth 256), first, isDiv, held, true⟩] }) s)

/-- A free time for a variable-latency result. -/
def freeDelay (s : State) : Nat × State := (Config.freeTime s.free, { s with free := s.free + 1 })

/-- A variable-latency scalar result with a known value: it becomes due work that lands it after a free time. -/
def produceVal (rd : BitVec 6) (v : Word) (first : Nat) (isDiv : Bool) (s : State) : State :=
  let (i, s) := produceS rd (some v) first isDiv false s
  let (d, s) := freeDelay s
  due (if isDiv then s.now + 18 + d % 49 else max first (s.now + d)) (.variableLatencyResult s.core.id i) s

/-- Set a register full with a value (01 R33); s0 ignores the write. -/
def setReg (r : BitVec 5) (v : Word) (a : Arch) : Arch :=
  if r = 0 then a else { a with regs := a.regs.set r.toNat v, empties := a.empties.set r.toNat false }

/-- A write to a register discards the outstanding variable-latency results for it (01 R33). -/
def discardVl (r : BitVec 5) (vs : List VRes) : List VRes :=
  vs.map fun v => if v.dst == .sreg r then { v with keep := false } else v

/-- Scratchpad bytes and full/empty bits of the core. -/
def writeScratch (bytes : List (Nat × Byte)) (fullBits : List (Nat × Bool)) (c : Core) : Core :=
  { c with scratch := SMap.setAll 0 c.scratch bytes, full := SMap.setAll false c.full fullBits }

/-- Set flags of the focused strand, and note them as set in this strand cycle (03 R94). -/
def orFlags (f : Flags) (s : State) : State :=
  mapSt (fun t => { t with a := { t.a with flags := t.a.flags ||| f }, fresh := t.fresh ||| f }) s

/-- What one pending result does when it lands: its write, its flags, and its removal. -/
def landOne (p : Pend) (s : State) : State :=
  let s := mapSt (fun t => { t with pend := t.pend.filter fun q => q.seq != p.seq }) s
  let s := orFlags p.flags s
  match p.act with
  | .sreg r v => if r = 0 then s else
      mapSt (fun t => { t with a := setReg r v t.a, vls := discardVl r t.vls }) s
  | .spad _ bs fb => mapCore (writeScratch bs fb) s
  | .hfield h lo w v => mapArch (fun a => { a with handles := a.handles.set h.toNat (setField a.handles[h.toNat] lo w v) }) s
  | .flags => s

/-- Two results with one destination. -/
def PendAct.meets : PendAct → PendAct → Bool
  | .sreg r _, .sreg q _ => r == q
  | .hfield h _ _ _, .hfield g _ _ _ => h == g
  | .spad _ bs fb, .spad _ cs fc => bs.any (fun b => cs.any fun c => b.1 == c.1) || fb.any (fun b => fc.any fun c => b.1 == c.1)
  | _, _ => false

/-- Order of landing (01 R31): by landing cycle, then by bundle and slot. -/
def Pend.before (p q : Pend) : Bool :=
  match p.due, q.due with
  | some a, some b => a < b || (a == b && p.seq < q.seq)
  | _, _ => false

/-- A save that an engine has still to execute (07 R188, 08 R205, R206): its landing cycle, scratchpad offset and length. -/
def MOp.save? (m : MOp) : Option (Option Nat × Nat × Nat) :=
  match m.op with
  | .save _ off _ d => some (d, off, 1024)
  | _ => none
def SQOp.save? (m : SQOp) : Option (Option Nat × Nat × Nat) :=
  match m.op with
  | .st _ off _ f32 d => some (d, off, if f32 then 2048 else 1024)
  | .gx _ off _ _ d => some (d, off, 2048)
  | _ => none

/-- A result writes scratchpad bytes, or bits, in n bytes from an offset. -/
def PendAct.inRange (off n : Nat) : PendAct → Bool
  | .spad _ bs fb => bs.any (fun b => off ≤ b.1 && b.1 < off + n) || fb.any (fun b => off ≤ 16 * b.1 && 16 * b.1 < off + n)
  | _ => false

/-- A write that an engine has yet to execute comes before a pending one to the same destination (01 R31): a queued save, or a
`splcnt` (08 R208). -/
def queuedBefore (c : Core) (p : Pend) : Bool :=
  let earlier (d : Option Nat) (q : Nat) : Bool := Pend.before { p with due := d, seq := q } p
  let save (q : Nat) (r : Option (Option Nat × Nat × Nat)) : Bool := match r with
    | some (d, off, n) => earlier d q && p.act.inRange off n
    | none => false
  c.mq.any (fun m => save m.seq m.save?) || c.sq.any (fun m => save m.seq m.save? || (match m.op, p.act with
    | .cnt rd _ _ d, .sreg r _ => rd == r && earlier d m.seq
    | _, _ => false))

/-- The clock of the pipelines attached to the focused strand, which stand still while the debugger has stopped it (01 R41). -/
def pipeClock (s : State) : Nat := if s.core.dstop then s.core.dstopAt else s.now

/-- Whether a result may land now; `force` is the wait of a CKPT or ORD bundle, which does not await the assumed cycle (01 R30). -/
def canLand (force : Bool) (s : State) (p : Pend) : Bool :=
  p.ready ≤ pipeClock s && (force || (match p.due with | none => true | some d => d ≤ s.core.st.cyc)) &&
    !(s.core.st.pend.any fun q => q.before p && q.act.meets p.act) && !queuedBefore s.core p

/-- Order of two results that may land in strand cycle `cyc` (01 R31): a native one lands in this cycle, another in its assumed one; in
one cycle the later bundle or slot comes last. -/
def Pend.sooner (cyc : Nat) (p q : Pend) : Bool :=
  let a := p.due.getD cyc
  let b := q.due.getD cyc
  a < b || (a == b && p.seq < q.seq)

/-- The first result that may land, in landing order. -/
def nextLand (force : Bool) (s : State) : Option Pend :=
  let c := s.core.st.pend.filter (canLand force s)
  c.foldl (fun best p => match best with
    | none => some p
    | some b => if p.sooner s.core.st.cyc b then some p else best) none

/-- Complete the first latency stage of a result that has a second one (06 R149). -/
def stageTwo (p : Pend) (b l : Nat) (s : State) : State :=
  mapSt (fun t => { t with pend := t.pend.map fun q =>
    if q.seq = p.seq then { q with due := if b = 0 then none else some (t.cyc + b), ready := s.now + l, next := none } else q }) s

/-- Land every result that may land at the start of this cycle. -/
def landLoop (force : Bool) : Nat → State → State
  | 0, s => s
  | n + 1, s =>
    match nextLand force s with
    | none => s
    | some p => match p.next with
      | some (b, l) => landLoop force n (stageTwo p b l s)
      | none => landLoop force n (landOne p s)

/-- The tiles that have arrived are seen without their assumed landing cycle (01 R30). -/
def landTiles (now : Nat) (c : Core) : Core :=
  { c with queues := c.queues.map fun ts => ts.map fun t => if t.vecs.isSome && t.ready ≤ now then { t with due := none } else t }

def landDue (force : Bool) (s : State) : State :=
  let t := landLoop force (2 * s.core.st.pend.length) s
  if force then mapCore (landTiles (pipeClock s)) t else t

/-! ### Rollback, traps and the return from a handler -/

/-- The home clock of a comb die. -/
def hcOf (s : State) (n : Nat) : Nat := SMap.get 0 s.hc n

/-- A line's directory entry; a line with none reads RTS = WTS = HC (12 R274). `line` is the physical address divided by 64. -/
def dirOf (s : State) (line : Nat) : Dir :=
  (findKey s.dir line).getD
    { rts := hcOf s (combHome (line * 64)), wts := hcOf s (combHome (line * 64)), pin := none, pst := 0, psn := false, ctr := false,
      resv := none, gone := false }
def setDir (line : Nat) (d : Dir) (s : State) : State := { s with dir := putKey s.dir line d }

/-- Release every PIN bit and reservation of a core (12 R276, R279). -/
def releaseCore (c : CoreId) (s : State) : State :=
  { s with dir := s.dir.map fun (l, d) =>
      (l, { d with pin := if d.pin = some c then none else d.pin, resv := if d.resv = some c then none else d.resv }) }

/-- Give up the pin token or the request for it (12 R279, R280): the next request is granted in order. -/
def releaseToken (s : State) : State :=
  let c := s.core.id
  let held := s.sched.pinHolder == some c
  let s := { s with sched := { s.sched with
    pinHolder := if held then none else s.sched.pinHolder, pinQ := s.sched.pinQ.filter (· != c) } }
  let s := mapCore (fun k => { k with pinTok := false, pinReq := false }) s
  if held && !s.sched.pinQ.isEmpty then due s.now .pinTokenGrant s else s

/-- Request the pin token for the focused core (12 R279). -/
def requestToken (s : State) : State :=
  if s.core.pinReq || s.core.pinTok then s
  else
    let s := mapCore (fun k => { k with pinReq := true }) { s with sched := { s.sched with pinQ := s.sched.pinQ ++ [s.core.id] } }
    due s.now .pinTokenGrant s

/-- What lands while n clocks pass in which the strand issues a bundle each. -/
def landOn : Nat → State → State
  | 0, s => s
  | n + 1, s =>
    landOn n (mapSt (fun t => { t with cyc := t.cyc + 1 }) (landLoop false (2 * s.core.st.pend.length) { s with now := s.now + 1 }))

/-- Clocks after which every pending result of the focused strand has landed, if the strand goes on. -/
def landHorizon (s : State) : Nat :=
  s.core.st.pend.foldl (fun n p =>
    Nat.max n (Nat.max (p.ready - s.now) (p.due.getD 0 - s.core.st.cyc) + (match p.next with | some (b, l) => b + l | none => 0))) 0 + 2

/-- Every scratchpad write that the strand has issued takes place before a rollback completes, with the bytes and bits that it would have
written without it (01 R24): the array's contents are those after the clocks in which all pending writes land, in the order of their
landing cycles (01 R31); then the rows of tile images. -/
def flushSpad (s : State) : State :=
  let t := landOn (landHorizon s) (mapCore (fun c => { c with dstop := false }) s)
  let s := mapCore (fun c => { c with scratch := t.core.scratch, full := t.core.full }) s
  let s := mapCore (fun c => writeScratch (c.st.imgs.flatMap (·.bytes))
    (c.st.imgs.flatMap fun i => if i.full then i.bytes.map fun b => (b.1 / 16, true) else []) c) s
  mapSt (fun t => { t with imgs := [], pend := [] }) s

/-- Clear the banks, drain queues, engine queues and the spline array (07 R175, 08 R199). -/
def clearEngines (now : Nat) (c : Core) : Core :=
  { c with banks := Vector.replicate 8 .init, queues := Vector.replicate 4 [], mq := [], mBusy := now, sq := [], sBusy := now,
           coef := [], grad := [], below := 0, above := 0 }

/-- A wake under way to a waiting strand of a core. -/
def wakes (c : CoreId) : Instr → Bool
  | .cwaitWake k _ _ => k == c
  | .bwaitReturn k => k == c
  | _ => false

/-- Rollback to the shadow set (01 R24), after the engines have completed the saves that R181 and R199 of 07 and 08 name (`finish`);
the strand resumes at `pc`. The trap state is kept (R39). -/
def rollback (finish : State → State) (pc : BPc) (s : State) : State :=
  let s := flushSpad (finish s)
  let s := releaseCore s.core.id s
  let s := { s with
    waiters := s.waiters.filter (fun w => w.who != .core s.core.id),
    agenda := s.agenda.filter (fun d => !wakes s.core.id d.act),
    loads := s.loads.filter fun l => l.core != s.core.id }
  let s := mapCore (fun c => { (clearEngines s.now c) with
    held := [], rvt := [], lb := 0, commit := none, lockWait := [], xlat := [], stale := false,
    pts := Nat.max c.pts (s.now / 16),
    l1 := c.l1.map fun l => { l with rd := false } }) s
  mapSt (fun t => { t with
    a := { t.shadow with pc := pc }, vls := [], pend := [], imgs := [], wait := .none, ending := false, fresh := 0, ckDone := true }) s

/-- The wait of a strand is over: its bundle is done, and the next strand cycle begins (01 R30). -/
def endWait (t : Strand) : Strand := { t with wait := .none, cyc := t.cyc + 1, fresh := 0 }

/-- The address at which a re-execution, an eviction or a migration resumes (01 R29, R39). -/
def resumePc (t : Strand) : BPc := if t.tm then t.hckpt else t.ckptPc

/-- TRAPCAUSE: CODE, SLOT and SV (01 R21). -/
def causeWord (c : Cause) : Word :=
  word (c.code + (match c.slot with | some k => 256 * k + 2048 | none => 0))

/-- The fault report of the focused strand (01 R40, 16 R371). -/
def reportOf (async : Bool) (code : Nat) (info : Word) (s : State) : FaultReport :=
  let t := s.core.st
  { async := async, code := code, info := info, pc := t.trapPc, slotBits := BitVec.ofNat 4 (bits t.trapCause.toNat 11 8),
    tser := bits t.gangId.toNat 47 16, rnum := 0, gix := bits t.gangId.toNat 15 0, lin := bits t.strandIx.toNat 47 32, core := s.core.id,
    time := s.now }

/-- Set TRAPPC, TRAPCAUSE and TRAPINFO; any trap but a breakpoint clears the passed breakpoint (01 R35, R43). -/
def setTrapRegs (pc : BPc) (c : Cause) (s : State) : State :=
  mapSt (fun t => { t with
    trapPc := pc, trapCause := causeWord c, trapInfo := c.info,
    passed := if c.code = cBreak then some pc else none }) s

/-- Stop the strand and send its fault to its fault domain (01 R40). -/
def escalate (c : Cause) (s : State) : State :=
  let s := mapSt (fun t => { t with run := .stopped }) s
  due s.now (.faultReport (reportOf false c.code c.info s)) s

/-- Take a synchronous trap (01 R34-R40): roll back (R24), set the trap registers for the bundle that raised it (R35), then by class:
I through TRAPBASE with STATUS.TM and HCKPT set (R36, R39); E stops and escalates (R40); S stops for the scheduler. A trap in a handler
and a class I trap without a vector table become handler faults (R38, R76) that name `unhandled`. Under single step
(R41) a trap does not stop the strand: the bundle it stops after is the next one it issues (DESIGN CHOICE, log entry 113). -/
def trapNaming (unhandled : Nat) (finish : State → State) (c : Cause) (s : State) : State :=
  let pc := s.core.st.a.pc
  let t := s.core.st
  let s := mapSt (fun t => { t with retry := 0, pin := false }) (releaseToken (rollback finish t.ckptPc s))
  if t.tm || (classI c.code && t.trapBase = 0) then
    let h : Cause := ⟨cHandler, word unhandled, c.slot⟩
    escalate h (setTrapRegs pc h s)
  else
    let s := setTrapRegs pc c s
    if classI c.code then
      let v := t.trapBase + BitVec.ofNat 51 c.code
      mapSt (fun t => { t with tm := true, hckpt := v, a := { t.a with pc := v }, ckDone := false }) s
    else if c.code = cMigrate then
      let s := mapSt (fun t => { t with run := .stopped }) s
      due s.now (.migrateTrapReceipt s.core.id) s
    else escalate c s

/-- A trap of a bundle that has been fetched, or of its commit: a handler fault names this cause. -/
def takeTrap (finish : State → State) (c : Cause) (s : State) : State := trapNaming c.code finish c s

/-- A fault of a bundle's fetch. In a handler whose vector bundle cannot be fetched, the cause that could not be handled is the first
trap's (01 R38). -/
def fetchTrap (finish : State → State) (c : Cause) (s : State) : State :=
  let t := s.core.st
  let first := bits t.trapCause.toNat 7 0
  trapNaming (if t.tm && t.a.pc == t.trapBase + BitVec.ofNat 51 first then first else c.code) finish c s

/-- The return from a handler (01 R37), after the checkpoint steps at the `eret` bundle: the shadow set is captured with PC = CKPTPC,
STATUS.TM is cleared, and the strand goes on at CKPTPC. -/
def returnFromHandler (s : State) : State :=
  mapSt (fun t =>
    let a := { t.a with pc := t.ckptPc }
    { t with a := a, shadow := a, tm := false, ckDone := true }) s

/-! ### From an issue to an outcome -/

/-- The outcome of a slot's issue: its effect; a stall, which has none but its pool request; or the trap it raises, taken, with the
cause noted for the bundle (02 R67, 01 R34). -/
def close (finish : State → State) (s : State) (r : Res State) : Host.Outcome State Fault Refusal :=
  match r with
  | .ok s' => .next s'
  | .error .stall => .next (mapCtx (fun c => { c with stall := true }) s)
  | .error (.fetch tx) =>
    .next (mapCtx (fun c => { c with stall := true }) { s with ptx := if s.ptx.contains tx then s.ptx else s.ptx ++ [tx] })
  | .error .overflow => .next (mapCtx (fun c => { c with rvtFull := true }) s)
  | .error (.trap c) => .next (mapCtx (fun k => { k with cause := some c }) (takeTrap finish c s))

end Sys2Proof.Machine
end

