-- ==== Sys2Proof/Machine/Flags.lean ====
section
/-! DEFINITION. The generator of stochastic draws (05 R135, R136), the union of numerical flags (05 R140) and FLAGS' writes (03 R93). -/

namespace Sys2Proof.Machine

/-- rng_next (05 R135): the new state; the draw is its bits [63:48]. -/
def rngNext (x : Word) : Word :=
  let x := x ^^^ (x <<< 13)
  let x := x ^^^ (x >>> 7)
  x ^^^ (x <<< 17)

/-- n draws from a state, and the state they leave. -/
def rngDraws : Nat → Word → List Nat × Word
  | 0, x => ([], x)
  | n + 1, x =>
    let x := rngNext x
    let (r, y) := rngDraws n x
    ((x >>> 48).toNat :: r, y)

/-- Draw n words from SEED when the rounding mode is SR (05 R136); other modes draw nothing. -/
def draws (rnd n : Nat) (s : State) : List Nat × State :=
  if rnd = 2 then
    let (r, x) := rngDraws n s.core.st.a.seed
    (r, mapArch (fun a => { a with seed := x }) s)
  else ([], s)

/-- FLAGS is write-one-to-clear (03 R93). -/
def clearFlags (v : Word) (f : Flags) : Flags := f &&& ~~~(v.setWidth 3)

/-- The union of a list of flags. -/
def unionFlags (fs : List Flags) : Flags := fs.foldl (· ||| ·) 0

end Sys2Proof.Machine
end

