-- ==== Sys2Proof/Machine/Mem.lean ====
section
/-! DEFINITION. Global memory: bytes and lines, the page walk and permissions (11 R263-R266), translation caches, read leases
(12 R273), the L1 and the read-victim table (04 R123-R125), reads of a region (12 R271) and the entry of pieces into the store-hold
buffer (01 R23). -/

namespace Sys2Proof.Machine

/-! ### Physical bytes -/

/-- End of the HBM range (11 R257). -/
def hbmEnd : Nat := 0x1E000000000
/-- Pool addresses are 2^56 to 2^57 − 1. -/
def isPool (pa : Nat) : Bool := 2 ^ 56 ≤ pa && pa < 2 ^ 57
/-- Whether a physical address lies in a mapped range of R257. -/
def paMapped (pa : Nat) : Bool := pa < hbmEnd || isPool pa
/-- The CXL port of a pool address and the offset in its window. -/
def poolPort (pa : Nat) : Nat := pa / 2 ^ 53 % 8
def poolOff (pa : Nat) : Nat := pa % 2 ^ 53
def portOf (s : State) (pa : Nat) : Port := s.ports[poolPort pa]?.getD ⟨0, false⟩

/-- The comb die that hosts HBM4 stack k, by column and row: the edge dies clockwise from the corner at (0,0) (11 R258). -/
def stackDie (k : Nat) : Nat × Nat :=
  if k < 8 then (2 * k + 1, 0)
  else if k < 15 then (15, 2 * (k - 7))
  else if k < 23 then (14 - 2 * (k - 15), 15)
  else (0, 13 - 2 * (k - 23))
/-- The stack of an HBM address and the byte offset in it (11 R259): g mod 30 and (g div 30) × 4,096 + pa[11:0]. -/
def stackOf (pa : Nat) : Nat := bits pa 40 12 % 30
def stackOff (pa : Nat) : Nat := bits pa 40 12 / 30 * 4096 + pa % 4096
/-- The place of an HBM address in `State.hbm`: 64 GiB for each stack. -/
def hbmKey (pa : Nat) : Nat := stackOf pa * 2 ^ 36 + stackOff pa

/-- A byte of memory. -/
def rdByte (s : State) (pa : Nat) : Byte := SMap.get 0 s.mem pa
/-- n bytes from an address. -/
def rdBytes (s : State) (pa n : Nat) : List Byte := (List.range n).map fun i => rdByte s (pa + i)
/-- The little-endian number in a list of bytes. -/
def leNat (bs : List Byte) : Nat := bs.foldr (fun b acc => acc * 256 + b.toNat) 0
/-- n bytes of a number, lowest first. -/
def natBytes (n v : Nat) : List Byte := (List.range n).map fun i => BitVec.ofNat 8 (v / 2 ^ (8 * i))
/-- The little-endian number of n bytes at an address. -/
def rdN (s : State) (pa n : Nat) : Nat := leNat (rdBytes s pa n)
/-- The 64 bytes of a line, by line number. -/
def lineVec (s : State) (line : Nat) : Vec := vecOfBytes (rdBytes s (64 * line) 64)
/-- Write one byte of memory. -/
def wrByte (pa : Nat) (b : Byte) (s : State) : State := { s with mem := SMap.set 0 s.mem pa b }
/-- Write bytes from an address. -/
def wrBytes (pa : Nat) : List Byte → State → State
  | [], s => s
  | b :: t, s => wrBytes (pa + 1) t (wrByte pa b s)
def wrN (pa n v : Nat) (s : State) : State := wrBytes pa (natBytes n v) s

/-! ### Errors of an access -/

/-- Why a global access fails: the causes of 01 R34 with their TRAPINFO, a pool transaction it needs first, or a wait. -/
inductive MemErr where
  | trans (va : Nat)
  | access (va : Nat)
  | poison (pa : Nat)
  | fetch (tx : PoolTx)
  | wait
  | overflow
  | held
deriving DecidableEq, Repr

/-- Rank of an error (01 R34: translation 8, access 9, poison 10). -/
def MemErr.rank : MemErr → Nat
  | .trans _ => 0 | .access _ => 1 | .poison _ => 2 | .fetch _ => 3 | .wait => 4 | .overflow => 5 | .held => 6

/-- The virtual address that an error names, by which errors of one cause are chosen (09 R210). -/
def MemErr.va : MemErr → Nat
  | .trans va => va | .access va => va | _ => 0

/-- The error that is taken: lowest rank, then lowest virtual address, then first. Poison names no virtual address: a line that a walk
reads comes before the lines of the data (DESIGN CHOICE, log entry 38). -/
def worstErr (es : List MemErr) : Option MemErr :=
  es.foldl (fun b e => match b with
    | none => some e
    | some d => if e.rank < d.rank || (e.rank == d.rank && e.va < d.va) then some e else some d) none

/-- An access error as a stop of the slot in execution. -/
def memStop {α : Type} (s : State) : MemErr → Res α
  | .trans va => raise s cTrans (word va)
  | .access va => raise s cAccess (word va)
  | .poison pa => raise s cPoison (word pa)
  | .fetch tx => .error (.fetch tx)
  | .wait => .error .stall
  | .overflow => .error .overflow
  | .held => raise s cWaitHeld (word s.core.held.length)

def liftMem {α : Type} (s : State) : Except MemErr α → Res α
  | .ok a => .ok a
  | .error e => memStop s e

/-! ### Cache slices (11 R252, R253) -/

/-- The slice and set of a line: its home, and physical address bits [21:6]. -/
def sliceKey (line : Nat) : Nat := combHome (64 * line) * 65536 + line % 65536

/-- Queue a pool transaction once. -/
def askPool (tx : PoolTx) (s : State) : State := { s with ptx := if s.ptx.contains tx then s.ptx else s.ptx ++ [tx] }

/-- A line is no longer in its slice. -/
def dropSlice (line : Nat) (s : State) : State :=
  { s with slices := s.slices.map fun e => if e.1 = sliceKey line then (e.1, e.2.filter fun v => v.line != line) else e }

/-- The line's pool state; a line in I is in no slice. -/
def setPst (line p : Nat) (s : State) : State :=
  let s := setDir line { dirOf s line with pst := p } s
  if p = 0 then dropSlice line s else s

/-- A clean pool line leaves the slice (23 R431): to I with MemClnEvct once its lease has lapsed, else it stays in S without its data. -/
def dropClean (line : Nat) (s : State) : State :=
  let d := dirOf s line
  if d.rts ≤ hcOf s (combHome (64 * line)) then setPst line 0 { s with clnEvcts := line :: s.clnEvcts }
  else setDir line { d with pst := 1, gone := true } s

/-- An eviction: a dirty pool line by a MemWr, a modified HBM line by a write to its stack, a clean line at once. -/
def evictLine (v : SliceLine) (s : State) : State :=
  let pa := 64 * v.line
  if isPool pa then
    match (dirOf s v.line).pst with
    | 0 => s
    | 3 => s
    | 4 => askPool (.wr v.line .evict) (setPst v.line 3 s)
    | _ => dropClean v.line s
  else if v.mod then { s with hbm := SMap.setAll 0 s.hbm ((List.range 64).map fun i => (hbmKey (pa + i), rdByte s (pa + i))) }
  else s

/-- An access brings a line into its slice of 16 ways as the most recently used; a full set evicts the least recently used line that no
commit has reserved. -/
def touchLine (line : Nat) (wr : Bool) (s : State) : State :=
  let k := sliceKey line
  let ways := (findKey s.slices k).getD []
  let me : SliceLine := ⟨line, wr || ways.any fun v => v.line == line && v.mod⟩
  let rest := ways.filter fun v => v.line != line
  match if rest.length < 16 then none else (rest.filter fun v => (dirOf s v.line).resv.isNone).getLast? with
  | none => { s with slices := putKey s.slices k (me :: rest) }
  | some v => evictLine v { s with slices := putKey s.slices k (me :: rest.erase v) }
def touchAll (lines : List Nat) (s : State) : State := lines.foldl (fun s l => touchLine l false s) s

/-! ### Translation (11 R263-R266) -/

/-- The kinds of access that R265 tells apart: fetch, read, write, `cwait` and `crd`, the other counter instructions, atomics. -/
inductive Acc where
  | fetch
  | rd
  | wr
  | ctrRd
  | ctrWr
  | atomic
deriving DecidableEq, Repr

/-- The permissions of R265. -/
def Tlb.permits (t : Tlb) : Acc → Bool
  | .fetch => t.x && !t.sync
  | .rd => t.r && !t.sync
  | .wr => t.w && !t.sync
  | .ctrRd => t.r && t.sync
  | .ctrWr => t.w && t.sync
  | .atomic => t.w && !t.sync

/-- Whether a line is poisoned (11 R254). -/
def poisoned (s : State) (line : Nat) : Bool := (dirOf s line).psn

/-- The physical address in a page table entry. -/
def pteAddr (e : Nat) : Nat := bits e 60 12 * 256

/-- A malformed entry of the level with page bits `lo` (R264, R265). -/
def pteBad (lo e : Nat) : Bool :=
  let a := pteAddr e
  let leaf := bit e 1
  bits e 11 7 != 0 || bits e 63 61 != 0 || (leaf && 39 ≤ lo) || (!leaf && lo == 16) || (bit e 5 && bit e 3) || !paMapped a ||
    (if leaf then a % 2 ^ lo != 0 else isPool a || (lo != 21 && a % 4096 != 0))

/-- A walk from the table at `tab`; the levels are given by their lowest VA bit and index width. -/
def walkFrom (s : State) (va : Nat) : List (Nat × Nat) → Nat → Except MemErr Tlb
  | [], _ => .error (.trans va)
  | (lo, w) :: rest, tab =>
    let pa := tab + 8 * (va / 2 ^ lo % 2 ^ w)
    if poisoned s (pa / 64) then .error (.poison (pa / 64 * 64)) else
    let e := rdN s pa 8
    if !bit e 0 || pteBad lo e then .error (.trans va)
    else if bit e 1 then
      .ok { va := va / 2 ^ lo * 2 ^ lo, bits := lo, pa := pteAddr e, r := bit e 2, w := bit e 3, x := bit e 4, imm := bit e 5,
            sync := bit e 6 }
    else walkFrom s va rest (pteAddr e)

/-- The five levels (R263). -/
def levels : List (Nat × Nat) := [(48, 9), (39, 9), (30, 9), (21, 9), (16, 5)]

/-- The walk of a virtual address from the job's root table. -/
def walk (s : State) (va : Nat) : Except MemErr Tlb :=
  if 2 ^ 57 ≤ va || isPool s.sched.ptroot then .error (.trans va) else walkFrom s va levels s.sched.ptroot

/-- The lines of the entries that a walk reads. -/
def walkLines (s : State) (va : Nat) : List (Nat × Nat) → Nat → List Nat
  | [], _ => []
  | (lo, w) :: rest, tab =>
    let pa := tab + 8 * (va / 2 ^ lo % 2 ^ w)
    let e := rdN s pa 8
    pa / 64 :: (if !bit e 0 || bit e 1 then [] else walkLines s va rest (pteAddr e))

/-- Whether an access writes. -/
def Acc.writes : Acc → Bool
  | .wr => true | .ctrWr => true | .atomic => true | _ => false

/-- Whether a virtual address lies in the job's TMR area (14 R312). -/
def inTmrArea (s : State) (va : Nat) : Bool :=
  s.sched.tmrbase ≤ va && va < s.sched.tmrbase + 128 * s.sched.tmrcnt

/-- The physical address that a translation gives an access, with the permission and window checks (R257, R265) and the refusal of
writes into the TMR area (14 R313). -/
def place (s : State) (t : Tlb) (acc : Acc) (va : Nat) : Except MemErr Nat :=
  let pa := t.pa + va % 2 ^ t.bits
  if !t.permits acc || (acc.writes && inTmrArea s va) then .error (.access va)
  else if isPool pa && (portOf s pa).size ≤ poolOff pa then .error (.access va)
  else .ok pa

/-- The translation of an engine's access: committed page tables, no core's cache. -/
def engXlate (s : State) (acc : Acc) (va : Nat) : Except MemErr Nat := do
  let t ← walk s va
  place s t acc va

def Tlb.covers (t : Tlb) (va : Nat) : Bool := t.va ≤ va && va < t.va + 2 ^ t.bits

/-- Enter a translation into a die's cache of 1,024 sets of 8 (R266). The entry that leaves a full set is a free choice: the rule names no
order of replacement. -/
def keepDie (d : Nat) (t : Tlb) (s : State) : State :=
  let mine := s.dieTlb.filter fun e => e.1 == d
  let full := if mine.length < 8 then [] else mine.filter fun e => Config.tlbSet e.2.va e.2.bits % 1024 == Config.tlbSet t.va t.bits % 1024
  match if full.length < 8 then none else full[Config.freeChoice s.free % full.length]? with
  | none => { s with dieTlb := (d, t) :: s.dieTlb }
  | some v => { s with dieTlb := (d, t) :: s.dieTlb.erase v, free := s.free + 1 }

/-- Look up the focused core's micro-TLB, its die's translation cache, then walk (R266); the entry found becomes the micro-TLB's most
recently used, and a walk's result also enters the die's cache. -/
def lookupTlb (s : State) (va : Nat) : Except MemErr (Tlb × State) :=
  let keep (t : Tlb) (s : State) : State :=
    mapCore (fun c => { c with
      tlb := (t :: c.tlb.filter (· != t)).take 16,
      xlat := if c.xlat.contains (t.va, t.bits) then c.xlat else (t.va, t.bits) :: c.xlat }) s
  match s.core.tlb.find? (·.covers va) with
  | some t => .ok (t, keep t s)
  | none =>
    let d := dieOf s.core.id
    match s.dieTlb.find? fun e => e.1 == d && e.2.covers va with
    | some (_, t) => .ok (t, keep t s)
    | none => do
      let t ← walk s va
      .ok (t, keep t (keepDie d t (touchAll (walkLines s va levels s.sched.ptroot) s)))

/-- A core's translation of one address: the physical address and whether the page is immutable. -/
def coreXlate (acc : Acc) (va : Nat) (s : State) : Except MemErr ((Nat × Bool) × State) := do
  let (t, s) ← lookupTlb s va
  let pa ← place s t acc va
  .ok ((pa, t.imm), s)

/-- The error of a misaligned access of n bytes: a translation fault of one of its bytes outranks the access fault (01 R34). -/
def alignErr (va n : Nat) (s : State) : MemErr :=
  let at_ (a : Nat) : List MemErr := match lookupTlb s a with
    | .error (.trans _) => [.trans a]
    | _ => []
  let last := va + n - 1
  (worstErr (at_ va ++ (if last / 65536 = va / 65536 then [] else at_ (last / 65536 * 65536)) ++ [.access va])).getD (.access va)

/-- Alignment of an access of n bytes at va. -/
def needAligned (va n : Nat) (s : State) : Res Unit := if va % n = 0 then .ok () else memStop s (alignErr va n s)

/-! ### Leases and lines of a region -/

/-- `grant` of R273 at a line's home, for a requester with program timestamp `pts`; a pinned region's read sets PIN (R279). Returns
WTS, the lease end and the new state. -/
def grantLease (line pts : Nat) (pinner : Option CoreId) (s : State) : (Nat × Nat) × State :=
  let d := dirOf s line
  let d := if pinner.isSome then { d with pin := pinner } else d
  if d.resv.isSome then ((d.wts, d.rts), setDir line d s)
  else
    let r := Nat.max d.rts (Nat.max pts d.wts + 256)
    ((d.wts, r), setDir line { d with rts := r } s)

/-- Whether a home can serve a line: poison (R433), a pool port out of service, or a pool line in I or with its data dropped, which
needs a MemRd first (R431). -/
def homeServes (s : State) (line : Nat) : Except MemErr Unit :=
  let d := dirOf s line
  if d.psn then .error (.poison (64 * line))
  else if !isPool (64 * line) then .ok ()
  else if !(portOf s (64 * line)).up then .error (.poison (64 * line))
  else if d.pst = 0 || d.gone then .error (.fetch (.rd line false))
  else .ok ()

/-- An engine's read of a line waits for a commit that has it reserved (12 R277, R285). -/
def engServes (s : State) (line : Nat) : Except MemErr Unit := if (dirOf s line).resv.isSome then .error .wait else homeServes s line

/-- An engine's read of some lines as one single-access region later than t (12 R285): its time is not below their WTS, and later writes
come after it. -/
def engReads (lines : List Nat) (t : Nat) (s : State) : Nat × State :=
  let u := lines.foldl (fun u l => Nat.max u (dirOf s l).wts) (t + 1)
  (u, lines.foldl (fun s l => touchLine l false (setDir l { dirOf s l with rts := Nat.max (dirOf s l).rts u } s)) s)
def engRead (line t : Nat) (s : State) : Nat × State := engReads [line] t s

/-- The stored watermark of an HBM leaf, by an address in it (R262). -/
def leafMark (s : State) (pa : Nat) : Nat := SMap.get 0 s.wm (pa / 256)

/-- L1 ways in use: those of the split (04 R106) less the lent ones (R126). -/
def splitWays (split : Nat) : Nat := match split with | 0 => 0 | 1 => 1 | 2 => 2 | _ => 4
def waysOf (c : Core) : Nat := splitWays c.split - c.lent
/-- Scratchpad size of a split (04 R106). -/
def splitBytes (split : Nat) : Nat := match split with | 0 => 196608 | 1 => 180224 | 2 => 163840 | _ => 131072
def l1Set (pa : Nat) : Nat := pa / 64 % 256

/-- Enter a line into the read-victim table (04 R125); none when a 65th entry would be needed. In pinned mode it is not used. -/
def rvtAdd (line lease : Nat) (c : Core) : Option Core :=
  if c.st.pin || c.rvt.any (fun e => e.1 == line) then some c
  else if 64 ≤ c.rvt.length then none
  else some { c with rvt := (line, lease) :: c.rvt }

/-- Insert a line into the L1; the least recently used line of a full set leaves, and enters the read-victim table if the region has
read it (04 R123, R125). -/
def l1Insert (l : L1Line) (c : Core) : Option Core :=
  let rest := c.l1.filter fun x => x.pa != l.pa
  let same := rest.filter fun x => l1Set x.pa == l1Set l.pa
  if same.length < waysOf c then some { c with l1 := l :: rest }
  else match same.getLast? with
    | none => some c
    | some v =>
      let c' := { c with l1 := l :: rest.filter fun x => x.pa != v.pa }
      if v.rd then rvtAdd (v.pa / 64) v.lease c' else some c'

/-- A region's read of one line: its L1 copy, or a leased read at the home (R271, R273, R279). The line is by number. -/
def regionLine (line : Nat) (rop : Bool) (s : State) : Except MemErr (Vec × State) :=
  let c := s.core
  let hit := if c.st.pin then none else c.l1.find? fun l => l.pa == 64 * line
  match hit with
  | some l =>
    let l' := { l with rd := l.rd || !l.rop }
    .ok (l.data, mapCore (fun c => { c with l1 := l' :: c.l1.filter (fun x => x.pa != l.pa), lb := if l.rop then c.lb else Nat.max c.lb l.wts }) s)
  | none => do
    homeServes s line
    let v := lineVec s line
    let m := leafMark s (64 * line)
    let s := touchLine line false s
    if rop then
      match (if waysOf s.core = 0 then some s.core else l1Insert ⟨64 * line, v, false, true, 0, 0, m⟩ s.core) with
      | some c' => .ok (v, { s with core := c' })
      | none => .error .overflow
    else if c.st.pin && (dirOf s line).resv.isSome && (dirOf s line).resv != some c.id then .error .wait
    else
      let ((w, e), s) := grantLease line c.pts (if c.st.pin then some c.id else none) s
      let c := { s.core with lb := Nat.max s.core.lb w }
      match (if waysOf c = 0 then rvtAdd line e c else l1Insert ⟨64 * line, v, true, false, e, w, m⟩ c) with
      | some c' => .ok (v, { s with core := c' })
      | none => .error .overflow

/-- The region's own held byte at a physical address (01 R23): the last store piece that covers it. -/
def heldByte (hs : List Held) (pa : Nat) : Option Byte :=
  hs.foldl (fun acc h => match h with
    | .store b _ v m _ => if b ≤ pa && pa < b + 64 && m.getLsbD (pa - b) then some (v.extractLsb' (8 * (pa - b)) 8) else acc
    | _ => acc) none

/-- The held pieces that a load sees: those of earlier bundles (02 R48 rules 1 and 5). -/
def seenHeld (s : State) : List Held := s.core.held.take (s.core.held.length - s.ctx.ownHeld)

/-- Byte k of a vector. -/
def vecByte (v : Vec) (k : Nat) : Byte := v.extractLsb' (8 * k) 8

/-- A held atomic's target overlaps n bytes (13 R300). -/
def Held.atomicMeets (h : Held) (pa n : Nat) : Bool :=
  match h with
  | .atomic _ p w4 _ _ _ _ _ => p < pa + n && pa < p + (if w4 then 4 else 8)
  | _ => false

/-- Translate chunks (address, length) that cross no line, gathering the errors (09 R210). -/
def xlateAll (acc : Acc) : List (Nat × Nat) → State → (List MemErr × List (Nat × Nat × Bool)) × State
  | [], s => (([], []), s)
  | (va, n) :: t, s =>
    match coreXlate acc va s with
    | .ok ((pa, imm), s) => let ((es, ps), s) := xlateAll acc t s; ((es, (pa, n, imm) :: ps), s)
    | .error e => let ((es, ps), s) := xlateAll acc t s; ((e :: es, ps), s)

/-- Read chunks at physical addresses, line by line. -/
def readChunks : List (Nat × Nat × Bool) → State → Except MemErr (List (List Byte) × State)
  | [], s => .ok ([], s)
  | (pa, n, imm) :: t, s => do
    let (v, s) ← regionLine (pa / 64) imm s
    let bs := (List.range n).map fun i => (heldByte (seenHeld s) (pa + i)).getD (vecByte v (pa % 64 + i))
    let (r, s) ← readChunks t s
    .ok (bs :: r, s)

/-- A global read of the region (12 R271): translated, checked, leased, with the region's own held bytes laid over. The chunks are in
rising address order and cross no line; `extra` are errors found before (09 R217); `chk` asks for the test of R300. -/
def globalReadWith (acc : Acc) (chk : Bool) (extra : List MemErr) (chunks : List (Nat × Nat)) (s : State) :
    Except MemErr (List (List Byte) × State) :=
  let ((es, ps), s) := xlateAll acc chunks s
  if chk && ps.any (fun (pa, n, _) => s.core.held.any fun h => h.atomicMeets pa n) then .error .held else
  let ps' := ps.filterMap fun (pa, _, _) => match homeServes s (pa / 64) with
    | .error (.poison a) => some (MemErr.poison a)
    | _ => none
  match worstErr (extra ++ es ++ ps') with
  | some e => .error e
  | none => readChunks ps s

def globalRead (chunks : List (Nat × Nat)) (s : State) : Except MemErr (List (List Byte) × State) := globalReadWith .rd true [] chunks s

/-- The stop of a load of n bytes that meets the target of a held atomic (13 R300), whatever its alignment. -/
def heldMeets (va : Res Word) (n : Nat) (s : State) : Option Stop :=
  match va with
  | .error _ => none
  | .ok va =>
    let meets (k : Nat) : Bool := match coreXlate .rd (va.toNat + k) s with
      | .ok ((pa, _), _) => s.core.held.any fun h => h.atomicMeets pa 1
      | .error _ => false
    if (List.range n).any meets then stopOf (memStop s .held : Res Unit) else none

/-- One aligned read of n ≤ 64 bytes in a line. -/
def globalRead1 (va n : Nat) (s : State) : Except MemErr (Nat × State) := do
  let (r, s) ← globalRead [(va, n)] s
  .ok (leNat (r.headD []), s)

/-! ### Held pieces -/

/-- Enter pieces into the store-hold buffer, or raise hold overflow for the 129th (01 R23). -/
def holdAll (ps : List Held) (s : State) : Res State := do
  need s (s.core.held.length + ps.length ≤ 128) cHold 128
  .ok (mapCtx (fun c => { c with ownHeld := c.ownHeld + ps.length }) (mapCore (fun c => { c with held := c.held ++ ps }) s))

/-- A store piece for bytes of one aligned 64-byte block, from offset `off` of the block. -/
def storePiece (pa va : Nat) (bs : List Byte) (wm : Option Nat) : Held :=
  let off := pa % 64
  let data := vecOfBytes (List.replicate off 0 ++ bs)
  .store (pa / 64 * 64) (word (va / 64 * 64)) data (BitVec.ofNat 64 ((2 ^ bs.length - 1) * 2 ^ off)) wm

/-- A write address translated at issue (R266): the physical address. -/
def xlateW (acc : Acc) (va : Nat) (s : State) : Res (Nat × State) := do
  let ((pa, _), s') ← liftMem s (coreXlate acc va s)
  .ok (pa, s')

end Sys2Proof.Machine
end

