-- ==== Sys2Proof/Machine/Operands.lean ====
section
/-! DEFINITION. Operand forms: scratchpad reads and writes with their window check and qualifiers (04 R108, R115-R118, R121), the ten
stream ports (03 R101-R105, 04 R119-R121), drain-queue pops (07 R186), vector sources and destinations (02 R48-R51, 06 R148-R149) and
handle fields (03 R96-R99). -/

namespace Sys2Proof.Machine

/-! ### Scratchpad accesses -/

/-- The window check of R108 over offsets. -/
def inWindow (s : State) (offs : List Int) : Bool := offs.all fun o => 0 ≤ o && o < splitBytes s.core.split

/-- The granules that hold some of the offsets. -/
def granulesOf (offs : List Nat) : List Nat := (offs.map (· / 16)).eraseDups

def granFull (s : State) (g : Nat) : Bool := SMap.get false s.core.full g

/-- Offsets a range covers. -/
def offsFrom (o n : Nat) : List Nat := (List.range n).map (o + ·)

/-- Whether a queued save's landing is due: no assumed latency, or its strand cycle has come. -/
def saveDue (s : State) (seq : Nat) (d : Option Nat) : Bool :=
  seq < s.ctx.seq0 && (match d with | none => true | some c => c ≤ s.core.st.cyc)

/-- Bytes that a queued save will write (07 R188, 08 R205, R206), when due. -/
def dueRange (s : State) (seq : Nat) : Option (Option Nat × Nat × Nat) → Option (Nat × Nat)
  | some (d, off, n) => if saveDue s seq d then some (off, n) else none
  | none => none
def mSaveRange (s : State) (m : MOp) : Option (Nat × Nat) := dueRange s m.seq m.save?
def sSaveRange (s : State) (m : SQOp) : Option (Nat × Nat) := dueRange s m.seq m.save?

/-- An outstanding image overlaps the offsets: a later access stalls until it lands (09 R224). -/
def imgBusy (s : State) (offs : List Nat) : Bool :=
  s.core.st.imgs.any fun i => i.seq < s.ctx.seq0 && i.bytes.any fun b => offs.contains b.1

/-- A strand write to some of the offsets is due but has not landed (04 R121), or an image is outstanding. -/
def spadBusy (s : State) (offs : List Nat) : Bool :=
  imgBusy s offs ||
  (s.core.st.pend.any fun p => p.isDue s && (match p.act with
    | .spad _ bs _ => bs.any fun b => offs.contains b.1
    | _ => false)) ||
  ((s.core.mq.filterMap (mSaveRange s) ++ s.core.sq.filterMap (sSaveRange s)).any fun r =>
    offs.any fun o => r.1 ≤ o && o < r.1 + r.2)

/-- Empty granules at the end of the bundle, when a clearing read proceeds (04 R116). -/
def clearAtEnd (gs : List Nat) (s : State) : State := mapCtx (fun c => { c with ends := c.ends ++ [.clear gs] }) s

/-- A qualified read (04 R108, R116, R121): window fault at `info`, stall on the qualifier or on a due write, then the bytes. -/
def spadRead (offs : List Int) (fe : Nat) (info : Word) (s : State) : Res (List Byte × State) := do
  need s (inWindow s offs) cWindow info
  let os := offs.map Int.toNat
  let gs := granulesOf os
  stallUnless (fe = 0 || gs.all (granFull s))
  stallUnless (!spadBusy s os)
  let bs := os.map fun o => SMap.get 0 s.core.scratch o
  .ok (bs, if fe = 2 then clearAtEnd gs s else s)

/-- The checks of a qualified write (04 R108, R117, 09 R224). -/
def spadWriteCheck (offs : List Int) (fe : Nat) (info : Word) (s : State) : Res Unit := do
  need s (inWindow s offs) cWindow info
  let os := offs.map Int.toNat
  stallUnless (fe != 1 || (granulesOf os).all fun g => !granFull s g)
  stallUnless (!imgBusy s os)

/-- The full/empty bits a qualified write sets. -/
def fullBits (fe : Nat) (os : List Nat) : List (Nat × Bool) := if fe = 0 then [] else (granulesOf os).map fun g => (g, true)

/-! ### Ports -/

/-- A field of a descriptor. -/
def dfield (d : BitVec 256) (hi lo : Nat) : Nat := bits d.toNat hi lo
def dsfield (d : BitVec 256) (lo : Nat) : Int := sint 32 (dfield d (lo + 31) lo)
/-- A valid descriptor (03 R102). -/
def portValid (d : BitVec 256) : Bool :=
  dfield d 179 179 = 0 ||
  (dfield d 31 18 = 0 && dfield d 183 182 = 0 && dfield d 255 240 = 0 && dfield d 177 176 != 3 && dfield d 181 180 != 3 &&
    1 ≤ dfield d 47 32 && 1 ≤ dfield d 63 48 && 1 ≤ dfield d 79 64 &&
    dfield d 207 192 < dfield d 47 32 && dfield d 223 208 < dfield d 63 48 && dfield d 239 224 ≤ dfield d 79 64 &&
    (dfield d 239 224 != dfield d 79 64 || (dfield d 207 192 = 0 && dfield d 223 208 = 0)))

/-- The address A of R119. -/
def portAddr (d : BitVec 256) : Int :=
  dfield d 17 0 + dfield d 207 192 * dsfield d 80 + dfield d 223 208 * dsfield d 112 + dfield d 239 224 * dsfield d 144

/-- The accessed bytes of R120: vector byte and scratchpad offset. -/
def portBytes (d : BitVec 256) : List (Nat × Int) :=
  let a := portAddr d
  let e := 2 ^ dfield d 181 180
  let t := dfield d 207 192 % 16
  let dr := dfield d 187 184 + 1
  let dc := dfield d 191 188 + 1
  if dfield d 178 178 = 0 then
    if dr ≤ t then [] else
    ((List.range 64).filter fun b => !(dc * e ≤ b && b < 16 * e)).map fun b => (b, a + b)
  else if dc ≤ t then [] else
    let a' := a - a % e
    (List.range (dr * e)).map fun b => (b, a' + 64 * (b / e) + (b % e : Nat))

/-- The position after one access (R119). -/
def portNext (d : BitVec 256) : BitVec 256 :=
  let i := dfield d 207 192 + 1
  if i < dfield d 47 32 then setField d 192 16 i
  else
    let m := dfield d 223 208 + 1
    let d := setField d 192 16 0
    if m < dfield d 63 48 then setField d 208 16 m
    else setField (setField d 208 16 0) 224 16 (dfield d 239 224 + 1)

/-- A port's descriptor by index: 0-5 are p0-p5, 6-9 are q0-q3. -/
def portDesc (s : State) (k : Nat) : BitVec 256 := s.core.st.a.ports[k]?.getD 0
def setPort (k : Nat) (d : BitVec 256) (s : State) : State := mapArch (fun a => { a with ports := a.ports.setIfInBounds k d }) s
/-- A port's index from the field x of format SH (02 R56). -/
def portIx (x : BitVec 4) : Nat := if x < 6 then x.toNat else x.toNat - 2
/-- A port's selector in a queue fault (04 R119). -/
def portSel (k : Nat) : Nat := if k < 6 then k else k + 10

/-- The descriptor of a port that can be accessed, or the queue fault. -/
def portReady (k : Nat) (s : State) : Res (BitVec 256) := do
  let d := portDesc s k
  need s (dfield d 179 179 = 1 && dfield d 239 224 != dfield d 79 64) cQueue (word (portSel k))
  .ok d

/-- The vector of a pop: accessed bytes at their places, 0 elsewhere. -/
def assemble (pl : List (Nat × Byte)) : Vec :=
  vecOfBytes ((List.range 64).map fun b => ((pl.find? fun e => e.1 == b).map (·.2)).getD 0)

/-- port_access of a read port (04 R119). -/
def popPort (k : Nat) (s : State) : Res (Vec × State) := do
  let d ← portReady k s
  let bs := portBytes d
  let (vs, s) ← spadRead (bs.map (·.2)) (dfield d 177 176) (BitVec.ofInt 64 (portAddr d)) s
  .ok (assemble ((bs.map (·.1)).zip vs), setPort k (portNext d) s)

/-- port_access of a write port, with the two-part landing of 06 R149 for a result of a class. -/
def pushPort (k : Nat) (data : Vec) (cls : Nat) (fl : Flags) (s : State) : Res State := do
  let d ← portReady k s
  let bs := portBytes d
  let fe := dfield d 177 176
  spadWriteCheck (bs.map (·.2)) fe (BitVec.ofInt 64 (portAddr d)) s
  let os := bs.map fun b => b.2.toNat
  let act := PendAct.spad (some k) (bs.map fun b => (b.2.toNat, vecByte' data b.1)) (fullBits fe os)
  let s := setPort k (portNext d) s
  let a := assumed s cls
  let b := assumed s 11
  let la := real s cls
  let lb := real s 11
  .ok (if a ≠ 0 && b ≠ 0 then addPend (some (s.core.st.cyc + a + b)) (s.now + la + lb) none act fl cls s
    else if a = 0 && b = 0 then addPend none (s.now + la + lb) none act fl cls s
    else addPend (dueAt s cls) (s.now + la) (some (b, lb)) act fl cls s)
where
  vecByte' (v : Vec) (i : Nat) : Byte := v.extractLsb' (8 * i) 8

/-- The checks of a push (04 R119). -/
def pushCheck (k : Nat) (s : State) : Res Unit := do
  let d ← portReady k s
  spadWriteCheck ((portBytes d).map (·.2)) (dfield d 177 176) (BitVec.ofInt 64 (portAddr d)) s

/-! ### Drain queues -/

/-- Pop the next vector of queue n (07 R186); a tile drained by this bundle's own `mdrain` is not seen (02 R48). -/
def popQueue (n : Nat) (s : State) : Res (Vec × State) := do
  let ts := (s.core.queues[n]?.getD []).filter fun t => s.ctx.ownTile != some t.id
  let own := (s.core.queues[n]?.getD []).filter fun t => s.ctx.ownTile == some t.id
  match ts with
  | [] => raise s cQueue (word (8 + n))
  | t :: rest =>
    need s (match t.due with | none => true | some d => d ≤ s.core.st.cyc) cQueue (word (8 + n))
    match t.vecs with
    | some (v :: vs) =>
      stallUnless (t.ready ≤ s.now)
      let ts' := (if vs.isEmpty then rest else { t with vecs := some vs } :: rest) ++ own
      .ok (v, mapCore (fun c => { c with queues := c.queues.setIfInBounds n ts' }) s)
    | _ => .error .stall

/-! ### Vector sources and destinations -/

/-- Pop a port or queue once per bundle (02 R48 rule 2). -/
def popSel (sel : BitVec 6) (s : State) : Res (Vec × State) :=
  match findKey s.ctx.pops sel.toNat with
  | some v => .ok (v, s)
  | none => do
    let (v, s) ← if sel < 8 then popPort sel.toNat s else popQueue (sel.toNat - 8) s
    .ok (v, mapCtx (fun c => { c with pops := (sel.toNat, v) :: c.pops }) s)

/-- A vector source under an operand type (02 R50, 06 R148). -/
def srcVec (sel : BitVec 6) (ty : Nat) (s : State) : Res (Vec × State) :=
  if 32 ≤ sel then do
    let w ← readS (sel &&& 31) s
    .ok (bcastVec ty w, s)
  else popSel sel s

/-- A vector or scalar result of class cls at a destination selector (06 R149): a write port, or a scalar with the value's low bits. -/
def putVec (vd : BitVec 8) (v : Vec) (cls : Nat) (fl : Flags) (s : State) : Res State :=
  pushPort (vd.toNat - 0x10 + 6) v cls fl s

/-- Every check of a vector instruction's operands: its sources and its write port. -/
def vecChecks (ty : Nat) (sels : List (BitVec 6)) (vd : BitVec 8) (s : State) : List (Option Stop) :=
  sels.map (fun v => stopOf (srcVec v ty s)) ++
    (if 0x10 ≤ vd && vd < 0x14 then [stopOf (pushCheck (vd.toNat - 0x10 + 6) s)] else [])

/-! ### Handles -/

def hBase (h : BitVec 256) : Nat := dfield h 63 0
def hRows (h : BitVec 256) : Nat := dfield h 79 64
def hCols (h : BitVec 256) : Nat := dfield h 95 80
def hStride (h : BitVec 256) : Nat := dfield h 127 96
def hTmr (h : BitVec 256) : Nat := dfield h 159 128
def hFmt (h : BitVec 256) : Nat := dfield h 163 160
def hGov (h : BitVec 256) : Bool := dfield h 164 164 = 1
def hTrn (h : BitVec 256) : Bool := dfield h 165 165 = 1
def hRnd (h : BitVec 256) : Nat := dfield h 167 166
def hPinv (h : BitVec 256) : Nat := dfield h 183 168

/-- A valid handle value (03 R97). -/
def handleValid (h : BitVec 256) : Bool :=
  dfield h 255 184 = 0 && dfield h 63 57 = 0 && !(8 ≤ hFmt h && hFmt h ≤ 14) && hRnd h != 3 && (hGov h == (hFmt h == 15))

/-- Whether an `hld` to a handle is outstanding (03 R100). -/
def handleBusy (s : State) (h : BitVec 4) : Bool :=
  s.core.st.vls.any fun v => v.dst == .handle h

/-- Read a handle, stalling while an `hld` to it is outstanding. -/
def readH (h : BitVec 4) (s : State) : Res (BitVec 256) := do
  stallUnless (!handleBusy s h)
  stallUnless (!(s.core.st.pend.any fun p => p.isDue s && (match p.act with | .hfield g _ _ _ => g == h | _ => false)))
  .ok s.core.st.a.handles[h.toNat]

/-- The value that a handle will have once the writes to it that are pending have landed, in their order (01 R31). -/
def handleToCome (h : BitVec 4) (s : State) : BitVec 256 :=
  s.core.st.pend.foldl (fun v p => match p.act with
    | .hfield g lo w x => if g = h then setField v lo w x else v
    | _ => v) s.core.st.a.handles[h.toNat]

/-- Replace a whole handle. -/
def setHandle (h : BitVec 4) (v : BitVec 256) (a : Arch) : Arch := { a with handles := a.handles.set h.toNat v }
/-- A write of a field of a handle, in class LC0 (03 R98). -/
def writeHField (h : BitVec 4) (lo w v : Nat) (s : State) : State :=
  addPend (dueAt s 0) (s.now + real s 0) none (.hfield h lo w v) 0 0 s

end Sys2Proof.Machine
end

