-- ==== Sys2Proof/Machine/Engine.lean ====
section
/-! DEFINITION. The outer-product engine (07) and the spline array (08) as they execute their queued operations, the row operations of
the accumulator path (06 R167-R169), and the saves that a rollback completes (07 R181, 08 R199). -/

namespace Sys2Proof.Machine

/-! ### Banks -/

def bankOf (c : Core) (bk : Nat) : Bank := c.banks[bk]?.getD .init

/-- Note a bank's status for the later slots of the bundle, which do not see its change (02 R48). -/
def noteBank (bk : Nat) (s : State) : State := mapCtx (fun c => { c with ownBank := some (bk, bankOf s.core bk) }) s
/-- The status of a bank as the bundle found it. -/
def seenBank (s : State) (bk : Nat) : Bank :=
  match s.ctx.ownBank with
  | some (k, b) => if k = bk then b else bankOf s.core bk
  | none => bankOf s.core bk
def setBank (bk : Nat) (b : Bank) (c : Core) : Core := { c with banks := c.banks.setIfInBounds bk b }
/-- The 256 words of a bank in memory order (07 R187). -/
def bankWords (c : Core) (bk : Nat) : List Nat := (List.range 256).map fun k => SMap.get 0 (bankOf c bk).img k
/-- A sparse image of a list of words. -/
def sparse (ws : List Nat) : SMap Nat := ((List.range ws.length).zip ws).filter fun e => e.2 != 0
def setWords (bk : Nat) (ws : List Nat) (c : Core) : Core := setBank bk { bankOf c bk with img := sparse ws } c
/-- The words of block b of a list of 256. -/
def blockWords (ws : List Nat) (b : Nat) : List Nat := (ws.drop (64 * b)).take 64
def bfpWords (b : Bfp) : List Nat := b.m.map (bfpWord b.e)

/-- acc := convert_sat(acc + x, f32, RNE) on one f32 word. -/
def accAdd (w : Nat) (x : XV) : Nat × Flags :=
  let (v, f) := (valueOf 0 w).add x
  let (b, g) := convertSat v 0 0 0
  (b, f ||| g)

/-- Add a list of values to a list of f32 words. -/
def accAddAll (ws : List Nat) (xs : List XV) : List Nat × Flags :=
  let r := (ws.zip xs).map fun (w, x) => accAdd w x
  (r.map (·.1), unionFlags (r.map (·.2)))

/-- One bfp_add per block of a bank; a lane with none takes no part, and a block with no lane is unchanged. -/
def blockAddAll (ws : List Nat) (xs : List (Option XV)) : List Nat × Flags :=
  let r := (List.range (ws.length / 64)).map fun b =>
    let x := (xs.drop (64 * b)).take 64
    if x.all Option.isNone then (blockWords ws b, 0)
    else
      let (n, f) := Bfp.add (bfpOfWords (blockWords ws b)) x
      (bfpWords n, f)
  (r.flatMap (·.1), unionFlags (r.map (·.2)))

/-! ### Rank-one updates (07 R182, R183) -/

/-- Steps of an instruction by operand type. -/
def rankSteps (ty : Nat) : Nat := if ty = 1 then 2 else 4

/-- elem_a(i, k) or elem_b(k, c): the element of index `j` = i or c at step k. -/
def rankElem (xs : List XV) (steps : Nat) (major : Bool) (j k : Nat) : XV :=
  (xs[if major then 16 * k + j else steps * j + k]?).getD .zero

/-- The 256 products of step k, row-major. -/
def rankProducts (xa xb : List XV) (steps : Nat) (la lb : Bool) (k : Nat) : List (XV × Flags) :=
  (List.range 256).map fun n => (rankElem xa steps la (n / 16) k).mul (rankElem xb steps lb (n % 16) k)

/-- The steps of `mop`, `mmac` or `mbfp` on the bank's words. -/
def rankRun (block : Bool) (xa xb : List XV) (steps : Nat) (la lb : Bool) : List Nat → List Nat → List Nat × Flags
  | [], ws => (ws, 0)
  | k :: ks, ws =>
    let p := rankProducts xa xb steps la lb k
    let (ws, f) := if block then blockAddAll ws (p.map fun e => some e.1) else accAddAll ws (p.map (·.1))
    let (ws, g) := rankRun block xa xb steps la lb ks ws
    (ws, f ||| unionFlags (p.map (·.2)) ||| g)

/-! ### Drains (07 R185) -/

/-- v(i, c) of the 256 elements, row-major. -/
def bankValues (ws : List Nat) (block : Bool) : List XV :=
  if block then (List.range 256).map fun n => bfpValue (bfpExp (ws.getD (n / 64 * 64) 0)) (sint 24 (ws.getD n 0))
  else ws.map (valueOf 0)

/-- Split a list into parts of n. -/
def chunksOf {α : Type} (n : Nat) : Nat → List α → List (List α)
  | 0, _ => []
  | k + 1, l => if l.isEmpty then [] else l.take n :: chunksOf n k (l.drop n)

/-- The vectors of a drained tile and its flags. -/
def drainTile (ws : List Nat) (block : Bool) (ty : Nat) (x : Int) (rnd : Nat) (rs : List Nat) : List Vec × Flags :=
  let ys := (bankValues ws block).map (XV.scale x)
  match ty with
  | 4 =>
    let bl := ((chunksOf 32 8 ys).zip (chunksOf 32 8 rs ++ List.replicate 8 [])).map fun (b, r) => mx4Encode b rnd r
    ((chunksOf 2 4 bl).map fun p => match p with
      | [b0, b1] => mx4Vec (b0.1, b0.2.1) (b1.1, b1.2.1)
      | _ => 0, unionFlags (bl.map fun b => b.2.2))
  | 7 =>
    let bs := (List.range 4).map fun b =>
      if block then
        let x := bfpOfWords (blockWords ws b)
        (x, if x.m.any (· == nan24) then flagNV else (0 : Flags))
      else bfpEncode ((ys.drop (64 * b)).take 64)
    ((chunksOf 16 16 (bs.flatMap fun b => bfpWords b.1)).map (ofLanes 32), unionFlags (bs.map (·.2)))
  | _ =>
    let (ls, f) := convLanes ys ty rnd rs
    ((chunksOf (512 / widthOf ty) 16 ls).map (ofLanes (widthOf ty)), f)

/-! ### Row operations of the accumulator path (06 R167-R169) -/

/-- Replace the words from index k. -/
def putWords (ws : List Nat) (k : Nat) (vs : List Nat) : List Nat := ws.take k ++ vs ++ ws.drop (k + vs.length)

/-- `vmov` into a row: f32 lanes, or mantissas under the block's exponent. -/
def rowMov (ws : List Nat) (block : Bool) (row : Nat) (v : Vec) : List Nat :=
  let ls := (List.range 16).map (laneN v 32)
  if block then
    let e := bfpExp (ws.getD (row / 4 * 64) 0)
    putWords ws (16 * row) (ls.map fun l => bfpWord e (sint 24 l))
  else putWords ws (16 * row) ls

/-- `vacc` and `vaccw`: add values to consecutive rows. -/
def rowAdd (ws : List Nat) (block : Bool) (row : Nat) (xs : List XV) : List Nat × Flags :=
  let lanes := (List.replicate (16 * row) none ++ xs.map some ++ List.replicate 256 none).take 256
  if block then blockAddAll ws lanes
  else
    let r := (ws.zip lanes).map fun (w, x) => match x with
      | some v => accAdd w v
      | none => (w, 0)
    (r.map (·.1), unionFlags (r.map (·.2)))

/-- The loop of `vbfpn` (06 R169). -/
def normLoop : Nat → Bfp → Bfp
  | 0, b => b
  | n + 1, b =>
    if 0 < b.e && b.m.all fun m => m = nan24 || (2 * m).natAbs ≤ 8388607 then
      normLoop n ⟨b.e - 1, b.m.map fun m => if m = nan24 then m else 2 * m⟩
    else b

/-- `vbfpn` on one block. -/
def bfpNorm (b : Bfp) : Bfp :=
  if b.m.all fun m => m = nan24 || m = 0 then ⟨0, b.m⟩ else normLoop 256 b

/-- Realign a block until its exponent is T; also the number of steps (07 R191). -/
def realignTo (t : Nat) : Nat → Bfp → Bfp
  | 0, b => b
  | n + 1, b => if b.e < t then realignTo t n b.realign else b

def realnWords (ws : List Nat) (mask : Nat) (target : Option Nat) : List Nat × Nat :=
  let bs := (List.range 4).map fun b => bfpOfWords (blockWords ws b)
  let sel := (List.range 4).filter fun b => bit mask b
  let es := sel.map fun b => (bs[b]?.map Bfp.e).getD 0
  let t := target.getD (es.foldl Nat.max 0)
  let occ := (es.map fun e => t - e).foldl Nat.max 1
  (((List.range 4).zip bs).flatMap fun (k, b) => if bit mask k then bfpWords (realignTo t 256 b) else bfpWords b, occ)

/-! ### The engine (07 R179) -/

/-- Occupancy of an operation in clocks. -/
def EOp.occ : EOp → Nat
  | .rank1 _ _ _ _ _ ta _ _ _ => if ta = 4 then 2 else 4
  | .drain .. => 4
  | .save .. => 4
  | .load .. => 4
  | .rowMov .. => 0
  | .rowZero .. => 0
  | .rowAdd .. => 0
  | .rowNorm .. => 0
  | _ => 1

/-- The bank an operation works on. -/
def EOp.bank : EOp → Nat
  | .rank1 _ _ bk _ _ _ _ _ _ => bk
  | .zero bk => bk
  | .cfg bk _ => bk
  | .drain bk .. => bk
  | .load bk _ _ => bk
  | .save bk _ _ _ => bk
  | .lend bk => bk
  | .recl bk => bk
  | .realn bk _ _ => bk
  | .rowMov bk _ _ _ => bk
  | .rowZero bk _ _ => bk
  | .rowAdd bk _ _ _ => bk
  | .rowNorm bk _ => bk

/-- The flags of a completed operation are set when it completes (05 R141). -/
def flagsAt (seq ready : Nat) (f : Flags) (s : State) : State :=
  if f = 0 then s else addPendAt seq none ready .flags f 7 s

/-- The bytes of 4-byte words from a scratchpad offset. -/
def wordBytes (off : Nat) (ws : List Nat) : List (Nat × Byte) :=
  ((List.range ws.length).zip ws).flatMap fun (k, w) =>
    (List.range 4).map fun j => (off + 4 * k + j, BitVec.ofNat 8 (w / 2 ^ (8 * j)))

/-- Execute one operation of the focused core's engine. A row operation of the accumulator path takes no clock, and the flags of a row add
are set as it executes (DESIGN CHOICE, log entry 117). -/
def runEOp (o : MOp) (s : State) : State :=
  let bk := o.op.bank
  let ws := bankWords s.core bk
  let fin := s.now + o.op.occ
  let put (ws : List Nat) (s : State) : State := mapCore (setWords bk ws) s
  match o.op with
  | .rank1 clear block _ a b ta tb la lb =>
    let ws := if clear then List.replicate 256 0 else ws
    let n := rankSteps ta
    let (ws, f) := rankRun block (elemsOf ta a) (elemsOf tb b) n la lb (List.range n) ws
    flagsAt o.seq fin f (put ws s)
  | .zero _ => put [] s
  | .cfg _ _ => put [] s
  | .drain _ block q tile ty d x rnd rs keep =>
    let (vs, f) := drainTile ws block ty x rnd rs
    let ready := s.now + Nat.max 4 (real s 10)
    let upd (t : Tile) : Tile := if t.id = tile then { t with vecs := some vs, ready := ready } else t
    let s := mapCore (fun c => { c with queues := c.queues.setIfInBounds q ((c.queues[q]?.getD []).map upd) }) s
    let s := if f = 0 then s else addPendAt o.seq d ready .flags f 10 s
    if keep then s else put [] s
  | .load _ block ws =>
    put (if block then (List.range 4).flatMap fun b => bfpWords (bfpOfWords (blockWords ws b)) else ws) s
  | .save _ off fe d =>
    let s := addPendAt o.seq d (s.now + Nat.max 4 (real s 8))
      (.spad none (wordBytes off ws) (if fe = 0 then [] else (offsFrom (off / 16) 64).map fun g => (g, true))) 0 8 s
    put [] s
  | .lend _ => s
  | .recl _ => s
  | .realn _ mask target => put (realnWords ws mask target).1 s
  | .rowMov _ block row v => put (rowMov ws block row v) s
  | .rowZero _ block row => put (rowMov ws block row 0) s
  | .rowAdd _ block row xs => let (ws, f) := rowAdd ws block row xs; flagsAt o.seq fin f (put ws s)
  | .rowNorm _ row =>
    put (putWords ws (64 * (row / 4)) (bfpWords (bfpNorm (bfpOfWords (blockWords ws (row / 4)))))) s

/-- Occupancy in a state: that of `mrealn` is one clock per step (07 R179). -/
def eopOcc (s : State) (o : MOp) : Nat :=
  match o.op with
  | .realn bk mask target => (realnWords (bankWords s.core bk) mask target).2
  | op => op.occ

/-- The oldest queued operation of the focused core starts and takes effect. -/
def engineStep (s : State) : State :=
  match s.core.mq with
  | [] => s
  | o :: rest =>
    let occ := eopOcc s o
    let s := runEOp o (mapCore (fun c => { c with mq := rest }) s)
    mapCore (fun c => { c with mBusy := s.now + occ, mOn := o.op.bank }) s

/-- Enter an operation into the engine's queue. -/
def enqueueM (mslot : Bool) (op : EOp) (s : State) : State :=
  let q := s.core.st.seq
  let s := mapSt (fun t => { t with seq := t.seq + 1 }) s
  let s := mapCore (fun c => { c with mq := c.mq ++ [⟨q, mslot, op⟩] }) s
  due s.now (.matrixEngineExecute s.core.id) s

/-- Room in the input queue of four (07 R179). -/
def roomM (s : State) : Res Unit := stallUnless ((s.core.mq.filter (·.mslot)).length < 4)

/-! ### The spline array (08) -/

def k0Lo (k : Word) : XV := valueOf 0 (bits k.toNat 31 0)
def k0Hx (k : Word) : Int := sint 8 (bits k.toNat 39 32)
def k0G (k : Word) : Nat := bits k.toNat 44 40
def k0Mode (k : Word) : Nat := bits k.toNat 46 45
def rowOn (k1 : Word) (i : Nat) : Bool := bit k1.toNat i
def colOn (k1 : Word) (c : Nat) : Bool := bit k1.toNat (16 + c)
def k2Ox (k : Word) : Int := sint 8 (bits k.toNat 7 0)
def k2Dx (k : Word) : Int := sint 8 (bits k.toNat 15 8)
def k2Gx (k : Word) : Int := sint 8 (bits k.toNat 23 16)
def k3Xl (k : Word) : Nat := bits k.toNat 15 0

/-- LO as a rational; 0 where it is not finite. -/
def loQ (k : Word) : Q := match k0Lo k with | .fin _ q => q | _ => .zero

/-- Validity of a knot register (08 R194). -/
def knotValid (n : Nat) (k : Word) : Bool :=
  let ex (lo : Nat) : Bool := let v := sint 8 (bits k.toNat (lo + 7) lo); -64 ≤ v && v ≤ 63
  match n with
  | 0 => bit k.toNat 47 && !(k0Lo k).isNaN && !(k0Lo k).isInf && -64 ≤ k0Hx k && k0Hx k ≤ 63 && 1 ≤ k0G k && k0G k ≤ 29 &&
      k0Mode k != 3 && bits k.toNat 63 48 = 0 &&
      ((loQ k).add (.scaled (k0G k) (k0Hx k))).abs.le (.scaled 16777215 104)
  | 1 => bits k.toNat 63 32 = 0
  | 2 => bits k.toNat 63 24 = 0 && ex 0 && ex 8 && ex 16
  | _ => bits k.toNat 63 16 = 0

/-- The result of `locate` (08 R195): side 0 below, 1 in, 2 above. -/
structure Loc where
  side : Nat
  m : Nat
  f : Q
  d : XV
  cap : Bool
deriving DecidableEq, Repr

/-- locate (08 R195); x is not NaN. -/
def locate (k0 k3 : Word) (x : XV) : Loc :=
  let g := k0G k0
  let l : Loc := match x with
    | .inf true => ⟨0, 0, .zero, .inf true, false⟩
    | .inf false => ⟨2, g - 1, .ofInt 1, .inf false, false⟩
    | .nan _ => ⟨1, 0, .zero, .zero, false⟩
    | .fin _ q =>
      let u := (q.sub (loQ k0)).scale (-(k0Hx k0))
      if u.num < 0 then ⟨0, 0, .zero, .fin false u, false⟩
      else if (Q.ofInt g).le u then ⟨2, g - 1, .ofInt 1, .fin false (u.sub (.ofInt g)), false⟩
      else
        let m := u.floor
        ⟨1, m.toNat, .scaled ((u.sub (.ofInt m)).scale 24).floor (-24), .zero, false⟩
  let xl := k3Xl k3
  let cap := xl != 0 && (match l.d with
    | .fin _ q => (Q.ofInt xl).lt q.abs
    | _ => true)
  if cap then { l with d := .ofInt (if l.d.isNeg then -(xl : Int) else xl), cap := true } else l

/-- P_j(f) and Q_j(f) (08 R196). -/
def basisP (f : Q) (j : Nat) : Q :=
  let f2 := f.mul f
  let f3 := f2.mul f
  let s (a b c d : Int) : Q := ((((f3.mul (.ofInt a)).add (f2.mul (.ofInt b))).add (f.mul (.ofInt c))).add (.ofInt d)).mul ⟨1, 6⟩
  match j with
  | 0 => s (-1) 3 (-3) 1
  | 1 => s 3 (-6) 0 4
  | 2 => s (-3) 3 3 1
  | _ => s 1 0 0 0
def basisQ (f : Q) (j : Nat) : Q :=
  let f2 := f.mul f
  let s (b c d : Int) : Q := (((f2.mul (.ofInt b)).add (f.mul (.ofInt c))).add (.ofInt d)).mul ⟨1, 2⟩
  match j with
  | 0 => s (-1) 2 (-1)
  | 1 => s 3 (-4) 0
  | 2 => s (-3) 2 1
  | _ => s 1 0 0

/-- Σ C[m+j] × w_j as an exact value; a NaN result is the positive canonical one (08 R197). An infinite coefficient of weight 0 makes it a
NaN with NV, term by term as in 06 R152 (DESIGN CHOICE, log entry 155). -/
def cellSum (cs : List XV) (w : Nat → Q) : XV × Flags :=
  let (v, f) := sumXV ((List.range 4).map fun j => ((cs[j]?).getD .zero).mul (.fin false (w j)))
  (if v.isNaN then .nan false else v, f)

/-- The value of phi_exact (08 R196) and its flags, from the four coefficients of the interval. Only the sums that the instruction's result
is made of are formed, so no other sum sets NV (DESIGN CHOICE, log entry 145). -/
def phiVal (mode : Nat) (l : Loc) (cs : List XV) : XV × Flags :=
  if l.side != 1 && mode = 1 then (.zero, 0) else
  let (v, f) := cellSum cs (basisP l.f)
  if l.side = 1 || mode = 0 then (v, f) else
  let (sl, g) := cellSum cs (basisQ l.f)
  if sl.isZero then (v, f ||| g) else
  let (t, h) := sl.mul l.d
  let (r, i) := v.add t
  (if r.isNaN then .nan false else r, f ||| g ||| h ||| i)

/-- The slope of phi_exact per interval. As in `phiVal`, a sum that the result does not use sets no flag (DESIGN CHOICE, log entry 145). -/
def phiSlope (mode : Nat) (l : Loc) (cs : List XV) : XV × Flags :=
  if l.side = 1 then cellSum cs (basisQ l.f)
  else if mode = 2 && !l.cap then cellSum cs (basisQ l.f)
  else (.zero, 0)

/-- Coefficient j of cell (i, c). -/
def coefKey (i c j : Nat) : Nat := (i * 16 + c) * 32 + j
def coefs4 (c : Core) (i col m : Nat) : List XV := (List.range 4).map fun j => valueOf 1 (SMap.get 0 c.coef (coefKey i col (m + j)))

/-- One f32 rounding of x × 2^k, as a value. -/
def roundF32 (x : XV) (k : Int) : XV × Flags := toF32 (x.scale k)

/-- `splev` on one output row (08 R202): the row's words, the flags, and the out-of-grid counts. -/
def splevRow (c : Core) (add : Bool) (k0 k1 k2 k3 : Word) (xs : List XV) (old : List Nat) : List Nat × Flags :=
  let rows := (List.range 16).filter (rowOn k1)
  let r := (List.range 16).map fun col =>
    let w := old.getD col 0
    if !colOn k1 col then (w, (0 : Flags)) else
    rows.foldl (fun (acc : Nat × Flags) i =>
      let x := (xs[i]?).getD .zero
      let (v, f) := if x.isNaN then (x, flagNV) else
        let l := locate k0 k3 x
        phiVal (k0Mode k0) l (coefs4 c i col l.m)
      let (v, g) := roundF32 v (k2Ox k2)
      let (s, h) := accAdd acc.1 v
      (s, acc.2 ||| f ||| g ||| h)) ((if add then w else 0), 0)
  (r.map (·.1), unionFlags (r.map (·.2)))

/-- `splbwd` on one output row (08 R203). -/
def splbwdRow (c : Core) (add : Bool) (k0 k1 k2 k3 : Word) (xs dy : List XV) (old : List Nat) : List Nat × Flags :=
  let cols := (List.range 16).filter (colOn k1)
  let r := (List.range 16).map fun i =>
    let w := old.getD i 0
    if !rowOn k1 i then (w, (0 : Flags)) else
    let x := (xs[i]?).getD .zero
    let l := locate k0 k3 x
    cols.foldl (fun (acc : Nat × Flags) col =>
      let (sl, f) := if x.isNaN then (x, flagNV) else phiSlope (k0Mode k0) l (coefs4 c i col l.m)
      let (g, fg) := roundF32 sl (k2Dx k2 - k0Hx k0)
      let (p, fp) := g.mul ((dy[col]?).getD .zero)
      let (s, fs) := accAdd acc.1 p
      (s, acc.2 ||| f ||| fg ||| fp ||| fs)) ((if add then w else 0), 0)
  (r.map (·.1), unionFlags (r.map (·.2)))

/-- The terms of `splgs` for one active cell: element and value (08 R204). -/
def gsTerms (k0 k2 k3 : Word) (x dy : XV) : List (Nat × XV) :=
  if x.isNaN then (List.range (k0G k0 + 3)).map fun j => (j, x) else
  let l := locate k0 k3 x
  let mode := k0Mode k0
  if l.side != 1 && mode = 1 then [] else
  (List.range 4).map fun j =>
    let p : XV := .fin false (basisP l.f j)
    let q := basisQ l.f j
    let w := if l.side != 1 && mode = 2 && q.num != 0 then (p.add ((XV.fin false q).mul l.d).1).1 else p
    (l.m + j, (w.mul dy).1.scale (k2Gx k2))

/-- `splgs` on one block of the gradient store. -/
def gsBlock (k0 k1 k2 k3 : Word) (xs dy : List XV) (blk : Nat) (ws : List Nat) : List Nat × Flags :=
  let i := blk / 8
  let c0 := blk % 8 * 2
  let terms (h : Nat) : List (Nat × XV) :=
    if rowOn k1 i && colOn k1 (c0 + h) then
      (gsTerms k0 k2 k3 ((xs[i]?).getD .zero) ((dy[c0 + h]?).getD .zero)).map fun e => (32 * h + e.1, e.2)
    else []
  let ts := terms 0 ++ terms 1
  blockAddAll ws ((List.range 64).map fun n => findKey ts n)

def gradWords (c : Core) (blk : Nat) : List Nat := (List.range 64).map fun k => SMap.get 0 c.grad (64 * blk + k)

/-- `gridref` on one cell (08 R207): the new coefficients as bf16 codes, and the flags. -/
def refineCell (g : Nat) (cs : List Nat) : List Nat × Flags :=
  let v (i : Nat) : XV := valueOf 1 (cs.getD i 0)
  let comb (l : List (XV × Int)) (k : Int) : XV × Flags :=
    let (x, f) := sumXV (l.map fun e => e.1.mul (.ofInt e.2))
    (x.scale k, f)
  let r := (List.range 32).map fun j =>
    if 2 * g + 2 < j then ((0 : Nat), (0 : Flags)) else
    let i := j / 2
    let (x, f) := if j % 2 = 0 then comb [(v i, 1), (v (i + 1), 1)] (-1) else comb [(v i, 1), (v (i + 1), 6), (v (i + 2), 1)] (-3)
    let (b, h) := convertSat x 1 0 0
    (b, f ||| h)
  (r.map (·.1), unionFlags (r.map (·.2)))

/-- Occupancy of a spline operation in clocks (08 R199). -/
def SOp.occ : SOp → Nat
  | .st _ _ _ f32 _ => if f32 then 16 else 8
  | .gx .. => 16
  | .ref _ => 16
  | .cnt .. => 1
  | .ld _ _ f32 => if f32 then 16 else 8
  | _ => 4

/-- The bank a spline operation writes; 8 for none. -/
def SOp.bank : SOp → Nat
  | .ev bank .. => bank
  | .bwd bank .. => bank
  | _ => 8

/-- Execute one spline operation. -/
def runSOp (o : SQOp) (s : State) : State :=
  let fin := s.now + o.op.occ
  let c := s.core
  match o.op with
  | .ld row vals _ =>
    let cf := SMap.setAll 0 c.coef (((List.range 512).zip vals).map fun (n, v) => (coefKey row (n / 32) (n % 32), v))
    flagsAt o.seq fin o.flags (mapCore (fun c => { c with coef := cf }) s)
  | .st row off fe f32 d =>
    let cs := (List.range 512).map fun n => SMap.get 0 c.coef (coefKey row (n / 32) (n % 32))
    let bs := if f32 then wordBytes off (cs.map fun v => (convertSat (valueOf 1 v) 0 0 0).1)
      else ((List.range 512).zip cs).flatMap fun (n, v) => [(off + 2 * n, BitVec.ofNat 8 v), (off + 2 * n + 1, BitVec.ofNat 8 (v / 256))]
    addPendAt o.seq d fin (.spad none bs (if fe = 0 then [] else (offsFrom (off / 16) (if f32 then 128 else 64)).map fun g => (g, true))) 0 9 s
  | .ev bank row add k0 k1 k2 k3 xs =>
    let ws := bankWords c bank
    let (r, f) := splevRow c add k0 k1 k2 k3 xs ((ws.drop (16 * row)).take 16)
    let sides := ((List.range 16).filter (rowOn k1)).filterMap fun i =>
      let x := (xs[i]?).getD .zero
      if x.isNaN then none else some (locate k0 k3 x).side
    let cap (n : Nat) : Nat := Nat.min n 4294967295
    let s := mapCore (fun c => { (setWords bank (putWords ws (16 * row) r) c) with
      below := cap (c.below + (sides.filter (· == 0)).length), above := cap (c.above + (sides.filter (· == 2)).length) }) s
    flagsAt o.seq fin f s
  | .bwd bank row add k0 k1 k2 k3 xs dy =>
    let ws := bankWords c bank
    let (r, f) := splbwdRow c add k0 k1 k2 k3 xs dy ((ws.drop (16 * row)).take 16)
    flagsAt o.seq fin f (mapCore (setWords bank (putWords ws (16 * row) r)) s)
  | .gs k0 k1 k2 k3 xs dy =>
    let r := (List.range 128).map fun b => gsBlock k0 k1 k2 k3 xs dy b (gradWords c b)
    flagsAt o.seq fin (unionFlags (r.map (·.2))) (mapCore (fun c => { c with grad := sparse (r.flatMap (·.1)) }) s)
  | .gx row off fe f32 d =>
    let ws := (List.range 8).flatMap fun b => gradWords c (8 * row + b)
    let ws := if f32 then ((List.range 512).zip ws).map fun (n, w) =>
        (convertSat (bfpValue (bfpExp (ws.getD (n / 64 * 64) 0)) (sint 24 w)) 0 0 0).1
      else (List.range 8).flatMap fun b => bfpWords (bfpOfWords (gradWords c (8 * row + b)))
    addPendAt o.seq d fin (.spad none (wordBytes off ws) (if fe = 0 then [] else (offsFrom (off / 16) 128).map fun g => (g, true))) 0 9 s
  | .gz => mapCore (fun c => { c with grad := [] }) s
  | .ref g =>
    let r := (List.range 256).map fun n => refineCell g ((List.range 32).map fun j => SMap.get 0 c.coef (32 * n + j))
    flagsAt o.seq fin (unionFlags (r.map (·.2))) (mapCore (fun c => { c with coef := sparse (r.flatMap (·.1)), grad := [] }) s)
  | .cnt rd above clear d =>
    let v := if above then c.above else c.below
    let s := addPendAt o.seq d (s.now + Config.latF 9) (.sreg rd (word v)) 0 9 s
    if !clear then s
    else mapCore (fun c => if above then { c with above := 0 } else { c with below := 0 }) s

/-- The oldest queued spline operation of the focused core starts and takes effect. -/
def splineStep (s : State) : State :=
  match s.core.sq with
  | [] => s
  | o :: rest =>
    let s := runSOp o (mapCore (fun c => { c with sq := rest }) s)
    mapCore (fun c => { c with sBusy := s.now + o.op.occ, sOn := o.op.bank }) s

/-- Enter an operation into the array's queue. -/
def enqueueS (op : SOp) (fl : Flags) (s : State) : State :=
  let q := s.core.st.seq
  let s := mapSt (fun t => { t with seq := t.seq + 1 }) s
  let s := mapCore (fun c => { c with sq := c.sq ++ [⟨q, op, fl⟩] }) s
  due s.now (.splineArrayExecute s.core.id) s

/-- Room in the array's input queue of four (08 R199). -/
def roomS (s : State) : Res Unit := stallUnless (s.core.sq.length < 4)

/-! ### What a rollback completes -/

/-- The engine operations that a rollback completes: every `msave`, and every earlier operation on its bank (07 R181). -/
def keptM (ops : List MOp) : List MOp :=
  match ops with
  | [] => []
  | o :: rest =>
    let isSave (m : MOp) : Bool := match m.op with | .save .. => m.op.bank == o.op.bank | _ => false
    if isSave o || rest.any isSave then o :: keptM rest else keptM rest

/-- The spline operations that a rollback completes: up to the last `splst` or `splgx` (08 R199). -/
def keptS (ops : List SQOp) : List SQOp :=
  let isSave (m : SQOp) : Bool := match m.op with | .st .. => true | .gx .. => true | _ => false
  (ops.reverse.dropWhile fun o => !isSave o).reverse

/-- The matrix engine goes through its queue, each operation at its own time; of those that are not kept only the time passes. -/
def finishM (kept : List MOp) : List MOp → State → State
  | [], s => s
  | o :: t, s =>
    let s := { s with now := Nat.max s.now s.core.mBusy }
    let til := s.now + eopOcc s o
    finishM kept t (mapCore (fun c => { c with mBusy := til }) (if kept.contains o then runEOp o s else s))

/-- The spline array goes through its queue in the same way. -/
def finishS : List SQOp → State → State
  | [], s => s
  | o :: t, s =>
    let s := { s with now := Nat.max s.now s.core.sBusy }
    finishS t (mapCore (fun c => { c with sBusy := s.now + o.op.occ }) (runSOp o s))

/-- Complete the saves before a rollback, as they would have been without it (01 R24), and empty the queues; their flags are discarded
with FLAGS. -/
def finishSaves (s : State) : State :=
  let t := { finishM (keptM s.core.mq) s.core.mq s with now := s.now }
  let t := { finishS (keptS s.core.sq) t with now := s.now }
  mapCore (fun c => { c with mq := [], sq := [] }) t

/-- A transparent re-execution in pinned mode at once (04 R125, 12 R279). -/
def rollbackPinned (s : State) : State :=
  requestToken (mapSt (fun t => { t with pin := true, retry := 3 }) (rollback finishSaves (resumePc s.core.st) s))

/-- The outcome of an instruction's issue (see `close`), with the saves that its trap's rollback completes. -/
def issue (s : State) (r : Res State) : Host.Outcome State Fault Refusal := close finishSaves s r

end Sys2Proof.Machine
end

