-- ==== Sys2Proof/Machine/Vector.lean ====
section
/-! DEFINITION. The vector instructions of 06 but `vqnt` and `vdq` (see Tiles): arithmetic, transcendentals, bitwise, comparison,
conversion, reduction, movement, the accumulator path and the optimiser steps. -/

namespace Sys2Proof.Machine

/-! ### Shared forms -/

/-- A lane operation: old lanes in, the result's bits and flags out. -/
abbrev LaneOp := List Nat → Nat × Flags

/-- The lanes of a vector of width w. -/
def lanesOf (w : Nat) (v : Vec) : List Nat := (List.range (512 / w)).map (laneN v w)

/-- Apply a binary or ternary lane function to lists of lanes. -/
def zip2 (f : Nat → Nat → Nat × Flags) (a b : List Nat) : List Nat × Flags :=
  let r := (a.zip b).map fun (x, y) => f x y
  (r.map (·.1), unionFlags (r.map (·.2)))
def zip3 (f : Nat → Nat → Nat → Nat × Flags) (a b c : List Nat) : List Nat × Flags :=
  let r := (a.zip (b.zip c)).map fun (x, y, z) => f x y z
  (r.map (·.1), unionFlags (r.map (·.2)))

/-- Push lanes of width w to a write port in a class. -/
def putLanes (f : VF) (w cls : Nat) (r : List Nat × Flags) (s : State) : Res State := putVec f.vd (ofLanes w r.1) cls r.2 s

/-- Convert exact results with one rounding each and push them (06 R152); draws under SR. -/
def putRounded (f : VF) (cls : Nat) (xs : List XV) (fl : Flags) (s : State) : Res State := do
  let ty := f.ty.toNat
  let (rs, s) := draws f.rnd.toNat xs.length s
  let (ls, g) := convLanes xs ty f.rnd.toNat rs
  putLanes f (widthOf ty) cls (ls, fl ||| g) s

/-- A floating or integer operation on two sources (06 R151-R153). -/
def arith2 (cls : Nat) (fop : XV → XV → XV × Flags) (iop : Int → Int → Int) (f : VF) (s : State) : Res State :=
  gather (do
    let ty := f.ty.toNat
    let (a, s) ← srcVec f.va ty s
    let (b, s) ← srcVec f.vb ty s
    if tyInt f.ty then
      let w := widthOf ty
      putLanes f w cls (zip2 (fun x y => (ubits w (iop (sint w x) (sint w y)), 0)) (lanesOf w a) (lanesOf w b)) s
    else
      let r := ((elemsOf ty a).zip (elemsOf ty b)).map fun (x, y) => fop x y
      putRounded f cls (r.map (·.1)) (unionFlags (r.map (·.2))) s) (vecChecks f.ty.toNat [f.va, f.vb] f.vd s)

/-- A floating or integer operation on one source. -/
def arith1 (fop : XV → XV) (iop : Int → Int) (f : VF) (s : State) : Res State :=
  gather (do
    let ty := f.ty.toNat
    let (a, s) ← srcVec f.va ty s
    if tyInt f.ty then
      let w := widthOf ty
      putLanes f w 4 ((lanesOf w a).map (fun x => ubits w (iop (sint w x))), 0) s
    else putRounded f 4 ((elemsOf ty a).map fop) 0 s) (vecChecks f.ty.toNat [f.va] f.vd s)

/-- a × b + c or a × b − c, exact; the first NaN in the order a, b, c gives its sign (06 R152). -/
def fmaX (minus : Bool) (a b c : XV) : XV × Flags :=
  let (p, f) := a.mul b
  if (a.isNaN || b.isNaN) then (p, f)
  else if c.isNaN then (c, flagNV)
  else
    let (r, g) := if minus then p.sub c else p.add c
    (r, f ||| g)

def arith3 (minus : Bool) (f : VF) (s : State) : Res State :=
  gather (do
    let ty := f.ty.toNat
    let (a, s) ← srcVec f.va ty s
    let (b, s) ← srcVec f.vb ty s
    let (c, s) ← srcVec f.vc ty s
    let r := ((elemsOf ty a).zip ((elemsOf ty b).zip (elemsOf ty c))).map fun (x, y, z) => fmaX minus x y z
    putRounded f 5 (r.map (·.1)) (unionFlags (r.map (·.2))) s) (vecChecks f.ty.toNat [f.va, f.vb, f.vc] f.vd s)

/-- A transcendental (06 R154): t in f32 per lane, then one conversion. -/
def trans (op : XV → BitVec 32 → Nat × Flags) (f : VF) (s : State) : Res State :=
  gather (do
    let ty := f.ty.toNat
    let (a, s) ← srcVec f.va ty s
    let ts := (elemsOf ty a).map fun x => op x (BitVec.ofNat 32 (convertSat x 0 0 0).1)
    putRounded f 6 (ts.map fun t => valueOf 0 t.1) (unionFlags (ts.map (·.2))) s) (vecChecks f.ty.toNat [f.va] f.vd s)

/-! ### Arithmetic and transcendentals -/

def execVadd (f : VF) (s : State) : Host.Outcome State Fault Refusal := issue s (arith2 4 XV.add (· + ·) f s)
def execVsub (f : VF) (s : State) : Host.Outcome State Fault Refusal := issue s (arith2 4 XV.sub (· - ·) f s)
def execVmul (f : VF) (s : State) : Host.Outcome State Fault Refusal := issue s (arith2 5 XV.mul (· * ·) f s)
def execVfma (f : VF) (s : State) : Host.Outcome State Fault Refusal := issue s (arith3 false f s)
def execVfms (f : VF) (s : State) : Host.Outcome State Fault Refusal := issue s (arith3 true f s)
def execVmax (f : VF) (s : State) : Host.Outcome State Fault Refusal := issue s (arith2 4 (XV.maxmin true) max f s)
def execVmin (f : VF) (s : State) : Host.Outcome State Fault Refusal := issue s (arith2 4 (XV.maxmin false) min f s)
def execVabs (f : VF) (s : State) : Host.Outcome State Fault Refusal := issue s (arith1 XV.abs (fun x => if x < 0 then -x else x) f s)
def execVneg (f : VF) (s : State) : Host.Outcome State Fault Refusal := issue s (arith1 XV.neg (fun x => -x) f s)
def execVrcp (f : VF) (s : State) : Host.Outcome State Fault Refusal := issue s (trans (fun x _ => rcpT x) f s)
def execVrsq (f : VF) (s : State) : Host.Outcome State Fault Refusal := issue s (trans rsqT f s)
def execVexp2 (f : VF) (s : State) : Host.Outcome State Fault Refusal := issue s (trans exp2T f s)
def execVlog2 (f : VF) (s : State) : Host.Outcome State Fault Refusal := issue s (trans log2T f s)
def execVtanh (f : VF) (s : State) : Host.Outcome State Fault Refusal := issue s (trans tanhT f s)

/-! ### Bitwise operations and shifts (06 R155) -/

def bitOp (op : Vec → Vec → Vec) (f : VF) (s : State) : Res State :=
  gather (do
    let (a, s) ← srcVec f.va f.ty.toNat s
    let (b, s) ← srcVec f.vb f.ty.toNat s
    putVec f.vd (op a b) 4 0 s) (vecChecks f.ty.toNat [f.va, f.vb] f.vd s)
def execVand (f : VF) (s : State) : Host.Outcome State Fault Refusal := issue s (bitOp (· &&& ·) f s)
def execVor (f : VF) (s : State) : Host.Outcome State Fault Refusal := issue s (bitOp (· ||| ·) f s)
def execVxor (f : VF) (s : State) : Host.Outcome State Fault Refusal := issue s (bitOp (· ^^^ ·) f s)

/-- A shift by an immediate or by lanes of vb. -/
def shiftOp (op : Nat → Nat → Nat → Nat) (f : VF) (s : State) : Res State :=
  gather (do
    let w := widthOf f.ty.toNat
    let (a, s) ← srcVec f.va f.ty.toNat s
    if f.ctl.getLsbD 11 then
      let n := (f.ctl.extractLsb' 0 5).toNat
      putLanes f w 4 ((lanesOf w a).map (fun x => op w x n), 0) s
    else
      let (b, s) ← srcVec f.vb f.ty.toNat s
      putLanes f w 4 (zip2 (fun x n => (op w x n, 0)) (lanesOf w a) (lanesOf w b)) s) (vecChecks f.ty.toNat (if f.ctl.getLsbD 11 then [f.va] else [f.va, f.vb]) f.vd s)
def laneShl (w x n : Nat) : Nat := if w ≤ n then 0 else x * 2 ^ n % 2 ^ w
def laneShr (w x n : Nat) : Nat := if w ≤ n then 0 else x / 2 ^ n
def laneSar (w x n : Nat) : Nat := ubits w (sint w x / 2 ^ (Nat.min n w))
def execVshl (f : VF) (s : State) : Host.Outcome State Fault Refusal := issue s (shiftOp laneShl f s)
def execVshr (f : VF) (s : State) : Host.Outcome State Fault Refusal := issue s (shiftOp laneShr f s)
def execVsar (f : VF) (s : State) : Host.Outcome State Fault Refusal := issue s (shiftOp laneSar f s)

/-! ### Comparison and selection (06 R156, R157) -/

/-- Lane i is all ones where the relation holds. -/
def cmpOp (fop : XV → XV → Bool) (iop : Int → Int → Bool) (f : VF) (s : State) : Res State :=
  gather (do
    let ty := f.ty.toNat
    let w := widthOf ty
    let (a, s) ← srcVec f.va ty s
    let (b, s) ← srcVec f.vb ty s
    let ones (h : Bool) : Nat := if h then 2 ^ w - 1 else 0
    let rd (x : Nat) : Int := if f.ctl.getLsbD 0 then (x : Int) else sint w x
    let one (x y : Nat) : Nat × Flags :=
      if tyInt f.ty then (ones (iop (rd x) (rd y)), 0)
      else
        let p := valueOf ty x
        let q := valueOf ty y
        if p.isNaN || q.isNaN then (0, flagNV) else (ones (fop p q), 0)
    putLanes f w 4 (zip2 one (lanesOf w a) (lanesOf w b)) s) (vecChecks f.ty.toNat [f.va, f.vb] f.vd s)
def execVceq (f : VF) (s : State) : Host.Outcome State Fault Refusal := issue s (cmpOp XV.eqv (· == ·) f s)
def execVclt (f : VF) (s : State) : Host.Outcome State Fault Refusal := issue s (cmpOp XV.lt (fun x y => decide (x < y)) f s)
def execVcle (f : VF) (s : State) : Host.Outcome State Fault Refusal :=
  issue s (cmpOp (fun x y => x.lt y || x.eqv y) (fun x y => decide (x ≤ y)) f s)

def vselOp (f : VF) (s : State) : Res State :=
  gather (do
    let w := widthOf f.ty.toNat
    let (a, s) ← srcVec f.va f.ty.toNat s
    let (b, s) ← srcVec f.vb f.ty.toNat s
    let (c, s) ← srcVec f.vc f.ty.toNat s
    putLanes f w 4 (zip3 (fun x y z => (if x = 0 then z else y, 0)) (lanesOf w a) (lanesOf w b) (lanesOf w c)) s) (vecChecks f.ty.toNat [f.va, f.vb, f.vc] f.vd s)
def execVsel (f : VF) (s : State) : Host.Outcome State Fault Refusal := issue s (vselOp f s)

/-! ### Conversion and scaling (06 R158-R160) -/

/-- A copy between equal formats: bit patterns, but a NaN becomes canonical and sets NV (05 R139). -/
def sameCopy (ty : Nat) (v : Vec) : Vec × Flags :=
  match ty with
  | 4 =>
    let blk (b : Nat) : Nat × List Nat :=
      let x := laneN v 8 (32 + b)
      if x = 255 then (255, List.replicate 32 0) else (x, (List.range 32).map fun i => laneN v 4 (32 * b + i))
    (mx4Vec (blk 0) (blk 1), if laneN v 8 32 = 255 || laneN v 8 33 = 255 then flagNV else 0)
  | 7 =>
    let e := bfpExp (laneN v 32 0)
    let ms := (List.range 16).map fun i => sint 24 (laneN v 32 i)
    (ofLanes 32 (ms.map (bfpWord e)), if ms.any (· == nan24) then flagNV else 0)
  | _ =>
    let w := widthOf ty
    let r := (lanesOf w v).map fun x => match valueOf ty x with
      | .nan g => (canonNaN ty g, flagNV)
      | _ => (x, (0 : Flags))
    (ofLanes w (r.map (·.1)), unionFlags (r.map (·.2)))

/-- A whole result of one format from exact values: lanes, two mx4 blocks, or a bfp24 block's first 16 elements. -/
def encodeAll (xs : List XV) (tyd rnd : Nat) (rs : List Nat) : Vec × Flags :=
  match tyd with
  | 4 =>
    let b0 := mx4Encode (xs.take 32) rnd (rs.take 32)
    let b1 := mx4Encode (xs.drop 32) rnd (rs.drop 32)
    (mx4Vec (b0.1, b0.2.1) (b1.1, b1.2.1), b0.2.2 ||| b1.2.2)
  | 7 =>
    let (b, f) := bfpEncode (xs ++ List.replicate 48 .zero)
    (ofLanes 32 ((bfpWords b).take 16), f)
  | _ =>
    let (ls, f) := convLanes xs tyd rnd rs
    (ofLanes (widthOf tyd) ls, f)

/-- NV of the NaN operands that a block conversion reads (05 R140). -/
def nanFlag (xs : List XV) : Flags := if xs.any XV.isNaN then flagNV else 0

def vcvtOp (f : VF) (s : State) : Res State :=
  gather (do
    let ty := f.ty.toNat
    let td := f.tyd.toNat
    let ns := elems f.ty
    let nd := elems f.tyd
    let (a, s) ← srcVec f.va ty s
    if ty = td then
      let (_, s) := draws f.rnd.toNat nd s
      let (v, fl) := sameCopy ty a
      putVec f.vd v 5 fl s
    else
      let (xs, s) ← (if nd ≤ ns then
          let k := (f.ctl.extractLsb' 6 2).toNat
          .ok (((elemsOf ty a).drop (k * nd)).take nd, s)
        else if nd = 2 * ns then do
          let (b, s) ← srcVec f.vb ty s
          .ok (elemsOf ty a ++ elemsOf ty b, s)
        else do
          let (b, s) ← srcVec f.vb ty s
          let (c, s) ← srcVec f.vc ty s
          let (d, s) ← srcVec (f.ctl.extractLsb' 0 6) ty s
          .ok (elemsOf ty a ++ elemsOf ty b ++ elemsOf ty c ++ elemsOf ty d, s) : Res (List XV × State))
      let (rs, s) := draws f.rnd.toNat nd s
      let (v, fl) := encodeAll xs td f.rnd.toNat rs
      putVec f.vd v 5 (fl ||| nanFlag xs) s) (vecChecks f.ty.toNat (let ns := elems f.ty; let nd := elems f.tyd; if nd ≤ ns then [f.va] else if nd = 2 * ns then [f.va, f.vb] else [f.va, f.vb, f.vc, f.ctl.extractLsb' 0 6]) f.vd s)
def execVcvt (f : VF) (s : State) : Host.Outcome State Fault Refusal := issue s (vcvtOp f s)

/-- `vsrnd` (06 R159): rounded onto a narrower grid, kept in ty. -/
def vsrndOp (f : VF) (s : State) : Res State :=
  gather (do
    let ty := f.ty.toNat
    let td := f.tyd.toNat
    let (a, s) ← srcVec f.va ty s
    let xs := elemsOf ty a
    let (rs, s) := draws f.rnd.toNat xs.length s
    let (ls, fl) := convLanes xs td f.rnd.toNat rs
    putLanes f (widthOf ty) 5 (ls.map (fun b => (convertSat (valueOf td b) ty 0 0).1), fl) s) (vecChecks f.ty.toNat [f.va] f.vd s)
def execVsrnd (f : VF) (s : State) : Host.Outcome State Fault Refusal := issue s (vsrndOp f s)

/-- An s64 clamped to −1,024 to 1,023. -/
def clampExp (w : Word) : Int := max (-1024) (min 1023 w.toInt)

def vscalOp (f : VF) (s : State) : Res State :=
  gather (do
    let ty := f.ty.toNat
    let (a, s) ← srcVec f.va ty s
    let k ← if f.ctl.getLsbD 11 then .ok (f.ctl.extractLsb' 0 9).toInt
      else do
        let w ← readS (f.vb &&& 31) s
        .ok (clampExp w)
    putRounded f 5 ((elemsOf ty a).map (XV.scale k)) 0 s) (vecChecks f.ty.toNat (if f.ctl.getLsbD 11 then [f.va] else [f.va, f.vb]) f.vd s)
def execVscal (f : VF) (s : State) : Host.Outcome State Fault Refusal := issue s (vscalOp f s)

/-! ### Reductions and movement (06 R163-R166) -/

/-- A node of the sum tree (05 R144). -/
def sumNode (a b : XV) : XV × Flags :=
  let (x, f) := a.add b
  let (y, g) := toF32 x
  (y, f ||| g)

/-- A reduction of a vector (06 R163) to its result before the final conversion. -/
def redOp (node : XV → XV → XV × Flags) (iop : Int → Int → Int) (f : VF) (s : State) : Res State :=
  gather (do
    let ty := f.ty.toNat
    let td := f.tyd.toNat
    let (a, s) ← srcVec f.va ty s
    let xs := elemsOf ty a
    let w := widthOf ty
    let is := (lanesOf w a).map (sint w)
    let (x, fl) := if tyInt f.ty then (XV.ofInt (is.tail.foldl iop (is.headD 0)), 0)
      else
        let (x, g) := treeRed node 7 xs
        (x, g ||| nanFlag xs)
    if scalDst f.vd then
      if tyInt f.ty then .ok (writeS (f.vd.setWidth 5 |>.setWidth 6) 5 (BitVec.ofInt 64 (is.tail.foldl iop (is.headD 0))) fl s)
      else
        let (rs, s) := draws f.rnd.toNat 1 s
        let (b, g) := convertSat x td f.rnd.toNat (rs.headD 0)
        .ok (writeS (f.vd.setWidth 5 |>.setWidth 6) 5 (word b) (fl ||| g) s)
    else
      let (rs, s) := draws f.rnd.toNat (elems f.tyd) s
      let (b, g) := convertSat x td f.rnd.toNat (rs.headD 0)
      putVec f.vd (ofLanes (widthOf td) [b]) 5 (fl ||| g) s) (vecChecks f.ty.toNat [f.va] f.vd s)
def execVredsum (f : VF) (s : State) : Host.Outcome State Fault Refusal := issue s (redOp sumNode (· + ·) f s)
def execVredmax (f : VF) (s : State) : Host.Outcome State Fault Refusal := issue s (redOp (XV.maxmin true) max f s)
def execVredmin (f : VF) (s : State) : Host.Outcome State Fault Refusal := issue s (redOp (XV.maxmin false) min f s)

def vbcastOp (f : VF) (s : State) : Res State :=
  gather (do
    let w := widthOf f.ty.toNat
    let (a, s) ← srcVec f.va f.ty.toNat s
    putLanes f w 4 (List.replicate (512 / w) (laneN a w f.ctl.toNat), 0) s) (vecChecks f.ty.toNat [f.va] f.vd s)
def execVbcast (f : VF) (s : State) : Host.Outcome State Fault Refusal := issue s (vbcastOp f s)

def vextrOp (f : VF) (s : State) : Res State :=
  gather (do
    let w := widthOf f.ty.toNat
    let (a, s) ← srcVec f.va f.ty.toNat s
    let x := laneN a w f.ctl.toNat
    .ok (writeS (f.vd.setWidth 5 |>.setWidth 6) 4 (if tyInt f.ty then BitVec.ofInt 64 (sint w x) else word x) 0 s)) (vecChecks f.ty.toNat [f.va] f.vd s)
def execVextr (f : VF) (s : State) : Host.Outcome State Fault Refusal := issue s (vextrOp f s)

/-- Result element i of `vperm` (06 R165). -/
def permLane (kind par n i : Nat) (a b : List Nat) : Nat :=
  let get (l : List Nat) (k : Nat) : Nat := l.getD k 0
  match kind with
  | 0 => get a ((i + par) % n)
  | 1 => get a (n - 1 - i)
  | 2 => if i % 2 = 0 then get a (i / 2) else get b (i / 2)
  | 3 => if i % 2 = 0 then get a (n / 2 + i / 2) else get b (n / 2 + i / 2)
  | 4 => if i < n / 2 then get a (2 * i) else get b (2 * (i - n / 2))
  | 5 => if i < n / 2 then get a (2 * i + 1) else get b (2 * (i - n / 2) + 1)
  | _ => get a (get b i % n)

def vpermOp (f : VF) (s : State) : Res State :=
  gather (do
    let w := widthOf f.ty.toNat
    let n := 512 / w
    let kind := (f.ctl.extractLsb' 8 4).toNat
    let (a, s) ← srcVec f.va f.ty.toNat s
    let (b, s) ← if kind < 2 then .ok (0, s) else srcVec f.vb f.ty.toNat s
    let la := lanesOf w a
    let lb := lanesOf w b
    putLanes f w 4 ((List.range n).map (fun i => permLane kind (f.ctl.extractLsb' 0 8).toNat n i la lb), 0) s) (vecChecks f.ty.toNat (if (f.ctl.extractLsb' 8 4).toNat < 2 then [f.va] else [f.va, f.vb]) f.vd s)
def execVperm (f : VF) (s : State) : Host.Outcome State Fault Refusal := issue s (vpermOp f s)

/-! ### The accumulator path (06 R167-R169) -/

def rowBank (f : VF) : Nat := f.vd.toNat / 16 % 8
def rowNum (f : VF) : Nat := f.vd.toNat % 16

/-- A row operation on a bank that the strand owns: the bank becomes live, and the operation joins the engine's order (06 R167). -/
def rowOp (bk : Nat) (op : EOp) (s : State) : Res State := do
  let b := bankOf s.core bk
  need s (!b.lent) cOwner (word bk)
  .ok (enqueueM false op (mapCore (setBank bk { b with live := true }) s))

def vmovOp (f : VF) (s : State) : Res State :=
  gather (do
    if f.vd < 0x80 then
      let (a, s) ← srcVec f.va f.ty.toNat s
      putVec f.vd a 4 0 s
    else
      let b := bankOf s.core (rowBank f)
      needLegal s (f.ty == (if b.block then 7 else 0))
      let (a, s) ← srcVec f.va f.ty.toNat s
      rowOp (rowBank f) (.rowMov (rowBank f) b.block (rowNum f) a) s) (vecChecks f.ty.toNat [f.va] f.vd s)
def execVmov (f : VF) (s : State) : Host.Outcome State Fault Refusal := issue s (vmovOp f s)

def vzeroOp (f : VF) (s : State) : Res State :=
  if f.vd < 0x80 then putVec f.vd 0 4 0 s
  else rowOp (rowBank f) (.rowZero (rowBank f) (bankOf s.core (rowBank f)).block (rowNum f)) s
def execVzero (f : VF) (s : State) : Host.Outcome State Fault Refusal := issue s (vzeroOp f s)

/-- `vacc` adds 16 elements to one row, `vaccw` all elements to consecutive rows. -/
def vaccOp (wide : Bool) (f : VF) (s : State) : Res State :=
  gather (do
    let (a, s) ← srcVec f.va f.ty.toNat s
    let xs := elemsOf f.ty.toNat a
    rowOp (rowBank f) (.rowAdd (rowBank f) (bankOf s.core (rowBank f)).block (rowNum f) (if wide then xs else xs.take 16)) s) (vecChecks f.ty.toNat [f.va] f.vd s)
def execVacc (f : VF) (s : State) : Host.Outcome State Fault Refusal := issue s (vaccOp false f s)
def execVaccw (f : VF) (s : State) : Host.Outcome State Fault Refusal := issue s (vaccOp true f s)

def vbfpnOp (f : VF) (s : State) : Res State := do
  needLegal s (bankOf s.core (rowBank f)).block
  rowOp (rowBank f) (.rowNorm (rowBank f) (rowNum f)) s
def execVbfpn (f : VF) (s : State) : Host.Outcome State Fault Refusal := issue s (vbfpnOp f s)

/-! ### Optimiser steps (06 R170, R171) -/

/-- The first NaN of a list of inputs. -/
def firstNaN (xs : List XV) : Option Bool := xs.findSome? fun x => match x with
  | .nan s => some s
  | _ => none

/-- A sum of products, exact, with the flags of R152. -/
def sumProd (ts : List (XV × XV)) : XV × Flags :=
  ts.foldl (fun acc t =>
    let (p, f) := t.1.mul t.2
    let (r, g) := acc.1.add p
    (r, acc.2 ||| f ||| g)) (.fin true ⟨0, 1⟩, 0)

/-- A NaN input propagates with its own sign; otherwise one rounding to f32. -/
def step32 (ins : List XV) (e : XV × Flags) : Nat × Flags :=
  match firstNaN ins with
  | some g => (canonNaN 0 g, flagNV)
  | none =>
    let (b, f) := convertSat e.1 0 0 0
    (b, e.2 ||| f)

/-- 1 − x. -/
def oneMinus (x : XV) : XV := ((XV.ofInt 1).sub x).1

/-- √x of a non-negative value. -/
def sqrtX : XV → XV
  | .fin nz q => if q.num = 0 then .fin nz q else .fin false (sqrtQ q)
  | x => x

/-- One lane of `vadam` for an output. Every output computes both moments, and a NaN in any input propagates: of the vector inputs first,
then of the scalar ones, an order that the spec does not give (DESIGN CHOICE, log entry 119). With a zero denominator and η·m1 = 0 but m1
not, the result takes the infinity of the zero's sign bit; where η·m1 is 0 × Inf it is an infinity with NV (DESIGN CHOICE, log entry 120). -/
def adamLane (out : Nat) (b1 b2 eta eps g m v : XV) : Nat × Flags :=
  match firstNaN [g, m, v, b1, b2, eta, eps] with
  | some n => (canonNaN 0 n, flagNV)
  | none =>
  let m1 := step32 [] (sumProd [(b1, m), (oneMinus b1, g)])
  let (gg, fg) := (oneMinus b2).mul g
  let v1 := step32 [] (let r := sumProd [(b2, v), (gg, g)]; (r.1, r.2 ||| fg))
  let fl := m1.2 ||| v1.2
  if out = 0 then (m1.1, fl) else if out = 1 then (v1.1, fl) else
  let mv := valueOf 0 m1.1
  let vv := valueOf 0 v1.1
  match firstNaN [mv, vv] with
  | some n => (canonNaN 0 n, fl ||| flagNV)
  | none =>
    let (d, fd) := (sqrtX vv).add eps
    if (vv.isNeg && !vv.isZero) || (mv.isZero && d.isZero) then (canonNaN 0 false, fl ||| flagNV)
    else
      let (em, fe) := eta.mul mv
      if d.isZero then (infBits 0 (!em.isNeg), fl ||| fe)
      else
        match em, d with
        | .nan n, _ => (canonNaN 0 n, fl ||| fe ||| flagNV)
        | _, .nan n => (canonNaN 0 n, fl ||| fd ||| flagNV)
        | .inf _, .inf _ => (canonNaN 0 false, fl ||| flagNV)
        | .inf n, .fin _ _ => (infBits 0 (n == d.isNeg), fl)
        | .fin _ _, .inf n => (if em.isNeg == n then 0x80000000 else 0, fl)
        | .fin _ q, .fin _ p =>
          let (b, f) := convertSat (.fin (em.isNeg == d.isNeg) (q.div p).neg) 0 0 0
          (b, fl ||| f)

/-- The f32 in a half of a register. -/
def halfF32 (w : Word) (hi : Bool) : XV := valueOf 0 (if hi then bits w.toNat 63 32 else bits w.toNat 31 0)

def vadamOp (f : VF) (s : State) : Res State :=
  gather (do
    let n : BitVec 6 := (f.ctl.extractLsb' 0 5).setWidth 6
    let out := (f.ctl.extractLsb' 5 2).toNat
    let (g, s) ← srcVec f.va 0 s
    let (m, s) ← srcVec f.vb 0 s
    let (v, s) ← srcVec f.vc 0 s
    let x ← readS n s
    let y ← readS (n + 1) s
    let one (a b c : Nat) : Nat × Flags :=
      adamLane out (halfF32 x false) (halfF32 x true) (halfF32 y false) (halfF32 y true) (valueOf 0 a) (valueOf 0 b) (valueOf 0 c)
    putLanes f 32 5 (zip3 one (lanesOf 32 g) (lanesOf 32 m) (lanesOf 32 v)) s) (vecChecks 0 [f.va, f.vb, f.vc] f.vd s)
def execVadam (f : VF) (s : State) : Host.Outcome State Fault Refusal := issue s (vadamOp f s)

/-- One lane of `vsgdm`. The NaN of u1, whatever it came from, goes before one of w (DESIGN CHOICE, log entry 119). -/
def sgdmLane (out : Nat) (mu eta g u w : XV) : Nat × Flags :=
  let u1 := step32 [g, u, mu] (fmaX false mu u g)
  if out = 0 then u1 else
  let uv := valueOf 0 u1.1
  let (p, fp) := eta.mul uv
  let (b, f) := step32 [uv, w, eta] (let r := w.sub p; (r.1, r.2 ||| fp))
  (b, u1.2 ||| f)

def vsgdmOp (f : VF) (s : State) : Res State :=
  gather (do
    let n : BitVec 6 := (f.ctl.extractLsb' 0 5).setWidth 6
    let out := (f.ctl.extractLsb' 5 2).toNat
    let (g, s) ← srcVec f.va 0 s
    let (u, s) ← srcVec f.vb 0 s
    let (w, s) ← srcVec f.vc 0 s
    let x ← readS n s
    let one (a b c : Nat) : Nat × Flags := sgdmLane out (halfF32 x true) (halfF32 x false) (valueOf 0 a) (valueOf 0 b) (valueOf 0 c)
    putLanes f 32 5 (zip3 one (lanesOf 32 g) (lanesOf 32 u) (lanesOf 32 w)) s) (vecChecks 0 [f.va, f.vb, f.vc] f.vd s)
def execVsgdm (f : VF) (s : State) : Host.Outcome State Fault Refusal := issue s (vsgdmOp f s)

end Sys2Proof.Machine
end

