-- ==== Sys2Proof/Machine/Tmr.lean ====
section
/-! DEFINITION. Tensor metadata records as the core sees them (14 R312-R318): the checks of a reference, the control word and ring, the
entry a watermark or a version names, and the histogram pieces of a region (06 R161, 09 R221). -/

namespace Sys2Proof.Machine

/-- A ring entry (14 R315). -/
structure Ent where
  v : Nat
  e : Int
  f : Nat
deriving DecidableEq, Repr

/-- A record's physical address, control word and ring. -/
structure Rec where
  pa : Nat
  ctl : Nat
  ring : List Ent
deriving DecidableEq, Repr

def entOf (w : Nat) : Ent := ⟨bits w 15 0, sint 8 (bits w 23 16), bits w 27 24⟩
def recOf (pa : Nat) (bs : List Byte) : Rec :=
  let n := leNat bs
  ⟨pa, bits n 63 0, (List.range 4).map fun j => entOf (bits n (95 + 32 * j) (64 + 32 * j))⟩
def Rec.ver (r : Rec) : Nat := bits r.ctl 31 16
def Rec.state (r : Rec) : Nat := bits r.ctl 39 36
/-- The non-empty ring entry that a test names. -/
def Rec.entry (r : Rec) (p : Ent → Bool) : Option Ent := r.ring.find? fun e => e.v != 0 && p e
def Rec.current (r : Rec) : Option Ent := r.entry fun e => e.v == r.ver

/-- A format that a record may hold. -/
def govFmt (f : Nat) : Bool := f == 2 || f == 3 || f == 4

/-- A well-formed record (14 R313). -/
def Rec.wf (r : Rec) : Bool :=
  r.state ≤ 3 && govFmt (bits r.ctl 3 0) && bits r.ctl 15 8 ≤ 16 && r.ver != 0 && r.current.isSome

def tmrIx (ref : Nat) : Nat := ref % 2 ^ 25
/-- The virtual address of a record (14 R312). -/
def tmrVa (s : State) (ref : Nat) : Nat := s.sched.tmrbase + 128 * tmrIx ref

/-- The checks of R312 but for the record's own form: the virtual and physical address. -/
def tmrPlace (ref : Nat) (s : State) : Except MemErr ((Nat × Nat) × State) := do
  if s.sched.tmrcnt ≤ tmrIx ref then .error (.access ref)
  let va := tmrVa s ref
  let (t, s') ← lookupTlb s va
  let pa := t.pa + va % 2 ^ t.bits
  if !t.permits .rd || hbmEnd ≤ pa || combHome pa != ref / 2 ^ 25 then .error (.access ref)
  else do
    homeServes s' (pa / 64)
    .ok ((va, pa), s')

/-- The record of a reference as a region reads it: control word and ring by a leased load. -/
def readRec (ref : Nat) (s : State) : Except MemErr (Rec × State) := do
  let ((va, pa), s) ← tmrPlace ref s
  let (bs, s) ← globalRead [(va, 24)] s
  let r := recOf pa (bs.headD [])
  if r.wf then .ok (r, s) else .error (.access ref)

/-- The record of a reference as a held instruction checks it at issue. -/
def checkRec (ref : Nat) (s : State) : Except MemErr (Nat × State) := do
  let ((_, pa), s) ← tmrPlace ref s
  if (recOf pa (rdBytes s pa 24)).wf then .ok (pa, s) else .error (.access ref)

/-! ### Histogram pieces -/

/-- Counts with one more in each of some bins. -/
def countBins (bs : List Nat) (c : SMap Nat) : SMap Nat := bs.foldl (fun c b => SMap.set 0 c b (SMap.get 0 c b + 1)) c
def countSum (c : SMap Nat) : Nat := (c.map (·.2)).foldl (· + ·) 0

/-- The counts that the region's latest piece for a record carries, those after a held operation on the record included; none when the
region has no piece for it. Held pieces are listed most recent first. -/
def pieceCounts (pa : Nat) : List Held → Option Nat
  | [] => none
  | .hist p c :: t => if p = pa then some (countSum c) else pieceCounts pa t
  | .tm p _ _ _ _ a :: t => if p = pa then (pieceCounts pa t).map (· + countSum a) else pieceCounts pa t
  | _ :: t => pieceCounts pa t

/-- Add counts to that piece: after the latest held operation on the record, with which counts have their order (14 R331). -/
def bumpPiece (pa : Nat) (bs : List Nat) : List Held → List Held
  | [] => []
  | .hist p c :: t => if p = pa then .hist p (countBins bs c) :: t else .hist p c :: bumpPiece pa bs t
  | .tm p r x n k a :: t => if p = pa then .tm p r x n k (countBins bs a) :: t else .tm p r x n k a :: bumpPiece pa bs t
  | h :: t => h :: bumpPiece pa bs t

/-- The held pieces with an instruction's counts (06 R161): in the latest piece of the record while it stays within 8,192 counts, else in a
new one. -/
def addHist (pa : Nat) (bs : List Nat) (hs : List Held) : List Held :=
  if bs.isEmpty then hs
  else if (pieceCounts pa hs.reverse).any fun n => n + bs.length ≤ 8192 then (bumpPiece pa bs hs.reverse).reverse
  else hs ++ [.hist pa (countBins bs [])]

/-- Replace the store-hold buffer's contents, with the new pieces at its end as the bundle's own, or raise hold overflow (01 R23). -/
def setHeld (hs : List Held) (s : State) : Res State := do
  need s (hs.length ≤ 128) cHold 128
  .ok (mapCtx (fun c => { c with ownHeld := c.ownHeld + (hs.length - s.core.held.length) }) (mapCore (fun c => { c with held := hs }) s))

/-! ### Watermarks -/

/-- The watermark that a region's read of an address gives: that of its last held governed store to the leaf, else the one that came with
the core's copy of the line if the read takes that copy (12 R271, R279), else the stored one. -/
def regionMark (s : State) (pa : Nat) : Nat :=
  (((seenHeld s).foldl (fun acc h => match h with
    | .store p _ _ _ (some w) => if p / 256 = pa / 256 then some w else acc
    | _ => acc) none).getD
    (((if s.core.st.pin then none else s.core.l1.find? fun l => l.pa == pa / 64 * 64).map (·.mark)).getD (leafMark s pa)))

/-- The migrate trap of a format that the die's grade lacks (06 R161, R162; 02 R67). -/
def needFmt (s : State) (f : Nat) : Res Unit :=
  need s (f != 4 || (subsets (isL s.core.id)).getLsbD 3) cMigrate (word (bits s.ctx.syl.toNat 63 56 + 256 * s.ctx.slot))

/-! ### Quantising and dequantising vectors -/

/-- Elements that a vector of a type carries: n(f) (06 R147). -/
def vecElems (ty : Nat) : Nat := match ty with | 0 => 16 | 6 => 16 | 7 => 16 | 1 => 32 | _ => 64

/-- The sources that `vqnt` pops toward a format of n(f) = m elements: the first ⌈m / n(ty)⌉. -/
def vqntSels (f : VF) (m : Nat) : List (BitVec 6) :=
  let n := vecElems f.ty.toNat
  [f.va, f.vb, f.vc, f.ctl.extractLsb' 4 6].take ((m + n - 1) / n)

/-- Pop a list of sources in order. -/
def popAll (ty : Nat) : List (BitVec 6) → State → Res (List XV × State)
  | [], s => .ok ([], s)
  | v :: t, s => do
    let (a, s) ← srcVec v ty s
    let (r, s) ← popAll ty t s
    .ok (elemsOf ty a ++ r, s)

/-- n(f) of the format that `vqnt` writes: bf16's 32 or 64 where the record cannot be read. -/
def vqntElems (f : VF) (s : State) : Nat :=
  let en : Res Ent := do
    let h ← readH (f.ctl.extractLsb' 0 4) s
    let (r, _) ← liftMem s (readRec (hTmr h) s)
    .ok (r.current.getD ⟨0, 0, 2⟩)
  match en with
  | .ok e => vecElems e.f
  | .error _ => 64

/-- Data in pool memory makes a governed conversion an access fault (11 R262). The rule does not say which address of the data counts where
the instruction names none: the page of BASE does (DESIGN CHOICE, log entry 128). -/
def noPoolData (h : BitVec 256) (s : State) : Res Unit :=
  match coreXlate .rd (hBase h) s with
  | .ok ((pa, _), _) => need s (!isPool pa) cAccess (word (hBase h))
  | .error _ => .ok ()
/-- The stops that the handle of a governed conversion raises. -/
def govStops (f : VF) (s : State) : List (Option Stop) :=
  let h := readH (f.ctl.extractLsb' 0 4) s
  [stopOf (do let h ← h; let _ ← liftMem s (readRec (hTmr h) s); .ok ()), stopOf (do let h ← h; if hGov h then noPoolData h s else .ok ())]

/-- `vqnt` (06 R161). -/
def vqntOp (f : VF) (s : State) : Res State :=
  let ty := f.ty.toNat
  gather (do
    let h ← readH (f.ctl.extractLsb' 0 4) s
    needLegal s (hGov h)
    let (r, s) ← liftMem s (readRec (hTmr h) s)
    let en := r.current.getD ⟨0, 0, 2⟩
    needFmt s en.f
    noPoolData h s
    let m := vecElems en.f
    let (xs, s) ← popAll ty (vqntSels f m) s
    let xs := xs.take m
    let (rs, s) := draws f.rnd.toNat m s
    let (v, fl) := encodeAll (xs.map (XV.scale (-en.e))) en.f f.rnd.toNat rs
    let s ← setHeld (addHist r.pa (xs.map fun x => binOf x en.e en.f) s.core.held) s
    putVec f.vd v 5 (fl ||| nanFlag xs) s)
    (vecChecks ty (vqntSels f (vqntElems f s)) f.vd s ++ govStops f s)
def execVqnt (f : VF) (s : State) : Host.Outcome State Fault Refusal := issue s (vqntOp f s)

/-- The entry that `vdq` decodes under (06 R162). -/
def vdqEntry (h : BitVec 256) (w : Word) (r : Rec) : Option Ent :=
  if hPinv h ≠ 0 then r.entry fun e => e.v == hPinv h else r.entry fun e => e.v % 16 == w.toNat % 16

/-- `vdq` (06 R162). A broadcast va repeats the low bits of its register at the entry's width, for mx4 its low 4 bits in the scale bytes
too (DESIGN CHOICE, log entry 118). -/
def vdqOp (f : VF) (s : State) : Res State :=
  let td := f.tyd.toNat
  let n := if td = 0 then 16 else 32
  gather (do
    let h ← readH (f.ctl.extractLsb' 0 4) s
    needLegal s (hGov h)
    let w ← readS (f.vb &&& 31) s
    let (r, s) ← liftMem s (readRec (hTmr h) s)
    match vdqEntry h w r with
    | none => raise s cStale (word (hBase h))
    | some en =>
      needFmt s en.f
      let part := (f.ctl.extractLsb' 8 2).toNat
      needLegal s (part < vecElems en.f / n)
      noPoolData h s
      let (a, s) ← srcVec f.va en.f s
      let xs := ((elemsOf en.f a).drop (part * n)).take n
      let (rs, s) := draws f.rnd.toNat n s
      let (v, fl) := encodeAll (xs.map (XV.scale en.e)) td f.rnd.toNat rs
      putVec f.vd v 5 (fl ||| nanFlag xs) s)
    (vecChecks 2 [f.va, f.vb] f.vd s ++ govStops f s)
def execVdq (f : VF) (s : State) : Host.Outcome State Fault Refusal := issue s (vdqOp f s)

end Sys2Proof.Machine
end

