-- ==== Sys2Proof/Machine/Counters.lean ====
section
/-! DEFINITION. The homes as engines meet them: when a line can take a write (12 R277, R286, 11 R269, 23 R431, R433), the stamp of a
write, and the counters of the sync engines (13 R289-R298, R457). -/

namespace Sys2Proof.Machine

/-! ### Writes at a home -/

/-- Whether a line can take a write: yes, after a pool transaction, after a wait, or not, because it is poisoned. -/
inductive WrState where
  | ok
  | fetch (tx : PoolTx)
  | wait
  | poison
deriving DecidableEq, Repr

def locked (s : State) (pa : Nat) : Bool := SMap.get false s.locks (pa / 4096)

/-- Whether an agent may write a line; `full` tells that it writes all 64 bytes, `who` is the core whose reservation and pin do not
count against it. -/
def lineReady (s : State) (line : Nat) (full : Bool) (who : Option CoreId) : WrState :=
  let d := dirOf s line
  let pa := 64 * line
  if isPool pa && !(portOf s pa).up then .poison
  else if d.psn && !full then .poison
  else if (d.resv.isSome && d.resv != who) || (d.pin.isSome && d.pin != who) || locked s pa then .wait
  else if !isPool pa || d.psn then .ok
  else match d.pst with
    | 0 => .fetch (.rd line true)
    | 1 => .fetch (.inv line)
    | 3 => .wait
    | _ => if d.gone then .fetch (.rd line true) else .ok

/-- What an agent that must try again asks for first, if anything. -/
def askOpt (tx : Option PoolTx) (s : State) : State := match tx with | some tx => askPool tx s | none => s
/-- An error that goes away by itself, or after a pool transaction. -/
def MemErr.again? : MemErr → Option (Option PoolTx)
  | .fetch tx => some (some tx)
  | .wait => some none
  | _ => none

/-- Raise a home's clock; times that are now 2^46 or more below it are raised within 2^20 clocks (12 R274). -/
def raiseHc (home t : Nat) (s : State) : State :=
  let s := { s with hc := SMap.set 0 s.hc home (Nat.max (hcOf s home) t) }
  if s.dir.any (fun e => combHome (64 * e.1) == home && (e.2.rts + 2 ^ 46 ≤ hcOf s home || e.2.wts + 2 ^ 46 ≤ hcOf s home)) &&
      !s.agenda.any (fun d => d.act == .stampRaise home) then
    due (s.now + Config.freeTime s.free % 2 ^ 20) (.stampRaise home) { s with free := s.free + 1 }
  else s

/-- Mark a line written at logical time t (12 R276): it is modified in its slice (11 R253); a full write of a poisoned line goes to the
pool, or clears PSN in HBM, and any other leaves it poisoned (23 R433). -/
def stampLine (line t : Nat) (full : Bool) (s : State) : State :=
  let d := dirOf s line
  let pool := isPool (64 * line)
  let s := setDir line { d with
    wts := t, rts := t, psn := d.psn && (pool || !full), pst := if pool && !d.psn then 4 else d.pst, gone := d.gone && !full } s
  let s := touchLine line true (raiseHc (combHome (64 * line)) t s)
  if d.psn && pool && full then askPool (.wr line .full) s else s

/-- A line has taken a write outside the global order: a pool line is then in M, and a full write of a poisoned HBM line clears PSN
(23 R433). -/
def modDir (line : Nat) (full : Bool) (s : State) : State :=
  let d := dirOf s line
  let pool := isPool (64 * line)
  let d' := { d with psn := d.psn && (pool || !full), pst := if pool && !d.psn then 4 else d.pst }
  if d' = d then s else setDir line d' s

/-- A line takes a write outside the global order: statistics, and parked images. It is modified in its slice all the same (11 R253). -/
def modLine (line : Nat) (full : Bool) (s : State) : State := touchLine line true (modDir line full s)

/-- An operation at logical time t that reads a line without changing it: no later write commits at t or below, and t is a time applied at
the home (12 R274). -/
def readStamp (line t : Nat) (s : State) : State :=
  let s := raiseHc (combHome (64 * line)) t s
  setDir line { dirOf s line with rts := Nat.max (dirOf s line).rts t } s

/-- The time of a single access that follows t and every lease on the line. -/
def afterLine (s : State) (line t : Nat) : Nat := Nat.max (t + 1) ((dirOf s line).rts + 1)

/-- Let an event happen again at the next clock. -/
def again (i : Instr) (s : State) : State := due (s.now + 1) i s

/-- Run an engine's write to a line when its home is ready, or later; `bad` is what poison does. -/
def whenReady (line : Nat) (full : Bool) (i : Instr) (bad ok : State → State) (s : State) : State :=
  match lineReady s line full none with
  | .ok => ok s
  | .poison => bad s
  | .wait => again i s
  | .fetch tx => again i (askPool tx s)

/-! ### Reports -/

/-- A class A report to a task's fault domain, from an agent that is no strand. -/
def reportA (tser code : Nat) (info : Word) (s : State) : State :=
  due s.now (.faultReport ⟨true, code, info, 0, 0, tser, 0, 0, 0, 0, s.now⟩) s

/-- A refused or impossible counter operation reported to its source (13 R293, R457; 15 R341). -/
def reportSrc (src : Source) (code : Nat) (info hostInfo : Word) (s : State) : State :=
  match src with
  | .task t => reportA t code info s
  | .host => signal 2 (record 256 8 hostInfo s)
  | .nobody => s

/-! ### Counters -/

/-- The bits of a flag word that exist (13 R290). -/
def flagMask (v : Nat) : Nat := v % 256 + bits v 31 16 * 65536
def ctrValue (s : State) (pa : Nat) : Nat := rdN s pa 8
/-- FLAGS: bits [15:8] read 0 (13 R290). -/
def ctrFlags (s : State) (pa : Nat) : Nat := flagMask (rdN s (pa + 8) 4)
def ctrCeil (s : State) (pa : Nat) : Nat := rdN s (pa + 12) 4

/-- Whether a waiter is satisfied (13 R296). -/
def ctrMet (s : State) (pa thr : Nat) (wf : Bool) : Bool :=
  thr ≤ ctrValue s pa || (wf && bits (ctrFlags s pa) 7 3 != 0)

/-- Counter entries of a sync engine's SRAM (11 R255). -/
def sramSize : Nat := 262144

/-- The sync engine holds a counter in its SRAM as the most recently used; a 262,145th entry puts out the least recently used counter with
no registered waiter, whose bytes stand in memory (11 R255). Where every one of the 262,144 has a waiter, none is put out and the list grows
(DESIGN CHOICE, log entry 146). -/
def holdCtr (pa : Nat) (s : State) : State :=
  let n := combHome pa
  let old := (findKey s.sram n).getD []
  let cs := if old.head? = some pa then old else pa :: old.erase pa
  let out := if cs.length ≤ sramSize then none else (cs.filter fun c => !s.waiters.any fun w => w.pa == c).getLast?
  { s with sram := putKey s.sram n (match out with | some c => cs.erase c | none => cs) }

/-- A home notes that an operation names a counter on a line (11 R254, R255). -/
def nameCtr (pa : Nat) (s : State) : State := holdCtr pa (setDir (pa / 64) { dirOf s (pa / 64) with ctr := true } s)

/-- A counter watch wakes: its vector, and WEN clears (15 R342). -/
def clearWatch (i : Nat) (s : State) : State :=
  signal (8 + i) { s with host := { s.host with
    watches := s.host.watches.setIfInBounds i { (s.host.watches[i]?.getD ⟨0, false, 0⟩) with en := false } } }

/-- A later time of the swarm engine's pieces on a table (18 R399). -/
def tableTime (tab t : Nat) (s : State) : State :=
  { s with tables := s.tables.map fun (y : Table) => if y.va = tab then { y with t := Nat.max y.t t } else y }

/-- A merge request is met by an add at time t: the merge begins later than t, and no sample and no switch of the table does until its end
(18 R398). -/
def startMerge (tab t : Nat) (s : State) : State :=
  let begin_ (x : Table) : Table := if x.va = tab then { x with merging := some (x.merging.getD ⟨0, 1, 0, 0⟩) } else x
  due s.now (.gradientMerge tab) (tableTime tab t { s with tables := s.tables.map begin_ })

/-- A restarted replica 0 has committed a consumed add at time t: R0LOSS of its expert returns to 0, by a write of the engine (18 R397). -/
def clearR0loss (tab e t : Nat) (s : State) : State :=
  let (i, s) := freshId (tableTime tab t s)
  due s.now (.redirection i) { s with switches := s.switches ++ [⟨i, tab, e, 0, .clear, 0, 0, 0, 0⟩] }

/-- Wake one waiter (13 R297): a strand after a time of at most 3,000 clocks, a watch at once, the scheduler's and the swarm engine's
registrations through their events. -/
def wakeOne (delay t : Nat) (w : Waiter) (s : State) : State :=
  let fl := BitVec.ofNat 32 (ctrFlags s w.pa)
  match w.who with
  | .core c => due (s.now + delay) (.cwaitWake c fl t) s
  | .dep tser k =>
    let later (x : Task) : Task := if x.tser = tser then { x with t := Nat.max x.t t } else x
    due s.now (.dependencyMet tser k (if w.thr ≤ ctrValue s w.pa then 0 else fl)) { s with sched := { s.sched with tasks := s.sched.tasks.map later } }
  | .queue r => due s.now (.descriptorFetch r) s
  | .job => due s.now .schedulerRound { s with sched := { s.sched with jobDone := true } }
  | .watch i => clearWatch i s
  | .merge tab => startMerge tab t s
  | .consumed tab e => clearR0loss tab e t s
  | .wag tag launch =>
    let f := ctrFlags s w.pa
    { s with colls := s.colls.map fun c => if c.tag = tag && c.launch = launch then { c with woken := some (f, t) } else c }

/-- wake_check (13 R297). -/
def wakeCheck (pa t : Nat) (s : State) : State :=
  let met (w : Waiter) : Bool := w.pa == pa && ctrMet s pa w.thr w.wf
  let hit := s.waiters.filter met
  if hit.isEmpty then s
  else
    let (d, s') := freeDelay s
    hit.foldl (fun s w => wakeOne (d % 3001) t w s) { s' with waiters := s.waiters.filter fun w => !met w }

/-- A registration beyond the SRAM and the overflow area of its comb die is a module fault: event 0x0005 (11 R255). The spec states
neither the room, which is 2^18 registrations or more, nor the event's INFO, nor what becomes of the registration, which is kept (DESIGN
CHOICE, log entry 121). -/
def overflowCheck (n : Nat) (s : State) : State :=
  let k := (s.waiters.filter fun w => combHome w.pa == n).length
  if 2 ^ 18 ≤ k && 2 ^ 18 + Config.waiterRoom n ≤ k then
    record (128 + n) 5 (word (Config.freeChoice s.free)) { s with free := s.free + 1 }
  else s

/-- Register a waiter in the last place, or find it satisfied (13 R296). -/
def registerWaiter (w : Waiter) (s : State) : Bool × State :=
  let s := nameCtr w.pa s
  if ctrMet s w.pa w.thr w.wf then (true, s)
  else
    let s := overflowCheck (combHome w.pa) s
    (false, { s with waiters := s.waiters ++ [w] })

/-- Whether an add of n is refused: past 2^64 − 1, or past CEIL (13 R293). -/
def addRefused (s : State) (pa n : Nat) : Bool :=
  n != 0 && (2 ^ 64 ≤ ctrValue s pa + n || (ctrCeil s pa != 0 && ctrCeil s pa < ctrValue s pa + n))

/-- apply_add at logical time t (13 R292, R293). -/
def addCounter (pa : Nat) (va : Word) (n : Nat) (fl : Nat) (src : Source) (t : Nat) (s : State) : State :=
  let s := nameCtr pa s
  let f := ctrFlags s pa ||| flagMask fl
  let v := ctrValue s pa + n
  let refused := addRefused s pa n
  let s := if refused then wrN (pa + 8) 4 (f ||| 0x80) s else wrN (pa + 8) 4 f (wrN pa 8 v s)
  let s := stampLine (pa / 64) t false s
  let s := match src with
    | .task k => if refused then s else { s with adders := s.adders ++ [(pa, v, k)] }
    | _ => s
  wakeCheck pa t (if refused then reportSrc src cCeil va (word pa) s else s)

/-- apply_cflg (13 R292). -/
def flagCounter (pa b t : Nat) (s : State) : State :=
  let s := nameCtr pa s
  let s := wrN (pa + 8) 4 (ctrFlags s pa ||| flagMask b) s
  wakeCheck pa t (stampLine (pa / 64) t false s)

/-- apply_ceil (13 R292, R294). -/
def ceilCounter (pa : Nat) (va : Word) (c : Nat) (src : Source) (t : Nat) (s : State) : State :=
  let s := nameCtr pa s
  if c = 0 then readStamp (pa / 64) t s
  else if ctrCeil s pa ≠ 0 ∨ c < ctrValue s pa then
    let s := wrN (pa + 8) 4 (ctrFlags s pa ||| 0x80) s
    wakeCheck pa t (reportSrc src cCeil va (word pa) (stampLine (pa / 64) t false s))
  else
    wakeCheck pa t (stampLine (pa / 64) t false (wrN (pa + 12) 4 c s))

/-- An engine's counter address (13 R303): aligned, on a page with SYNC and W. -/
def engCounter (s : State) (va : Nat) : Except MemErr Nat := do
  let t ← walk s va
  if va % 16 ≠ 0 then .error (.access va) else place s t .ctrWr va

/-- APPLY_ADD: a counter add of an engine, the scheduler or the host (13 R292, R298, R457). -/
def execApplyAdd (ctr : Nat) (va : Word) (n : Word) (fl : BitVec 32) (src : Source) (t : Nat) (s : State) :
    Host.Outcome State Fault Refusal :=
  .next (whenReady (ctr / 64) false (.applyAdd ctr va n fl src t)
    (reportSrc src cPoison (word ctr) (word ctr))
    (fun s => addCounter ctr va n.toNat fl.toNat src (afterLine s (ctr / 64) t) s) s)

/-- APPLY_CFLG. -/
def execApplyCflg (ctr : Nat) (b : BitVec 32) (t : Nat) (s : State) : Host.Outcome State Fault Refusal :=
  .next (whenReady (ctr / 64) false (.applyCflg ctr b t) id (fun s => flagCounter ctr b.toNat (afterLine s (ctr / 64) t) s) s)

/-- APPLY_CEIL. -/
def execApplyCeil (ctr : Nat) (va : Word) (v : Word) (src : Source) (t : Nat) (s : State) : Host.Outcome State Fault Refusal :=
  .next (whenReady (ctr / 64) false (.applyCeil ctr va v src t) (reportSrc src cPoison (word ctr) (word ctr))
    (fun s => ceilCounter ctr va v.toNat src (afterLine s (ctr / 64) t) s) s)

end Sys2Proof.Machine
end

