-- ==== Sys2Proof/Machine/Sync.lean ====
section
/-! DEFINITION. The counter instructions and the memory atomics of the Y slot (13 R291-R301). -/

namespace Sys2Proof.Machine

/-- The task of the focused strand. -/
def ownTser (s : State) : Nat := bits s.core.st.gangId.toNat 47 16
def ownGix (s : State) : Nat := bits s.core.st.gangId.toNat 15 0

/-- The address u64(a + imm). -/
def yaAddr (f : YA) (s : State) : Res Word := do
  let a ← readS f.a s
  .ok (a + sx f.imm)

/-- A counter address translated at issue (13 R291, 11 R265). -/
def ctrAddr (acc : Acc) (va : Word) (s : State) : Res (Nat × State) := do
  needAligned va.toNat 16 s
  xlateW acc va.toNat s

def yaStops (f : YA) (s : State) : List (Option Stop) := [stopOf (readS f.a s), stopOf (readS f.b s)]

/-- A held counter operation on an address with an operand. -/
def heldCtr (f : YA) (mk : Nat → Word → Word → Held) (s : State) : Res State :=
  gather (do
    let va ← yaAddr f s
    let b ← readS f.b s
    let (pa, s) ← ctrAddr .ctrWr va s
    holdAll [mk pa va b] s) (yaStops f s)

def execCadd (f : YA) (s : State) : Host.Outcome State Fault Refusal := issue s (heldCtr f (fun pa va b => .cadd pa va b) s)

/-- `caddi` (13 R291): its address is a alone. -/
def caddiOp (f : YA) (s : State) : Res State := do
  let va ← readS f.a s
  let (pa, s) ← ctrAddr .ctrWr va s
  holdAll [.cadd pa va (zx f.imm)] s
def execCaddi (f : YA) (s : State) : Host.Outcome State Fault Refusal := issue s (caddiOp f s)

def execCflg (f : YA) (s : State) : Host.Outcome State Fault Refusal :=
  issue s (heldCtr f (fun pa _ b => .cflg pa (b.setWidth 32)) s)

/-- `cceil`: a ceiling of 2^32 or more is illegal at execution (13 R291). -/
def cceilOp (f : YA) (s : State) : Res State :=
  gather (do
    let b ← readS f.b s
    needLegal s (b.toNat < 2 ^ 32)
    heldCtr f (fun pa va b => .cceil pa va b) s) (yaStops f s)
def execCceil (f : YA) (s : State) : Host.Outcome State Fault Refusal := issue s (cceilOp f s)

/-- `crd` (13 R295): a leased read of VALUE, or of CEIL and FLAGS. -/
def crdOp (f : YA) (s : State) : Res State := do
  let va ← yaAddr f s
  needAligned va.toNat 16 s
  let (bs, s) ← liftMem s (globalReadWith .ctrRd true [] [(va.toNat, 16)] s)
  let n := leNat (bs.headD [])
  let ((pa, _), _) ← liftMem s (coreXlate .ctrRd va.toNat s)
  .ok (produceVal f.c (word (if f.ctl = 0 then bits n 63 0 else flagMask (bits n 95 64) + bits n 127 96 * 2 ^ 32)) s.now false (nameCtr pa s))
def execCrd (f : YA) (s : State) : Host.Outcome State Fault Refusal := issue s (crdOp f s)

/-- The value `cwait` returns, and the PTS it gives (13 R296, 12 R284). -/
def cwaitDone (rd : BitVec 5) (flags : Nat) (t : Nat) (s : State) : State :=
  let s := mapSt (fun k => { k with a := setReg rd (word flags) k.a, vls := discardVl rd k.vls }) s
  mapCore (fun c => { c with pts := Nat.max c.pts t }) s

/-- The wait-with-held fault of `cwait` and `bwait` (01 R25, 10 R240). -/
def needNoHeld (s : State) : Res Unit := need s s.core.held.isEmpty cWaitHeld (word s.core.held.length)
def waitStop (s : State) : Option Stop := stopOf (needNoHeld s)

/-- `cwait` (13 R296, 01 R25). -/
def cwaitOp (f : YA) (s : State) : Res State :=
  gather (do
    let va ← yaAddr f s
    let thr ← readS f.b s
    needNoHeld s
    let (pa, s) ← ctrAddr .ctrRd va s
    liftMem s (homeServes s (pa / 64))
    let rd : BitVec 5 := f.c.setWidth 5
    let (met, s) := registerWaiter ⟨pa, thr.toNat, f.wf == 1, .core s.core.id⟩ s
    .ok (if met then cwaitDone rd (ctrFlags s pa) (dirOf s (pa / 64)).wts s
      else mapCtx (fun c => { c with wait := .cwait rd pa s.core.st.a.pc }) s)) (waitStop s :: yaStops f s)
def execCwait (f : YA) (s : State) : Host.Outcome State Fault Refusal := issue s (cwaitOp f s)

/-- CWAIT_WAKE: a waiting strand returns with the flag word of the step that woke it (13 R296, R297). -/
def execCwaitWake (c : CoreId) (flags : BitVec 32) (t : Nat) (s : State) : Host.Outcome State Fault Refusal :=
  let k := s.core.id
  let s' := focus c s
  match s'.core.st.wait with
  | .cwait rd _ _ => .next (focus k (mapSt endWait (cwaitDone rd flags.toNat t s')))
  | _ => .next s

/-! ### Memory atomics (13 R299-R301) -/

/-- A held atomic; its register is empty until the region commits (12 R283). -/
def atomicOp (k : AtomKind) (f : YA) (s : State) : Res State :=
  let w4 := f.ctl.getLsbD 0
  gather (do
    let va ← yaAddr f s
    let x ← readS f.b s
    let y ← (if k == .cas then readS f.d s else .ok 0)
    needAligned va.toNat (if w4 then 4 else 8) s
    let (pa, s) ← xlateW .atomic va.toNat s
    let (i, s) := produceS f.c none s.now false true s
    holdAll [.atomic k pa w4 (f.ctl.getLsbD 1) x y (f.c.setWidth 5) i] s)
    (yaStops f s ++ (if k == .cas then [stopOf (readS f.d s)] else []))

def execAmadd (f : YA) (s : State) : Host.Outcome State Fault Refusal := issue s (atomicOp .add f s)
def execAmax (f : YA) (s : State) : Host.Outcome State Fault Refusal := issue s (atomicOp .max f s)
def execAmin (f : YA) (s : State) : Host.Outcome State Fault Refusal := issue s (atomicOp .min f s)
def execAswp (f : YA) (s : State) : Host.Outcome State Fault Refusal := issue s (atomicOp .swp f s)
def execAcas (f : YA) (s : State) : Host.Outcome State Fault Refusal := issue s (atomicOp .cas f s)
def execAand (f : YA) (s : State) : Host.Outcome State Fault Refusal := issue s (atomicOp .and f s)
def execAor (f : YA) (s : State) : Host.Outcome State Fault Refusal := issue s (atomicOp .or f s)
def execAfadd (f : YA) (s : State) : Host.Outcome State Fault Refusal := issue s (atomicOp .fadd f s)

/-- The new value at an atomic's target and its flags (13 R299, R301); `o` is the old value. -/
def atomicNew (k : AtomKind) (w4 u : Bool) (o x y : Nat) : Nat × Flags :=
  let w := if w4 then 32 else 64
  let x := x % 2 ^ w
  let lt (a b : Nat) : Bool := if u then decide (a < b) else decide (sint w a < sint w b)
  match k with
  | .add => ((o + x) % 2 ^ w, 0)
  | .max => (if lt o x then x else o, 0)
  | .min => (if lt x o then x else o, 0)
  | .swp => (x, 0)
  | .cas => (if o = x then y % 2 ^ w else o, 0)
  | .and => (o &&& x, 0)
  | .or => (o ||| x, 0)
  | .fadd =>
    let (v, f) := (valueOf 0 o).add (valueOf 0 x)
    let (b, g) := convertSat v 0 0 0
    (b, f ||| g ||| nanFlag [valueOf 0 o, valueOf 0 x])

end Sys2Proof.Machine
end

