-- ==== Sys2Proof/Machine/Cluster.lean ====
section
/-! DEFINITION. The barrier tree and multicast landings (10 R230-R244). A segment is held by its member cores; the bits of every node of
its tree follow from them (10 R237). -/

namespace Sys2Proof.Machine

/-! ### Segments -/

/-- The physical segment that a strand's b0 or b1 names, when its task has armed it (10 R236, R238). -/
def segOf (s : State) (b : Nat) : Option (Nat × Seg) := do
  let t ← s.sched.tasks.find? fun t => t.tser == ownTser s
  let r ← s.sched.regions.find? fun r => r.rnum == t.rnum
  let i ← r.segs[b]?
  let g ← findKey s.segs i
  if g.armed && g.tser == ownTser s then some (i, g) else none

/-- A phase has been released (10 R240). -/
def released (g : Seg) (p : BitVec 16) : Bool :=
  let d := (g.phase - p).toNat
  1 ≤ d && d ≤ 32767

/-- Every input is true. -/
def allArrived (g : Seg) : Bool :=
  g.member.all (fun c => g.arrived.contains c || g.excuse.contains c) && g.away.all (fun a => a.arrived || a.excused)

/-- The cores whose `bwait` a release satisfies. -/
def bwaiters (s : State) (seg : Nat) (g : Seg) : List CoreId :=
  ((allCores s).filter fun c => match c.st.wait with
    | .bwait i p => i == seg && released g p
    | _ => false).map (·.id)

/-- Release the phase when every input is true (10 R237). -/
def releaseSeg (seg : Nat) (s : State) : State :=
  match findKey s.segs seg with
  | none => s
  | some g =>
    if g.armed && allArrived g then
      let g := { g with phase := g.phase + 1, arrived := [], away := g.away.map fun a => { a with arrived := false } }
      let s := { s with segs := putKey s.segs seg g }
      (bwaiters s seg g).foldl (fun s c => due s.now (.bwaitReturn c) s) s
    else s

/-- A committed arrival (10 R239). -/
def arrive (c : CoreId) (seg t : Nat) (s : State) : State :=
  match findKey s.segs seg with
  | none => s
  | some g =>
    if !g.armed || !g.member.contains c || g.arrived.contains c then s
    else releaseSeg seg { s with segs := putKey s.segs seg { g with arrived := g.arrived ++ [c], tmax := Nat.max g.tmax t } }

/-- A core whose strand belongs to a task retires from that task's segments (10 R242). -/
def retireCore (c : CoreId) (s : State) : State :=
  let tser := bits (coreOf s c).st.gangId.toNat 47 16
  s.segs.foldl (fun s (i, g) =>
    if g.armed && g.tser == tser && g.member.contains c && !g.excuse.contains c then
      releaseSeg i { s with segs := putKey s.segs i { (findKey s.segs i).getD g with excuse := g.excuse ++ [c] } }
    else s) s

/-- BARRIER_ARRIVAL. -/
def execBarrierArrival (c : CoreId) (seg : Nat) (t : Nat) (s : State) : Host.Outcome State Fault Refusal := .next (arrive c seg t s)

/-- A barrier instruction whose segment the task has not armed is illegal at execution (10 R238). -/
def needSeg (f : YA) (s : State) : Res (Nat × Seg) :=
  match segOf s f.seg.toNat with
  | some g => .ok g
  | none => raiseIllegal s

/-- `barr` (10 R239). -/
def barrOp (f : YA) (s : State) : Res State := do
  let (i, g) ← needSeg f s
  holdAll [.barr i] (writeS f.a 0 (zx g.phase) 0 s)
def execBarr (f : YA) (s : State) : Host.Outcome State Fault Refusal := issue s (barrOp f s)

/-- PTS after a `bwait` (12 R284). -/
def bwaitDone (t : Nat) (s : State) : State := mapCore (fun c => { c with pts := Nat.max c.pts t }) s

/-- `bwait` (10 R240). -/
def bwaitOp (f : YA) (s : State) : Res State :=
  gather (do
    let (i, g) ← needSeg f s
    let p ← readS f.a s
    needNoHeld s
    .ok (if released g (p.setWidth 16) then bwaitDone g.tmax s
      else mapCtx (fun c => { c with wait := .bwait i (p.setWidth 16) }) s)) [waitStop s, stopOf (readS f.a s)]
def execBwait (f : YA) (s : State) : Host.Outcome State Fault Refusal := issue s (bwaitOp f s)

/-- `barq` (10 R241). -/
def barqOp (f : YA) (s : State) : Res State := do
  let (_, g) ← needSeg f s
  let c := s.core.id
  .ok (writeS f.a 0 (word (g.phase.toNat + 65536 * b2n g.armed + 131072 * b2n (g.arrived.contains c) + 262144 * b2n (g.excuse.contains c)))
    0 s)
def execBarq (f : YA) (s : State) : Host.Outcome State Fault Refusal := issue s (barqOp f s)

/-- BWAIT_RETURN: a waiting strand goes on once its phase has been released (10 R240). -/
def execBwaitReturn (c : CoreId) (s : State) : Host.Outcome State Fault Refusal :=
  match (coreOf s c).st.wait with
  | .bwait i p =>
    match findKey s.segs i with
    | some g =>
      if released g p then
        .next (onCore c (fun k => { k with pts := Nat.max k.pts g.tmax, st := endWait k.st }) s)
      else .next s
    | none => .next s
  | _ => .next s

/-! ### Multicast landings (10 R233) -/

/-- Order of landing: clock, then CC of the sender, then issue. -/
def Mc.before (a b : Mc) : Bool :=
  a.at_ < b.at_ || (a.at_ == b.at_ && (coreCC a.sender < coreCC b.sender || (coreCC a.sender == coreCC b.sender && a.seq < b.seq)))

def sortMcs : List Mc → List Mc
  | [] => []
  | m :: t => put m (sortMcs t)
where
  put (m : Mc) : List Mc → List Mc
    | [] => [m]
    | c :: r => if m.before c then m :: c :: r else c :: put m r

/-- One multicast lands in every target. It sets the granules' bits only under fe = 2, as 10 R232 says; 04 R115 has every multicast
landing set them (DEDUCED, log entry 122). -/
def landMc (m : Mc) (s : State) : State :=
  let bs := (offsFrom m.off 64).zip (vecBytes m.data)
  let fb := if m.full then (granulesOf (offsFrom m.off 64)).map fun g => (g, true) else []
  m.targets.foldl (fun s c => onCore c (writeScratch bs fb) s) s

/-- Land every multicast whose clock has come. -/
def landMcs (s : State) : State :=
  let ready := sortMcs (s.mcs.filter fun m => m.at_ ≤ s.now)
  ready.foldl (fun s m => landMc m s) { s with mcs := s.mcs.filter fun m => s.now < m.at_ }

/-- MULTICAST_LANDING: the landing of one multicast, with those that come before it in its clock. -/
def execMulticastLanding (k : Nat) (s : State) : Host.Outcome State Fault Refusal :=
  .next (if s.mcs.any fun m => m.seq == k && m.at_ ≤ s.now then landMcs s else s)

end Sys2Proof.Machine
end

