-- ==== Sys2Proof/Machine/Net.lean ====
section
/-! DEFINITION. Sending on the Glodric fabric (23 R424-R428): membership, ports, sequence numbers unacknowledged messages, and the aborts of
collectives. -/

namespace Sys2Proof.Machine

/-- The module's own identifier. -/
def ownModule (s : State) : BitVec 17 := s.host.modid
/-- A module of the own load-store domain: one that a valid entry names (23 R425, R426), or the module itself (R429). -/
def isMember (s : State) (m : BitVec 17) : Bool := s.dom.members.contains (m, true) || m == ownModule s

/-- The ports in service toward a module (23 R427, R428). -/
def portsTo (s : State) (m : BitVec 17) : List Nat :=
  (((s.dom.routes.find? fun e => e.1 == m).map (·.2)).getD []).filter fun p => !s.gdown.contains p

/-- One millisecond in clocks (01 R21: 1.5 GHz). -/
def oneMs : Nat := 1500000

/-- Send a message: it takes the pair's next sequence number and is kept until it is acknowledged. A message to the own module comes
back through the module's own I/O die (23 R429). -/
def sendG (dst : BitVec 17) (body : GBody) (s : State) : State :=
  let n := SMap.get 0 s.gseq dst.toNat
  let s := { s with gseq := SMap.set 0 s.gseq dst.toNat (n + 1) }
  let (d, s) := freeDelay s
  let ps := portsTo s dst
  let port := ps.getD (Config.portHash (ownModule s).toNat dst.toNat body.op % Nat.max 1 ps.length) 48
  let s := { s with gout := s.gout ++ [⟨dst, n, port, body⟩] }
  if dst = ownModule s then due (s.now + d) (.glodricMessage ⟨dst, n, body⟩) s
  else if ps.isEmpty then due (s.now + oneMs) (.destinationTimeout dst) s
  else s

/-- A message has been applied: it is remembered and acknowledged. The own module's acknowledgement is at hand. -/
def ackMsg (m : GMsg) (s : State) : State :=
  { s with
    gseen := s.gseen ++ [(m.src, m.seq)], gacks := (m.src, m.seq) :: s.gacks,
    gout := if m.src = ownModule s then s.gout.filter (fun o => !(o.dst == m.src && o.seq == m.seq)) else s.gout }

/-- A message is applied, and answered. -/
def answerG (m : GMsg) (b : GBody) (s : State) : State := sendG m.src b (ackMsg m s)

/-! ### Aborts of collectives (24 R446) -/

/-- The first sight of an event that aborts a collective: an abort goes to every other rank, and to the own engine. -/
def abortAll (tag launch : Nat) (group : List (BitVec 17)) (poison : Bool) (s : State) : State :=
  let me := ownModule s
  due s.now (.waggleAbort tag launch poison)
    ((group.filter (· != me)).foldl (fun s m => sendG m (.abort tag launch poison) s) s)

/-- Abort every running collective that a test selects. -/
def abortColls (p : Coll → Bool) (s : State) : State :=
  (s.colls.filter p).foldl (fun s c => abortAll c.tag c.launch c.group false s) s

end Sys2Proof.Machine
end

