-- ==== Sys2Proof/Machine/Copy.lean ====
section
/-! DEFINITION. The copy engine (13 R302-R311): launches, launch checks, pieces, watermarks, stops, the status table and bank loads. -/

namespace Sys2Proof.Machine

/-! ### Issue (13 R302, R306, R308) -/

def ceStops (f : CE) (s : State) : List (Option Stop) :=
  [stopOf (readS f.a s), stopOf (readS f.b s), stopOf (readS f.c s), stopOf (readS f.d s)]

/-- A scratchpad operand (13 R302): bits [63:38] are 0. -/
def padOk (w : Word) : Bool := bits w.toNat 63 38 = 0
def padOff (w : Word) : Nat := bits w.toNat 17 0
def padCore (w : Word) : CoreId := BitVec.ofNat 20 (bits w.toNat 37 18)

def modeWmp (m : BitVec 8) : Nat := (m.extractLsb' 4 2).toNat
def modeWmv (m : BitVec 8) : Nat := (m.extractLsb' 0 4).toNat

/-- A launch with one range of bytes. -/
def mkLaunch (kind : CopyKind) (dst src : Word) (len : Nat) (ctr : Word) (f : CE) : Launch :=
  { kind := kind, dst := dst, src := src, len := len, rows := 1, dstStride := 0, srcStride := 0, ctr := ctr, amt := f.imm.toNat,
    wmp := modeWmp f.mode, wmv := modeWmv f.mode, module := 0, pull := false, rc := false }

/-- The length of a copy is in range (13 R302), and a scratchpad operand has its form. -/
def lenLegal (s : State) (pad : Bool) (c : Word) : Res Unit := needLegal s (c.toNat < 2 ^ 32 && (!pad || c.toNat ≤ 196608))
def padLegal (s : State) (pad : Bool) (w : Word) : Res Unit := needLegal s (!pad || padOk w)

/-- `cpy`, `cpyg`, `cpys`, `cpyx`, `cpyo`: one held piece; `dpad` and `spad` tell which sides are scratchpad operands. -/
def cpyOp (kind : CopyKind) (dpad spad : Bool) (f : CE) (s : State) : Res State :=
  gather (do
    let a ← readS f.a s
    let b ← readS f.b s
    let c ← readS f.c s
    let d ← readS f.d s
    lenLegal s (dpad || spad) c
    padLegal s dpad a
    padLegal s spad b
    holdAll [.copy (mkLaunch kind a b c.toNat d f)] s)
    (ceStops f s ++ [stopOf (readS f.c s >>= lenLegal s (dpad || spad)), stopOf (readS f.a s >>= padLegal s dpad), stopOf (readS f.b s >>= padLegal s spad)])

def execCpy (f : CE) (s : State) : Host.Outcome State Fault Refusal := issue s (cpyOp .cpy false false f s)
def execCpyg (f : CE) (s : State) : Host.Outcome State Fault Refusal := issue s (cpyOp .cpyg true false f s)
def execCpys (f : CE) (s : State) : Host.Outcome State Fault Refusal := issue s (cpyOp .cpys false true f s)
def execCpyx (f : CE) (s : State) : Host.Outcome State Fault Refusal := issue s (cpyOp .cpyx true true f s)
def execCpyo (f : CE) (s : State) : Host.Outcome State Fault Refusal := issue s (cpyOp .cpyo false false f s)

/-- Bytes of a row (13 R306). -/
def rowBytes (h : BitVec 256) : Nat :=
  if hGov h then hCols h
  else match hFmt h with
    | 0 => 4 * hCols h | 6 => 4 * hCols h | 1 => 2 * hCols h | 4 => hCols h / 2 + hCols h / 32 | _ => hCols h

/-- The handles that `cpy2` takes. -/
def rowsLegal (s : State) (h : BitVec 256) : Res Unit :=
  needLegal s (!hTrn h && (hGov h || (hFmt h != 7 && (hFmt h != 4 || hCols h % 32 = 0))))

/-- `cpy2` (13 R306). -/
def cpy2Op (f : CE) (s : State) : Res State :=
  gather (do
    let a ← readS f.a s
    let b ← readS f.b s
    let d ← readS f.d s
    let h ← readH f.h s
    rowsLegal s h
    holdAll [.copy { mkLaunch .cpy2 a (word (hBase h)) (rowBytes h) d f with
      rows := hRows h, dstStride := b, srcStride := word (hStride h) }] s)
    [stopOf (readS f.a s), stopOf (readS f.b s), stopOf (readS f.d s), stopOf (readH f.h s >>= rowsLegal s)]
def execCpy2 (f : CE) (s : State) : Host.Outcome State Fault Refusal := issue s (cpy2Op f s)

/-- Operand c of `cpyr`: bits [63:49] are 0; the rule gives no outcome for others, which are illegal at execution like the high bits of a
scratchpad operand (DESIGN CHOICE, log entry 150). -/
def remLegal (s : State) (c : Word) : Res Unit := needLegal s (bits c.toNat 63 49 = 0)

/-- `cpyr` (13 R308): a is local, b remote, c names the module and the length. -/
def cpyrOp (f : CE) (s : State) : Res State :=
  let pull := f.mode.getLsbD 0
  gather (do
    let a ← readS f.a s
    let b ← readS f.b s
    let c ← readS f.c s
    let d ← readS f.d s
    remLegal s c
    holdAll [.copy { mkLaunch .cpyr (if pull then a else b) (if pull then b else a) (bits c.toNat 31 0) d f with
      wmp := 0, wmv := 0, module := c.extractLsb' 32 17, pull := pull, rc := f.mode.getLsbD 1 }] s)
    (ceStops f s ++ [stopOf (readS f.c s >>= remLegal s)])
def execCpyr (f : CE) (s : State) : Host.Outcome State Fault Refusal := issue s (cpyrOp f s)

/-- The status word of R310. -/
def statWord (e : StatEnt) : Word := word (e.done % 2 ^ 48 + e.cause * 2 ^ 48 + e.st * 2 ^ 60)

/-- `cpyq` (13 R310). -/
def cpyqOp (f : CE) (s : State) : Res State := do
  let b ← readS f.b s
  let v := match s.stats.find? fun e => e.cl == clusterOf s.core.id && e.ctr == b with
    | some e => statWord e
    | none => word (3 * 2 ^ 60)
  .ok (produceVal f.a v s.now false s)
def execCpyq (f : CE) (s : State) : Host.Outcome State Fault Refusal := issue s (cpyqOp f s)

/-! ### Bank loads (13 R311) -/

/-- Translate words, gathering errors, with what their homes answer: poison, or a pool line that must come first. -/
def loadWords (vas : List Nat) (s : State) : (List MemErr × List Nat) × State :=
  let ((es, ps), s) := xlateAll .rd (vas.map fun va => (va, 4)) s
  let bad := ps.filterMap fun (pa, _, _) => match homeServes s (pa / 64) with
    | .error e => some e
    | .ok _ => none
  ((es ++ bad, ps.map (·.1)), s)

/-- `cpyk`: not held; the rows are translated and checked at issue. -/
def cpykOp (f : CE) (s : State) : Res State :=
  let bk := f.mode.toNat
  gather (do
    let b ← readS f.b s
    let c ← readS f.c s
    let vas := (List.range 16).map fun i => (b + sx f.imm + BitVec.ofNat 64 i * c).toNat
    let ((errs, pas), s) := loadWords (vas.flatMap fun va => (List.range 16).map (va + 4 * ·)) s
    match worstErr (errs ++ (vas.filter fun va => va % 4 != 0).map MemErr.access) with
    | some e => memStop s e
    | none =>
      need s ((seenBank s bk).lent && (seenBank s bk).toCopy) cOwner (word bk)
      let (i, s) := freshId s
      let (d, s) := freeDelay s
      let rows := (List.range 256).zip pas
      .ok (due (s.now + d) (.copyPiece i 0) { s with loads := s.loads ++ [⟨i, s.core.id, bk, rows, []⟩] }))
    [stopOf (readS f.b s), stopOf (readS f.c s)]
def execCpyk (f : CE) (s : State) : Host.Outcome State Fault Refusal := issue s (cpykOp f s)

/-- The next row of a bank load; the last one puts the image into the bank. -/
def bankRow (l : BankLoad) (s : State) : State :=
  let now16 := l.rows.take 16
  match now16.findSome? fun (_, pa) => match engServes s (pa / 64) with
    | .error e => e.again?
    | _ => none with
  | some tx => again (.copyPiece l.id 0) (askOpt tx s)
  | none =>
    let s := touchAll (now16.map fun e => e.2 / 64).eraseDups s
    let ws := now16.foldl (fun m (i, pa) => SMap.set 0 m i (rdN s pa 4)) l.words
    let rest := l.rows.drop 16
    if rest.isEmpty then
      let s := { s with loads := s.loads.filter fun x => x.id != l.id }
      let img := (List.range 256).map fun i => SMap.get 0 ws i
      onCore l.core (fun c =>
        let img := if (bankOf c l.bk).block then
            (List.range 4).flatMap fun b => bfpWords (bfpOfWords (blockWords img b)) else img
        setWords l.bk img c) s
    else
      let (d, s) := freeDelay s
      due (s.now + d) (.copyPiece l.id 0)
        { s with loads := s.loads.map fun x => if x.id = l.id then { x with rows := rest, words := ws } else x }

/-! ### Ranges and pieces (13 R304) -/

def Launch.dpad (l : Launch) : Bool := l.kind == .cpyg || l.kind == .cpyx
def Launch.spad (l : Launch) : Bool := l.kind == .cpys || l.kind == .cpyx

/-- The rows of a launch: destination, source. -/
def Launch.ranges (l : Launch) : List (Nat × Nat) :=
  (List.range l.rows).map fun r =>
    (if l.dpad then padOff l.dst else (l.dst + BitVec.ofNat 64 r * l.dstStride).toNat,
     if l.spad then padOff l.src else (l.src + BitVec.ofNat 64 r * l.srcStride).toNat)

/-- Cut a range into pieces: lines on a global side, granules on a scratchpad side. -/
def cutPieces (du su : Nat) : Nat → Nat → Nat → Nat → List Piece
  | 0, _, _, _ => []
  | fuel + 1, dst, src, n =>
    if n = 0 then []
    else
      let k := Nat.min n (Nat.min (du - dst % du) (su - src % su))
      ⟨dst, src, k, false, []⟩ :: cutPieces du su fuel (dst + k) (src + k) (n - k)

def Launch.pieces (l : Launch) : List Piece :=
  l.ranges.flatMap fun (d, s) => cutPieces (if l.dpad then 16 else 64) (if l.spad then 16 else 64) l.len d s l.len

/-! ### Launch (13 R303, R305, R307, R309, R310) -/

/-- Why an operation stops: the cause of R309 and its report. -/
structure StopWhy where
  cause : Nat
  code : Option Nat
  info : Word
deriving DecidableEq, Repr

def stopOfMem : MemErr → StopWhy
  | .trans va => ⟨3, some cTrans, word va⟩
  | .access va => ⟨4, some cAccess, word va⟩
  | .poison pa => ⟨5, some cPoison, word pa⟩
  | _ => ⟨4, some cAccess, 0⟩

/-- Why a completion counter fails at launch (13 R303, R309): it does not translate, be it that a line of its walk is poisoned, or it is
misaligned or not on a page with SYNC and W. -/
def stopOfCtr (va : Nat) : MemErr → StopWhy
  | .access a => ⟨4, some cAccess, word a⟩
  | _ => ⟨3, some cTrans, word va⟩

/-- The cores of a gang. -/
def gangCores (s : State) (tser gix : Nat) : List CoreId :=
  (((s.sched.tasks.find? fun t => t.tser == tser).bind fun t => t.gangs.find? fun g => g.gix == gix).map (·.cores)).getD []

/-- The check of a scratchpad side: the core belongs to the gang, the range to its window. -/
def padCheck (s : State) (q : LaunchQ) (w : Word) : Option StopWhy :=
  if !(gangCores s q.tser q.gix).contains (padCore w) then some ⟨4, some cAccess, w⟩
  else if q.l.len ≠ 0 && splitBytes (coreOf s (padCore w)).split < padOff w + q.l.len then some ⟨6, some cWindow, word (padOff w)⟩
  else none

/-- The 64 KiB units that n bytes from an address touch. -/
def unitsOf (va n : Nat) : List Nat := if n = 0 then [] else (List.range ((va + n - 1) / 65536 - va / 65536 + 1)).map fun i => (va / 65536 + i) * 65536

/-- Whether every mapped byte of a range lies in HBM. -/
def inHbm (s : State) (va n : Nat) : Bool :=
  (unitsOf va n).all fun a => match walk s a with
    | .ok t => !isPool (t.pa + a % 2 ^ t.bits)
    | .error _ => true

/-- The watermark mode's test (13 R307). -/
def wmAllowed (s : State) (l : Launch) : Bool :=
  match l.wmp with
  | 0 => true
  | 1 => l.ranges.all fun (d, a) => d % 256 == a % 256 && inHbm s d l.len && inHbm s a l.len
  | _ => l.ranges.all fun (d, _) => inHbm s d l.len

/-- launch_check without the counter. TRAPINFO of cause 4 is the operand of the core outside the gang, the destination of a disallowed WMP,
and the remote address of a module that is no member (DESIGN CHOICE, log entry 151). -/
def launchCheck (s : State) (q : LaunchQ) : Option StopWhy :=
  let l := q.l
  let pads := (if l.dpad then (padCheck s q l.dst).toList else []) ++ (if l.spad then (padCheck s q l.src).toList else [])
  if let some w := pads.head? then some w
  else if !wmAllowed s l then some ⟨4, some cAccess, l.dst⟩
  else if l.kind == .cpyr && !isMember s l.module then some ⟨4, some cAccess, if l.pull then l.src else l.dst⟩
  else none

/-- Write the status entry of an operation: it is then the most recently written one. -/
def setStat (op : Nat) (f : StatEnt → StatEnt) (s : State) : State :=
  { s with stats := (s.stats.filter fun e => e.op == some op).map f ++ s.stats.filter fun e => e.op != some op }

/-- The table of a switch goes on after its weight copy (18 R395, R399). -/
def switchTime (i t : Nat) (s : State) : State :=
  match s.switches.find? fun w => w.id == i with
  | some w => { s with tables := s.tables.map fun x => if x.va = w.tab then { x with t := Nat.max x.t t } else x }
  | none => s

/-- An operation ends: its engine may accept the next launch. -/
def endOp (o : Cop) (s : State) : State :=
  let s := { s with copies := s.copies.filter fun x => x.id != o.id }
  if o.sw.isNone && s.launchq.any fun q => q.cl == o.cl then due s.now (.copyLaunchAccept o.cl) s else s

/-- stop(op, cause) (13 R309). -/
def stopOpn (o : Cop) (w : StopWhy) (s : State) : State :=
  let s := setStat o.id (fun e => { e with st := 2, cause := w.cause, op := none }) s
  let s := match o.ctr with
    | some pa =>
      due s.now (.applyAdd pa o.l.ctr 0 (BitVec.ofNat 32 (0x10 + (if w.cause = 5 then 0x20 else 0))) (.task o.tser) o.t) s
    | none =>
      if o.l.rc && o.checked then
        sendG o.l.module (.add o.id o.l.ctr 0 (BitVec.ofNat 32 (0x10 + (if w.cause = 5 then 0x20 else 0))))
          { s with cfOrs := (o.id, o.tser) :: s.cfOrs }
      else s
  let s := match o.sw, w.code with
    | some i, _ => due s.now (.replicaCopyStop i) (switchTime i o.t s)
    | none, some c => reportA o.tser c w.info s
    | none, none => s
  endOp o s

/-- The end of an operation whose every piece is done: the status, then the completion add (13 R303, 23 R429). -/
def completeOp (o : Cop) (s : State) : State :=
  if o.l.rc && o.l.ctr ≠ 0 && !o.radd then
    let s := { s with copies := s.copies.map fun x => if x.id = o.id then { x with radd := true } else x }
    sendG o.l.module (.add o.id o.l.ctr (word o.l.amt) 0) s
  else
    let s := setStat o.id (fun e => { e with st := 1, op := none }) s
    let s := match o.ctr with
      | some pa => due s.now (.applyAdd pa o.l.ctr (word o.l.amt) 0 (.task o.tser) o.t) s
      | none => s
    let s := match o.sw with
      | some i => due s.now (.replicaCopyDone i) (switchTime i o.t s)
      | none => s
    endOp o s

/-- Ask for the next piece: in order for `cpyo`, else any (13 R304). -/
def nextPiece (o : Cop) (s : State) : State :=
  if o.pieces.isEmpty then completeOp o s
  else
    let (d, s) := freeDelay s
    let k := if o.l.kind == .cpyo then 0 else Config.freeChoice s.free % o.pieces.length
    due (s.now + d) (.copyPiece o.id k) s

/-- Start an accepted operation: its counter, its checks, then its pieces. A counter that fails stops the operation alone; a check that
fails with a good counter reaches the counter (13 R303, R309). -/
def startOp (o : Cop) (q : LaunchQ) (s : State) : State :=
  let go (o : Cop) (s : State) : State :=
    match launchCheck s q with
    | some w => stopOpn o w s
    | none => nextPiece o s
  if q.l.ctr = 0 then go o s
  else if q.l.rc then
    match launchCheck s q with
    | some w => stopOpn o w s
    | none => sendG q.l.module (.check o.id q.l.ctr) s
  else match engCounter s q.l.ctr.toNat with
    | .error e => stopOpn o (stopOfCtr q.l.ctr.toNat e) s
    | .ok pa =>
      let o := { o with ctr := some pa, checked := true }
      go o { s with copies := s.copies.map fun x => if x.id = o.id then o else x }

/-- Take a status entry for a counter: its own, a free one, or the least recently written one of no running operation. -/
def takeStat (cl : ClusterId) (ctr : Word) (op : Nat) (s : State) : Option State :=
  let new : StatEnt := ⟨cl, ctr, 0, 0, 0, some op⟩
  let mine := s.stats.filter fun e => e.cl == cl
  if mine.any fun e => e.ctr == ctr then
    some { s with stats := new :: s.stats.filter fun e => !(e.cl == cl && e.ctr == ctr) }
  else if mine.length < 32 then some { s with stats := new :: s.stats }
  else match (mine.filter fun e => e.op.isNone).getLast? with
    | none => none
    | some old => some { s with stats := new :: s.stats.filter fun e => !(e.cl == cl && e.ctr == old.ctr) }

/-- COPY_LAUNCH_ACCEPT: the cluster's engine accepts its oldest launch, when it has an operation and a status entry free. -/
def execCopyLaunchAccept (cl : ClusterId) (s : State) : Host.Outcome State Fault Refusal :=
  match s.launchq.find? fun q => q.cl == cl with
  | none => .next s
  | some q =>
    if 16 ≤ (s.copies.filter fun o => o.cl == cl && o.sw.isNone).length then .next s
    else
      let (i, s') := freshId s
      match (if q.l.ctr = 0 then some s' else takeStat cl q.l.ctr i s') with
      | none => .next s
      | some s =>
        let s := { s with launchq := s.launchq.eraseP fun x => x.cl == cl }
        let o : Cop := ⟨i, cl, q.core, q.tser, q.gix, q.l, q.l.pieces, 0, q.t, none, false, false, none⟩
        let s := if s.launchq.any fun x => x.cl == cl then due s.now (.copyLaunchAccept cl) s else s
        .next (startOp o q { s with copies := s.copies ++ [o] })

/-- A strand whose region's launches are not all accepted issues no bundle (13 R303). -/
def launchWaiting (c : CoreId) (s : State) : Bool := s.launchq.any fun q => q.core == c

/-! ### Pieces -/

/-- A piece's source bytes, by its own read, with the time of the read and what it leaves at the home (12 R285). -/
def pieceRead (o : Cop) (p : Piece) (s : State) : Except (Option PoolTx × Option StopWhy) (List Byte × Nat × State) :=
  if o.l.spad then
    .ok ((offsFrom p.src p.n).map (fun k => SMap.get 0 (coreOf s (padCore o.l.src)).scratch k), o.t, s)
  else match engXlate s .rd p.src with
    | .error e => .error (none, some (stopOfMem e))
    | .ok pa =>
      if isPool pa && !(portOf s pa).up then .error (none, some ⟨2, none, 0⟩)
      else match engServes s (pa / 64) with
        | .error (.fetch tx) => .error (some tx, none)
        | .error .wait => .error (none, none)
        | .error e => .error (none, some (stopOfMem e))
        | .ok _ => .ok (rdBytes s pa p.n, engRead (pa / 64) o.t s)

/-- An operation's later pieces and its completion add come after time t. -/
def copyTime (o : Cop) (t : Nat) (s : State) : Cop × State :=
  let o := { o with t := Nat.max o.t t }
  (o, { s with copies := s.copies.map fun x => if x.id = o.id then o else x })

/-- Whether an operation writes every byte of a leaf. -/
def leafCovered (l : Launch) (leaf : Nat) : Bool :=
  let rs := l.ranges
  (List.range 256).all fun b => rs.any fun (d, _) => d ≤ leaf + b && leaf + b < d + l.len

/-- A piece is the last one of a leaf that its operation writes in full, and so sets the leaf's watermark (13 R307). -/
def marksLeaf (o : Cop) (p : Piece) (pa : Nat) : Bool :=
  o.l.wmp != 0 && !isPool pa && leafCovered o.l (p.dst / 256 * 256) && !(o.pieces.erase p).any fun q => q.dst / 256 == p.dst / 256

/-- The lines of the leaf of an address (11 R262). -/
def leafLines (pa : Nat) : List Nat := (List.range 4).map (pa / 256 * 4 + ·)

/-- The lines that a piece writes: its own, and all four of the leaf whose watermark it sets, for the mark is part of each (11 R262). -/
def pieceLines (o : Cop) (p : Piece) (pa : Nat) : List Nat := if marksLeaf o p pa then leafLines pa else [pa / 64]

/-- The watermark that the piece sets: under WMP = 1 its own source leaf's, also where other pieces of the leaf came from another source leaf
(DESIGN CHOICE, log entry 42). -/
def pieceMark (o : Cop) (p : Piece) (pa : Nat) (s : State) : State :=
  if !marksLeaf o p pa then s
  else
    let v := if o.l.wmp = 2 then o.l.wmv
      else match engXlate s .rd p.src with
        | .ok a => leafMark s a
        | .error _ => 0
    { s with wm := SMap.set 0 s.wm (pa / 256) v }

/-- A piece is done: bytes counted, the next one asked for. -/
def pieceDone (o : Cop) (p : Piece) (t : Nat) (s : State) : State :=
  let o := { o with pieces := o.pieces.erase p, done := o.done + p.n, t := Nat.max o.t t }
  let s := setStat o.id (fun e => { e with done := o.done }) { s with copies := s.copies.map fun x => if x.id = o.id then o else x }
  nextPiece o s

/-- Write bytes into a global line and go on. -/
def pieceGlobal (o : Cop) (p : Piece) (pa : Nat) (bs : List Byte) (s : State) : State :=
  let ls := pieceLines o p pa
  let t := ls.foldl (fun t l => Nat.max t (afterLine s l o.t)) 0
  let s := stampLine (pa / 64) t (p.n == 64) (wrBytes pa bs s)
  let s := (ls.erase (pa / 64)).foldl (fun s l => stampLine l t false s) s
  pieceDone o p t (pieceMark o p pa s)

/-- Mark the k-th remaining piece as out, with the bytes in hand for it. -/
def markOut (o : Cop) (k : Nat) (bs : List Byte) (s : State) : State :=
  { s with copies := s.copies.map fun x =>
      if x.id = o.id then { x with pieces := x.pieces.modify k fun q => { q with out := true, bs := bs } } else x }

/-- A piece's write. A pool line is written through to its pool, whose refusal stops the operation (13 R309, 23 R430). -/
def pieceWrite (o : Cop) (p : Piece) (k : Nat) (bs : List Byte) (s : State) : State :=
  if o.l.dpad then
    let s := landMcs s
    let os := offsFrom p.dst p.n
    let s := onCore (padCore o.l.dst) (writeScratch (os.zip bs) ((granulesOf os).map fun g => (g, true))) s
    pieceDone o p o.t s
  else match engXlate s .wr p.dst with
    | .error e => stopOpn o (stopOfMem e) s
    | .ok pa =>
      if isPool pa && !(portOf s pa).up then stopOpn o ⟨2, none, 0⟩ s
      else match lineReady s (pa / 64) (p.n == 64) none with
        | .poison => stopOpn o ⟨5, some cPoison, word (pa / 64 * 64)⟩ s
        | .wait => again (.copyPiece o.id k) s
        | .fetch tx => again (.copyPiece o.id k) (askPool tx s)
        | .ok =>
          if isPool pa then
            askPool (.wr (pa / 64) (.copy o.id)) (markOut o k bs s)
          else if (pieceLines o p pa).any fun l => lineReady s l true none == .wait then again (.copyPiece o.id k) s
          else pieceGlobal o p pa bs s

/-- A piece: a read that a remote module is asked for, or a local read, then the write, local or remote. -/
def runPiece (o : Cop) (p : Piece) (k : Nat) (s : State) : State :=
  if o.l.kind == .cpyr && o.l.pull then
    sendG o.l.module (.read o.id k (word p.src) p.n) (markOut o k [] s)
  else match pieceRead o p s with
    | .error (some tx, _) => again (.copyPiece o.id k) (askPool tx s)
    | .error (none, some w) => stopOpn o w s
    | .error (none, none) => again (.copyPiece o.id k) s
    | .ok (bs, t, s) =>
      let (o, s) := copyTime o t s
      if o.l.kind == .cpyr then sendG o.l.module (.write o.id k (word p.dst) bs) (markOut o k [] s)
      else pieceWrite o p k bs s

/-- COPY_PIECE: the k-th remaining piece of a copy, or the next row of a bank load. -/
def execCopyPiece (op : Nat) (k : Nat) (s : State) : Host.Outcome State Fault Refusal :=
  match s.loads.find? fun l => l.id == op with
  | some l => .next (bankRow l s)
  | none =>
    match s.copies.find? fun o => o.id == op with
    | none => .next s
    | some o =>
      match o.pieces[k]? with
      | none => .next s
      | some p => .next (if !p.out then runPiece o p k s else if o.l.pull && !p.bs.isEmpty then pieceWrite o p k p.bs s else s)

end Sys2Proof.Machine
end

