-- ==== Sys2Proof/Machine/Tensor.lean ====
section
/-! DEFINITION. The scale governor (14 R314-R334, R458): core-local deltas and their flush, the states of a pass, the decision and the
publication, and the five Y-slot instructions. -/

namespace Sys2Proof.Machine

/-! ### The record at its home (14 R314-R317) -/

/-- A field of the control word. -/
def ctlField (s : State) (pa hi lo : Nat) : Nat := bits (rdN s pa 8) hi lo
def setCtl (pa lo w v : Nat) (s : State) : State :=
  let n := rdN s pa 8
  wrN pa 8 (n - bits n (lo + w - 1) lo * 2 ^ lo + v % 2 ^ w * 2 ^ lo) s
/-- A bin, and its update, saturating. -/
def recBin (s : State) (pa k : Nat) : Nat := rdN s (pa + 24 + 2 * k) 2
def setBin (pa k v : Nat) (s : State) : State := wrN (pa + 24 + 2 * k) 2 (Nat.min v 65535) s
/-- LATE, bits [111:96] of bytes 104-127. -/
def recLate (s : State) (pa : Nat) : Nat := rdN s (pa + 116) 2

/-- A record has a poisoned line. -/
def recPoisoned (s : State) (pa : Nat) : Bool := poisoned s (pa / 64) || poisoned s (pa / 64 + 1)

/-- The physical address of the record's poisoned line. -/
def recBadLine (s : State) (pa : Nat) : Nat := if poisoned s (pa / 64) then pa / 64 * 64 else pa / 64 * 64 + 64

/-- Halve the bins while UPD has reached the window (14 R321). -/
def halve (pa w : Nat) : Nat → State → State
  | 0, s => s
  | n + 1, s =>
    let u := rdN s (pa + 92) 4
    if u < 2 ^ (10 + w) then s
    else halve pa w n (wrN (pa + 92) 4 (u - 2 ^ (10 + w)) ((List.range 34).foldl (fun s k => setBin pa k (recBin s pa k / 2) s) s))

/-- Counts without those of another map, and with them. -/
def countSub (a b : SMap Nat) : SMap Nat := b.foldl (fun m (k, c) => SMap.set 0 m k (SMap.get 0 m k - c)) a
def countAdd (a b : SMap Nat) : SMap Nat := b.foldl (fun m (k, c) => SMap.set 0 m k (SMap.get 0 m k + c)) a

/-- Add counts to LATE, saturating (14 R321). -/
def addLate (pa n : Nat) (s : State) : State := if n = 0 then s else wrN (pa + 116) 2 (Nat.min (recLate s pa + n) 65535) s

/-- A record's statistics have changed: its lines are modified in their slice, and no WTS rises (14 R322). -/
def modRec (pa : Nat) (s : State) : State := modLine (pa / 64 + 1) false (modLine (pa / 64) false s)

/-- apply_flush (14 R321, R324, R458): an OPEN record, or one whose close the flush belongs to, takes the counts of regions that committed
while it was OPEN; every other count is late. -/
def applyFlush (d : Delta) (s : State) : State :=
  let st := ctlField s d.pa 39 36
  if recPoisoned s d.pa then reportA d.tser cPoison (word (recBadLine s d.pa)) s
  else if st ≠ 1 && st ≠ 2 then modRec d.pa (addLate d.pa (countSum d.counts) s)
  else
    let counts := countSub d.counts d.late
    let n := countSum counts
    let s := addLate d.pa (countSum d.late) s
    let s := counts.foldl (fun s (k, c) => setBin d.pa k (recBin s d.pa k + c) s) s
    let s := wrN (d.pa + 96) 8 (rdN s (d.pa + 96) 8 + n) s
    let s := wrN (d.pa + 92) 4 (rdN s (d.pa + 92) 4 + n) s
    let w := ctlField s d.pa 35 32
    modRec d.pa (halve d.pa w (rdN s (d.pa + 92) 4 / 2 ^ (10 + w)) s)

/-! ### Deltas (14 R320) -/

/-- Flush one delta slot of the focused core. -/
def flushSlot (pa : Nat) (s : State) : State :=
  match s.core.delta.find? fun d => d.pa == pa with
  | none => s
  | some d => applyFlush d (mapCore (fun c => { c with delta := c.delta.filter fun e => e.pa != pa }) s)

/-- Flush every slot of the focused core. -/
def flushDeltas (s : State) : State := s.core.delta.foldl (fun s d => flushSlot d.pa s) s

/-- Add a histogram piece committed at logical time t to the core's slot for its record. -/
def addDelta (pa : Nat) (counts : SMap Nat) (tser t : Nat) (s : State) : State :=
  let s := if s.core.delta.any (fun d => d.pa == pa) || s.core.delta.length < 4 then s
    else match s.core.delta.getLast? with
      | some d => flushSlot d.pa s
      | none => s
  let old := (s.core.delta.find? fun d => d.pa == pa).getD ⟨pa, tser, [], []⟩
  let st := ctlField s pa 39 36
  let late := st != 1 && !(st == 2 && s.closes.any fun x => x.op.pa == pa && decide (t < x.op.t))
  let new : Delta := { old with
    tser := tser, counts := countAdd old.counts counts, late := if late then countAdd old.late counts else old.late }
  let s := mapCore (fun c => { c with delta := new :: c.delta.filter fun d => d.pa != pa }) s
  if new.counts.any fun e => 2 ^ 15 ≤ e.2 then flushSlot pa s else s

/-- DELTA_FLUSH: a core flushes one of its slots. -/
def execDeltaFlush (c : CoreId) (slot : Nat) (s : State) : Host.Outcome State Fault Refusal :=
  let k := s.core.id
  let t := focus c s
  match t.core.delta[slot]? with
  | some d => .next (focus k (flushSlot d.pa t))
  | none => .next s

/-! ### The decision (14 R325, R326) -/

/-- A policy entry. -/
structure Policy where
  tail : Nat
  fltf : Nat
  tgt : Nat
  hyst : Nat
  upmax : Nat
  dnmax : Nat
  ae4 : Bool
  ae5 : Bool
  amx : Bool
  ksw : Nat
  emin : Int
  emax : Int
  mincnt : Nat
deriving DecidableEq, Repr

/-- A policy entry from its 16 bytes; none when malformed. -/
def policyOf (n : Nat) : Option Policy :=
  let p : Policy := ⟨bits n 15 0, bits n 31 16, bits n 36 32, bits n 40 37, bits n 44 41, bits n 48 45, bit n 49, bit n 50, bit n 51,
    bits n 55 52, sint 8 (bits n 71 64), sint 8 (bits n 79 72), bits n 111 80⟩
  if p.tgt ≤ 29 && 1 ≤ p.upmax && 1 ≤ p.dnmax && 1 ≤ p.ksw && bits n 63 56 = 0 && bits n 127 112 = 0 && p.emin ≤ p.emax then some p
  else none

/-- The physical address of a record's policy entry, in the table of its owner's RCB: none where POL = 0 or the owner is no region. -/
def policyAt (s : State) (pa : Nat) : Option Nat :=
  if ctlField s pa 15 8 = 0 then none
  else (s.sched.regions.find? fun r => r.rnum == ctlField s pa 63 48).map fun r => r.pol + 16 * (ctlField s pa 15 8 - 1)

/-- A line that gives its readers poison: it is marked, or its port is out of service (23 R433). -/
def givesPoison (s : State) (line : Nat) : Bool := match homeServes s line with | .error (.poison _) => true | _ => false

/-- The policy that applies to a record: manual with POL = 0 (none), malformed or without a table (some none), or an entry. An entry that
reads as poison counts as malformed (DESIGN CHOICE, log entry 149). -/
def recPolicy (s : State) (pa : Nat) : Option (Option Policy) :=
  if ctlField s pa 15 8 = 0 then none
  else match policyAt s pa with
    | none => some none
    | some p => some (if givesPoison s (p / 64) then none else policyOf (rdN s p 16))

/-- The governor's read of the policy entry waits for a commit that has its line reserved, and for its pool (12 R285, 23 R431). -/
def policyWait (s : State) (pa : Nat) : Option (Option PoolTx) :=
  match (policyAt s pa).map fun p => engServes s (p / 64) with
  | some (.error e) => e.again?
  | _ => none

/-- The governor has read the policy entry, at a time later than t. -/
def readPolicy (pa t : Nat) (s : State) : Nat × State :=
  match policyAt s pa with
  | some p => engRead (p / 64) t s
  | none => (t, s)

/-- A region's read of the policy entry, as part of `tmgov` (14 R334): it takes no lease. -/
def policyServes (pa : Nat) (s : State) : Except MemErr State :=
  match policyAt s pa with
  | some p => do
    homeServes s (p / 64)
    .ok (touchLine (p / 64) false s)
  | none => .ok s

/-- What the governor decides. -/
structure Decision where
  e : Int
  f : Nat
  e2 : Int
  f2 : Nat
  dstar : Int
  spread : Nat
  fault : Bool
  small : Bool
  man : Bool
  malp : Bool
  pend : Nat
  streak : Nat
  sum : Nat
  o : Nat
deriving DecidableEq, Repr

/-- The candidate table of R326. -/
def candidate (f spread : Nat) (p : Policy) : Option Nat :=
  match f with
  | 2 => if 15 < spread && p.ae5 then some 3 else if spread < 6 && p.amx then some 4 else none
  | 3 => if spread < 6 && p.amx then some 4 else if spread ≤ 12 && p.ae4 then some 2 else none
  | 4 => if 6 ≤ spread && spread ≤ 15 && p.ae4 then some 2 else if 6 ≤ spread && p.ae5 then some 3
         else if 6 ≤ spread && p.ae4 then some 2 else none
  | _ => none

/-- d*: the first headroom at which the running sum passes the tail. -/
def headroom (hs : List Nat) (tail : Nat) (ds : List Nat) (start : Nat) (dflt : Int) : Int :=
  (ds.foldl (fun (acc : Nat × Option Int) d =>
    let c := acc.1 + hs.getD d 0
    (c, if acc.2.isSome then acc.2 else if tail < c then some (d : Int) else none)) (start, none)).2.getD dflt

/-- decide (14 R326). -/
def decideRec (s : State) (pa : Nat) : Decision :=
  let en := (recOf pa (rdBytes s pa 24)).current.getD ⟨0, 0, 2⟩
  let hs := (List.range 30).map fun d => recBin s pa (d + 1)
  let o := recBin s pa 0
  let u := recBin s pa 31
  let sum := o + hs.foldl (· + ·) 0 + u
  let pend := ctlField s pa 7 4
  let streak := bits (rdN s (pa + 104) 8) 55 52
  let manual (malp : Bool) : Decision := ⟨en.e, en.f, en.e, en.f, 31, 0, false, false, true, malp, pend, streak, sum, o⟩
  match recPolicy s pa with
  | none => manual false
  | some none => manual true
  | some (some p) =>
    let tail := p.tail * sum / 65536
    let flt := p.fltf * sum / 65536
    let dstar : Int := if tail < o then -1 else headroom hs tail (List.range 30) o 30
    let dlo : Int := if tail < u then 30 else headroom hs tail (List.range 30).reverse u (-1)
    let spread := (dlo - dstar + 1).toNat
    let fault := p.fltf ≠ 0 && flt < o
    if sum < p.mincnt then ⟨en.e, en.f, en.e, en.f, dstar, spread, fault, true, false, false, pend, streak, sum, o⟩
    else
      let cand := candidate en.f spread p
      let (pend, streak) := match cand with
        | none => (15, 0)
        | some c => if c = pend then (pend, Nat.min (streak + 1) 15) else (c, 1)
      let sw := cand.isSome && p.ksw ≤ streak
      let f2 := if sw then cand.getD en.f else en.f
      let (pend, streak) := if sw then (15, 0) else (pend, streak)
      let h := dstar + emaxOf f2 - emaxOf en.f
      let e2 := if h < p.tgt then en.e + Min.min ((p.tgt : Int) - h) p.upmax
        else if (p.tgt : Int) + p.hyst < h then en.e - Min.min (h - p.tgt) p.dnmax
        else en.e
      let e2 := Min.min (Max.max e2 p.emin) p.emax
      ⟨en.e, en.f, e2, f2, dstar, spread, fault, false, false, false, pend, streak, sum, o⟩

/-! ### Publication (14 R327, R328) -/

/-- The version after v. -/
def nextVer (v : Nat) : Nat := if v = 65535 then 4 else v + 1

/-- The shift of the headroom bins. -/
def shiftBins (pa : Nat) (sh : Int) (s : State) : State :=
  let hs := (List.range 30).map fun d => recBin s pa (d + 1)
  let at_ (j : Int) : Nat := if 0 ≤ j && j < 30 then hs.getD j.toNat 0 else 0
  let low := ((List.range 30).filter fun (d : Nat) => decide ((d : Int) + sh < 0)).foldl (fun a d => a + hs.getD d 0) 0
  let high := ((List.range 30).filter fun (d : Nat) => decide ((29 : Int) < (d : Int) + sh)).foldl (fun a d => a + hs.getD d 0) 0
  let o := recBin s pa 0
  let u := recBin s pa 31
  let s := (List.range 30).foldl (fun s j => setBin pa (j + 1) (at_ ((j : Int) - sh)) s) s
  setBin pa 31 (u + high) (setBin pa 0 (o + low) s)

/-- One publication at logical time t, as one write. -/
def publish (pa t : Nat) (d : Decision) (st : Nat) (s : State) : State :=
  let v := nextVer (ctlField s pa 31 16)
  let s := wrN (pa + 8 + 4 * (v % 4)) 4 (v + ubits 8 d.e2 * 65536 + d.f2 * 2 ^ 24) s
  let s := setCtl pa 16 16 v (setCtl pa 0 4 d.f2 (setCtl pa 4 4 d.pend (setCtl pa 36 4 st s)))
  let s := if d.fault then setCtl pa 40 8 (Nat.min (ctlField s pa 47 40 + 1) 255) s else s
  let rec1 := v + ubits 8 d.e * 2 ^ 16 + ubits 8 d.e2 * 2 ^ 24 + d.f * 2 ^ 32 + d.f2 * 2 ^ 36 + ubits 6 d.dstar * 2 ^ 40 +
    d.spread % 64 * 2 ^ 46 + d.streak * 2 ^ 52 + b2n d.fault * 2 ^ 56 + b2n d.man * 2 ^ 57 + b2n d.malp * 2 ^ 58 +
    b2n d.small * 2 ^ 59
  let s := wrN (pa + 104) 8 rec1 s
  let s := wrN (pa + 112) 8 (d.sum % 2 ^ 32 + d.o * 2 ^ 48) s
  let s := wrN (pa + 120) 8 t s
  let s := shiftBins pa (d.e2 - d.e + (emaxOf d.f2 - emaxOf d.f)) s
  stampLine (pa / 64 + 1) t false (stampLine (pa / 64) t false s)

/-! ### The states of a pass (14 R323, R324) -/

/-- The counter add of a completed operation, or the flags of a refused one. -/
def tmCtr (op : TmOp) (n fl t : Nat) (s : State) : State :=
  match op.ctr with
  | none => s
  | some (pa, va) => due s.now (.applyAdd pa va (word n) (BitVec.ofNat 32 fl) (.task op.tser) t) s

def tmDone (op : TmOp) (t : Nat) (s : State) : State := tmCtr op op.n 0 t s
def tmRefuse (op : TmOp) (fl t : Nat) (s : State) : State := tmCtr op 0 fl t s

/-- The value `tmgov` returns (14 R334). -/
def govValue (s : State) (pa : Nat) : Word :=
  let d := decideRec s pa
  word (ubits 8 d.e2 + d.f2 * 256 + ubits 6 d.dstar * 4096 + d.spread % 64 * 2 ^ 18 + b2n d.fault * 2 ^ 24 +
    b2n (d.f2 != d.f) * 2 ^ 25 + d.sum % 2 ^ 32 * 2 ^ 32)

/-- Give a waiting `tmgov` its value. -/
def govLand (c : CoreId) (id : Nat) (v : Word) (s : State) : State :=
  due s.now (.variableLatencyResult c id) (onCore c (fun k => { k with st := { k.st with
    vls := k.st.vls.map fun r => if r.id = id then { r with val := some (v.setWidth 256) } else r } }) s)

/-- Begin a close (14 R324): the record is CLOSING and every core is asked to flush. -/
def beginClose (op : TmOp) (t : Nat) (s : State) : State :=
  let s := stampLine (op.pa / 64) t false (setCtl op.pa 36 4 2 s)
  let cs := (allCores s).map (·.id)
  let (d, s) := freeDelay s
  let s := { s with closes := s.closes ++ [⟨{ op with t := t }, cs⟩] }
  cs.foldl (fun s c => due (s.now + d % 30001) (.flushRequest c op.pa) s) s

/-- The effect of `tmset` (14 R333). -/
def tmField (op : TmOp) (fld : Nat) (v : Word) (t : Nat) (s : State) : State :=
  match fld with
  | 0 => stampLine (op.pa / 64) t false (setCtl op.pa 8 8 v.toNat s)
  | 1 => stampLine (op.pa / 64) t false (setCtl op.pa 32 4 v.toNat s)
  | 2 =>
    let d := decideRec s op.pa
    publish op.pa t { d with
      e2 := sint 8 (bits v.toNat 7 0), f2 := bits v.toNat 11 8, dstar := 31, spread := 0, fault := false, small := false, man := true,
      malp := false, pend := ctlField s op.pa 7 4, streak := bits (rdN s (op.pa + 104) 8) 55 52 } 0 s
  | _ =>
    let s := (List.range 34).foldl (fun s k => setBin op.pa k 0 s) s
    let s := wrN (op.pa + 96) 8 0 (wrN (op.pa + 92) 4 0 s)
    let n := rdN s (op.pa + 104) 8
    let s := wrN (op.pa + 104) 8 (n - bits n 55 52 * 2 ^ 52) s
    stampLine (op.pa / 64 + 1) t false (stampLine (op.pa / 64) t false (setCtl op.pa 4 4 15 s))

/-- A leased read of a line at its home, whatever copy the core holds; a copy that the region has read and that has since changed still
fails the region's validation. -/
def homeRead (line : Nat) (s : State) : Except MemErr State := do
  let old := s.core.l1.find? fun l => l.pa == 64 * line
  let s := mapCore (fun c => { c with l1 := c.l1.filter fun l => l.pa != 64 * line }) s
  let c ← (match old with
    | some l => if l.rd && l.lease < (dirOf s line).wts then
        match rvtAdd line l.lease s.core with | some c => .ok c | none => .error .overflow
      else .ok s.core
    | none => .ok s.core : Except MemErr Core)
  let (_, s) ← regionLine line false { s with core := c }
  .ok s

/-- A waiting `tmgov` at the publication: its region leases the record's first line and takes the value; a read that fails there fails
the region's validation, and one that the read-victim table has no room for re-executes the region pinned at once (12 R279). A poisoned
record gives its reader the poison fault (23 R433, 14 R458). -/
def govWakes (c : CoreId) (id : Nat) (pc : BPc) (pa : Nat) (s : State) : State :=
  let k := s.core.id
  let t := focus c s
  if !(t.core.st.vls.any fun r => r.id == id) then s
  else if recPoisoned s pa then
    focus k (takeTrap finishSaves ⟨cPoison, word (recBadLine s pa), some 7⟩ (mapArch (fun a => { a with pc := pc }) t))
  else match homeRead (pa / 64) t >>= policyServes pa with
    | .ok t => focus k (govLand c id (govValue t pa) t)
    | .error .overflow => focus k (rollbackPinned t)
    | .error _ => focus k (govLand c id (govValue t pa) (mapCore (fun c => { c with stale := true }) t))

/-- An operation at its record's home at logical time t (14 R323, R458). One that changes nothing reads the record at t all the same. -/
def applyTm (t : Nat) (op : TmOp) (s : State) : State :=
  match op.k with
  | .gov c id pc =>
    if ctlField s op.pa 39 36 = 2 && !recPoisoned s op.pa then { s with tmq := s.tmq ++ [op] }
    else govWakes c id pc op.pa s
  | k =>
    let s := readStamp (op.pa / 64 + 1) t (readStamp (op.pa / 64) t s)
    if recPoisoned s op.pa then
      tmRefuse op 0x28 t (reportA op.tser cPoison (word (recBadLine s op.pa)) s)
    else
      let st := ctlField s op.pa 39 36
      if st = 2 then { s with tmq := s.tmq ++ [{ op with t := t }] }
      else match k with
        | .opn =>
          if st = 0 then
            tmDone op t (stampLine (op.pa / 64) t false (modLine (op.pa / 64 + 1) false (setCtl op.pa 36 4 1 (wrN (op.pa + 96) 8 0 s))))
          else if st = 1 then tmDone op t s
          else tmRefuse op 8 t s
        | .cls =>
          if st = 1 then beginClose op t s
          else if st = 3 then tmCtr op op.n 8 t s
          else tmDone op t s
        | .flt =>
          if st = 3 then tmDone op t (stampLine (op.pa / 64) t false (setCtl op.pa 36 4 0 s))
          else tmDone op t s
        | .set fld v =>
          if 2 ≤ fld && st ≠ 0 then tmRefuse op 8 t s
          else tmDone op t (tmField op fld v t s)
        | .gov .. => s

/-- FLUSH_REQUEST: a core flushes its slot for a closing record, once no commit is in progress on it, and answers (14 R324). -/
def execFlushRequest (c : CoreId) (rec : Nat) (s : State) : Host.Outcome State Fault Refusal :=
  if (coreOf s c).commit.isSome then .next (again (.flushRequest c rec) s)
  else
    let k := s.core.id
    let s := focus k (flushSlot rec (focus c s))
    let s := { s with closes := s.closes.map fun (x : Close) => if x.op.pa = rec then { x with todo := x.todo.filter (· != c) } else x }
    .next (if s.closes.any fun x => x.op.pa == rec && x.todo.isEmpty then due s.now (.closePublication rec) s else s)

/-- The time of an operation that waited for a publication, later than t and than every lease on the record (12 R270, R277). -/
def tmTime (s : State) (o : TmOp) (t : Nat) : Nat :=
  Nat.max (afterLine s (o.pa / 64) (Nat.max t o.t)) (afterLine s (o.pa / 64 + 1) (Nat.max t o.t))

/-- Apply the operations that waited for a publication at time t, in order and at rising times; a `tmgov` reads by a lease. -/
def drainTm (pa t : Nat) (s : State) : State :=
  let step (acc : Nat × State) (o : TmOp) : Nat × State :=
    match o.k with
    | .gov .. => (acc.1, applyTm acc.1 o acc.2)
    | _ =>
      let u := tmTime acc.2 o acc.1
      (u, applyTm u o acc.2)
  ((s.tmq.filter fun o => o.pa == pa).foldl step (t, { s with tmq := s.tmq.filter fun o => o.pa != pa })).2

/-- The publication that ends a close (14 R326-R328). -/
def publishClose (x : Close) (s : State) : State :=
  let pa := x.op.pa
  let (t, s) := readPolicy pa (Nat.max (afterLine s (pa / 64) x.op.t) (afterLine s (pa / 64 + 1) x.op.t)) s
  let d := decideRec s pa
  let s := { s with closes := s.closes.filter fun y => y.op.pa != pa }
  let s := publish pa t d (if d.fault then 3 else 0) s
  let s := if d.fault then reportA x.op.tser cTensor x.op.ref s else s
  drainTm pa t (tmCtr x.op x.op.n (if d.fault then 8 else 0) t s)

/-- CLOSE_PUBLICATION. -/
def execClosePublication (rec : Nat) (s : State) : Host.Outcome State Fault Refusal :=
  match s.closes.find? fun x => x.op.pa == rec && x.todo.isEmpty with
  | none => .next s
  | some x =>
    .next (match policyWait s rec with
      | some tx => again (.closePublication rec) (askOpt tx s)
      | none => whenReady (rec / 64) false (.closePublication rec) id
        (whenReady (rec / 64 + 1) false (.closePublication rec) id (publishClose x)) s)

/-! ### Instructions (14 R330-R334) -/

/-- The checks of a held instruction at issue: its record, then its counter. -/
def tmChecks (f : YA) (s : State) : Res ((Nat × Word × Option (Nat × Word)) × State) := do
  let h ← readH f.h s
  let ref := hTmr h
  let a ← readS f.a s
  let (pa, s) ← liftMem s (checkRec ref s)
  if f.a.extractLsb' 0 5 = 0 then .ok ((pa, word ref, none), s)
  else
    let (c, s) ← ctrAddr .ctrWr a s
    .ok ((pa, word ref, some (c, a)), s)

def tmStops (f : YA) (s : State) : List (Option Stop) :=
  [stopOf (readH f.h s), stopOf (readS f.a s), stopOf (readS f.b s),
   stopOf (do let h ← readH f.h s; liftMem s (checkRec (hTmr h) s)),
   (if f.a.extractLsb' 0 5 = 0 then none else stopOf (do let a ← readS f.a s; ctrAddr .ctrWr a s))]

def tmHeld (k : TmKind) (f : YA) (s : State) : Res State :=
  gather (do
    let ((pa, ref, ctr), s) ← tmChecks f s
    holdAll [.tm pa ref ctr f.imm.toNat k []] s) (tmStops f s)

def execTmopn (f : YA) (s : State) : Host.Outcome State Fault Refusal := issue s (tmHeld .opn f s)
def execTmcls (f : YA) (s : State) : Host.Outcome State Fault Refusal := issue s (tmHeld .cls f s)
def execTmflt (f : YA) (s : State) : Host.Outcome State Fault Refusal := issue s (tmHeld .flt f s)

/-- The value range of `tmset` (14 R333). -/
def tmsetOk (fld : Nat) (v : Word) : Bool :=
  match fld with
  | 0 => v.toNat ≤ 16
  | 1 => v.toNat ≤ 15
  | 2 => v.toNat < 4096 && govFmt (bits v.toNat 11 8)
  | _ => v == 0

def tmsetOp (f : YA) (s : State) : Res State :=
  gather (do
    let v ← readS f.b s
    needLegal s (tmsetOk f.ctl.toNat v)
    tmHeld (.set f.ctl.toNat v) f s) (tmStops f s)
def execTmset (f : YA) (s : State) : Host.Outcome State Fault Refusal := issue s (tmsetOp f s)

/-- `tmgov` (14 R334): a leased read of the record's first line, made at its home, and a read of the policy entry; in a close it waits there
(14 R323). -/
def tmgovOp (f : YA) (s : State) : Res State := do
  let h ← readH f.h s
  let (pa, s) ← liftMem s (checkRec (hTmr h) s)
  need s (!recPoisoned s pa) cPoison (word (recBadLine s pa))
  if ctlField s pa 39 36 = 2 then
    let (i, s) := produceS f.c none s.now false false s
    .ok { s with tmq := s.tmq ++ [⟨pa, word (hTmr h), none, 0, .gov s.core.id i s.core.st.a.pc, ownTser s, 0⟩] }
  else
    let s ← liftMem s (homeRead (pa / 64) s)
    let s ← liftMem s (policyServes pa s)
    .ok (produceVal f.c (govValue s pa) s.now false s)
def execTmgov (f : YA) (s : State) : Host.Outcome State Fault Refusal := issue s (tmgovOp f s)

end Sys2Proof.Machine
end

