-- ==== Sys2Proof/Machine/Commit.lean ====
section
/-! DEFINITION. Region commit (12 R272-R285; 01 R22, R26, R31, R43, R44): the checkpoint, reservations, renewals and the apply at each
home, failed validations, pinned mode, and the launch of a region's held engine operations. -/

namespace Sys2Proof.Machine

/-! ### Read and write sets (12 R275) -/

/-- The lines that a held piece names. A governed store names its whole leaf, whose watermark it sets (09 R223). -/
def Held.lines : Held → List Nat
  | .store pa _ _ _ none => [pa / 64]
  | .store pa _ _ _ (some _) => (List.range 4).map (pa / 256 * 4 + ·)
  | .cadd pa _ _ => [pa / 64]
  | .cflg pa _ => [pa / 64]
  | .cceil pa _ _ => [pa / 64]
  | .atomic _ pa _ _ _ _ _ _ => [pa / 64]
  | .tm pa _ _ _ _ _ => [pa / 64, pa / 64 + 1]
  | .hist pa _ => [pa / 64]
  | _ => []

def homeOf (line : Nat) : Nat := combHome (64 * line)
def writeSet (c : Core) : List Nat := (c.held.flatMap Held.lines).eraseDups
/-- The lines read, with the ends of their leases. -/
def readSet (c : Core) : List (Nat × Nat) := (c.l1.filter (·.rd)).map (fun l => (l.pa / 64, l.lease)) ++ c.rvt
/-- The homes of some lines in increasing order of (y, x). -/
def homesOf (ls : List Nat) : List Nat :=
  if ls.isEmpty then []
  else
    let hs := ls.map homeOf
    (List.range 128).filter hs.contains

/-- The region's stores write all 64 bytes of a line, and no other held operation works on its content. -/
def fullCover (c : Core) (line : Nat) : Bool :=
  (c.held.foldl (fun (m : BitVec 64) h => match h with
    | .store pa _ _ k _ => if pa = 64 * line then m ||| k else m
    | _ => m) 0) == BitVec.allOnes 64 &&
  !(c.held.any fun h => match h with
    | .cadd pa _ _ => pa / 64 == line
    | .cflg pa _ => pa / 64 == line
    | .cceil pa _ _ => pa / 64 == line
    | .atomic _ pa _ _ _ _ _ _ => pa / 64 == line
    | _ => false)

/-- Only a record's operations and deltas name the line: poison does not fail their region (14 R458). -/
def recOnly (c : Core) (line : Nat) : Bool :=
  c.held.all fun h => !h.lines.contains line || (match h with | .tm .. => true | .hist .. => true | _ => false)

/-! ### Failure (12 R278-R280) -/

/-- A failed validation: the region re-executes; the third failure, and any failure of a pinned region, asks for the pin token anew. -/
def failRegion (lines : List Nat) (s : State) : State :=
  let t := s.core.st
  let n := Nat.min 3 (t.retry + 1)
  let s := releaseToken (rollback finishSaves (resumePc t) s)
  let s := mapCore (fun c => { c with l1 := c.l1.filter fun l => !lines.contains (l.pa / 64) }) s
  let s := mapSt (fun t => { t with retry := n, pin := n == 3 }) s
  if n = 3 then requestToken s else s

/-! ### A new region -/

/-- Step 4 of 01 R22: the shadow set, the checkpoint's address, and the clearing of the banks (07 R175) and of the spline array
(08 R199); PTS as a region starts (12 R272). -/
def captureCkpt (s : State) : State :=
  let s := mapSt (fun t =>
    let pc := t.a.pc
    { t with shadow := t.a, ckptPc := if t.tm then t.ckptPc else pc, hckpt := if t.tm then pc else t.hckpt, ckDone := true }) s
  mapCore (fun c => { (clearEngines s.now c) with pts := Nat.max c.pts (s.now / 16) }) s

/-- The end of a committed region: its read set, its held pieces, its count of failures, its pin, and a passed breakpoint (01 R43). -/
def closeRegion (s : State) : State :=
  let s := releaseToken s
  let s := mapCore (fun c => { c with
    held := [], rvt := [], lb := 0, commit := none, xlat := [], stale := false, l1 := c.l1.map fun l => { l with rd := false } }) s
  captureCkpt (mapSt (fun t => { t with retry := 0, pin := false, passed := if t.tm then t.passed else none }) s)

/-! ### The commit's effects -/

/-- Bytes of a masked 64-byte block. -/
def maskBytes (data : Vec) (mask : BitVec 64) : List (Nat × Byte) :=
  ((List.range 64).filter fun k => mask.getLsbD k).map fun k => (k, vecByte data k)

/-- A committed atomic's result: it lands in its register unless a later write has taken it (01 R33, 12 R283). -/
def atomicLands (id : Nat) (r : BitVec 5) (v : Word) (f : Flags) (s : State) : State :=
  let keep := s.core.st.vls.any fun x => x.id == id && x.keep
  mapSt (fun t => { t with a := if keep then setReg r v t.a else t.a, vls := t.vls.filter fun x => x.id != id }) (orFlags f s)

/-- One held piece at its home, at logical time t. -/
def applyPiece (t : Nat) (s : State) (h : Held) : State :=
  let tser := ownTser s
  match h with
  | .store pa _ data mask wm =>
    let full := mask == BitVec.allOnes 64
    let s := { s with mem := (maskBytes data mask).foldl (fun m e => SMap.set 0 m (pa + e.1) e.2) s.mem }
    let s := stampLine (pa / 64) t full s
    match wm with
    | none => s
    | some w =>
      let s := { s with wm := SMap.set 0 s.wm (pa / 256) w }
      (h.lines.filter (· != pa / 64)).foldl (fun s l => stampLine l t false s) s
  | .cadd pa va n => addCounter pa va n.toNat 0 (.task tser) t s
  | .cflg pa b => flagCounter pa b.toNat t s
  | .cceil pa va c => ceilCounter pa va c.toNat (.task tser) t s
  | .atomic k pa w4 u x y r id =>
    let n := if w4 then 4 else 8
    let o := rdN s pa n
    let (v, f) := atomicNew k w4 u o x.toNat y.toNat
    atomicLands id r (word o) f (stampLine (pa / 64) t false (wrN pa n v s))
  | .tm pa ref ctr n k after =>
    let s := applyTm t ⟨pa, ref, ctr, n, k, tser, t⟩ s
    if after.isEmpty then s else addDelta pa after tser t s
  | .hist pa counts => addDelta pa counts tser t s
  | _ => s

/-- A line that pieces of one region write in full, in parts, is written in full (23 R433). -/
def healLines (c : Core) (home t : Nat) (s : State) : State :=
  ((writeSet c).filter fun l => homeOf l == home && poisoned s l && fullCover c l).foldl (fun s l => stampLine l t true s) s

/-- What leaves the core when its region has committed at time t: launches, arrivals, spawns, routes and collectives (12 R285). -/
def launchPiece (t : Nat) (s : State) (h : Held) : State :=
  let c := s.core.id
  let tser := ownTser s
  match h with
  | .copy l =>
    due s.now (.copyLaunchAccept (clusterOf c)) { s with launchq := s.launchq ++ [⟨clusterOf c, c, tser, ownGix s, l, t⟩] }
  | .barr seg => arrive c seg t s
  | .spawn rcb desc => due s.now (.spawnAppend rcb desc tser t) { s with spawnq := s.spawnq ++ [(rcb, desc, tser, t)] }
  | .route tab src key e done n =>
    let (i, s) := freshId s
    due s.now (.routeChoice i)
      { s with routes := s.routes ++ [⟨i, tab.toNat, src.toNat, key.toNat, e, done, none, n, tser, t, .choice, 0, 0, 0, [], 0, 0, false, none,
        none⟩] }
  | .wgl va =>
    let (i, s) := freshId s
    due s.now (.waggleLaunch i) { s with wglq := s.wglq ++ [⟨i, va.toNat, none, tser, t⟩] }
  | .wglk tag =>
    let (i, s) := freshId s
    due s.now (.waggleLaunch i) { s with wglq := s.wglq ++ [⟨i, 0, some tag, tser, t⟩] }
  | _ => s

/-- The core's own copies of the lines that its pieces named: the bytes that stand there now, leased to the home's RTS, which a written line
has at the region's time (12 R276) and below which no later write commits (R277). -/
def refreshL1 (ls : List Nat) (s : State) : State :=
  let new (l : L1Line) : L1Line :=
    let d := dirOf s (l.pa / 64)
    if ls.contains (l.pa / 64) then { l with data := lineVec s (l.pa / 64), lease := d.rts, wts := d.wts, mark := leafMark s l.pa } else l
  mapCore (fun c => { c with l1 := c.l1.map new }) s

/-- The commit has been applied at every home (12 R276). -/
def finishCommit (t : Nat) (s : State) : State :=
  let c := s.core
  let s := { s with dir := s.dir.map fun e => if e.2.pin = some c.id then (e.1, { e.2 with rts := Nat.max e.2.rts t }) else e }
  let s := releaseCore c.id s
  let s := c.held.foldl (launchPiece t) s
  let s := refreshL1 (writeSet c) s
  closeRegion (mapCore (fun k => { k with pts := t }) s)

/-- The next part of a commit. -/
def commitNext (m : Commit) (s : State) : State :=
  let c := s.core.id
  let t := m.t.getD (Nat.max (Nat.max (s.core.pts + 1) s.core.lb) m.m)
  let m := if m.todo.isEmpty && m.t.isNone then
      { m with t := some t, renewals := ((readSet s.core).filter fun e => e.2 < t).map (·.1) }
    else m
  let s := mapCore (fun k => { k with commit := some m }) s
  match m.todo, m.renewals, m.toApply with
  | h :: _, _, _ => due s.now (.reserve c h) s
  | [], l :: _, _ => due s.now (.renew c l) s
  | [], [], h :: _ => due s.now (.apply c h) s
  | [], [], [] => finishCommit t s

/-- A region that read and holds nothing has no place in the order (12 R276). -/
def placeless (c : Core) : Bool := !c.stale && c.held.isEmpty && (readSet c).isEmpty

/-- Step 3 of 01 R22; a region that translated through a dropped entry fails (11 R267). -/
def beginCommit (s : State) : State :=
  let c := s.core
  if c.stale then failRegion [] s
  else
    let hs := homesOf (writeSet c)
    commitNext { todo := hs, m := 0, t := none, renewals := [], toApply := hs } s

/-! ### Reservations (12 R277) -/

/-- What a reservation meets at one line. -/
inductive Meets where
  | ok
  | poison
  | fail
  | locked
  | wait (tx : Option PoolTx)
deriving DecidableEq, Repr

def reserveMeets (s : State) (line : Nat) : Meets :=
  let c := s.core
  let d := dirOf s line
  let st := lineReady s line (fullCover c line || recOnly c line) (some c.id)
  if st = .poison then .poison
  else if d.pin.isSome && d.pin != some c.id then .fail
  else if locked s (64 * line) then .locked
  else match st with
    | .fetch tx => .wait (some tx)
    | .wait => .wait none
    | _ => .ok

/-- The reservation of the region's lines at one home. A line that cannot be written raises the poison fault at the checkpoint bundle
(23 R433); a lock makes the region wait, holding nothing, and then fail. -/
def reserveHome (home : Nat) (m : Commit) (s : State) : State :=
  let c := s.core
  let ls := (writeSet c).filter fun l => homeOf l == home
  let rs := ls.map fun l => (l, reserveMeets s l)
  let evt : Instr := .reserve c.id home
  match rs.find? fun e => e.2 == .poison with
  | some (l, _) => takeTrap finishSaves ⟨cPoison, word (64 * l), none⟩ s
  | none =>
    if rs.any fun e => e.2 == .fail then failRegion [] s
    else if rs.any fun e => e.2 == .locked then
      let gs := (rs.filter fun e => e.2 == .locked).map fun e => 64 * e.1 / 4096
      again evt (releaseCore c.id (mapCore (fun k => { k with commit := none, lockWait := gs }) s))
    else if rs.any fun e => e.2 != .ok then
      again evt (rs.foldl (fun s e => match e.2 with | .wait (some tx) => askPool tx s | _ => s) s)
    else
      let r := ls.foldl (fun r l => Nat.max r ((dirOf s l).rts + 1)) 0
      let s := ls.foldl (fun s l => setDir l { dirOf s l with resv := some c.id } s) s
      commitNext { m with todo := m.todo.tail, m := Nat.max m.m r } s

/-- A region that waits on a lock fails once it is unlocked (11 R269). -/
def lockStep (home : Nat) (s : State) : State :=
  if s.core.lockWait.any fun g => SMap.get false s.locks g then again (.reserve s.core.id home) s
  else failRegion [] s

/-- Run an event on a core and bring the old focus back. -/
def atCore (c : CoreId) (f : State → State) (s : State) : State :=
  let k := s.core.id
  focus k (f (focus c s))

/-- A region that has translated through an entry dropped since, and has applied nothing yet, fails (11 R267). -/
def staleFails (m : Commit) (s : State) : Bool := s.core.stale && m.toApply == homesOf (writeSet s.core)

/-- RESERVE. -/
def execReserve (c : CoreId) (home : Nat) (s : State) : Host.Outcome State Fault Refusal :=
  .next (atCore c (fun s =>
    if !s.core.lockWait.isEmpty then lockStep home s
    else match s.core.commit with
      | some m =>
        if m.todo.head? = some home then
          if staleFails m s then failRegion [] s else reserveHome home m s
        else s
      | none => s) s)

/-- The renewal of one line of the read set. -/
def renewLine (line : Nat) (m : Commit) (s : State) : State :=
  let c := s.core
  let d := dirOf s line
  let t := m.t.getD 0
  let ends := (readSet c).filter fun e => e.1 == line
  if ends.any (fun e => e.2 < d.wts) || (d.resv.isSome && d.resv != some c.id) then failRegion [line] s
  else
    let s := setDir line { d with rts := Nat.max d.rts t } s
    let s := mapCore (fun k => { k with
      l1 := k.l1.map fun l => if l.pa / 64 = line && l.rd then { l with lease := Nat.max l.lease t } else l,
      rvt := k.rvt.map fun e => if e.1 = line then (line, Nat.max e.2 t) else e }) s
    commitNext { m with renewals := m.renewals.tail } s

/-- RENEW. -/
def execRenew (c : CoreId) (line : Nat) (s : State) : Host.Outcome State Fault Refusal :=
  .next (atCore c (fun s => match s.core.commit with
    | some m =>
      if m.todo.isEmpty && m.renewals.head? = some line then
        if staleFails m s then failRegion [] s else renewLine line m s
      else s
    | none => s) s)

/-- The apply at one home: the region's pieces there, in bundle and slot order. The home's clock covers T, whatever the pieces change
(12 R274). -/
def applyHome (home : Nat) (m : Commit) (s : State) : State :=
  let t := m.t.getD 0
  let c := s.core
  let hs := c.held.filter fun h => h.lines.any fun l => homeOf l == home
  commitNext { m with toApply := m.toApply.tail } (hs.foldl (applyPiece t) (healLines c home t (raiseHc home t s)))

/-- APPLY. -/
def execApply (c : CoreId) (home : Nat) (s : State) : Host.Outcome State Fault Refusal :=
  .next (atCore c (fun s => match s.core.commit with
    | some m =>
      if m.todo.isEmpty && m.t.isSome && m.renewals.isEmpty && m.toApply.head? = some home then
        if staleFails m s then failRegion [] s else applyHome home m s
      else s
    | none => s) s)

/-- The commit of the focused core is past its validation: its applies are completed (12 R276). -/
def finishApplies : Nat → State → State
  | 0, s => s
  | n + 1, s => match s.core.commit with
    | some m => if m.todo.isEmpty && m.t.isSome && m.renewals.isEmpty then
        match m.toApply with
        | h :: _ => finishApplies n (applyHome h m s)
        | [] => s
      else s
    | none => s

/-! ### The flags of a bundle -/

/-- Steps 1 of 01 R22 and 01 R31: the engines are done (07 R180, 08 R199), every tile image has landed (09 R224), and no register or
flag write is pending; an ORD bundle also waits for the scratchpad writes and the drained tiles (07 R186). -/
def settled (ord : Bool) (s : State) : Bool :=
  let c := s.core
  c.mq.isEmpty && c.sq.isEmpty && decide (c.mBusy ≤ s.now) && decide (c.sBusy ≤ s.now) && c.st.imgs.isEmpty &&
    c.st.vls.all (·.held) &&
    (!ord || c.queues.all fun ts => ts.all fun t => t.vecs.isSome && decide (t.ready ≤ s.now)) &&
    c.st.pend.all fun p => !ord && p.flags == 0 && (match p.act with | .spad .. => true | _ => false)

/-- The dirty-checkpoint bitmap (01 R34): live banks [7:0], non-empty queues [11:8]. -/
def dirtyMap (c : Core) : Nat :=
  ((List.range 8).filter fun k => (bankOf c k).live).foldl (fun a k => a + 2 ^ k) 0 +
    ((List.range 4).filter fun q => !(c.queues[q]?.getD []).isEmpty).foldl (fun a q => a + 2 ^ (8 + q)) 0

/-- Hold the bundle back. -/
def holdBack (s : State) : State := mapCtx (fun c => { c with stall := true }) s

/-- CHECKPOINT: steps 1 to 4 of 01 R22. Only a wait of step 1 lands results before their assumed cycle (01 R30, 04 R121). -/
def execCheckpoint (s : State) : Host.Outcome State Fault Refusal :=
  let s := if settled false s then s else landDue true s
  if !settled false s then .next (holdBack s)
  else if dirtyMap s.core ≠ 0 then
    let c : Cause := ⟨cDirty, word (dirtyMap s.core), none⟩
    .next (mapCtx (fun k => { k with cause := some c }) (takeTrap finishSaves c s))
  else
    .next (if placeless s.core then closeRegion s else holdBack (beginCommit s))

/-- ORDERED_BUNDLE (01 R31): the bundle waits for every pending write. -/
def execOrderedBundle (s : State) : Host.Outcome State Fault Refusal :=
  let s := landDue true s
  .next (if settled true s then s else holdBack s)

/-- BREAKPOINT (01 R43, R44). -/
def execBreakpoint (s : State) : Host.Outcome State Fault Refusal :=
  let t := s.core.st
  if t.passed = some t.a.pc then .next (mapSt (fun t => { t with passed := none }) s)
  else if !s.core.brken then .next s
  else
    let c : Cause := ⟨cBreak, 0, none⟩
    .next (mapCtx (fun k => { k with cause := some c }) (takeTrap finishSaves c s))

/-! ### Leases and the pin token -/

/-- GRANT (12 R273): a lease on a line for a core. Its L1 copy takes the new end if the line still holds that copy's value; a core
without a copy receives the line. A pinned region's waits for a commit that has the line reserved (R277). -/
def grantLine (line : Nat) (s : State) : State :=
  match homeServes s line with
  | .error (.fetch tx) => askPool tx s
  | .error _ => s
  | .ok _ =>
    if s.core.st.pin && (dirOf s line).resv.isSome && (dirOf s line).resv != some s.core.id then again (.grant s.core.id line) s else
    let s := touchLine line false s
    let ((w, e), s) := grantLease line s.core.pts (if s.core.st.pin then some s.core.id else none) s
    match s.core.l1.find? fun l => l.pa == 64 * line with
    | some l =>
      if l.rop || l.lease < w then s
      else mapCore (fun c => { c with l1 := c.l1.map fun x => if x.pa = 64 * line then { x with lease := Nat.max x.lease e } else x }) s
    | none =>
      if waysOf s.core = 0 then s
      else match l1Insert ⟨64 * line, lineVec s line, false, false, e, w, leafMark s (64 * line)⟩ s.core with
        | some c => { s with core := c }
        | none => s
def execGrant (c : CoreId) (line : Nat) (s : State) : Host.Outcome State Fault Refusal := .next (atCore c (grantLine line) s)

/-- PIN_TOKEN_GRANT: the token goes to the oldest request (12 R279). -/
def execPinTokenGrant (s : State) : Host.Outcome State Fault Refusal :=
  match s.sched.pinHolder, s.sched.pinQ with
  | none, c :: q =>
    .next (onCore c (fun k => { k with pinTok := true, pinReq := false })
      { s with sched := { s.sched with pinHolder := some c, pinQ := q } })
  | _, _ => .next s

/-- STAMP_RAISE (12 R274): a home raises to its clock the times that have fallen 2^46 or more below it. -/
def execStampRaise (home : Nat) (s : State) : Host.Outcome State Fault Refusal :=
  let hc := hcOf s home
  let up (t : Nat) : Nat := if t + 2 ^ 46 ≤ hc then hc else t
  let raise1 (e : Nat × Dir) : Nat × Dir :=
    if homeOf e.1 = home then (e.1, { e.2 with rts := up e.2.rts, wts := up e.2.wts }) else e
  .next { s with dir := s.dir.map raise1 }

end Sys2Proof.Machine
end

