-- ==== Sys2Proof/Machine/Control.lean ====
section
/-! DEFINITION. Control transfer, loops, `trap`, `eret` and `halt` (03 R85-R91, 01 R26, R37). -/

namespace Sys2Proof.Machine

/-- The next bundle is a transfer's target (03 R85, R88). -/
def takeJump (t : BPc) (s : State) : State := mapCtx (fun c => { c with nxt := .take t }) s
/-- PC + off, counting bundles (02 R54). A bundle address that passes its 51 bits wraps (DESIGN CHOICE, log entry 153). -/
def relTarget (off : BitVec 41) (s : State) : BPc := s.core.st.a.pc + off.signExtend 51

/-- A branch on a register's being zero. -/
def branchIf (zero : Bool) (f : SB) (s : State) : Res State := do
  let a ← readS f.ra s
  .ok (if (a == 0) == zero then takeJump (relTarget f.off s) s else s)
def execBr (f : SB) (s : State) : Host.Outcome State Fault Refusal := issue s (branchIf false f s)
def execBrZ (f : SB) (s : State) : Host.Outcome State Fault Refusal := issue s (branchIf true f s)
def execJmp (f : SB) (s : State) : Host.Outcome State Fault Refusal := issue s (.ok (takeJump (relTarget f.off s) s))

/-- `call` writes PC + 1 to s31 in class LC0. -/
def callOp (f : SB) (s : State) : State :=
  takeJump (relTarget f.off s) (writeS 31 0 ((s.core.st.a.pc + 1).setWidth 64) 0 s)
def execCall (f : SB) (s : State) : Host.Outcome State Fault Refusal := issue s (.ok (callOp f s))

/-- `jr`: bits [63:51] of the target are 0, or the access fault. -/
def jrOp (f : SX) (s : State) : Res State := do
  let a ← readS f.reg s
  need s (a.toNat < 2 ^ 51) cAccess a
  .ok (takeJump (a.setWidth 51) s)
def execJr (f : SX) (s : State) : Host.Outcome State Fault Refusal := issue s (jrOp f s)

/-- Push a loop, or skip its body with a count of 0 (03 R87). -/
def pushLoop (count : Nat) (last : BitVec 20) (s : State) : Res State := do
  let pc := s.core.st.a.pc
  let stop : BPc := pc + last.setWidth 51
  if count = 0 then .ok (mapCtx (fun c => { c with nxt := .skip stop }) s)
  else
    need s (s.core.st.a.loops.length < 6) cLoop 0
    .ok (mapArch (fun a => { a with loops := ⟨BitVec.ofNat 32 count, 0, pc + 1, stop⟩ :: a.loops }) s)

/-- The count of `loop`: s64 clamped to 0 and 2^32 − 1. -/
def loopCount (a : Word) : Nat := if a.toInt ≤ 0 then 0 else Nat.min a.toNat 4294967295

def loopOp (f : SP) (s : State) : Res State := do
  let a ← readS f.ra s
  pushLoop (loopCount a) f.last s
def execLoop (f : SP) (s : State) : Host.Outcome State Fault Refusal := issue s (loopOp f s)
def execLoopi (f : SQ) (s : State) : Host.Outcome State Fault Refusal := issue s (pushLoop f.cnt.toNat f.last s)

/-- `lbrk` pops l0 and continues as if that loop had ended (03 R88, R89). -/
def lbrkOp (s : State) : Res State :=
  match s.core.st.a.loops with
  | [] => raise s cLoop 1
  | e :: rest => .ok (mapCtx (fun c => { c with nxt := .brk e.last }) (mapArch (fun a => { a with loops := rest }) s))
def execLbrk (s : State) : Host.Outcome State Fault Refusal := issue s (lbrkOp s)

def lidxOp (f : SX) (s : State) : Res State :=
  match s.core.st.a.loops[f.n.toNat]? with
  | none => raise s cLoop 1
  | some e => .ok (writeS f.reg 0 (zx e.index) 0 s)
def execLidx (f : SX) (s : State) : Host.Outcome State Fault Refusal := issue s (lidxOp f s)

def execTrap (f : SX) (s : State) : Host.Outcome State Fault Refusal := issue s (raise s cTrap (zx f.imm))

/-- `eret` after its checkpoint (01 R37): illegal outside a handler; else the return. -/
def eretOp (s : State) : Res State := do
  needLegal s s.core.st.tm
  .ok (mapCtx (fun c => { c with erets := true }) (takeJump s.core.st.ckptPc (returnFromHandler s)))
def execEret (s : State) : Host.Outcome State Fault Refusal := issue s (eretOp s)

/-- `halt` after its checkpoint (01 R26): the strand ends with this bundle. -/
def execHalt (s : State) : Host.Outcome State Fault Refusal := issue s (.ok (mapCtx (fun c => { c with halts := true }) s))

end Sys2Proof.Machine
end

