-- ==== Sys2Proof/Machine/System.lean ====
section
/-! DEFINITION. Spill memory, system registers and capability queries (01 R18, R20, R21; 03 R92-R95). -/

namespace Sys2Proof.Machine

def spldOp (f : SX) (s : State) : State := writeS f.reg 2 (SMap.get 0 s.core.st.spill f.n.toNat) 0 s
def execSpld (f : SX) (s : State) : Host.Outcome State Fault Refusal := issue s (.ok (spldOp f s))

def spstOp (f : SX) (s : State) : Res State := do
  let a ← readS f.reg s
  .ok (mapSt (fun t => { t with spill := SMap.set 0 t.spill f.n.toNat a }) s)
def execSpst (f : SX) (s : State) : Host.Outcome State Fault Refusal := issue s (spstOp f s)

/-- STATUS (01 R21). -/
def statusWord (c : Core) : Word :=
  let t := c.st
  word (b2n t.tm + 2 * b2n t.pin + 4 * b2n (!c.held.isEmpty) + 8 * c.held.length + 2048 * t.a.loops.length + 16384 * t.retry)
/-- CAPS (01 R21). -/
def capsWord (c : Core) : Word :=
  word ((subsets (isL c.id)).toNat + 256 * b2n (isL c.id) + 4096 * 2 + 65536 * c.split)
/-- DBGCTL (01 R21). -/
def dbgWord (c : Core) : Word := word (b2n c.sstep + 2 * b2n c.brken + 4 * b2n c.dstop)

/-- The value of a system register at issue (01 R20, R21). -/
def sysReg (s : State) (n : Nat) : Word :=
  let c := s.core
  let t := c.st
  match n with
  | 0 => statusWord c
  | 1 => t.trapCause
  | 2 => zx t.trapPc
  | 3 => t.trapInfo
  | 4 => zx t.ckptPc
  | 5 => zx t.lathdr
  | 6 => capsWord c
  | 7 => zx c.id
  | 8 => t.gangId
  | 9 => t.gangDim
  | 10 => t.strandIx
  | 11 => t.a.seed
  | 12 => word s.now
  | 13 => zx t.a.flags
  | 14 => zx t.trapBase
  | _ => dbgWord c

def sysrdOp (f : SX) (s : State) : State := writeS f.reg 0 (sysReg s f.n.toNat) 0 s
def execSysrd (f : SX) (s : State) : Host.Outcome State Fault Refusal := issue s (.ok (sysrdOp f s))

/-- `syswr` takes effect at the end of its bundle (03 R94). -/
def syswrOp (f : SX) (s : State) : Res State := do
  let a ← readS f.reg s
  .ok (mapCtx (fun c => { c with ends := c.ends ++ [.syswr f.n.toNat a] }) s)
def execSyswr (f : SX) (s : State) : Host.Outcome State Fault Refusal := issue s (syswrOp f s)

/-- Compute dies of a grade in service: 8 per row, of which the columns 0, 1, 14 and 15 are L-grade (15 R335, R345). -/
def diesInService (l : Bool) (s : State) : Nat :=
  ((List.range 128).filter fun d => colL (dieX d) == l && !s.ctl.deadDies.contains d).length

/-- Good cores of a compute die: GOOD, 0 when it is out of service (15 R345). -/
def goodCores (s : State) (d : Nat) : Nat :=
  if s.ctl.deadDies.contains d then 0 else 1296 - ((allCores s).filter fun c => c.dead && dieOf c.id == d).length
/-- The die map entry of a compute die: GOOD, LG, INSVC, SUBS (15 R345). -/
def dieMapEntry (s : State) (d : Nat) : Nat :=
  let l := colL (dieX d)
  goodCores s d + b2n l * 2 ^ 11 + b2n (!s.ctl.deadDies.contains d) * 2 ^ 12 + (subsets l).toNat * 2 ^ 13
/-- The link map: the bits of withdrawn links (15 R344, R345). -/
def linkMap (s : State) : List Nat := (List.range 480).filter s.ctl.linksDown.contains

/-- The capability queries (03 R95). -/
def capValue (s : State) (q : Nat) : Word :=
  let c := s.core
  match q with
  | 0 => capsWord c
  | 1 => word (goodCores s (dieOf c.id))
  | 2 => word (splitBytes c.split)
  | 3 => word (196608 - splitBytes c.split)
  | 4 => if isL c.id then 16 else 32
  | 5 => if isL c.id then 32 else 16
  | 6 => word c.st.spilln
  | 7 => word (128 - c.held.length)
  | 8 => zx s.host.modid
  | 9 => word s.dom.members.length
  | 10 => word (diesInService false s)
  | 11 => word (diesInService true s)
  | 12 => 1500
  | _ => word c.lent

def capqOp (f : SX) (s : State) : State := writeS f.reg 0 (capValue s f.n.toNat) 0 s
def execCapq (f : SX) (s : State) : Host.Outcome State Fault Refusal := issue s (.ok (capqOp f s))

end Sys2Proof.Machine
end

