-- ==== Sys2Proof/Machine/Tasks.lean ====
section
/-! DEFINITION. What the scheduler reads (16 R353-R360; 02 R74, R75): region control blocks and their tree, task descriptors and code
object headers, with their checks, and the tree's budgets. -/

namespace Sys2Proof.Machine

/-! ### An agent's reads -/

/-- n bytes of global memory as an agent reads them, line by line. -/
def engBytesFrom (acc : Acc) (s : State) : Nat → Nat → Nat → Except MemErr (List Byte)
  | 0, _, _ => .ok []
  | fuel + 1, va, n =>
    if n = 0 then .ok []
    else do
      let k := Nat.min n (64 - va % 64)
      let pa ← engXlate s acc va
      engServes s (pa / 64)
      let r ← engBytesFrom acc s fuel (va + k) (n - k)
      .ok (rdBytes s pa k ++ r)
def engBytes (acc : Acc) (s : State) (va n : Nat) : Except MemErr (List Byte) := engBytesFrom acc s (n / 64 + 2) va n
/-- A little-endian number of n bytes. -/
def engNat (acc : Acc) (s : State) (va n : Nat) : Except MemErr Nat := do
  let bs ← engBytes acc s va n
  .ok (leNat bs)

/-- The lines of n bytes at a virtual address. -/
def engLines (s : State) (va n : Nat) : List Nat :=
  (List.range ((va % 64 + n + 63) / 64)).filterMap fun i =>
    let a := va / 64 * 64 + 64 * i
    match walk s a with
    | .ok t => some ((t.pa + a % 2 ^ t.bits) / 64)
    | .error _ => none
/-- An engine's reads of parts of job memory, as one single-access region later than t (12 R285): its time. -/
def engTake (parts : List (Nat × Nat)) (t : Nat) (s : State) : Nat × State :=
  engReads (parts.flatMap fun p => engLines s p.1 p.2).eraseDups t s

/-- An engine has used the lines of parts of job memory: they are the most recently used of their sets (11 R252). -/
def engUse (parts : List (Nat × Nat)) (s : State) : State := touchAll (parts.flatMap fun p => engLines s p.1 p.2).eraseDups s

/-- Every bit outside the listed fields is 0. -/
def onlyFields (n : Nat) (fs : List (Nat × Nat)) : Bool := fs.foldl (fun m f => m - bits m f.1 f.2 * 2 ^ f.2) n = 0

/-! ### Region control blocks (16 R355, R356) -/

def rcbFields : List (Nat × Nat) :=
  [(30, 0), (42, 32), (120, 64), (184, 128), (248, 192), (287, 256), (319, 288), (367, 320), (396, 384), (398, 397), (447, 416),
   (504, 448), (568, 512), (632, 576), (665, 640), (760, 704), (831, 768), (888, 832), (952, 896), (1016, 960)]

/-- A well-formed RCB; n is its first 192 bytes. The range of an inherited field is not checked, since the field is ignored. -/
def rcbOk (n : Nat) (root : Bool) : Bool :=
  let kind := bits n 17 16
  let own (k : Nat) : Bool := !bit n (32 + k)
  onlyFields n rcbFields && bits n 15 0 != 0 && kind != 3 && (!own 1 || bits n 22 21 != 3) && (!own 2 || bits n 26 23 != 0) &&
    (!own 3 || bits n 29 27 ≤ 4) && (!own 7 || (1 ≤ bits n 287 256 && bits n 287 256 ≤ 165888)) &&
    (!own 8 || (1 ≤ bits n 319 288 && bits n 319 288 ≤ 262144)) && (!own 9 || bits n 367 320 % 16384 = 0) &&
    (!own 10 || bits n 396 384 ≤ 4096) && bits n 398 397 ≤ 2 &&
    (if root then
      kind == 0 && bits n 120 64 = 0 && bits n 248 192 = 0 && bits n 43 32 = 0 && bits n 632 576 % 65536 = 0 && 1 ≤ bits n 665 640 &&
        bits n 665 640 ≤ 2 ^ 25
     else kind != 0 && bits n 120 64 != 0 && bits n 831 512 = 0) &&
    (if kind = 2 then bits n 184 128 = 0 else bits n 1023 832 = 0)

/-- A region from its RCB, with the values it inherits; `pol` is the physical address of its bytes 256 to 511. -/
def regionOfRcb (n va pa pol qctr : Nat) (parent : Option Region) (seg : Nat) : Region :=
  let eff (k own : Nat) (f : Region → Nat) : Nat := match parent with
    | some p => if bit n (32 + k) then f p else own
    | none => own
  { va := va, pa := pa, rnum := bits n 15 0, kind := bits n 17 16, prio := eff 0 (bits n 20 18) (·.prio),
    fdom := eff 1 (bits n 22 21) (·.fdom), splm := eff 2 (bits n 26 23) (·.splm), park := eff 3 (bits n 29 27) (·.park),
    qmode := bit n 30, parent := parent.map (·.rnum), cores := eff 7 (bits n 287 256) (·.cores),
    ctrs := eff 8 (bits n 319 288) (·.ctrs), comb := eff 9 (bits n 367 320) (·.comb), wtags := eff 10 (bits n 396 384) (·.wtags),
    nseg := bits n 398 397, quant := eff 4 (bits n 447 416) (·.quant), handler := eff 5 (bits n 504 448) (·.handler),
    pol := eff 6 pol (·.pol), qctr := qctr, segs := (List.range (bits n 398 397)).map fun b => (seg + b) % 64,
    qidx := 0, qlast := 0, deficit := 0, withheld := 0 }

/-- Why a walk of the tree does not end well: a failed check, or a pool transaction it needs first. -/
inductive TreeErr where
  | bad
  | fetch (tx : Option PoolTx)
deriving DecidableEq, Repr

def ofMemErr : MemErr → TreeErr
  | .fetch tx => .fetch (some tx)
  | .wait => .fetch none
  | _ => .bad
def liftTree {α : Type} : Except MemErr α → Except TreeErr α
  | .ok a => .ok a
  | .error e => .error (ofMemErr e)
def needTree (b : Bool) : Except TreeErr Unit := if b then .ok () else .error .bad

/-- The counter check of CHECK: translated, aligned, SYNC and W. -/
def treeCtr (s : State) (va : Nat) : Except TreeErr Nat := liftTree (engCounter s va)

/-- The depth-first walk of R353: pending nodes as (address, parent, level); at most 4,096 regions and 16 levels. -/
def walkTree (s : State) : Nat → List (Nat × Region × Nat) → List Region → Except TreeErr (List Region)
  | _, [], acc => .ok acc
  | 0, _ :: _, _ => .error .bad
  | fuel + 1, (va, parent, lvl) :: rest, acc => do
    needTree (va % 256 = 0 && lvl ≤ 16)
    let n ← liftTree (engNat .rd s va 192)
    needTree (rcbOk n false)
    let pa ← liftTree (engXlate s .rd va)
    let up ← liftTree (engXlate s .rd (bits n 120 64))
    needTree (up = parent.pa && !(acc.any fun r => r.rnum == bits n 15 0))
    let q ← (if bits n 17 16 = 2 then treeCtr s (bits n 952 896) else .ok 0 : Except TreeErr Nat)
    let seg := (acc.map (·.nseg)).foldl (· + ·) 0
    let pol ← (if bit n 38 then .ok 0 else liftTree (engXlate s .rd (va + 256)) : Except TreeErr Nat)
    let r := regionOfRcb n va pa pol q (some parent) seg
    let sib := bits n 248 192
    let child := bits n 184 128
    let next := (if child = 0 then [] else [(child, r, lvl + 1)]) ++ (if sib = 0 then [] else [(sib, parent, lvl)])
    walkTree s fuel (next ++ rest) (acc ++ [r])

/-- CHECK (16 R353) of the tree at the physical address of its root: the scheduler with its regions. The
fault records, bytes 192 to 255, are no field that it checks: the launch clears them (R371). -/
def checkTree (root : Nat) (s : State) : Except TreeErr Sched := do
  needTree (root % 256 = 0 && root + 512 ≤ hbmEnd && !poisoned s (root / 64) && !poisoned s (root / 64 + 1) && !poisoned s (root / 64 + 2))
  let n := rdN s root 192
  needTree (rcbOk n true)
  let s := { s with sched := { Sched.init with
    ptroot := bits n 568 512, tmrbase := bits n 632 576, tmrcnt := bits n 665 640, jobthr := bits n 831 768 } }
  let child := bits n 184 128
  let va ← (if child = 0 then .ok 0 else do
    let m ← liftTree (engNat .rd s child 64)
    .ok (bits m 120 64) : Except TreeErr Nat)
  let r := regionOfRcb n va root (root + 256) 0 none 0
  let rs ← walkTree s 4095 (if child = 0 then [] else [(child, r, 2)]) [r]
  let ctr ← treeCtr s (bits n 760 704)
  .ok { s.sched with regions := rs, jobctr := ctr }

/-! ### The tree -/

def regionOf (s : State) (rnum : Nat) : Option Region := s.sched.regions.find? fun r => r.rnum == rnum
def setRegion (r : Region) (s : State) : State :=
  { s with sched := { s.sched with regions := s.sched.regions.map fun x => if x.rnum = r.rnum then r else x } }
/-- A region and its ancestors, from the region up to the root. -/
def chainOf (s : State) : Nat → Nat → List Region
  | 0, _ => []
  | fuel + 1, rnum => match regionOf s rnum with
    | none => []
    | some r => r :: (match r.parent with | some p => chainOf s fuel p | none => [])
def chain (s : State) (rnum : Nat) : List Region := chainOf s 17 rnum
/-- Whether a region lies in the subtree of another. -/
def under (s : State) (rnum anc : Nat) : Bool := (chain s rnum).any fun r => r.rnum == anc
def rootRegion (s : State) : Option Region := s.sched.regions.find? fun r => r.kind == 0

def taskOf (s : State) (tser : Nat) : Option Task := s.sched.tasks.find? fun t => t.tser == tser
def setTask (t : Task) (s : State) : State :=
  { s with sched := { s.sched with tasks := s.sched.tasks.map fun x => if x.tser = t.tser then t else x } }
def setGang (tser : Nat) (g : Gang) (s : State) : State :=
  { s with sched := { s.sched with tasks := s.sched.tasks.map fun x =>
      if x.tser = tser then { x with gangs := x.gangs.map fun y => if y.gix = g.gix then g else y } else x } }
def gangOf (s : State) (tser gix : Nat) : Option Gang := (taskOf s tser).bind fun t => t.gangs.find? fun g => g.gix == gix

/-! ### Budgets (16 R357) -/

/-- Cores of the rectangles that gangs of a subtree hold. -/
def coresHeld (s : State) (anc : Nat) : Nat :=
  ((s.sched.tasks.filter fun t => under s t.rnum anc).map fun t => (t.gangs.map fun g => 36 * g.rect.length).foldl (· + ·) 0).foldl (· + ·) 0
/-- A start of some cores fits the budget of the region and of every ancestor. -/
def coresFit (s : State) (rnum n : Nat) : Bool := (chain s rnum).all fun r => coresHeld s r.rnum + n ≤ r.cores

/-- Registrations held for a subtree's tasks and queues. -/
def ctrsHeld (s : State) (anc : Nat) : Nat :=
  (s.waiters.filter fun w => match w.who with
    | .dep tser _ => (taskOf s tser).any fun t => under s t.rnum anc
    | .queue r => under s r anc
    | _ => false).length
def ctrsFit (s : State) (rnum : Nat) : Bool := (chain s rnum).all fun r => ctrsHeld s r.rnum < r.ctrs

/-- Bytes of a subtree's images in comb memory. -/
def combHeld (s : State) (anc : Nat) : Nat :=
  ((s.sched.tasks.filter fun t => under s t.rnum anc).map fun t =>
    (t.gangs.map fun g => ((g.images.filter fun i => !i.comb.isEmpty).map (·.size)).foldl (· + ·) 0).foldl (· + ·) 0).foldl (· + ·) 0
/-- Images of some sizes, by region, fit the COMB budget of a region and of every ancestor. -/
def combFits (s : State) (rnum : Nat) (needs : List (Nat × Nat)) : Bool :=
  (chain s rnum).all fun r => combHeld s r.rnum + ((needs.filter fun e => under s e.1 r.rnum).map (·.2)).foldl (· + ·) 0 ≤ r.comb

/-! ### Task descriptors and code objects (16 R358, 02 R74, R75) -/

def Task.d (t : Task) (hi lo : Nat) : Nat := bits t.desc.toNat hi lo
def Task.h (t : Task) (hi lo : Nat) : Nat := bits t.code.toNat hi lo
def Task.gw (t : Task) : Nat := t.d 135 128
def Task.gh (t : Task) : Nat := t.d 143 136
def Task.gcnt (t : Task) : Nat := t.d 159 144
def Task.segu (t : Task) : Nat := t.d 185 184
def Task.split (t : Task) : Nat := t.h 203 202
/-- Subsets that a start needs (R364, R377). -/
def Task.req (t : Task) : Nat := t.d 164 160 ||| t.h 44 40

/-- The checks of a descriptor that need no translation. -/
def descForm (n nseg : Nat) : Bool :=
  let gw := bits n 135 128
  let gh := bits n 143 136
  bits n 63 57 = 0 && bits n 69 64 = 0 && bits n 127 124 = 0 && bits n 191 187 = 0 && bits n 255 249 = 0 && bits n 383 356 = 0 && bits n 959 953 = 0 &&
    bits n 1023 979 = 0 && ((List.range 4).all fun k => bits n (384 + 128 * k + 63) (384 + 128 * k + 57) = 0) &&
    1 ≤ gw && gw ≤ 36 && 1 ≤ gh && gh ≤ 36 && 1 ≤ bits n 159 144 && bits n 185 184 < 2 ^ nseg && bits n 337 320 % 64 = 0 &&
    bits n 355 338 % 64 = 0 && bits n 355 338 ≤ 65536

/-- A counter that a task names: aligned, on a SYNC page with the permission; none when bad. -/
def taskCtr (s : State) (acc : Acc) (va : Nat) : Option Nat :=
  if va % 16 ≠ 0 then none else match engXlate s acc va with
    | .ok pa => some pa
    | .error _ => none

/-- The counter that DONE names, where it is one. A task that its malformed descriptor fails takes its add there too (16 R372). -/
def doneCtr (s : State) (n : Nat) : Option Nat :=
  if bits n 952 896 = 0 then none else taskCtr s .ctrWr (bits n 952 896)

/-- DONE's physical address and the dependencies as (k, physical address, threshold); none when the descriptor is malformed. -/
def descCtrs (s : State) (n : Nat) : Option (Option Nat × List (Nat × Nat × Nat)) := do
  let done := bits n 952 896
  let dp ← if done = 0 then some none else (taskCtr s .ctrWr done).map some
  let deps ← ((List.range 4).filter fun k => bits n (384 + 128 * k + 56) (384 + 128 * k) != 0).mapM fun k =>
    (taskCtr s .ctrRd (bits n (384 + 128 * k + 56) (384 + 128 * k))).map fun pa =>
      (k, pa, bits n (384 + 128 * k + 127) (384 + 128 * k + 64))
  some (dp, deps)

/-- The checks of a code object header (02 R75) for a task of a geometry and an entry index. -/
def codeOk (h gw gh entry : Nat) : Bool :=
  let n := bits h 207 204
  let len := bits h 191 160
  let tr := bits h 159 128
  bits h 31 0 = 0x32414E4F && bits h 39 32 = 2 && bit h 40 && bits h 47 45 = 0 && bits h 63 53 = 0 && bits h 127 112 = 0 &&
    bits h 511 224 = 0 && bits h 201 192 ≤ 512 && 1 ≤ n && n ≤ 8 &&
    ((List.range n).all fun k => 2 ≤ bits h (512 + 64 * k + 63) (512 + 64 * k) && bits h (512 + 64 * k + 63) (512 + 64 * k) ≤ len + 1) &&
    (tr = 0 || (2 ≤ tr && tr + 10 ≤ len + 1)) && (bits h 215 208 = 0 || bits h 215 208 = gw) && (bits h 223 216 = 0 || bits h 223 216 = gh) &&
    entry < n

end Sys2Proof.Machine
end

