-- ==== Sys2Proof/Machine/Placement.lean ====
section
/-! DEFINITION. Placement (16 R362-R364; 17 R377, R381): effective priorities, qualifying dies, cluster rectangles, and parking
(10 R246-R250). -/

namespace Sys2Proof.Machine

/-! ### Priorities (16 R362, 17 R382) -/

def taskPrio (s : State) (t : Task) : Nat := if t.d 172 172 = 1 then t.d 175 173 else ((regionOf s t.rnum).map (·.prio)).getD 0
/-- ep of a task. -/
def epTask (s : State) (t : Task) : Nat := Nat.min 7 (taskPrio s t + t.rounds / 2 ^ 14)
/-- ep of a gang: a gang in transit after a migrate trap ages from the trap. -/
def epGang (s : State) (t : Task) (g : Gang) : Nat := if g.transit then Nat.min 7 (taskPrio s t + g.rounds / 2 ^ 14) else epTask s t

/-! ### Dies and rectangles (16 R364) -/

def dieServes (s : State) (d : Nat) : Bool := !s.ctl.deadDies.contains d
def dieSubsets (d : Nat) : Nat := (subsets (colL (dieX d))).toNat
/-- A die that is in service and has every subset needed. -/
def qualifies (s : State) (req d : Nat) : Bool := dieServes s d && (req &&& dieSubsets d) == req
def gangReq (t : Task) (g : Gang) : Nat := t.req ||| g.adds.toNat

def goodCore (s : State) (c : CoreId) : Bool := !(coreOf s c).dead
/-- The good cores of a cluster rectangle of a die, in row-major order of core rows. -/
def rectCores (s : State) (d cx cy w h : Nat) : List CoreId :=
  ((List.range (6 * h)).flatMap fun r => (List.range (6 * w)).map fun c =>
    mkCore d (6 * (cy + r / 6) + cx + c / 6) (6 * (r % 6) + c % 6)).filter (goodCore s)
def rectClusters (d cx cy w h : Nat) : List ClusterId :=
  (List.range h).flatMap fun j => (List.range w).map fun i => clusterOf (mkCore d (6 * (cy + j) + cx + i) 0)

/-- Grow a rectangle at an origin until it holds n good cores: one column on the right while it can, else one row below. -/
def growRect (s : State) (d cx cy n : Nat) : Nat → Nat → Nat → Option (Nat × Nat)
  | 0, _, _ => none
  | fuel + 1, w, h =>
    if n ≤ (rectCores s d cx cy w h).length then some (w, h)
    else if cx + w < 6 then growRect s d cx cy n fuel (w + 1) h
    else if cy + h < 6 then growRect s d cx cy n fuel w (h + 1)
    else none

/-- Clusters that gangs hold. -/
def heldClusters (s : State) : List ClusterId := s.sched.tasks.flatMap fun t => t.gangs.flatMap (·.rect)

/-- A placement: die, clusters, and the gang's cores in LIN order. -/
structure Spot where
  die : Nat
  rect : List ClusterId
  cores : List CoreId
deriving DecidableEq, Repr

/-- The first origin of a die whose grown rectangle is wholly free. -/
def findRect (s : State) (held : List ClusterId) (gw gh d : Nat) : Option Spot :=
  let w0 := (gw + 5) / 6
  let h0 := (gh + 5) / 6
  (List.range 36).findSome? fun o =>
    let cx := o % 6
    let cy := o / 6
    if 6 < cx + w0 || 6 < cy + h0 then none
    else match growRect s d cx cy (gw * gh) 12 w0 h0 with
      | none => none
      | some (w, h) =>
        let r := rectClusters d cx cy w h
        if r.any held.contains then none else some ⟨d, r, (rectCores s d cx cy w h).take (gw * gh)⟩

def absDiff (a b : Nat) : Nat := (a - b) + (b - a)
/-- Manhattan distance of a compute die to a place of the panel. -/
def distTo (x y d : Nat) : Nat := absDiff (dieX d) x + absDiff (dieY d) y

/-- Dies in the order of choice: nearest to a place, then by (y, x); the die map index follows (y, x). -/
def dieOrder (near : Option (Nat × Nat)) : List Nat :=
  match near with
  | none => List.range 128
  | some (x, y) => (List.range 31).flatMap fun k => (List.range 128).filter fun d => distTo x y d = k

/-- Where a gang may go (R364, R381): near AFF, else near its source die while in transit, never on that die; `bar` excludes dies. -/
def findSpot (s : State) (held : List ClusterId) (bar : Nat → Bool) (t : Task) (g : Gang) : Option Spot :=
  let src := if g.transit then g.mig.map (·.source) else none
  let near := if t.d 176 176 = 1 then some (combX (t.d 183 177), combY (t.d 183 177)) else src.map fun d => (dieX d, dieY d)
  ((dieOrder near).filter fun d => qualifies s (gangReq t g) d && src != some d && !bar d).findSome? (findRect s held t.gw t.gh)

/-- Whether the placement of a gang is possible (R364): some die in service has every subset it needs, and some die in service has its
W × H good cores in a 6×6 cluster rectangle, which is the whole die. -/
def placeable (s : State) (t : Task) (g : Gang) : Bool :=
  (List.range 128).any (qualifies s (gangReq t g)) && (List.range 128).any fun d => t.gw * t.gh ≤ goodCores s d

/-! ### Parking (10 R246-R250) -/

/-- Size of an image (10 R247). -/
def imageSize (split : Nat) : Nat := 6144 + splitBytes split + splitBytes split / 128

def clX (c : CoreId) : Nat := coreCC c % 6
def clY (c : CoreId) : Nat := coreCC c / 6
/-- The other cores of a core's cluster in order of distance, then CC. -/
def lenders (c : CoreId) : List CoreId :=
  let all := (List.range 36).map fun k => mkCore (dieOf c) (coreCL c) k
  (List.range 11).flatMap fun k => all.filter fun e => absDiff (clX e) (clX c) + absDiff (clY e) (clY c) = k
/-- Free parking slots of a core: those of its lent ways with V = 0 (10 R246, R250). -/
def Core.freeSlots (k : Core) : List Nat := if k.dead then [] else (List.range k.lent).filter fun i => (k.slots[i]?).any (·.isNone)
def freeSlots (s : State) (c : CoreId) : Nat := (coreOf s c).freeSlots.length

/-- Lenders of n slots for an image of a core of a gang; one entry per slot; none when the cluster lacks them. -/
def parkSlots (s : State) (gang : List CoreId) (c : CoreId) (n : Nat) : Option (List CoreId) :=
  let ls := ((lenders c).filter fun e => !gang.contains e).flatMap fun e => List.replicate (freeSlots s e) e
  if n ≤ ls.length then some (ls.take n) else none

/-- Take the slots of an image. -/
def takeSlots (tser gix lin : Nat) (cs : List CoreId) (s : State) : State :=
  let take (part : Nat) (k : Core) : Core := match k.freeSlots.head? with
    | some i => { k with slots := k.slots.setIfInBounds i (some ⟨tser, gix, lin, part⟩) }
    | none => k
  ((List.range cs.length).zip cs).foldl (fun s e => onCore e.2 (take e.1) s) s
/-- Free the slots of an image. -/
def freeImage (tser gix lin : Nat) (cs : List CoreId) (s : State) : State :=
  cs.eraseDups.foldl (fun s c =>
    onCore c (fun k => { k with slots := k.slots.map fun x => x.filter fun x => !(x.tser == tser && x.gix == gix && x.lin == lin) }) s) s

/-! ### Images in comb memory (10 R247, R248) -/

/-- Granule j of those that comb die n homes in HBM. -/
def combGranule (n j : Nat) : Nat := let base := j % 3932160 * 128; 4096 * (base + (n ^^^ combHome (4096 * base)))
/-- The first k granules of a comb die from the j-th that no image occupies. -/
def combPick (n : Nat) (used : List Nat) : Nat → Nat → Nat → List Nat
  | 0, _, _ => []
  | fuel + 1, j, k =>
    if k = 0 then []
    else if used.contains (combGranule n j) then combPick n used fuel (j + 1) k
    else combGranule n j :: combPick n used fuel (j + 1) (k - 1)
def allImages (s : State) : List Image := s.sched.tasks.flatMap fun t => t.gangs.flatMap (·.images)
/-- Free granules of a comb die for an image of a size, from a free place on. -/
def combPlace (n size : Nat) (s : State) : List Nat × State :=
  let used := (allImages s).flatMap (·.comb)
  let k := (size + 4095) / 4096
  (combPick n used (k + used.length) (Config.freeChoice s.free) k, { s with free := s.free + 1 })

/-- Bytes of the scratchpad partition of an image of a size. -/
def partOf (size : Nat) : Nat := (size - 6144) * 128 / 129
/-- The offset in an image of a physical address. -/
def Image.off? (i : Image) (pa : Nat) : Option Nat :=
  (((List.range i.comb.length).zip i.comb).findSome? fun e =>
    if e.2 ≤ pa && pa < e.2 + 4096 then some (4096 * e.1 + (pa - e.2)) else none).filter (· < i.size)
def Image.addr (i : Image) (off : Nat) : Nat := i.comb.getD (off / 4096) 0 + off % 4096

/-- The lines of an image in comb memory, in the order of their bytes; one in slots has none. -/
def Image.lines (i : Image) : List Nat :=
  if i.comb.isEmpty then [] else (List.range ((i.size + 63) / 64)).map fun k => i.addr (64 * k) / 64

/-- The image's bytes from 2,048 on that are not 0 (R247): spill words below SPILLN, scratchpad, full/empty bits. -/
def Image.bytes (i : Image) : List (Nat × Byte) :=
  let p := partOf i.size
  let bits := i.full.foldl (fun (m : SMap Byte) e => SMap.set 0 m (e.1 / 8) (SMap.get 0 m (e.1 / 8) ||| BitVec.ofNat 8 (2 ^ (e.1 % 8)))) []
  ((i.st.spill.filter fun e => e.1 < i.st.spilln).flatMap fun e =>
      ((List.range 8).zip (natBytes 8 e.2.toNat)).map fun b => (2048 + 8 * e.1 + b.1, b.2)) ++
    i.scratch.map (fun e => (6144 + e.1, e.2)) ++ bits.map fun e => (6144 + p + e.1, e.2)

/-- Write an image into its granules. Bytes 0 to 2,047, whose layout the spec does not give beyond their contents, take free values; the
strand's shadow set and trap state stand in `st` (DESIGN CHOICE, log entry 123). Its lines are modified in their slices (11 R253). -/
def putImage (i : Image) (s : State) : Image × State :=
  let bs := (List.range 2048).map (fun k => (k, Config.freeByte s.free k)) ++ i.bytes
  let m := s.mem.filter fun e => (i.off? e.1).isNone
  ({ i with st := { i.st with spill := [] }, scratch := [], full := [] },
   i.lines.foldl (fun s l => modLine l true s) { s with mem := SMap.setAll 0 m (bs.map fun b => (i.addr b.1, b.2)), free := s.free + 1 })
/-- Read it back. -/
def getImage (i : Image) (s : State) : Image :=
  if i.comb.isEmpty then i
  else
    let bs := s.mem.filterMap fun e => (i.off? e.1).map fun o => (o, e.2)
    let p := partOf i.size
    let spill := bs.foldl (fun (m : SMap Word) b => if 2048 ≤ b.1 && b.1 < 6144 then
      let k := (b.1 - 2048) / 8
      SMap.set 0 m k (SMap.get 0 m k + word (b.2.toNat * 2 ^ (8 * ((b.1 - 2048) % 8)))) else m) []
    let scr := (bs.filter fun b => 6144 ≤ b.1 && b.1 < 6144 + p).map fun b => (b.1 - 6144, b.2)
    let full := (bs.filter fun b => 6144 + p ≤ b.1).flatMap fun b =>
      ((List.range 8).filter fun k => b.2.getLsbD k).map fun k => (8 * (b.1 - 6144 - p) + k, true)
    { i with st := { i.st with spill := spill }, scratch := SMap.setAll 0 [] scr, full := SMap.setAll false [] full }

end Sys2Proof.Machine
end

