-- ==== Sys2Proof/Machine/Gangs.lean ====
section
/-! DEFINITION. Gangs (16 R364-R367, 17 R380-R385, 10 R231, R236, R242-R250, 01 R19, R29): start, eviction, parking, resume, the end of a
strand and of a task. -/

namespace Sys2Proof.Machine

/-! ### Rounds and LSTATE -/

/-- Ask for a scheduler round at the next clock, if none is due by then. -/
def askRound (at_ : Nat) (s : State) : State :=
  if s.agenda.any fun d => d.act == .schedulerRound && decide (d.at_ ≤ at_) then s else due at_ .schedulerRound s

/-- The launches of which a signature has come and that this module has not made: each with the modules of its group, which its signature
names (24 R439). -/
def unlaunched (s : State) : List (Nat × Nat × List (BitVec 17)) :=
  ((s.wsigs.filter fun x => !s.colls.any fun c => c.tag == x.1 && c.launch == x.2.1).map fun x =>
    (x.1, x.2.1, ((x.2.2.2.drop 5).take (bits ((x.2.2.2[0]?).getD 0).toNat 24 8 + 1)).map (·.setWidth 17))).eraseDups

/-- A group's collective that this module will not launch any more aborts on the others (24 R446). -/
def abortUnlaunched (s : State) : State :=
  (unlaunched s).foldl (fun s x =>
    (x.2.2.filter (· != ownModule s)).foldl (fun s m => sendG m (.abort x.1 x.2.1 false) s) s) s

/-- Every change of LSTATE signals vector 0 (15 R339, R342). A module that leaves RUN aborts its collectives, those of which it has seen
another rank's signature among them (24 R446), and drops what came for launches that the job has not made: the next job counts its launches
anew (24 R439, log entry 126). -/
def setLstate (n : Nat) (s : State) : State :=
  if s.host.lstate = n then s
  else
    let left := s.host.lstate == 2
    let s := signal 0 { s with host := { s.host with lstate := n } }
    if left then abortColls (fun _ => true) { abortUnlaunched s with waborts := [], wsigs := [], wchunks := [], wvals := [] } else s

/-- The job is in CHECK or RUN. -/
def jobLive (s : State) : Bool := s.host.lstate == 1 || s.host.lstate == 2

/-! ### Gang start -/

/-- The multicast window of a core (10 R230, R231). -/
def windowOf (t : Task) (cores : List CoreId) (c : CoreId) : BitVec 128 :=
  let base := t.d 337 320
  let len := t.d 355 338
  let self := t.d 186 186
  let ts := cores.filter fun e => clusterOf e == clusterOf c && (self == 1 || e != c)
  let mask := ts.foldl (fun m e => m + 2 ^ coreCC e) 0
  BitVec.ofNat 128 (base + len * 2 ^ 18 + mask * 2 ^ 36 + self * 2 ^ 72 + b2n (len != 0) * 2 ^ 73)

/-- A core that carries no strand (10 R246): cleared, but for what belongs to the core itself; MCW with it (DESIGN CHOICE, log entry 157).
DBGCTL is the debug interface's alone (01 R21). -/
def bareCore (k : Core) : Core :=
  { Core.init k.id with
    pts := k.pts, slots := k.slots, mskew := k.mskew, dead := k.dead, sstep := k.sstep, brken := k.brken, dstop := k.dstop,
    dstopAt := k.dstopAt }

/-- The clearing of a core at a gang start lasts longer than a multicast's flight, and no other agent reaches the window during it: a
multicast of an earlier gang that is under way is lost on that core (04 R107). -/
def dropMcs (c : CoreId) (s : State) : State :=
  { s with mcs := s.mcs.map fun m => { m with targets := m.targets.filter (· != c) } }

/-- A core as the dispatcher leaves it for a gang: cleared, split, its lent ways and window (10 R246, R365; 04 R107). -/
def configCore (t : Task) (park : Nat) (cores : List CoreId) (k : Core) : Core :=
  { bareCore k with
    split := t.split, lent := Nat.min park (splitWays t.split), pts := Nat.max k.pts t.t, mcw := windowOf t cores k.id }

/-- PTS as a strand begins a region on a core it has just been placed on (12 R272). -/
def startPts (now : Nat) (k : Core) : Core := { k with pts := Nat.max k.pts (now / 16) }

/-- The start state of a strand (01 R19, 02 R76). -/
def startStrand (t : Task) (gix lin : Nat) : Strand :=
  let hb := t.d 120 64 / 64
  let pc : BPc := BitVec.ofNat 51 (hb + bits (t.h (512 + 64 * t.d 123 121 + 63) (512 + 64 * t.d 123 121)) 50 0)
  let tr := t.h 159 128
  let seed := word (t.d 319 256 + lin)
  let a := { Arch.init with
    pc := pc, regs := ((Vector.replicate 32 (0 : Word)).set 1 (word (t.d 248 192))).set 2 (word lin),
    seed := if seed = 0 then 1 else seed }
  { Strand.init with
    a := a, shadow := a, ckptPc := pc, trapBase := if tr = 0 then 0 else BitVec.ofNat 51 (hb + tr), lathdr := BitVec.ofNat 48 (t.h 111 64),
    gangId := word (gix + t.tser % 2 ^ 32 * 2 ^ 16),
    gangDim := word (t.gw + t.gh * 2 ^ 16 + t.gcnt * 2 ^ 32),
    strandIx := word (lin % t.gw + lin / t.gw * 2 ^ 16 + lin * 2 ^ 32), spilln := t.h 201 192, ckDone := true, run := .running }

/-- The home comb die of a task (10 R248). -/
def taskComb (t : Task) : Nat := if t.d 176 176 = 1 then t.d 183 177 else combHome t.pa

/-- Move image k of a gang to comb memory (10 R249), if it is the strand's that a slot names and still stands in slots. -/
def moveImage (x : Slot) (k : Nat) (s : State) : State :=
  match taskOf s x.tser, gangOf s x.tser x.gix with
  | some t, some g =>
    match g.images[k]? with
    | none => s
    | some i =>
      if i.lin != x.lin || i.slotsOf.isEmpty then s
      else
        let (gs, s) := combPlace (taskComb t) i.size s
        let (j, s) := putImage { i with slotsOf := [], comb := gs } s
        setGang x.tser { g with images := g.images.set k j } (freeImage x.tser x.gix x.lin i.slotsOf s)
  | _, _ => s
/-- Move every image of the strand that uses a slot. -/
def moveImages (s : State) (x : Slot) : State :=
  (List.range ((gangOf s x.tser x.gix).elim 0 (·.images.length))).foldl (fun s k => moveImage x k s) s

/-- Take back the ways of a core that its next gang does not lend. -/
def reclaimSlots (c : CoreId) (lent : Nat) (s : State) : State :=
  (((coreOf s c).slots.toList.drop lent).filterMap id).foldl moveImages s

/-- Configure the cores of a placement. -/
def configGang (t : Task) (park : Nat) (sp : Spot) (s : State) : State :=
  sp.cores.foldl (fun s c =>
    dropMcs c (onCore c (configCore t park sp.cores) (reclaimSlots c (Nat.min park (splitWays t.split)) s))) s

/-- The physical segments that a task uses. -/
def taskSegs (s : State) (t : Task) : List Nat :=
  match regionOf s t.rnum with
  | none => []
  | some r => ((List.range 2).filter fun b => bit t.segu b).filterMap fun b => r.segs[b]?

/-- Change the segments of a task. -/
def onSegs (s : State) (t : Task) (f : Seg → Seg) : State :=
  (taskSegs s t).foldl (fun s i =>
    let old := (findKey s.segs i).getD ⟨false, 0, [], [], [], [], 0, 0⟩
    { s with segs := putKey s.segs i (f old) }) s

/-- Arm a task's segments for the cores of all its gangs (10 R236). -/
def armSegs (t : Task) (cores : List CoreId) (s : State) : State :=
  onSegs s t fun g => { g with armed := true, tser := t.tser, member := cores, arrived := [], excuse := [], away := [] }
def disarmSegs (t : Task) (s : State) : State :=
  onSegs s t fun g => if g.tser = t.tser then { g with armed := false, member := [], arrived := [], excuse := [], away := [] } else g

/-- The quantum of a gang begins (16 R366). -/
def startQuantum (tser gix quant : Nat) (s : State) : State :=
  if quant = 0 then s else due (s.now + 1024 * quant) (.quantumExpiry tser gix) s

/-- Start a gang at a place (16 R365). -/
def startGang (t : Task) (g : Gang) (sp : Spot) (s : State) : State :=
  let r := regionOf s t.rnum
  let s := configGang t ((r.map (·.park)).getD 0) sp s
  let s := ((List.range sp.cores.length).zip sp.cores).foldl (fun s e =>
    onCore e.2 (fun k => startPts s.now { k with st := startStrand t g.gix e.1 }) s) s
  let s := setGang t.tser { g with st := .running, rect := sp.rect, cores := sp.cores, qstart := s.now, fresh := sp.cores } s
  let s := if s.host.lstate = 1 then setLstate 2 s else s
  startQuantum t.tser g.gix ((r.map (·.quant)).getD 0) s

/-! ### Eviction (16 R366, 17 R380) -/

/-- Whether a running copy reads or writes a scratchpad of some cores (13 R305). -/
def copiesTouch (s : State) (cores : List CoreId) : Bool :=
  s.copies.any fun o => (o.l.dpad && cores.contains (padCore o.l.dst)) || (o.l.spad && cores.contains (padCore o.l.src))

/-- What an eviction waits for (10 R235, R245; 13 R303, R305): multicasts, barrier releases, copies and launches, commits. -/
def evictReady (s : State) (g : Gang) : Bool :=
  !(s.mcs.any fun m => g.rect.contains (clusterOf m.sender)) && !copiesTouch s g.cores &&
    !(s.launchq.any fun q => g.cores.contains q.core) &&
    !(s.agenda.any fun d => match d.act with | .bwaitReturn c => g.cores.contains c | _ => false) &&
    g.cores.all fun c => (coreOf s c).commit.isNone

/-- A strand as it is withheld from issue. -/
def withhold (k : Core) : Core := if k.st.run == .running then { k with st := { k.st with run := .withheld } } else k

/-- Begin the eviction of a gang, and with it of every gang of an armed task (10 R245). -/
def beginEvict (tser gix : Nat) (s : State) : State :=
  match taskOf s tser with
  | none => s
  | some t =>
    let gs := t.gangs.filter fun g => g.st == .running && (g.gix == gix || t.segu != 0)
    askRound s.now (gs.foldl (fun s g =>
      setGang tser { g with st := .evicting } (g.cores.foldl (fun s c => onCore c withhold s) s)) s)

/-- Roll the focused strand back for an eviction or its end, with its deltas flushed and its pin given up. -/
def quit (s : State) : State :=
  let s := finishApplies 128 s
  let s := if s.core.st.run == .halted then s else rollback finishSaves (resumePc s.core.st) s
  releaseToken (flushDeltas s)

/-- The run state of a parked strand: one withheld, or stopped only by its migrate trap, goes on at its resume. -/
def parkedRun (t : Strand) : Run :=
  match t.run with
  | .stopped => if bits t.trapCause.toNat 7 0 = cMigrate then .withheld else .stopped
  | r => r

/-- Park the strand of one core: its image goes to slots of its cluster, else to comb memory (10 R247, R248). -/
def parkStrand (t : Task) (g : Gang) (lin : Nat) (c : CoreId) (s : State) : State × Image :=
  let k0 := s.core.id
  let s := focus k0 (quit (focus c s))
  let k := coreOf s c
  let size := imageSize k.split
  let slots := parkSlots s g.cores c ((size + 16383) / 16384)
  let st := { k.st with retry := 0, pin := false, run := parkedRun k.st }
  let i : Image := ⟨lin, st, k.scratch, k.full, c, k.pts, slots.getD [], [], size, none, false⟩
  match slots with
  | some cs => (takeSlots t.tser g.gix lin cs s, i)
  | none =>
    let (gs, s) := combPlace (taskComb t) size s
    let (i, s) := putImage { i with comb := gs } s
    (s, i)

/-- The barrier bits of a gang's cores become those of parked strands; only a halted strand stays excused, since the core that a
strand resumes on is a new member. -/
def segsAway (g : Gang) (halted : List CoreId) (sg : Seg) : Seg :=
  let mine := ((List.range g.cores.length).zip g.cores).filter fun e => sg.member.contains e.2
  { sg with
    member := sg.member.filter fun c => !g.cores.contains c, arrived := sg.arrived.filter fun c => !g.cores.contains c,
    excuse := sg.excuse.filter fun c => !g.cores.contains c,
    away := sg.away ++ mine.map fun e => ⟨g.gix, e.1, sg.arrived.contains e.2, halted.contains e.2⟩ }
def segsBack (gix : Nat) (cores : List CoreId) (sg : Seg) : Seg :=
  let mine := sg.away.filter fun a => a.gix == gix
  let at_ (a : Away) : CoreId := (cores[a.lin]?).getD 0
  { sg with
    away := sg.away.filter fun a => a.gix != gix, member := sg.member ++ mine.map at_,
    arrived := sg.arrived ++ (mine.filter (·.arrived)).map at_, excuse := sg.excuse ++ (mine.filter (·.excused)).map at_ }

/-- Leave cores without strands. -/
def clearCores (cores : List CoreId) (s : State) : State := cores.foldl (fun s c => onCore c bareCore s) s

/-- Free the images that a resumed gang still keeps. -/
def freeImages (tser : Nat) (g : Gang) (s : State) : State :=
  g.images.foldl (fun s i => freeImage tser g.gix i.lin i.slotsOf s) (setGang tser { g with images := [] } s)

/-- The target die of a migration has failed before every strand of the gang has issued its first bundle there (17 R385). -/
def targetFailed (s : State) (g : Gang) : Bool := g.landing && !g.fresh.isEmpty && g.cores.any fun c => s.ctl.deadDies.contains (dieOf c)

/-- Whether the image that a gang keeps of a strand stays what a resume reads: the gang goes back to its intact images from a failed target
die, or the strand was not resumed from it, since a line of it was poisoned (17 R385). Any other eviction captures the strand's state anew
(17 R380 step 4). -/
def Image.stands (failed : Bool) (i : Image) : Bool := !i.old && (failed || i.poison.isSome)

/-- The images of an evicted gang once one of its strands is parked: its kept image stands, with the PTS of the core that the strand leaves
now (12 R272), or a new one replaces it. -/
def parkOne (t : Task) (g : Gang) (lin : Nat) (c : CoreId) (imgs : List Image) (s : State) : State :=
  let stay (i : Image) : Bool := i.lin == lin && i.stands (targetFailed s g)
  if imgs.any stay then
    let k0 := s.core.id
    let s := focus k0 (quit (focus c s))
    let pts := (coreOf s c).pts
    setGang t.tser { g with images := imgs.map fun i => if stay i then { i with pts := Nat.max i.pts pts } else i } s
  else
    let (s, i) := parkStrand t g lin c s
    setGang t.tser { g with images := (imgs.map fun j => if j.lin = lin then { j with old := true } else j) ++ [i] } s

/-- The migration record of a gang that is evicted before the first bundle of its migration, or from a failed target die: the gang is in
transit again, and that migration does not count (17 R384, R385; log entry 138). -/
def MigRec.back (failed : Bool) (m : MigRec) : MigRec :=
  if m.tres = 0 then { m with target := 0 }
  else if failed then { m with target := 0, tres := 0, nmig := m.nmig - 1 }
  else m

/-- Evict a gang: roll back, flush, park, and free its rectangle (16 R366). -/
def evictGang (t : Task) (g : Gang) (s : State) : State :=
  let failed := targetFailed s g
  let s := ((List.range g.cores.length).zip g.cores).foldl (fun s e =>
    parkOne t g e.1 e.2 ((gangOf s t.tser g.gix).elim [] (·.images)) s) s
  let imgs := (gangOf s t.tser g.gix).elim [] (·.images)
  let halted := ((List.range g.cores.length).zip g.cores).filter fun e => imgs.any fun i => !i.old && i.lin == e.1 && i.st.run == .halted
  let s := onSegs s t fun sg => if sg.tser = t.tser then segsAway g (halted.map (·.2)) sg else sg
  let mig := g.mig.map (MigRec.back failed)
  setGang t.tser { g with
    st := .parked, rect := [], cores := [], images := imgs, fresh := [], landing := false, mig := mig,
    transit := g.transit || mig.any fun m => m.tres == 0 } (clearCores g.cores s)

/-- Bytes of a gang's images that no parking slot would take, with the slots that it would take taken. -/
def combNeed1 (s : State) (g : Gang) : State × Nat :=
  g.cores.foldl (fun (acc : State × Nat) c =>
    let size := imageSize (coreOf acc.1 c).split
    match parkSlots acc.1 g.cores c ((size + 16383) / 16384) with
    | some cs => (takeSlots 0 0 0 cs acc.1, acc.2)
    | none => (acc.1, acc.2 + size)) (s, 0)

/-- The gangs that an eviction of one gang evicts (10 R245). -/
def evictSet (t : Task) (g : Gang) : List Gang := if t.segu = 0 then [g] else t.gangs.filter fun x => x.st == .running

/-- The comb memory, by region, that gangs still being evicted and the eviction of a gang will need. -/
def combNeed (s : State) (t : Task) (g : Gang) : List (Nat × Nat) :=
  let going := s.sched.tasks.flatMap fun x => (x.gangs.filter fun y => y.st == .evicting).map fun y => (x.rnum, y)
  ((going ++ (evictSet t g).map fun y => (t.rnum, y)).foldl (fun (acc : State × List (Nat × Nat)) e =>
    let (s, n) := combNeed1 acc.1 e.2
    (s, acc.2 ++ [(e.1, n)])) (s, [])).2

/-! ### Resume (17 R380 step 8, R383) -/

/-- A core with a parked image written to it. -/
def imageCore (i : Image) (k : Core) : Core :=
  let st := { i.st with
    spill := i.st.spill.filter fun e => e.1 < i.st.spilln,
    run := if i.st.run == .withheld then .running else i.st.run }
  { k with st := st, scratch := i.scratch, full := i.full, pts := Nat.max k.pts i.pts }

/-- A class E fault of a task or, with no task, of a region. -/
def taskFault (tser rnum code : Nat) (info : Word) (s : State) : State :=
  due s.now (.faultReport ⟨false, code, info, 0, 0, tser, rnum, 0, 0, 0, s.now⟩) s
/-- A scheduler cause, whose TRAPINFO the spec does not state (16 R370): a free value. -/
def schedFault (tser rnum code : Nat) (s : State) : State :=
  taskFault tser rnum code (word (Config.freeChoice s.free)) { s with free := s.free + 1 }

/-- Step 8 for one strand: its image is written to the core at its place, its lines read by way of their slices; the strand of an image
of which a line is poisoned is not resumed (17 R385). -/
def resumeImage (tser : Nat) (cores : List CoreId) (s : State) (i : Image) : State :=
  let c := (cores[i.lin]?).getD 0
  let s := touchAll i.lines s
  let j := getImage i s
  match i.poison with
  | some pa => taskFault tser 0 cPoison (word pa) (onCore c (fun k => { imageCore j k with st := { i.st with run := .stopped } }) s)
  | none => onCore c (fun k => startPts s.now (imageCore j k)) s

/-- The gang of a task once its place is configured, which may have moved its images (10 R249), each with the first poisoned line that
step 8 finds in it. -/
def gangImages (s : State) (tser : Nat) (g : Gang) : Gang :=
  let g := (gangOf s tser g.gix).getD g
  { g with images := g.images.map fun i => if i.old then i else { i with poison := (i.lines.find? (poisoned s)).map (64 * ·) } }

/-- Resume a gang at a place (17 R380 step 8). Its images are kept until every strand to resume has issued a bundle (17 R385). -/
def resumeGang (t : Task) (g : Gang) (sp : Spot) (s : State) : State :=
  let r := regionOf s t.rnum
  let s := configGang t ((r.map (·.park)).getD 0) sp s
  let g := gangImages s t.tser g
  let now_ := g.images.filter fun i => !i.old
  let s := now_.foldl (resumeImage t.tser sp.cores) s
  let s := onSegs s t fun sg => if sg.tser = t.tser then segsBack g.gix sp.cores sg else sg
  let mig := if g.transit then g.mig.map fun m => { m with target := sp.die } else g.mig
  let lost := (now_.filter fun i => i.poison.isSome).map fun i => (sp.cores[i.lin]?).getD 0
  let runs := sp.cores.filter fun c => (coreOf s c).st.run == .running || lost.contains c
  let s := setGang t.tser { g with
    st := .running, rect := sp.rect, cores := sp.cores, qstart := s.now, transit := false, mig := mig, fresh := runs, landing := g.transit } s
  let s := match gangOf s t.tser g.gix with
    | some g => if runs.isEmpty then freeImages t.tser g s else s
    | none => s
  startQuantum t.tser g.gix ((r.map (·.quant)).getD 0) s

/-- The first bundle that the focused strand issues since its gang's start or resume. The first of a migrated gang sets TRES and raises
NMIG (17 R384); once every strand has issued one, the images are freed (17 R385). -/
def firstBundle (s : State) : State :=
  match gangOf s (ownTser s) (ownGix s) with
  | some g =>
    if !g.fresh.contains s.core.id then s
    else
      let first (m : MigRec) : MigRec := if m.tres = 0 then { m with tres := s.now, nmig := Nat.min 15 (m.nmig + 1) } else m
      let g := { g with fresh := g.fresh.filter (· != s.core.id), mig := g.mig.map first }
      let s := setGang (ownTser s) g (mapCore (startPts s.now) s)
      if g.fresh.isEmpty then freeImages (ownTser s) { g with landing := false } s else s
  | none => s

/-! ### The end of strands and tasks -/

/-- Whether every strand of a gang has halted. -/
def gangHalted (s : State) (g : Gang) : Bool := g.cores.all fun c => (coreOf s c).st.run == .halted

/-- The focused strand ends (01 R26). Pieces that slots of the `halt` bundle itself hold never commit (DEDUCED, log entry 10). A push whose landing cycle lies beyond the last strand cycle stays pending and never lands (04 R121,
DESIGN CHOICE, log entry 144). Its core retires from its segments (10 R242); its gang, and its task, may be complete. -/
def strandEnds (s : State) : State :=
  let s := flushDeltas (mapSt (fun t => { t with run := .halted }) s)
  let s := retireCore s.core.id s
  match taskOf s (ownTser s), gangOf s (ownTser s) (ownGix s) with
  | some t, some g =>
    let s := setTask { t with t := Nat.max t.t s.core.pts } s
    if !gangHalted s g then s
    else
      let s := setGang t.tser { g with st := .halted } s
      match taskOf s t.tser with
      | some t' => if t'.gangs.all fun x => x.st == .halted then due s.now (.taskComplete t.tser) (disarmSegs t s) else s
      | none => s
  | _, _ => s

/-- Kill a task (16 R372): every strand is rolled back and ended, images are freed, registrations discarded; its DONE add follows. -/
def killTask (tser : Nat) (s : State) : State :=
  match taskOf s tser with
  | none => s
  | some t =>
    if t.st == .ending || t.st == .done || t.st == .killed then s
    else
      let cs := t.gangs.flatMap (·.cores)
      let k0 := s.core.id
      let s := cs.foldl (fun s c => mapSt (fun k => { k with run := .idle }) (quit (focus c s))) s
      let s := focus k0 s
      let pts := (cs.map fun c => (coreOf s c).pts).foldl Nat.max t.t
      let s := t.gangs.foldl (fun s g => freeImages tser g s) s
      let s := { s with waiters := s.waiters.filter fun w => match w.who with | .dep k _ => k != tser | _ => true }
      let gs := t.gangs.map fun g => { g with st := if g.st == .halted then .halted else .killed, images := [], transit := false, mig := none, fresh := [], landing := false }
      due s.now (.taskComplete tser) (disarmSegs t (setTask { t with st := .ending, unmet := [], gangs := gs, t := pts } s))

/-- A core's retirement leaves its task's gang on cores that copies still touch: they are freed once no copy touches them (13 R305). -/
def releaseGangs (t : Task) (s : State) : State :=
  let free := t.gangs.filter fun g => !copiesTouch s g.cores
  free.foldl (fun s g => setGang t.tser { g with rect := [], cores := [] } (clearCores g.cores s)) s

end Sys2Proof.Machine
end

