-- ==== Sys2Proof/Machine/Tables.lean ====
section
/-! DEFINITION. Replica tables (18 R386-R389, R399): their fields, the check at registration, single-access writes of an engine to job
memory (12 R285), and publications. -/

namespace Sys2Proof.Machine

/-! ### An engine's reads and writes of job memory -/

/-- Go on with a value read, try again after a pool transaction if it needs one, or meet an error. -/
def engTry {α : Type} (retry : State → State) (bad : MemErr → State → State) (r : Except MemErr α) (k : α → State → State) (s : State) : State :=
  match r with
  | .ok a => k a s
  | .error (.fetch tx) => retry (askPool tx s)
  | .error .wait => retry s
  | .error e => bad e s

/-- Bytes cut at line boundaries. -/
def lineCuts : Nat → Nat → List Byte → List (Nat × List Byte)
  | 0, _, _ => []
  | fuel + 1, va, bs =>
    if bs.isEmpty then []
    else
      let k := 64 - va % 64
      (va, bs.take k) :: lineCuts fuel (va + k) (bs.drop k)

/-- One write of parts of job memory, at the places that `xl` gives their addresses, as one single-access write later than t: k receives its
time. While a home cannot take it, it is tried again. -/
def putVia (xl : Nat → Except MemErr Nat) (retry : State → State) (bad : MemErr → State → State) (t : Nat) (parts : List (Nat × List Byte))
    (k : Nat → State → State) (s : State) : State :=
  let cuts := parts.flatMap fun (va, bs) => lineCuts (bs.length / 64 + 2) va bs
  let xs := cuts.map fun (va, bs) => (xl va, bs)
  match worstErr (xs.filterMap fun x => match x.1 with | .error e => some e | .ok _ => none) with
  | some e => bad e s
  | none =>
    let ps := xs.map fun x => ((match x.1 with | .ok pa => pa | .error _ => 0), x.2)
    let sts := ps.map fun (pa, bs) => (pa / 64, lineReady s (pa / 64) (bs.length == 64) none)
    match sts.find? fun e => e.2 == .poison with
    | some (l, _) => bad (.poison (64 * l)) s
    | none =>
      if sts.any fun e => e.2 != .ok then
        retry (sts.foldl (fun s e => match e.2 with | .fetch tx => askPool tx s | _ => s) s)
      else
        let tt := ps.foldl (fun m (pa, _) => Nat.max m (afterLine s (pa / 64) t)) (t + 1)
        k tt (ps.foldl (fun s (pa, bs) => stampLine (pa / 64) tt (bs.length == 64) (wrBytes pa bs s)) s)

/-- The same, at the places that the page tables give now. -/
def engPut (retry : State → State) (bad : MemErr → State → State) (acc : Acc) (t : Nat) (parts : List (Nat × List Byte)) (k : Nat → State → State)
    (s : State) : State := putVia (engXlate s acc) retry bad t parts k s

/-- Replace bits [hi:lo] of a number. -/
def setBits (n hi lo v : Nat) : Nat := n - bits n hi lo * 2 ^ lo + v % 2 ^ (hi + 1 - lo) * 2 ^ lo

/-- What a read must wait for, if it must wait. -/
def waitsOn {α : Type} (r : Except MemErr α) : Option (Option PoolTx) := match r with | .error e => e.again? | .ok _ => none

/-- A counter's value as an engine reads it. -/
def ctrNow (s : State) (va : Nat) : Except MemErr Nat := engNat .ctrRd s va 8

/-! ### Fields (R386, R387) -/

def entVa (tab e : Nat) : Nat := tab + 1024 * (e + 1)
def slotVa (tab e r : Nat) : Nat := tab + 1024 * (e + 1) + 64 * (r + 1)
def tabHdr (s : State) (tab : Nat) : Except MemErr Nat := engNat .rd s tab 128
def tabEnt (s : State) (tab e : Nat) : Except MemErr Nat := engNat .rd s (entVa tab e) 64
def tabSlot (s : State) (tab e r : Nat) : Except MemErr Nat := engNat .rd s (slotVa tab e r) 64

def hdrNexp (h : Nat) : Nat := bits h 26 16
def hdrMaxr (h : Nat) : Nat := bits h 29 27
def hdrSlots (h : Nat) : Nat := 2 ^ bits h 39 36
/-- Bytes of an inbox slot (R389). -/
def hdrSlotBytes (h : Nat) : Nat := 64 + 256 * bits h 35 30
def hdrLoad (h e : Nat) : Nat := bits h 184 128 + 16 * e
def slotInbox (w : Nat) : Nat := bits w 120 64
def slotRctr (w : Nat) : Nat := bits w 184 128
def slotCctr (w : Nat) : Nat := bits w 248 192
def slotWeights (w : Nat) : Nat := bits w 312 256
def slotGrad (w : Nat) : Nat := bits w 376 320
def slotTask (w : Nat) : Nat := bits w 440 384
def slotLeaf (w : Nat) : Nat := bits w 504 448

def hdrFields : List (Nat × Nat) :=
  [(67, 0), (71, 68), (184, 128), (248, 192), (312, 256), (383, 320), (447, 384)]
def entFields : List (Nat × Nat) := [(37, 0), (127, 64)]
def slotFields : List (Nat × Nat) :=
  [(2, 0), (47, 16), (120, 64), (184, 128), (248, 192), (312, 256), (376, 320), (440, 384), (504, 448)]

/-! ### Registration (R388) -/

/-- The ranges of the header. -/
def hdrOk (h : Nat) : Bool :=
  onlyFields h hdrFields && 1 ≤ bits h 15 0 && 1 ≤ hdrNexp h && hdrNexp h ≤ 1024 && 1 ≤ bits h 35 30 && 4 ≤ bits h 39 36 &&
    16 ≤ bits h 55 48 && bits h 63 56 ≤ 15 && 1 ≤ bits h 67 64 && 1 ≤ bits h 71 68 && bits h 351 320 % 64 = 0 && bits h 383 352 % 64 = 0

/-- A counter that a table may name: aligned, on a SYNC page, readable, with CEIL = 0. Its home may have to fetch its line first. -/
def freeCtr (s : State) (va : Nat) : Except MemErr Bool :=
  match engCounter s va with
  | .error _ => .ok false
  | .ok pa => match engServes s (pa / 64) with
    | .ok _ => .ok (ctrCeil s pa = 0)
    | .error e => if e.again?.isSome then .error e else .ok false

/-- Every page of an area translates. -/
def areaOk (s : State) (va n : Nat) : Bool :=
  (unitsOf va (Nat.max 1 n)).all fun a => match walk s (Nat.max va a) with | .ok _ => true | .error _ => false

/-- The checks of one replica slot. -/
def slotOk (s : State) (h r w : Nat) : Except MemErr Bool := do
  let a ← freeCtr s (slotRctr w)
  let b ← freeCtr s (slotCctr w)
  .ok (onlyFields w slotFields && bits w 2 0 ≤ 5 && (r != 0 || bits w 2 0 = 2) && slotInbox w % 256 = 0 && a && b && areaOk s (slotInbox w) (hdrSlots h * hdrSlotBytes h) && areaOk s (slotWeights w) (bits h 351 320) &&
    areaOk s (slotGrad w) (bits h 383 352) && areaOk s (slotTask w) 128 && areaOk s (slotLeaf w) 256)

/-- The checks of one expert's block. -/
def blockOk (s : State) (tab h e : Nat) : Except MemErr Bool := do
  let ent ← tabEnt s tab e
  let rest ← engNat .rd s (entVa tab e + 576) 448
  let slots ← (List.range (hdrMaxr h + 1)).mapM fun r => do
    let w ← tabSlot s tab e r
    slotOk s h r w
  let load ← freeCtr s (hdrLoad h e)
  .ok (onlyFields ent entFields && rest = 0 && load && slots.all (· == true))

/-- The checks of a table. -/
def tableOk (s : State) (tab : Nat) : Except MemErr Bool := do
  let h ← tabHdr s tab
  let rest ← engNat .rd s (tab + 128) 896
  let a ← freeCtr s (bits h 248 192)
  let b ← freeCtr s (bits h 312 256)
  if !(tab % 1024 = 0 && hdrOk h && rest = 0 && a && b) then .ok false
  else
    let es ← (List.range (hdrNexp h)).mapM fun e => blockOk s tab h e
    .ok (es.all (· == true))

def findTable (s : State) (tab : Nat) : Option Table := s.tables.find? fun x => x.va == tab
def setTable (x : Table) (s : State) : State := { s with tables := s.tables.map fun y => if y.va = x.va then x else y }
/-- The latest time of the engine's pieces on a table. -/
def timeOf (s : State) (tab : Nat) : Nat := ((findTable s tab).map (·.t)).getD 0

/-- RES of a slot, and its update. -/
def resOf (s : State) (tab e r : Nat) : Nat := SMap.get 0 (((findTable s tab).map (·.res)).getD []) (8 * e + r)
def setRes (tab e r v : Nat) (s : State) : State :=
  { s with tables := s.tables.map fun (y : Table) => if y.va = tab then { y with res := SMap.set 0 y.res (8 * e + r) v } else y }

/-- Register the merge request that the table waits for (R398); a poisoned counter is not read, and takes no registration (13 R457). -/
def armMerge (tab : Nat) (s : State) : State :=
  match findTable s tab, tabHdr s tab with
  | some x, .ok h =>
    match engCounter s (bits h 248 192) with
    | .ok pa =>
      if poisoned s (pa / 64) then s else
      let (met, s) := registerWaiter ⟨pa, x.asked, false, .merge tab⟩ s
      if met then startMerge tab (dirOf s (pa / 64)).wts s else s
    | .error _ => s
  | _, _ => s

/-- RES of every slot at registration: VALUE of its RCTR. -/
def initRes (s : State) (tab h : Nat) : Except MemErr (SMap Nat) :=
  ((List.range (hdrNexp h)).flatMap fun e => (List.range (hdrMaxr h + 1)).map fun r => (e, r)).foldlM (fun m (e, r) => do
    let w ← tabSlot s tab e r
    let v ← engNat .ctrWr s (slotRctr w) 8
    .ok (SMap.set 0 m (8 * e + r) v)) []

/-- What the checks of a table read of its own page and of its counters. -/
def tableParts (s : State) (tab h : Nat) : List (Nat × Nat) :=
  (tab, 1024) :: (bits h 248 192, 16) :: (bits h 312 256, 16) :: (List.range (hdrNexp h)).flatMap fun e =>
    (entVa tab e, 1024) :: (hdrLoad h e, 16) :: (List.range (hdrMaxr h + 1)).flatMap fun r => match tabSlot s tab e r with
      | .ok w => [(slotRctr w, 16), (slotCctr w, 16)]
      | .error _ => []

/-- Register a table at the first `route` or `rtver` that names it; one that fails, or a 17th, is remembered as not registered. -/
def registerTable (tab : Nat) (s : State) : Except (Option PoolTx) State :=
  if (findTable s tab).isSome then .ok s
  else
    let bad : State := { s with tables := s.tables ++ [⟨tab, false, 0, [], 0, none, [], 0⟩] }
    match (do
      let ok ← tableOk s tab
      let h ← tabHdr s tab
      let res ← if ok then initRes s tab h else .ok []
      .ok (ok, h, res) : Except MemErr (Bool × Nat × SMap Nat)) with
    | .error (.fetch tx) => .error (some tx)
    | .error .wait => .error none
    | .ok (true, h, res) =>
      if 16 ≤ (s.tables.filter (·.ok)).length then .ok bad
      else
        let sper := bits h 47 40
        let x : Table := ⟨tab, true, s.now + 65536 * sper, res, bits h 447 384 % 2 ^ 64 + 1, none, [], 0⟩
        let s := engUse (tableParts s tab h) { s with tables := s.tables ++ [x] }
        .ok (armMerge tab (if sper = 0 then s else due x.next (.swarmSample tab) s))
    | _ => .ok bad

/-! ### Publication (R399) -/

/-- The ((key mod popcount(A)) + 1)-th set bit of A, from bit 0 (R392). -/
def pickReplica (a key : Nat) : Nat :=
  let is := (List.range 8).filter fun i => bit a i
  is.getD (key % Nat.max 1 is.length) 0

/-- The next version (R386). -/
def nextVersion (v : Nat) : Nat := if v = 65535 then 1 else v + 1

/-- One publication for an expert: the new version, its entry with a new AMASK, and the changed slots, later than the switch's pieces. -/
def publishTable (evt : Instr) (tab e : Nat) (amask : Nat → Nat) (ent : Nat → Nat) (slots : List (Nat × (Nat → Nat → Nat)))
    (k : State → State) (s : State) : State :=
  let parts : Except MemErr (List (Nat × List Byte)) := do
    let h ← tabHdr s tab
    let v := nextVersion (bits h 15 0)
    let n ← tabEnt s tab e
    let ss ← slots.mapM fun x => do
      let w ← tabSlot s tab e x.1
      .ok (slotVa tab e x.1, natBytes 64 (x.2 v w))
    .ok ([(tab, natBytes 64 (setBits (h % 2 ^ 512) 15 0 v)), (entVa tab e, natBytes 64 (ent (setBits n 7 0 (amask (bits n 7 0)))))] ++ ss)
  let wait (_ : MemErr) (s : State) : State := again evt s
  engTry (again evt) wait parts (fun ps s =>
    engPut (again evt) wait .rd (timeOf s tab) ps (fun t s => k (tableTime tab t s)) s) s

/-- What the merge request counter, or some entry, slot or load counter of a table must wait for, if any must. -/
def tableWaits (s : State) (tab h : Nat) : Option (Option PoolTx) :=
  (waitsOn (ctrNow s (bits h 248 192))).orElse fun _ => (List.range (hdrNexp h)).findSome? fun e =>
    (waitsOn (tabEnt s tab e)).orElse fun _ => (waitsOn (ctrNow s (hdrLoad h e))).orElse fun _ =>
      (List.range (hdrMaxr h + 1)).findSome? fun r => waitsOn (tabSlot s tab e r)

/-- The bytes at a virtual address as the engine last knew them. -/
def engKnown (s : State) (va n : Nat) : Nat := match engXlate s .rd va with | .ok pa => rdN s pa n | .error _ => 0

/-- The slots of registered tables whose replica a task is: slots that name its descriptor and are active, or whose publication follows the
append that has been made (18 R395, R396). -/
def replicasOf (s : State) (va : Nat) : List (Nat × Nat × Nat) :=
  (s.tables.filter (·.ok)).flatMap fun x =>
    let h := engKnown s x.va 64
    (List.range (hdrNexp h)).flatMap fun e => (List.range (hdrMaxr h + 1)).filterMap fun r =>
      let w := engKnown s (slotVa x.va e r) 64
      let made := s.switches.any fun y => y.tab == x.va && y.e == e && y.r == r && y.k == .replicate && 3 ≤ y.step
      if (bits w 2 0 = 2 || made) && slotTask w = va then some (x.va, e, r) else none

/-- The losses that the kill of a task by its fault domain means for the swarm engine (18 R396, R397). -/
def lossesOf (va : Nat) (s : State) : State :=
  (replicasOf s va).foldl (fun s (tab, e, r) => due s.now (if r = 0 then .replica0Loss tab e else .replicaLoss tab e r) s) s

end Sys2Proof.Machine
end

