-- ==== Sys2Proof/Machine/Scheduler.lean ====
section
/-! DEFINITION. The package scheduler (16; 17): launch and CHECK, queues and dependencies, rounds, quanta, migration, completion, faults,
`spawn` and `yield`. -/

namespace Sys2Proof.Machine

/-! ### The end of a job -/

/-- Discard the scheduler's registrations. -/
def dropRegs (s : State) : State :=
  { s with waiters := s.waiters.filter fun w => match w.who with | .dep _ _ => false | .queue _ => false | .job => false | _ => true }

/-- LSTATE FAULT (15 R339): every task not yet ended is killed and every registration discarded. -/
def jobFault (s : State) : State :=
  if !jobLive s then s else dropRegs ((s.sched.tasks.map (·.tser)).foldl (fun s k => killTask k s) (setLstate 4 s))

/-- Whether a gang of a started task still runs, is evicted or parked, or has yet to start (16 R354). -/
def workLeft (s : State) : Bool :=
  s.sched.tasks.any fun t => t.st == .ending || (t.st == .started && t.gangs.any fun g => g.st != .halted)

/-- LSTATE DONE once the job's counter has met its threshold and no work is left. -/
def checkJobEnd (s : State) : State :=
  if jobLive s && s.sched.jobDone && !workLeft s then setLstate 3 (dropRegs s) else s

/-! ### Queues (16 R359, R360) -/

/-- A task becomes ready when every registration is met. -/
def readyTask (tser : Nat) (s : State) : State :=
  match taskOf s tser with
  | some t => if t.st == .waiting && t.unmet.isEmpty then askRound s.now (setTask { t with st := .ready, rounds := 0 } s) else s
  | none => s

/-- One dependency is met, at a logical time (20 R405). -/
def depMet (tser k at_ : Nat) (s : State) : State :=
  match taskOf s tser with
  | some t => readyTask tser (setTask { t with unmet := t.unmet.filter (· != k), t := Nat.max t.t at_ } s)
  | none => s

/-- Register a dependency (16 R360); a poisoned counter, or a fault bit under DWF, fails the task with 0x42. -/
def registerDep (tser : Nat) (dwf : Bool) (e : Nat × Nat × Nat) (s : State) : State :=
  if poisoned s (e.2.1 / 64) then schedFault tser 0 0x42 s
  else
    let (met, s) := registerWaiter ⟨e.2.1, e.2.2, dwf, .dep tser e.1⟩ s
    if !met then s
    else if e.2.2 ≤ ctrValue s e.2.1 then depMet tser e.1 (dirOf s (e.2.1 / 64)).wts s
    else schedFault tser 0 0x42 s

/-- The task of a descriptor and header just read. -/
def mkTask (tser rnum va pa desc code t : Nat) (pred done : Option Nat) (unmet : List Nat) : Task :=
  { tser := tser, rnum := rnum, desc := BitVec.ofNat 1024 desc, va := va, pa := pa, code := BitVec.ofNat 1024 code, st := .waiting,
    unmet := unmet, pred := pred, rounds := 0, start := 0, done := done, t := t, deps := [], handler := none, classE := false, withholds := [],
    gangs := (List.range (bits desc 159 144)).map fun k => ⟨k, .pending, [], [], 0, [], 0, none, false, 0, [], false⟩ }

/-- The reads of a descriptor and of its header: the descriptor, its physical address, and the header; a part that cannot be read is none. -/
def readTask (s : State) (va : Nat) : Except (Option PoolTx) (Option (Nat × Nat) × Option Nat) :=
  match engNat .rd s va 128, engXlate s .rd va with
  | .error (.fetch tx), _ => .error (some tx)
  | .error .wait, _ => .error none
  | .ok n, .ok pa =>
    if va % 128 ≠ 0 then .ok (none, none)
    else match engNat .rd s (bits n 120 64) 128 with
      | .error (.fetch tx) => .error (some tx)
      | .error .wait => .error none
      | .ok h => .ok (some (n, pa), some h)
      | .error _ => .ok (some (n, pa), none)
  | _, _ => .ok (none, none)

/-- Enter a fetched descriptor as a task, with its checks (R358, R75) and registrations. -/
def enterTask (r : Region) (va t : Nat) (rd : Option (Nat × Nat) × Option Nat) (s : State) : State :=
  let tser := s.sched.nextTser
  let pred := ((s.sched.tasks.filter fun x => x.rnum == r.rnum && x.handler.isNone).getLast?).map (·.tser)
  let add (x : Task) (s : State) : State := { s with sched := { s.sched with tasks := s.sched.tasks ++ [x], nextTser := tser + 1 } }
  match rd with
  | (none, _) => schedFault tser 0 0x44 (add (mkTask tser r.rnum va 0 0 0 t pred none []) s)
  | (some (n, pa), h) =>
    match (if descForm n r.nseg then descCtrs s n else none) with
    | none => schedFault tser 0 0x44 (add (mkTask tser r.rnum va pa n 0 t pred (doneCtr s n) []) s)
    | some (done, deps) =>
      let ok := h.any fun h => codeOk h (bits n 135 128) (bits n 143 136) (bits n 123 121)
      let s := add { mkTask tser r.rnum va pa n (h.getD 0) t pred done (deps.map (·.1)) with deps := deps.map fun e => (e.1, e.2.1) } s
      if !ok then schedFault tser 0 0x40 s
      else readyTask tser (deps.foldl (fun s e => registerDep tser (bit n 171) e s) s)

/-- The address of a queue's next descriptor: QHEAD, then NEXT (R359). -/
def nextDesc (r : Region) (s : State) : Except MemErr Nat := do
  let w ← engNat .rd s (if r.qidx = 0 then r.va + 104 else r.qlast) 8
  .ok (bits w 56 0)

/-- Enter a fetched descriptor; that of a replica which the swarm engine has retired since is a task that has ended (18 R396). -/
def enterNext (r : Region) (va t : Nat) (rd : Option (Nat × Nat) × Option Nat) (s : State) : State :=
  let ended := s.sched.reps.contains (va, true)
  let tser := s.sched.nextTser
  let s := { s with sched := { s.sched with reps := if ended then s.sched.reps.erase (va, true) else s.sched.reps.erase (va, false) } }
  if ended then
    let x : Task := { mkTask tser r.rnum va 0 0 0 t none none [] with st := .killed, gangs := [] }
    { s with sched := { s.sched with tasks := s.sched.tasks ++ [x], nextTser := tser + 1 } }
  else enterTask r va t rd s

/-- What the registrations of a descriptor just read must wait for: a counter whose line a home has first to fetch or to free. -/
def depsWait (s : State) (rd : Option (Nat × Nat) × Option Nat) : Option (Option PoolTx) :=
  match rd.1.bind fun e => descCtrs s e.1 with
  | none => none
  | some (_, ds) => ds.findSome? fun e => match engServes s (e.2.1 / 64) with | .error x => x.again? | .ok _ => none

/-- The parts of job memory that a descriptor's read takes: itself, and its code object header. -/
def taskParts (va : Nat) (rd : Option (Nat × Nat) × Option Nat) : List (Nat × Nat) :=
  (va, 128) :: rd.1.toList.map fun e => (bits e.1 120 64, 128)

/-- Fetch the next descriptor of a queue whose counter covers it, by reads later than the add that made it do so (R359). -/
def fetchNext (r : Region) (s : State) : State :=
  let evt : Instr := .descriptorFetch r.rnum
  match nextDesc r s with
  | .error (.fetch tx) => again evt (askPool tx s)
  | .error .wait => again evt s
  | .error _ => schedFault 0 r.rnum 0x41 s
  | .ok 0 => schedFault 0 r.rnum 0x41 s
  | .ok va =>
    match readTask s va with
    | .error tx => again evt (askOpt tx s)
    | .ok rd =>
      if let some tx := depsWait s rd then again evt (askOpt tx s) else
      let t := (dirOf s (r.qctr / 64)).wts
      let (_, s) := engTake ((if r.qidx = 0 then r.va + 104 else r.qlast, 8) :: taskParts va rd) t s
      due s.now evt (enterNext r va t rd (setRegion { r with qidx := r.qidx + 1, qlast := va } s))

/-- DESCRIPTOR_FETCH: when a leaf's counter covers its next descriptor, fetch it; else register on the counter (R359), within CTRS
(R357). A poisoned counter withholds the queue with 0x41 (13 R457). -/
def execDescriptorFetch (rnum : Nat) (s : State) : Host.Outcome State Fault Refusal :=
  match regionOf s rnum with
  | none => .next s
  | some r =>
    if !jobLive s || s.sched.jobDone || r.kind ≠ 2 || r.withheld ≠ 0 || s.waiters.any fun w => w.who == .queue rnum then .next s
    else if poisoned s (r.qctr / 64) then .next (schedFault 0 rnum 0x41 s)
    else if let some tx := (match engServes s (r.qctr / 64) with | .error e => e.again? | .ok _ => none) then
      .next (again (.descriptorFetch rnum) (askOpt tx s))
    else if !ctrsFit s rnum then .next (due (s.now + 256) (.descriptorFetch rnum) s)
    else
      let (met, s) := registerWaiter ⟨r.qctr, r.qidx + 1, false, .queue rnum⟩ s
      .next (if met then fetchNext r s else s)

/-- DEPENDENCY_MET: a registration of a task has been released by its counter, the time of whose add the task took at the wake; `flags`
holds fault bits when they released it. -/
def execDependencyMet (tser k : Nat) (flags : BitVec 32) (s : State) : Host.Outcome State Fault Refusal :=
  match taskOf s tser with
  | none => .next s
  | some t =>
    if t.st != .waiting || !t.unmet.contains k then .next s
    else if bits flags.toNat 7 3 ≠ 0 then .next (schedFault tser 0 0x42 s)
    else .next (depMet tser k 0 s)

/-! ### Launch and CHECK (15 R339, 16 R353) -/

/-- LAUNCH: a write to ROOT. -/
def execLaunch (root : Word) (s : State) : Host.Outcome State Fault Refusal :=
  let pa := root.toNat % 2 ^ 57
  if s.ctl.bringUp then .next s
  else if jobLive s then .next (record 256 0xA root s)
  else
    let s := { s with
      host := { s.host with root := pa }, dir := s.dir.map fun (e : Nat × Dir) => (e.1, { e.2 with ctr := false }) }
    if pa % 256 ≠ 0 || hbmEnd ≤ pa then .next (setLstate 4 s)
    else
      .next (askRound s.now (setLstate 1 { s with
        sched := { s.sched with regions := [], jobDone := false },
        dieTlb := [], tables := [], adders := [], switches := [], routes := [], wcount := [], wstat := [] }))

/-- The end of CHECK: the tree's values, the job's counter and the queues' registrations. -/
def installTree (sc : Sched) (s : State) : State :=
  let s := { s with sched := sc }
  if poisoned s (sc.jobctr / 64) then jobFault s
  else
    let (met, s) := registerWaiter ⟨sc.jobctr, sc.jobthr, false, .job⟩ s
    let s := if met then { s with sched := { s.sched with jobDone := true } } else s
    checkJobEnd ((sc.regions.filter fun r => r.kind == 2).foldl (fun s r => due s.now (.descriptorFetch r.rnum) s) s)

/-- The line of a region's fault record. -/
def recLine (r : Region) : Nat := (r.pa + 192) / 64
/-- At launch every fault record is 0 (R371): one that is not, or whose line is poisoned, is cleared. -/
def clearRecord (s : State) (r : Region) : State :=
  if rdN s (r.pa + 192) 64 = 0 && !poisoned s (recLine r) || lineReady s (recLine r) true none = .poison then s
  else stampLine (recLine r) (afterLine s (recLine r) 0) true (wrBytes (r.pa + 192) (List.replicate 64 0) s)
/-- What the clearing of a tree's records must wait for. -/
def recordsWait (s : State) (rs : List Region) : Option (Option PoolTx) :=
  rs.findSome? fun r => match lineReady s (recLine r) true none with
    | .fetch tx => some (some tx)
    | .wait => some none
    | _ => none
/-- The reads of CHECK, as the scheduler's. -/
def treeReads (rs : List Region) (s : State) : State :=
  (engTake ((rs.filter fun r => r.kind != 0).map fun r => (r.va, 192)) 0
    (touchAll ((rs.filter fun r => r.kind == 0).flatMap fun r => (List.range 3).map (r.pa / 64 + ·)) s)).2

/-- CHECK, once no task of an earlier job is still ending. -/
def checkJob (s : State) : State :=
  if s.sched.tasks.any fun t => t.st == .ending then again .schedulerRound s
  else match checkTree s.host.root s with
    | .error (.fetch tx) => again .schedulerRound (askOpt tx s)
    | .error .bad => setLstate 4 s
    | .ok sc =>
      match recordsWait s sc.regions with
      | some tx => again .schedulerRound (askOpt tx s)
      | none => installTree sc (sc.regions.foldl clearRecord (treeReads sc.regions s))

/-! ### Rounds (16 R361-R363) -/

def taskEnded (t : Task) : Bool := t.st == .done || t.st == .killed

/-- The task that a leaf presents: its oldest unstarted one, after an ORDER predecessor (R361, R367); none while it is withheld. -/
def presents (s : State) (r : Region) : Option Task :=
  if r.withheld ≠ 0 then none
  else match s.sched.tasks.find? fun t => t.rnum == r.rnum && t.handler.isNone && (t.st == .waiting || t.st == .ready) with
    | none => none
    | some t =>
      if t.d 170 170 = 1 && (t.pred.bind (taskOf s)).any fun p => !taskEnded p then none else some t

/-- Ready tasks that may start: handler tasks and presented tasks; none after the job's counter is met (R354). -/
def readyTasks (s : State) : List Task :=
  if s.sched.jobDone then []
  else (s.sched.tasks.filter fun t => t.handler.isSome && t.st == .ready) ++
    ((s.sched.regions.filter fun r => r.kind == 2).filterMap (presents s)).filter fun t => t.st == .ready

/-- Parked gangs of started tasks. -/
def parkedGangs (s : State) : List (Task × Gang) :=
  (s.sched.tasks.filter fun t => t.st == .started).flatMap fun t => (t.gangs.filter fun g => g.st == .parked).map fun g => (t, g)

/-- The gangs that a start of a task places: all of them when it uses a segment, else gang 0. -/
def startGroup (t : Task) : List Gang := if t.segu = 0 then t.gangs.take 1 else t.gangs

/-- Places for gangs of a task, within the budgets; none when one does not fit. -/
def spotsFor (s : State) (bar : Nat → Bool) (t : Task) (gs : List Gang) : Option (List (Gang × Spot)) := do
  let r ← gs.foldlM (fun (acc : List (Gang × Spot)) g => do
    let sp ← findSpot s (heldClusters s ++ acc.flatMap fun e => e.2.rect) bar t g
    some (acc ++ [(g, sp)])) []
  if coresFit s t.rnum ((r.map fun e => 36 * e.2.rect.length).foldl (· + ·) 0) then some r else none

/-- The task's segments are free (R236). -/
def segsFree (s : State) (t : Task) : Bool := (taskSegs s t).all fun i => ((findKey s.segs i).map fun g => !g.armed).getD true

/-- Whether a ready task or a parked gang cannot be placed now. -/
def stuckTask (s : State) (t : Task) : Bool := !segsFree s t || (spotsFor s (fun _ => false) t (startGroup t)).isNone
def stuckGang (s : State) (e : Task × Gang) : Bool := (spotsFor s (fun _ => false) e.1 [e.2]).isNone

/-- Soft pre-emption (R363, R382): a die is closed to new gangs of priority p while work of higher priority that could use it waits. -/
def closedTo (s : State) (p d : Nat) : Bool :=
  ((readyTasks s).any fun t => p < epTask s t && ((startGroup t).any fun g => qualifies s (gangReq t g) d) && stuckTask s t) ||
    (parkedGangs s).any fun e => p < epGang s e.1 e.2 && qualifies s (gangReq e.1 e.2) d && stuckGang s e

/-- The scheduler fault of an impossible placement, once (R364): the task waits for its domain to end it. -/
def noPlace (tser : Nat) (s : State) : State :=
  if s.agenda.any fun d => match d.act with | .faultReport r => r.tser == tser && r.code == 0x45 | _ => false then s
  else schedFault tser 0 0x45 s

/-- Place one gang of a started task: a resume, or the start of a further gang. -/
def placeGang (tser gix : Nat) (s : State) : State :=
  match taskOf s tser, gangOf s tser gix with
  | some t, some g =>
    let p := epGang s t g
    match g.st with
    | .parked => match spotsFor s (fun _ => false) t [g] with
      | some ((_, sp) :: _) => resumeGang t g sp s
      | _ => if placeable s t g then s else noPlace tser s
    | .pending =>
      if t.gangs.any fun x => x.gix < gix && x.st == .pending then s
      else match spotsFor s (closedTo s p) t [g] with
        | some ((_, sp) :: _) => startGang t g sp s
        | _ => if placeable s t g then s else noPlace tser s
    | _ => s
  | _, _ => s

/-- Tasks in the order of their starts. -/
def byStart : List Task → List Task
  | [] => []
  | t :: r => put t (byStart r)
where
  put (t : Task) : List Task → List Task
    | [] => [t]
    | x :: r => if t.start ≤ x.start then t :: x :: r else x :: put t r

/-- The first step of a round: evicted gangs and further gangs of started tasks, highest ep first, evicted gangs before others. -/
def roundGangs (s : State) : State :=
  let ts := byStart (s.sched.tasks.filter fun t => t.st == .started)
  let pick (p : Nat) (st : GangSt) : List (Nat × Nat) :=
    ts.flatMap fun t => (t.gangs.filter fun g => g.st == st && epGang s t g == p).map fun g => (t.tser, g.gix)
  let order := (List.range 8).reverse.flatMap fun p => pick p .parked ++ pick p .pending
  order.foldl (fun s e => placeGang e.1 e.2 s) s

/-- need(t) of R363. -/
def needOf (t : Task) : Nat := t.gw * t.gh * (if t.segu = 0 then 1 else t.gcnt)

/-- A task that fails at its start is ready no more, and waits for its domain to end it. -/
def failStart (t : Task) (code : Nat) (s : State) : State := schedFault t.tser 0 code (setTask { t with st := .waiting, unmet := [4] } s)

/-- Start a presented ready task: some state, with whether it started; none when it has no room. -/
def startTask (t : Task) (s : State) : Option (Bool × State) :=
  let p := epTask s t
  let r := regionOf s t.rnum
  if !(bit ((r.map (·.splm)).getD 0) t.split) then some (false, failStart t 0x40 s)
  else if splitBytes t.split < t.d 337 320 + t.d 355 338 then some (false, failStart t 0x44 s)
  else if !((startGroup t).all (placeable s t)) then some (false, failStart t 0x45 s)
  else if !segsFree s t then none
  else match spotsFor s (closedTo s p) t (startGroup t) with
    | none => none
    | some l =>
      let pt := ((t.pred.bind (taskOf s)).map (·.t)).getD 0
      let t := { t with st := .started, start := s.sched.nextStart, t := if t.d 170 170 = 1 then Nat.max t.t pt else t.t }
      let s := setTask t { s with sched := { s.sched with nextStart := s.sched.nextStart + 1 } }
      let s := if t.segu = 0 then s else armSegs t (l.flatMap fun e => e.2.cores) s
      some (true, l.foldl (fun s e => startGang t e.1 e.2 s) s)

/-- Serve one leaf at a priority: it starts tasks while its deficit covers them. -/
def serveLeaf (p rnum : Nat) : Nat → State → State
  | 0, s => s
  | n + 1, s =>
    match regionOf s rnum with
    | none => s
    | some r =>
      match (presents s r).filter fun t => t.st == .ready && epTask s t == p with
      | none => setRegion { r with deficit := 0 } s
      | some t =>
        if r.deficit < needOf t then s
        else match startTask t s with
          | some (true, s) =>
            let s := setRegion { r with deficit := r.deficit - needOf t } s
            serveLeaf p rnum n { s with sched := { s.sched with rr := SMap.set 0 s.sched.rr p rnum } }
          | some (false, s) => serveLeaf p rnum n s
          | none => s

/-- Leaves with a ready task at a priority, in increasing RNUM after the last one served. -/
def leavesAt (s : State) (p : Nat) : List Nat :=
  let ls := ((s.sched.regions.filter fun r => r.kind == 2 && (presents s r).any fun t => t.st == .ready && epTask s t == p).map
    (·.rnum)).mergeSort (· ≤ ·)
  let last := SMap.get 0 s.sched.rr p
  (ls.filter (last < ·)) ++ ls.filter (· ≤ last)

/-- The second step: priorities from 7 down, leaves by deficit round-robin; handler tasks first. -/
def roundStarts (s : State) : State :=
  if s.sched.jobDone then s
  else
    let hs := s.sched.tasks.filter fun t => t.handler.isSome && t.st == .ready
    let s := hs.foldl (fun s t => match startTask t s with | some (_, s) => s | none => s) s
    (List.range 8).reverse.foldl (fun s p => (leavesAt s p).foldl (fun s k =>
      match regionOf s k with
      | some r => serveLeaf p k (s.sched.tasks.length + 1) (setRegion { r with deficit := r.deficit + r.cores } s)
      | none => s) s) s

/-- Evict the gangs whose eviction need wait no longer; those that must wait are tried at the next clock. -/
def roundEvicts (s : State) : State :=
  let es := s.sched.tasks.flatMap fun t => (t.gangs.filter fun g => g.st == .evicting).map fun g => (t.tser, g.gix)
  es.foldl (fun s e => match taskOf s e.1, gangOf s e.1 e.2 with
    | some t, some g => if evictReady s g then evictGang t g s else askRound (s.now + 1) s
    | _, _ => s) s

/-- Count a round for every ready or started task, and for gangs in transit. -/
def countRound (s : State) : State :=
  let g1 (g : Gang) : Gang := if g.transit then { g with rounds := g.rounds + 1 } else g
  let t1 (t : Task) : Task :=
    if t.st == .ready || t.st == .started then { t with rounds := t.rounds + 1, gangs := t.gangs.map g1 } else t
  { s with sched := { s.sched with tasks := s.sched.tasks.map t1 } }

/-- Whether rounds go on: a ready task, an evicted gang, or a gang that has yet to start (R362). -/
def roundsGoOn (s : State) : Bool :=
  s.sched.tasks.any fun t => t.st == .ready || t.st == .started && t.gangs.any fun g => g.st == .parked || g.st == .pending

/-- SCHEDULER_ROUND: in CHECK, the tree's check; else one round. The standby receives the state at its end (R374). -/
def execSchedulerRound (s : State) : Host.Outcome State Fault Refusal :=
  if !jobLive s then .next s
  else if s.sched.regions.isEmpty then .next (checkJob s)
  else
    let s := checkJobEnd (roundStarts (roundGangs (roundEvicts (countRound s))))
    let s := if jobLive s && roundsGoOn s then askRound (s.now + 256) s else s
    .next { s with standby := s.sched }

/-- SCHEDULER_TAKEOVER (R374): the standby goes on from the last complete round. Starts and completions since then are found on the dies
and at the counters, so that none is made twice; the round-robin state is the mirrored one. -/
def execSchedulerTakeover (s : State) : Host.Outcome State Fault Refusal :=
  if s.schedAt = 2 then .next s
  else
    let s := { s with schedAt := 2, sched := { s.sched with rr := s.standby.rr } }
    .next (if jobLive s then askRound s.now s else s)

/-! ### Quanta, `yield`, migration and withdrawn hardware (R366, R369; 17 R378-R385; 10 R242) -/

/-- Ready work or an evicted gang of priority at least p that cannot be placed (R366). -/
def contended (s : State) (p : Nat) : Bool :=
  ((readyTasks s).any fun t => p ≤ epTask s t && stuckTask s t) || (parkedGangs s).any fun e => p ≤ epGang s e.1 e.2 && stuckGang s e

/-- The end of a quantum, or a `yield`: the gang is evicted, or its quantum starts again. -/
def quantumEnds (t : Task) (g : Gang) (s : State) : State :=
  if contended s (epGang s t g) && combFits s t.rnum (combNeed s t g) then beginEvict t.tser g.gix s
  else startQuantum t.tser g.gix (((regionOf s t.rnum).map (·.quant)).getD 0) (setGang t.tser { g with qstart := s.now } s)

/-- QUANTUM_EXPIRY. -/
def execQuantumExpiry (tser gix : Nat) (s : State) : Host.Outcome State Fault Refusal :=
  match taskOf s tser, gangOf s tser gix with
  | some t, some g =>
    let q := ((regionOf s t.rnum).map (·.quant)).getD 0
    .next (if g.st == .running && q ≠ 0 && g.qstart + 1024 * q ≤ s.now then quantumEnds t g s else s)
  | _, _ => .next s

/-- The focused strand has yielded (R369). -/
def strandYields (s : State) : State :=
  match taskOf s (ownTser s), gangOf s (ownTser s) (ownGix s) with
  | some t, some g => if g.st == .running then quantumEnds t g s else s
  | _, _ => s

/-- The subset that a migrate trap names (17 R378): K for an M-slot opcode from 0x10 to 0x1A, else X4. -/
def trapSubset (info : Nat) : BitVec 5 := if bits info 10 8 = 3 && 0x10 ≤ bits info 7 0 && bits info 7 0 ≤ 0x1A then 4 else 8

/-- The first migrate trap of a gang that the scheduler receives: its record, the added subset, and that of the task's gangs that have yet
to start (17 R380, R384). -/
def noteMigrate (t : Task) (g : Gang) (k : Core) (now : Nat) : Task :=
  let info := k.st.trapInfo.toNat
  let m : MigRec := ⟨bits k.st.strandIx.toNat 47 32, dieOf k.id, 0, bits info 7 0, bits info 10 8, (g.mig.map (·.nmig)).getD 0, now, 0⟩
  let g1 (x : Gang) : Gang :=
    if x.gix = g.gix then { x with adds := x.adds ||| trapSubset info, mig := some m, transit := true, rounds := 0 }
    else if x.st == .pending then { x with adds := x.adds ||| trapSubset info } else x
  { t with gangs := t.gangs.map g1 }

/-- MIGRATE_TRAP_RECEIPT (17 R380): the first migrate trap of a gang begins its migration, or turns an eviction in progress into one; a
later one adds nothing. -/
def execMigrateTrapReceipt (c : CoreId) (s : State) : Host.Outcome State Fault Refusal :=
  let k := coreOf s c
  let tser := bits k.st.gangId.toNat 47 16
  let gix := bits k.st.gangId.toNat 15 0
  match taskOf s tser, gangOf s tser gix with
  | some t, some g =>
    if k.st.run != .stopped || bits k.st.trapCause.toNat 7 0 ≠ cMigrate || !g.cores.contains c then .next s
    else if g.st == .running then .next (beginEvict tser gix (setTask (noteMigrate t g k s.now) s))
    else if g.st == .evicting && !g.transit then .next (setTask (noteMigrate t g k s.now) s)
    else .next s
  | _, _ => .next s

/-- Evict every running gang that holds a core of a set (16 R366). -/
def evictOf (p : CoreId → Bool) (s : State) : State :=
  (s.sched.tasks.flatMap fun t => (t.gangs.filter fun g => g.st == .running && g.cores.any p).map fun g => (t.tser, g.gix)).foldl
    (fun s e => beginEvict e.1 e.2 s) s

/-- DIE_FAULT: a compute die leaves service; its gangs are evicted (R366). The spec does not state its event's INFO. -/
def execDieFault (die : Nat) (s : State) : Host.Outcome State Fault Refusal :=
  if 128 ≤ die || s.ctl.deadDies.contains die then .next s
  else
    let s := { s with ctl := { s.ctl with deadDies := s.ctl.deadDies ++ [die] } }
    let s := record die 0xD (word (Config.freeChoice s.free)) { s with free := s.free + 1 }
    let on := (allCores s).filter fun c => dieOf c.id == die && c.st.run != .idle
    .next (evictOf (fun c => dieOf c == die) (on.foldl (fun s c => retireCore c.id s) s))

/-- A COREID names a core of a compute die (01 R21, 11 R251). -/
def isCore (c : CoreId) : Bool := (coreX c + coreY c) % 2 = 0 && coreCL c < 36 && coreCC c < 36

/-- CORE_WITHDRAWN (10 R242, 15 R345): the core retires from its segments and its gang is evicted. A die in service has at least 1,250 good
cores (00 R2, 15 R345): a withdrawal below that is not made (DESIGN CHOICE, log entry 125). -/
def execCoreWithdrawn (c : CoreId) (s : State) : Host.Outcome State Fault Refusal :=
  if !isCore c || (coreOf s c).dead || goodCores s (dieOf c) ≤ 1250 then .next s
  else
    let s := record (dieOf c) 0xD (zx c) (onCore c (fun k => { k with dead := true }) s)
    let s := if (coreOf s c).st.run == .idle then s else retireCore c s
    .next (evictOf (· == c) s)

/-! ### Completion (R367) -/

/-- What follows the DONE add of a task: its successors, its handler's scope, its cores. -/
def handlerDone (t : Task) (s : State) : State :=
  match t.handler with
  | none => s
  | some (scope, level) =>
    let s := match regionOf s scope with
      | some r =>
        let line := (r.pa + 192) / 64
        stampLine line (afterLine s line t.t) true (wrBytes (r.pa + 192) (List.replicate 64 0) s)
      | none => s
    let s := t.withholds.foldl (fun s k => match regionOf s k with
      | some r => due s.now (.descriptorFetch k) (setRegion { r with withheld := r.withheld - 1 } s)
      | none => s) s
    if level = 2 && t.classE then jobFault s else s

/-- The migration records of a task that ends are kept no longer (17 R384). Those of the task whose end is its job's still read as they
were when LSTATE reads DONE (21 R417; DEDUCED, log entry 152). -/
def dropRecords (tser : Nat) (s : State) : State :=
  match taskOf s tser with
  | some t => if jobLive s then setTask { t with gangs := t.gangs.map fun g => { g with mig := none } } s else s
  | none => s

/-- A task ends in a state, its DONE add applied at logical time tt. -/
def taskEnds (t : Task) (killed : Bool) (tt : Nat) (s : State) : State :=
  let s := setTask { t with st := if killed then .killed else .done, t := tt } s
  let s := if killed then s else handlerDone t (disarmSegs t s)
  let s := dropRecords t.tser (checkJobEnd s)
  let s := due s.now (.taskComplete t.tser) s
  if jobLive s then askRound s.now s else s

/-- The DONE add (n, flags) of a task, then its end. A handler's completion also waits until its record's line can be cleared. -/
def doneAdd (t : Task) (n fl : Nat) (killed : Bool) (s : State) : State :=
  let evt : Instr := .taskComplete t.tser
  let go (s : State) : State :=
    match t.done with
    | none => taskEnds t killed t.t s
    | some pa =>
      whenReady (pa / 64) false evt
        (fun s => taskEnds t killed t.t (reportA t.tser cPoison (word pa) s))
        (fun s =>
          let tt := afterLine s (pa / 64) t.t
          taskEnds t killed tt (addCounter pa (word (t.d 952 896)) n fl (.task t.tser) tt s)) s
  match (if killed then none else t.handler.bind fun h => regionOf s h.1) with
  | some r => whenReady ((r.pa + 192) / 64) true evt go go s
  | none => go s

/-- TASK_COMPLETE: the DONE add of a task whose strands have all halted, or of a killed one; then its cores become free. -/
def execTaskComplete (tser : Nat) (s : State) : Host.Outcome State Fault Refusal :=
  match taskOf s tser with
  | none => .next s
  | some t =>
    match t.st with
    | .started => .next (if t.gangs.all fun g => g.st == .halted then doneAdd t (t.d 978 960) 0 false s else s)
    | .ending => .next (doneAdd t 0 0x40 true s)
    | .done | .killed =>
      let s := releaseGangs t s
      .next (if (taskOf s tser).any fun t => t.gangs.any fun g => !g.rect.isEmpty then again (.taskComplete tser) s
        else if jobLive s && !t.gangs.all (·.rect.isEmpty) then askRound s.now s else s)
    | _ => .next s

/-! ### Faults (R370-R373) -/

/-- The scope region of a domain level (R372). -/
def regionScope (s : State) : Nat → Region → Region
  | 0, r => r
  | n + 1, r => match r.parent.bind (regionOf s) with
    | some p => if p.kind = 0 || p.fdom ≠ 1 then r else regionScope s n p
    | none => r
def scopeOf (s : State) (leaf : Region) (level : Nat) : Region :=
  match level with
  | 0 => leaf
  | 1 => regionScope s 16 leaf
  | _ => (rootRegion s).getD leaf
/-- The level that has a handler, from a level up; 3 when none has. -/
def landLevel (s : State) (leaf : Region) : Nat → Nat → Nat
  | 0, l => l
  | n + 1, l => if 3 ≤ l then 3 else if (scopeOf s leaf l).handler = 0 then landLevel s leaf n (l + 1) else l

/-- The fault record's 512 bits (R371). -/
def recordBits (r : FaultReport) (src : Nat) : Nat :=
  r.code + r.slotBits.toNat * 2 ^ 8 + 2 ^ 12 + b2n r.async * 2 ^ 13 + r.tser % 2 ^ 32 * 2 ^ 32 + r.gix % 2 ^ 16 * 2 ^ 64 +
    r.lin % 2 ^ 16 * 2 ^ 80 + r.core.toNat * 2 ^ 96 + r.pc.toNat * 2 ^ 128 + r.info.toNat * 2 ^ 192 + r.time % 2 ^ 64 * 2 ^ 256 +
    src * 2 ^ 320

/-- The task that handles a scope's faults. -/
def handlerOf (s : State) (rnum : Nat) : Option Task :=
  s.sched.tasks.find? fun t => (t.handler.map (·.1)) == some rnum && !taskEnded t && t.st != .ending

/-- The handler task of a scope, from a copy of its HANDLER descriptor (R373). -/
def spawnHandler (scope : Region) (level : Nat) (r : FaultReport) (holds : List Nat) (t : Nat)
    (rd : Option (Nat × Nat) × Option Nat) (s : State) : State :=
  let tser := s.sched.nextTser
  let par := scope.va + 192
  let n := (rd.1.map (·.1)).getD 0
  let pa := (rd.1.map (·.2)).getD 0
  let n' := n - bits n 175 172 * 2 ^ 172 + 15 * 2 ^ 172
  let n' := n' - bits n 248 192 * 2 ^ 192 + par * 2 ^ 192
  let ctrs := if rd.1.isSome && descForm n scope.nseg then descCtrs s n else none
  let code := rd.2.any fun h => codeOk h (bits n 135 128) (bits n 143 136) (bits n 123 121)
  let x := { mkTask tser scope.rnum scope.handler pa n' (rd.2.getD 0) t none (rd.1.bind fun e => doneCtr s e.1) [] with
    handler := some (scope.rnum, level), classE := !r.async, withholds := holds, st := .ready }
  let s := { s with sched := { s.sched with tasks := s.sched.tasks ++ [x], nextTser := tser + 1 } }
  if ctrs.isNone then schedFault tser 0 0x44 (setTask { x with st := .waiting, unmet := [4] } s)
  else if !code then schedFault tser 0 0x40 (setTask { x with st := .waiting, unmet := [4] } s)
  else askRound s.now s

/-- Kill a task on behalf of its fault domain; a replica's task is lost to the swarm engine. -/
def killFor (tser : Nat) (s : State) : State :=
  match taskOf s tser with
  | none => s
  | some t => if t.st == .ending || taskEnded t then s else lossesOf t.va (killTask tser s)

/-- What a class E fault kills and withholds at a domain level (R372): the new state and the leaves withheld. -/
def killScope (scope : Region) (level : Nat) (r : FaultReport) (s : State) : State × List Nat :=
  if r.async then (s, [])
  else
    let s := killFor r.tser s
    let own := if r.code = 0x41 then [r.rnum] else []
    let s := if level = 0 then s else
      ((s.sched.tasks.filter fun t => t.st == .started && under s t.rnum scope.rnum).map (·.tser)).foldl (fun s k => killFor k s) s
    let ls := if level = 0 then own else
      own ++ ((s.sched.regions.filter fun x => x.kind == 2 && under s x.rnum scope.rnum).map (·.rnum)).filter fun k => !own.contains k
    (ls.foldl (fun s k => match regionOf s k with
      | some x => setRegion { x with withheld := x.withheld + 1 } s
      | none => s) s, ls)

/-- A fault at the level where it lands: the record, the kills, the handler. -/
def landFault (leaf scope : Region) (level : Nat) (r : FaultReport) (rd : Option (Nat × Nat) × Option Nat) (s : State) : State :=
  let s := if 2 ≤ level then signal 1 s else s
  let (s, holds) := killScope scope (Nat.min level 2) r s
  let pa := scope.pa + 192
  let line := pa / 64
  let t := afterLine s line (((taskOf s r.tser).map (·.t)).getD 0)
  let old := rdN s pa 64
  if bit old 12 then
    let s := stampLine line t false (wrN (pa + 2) 1 (Nat.min 255 (bits old 23 16 + 1)) s)
    let s := match handlerOf s scope.rnum with
      | some h => setTask { h with classE := h.classE || !r.async, withholds := h.withholds ++ holds, t := Nat.max h.t t } s
      | none => s
    if level = 3 && !r.async then jobFault s else s
  else
    let s := stampLine line t true (wrN pa 64 (recordBits r leaf.rnum) s)
    if level = 3 then (if r.async then s else jobFault s)
    else spawnHandler scope level r holds t rd s

/-- FAULT_REPORT (R372, R373): a fault goes to the domain of its task's leaf region, or of the named region; a handler task's to the
domain above the one that spawned it. -/
def execFaultReport (r : FaultReport) (s : State) : Host.Outcome State Fault Refusal :=
  let t := taskOf s r.tser
  match regionOf s (((t.map (·.rnum))).getD r.rnum) with
  | none => .next s
  | some leaf =>
    if !jobLive s then .next s
    else
      let from_ := match t.bind (·.handler) with
        | some (_, l) => l + 1
        | none => leaf.fdom
      let level := landLevel s leaf 3 from_
      let scope := scopeOf s leaf level
      match (if level = 3 then .ok (none, none) else readTask s scope.handler) with
      | .error tx => .next (again (.faultReport r) (askOpt tx s))
      | .ok rd =>
        let s := if level = 3 then s else (engTake (taskParts scope.handler rd) 0 s).2
        .next (whenReady ((scope.pa + 192) / 64) true (.faultReport r) (landFault leaf scope level r rd) (landFault leaf scope level r rd) s)

/-! ### `spawn` and `yield` (R369) -/

/-- `spawn`. -/
def spawnOp (f : YA) (s : State) : Res State :=
  gather (do
    let a ← readS f.a s
    let b ← readS f.b s
    need s (a.toNat % 256 = 0) cAccess a
    need s (b.toNat % 128 = 0) cAccess b
    holdAll [.spawn a b] s) [stopOf (readS f.a s), stopOf (readS f.b s)]
def execSpawn (f : YA) (s : State) : Host.Outcome State Fault Refusal := issue s (spawnOp f s)

/-- `yield`, after its checkpoint steps. -/
def execYield (s : State) : Host.Outcome State Fault Refusal := issue s (.ok (mapCtx (fun c => { c with yields := true }) s))

/-- Replace the low 57 bits of the 8 bytes at an address. -/
def put57 (pa v : Nat) (s : State) : State :=
  let old := rdN s pa 8
  wrN pa 8 (old - bits old 56 0 + v % 2 ^ 57) s

/-- The scheduler's writes for a spawn at the addresses found, in order, and the add to QCTR (R369); a poisoned counter drops the add (13
R457). -/
def appendDesc (r : Region) (dpa tpa : Nat) (desc : Nat) (tser t : Nat) (s : State) : State :=
  let t1 := afterLine s (dpa / 64) t
  let s := stampLine (dpa / 64) t1 false (put57 dpa 0 s)
  let t2 := afterLine s (tpa / 64) t1
  let s := stampLine (tpa / 64) t2 false (put57 tpa desc s)
  let q := r.pa + 120
  let t3 := afterLine s (q / 64) t2
  let s := stampLine (q / 64) t3 false (put57 q desc s)
  if lineReady s (r.qctr / 64) false none = .poison then reportSrc (.task tser) cPoison (word r.qctr) 0 s
  else addCounter r.qctr (word (bits (rdN s (r.pa + 112) 8) 56 0)) 1 0 (.task tser) (afterLine s (r.qctr / 64) t3) s

/-- The earliest committed spawn to a queue that is still to be appended; of equal times the one committed first. -/
def nextSpawn (s : State) (rcb : Word) : Option (Word × Word × Nat × Nat) :=
  (s.spawnq.filter fun e => e.1 == rcb).foldl (fun b e => match b with
    | some x => if e.2.2.2 < x.2.2.2 then some e else some x
    | none => some e) none

/-- SPAWN_APPEND: spawns to one queue append in the order of their times, and of equal times in bundle order. -/
def execSpawnAppend (rcb desc : Word) (tser t : Nat) (s : State) : Host.Outcome State Fault Refusal :=
  let evt : Instr := .spawnAppend rcb desc tser t
  let end_ (s : State) : State := { s with spawnq := s.spawnq.erase (rcb, desc, tser, t) }
  let refuse (s : State) : State := reportA tser 0x43 rcb (end_ s)
  if (nextSpawn s rcb).any fun e => e != (rcb, desc, tser, t) then .next (again evt s)
  else match s.sched.regions.find? fun r => r.va == rcb.toNat && r.kind == 2 && r.qmode with
    | none => .next (refuse s)
    | some r =>
      let tail := bits (rdN s (r.pa + 120) 8) 56 0
      match engXlate s .wr desc.toNat, (if tail = 0 then .ok (r.pa + 104) else engXlate s .wr tail) with
      | .ok dpa, .ok tpa =>
        .next (whenReady (dpa / 64) false evt refuse (whenReady (tpa / 64) false evt refuse
          (whenReady ((r.pa + 120) / 64) false evt refuse
            (let go (s : State) : State := end_ (appendDesc r dpa tpa desc.toNat tser t s)
             whenReady (r.qctr / 64) false evt go go))) s)
      | _, _ => .next (refuse s)

end Sys2Proof.Machine
end

