-- ==== Sys2Proof/Machine/Swarm.lean ====
section
/-! DEFINITION. The swarm engine (18 R391-R399): `route` and `rtver`, route operations, sampling, replication, retirement, loss and
redirection, and the gradient merge. -/

namespace Sys2Proof.Machine

/-! ### Instructions (R391, R393) -/

/-- `route`. -/
def routeOp (f : YA) (s : State) : Res State :=
  gather (do
    let a ← readS f.a s
    let b ← readS f.b s
    let c ← readS f.c s
    let d ← readS f.d s
    needLegal s (bits c.toNat 31 16 = 0)
    need s (a.toNat % 1024 = 0) cAccess a
    need s (b.toNat % 256 = 0) cAccess b
    holdAll [.route a b (c.extractLsb' 32 32) (bits c.toNat 15 0) d f.imm.toNat] s)
    (yaStops f s ++ [stopOf (readS f.c s), stopOf (readS f.d s), stopOf (do let c ← readS f.c s; needLegal s (bits c.toNat 31 16 = 0))])
def execRoute (f : YA) (s : State) : Host.Outcome State Fault Refusal := issue s (routeOp f s)

/-- What `rtver` returns (R393). -/
def rtverValue (ver amask : Nat) : Word := word (ver + amask * 2 ^ 16 + (popcount amask 8 - 1) * 2 ^ 24)

/-- A table's registration at an `rtver`: it waits while something it reads cannot be read. -/
def rtverTable (va : Nat) (s : State) : Res State :=
  match registerTable va s with
  | .ok t => .ok t
  | .error (some tx) => .error (.fetch tx)
  | .error none => .error .stall

/-- `rtver`. -/
def rtverOp (f : YA) (s : State) : Res State :=
  gather (do
    let va ← yaAddr f s
    let e ← readS f.b s
    need s (va.toNat % 1024 = 0) cAccess va
    let (h, s') ← liftMem s (globalRead1 va.toNat 4 s)
    let s' ← rtverTable va.toNat s'
    need s (((findTable s' va.toNat).any (·.ok)) && e.toNat < hdrNexp h) cAccess va
    let (n, s') ← liftMem s (globalRead1 (entVa va.toNat e.toNat) 4 s')
    .ok (produceVal f.c (rtverValue (bits h 15 0) (bits n 7 0)) s.now false s')) (yaStops f s)
/-- A table that fails its registration is remembered as not registered, though the bundle traps (R388). -/
def rtverKeeps (f : YA) (s : State) : State :=
  match (do
    let va ← yaAddr f s
    let _ ← readS f.b s
    need s (va.toNat % 1024 = 0) cAccess va
    let (_, s') ← liftMem s (globalRead1 va.toNat 4 s)
    rtverTable va.toNat s' : Res State) with
  | .ok t => { s with tables := s.tables ++ t.tables.filter fun x => !x.ok && !s.tables.contains x }
  | .error _ => s
def execRtver (f : YA) (s : State) : Host.Outcome State Fault Refusal := issue (rtverKeeps f s) (rtverOp f s)

/-! ### Route operations (R392) -/

def routeById (s : State) (k : Nat) : Option RouteOp := s.routes.find? fun o => o.id == k
def setRoute (o : RouteOp) (s : State) : State := { s with routes := s.routes.map fun x => if x.id = o.id then o else x }
def dropRoute (o : RouteOp) (s : State) : State := { s with routes := s.routes.filter fun x => x.id != o.id }

/-- The code of a stop cause (R309). -/
def causeCode (c : Nat) : Nat := if c = 3 then cTrans else if c = 5 then cPoison else cAccess
/-- On whose behalf a route's adds are made. -/
def RouteOp.by_ (o : RouteOp) : Source := if o.tser = 0 then .nobody else .task o.tser

/-- An add, or flags alone, to the done counter. -/
def addDone (o : RouteOp) (n fl : Nat) (s : State) : State :=
  match o.donePa with
  | some pa => due s.now (.applyAdd pa o.doneVa (word n) (BitVec.ofNat 32 fl) o.by_ o.t) s
  | none => s

/-- What a stopped operation leaves: CF, with PSN on poison, in done, and a class A fault. -/
def reportStop (o : RouteOp) (cause : Nat) (info : Word) (s : State) : State :=
  let s := addDone o 0 (0x10 + (if cause = 5 then 0x20 else 0)) s
  if o.tser = 0 then s else reportA o.tser (causeCode cause) info s

/-- A stop before the reservation. -/
def stopRoute (o : RouteOp) (cause : Nat) (info : Word) (s : State) : State := dropRoute o (reportStop o cause info s)
def stopRouteMem (o : RouteOp) (e : MemErr) (s : State) : State := stopRoute o (stopOfMem e).cause (stopOfMem e).info s

/-- The reservation of a slot of the replica that the key chooses, under a version and its AMASK. -/
def reserveSlot (o : RouteOp) (h a : Nat) (s : State) : State :=
  let r := pickReplica a o.key
  let j := resOf s o.tab o.e r
  let (t, s) := engTake [(o.tab, 64), (entVa o.tab o.e, 64)] o.t s
  let o := { o with
    st := .room, v := bits h 15 0, r := r, j := j, orig := r, src0 := o.src, left := List.range ((hdrSlotBytes h - 64) / 64), t := t }
  due s.now (.routeChoice o.id) (setRoute o (setRes o.tab o.e r (j + 1) s))

/-- The choice of a registered table's operation, with the outcome of the check of done. -/
def chooseFrom (o : RouteOp) (bad : Option MemErr) (x : Table) (h : Nat) (s : State) : State :=
  let evt : Instr := .routeChoice o.id
  let (t, s) := engTake [(o.tab, 64)] o.t s
  let o := { o with t := t }
  if hdrNexp h ≤ o.e then stopRoute o 4 (word o.tab) s
  else match bad with
    | some e => stopRoute o (stopOfCtr o.doneVa.toNat e).cause (stopOfCtr o.doneVa.toNat e).info s
    | none =>
      engTry (again evt) (stopRouteMem o) (tabEnt s o.tab o.e) (fun n s =>
        if x.abandoned.contains o.e then
          let (t, s) := engTake [(entVa o.tab o.e, 64)] o.t s
          dropRoute o (addDone { o with t := t } 0 0x40 s)
        else if bits n 7 0 = 0 then again evt s
        else reserveSlot o h (bits n 7 0) s) s

/-- The choice piece. -/
def routeChoose (o : RouteOp) (s : State) : State :=
  let evt : Instr := .routeChoice o.id
  let (o, bad) := if o.doneVa = 0 then (o, none) else match engCounter s o.doneVa.toNat with
    | .ok pa => ({ o with donePa := some pa }, none)
    | .error e => (o, some e)
  match registerTable o.tab s with
  | .error tx => again evt (askOpt tx s)
  | .ok s =>
    let s := setRoute o s
    match (findTable s o.tab).filter (·.ok) with
    | none => stopRoute o 4 (word o.tab) s
    | some x => engTry (again evt) (stopRouteMem o) (tabHdr s o.tab) (chooseFrom o bad x) s

/-- The load counter's add, which later pieces of the operation follow; a poisoned counter drops it (13 R457). -/
def routeLoad (o : RouteOp) (h : Nat) (s : State) : State :=
  let go (o : RouteOp) (s : State) : State :=
    let (d, s) := freeDelay (setRoute { o with st := .deliver } s)
    due (s.now + d) (.routeDelivery o.id) s
  match engXlate s .ctrWr (hdrLoad h o.e) with
  | .error _ => go o s
  | .ok pa =>
    whenReady (pa / 64) false (.routeChoice o.id) (fun s => go o (reportSrc o.by_ cPoison (word pa) 0 s))
      (fun s =>
        let t := afterLine s (pa / 64) o.t
        go { o with t := t } (addCounter pa (word (hdrLoad h o.e)) 1 0 o.by_ t s)) s

/-- The wait for room, then the load counter's add. -/
def routeRoom (o : RouteOp) (s : State) : State :=
  let evt : Instr := .routeChoice o.id
  let wait (_ : MemErr) (s : State) : State := again evt s
  engTry (again evt) wait (do
    let h ← tabHdr s o.tab
    let w ← tabSlot s o.tab o.e o.r
    let c ← ctrNow s (slotCctr w)
    .ok (h, w, c)) (fun (h, w, c) s =>
      let s := engUse [(o.tab, 128), (slotVa o.tab o.e o.r, 64), (slotCctr w, 8)] s
      if hdrSlots h ≤ o.j - c then again evt s
      else
        let (t, s) := engTake [(slotCctr w, 8)] o.t s
        routeLoad { o with t := t } h s) s

/-- ROUTE_CHOICE: the choice piece of a route operation; then, once its slot is free, the add to LOAD. -/
def execRouteChoice (k : Nat) (s : State) : Host.Outcome State Fault Refusal :=
  match routeById s k with
  | none => .next s
  | some o => match o.st with
    | .choice => .next (routeChoose o s)
    | .room => .next (routeRoom o s)
    | _ => .next s

/-- The header of an inbox slot (R389). -/
def slotHeader (o : RouteOp) : List Byte :=
  natBytes 64 (o.v + o.e * 2 ^ 16 + o.orig * 2 ^ 32 + b2n o.redir.isSome * 2 ^ 35 + b2n (o.isVoid || o.stopped.isSome) * 2 ^ 36 +
    o.key * 2 ^ 64 + o.src % 2 ^ 57 * 2 ^ 128 + o.j * 2 ^ 192)

/-- Ask for the next delivery piece. -/
def nextDelivery (o : RouteOp) (s : State) : State :=
  let (d, s) := freeDelay (setRoute o s)
  due (s.now + d) (.routeDelivery o.id) s

/-- One piece of a delivery: a payload line, in any order, or the slot's header after them. A stop goes on with the header. -/
def deliverPiece (o : RouteOp) (h w : Nat) (s : State) : State :=
  let evt : Instr := .routeDelivery o.id
  let slot := slotInbox w + o.j % hdrSlots h * hdrSlotBytes h
  let left := if o.isVoid || o.stopped.isSome then [] else o.left
  if left.isEmpty then
    let go (o : RouteOp) (s : State) : State := due s.now (.routedAdd o.id) (setRoute { o with st := .routed, left := [] } s)
    engPut (again evt)
      (fun e s => go (if o.stopped.isSome then o else { o with stopped := some ((stopOfMem e).cause, (stopOfMem e).info) }) s)
      .wr o.t [(slot, slotHeader o)] (fun t s => go { o with t := Nat.max o.t t } s) s
  else
    let i := left.getD (Config.freeChoice s.free % left.length) 0
    let s := { s with free := s.free + 1 }
    let stop (e : MemErr) (s : State) : State :=
      nextDelivery { o with stopped := some ((stopOfMem e).cause, (stopOfMem e).info), left := [] } s
    engTry (again evt) stop (engBytes .rd s (o.src0 + 64 * i) 64) (fun bs s =>
      let (t, s) := engTake [(o.src0 + 64 * i, 64)] o.t s
      engPut (again evt) stop .wr t [(slot + 64 + 64 * i, bs)]
        (fun t s => nextDelivery { o with t := Nat.max o.t t, left := left.erase i } s) s) s

/-- ROUTE_DELIVERY. -/
def execRouteDelivery (k : Nat) (s : State) : Host.Outcome State Fault Refusal :=
  match routeById s k with
  | none => .next s
  | some o =>
    if o.st != .deliver then .next s
    else
      let evt : Instr := .routeDelivery k
      .next (engTry (again evt) (fun _ s => again evt s) (do
        let h ← tabHdr s o.tab
        let w ← tabSlot s o.tab o.e o.r
        .ok (h, w)) (fun (h, w) s => deliverPiece o h w (engUse [(o.tab, 128), (slotVa o.tab o.e o.r, 64)] s)) s)

/-- The end of an operation after its routed add. -/
def finishRoute (o : RouteOp) (s : State) : State :=
  let s := match o.stopped with
    | some (c, info) => reportStop o c info s
    | none => addDone o o.n 0 s
  let s := tableTime o.tab o.t (dropRoute o s)
  match o.redir with
  | some sw => due s.now (.redirection sw) s
  | none => s

/-- ROUTED_ADD: after the adds of the replica's earlier slots. An add to a poisoned counter is dropped (13 R457). -/
def execRoutedAdd (k : Nat) (s : State) : Host.Outcome State Fault Refusal :=
  match routeById s k with
  | none => .next s
  | some o =>
    if o.st != .routed then .next s
    else
      let evt : Instr := .routedAdd k
      .next (engTry (again evt) (fun _ s => again evt s) (tabSlot s o.tab o.e o.r) (fun w s =>
        let s := engUse [(slotVa o.tab o.e o.r, 64)] s
        match engXlate s .ctrWr (slotRctr w) with
        | .error _ => again evt s
        | .ok pa =>
          if !poisoned s (pa / 64) && ctrValue s pa < o.j then again evt s
          else whenReady (pa / 64) false evt (fun s => finishRoute o (reportSrc o.by_ cPoison (word pa) 0 s))
            (fun s =>
              let t := afterLine s (pa / 64) o.t
              finishRoute { o with t := t } (addCounter pa (word (slotRctr w)) 1 0 o.by_ t s)) s) s)

/-! ### Sampling (R394) -/

def switchById (s : State) (k : Nat) : Option Switch := s.switches.find? fun w => w.id == k
def setSwitch (w : Switch) (s : State) : State := { s with switches := s.switches.map fun x => if x.id = w.id then w else x }
def dropSwitch (w : Switch) (s : State) : State := { s with switches := s.switches.filter fun x => x.id != w.id }
/-- The first switch of a table that is past its weight copy: the only one that may go on. -/
def isHead (s : State) (w : Switch) : Bool :=
  ((s.switches.find? fun x => x.tab == w.tab && x.step != 0).map (·.id)) == some w.id

/-- A new switch. -/
def addSwitch (tab e r : Nat) (k : SwKind) (step : Nat) (s : State) : Nat × State :=
  let (i, s) := freshId s
  (i, { s with switches := s.switches ++ [⟨i, tab, e, r, k, step, 0, 0, 0⟩] })

/-- A statistics write to a line that its home owns: outside the global order (R394). A poisoned line takes none. Its use in its slice comes
at the end of the sample (`sampleUses`). -/
def statWrite (va n v : Nat) (s : State) : State :=
  match engXlate s .rd va with
  | .ok pa => if lineReady s (pa / 64) false none = .ok then modDir (pa / 64) false (wrN pa n v s) else s
  | .error _ => s

/-- What the statistics writes of a sample must wait for: a line that its home has first to own. -/
def statWaits (s : State) (tab h : Nat) : Option (Option PoolTx) :=
  let one (va : Nat) : Option (Option PoolTx) := match engXlate s .rd va with
    | .ok pa => match lineReady s (pa / 64) false none with
      | .fetch tx => some (some tx)
      | .wait => some none
      | _ => none
    | .error _ => none
  (List.range (hdrNexp h)).findSome? fun e =>
    (one (entVa tab e)).orElse fun _ => (List.range (hdrMaxr h + 1)).findSome? fun r => one (slotVa tab e r)

/-- replicate(e, r), steps 1 and 2 of R395: STATE := COPYING, and the weight copy. -/
def startReplica (tab e r h : Nat) (s : State) : State :=
  match tabSlot s tab e 0, tabSlot s tab e r with
  | .ok w0, .ok w =>
    let (i, s) := addSwitch tab e r .replicate 0 (statWrite (slotVa tab e r) 64 (setBits w 2 0 1) s)
    let (k, s) := freshId s
    let l : Launch :=
      { kind := .cpy, dst := word (slotWeights w), src := word (slotWeights w0), len := bits h 351 320, rows := 1, dstStride := 0, srcStride := 0,
        ctr := 0, amt := 0, wmp := 0, wmv := 0, module := 0, pull := false, rc := false }
    let o : Cop := ⟨k, 0, 0, 0, 0, l, l.pieces, 0, (timeOf s tab), none, false, false, some i⟩
    nextPiece o { s with copies := s.copies ++ [o] }
  | _, _ => s

/-- retire(e, r) is decided: it waits for its turn. -/
def startRetire (tab e r : Nat) (s : State) : State :=
  let (i, s) := addSwitch tab e r .retire 1 s
  due s.now (.redirection i) s

/-- The sample of one expert: D, M and the new value of its load counter. -/
def sampleExpert (tab h m : Nat) (x : Nat × Nat × Nat) (s : State) : State :=
  let (e, d, now) := x
  match tabEnt s tab e with
  | .error _ => s
  | .ok n =>
    let nexp := hdrNexp h
    let a := bits n 7 0
    let k := popcount a 8
    let bleft := bits n 31 16 - 1
    let gone := (findTable s tab).any fun x => x.abandoned.contains e
    let hot := bits h 55 48 * m * k ≤ 16 * nexp * d && 0 < m && !gone
    let cold := bits h 63 56 != 0 && 16 * nexp * d ≤ bits h 63 56 * m * k
    let crun := if cold then Nat.min (bits n 35 32 + 1) 15 else 0
    let busy := s.switches.any fun w => w.tab == tab && w.e == e && w.k != .clear
    let free := (List.range (hdrMaxr h + 1)).find? fun r => r != 0 && match tabSlot s tab e r with
      | .ok w => bits w 2 0 = 0
      | .error _ => false
    let copies := (s.switches.filter fun w => w.k == .replicate && w.step == 0).length
    let put (crun : Nat) (s : State) : State :=
      statWrite (entVa tab e) 64 (setBits (setBits (setBits n 31 16 bleft) 35 32 crun) 127 64 now) s
    match (if hot && k ≤ hdrMaxr h && bleft = 0 && !busy && copies < 4 then free else none) with
    | some r => put crun (startReplica tab e r h s)
    | none =>
      if bits h 67 64 ≤ crun && 1 < k && !busy then
        put 0 (startRetire tab e ((((List.range 8).filter fun i => bit a i).getLast?).getD 0) s)
      else put crun s

/-- The uses that a sample makes of lines in their slices (11 R252): the load counters, the header, the entries and their slots are read, and
the entries and the slots of new copies are modified. They take their places together, so that none pushes out another before its part is
done. -/
def sampleUses (tab h : Nat) (old s : State) : State :=
  let es := List.range (hdrNexp h)
  let s := es.foldl (fun s e => (engTake [(hdrLoad h e, 8)] (timeOf s tab) s).2) s
  let s := engUse ((tab, 128) :: es.map fun e => (entVa tab e, 64 * (hdrMaxr h + 2))) s
  let new := s.switches.filter fun w => w.tab == tab && w.k == .replicate && !old.switches.any fun x => x.id == w.id
  let ws := es.map (entVa tab) ++ new.map fun w => slotVa tab w.e w.r
  (ws.flatMap fun va => engLines s va 64).foldl (fun s l => touchLine l true s) s

/-- sample(tab), each load counter by a single-access read. One that cannot be read counts nothing. No expert is abandoned but by
R397, which a sample does not undo. -/
def sampleTable (tab h : Nat) (s : State) : State :=
  let xs := (List.range (hdrNexp h)).map fun e =>
    let last := match tabEnt s tab e with | .ok n => bits n 127 64 | .error _ => 0
    match ctrNow s (hdrLoad h e) with
    | .ok v => (e, v - last, v)
    | .error _ => (e, 0, last)
  let m := (xs.map fun x => x.2.1).foldl (· + ·) 0
  sampleUses tab h s (xs.foldl (fun s x => sampleExpert tab h m x s) s)

/-- SWARM_SAMPLE: one sample of a table, when its clock has come; none while a merge is in progress. -/
def execSwarmSample (tab : Nat) (s : State) : Host.Outcome State Fault Refusal :=
  match (findTable s tab).filter fun x => x.ok && x.next ≤ s.now with
  | none => .next s
  | some x =>
    let evt : Instr := .swarmSample tab
    if !jobLive s then .next s
    else .next (engTry (again evt) (fun _ s => again evt s) (tabHdr s tab) (fun h s =>
      if bits h 47 40 = 0 then s
      else if let some tx := tableWaits s tab h then again evt (askOpt tx s)
      else if let some tx := (if x.merging.isSome then none else statWaits s tab h) then again evt (askOpt tx s)
      else
        let next := x.next + 65536 * bits h 47 40
        let s := due next evt (setTable { x with next := next } s)
        if x.merging.isSome then s else sampleTable tab h s) s)

/-! ### Replication (R395) -/

/-- REPLICA_COPY_STOP (R395 step 3): the slot is free again, and the expert backs off. -/
def execReplicaCopyStop (sw : Nat) (s : State) : Host.Outcome State Fault Refusal :=
  match (switchById s sw).filter fun w => w.k == .replicate && w.step == 0 with
  | none => .next s
  | some w =>
    let evt : Instr := .replicaCopyStop sw
    let wait (_ : MemErr) (s : State) : State := again evt s
    .next (engTry (again evt) wait (do
      let h ← tabHdr s w.tab
      let n ← tabEnt s w.tab w.e
      let k ← tabSlot s w.tab w.e w.r
      .ok (h, n, k)) (fun (h, n, k) s =>
        let s := engUse [(w.tab, 128)] s
        let fails := Nat.min (bits n 15 8 + 1) 255
        let bleft := Nat.min (bits h 71 68 * 2 ^ (fails - 1)) 1024
        engPut (again evt) wait .rd (timeOf s w.tab)
          [(entVa w.tab w.e, natBytes 64 (setBits (setBits n 15 8 fails) 31 16 bleft)),
           (slotVa w.tab w.e w.r, natBytes 64 (setBits k 2 0 0))]
          (fun t s => dropSwitch w (tableTime w.tab t s)) s) s)

/-- The append of a replica's task to its leaf by the three writes of 16 R369. -/
def appendTask (k t : Nat) (s : State) : State :=
  due s.now (.spawnAppend (word (slotLeaf k)) (word (slotTask k)) 0 t)
    { s with sched := { s.sched with reps := s.sched.reps ++ [(slotTask k, false)] } }
def appending (k : Nat) (s : State) : Bool := s.agenda.any fun d => match d.act with
  | .spawnAppend a b _ _ => a == word (slotLeaf k) && b == word (slotTask k)
  | _ => false

/-- The latest time of a queue's RCB line and of its counter's: that of an append to it, or later. -/
def queueTime (s : State) (leaf : Nat) : Nat :=
  match s.sched.regions.find? fun r => r.va == leaf with
  | some r => Nat.max (dirOf s ((r.pa + 120) / 64)).wts (dirOf s (r.qctr / 64)).wts
  | none => 0

/-- Steps 4 and 5 of R395: RES, GRAD cleared line by line, the append, the publication. -/
def replicaSteps (w : Switch) (h k : Nat) (s : State) : State :=
  let evt : Instr := .replicaCopyDone w.id
  let wait (_ : MemErr) (s : State) : State := again evt s
  let go (n : Nat) (s : State) : State := due s.now evt (setSwitch { w with step := n } s)
  match w.step with
  | 1 => engTry (again evt) wait (ctrNow s (slotRctr k)) (fun v s =>
      let (t, s) := engTake [(slotRctr k, 8)] (timeOf s w.tab) s
      go 2 (setRes w.tab w.e w.r v (tableTime w.tab t s))) s
  | 2 =>
    if bits h 383 352 ≤ 64 * w.j then
      go 3 (appendTask k (timeOf s w.tab) s)
    else
      engPut (again evt) (fun _ s => due s.now evt (setSwitch { w with j := w.j + 1 } s)) .wr (timeOf s w.tab)
        [(slotGrad k + 64 * w.j, List.replicate 64 0)]
        (fun t s =>
          let (d, s) := freeDelay (setSwitch { w with j := w.j + 1 } (tableTime w.tab t s))
          due (s.now + d) evt s) s
  | _ =>
    if appending k s then again evt s
    else
      publishTable evt w.tab w.e (fun a => a ||| 2 ^ w.r) (fun n => setBits n 15 8 0)
        [(w.r, fun v k => setBits (setBits k 2 0 2) 31 16 v)] (dropSwitch w) (tableTime w.tab (queueTime s (slotLeaf k)) s)

/-- REPLICA_COPY_DONE (R395 steps 4 and 5): the switch takes its turn among those of its table. -/
def execReplicaCopyDone (sw : Nat) (s : State) : Host.Outcome State Fault Refusal :=
  match (switchById s sw).filter fun w => w.k == .replicate with
  | none => .next s
  | some w =>
    let evt : Instr := .replicaCopyDone sw
    let w1 := if w.step = 0 then { w with step := 1 } else w
    let s := if w.step = 0 then { dropSwitch w s with switches := (dropSwitch w s).switches ++ [w1] } else s
    if !isHead s w1 then .next (again evt s)
    else .next (engTry (again evt) (fun _ s => again evt s) (do
      let h ← tabHdr s w1.tab
      let k ← tabSlot s w1.tab w1.e w1.r
      .ok (h, k)) (fun (h, k) s => replicaSteps w1 h k (engUse [(w1.tab, 128), (slotVa w1.tab w1.e w1.r, 64)] s)) s)

/-! ### Retirement, loss and redirection (R396, R397) -/

/-- End a task quietly: its strands are rolled back, and DONE receives nothing. One whose descriptor its leaf has yet to fetch ends at the
fetch. -/
def endQuietly (va : Nat) (s : State) : State :=
  let s := { s with sched := { s.sched with reps := s.sched.reps.map fun (x : Nat × Bool) => if x.1 = va then (va, true) else x } }
  ((s.sched.tasks.filter fun t => t.va == va && t.handler.isNone && !taskEnded t && t.st != .ending)).foldl
    (fun s t => killTask t.tser (setTask { t with done := none } s)) s

/-- A route operation that chose a replica has not applied its routed add. -/
def routesTo (s : State) (w : Switch) : Bool :=
  s.routes.any fun o => o.tab == w.tab && o.e == w.e && o.r == w.r && o.st != .choice && o.redir != some w.id

/-- Redirect one slot: choose by its key under the table's version, reserve once there is room, and deliver. -/
def redirectSlot (w : Switch) (h k : Nat) (s : State) : State :=
  let evt : Instr := .redirection w.id
  let wait (_ : MemErr) (s : State) : State := again evt s
  let slot := slotInbox k + w.j % hdrSlots h * hdrSlotBytes h
  engTry (again evt) wait (do
    let g ← engNat .rd s slot 64
    let n ← tabEnt s w.tab w.e
    let r := pickReplica (bits n 7 0) (bits g 95 64)
    let k' ← tabSlot s w.tab w.e r
    let c ← ctrNow s (slotCctr k')
    .ok (g, n, r, k', c)) (fun (g, n, r, k', c) s =>
      let j := resOf s w.tab w.e r
      if bits n 7 0 = 0 || hdrSlots h ≤ j - c then again evt s
      else
        let (t, s) := engTake [(slot, 64), (entVa w.tab w.e, 64), (slotVa w.tab w.e r, 64), (slotCctr k', 8)] (timeOf s w.tab) s
        let s := tableTime w.tab t s
        let (i, s) := freshId (setRes w.tab w.e r (j + 1) s)
        let o : RouteOp := ⟨i, w.tab, bits g 184 128, bits g 95 64, w.e, 0, none, 0, 0, (timeOf s w.tab), .deliver,
          bits h 15 0, r, j, List.range ((hdrSlotBytes h - 64) / 64), slot + 64, bits g 34 32, bit g 36, some w.id, none⟩
        let s := setSwitch { w with j := w.j + 1 } { s with routes := s.routes ++ [o] }
        due s.now (.routeDelivery i) s) s

/-- A slot of an abandoned expert has no replica to go to: it becomes a VOID slot where it stands. -/
def voidSlot (w : Switch) (h k : Nat) (s : State) : State :=
  let evt : Instr := .redirection w.id
  let next (s : State) : State := due s.now evt (setSwitch { w with j := w.j + 1 } s)
  let slot := slotInbox k + w.j % hdrSlots h * hdrSlotBytes h
  engTry (again evt) (fun _ s => next s) (engNat .rd s slot 64) (fun g s =>
    engPut (again evt) (fun _ s => next s) .wr (timeOf s w.tab) [(slot, natBytes 64 (setBits g 36 36 1))]
      (fun t s => next (tableTime w.tab t s)) s) s

/-- Step 5: the consumed counter takes R − C at once, and a retired slot its state. -/
def closeInbox (w : Switch) (k : Nat) (s : State) : State :=
  let evt : Instr := .redirection w.id
  let done (s : State) : State := due s.now evt (setSwitch { w with step := 5 } s)
  match engXlate s .ctrWr (slotCctr k) with
  | .error _ => done s
  | .ok pa => whenReady (pa / 64) false evt done (fun s =>
      let t := afterLine s (pa / 64) (timeOf s w.tab)
      done (tableTime w.tab t (addCounter pa (word (slotCctr k)) (w.jEnd - ctrValue s pa) 0 .nobody t s))) s

/-- Steps 2 to 5 of R396, after the publication. -/
def redirectSteps (w : Switch) (h k : Nat) (s : State) : State :=
  let evt : Instr := .redirection w.id
  let wait (_ : MemErr) (s : State) : State := again evt s
  match w.step with
  | 2 =>
    if routesTo s w then again evt s
    else
      let s := if w.k == .loss then s else endQuietly (slotTask k) s
      engTry (again evt) wait (do
        let c ← ctrNow s (slotCctr k)
        let r ← ctrNow s (slotRctr k)
        .ok (c, r)) (fun (c, r) s =>
          let (t, s) := engTake [(slotCctr k, 8), (slotRctr k, 8)] (timeOf s w.tab) s
          due s.now evt (setSwitch { w with step := 3, j := c, jEnd := r } (tableTime w.tab t s))) s
  | 3 =>
    if s.routes.any fun o => o.redir == some w.id then s
    else if w.j < w.jEnd then (if w.k == .abandon then voidSlot w h k s else redirectSlot w h k s)
    else due s.now evt (setSwitch { w with step := 4 } s)
  | 4 => closeInbox w k s
  | _ =>
    let rest := if w.k == .abandon then w.mask - 2 ^ w.r else 0
    let fin (s : State) : State :=
      if rest = 0 then dropSwitch w s
      else due s.now evt (setSwitch { w with step := 2, mask := rest, r := pickReplica rest 0 } s)
    if w.k == .loss then fin s
    else engPut (again evt) wait .rd (timeOf s w.tab) [(slotVa w.tab w.e w.r, natBytes 64 (setBits k 2 0 4))]
      (fun t s => fin (tableTime w.tab t s)) s

/-- The first publication of a retirement or a loss (step 1). -/
def removeReplica (w : Switch) (s : State) : State :=
  let evt : Instr := .redirection w.id
  publishTable evt w.tab w.e (fun a => a &&& (255 - 2 ^ w.r)) id
    [(w.r, fun v k => setBits (setBits k 2 0 (if w.k == .loss then 5 else 3)) 47 32 v)]
    (fun s => due s.now evt (setSwitch { w with step := 2 } s)) s

/-- The abandonment of an expert: AMASK becomes 0, and the other replicas' inboxes are emptied one by one. -/
def abandonExpert (w : Switch) (h n : Nat) (s : State) : State :=
  let evt : Instr := .redirection w.id
  let mask := bits n 7 1 * 2
  let others := (List.range (hdrMaxr h + 1)).filter fun r => bit mask r
  publishTable evt w.tab w.e (fun _ => 0) (fun n => setBits n 37 36 3)
    ((0, fun v k => setBits (setBits k 2 0 5) 47 32 v) :: others.map fun r => (r, fun v k => setBits (setBits k 2 0 3) 47 32 v))
    (fun s =>
      let s := { s with tables := s.tables.map fun (x : Table) => if x.va = w.tab then { x with abandoned := x.abandoned ++ [w.e] } else x }
      if mask = 0 then dropSwitch w s
      else due s.now evt (setSwitch { w with k := .abandon, step := 2, mask := mask, r := pickReplica mask 0 } s)) s

/-- Wait for the first consumed add after the restart of replica 0; a poisoned counter is not read (13 R457). -/
def watchConsumed (tab e k : Nat) (s : State) : State :=
  match engXlate s .ctrRd (slotCctr k) with
  | .ok pa => if poisoned s (pa / 64) then s else (registerWaiter ⟨pa, ctrValue s pa + 1, false, .consumed tab e⟩
      { s with waiters := s.waiters.filter fun w => w.who != .consumed tab e }).2
  | .error _ => s

/-- The restart of replica 0 (R397): v + 1 without bit 0, the append of its task, v + 2 with bit 0. -/
def restartSteps (w : Switch) (h n k : Nat) (s : State) : State :=
  let evt : Instr := .redirection w.id
  match w.step with
  | 1 =>
    if 2 ≤ bits n 37 36 then abandonExpert w h n s
    else
      publishTable evt w.tab w.e (fun a => a &&& 0xFE) (fun n => setBits n 37 36 (bits n 37 36 + 1)) [(0, fun v k => setBits k 47 32 v)]
        (fun s => due s.now evt (setSwitch { w with step := 2 } (appendTask k (timeOf s w.tab) s))) s
  | _ =>
    if appending k s then again evt s
    else if let some tx := waitsOn (ctrNow s (slotCctr k)) then again evt (askOpt tx s)
    else
      publishTable evt w.tab w.e (fun a => a ||| 1) id [(0, fun v k => setBits k 31 16 v)]
        (fun s => dropSwitch w (watchConsumed w.tab w.e k s)) (tableTime w.tab (queueTime s (slotLeaf k)) s)

/-- R0LOSS of an expert is written 0, as soon as its line can be written. -/
def clearLoss (w : Switch) (s : State) : State :=
  let evt : Instr := .redirection w.id
  let va := entVa w.tab w.e + 4
  engTry (again evt) (fun _ s => dropSwitch w s) (engNat .rd s va 1) (fun n s =>
    engPut (again evt) (fun _ s => dropSwitch w s) .rd (timeOf s w.tab) [(va, natBytes 1 (setBits n 5 4 0))]
      (fun t s => dropSwitch w (tableTime w.tab t s)) s) s

/-- REDIRECTION: the next step of a retirement, a loss, a restart of replica 0 or an abandonment, in its turn. A replica that an earlier
switch has removed is left alone. -/
def execRedirection (sw : Nat) (s : State) : Host.Outcome State Fault Refusal :=
  match (switchById s sw).filter fun w => w.k != .replicate with
  | none => .next s
  | some w =>
    let evt : Instr := .redirection sw
    if w.k == .clear then .next (clearLoss w s)
    else if !isHead s w then .next (again evt s)
    else .next (engTry (again evt) (fun _ s => again evt s) (do
      let h ← tabHdr s w.tab
      let n ← tabEnt s w.tab w.e
      let k ← tabSlot s w.tab w.e w.r
      .ok (h, n, k)) (fun (h, n, k) s =>
        let s := engUse [(w.tab, 128), (entVa w.tab w.e, 64), (slotVa w.tab w.e w.r, 64)] s
        if w.k == .restart then restartSteps w h n k s
        else if w.step = 1 then (if bits k 2 0 = 2 then removeReplica w s else dropSwitch w s)
        else redirectSteps w h k s) s)

/-- A switch that a loss begins; it waits for a merge in progress (R398). -/
def loseReplica (evt : Instr) (tab e r : Nat) (k : SwKind) (s : State) : State :=
  match (findTable s tab).filter fun x => x.ok && !x.abandoned.contains e with
  | none => s
  | some x =>
    if x.merging.isSome then again evt s
    else
      let (i, s) := addSwitch tab e r k 1 s
      due s.now (.redirection i) s

/-- REPLICA_LOSS (R396): a fault domain has killed the task of a replica other than 0. -/
def execReplicaLoss (tab e r : Nat) (s : State) : Host.Outcome State Fault Refusal :=
  .next (if r = 0 then s else loseReplica (.replicaLoss tab e r) tab e r .loss s)

/-- REPLICA0_LOSS (R397). -/
def execReplica0Loss (tab e : Nat) (s : State) : Host.Outcome State Fault Refusal :=
  .next (loseReplica (.replica0Loss tab e) tab e 0 .restart s)

/-! ### Gradient merge (R398) -/

/-- The slots that a merge visits, in its order. -/
def mergeOrder (h : Nat) : List (Nat × Nat) :=
  (List.range (hdrNexp h)).flatMap fun e => ((List.range (hdrMaxr h + 1)).filter (· != 0)).map fun r => (e, r)

/-- A slot whose gradient is merged: STATE ACTIVE, RETIRED or LOST. -/
def slotMerged (w : Nat) : Bool := bits w 2 0 = 2 || bits w 2 0 = 4 || bits w 2 0 = 5

/-- The slots whose gradients are merged among some, in order; a slot that cannot be read stops the merge (R398). -/
def mergeAmong (s : State) (tab : Nat) : List (Nat × Nat) → Except MemErr (List (Nat × Nat × Nat))
  | [] => .ok []
  | (e, r) :: t => do
    let w ← tabSlot s tab e r
    let rest ← mergeAmong s tab t
    .ok (if slotMerged w then (e, r, w) :: rest else rest)
def mergeSlots (s : State) (tab h : Nat) : Except MemErr (List (Nat × Nat × Nat)) := mergeAmong s tab (mergeOrder h)

/-- The first slot at or after a position whose gradient is merged. -/
def mergeNext (s : State) (tab : Nat) (p : MergePos) : List (Nat × Nat) → Except MemErr (Option (Nat × Nat × Nat))
  | [] => .ok none
  | (e, r) :: t =>
    if p.e < e || (p.e == e && p.r ≤ r) then do
      let w ← tabSlot s tab e r
      if slotMerged w then .ok (some (e, r, w)) else mergeNext s tab p t
    else mergeNext s tab p t

/-- The merge is over: the next request is awaited, and samples and switches go on. -/
def endMerge (x : Table) (s : State) : State :=
  armMerge x.va (setTable { ((findTable s x.va).getD x) with merging := none, asked := x.asked + 1 } s)

/-- The task that committed the add which met merge k. -/
def mergeAsker (s : State) (mergec k : Nat) : Nat :=
  match engXlate s .ctrRd mergec with
  | .ok pa => ((s.adders.find? fun a => a.1 == pa && k ≤ a.2.1).map fun a => a.2.2).getD 0
  | .error _ => 0

/-- An add to MDONE, or flags alone. -/
def addMdone (h n fl tser t : Nat) (s : State) : State :=
  match engCounter s (bits h 312 256) with
  | .ok pa => due s.now (.applyAdd pa (word (bits h 312 256)) (word n) (BitVec.ofNat 32 fl) (if tser = 0 then .nobody else .task tser) t) s
  | .error _ => s

/-- A stop of the merge: CF, with PSN on poison, and a class A fault. -/
def stopMerge (x : Table) (h : Nat) (e : MemErr) (s : State) : State :=
  let w := stopOfMem e
  let k := mergeAsker s (bits h 248 192) x.asked
  let s := addMdone h 0 (0x10 + (if w.cause = 5 then 0x20 else 0)) k x.t s
  endMerge x (if k = 0 then s else reportA k (causeCode w.cause) w.info s)

/-- One element: G0 and Gr in one single-access region. -/
def mergeElement (x : Table) (p : MergePos) (h w0 w : Nat) (s : State) : State :=
  let evt : Instr := .gradientMerge x.va
  let a0 := slotGrad w0 + 4 * p.i
  let ar := slotGrad w + 4 * p.i
  engTry (again evt) (stopMerge x h) (do
    let g0 ← engNat .rd s a0 4
    let gr ← engNat .rd s ar 4
    .ok (g0, gr)) (fun (g0, gr) s =>
      let (v, f) := atomicNew .fadd true false g0 gr 0
      engPut (again evt) (stopMerge x h) .wr x.t [(a0, natBytes 4 v), (ar, natBytes 4 0)] (fun t s =>
        let (d, s) := freeDelay (setTable { x with merging := some { p with i := p.i + 1, flags := p.flags ||| f }, t := Nat.max x.t t } s)
        due (s.now + d) evt s) s) s

/-- The end of a merge: RETIRED and LOST slots are free, MERGED := k, and MDONE takes 1 and the flags. Poison met there stops the merge. -/
def finishMerge (x : Table) (p : MergePos) (h : Nat) (s : State) : State :=
  let evt : Instr := .gradientMerge x.va
  engTry (again evt) (stopMerge x h) (mergeSlots s x.va h) (fun ss s =>
    let parts := ss.filterMap fun (e, r, w) =>
      if bits w 2 0 = 2 then none else some (slotVa x.va e r, natBytes 64 (setBits w 2 0 0))
    engPut (again evt) (stopMerge x h) .rd x.t ((x.va, natBytes 64 (setBits (h % 2 ^ 512) 447 384 x.asked)) :: parts) (fun t s =>
      let s := endMerge { x with t := t } (tableTime x.va t s)
      addMdone h 1 p.flags.toNat (mergeAsker s (bits h 248 192) x.asked) t s) s) s

/-- GRADIENT_MERGE: the next element of a merge that no switch of the table holds back, or its end. -/
def execGradientMerge (tab : Nat) (s : State) : Host.Outcome State Fault Refusal :=
  match (findTable s tab).filter (·.ok) with
  | none => .next s
  | some x =>
    match x.merging with
    | none => .next s
    | some p =>
      let evt : Instr := .gradientMerge tab
      if s.switches.any fun w => w.tab == tab && w.k != .clear then .next (again evt s)
      else .next (engTry (again evt) (stopMerge x (engKnown s tab 128)) (tabHdr s tab) (fun h s =>
        if let some tx := tableWaits s tab h then again evt (askOpt tx s) else
        engTry (again evt) (stopMerge x h) (mergeNext s tab p (mergeOrder h)) (fun y s => match y with
          | none => finishMerge x p h s
          | some (e, r, w) =>
            let s := engUse [(tab, 128), (slotVa tab e r, 64)] s
            let p := if e = p.e && r = p.r then p else { p with e := e, r := r, i := 0 }
            if bits h 383 352 ≤ 4 * p.i then
              due s.now evt (setTable { x with merging := some { p with r := r + 1, i := 0 } } s)
            else
              engTry (again evt) (stopMerge x h) (tabSlot s tab e 0) (fun w0 s =>
                mergeElement x p h w0 w (engUse [(slotVa tab e 0, 64)] s)) s) s) s)

end Sys2Proof.Machine
end

