-- ==== Sys2Proof/Machine/Waggle.lean ====
section
/-! DEFINITION. The waggle engines (24 R435-R448): the descriptor and its checks, launches and their pairing, the steps of a collective
on this module's rank, chunks that arrive, aborts, and the three Y-slot instructions. -/

namespace Sys2Proof.Machine

/-! ### Instructions (R437, R448) -/

/-- `wgl`. -/
def wglOp (f : YA) (s : State) : Res State := do
  let va ← yaAddr f s
  need s (va.toNat % 128 = 0) cAccess va
  holdAll [.wgl va] s
def execWgl (f : YA) (s : State) : Host.Outcome State Fault Refusal := issue s (wglOp f s)

/-- A tag operand: bits above [11:0] are illegal at execution. -/
def tagOf (f : YA) (s : State) : Res Nat := do
  let b ← readS f.b s
  needLegal s (b.toNat < 4096)
  .ok b.toNat

/-- The status of a collective (R448). -/
def collStatus (c : Coll) (st : Nat) : Nat := c.pc % 1024 + st * 2 ^ 12 + c.nfin % 2 ^ 32 * 2 ^ 16

/-- The status of the most recent launch of a tag. -/
def tagStatus (s : State) (tag : Nat) : Nat :=
  match s.colls.find? fun c => c.tag == tag && c.launch == SMap.get 0 s.wcount tag with
  | some c => collStatus c 0
  | none => SMap.get (3 * 2 ^ 12) s.wstat tag
def setStatus (tag v : Nat) (s : State) : State := { s with wstat := SMap.set (3 * 2 ^ 12) s.wstat tag v }

/-- `wglq`. -/
def wglqOp (f : YA) (s : State) : Res State := do
  let tag ← tagOf f s
  .ok (produceVal f.c (word (tagStatus s tag)) s.now false s)
def execWglq (f : YA) (s : State) : Host.Outcome State Fault Refusal := issue s (wglqOp f s)

/-- `wglk`. -/
def wglkOp (f : YA) (s : State) : Res State := do
  let tag ← tagOf f s
  holdAll [.wglk tag] s
def execWglk (f : YA) (s : State) : Host.Outcome State Fault Refusal := issue s (wglkOp f s)

/-! ### Chunk slots (R445) -/

/-- Units of 4 KiB of a chunk, and those of an engine's 32 MiB. -/
def slotUnits (m : ChunkMsg) : Nat := Nat.max 1 ((m.data.length + 4095) / 4096)
def slotRoom : Nat := 8192
/-- The place of a spilled chunk in the spill area, whose own place is free, in the window of one port (log entry 91). -/
def spillPa (k : Nat) : Nat := 2 ^ 56 + Config.spillBase % 8 * 2 ^ 53 + (Config.spillBase / 8 + k) * 65536 % 2 ^ 53
/-- The pool that holds the spill area is in service. -/
def spillUp (s : State) : Bool := (portOf s (spillPa 0)).up

/-! ### The descriptor (R435, R436) -/

def Coll.d (c : Coll) (hi lo : Nat) : Nat := bits c.desc.toNat hi lo
def cdTy (n : Nat) : Nat := bits n 79 76
def cdRanks (n : Nat) : Nat := bits n 112 96 + 1
def cdRank (n : Nat) : Nat := bits n 144 128
def cdDone (n : Nat) : Nat := bits n 280 224
def cdChunk (n : Nat) : Nat := 256 * bits n 328 320
def cdBva (n k : Nat) : Nat := bits n (384 + 128 * k + 56) (384 + 128 * k)
def cdBlen (n k : Nat) : Nat := bits n (384 + 128 * k + 95) (384 + 128 * k + 64)
/-- Bytes of an element. -/
def tyBytes (ty : Nat) : Nat := widthOf ty / 8
/-- Chunks of a buffer. -/
def cdChunks (n k : Nat) : Nat := (cdBlen n k + cdChunk n - 1) / cdChunk n

def cdFields : List (Nat × Nat) :=
  [(56, 0), (83, 64), (112, 96), (144, 128), (216, 160), (280, 224), (306, 288), (328, 320)] ++
    (List.range 4).flatMap fun k => [(384 + 128 * k + 56, 384 + 128 * k), (384 + 128 * k + 95, 384 + 128 * k + 64)]

/-- A well-formed descriptor, for a module's domain table. -/
def cdOk (s : State) (n : Nat) : Bool :=
  let ty := cdTy n
  onlyFields n cdFields && bits n 56 0 % 8 = 0 && [0, 1, 2, 3, 6].contains ty && bits n 81 80 != 3 && 1 ≤ bits n 328 320 &&
    bits n 328 320 ≤ 256 && cdRank n < cdRanks n && ((List.range 4).all fun k => cdBva n k % 256 = 0 && cdBlen n k % tyBytes ty = 0) &&
    (!bit n 83 || (bits n 216 160 = 0 && cdRanks n = s.dom.members.length && cdRank n = s.dom.self))

/-- The modules of the group in rank order, and whether the table is well-formed; of a malformed one, the modules that it names. -/
def groupOf (s : State) (n : Nat) : Except MemErr (Bool × List (BitVec 17)) :=
  if bit n 83 then .ok (true, s.dom.members.map (·.1))
  else do
    let bs ← engBytes .rd s (bits n 216 160) (4 * cdRanks n)
    let ws := (List.range (cdRanks n)).map fun r => leNat ((bs.drop (4 * r)).take 4)
    let ms := (ws.filter (· < 2 ^ 17)).eraseDups
    .ok (ms.length = ws.length, ms.map (BitVec.ofNat 17 ·))

/-! ### The program (R440-R442) -/

/-- The steps of a program up to its first `wend`, which stands behind at most 1,024 (R441, log entry 81). -/
def readProg (s : State) : Nat → Nat → Except MemErr (List Word)
  | 0, _ => .ok []
  | fuel + 1, va => do
    let w ← engNat .rd s va 8
    if bits w 63 56 = 0x0B then .ok [word w]
    else
      let r ← readProg s fuel (va + 8)
      .ok (word w :: r)

/-- The reserved form of `wcopy` that names a counter: 1 SIG, 2 WAIT. -/
def ctrStepOf : Instr → Option (Nat × Nat)
  | .wcopy f => if f.low = 0 then none else some (bits f.low.toNat 51 32, bits f.low.toNat 31 0)
  | _ => none

/-- The check of one step, apart from loops and order. -/
def stepOk (n : Nat) (agreed : Bool) (i : Instr) : Bool :=
  let used (k : Nat) : Bool := cdBva n k != 0 && cdBlen n k != 0
  match i with
  | .wsend f => used f.buf.toNat
  | .wrecv f => used f.buf.toNat
  | .wrrs f =>
    used f.buf.toNat && used f.dst.toNat && cdBlen n f.dst.toNat = cdBlen n f.buf.toNat && f.root.toNat < cdRanks n && f.mode != 3 &&
      ((cdTy n != 2 && cdTy n != 3) || agreed)
  | .wcopy f => f.low != 0 || (used f.src.toNat && used f.dst.toNat)
  | .wagree b off => used b.toNat && off.toNat < cdBlen n b.toNat
  | i => i.isStep

/-- Loops match and nest at most two deep; `d` loops are open. -/
def loopsOk : Nat → List Instr → Bool
  | d, [] => d = 0
  | d, .wloop _ :: t => d < 2 && loopsOk (d + 1) t
  | d, .wendl :: t => 0 < d && loopsOk (d - 1) t
  | d, _ :: t => loopsOk d t

/-- Every step's own check, with whether a `wagree` has come before it. -/
def stepsOk (n : Nat) : Bool → List Instr → Bool
  | _, [] => true
  | a, i :: t => stepOk n a i && stepsOk n (a || (match i with | .wagree _ _ => true | _ => false)) t

/-- The counter steps of R442: absent, or the first two steps, naming SIG and WAIT; needed by `wsig` and `wwait`. -/
def ctrStepsOk (n : Nat) (is : List Instr) : Bool :=
  let cs := is.map ctrStepOf
  let named (k : Nat) : Bool := k < 4 && cdBva n k != 0
  let uses := is.any fun i => match i with | .wsig _ => true | .wwait _ => true | _ => false
  match cs with
  | some (1, a) :: some (2, b) :: t => named a && named b && t.all Option.isNone
  | cs => cs.all Option.isNone && !uses

/-- The check of R441. -/
def progOk (n : Nat) (is : List Instr) : Bool :=
  is.reverse.take 2 == [.wend, .wflags] && loopsOk 0 is && stepsOk n false is && ctrStepsOk n is

/-- The buffer numbers of SIG and WAIT. -/
def ctrBufs (is : List Instr) : Option (Nat × Nat) :=
  match is.map ctrStepOf with
  | some (1, a) :: some (2, b) :: _ => some (a, b)
  | _ => none

/-- The signature of R439. -/
def sigOf (n : Nat) (group : List (BitVec 17)) (prog : List Word) : List Word :=
  [word (bits n 81 76 + bits n 112 96 * 2 ^ 8 + bits n 328 320 * 2 ^ 32)] ++ (List.range 4).map (fun k => word (cdBlen n k)) ++
    group.map (·.setWidth 64) ++ prog

/-! ### Running collectives -/

def collOf (s : State) (tag : Nat) : Option Coll := s.colls.find? fun c => c.tag == tag
def setColl (c : Coll) (s : State) : State := { s with colls := s.colls.map fun x => if x.tag = c.tag then c else x }
/-- A collective ends: its slots, its waiter and what came before its start are freed. -/
def dropColl (c : Coll) (s : State) : State :=
  { s with
    colls := s.colls.filter (fun x => x.tag != c.tag), waiters := s.waiters.filter (fun w => w.who != .wag c.tag c.launch),
    wchunks := s.wchunks.filter (fun m => !(m.tag == c.tag && m.launch ≤ c.launch)),
    wvals := s.wvals.filter fun v => !(v.2.1 == c.tag && v.2.2.1 ≤ c.launch) }

/-- A launch of a tag is still to come: its number is above those taken, or no job runs, so that the next job's launches all are
(R439, R446; log entry 126). -/
def awaited (tag launch : Nat) (s : State) : Bool := s.host.lstate != 2 || SMap.get 0 s.wcount tag < launch

def Coll.n (c : Coll) : Nat := c.desc.toNat
def Coll.rank (c : Coll) : Nat := cdRank c.n
def Coll.ranks (c : Coll) : Nat := cdRanks c.n
/-- The module of a rank. -/
def Coll.moduleOf (c : Coll) (r : Nat) : BitVec 17 := (c.group[r]?).getD 0
def Coll.others (c : Coll) : List (BitVec 17) := ((List.range c.group.length).filter (· != c.rank)).map c.moduleOf

/-- A message is a contribution to a chunk of a reduction, or a prefix of them. -/
def isPart (inst i : Nat) (m : ChunkMsg) : Bool :=
  m.inst == inst && m.chunk == i && match m.kind with | .contrib => true | .combined .. => true | _ => false

/-- The longest prefix of a chunk that switches have combined: its number of ranks, its elements and their flags (R445). -/
def Coll.switched (c : Coll) (inst i : Nat) : Nat × List XV × Flags :=
  (c.held.filter (isPart inst i)).foldl (fun p m => match m.kind with
    | .combined acc fl => if p.1 ≤ m.rank then (m.rank + 1, acc, fl) else p
    | _ => p) (0, [], 0)

/-- The first rank whose contribution to a chunk the combined prefix still lacks. -/
def Coll.prefixEnd (c : Coll) (inst i : Nat) : Nat :=
  let k := (c.switched inst i).1
  ((List.range c.ranks).find? fun r => k ≤ r && r != c.rank &&
    !c.held.any fun m => m.kind == .contrib && m.inst == inst && m.chunk == i && m.rank == r).getD c.ranks
/-- A held chunk takes a slot unless it is part of the combined prefix. -/
def Coll.slots (c : Coll) (m : ChunkMsg) : Bool :=
  match m.kind with
  | .combined .. => false
  | .contrib => c.prefixEnd m.inst m.chunk < m.rank
  | _ => true
def Coll.units (c : Coll) : Nat := ((c.held.filter fun m => c.slots m).map slotUnits).foldl (· + ·) 0

/-- The status that a collective leaves, unless a later launch of its tag has one (R448). -/
def leaveStatus (c : Coll) (st : Nat) (s : State) : State :=
  if SMap.get 0 s.wcount c.tag = c.launch then setStatus c.tag (collStatus c st) s else s

/-- The end of an aborted collective: ABT, and PSN on poison, in DONE without an add. -/
def finishAbort (c : Coll) (fl : Nat) (s : State) : State :=
  let s := match c.done with
    | some pa => due s.now (.applyAdd pa (word (cdDone c.n)) 0 (BitVec.ofNat 32 fl) (.task c.tser) c.t) s
    | none => s
  leaveStatus c 2 (dropColl c s)

/-- The `wcopy` that a running collective is in, unless it has the reserved form. -/
def Coll.copying (c : Coll) : Option WC :=
  if !c.started then none
  else match c.steps[c.pc]? with
    | some (.wcopy f) => if f.low = 0 then some f else none
    | _ => none

/-- Bytes that a `wcopy` copies. -/
def copyLen (c : Coll) (f : WC) : Nat := Nat.min (cdBlen c.n f.src.toNat) (cdBlen c.n f.dst.toNat)
/-- The chunk that an address of a copy's destination lies in, and the lines that the copy writes of it. -/
def copyChunk (c : Coll) (f : WC) (a : Nat) : Nat := (a - cdBva c.n f.dst.toNat) / cdChunk c.n
def copyLines (c : Coll) (f : WC) (i : Nat) : Nat := (Nat.min (cdChunk c.n) (copyLen c f - cdChunk c.n * i) + 63) / 64

/-- The writes that an abort still makes: those of the chunk in writing, and of a copy those of every chunk begun; it begins no other. -/
def Coll.finishing (c : Coll) : Coll :=
  match c.copying with
  | none => c
  | some f =>
    let begun (i : Nat) : Bool := (c.out.filter fun p => copyChunk c f p.1 == i).length < copyLines c f i
    let out := c.out.filter fun p => begun (copyChunk c f p.1)
    { c with out := out, writing := !out.isEmpty }

/-- WAGGLE_ABORT (R446): an abort reaches this module's engine. A chunk in writing is finished first; an abort of a launch still to come is
kept; one of a collective that has ended is ignored. -/
def execWaggleAbort (tag launch : Nat) (poison : Bool) (s : State) : Host.Outcome State Fault Refusal :=
  let fl := 0x40 + (if poison then 0x20 else 0)
  match (collOf s tag).filter fun c => c.launch == launch with
  | some c =>
    if c.aborting.isSome then .next s
    else if c.finishing.writing then .next (setColl { c.finishing with aborting := some fl } s)
    else .next (finishAbort c fl s)
  | none => .next (if awaited tag launch s then { s with waborts := s.waborts ++ [(tag, launch)] } else s)

/-- An error of the engine's own data piece: a class A report, and the collective aborts (01 R34). -/
def failColl (c : Coll) (e : MemErr) (s : State) : State :=
  let w := stopOfMem e
  abortAll c.tag c.launch c.group (w.cause = 5) (reportA c.tser (causeCode w.cause) w.info s)

/-- Two pieces in writing are of one chunk. -/
def Coll.together (c : Coll) (p q : Nat × List Byte) : Bool := c.copying.all fun f => copyChunk c f p.1 == copyChunk c f q.1

/-- No piece of a piece's chunk has been written. -/
def Coll.untouched (c : Coll) (p : Nat × List Byte) : Bool :=
  let n := (c.out.filter (c.together p)).length
  match c.copying with
  | none => n == c.spots.length
  | some f => n == copyLines c f (copyChunk c f p.1)

/-- The place of a line of a chunk in writing: the one it had as the chunk was begun. -/
def Coll.spot (c : Coll) (s : State) (va : Nat) : Except MemErr Nat :=
  match findKey c.spots va with
  | some pa => .ok pa
  | none => engXlate s .wr va

/-- A home refuses a piece of a chunk in writing, and the collective aborts. A chunk of which nothing is written keeps its original bytes; one
that is begun is finished once its homes take it, for a chunk is never left part written (R446) (DEDUCED, log entry 89). -/
def failPiece (c : Coll) (p : Nat × List Byte) (e : MemErr) (s : State) : State :=
  if c.untouched p then
    let out := c.out.filter fun q => !c.together p q
    failColl c e (setColl { c with out := out, writing := c.writing && !out.isEmpty } s)
  else if c.aborting.isNone then failColl c e s
  else s

/-- Write a piece of a chunk in writing. -/
def writePiece (c : Coll) (p : Nat × List Byte) (s : State) : State :=
  putVia (c.spot s) id (failPiece c p) c.t [p] (fun t s => setColl { c with out := c.out.erase p, t := Nat.max c.t t } s) s

/-! ### Launches (R438, R439) -/

/-- Tags held under a region (16 R357). -/
def tagsHeld (s : State) (anc : Nat) : Nat := (s.colls.filter fun c => (taskOf s c.tser).any fun t => under s t.rnum anc).length
def tagsFit (s : State) (tser : Nat) : Bool :=
  match taskOf s tser with
  | some t => (chain s t.rnum).all fun r => tagsHeld s r.rnum < r.wtags
  | none => true

/-- A refused launch: ABT into DONE, an abort of its own launch number to its group, the report. -/
def refuseLaunch (q : WglQ) (n launch : Nat) (done : Option Nat) (group : List (BitVec 17)) (code : Nat) (info : Word) (s : State) : State :=
  let tag := bits n 75 64
  let s := match done with
    | some pa => due s.now (.applyAdd pa (word (cdDone n)) 0 0x40 (.task q.tser) q.t) s
    | none => s
  let s := (group.filter (· != ownModule s)).foldl (fun s m => sendG m (.abort tag launch false) s) s
  setStatus tag (4 * 2 ^ 12) (reportA q.tser code info s)

/-- The collective of an accepted launch. -/
def newColl (q : WglQ) (n launch : Nat) (group : List (BitVec 17)) (steps : List Instr) (sigw : List Word) (sig wait done : Option Nat) : Coll :=
  { tag := bits n 75 64, launch := launch, va := q.va, tser := q.tser, t := q.t, desc := BitVec.ofNat 1024 n, group := group, steps := steps,
    sigw := sigw, agreed := [cdRank n], started := false, sig := sig, wait := wait, done := done, pc := 0, loops := [], inst := 0, ae := 0,
    lf := 0, nfin := 0, sent := false, woken := none, todo := [], owed := [], want := [], got := [], reading := false, out := [],
    spots := [], writing := false, cur := 0, rs := [], held := [], spilled := [], reruns := [], vals := [], landed := [], sends := [], recvs := [], aborting := none }

/-- An accepted launch: a kept abort ends it at once; on a module that is not in RUN it aborts on every rank (R446); else its signature goes
to every other rank. -/
def startColl (c : Coll) (s : State) : State :=
  let s := { s with colls := s.colls ++ [c] }
  if s.waborts.contains (c.tag, c.launch) then
    finishAbort c 0x40 { s with waborts := s.waborts.filter (· != (c.tag, c.launch)) }
  else if s.host.lstate != 2 then abortAll c.tag c.launch c.group false s
  else
    let s := c.others.foldl (fun s m => sendG m (.wsig c.tag c.launch c.rank c.sigw) s) s
    due s.now (.signatureAgreement c.tag) s

/-- The counters SIG and WAIT of a program. -/
def progCtrs (s : State) (n : Nat) (is : List Instr) : Option (Option Nat × Option Nat) :=
  match ctrBufs is with
  | none => some (none, none)
  | some (a, b) => match engCounter s (cdBva n a), engCounter s (cdBva n b) with
    | .ok pa, .ok pb => some (some pa, some pb)
    | _, _ => none

/-- A launch whose descriptor, group and program have been read: the descriptor's checks, then the program's (R438). -/
def launchRead (q : WglQ) (n : Nat) (group : Bool × List (BitVec 17)) (prog : Except MemErr (List Word)) (s : State) : State :=
  let tag := bits n 75 64
  let launch := SMap.get 0 s.wcount tag + 1
  let running := (collOf s tag).isSome
  let s := { s with wglq := s.wglq.tail, wcount := SMap.set 0 s.wcount tag launch }
  let done : Except MemErr (Option Nat) := if cdDone n = 0 then .ok none else (engCounter s (cdDone n)).map some
  let donePa := match done with | .ok x => x | .error _ => none
  let no (code : Nat) (info : Word) : State := refuseLaunch q n launch donePa group.2 code info s
  if !cdOk s n || !group.1 || running || !tagsFit s q.tser || (match done with | .ok _ => false | .error _ => true) then no cAccess (word q.va)
  else match prog with
  | .error e => no (causeCode (stopOfMem e).cause) (stopOfMem e).info
  | .ok ws =>
    match (ws.mapM decodeStep).filter (progOk n) with
    | none => no cAccess (word q.va)
    | some is =>
      match progCtrs s n is with
      | none => no cAccess (word q.va)
      | some (sig, wait) => startColl (newColl q n launch group.2 is (sigOf n group.2 ws) sig wait donePa) s

/-- A committed `wglk`: the running collective of the tag aborts on every rank. -/
def killTag (tag : Nat) (s : State) : State :=
  match collOf s tag with
  | some c => abortAll tag c.launch c.group false s
  | none => s

/-- WAGGLE_LAUNCH: the engine takes the oldest committed `wgl` or `wglk`. -/
def execWaggleLaunch (k : Nat) (s : State) : Host.Outcome State Fault Refusal :=
  let evt : Instr := .waggleLaunch k
  match s.wglq with
  | [] => .next s
  | q :: rest =>
    if q.id ≠ k then .next (if rest.any fun x => x.id == k then again evt s else s)
    else
      match q.kill with
      | some tag => .next (killTag tag { s with wglq := rest })
      | none =>
        .next (engTry (again evt)
          (fun e s => reportA q.tser (causeCode (stopOfMem e).cause) (stopOfMem e).info { s with wglq := rest })
          (engNat .rd s q.va 128) (fun n s =>
            let read (g : Bool × List (BitVec 17)) (p : Except MemErr (List Word)) : State :=
              let len := match p with | .ok ws => 8 * ws.length | .error _ => 0
              let (t, s) := engTake [(q.va, 128), (bits n 216 160, if bit n 83 then 0 else 4 * cdRanks n), (bits n 56 0, len)] q.t s
              launchRead { q with t := t } n g p s
            match groupOf s n, readProg s 1025 (bits n 56 0) with
            | .error (.fetch tx), _ => again evt (askPool tx s)
            | _, .error (.fetch tx) => again evt (askPool tx s)
            | .error .wait, _ => again evt s
            | _, .error .wait => again evt s
            | .ok g, p => read g p
            | .error _, p => read (false, []) p) s)

/-- SIGNATURE_AGREEMENT: signatures that have arrived for a launch; a mismatch aborts it, and the last match starts it. -/
def execSignatureAgreement (k : Nat) (s : State) : Host.Outcome State Fault Refusal :=
  match (collOf s k).filter fun c => !c.started && c.aborting.isNone with
  | none => .next s
  | some c =>
    let mine := s.wsigs.filter fun x => x.1 == c.tag && x.2.1 == c.launch && x.2.2.1 < c.ranks
    let s := { s with wsigs := s.wsigs.filter fun x => !(x.1 == c.tag && x.2.1 ≤ c.launch) }
    if mine.any fun x => x.2.2.2 != c.sigw then .next (abortAll c.tag c.launch c.group false s)
    else
      let agreed := (c.agreed ++ mine.map (·.2.2.1)).eraseDups
      let all := (List.range c.ranks).all agreed.contains
      let chunks := if all then s.wchunks.filter fun m => m.tag == c.tag && m.launch == c.launch else []
      let vals := if all then (s.wvals.filter fun v => v.2.1 == c.tag && v.2.2.1 == c.launch).map fun v => (v.1, v.2.2.2) else []
      let s := if all then { s with
          wchunks := s.wchunks.filter (fun m => !(m.tag == c.tag && m.launch ≤ c.launch)),
          wvals := s.wvals.filter fun v => !(v.2.1 == c.tag && v.2.2.1 ≤ c.launch) } else s
      let s := chunks.foldl (fun s m => due s.now (.chunkArrival m) s) s
      .next (setColl { c with agreed := agreed, started := all, vals := c.vals ++ vals } s)

/-! ### Pieces of a step (R443) -/

/-- The spans of an address range that cross no line. -/
def lineSpans : Nat → Nat → Nat → List (Nat × Nat)
  | 0, _, _ => []
  | fuel + 1, va, n => if n = 0 then [] else
    let k := Nat.min n (64 - va % 64)
    (va, k) :: lineSpans fuel (va + k) (n - k)
def spansOf (va n : Nat) : List (Nat × Nat) := lineSpans (n / 64 + 2) va n

/-- The next piece of a read of n bytes, in any order; when all are made, `k` takes the bytes. -/
def readPieces (c : Coll) (va n : Nat) (k : List Byte → Coll → State → State) (s : State) : State :=
  if !c.reading then setColl { c with reading := true, want := spansOf va n, got := [] } s
  else if c.want.isEmpty then
    k ((spansOf va n).flatMap fun p => ((c.got.find? fun g => g.1 == p.1).map (·.2)).getD []) { c with reading := false, got := [] } s
  else
    let i := Config.freeChoice s.free % c.want.length
    let (a, m) := c.want.getD i (0, 0)
    let s := { s with free := s.free + 1 }
    engTry id (failColl c) (engBytes .rd s a m) (fun bs s =>
      let (t, s) := engTake [(a, m)] c.t s
      setColl { c with want := c.want.erase (a, m), got := (a, bs) :: c.got, t := t } s) s

/-- Every line of a range can be written: it translates with write permission, and is not poisoned where the write is partial. -/
def placed (s : State) (va n : Nat) : Except MemErr Unit :=
  let line (p : Nat × Nat) : Option MemErr := match engXlate s .wr p.1 with
    | .error e => some e
    | .ok pa => if lineReady s (pa / 64) (p.2 == 64) none = .poison then some (.poison (pa / 64 * 64)) else none
  match worstErr ((spansOf va n).filterMap line) with
  | some e => .error e
  | none => .ok ()

/-- The write of a chunk begins once all of it can be written; else the collective aborts with its bytes unchanged (R446). -/
def whenPlaced (c : Coll) (va n : Nat) (k : State → State) (s : State) : State := engTry id (failColl c) (placed s va n) (fun _ => k) s

/-- The places of the lines of a chunk that is begun. -/
def spotsOf (s : State) (ps : List (Nat × List Byte)) : List (Nat × Nat) :=
  ps.filterMap fun p => match engXlate s .wr p.1 with | .ok pa => some (p.1, pa) | .error _ => none

/-- Begin the write of a chunk. -/
def beginChunk (c : Coll) (va : Nat) (bs : List Byte) (s : State) : State :=
  let out := lineCuts (bs.length / 64 + 2) va bs
  setColl { c with writing := true, out := out, spots := spotsOf s out } s

/-- The next piece of the chunk in writing, in any order; when all are written, `k` goes on. -/
def writePieces (c : Coll) (k : Coll → State → State) (s : State) : State :=
  if c.out.isEmpty then k { c with writing := false } s
  else
    let i := Config.freeChoice s.free % c.out.length
    writePiece c (c.out.getD i (0, [])) { s with free := s.free + 1 }

/-- The next step. -/
def Coll.clear (c : Coll) : Coll :=
  { c with sent := false, woken := none, todo := [], owed := [], want := [], got := [], reading := false, out := [], spots := [], writing := false }
def toStep (c : Coll) (pc : Nat) (s : State) : State := setColl { c.clear with pc := pc } s
def nextStep (c : Coll) (s : State) : State := toStep c (c.pc + 1) s

/-- A step acts on the collective whose engine executes it, once it is running and not aborting. -/
def onStep (f : Coll → State → State) (s : State) : Host.Outcome State Fault Refusal :=
  match (collOf s s.wcur).filter fun c => c.started && c.aborting.isNone with
  | some c => .next (f c s)
  | none => .next s

/-! ### Fields of a step (R440) -/

/-- The loop index L. -/
def Coll.loopIx (c : Coll) : Int := match c.loops with | (_, _, i) :: _ => i | [] => 0
/-- A multiplier code. -/
def mcode (m : BitVec 2) : Int := if m = 1 then 1 else if m = 2 then -1 else 0
/-- The peer of a `wsend` or `wrecv`. -/
def peerOf (c : Coll) (f : WP) : Nat :=
  (((c.rank : Int) + sint 18 f.poff.toNat + mcode f.pmul * c.loopIx) % c.ranks).toNat
/-- The chunk of a `wsend` or `wrecv`. -/
def chunkOf (c : Coll) (f : WP) : Nat :=
  (((f.cb.toNat : Int) + mcode f.cmul * c.loopIx + mcode f.crk * c.rank) % (Nat.max 1 (cdChunks c.n f.buf.toNat))).toNat
/-- The address and length of a chunk. -/
def chunkVa (c : Coll) (buf i : Nat) : Nat := cdBva c.n buf + cdChunk c.n * i
def chunkLen (c : Coll) (buf i : Nat) : Nat := Nat.min (cdChunk c.n) (cdBlen c.n buf - cdChunk c.n * i)

/-! ### Steps (R443) -/

/-- `wsend`: read the chunk, send it, and wait until it has landed. -/
def wsendStep (f : WP) (c : Coll) (s : State) : State :=
  let p := peerOf c f
  let i := chunkOf c f
  let b := f.buf.toNat
  if !c.sent then
    readPieces c (chunkVa c b i) (chunkLen c b i) (fun bs c s =>
      let k := SMap.get 0 c.sends p + 1
      setColl { c with sent := true, sends := SMap.set 0 c.sends p k }
        (sendG (c.moduleOf p) (.chunk ⟨.send, c.tag, c.launch, c.rank, k, i, bs⟩) s)) s
  else if c.landed.contains (p, SMap.get 0 c.sends p) then nextStep c s else s
def execWsend (f : WP) (s : State) : Host.Outcome State Fault Refusal := onStep (wsendStep f) s

/-- `wrecv`: wait for the peer's chunk, and write it. -/
def wrecvStep (f : WP) (c : Coll) (s : State) : State :=
  let p := peerOf c f
  let i := chunkOf c f
  if c.writing then writePieces c nextStep s
  else
    let k := SMap.get 0 c.recvs p + 1
    match c.held.find? fun m => m.kind == .send && m.rank == p && m.inst == k with
    | none => s
    | some m =>
      let bs := m.data.take (chunkLen c f.buf.toNat i)
      whenPlaced c (chunkVa c f.buf.toNat i) bs.length
        (beginChunk { c with recvs := SMap.set 0 c.recvs p k, held := c.held.erase m } (chunkVa c f.buf.toNat i) bs) s
def execWrecv (f : WP) (s : State) : Host.Outcome State Fault Refusal := onStep (wrecvStep f) s

/-- A line of a copy has been read; once all of its chunk's have, the chunk can be written. -/
def copyRead (f : WC) (p : Nat × Nat) (bs : List Byte) (t : Nat) (c : Coll) (s : State) : State :=
  let target (a : Nat) : Nat := cdBva c.n f.dst.toNat + (a - cdBva c.n f.src.toNat)
  let i := copyChunk c f (target p.1)
  let c := { c with want := c.want.erase p, got := c.got ++ [(target p.1, bs)], t := t }
  if c.want.any fun q => copyChunk c f (target q.1) == i then setColl c s
  else
    let here (q : Nat × List Byte) : Bool := copyChunk c f q.1 == i
    whenPlaced c (cdBva c.n f.dst.toNat + cdChunk c.n * i) (Nat.min (cdChunk c.n) (copyLen c f - cdChunk c.n * i))
      (fun s => setColl { c with
        got := c.got.filter (!here ·), out := c.out ++ c.got.filter here, spots := c.spots ++ spotsOf s (c.got.filter here) } s) s

/-- `wcopy`: the reads and writes of its lines, in any order but that a chunk's lines are read before any of them is written (log entry
140). The reserved form has no effect of its own (R442). -/
def wcopyStep (f : WC) (c : Coll) (s : State) : State :=
  if f.low ≠ 0 then nextStep c s
  else if !c.reading then setColl { c with reading := true, want := spansOf (cdBva c.n f.src.toNat) (copyLen c f) } s
  else if c.want.isEmpty && c.out.isEmpty then nextStep c s
  else
    let i := Config.freeChoice s.free % (c.want.length + c.out.length)
    let s := { s with free := s.free + 1 }
    match c.want[i]? with
    | some p =>
      engTry id (failColl c) (engBytes .rd s p.1 p.2) (fun bs s =>
        let (t, s) := engTake [p] c.t s
        copyRead f p bs t c s) s
    | none =>
      writePiece c (c.out.getD (i - c.want.length) (0, [])) s
def execWcopy (f : WC) (s : State) : Host.Outcome State Fault Refusal := onStep (wcopyStep f) s

/-- `wwait`: register on WAIT; a wake on a fault bit, and a poisoned counter, abort. -/
def wwaitStep (thr : Nat) (c : Coll) (s : State) : State :=
  let pa := c.wait.getD 0
  if !c.sent then
    if poisoned s (pa / 64) then abortAll c.tag c.launch c.group true s
    else
      let (met, s) := registerWaiter ⟨pa, thr, true, .wag c.tag c.launch⟩ s
      setColl { c with sent := true, woken := if met then some (ctrFlags s pa, (dirOf s (pa / 64)).wts) else none } s
  else match c.woken with
    | none => s
    | some (f, t) =>
      if bits f 7 3 ≠ 0 then abortAll c.tag c.launch c.group false s else nextStep { c with t := Nat.max c.t t } s
def execWwait (thr : BitVec 48) (s : State) : Host.Outcome State Fault Refusal := onStep (wwaitStep thr.toNat) s

/-- Add to a counter of the collective when its home can take it; an add to a poisoned counter is dropped and reported (13 R457). -/
def collAdd (c : Coll) (pa : Nat) (va : Word) (n fl : Nat) (k : Coll → State → State) (s : State) : State :=
  match lineReady s (pa / 64) false none with
  | .ok =>
    let t := afterLine s (pa / 64) c.t
    k { c with t := t } (addCounter pa va n fl (.task c.tser) t s)
  | .poison => k c (reportA c.tser cPoison (word pa) s)
  | .wait => s
  | .fetch tx => askPool tx s

/-- `wsig`. -/
def wsigStep (n : Nat) (c : Coll) (s : State) : State :=
  collAdd c (c.sig.getD 0) (word (cdBva c.n (((ctrBufs c.steps).map (·.1)).getD 0))) n 0 nextStep s
def execWsig (n : BitVec 20) (s : State) : Host.Outcome State Fault Refusal := onStep (wsigStep n.toNat) s

/-- `wloop` and `wendl` (R440). -/
def execWloop (cnt : BitVec 32) (s : State) : Host.Outcome State Fault Refusal :=
  onStep (fun c s => nextStep { c with loops := (c.pc + 1, cnt.toNat, 0) :: c.loops } s) s
def wendlStep (c : Coll) (s : State) : State :=
  match c.loops with
  | [] => nextStep c s
  | (a, n, i) :: t => if n ≤ 1 then nextStep { c with loops := t } s else toStep { c with loops := (a, n - 1, i + 1) :: t } a s
def execWendl (s : State) : Host.Outcome State Fault Refusal := onStep wendlStep s

/-- The values of an order-free reduction, once every rank's has arrived. -/
def valsOf (c : Coll) (kind : Nat) : Option (List Word) :=
  let vs := c.vals.filter fun v => v.1 == kind && v.2.1 == c.inst
  if (List.range c.ranks).all fun r => vs.any fun v => v.2.2.1 == r then some (vs.map (·.2.2.2)) else none

/-- Enter an order-free reduction: the own value goes to every other rank. -/
def enterVal (kind : Nat) (v : Word) (c : Coll) (s : State) : State :=
  let c := { c with inst := c.inst + 1, sent := true, vals := c.vals ++ [(kind, c.inst + 1, c.rank, v)] }
  setColl c (c.others.foldl (fun s m => sendG m (.wval kind c.tag c.launch c.inst c.rank v) s) s)

/-- `wagree`: the largest of the ranks' s64, written back. -/
def wagreeStep (b off : Nat) (c : Coll) (s : State) : State :=
  let va := cdBva c.n b + off
  if !c.sent then readPieces c va 8 (fun bs c s => enterVal 0 (word (leNat bs)) c s) s
  else match valsOf c 0 with
    | none => s
    | some vs =>
      let r := vs.foldl (fun m v => Max.max m v.toInt) (-(2 ^ 63 : Int))
      engPut id (failColl c) .wr c.t [(va, natBytes 8 (ubits 64 r))]
        (fun t s => nextStep { c with ae := Min.min (Max.max r (-128)) 127, t := Nat.max c.t t } s) s
def execWagree (buf : BitVec 2) (off : BitVec 32) (s : State) : Host.Outcome State Fault Refusal := onStep (wagreeStep buf.toNat off.toNat) s

/-- `wflags`: the OR of the ranks' flag words. -/
def wflagsStep (c : Coll) (s : State) : State :=
  if !c.sent then enterVal 1 (zx c.lf) c s
  else match valsOf c 1 with
    | none => s
    | some vs => nextStep { c with lf := vs.foldl (fun m v => m ||| v.setWidth 32) 0 } s
def execWflags (s : State) : Host.Outcome State Fault Refusal := onStep wflagsStep s

/-- The end of a complete collective. -/
def completeColl (c : Coll) (s : State) : State := leaveStatus c 1 (dropColl c s)
/-- `wend`. -/
def wendStep (c : Coll) (s : State) : State :=
  match c.done with
  | none => completeColl c s
  | some pa => collAdd c pa (word (cdDone c.n)) (c.d 306 288) c.lf.toNat completeColl s
def execWend (s : State) : Host.Outcome State Fault Refusal := onStep wendStep s

/-! ### Rank-order reduction (R444) -/

/-- The owner of a chunk. -/
def ownerOf (c : Coll) (f : WR) (i : Nat) : Nat := if f.mode = 2 then f.root.toNat else i % c.ranks

/-- The elements of a contribution as exact values; e4m3 and e5m2 at the exponent AE. -/
def contribXs (c : Coll) (bs : List Byte) : List XV :=
  let ty := cdTy c.n
  let w := tyBytes ty
  (List.range (bs.length / w)).map fun i =>
    let x := valueOf ty (leNat ((bs.drop (w * i)).take w))
    if ty = 2 || ty = 3 then x.scale c.ae else x

/-- comb. -/
def combXV (op ty : Nat) (a x : XV) : XV × Flags :=
  if op ≠ 0 then XV.maxmin (op == 1) a x
  else
    let (v, f) := a.add x
    if ty = 6 then (v, f) else let (r, g) := toF32 v; (r, f ||| g)

/-- final: the code and its flags. -/
def finalXV (c : Coll) (a : XV) : Nat × Flags :=
  let ty := cdTy c.n
  convertSat (if ty = 2 || ty = 3 then a.scale (-c.ae) else a) ty 0 0

/-- combine(c) from the values of the ranks so far, over the later contributions in rank order: the final bytes and the flags. -/
def combineFrom (c : Coll) (acc : List XV) (contribs : List (List Byte)) : List Byte × Flags :=
  let join (a : XV × Flags) (x : XV) : XV × Flags :=
    let (v, f) := combXV (c.d 81 80) (cdTy c.n) a.1 x
    (v, a.2 ||| f)
  let acc := (contribs.map (contribXs c)).foldl (fun acc xs => (acc.zip xs).map fun e => join e.1 e.2) (acc.map fun v => (v, 0))
  let fin : List (List Byte × Flags) := acc.map fun a =>
    let (b, f) := finalXV c a.1
    (natBytes (tyBytes (cdTy c.n)) b, a.2 ||| f)
  (fin.flatMap fun x => x.1, fin.foldl (fun f x => f ||| x.2) 0)

/-- combine(c): the contributions in rank order, to the final bytes and the flags. -/
def combineChunk (c : Coll) (contribs : List (List Byte)) : List Byte × Flags :=
  match contribs with
  | [] => combineFrom c [] []
  | x :: t => combineFrom c (contribXs c x) t

/-- A rank's contribution to a chunk that has arrived. -/
def contribOf (c : Coll) (i r : Nat) : Option (List Byte) :=
  (c.held.find? fun m => m.kind == .contrib && m.inst == c.inst && m.chunk == i && m.rank == r).map (·.data)
def finalOf (c : Coll) (i : Nat) : Option (List Byte) :=
  (c.held.find? fun m => m.kind == .final && m.inst == c.inst && m.chunk == i).map (·.data)

/-- The contribution of a rank to a chunk of the current reduction that has been spilled. -/
def spillOf (c : Coll) (i r : Nat) : Option (Nat × Nat × ChunkMsg) := c.spilled.find? fun e => e.2.2.inst == c.inst && e.2.2.chunk == i && e.2.2.rank == r

/-- A chunk that this rank owes can be written: its final value has come, or every other rank's contribution has. -/
def chunkReady (c : Coll) (f : WR) (i : Nat) : Bool :=
  if ownerOf c f i = c.rank then
    (List.range c.ranks).all fun r => decide (r < (c.switched c.inst i).1) || r == c.rank || (contribOf c i r).isSome || (spillOf c i r).isSome
  else (finalOf c i).isSome

/-- Enter a `wrrs`: the chunks to contribute to other owners, and those that this rank writes. -/
def enterRs (f : WR) (c : Coll) (s : State) : State :=
  let cs := List.range (cdChunks c.n f.buf.toNat)
  let mine := cs.filter fun i => ownerOf c f i = c.rank
  setColl { c with
    inst := c.inst + 1, sent := true, rs := (c.inst + 1, f) :: c.rs, todo := cs.filter fun i => ownerOf c f i ≠ c.rank,
    owed := if f.mode = 1 then cs else mine } s

/-- The final value of a chunk of this rank's own and its flags: the contributions in rank order, from what switches have combined on. -/
def ownFinal (c : Coll) (i : Nat) (own : List Byte) : List Byte × Flags :=
  let bytes (r : Nat) : List Byte := if r = c.rank then own else (contribOf c i r).getD []
  match c.switched c.inst i with
  | (0, _) => combineChunk c ((List.range c.ranks).map bytes)
  | (k, acc, fl) =>
    let (bs, g) := combineFrom c acc (((List.range c.ranks).drop k).map bytes)
    (bs, fl ||| g)

/-- A chunk of this rank's own: combine, multicast under `all`, and write. -/
def reduceChunk (f : WR) (i : Nat) (own : List Byte) (c : Coll) (s : State) : State :=
  let (bs, fl) := ownFinal c i own
  whenPlaced c (chunkVa c f.dst.toNat i) bs.length (fun s =>
    let s := if f.mode = 1 then
        c.others.foldl (fun s m => sendG m (.chunk ⟨.final, c.tag, c.launch, c.rank, c.inst, i, bs⟩) s) s else s
    beginChunk { c with lf := c.lf ||| fl.setWidth 32, held := c.held.filter fun m => !isPart c.inst i m } (chunkVa c f.dst.toNat i) bs s) s

/-- A refetch met poison: the slot is discarded and the chunk rerun; in a rerun it aborts the collective (23 R434). -/
def rerunChunk (i : Nat) (c : Coll) (s : State) : State :=
  if c.reruns.contains (c.inst, i) then abortAll c.tag c.launch c.group true s
  else
    setColl { c with
      reruns := (c.inst, i) :: c.reruns, held := c.held.filter (fun m => !isPart c.inst i m),
      spilled := c.spilled.filter fun e => !isPart c.inst i e.2.2 }
      (c.others.foldl (fun s m => sendG m (.rerun c.tag c.launch c.inst i) s) s)

/-- A spilled contribution comes back from its pool, in increasing rank order before its turn (24 R445). -/
def refetch (i : Nat) (e : Nat × Nat × ChunkMsg) (c : Coll) (s : State) : State :=
  let pa := spillPa e.1
  let ls := (List.range ((e.2.1 + 63) / 64)).map (pa / 64 + ·)
  if ls.any fun l => s.ptx.contains (.wr l .spill) then s
  else match ls.findSome? fun l => match homeServes s l with | .error e => some e | .ok _ => none with
    | some (.fetch tx) => askPool tx s
    | some _ => rerunChunk i c s
    | none => setColl { c with spilled := c.spilled.erase e, held := c.held ++ [{ e.2.2 with data := rdBytes s pa e.2.1 }] } s

/-- The spilled contribution that the combined prefix of a chunk of the current reduction needs next: it is its turn (24 R445). -/
def turnOf (c : Coll) : Option (Nat × Nat × Nat × ChunkMsg) :=
  c.owed.findSome? fun i => (spillOf c i (c.prefixEnd c.inst i)).map (i, ·)

/-- `wrrs` once entered: a chunk in writing, then a contribution to make, then a spilled contribution whose turn it is, then a chunk that
can be written. -/
def rsStep (f : WR) (c : Coll) (s : State) : State :=
  let b := f.buf.toNat
  if c.writing then
    writePieces c (fun c s => setColl { c with nfin := c.nfin + 1, owed := c.owed.filter (· != c.cur) } s) s
  else match c.todo with
    | i :: t =>
      readPieces c (chunkVa c b i) (chunkLen c b i) (fun bs c s =>
        setColl { c with todo := t } (sendG (c.moduleOf (ownerOf c f i)) (.chunk ⟨.contrib, c.tag, c.launch, c.rank, c.inst, i, bs⟩) s)) s
    | [] =>
      if c.owed.isEmpty then nextStep c s
      else if let some e := (turnOf c).filter fun _ => !c.reading then refetch e.1 e.2 c s
      else match (if c.reading then some c.cur else c.owed.find? (chunkReady c f)) with
        | none => s
        | some i =>
          let c := { c with cur := i }
          if let some e := (List.range c.ranks).findSome? (spillOf c i) then refetch i e c s
          else if ownerOf c f i = c.rank then readPieces c (chunkVa c b i) (chunkLen c b i) (reduceChunk f i) s
          else
            let bs := (finalOf c i).getD []
            whenPlaced c (chunkVa c f.dst.toNat i) bs.length
              (beginChunk { c with held := c.held.filter fun m => !(m.kind == .final && m.inst == c.inst && m.chunk == i) }
                (chunkVa c f.dst.toNat i) bs) s
def wrrsStep (f : WR) (c : Coll) (s : State) : State := if c.sent then rsStep f c s else enterRs f c s
def execWrrs (f : WR) (s : State) : Host.Outcome State Fault Refusal := onStep (wrrsStep f) s

/-! ### Arrivals and lost slots (R443, R445) -/

/-- Slot units that an engine's chunks take: those held by its running collectives, and those kept for a launch still to start (R445). -/
def engineUnits (s : State) (io : Nat) : Nat :=
  ((s.colls.filter fun c => c.tag % 4 == io).map Coll.units).foldl (· + ·) 0 +
    ((s.wchunks.filter fun m => m.tag % 4 == io).map slotUnits).foldl (· + ·) 0
/-- The contributions that an engine can spill. -/
def spillable (s : State) (io : Nat) : List (Coll × ChunkMsg) :=
  (s.colls.filter fun c => c.tag % 4 == io).flatMap fun c => (c.held.filter fun m => m.kind == .contrib && c.slots m).map fun m => (c, m)
/-- Slot units of chunks that an engine has accepted and not yet stored. -/
def comingUnits (s : State) (io : Nat) : Nat :=
  (s.agenda.map fun d => match d.act with
    | .chunkArrival m => if m.tag % 4 = io then slotUnits m else 0
    | _ => 0).foldl (· + ·) 0

/-- Spill the contribution of the highest rank that an engine holds: its bytes go to a free place of the spill area by full writes of its
lines. -/
def spillOne (io : Nat) (s : State) : State :=
  match (spillable s io).foldl (fun b x => match b with
    | none => some x
    | some y => if y.2.rank < x.2.rank then some x else some y) (none : Option (Coll × ChunkMsg)) with
  | none => s
  | some (c, m) =>
    let used := s.colls.flatMap fun c => c.spilled.map (·.1)
    let k := ((List.range (used.length + 1)).find? fun k => !used.contains k).getD 0
    let ls := (List.range ((m.data.length + 63) / 64)).map (spillPa k / 64 + ·)
    let s := ls.foldl (fun s l => askPool (.wr l .spill) (setPst l 0 s)) (wrBytes (spillPa k) m.data s)
    setColl { c with held := c.held.erase m, spilled := c.spilled ++ [(k, m.data.length, { m with data := [] })] } s
/-- Spill until the engine's SRAM holds its chunks; a chunk has at most 16 units. -/
def spillDown (io : Nat) : Nat → State → State
  | 0, s => s
  | n + 1, s => if engineUnits s io ≤ slotRoom then s else spillDown io n (spillOne io s)

/-- Whether an engine takes a chunk: it has room, or makes room by spilling while the spill area's pool is in service, or the prefix needs the chunk next; else it
withholds the acknowledgement, so that the sender waits (R445). -/
def takesChunk (m : ChunkMsg) (s : State) : Bool :=
  let io := m.tag % 4
  let c := (collOf s m.tag).filter fun c => c.launch == m.launch && c.started
  let spills := if spillUp s then ((spillable s io).map fun x => slotUnits x.2).foldl (· + ·) 0 +
    (if c.isSome && m.kind == .contrib then slotUnits m else 0) else 0
  engineUnits s io + comingUnits s io + slotUnits m ≤ slotRoom + spills ||
    match c with
    | some c => (match m.kind with
      | .contrib => m.rank ≤ c.prefixEnd m.inst m.chunk
      | .combined .. => true
      | _ => false)
    | none => false

/-- A contribution, or a prefix, that this rank no longer takes: of a chunk that it has combined, or a prefix without INNET. -/
def Coll.past (c : Coll) (m : ChunkMsg) : Bool :=
  isPart m.inst m.chunk m &&
    ((match m.kind with | .combined .. => !bit c.n 82 | _ => false) || m.inst < c.inst ||
      (m.inst == c.inst && (!c.owed.contains m.chunk || (c.writing && c.cur == m.chunk))))

/-- CHUNK_ARRIVAL: a chunk is held in a slot of the engine; one for a launch still to start is kept; a sent chunk's landing is answered. -/
def execChunkArrival (m : ChunkMsg) (s : State) : Host.Outcome State Fault Refusal :=
  match (collOf s m.tag).filter fun c => c.launch == m.launch with
  | none => .next (if awaited m.tag m.launch s then { s with wchunks := s.wchunks ++ [m] } else s)
  | some c =>
    if !c.started then .next { s with wchunks := s.wchunks ++ [m] }
    else if c.past m then .next s
    else
      let other (x : ChunkMsg) : Bool := x.kind != m.kind || x.rank != m.rank || x.inst != m.inst || (m.kind != .send && x.chunk != m.chunk)
      let s := setColl { c with held := c.held.filter other ++ [m], spilled := c.spilled.filter fun e => other e.2.2 } s
      let s := if spillUp s then spillDown (c.tag % 4) 16 s else s
      .next (if m.kind == .send then sendG (c.moduleOf m.rank) (.sent c.tag c.launch c.rank m.inst) s else s)

/-- SWITCH_SLOT_LOSS: a switch has lost a chunk of the inst-th reduction of a tag, or its owner asks for it anew. The owner drops the
contributions and prefixes it holds, and every other rank contributes again, unless the chunk has its final value. -/
def execSwitchSlotLoss (k inst chunk : Nat) (s : State) : Host.Outcome State Fault Refusal :=
  match (collOf s k).filter fun c => c.started && c.aborting.isNone with
  | none => .next s
  | some c =>
    match c.rs.find? fun e => e.1 == inst with
    | none => .next s
    | some (_, f) =>
      let open_ := c.inst == inst && c.owed.contains chunk
      let o := ownerOf c f chunk
      let buf := f.buf.toNat
      if o = c.rank then
        .next (if open_ && !(c.writing && c.cur == chunk) then
          let c := if c.reading && c.todo.isEmpty && c.cur == chunk then { c with reading := false, want := [], got := [] } else c
          setColl { c with
            held := c.held.filter (fun m => !isPart inst chunk m), spilled := c.spilled.filter fun e => !isPart inst chunk e.2.2 } s
        else s)
      else if f.mode = 1 && !open_ then .next s
      else
        .next (engTry (again (.switchSlotLoss k inst chunk)) (failColl c) (engBytes .rd s (chunkVa c buf chunk) (chunkLen c buf chunk))
          (fun bs s =>
            let (t, s) := engTake [(chunkVa c buf chunk, chunkLen c buf chunk)] c.t s
            sendG (c.moduleOf o) (.chunk ⟨.contrib, c.tag, c.launch, c.rank, inst, chunk, bs⟩) (setColl { c with t := t } s)) s)

/-- The turn of a collective that aborts: the chunks that it has begun to write are finished, then it ends. A DST chunk of a `wrrs` that is
finished counts as written (R446, R448). -/
def abortTurn (c : Coll) (s : State) : State :=
  let fl := c.aborting.getD 0x40
  if c.writing then
    writePieces c (fun c s =>
      let rs := match c.steps[c.pc]? with | some (.wrrs _) => c.owed.contains c.cur | _ => false
      finishAbort (if rs then { c with nfin := c.nfin + 1 } else c) fl s) s
  else finishAbort c fl s

end Sys2Proof.Machine
end

