-- ==== Sys2Proof/Machine/Pool.lean ====
section
/-! DEFINITION. Pool lines at their homes (23 R430-R433): completions of MemRd, MemInv and MemWr, evictions, snoops and lease bumps, CXL
ports that leave and return; poison and what it releases (13 R457, 14 R458); comb die errors (11 R256). -/

namespace Sys2Proof.Machine

/-! ### Poison (R433) -/

/-- What a registered waiter on a poisoned counter meets (13 R457). -/
def releaseWaiter (line : Nat) (w : Waiter) (s : State) : State :=
  match w.who with
  | .core c => atCore c (fun s => match s.core.st.wait with
      | .cwait _ _ pc => takeTrap finishSaves ⟨cPoison, word (64 * line), some 7⟩ (mapArch (fun a => { a with pc := pc }) s)
      | _ => s) s
  | .dep tser _ => schedFault tser 0 0x42 s
  | .queue r => schedFault 0 r 0x41 s
  | .job => jobFault s
  | .watch i => clearWatch i s
  | .wag tag launch => match (collOf s tag).filter fun c => c.launch == launch with
    | some c => abortAll tag launch c.group true s
    | none => s
  | _ => { s with waiters := s.waiters ++ [w] }

/-- Release the waiters on the counters of a line. -/
def releaseLine (line : Nat) (s : State) : State :=
  let ws := s.waiters.filter fun w => w.pa / 64 == line
  ws.foldl (fun s w => releaseWaiter line w s) { s with waiters := s.waiters.filter fun w => w.pa / 64 != line }

/-- A record with a poisoned line publishes nothing and refuses what waits at its home (14 R458). -/
def releaseRecord (line : Nat) (s : State) : State :=
  let on (pa : Nat) : Bool := pa / 64 == line || pa / 64 + 1 == line
  let xs := s.closes.filter fun x => on x.op.pa
  let os := s.tmq.filter fun o => on o.pa
  let s := { s with closes := s.closes.filter (fun x => !on x.op.pa), tmq := s.tmq.filter fun o => !on o.pa }
  os.foldl (fun s o => applyTm o.t o s) (xs.foldl (fun s x => applyTm x.op.t x.op s) s)

/-- A line becomes poisoned: PSN, event 0x0004, and the release of what waits on it. -/
def poisonLine (line : Nat) (s : State) : State :=
  let d := dirOf s line
  if d.psn then s
  else
    let s := setDir line { d with psn := true, pst := if isPool (64 * line) then 0 else d.pst } s
    let s := record (128 + homeOf line) 4 (word (64 * line)) s
    releaseRecord line (releaseLine line s)

/-- LINE_POISONED: once no commit in progress has the line reserved. -/
def execLinePoisoned (line : Nat) (s : State) : Host.Outcome State Fault Refusal :=
  .next (if (dirOf s line).resv.isSome then again (.linePoisoned line) s else poisonLine line s)

/-- COMB_SRAM_ERROR (11 R256): every job stops. The spec does not state the event's INFO. -/
def execCombSramError (home : Nat) (s : State) : Host.Outcome State Fault Refusal :=
  .next (if 128 ≤ home then s
    else jobFault (record (128 + home) 3 (word (Config.freeChoice s.free)) { s with free := s.free + 1 }))

/-! ### Leases (R432) -/

/-- A lease bump. -/
def bumpLease (line : Nat) (s : State) : State :=
  let d := dirOf s line
  raiseHc (homeOf line) (d.rts + 1) (setDir line { d with rts := d.rts + 1, wts := d.rts + 1 } s)

/-- The answer to a snoop. -/
def birsp (line p : Nat) (s : State) : State := { s with birsp := (line, p) :: s.birsp }

/-! ### Completions (R431) -/

/-- MEMRD_COMPLETION: the pool answers a MemRd with the line, or with poison. -/
def execMemrdCompletion (line : Nat) (r : PoolReply) (s : State) : Host.Outcome State Fault Refusal :=
  let own := s.ptx.contains (.rd line true)
  if !own && !s.ptx.contains (.rd line false) then .next s
  else
    let s := { s with ptx := s.ptx.filter fun t => t != .rd line true && t != .rd line false }
    let d := dirOf s line
    match r with
    | .poisoned => .next (poisonLine line s)
    | .data excl bs =>
      if d.psn || (d.pst ≠ 0 && !d.gone) then .next s
      else .next (touchLine line false (setDir line { d with pst := if own then 2 else if excl && d.pst = 0 then 2 else 1, gone := false }
        (wrBytes (64 * line) (vecBytes bs) s)))

/-- MEMINV_COMPLETION: ownership of a shared line; the write that waits for it goes on. -/
def execMeminvCompletion (line : Nat) (s : State) : Host.Outcome State Fault Refusal :=
  if !s.ptx.contains (.inv line) then .next s
  else
    let s := { s with ptx := s.ptx.filter (· != .inv line) }
    .next (if (dirOf s line).pst = 1 then setPst line 2 s else s)

/-- The state in which a write-through of a line to its pool leaves it: clean and owned, unless it holds a committed write, or a snoop has
taken ownership, or the line, while the MemWr was in flight (R431). -/
def throughPst (p : Nat) : Nat := match p with | 0 => 0 | 1 => 1 | 3 => 3 | 4 => 4 | _ => 2

/-- The piece of a copy that is out. -/
def outPiece (o : Cop) : Option Piece := o.pieces.find? (·.out)

/-- The pool has accepted a MemWr of n bytes of a line: one of all 64 heals a poisoned line (R433). -/
def poolTakes (line n : Nat) (s : State) : State := if n = 64 then setDir line { dirOf s line with psn := false } s else s

/-- A piece of n bytes that would write part of a line that has become poisoned, while its MemWr was in flight (R433). -/
def partOfPoison (s : State) (line n : Nat) : Bool := poisoned s line && n != 64

/-- The end of a piece's write to its pool (13 R309 causes 1 and 5). -/
def copyWritten (op line : Nat) (refused : Bool) (s : State) : State :=
  match s.copies.find? fun o => o.id == op with
  | none => s
  | some o =>
    if refused then stopOpn o ⟨1, none, 0⟩ s
    else match outPiece o with
      | none => s
      | some p => if partOfPoison s line p.n then stopOpn o ⟨5, some cPoison, word (64 * line)⟩ s else match engXlate s .wr p.dst with
        | .error e => stopOpn o (stopOfMem e) s
        | .ok pa => setPst line (throughPst (dirOf s line).pst) (pieceGlobal o p pa p.bs (poolTakes line p.n s))

/-- What the pieces of an operation follow at the module that applies them: for one of the own module, its launch and its earlier pieces
(12 R285, 23 R429). -/
def remoteFrom (s : State) (src : BitVec 17) (op : Nat) : Nat :=
  if src = ownModule s then ((s.copies.find? fun o => o.id == op).map (·.t)).getD 0 else 0

/-- A remote operation's write of bytes, and the latest time of its pieces here (23 R429). -/
def remotePut (src : BitVec 17) (op pa : Nat) (bs : List Byte) (s : State) : State :=
  let t := afterLine s (pa / 64) (remoteFrom s src op)
  let s := stampLine (pa / 64) t (bs.length == 64) (wrBytes pa bs s)
  { s with rtimes := (src, op, t) :: s.rtimes }

/-- The end of a remote piece's write to a pool of this module. -/
def remoteWritten (m : GMsg) (line : Nat) (refused : Bool) (s : State) : State :=
  match m.body with
  | .write op piece va bs =>
    if refused then answerG m (.fail op piece 1 va) s
    else if partOfPoison s line bs.length then answerG m (.fail op piece 5 (word (64 * line))) s
    else match engXlate s .wr va.toNat with
      | .error e => answerG m (.fail op piece (stopOfMem e).cause (stopOfMem e).info) s
      | .ok pa =>
        answerG m (.done op piece) (setPst line (throughPst (dirOf s line).pst) (remotePut m.src op pa bs (poolTakes line bs.length s)))
  | _ => s

/-- What a MemWr's completion does, by what it was for. A refused write-back poisons the line (R430). -/
def wrCompleted (line : Nat) (why : WrWhy) (refused : Bool) (s : State) : State :=
  let d := dirOf s line
  match why with
  | .copy op => copyWritten op line refused s
  | .remote m => remoteWritten m line refused s
  | .spill => if refused then poisonLine line s else poolTakes line 64 s
  | .full => if refused then s else setDir line { d with psn := false, pst := 2, gone := false } s
  | .evict =>
    if refused then poisonLine line s
    else if d.rts ≤ hcOf s (homeOf line) then setPst line 0 s
    else setDir line { d with pst := 1, gone := true } (dropSlice line s)
  | .snoopInv =>
    if refused then birsp line 0 (bumpLease line (poisonLine line s)) else birsp line 0 (bumpLease line (setPst line 0 s))
  | .snoopData => if refused then birsp line 0 (poisonLine line s) else birsp line 1 (setPst line 1 s)
  | .snoopCur => if refused then birsp line 0 (poisonLine line s) else birsp line 2 (setPst line 2 s)

/-- MEMWR_COMPLETION: the pool has accepted the oldest MemWr of a line, or refused it. -/
def execMemwrCompletion (line : Nat) (refused : Bool) (s : State) : Host.Outcome State Fault Refusal :=
  match s.ptx.findSome? fun t => match t with | .wr l w => if l = line then some w else none | _ => none with
  | none => .next s
  | some why => .next (wrCompleted line why refused { s with ptx := s.ptx.erase (.wr line why) })

/-! ### Snoops (R431) -/

/-- A snoop that must wait is remembered, with the line's O state if it has met it. -/
def noteSnoop (kind line : Nat) (owned : Bool) (s : State) : State :=
  let mine (w : SnoopWait) : Bool := w.line == line && w.kind == kind
  if s.snoops.any mine then { s with snoops := s.snoops.map fun w => if mine w then { w with owned := w.owned || owned } else w }
  else { s with snoops := s.snoops ++ [⟨line, kind, s.now, owned⟩] }

/-- A snoop acts on a line that no commit has reserved. Kind 0 is BISnpInv, 1 BISnpData, 2 BISnpCur. One that met the line in O acts after
the write-back, with the bump of R431 if it invalidates. -/
def snoopActs (evt : Instr) (kind line : Nat) (s : State) : State :=
  let mine (w : SnoopWait) : Bool := w.line == line && w.kind == kind
  let owned := s.snoops.any fun w => mine w && w.owned
  let done (s : State) : State := { s with snoops := s.snoops.filter fun w => !mine w }
  match (dirOf s line).pst with
  | 0 => birsp line 0 (if owned && kind = 0 then bumpLease line (done s) else done s)
  | 3 => again evt (noteSnoop kind line true s)
  | 4 => askPool (.wr line (match kind with | 0 => .snoopInv | 1 => .snoopData | _ => .snoopCur)) (setPst line 3 (done s))
  | p => match kind with
    | 0 => birsp line 0 (bumpLease line (setPst line 0 (done s)))
    | 1 => birsp line 1 (setPst line 1 (done s))
    | _ => birsp line p (done s)

/-- 16 µs in clocks. -/
def pinWait : Nat := 24000

/-- A snoop waits for a pin, until 16 µs after its arrival: it is remembered, and its timeout stands in the agenda. -/
def pinSnoop (kind line : Nat) (s : State) : State :=
  let s := noteSnoop kind line false s
  let since := ((s.snoops.find? fun w => w.line == line && w.kind == kind).map (·.since)).getD s.now
  if s.agenda.any fun d => d.act == .snoopPinTimeout line then s else due (since + pinWait) (.snoopPinTimeout line) s

/-- A snoop at the home: it waits for a commit that has the line reserved, and for a pin at most 16 µs. -/
def snoop (evt : Instr) (kind line : Nat) (s : State) : State :=
  let d := dirOf s line
  if !isPool (64 * line) then s
  else if d.resv.isSome then again evt s
  else if d.pin.isSome then again evt (pinSnoop kind line s)
  else snoopActs evt kind line s

def execBisnpinv (line : Nat) (s : State) : Host.Outcome State Fault Refusal := .next (snoop (.bisnpinv line) 0 line s)
def execBisnpdata (line : Nat) (s : State) : Host.Outcome State Fault Refusal := .next (snoop (.bisnpdata line) 1 line s)
def execBisnpcur (line : Nat) (s : State) : Host.Outcome State Fault Refusal := .next (snoop (.bisnpcur line) 2 line s)

/-- A commit of which some home has applied its part: it fails no more (12 R270, R276). -/
def applying (c : Core) : Bool := c.commit.any fun m => m.t.isSome && m.todo.isEmpty && m.renewals.isEmpty && m.toApply != homesOf (writeSet c)

/-- SNOOP_PIN_TIMEOUT: a snoop has waited 16 µs on a pin: the pinned region re-executes in pinned mode, and the snoop, whose own event
comes at the next clock at the latest, acts. A commit that is being applied ends first, and with it the pin. -/
def execSnoopPinTimeout (line : Nat) (s : State) : Host.Outcome State Fault Refusal :=
  if !(s.snoops.any fun w => w.line == line && w.since + pinWait ≤ s.now) then .next s
  else if (dirOf s line).resv.isSome then .next (again (.snoopPinTimeout line) s)
  else match (dirOf s line).pin with
    | none => .next s
    | some c => .next (if applying (coreOf s c) then again (.snoopPinTimeout line) s else atCore c (failRegion [line]) s)

/-! ### Ports (R430, R433) -/

/-- A MemWr in flight on a port that leaves service. -/
def lostWrite (t : PoolTx) (s : State) : State :=
  match t with
  | .wr _ (.copy op) => match s.copies.find? fun o => o.id == op with
    | some o => stopOpn o ⟨2, none, 0⟩ s
    | none => s
  | .wr _ (.remote m) => match m.body with
    | .write op piece va _ => answerG m (.fail op piece 2 va) s
    | _ => s
  | .wr l .spill => poisonLine l s
  | .wr l .snoopInv => birsp l 0 s
  | .wr l .snoopData => birsp l 0 s
  | .wr l .snoopCur => birsp l 0 s
  | _ => s
def txLine : PoolTx → Nat
  | .rd l _ => l | .inv l => l | .wr l _ => l

/-- A line of a window whose port leaves service: I, a lease bump, and poison if it was dirty. -/
def loseLine (line : Nat) (s : State) : State :=
  let p := (dirOf s line).pst
  let s := setPst line 0 (bumpLease line s)
  if p = 3 || p = 4 then poisonLine line s else s

/-- Commits in progress that write lines of a window meet its loss: one past its validation is applied in full (12 R270), so that its lines
are dirty; any other has the poison fault at its checkpoint bundle (R433). -/
def commitsLose (on : Nat → Bool) (s : State) : State :=
  let one (s : State) (c : CoreId) : State :=
    match ((coreOf s c).commit, (writeSet (coreOf s c)).find? on) with
    | (some _, some l) => atCore c (fun s =>
        let s := finishApplies 128 s
        if s.core.commit.isSome then takeTrap finishSaves ⟨cPoison, word (64 * l), none⟩ s else s) s
    | _ => s
  ((allCores s).map (·.id)).foldl one s

/-- CXL_PORT_DOWN. -/
def execCxlPortDown (p : Nat) (s : State) : Host.Outcome State Fault Refusal :=
  match s.ports[p]? with
  | none => .next s
  | some x =>
    if !x.up then .next s
    else
      let on (l : Nat) : Bool := isPool (64 * l) && poolPort (64 * l) == p
      let s := commitsLose on s
      let s := record (256 + p / 2) 1 (word (0x10000 + p)) { s with ports := s.ports.setIfInBounds p { x with up := false } }
      let txs := s.ptx.filter fun t => on (txLine t)
      let s := { s with ptx := s.ptx.filter fun t => !on (txLine t) }
      let s := ((s.dir.map (·.1)).filter on).foldl (fun s l => loseLine l s) s
      .next (txs.foldl (fun s t => lostWrite t s) s)

/-- CXL_PORT_RETURN_TO_SERVICE: the window can be read and written again. -/
def execCxlPortReturnToService (p : Nat) (s : State) : Host.Outcome State Fault Refusal :=
  match s.ports[p]? with
  | none => .next s
  | some x => .next { s with ports := s.ports.setIfInBounds p { x with up := true } }

end Sys2Proof.Machine
end

