-- ==== Sys2Proof/Machine/Fabric.lean ====
section
/-! DEFINITION. The Glodric fabric at its receiver (23 R424-R429): remote pieces, checks and adds, their answers, the messages of
collectives, ports and links that leave service, and the domain table; die links (11 R261). -/

namespace Sys2Proof.Machine

/-! ### Requests of other modules (R426, R429) -/

/-- Whether this module serves a remote piece or add. -/
def serves (s : State) (src : BitVec 17) : Bool := isMember s src && s.host.lstate == 2

def failWith (m : GMsg) (op piece : Nat) (e : MemErr) (s : State) : State :=
  answerG m (.fail op piece (stopOfMem e).cause (stopOfMem e).info) s

/-- A remote piece that writes. -/
def remoteWrite (m : GMsg) (op piece : Nat) (va : Word) (bs : List Byte) (s : State) : State :=
  match engXlate s .wr va.toNat with
  | .error e => failWith m op piece e s
  | .ok pa =>
    let line := pa / 64
    if isPool pa && !(portOf s pa).up then answerG m (.fail op piece 2 va) s
    else whenReady line (bs.length == 64) (.glodricMessage m) (failWith m op piece (.poison (64 * line)))
      (fun s => if isPool pa then askPool (.wr line (.remote m)) s else answerG m (.done op piece) (remotePut m.src op pa bs s)) s

/-- A remote piece that reads. -/
def remoteRead (m : GMsg) (op piece : Nat) (va : Word) (n : Nat) (s : State) : State :=
  match engXlate s .rd va.toNat with
  | .error e => failWith m op piece e s
  | .ok pa =>
    if isPool pa && !(portOf s pa).up then answerG m (.fail op piece 2 va) s
    else match engServes s (pa / 64) with
      | .error (.fetch tx) => again (.glodricMessage m) (askPool tx s)
      | .error .wait => again (.glodricMessage m) s
      | .error e => failWith m op piece e s
      | .ok _ =>
        let (t, s) := engRead (pa / 64) (remoteFrom s m.src op) s
        answerG m (.data op piece (rdBytes s pa n)) { s with rtimes := (m.src, op, t) :: s.rtimes }

/-- The latest time of a remote operation's pieces here. -/
def remoteTime (s : State) (src : BitVec 17) (op : Nat) : Nat :=
  (s.rtimes.filter fun e => e.1 == src && e.2.1 == op).foldl (fun t e => Nat.max t e.2.2) 0

/-- The physical address that the launch's check found for a remote counter. -/
def remoteCtr (s : State) (src : BitVec 17) (op : Nat) : Option Nat :=
  (s.rctrs.find? fun e => e.1 == src && e.2.1 == op).map (·.2.2)

/-- A remote completion add: it follows every piece of its operation, and is made at the address found at the launch (13 R303). -/
def remoteAdd (m : GMsg) (op : Nat) (va n : Word) (fl : BitVec 32) (s : State) : State :=
  match remoteCtr s m.src op with
  | none => failWith m op 0 (.access va.toNat) s
  | some pa =>
    whenReady (pa / 64) false (.glodricMessage m) (failWith m op 0 (.poison pa))
      (fun s =>
        let t := afterLine s (pa / 64) (remoteTime s m.src op)
        let no := addRefused s pa n.toNat
        let s := { s with
          rtimes := s.rtimes.filter (fun e => !(e.1 == m.src && e.2.1 == op)), rctrs := s.rctrs.filter fun e => !(e.1 == m.src && e.2.1 == op) }
        answerG m (.added op no) (addCounter pa va n.toNat fl.toNat .nobody t s)) s

/-! ### Answers to this module's requests -/

def findCop (s : State) (op : Nat) : Option Cop := s.copies.find? fun o => o.id == op

/-- The piece of an operation that waits for an answer. -/
def pieceOut (o : Cop) (k : Nat) : Option Piece := (o.pieces[k]?).filter fun p => p.out && p.bs.isEmpty

/-- A pulled piece's bytes: its write on this side follows. -/
def gotData (op k : Nat) (bs : List Byte) (s : State) : State :=
  match findCop s op with
  | none => s
  | some o => match pieceOut o k with
    | none => s
    | some p =>
      let (o, s) := if o.l.module = ownModule s then copyTime o (remoteTime s o.l.module op) s else (o, s)
      let s := markOut o k bs s
      match findCop s op with
      | none => s
      | some o => pieceWrite o { p with out := true, bs := bs } k bs s

/-- A pushed piece is applied at the remote module. -/
def gotDone (op k : Nat) (s : State) : State :=
  match findCop s op with
  | none => s
  | some o => match pieceOut o k with
    | some p => pieceDone o p (if o.l.module = ownModule s then Nat.max o.t (remoteTime s o.l.module op) else o.t) s
    | none => s

/-- The end of an operation whose remote add has been answered. -/
def remoteAdded (o : Cop) (s : State) : State := endOp o (setStat o.id (fun e => { e with st := 1, op := none }) s)

/-- Why a remote piece failed, as a stop of this side. -/
def stopOfFail (cause : Nat) (info : Word) : StopWhy :=
  ⟨cause, if cause = 3 then some cTrans else if cause = 4 then some cAccess else if cause = 5 then some cPoison else none, info⟩

/-- A refused or failed piece, check or add. An add to a poisoned counter is dropped and reported (13 R457). -/
def gotFail (op cause : Nat) (info : Word) (s : State) : State :=
  match findCop s op with
  | none => match s.cfOrs.find? fun e => e.1 == op with
    | some e =>
      let s := { s with cfOrs := s.cfOrs.erase e }
      if cause = 5 then reportA e.2 cPoison info s else s
    | none => s
  | some o => if o.radd && cause = 5 then remoteAdded o (reportA o.tser cPoison info s) else stopOpn o (stopOfFail cause info) s

/-- The remote counter has passed its check: the pieces begin. -/
def gotChecked (op : Nat) (s : State) : State :=
  match findCop s op with
  | none => s
  | some o =>
    if o.checked then s
    else
      let o := { o with checked := true }
      nextPiece o { s with copies := s.copies.map fun x => if x.id = op then o else x }

/-- The remote add was applied, or refused by its ceiling. -/
def gotAdded (op : Nat) (refused : Bool) (s : State) : State :=
  match findCop s op with
  | none => { s with cfOrs := s.cfOrs.filter fun e => e.1 != op }
  | some o => if !o.radd then s else remoteAdded o (if refused then reportA o.tser cCeil o.l.ctr s else s)

/-! ### Messages of collectives (24 R439, R443, R446) -/

/-- A rank's value of an order-free reduction. -/
def gotVal (kind tag launch inst rank : Nat) (v : Word) (s : State) : State :=
  match (collOf s tag).filter fun c => c.launch == launch && c.started with
  | some c => setColl { c with vals := c.vals ++ [(kind, inst, rank, v)] } s
  | none =>
    if (collOf s tag).any (fun c => c.launch == launch) || awaited tag launch s then
      { s with wvals := s.wvals ++ [(kind, tag, launch, inst, rank, v)] }
    else s

/-- A chunk that this rank sent has landed at its peer. -/
def gotSent (tag launch rank inst : Nat) (s : State) : State :=
  match (collOf s tag).filter fun c => c.launch == launch with
  | some c => setColl { c with landed := c.landed ++ [(rank, inst)] } s
  | none => s

/-! ### Receipt (R428) -/

/-- What a message does at its receiver; each branch acknowledges it when it is applied. -/
def applyMsg (m : GMsg) (s : State) : State :=
  let refuse (op piece : Nat) (va : Word) : State := answerG m (.fail op piece 4 va) s
  match m.body with
  | .ack n => { s with gout := s.gout.filter fun o => !(o.dst == m.src && o.seq == n) }
  | .write op k va bs => if serves s m.src then remoteWrite m op k va bs s else refuse op k va
  | .read op k va n => if serves s m.src then remoteRead m op k va n s else refuse op k va
  | .check op va =>
    if !serves s m.src then refuse op 0 va
    else match engCounter s va.toNat with
      | .error e => answerG m (.fail op 0 (stopOfCtr va.toNat e).cause (stopOfCtr va.toNat e).info) s
      | .ok pa => answerG m (.checked op) { s with rctrs := (m.src, op, pa) :: s.rctrs }
  | .add op va n fl => if serves s m.src then remoteAdd m op va n fl s else refuse op 0 va
  | .data op k bs => gotData op k bs (ackMsg m s)
  | .done op k => gotDone op k (ackMsg m s)
  | .fail op _ c info => gotFail op c info (ackMsg m s)
  | .checked op => gotChecked op (ackMsg m s)
  | .added op no => gotAdded op no (ackMsg m s)
  | .wsig tag launch rank sig => due s.now (.signatureAgreement tag) { ackMsg m s with wsigs := s.wsigs ++ [(tag, launch, rank, sig)] }
  | .wval kind tag launch inst rank v => gotVal kind tag launch inst rank v (ackMsg m s)
  | .sent tag launch rank inst => gotSent tag launch rank inst (ackMsg m s)
  | .chunk c => if takesChunk c s then due s.now (.chunkArrival c) (ackMsg m s) else again (.glodricMessage m) s
  | .abort tag launch poison => due s.now (.waggleAbort tag launch poison) (ackMsg m s)
  | .rerun tag launch inst chunk =>
    let s := ackMsg m s
    if (collOf s tag).any (fun c => c.launch == launch) then due s.now (.switchSlotLoss tag inst chunk) s else s

/-- GLODRIC_MESSAGE: a message is applied once; a duplicate is discarded, and acknowledged again. -/
def execGlodricMessage (m : GMsg) (s : State) : Host.Outcome State Fault Refusal :=
  .next (if s.gseen.contains (m.src, m.seq) then { s with gacks := (m.src, m.seq) :: s.gacks } else applyMsg m s)

/-! ### Ports, destinations and the domain table (R425, R427, R428) -/

/-- An operation waits for an answer of a module. -/
def waitsFor (m : BitVec 17) (o : Cop) : Bool :=
  o.l.kind == .cpyr && o.l.module == m && (o.radd || (o.pieces.any fun p => p.out && p.bs.isEmpty) || (o.l.rc && o.l.ctr != 0 && !o.checked))

/-- The remaining ports take over the unacknowledged messages of a withdrawn one; a destination left without a port, whose set it was in
and of which something is still awaited, has 1 ms. -/
def resend (p : Nat) (s : State) : State :=
  let moved (o : GOut) : GOut := if o.port = p then { o with port := (portsTo s o.dst).headD o.port } else o
  let used := (s.dom.routes.filter fun e => e.2.contains p && e.1 != ownModule s && (portsTo s e.1).isEmpty).map (·.1)
  let lost := used.filter fun m => s.gout.any (fun o => o.dst == m) || s.copies.any (waitsFor m) || s.colls.any fun c => c.group.contains m
  lost.foldl (fun s d => due (s.now + oneMs) (.destinationTimeout d) s) { s with gout := s.gout.map moved }

/-- GLODRIC_PORT_WITHDRAWN. -/
def execGlodricPortWithdrawn (p : Nat) (s : State) : Host.Outcome State Fault Refusal :=
  .next (if 48 ≤ p || s.gdown.contains p then s
    else resend p (record (256 + p / 12) 1 (word (0x20000 + p)) { s with gdown := s.gdown ++ [p] }))

/-- DESTINATION_TIMEOUT: no port to a module has been in service for 1 ms. Its copies stop with cause 2, its collectives abort (24 R446). -/
def execDestinationTimeout (m : BitVec 17) (s : State) : Host.Outcome State Fault Refusal :=
  if m = ownModule s || !(portsTo s m).isEmpty then .next s
  else
    let s := (s.copies.filter (waitsFor m)).foldl (fun s o => stopOpn o ⟨2, none, 0⟩ s) s
    .next (abortColls (fun c => c.group.contains m) s)

/-- A route's set has one to four of the module's 48 ports (R427). -/
def routesOk (t : DomainTable) : Bool := t.routes.all fun e => 1 ≤ e.2.length && e.2.length ≤ 4 && e.2.all (· < 48)

/-- DOMAIN_TABLE_WRITE: the Abavas controller writes the domain and route tables, never while a job runs; the entry of SELF is the
module's identifier. -/
def execDomainTableWrite (t : DomainTable) (s : State) : Host.Outcome State Fault Refusal :=
  .next (if jobLive s || t.members.isEmpty || 1024 < t.members.length || !routesOk t then s
    else { s with dom := t, host := { s.host with modid := ((t.members[t.self]?).map (·.1)).getD s.host.modid } })

/-! ### Die links (11 R260, R261, 15 R345) -/

/-- The dies of a message's path, both ends included: along X to the destination column, then along Y (R260). The messages of one pair
take one path and arrive in the order sent: a message between dies is delivered in the step that sends it, or by due work. -/
def pathXY (x1 y1 x2 y2 : Nat) : List (Nat × Nat) :=
  let along (a b k : Nat) : Nat := if a ≤ b then a + k else a - k
  ((List.range (Nat.max x1 x2 - Nat.min x1 x2 + 1)).map fun k => (along x1 x2 k, y1)) ++
    (List.range (Nat.max y1 y2 - Nat.min y1 y2)).map fun k => (x2, along y1 y2 (k + 1))
/-- The corner die that an I/O die attaches to. -/
def ioDie (k : Nat) : Nat × Nat := match k with | 0 => (0, 0) | 1 => (15, 0) | 2 => (0, 15) | _ => (15, 15)

/-- A withdrawn link of row y between columns a and b, or of column x between rows a and b. -/
def rowBroken (down : List Nat) (y a b : Nat) : Bool :=
  down.any fun l => l < 240 && l / 15 == y && Nat.min a b ≤ l % 15 && l % 15 < Nat.max a b
def colBroken (down : List Nat) (x a b : Nat) : Bool :=
  down.any fun l => 240 ≤ l && (l - 240) / 15 == x && Nat.min a b ≤ (l - 240) % 15 && (l - 240) % 15 < Nat.max a b

/-- The X-first and the Y-first path of a pair of dies are both broken. In one row or column the two are one line, so the pair of a withdrawn
link's own ends has lost both (log entry 98). -/
def pairBroken (down : List Nat) (x1 y1 x2 y2 : Nat) : Bool :=
  (rowBroken down y1 x1 x2 || colBroken down x2 y1 y2) && (colBroken down x1 y1 y2 || rowBroken down y2 x1 x2)
def anyPairBroken (down : List Nat) : Bool :=
  (List.range 256).any fun a => (List.range 256).any fun b => pairBroken down (a % 16) (a / 16) (b % 16) (b / 16)

/-- The number, as a recorder's, of the die at a site. -/
def dieAt (x y : Nat) : Nat := (if (x + y) % 2 = 0 then 0 else 128) + y * 8 + x / 2

/-- LINK_WITHDRAWN: the link map's bit, and the stop of every job once both paths of a pair are broken. -/
def execLinkWithdrawn (bit : Nat) (s : State) : Host.Outcome State Fault Refusal :=
  if 480 ≤ bit || s.ctl.linksDown.contains bit then .next s
  else
    let (x, y) := if bit < 240 then (bit % 15, bit / 15) else ((bit - 240) / 15, (bit - 240) % 15)
    let s := record (dieAt x y) 1 (word bit) { s with ctl := { s.ctl with linksDown := s.ctl.linksDown ++ [bit] } }
    .next (if anyPairBroken s.ctl.linksDown then jobFault (record (dieAt x y) 2 (word bit) s) else s)

end Sys2Proof.Machine
end

