-- ==== Sys2Proof/Machine/Handles.lean ====
section
/-! DEFINITION. Handles and stream-port configuration (03 R96-R105). -/

namespace Sys2Proof.Machine

/-- The lowest bit and the width of a handle field (03 R99). -/
def hField (fld : Nat) : Nat × Nat :=
  match fld with
  | 0 => (0, 64) | 1 => (64, 16) | 2 => (80, 16) | 3 => (96, 32) | 4 => (128, 32) | 5 => (160, 4) | 6 => (164, 1) | 7 => (165, 1)
  | 8 => (166, 2) | 9 => (168, 16) | 10 => (153, 7) | _ => (128, 25)

/-- Make a handle the destination of a load (03 R100); its value arrives after a free time. -/
def produceH (h : BitVec 4) (v : BitVec 256) (s : State) : State :=
  let (i, s) := freshId s
  let s := mapCtx (fun c => { c with ends := c.ends ++ [.produce ⟨i, .handle h, some v, s.now, false, false, true⟩] }) s
  let (d, s) := freeDelay s
  due (s.now + d) (.variableLatencyResult s.core.id i) s

/-- `hld` (03 R97, R98). -/
def hldOp (f : SH) (s : State) : Res State :=
  gather (do
    let a ← readS f.reg s
    let va := a + sx f.disp
    let _ ← readH f.x s
    needAligned va.toNat 32 s
    let (v, t) ← liftMem s (globalRead1 va.toNat 32 s)
    needLegal s (handleValid (BitVec.ofNat 256 v))
    .ok (produceH f.x (BitVec.ofNat 256 v) t)) [stopOf (readH f.x s), heldMeets ((readS f.reg s).map (· + sx f.disp)) 32 s]
def execHld (f : SH) (s : State) : Host.Outcome State Fault Refusal := issue s (hldOp f s)

/-- `hst` (03 R98): one held piece of 32 bytes. -/
def hstOp (f : SH) (s : State) : Res State :=
  gather (do
    let a ← readS f.reg s
    let va := a + sx f.disp
    let h ← readH f.y s
    needAligned va.toNat 32 s
    let (pa, s) ← xlateW .wr va.toNat s
    holdAll [storePiece pa va.toNat (natBytes 32 h.toNat) none] s) [stopOf (readH f.y s)]
def execHst (f : SH) (s : State) : Host.Outcome State Fault Refusal := issue s (hstOp f s)

/-- `hset` (03 R97, R99). The value that is checked is the one that it leaves in the handle: the writes that are pending land before it, as
all of the class do in the order of their issue (01 R31). -/
def hsetOp (f : SH) (s : State) : Res State :=
  gather (do
    let a ← readS f.reg s
    let _ ← readH f.x s
    let (lo, w) := hField f.fld.toNat
    needLegal s (a.toNat < 2 ^ w && handleValid (setField (handleToCome f.x s) lo w a.toNat))
    .ok (writeHField f.x lo w a.toNat s)) [stopOf (readH f.x s)]
def execHset (f : SH) (s : State) : Host.Outcome State Fault Refusal := issue s (hsetOp f s)

def hgetOp (f : SH) (s : State) : Res State := do
  let h ← readH f.y s
  let (lo, w) := hField f.fld.toNat
  .ok (writeS f.reg 0 (word (dfield h (lo + w - 1) lo)) 0 s)
def execHget (f : SH) (s : State) : Host.Outcome State Fault Refusal := issue s (hgetOp f s)

def hmovOp (f : SH) (s : State) : Res State := do
  let h ← readH f.y s
  let _ ← readH f.x s
  .ok (writeHField f.x 0 256 h.toNat s)
def execHmov (f : SH) (s : State) : Host.Outcome State Fault Refusal := issue s (hmovOp f s)

/-! ### Ports -/

/-- `pcfg` (03 R103, R105): the descriptor of 32 scratchpad bytes, from the next bundle on. -/
def pcfgOp (f : SH) (s : State) : Res State := do
  let a ← readS f.reg s
  let o := (a + sx f.disp) &&& ~~~31
  let (bs, s) ← spadRead ((offsFrom o.toNat 32).map fun (n : Nat) => (n : Int)) 0 o s
  .ok (mapCtx (fun c => { c with ends := c.ends ++ [.pcfg (portIx f.x) (BitVec.ofNat 256 (leNat bs))] }) s)
def execPcfg (f : SH) (s : State) : Host.Outcome State Fault Refusal := issue s (pcfgOp f s)

/-- The value ranges of `pset` (03 R104). -/
def psetOk (fld : Nat) (v : Word) : Bool :=
  let n := v.toNat
  match fld with
  | 0 => n < 2 ^ 18
  | 1 | 2 | 3 => 1 ≤ n && n ≤ 65535
  | 4 | 5 | 6 => v == (v.setWidth 32).signExtend 64
  | 7 => n ≤ 2
  | 8 | 9 => n ≤ 1
  | 10 => n ≤ 2
  | 11 | 12 => 1 ≤ n && n ≤ 16
  | _ => n ≤ 65535

def psetOp (f : SH) (s : State) : Res State := do
  let a ← readS f.reg s
  needLegal s (psetOk f.fld.toNat a)
  .ok (mapCtx (fun c => { c with ends := c.ends ++ [.pset (portIx f.x) f.fld.toNat a] }) s)
def execPset (f : SH) (s : State) : Host.Outcome State Fault Refusal := issue s (psetOp f s)

/-- The value `pget` reads (03 R104). -/
def pgetVal (d : BitVec 256) (fld : Nat) : Word :=
  match fld with
  | 0 => word (dfield d 17 0) | 1 => word (dfield d 47 32) | 2 => word (dfield d 63 48) | 3 => word (dfield d 79 64)
  | 4 => BitVec.ofInt 64 (dsfield d 80) | 5 => BitVec.ofInt 64 (dsfield d 112) | 6 => BitVec.ofInt 64 (dsfield d 144)
  | 7 => word (dfield d 177 176) | 8 => word (dfield d 178 178) | 9 => word (dfield d 179 179) | 10 => word (dfield d 181 180)
  | 11 => word (dfield d 187 184 + 1) | 12 => word (dfield d 191 188 + 1) | 13 => word (dfield d 207 192)
  | 14 => word (dfield d 223 208) | _ => word (dfield d 239 224)

def pgetOp (f : SH) (s : State) : State := writeS f.reg 0 (pgetVal (portDesc s (portIx f.x)) f.fld.toNat) 0 s
def execPget (f : SH) (s : State) : Host.Outcome State Fault Refusal := issue s (.ok (pgetOp f s))

end Sys2Proof.Machine
end

