-- ==== Sys2Proof/Machine/Inbound.lean ====
section
/-! DEFINITION. The ordering point (12 R286, 15 R340-R343): inbound writes, counter adds and BAR2 reads; invalidations and page locks
(11 R267-R269); counter watches (15 R342). -/

namespace Sys2Proof.Machine

/-! ### The ordering point -/

/-- The physical address of a BAR2 offset. -/
def bar2Pa (s : State) (off : BitVec 36) : Nat := s.host.apbase.toNat * 2 ^ 36 + off.toNat

/-- Whether n bytes from a physical address meet the job's TMR area (14 R313). -/
def meetsTmrArea (s : State) (pa n : Nat) : Bool :=
  let base := s.sched.tmrbase
  let last := base + 128 * s.sched.tmrcnt
  (unitsOf base (last - base)).any fun u =>
    let lo := Nat.max base u
    let hi := Nat.min last (u + 65536)
    match walk s lo with
    | .ok t => let p := t.pa + lo % 2 ^ t.bits; decide (pa < p + (hi - lo) ∧ p < pa + n)
    | .error _ => false

/-- The lines of n bytes. -/
def linesOf (pa n : Nat) : List Nat := if n = 0 then [] else (List.range ((pa + n - 1) / 64 - pa / 64 + 1)).map (pa / 64 + ·)

/-- The event of an inbound write that is dropped (R340). -/
def dropCode (s : State) (pa n : Nat) : Option Nat :=
  if !paMapped pa then some 9
  else if meetsTmrArea s pa n then some 6
  else if jobLive s && (linesOf pa n).any fun l => (dirOf s l).ctr then some 9
  else none

/-- Whether n bytes write a line in full. -/
def fullLine (pa n line : Nat) : Bool := pa ≤ 64 * line && 64 * line + 64 ≤ pa + n

/-- Apply an inbound write. Bytes that lie on a poisoned line it does not write in full change nothing. -/
def putInbound (pa : Nat) (data : List Byte) (s : State) : State :=
  let n := data.length
  let ls := (linesOf pa n).filter fun l => lineReady s l (fullLine pa n l) none != .poison
  let t := ls.foldl (fun m l => Nat.max m (afterLine s l s.host.inT)) (s.host.inT + 1)
  let s := ((List.range n).zip data).foldl (fun s (i, b) => if ls.contains ((pa + i) / 64) then wrByte (pa + i) b s else s) s
  let s := ls.foldl (fun s l => stampLine l t (fullLine pa n l) s) s
  { s with host := { s.host with inT := t } }

/-- The progress of an entry of the ordering point: done with a new state, or waiting. -/
inductive Pass where
  | done (s : State)
  | wait (s : State)

/-- An inbound write, as one single-access region later than the write before it. -/
def passWrite (pa : Nat) (data : List Byte) (s : State) : Pass :=
  match dropCode s pa data.length with
  | some c => .done (record 256 c (word pa) s)
  | none =>
    let sts := (linesOf pa data.length).map fun l => lineReady s l (fullLine pa data.length l) none
    if sts.any fun r => match r with | .wait => true | .fetch _ => true | _ => false then
      .wait (sts.foldl (fun s r => match r with | .fetch tx => askPool tx s | _ => s) s)
    else .done (putInbound pa data s)

/-- A host counter add (R341). -/
def passAdd (pa n fl : Nat) (s : State) : Pass :=
  if pa % 16 ≠ 0 || !paMapped pa then .done (record 256 8 (word pa) s)
  else match lineReady s (pa / 64) false none with
    | .poison => .done (reportSrc .host cPoison (word pa) (word pa) s)
    | .wait => .wait s
    | .fetch tx => .wait (askPool tx s)
    | .ok =>
      let t := afterLine s (pa / 64) s.host.inT
      let s := addCounter pa (word pa) n fl .host t s
      .done { s with host := { s.host with inT := t } }

/-- A BAR2 read: committed bytes; a poisoned line's bytes are free; an unmapped range is an Unsupported Request. -/
def passRead (pa n : Nat) (s : State) : Pass :=
  if !paMapped pa || !paMapped (pa + n - 1) then .done { s with host := { s.host with read := none } }
  else
    let ls := linesOf pa n
    match ls.findSome? fun l => match engServes s l with | .error e => e.again? | .ok _ => none with
    | some tx => .wait (askOpt tx s)
    | none =>
      let bad := ls.filter fun l => match homeServes s l with | .ok _ => false | .error _ => true
      let bs := (List.range n).map fun i => if bad.contains ((pa + i) / 64) then Config.freeByte s.free i else rdByte s (pa + i)
      .done (touchAll ls { s with host := { s.host with read := some bs }, free := s.free + 1 })

/-- An entry that changes memory, and its link. -/
def Inb.linkOf : Inb → Option Nat
  | .write l _ _ => some l
  | .add _ _ _ => some 0
  | .read _ _ _ => none

/-- Reads with no earlier write of their link are made; the others keep their places. -/
def passReads : List Nat → List Inb → State → List Inb × State
  | _, [], s => ([], s)
  | ws, e :: t, s =>
    match e with
    | .read l pa n =>
      if ws.contains l then let (r, s) := passReads ws t s; (e :: r, s)
      else match passRead pa n s with
        | .done s => passReads ws t s
        | .wait s => let (r, s) := passReads ws t s; (e :: r, s)
    | _ => let (r, s) := passReads (ws ++ e.linkOf.toList) t s; (e :: r, s)

/-- Writes and adds in their order of arrival, until one must wait. -/
def passWrites : List Inb → State → List Inb × State
  | [], s => ([], s)
  | e :: t, s =>
    let go (p : Pass) : List Inb × State := match p with
      | .done s => passWrites t s
      | .wait s => (e :: t, s)
    match e with
    | .write _ pa data => go (passWrite pa data s)
    | .add pa n fl => go (passAdd pa n fl s)
    | .read _ _ _ => let (r, s) := passWrites t s; (e :: r, s)

/-- The ordering point goes on; what waits is tried at the next clock. -/
def pump (s : State) : State :=
  let (q, s) := passWrites s.host.inq s
  let (q, s) := passReads [] q s
  let s := { s with host := { s.host with inq := q } }
  if q.isEmpty || s.agenda.any (fun d => d.act == .inboundWrite 0 0 []) then s else again (.inboundWrite 0 0 []) s

/-- An entry arrives at the ordering point. During a warm reset writes are dropped (R347). -/
def enterInb (e : Inb) (s : State) : State :=
  if e.linkOf.isSome && s.now < s.host.busyTil then s
  else pump { s with host := { s.host with inq := s.host.inq ++ [e] } }

/-- A write TLP: 1 to 512 bytes in one granule, on one of four links (R337). -/
def tlpOk (link pa n : Nat) : Bool := link < 4 && 1 ≤ n && n ≤ 512 && pa / 4096 == (pa + n - 1) / 4096

/-- INBOUND_WRITE: a TLP arrives; one of no byte stands for the ordering point's own next try. -/
def execInboundWrite (link : Nat) (off : BitVec 36) (data : List Byte) (s : State) : Host.Outcome State Fault Refusal :=
  .next (if data.isEmpty then pump s
    else if tlpOk link (bar2Pa s off) data.length then enterInb (.write link (bar2Pa s off) data) s else s)

/-- BAR2_READ. -/
def execBar2Read (link : Nat) (off : BitVec 36) (n : Nat) (s : State) : Host.Outcome State Fault Refusal :=
  .next (if link < 4 && 1 ≤ n then enterInb (.read link (bar2Pa s off) n) s else s)

/-- HOST_COUNTER_ADD: a write to CAMT/CFLG takes its place among the link's inbound writes. -/
def hostAdd (n fl : Nat) (s : State) : State := enterInb (.add s.host.caddr.toNat n fl) s
def execHostCounterAdd (amt fl : BitVec 32) (s : State) : Host.Outcome State Fault Refusal := .next (hostAdd amt.toNat fl.toNat s)

/-! ### Invalidations (11 R267) -/

/-- Bits of a page of a SIZE field. -/
def sizeBits (n : Nat) : Nat := match n with | 0 => 16 | 1 => 21 | _ => 30

/-- Whether a page overlaps an invalidated range. -/
def Inval.hits (v : Inval) (va bits : Nat) : Bool := v.all || (va < v.va + 2 ^ v.bits && v.va < va + 2 ^ bits)

/-- Drop the entries of a core that overlap the range; a region that has translated through one fails its validation. -/
def dropTlb (v : Inval) (c : Core) : Core :=
  { c with tlb := c.tlb.filter (fun t => !v.hits t.va t.bits), stale := c.stale || c.xlat.any fun x => v.hits x.1 x.2 }

/-- An invalidation descriptor. -/
def invalidate (d : Nat) (s : State) : State :=
  if bits d 63 59 ≠ 0 || bits d 255 128 ≠ 0 then record 256 7 (word d) s
  else
    let size := bits d 58 57
    let b := sizeBits size
    let v : Inval := ⟨bits d 56 0 / 2 ^ b * 2 ^ b, b, size == 3, bits d 127 64⟩
    due s.now (.invalidationDone v.ctr)
      { s with
        core := dropTlb v s.core, others := s.others.map (dropTlb v), dieTlb := s.dieTlb.filter (fun e => !v.hits e.2.va e.2.bits),
        invals := s.invals ++ [v] }
def execInvalidation (d : BitVec 256) (s : State) : Host.Outcome State Fault Refusal := .next (invalidate d.toNat s)

/-- The add of 1 to the counter that a descriptor names, if it names one. A misaligned or unmapped address names none: no add, and no event
(DESIGN CHOICE, log entry 147). -/
def addCnt (ctr : Nat) (s : State) : State :=
  if ctr = 0 || ctr % 16 ≠ 0 || !paMapped ctr then s else due s.now (.applyAdd ctr (word ctr) 1 0 .nobody 0) s

/-- INVALIDATION_DONE: no region that translated through a dropped entry remains. -/
def execInvalidationDone (ctr : Nat) (s : State) : Host.Outcome State Fault Refusal :=
  match s.invals.find? fun v => v.ctr == ctr with
  | none => .next s
  | some v =>
    .next (if (allCores s).any (·.stale) then again (.invalidationDone ctr) s else addCnt ctr { s with invals := s.invals.erase v })

/-! ### Page locks (11 R268, R269) -/

/-- The granules of a page, highest first. -/
def pageGranules (pa bits : Nat) : List Nat := (List.range (2 ^ (bits - 12))).reverse.map (pa / 4096 + ·)

/-- A lock descriptor, of either operation. -/
def lockPage (d : Nat) (s : State) : State :=
  if bits d 63 60 ≠ 0 || bits d 58 57 = 3 then record 256 7 (word d) s
  else
    let b := sizeBits (bits d 58 57)
    let pa := bits d 56 0 / 2 ^ b * 2 ^ b
    let unlock := bit d 59
    due s.now (.lockDone (bits d 127 64))
      { s with
        locks := (pageGranules pa b).foldl (fun m g => SMap.set false m g (!unlock)) s.locks,
        lockreqs := s.lockreqs ++ [⟨pa, b, unlock, bits d 127 64⟩] }

/-- PAGE_LOCK. -/
def execPageLock (d : BitVec 128) (s : State) : Host.Outcome State Fault Refusal := .next (if d.getLsbD 59 then s else lockPage d.toNat s)
/-- PAGE_UNLOCK. -/
def execPageUnlock (d : BitVec 128) (s : State) : Host.Outcome State Fault Refusal := .next (if d.getLsbD 59 then lockPage d.toNat s else s)

/-- Commits in progress that have lines of a page reserved, and writes of engine pieces that are out at its pool. -/
def pageReserved (s : State) (r : LockReq) : Bool :=
  let on (l : Nat) : Bool := r.pa ≤ 64 * l && 64 * l < r.pa + 2 ^ r.bits
  s.dir.any (fun (l, d) => d.resv.isSome && on l) || s.ptx.any fun t => match t with
    | .wr l (.copy _) => on l
    | .wr l (.remote _) => on l
    | .wr l .full => on l
    | .wr l .spill => on l
    | _ => false

/-- LOCK_DONE: every home has set or cleared LOCK and, for a lock, every commit in progress on the page has completed. -/
def execLockDone (ctr : Nat) (s : State) : Host.Outcome State Fault Refusal :=
  let rs := s.lockreqs.filter fun r => r.ctr == ctr
  match rs.find? fun r => r.unlock || !pageReserved s r with
  | some r => .next (addCnt ctr { s with lockreqs := s.lockreqs.erase r })
  | none => .next (if rs.isEmpty then s else again (.lockDone ctr) s)

/-! ### Counter watches (15 R342) -/

def watchOf (s : State) (i : Nat) : Watch := s.host.watches[i]?.getD ⟨0, false, 0⟩
def setWatch (i : Nat) (w : Watch) (s : State) : State :=
  { s with host := { s.host with watches := s.host.watches.setIfInBounds i w } }

/-- Set a watch: an enabled one registers a waiter in the last place; one that is met, or whose counter is poisoned, signals at once. -/
def armWatch (i : Nat) (w : Watch) (s : State) : State :=
  let s := setWatch i w { s with waiters := s.waiters.filter fun x => x.who != .watch i }
  let pa := w.addr.toNat
  if !w.en || pa % 16 ≠ 0 || !paMapped pa then s
  else if poisoned s (pa / 64) then clearWatch i s
  else
    let (met, s) := registerWaiter ⟨pa, w.thr.toNat, true, .watch i⟩ s
    if met then clearWatch i s else s

/-- COUNTER_WATCH: a write of WADDR and WEN of watch i. -/
def watchWrite (i : Nat) (w : Word) (s : State) : State :=
  armWatch i { watchOf s i with addr := w.setWidth 57, en := w.getLsbD 63 } s
def execCounterWatch (i : Nat) (w : Word) (s : State) : Host.Outcome State Fault Refusal := .next (if i < 16 then watchWrite i w s else s)

end Sys2Proof.Machine
end

