-- ==== Sys2Proof/Machine/Landings.lean ====
section
/-! DEFINITION. The events of a core: the landing of a result, of a scratchpad write, of a variable-latency result and of a tile image
(01 R30-R33, 04 R121, 09 R224), the engines' next operation (07 R179, 08 R199), and the debugger (01 R21, R41). -/

namespace Sys2Proof.Machine

/-- Whether a pending result writes the scratchpad. -/
def Pend.isSpad (p : Pend) : Bool := match p.act with | .spad .. => true | _ => false

/-- The first pending result of a kind that may land now lands, or completes its first latency stage (06 R149). -/
def landKind (spad : Bool) (s : State) : State :=
  let t := { s with core := { s.core with st := { s.core.st with pend := s.core.st.pend.filter fun p => p.isSpad == spad } } }
  match nextLand false t with
  | none => s
  | some p => match p.next with
    | some (b, l) => stageTwo p b l s
    | none => landOne p s

/-- RESULT_LANDS (01 R30, R31). -/
def execResultLands (c : CoreId) (s : State) : Host.Outcome State Fault Refusal := .next (atCore c (landKind false) s)

/-- SCRATCHPAD_WRITE_LANDS (04 R121). -/
def execScratchpadWriteLands (c : CoreId) (s : State) : Host.Outcome State Fault Refusal := .next (atCore c (landKind true) s)

/-- The landing of a variable-latency result that has arrived: it sets its register full, or its handle; a result whose register a
later write has taken is discarded (01 R33). -/
def landV (v : VRes) (x : BitVec 256) (s : State) : State :=
  mapSt (fun t =>
    let vls := t.vls.filter fun w => w.id != v.id
    match v.dst with
    | .sreg r => { t with vls := vls, a := if v.keep then setReg r (x.setWidth 64) t.a else t.a }
    | .handle h => { t with vls := vls, a := if v.keep then setHandle h x t.a else t.a }) s

/-- VARIABLE_LATENCY_RESULT: the result of a core with an id lands once it has arrived and its least time has passed. -/
def execVariableLatencyResult (c : CoreId) (k : Nat) (s : State) : Host.Outcome State Fault Refusal :=
  .next (atCore c (fun s =>
    match s.core.st.vls.find? fun v => v.id == k && !v.held with
    | none => s
    | some v =>
      match v.val with
      | none => s
      | some x => if v.first ≤ s.now then landV v x s else again (.variableLatencyResult c k) s) s)

/-- The landing of one row of a tile image: its bytes, its granules under fe = 2, its flags. An earlier write of the strand that is still
pending lands after it (09 R224 orders the later accesses only) (DESIGN CHOICE, log entry 137). -/
def landImg (i : Img) (s : State) : State :=
  let s := landMcs s
  let bits := if i.full then (granulesOf (i.bytes.map (·.1))).map fun g => (g, true) else []
  let s := mapCore (writeScratch i.bytes bits) s
  orFlags i.flags (mapSt (fun t => { t with imgs := t.imgs.filter fun j => j.id != i.id }) s)

/-- IMAGE_LANDING. -/
def execImageLanding (c : CoreId) (k : Nat) (s : State) : Host.Outcome State Fault Refusal :=
  .next (atCore c (fun s =>
    match s.core.st.imgs.find? fun i => i.id == k with
    | some i => landImg i s
    | none => s) s)

/-- The pipelines attached to the focused strand stand still: the debugger has stopped it, and its last cycle is over (01 R41). -/
def pipesStand (s : State) : Bool := s.core.dstop && s.core.dstopAt < s.now

/-- MATRIX_ENGINE_EXECUTE: the engine starts its oldest operation when it is free. While the pipelines stand still the event lapses:
the restart brings it back. -/
def execMatrixEngineExecute (c : CoreId) (s : State) : Host.Outcome State Fault Refusal :=
  .next (atCore c (fun s =>
    if s.core.mq.isEmpty || pipesStand s then s
    else if s.now < s.core.mBusy then again (.matrixEngineExecute c) s
    else engineStep s) s)

/-- SPLINE_ARRAY_EXECUTE. -/
def execSplineArrayExecute (c : CoreId) (s : State) : Host.Outcome State Fault Refusal :=
  .next (atCore c (fun s =>
    if s.core.sq.isEmpty || pipesStand s then s
    else if s.now < s.core.sBusy then again (.splineArrayExecute c) s
    else splineStep s) s)

/-- The clock in which the focused core's strand issues next: this one while its turn is to come. -/
def nextIssue (s : State) : Nat := if s.turn.contains s.core.id then s.now else s.now + 1

/-- The queued operations of the focused core's two engines are to start. -/
def wakePipes (s : State) : State :=
  let c := s.core.id
  let s := s.core.mq.foldl (fun s _ => due s.now (.matrixEngineExecute c) s) s
  s.core.sq.foldl (fun s _ => due s.now (.splineArrayExecute c) s) s

/-- The strand of the focused core issues its next bundle (01 R41). In-core pipelines have stood still since the stop, and the step
advances them by one cycle: what was still to come moves on by the clocks between the two cycles. -/
def debugGo (s : State) : State :=
  if !s.core.dstop then s
  else
    let at_ := s.core.dstopAt
    let shift (n : Nat) : Nat := if at_ < n then n + (nextIssue s - 1 - at_) else n
    let s := mapCore (fun k => { k with
      dstop := false, mBusy := shift k.mBusy, sBusy := shift k.sBusy,
      queues := k.queues.map fun ts => ts.map fun t => { t with ready := shift t.ready } }) s
    wakePipes (mapSt (fun t => { t with pend := t.pend.map fun p => { p with ready := shift p.ready } }) s)

/-- DEBUG_RESTART. -/
def execDebugRestart (c : CoreId) (s : State) : Host.Outcome State Fault Refusal := .next (atCore c debugGo s)

/-- DBGCTL_WRITE (01 R21): SSTEP, BRKEN and STOPPED of a core's strand. -/
def execDbgctlWrite (c : CoreId) (w : Word) (s : State) : Host.Outcome State Fault Refusal :=
  .next (atCore c (fun s =>
    let s := mapCore (fun k => { k with sstep := w.getLsbD 0, brken := w.getLsbD 1 }) s
    if w.getLsbD 2 then (if s.core.dstop then s else mapCore (fun k => { k with dstop := true, dstopAt := nextIssue s - 1 }) s)
    else debugGo s) s)

end Sys2Proof.Machine
end

