-- ==== Sys2Proof/Machine/ConfigSpace.lean ====
section
/-! DEFINITION. The configuration spaces of the module's four functions (15 R337, R344): what each holds, its dwords, and the
Vendor-Specific Extended Capability with its entries. Field places of the standard structures are PCI Express's (PRESUMED, log entry
143). -/

namespace Sys2Proof.Machine

/-! ### What each function holds (15 R337, R338, R340, R344) -/

/-- The capabilities that the rules name. -/
inductive Capability where
  | pciExpress
  | power
  | msix
  | advancedErrors
  | serial (n : BitVec 64)
  | vendor
deriving DecidableEq, Repr

/-- A base address register: its number, whether it is 64 bits wide, whether it is prefetchable, and the size of its window. -/
structure Bar where
  index : Nat
  wide : Bool
  prefetch : Bool
  size : Nat
deriving DecidableEq, Repr

/-- BAR0: 64 KiB, 64-bit, non-prefetchable (R338). -/
def bar0 : Bar := ⟨0, true, false, 2 ^ 16⟩
/-- BAR2: 64 GiB, 64-bit, prefetchable; that of a data function aliases IO0's (R337, R340). -/
def bar2 : Bar := ⟨2, true, true, 2 ^ 36⟩

/-- What a function's configuration space holds: a type 0 header with its codes, its base address registers and its capabilities. -/
structure ConfigSpace where
  header : Nat
  vendor : BitVec 16
  device : BitVec 16
  cls : BitVec 24
  bars : List Bar
  caps : List Capability
deriving DecidableEq, Repr

/-- The configuration space of the function on I/O die k's link: function 0 is the control function, and the others have its codes and
its serial number, BAR2 alone, no MSI-X and no vendor-specific capability (R337, R344). -/
def configSpace (k : Nat) : ConfigSpace :=
  { header := 0, vendor := Config.vendorCode, device := Config.deviceCode, cls := Config.classCode,
    bars := if k = 0 then [bar0, bar2] else [bar2],
    caps := if k = 0 then [.pciExpress, .power, .msix, .advancedErrors, .serial Config.serial, .vendor]
      else [.pciExpress, .power, .advancedErrors, .serial Config.serial] }

/-! ### The capability lists -/

/-- A capability's ID and, for an extended one, its size in bytes and whether it stands in the extended space. -/
def Capability.id : Capability → Nat
  | .pciExpress => 0x10 | .power => 0x01 | .msix => 0x11 | .advancedErrors => 0x0001 | .serial _ => 0x0003 | .vendor => 0x000B
def Capability.size : Capability → Nat
  | .pciExpress => 60 | .power => 8 | .msix => 12 | .advancedErrors => 72 | .serial _ => 12 | .vendor => 608
def Capability.extended : Capability → Bool
  | .advancedErrors | .serial _ | .vendor => true
  | _ => false

/-- Capabilities at their places, from a place on: the gaps between them are the module's. -/
def placedCaps (k : Nat) (room : Nat) : List Capability → Nat → List (Capability × Nat)
  | [], _ => []
  | c :: r, p => (c, p) :: placedCaps k room r (p + c.size + 4 * (Config.capGap k c.id % room))

/-- The order of a list of capabilities, of which the spec gives none: any order of up to three. -/
def orderedCaps (n : Nat) (l : List Capability) : List Capability := let l := l.rotateLeft n; if n / 3 % 2 = 0 then l else l.reverse

/-- The extended capabilities of function k with their places: the first stands at 0x100 (R344). -/
def extChain (k : Nat) : List (Capability × Nat) :=
  placedCaps k 64 (orderedCaps (Config.capOrder k) ((configSpace k).caps.filter (·.extended))) 0x100
/-- The other capabilities, from 0x40. -/
def capChain (k : Nat) : List (Capability × Nat) :=
  placedCaps k 8 (orderedCaps (Config.capOrder k / 6) ((configSpace k).caps.filter fun c => !c.extended)) 0x40

/-- Where the Vendor-Specific Extended Capability stands. -/
def vsecAt : Nat := (((extChain 0).find? fun e => e.1 == .vendor).map (·.2)).getD 0

/-- The capability that holds a dword: its kind, its place, and the place of the next of its list; 0 for the last. -/
def capOf (off : Nat) : List (Capability × Nat) → Option (Capability × Nat × Nat)
  | [] => none
  | (c, p) :: r => if p ≤ off ∧ off < p + c.size then some (c, p, (r.head?.map (·.2)).getD 0) else capOf off r

/-! ### The Vendor-Specific Extended Capability (R344, R345) -/

/-- The body of an entry of the Vendor-Specific capability, by its ID, in dwords. -/
def vsecBody (id : Nat) (s : State) : List Nat :=
  if id = 1 then [s.host.modid.toNat, diesInService false s, diesInService true s]
  else if id = 2 then (List.range 128).map (dieMapEntry s)
  else if id = 3 then (List.range 15).map fun k => ((linkMap s).filter fun b => b / 32 = k).foldl (fun n b => n + 2 ^ (b % 32)) 0
  else []

/-- The entries of the capability in the order of their IDs, each with its header; `off` is the first one's place in configuration space. -/
def vsecEntries (off : Nat) (s : State) : List Nat :=
  let head (id len : Nat) (next : Nat) : Nat := id + len * 2 ^ 8 + next * 2 ^ 16
  head 1 4 (off + 16) :: vsecBody 1 s ++ head 2 129 (off + 532) :: vsecBody 2 s ++ head 3 16 0 :: vsecBody 3 s

/-- What follows the capability's first dword: VSEC ID 0x4A51 and revision 1, and its entries from +12. -/
def vsecRest (p : Nat) (s : State) : List Nat :=
  [0x4A51 + 2 ^ 16 + 608 * 2 ^ 20, (Config.cfgDword 0 (p + 8)).toNat] ++ vsecEntries (p + 12) s

/-! ### Dwords -/

/-- The dword of an extended capability at a place, in a function's space. -/
def extDword (k off : Nat) (c : Capability) (p next : Nat) (s : State) : Nat :=
  if off = p then c.id + (Config.capVersion c.id).toNat * 2 ^ 16 + next * 2 ^ 20
  else match c with
    | .vendor => (vsecRest p s).getD ((off - p) / 4 - 1) 0
    | .serial n => if off = p + 4 then n.toNat % 2 ^ 32 else n.toNat / 2 ^ 32
    | _ => (Config.cfgDword k off).toNat

/-- The dword of another capability: an endpoint with a maximum payload of 512 bytes (R337), and an MSI-X table of 24 vectors at 0x3000 of
BAR0 with its pending bits at 0x3400 (R338). -/
def capDword (k off : Nat) (c : Capability) (p next : Nat) : Nat :=
  let w := (Config.cfgDword k off).toNat
  let own : Nat := match c with
    | .pciExpress => bits w 19 16 + bits w 31 24 * 2 ^ 8
    | .msix => 23 + bits w 31 30 * 2 ^ 14
    | _ => bits w 31 16
  if off = p then c.id + next * 2 ^ 8 + own * 2 ^ 16
  else match c with
    | .pciExpress => if off = p + 4 then w - w % 8 + 2 else w
    | .msix => if off = p + 4 then 0x3000 else 0x3400
    | _ => w

/-- The base address that software has given a register: a multiple of its window's size. -/
def barBase (k : Nat) (b : Bar) : Nat := (Config.barBase k b.index).toNat / b.size * b.size

/-- The dword of a base address register: a 64-bit one takes two. -/
def barDword (k i : Nat) : Nat :=
  match (configSpace k).bars.find? fun b => b.index = i || b.index + 1 = i with
  | none => 0
  | some b => if b.index = i then barBase k b % 2 ^ 32 + 4 * b2n b.wide + 8 * b2n b.prefetch else barBase k b / 2 ^ 32

/-- A dword of the type 0 header. -/
def headerDword (k off : Nat) : Nat :=
  let c := configSpace k
  let w := (Config.cfgDword k off).toNat
  if off = 0x00 then c.vendor.toNat + c.device.toNat * 2 ^ 16
  else if off = 0x08 then bits w 7 0 + c.cls.toNat * 2 ^ 8
  else if off = 0x0C then bits w 15 0 + c.header * 2 ^ 16 + bits w 31 23 * 2 ^ 23
  else if 0x10 ≤ off ∧ off < 0x28 then barDword k ((off - 0x10) / 4)
  else if off = 0x34 then (((capChain k).head?).map (·.2)).getD 0
  else w

/-- cfg32 of a function: an aligned dword of its configuration space. Those that the spec does not give are constants of the configuration
(log entry 143). -/
def cfg32 (k off : Nat) (s : State) : Nat :=
  if off % 4 ≠ 0 then (Config.cfgDword k off).toNat
  else match capOf off (extChain k), capOf off (capChain k) with
    | some (c, p, n), _ => extDword k off c p n s
    | none, some (c, p, n) => capDword k off c p n
    | none, none => headerDword k off

/-- Software's walk to the entries of the vendor capability (R344), from an offset. -/
def vsecWalk (k : Nat) (s : State) : Nat → Nat → Option Nat
  | 0, _ => none
  | fuel + 1, off =>
    if off = 0 then none
    else if bits (cfg32 k off s) 15 0 = 0x000B ∧ bits (cfg32 k (off + 4) s) 15 0 = 0x4A51 then some (off + 12)
    else vsecWalk k s fuel (bits (cfg32 k off s) 31 20)

end Sys2Proof.Machine
end

