-- ==== Sys2Proof/Machine/Digest.lean ====
section
/-! DEFINITION. SHA-256, which 15 R350 names for the module's measurements. The function is that of FIPS 180-4 (PRESUMED, log entry 142). -/

namespace Sys2Proof.Machine

abbrev W32 := BitVec 32

/-- Whether a number below 324 is prime: no prime up to 17 below it divides it. -/
def smallPrime (n : Nat) : Bool :=
  decide (2 ≤ n) && [2, 3, 5, 7, 11, 13, 17].all fun d => decide (n ≤ d) || n % d != 0

/-- The greatest number whose k-th power is at most x, searched below r + 2^bits, bit by bit. -/
def floorRoot (k x : Nat) : Nat → Nat → Nat
  | 0, r => r
  | bits + 1, r => floorRoot k x bits (if (r + 2 ^ bits) ^ k ≤ x then r + 2 ^ bits else r)

/-- The first 32 bits of the fractional part of the k-th root of a number below 2^12: what FIPS 180-4 makes its constants of. -/
def rootWord (k p : Nat) : W32 := BitVec.ofNat 32 (floorRoot k (p * 2 ^ (32 * k)) 39 0)

/-- The first n primes. -/
def firstPrimes (n : Nat) : List Nat := ((List.range 324).filter smallPrime).take n

/-- The round constants: from the cube roots of the first 64 primes. -/
def shaK : List W32 := (firstPrimes 64).map (rootWord 3)

/-- The initial hash value: from the square roots of the first 8 primes. -/
def shaInit : List W32 := (firstPrimes 8).map (rootWord 2)

/-- A big-endian word of four bytes. -/
def beWord (bs : List Byte) : W32 := BitVec.ofNat 32 (bs.foldl (fun n b => 256 * n + b.toNat) 0)

/-- A message with its padding: a one bit, zeros, and the length in bits. -/
def shaPad (m : List Byte) : List Byte :=
  m ++ [0x80] ++ List.replicate ((119 - m.length % 64) % 64) 0 ++
    (List.range 8).map fun k => BitVec.ofNat 8 (8 * m.length / 2 ^ (56 - 8 * k))

/-- The exclusive or of a word rotated right by each amount of a list. -/
def rotXor (x : W32) (ns : List Nat) : W32 := ns.foldl (fun acc n => acc ^^^ x.rotateRight n) 0

/-- The message schedule, latest word first: n further words from the sixteen before each. -/
def shaSched : Nat → List W32 → List W32
  | 0, w => w
  | n + 1, w =>
    let far := rotXor (w.getD 14 0) [7, 18] ^^^ (w.getD 14 0 >>> 3)
    let near := rotXor (w.getD 1 0) [17, 19] ^^^ (w.getD 1 0 >>> 10)
    shaSched n ((w.getD 15 0 + far + (w.getD 6 0 + near)) :: w)

/-- The eight working variables of the hash, under FIPS 180-4's names. -/
structure ShaVars where
  a : W32
  b : W32
  c : W32
  d : W32
  e : W32
  f : W32
  g : W32
  h : W32
deriving DecidableEq, Repr

/-- What a round mixes from e, f, g and h: the choice by e's bits, and e's own rotations. -/
def ShaVars.choice (v : ShaVars) : W32 := v.h + rotXor v.e [6, 11, 25] + (v.g ^^^ (v.e &&& (v.f ^^^ v.g)))

/-- What a round mixes from a, b and c: their majority, and a's own rotations. -/
def ShaVars.majority (v : ShaVars) : W32 := rotXor v.a [2, 13, 22] + ((v.a &&& (v.b ||| v.c)) ||| (v.b &&& v.c))

/-- One round, with the sum of its round constant and schedule word. -/
def ShaVars.round (v : ShaVars) (kw : W32) : ShaVars :=
  let x := v.choice + kw
  ⟨x + v.majority, v.a, v.b, v.c, v.d + x, v.e, v.f, v.g⟩

/-- A hash value as working variables. -/
def ShaVars.ofList (h : List W32) : ShaVars :=
  ⟨h.getD 0 0, h.getD 1 0, h.getD 2 0, h.getD 3 0, h.getD 4 0, h.getD 5 0, h.getD 6 0, h.getD 7 0⟩

/-- The working variables as a hash value. -/
def ShaVars.toList (v : ShaVars) : List W32 := [v.a, v.b, v.c, v.d, v.e, v.f, v.g, v.h]

/-- The hash value after one block of 64 bytes. -/
def shaBlock (h : List W32) (b : List Byte) : List W32 :=
  let w := (shaSched 48 ((List.range 16).map fun k => beWord ((b.drop (4 * k)).take 4)).reverse).reverse
  let v := (shaK.zip w).foldl (fun v kw => v.round (kw.1 + kw.2)) (ShaVars.ofList h)
  List.zipWith (· + ·) h v.toList

/-- The SHA-256 digest of a message, 32 bytes. -/
def sha256 (m : List Byte) : List Byte :=
  let p := shaPad m
  let h := ((List.range (p.length / 64)).map fun k => (p.drop (64 * k)).take 64).foldl shaBlock shaInit
  h.flatMap fun w => [w.extractLsb' 24 8, w.extractLsb' 16 8, w.extractLsb' 8 8, w.extractLsb' 0 8]

end Sys2Proof.Machine
end

