-- ==== Sys2Proof/Machine/Lifecycle.lean ====
section
/-! DEFINITION. BAR0 (15 R338), the resets (15 R346, R347), the Abavas controller: takeover, throttling, mailbox (15 R342,
R349, R351), and the SPDM responder (15 R350). -/

namespace Sys2Proof.Machine

/-! ### Resets -/

/-- What comes from outside the module's dies: pools, other modules, the host, the debug interface, the controller, failures. No reset
takes it back. -/
def fromOutside : Instr → Bool
  | .bisnpinv _ | .bisnpdata _ | .bisnpcur _ | .memrdCompletion .. | .meminvCompletion _ | .memwrCompletion .. | .cxlPortDown _
  | .cxlPortReturnToService _ | .glodricMessage _ | .glodricPortWithdrawn _ | .switchSlotLoss .. | .linkWithdrawn _ | .linePoisoned _
  | .combSramError _ | .dieFault _ | .coreWithdrawn _ | .schedulerTakeover | .launch _ | .inboundWrite .. | .bar2Read .. | .hostCounterAdd ..
  | .invalidation _ | .pageLock _ | .pageUnlock _ | .counterWatch .. | .registerWrite .. | .warmReset | .coldReset | .abavasTakeover
  | .throttling | .throttlingEnd | .abavasMailboxMessage _ | .domainTableWrite _ | .getVersion | .getCapabilities | .negotiateAlgorithms _
  | .getDigests | .getCertificate .. | .challenge .. | .getMeasurements _ | .dbgctlWrite .. | .debugRestart _ => true
  | _ => false

/-- Due work that a warm reset keeps: what comes from outside, and what homes and the ordering point have under way for it. -/
def keptByReset : Instr → Bool
  | .snoopPinTimeout _ | .destinationTimeout _ | .invalidationDone _ | .lockDone _ | .stampRaise _ => true
  | .applyAdd _ _ _ _ .host _ => true
  | .applyAdd _ _ _ _ .nobody 0 => true
  | i => fromOutside i

/-- A core after a warm reset: no strand, arrays clear, DBGCTL at its reset value (DESIGN CHOICE, log entry 127); PTS, MSKEW and a
withdrawal are kept. -/
def resetCore (c : Core) : Core := { Core.init c.id with pts := c.pts, mskew := c.mskew, dead := c.dead }

/-- The host interface after a warm reset: watches are discarded, LSTATE is IDLE, BUSY reads 1 for at most 2 ms. -/
def resetHost (til : Nat) (h : HostIf) : HostIf := { h with busyTil := til, watches := Vector.replicate 16 ⟨0, false, 0⟩ }

/-- What a warm reset finds half done: a commit that homes have begun to apply is applied in full (12 R270), and the bytes of a copy's
piece that its pool is taking are the line's. -/
def settleForReset (s : State) : State :=
  let k := s.core.id
  let s := focus k (((allCores s).map (·.id)).foldl (fun s c => finishApplies 128 (focus c s)) s)
  s.ptx.foldl (fun s t => match t with | .wr l (.copy op) => copyWritten op l false s | _ => s) s

/-- A warm reset. Writes accepted at the ordering point before it are applied. A module whose images have failed stays in bring-up, and
LSTATE stays FAULT (R349). -/
def warmReset (s : State) : State :=
  let s := setLstate (if s.ctl.bringUp then 4 else 0) (settleForReset s)
  let (d, s) := freeDelay s
  let s := record 256 0xB (word (Config.freeChoice s.free)) { s with free := s.free + 1 }
  let s := { s with
    core := resetCore s.core, others := s.others.map resetCore, ctx := .init, turn := [], wturn := [],
    agenda := s.agenda.filter (fun d => keptByReset d.act), waiters := [], closes := [], tmq := [], copies := [], loads := [],
    launchq := [], stats := [], segs := [], mcs := [], sched := .init, standby := .init, tables := [], adders := [], switches := [],
    routes := [], colls := [], wglq := [], wcount := [], wstat := [], waborts := [], wsigs := [], wchunks := [], wvals := [], rtimes := [], rctrs := [],
    cfOrs := [], spawnq := [],
    dir := s.dir.map (fun e => (e.1, { e.2 with pin := none, resv := none })), host := resetHost (s.now + d % 3000001) s.host }
  pump s

def execWarmReset (s : State) : Host.Outcome State Fault Refusal := .next (warmReset s)

/-- COLD_RESET: the state after bring-up; values that were left free before are not drawn again. A module whose images do not verify
stays in bring-up with LSTATE FAULT, and no event 0x000C (15 R349, R352). -/
def execColdReset (s : State) : Host.Outcome State Fault Refusal :=
  let up : State := { State.reset with free := s.free + 1, nextId := s.nextId, agenda := s.agenda.filter fun d => fromOutside d.act }
  let a := Config.abavasPass s.free
  .next (if a && Config.imagesPass s.free then up
    else { up with
      host := { up.host with lstate := 4 }, ctl := { up.ctl with recorders := [], seqs := [], told := [], bringUp := true, abavas := a } })

/-! ### BAR0 -/

/-- A multi-word register's value from its parts. -/
def partsAt (s : State) (off n : Nat) : Nat :=
  (List.range n).foldl (fun v k => v + (SMap.get 0 s.host.parts (off + 8 * k)).toNat * 2 ^ (64 * k)) 0
def setPart (off : Nat) (w : Word) (s : State) : State := { s with host := { s.host with parts := SMap.set 0 s.host.parts off w } }

/-- A write of the MSI-X table: an unmasked vector with its pending bit set is signalled. -/
def msixWrite (k : Nat) (w : Word) (s : State) : State :=
  let s := { s with host := { s.host with msix := SMap.set 0 s.host.msix k w } }
  let v := k / 2
  if k % 2 = 1 && !bit w.toNat 32 && s.host.pba.getLsbD v then
    { s with host := { s.host with pba := s.host.pba &&& ~~~(BitVec.ofNat 24 (2 ^ v)), signalled := v :: s.host.signalled } }
  else s

/-- What a read of 8 bytes of BAR0 returns (15 R338): a register that only takes writes, and an offset not listed, reads 0. -/
def bar0Read (o : Nat) (s : State) : Word :=
  let h := s.host
  if o = 0x0000 then word (0x4A39 + 2 * 2 ^ 16 + h.modid.toNat * 2 ^ 20)
  else if o = 0x0010 then word h.lstate
  else if o = 0x0018 then word (2 * b2n (s.now < h.busyTil))
  else if o = 0x0020 then word (h.apbase.toNat * 2 ^ 36)
  else if o = 0x0030 then zx h.evstat
  else if 0x2000 ≤ o && o < 0x2100 then
    let w := watchOf s ((o - 0x2000) / 16)
    if o % 16 = 0 then word (w.addr.toNat + b2n w.en * 2 ^ 63) else w.thr
  else if 0x3000 ≤ o && o < 0x3180 then SMap.get 0 h.msix ((o - 0x3000) / 8)
  else if o = 0x3400 then zx h.pba
  else 0

/-- A BAR0 write of 8 bytes. A multi-word register acts when its highest 8 bytes arrive; offsets not listed ignore writes. -/
def bar0Write (o : Nat) (w : Word) (s : State) : Host.Outcome State Fault Refusal :=
  let n := w.toNat
  if o = 0x0008 then execLaunch w s
  else if o = 0x0018 then .next (if bit n 0 then warmReset s else s)
  else if o = 0x0020 then .next { s with host := { s.host with apbase := w.extractLsb' 36 21 } }
  else if o = 0x0030 then .next { s with host := { s.host with evstat := s.host.evstat &&& ~~~(w.setWidth 5) } }
  else if o = 0x0040 then .next { s with host := { s.host with caddr := w.setWidth 57 } }
  else if o = 0x0048 then .next (hostAdd (bits n 31 0) (bits n 63 32) s)
  else if 0x1000 ≤ o && o ≤ 0x1018 then
    let s := setPart o w s
    .next (if o = 0x1018 then invalidate (partsAt s 0x1000 4) s else s)
  else if o = 0x1020 || o = 0x1028 then
    let s := setPart o w s
    .next (if o = 0x1028 then lockPage (partsAt s 0x1020 2) s else s)
  else if 0x2000 ≤ o && o < 0x2100 then
    let i := (o - 0x2000) / 16
    .next (if o % 16 = 0 then watchWrite i w s else armWatch i { watchOf s i with thr := w } s)
  else if 0x3000 ≤ o && o < 0x3180 then .next (msixWrite ((o - 0x3000) / 8) w s)
  else .next s

/-- REGISTER_WRITE: 8 bytes at an 8-byte-aligned offset of BAR0. -/
def execRegisterWrite (off : BitVec 16) (w : Word) (s : State) : Host.Outcome State Fault Refusal :=
  if off.toNat % 8 = 0 then bar0Write off.toNat w s else .next s

/-! ### The Abavas controller -/

/-- What the controller does: nothing where its image has failed and is never run (R349). -/
def byAbavas (f : State → State) (s : State) : Host.Outcome State Fault Refusal := .next (if s.ctl.abavas then f s else s)

/-- ABAVAS_TAKEOVER: the controller of IO3 takes over. -/
def execAbavasTakeover (s : State) : Host.Outcome State Fault Refusal := byAbavas (fun s =>
  (if s.ctl.active = 3 then s else record 259 0xF 3 { s with ctl := { s.ctl with active := 3 } })) s

/-- THROTTLING. The spec does not state the event's INFO. -/
def execThrottling (s : State) : Host.Outcome State Fault Refusal := byAbavas (fun s =>
  (if s.ctl.throttled then s
    else record (256 + s.ctl.active) 0xE (word (Config.freeChoice s.free)) { s with free := s.free + 1, ctl := { s.ctl with throttled := true } })) s
def execThrottlingEnd (s : State) : Host.Outcome State Fault Refusal := byAbavas (fun s => { s with ctl := { s.ctl with throttled := false } }) s

/-- ABAVAS_MAILBOX_MESSAGE. -/
def execAbavasMailboxMessage (m : Word) (s : State) : Host.Outcome State Fault Refusal := byAbavas (fun s =>
  signal 4 { s with ctl := { s.ctl with mailbox := s.ctl.mailbox ++ [m] } }) s

/-! ### SPDM (R350) -/

def setOut (o : SpdmOut) (s : State) : State := { s with ctl := { s.ctl with spdmOut := o } }

/-- n bytes that the spec does not give. -/
def freeBytes (n : Nat) (s : State) : List Byte × State := ((List.range n).map (Config.freeByte s.free), { s with free := s.free + 1 })
/-- A response of which the spec gives no part. -/
def respond (s : State) : State :=
  let n := Config.freeChoice s.free
  let (bs, s) := freeBytes n s
  setOut (.other bs) s

/-- GET_VERSION: SPDM 1.2 and 1.3. -/
def execGetVersion (s : State) : Host.Outcome State Fault Refusal := byAbavas (fun s =>
  setOut (.versions [0x12, 0x13]) { s with ctl := { s.ctl with spdmVer := true } }) s
def execGetCapabilities (s : State) : Host.Outcome State Fault Refusal := byAbavas (fun s => respond { s with ctl := { s.ctl with spdmCap := true } }) s
def execNegotiateAlgorithms (algs : BitVec 64) (s : State) : Host.Outcome State Fault Refusal := byAbavas (fun s =>
  respond { s with ctl := { s.ctl with spdmAlg := some algs } }) s
/-- GET_DIGESTS: the SHA-256 digest of the chain in each of the eight slots. -/
def execGetDigests (s : State) : Host.Outcome State Fault Refusal := byAbavas (fun s =>
  setOut (.digests ((List.range 8).flatMap fun k => (List.range 32).map (Config.digestByte k))) s) s
/-- GET_CERTIFICATE: bytes of the chain in a slot, from an offset. -/
def execGetCertificate (slot : BitVec 8) (off len : BitVec 16) (s : State) : Host.Outcome State Fault Refusal := byAbavas (fun s =>
  let chain := (List.range (Config.certLen slot.toNat)).map (Config.certByte slot.toNat)
  setOut (.certificate ((chain.drop off.toNat).take len.toNat)) s) s
/-- CHALLENGE: a 3,072-bit RSASSA signature by the module's identity key, over the nonce and what came before it. -/
def execChallenge (_slot : BitVec 8) (_nonce : BitVec 256) (s : State) : Host.Outcome State Fault Refusal := byAbavas (fun s =>
  let (sig, s) := freeBytes 384 s
  setOut (.signed sig) s) s

/-- A dword in little-endian bytes. -/
def dwordBytes (n : Nat) : List Byte := (List.range 4).map fun k => BitVec.ofNat 8 (n / 2 ^ (8 * k))
/-- The bytes of a measurement block: block 5 is the SHA-256 digest of the die map and the link map, in their form of R344 (DESIGN CHOICE,
log entry 142); blocks 2 and 3, of images, are 32 bytes of the configuration. -/
def measurement (s : State) (k : Nat) : List Byte :=
  if k = 5 then sha256 ((vsecBody 2 s ++ vsecBody 3 s).flatMap dwordBytes)
  else (List.range (if k = 1 || k = 4 then Config.measureLen k else 32)).map (Config.measureByte k)
/-- GET_MEASUREMENTS: block 1 to 5, or every block (255); no other index has a block. -/
def execGetMeasurements (idx : BitVec 8) (s : State) : Host.Outcome State Fault Refusal := byAbavas (fun s =>
  let ks := if idx = 255 then [1, 2, 3, 4, 5] else [idx.toNat].filter fun k => 1 ≤ k && k ≤ 5
  setOut (.measurements (ks.map fun k => (k, measurement s k))) s) s

end Sys2Proof.Machine
end

