-- ==== Sys2Proof/Machine/LoadStore.lean ====
section
/-! DEFINITION. The load and store slots but for the tile instructions (09 R209-R215, R225-R229): scalar global and scratchpad accesses,
metadata reads, prefetch, multicast and drain writes. -/

namespace Sys2Proof.Machine

/-- The address or offset of R209. -/
def lsAddr (f : LS) (s : State) : Res Word :=
  gather (do
    let a ← readS f.base s
    let b ← readS f.idx s
    .ok (a + b + sx f.disp)) [stopOf (readS f.base s), stopOf (readS f.idx s)]
/-- Its checks. -/
def lsAddrStop (f : LS) (s : State) : Option Stop := stopOf (lsAddr f s)

def lsSize (f : LS) : Nat := 2 ^ f.sz.toNat
/-- f0 as a scalar register. -/
def f0Reg (f : LS) : BitVec 6 := f.f0.setWidth 6

/-- The extension of R209: ty 0 zero-extends, i32 sign-extends. -/
def lsExtend (f : LS) (v : Nat) : Word := if f.ty = 6 then BitVec.ofInt 64 (sint (8 * lsSize f) v) else word v

/-- `ld` (09 R211). -/
def ldOp (f : LS) (s : State) : Res State :=
  gather (do
    let a ← lsAddr f s
    needAligned a.toNat (lsSize f) s
    let (v, s) ← liftMem s (globalRead1 a.toNat (lsSize f) s)
    .ok (produceVal (f0Reg f) (lsExtend f v) s.now false s)) [heldMeets (lsAddr f s) (lsSize f) s]
def execLd (f : LS) (s : State) : Host.Outcome State Fault Refusal := issue s (ldOp f s)

/-- `st` (09 R212): one held piece. -/
def stOp (f : LS) (s : State) : Res State :=
  gather (do
    let a ← lsAddr f s
    let v ← readS (f0Reg f) s
    needAligned a.toNat (lsSize f) s
    let (pa, s) ← xlateW .wr a.toNat s
    holdAll [storePiece pa a.toNat (natBytes (lsSize f) v.toNat) none] s) [lsAddrStop f s, stopOf (readS (f0Reg f) s)]
def execSt (f : LS) (s : State) : Host.Outcome State Fault Refusal := issue s (stOp f s)

/-- A scalar result that leaves its register empty until a known clock. -/
def produceAt (rd : BitVec 6) (v : Word) (at_ : Nat) (s : State) : State :=
  let (i, s) := produceS rd (some v) at_ false false s
  due at_ (.variableLatencyResult s.core.id i) s

/-- The offsets of n bytes. -/
def spadOffs (a : Word) (n : Nat) : List Int := (offsFrom a.toNat n).map fun (k : Nat) => (k : Int)

/-- `sld` (09 R213). -/
def sldOp (f : LS) (s : State) : Res State := do
  let a ← lsAddr f s
  let (bs, s) ← spadRead (spadOffs a (lsSize f)) f.fe.toNat a s
  let v := lsExtend f (leNat bs)
  .ok (if f.fe = 0 then writeS (f0Reg f) 3 v 0 s else produceAt (f0Reg f) v (s.now + real s 3) s)
def execSld (f : LS) (s : State) : Host.Outcome State Fault Refusal := issue s (sldOp f s)

/-- `sst` (09 R214). -/
def sstOp (f : LS) (s : State) : Res State :=
  gather (do
    let a ← lsAddr f s
    let v ← readS (f0Reg f) s
    spadWriteCheck (spadOffs a (lsSize f)) f.fe.toNat a s
    let os := offsFrom a.toNat (lsSize f)
    .ok (writeSpad 11 (os.zip (natBytes (lsSize f) v.toNat)) (fullBits f.fe.toNat os) 0 s))
    [lsAddrStop f s, stopOf (readS (f0Reg f) s)]
def execSst (f : LS) (s : State) : Host.Outcome State Fault Refusal := issue s (sstOp f s)

/-- `sfe` (09 R215): only full/empty bits change. -/
def sfeOp (f : LS) (s : State) : Res State :=
  gather (do
    let a ← lsAddr f s
    let n ← readS (f0Reg f) s
    if n = 0 then .ok s
    else
      need s (a.toNat + 16 * n.toNat ≤ splitBytes s.core.split) cWindow a
      let g0 := a.toNat / 16
      let g1 := (a.toNat + 16 * n.toNat - 1) / 16
      .ok (writeSpad 11 [] ((List.range (g1 + 1 - g0)).map fun i => (g0 + i, f.fe == 2)) 0 s))
    [lsAddrStop f s, stopOf (readS (f0Reg f) s)]
def execSfe (f : LS) (s : State) : Host.Outcome State Fault Refusal := issue s (sfeOp f s)

/-- `dpop` (09 R229). -/
def dpopOp (f : LS) (s : State) : Res State :=
  gather (do
    let a ← lsAddr f s
    let o := a &&& ~~~63
    spadWriteCheck (spadOffs o 64) f.fe.toNat o s
    let (v, s) ← popSel (f0Reg f) s
    let os := offsFrom o.toNat 64
    .ok (writeSpad 11 (os.zip (vecBytes v)) (fullBits f.fe.toNat os) 0 s)) [lsAddrStop f s, stopOf (popSel (f0Reg f) s)]
def execDpop (f : LS) (s : State) : Host.Outcome State Fault Refusal := issue s (dpopOp f s)

/-- `tmrd` (09 R225): the home copy of a record's word; words 3 to 12 are read as they stand (14 R322). -/
def tmrdOp (f : LS) (s : State) : Res State := do
  let h ← readH f.h s
  let (_, s') ← liftMem s (checkRec (hTmr h) s)
  let va := tmrVa s (hTmr h) + 8 * f.disp.toNat
  let (v, t) ← liftMem s (globalRead1 va 8 s')
  let ((pa, _), _) ← liftMem s (coreXlate .rd va s')
  let v := if 3 ≤ f.disp.toNat && f.disp.toNat ≤ 12 then rdN s pa 8 else v
  .ok (produceVal (f0Reg f) (word v) t.now false t)
def execTmrd (f : LS) (s : State) : Host.Outcome State Fault Refusal := issue s (tmrdOp f s)

/-- `wmrd` (09 R226); a pool leaf has no watermark (11 R262). -/
def wmrdOp (f : LS) (s : State) : Res State := do
  let a ← lsAddr f s
  let ((pa, _), _) ← liftMem s (coreXlate .rd a.toNat s)
  need s (!isPool pa) cAccess a
  let (_, t) ← liftMem s (globalReadWith .rd false [] [(a.toNat, 1)] s)
  .ok (produceVal (f0Reg f) (word (regionMark s pa)) t.now false t)
def execWmrd (f : LS) (s : State) : Host.Outcome State Fault Refusal := issue s (wmrdOp f s)

/-- `pref` (09 R227) changes only timing; its operands are read under their empty policies. -/
def prefOp (f : LS) (s : State) : Res State := do
  let _ ← lsAddr f s
  .ok s
def execPref (f : LS) (s : State) : Host.Outcome State Fault Refusal := issue s (prefOp f s)

/-! ### Multicast (10 R230-R233) -/

def mcBase (m : BitVec 128) : Nat := bits m.toNat 17 0
def mcLen (m : BitVec 128) : Nat := bits m.toNat 35 18
def mcMask (m : BitVec 128) : Nat := bits m.toNat 71 36
def mcV (m : BitVec 128) : Bool := bit m.toNat 73

/-- The cores that a window names. -/
def mcTargets (c : CoreId) (m : BitVec 128) : List CoreId :=
  ((List.range 36).filter fun k => bit (mcMask m) k).map fun k => BitVec.ofNat 20 ((clusterOf c).toNat + 16384 * k)

/-- `wmc` (10 R232): leaves the core at issue and lands 8 clocks later. -/
def wmcOp (f : LS) (s : State) : Res State :=
  gather (do
    let a ← lsAddr f s
    let o := a.toNat / 64 * 64
    let m := s.core.mcw
    need s (mcV m && o + 64 ≤ mcLen m) cWindow a
    let (v, s) ← srcVec (f0Reg f) 0 s
    let ts := mcTargets s.core.id m
    if ts.isEmpty then .ok s
    else
      let (i, s) := freshId s
      .ok (due (s.now + 8) (.multicastLanding i)
        { s with mcs := s.mcs ++ [⟨s.now + 8, s.core.id, i, ts, mcBase m + o, v, f.fe == 2⟩] }))
    [lsAddrStop f s, stopOf (srcVec (f0Reg f) 0 s)]
def execWmc (f : LS) (s : State) : Host.Outcome State Fault Refusal := issue s (wmcOp f s)

end Sys2Proof.Machine
end

