-- ==== Sys2Proof/Machine/Matrix.lean ====
section
/-! DEFINITION. The M-slot instructions of the outer-product engine as they issue (07 R174-R191). -/

namespace Sys2Proof.Machine

/-- Change a bank's status. -/
def bankStatus (bk : Nat) (f : Bank → Bank) (s : State) : State := mapCore (fun c => setBank bk (f (bankOf c bk)) c) s

/-- An M-slot instruction on a bank that the strand owns (07 R176). -/
def ownBank (bk : Nat) (s : State) : Res Unit := need s (!(bankOf s.core bk).lent) cOwner (word bk)

/-- `mop`, `mmac` and `mbfp` (07 R182, R183). -/
def rankOp (clear block : Bool) (f : MA) (s : State) : Res State :=
  let bk := f.bk.toNat
  let ta := f.ty.toNat
  let tb := if f.tyd = 0 then ta else f.tyd.toNat
  let mode := needLegal s ((bankOf s.core bk).block == block)
  gather (do
    mode
    ownBank bk s
    roomM s
    let (a, s) ← srcVec f.va ta s
    let (b, s) ← srcVec f.vb tb s
    .ok (enqueueM true (.rank1 clear block bk a b ta tb (f.ctl.getLsbD 0) (f.ctl.getLsbD 1)) (bankStatus bk (fun b => { b with live := true }) s)))
    [stopOf mode, stopOf (ownBank bk s), stopOf (srcVec f.va ta s), stopOf (srcVec f.vb tb s)]
def execMop (f : MA) (s : State) : Host.Outcome State Fault Refusal := issue s (rankOp true false f s)
def execMmac (f : MA) (s : State) : Host.Outcome State Fault Refusal := issue s (rankOp false false f s)
def execMbfp (f : MA) (s : State) : Host.Outcome State Fault Refusal := issue s (rankOp (f.ctl.getLsbD 2) true f s)

/-- `mzero` and `mcfg` (07 R184): the bank is no longer live. -/
def clearOp (op : EOp) (block : Bool) (bk : Nat) (s : State) : Res State := do
  ownBank bk s
  roomM s
  .ok (enqueueM true op (bankStatus bk (fun b => { b with live := false, block := block }) s))
def execMzero (f : MA) (s : State) : Host.Outcome State Fault Refusal :=
  issue s (clearOp (.zero f.bk.toNat) (bankOf s.core f.bk.toNat).block f.bk.toNat s)
def execMcfg (f : MA) (s : State) : Host.Outcome State Fault Refusal :=
  issue s (clearOp (.cfg f.bk.toNat (f.ty == 7)) (f.ty == 7) f.bk.toNat s)

/-- `mdrain` (07 R185, R186). A pop of a tile's last vector by an earlier slot of the bundle (VA, VB) has lowered the count of four, one by
the later W slot has not (DESIGN CHOICE, log entry 136). -/
def mdrainOp (f : MA) (s : State) : Res State :=
  let bk := f.bk.toNat
  let q := f.bd.toNat
  let keep := f.ctl.getLsbD 0
  let room := need s ((s.core.queues[q]?.getD []).length < 4) cQueue (word (8 + q))
  gather (do
    let x ← readS f.reg s
    room
    ownBank bk s
    roomM s
    let (rs, s) := draws f.rnd.toNat 256 s
    let (i, s) := freshId s
    let d := dueAt s 10
    let s := mapCtx (fun c => { c with ownTile := some i }) (mapCore (fun c => { c with
      queues := c.queues.setIfInBounds q ((c.queues[q]?.getD []) ++ [⟨i, none, d, s.now⟩]) }) s)
    let blk := (bankOf s.core bk).block
    .ok (enqueueM true (.drain bk blk q i f.tyd.toNat d (clampExp x) f.rnd.toNat rs keep) (bankStatus bk (fun b => { b with live := keep }) s)))
    [stopOf room, stopOf (ownBank bk s)]
def execMdrain (f : MA) (s : State) : Host.Outcome State Fault Refusal := issue s (mdrainOp f s)

/-- The image's offset (07 R187). -/
def imgOff (a : Word) (k : Nat) : Word := (a + BitVec.ofNat 64 (64 * k)) &&& ~~~63
def intOffs (o : Word) (n : Nat) : List Int := (offsFrom o.toNat n).map fun (k : Nat) => (k : Int)

/-- The little-endian words of w bytes in a list of bytes. -/
def wordsOf (w : Nat) (bs : List Byte) : List Nat := (chunksOf w bs.length bs).map leNat

/-- `mload` (07 R188): reads the image at issue. -/
def mloadOp (f : MA) (s : State) : Res State :=
  let bk := f.bk.toNat
  gather (do
    let a ← readS f.reg s
    let o := imgOff a (f.ctl.extractLsb' 0 12).toNat
    ownBank bk s
    roomM s
    let (bs, s) ← spadRead (intOffs o 1024) (f.ctl.extractLsb' 12 2).toNat o s
    .ok (enqueueM true (.load bk (f.ty == 7) (wordsOf 4 bs)) (bankStatus bk (fun b => { b with live := true, block := f.ty == 7 }) s)))
    [stopOf (do
      let a ← readS f.reg s
      let o := imgOff a (f.ctl.extractLsb' 0 12).toNat
      need s (inWindow s (intOffs o 1024)) cWindow o)]
def execMload (f : MA) (s : State) : Host.Outcome State Fault Refusal := issue s (mloadOp f s)

/-- `msave` (07 R188): the bytes land from the engine. -/
def msaveOp (f : MA) (s : State) : Res State :=
  let bk := f.bk.toNat
  gather (do
    needLegal s ((bankOf s.core bk).block == (f.ty == 7))
    let a ← readS f.reg s
    let o := imgOff a (f.ctl.extractLsb' 0 12).toNat
    let fe := (f.ctl.extractLsb' 12 2).toNat
    spadWriteCheck (intOffs o 1024) fe o s
    ownBank bk s
    roomM s
    .ok (enqueueM true (.save bk o.toNat fe (dueAt s 8)) (bankStatus bk (fun b => { b with live := false }) s)))
    [stopOf (readS f.reg s), stopOf (ownBank bk s)]
def execMsave (f : MA) (s : State) : Host.Outcome State Fault Refusal := issue s (msaveOp f s)

/-- Whether the engine still has an operation on a bank. -/
def engineHas (c : Core) (now bk : Nat) : Bool := c.mq.any (fun o => o.op.bank == bk) || (now < c.mBusy && c.mOn == bk)

/-- `mlend` (07 R189). -/
def mlendOp (f : MA) (s : State) : Res State := do
  let bk := f.bk.toNat
  ownBank bk s
  need s (!engineHas s.core s.now bk) cLend (word bk)
  roomM s
  let cpy := f.ctl.getLsbD 0
  .ok (enqueueM true (.lend bk) (bankStatus bk (fun b => { b with lent := true, toCopy := cpy, live := true }) (noteBank bk s)))
def execMlend (f : MA) (s : State) : Host.Outcome State Fault Refusal := issue s (mlendOp f s)

/-- Whether a borrower has begun a write to a bank that has not completed. -/
def borrowerBusy (s : State) (bk : Nat) : Bool :=
  s.core.sq.any (fun o => o.op.bank == bk) || (s.now < s.core.sBusy && s.core.sOn == bk) ||
    s.loads.any (fun l => l.core == s.core.id && l.bk == bk)

/-- `mrecl` (07 R190). -/
def mreclOp (f : MA) (s : State) : Res State := do
  let bk := f.bk.toNat
  need s (bankOf s.core bk).lent cOwner (word bk)
  stallUnless (!borrowerBusy s bk)
  roomM s
  .ok (enqueueM true (.recl bk) (bankStatus bk (fun b => { b with lent := false, toCopy := false }) (noteBank bk s)))
def execMrecl (f : MA) (s : State) : Host.Outcome State Fault Refusal := issue s (mreclOp f s)

/-- `mrealn` (07 R191). -/
def mrealnOp (f : MA) (s : State) : Res State :=
  let bk := f.bk.toNat
  gather (do
    needLegal s (bankOf s.core bk).block
    let t ← readS f.reg s
    ownBank bk s
    roomM s
    let target : Option Nat := if f.ctl.getLsbD 4 then none else some (max 0 (min 254 t.toInt)).toNat
    .ok (enqueueM true (.realn bk (f.ctl.extractLsb' 0 4).toNat target) (bankStatus bk (fun b => { b with live := true }) s)))
    [stopOf (readS f.reg s), stopOf (ownBank bk s)]
def execMrealn (f : MA) (s : State) : Host.Outcome State Fault Refusal := issue s (mrealnOp f s)

end Sys2Proof.Machine
end

