-- ==== Sys2Proof/Machine/Scalar.lean ====
section
/-! DEFINITION. Integer, logical, bit-field, immediate and comparison instructions of the S slot (03 R78-R84). -/

namespace Sys2Proof.Machine

/-! ### Shared forms -/

/-- rd := op(ra, rb), landing in a class (03 R78). -/
def alu2 (cls : Nat) (op : Word → Word → Word) (f : SR) (s : State) : Res State :=
  gather (do
    let a ← readS f.ra s
    let b ← readS f.rb s
    .ok (writeS f.rd cls (op a b) 0 s)) [stopOf (readS f.rb s)]

/-- rd := op(ra). -/
def alu1 (op : Word → Word) (f : SR) (s : State) : Res State := do
  let a ← readS f.ra s
  .ok (writeS f.rd 0 (op a) 0 s)

/-- rd := op(ra, imm), the immediate sign-extended (03 R81). -/
def aluI (op : Word → Word → Word) (f : SI) (s : State) : Res State := do
  let a ← readS f.ra s
  .ok (writeS f.rd 0 (op a (sx f.imm)) 0 s)

/-- A divide waits at issue while one is outstanding (03 R80). -/
def divideFree (s : State) : Res Unit := stallUnless (!(s.core.st.vls.any (·.div)))

/-- Variable-latency quotient or remainder (03 R80): one divide at a time. -/
def divide (op : Word → Word → Word) (f : SR) (s : State) : Res State :=
  gather (do
    let a ← readS f.ra s
    let b ← readS f.rb s
    divideFree s
    .ok (produceVal f.rd (op a b) s.now true s)) [stopOf (readS f.rb s), stopOf (divideFree s)]

/-- 1 when a relation holds, else 0 (03 R82). -/
def flagWord (b : Bool) : Word := if b then 1 else 0

def wMulh (a b : Word) : Word := BitVec.ofInt 64 (a.toInt * b.toInt / 2 ^ 64)
def wMulhu (a b : Word) : Word := BitVec.ofNat 64 (a.toNat * b.toNat / 2 ^ 64)
/-- Signed quotient truncating toward zero; −1 for a divisor of 0 (03 R80). -/
def wDiv (a b : Word) : Word := if b = 0 then -1 else BitVec.ofInt 64 (a.toInt.tdiv b.toInt)
def wRem (a b : Word) : Word := if b = 0 then a else BitVec.ofInt 64 (a.toInt.tmod b.toInt)
def wDivu (a b : Word) : Word := if b = 0 then -1 else BitVec.ofNat 64 (a.toNat / b.toNat)
def wRemu (a b : Word) : Word := if b = 0 then a else BitVec.ofNat 64 (a.toNat % b.toNat)
/-- A shift by the low six bits of a count. -/
def wShl (a b : Word) : Word := a <<< (b.toNat % 64)
def wShr (a b : Word) : Word := a >>> (b.toNat % 64)
def wSar (a b : Word) : Word := a.sshiftRight (b.toNat % 64)
def wMin (a b : Word) : Word := if a.toInt ≤ b.toInt then a else b
def wMax (a b : Word) : Word := if a.toInt ≤ b.toInt then b else a
def wMinu (a b : Word) : Word := if a.toNat ≤ b.toNat then a else b
def wMaxu (a b : Word) : Word := if a.toNat ≤ b.toNat then b else a
/-- Number of leading zero bits; 64 for 0. -/
def wClz (a : Word) : Word := if a = 0 then 64 else BitVec.ofNat 64 (63 - a.toNat.log2)
def wPopc (a : Word) : Word := BitVec.ofNat 64 (popcount a.toNat 64)
/-- Replace bits [63:32] by the immediate's low half. -/
def wMovhi (a i : Word) : Word := (i <<< 32) ||| (a &&& 0xFFFFFFFF)

/-! ### The instructions -/

def execAdd (f : SR) (s : State) : Host.Outcome State Fault Refusal := issue s (alu2 0 (· + ·) f s)
def execSub (f : SR) (s : State) : Host.Outcome State Fault Refusal := issue s (alu2 0 (· - ·) f s)
def execMul (f : SR) (s : State) : Host.Outcome State Fault Refusal := issue s (alu2 1 (· * ·) f s)
def execMulh (f : SR) (s : State) : Host.Outcome State Fault Refusal := issue s (alu2 1 wMulh f s)
def execMulhu (f : SR) (s : State) : Host.Outcome State Fault Refusal := issue s (alu2 1 wMulhu f s)
def execDiv (f : SR) (s : State) : Host.Outcome State Fault Refusal := issue s (divide wDiv f s)
def execDivu (f : SR) (s : State) : Host.Outcome State Fault Refusal := issue s (divide wDivu f s)
def execRem (f : SR) (s : State) : Host.Outcome State Fault Refusal := issue s (divide wRem f s)
def execRemu (f : SR) (s : State) : Host.Outcome State Fault Refusal := issue s (divide wRemu f s)
def execAnd (f : SR) (s : State) : Host.Outcome State Fault Refusal := issue s (alu2 0 (· &&& ·) f s)
def execOr (f : SR) (s : State) : Host.Outcome State Fault Refusal := issue s (alu2 0 (· ||| ·) f s)
def execXor (f : SR) (s : State) : Host.Outcome State Fault Refusal := issue s (alu2 0 (· ^^^ ·) f s)
def execShl (f : SR) (s : State) : Host.Outcome State Fault Refusal := issue s (alu2 0 wShl f s)
def execShr (f : SR) (s : State) : Host.Outcome State Fault Refusal := issue s (alu2 0 wShr f s)
def execSar (f : SR) (s : State) : Host.Outcome State Fault Refusal := issue s (alu2 0 wSar f s)
def execMin (f : SR) (s : State) : Host.Outcome State Fault Refusal := issue s (alu2 0 wMin f s)
def execMax (f : SR) (s : State) : Host.Outcome State Fault Refusal := issue s (alu2 0 wMax f s)
def execMinu (f : SR) (s : State) : Host.Outcome State Fault Refusal := issue s (alu2 0 wMinu f s)
def execMaxu (f : SR) (s : State) : Host.Outcome State Fault Refusal := issue s (alu2 0 wMaxu f s)
def execClz (f : SR) (s : State) : Host.Outcome State Fault Refusal := issue s (alu1 wClz f s)
def execPopc (f : SR) (s : State) : Host.Outcome State Fault Refusal := issue s (alu1 wPopc f s)

/-- `sel` (03 R79) reads all three sources. -/
def selOp (f : SR) (s : State) : Res State :=
  gather (do
    let a ← readS f.ra s
    let b ← readS f.rb s
    let c ← readS f.rc s
    .ok (writeS f.rd 0 (if a = 0 then c else b) 0 s)) [stopOf (readS f.rb s), stopOf (readS f.rc s)]
def execSel (f : SR) (s : State) : Host.Outcome State Fault Refusal := issue s (selOp f s)

def execAddi (f : SI) (s : State) : Host.Outcome State Fault Refusal := issue s (aluI (· + ·) f s)
def execAndi (f : SI) (s : State) : Host.Outcome State Fault Refusal := issue s (aluI (· &&& ·) f s)
def execOri (f : SI) (s : State) : Host.Outcome State Fault Refusal := issue s (aluI (· ||| ·) f s)
def execXori (f : SI) (s : State) : Host.Outcome State Fault Refusal := issue s (aluI (· ^^^ ·) f s)
def execShli (f : SI) (s : State) : Host.Outcome State Fault Refusal := issue s (aluI wShl f s)
def execShri (f : SI) (s : State) : Host.Outcome State Fault Refusal := issue s (aluI wShr f s)
def execSari (f : SI) (s : State) : Host.Outcome State Fault Refusal := issue s (aluI wSar f s)
def execMovi (f : SW) (s : State) : Host.Outcome State Fault Refusal := issue s (.ok (writeS f.rd 0 (sx f.imm) 0 s))
def execMovhi (f : SI) (s : State) : Host.Outcome State Fault Refusal := issue s (aluI wMovhi f s)
def execCeqi (f : SI) (s : State) : Host.Outcome State Fault Refusal := issue s (aluI (fun a i => flagWord (a == i)) f s)
def execClti (f : SI) (s : State) : Host.Outcome State Fault Refusal := issue s (aluI (fun a i => flagWord (a.slt i)) f s)

def execCeq (f : SR) (s : State) : Host.Outcome State Fault Refusal := issue s (alu2 0 (fun a b => flagWord (a == b)) f s)
def execCne (f : SR) (s : State) : Host.Outcome State Fault Refusal := issue s (alu2 0 (fun a b => flagWord (a != b)) f s)
def execClt (f : SR) (s : State) : Host.Outcome State Fault Refusal := issue s (alu2 0 (fun a b => flagWord (a.slt b)) f s)
def execCle (f : SR) (s : State) : Host.Outcome State Fault Refusal := issue s (alu2 0 (fun a b => flagWord (a.sle b)) f s)
def execCltu (f : SR) (s : State) : Host.Outcome State Fault Refusal := issue s (alu2 0 (fun a b => flagWord (a.ult b)) f s)
def execCleu (f : SR) (s : State) : Host.Outcome State Fault Refusal := issue s (alu2 0 (fun a b => flagWord (a.ule b)) f s)

/-- A mask of len low bits. -/
def lowMask (len : Nat) : Word := BitVec.ofNat 64 (2 ^ len - 1)
/-- ra[pos+len−1:pos], zero-extended (03 R83). -/
def wExt (pos len : Nat) (a : Word) : Word := (a >>> pos) &&& lowMask len
/-- The old value with len bits from pos replaced. -/
def wIns (pos len : Nat) (old a : Word) : Word := (old &&& ~~~(lowMask len <<< pos)) ||| ((a &&& lowMask len) <<< pos)

def extOp (f : SF) (s : State) : Res State := do
  let a ← readS f.ra s
  .ok (writeS f.rd 0 (wExt f.pos.toNat f.len.toNat a) 0 s)
def execExt (f : SF) (s : State) : Host.Outcome State Fault Refusal := issue s (extOp f s)

/-- `ins` (03 R83) also reads rd, under empty policy 0. -/
def insOp (f : SF) (s : State) : Res State :=
  gather (do
    let a ← readS f.ra s
    let old ← readS (f.rd &&& 31) s
    .ok (writeS f.rd 0 (wIns f.pos.toNat f.len.toNat old a) 0 s)) [stopOf (readS (f.rd &&& 31) s)]
def execIns (f : SF) (s : State) : Host.Outcome State Fault Refusal := issue s (insOp f s)

/-- `lea` (03 R84). -/
def leaOp (f : SL) (s : State) : Res State :=
  gather (do
    let a ← readS f.ra s
    let b ← readS f.rb s
    .ok (writeS f.rd 0 (a + (b <<< f.sh.toNat) + sx f.disp) 0 s)) [stopOf (readS f.rb s)]
def execLea (f : SL) (s : State) : Host.Outcome State Fault Refusal := issue s (leaOp f s)

end Sys2Proof.Machine
end

