-- ==== Sys2Proof/Machine/Spline.lean ====
section
/-! DEFINITION. The spline instructions as they issue (08 R194-R208). -/

namespace Sys2Proof.Machine

/-- A knot register at issue. -/
def knot (s : State) (n : Nat) : Word := s.core.st.a.knots[n]?.getD 0

/-- The check of all four knot registers (08 R194, R200): the lowest-numbered invalid one is named. -/
def knotsOk (s : State) : Res Unit :=
  match (List.range 4).find? fun n => !knotValid n (knot s n) with
  | some n => raise s cKnot (word n)
  | none => .ok ()

/-- `knset` writes at the end of its bundle. -/
def knsetOp (f : MA) (s : State) : Res State := do
  let a ← readS f.reg s
  .ok (mapCtx (fun c => { c with ends := c.ends ++ [.knset f.bd.toNat a] }) s)
def execKnset (f : MA) (s : State) : Host.Outcome State Fault Refusal := issue s (knsetOp f s)

def kngetOp (f : MA) (s : State) : State := writeS f.reg 0 (knot s f.bd.toNat) 0 s
def execKnget (f : MA) (s : State) : Host.Outcome State Fault Refusal := issue s (.ok (kngetOp f s))

/-- Row, qualifier and offset in the control field (08 R198). -/
def splRow (f : MA) : Nat := (f.ctl.extractLsb' 0 4).toNat
def splFe (f : MA) : Nat := (f.ctl.extractLsb' 4 2).toNat
def splOff (f : MA) (a : Word) : Word := imgOff a (f.ctl.extractLsb' 6 8).toNat

/-- `splld` (08 R206): a bf16 image unchanged, an f32 image converted with one draw per element. -/
def splldOp (f : MA) (s : State) : Res State := do
  let a ← readS f.reg s
  let o := splOff f a
  let f32 := f.ty == 0
  let (bs, s) ← spadRead (intOffs o (if f32 then 2048 else 1024)) (splFe f) o s
  roomS s
  if f32 then
    let (rs, s) := draws f.rnd.toNat 512 s
    let (vs, fl) := convLanes ((wordsOf 4 bs).map (valueOf 0)) 1 f.rnd.toNat rs
    .ok (enqueueS (.ld (splRow f) vs true) fl s)
  else .ok (enqueueS (.ld (splRow f) (wordsOf 2 bs) false) 0 s)
def execSplld (f : MA) (s : State) : Host.Outcome State Fault Refusal := issue s (splldOp f s)

/-- `splst` and `splgx` (08 R205, R206): checked at issue, written by the array. -/
def splstOp (op : Nat → Nat → Option Nat → SOp) (n : Nat) (f : MA) (s : State) : Res State := do
  let a ← readS f.reg s
  let o := splOff f a
  spadWriteCheck (intOffs o n) (splFe f) o s
  roomS s
  .ok (enqueueS (op o.toNat (splFe f) (dueAt s 9)) 0 s)
def execSplst (f : MA) (s : State) : Host.Outcome State Fault Refusal :=
  issue s (splstOp (fun o fe d => .st (splRow f) o fe (f.tyd == 0) d) (if f.tyd == 0 then 2048 else 1024) f s)
def execSplgx (f : MA) (s : State) : Host.Outcome State Fault Refusal :=
  issue s (splstOp (fun o fe d => .gx (splRow f) o fe (f.tyd == 0) d) 2048 f s)

/-- The output bank (08 R201): the lowest or second-lowest bank lent to the spline array. -/
def splBank (ob : Bool) (s : State) : Option Nat :=
  let bs := (List.range 8).filter fun b => (bankOf s.core b).lent && !(bankOf s.core b).toCopy
  if ob then bs[1]? else bs[0]?

/-- The output bank of `splev` and `splbwd`, or the fault its absence or its mode raises. -/
def needBank (ob : Bool) (s : State) : Res Nat :=
  match splBank ob s with
  | none => raise s cOwner 8
  | some b => do
    needLegal s (!(bankOf s.core b).block)
    .ok b

/-- The first 16 elements of a source. -/
def src16 (sel : BitVec 6) (ty : Nat) (s : State) : Res (List XV × State) := do
  let (v, s) ← srcVec sel ty s
  .ok ((elemsOf ty v).take 16, s)

def splevOp (f : MA) (s : State) : Res State :=
  let ob := f.ctl.getLsbD 5
  gather (do
    let b ← needBank ob s
    knotsOk s
    roomS s
    let (xs, s) ← src16 f.va f.ty.toNat s
    .ok (enqueueS (.ev b (splRow f) (f.ctl.getLsbD 4) (knot s 0) (knot s 1) (knot s 2) (knot s 3) xs) 0 s))
    [stopOf (knotsOk s), stopOf (srcVec f.va f.ty.toNat s)]
def execSplev (f : MA) (s : State) : Host.Outcome State Fault Refusal := issue s (splevOp f s)

def splbwdOp (f : MA) (s : State) : Res State :=
  let ob := f.ctl.getLsbD 5
  gather (do
    let b ← needBank ob s
    knotsOk s
    roomS s
    let (xs, s) ← src16 f.va 0 s
    let (dy, s) ← src16 f.vb 0 s
    .ok (enqueueS (.bwd b (splRow f) (f.ctl.getLsbD 4) (knot s 0) (knot s 1) (knot s 2) (knot s 3) xs dy) 0 s))
    [stopOf (knotsOk s), stopOf (srcVec f.va 0 s), stopOf (srcVec f.vb 0 s)]
def execSplbwd (f : MA) (s : State) : Host.Outcome State Fault Refusal := issue s (splbwdOp f s)

def splgsOp (f : MA) (s : State) : Res State :=
  gather (do
    knotsOk s
    roomS s
    let (xs, s) ← src16 f.va 0 s
    let (dy, s) ← src16 f.vb 0 s
    .ok (enqueueS (.gs (knot s 0) (knot s 1) (knot s 2) (knot s 3) xs dy) 0 s))
    [stopOf (srcVec f.va 0 s), stopOf (srcVec f.vb 0 s)]
def execSplgs (f : MA) (s : State) : Host.Outcome State Fault Refusal := issue s (splgsOp f s)

def splgzOp (s : State) : Res State := do
  roomS s
  .ok (enqueueS .gz 0 s)
def execSplgz (s : State) : Host.Outcome State Fault Refusal := issue s (splgzOp s)

/-- k0 after a refinement (08 R207): G doubled, HX one less. -/
def refineK0 (k : Word) : Word :=
  let hx := ubits 8 (k0Hx k - 1)
  word (k.toNat - bits k.toNat 39 32 * 2 ^ 32 - k0G k * 2 ^ 40 + hx * 2 ^ 32 + 2 * k0G k * 2 ^ 40)

def gridrefOp (s : State) : Res State := do
  let k := knot s 0
  need s (knotValid 0 k && k0G k ≤ 14 && k0Hx k != -64) cKnot 0
  roomS s
  .ok (enqueueS (.ref (k0G k)) 0 (mapArch (fun a => { a with knots := a.knots.setIfInBounds 0 (refineK0 k) }) s))
def execGridref (s : State) : Host.Outcome State Fault Refusal := issue s (gridrefOp s)

/-- `splcnt` (08 R208): the count lands in class LC9 from the array. -/
def splcntOp (f : MA) (s : State) : Res State := do
  roomS s
  .ok (enqueueS (.cnt (f.reg.setWidth 5) (f.ctl.getLsbD 0) (f.ctl.getLsbD 1) (dueAt s 9)) 0 s)
def execSplcnt (f : MA) (s : State) : Host.Outcome State Fault Refusal := issue s (splcntOp f s)

end Sys2Proof.Machine
end

