-- ==== Sys2Proof/Machine/Tiles.lean ====
section
/-! DEFINITION. Tensor tiles (09 R216-R224): geometry, memory layout, governed decoding, tile loads into scratchpad images and tile
stores into the store-hold buffer. -/

namespace Sys2Proof.Machine

/-! ### Geometry and layout -/

/-- The tensor elements of a tile in image order (09 R216). -/
def tileElems (blk trn : Bool) (r0 c0 : Nat) : List (Nat × Nat) :=
  if blk then (List.range 256).map fun k => (r0 + k / 32, c0 + k % 32)
  else (List.range 256).map fun k => if trn then (r0 + k % 16, c0 + k / 16) else (r0 + k / 16, c0 + k % 16)

/-- An element inside the tensor. -/
def inTensor (h : BitVec 256) (p : Nat × Nat) : Bool := p.1 < hRows h && p.2 < hCols h

/-- The memory format that fixes the layout (09 R217): FMT, or the class of a governed tile. -/
def layoutFmt (h : BitVec 256) (blk : Bool) : Nat := if hGov h then (if blk then 4 else 2) else hFmt h

/-- Bytes of an element of a memory format. -/
def elemBytes (ty : Nat) : Nat := match ty with | 0 => 4 | 6 => 4 | 1 => 2 | _ => 1

/-- The address of an element's code (09 R217). -/
def codeVa (h : BitVec 256) (ty : Nat) (p : Nat × Nat) : Nat :=
  hBase h + p.1 * hStride h + (if ty = 4 then p.2 / 2 else elemBytes ty * p.2)
/-- The address of an mx4 element's block scale. -/
def scaleVa (h : BitVec 256) (p : Nat × Nat) : Nat := hBase h + p.1 * hStride h + hCols h / 2 + p.2 / 32

/-- Add n bytes of one line to chunks in rising order; chunks of one line that touch are joined. -/
def addChunk (va n : Nat) : List (Nat × Nat) → List (Nat × Nat)
  | [] => [(va, n)]
  | (a, m) :: t =>
    if va / 64 = a / 64 && va ≤ a + m && a ≤ va + n then
      addChunk (Nat.min a va) (Nat.max (a + m) (va + n) - Nat.min a va) t
    else if va < a then (va, n) :: (a, m) :: t
    else (a, m) :: addChunk va n t

/-- The same for bytes that may cross a line. -/
def addBytes (va n : Nat) (cs : List (Nat × Nat)) : List (Nat × Nat) :=
  let k := 64 - va % 64
  if n ≤ k then addChunk va n cs else addChunk (va + k) (n - k) (addChunk va k cs)

/-- The chunks that hold some elements. -/
def elemChunks (h : BitVec 256) (ty : Nat) (ps : List (Nat × Nat)) : List (Nat × Nat) :=
  ps.foldl (fun cs p =>
    let cs := addBytes (codeVa h ty p) (elemBytes ty) cs
    if ty = 4 then addChunk (scaleVa h p) 1 cs else cs) []

/-- A byte among read chunks. -/
def byteIn (m : List (Nat × List Byte)) (va : Nat) : Nat :=
  ((m.find? fun e => e.1 ≤ va && va < e.1 + e.2.length).map fun e => (e.2.getD (va - e.1) 0).toNat).getD 0
/-- A little-endian number among read chunks. -/
def numIn (m : List (Nat × List Byte)) (va n : Nat) : Nat :=
  ((List.range n).map fun i => byteIn m (va + i) * 2 ^ (8 * i)).foldl (· + ·) 0

/-- The bits of an element: its code. -/
def codeIn (h : BitVec 256) (ty : Nat) (m : List (Nat × List Byte)) (p : Nat × Nat) : Nat :=
  let b := numIn m (codeVa h ty p) (elemBytes ty)
  if ty = 4 then (if p.2 % 2 = 0 then b % 16 else b / 16) else b

/-! ### Checks -/

/-- The handle forms that raise the illegal-encoding trap at execution (09 R216, R217). -/
def tileLegal (h : BitVec 256) (blk : Bool) : Bool :=
  !(hTrn h && blk) && (hGov h || (hFmt h != 7 && ((hFmt h == 4) == blk)))

/-- The alignment of R217. -/
def tileAligned (h : BitVec 256) (blk : Bool) (c0 : Nat) : Bool :=
  let w := elemBytes (hFmt h)
  (if hGov h then hBase h % 256 = 0 && hStride h % 256 = 0 else hBase h % w = 0 && hStride h % w = 0) &&
    (if blk then hCols h % 32 = 0 && c0 % 32 = 0 else !hGov h || c0 % 16 = 0)

/-- The access errors that a tile's layout gives before any byte is read: alignment (09 R217), and governed data in pool memory
(11 R262). -/
def tileErrs (h : BitVec 256) (blk : Bool) (r0 c0 : Nat) (acc : Acc) (cs : List (Nat × Nat)) (s : State) : List MemErr :=
  (if tileAligned h blk c0 then [] else [.access ((hBase h + r0 * hStride h) % 2 ^ 64)]) ++
    (if hGov h then cs.filterMap fun (va, _) => match coreXlate acc va s with
      | .ok ((pa, _), _) => if isPool pa then some (.access va) else none
      | .error _ => none
    else [])

/-- The operands of a tile instruction. -/
structure TileArgs where
  h : BitVec 256
  blk : Bool
  r0 : Nat
  c0 : Nat
deriving DecidableEq, Repr

def tileArgs (f : LS) (s : State) : Res TileArgs :=
  gather (do
    let h ← readH f.h s
    let r ← readS f.base s
    let c ← readS f.idx s
    .ok ⟨h, f.sz == 1, r.toNat, c.toNat⟩) [stopOf (readH f.h s), stopOf (readS f.base s), stopOf (readS f.idx s)]

/-- The stop of a tile instruction whose form the handle makes illegal, whatever its other operands (01 R34); `ok` is what the
instruction asks of the handle. -/
def formStop (f : LS) (ok : BitVec 256 → Bool) (s : State) : Option Stop :=
  stopOf (do let h ← readH f.h s; needLegal s (tileLegal h (f.sz == 1) && ok h))

/-- The elements of a tile inside its tensor. -/
def TileArgs.inside (t : TileArgs) : List (Nat × Nat) := (tileElems t.blk (hTrn t.h) t.r0 t.c0).filter (inTensor t.h)

/-- A tile's bytes as the region reads them (09 R223, R224; 12 R271). -/
def readTile (t : TileArgs) (s : State) : Except MemErr (List (Nat × List Byte) × State) := do
  let cs := elemChunks t.h (layoutFmt t.h t.blk) t.inside
  let (bs, s') ← globalReadWith .rd true (tileErrs t.h t.blk t.r0 t.c0 .rd cs s) cs s
  .ok ((cs.map (·.1)).zip bs, s')

/-- The watermark that comes with each chunk of a read, as the chunks are read in turn: address, length and watermark. -/
def chunkMarks : List (Nat × Nat) → State → List (Nat × Nat × Nat)
  | [], _ => []
  | (va, n) :: t, s =>
    match coreXlate .rd va s with
    | .error _ => chunkMarks t s
    | .ok ((pa, imm), s) => (va, n, regionMark s pa) :: (match regionLine (pa / 64) imm s with
      | .ok (_, s) => chunkMarks t s
      | .error _ => [])
/-- The watermarks of a tile's bytes. -/
def tileMarks (t : TileArgs) (s : State) : List (Nat × Nat × Nat) := chunkMarks (elemChunks t.h (layoutFmt t.h t.blk) t.inside) s
/-- The watermark of the byte at an address. -/
def markAt (ms : List (Nat × Nat × Nat)) (va : Nat) : Option Nat := (ms.find? fun e => e.1 ≤ va && va < e.1 + e.2.1).map (·.2.2)

/-! ### Governed decoding -/

/-- The ring entry that an element's version or watermark names (09 R218). -/
def namedEntry (t : TileArgs) (r : Rec) (ms : List (Nat × Nat × Nat)) (p : Nat × Nat) : Option Ent :=
  if hPinv t.h ≠ 0 then r.entry fun e => e.v == hPinv t.h
  else (markAt ms (if t.blk then scaleVa t.h p else codeVa t.h 2 p)).bind fun w => r.entry fun e => e.v % 16 == w

/-- The ring entry an element decodes under, or the address that a stale-watermark fault names (09 R218). `first` is the address of the
tile's first element. -/
def entryOf (t : TileArgs) (r : Rec) (first : Nat) (ms : List (Nat × Nat × Nat)) (p : Nat × Nat) : Except Nat Ent :=
  let va := if t.blk then scaleVa t.h p else codeVa t.h 2 p
  let leaf := va / 256 * 256
  let fits (e : Ent) : Bool := if t.blk then e.f == 4 else e.f == 2 || e.f == 3
  match namedEntry t r ms p with
  | some e => if fits e then .ok e else .error (if hPinv t.h ≠ 0 then first else leaf)
  | none => .error (if hPinv t.h ≠ 0 then first else leaf)

/-- The lowest address among stale elements. -/
def staleVa (es : List (Except Nat Ent)) : Option Nat :=
  es.foldl (fun b e => match e, b with
    | .error a, some c => some (Nat.min a c)
    | .error a, none => some a
    | .ok _, b => b) none

/-! ### Tile loads -/

/-- The image's size in bytes and its offsets: 4 vectors for an mx4 image, else 16 rows. -/
def imgBytes (ty : Nat) : Nat := if ty = 4 then 256 else 1024

/-- The image offset (09 R216). -/
def tileOff (f : LS) (s : State) : Res Word := do
  let a ← readS (f0Reg f) s
  .ok ((a + sx f.disp) &&& ~~~63)

/-- Issue the rows of an image: each lands as its data arrive (09 R224). -/
def issueImg (off : Nat) (full : Bool) : List (Vec × Flags) → State → State
  | [], s => s
  | (v, fl) :: t, s =>
    let (i, s) := freshId s
    let s := mapSt (fun k => { k with
      imgs := k.imgs ++ [⟨i, k.seq, (offsFrom off 64).zip (vecBytes v), full, fl⟩], seq := k.seq + 1 }) s
    let (d, s) := freeDelay s
    issueImg (off + 64) full t (due (s.now + d) (.imageLanding s.core.id i) s)

/-- A row of 16 elements of a width in bits; the rest of the row is 0. -/
def rowVec (w : Nat) (xs : List Nat) : Vec := ofLanes w (xs ++ List.replicate (512 / w - 16) 0)

/-- The mx4 vectors of 8 blocks. -/
def blockVecs : List ((Nat × List Nat) × Flags) → List (Vec × Flags)
  | a :: b :: t => (mx4Vec a.1 b.1, a.2 ||| b.2) :: blockVecs t
  | _ => []

/-- An element's value in memory before its scale exponent applies. -/
def tileValue (t : TileArgs) (m : List (Nat × List Byte)) (f : Nat) (p : Nat × Nat) : XV :=
  if t.blk then mx4Value (byteIn m (scaleVa t.h p)) (codeIn t.h 4 m p) else valueOf f (codeIn t.h f m p)

/-- One block of an mx4 image (09 R219): codes copied when the scale exponent fits, else encoded again. -/
def gldBlock (t : TileArgs) (m : List (Nat × List Byte)) (rnd : Nat) (x : (Nat × Nat) × Int) (rs : List Nat) :
    (Nat × List Nat) × Flags :=
  let ps := (List.range 32).map fun c => (x.1.1, x.1.2 + c)
  if !inTensor t.h x.1 then ((0, List.replicate 32 0), 0)
  else
    let sc := byteIn m (scaleVa t.h x.1)
    if sc ≠ 255 && 0 ≤ (sc : Int) + x.2 && (sc : Int) + x.2 ≤ 254 then
      ((((sc : Int) + x.2).toNat, ps.map (codeIn t.h 4 m)), 0)
    else
      let r := mx4Encode (ps.map fun p => (tileValue t m 4 p).scale x.2) rnd rs
      ((r.1, r.2.1), r.2.2)

/-- The rows of a `gld` image. `ents` gives each element's entry. -/
def gldRows (t : TileArgs) (ty rnd : Nat) (m : List (Nat × List Byte)) (ents : List Ent) (rs : List Nat) : List (Vec × Flags) :=
  let ps := tileElems t.blk (hTrn t.h) t.r0 t.c0
  if ty = 4 then
    blockVecs ((List.range 8).map fun j =>
      gldBlock t m rnd (ps.getD (32 * j) (0, 0), (ents.getD (32 * j) ⟨0, 0, 4⟩).e) ((rs.drop (32 * j)).take 32))
  else
    let xs := (ps.zip ents).map fun (p, en) => if inTensor t.h p then (tileValue t m en.f p).scale en.e else .zero
    let rows := chunksOf 16 16 xs
    let draws := chunksOf 16 16 rs
    (List.range 16).map fun i =>
      let (ls, fl) := convLanes (rows.getD i []) ty rnd (draws.getD i [])
      (rowVec (widthOf ty) ls, fl)

/-- MX4 if some element of a governed load decodes under an mx4 entry, for the migrate trap (17 R378). -/
def tileFmt (t : TileArgs) (r : Option Rec) (ms : List (Nat × Nat × Nat)) : Nat :=
  if r.any fun q => t.inside.any fun p => (namedEntry t q ms p).any fun e => e.f == 4 then 4 else 2

/-- `gld` (09 R219). A governed one whose tile lies wholly outside the tensor reads and leases its record all the same (DESIGN CHOICE, log
entry 156). -/
def gldOp (f : LS) (s : State) : Res State :=
  let ty := f.ty.toNat
  let fe := f.fe.toNat
  gather (do
    let t ← tileArgs f s
    let o ← tileOff f s
    needLegal s (tileLegal t.h t.blk)
    spadWriteCheck (spadOffs o (imgBytes ty)) fe o s
    let (r, s) ← (if hGov t.h then do
        let (r, s) ← liftMem s (readRec (hTmr t.h) s)
        .ok (some r, s)
      else .ok (none, s) : Res (Option Rec × State))
    let ms := tileMarks t s
    let (m, s) ← liftMem s (readTile t s)
    let ps := tileElems t.blk (hTrn t.h) t.r0 t.c0
    let first := codeVa t.h (layoutFmt t.h t.blk) (t.r0, t.c0)
    let es : List (Except Nat Ent) := match r with
      | none => ps.map fun _ => .ok ⟨0, 0, hFmt t.h⟩
      | some r => ps.map fun p => if inTensor t.h p then entryOf t r first ms p else .ok ⟨0, 0, layoutFmt t.h t.blk⟩
    needFmt s (tileFmt t r ms)
    match staleVa es with
    | some va => raise s cStale (word va)
    | none =>
      let ents := es.map fun e => match e with | .ok e => e | .error _ => ⟨0, 0, 0⟩
      let (rs, s) := draws f.rnd.toNat 256 s
      .ok (issueImg o.toNat (fe != 0) (gldRows t ty f.rnd.toNat m ents rs) s))
    [stopOf (tileArgs f s), stopOf (tileOff f s), formStop f (fun _ => true) s,
     stopOf (do let o ← tileOff f s; spadWriteCheck (spadOffs o (imgBytes ty)) fe o s),
     stopOf (do
       let h ← readH f.h s
       if hGov h then (do let _ ← liftMem s (readRec (hTmr h) s); .ok ()) else .ok ()),
     stopOf (do
       let t ← tileArgs f s
       if hGov t.h then (do let (r, s) ← liftMem s (readRec (hTmr t.h) s); needFmt s (tileFmt t (some r) (tileMarks t s))) else .ok ()),
     stopOf (do let t ← tileArgs f s; let _ ← liftMem s (readTile t s); .ok ())]
def execGld (f : LS) (s : State) : Host.Outcome State Fault Refusal := issue s (gldOp f s)

/-- The type field of `gldr` and `gstr` (09 R220, R222). -/
def rawTyOk (f : LS) (h : BitVec 256) : Bool := f.ty.toNat == (if hGov h then 15 else hFmt h)

/-- `gldr` (09 R220): bits unchanged. -/
def gldrOp (f : LS) (s : State) : Res State :=
  let fe := f.fe.toNat
  let img (t : TileArgs) : Nat := imgBytes (if t.blk then 4 else 0)
  gather (do
    let t ← tileArgs f s
    let o ← tileOff f s
    needLegal s (tileLegal t.h t.blk && rawTyOk f t.h)
    spadWriteCheck (spadOffs o (img t)) fe o s
    let (m, s) ← liftMem s (readTile t s)
    let ps := tileElems t.blk (hTrn t.h) t.r0 t.c0
    let ty := layoutFmt t.h t.blk
    let code (p : Nat × Nat) : Nat := if inTensor t.h p then codeIn t.h ty m p else 0
    let rows : List (Vec × Flags) :=
      if t.blk then
        blockVecs ((List.range 8).map fun j =>
          let p := ps.getD (32 * j) (0, 0)
          (((if inTensor t.h p then byteIn m (scaleVa t.h p) else 0), ((ps.drop (32 * j)).take 32).map code), (0 : Flags)))
      else (chunksOf 16 16 (ps.map code)).map fun r => (rowVec (8 * elemBytes ty) r, 0)
    .ok (issueImg o.toNat (fe != 0) rows s))
    [stopOf (tileArgs f s), stopOf (tileOff f s), formStop f (rawTyOk f) s,
     stopOf (do let t ← tileArgs f s; let o ← tileOff f s; spadWriteCheck (spadOffs o (img t)) fe o s),
     stopOf (do let t ← tileArgs f s; let _ ← liftMem s (readTile t s); .ok ())]
def execGldr (f : LS) (s : State) : Host.Outcome State Fault Refusal := issue s (gldrOp f s)

/-! ### Tile stores -/

/-- The tensor elements that a vector of n elements carries (09 R221). -/
def carried (t : TileArgs) (n : Nat) : List (Nat × Nat) :=
  (List.range n).map fun k =>
    if t.blk then (t.r0 + k / 32, t.c0 + k % 32)
    else if hTrn t.h then (t.r0 + k % 16, t.c0 + k / 16) else (t.r0 + k / 16, t.c0 + k % 16)

/-- The bytes written within one aligned block: its address, its data and its mask. -/
structure Blk where
  va : Nat
  data : Vec
  mask : BitVec 64
deriving DecidableEq, Repr

/-- Write a byte into the blocks of a store. -/
def putByte (va v : Nat) : List Blk → List Blk
  | [] => [⟨va / 64 * 64, BitVec.ofNat 512 (v % 256 * 2 ^ (8 * (va % 64))), BitVec.ofNat 64 (2 ^ (va % 64))⟩]
  | b :: t =>
    if b.va = va / 64 * 64 then
      { b with
        data := (b.data &&& ~~~(BitVec.ofNat 512 (255 * 2 ^ (8 * (va % 64))))) ||| BitVec.ofNat 512 (v % 256 * 2 ^ (8 * (va % 64))),
        mask := b.mask ||| BitVec.ofNat 64 (2 ^ (va % 64)) } :: t
    else b :: putByte va v t

/-- Write a little-endian number of n bytes. -/
def putNum (va n v : Nat) (bs : List Blk) : List Blk :=
  (List.range n).foldl (fun bs i => putByte (va + i) (v / 2 ^ (8 * i)) bs) bs

/-- The blocks of stored element codes: elements outside the tensor are not stored. -/
def elemBlocks (t : TileArgs) (ty : Nat) (ps : List (Nat × Nat)) (codes : List Nat) : List Blk :=
  (ps.zip codes).foldl (fun bs (p, c) => if inTensor t.h p then putNum (codeVa t.h ty p) (elemBytes ty) c bs else bs) []

/-- The blocks of two stored mx4 rows. -/
def mxBlocks (t : TileArgs) (rows : List (Nat × List Nat)) : List Blk :=
  ((List.range rows.length).zip rows).foldl (fun bs (j, (sc, cs)) =>
    let p := (t.r0 + j, t.c0)
    if !inTensor t.h p then bs
    else
      let packed := (List.range 16).map fun i => cs.getD (2 * i) 0 + 16 * cs.getD (2 * i + 1) 0
      let bs := ((List.range 16).zip packed).foldl (fun bs (i, b) => putByte (codeVa t.h 4 p + i) b bs) bs
      putByte (scaleVa t.h p) sc bs) []

/-- The lowest byte of a mask. -/
def firstByte (m : BitVec 64) : Nat := ((List.range 64).find? fun i => m.getLsbD i).getD 0

/-- Translate the blocks of a store and make their pieces, with a governed store's watermark. -/
def blockPieces (wm : Option Nat) : List Blk → State → (List MemErr × List Held) × State
  | [], s => (([], []), s)
  | b :: t, s =>
    match coreXlate .wr (b.va + firstByte b.mask) s with
    | .error e => let ((es, ps), s) := blockPieces wm t s; ((e :: es, ps), s)
    | .ok ((pa, _), s) =>
      let ((es, ps), s) := blockPieces wm t s
      ((es, Held.store (pa / 64 * 64) (word b.va) b.data b.mask wm :: ps), s)

/-- Blocks in rising address order. -/
def sortBlks : List Blk → List Blk
  | [] => []
  | b :: t =>
    let rec put (b : Blk) : List Blk → List Blk
      | [] => [b]
      | c :: r => if b.va ≤ c.va then b :: c :: r else c :: put b r
    put b (sortBlks t)

/-- Hold a tile store: translation and layout errors, then its pieces and its counts (09 R223). -/
def holdTile (t : TileArgs) (wm : Option Nat) (hist : Option (Nat × List Nat)) (bs : List Blk) (s : State) : Res State := do
  let bs := sortBlks bs
  let extra := tileErrs t.h t.blk t.r0 t.c0 .wr (bs.map fun b => (b.va + firstByte b.mask, 1)) s
  let ((es, ps), s') := blockPieces wm bs s
  match worstErr (extra ++ es) with
  | some e => memStop s e
  | none =>
    let hs := s'.core.held ++ ps
    setHeld (match hist with | some (pa, ks) => addHist pa ks hs | none => hs) s'

/-- The addresses a store would touch, for its checks before the vector is known. -/
def probeBlocks (t : TileArgs) (ty n : Nat) : List Blk :=
  if t.blk then mxBlocks t (List.replicate (n / 32) (0, List.replicate 32 0))
  else elemBlocks t ty (carried t n) (List.replicate n 0)

/-- The class of the format that a tile store writes is that of its form (09 R221, R222): the current version's under a governed handle,
whose record it reads. -/
def storeStop (f : LS) (s : State) : Option Stop :=
  stopOf (do
    let h ← readH f.h s
    if hGov h then
      let (r, s) ← liftMem s (readRec (hTmr h) s)
      needLegal s (((r.current.map (·.f)).getD 2 == 4) == (f.sz == 1))
    else .ok ())

/-- A block of an mx4 vector as an mx4 entry of scale exponent 0 stores it: unchanged, but that a NaN block becomes canonical and sets NV
(05 R139, whose row for equal formats takes precedence over the encoding of 09 R221) (DEDUCED, log entry 33). -/
def mxSame (v : Vec) (b : Nat) : Nat × List Nat × Flags :=
  if laneN v 8 (32 + b) = 255 then (255, List.replicate 32 0, flagNV)
  else (laneN v 8 (32 + b), (List.range 32).map (fun i => laneN v 4 (32 * b + i)), 0)

/-- `gst` (09 R221). -/
def gstOp (f : LS) (s : State) : Res State :=
  let ty := f.ty.toNat
  let n := vecElems ty
  gather (do
    let t ← tileArgs f s
    needLegal s (tileLegal t.h t.blk)
    let (r, s) ← (if hGov t.h then do
        let (r, s) ← liftMem s (readRec (hTmr t.h) s)
        .ok (some r, s)
      else .ok (none, s) : Res (Option Rec × State))
    let en : Ent := match r with | some r => r.current.getD ⟨0, 0, 2⟩ | none => ⟨0, 0, hFmt t.h⟩
    needLegal s ((en.f == 4) == t.blk)
    let (v, s) ← srcVec (f0Reg f) ty s
    let xs := elemsOf ty v
    let ps := carried t n
    let (rs, s) := draws (hRnd t.h) n s
    let ys := xs.map (XV.scale (-en.e))
    let (bs, fl) : List Blk × Flags :=
      if t.blk then
        let enc (j : Nat) := if ty = 4 ∧ en.e = 0 then mxSame v j
          else mx4Encode ((ys.drop (32 * j)).take 32) (hRnd t.h) ((rs.drop (32 * j)).take 32)
        let rows := [enc 0, enc 1]
        let keep := (List.range 2).map fun j => inTensor t.h (t.r0 + j, t.c0)
        (mxBlocks t (rows.map fun r => (r.1, r.2.1)), unionFlags ((rows.zip keep).map fun (r, k) => if k then r.2.2 else 0))
      else
        let cv := ((ys.zip (rs ++ List.replicate n 0))).map fun (y, r) => convertSat y en.f (hRnd t.h) r
        (elemBlocks t en.f ps (cv.map (·.1)),
         unionFlags ((cv.zip ps).map fun (c, p) => if inTensor t.h p then c.2 else 0))
    let counts := (xs.zip ps).filterMap fun (x, p) => if inTensor t.h p then some (binOf x en.e en.f) else none
    let s ← holdTile t (r.map fun q => q.ver % 16) (r.map fun q => (q.pa, counts)) bs s
    .ok (mapCtx (fun c => { c with ends := c.ends ++ [.flags fl] }) s))
    [stopOf (tileArgs f s), stopOf (srcVec (f0Reg f) ty s), formStop f (fun _ => true) s, storeStop f s,
     stopOf (do let t ← tileArgs f s; holdTile t none none (probeBlocks t (layoutFmt t.h t.blk) n) s)]
def execGst (f : LS) (s : State) : Host.Outcome State Fault Refusal := issue s (gstOp f s)

/-- The format whose carriage `gstr` uses (09 R222). -/
def rawCarry (h : BitVec 256) (blk : Bool) : Nat := layoutFmt h blk

/-- `gstr` (09 R222): encoded bits as they are. A broadcast source repeats the low bits of its register at the carriage's width, for mx4
its low 4 bits in the scale bytes too (DESIGN CHOICE, log entry 118). -/
def gstrOp (f : LS) (s : State) : Res State :=
  gather (do
    let t ← tileArgs f s
    needLegal s (tileLegal t.h t.blk && rawTyOk f t.h)
    let ty := rawCarry t.h t.blk
    let (r, s) ← (if hGov t.h then do
        let (r, s) ← liftMem s (readRec (hTmr t.h) s)
        .ok (some r, s)
      else .ok (none, s) : Res (Option Rec × State))
    needLegal s (match r with | some r => ((r.current.map (·.f)).getD 2 == 4) == t.blk | none => true)
    let (v, s) ← srcVec (f0Reg f) ty s
    let bs := if t.blk then
        mxBlocks t ((List.range 2).map fun b => (laneN v 8 (32 + b), (List.range 32).map fun i => laneN v 4 (32 * b + i)))
      else elemBlocks t ty (carried t (vecElems ty)) ((List.range (vecElems ty)).map (laneN v (8 * elemBytes ty)))
    holdTile t (r.map fun q => q.ver % 16) none bs s)
    [stopOf (tileArgs f s), stopOf (srcVec (f0Reg f) 0 s), formStop f (rawTyOk f) s, storeStop f s,
     stopOf (do let t ← tileArgs f s; holdTile t none none (probeBlocks t (layoutFmt t.h t.blk) (vecElems (layoutFmt t.h t.blk))) s)]
def execGstr (f : LS) (s : State) : Host.Outcome State Fault Refusal := issue s (gstrOp f s)

end Sys2Proof.Machine
end

