-- ==== Sys2Proof/Machine/Dispatch.lean ====
section
/-! DEFINITION. What each instruction does: one arm per constructor of `Instr`, each one call of its meaning. -/

namespace Sys2Proof.Machine

def exec (i : Instr) (s : State) : Host.Outcome State Fault Refusal :=
  match i with
  | .checkpoint => Sys2Proof.Machine.execCheckpoint s
  | .orderedBundle => Sys2Proof.Machine.execOrderedBundle s
  | .breakpoint => Sys2Proof.Machine.execBreakpoint s
  | .resultLands c => Sys2Proof.Machine.execResultLands c s
  | .variableLatencyResult c k => Sys2Proof.Machine.execVariableLatencyResult c k s
  | .scratchpadWriteLands c => Sys2Proof.Machine.execScratchpadWriteLands c s
  | .imageLanding c k => Sys2Proof.Machine.execImageLanding c k s
  | .multicastLanding k => Sys2Proof.Machine.execMulticastLanding k s
  | .matrixEngineExecute c => Sys2Proof.Machine.execMatrixEngineExecute c s
  | .splineArrayExecute c => Sys2Proof.Machine.execSplineArrayExecute c s
  | .debugRestart c => Sys2Proof.Machine.execDebugRestart c s
  | .add f => Sys2Proof.Machine.execAdd f s
  | .sub f => Sys2Proof.Machine.execSub f s
  | .mul f => Sys2Proof.Machine.execMul f s
  | .mulh f => Sys2Proof.Machine.execMulh f s
  | .mulhu f => Sys2Proof.Machine.execMulhu f s
  | .div f => Sys2Proof.Machine.execDiv f s
  | .divu f => Sys2Proof.Machine.execDivu f s
  | .rem f => Sys2Proof.Machine.execRem f s
  | .remu f => Sys2Proof.Machine.execRemu f s
  | .and f => Sys2Proof.Machine.execAnd f s
  | .or f => Sys2Proof.Machine.execOr f s
  | .xor f => Sys2Proof.Machine.execXor f s
  | .shl f => Sys2Proof.Machine.execShl f s
  | .shr f => Sys2Proof.Machine.execShr f s
  | .sar f => Sys2Proof.Machine.execSar f s
  | .min f => Sys2Proof.Machine.execMin f s
  | .max f => Sys2Proof.Machine.execMax f s
  | .minu f => Sys2Proof.Machine.execMinu f s
  | .maxu f => Sys2Proof.Machine.execMaxu f s
  | .clz f => Sys2Proof.Machine.execClz f s
  | .popc f => Sys2Proof.Machine.execPopc f s
  | .sel f => Sys2Proof.Machine.execSel f s
  | .addi f => Sys2Proof.Machine.execAddi f s
  | .andi f => Sys2Proof.Machine.execAndi f s
  | .ori f => Sys2Proof.Machine.execOri f s
  | .xori f => Sys2Proof.Machine.execXori f s
  | .shli f => Sys2Proof.Machine.execShli f s
  | .shri f => Sys2Proof.Machine.execShri f s
  | .sari f => Sys2Proof.Machine.execSari f s
  | .movi f => Sys2Proof.Machine.execMovi f s
  | .movhi f => Sys2Proof.Machine.execMovhi f s
  | .lea f => Sys2Proof.Machine.execLea f s
  | .ext f => Sys2Proof.Machine.execExt f s
  | .ins f => Sys2Proof.Machine.execIns f s
  | .ceq f => Sys2Proof.Machine.execCeq f s
  | .cne f => Sys2Proof.Machine.execCne f s
  | .clt f => Sys2Proof.Machine.execClt f s
  | .cle f => Sys2Proof.Machine.execCle f s
  | .cltu f => Sys2Proof.Machine.execCltu f s
  | .cleu f => Sys2Proof.Machine.execCleu f s
  | .ceqi f => Sys2Proof.Machine.execCeqi f s
  | .clti f => Sys2Proof.Machine.execClti f s
  | .br f => Sys2Proof.Machine.execBr f s
  | .brZ f => Sys2Proof.Machine.execBrZ f s
  | .jmp f => Sys2Proof.Machine.execJmp f s
  | .call f => Sys2Proof.Machine.execCall f s
  | .jr f => Sys2Proof.Machine.execJr f s
  | .loop f => Sys2Proof.Machine.execLoop f s
  | .loopi f => Sys2Proof.Machine.execLoopi f s
  | .lbrk => Sys2Proof.Machine.execLbrk s
  | .lidx f => Sys2Proof.Machine.execLidx f s
  | .trap f => Sys2Proof.Machine.execTrap f s
  | .eret => Sys2Proof.Machine.execEret s
  | .halt => Sys2Proof.Machine.execHalt s
  | .spld f => Sys2Proof.Machine.execSpld f s
  | .spst f => Sys2Proof.Machine.execSpst f s
  | .sysrd f => Sys2Proof.Machine.execSysrd f s
  | .syswr f => Sys2Proof.Machine.execSyswr f s
  | .capq f => Sys2Proof.Machine.execCapq f s
  | .hld f => Sys2Proof.Machine.execHld f s
  | .hst f => Sys2Proof.Machine.execHst f s
  | .hset f => Sys2Proof.Machine.execHset f s
  | .hget f => Sys2Proof.Machine.execHget f s
  | .hmov f => Sys2Proof.Machine.execHmov f s
  | .pcfg f => Sys2Proof.Machine.execPcfg f s
  | .pset f => Sys2Proof.Machine.execPset f s
  | .pget f => Sys2Proof.Machine.execPget f s
  | .vadd f => Sys2Proof.Machine.execVadd f s
  | .vsub f => Sys2Proof.Machine.execVsub f s
  | .vmul f => Sys2Proof.Machine.execVmul f s
  | .vfma f => Sys2Proof.Machine.execVfma f s
  | .vfms f => Sys2Proof.Machine.execVfms f s
  | .vmax f => Sys2Proof.Machine.execVmax f s
  | .vmin f => Sys2Proof.Machine.execVmin f s
  | .vabs f => Sys2Proof.Machine.execVabs f s
  | .vneg f => Sys2Proof.Machine.execVneg f s
  | .vrcp f => Sys2Proof.Machine.execVrcp f s
  | .vrsq f => Sys2Proof.Machine.execVrsq f s
  | .vexp2 f => Sys2Proof.Machine.execVexp2 f s
  | .vlog2 f => Sys2Proof.Machine.execVlog2 f s
  | .vtanh f => Sys2Proof.Machine.execVtanh f s
  | .vand f => Sys2Proof.Machine.execVand f s
  | .vor f => Sys2Proof.Machine.execVor f s
  | .vxor f => Sys2Proof.Machine.execVxor f s
  | .vshl f => Sys2Proof.Machine.execVshl f s
  | .vshr f => Sys2Proof.Machine.execVshr f s
  | .vsar f => Sys2Proof.Machine.execVsar f s
  | .vceq f => Sys2Proof.Machine.execVceq f s
  | .vclt f => Sys2Proof.Machine.execVclt f s
  | .vcle f => Sys2Proof.Machine.execVcle f s
  | .vsel f => Sys2Proof.Machine.execVsel f s
  | .vcvt f => Sys2Proof.Machine.execVcvt f s
  | .vqnt f => Sys2Proof.Machine.execVqnt f s
  | .vdq f => Sys2Proof.Machine.execVdq f s
  | .vsrnd f => Sys2Proof.Machine.execVsrnd f s
  | .vscal f => Sys2Proof.Machine.execVscal f s
  | .vredsum f => Sys2Proof.Machine.execVredsum f s
  | .vredmax f => Sys2Proof.Machine.execVredmax f s
  | .vredmin f => Sys2Proof.Machine.execVredmin f s
  | .vbcast f => Sys2Proof.Machine.execVbcast f s
  | .vextr f => Sys2Proof.Machine.execVextr f s
  | .vperm f => Sys2Proof.Machine.execVperm f s
  | .vmov f => Sys2Proof.Machine.execVmov f s
  | .vzero f => Sys2Proof.Machine.execVzero f s
  | .vacc f => Sys2Proof.Machine.execVacc f s
  | .vaccw f => Sys2Proof.Machine.execVaccw f s
  | .vadam f => Sys2Proof.Machine.execVadam f s
  | .vsgdm f => Sys2Proof.Machine.execVsgdm f s
  | .vbfpn f => Sys2Proof.Machine.execVbfpn f s
  | .mop f => Sys2Proof.Machine.execMop f s
  | .mmac f => Sys2Proof.Machine.execMmac f s
  | .mbfp f => Sys2Proof.Machine.execMbfp f s
  | .mzero f => Sys2Proof.Machine.execMzero f s
  | .mdrain f => Sys2Proof.Machine.execMdrain f s
  | .mload f => Sys2Proof.Machine.execMload f s
  | .msave f => Sys2Proof.Machine.execMsave f s
  | .mlend f => Sys2Proof.Machine.execMlend f s
  | .mrecl f => Sys2Proof.Machine.execMrecl f s
  | .mcfg f => Sys2Proof.Machine.execMcfg f s
  | .mrealn f => Sys2Proof.Machine.execMrealn f s
  | .knset f => Sys2Proof.Machine.execKnset f s
  | .knget f => Sys2Proof.Machine.execKnget f s
  | .splld f => Sys2Proof.Machine.execSplld f s
  | .splst f => Sys2Proof.Machine.execSplst f s
  | .splev f => Sys2Proof.Machine.execSplev f s
  | .splbwd f => Sys2Proof.Machine.execSplbwd f s
  | .splgs f => Sys2Proof.Machine.execSplgs f s
  | .splgx f => Sys2Proof.Machine.execSplgx f s
  | .splgz => Sys2Proof.Machine.execSplgz s
  | .gridref => Sys2Proof.Machine.execGridref s
  | .splcnt f => Sys2Proof.Machine.execSplcnt f s
  | .ld f => Sys2Proof.Machine.execLd f s
  | .sld f => Sys2Proof.Machine.execSld f s
  | .gld f => Sys2Proof.Machine.execGld f s
  | .gldr f => Sys2Proof.Machine.execGldr f s
  | .tmrd f => Sys2Proof.Machine.execTmrd f s
  | .wmrd f => Sys2Proof.Machine.execWmrd f s
  | .pref f => Sys2Proof.Machine.execPref f s
  | .st f => Sys2Proof.Machine.execSt f s
  | .sst f => Sys2Proof.Machine.execSst f s
  | .gst f => Sys2Proof.Machine.execGst f s
  | .gstr f => Sys2Proof.Machine.execGstr f s
  | .sfe f => Sys2Proof.Machine.execSfe f s
  | .wmc f => Sys2Proof.Machine.execWmc f s
  | .dpop f => Sys2Proof.Machine.execDpop f s
  | .cpy f => Sys2Proof.Machine.execCpy f s
  | .cpy2 f => Sys2Proof.Machine.execCpy2 f s
  | .cpyg f => Sys2Proof.Machine.execCpyg f s
  | .cpys f => Sys2Proof.Machine.execCpys f s
  | .cpyx f => Sys2Proof.Machine.execCpyx f s
  | .cpyr f => Sys2Proof.Machine.execCpyr f s
  | .cpyo f => Sys2Proof.Machine.execCpyo f s
  | .cpyq f => Sys2Proof.Machine.execCpyq f s
  | .cpyk f => Sys2Proof.Machine.execCpyk f s
  | .cadd f => Sys2Proof.Machine.execCadd f s
  | .caddi f => Sys2Proof.Machine.execCaddi f s
  | .cwait f => Sys2Proof.Machine.execCwait f s
  | .crd f => Sys2Proof.Machine.execCrd f s
  | .cflg f => Sys2Proof.Machine.execCflg f s
  | .cceil f => Sys2Proof.Machine.execCceil f s
  | .amadd f => Sys2Proof.Machine.execAmadd f s
  | .amax f => Sys2Proof.Machine.execAmax f s
  | .amin f => Sys2Proof.Machine.execAmin f s
  | .aswp f => Sys2Proof.Machine.execAswp f s
  | .acas f => Sys2Proof.Machine.execAcas f s
  | .aand f => Sys2Proof.Machine.execAand f s
  | .aor f => Sys2Proof.Machine.execAor f s
  | .afadd f => Sys2Proof.Machine.execAfadd f s
  | .barr f => Sys2Proof.Machine.execBarr f s
  | .bwait f => Sys2Proof.Machine.execBwait f s
  | .barq f => Sys2Proof.Machine.execBarq f s
  | .tmopn f => Sys2Proof.Machine.execTmopn f s
  | .tmcls f => Sys2Proof.Machine.execTmcls f s
  | .tmgov f => Sys2Proof.Machine.execTmgov f s
  | .tmset f => Sys2Proof.Machine.execTmset f s
  | .tmflt f => Sys2Proof.Machine.execTmflt f s
  | .spawn f => Sys2Proof.Machine.execSpawn f s
  | .yield => Sys2Proof.Machine.execYield s
  | .route f => Sys2Proof.Machine.execRoute f s
  | .rtver f => Sys2Proof.Machine.execRtver f s
  | .wgl f => Sys2Proof.Machine.execWgl f s
  | .wglq f => Sys2Proof.Machine.execWglq f s
  | .wglk f => Sys2Proof.Machine.execWglk f s
  | .grant c line => Sys2Proof.Machine.execGrant c line s
  | .reserve c home => Sys2Proof.Machine.execReserve c home s
  | .renew c line => Sys2Proof.Machine.execRenew c line s
  | .apply c home => Sys2Proof.Machine.execApply c home s
  | .pinTokenGrant => Sys2Proof.Machine.execPinTokenGrant s
  | .stampRaise home => Sys2Proof.Machine.execStampRaise home s
  | .applyAdd ctr va n fl src t => Sys2Proof.Machine.execApplyAdd ctr va n fl src t s
  | .applyCflg ctr b t => Sys2Proof.Machine.execApplyCflg ctr b t s
  | .applyCeil ctr va v src t => Sys2Proof.Machine.execApplyCeil ctr va v src t s
  | .cwaitWake c flags t => Sys2Proof.Machine.execCwaitWake c flags t s
  | .barrierArrival c seg t => Sys2Proof.Machine.execBarrierArrival c seg t s
  | .bwaitReturn c => Sys2Proof.Machine.execBwaitReturn c s
  | .copyLaunchAccept cl => Sys2Proof.Machine.execCopyLaunchAccept cl s
  | .copyPiece op k => Sys2Proof.Machine.execCopyPiece op k s
  | .deltaFlush c slot => Sys2Proof.Machine.execDeltaFlush c slot s
  | .flushRequest c rec => Sys2Proof.Machine.execFlushRequest c rec s
  | .closePublication rec => Sys2Proof.Machine.execClosePublication rec s
  | .launch root => Sys2Proof.Machine.execLaunch root s
  | .schedulerRound => Sys2Proof.Machine.execSchedulerRound s
  | .descriptorFetch rnum => Sys2Proof.Machine.execDescriptorFetch rnum s
  | .dependencyMet tser k flags => Sys2Proof.Machine.execDependencyMet tser k flags s
  | .quantumExpiry tser gix => Sys2Proof.Machine.execQuantumExpiry tser gix s
  | .taskComplete tser => Sys2Proof.Machine.execTaskComplete tser s
  | .faultReport r => Sys2Proof.Machine.execFaultReport r s
  | .migrateTrapReceipt c => Sys2Proof.Machine.execMigrateTrapReceipt c s
  | .spawnAppend rcb desc tser t => Sys2Proof.Machine.execSpawnAppend rcb desc tser t s
  | .schedulerTakeover => Sys2Proof.Machine.execSchedulerTakeover s
  | .dieFault die => Sys2Proof.Machine.execDieFault die s
  | .coreWithdrawn c => Sys2Proof.Machine.execCoreWithdrawn c s
  | .routeChoice k => Sys2Proof.Machine.execRouteChoice k s
  | .routeDelivery k => Sys2Proof.Machine.execRouteDelivery k s
  | .routedAdd k => Sys2Proof.Machine.execRoutedAdd k s
  | .swarmSample tab => Sys2Proof.Machine.execSwarmSample tab s
  | .replicaCopyDone sw => Sys2Proof.Machine.execReplicaCopyDone sw s
  | .replicaCopyStop sw => Sys2Proof.Machine.execReplicaCopyStop sw s
  | .redirection sw => Sys2Proof.Machine.execRedirection sw s
  | .replicaLoss tab e r => Sys2Proof.Machine.execReplicaLoss tab e r s
  | .replica0Loss tab e => Sys2Proof.Machine.execReplica0Loss tab e s
  | .gradientMerge tab => Sys2Proof.Machine.execGradientMerge tab s
  | .waggleLaunch k => Sys2Proof.Machine.execWaggleLaunch k s
  | .signatureAgreement k => Sys2Proof.Machine.execSignatureAgreement k s
  | .wsend f => Sys2Proof.Machine.execWsend f s
  | .wrecv f => Sys2Proof.Machine.execWrecv f s
  | .wrrs f => Sys2Proof.Machine.execWrrs f s
  | .wcopy f => Sys2Proof.Machine.execWcopy f s
  | .wwait thr => Sys2Proof.Machine.execWwait thr s
  | .wsig n => Sys2Proof.Machine.execWsig n s
  | .wloop cnt => Sys2Proof.Machine.execWloop cnt s
  | .wendl => Sys2Proof.Machine.execWendl s
  | .wagree buf off => Sys2Proof.Machine.execWagree buf off s
  | .wflags => Sys2Proof.Machine.execWflags s
  | .wend => Sys2Proof.Machine.execWend s
  | .chunkArrival m => Sys2Proof.Machine.execChunkArrival m s
  | .switchSlotLoss k inst chunk => Sys2Proof.Machine.execSwitchSlotLoss k inst chunk s
  | .waggleAbort tag launch poison => Sys2Proof.Machine.execWaggleAbort tag launch poison s
  | .glodricMessage m => Sys2Proof.Machine.execGlodricMessage m s
  | .glodricPortWithdrawn p => Sys2Proof.Machine.execGlodricPortWithdrawn p s
  | .destinationTimeout m => Sys2Proof.Machine.execDestinationTimeout m s
  | .linkWithdrawn bit => Sys2Proof.Machine.execLinkWithdrawn bit s
  | .bisnpinv line => Sys2Proof.Machine.execBisnpinv line s
  | .bisnpdata line => Sys2Proof.Machine.execBisnpdata line s
  | .bisnpcur line => Sys2Proof.Machine.execBisnpcur line s
  | .snoopPinTimeout line => Sys2Proof.Machine.execSnoopPinTimeout line s
  | .memrdCompletion line r => Sys2Proof.Machine.execMemrdCompletion line r s
  | .memwrCompletion line refused => Sys2Proof.Machine.execMemwrCompletion line refused s
  | .cxlPortDown p => Sys2Proof.Machine.execCxlPortDown p s
  | .linePoisoned line => Sys2Proof.Machine.execLinePoisoned line s
  | .combSramError home => Sys2Proof.Machine.execCombSramError home s
  | .inboundWrite link off data => Sys2Proof.Machine.execInboundWrite link off data s
  | .bar2Read link off n => Sys2Proof.Machine.execBar2Read link off n s
  | .hostCounterAdd amt fl => Sys2Proof.Machine.execHostCounterAdd amt fl s
  | .invalidation d => Sys2Proof.Machine.execInvalidation d s
  | .invalidationDone ctr => Sys2Proof.Machine.execInvalidationDone ctr s
  | .pageLock d => Sys2Proof.Machine.execPageLock d s
  | .pageUnlock d => Sys2Proof.Machine.execPageUnlock d s
  | .lockDone ctr => Sys2Proof.Machine.execLockDone ctr s
  | .counterWatch idx w => Sys2Proof.Machine.execCounterWatch idx w s
  | .registerWrite off w => Sys2Proof.Machine.execRegisterWrite off w s
  | .warmReset => Sys2Proof.Machine.execWarmReset s
  | .coldReset => Sys2Proof.Machine.execColdReset s
  | .abavasTakeover => Sys2Proof.Machine.execAbavasTakeover s
  | .throttling => Sys2Proof.Machine.execThrottling s
  | .getVersion => Sys2Proof.Machine.execGetVersion s
  | .getCapabilities => Sys2Proof.Machine.execGetCapabilities s
  | .negotiateAlgorithms algs => Sys2Proof.Machine.execNegotiateAlgorithms algs s
  | .getDigests => Sys2Proof.Machine.execGetDigests s
  | .getCertificate slot off len => Sys2Proof.Machine.execGetCertificate slot off len s
  | .challenge slot nonce => Sys2Proof.Machine.execChallenge slot nonce s
  | .getMeasurements idx => Sys2Proof.Machine.execGetMeasurements idx s
  | .dbgctlWrite c w => Sys2Proof.Machine.execDbgctlWrite c w s
  | .domainTableWrite t => Sys2Proof.Machine.execDomainTableWrite t s
  | .cxlPortReturnToService p => Sys2Proof.Machine.execCxlPortReturnToService p s
  | .throttlingEnd => Sys2Proof.Machine.execThrottlingEnd s
  | .abavasMailboxMessage m => Sys2Proof.Machine.execAbavasMailboxMessage m s
  | .meminvCompletion line => Sys2Proof.Machine.execMeminvCompletion line s

end Sys2Proof.Machine
end

