-- ==== Sys2Proof/Machine/Bundle.lean ====
section
/-! DEFINITION. The issue of one bundle (02 R45-R48, R67; 01 R22, R30, R34, R41): fetch, decode, the checks of R67, the flags, the slots
in order through `exec`, the choice of a cause, the end of the bundle and the next address (03 R88). -/

namespace Sys2Proof.Machine

/-- The subset of an opcode (02 R62-R65), as a bit of CAPS order: B 0, T8 1, K 2, X4 3, G 4. -/
def subsetOp : Instr → Nat
  | .mop _ => 1 | .mmac _ => 1 | .mbfp _ => 4 | .mrealn _ => 4
  | .knset _ => 2 | .knget _ => 2 | .splld _ => 2 | .splst _ => 2 | .splev _ => 2 | .splbwd _ => 2 | .splgs _ => 2 | .splgx _ => 2
  | .splgz => 2 | .gridref => 2 | .splcnt _ => 2
  | .vacc _ => 4 | .vaccw _ => 4 | .vadam _ => 4 | .vsgdm _ => 4 | .vbfpn _ => 4
  | _ => 0

/-- The type fields of an instruction, and whether it is a tile instruction of the block class (02 R66, 09 R216). -/
def typeFields (i : Instr) : List (BitVec 4) × Bool :=
  match i with
  | .mop f | .mmac f | .mbfp f | .mzero f | .mdrain f | .mload f | .msave f | .mlend f | .mrecl f | .mcfg f | .mrealn f | .knset f
  | .knget f | .splld f | .splst f | .splev f | .splbwd f | .splgs f | .splgx f | .splcnt f => ([f.ty, f.tyd], false)
  | .gld f | .gldr f | .gst f | .gstr f => ([f.ty], f.sz == 1)
  | .ld f | .sld f | .tmrd f | .wmrd f | .pref f | .st f | .sst f | .sfe f | .wmc f | .dpop f => ([f.ty], false)
  | i => match i.vform with
    | some f => ([f.ty, f.tyd], false)
    | none => ([], false)

/-- Whether the grade lacks a subset that an instruction needs (02 R66). -/
def lacks (l : Bool) (i : Instr) : Bool :=
  let has (k : Nat) : Bool := (subsets l).getLsbD k
  let (ts, blk) := typeFields i
  !has (subsetOp i) || (ts.any (· == 4) && !has 3) || (ts.any (· == 7) && !has 4) || (blk && !has 3)

/-- Instructions that act as a checkpoint at their own bundle: `eret`, `halt`, `yield` (01 R26, R37, 16 R369). -/
def ownCheckpoint : Instr → Bool
  | .eret => true | .halt => true | .yield => true
  | _ => false

/-- The loop test of R88: entries that end at `at_` count down; the address of the next bundle. -/
def loopTest (at_ next : BPc) : Nat → Arch → BPc × Arch
  | 0, a => (next, a)
  | n + 1, a =>
    match a.loops with
    | [] => (next, a)
    | e :: rest =>
      if e.last = at_ then
        if e.count ≤ 1 then loopTest at_ next n { a with loops := rest }
        else (e.start, { a with loops := { e with count := e.count - 1, index := e.index + 1 } :: rest })
      else (next, a)

/-- next_pc (03 R88). -/
def nextPc (nx : Nxt) (a : Arch) : BPc × Arch :=
  match nx with
  | .take t => (t, a)
  | .brk e => loopTest e (e + 1) 7 a
  | .skip e => loopTest a.pc (e + 1) 7 a
  | .inSeq => loopTest a.pc (a.pc + 1) 7 a

/-- The value `pset` writes into a descriptor (03 R104). -/
def psetDesc (d : BitVec 256) (fld : Nat) (v : Word) : BitVec 256 :=
  let n := v.toNat
  match fld with
  | 0 => setField d 0 18 n | 1 => setField d 32 16 n | 2 => setField d 48 16 n | 3 => setField d 64 16 n
  | 4 => setField d 80 32 n | 5 => setField d 112 32 n | 6 => setField d 144 32 n | 7 => setField d 176 2 n
  | 8 => setField d 178 1 n | 9 => setField d 179 1 n | 10 => setField d 180 2 n | 11 => setField d 184 4 (n - 1)
  | 12 => setField d 188 4 (n - 1) | 13 => setField d 192 16 n | 14 => setField d 208 16 n | _ => setField d 224 16 n

/-- The descriptor an end-of-bundle act leaves in its port, for the check of R102. -/
def endDesc (s : State) : EndAct → Option (BitVec 256)
  | .pcfg _ d => some d
  | .pset p fld v => some (psetDesc (portDesc s p) fld v)
  | _ => none

/-- One end-of-bundle effect. A flag that a result landing in this strand cycle has set outlives the clear of a `syswr` (03 R94). -/
def doEnd (s : State) : EndAct → State
  | .syswr n v =>
    match n with
    | 2 => mapSt (fun t => { t with trapPc := v.setWidth 51 }) s
    | 4 => mapSt (fun t => if t.tm then { t with ckptPc := v.setWidth 51 } else t) s
    | 0xB => mapArch (fun a => { a with seed := if v = 0 then 1 else v }) s
    | 0xD => mapSt (fun t => { t with a := { t.a with flags := clearFlags v t.a.flags ||| t.fresh } }) s
    | 0xE => mapSt (fun t => { t with trapBase := v.setWidth 51 }) s
    | _ => s
  | .pcfg p d => setPort p d s
  | .pset p fld v => setPort p (psetDesc (portDesc s p) fld v) s
  | .knset n v => mapArch (fun a => { a with knots := a.knots.setIfInBounds n v }) s
  | .clear gs => mapCore (writeScratch [] (gs.map fun g => (g, false))) s
  | .flags _ => s
  | .produce v =>
    mapSt (fun t =>
      let vls := match v.dst with
        | .sreg r => discardVl r t.vls
        | .handle _ => t.vls
      let a := match v.dst with
        | .sreg r => if r = 0 then t.a else { t.a with empties := t.a.empties.set r.toNat true }
        | .handle _ => t.a
      { t with vls := vls ++ [v], a := a }) s

/-- The flags of the bundle's own results that land with it: they are set after a `syswr` of FLAGS has cleared (03 R94). -/
def endFlags (es : List EndAct) : Flags := unionFlags (es.map fun e => match e with | .flags f => f | _ => 0)

/-- The cause that the end of the bundle finds: an invalid descriptor left by `pcfg` or `pset` (03 R103, R105). -/
def endCause (s : State) (syl : Word) : Option Cause :=
  if s.ctx.ends.any fun e => (endDesc s e).any (!portValid ·) then some ⟨cIllegal, syl, some 0⟩ else none

/-- The better of two causes: the lower priority number (01 R34); of two equal ones, also between a slot and the end of the bundle (slot
S), the lower slot: the spec has that tie rule only for decode (02 R67) (DESIGN CHOICE, log entry 114). -/
def bestCause (a : Option Cause) (b : Cause) : Option Cause :=
  match a with
  | none => some b
  | some c =>
    if prioOf b.code < prioOf c.code || (prioOf b.code == prioOf c.code && b.slot.getD 0 < c.slot.getD 0) then some b else some c

/-- The issue of the bundle at an address clears a passed breakpoint there (01 R43). -/
def clearPassed (pc : BPc) (s : State) : State := mapSt (fun t => { t with passed := if t.passed = some pc then none else t.passed }) s

/-- The end of a bundle whose slots have all executed: end effects, next address, the strand cycle, the strand's wait, and the
debugger's stop (01 R41). The stall of a `cwait` or `bwait` advances no strand cycle, and the strand of a bundle with `halt` ends when
the stall does (01 R30, 10 R240). -/
def finishBundle (s : State) : State :=
  let c := s.ctx
  let s := orFlags (endFlags c.ends) (c.ends.foldl doEnd (firstBundle s))
  let s := mapSt (fun t =>
    let (p, a) := nextPc c.nxt t.a
    let t := { t with
      a := { a with pc := p }, cyc := if c.wait = .none then t.cyc + 1 else t.cyc, ckDone := c.erets, wait := c.wait,
      ending := c.halts && c.wait != .none, fresh := if c.wait = .none then 0 else t.fresh }
    if c.yields then
      { t with shadow := t.a, ckptPc := if t.tm then t.ckptPc else p, hckpt := if t.tm then p else t.hckpt, ckDone := true }
    else t) s
  let s := mapCore (fun k => { k with dstop := k.sstep, dstopAt := s.now }) s
  let s := if c.yields then strandYields s else s
  let s := if c.halts && c.wait == .none then strandEnds s else s
  mapCtx (fun _ => .init) s

/-- The progress of a bundle through its slots: the state so far, the best cause, whether some slot stalls, whether the read-victim
table ran full, and the pool transactions wanted. -/
structure SlotRun where
  cur : State
  best : Option Cause
  stalled : Bool
  rvtFull : Bool
  tx : List PoolTx
deriving DecidableEq, Repr

/-- One slot: its effect is kept when it neither stalls nor raises a cause (02 R67, 01 R35); a table that has failed its registration
stays remembered in every case (18 R388). -/
def runSlot (r : SlotRun) (k : Nat) (w : Word) (i : Instr) : Except (Host.Outcome State Fault Refusal) SlotRun :=
  match exec i (mapCtx (fun c => { c with slot := k, syl := w }) r.cur) with
  | .next t =>
    match t.ctx.cause with
    | some c => .ok { r with best := bestCause r.best c, cur := { r.cur with tables := t.tables } }
    | none =>
      if t.ctx.rvtFull then .ok { r with rvtFull := true }
      else if t.ctx.stall then .ok { r with stalled := true, tx := t.ptx }
      else .ok { r with cur := t }
  | o => .error o

def runSlots (b : Vec) : List (Nat × Instr) → SlotRun → Except (Host.Outcome State Fault Refusal) SlotRun
  | [], r => .ok r
  | (k, i) :: t, r =>
    match runSlot r k (sylOf b k) i with
    | .ok r => runSlots b t r
    | .error o => .error o

/-- The slots of a bundle, and what follows from them. `s` has passed the flags. -/
def issueSlots (b : Vec) (slots : List (Nat × Instr)) (pre s : State) : Host.Outcome State Fault Refusal :=
  match runSlots b slots ⟨s, none, false, false, s.ptx⟩ with
  | .error o => o
  | .ok r =>
    let done (t : State) : State := mapCtx (fun _ => .init) t
    let pre := { pre with tables := pre.tables ++ r.cur.tables.filter fun x => !x.ok && !pre.tables.contains x }
    if r.stalled then .next (done { pre with ptx := r.tx })
    else if r.rvtFull then .next (done (rollbackPinned pre))
    else
      let best := match endCause r.cur (sylOf b 0) with
        | some c => bestCause r.best c
        | none => r.best
      match best with
      | some c => .next (done (takeTrap finishSaves c pre))
      | none => .next (finishBundle (clearPassed pre.core.st.a.pc r.cur))

/-- A bundle flag's row (01 R22, R31, R44), when the bundle asks for it: none when it holds the bundle back. -/
def flagRow (want : Bool) (i : Instr) (s : State) : Except (Host.Outcome State Fault Refusal) State :=
  if !want then .ok s else
  match exec i s with
  | .next t => if t.ctx.stall || t.ctx.cause.isSome then .error (.next (mapCtx (fun _ => .init) t)) else .ok t
  | o => .error o

/-- A legal bundle that the die can run: its flags in order, then its slots. The checkpoint of a `halt`, an `eret` or a `yield` precedes the
slots, so that what they hold belongs to no region that it commits (DEDUCED, log entry 10). -/
def issueLegal (b : Vec) (flags : BitVec 4) (slots : List (Nat × Instr)) (s : State) : Host.Outcome State Fault Refusal :=
  let own := slots.any fun e => ownCheckpoint e.2
  match flagRow ((flags.getLsbD 3 || own) && !s.core.st.ckDone) .checkpoint s with
  | .error o => o
  | .ok s =>
    match flagRow (flags.getLsbD 2) .orderedBundle s with
    | .error o => o
    | .ok pre =>
      match flagRow (flags.getLsbD 1) .breakpoint pre with
      | .error o => o
      | .ok s => issueSlots b slots pre s

/-- Decode's checks on a fetched bundle (02 R67): illegal encoding, migrate; then execution, of which the test of an `eret` outside a
handler comes first (01 R37, 03 R91). -/
def issueFetched (b : Vec) (s : State) : Host.Outcome State Fault Refusal :=
  let trapAt (c : Cause) : Host.Outcome State Fault Refusal := .next (mapCtx (fun _ => .init) (takeTrap finishSaves c s))
  match decodeBundle b with
  | .illegal k => trapAt ⟨cIllegal, sylOf b k, some k⟩
  | .ok flags slots =>
    match slots.find? fun e => lacks (isL s.core.id) e.2 with
    | some (k, _) => trapAt ⟨cMigrate, word (bits (sylOf b k).toNat 63 56 + 256 * k), some k⟩
    | none =>
      if slots.any (fun e => e.2 == .eret) && !s.core.st.tm then trapAt ⟨cIllegal, sylOf b 0, some 0⟩
      else issueLegal b flags slots s

/-- The bytes of the bundle at the PC (03 R86): translated with execute permission, read as committed. -/
def fetchBundle (s : State) : Except MemErr (Vec × State) := do
  let va := s.core.st.a.pc.toNat * 64
  let ((pa, _), s) ← coreXlate .fetch va s
  homeServes s (pa / 64)
  .ok (lineVec s (pa / 64), touchLine (pa / 64) false s)

/-- The focused core's strand may issue: it runs, does not wait, is not stopped by the debugger, is not in a commit or behind a lock,
has its last region's launches accepted (13 R303), and holds the pin token if its region is pinned (12 R279). -/
def mayIssue (s : State) : Bool :=
  let c := s.core
  c.st.run == .running && c.st.wait == .none && !c.st.ending && !c.dstop && (!c.st.pin || c.pinTok) && c.commit.isNone && c.lockWait.isEmpty &&
    !launchWaiting c.id s

/-- A turn in which the focused core's strand issues nothing: what is due still lands (04 R121), and the strand whose last bundle has
waited ends (01 R26). -/
def idleTurn (s : State) : State :=
  let s := landDue false s
  if s.core.st.run = .running && s.core.st.ending && s.core.st.wait = .none then
    strandEnds (mapSt (fun t => { t with ending := false }) s)
  else s

/-- One issue of the focused core. -/
def issueBundle (s : State) : Host.Outcome State Fault Refusal :=
  if !mayIssue s then .next (idleTurn s) else
  let s := mapCtx (fun _ => { Ctx.init with seq0 := s.core.st.seq }) (landDue false s)
  match fetchBundle s with
  | .error (.fetch tx) => .next (mapCtx (fun _ => .init) { s with ptx := if s.ptx.contains tx then s.ptx else s.ptx ++ [tx] })
  | .error e =>
    let c : Cause := match e with
      | .trans va => ⟨cTrans, word va, none⟩
      | .access va => ⟨cAccess, word va, none⟩
      | .poison pa => ⟨cPoison, word pa, none⟩
      | _ => ⟨cTrans, 0, none⟩
    .next (mapCtx (fun _ => .init) (fetchTrap finishSaves c s))
  | .ok (b, s) => issueFetched b s

/-! ### The order of steps -/

/-- The first entry of the agenda whose time has come, and the agenda without it. -/
def takeDue (now : Nat) : List Due → Option (Due × List Due)
  | [] => none
  | d :: t =>
    if d.at_ ≤ now then some (d, t)
    else match takeDue now t with
      | some (e, r) => some (e, d :: r)
      | none => none

/-- An event from the agenda; a slot instruction or a waggle step is no event and has no effect there. -/
def runDue (d : Due) (s : State) : Host.Outcome State Fault Refusal :=
  if d.act.slot.isSome || d.act.isStep then .next s else exec d.act s

/-- A strand that issues no more bundles, having halted or waiting for its eviction, with a write that lands without one (04 R121). -/
def landsOn (c : Core) : Bool :=
  (c.st.run == .halted || c.st.run == .withheld) && c.st.pend.any fun p => match p.due with | none => true | some d => d ≤ c.st.cyc

/-- The cores that have a turn in the next clock: those with a running strand, but for those from which throttling withholds it
(15 R351), and those whose writes have still to land. -/
def issuers (s : State) : List CoreId :=
  let cs := allCores s
  let runs := (cs.filter fun c => c.st.run == .running).map (·.id)
  (if s.ctl.throttled then runs.filter fun c => !bit (Config.freeChoice s.free) c.toNat else runs) ++ (cs.filter landsOn).map (·.id)

/-- The next clock: every core with a running strand is to issue once, and every collective that has started runs one step. -/
def tick (s : State) : State :=
  { s with
    now := s.now + 1, turn := issuers s, wturn := (s.colls.filter fun c => c.started || c.aborting.isSome).map (·.tag),
    free := if s.ctl.throttled then s.free + 1 else s.free }

/-- The turn of a collective: an aborting one goes on with its chunk in writing, another executes its current step (24 R440, R446). -/
def collTurn (tag : Nat) (s : State) : Host.Outcome State Fault Refusal :=
  match collOf s tag with
  | none => .next s
  | some c =>
    if c.aborting.isSome then .next (abortTurn c s)
    else match c.steps[c.pc]? with
      | some i => if i.isStep then exec i { s with wcur := tag } else .next s
      | none => .next s

/-! ### Placing a bundle -/

def fetchRoot : Nat := 0x1000000
def fetchPc : BPc := 0x400

/-- Store a bundle and the page table that leads to it, and make the focused core's strand ready to issue it. -/
def placeBundle (b : Vec) (s : State) : State :=
  let entry (a : Nat) : Nat := 1 + a / 256 * 4096
  let s := wrN fetchRoot 8 (entry (fetchRoot + 0x1000)) s
  let s := wrN (fetchRoot + 0x1000) 8 (entry (fetchRoot + 0x2000)) s
  let s := wrN (fetchRoot + 0x2000) 8 0x1F s
  let s := wrBytes (fetchPc.toNat * 64) (vecBytes b) s
  let used : List Nat := [fetchRoot / 64, fetchRoot / 64 + 64, fetchRoot / 64 + 128, fetchPc.toNat]
  let s := { s with
    agenda := [], turn := [s.core.id], wturn := [], dieTlb := [], sched := { s.sched with ptroot := fetchRoot },
    dir := s.dir.filter fun e => !used.contains e.1 }
  let s := mapCore (fun c => { c with tlb := [], dstop := false }) s
  mapSt (fun t => { t with
    a := { t.a with pc := fetchPc }, run := .running, wait := .none, ending := false, pin := false, ckDone := false }) s

end Sys2Proof.Machine
end

