-- ==== Sys2Proof/Machine/Step.lean ====
section
/-! DEFINITION. One step of the machine: the first due entry of the agenda, else the next core of this clock, else the next
collective, else the next clock; and
the placement of an instruction where the next step fetches it. -/

namespace Sys2Proof.Machine

/-- One step (log entry 4). -/
def step (s : State) : Host.Outcome State Fault Refusal :=
  match takeDue s.now s.agenda with
  | some (d, rest) => runDue d { s with agenda := rest }
  | none =>
    match s.turn with
    | c :: t => issueBundle (focus c { s with turn := t })
    | [] =>
      match s.wturn with
      | k :: t => collTurn k { s with wturn := t }
      | [] => .next (tick s)

/-- `s` with an instruction of nbits bits stored where the next step fetches it (log entry 3): a page table that maps virtual addresses
0 to 2^30 − 1 to the same physical addresses, the bundle at 0x10000, and the focused core's strand about to issue it. -/
def State.withFetchWord (s : State) (nbits w : Nat) : State := placeBundle (BitVec.ofNat 512 (w % 2 ^ nbits)) s

end Sys2Proof.Machine
end

