-- ==== Sys2Proof/Safety.lean ====
section
/-! DEFINITION. What counts as a safe run: no step refuses or faults, and memory keeps its canonical form. -/

namespace Sys2Proof.Machine

/-- A step that ends in a next state. -/
def runs (s : State) : Bool := match step s with | .next _ => true | _ => false

/-- The canonical form of every sparse map of bytes and bits that the state holds. -/
def Memory.wf (s : State) : Bool := SMap.wf 0 s.mem

end Sys2Proof.Machine
end

