-- ==== Sys2Proof/Certificates/Slice0/Obligations.lean ====
section
/-! DEFINITION. The statements for the provers: each `Obligations.<Name>` is a proposition about the machine, read from the numbered
rules of the spec; `Claims.<name>` are the tables and parts that they use. -/

open Sys2Proof Sys2Proof.Machine

/-! ### Rules stated whole -/

/-- 01 R16: s0 always reads 0, is never empty and ignores every write: a source field that names it reads 0 whatever the state; making it
the destination of a variable-latency result leaves its empty bit; a result that lands in it, at its latency or late, changes no register;
and neither does a value that is set in it directly, as a `cwait` sets the flag word that it returns. `call` links in s31. -/
def Obligations.ZeroRegister : Prop :=
  (∀ (f : BitVec 6) (s : State), f.setWidth 5 = (0 : BitVec 5) → readS f s = .ok 0) ∧
  (∀ (v : VRes) (s : State), v.dst = .sreg 0 → (doEnd s (.produce v)).core.st.a.empties = s.core.st.a.empties) ∧
  (∀ (p : Pend) (v : Word) (s : State), p.act = .sreg 0 v →
    (landOne p s).core.st.a.regs = s.core.st.a.regs ∧ (landOne p s).core.st.a.empties = s.core.st.a.empties) ∧
  (∀ (v : VRes) (x : BitVec 256) (s : State), v.dst = .sreg 0 →
    (landV v x s).core.st.a.regs = s.core.st.a.regs ∧ (landV v x s).core.st.a.empties = s.core.st.a.empties) ∧
  (∀ (v : Word) (a : Arch), setReg 0 v a = a) ∧
  (∀ (flags t : Nat) (s : State), (cwaitDone 0 flags t s).core.st.a = s.core.st.a) ∧
  (∀ (f : SB) (s : State), ∃ t, exec (.call f) s = .next t ∧
    t.core = (writeS 31 0 ((s.core.st.a.pc + 1).setWidth 64) 0 s).core)

/-- The comparisons of 03 R82: constructor and relation. -/
def Claims.compareRows : List ((SR → Instr) × (Word → Word → Bool)) :=
  [(.ceq, fun a b => decide (a = b)), (.cne, fun a b => decide (a ≠ b)), (.clt, fun a b => decide (a.toInt < b.toInt)),
   (.cle, fun a b => decide (a.toInt ≤ b.toInt)), (.cltu, fun a b => decide (a.toNat < b.toNat)),
   (.cleu, fun a b => decide (a.toNat ≤ b.toNat))]

/-- 03 R82: each comparison answers the state in which 1 is pending for rd in class LC0 when its relation holds, and 0 otherwise. -/
def Obligations.ComparisonResults : Prop :=
  ∀ r ∈ Claims.compareRows, ∀ (f : SR) (s : State) (a b : Word), readS f.ra s = .ok a → readS f.rb s = .ok b →
    exec (r.1 f) s = .next (writeS f.rd 0 (if r.2 a b then 1 else 0) 0 s)

/-- 03 R83 and R84: `ext` and `ins` by the bits of their results, in class LC0; a field that ends beyond bit 63 or has no bit is illegal;
`ins` stalls while rd is empty and raises nothing for it; `lea` is the sum of its base, its scaled index and its displacement, in class
LC0, and its form without an index, rb = s0 and sh = 0, is base and displacement. -/
def Obligations.BitFieldsAndAddresses : Prop :=
  (∀ (f : SF) (s : State) (a : Word), readS f.ra s = .ok a →
    ∃ v, exec (.ext f) s = .next (writeS f.rd 0 v 0 s) ∧
      ∀ i < 64, v.getLsbD i = (decide (i < f.len.toNat) && a.getLsbD (f.pos.toNat + i))) ∧
  (∀ (f : SF) (s : State) (a old : Word), f.pos.toNat + f.len.toNat ≤ 64 → readS f.ra s = .ok a → readS (f.rd &&& 31) s = .ok old →
    ∃ v, exec (.ins f) s = .next (writeS f.rd 0 v 0 s) ∧
      ∀ i < 64, v.getLsbD i = if f.pos.toNat ≤ i ∧ i < f.pos.toNat + f.len.toNat then a.getLsbD (i - f.pos.toNat) else old.getLsbD i) ∧
  (∀ (f : SF), 64 < f.pos.toNat + f.len.toNat ∨ f.len = 0 → (Instr.ext f).wf = false ∧ (Instr.ins f).wf = false) ∧
  (∀ (f : SF) (s : State) (a : Word), readS f.ra s = .ok a → f.rd.setWidth 5 ≠ (0 : BitVec 5) →
    atomicHeld s (f.rd.setWidth 5) = false → s.core.st.a.empties[(f.rd.setWidth 5 : BitVec 5).toNat] = true →
      exec (.ins f) s = .next { s with ctx := { s.ctx with stall := true } }) ∧
  (∀ (f : SL) (s : State) (a b : Word), readS f.ra s = .ok a → readS f.rb s = .ok b →
    exec (.lea f) s = .next (writeS f.rd 0 (a + b * BitVec.ofNat 64 (2 ^ f.sh.toNat) + f.disp.signExtend 64) 0 s)) ∧
  (∀ (f : SL) (s : State) (a : Word), readS f.ra s = .ok a → f.rb = 0 → f.sh = 0 →
    exec (.lea f) s = .next (writeS f.rd 0 (a + f.disp.signExtend 64) 0 s))

/-- The divide operations (03 R80): constructor and value. -/
def Claims.divRows : List ((SR → Instr) × (Word → Word → Word)) :=
  [(.div, fun a b => if b = 0 then BitVec.allOnes 64 else a.sdiv b), (.divu, fun a b => if b = 0 then BitVec.allOnes 64 else a.udiv b),
   (.rem, fun a b => if b = 0 then a else a.srem b), (.remu, fun a b => if b = 0 then a else a.umod b)]

/-- 03 R80: with no divide outstanding, each of them is to make rd empty at the end of its bundle, with the quotient truncated toward zero
or the remainder of the dividend's sign, to land between 18 and 66 clocks after its issue; the cases of rb = 0 and of −2^63 by −1 are the
table's. A divide issued while another is outstanding waits. It never traps. -/
def Obligations.DivideResults : Prop :=
  (∀ r ∈ Claims.divRows, ∀ (f : SR) (s : State) (a b : Word), readS f.ra s = .ok a → readS f.rb s = .ok b →
    (s.core.st.vls.any (·.div) = false →
      ∃ t at_, exec (r.1 f) s = .next t ∧ s.now + 18 ≤ at_ ∧ at_ ≤ s.now + 66 ∧ t.core = s.core ∧
        t.ctx.ends = s.ctx.ends ++ [.produce ⟨s.nextId, .sreg (f.rd.setWidth 5), some ((r.2 a b).setWidth 256), s.now, true, false, true⟩] ∧
        t.ctx.cause = s.ctx.cause ∧ t.agenda = s.agenda ++ [⟨at_, .variableLatencyResult s.core.id s.nextId⟩]) ∧
    (s.core.st.vls.any (·.div) = true → exec (r.1 f) s = .next { s with ctx := { s.ctx with stall := true } })) ∧
  (∀ (a b : Word), b ≠ 0 → a = a.sdiv b * b + a.srem b ∧ a = a.udiv b * b + a.umod b ∧
    (a.srem b = 0 ∨ (a.srem b).msb = a.msb) ∧ ((a ≠ BitVec.intMin 64 ∨ b ≠ BitVec.allOnes 64) → (a.sdiv b).toInt = a.toInt.tdiv b.toInt)) ∧
  ((BitVec.intMin 64).sdiv (BitVec.allOnes 64) = BitVec.intMin 64 ∧ (BitVec.intMin 64).srem (BitVec.allOnes 64) = 0) ∧
  (∀ (v : VRes) (r : BitVec 5) (s : State), v.dst = .sreg r → r ≠ 0 →
    (doEnd s (.produce v)).core.st.a.empties[r.toNat] = true ∧ v ∈ (doEnd s (.produce v)).core.st.vls)

/-- 03 R89: `lbrk` pops l0 and leaves the bundle to go on where that loop's last iteration would have led from its END bundle; `lidx` reads
INDEX of a live entry in class LC0; INDEX is 0 when the entry is pushed and rises by one at each back-edge; an entry that is not live raises
the loop-stack fault with TRAPINFO 1; `lidx` of an entry above 5 is illegal. -/
def Obligations.LoopStackReads : Prop :=
  (∀ (s : State) (e : LoopEnt) (rest : List LoopEnt), s.core.st.a.loops = e :: rest →
    (∃ t, exec .lbrk s = .next t ∧ t.core.st.a = { s.core.st.a with loops := rest } ∧ t.ctx.nxt = .brk e.last) ∧
    ((e :: rest).length ≤ 6 → (nextPc (.brk e.last) { s.core.st.a with loops := rest }).1 =
        (nextPc .inSeq { s.core.st.a with pc := e.last, loops := { e with count := 1 } :: rest }).1 ∧
      (nextPc (.brk e.last) { s.core.st.a with loops := rest }).2.loops =
        (nextPc .inSeq { s.core.st.a with pc := e.last, loops := { e with count := 1 } :: rest }).2.loops)) ∧
  (∀ (f : SX) (s : State) (e : LoopEnt), s.core.st.a.loops[f.n.toNat]? = some e →
    exec (.lidx f) s = .next (writeS f.reg 0 (e.index.setWidth 64) 0 s)) ∧
  (∀ (f : SQ) (s : State), f.cnt ≠ 0 → s.core.st.a.loops.length < 6 → ∃ t e, exec (.loopi f) s = .next t ∧
    t.core.st.a.loops = e :: s.core.st.a.loops ∧ e.index = 0) ∧
  (∀ (a : Arch) (e : LoopEnt) (rest : List LoopEnt), a.loops = e :: rest → e.last = a.pc → 1 < e.count.toNat →
    ∃ g, (nextPc .inSeq a).2.loops = g :: rest ∧ g.index = e.index + 1) ∧
  (∀ (f : SX) (s : State), s.core.st.a.loops.length ≤ f.n.toNat → exec (.lidx f) s =
    .next (mapCtx (fun k => { k with cause := some ⟨0x0A, 1, some s.ctx.slot⟩ }) (takeTrap finishSaves ⟨0x0A, 1, some s.ctx.slot⟩ s))) ∧
  (∀ (s : State), s.core.st.a.loops = [] → exec .lbrk s =
    .next (mapCtx (fun k => { k with cause := some ⟨0x0A, 1, some s.ctx.slot⟩ }) (takeTrap finishSaves ⟨0x0A, 1, some s.ctx.slot⟩ s))) ∧
  (∀ (f : SX), 5 < f.n → (Instr.lidx f).wf = false)

/-- 05 R135: a draw replaces SEED by the three shifts and exclusive-ors and takes its bits [63:48]; a SEED that is not 0 stays so. The
example's draw from SEED 1 is 0. -/
def Obligations.GeneratorSteps : Prop :=
  (∀ x : Word, rngNext x = let a := x ^^^ (x <<< 13); let b := a ^^^ (a >>> 7); b ^^^ (b <<< 17)) ∧
  (∀ (n : Nat) (s : State), ∃ r, (draws 2 (n + 1) s).1 = r :: (draws 2 n (mapArch (fun a => { a with seed := rngNext a.seed }) s)).1 ∧
    r = ((rngNext s.core.st.a.seed).extractLsb' 48 16 : BitVec 16).toNat ∧
    (draws 2 (n + 1) s).2 = (draws 2 n (mapArch (fun a => { a with seed := rngNext a.seed }) s)).2) ∧
  (∀ x : Word, x ≠ 0 → rngNext x ≠ 0) ∧ rngNext 1 = 0x40822041 ∧ ((rngNext 1).extractLsb' 48 16 : BitVec 16) = 0

/-! ### Scalar registers and the S slot (03) -/

/-- The state with one more held piece, of the bundle in issue. -/
def Claims.holding (p : Held) (t : State) : State :=
  { t with core := { t.core with held := t.core.held ++ [p] }, ctx := { t.ctx with ownHeld := t.ctx.ownHeld + 1 } }

/-- The state after a trap of the slot in execution: taken, and its cause noted for the bundle. -/
def Claims.trapped (code : Nat) (info : Word) (s : State) : State :=
  mapCtx (fun k => { k with cause := some ⟨code, info, some s.ctx.slot⟩ }) (takeTrap finishSaves ⟨code, info, some s.ctx.slot⟩ s)

/-- s0 reads 0; another register that is full, awaits no atomic of its region and has no due result reads its value (01 R16, R32). -/
def Claims.ScalarReads : Prop :=
  (∀ (f : BitVec 6) (s : State), f.setWidth 5 = (0 : BitVec 5) → readS f s = .ok 0) ∧
  (∀ (f : BitVec 6) (s : State), f.setWidth 5 ≠ (0 : BitVec 5) → atomicHeld s (f.setWidth 5) = false → s.core.st.pend = [] →
    s.core.sq = [] → s.core.st.a.empties[(f.setWidth 5 : BitVec 5).toNat] = false →
      readS f s = .ok s.core.st.a.regs[(f.setWidth 5 : BitVec 5).toNat]) ∧
  (∀ (f : BitVec 6) (s : State), f.setWidth 5 ≠ (0 : BitVec 5) → atomicHeld s (f.setWidth 5) = false →
    s.core.st.a.empties[(f.setWidth 5 : BitVec 5).toNat] = true →
      readS f s = if f.getLsbD 5 then .error (.trap ⟨0x02, (f.setWidth 5 : BitVec 5).setWidth 64, some s.ctx.slot⟩) else .error .stall)

/-- The two-operand operations of 03 R79: constructor, latency class, value. -/
def Claims.alu2Rows : List ((SR → Instr) × Nat × (Word → Word → Word)) :=
  [(.add, 0, fun a b => a + b), (.sub, 0, fun a b => a - b), (.mul, 1, fun a b => a * b),
   (.mulh, 1, fun a b => (a.signExtend 128 * b.signExtend 128).extractLsb' 64 64),
   (.mulhu, 1, fun a b => (a.setWidth 128 * b.setWidth 128).extractLsb' 64 64),
   (.and, 0, fun a b => a &&& b), (.or, 0, fun a b => a ||| b), (.xor, 0, fun a b => a ^^^ b),
   (.shl, 0, fun a b => a <<< (b.extractLsb' 0 6).toNat), (.shr, 0, fun a b => a >>> (b.extractLsb' 0 6).toNat),
   (.sar, 0, fun a b => a.sshiftRight (b.extractLsb' 0 6).toNat),
   (.min, 0, fun a b => if a.slt b then a else b), (.max, 0, fun a b => if a.slt b then b else a),
   (.minu, 0, fun a b => if a.ult b then a else b), (.maxu, 0, fun a b => if a.ult b then b else a)]

/-- Each of them answers the state in which its value is pending for rd in its class. -/
def Claims.IntegerTable : Prop :=
  ∀ r ∈ Claims.alu2Rows, ∀ (f : SR) (s : State) (a b : Word), readS f.ra s = .ok a → readS f.rb s = .ok b →
    exec (r.1 f) s = .next (writeS f.rd r.2.1 (r.2.2 a b) 0 s)

/-- `clz`, `popc` and `sel` (03 R79) and `movi` (03 R81). -/
def Claims.OneSourceResults : Prop :=
  (∀ (f : SR) (s : State) (a : Word), readS f.ra s = .ok a →
    ∃ v, exec (.clz f) s = .next (writeS f.rd 0 v 0 s) ∧ v.toNat ≤ 64 ∧ a.toNat < 2 ^ (64 - v.toNat) ∧
      (a = 0 → v = 64) ∧ (a ≠ 0 → 2 ^ (63 - v.toNat) ≤ a.toNat)) ∧
  (∀ (f : SR) (s : State) (a : Word), readS f.ra s = .ok a →
    exec (.popc f) s = .next (writeS f.rd 0 (BitVec.ofNat 64 ((List.range 64).filter fun i => a.getLsbD i).length) 0 s)) ∧
  (∀ (f : SR) (s : State) (a b c : Word), readS f.ra s = .ok a → readS f.rb s = .ok b → readS f.rc s = .ok c →
    exec (.sel f) s = .next (writeS f.rd 0 (if a = 0 then c else b) 0 s)) ∧
  (∀ (f : SW) (s : State), exec (.movi f) s = .next (writeS f.rd 0 (f.imm.signExtend 64) 0 s))

/-- The operations with an immediate (03 R81): constructor and value, from ra and the sign-extended immediate. -/
def Claims.immRows : List ((SI → Instr) × (Word → Word → Word)) :=
  [(.addi, fun a i => a + i), (.andi, fun a i => a &&& i), (.ori, fun a i => a ||| i), (.xori, fun a i => a ^^^ i),
   (.shli, fun a i => a <<< i.toNat), (.shri, fun a i => a >>> i.toNat), (.sari, fun a i => a.sshiftRight i.toNat),
   (.movhi, fun a i => (i.extractLsb' 0 32 : BitVec 32) ++ (a.extractLsb' 0 32 : BitVec 32)),
   (.ceqi, fun a i => if a = i then 1 else 0), (.clti, fun a i => if a.slt i then 1 else 0)]

/-- Each well-formed one answers the state in which its value is pending for rd in class LC0. -/
def Claims.ImmediateResults : Prop :=
  ∀ r ∈ Claims.immRows, ∀ (f : SI) (s : State) (a : Word), (r.1 f).wf = true → readS f.ra s = .ok a →
    exec (r.1 f) s = .next (writeS f.rd 0 (r.2 a (f.imm.signExtend 64)) 0 s)

/-- The scalar instructions that write one register and nothing else. -/
def Claims.scalarOnly : Instr → Bool
  | .add _ | .sub _ | .mul _ | .mulh _ | .mulhu _ | .and _ | .or _ | .xor _ | .shl _ | .shr _ | .sar _ | .min _ | .max _ | .minu _
  | .maxu _ | .clz _ | .popc _ | .sel _ | .addi _ | .andi _ | .ori _ | .xori _ | .shli _ | .shri _ | .sari _ | .movi _ | .movhi _
  | .lea _ | .ext _ | .ins _ | .ceq _ | .cne _ | .clt _ | .cle _ | .cltu _ | .cleu _ | .ceqi _ | .clti _ | .lidx _ | .spld _
  | .sysrd _ | .capq _ | .hget _ | .pget _ | .knget _ => true
  | _ => false

/-- Their frame (03 R78): where no trap is raised, every byte of memory, every register but the one whose result is pending, FLAGS, the
loop stack, handles, ports, the shadow set, the trap registers, the scratchpad, banks, counters and every other part of the machine are
as before; only the pending results, their order count and the bundle's own context may differ. -/
def Claims.ScalarOnlyFrame : Prop :=
  ∀ (i : Instr) (s t : State), Claims.scalarOnly i = true → exec i s = .next t → t.ctx.cause = none →
    (∀ a, rdByte t a = rdByte s a) ∧ (∀ r, regVal t r = regVal s r) ∧ t.core.st.a = s.core.st.a ∧
    (∃ new, t.core.st.pend = s.core.st.pend ++ new ∧ new.length ≤ 1) ∧
    t = { s with
      core := { s.core with st := { s.core.st with pend := t.core.st.pend, seq := t.core.st.seq } },
      ctx := { s.ctx with stall := t.ctx.stall } }

/-- A landing result writes its register and sets it full; landing in s0 changes no register; its flags are ORed into FLAGS
(01 R16, R30, R31). -/
def Claims.LandingWritesRegister : Prop :=
  ∀ (p : Pend) (r : BitVec 5) (v : Word) (s : State), p.act = .sreg r v →
    (landOne p s).core.st.a.flags = s.core.st.a.flags ||| p.flags ∧
    (r = 0 → (landOne p s).core.st.a.regs = s.core.st.a.regs) ∧
    (r ≠ 0 → regVal (landOne p s) r = v ∧ (landOne p s).core.st.a.empties[r.toNat] = false) ∧
    (∀ q, q ≠ r → regVal (landOne p s) q = regVal s q) ∧
    (∀ a, rdByte (landOne p s) a = rdByte s a)

/-! ### Control transfer (03 R85-R91, 01 R26, R34-R40) -/

/-- Transfers: the bundle's next address is the target, by the sign-extended offset (03 R85); `call` leaves PC + 1 pending for s31;
`jr` goes where its register says when bits [63:51] are 0 and raises the access fault with the register's value otherwise. -/
def Claims.TransferTargets : Prop :=
  (∀ (f : SB) (s : State) (a : Word), readS f.ra s = .ok a →
    exec (.br f) s = .next (if a = 0 then s else { s with ctx := { s.ctx with nxt := .take (s.core.st.a.pc + f.off.signExtend 51) } }) ∧
    exec (.brZ f) s = .next (if a = 0 then { s with ctx := { s.ctx with nxt := .take (s.core.st.a.pc + f.off.signExtend 51) } } else s)) ∧
  (∀ (f : SB) (s : State),
    exec (.jmp f) s = .next { s with ctx := { s.ctx with nxt := .take (s.core.st.a.pc + f.off.signExtend 51) } }) ∧
  (∀ (f : SB) (s : State), ∃ t, exec (.call f) s = .next t ∧ t.ctx.nxt = .take (s.core.st.a.pc + f.off.signExtend 51) ∧
    t.core = (writeS 31 0 ((s.core.st.a.pc + 1).setWidth 64) 0 s).core) ∧
  (∀ (f : SX) (s : State) (a : Word), readS f.reg s = .ok a →
    (a.extractLsb' 51 13 = (0 : BitVec 13) →
      exec (.jr f) s = .next { s with ctx := { s.ctx with nxt := .take (a.extractLsb' 0 51) } }) ∧
    (a.extractLsb' 51 13 ≠ (0 : BitVec 13) →
      exec (.jr f) s = .next (mapCtx (fun k => { k with cause := some ⟨0x21, a, some s.ctx.slot⟩ })
        (takeTrap finishSaves ⟨0x21, a, some s.ctx.slot⟩ s))))

/-- `loop` and `loopi` (03 R87): a count of at least 1 pushes l0 = (count, 0, PC + 1, PC + END) while fewer than six entries are live;
a seventh raises the loop-stack fault with TRAPINFO 0; a count of 0 pushes nothing and skips the body. `loop` clamps its signed count. -/
def Claims.LoopPush : Prop :=
  (∀ (f : SQ) (s : State),
    (f.cnt = 0 → exec (.loopi f) s = .next { s with ctx := { s.ctx with nxt := .skip (s.core.st.a.pc + f.last.setWidth 51) } }) ∧
    (f.cnt ≠ 0 → s.core.st.a.loops.length < 6 →
      exec (.loopi f) s = .next (mapArch (fun a => { a with
        loops := ⟨f.cnt, 0, a.pc + 1, a.pc + f.last.setWidth 51⟩ :: a.loops }) s)) ∧
    (f.cnt ≠ 0 → 6 ≤ s.core.st.a.loops.length → exec (.loopi f) s =
      .next (mapCtx (fun k => { k with cause := some ⟨0x0A, 0, some s.ctx.slot⟩ })
        (takeTrap finishSaves ⟨0x0A, 0, some s.ctx.slot⟩ s)))) ∧
  (∀ (f : SP) (s : State) (a : Word), readS f.ra s = .ok a →
    (a.toInt ≤ 0 → exec (.loop f) s = .next { s with ctx := { s.ctx with nxt := .skip (s.core.st.a.pc + f.last.setWidth 51) } }) ∧
    (0 < a.toInt → s.core.st.a.loops.length < 6 → ∃ n : BitVec 32, (n.toNat : Int) = min a.toInt 4294967295 ∧
      exec (.loop f) s = .next (mapArch (fun a => { a with
        loops := ⟨n, 0, a.pc + 1, a.pc + f.last.setWidth 51⟩ :: a.loops }) s)) ∧
    (0 < a.toInt → 6 ≤ s.core.st.a.loops.length → exec (.loop f) s =
      .next (mapCtx (fun k => { k with cause := some ⟨0x0A, 0, some s.ctx.slot⟩ })
        (takeTrap finishSaves ⟨0x0A, 0, some s.ctx.slot⟩ s))))

/-- The next address of a bundle (03 R88): a taken transfer leaves the loop stack as it is; otherwise l0 is tested against the bundle's
address (or the skipped or broken loop's last bundle), goes back while its count lasts, and is popped and the next one tested when it
ends. -/
def Claims.NextAddress : Prop :=
  (∀ (t : BPc) (a : Arch), nextPc (.take t) a = (t, a)) ∧
  (∀ (a : Arch), (∀ e ∈ a.loops.head?, e.last ≠ a.pc) → nextPc .inSeq a = (a.pc + 1, a)) ∧
  (∀ (a : Arch) (e : LoopEnt) (rest : List LoopEnt), a.loops = e :: rest → e.last = a.pc → 1 < e.count.toNat →
    nextPc .inSeq a = (e.start, { a with loops := { e with count := e.count - 1, index := e.index + 1 } :: rest })) ∧
  (∀ (a : Arch) (e : LoopEnt) (rest : List LoopEnt), a.loops = e :: rest → a.loops.length ≤ 6 → e.last = a.pc → e.count.toNat ≤ 1 →
    nextPc .inSeq a = nextPc .inSeq { a with loops := rest }) ∧
  (∀ (a : Arch) (last : BPc), (∀ e ∈ a.loops.head?, e.last ≠ last) → nextPc (.brk last) a = (last + 1, a)) ∧
  (∀ (a : Arch) (last : BPc), (∀ e ∈ a.loops.head?, e.last ≠ a.pc) → nextPc (.skip last) a = (last + 1, a))

/-- `trap` takes the trap of code 0x04 with its immediate (03 R91): outside a handler, with a vector table, the strand is rolled back,
TRAPPC holds the bundle's address, TRAPCAUSE the code with slot and SV, TRAPINFO the immediate, STATUS.TM is set, and the strand goes on
at TRAPBASE + 4, which HCKPT holds (01 R24, R35, R36, R39). -/
def Claims.TrapInstructionEnters : Prop :=
  ∀ (f : SX) (s : State), s.core.st.tm = false → s.core.st.trapBase ≠ 0 → s.ctx.slot < 8 →
    ∃ t, exec (.trap f) s = .next t ∧ t.core.st.trapPc = s.core.st.a.pc ∧ t.core.st.trapInfo = f.imm.setWidth 64 ∧
      t.core.st.trapCause = BitVec.ofNat 64 (0x04 + 256 * s.ctx.slot + 2048) ∧ t.core.st.tm = true ∧
      t.core.st.a = { s.core.st.shadow with pc := s.core.st.trapBase + 4 } ∧ t.core.st.hckpt = s.core.st.trapBase + 4 ∧
      t.core.st.shadow = s.core.st.shadow ∧ t.core.held = [] ∧ t.core.st.retry = 0 ∧ (∀ a, rdByte t a = rdByte s a)

/-- A class I trap of any code does the same (01 R34-R36): codes 0x01 to 0x0A vector through TRAPBASE. -/
def Claims.ClassITrapEntry : Prop :=
  ∀ (c : Cause) (s : State), 1 ≤ c.code → c.code ≤ 0x0A → s.core.st.tm = false → s.core.st.trapBase ≠ 0 →
    (takeTrap finishSaves c s).core.st.trapPc = s.core.st.a.pc ∧ (takeTrap finishSaves c s).core.st.trapInfo = c.info ∧
    bits (takeTrap finishSaves c s).core.st.trapCause.toNat 7 0 = c.code ∧ (takeTrap finishSaves c s).core.st.tm = true ∧
    (takeTrap finishSaves c s).core.st.a.pc = s.core.st.trapBase + BitVec.ofNat 51 c.code ∧
    (takeTrap finishSaves c s).core.st.a.regs = s.core.st.shadow.regs ∧ (takeTrap finishSaves c s).core.st.run = s.core.st.run

/-- A class E cause, and any trap in a handler, stop the strand and send one report to its fault domain (01 R38, R40). In a handler, or
without a vector table for a class I cause, the report carries the handler fault 0x29, and as TRAPINFO the code of the cause that could
not be handled. -/
def Claims.EscalatedTrap : Prop :=
  (∀ (c : Cause) (s : State), s.core.st.tm = false → 0x20 ≤ c.code → c.code ≤ 0x28 →
    (takeTrap finishSaves c s).core.st.run = .stopped ∧ (takeTrap finishSaves c s).core.st.trapPc = s.core.st.a.pc ∧
    ∃ d ∈ (takeTrap finishSaves c s).agenda, ∃ r, d.act = .faultReport r ∧ r.code = c.code ∧ r.info = c.info ∧ r.async = false) ∧
  (∀ (c : Cause) (s : State), s.core.st.tm = true →
    (takeTrap finishSaves c s).core.st.run = .stopped ∧ (takeTrap finishSaves c s).core.st.tm = true ∧
    ∃ d ∈ (takeTrap finishSaves c s).agenda, ∃ r, d.act = .faultReport r ∧ r.code = 0x29 ∧ r.info = BitVec.ofNat 64 c.code ∧
      r.async = false) ∧
  (∀ (c : Cause) (s : State), s.core.st.tm = false → s.core.st.trapBase = 0 → 1 ≤ c.code → c.code ≤ 0x0A →
    (takeTrap finishSaves c s).core.st.run = .stopped ∧ (takeTrap finishSaves c s).core.st.tm = false ∧
    (takeTrap finishSaves c s).core.st.trapPc = s.core.st.a.pc ∧
    ∃ d ∈ (takeTrap finishSaves c s).agenda, ∃ r, d.act = .faultReport r ∧ r.code = 0x29 ∧ r.info = BitVec.ofNat 64 c.code ∧
      r.async = false)

/-- `eret` (01 R37): in a handler the strand goes on at CKPTPC with STATUS.TM clear and the shadow set captured there; outside one it
raises the illegal-encoding trap (03 R91). -/
def Claims.HandlerReturn : Prop :=
  (∀ (s : State), s.core.st.tm = true → ∃ t, exec .eret s = .next t ∧ t.core.st.tm = false ∧ t.ctx.nxt = .take s.core.st.ckptPc ∧
    t.core.st.a = { s.core.st.a with pc := s.core.st.ckptPc } ∧ t.core.st.shadow = t.core.st.a ∧ t.ctx.cause = s.ctx.cause ∧
    (∀ a, rdByte t a = rdByte s a) ∧ t.core.scratch = s.core.scratch) ∧
  (∀ (s : State), s.core.st.tm = false → exec .eret s =
    .next (mapCtx (fun k => { k with cause := some ⟨0x01, s.ctx.syl, some s.ctx.slot⟩ })
      (takeTrap finishSaves ⟨0x01, s.ctx.syl, some s.ctx.slot⟩ s)))

/-- `halt` ends the strand with its bundle (01 R26): its meaning marks the bundle, and the bundle's end leaves the strand halted; where the
bundle also waits (10 R240), the strand is left running and marked, and ends when its wait does. -/
def Claims.HaltEndsStrand : Prop :=
  (∀ (s : State), exec .halt s = .next { s with ctx := { s.ctx with halts := true } }) ∧
  (∀ (s : State), s.ctx.halts = true → s.ctx.yields = false → s.core.st.run = .running → s.ctx.wait = .none →
    (finishBundle s).core.st.run = .halted) ∧
  (∀ (s : State), s.ctx.halts = true → s.ctx.yields = false → s.core.st.run = .running → s.ctx.wait ≠ .none →
    (finishBundle s).core.st.run = .running ∧ (finishBundle s).core.st.ending = true ∧ (finishBundle s).core.st.wait = s.ctx.wait)

/-! ### System registers, spill memory, handles and ports (01 R18, R20, R21; 03 R92-R105) -/

/-- `sysrd` leaves the register's value pending for rd in class LC0 (03 R93), field by field for STATUS and CAPS (01 R21) in a state whose
counts are in range, and whole for the others. -/
def Claims.SystemReads : Prop :=
  ∀ (f : SX) (s : State), exec (.sysrd f) s = .next (writeS f.reg 0 (sysReg s f.n.toNat) 0 s) ∧
    (f.n = 0 → s.core.held.length ≤ 128 → s.core.st.a.loops.length ≤ 6 → s.core.st.retry ≤ 3 →
      (sysReg s f.n.toNat).getLsbD 0 = s.core.st.tm ∧ (sysReg s f.n.toNat).getLsbD 1 = s.core.st.pin ∧
      (sysReg s f.n.toNat).getLsbD 2 = !s.core.held.isEmpty ∧
      ((sysReg s f.n.toNat).extractLsb' 3 8).toNat = s.core.held.length ∧
      ((sysReg s f.n.toNat).extractLsb' 11 3).toNat = s.core.st.a.loops.length ∧
      ((sysReg s f.n.toNat).extractLsb' 14 2).toNat = s.core.st.retry ∧ (sysReg s f.n.toNat).extractLsb' 16 48 = (0 : BitVec 48)) ∧
    (f.n = 6 → s.core.split ≤ 3 →
      (sysReg s f.n.toNat).extractLsb' 0 5 = (if isL s.core.id then 0b10011 else 0b11111 : BitVec 5) ∧
      (sysReg s f.n.toNat).getLsbD 8 = isL s.core.id ∧ (sysReg s f.n.toNat).extractLsb' 12 4 = (2 : BitVec 4) ∧
      ((sysReg s f.n.toNat).extractLsb' 16 2).toNat = s.core.split) ∧
    (f.n = 1 → sysReg s f.n.toNat = s.core.st.trapCause) ∧ (f.n = 2 → sysReg s f.n.toNat = s.core.st.trapPc.setWidth 64) ∧
    (f.n = 3 → sysReg s f.n.toNat = s.core.st.trapInfo) ∧ (f.n = 4 → sysReg s f.n.toNat = s.core.st.ckptPc.setWidth 64) ∧
    (f.n = 5 → sysReg s f.n.toNat = s.core.st.lathdr.setWidth 64) ∧ (f.n = 7 → sysReg s f.n.toNat = s.core.id.setWidth 64) ∧
    (f.n = 8 → sysReg s f.n.toNat = s.core.st.gangId) ∧ (f.n = 9 → sysReg s f.n.toNat = s.core.st.gangDim) ∧
    (f.n = 10 → sysReg s f.n.toNat = s.core.st.strandIx) ∧ (f.n = 11 → sysReg s f.n.toNat = s.core.st.a.seed) ∧
    (f.n = 12 → sysReg s f.n.toNat = BitVec.ofNat 64 s.now) ∧ (f.n = 13 → sysReg s f.n.toNat = s.core.st.a.flags.setWidth 64) ∧
    (f.n = 14 → sysReg s f.n.toNat = s.core.st.trapBase.setWidth 64) ∧
    (f.n = 15 → (sysReg s f.n.toNat).getLsbD 0 = s.core.sstep ∧ (sysReg s f.n.toNat).getLsbD 1 = s.core.brken ∧
      (sysReg s f.n.toNat).getLsbD 2 = s.core.dstop ∧ (sysReg s f.n.toNat).extractLsb' 3 61 = (0 : BitVec 61))

/-- `syswr` defers its write to the end of its bundle (03 R94), where each field obeys its access code (01 R7, R21; 03 R93): TRAPPC and
TRAPBASE take bits [50:0], CKPTPC only in a handler, SEED stores 1 in place of 0, FLAGS is write-one-to-clear, but a flag that a result
landing in the same strand cycle sets stays set (R94), any other register ignores the write. -/
def Claims.SystemWrites : Prop :=
  (∀ (f : SX) (s : State) (a : Word), readS f.reg s = .ok a →
    exec (.syswr f) s = .next { s with ctx := { s.ctx with ends := s.ctx.ends ++ [.syswr f.n.toNat a] } }) ∧
  (∀ (s : State) (a : Word),
    (doEnd s (.syswr 2 a)).core.st.trapPc = a.extractLsb' 0 51 ∧ (doEnd s (.syswr 14 a)).core.st.trapBase = a.extractLsb' 0 51 ∧
    (s.core.st.tm = true → (doEnd s (.syswr 4 a)).core.st.ckptPc = a.extractLsb' 0 51) ∧
    (s.core.st.tm = false → doEnd s (.syswr 4 a) = s) ∧
    (a ≠ 0 → (doEnd s (.syswr 11 a)).core.st.a.seed = a) ∧ (doEnd s (.syswr 11 0)).core.st.a.seed = 1 ∧
    (∀ i < 3, (doEnd s (.syswr 13 a)).core.st.a.flags.getLsbD i =
      ((s.core.st.a.flags.getLsbD i && !a.getLsbD i) || s.core.st.fresh.getLsbD i)) ∧
    ∀ n, n ≠ 2 → n ≠ 4 → n ≠ 11 → n ≠ 13 → n ≠ 14 → doEnd s (.syswr n a) = s)

/-- `spst` writes one spill word and `spld` leaves a word pending for rd in class LC2 (03 R92). -/
def Claims.SpillAccess : Prop :=
  (∀ (f : SX) (s : State) (a : Word), readS f.reg s = .ok a → SMap.wf 0 s.core.st.spill = true →
    ∃ t, exec (.spst f) s = .next t ∧ (∀ g : SX, exec (.spld g) t = .next (writeS g.reg 2 (SMap.get 0 t.core.st.spill g.n.toNat) 0 t)) ∧
      SMap.get 0 t.core.st.spill f.n.toNat = a ∧
      (∀ n, n ≠ f.n.toNat → SMap.get 0 t.core.st.spill n = SMap.get 0 s.core.st.spill n) ∧
      t = mapSt (fun x => { x with spill := t.core.st.spill }) s)

/-- `capq` (03 R95): the queries by number; those of dies and cores for a die in service and with every die in service. -/
def Claims.CapabilityQueries : Prop :=
  ∀ (f : SX) (s : State), ∃ v, exec (.capq f) s = .next (writeS f.reg 0 v 0 s) ∧
    (f.n = 0 → v = sysReg s 6) ∧
    (f.n = 1 → s.ctl.deadDies.contains (dieOf s.core.id) = false →
      v = BitVec.ofNat 64 (1296 - ((s.core :: s.others).filter fun c => c.dead && dieOf c.id == dieOf s.core.id).length)) ∧
    (f.n = 2 → s.core.split ≤ 3 → v = [196608, 180224, 163840, 131072].getD s.core.split 0) ∧
    (f.n = 3 → s.core.split ≤ 3 → v = [0, 16384, 32768, 65536].getD s.core.split 0) ∧
    (f.n = 4 → v = if isL s.core.id then 16 else 32) ∧ (f.n = 5 → v = if isL s.core.id then 32 else 16) ∧
    (f.n = 6 → v = BitVec.ofNat 64 s.core.st.spilln) ∧ (f.n = 7 → v = BitVec.ofNat 64 (128 - s.core.held.length)) ∧
    (f.n = 8 → v = s.host.modid.setWidth 64) ∧ (f.n = 9 → v = BitVec.ofNat 64 s.dom.members.length) ∧
    (s.ctl.deadDies = [] → (f.n = 10 → v = 96) ∧ (f.n = 11 → v = 32)) ∧ (f.n = 12 → v = 1500) ∧
    (f.n = 13 → v = BitVec.ofNat 64 s.core.lent)

/-- `hset` leaves a field's value pending for a handle in class LC0; landed, the field reads back by `hget` and every other field that does
not overlap it is kept (03 R98, R99). A value wider than the field, or one that makes the handle invalid, raises the illegal-encoding trap
(R97, R99); the handle that is checked is the one that the pending writes leave (log entry 135). `hmov` leaves the whole handle pending. -/
def Claims.HandleFields : Prop :=
  (∀ (f : SH) (s : State) (a : Word) (h : BitVec 256), readS f.reg s = .ok a → readH f.x s = .ok h →
    (a.toNat < 2 ^ (hField f.fld.toNat).2 →
      handleValid (setField (handleToCome f.x s) (hField f.fld.toNat).1 (hField f.fld.toNat).2 a.toNat) = true →
        exec (.hset f) s = .next (writeHField f.x (hField f.fld.toNat).1 (hField f.fld.toNat).2 a.toNat s)) ∧
    (2 ^ (hField f.fld.toNat).2 ≤ a.toNat ∨
      handleValid (setField (handleToCome f.x s) (hField f.fld.toNat).1 (hField f.fld.toNat).2 a.toNat) = false →
        exec (.hset f) s = .next (Claims.trapped 0x01 s.ctx.syl s)) ∧
    (s.core.st.pend = [] → handleToCome f.x s = h)) ∧
  (∀ (f : SH) (s : State) (h : BitVec 256), readH f.y s = .ok h →
    exec (.hget f) s = .next (writeS f.reg 0 (BitVec.ofNat 64
      (h.toNat / 2 ^ (hField f.fld.toNat).1 % 2 ^ (hField f.fld.toNat).2)) 0 s)) ∧
  (∀ (f : SH) (s : State) (h g : BitVec 256), readH f.y s = .ok h → readH f.x s = .ok g →
    exec (.hmov f) s = .next (writeHField f.x 0 256 h.toNat s)) ∧
  (∀ (h : BitVec 256) (lo w v lo' w' : Nat), 0 < w → 0 < w' → lo + w ≤ 256 → lo' + w' ≤ 256 → v < 2 ^ w →
    dfield (setField h lo w v) (lo + w - 1) lo = v ∧
    (lo' + w' ≤ lo ∨ lo + w ≤ lo' → dfield (setField h lo w v) (lo' + w' - 1) lo' = dfield h (lo' + w' - 1) lo'))

/-- `hld` reads 32 aligned bytes and makes them the handle's value by a variable-latency result when they are a valid handle; when they
are not, it raises the illegal-encoding trap; `hst` holds one piece of the handle's 32 bytes (03 R97, R98). -/
def Claims.HandleMemory : Prop :=
  (∀ (f : SH) (s t0 : State) (a : Word) (h : BitVec 256) (v : Nat), readS f.reg s = .ok a → readH f.x s = .ok h →
    (a + f.disp.signExtend 64).toNat % 32 = 0 → globalRead1 (a + f.disp.signExtend 64).toNat 32 s = .ok (v, t0) →
      (handleValid (BitVec.ofNat 256 v) = true → ∃ t at_, exec (.hld f) s = .next t ∧
        t.ctx.ends = t0.ctx.ends ++ [.produce ⟨t0.nextId, .handle f.x, some (BitVec.ofNat 256 v), t0.now, false, false, true⟩] ∧
        t.agenda = t0.agenda ++ [⟨at_, .variableLatencyResult t0.core.id t0.nextId⟩] ∧ t0.now ≤ at_ ∧ t.core = t0.core) ∧
      (handleValid (BitVec.ofNat 256 v) = false → exec (.hld f) s =
        .next (mapCtx (fun k => { k with cause := some ⟨0x01, s.ctx.syl, some s.ctx.slot⟩ })
          (takeTrap finishSaves ⟨0x01, s.ctx.syl, some s.ctx.slot⟩ s)))) ∧
  (∀ (f : SH) (s t0 : State) (a : Word) (h : BitVec 256) (pa : Nat), readS f.reg s = .ok a → readH f.y s = .ok h →
    (a + f.disp.signExtend 64).toNat % 32 = 0 → xlateW .wr (a + f.disp.signExtend 64).toNat s = .ok (pa, t0) →
    t0.core.held.length < 128 → exec (.hst f) s =
      .next (Claims.holding (storePiece pa (a + f.disp.signExtend 64).toNat (natBytes 32 h.toNat) none) t0))

/-- `pcfg` takes the 32 scratchpad bytes at the aligned offset, `pset` a value in its field's range, both for the end of the bundle;
`pget` leaves a field pending (03 R103-R105). A `pset` out of range raises the illegal-encoding trap. -/
def Claims.PortConfiguration : Prop :=
  (∀ (f : SH) (s t0 : State) (a : Word) (bs : List Byte), readS f.reg s = .ok a →
    spadRead ((offsFrom ((a + f.disp.signExtend 64) &&& ~~~31).toNat 32).map fun (n : Nat) => (n : Int)) 0
      ((a + f.disp.signExtend 64) &&& ~~~31) s = .ok (bs, t0) →
      exec (.pcfg f) s = .next { t0 with ctx := { t0.ctx with ends := t0.ctx.ends ++ [.pcfg (portIx f.x) (BitVec.ofNat 256 (leNat bs))] } }) ∧
  (∀ (f : SH) (s : State) (a : Word), readS f.reg s = .ok a →
    (psetOk f.fld.toNat a = true →
      exec (.pset f) s = .next { s with ctx := { s.ctx with ends := s.ctx.ends ++ [.pset (portIx f.x) f.fld.toNat a] } }) ∧
    (psetOk f.fld.toNat a = false → exec (.pset f) s =
      .next (mapCtx (fun k => { k with cause := some ⟨0x01, s.ctx.syl, some s.ctx.slot⟩ })
        (takeTrap finishSaves ⟨0x01, s.ctx.syl, some s.ctx.slot⟩ s)))) ∧
  (∀ (f : SH) (s : State), exec (.pget f) s = .next (writeS f.reg 0 (pgetVal (portDesc s (portIx f.x)) f.fld.toNat) 0 s)) ∧
  (∀ (s : State) (p fld : Nat) (a : Word), p < 10 → fld < 16 → psetOk fld a = true →
    pgetVal (portDesc (doEnd s (.pset p fld a)) p) fld = a)

/-! ### Loads, stores and the store-hold buffer (09, 01 R23, 12 R271) -/

/-- The held bytes of one store piece are its bytes at its addresses, and nothing elsewhere (01 R23). -/
def Claims.StorePieceBytes : Prop :=
  ∀ (pa va : Nat) (bs : List Byte) (wm : Option Nat) (a : Nat), bs.length ≤ 64 - pa % 64 →
    heldByte [storePiece pa va bs wm] a = if pa ≤ a ∧ a < pa + bs.length then bs[a - pa]? else none

/-- A read of a region whose core holds no L1 line returns, byte by byte, the region's last store to the byte held from earlier bundles,
else the byte as committed in memory (01 R23, 02 R48, 12 R271). -/
def Claims.RegionReads : Prop :=
  ∀ (s s' t : State) (va n pa : Nat) (imm : Bool) (v : Nat), coreXlate .rd va s = .ok ((pa, imm), s') → s.core.l1 = [] →
    pa % 64 + n ≤ 64 → globalRead1 va n s = .ok (v, t) →
      (∀ i < n, v / 2 ^ (8 * i) % 256 = ((heldByte (seenHeld s) (pa + i)).getD (rdByte s (pa + i))).toNat) ∧ v < 256 ^ n ∧
      (∀ a, rdByte t a = rdByte s a) ∧ t.core.held = s.core.held

/-- `ld` (09 R211) makes rd the destination of the bytes read, zero- or sign-extended; `st` (R212) enters one held piece of the register's
low bytes; a misaligned one of either raises the access fault when its pages translate, no held atomic meets the load and the store's
register can be read. -/
def Claims.ScalarGlobalAccess : Prop :=
  (∀ (f : LS) (s t0 : State) (a : Word) (v : Nat), lsAddr f s = .ok a → a.toNat % 2 ^ f.sz.toNat = 0 →
    globalRead1 a.toNat (2 ^ f.sz.toNat) s = .ok (v, t0) →
      ∃ t at_, exec (.ld f) s = .next t ∧ t0.now ≤ at_ ∧
        t.ctx.ends = t0.ctx.ends ++ [.produce ⟨t0.nextId, .sreg (f.f0.setWidth 5),
          some ((if f.ty = 6 then BitVec.ofInt 64 (sint (8 * 2 ^ f.sz.toNat) v) else BitVec.ofNat 64 v : Word).setWidth 256), s.now, false,
          false, true⟩] ∧
        t.agenda = t0.agenda ++ [⟨at_, .variableLatencyResult t0.core.id t0.nextId⟩] ∧ t.core = t0.core) ∧
  (∀ (f : LS) (s t0 : State) (a v : Word) (pa : Nat), lsAddr f s = .ok a → readS (f.f0.setWidth 6) s = .ok v →
    a.toNat % 2 ^ f.sz.toNat = 0 → xlateW .wr a.toNat s = .ok (pa, t0) → t0.core.held.length < 128 →
      exec (.st f) s = .next (Claims.holding (storePiece pa a.toNat (natBytes (2 ^ f.sz.toNat) v.toNat) none) t0)) ∧
  (∀ (f : LS) (s : State) (a : Word), lsAddr f s = .ok a → a.toNat % 2 ^ f.sz.toNat ≠ 0 →
    (∃ t, lookupTlb s a.toNat = .ok t) → (∃ t, lookupTlb s ((a.toNat + 2 ^ f.sz.toNat - 1) / 65536 * 65536) = .ok t) →
      (heldMeets (.ok a) (2 ^ f.sz.toNat) s = none →
        exec (.ld f) s = .next (mapCtx (fun k => { k with cause := some ⟨0x21, a, some s.ctx.slot⟩ })
          (takeTrap finishSaves ⟨0x21, a, some s.ctx.slot⟩ s))) ∧
      ((∃ v, readS (f.f0.setWidth 6) s = .ok v) →
        exec (.st f) s = .next (mapCtx (fun k => { k with cause := some ⟨0x21, a, some s.ctx.slot⟩ })
          (takeTrap finishSaves ⟨0x21, a, some s.ctx.slot⟩ s))))

/-- `sld` (09 R213) reads its scratchpad bytes: unqualified in class LC3, qualified as a result that leaves rd empty; `sst` (R214) leaves
its bytes pending for the scratchpad in class LC11, with the full bits of its qualifier; `sfe` (R215) changes only full/empty bits. -/
def Claims.ScratchpadInstructions : Prop :=
  (∀ (f : LS) (s t0 : State) (a : Word) (bs : List Byte), lsAddr f s = .ok a →
    spadRead (spadOffs a (2 ^ f.sz.toNat)) f.fe.toNat a s = .ok (bs, t0) →
      (f.fe = 0 → exec (.sld f) s = .next (writeS (f.f0.setWidth 6) 3 (lsExtend f (leNat bs)) 0 t0)) ∧
      (f.fe ≠ 0 → ∃ t, exec (.sld f) s = .next t ∧ t.core = t0.core ∧
        t.ctx.ends = t0.ctx.ends ++ [.produce ⟨t0.nextId, .sreg (f.f0.setWidth 5), some ((lsExtend f (leNat bs)).setWidth 256),
          s.now + real s 3, false, false, true⟩])) ∧
  (∀ (f : LS) (s : State) (a v : Word), lsAddr f s = .ok a → readS (f.f0.setWidth 6) s = .ok v →
    spadWriteCheck (spadOffs a (2 ^ f.sz.toNat)) f.fe.toNat a s = .ok () →
      exec (.sst f) s = .next (writeSpad 11 ((offsFrom a.toNat (2 ^ f.sz.toNat)).zip (natBytes (2 ^ f.sz.toNat) v.toNat))
        (if f.fe = 0 then [] else ((offsFrom a.toNat (2 ^ f.sz.toNat)).map (· / 16)).eraseDups.map fun g => (g, true)) 0 s)) ∧
  (∀ (f : LS) (s : State) (a n : Word), lsAddr f s = .ok a → readS (f.f0.setWidth 6) s = .ok n →
    (n = 0 → exec (.sfe f) s = .next s) ∧
    (n ≠ 0 → a.toNat + 16 * n.toNat ≤ splitBytes s.core.split → ∃ bits, exec (.sfe f) s = .next (writeSpad 11 [] bits 0 s) ∧
      (∀ g, (∃ b, (g, b) ∈ bits) ↔ a.toNat / 16 ≤ g ∧ 16 * g < a.toNat + 16 * n.toNat) ∧ ∀ e ∈ bits, e.2 = (f.fe == 2)))

/-- The window check (04 R108): a scratchpad read with a byte outside the split raises the window fault with the offset; one inside whose
granules meet its qualifier, with no write due, returns its bytes, and a clearing read empties its granules at the end of the bundle. -/
def Claims.ScratchpadReads : Prop :=
  ∀ (offs : List Int) (fe : Nat) (info : Word) (s : State),
    (inWindow s offs = false → spadRead offs fe info s = .error (.trap ⟨0x05, info, some s.ctx.slot⟩)) ∧
    (inWindow s offs = true → fe ≠ 0 → (∃ o ∈ offs, SMap.get false s.core.full (o.toNat / 16) = false) → spadRead offs fe info s = .error .stall) ∧
    (inWindow s offs = true → (fe ≠ 0 → ∀ o ∈ offs, SMap.get false s.core.full (o.toNat / 16) = true) → s.core.st.pend = [] →
      s.core.st.imgs = [] → s.core.mq = [] → s.core.sq = [] →
        ∃ t, spadRead offs fe info s = .ok (offs.map (fun o => SMap.get 0 s.core.scratch o.toNat), t) ∧ t.core = s.core ∧
          t.ctx.ends = s.ctx.ends ++ if fe = 2 then [.clear (granulesOf (offs.map Int.toNat))] else [])

/-- `dpop` (09 R229), `wmc` (10 R232), `pref` (09 R227), `tmrd` (R225) and `wmrd` (R226) complete: a popped vector pending for the
scratchpad, a multicast that lands 8 clocks later at the targets, no effect, and the two metadata reads as variable-latency results. -/
def Claims.OtherLoadStore : Prop :=
  (∀ (f : LS) (s t0 : State) (a : Word) (v : Vec), lsAddr f s = .ok a →
    spadWriteCheck (spadOffs (a &&& ~~~63) 64) f.fe.toNat (a &&& ~~~63) s = .ok () → popSel (f.f0.setWidth 6) s = .ok (v, t0) →
      exec (.dpop f) s = .next (writeSpad 11 ((offsFrom (a &&& ~~~63).toNat 64).zip (vecBytes v))
        (if f.fe = 0 then [] else ((offsFrom (a &&& ~~~63).toNat 64).map (· / 16)).eraseDups.map fun g => (g, true)) 0 t0)) ∧
  (∀ (f : LS) (s t0 : State) (a : Word) (v : Vec), lsAddr f s = .ok a → mcV s.core.mcw = true →
    a.toNat / 64 * 64 + 64 ≤ mcLen s.core.mcw → srcVec (f.f0.setWidth 6) 0 s = .ok (v, t0) → mcTargets s.core.id s.core.mcw ≠ [] →
      ∃ t, exec (.wmc f) s = .next t ∧ t.core = t0.core ∧
        t.mcs = t0.mcs ++ [⟨t0.now + 8, t0.core.id, t0.nextId, mcTargets s.core.id s.core.mcw,
          mcBase s.core.mcw + a.toNat / 64 * 64, v, f.fe == 2⟩] ∧
        t.agenda = t0.agenda ++ [⟨t0.now + 8, .multicastLanding t0.nextId⟩]) ∧
  (∀ (f : LS) (s : State) (a : Word), lsAddr f s = .ok a → exec (.pref f) s = .next s) ∧
  (∀ (f : LS) (s s1 s2 : State) (h : BitVec 256) (p : Nat) (w v pa : Nat) (imm : Bool) (s3 : State), readH f.h s = .ok h →
    checkRec (hTmr h) s = .ok (p, s1) → globalRead1 (tmrVa s (hTmr h) + 8 * f.disp.toNat) 8 s1 = .ok (w, s2) →
    coreXlate .rd (tmrVa s (hTmr h) + 8 * f.disp.toNat) s1 = .ok ((pa, imm), s3) →
    v = (if 3 ≤ f.disp.toNat ∧ f.disp.toNat ≤ 12 then rdN s1 pa 8 else w) →
      ∃ t, exec (.tmrd f) s = .next t ∧ t.core = s2.core ∧ t.ctx.ends = s2.ctx.ends ++
        [.produce ⟨s2.nextId, .sreg (f.f0.setWidth 5), some ((BitVec.ofNat 64 v).setWidth 256), s2.now, false, false, true⟩]) ∧
  (∀ (f : LS) (s s1 s2 : State) (a : Word) (pa : Nat) (imm : Bool) (bs : List (List Byte)), lsAddr f s = .ok a →
    coreXlate .rd a.toNat s = .ok ((pa, imm), s1) → isPool pa = false →
    globalReadWith .rd false [] [(a.toNat, 1)] s = .ok (bs, s2) →
      ∃ t, exec (.wmrd f) s = .next t ∧ t.core = s2.core ∧ t.ctx.ends = s2.ctx.ends ++
        [.produce ⟨s2.nextId, .sreg (f.f0.setWidth 5), some ((BitVec.ofNat 64 (regionMark s pa)).setWidth 256), s2.now, false, false,
          true⟩])

/-- The frame of the accesses that store nothing at issue and of `st` and `hst`, which only hold: where no trap is raised, every byte of
global memory, the scratchpad with its full/empty bits, every register, FLAGS, the loop stack, SEED, the handles, the spline registers
and the trap registers are as before. -/
def Claims.LoadStoreFrame : Prop :=
  ∀ (i : Instr) (s t : State),
    (match i with
      | .ld _ | .sld _ | .tmrd _ | .wmrd _ | .pref _ | .st _ | .sst _ | .sfe _ | .hld _ | .hst _ | .pcfg _ | .pset _ => true
      | _ => false) = true →
    exec i s = .next t → t.ctx.cause = none →
      (∀ a, rdByte t a = rdByte s a) ∧ t.core.scratch = s.core.scratch ∧ t.core.full = s.core.full ∧ t.core.st.a = s.core.st.a ∧
      t.core.st.shadow = s.core.st.shadow ∧ t.core.st.trapPc = s.core.st.trapPc ∧ t.core.st.trapCause = s.core.st.trapCause ∧
      t.core.st.trapInfo = s.core.st.trapInfo ∧ t.core.st.spill = s.core.st.spill ∧ t.core.banks = s.core.banks ∧
      t.core.coef = s.core.coef ∧ t.others = s.others ∧
      ((match i with | .st _ | .hst _ => false | _ => true) = true → t.core.held = s.core.held)

/-! ### Numbers, vector operands and the vector slots (05, 06) -/

/-- A value that a format holds exactly converts to its own code without a flag, whatever the rounding mode and the draw (05 R137-R139):
every finite code of f32, bf16, e4m3 and e5m2. -/
def Claims.ExactValuesKept : Prop :=
  ∀ (ty c mode r : Nat), ty ≤ 3 → c < 2 ^ widthOf ty → (∃ nz q, valueOf ty c = .fin nz q) → mode ≤ 2 → r < 65536 →
    convertSat (valueOf ty c) ty mode r = (c, 0)

/-- A NaN becomes the format's canonical NaN with its sign and raises NV; an infinity stays where the format has one and otherwise
saturates at the largest finite value with OF (05 R139, R140). -/
def Claims.SpecialConversions : Prop :=
  ∀ (neg : Bool) (mode r : Nat),
    (∀ ty ≤ 3, convertSat (.nan neg) ty mode r = (canonNaN ty neg, 1)) ∧
    (∀ ty, ty = 0 ∨ ty = 1 ∨ ty = 3 → convertSat (.inf neg) ty mode r = (infBits ty neg, 0)) ∧
    convertSat (.inf neg) 2 mode r = ((if neg then 0xFE else 0x7E), 2) ∧
    (∀ ty, ty = 5 ∨ ty = 6 → convertSat (.nan neg) ty mode r = (0, 1))

/-- round(x, f, mode, r) of 05 R134 goes up: for a discarded fraction above a half, or of a half with an odd kept part, under RNE; never under
RTZ; where its top 16 bits and the draw reach 2^16 under SR. -/
def Claims.roundsUp (mode r : Nat) (n : ℤ) (frac : ℚ) : Prop :=
  (mode = 0 ∧ (1 / 2 < frac ∨ (frac = 1 / 2 ∧ n % 2 = 1))) ∨ (mode = 2 ∧ 65536 ≤ ⌊frac * 65536⌋ + r)

/-- m is the magnitude that R134 keeps of |x|, in units of u. -/
def Claims.keeps (mode r : Nat) (x u : ℚ) (m : ℤ) : Prop :=
  (m = ⌊|x| / u⌋ + 1 ∧ Claims.roundsUp mode r ⌊|x| / u⌋ (|x| / u - ⌊|x| / u⌋)) ∨
    (m = ⌊|x| / u⌋ ∧ ¬ Claims.roundsUp mode r ⌊|x| / u⌋ (|x| / u - ⌊|x| / u⌋))

/-- Every finite non-zero value, on the grid or off it (05 R134, R137): it is rounded to the format's spacing at it by RNE, RTZ or SR. What is
then above the largest finite value becomes an infinity of f32 or bf16 under RNE and SR and the largest finite value otherwise, with OF; UF is
set for a value below the smallest normal that the rounding changes; no other flag is set. An integer format rounds to integers and
saturates with OF. -/
def Claims.OffGridRounding : Prop :=
  (∀ f ∈ ([(0, 24, -126, (2 ^ 24 - 1) * 2 ^ 104), (1, 8, -126, 255 * 2 ^ 120), (2, 4, -6, 448), (3, 3, -14, 57344)] : List (Nat × ℤ × ℤ × ℚ)),
    ∀ (nz : Bool) (q : Q) (mode r : Nat) (e m : ℤ) (x u : ℚ), q.num ≠ 0 → q.den ≠ 0 → mode ≤ 2 → r < 65536 → x = (q.num : ℚ) / q.den →
      (2 : ℚ) ^ e ≤ |x| → |x| < (2 : ℚ) ^ (e + 1) → u = (2 : ℚ) ^ (max e f.2.2.1 - f.2.1 + 1) → Claims.keeps mode r x u m →
        (m * u ≤ f.2.2.2 → ∃ p, valueOf f.1 (convertSat (.fin nz q) f.1 mode r).1 = .fin (decide (q.num < 0)) p ∧
          (p.num : ℚ) / p.den = (if q.num < 0 then -(m * u) else m * u) ∧
          (|x| < (2 : ℚ) ^ f.2.2.1 ∧ m * u ≠ |x| → (convertSat (.fin nz q) f.1 mode r).2 = 4) ∧
          (¬ (|x| < (2 : ℚ) ^ f.2.2.1 ∧ m * u ≠ |x|) → (convertSat (.fin nz q) f.1 mode r).2 = 0)) ∧
        (f.2.2.2 < m * u → convertSat (.fin nz q) f.1 mode r =
          (if (f.1 = 0 ∨ f.1 = 1) ∧ mode ≠ 1 then infBits f.1 (decide (q.num < 0)) else maxBits f.1 (decide (q.num < 0)), 2))) ∧
  (∀ f ∈ ([(5, 8), (6, 32)] : List (Nat × Nat)), ∀ (nz : Bool) (q : Q) (mode r : Nat) (m : ℤ) (x : ℚ), q.num ≠ 0 → q.den ≠ 0 → mode ≤ 2 →
    r < 65536 → x = (q.num : ℚ) / q.den → Claims.keeps mode r x 1 m →
      (0 < q.num → m < 2 ^ (f.2 - 1) → sint f.2 (convertSat (.fin nz q) f.1 mode r).1 = m ∧ (convertSat (.fin nz q) f.1 mode r).2 = 0) ∧
      (q.num < 0 → m ≤ 2 ^ (f.2 - 1) → sint f.2 (convertSat (.fin nz q) f.1 mode r).1 = -m ∧ (convertSat (.fin nz q) f.1 mode r).2 = 0) ∧
      (0 < q.num → 2 ^ (f.2 - 1) ≤ m → convertSat (.fin nz q) f.1 mode r = (2 ^ (f.2 - 1) - 1, 2)) ∧
      (q.num < 0 → 2 ^ (f.2 - 1) < m → convertSat (.fin nz q) f.1 mode r = (2 ^ (f.2 - 1), 2)))

/-- Draws are made only under stochastic rounding, one per conversion, and change no register but SEED (05 R136). -/
def Claims.StochasticDraws : Prop :=
  (∀ (rnd n : Nat) (s : State), rnd ≠ 2 → draws rnd n s = ([], s)) ∧
  (∀ (n : Nat) (s : State), (draws 2 n s).1.length = n ∧ (∀ r ∈ (draws 2 n s).1, r < 65536) ∧
    (draws 2 n s).2 = mapArch (fun a => { a with seed := (draws 2 n s).2.core.st.a.seed }) s)

/-- Lanes of a packed vector are the lanes given, for every lane width (06 R147). -/
def Claims.LanePacking : Prop :=
  ∀ (w : Nat) (ls : List Nat) (i : Nat), w ∈ [4, 8, 16, 32] → ls.length ≤ 512 / w → (∀ x ∈ ls, x < 2 ^ w) →
    laneN (ofLanes w ls) w i = if i < ls.length then ls.getD i 0 else 0

/-- A vector source (06 R148, 02 R48): a broadcast selector reads its scalar into every lane and pops nothing; a port or queue that the
bundle has popped already gives the same vector again. -/
def Claims.VectorSources : Prop :=
  (∀ (sel : BitVec 6) (ty : Nat) (s : State) (w : Word), 32 ≤ sel → readS (sel &&& 31) s = .ok w →
    srcVec sel ty s = .ok (bcastVec ty w, s)) ∧
  (∀ (sel : BitVec 6) (ty : Nat) (s : State) (v : Vec), ¬ 32 ≤ sel → findKey s.ctx.pops sel.toNat = some v → srcVec sel ty s = .ok (v, s)) ∧
  (∀ (sel : BitVec 6) (s t : State) (v : Vec), popSel sel s = .ok (v, t) → popSel sel t = .ok (v, t))

/-- The stream ports (03 R101, 04 R119-R121): an access to a port that is not valid or is at its end raises the queue fault with the
port's selector; a pop of a ready port reads the bytes of its access, zero elsewhere, and steps the position once. -/
def Claims.PortPops : Prop :=
  ∀ (k : Nat) (s : State), k < 10 →
    (dfield (portDesc s k) 179 179 = 0 ∨ dfield (portDesc s k) 239 224 = dfield (portDesc s k) 79 64 →
      popPort k s = .error (.trap ⟨0x06, BitVec.ofNat 64 (if k < 6 then k else k + 10), some s.ctx.slot⟩)) ∧
    (∀ (bs : List Byte) (t : State), dfield (portDesc s k) 179 179 = 1 → dfield (portDesc s k) 239 224 ≠ dfield (portDesc s k) 79 64 →
      spadRead ((portBytes (portDesc s k)).map (·.2)) (dfield (portDesc s k) 177 176) (BitVec.ofInt 64 (portAddr (portDesc s k))) s = .ok (bs, t) →
        ∃ v, popPort k s = .ok (v, setPort k (portNext (portDesc s k)) t) ∧
          ∀ b < 64, vecByte v b = (((((portBytes (portDesc s k)).map (·.1)).zip bs).find? fun e => e.1 == b).map (·.2)).getD 0)

/-- The order of a port's accesses (04 R119): the inner index first, then the middle one, then the outer one. -/
def Claims.PortOrder : Prop :=
  ∀ (d : BitVec 256), portValid d = true → dfield d 179 179 = 1 → dfield d 239 224 < dfield d 79 64 →
    let i := dfield d 207 192; let m := dfield d 223 208; let o := dfield d 239 224
    let e := portNext d
    (i + 1 < dfield d 47 32 → dfield e 207 192 = i + 1 ∧ dfield e 223 208 = m ∧ dfield e 239 224 = o) ∧
    (i + 1 = dfield d 47 32 → m + 1 < dfield d 63 48 → dfield e 207 192 = 0 ∧ dfield e 223 208 = m + 1 ∧ dfield e 239 224 = o) ∧
    (i + 1 = dfield d 47 32 → m + 1 = dfield d 63 48 → dfield e 207 192 = 0 ∧ dfield e 223 208 = 0 ∧ dfield e 239 224 = o + 1) ∧
    dfield e 191 0 = dfield d 191 0

/-- A vector instruction's answer: the state that pushes a vector with its flags at its write port, from the state its sources left. -/
def Claims.pushes (i : Instr) (s : State) (f : VF) (cls : Nat) (v : Vec) (fl : Flags) (from_ : State) : Prop :=
  ∃ t, pushPort (f.vd.toNat - 0x10 + 6) v cls fl from_ = .ok t ∧ exec i s = .next t

/-- The write port is ready for a push. -/
def Claims.room (f : VF) (s : State) : Prop := pushCheck (f.vd.toNat - 0x10 + 6) s = .ok ()

/-- The same for a vector given lane by lane, w bits each: the flags are the union of the lanes' flags (05 R140). -/
def Claims.pushesLanes (i : Instr) (s : State) (f : VF) (w cls : Nat) (g : Nat → Nat × Flags) (from_ : State) : Prop :=
  ∃ v, Claims.pushes i s f cls v (unionFlags ((List.range (512 / w)).map fun k => (g k).2)) from_ ∧ ∀ k < 512 / w, laneN v w k = (g k).1

/-- The value of a lane of a source, and a lane of a floating result (06 R152): the exact result x rounded once, with the flags of both. -/
def Claims.val (f : VF) (v : Vec) (k : Nat) : XV := valueOf f.ty.toNat (laneN v (widthOf f.ty.toNat) k)
def Claims.once (f : VF) (rs : List Nat) (k : Nat) (x : XV × Flags) : Nat × Flags :=
  ((convertSat x.1 f.ty.toNat f.rnd.toNat (rs.getD k 0)).1, x.2 ||| (convertSat x.1 f.ty.toNat f.rnd.toNat (rs.getD k 0)).2)

/-- A push to a ready port steps its position once and leaves the accessed bytes of the vector pending for the scratchpad, with its flags
and the full bits of the port's qualifier, after the two latencies of 06 R149: the sum of both assumed ones when neither is 0, no assumed
cycle when both are, and the two one after the other when one of them is; nothing else of the machine changes (04 R119-R121). -/
def Claims.PortPushes : Prop :=
  ∀ (k : Nat) (v : Vec) (cls : Nat) (fl : Flags) (s : State), k < 10 → pushCheck k s = .ok () →
    ∃ t p, pushPort k v cls fl s = .ok t ∧ portDesc t k = portNext (portDesc s k) ∧ p.flags = fl ∧ p.seq = s.core.st.seq ∧
      p.act = .spad (some k) ((portBytes (portDesc s k)).map fun b => (b.2.toNat, vecByte v b.1))
        (fullBits (dfield (portDesc s k) 177 176) ((portBytes (portDesc s k)).map fun b => b.2.toNat)) ∧
      (assumed s cls ≠ 0 → assumed s 11 ≠ 0 → p.due = some (s.core.st.cyc + assumed s cls + assumed s 11) ∧
        p.ready = s.now + real s cls + real s 11 ∧ p.next = none) ∧
      (assumed s cls = 0 → assumed s 11 = 0 → p.due = none ∧ p.ready = s.now + real s cls + real s 11 ∧ p.next = none) ∧
      ((assumed s cls = 0) ≠ (assumed s 11 = 0) → p.due = dueAt s cls ∧ p.ready = s.now + real s cls ∧
        p.next = some (assumed s 11, real s 11)) ∧
      t = mapSt (fun x => { x with
        a := { x.a with ports := t.core.st.a.ports }, pend := s.core.st.pend ++ [p], seq := s.core.st.seq + 1 }) s ∧
      ∀ j, j ≠ k → portDesc t j = portDesc s j

/-- Two-source arithmetic (06 R151-R153): class, exact operation on values, operation on integers. -/
def Claims.arithRows : List ((VF → Instr) × Nat × (XV → XV → XV × Flags) × (Int → Int → Int)) :=
  [(.vadd, 4, XV.add, (· + ·)), (.vsub, 4, XV.sub, (· - ·)), (.vmul, 5, XV.mul, (· * ·)),
   (.vmax, 4, XV.maxmin true, max), (.vmin, 4, XV.maxmin false, min)]

/-- Integer lanes wrap without a flag (06 R153); floating lanes are one rounding of the exact result (06 R152), with the flags of the
operation and of its rounding (05 R140). -/
def Claims.VectorTwoSource : Prop :=
  ∀ r ∈ Claims.arithRows, ∀ (f : VF) (s s1 s2 : State) (a b : Vec), srcVec f.va f.ty.toNat s = .ok (a, s1) →
    srcVec f.vb f.ty.toNat s1 = .ok (b, s2) →
    (f.ty = 5 ∨ f.ty = 6 → Claims.room f s2 → ∃ v, Claims.pushes (r.1 f) s f r.2.1 v 0 s2 ∧
      ∀ i < 512 / widthOf f.ty.toNat, sint (widthOf f.ty.toNat) (laneN v (widthOf f.ty.toNat) i) =
        (r.2.2.2 (sint (widthOf f.ty.toNat) (laneN a (widthOf f.ty.toNat) i)) (sint (widthOf f.ty.toNat) (laneN b (widthOf f.ty.toNat) i))).bmod
          (2 ^ widthOf f.ty.toNat)) ∧
    (f.ty = 0 ∨ f.ty = 1 → ∀ (rs : List Nat) (s3 : State), draws f.rnd.toNat (512 / widthOf f.ty.toNat) s2 = (rs, s3) → Claims.room f s3 →
      Claims.pushesLanes (r.1 f) s f (widthOf f.ty.toNat) r.2.1
        (fun k => Claims.once f rs k (r.2.2.1 (Claims.val f a k) (Claims.val f b k))) s3)

/-- One-source arithmetic (06 R151-R153), with the flags of its one rounding. -/
def Claims.VectorAbsNeg : Prop :=
  ∀ r ∈ ([(.vabs, XV.abs, fun x => if x < 0 then -x else x), (.vneg, XV.neg, fun x => -x)] : List ((VF → Instr) × (XV → XV) × (Int → Int))),
    ∀ (f : VF) (s s1 : State) (a : Vec), srcVec f.va f.ty.toNat s = .ok (a, s1) →
    (f.ty = 5 ∨ f.ty = 6 → Claims.room f s1 → ∃ v, Claims.pushes (r.1 f) s f 4 v 0 s1 ∧
      ∀ i < 512 / widthOf f.ty.toNat, sint (widthOf f.ty.toNat) (laneN v (widthOf f.ty.toNat) i) =
        (r.2.2 (sint (widthOf f.ty.toNat) (laneN a (widthOf f.ty.toNat) i))).bmod (2 ^ widthOf f.ty.toNat)) ∧
    (f.ty = 0 ∨ f.ty = 1 → ∀ (rs : List Nat) (s2 : State), draws f.rnd.toNat (512 / widthOf f.ty.toNat) s1 = (rs, s2) → Claims.room f s2 →
      Claims.pushesLanes (r.1 f) s f (widthOf f.ty.toNat) 4 (fun k => Claims.once f rs k (r.2.1 (Claims.val f a k), 0)) s2)

/-- The fused operations round once (06 R152), and the transcendentals round their f32 result once (06 R154), with the flags of the operation
and of the rounding. -/
def Claims.VectorFusedTranscendental : Prop :=
  (∀ r ∈ ([(.vfma, false), (.vfms, true)] : List ((VF → Instr) × Bool)), ∀ (f : VF) (s s1 s2 s3 s4 : State) (a b c : Vec) (rs : List Nat),
    f.ty = 0 ∨ f.ty = 1 → srcVec f.va f.ty.toNat s = .ok (a, s1) → srcVec f.vb f.ty.toNat s1 = .ok (b, s2) →
    srcVec f.vc f.ty.toNat s2 = .ok (c, s3) → draws f.rnd.toNat (512 / widthOf f.ty.toNat) s3 = (rs, s4) → Claims.room f s4 →
      Claims.pushesLanes (r.1 f) s f (widthOf f.ty.toNat) 5
        (fun k => Claims.once f rs k (fmaX r.2 (Claims.val f a k) (Claims.val f b k) (Claims.val f c k))) s4) ∧
  (∀ r ∈ ([(.vrcp, fun x _ => rcpT x), (.vrsq, rsqT), (.vexp2, exp2T), (.vlog2, log2T), (.vtanh, tanhT)] :
      List ((VF → Instr) × (XV → BitVec 32 → Nat × Flags))), ∀ (f : VF) (s s1 s2 : State) (a : Vec) (rs : List Nat),
    f.ty = 0 ∨ f.ty = 1 → srcVec f.va f.ty.toNat s = .ok (a, s1) → draws f.rnd.toNat (512 / widthOf f.ty.toNat) s1 = (rs, s2) →
    Claims.room f s2 → Claims.pushesLanes (r.1 f) s f (widthOf f.ty.toNat) 6 (fun k =>
        let t := r.2 (Claims.val f a k) (BitVec.ofNat 32 (convertSat (Claims.val f a k) 0 0 0).1)
        Claims.once f rs k (valueOf 0 t.1, t.2)) s2)

/-- The special inputs and the exact cases of the functions of 06 R154, whatever the choice of the fixed function. The reciprocal is the exact
one rounded once by RNE: exact for ±2^k within the range, ±Inf with OF for a subnormal whose reciprocal exceeds it. -/
def Claims.TranscendentalCases : Prop :=
  (∀ (neg : Bool), rcpT (.nan neg) = (canonNaN 0 neg, 1) ∧ rcpT (.inf neg) = (if neg then 0x80000000 else 0, 0)) ∧
  (∀ (nz : Bool) (q : Q), q.den ≠ 0 → (q.num = 0 → rcpT (.fin nz q) = (infBits 0 nz, 0)) ∧
    (q.num ≠ 0 → ∃ p : Q, p.den ≠ 0 ∧ p.num * q.num = p.den * q.den ∧ rcpT (.fin nz q) = convertSat (.fin false p) 0 0 0)) ∧
  (∀ (nz : Bool) (n k : Int), n = 1 ∨ n = -1 →
    (-127 ≤ k → k ≤ 127 → ∃ z q, valueOf 0 (rcpT (.fin nz (.scaled n k))).1 = .fin z q ∧ q.eq (.scaled n (-k)) = true ∧
      (rcpT (.fin nz (.scaled n k))).2 = 0) ∧
    (-149 ≤ k → k < -127 → rcpT (.fin nz (.scaled n k)) = (infBits 0 (decide (n < 0)), 2))) ∧
  (∀ g ∈ ([rsqT, exp2T, log2T, tanhT] : List (XV → BitVec 32 → Nat × Flags)), ∀ (neg : Bool) (b : BitVec 32),
    g (.nan neg) b = (canonNaN 0 neg, 1)) ∧
  (∀ (b : BitVec 32) (nz : Bool) (q : Q), q.den ≠ 0 →
    (q.num = 0 → rsqT (.fin nz q) b = (infBits 0 nz, 0) ∧ log2T (.fin nz q) b = (infBits 0 true, 0) ∧
      tanhT (.fin nz q) b = (if nz then 0x80000000 else 0, 0)) ∧
    (q.num < 0 → rsqT (.fin nz q) b = (canonNaN 0 false, 1) ∧ log2T (.fin nz q) b = (canonNaN 0 false, 1)) ∧
    (128 ≤ q.floor → exp2T (.fin nz q) b = (infBits 0 false, 2)) ∧
    (q.floor < -126 → q.eq (.ofInt q.floor) = false → (exp2T (.fin nz q) b).2 = 4) ∧
    (9011 * q.den ≤ 1000 * q.num → (tanhT (.fin nz q) b).2 = 0 ∧
      ((tanhT (.fin nz q) b).1 = 0x3F7FFFFF ∨ (tanhT (.fin nz q) b).1 = 0x3F800000)) ∧
    (1000 * q.num ≤ -(9011 * q.den) → (tanhT (.fin nz q) b).2 = 0 ∧
      ((tanhT (.fin nz q) b).1 = 0xBF7FFFFF ∨ (tanhT (.fin nz q) b).1 = 0xBF800000))) ∧
  (∀ (b : BitVec 32), rsqT (.inf false) b = (0, 0) ∧ rsqT (.inf true) b = (canonNaN 0 false, 1) ∧
    exp2T (.inf false) b = (infBits 0 false, 0) ∧ exp2T (.inf true) b = (0, 0) ∧ log2T (.inf false) b = (infBits 0 false, 0) ∧
    log2T (.inf true) b = (canonNaN 0 false, 1) ∧ tanhT (.inf false) b = (0x3F800000, 0) ∧ tanhT (.inf true) b = (0xBF800000, 0)) ∧
  (∀ (b : BitVec 32) (nz : Bool) (k : Int), -74 ≤ k → k ≤ 63 → ∃ z q, rsqT (.fin nz (.scaled 1 (2 * k))) b = rsqT (.fin nz (.scaled 1 (2 * k))) 0 ∧
    valueOf 0 (rsqT (.fin nz (.scaled 1 (2 * k))) b).1 = .fin z q ∧ q.eq (.scaled 1 (-k)) = true) ∧
  (∀ (b : BitVec 32) (nz : Bool) (n : Int), -149 ≤ n → n ≤ 127 → ∃ z q, valueOf 0 (exp2T (.fin nz (.ofInt n)) b).1 = .fin z q ∧
    q.eq (.scaled 1 n) = true ∧ (exp2T (.fin nz (.ofInt n)) b).2 = 0) ∧
  (∀ (b : BitVec 32) (nz : Bool) (k : Int), -149 ≤ k → k ≤ 127 → ∃ z q, valueOf 0 (log2T (.fin nz (.scaled 1 k)) b).1 = .fin z q ∧
    q.eq (.ofInt k) = true ∧ (log2T (.fin nz (.scaled 1 k)) b).2 = 0 ∧ (k = 0 → (log2T (.fin nz (.scaled 1 k)) b).1 = 0))

/-- An f32 code whose value is less than n times the spacing of the f32 grid at an exact result away from it (05 R134, 06 R154). -/
def Claims.within (n : ℝ) (code : Nat) (r : ℝ) : Prop :=
  ∃ z q, valueOf 0 code = .fin z q ∧ ∀ e : ℤ, -126 ≤ e → ((2 : ℝ) ^ e ≤ |r| ∨ e = -126) → |r| < (2 : ℝ) ^ (e + 1) →
    |(q.num : ℝ) / q.den - r| < n * (2 : ℝ) ^ (e - 23)

/-- The error bounds of 06 R154, for every finite f32 input in the function's range and whatever the choice of the fixed function: less than
one ulp for `vrsq`, `vexp2` and `vlog2`, less than two for `vtanh`. -/
def Claims.TranscendentalErrors : Prop :=
  ∀ (c : Nat) (nz : Bool) (q : Q) (b : BitVec 32), c < 2 ^ 32 → valueOf 0 c = .fin nz q →
    (0 < q.num → Claims.within 1 (rsqT (.fin nz q) b).1 (1 / Real.sqrt ((q.num : ℝ) / q.den))) ∧
    (q.floor < 128 → Claims.within 1 (exp2T (.fin nz q) b).1 ((2 : ℝ) ^ ((q.num : ℝ) / q.den))) ∧
    (0 < q.num → Claims.within 1 (log2T (.fin nz q) b).1 (Real.logb 2 ((q.num : ℝ) / q.den))) ∧
    (q.abs.lt ⟨9011, 1000⟩ = true → Claims.within 2 (tanhT (.fin nz q) b).1 (Real.tanh ((q.num : ℝ) / q.den)))

/-- Bitwise operations, shifts, comparisons and selection (06 R155-R157), lane by lane. A count of the width or more gives 0, or the
sign; a comparison gives all ones or 0, and 0 with NV for a NaN. -/
def Claims.VectorBits : Prop :=
  (∀ r ∈ ([(.vand, (· &&& ·)), (.vor, (· ||| ·)), (.vxor, (· ^^^ ·))] : List ((VF → Instr) × (Vec → Vec → Vec))),
    ∀ (f : VF) (s s1 s2 : State) (a b : Vec), srcVec f.va f.ty.toNat s = .ok (a, s1) → srcVec f.vb f.ty.toNat s1 = .ok (b, s2) →
      Claims.room f s2 → Claims.pushes (r.1 f) s f 4 (r.2 a b) 0 s2) ∧
  (∀ r ∈ ([(.vshl, fun w x n => if w ≤ n then 0 else x * 2 ^ n % 2 ^ w), (.vshr, fun w x n => if w ≤ n then 0 else x / 2 ^ n),
      (.vsar, fun w x n => ubits w (sint w x / 2 ^ min n w))] : List ((VF → Instr) × (Nat → Nat → Nat → Nat))),
    ∀ (f : VF) (s s1 : State) (a : Vec), f.ty = 5 ∨ f.ty = 6 → srcVec f.va f.ty.toNat s = .ok (a, s1) →
      (f.ctl.getLsbD 11 = true → Claims.room f s1 → ∃ v, Claims.pushes (r.1 f) s f 4 v 0 s1 ∧ ∀ i < 512 / widthOf f.ty.toNat,
        laneN v (widthOf f.ty.toNat) i = r.2 (widthOf f.ty.toNat) (laneN a (widthOf f.ty.toNat) i) (f.ctl.extractLsb' 0 5).toNat) ∧
      (f.ctl.getLsbD 11 = false → ∀ (b : Vec) (s2 : State), srcVec f.vb f.ty.toNat s1 = .ok (b, s2) → Claims.room f s2 →
        ∃ v, Claims.pushes (r.1 f) s f 4 v 0 s2 ∧ ∀ i < 512 / widthOf f.ty.toNat,
          laneN v (widthOf f.ty.toNat) i = r.2 (widthOf f.ty.toNat) (laneN a (widthOf f.ty.toNat) i) (laneN b (widthOf f.ty.toNat) i))) ∧
  (∀ r ∈ ([(.vceq, fun x y => x.eqv y, fun x y => decide (x = y)), (.vclt, fun x y => x.lt y, fun x y => decide (x < y)),
      (.vcle, fun x y => x.lt y || x.eqv y, fun x y => decide (x ≤ y))] :
      List ((VF → Instr) × (XV → XV → Bool) × (Int → Int → Bool))), ∀ (f : VF) (s s1 s2 : State) (a b : Vec),
    f.ty = 0 ∨ f.ty = 1 ∨ f.ty = 2 ∨ f.ty = 3 ∨ f.ty = 5 ∨ f.ty = 6 → srcVec f.va f.ty.toNat s = .ok (a, s1) →
    srcVec f.vb f.ty.toNat s1 = .ok (b, s2) → Claims.room f s2 →
      Claims.pushesLanes (r.1 f) s f (widthOf f.ty.toNat) 4 (fun i =>
        let x := laneN a (widthOf f.ty.toNat) i; let y := laneN b (widthOf f.ty.toNat) i
        (if (if f.ty = 5 ∨ f.ty = 6 then
            (if f.ctl.getLsbD 0 then r.2.2 x y else r.2.2 (sint (widthOf f.ty.toNat) x) (sint (widthOf f.ty.toNat) y))
          else !(valueOf f.ty.toNat x).isNaN && !(valueOf f.ty.toNat y).isNaN && r.2.1 (valueOf f.ty.toNat x) (valueOf f.ty.toNat y))
          then 2 ^ widthOf f.ty.toNat - 1 else 0,
         if f.ty ≠ 5 ∧ f.ty ≠ 6 ∧ ((valueOf f.ty.toNat x).isNaN = true ∨ (valueOf f.ty.toNat y).isNaN = true) then 1 else 0)) s2) ∧
  (∀ (f : VF) (s s1 s2 s3 : State) (a b c : Vec), tyMove f.ty = true → srcVec f.va f.ty.toNat s = .ok (a, s1) →
    srcVec f.vb f.ty.toNat s1 = .ok (b, s2) → srcVec f.vc f.ty.toNat s2 = .ok (c, s3) → Claims.room f s3 →
      ∃ v, Claims.pushes (.vsel f) s f 4 v 0 s3 ∧ ∀ i < 512 / widthOf f.ty.toNat, laneN v (widthOf f.ty.toNat) i =
        if laneN a (widthOf f.ty.toNat) i = 0 then laneN c (widthOf f.ty.toNat) i else laneN b (widthOf f.ty.toNat) i)

/-- The sources that `vcvt` reads (06 R158): one, two or four, as the element counts of its types ask. -/
def Claims.cvtSels (f : VF) : List (BitVec 6) :=
  if elems f.tyd ≤ elems f.ty then [f.va] else if elems f.tyd = 2 * elems f.ty then [f.va, f.vb]
  else [f.va, f.vb, f.vc, f.ctl.extractLsb' 0 6]

/-- Conversions with their flags (06 R158-R162, 05 R140): `vcvt` between two types and between equal ones, `vsrnd`, `vscal` in its two forms, `vqnt` on a governed
handle and `vdq` where its entry exists and its part does, each when its sources, its record and its port are ready. -/
def Claims.VectorConvert : Prop :=
  (∀ (f : VF) (s s1 s2 : State) (all xs : List XV) (rs : List Nat), (Instr.vcvt f).wf = true → f.tyd ≠ f.ty →
    popAll f.ty.toNat (Claims.cvtSels f) s = .ok (all, s1) →
    xs = (if elems f.tyd < elems f.ty then (all.drop ((f.ctl.extractLsb' 6 2).toNat * elems f.tyd)).take (elems f.tyd) else all) →
    draws f.rnd.toNat (elems f.tyd) s1 = (rs, s2) → Claims.room f s2 →
      Claims.pushes (.vcvt f) s f 5 (encodeAll xs f.tyd.toNat f.rnd.toNat rs).1
        ((encodeAll xs f.tyd.toNat f.rnd.toNat rs).2 ||| nanFlag xs) s2) ∧
  (∀ (f : VF) (s s1 s2 : State) (a : Vec) (rs : List Nat), f.tyd = f.ty → srcVec f.va f.ty.toNat s = .ok (a, s1) →
    draws f.rnd.toNat (elems f.tyd) s1 = (rs, s2) → Claims.room f s2 →
      Claims.pushes (.vcvt f) s f 5 (sameCopy f.ty.toNat a).1 (sameCopy f.ty.toNat a).2 s2) ∧
  (∀ (f : VF) (s s1 s2 : State) (a : Vec) (rs : List Nat), f.ty = 0 ∨ f.ty = 1 → f.tyd = 1 ∨ f.tyd = 2 ∨ f.tyd = 3 →
    srcVec f.va f.ty.toNat s = .ok (a, s1) → draws f.rnd.toNat (512 / widthOf f.ty.toNat) s1 = (rs, s2) → Claims.room f s2 →
      Claims.pushesLanes (.vsrnd f) s f (widthOf f.ty.toNat) 5 (fun k =>
        let c := convertSat (Claims.val f a k) f.tyd.toNat f.rnd.toNat (rs.getD k 0)
        ((convertSat (valueOf f.tyd.toNat c.1) f.ty.toNat 0 0).1, c.2)) s2) ∧
  (∀ (f : VF) (s s1 s2 : State) (a : Vec) (rs : List Nat), f.ty = 0 ∨ f.ty = 1 → f.ctl.getLsbD 11 = true →
    srcVec f.va f.ty.toNat s = .ok (a, s1) → draws f.rnd.toNat (512 / widthOf f.ty.toNat) s1 = (rs, s2) → Claims.room f s2 →
      Claims.pushesLanes (.vscal f) s f (widthOf f.ty.toNat) 5
        (fun k => Claims.once f rs k ((Claims.val f a k).scale (f.ctl.extractLsb' 0 9).toInt, 0)) s2) ∧
  (∀ (f : VF) (s s1 s2 : State) (a : Vec) (w : Word) (rs : List Nat), f.ty = 0 ∨ f.ty = 1 → f.ctl.getLsbD 11 = false → 32 ≤ f.vb →
    srcVec f.va f.ty.toNat s = .ok (a, s1) → readS (f.vb &&& 31) s1 = .ok w →
    draws f.rnd.toNat (512 / widthOf f.ty.toNat) s1 = (rs, s2) → Claims.room f s2 →
      Claims.pushesLanes (.vscal f) s f (widthOf f.ty.toNat) 5
        (fun k => Claims.once f rs k ((Claims.val f a k).scale (max (-1024) (min 1023 w.toInt)), 0)) s2) ∧
  (∀ (f : VF) (s s1 s2 s3 s4 : State) (h : BitVec 256) (r : Rec) (e : Ent) (xs ys : List XV) (rs : List Nat),
    readH (f.ctl.extractLsb' 0 4) s = .ok h → hGov h = true → readRec (hTmr h) s = .ok (r, s1) → r.current = some e →
    needFmt s1 e.f = .ok () → noPoolData h s1 = .ok () → popAll f.ty.toNat (vqntSels f (vecElems e.f)) s1 = .ok (ys, s2) →
    xs = ys.take (vecElems e.f) → draws f.rnd.toNat (vecElems e.f) s2 = (rs, s3) →
    setHeld (addHist r.pa (xs.map fun x => binOf x e.e e.f) s3.core.held) s3 = .ok s4 → Claims.room f s4 →
      Claims.pushes (.vqnt f) s f 5 (encodeAll (xs.map (XV.scale (-e.e))) e.f f.rnd.toNat rs).1
        ((encodeAll (xs.map (XV.scale (-e.e))) e.f f.rnd.toNat rs).2 ||| nanFlag xs) s4) ∧
  (∀ (f : VF) (s s1 s2 s3 : State) (h : BitVec 256) (w : Word) (r : Rec) (e : Ent) (a : Vec) (rs : List Nat) (n : Nat),
    n = (if f.tyd = 0 then 16 else 32) → (f.ctl.extractLsb' 8 2).toNat < vecElems e.f / n →
    readH (f.ctl.extractLsb' 0 4) s = .ok h → hGov h = true → readS (f.vb &&& 31) s = .ok w → readRec (hTmr h) s = .ok (r, s1) →
    vdqEntry h w r = some e → needFmt s1 e.f = .ok () → noPoolData h s1 = .ok () → srcVec f.va e.f s1 = .ok (a, s2) → draws f.rnd.toNat n s2 = (rs, s3) →
    Claims.room f s3 → ∃ xs, xs = ((elemsOf e.f a).drop ((f.ctl.extractLsb' 8 2).toNat * n)).take n ∧
      Claims.pushes (.vdq f) s f 5 (encodeAll (xs.map (XV.scale e.e)) f.tyd.toNat f.rnd.toNat rs).1
        ((encodeAll (xs.map (XV.scale e.e)) f.tyd.toNat f.rnd.toNat rs).2 ||| nanFlag xs) s3)

/-- The flags of a floating reduction: of the tree's nodes, NV for a NaN lane, and of the final conversion. -/
def Claims.redFlags (f : VF) (node : XV → XV → XV × Flags) (a : Vec) (rs : List Nat) : Flags :=
  (treeRed node 7 (elemsOf f.ty.toNat a)).2 ||| (if (elemsOf f.ty.toNat a).any XV.isNaN then 1 else 0) |||
    (convertSat (treeRed node 7 (elemsOf f.ty.toNat a)).1 f.tyd.toNat f.rnd.toNat (rs.headD 0)).2

/-- Reductions to a scalar and to a port (06 R163), on integers: the exact sum, maximum or minimum of the lanes, exact in a scalar without a
flag and converted once for a port; on floats, one rounding of the tree's result, with the flags of the tree's nodes, NV for a NaN lane, and
those of the rounding (05 R140, R144). -/
def Claims.VectorReductions : Prop :=
  (∀ r ∈ ([(.vredsum, (· + ·)), (.vredmax, max), (.vredmin, min)] : List ((VF → Instr) × (Int → Int → Int))),
    ∀ (f : VF) (s s1 : State) (a : Vec), f.ty = 5 ∨ f.ty = 6 → scalDst f.vd = true → srcVec f.va f.ty.toNat s = .ok (a, s1) →
      ∃ x : Int, exec (r.1 f) s = .next (writeS ((f.vd.setWidth 5 : BitVec 5).setWidth 6) 5 (BitVec.ofInt 64 x) 0 s1) ∧
        x = ((List.range (512 / widthOf f.ty.toNat - 1)).map fun i => sint (widthOf f.ty.toNat) (laneN a (widthOf f.ty.toNat) (i + 1))).foldl r.2
          (sint (widthOf f.ty.toNat) (laneN a (widthOf f.ty.toNat) 0))) ∧
  (∀ r ∈ ([(.vredsum, sumNode), (.vredmax, XV.maxmin true), (.vredmin, XV.maxmin false)] : List ((VF → Instr) × (XV → XV → XV × Flags))),
    ∀ (f : VF) (s s1 s2 : State) (a : Vec) (rs : List Nat), f.ty = 0 ∨ f.ty = 1 → srcVec f.va f.ty.toNat s = .ok (a, s1) →
      (scalDst f.vd = true → draws f.rnd.toNat 1 s1 = (rs, s2) → exec (r.1 f) s = .next (writeS ((f.vd.setWidth 5 : BitVec 5).setWidth 6) 5
        (BitVec.ofNat 64 (convertSat (treeRed r.2 7 (elemsOf f.ty.toNat a)).1 f.tyd.toNat f.rnd.toNat (rs.headD 0)).1)
        (Claims.redFlags f r.2 a rs) s2)) ∧
      (scalDst f.vd = false → draws f.rnd.toNat (elems f.tyd) s1 = (rs, s2) → Claims.room f s2 →
        Claims.pushes (r.1 f) s f 5 (ofLanes (widthOf f.tyd.toNat)
          [(convertSat (treeRed r.2 7 (elemsOf f.ty.toNat a)).1 f.tyd.toNat f.rnd.toNat (rs.headD 0)).1]) (Claims.redFlags f r.2 a rs) s2)) ∧
  (∀ r ∈ ([(.vredsum, (· + ·)), (.vredmax, max), (.vredmin, min)] : List ((VF → Instr) × (Int → Int → Int))),
    ∀ (f : VF) (s s1 s2 : State) (a : Vec) (rs : List Nat), f.ty = 5 ∨ f.ty = 6 → scalDst f.vd = false →
      srcVec f.va f.ty.toNat s = .ok (a, s1) → draws f.rnd.toNat (elems f.tyd) s1 = (rs, s2) → Claims.room f s2 →
        ∃ x : Int, x = ((List.range (512 / widthOf f.ty.toNat - 1)).map fun i => sint (widthOf f.ty.toNat) (laneN a (widthOf f.ty.toNat) (i + 1))).foldl
            r.2 (sint (widthOf f.ty.toNat) (laneN a (widthOf f.ty.toNat) 0)) ∧
          Claims.pushes (r.1 f) s f 5 (ofLanes (widthOf f.tyd.toNat) [(convertSat (XV.ofInt x) f.tyd.toNat f.rnd.toNat (rs.headD 0)).1])
            (convertSat (XV.ofInt x) f.tyd.toNat f.rnd.toNat (rs.headD 0)).2 s2)

/-- Movement (06 R164-R166): `vbcast`, `vextr`, `vperm` by kind, `vmov` and `vzero` at a port. -/
def Claims.VectorMovement : Prop :=
  (∀ (f : VF) (s s1 : State) (a : Vec), tyMove f.ty = true → srcVec f.va f.ty.toNat s = .ok (a, s1) → Claims.room f s1 →
    ∃ v, Claims.pushes (.vbcast f) s f 4 v 0 s1 ∧
      ∀ i < 512 / widthOf f.ty.toNat, laneN v (widthOf f.ty.toNat) i = laneN a (widthOf f.ty.toNat) f.ctl.toNat) ∧
  (∀ (f : VF) (s s1 : State) (a : Vec), srcVec f.va f.ty.toNat s = .ok (a, s1) →
    exec (.vextr f) s = .next (writeS ((f.vd.setWidth 5 : BitVec 5).setWidth 6) 4
      (if f.ty = 5 ∨ f.ty = 6 then BitVec.ofInt 64 (sint (widthOf f.ty.toNat) (laneN a (widthOf f.ty.toNat) f.ctl.toNat))
        else BitVec.ofNat 64 (laneN a (widthOf f.ty.toNat) f.ctl.toNat)) 0 s1)) ∧
  (∀ (f : VF) (s s1 s2 : State) (a b : Vec), tyMove f.ty = true → 2 ≤ f.ctl.extractLsb' 8 4 → f.ctl.extractLsb' 8 4 < 7 →
    srcVec f.va f.ty.toNat s = .ok (a, s1) → srcVec f.vb f.ty.toNat s1 = .ok (b, s2) → Claims.room f s2 →
    ∃ v, Claims.pushes (.vperm f) s f 4 v 0 s2 ∧ ∀ i < 512 / widthOf f.ty.toNat,
      let n := 512 / widthOf f.ty.toNat
      let x (k : Nat) : Nat := laneN a (widthOf f.ty.toNat) k
      let y (k : Nat) : Nat := laneN b (widthOf f.ty.toNat) k
      (f.ctl.extractLsb' 8 4 = 2 → laneN v (widthOf f.ty.toNat) i = if i % 2 = 0 then x (i / 2) else y (i / 2)) ∧
      (f.ctl.extractLsb' 8 4 = 3 → laneN v (widthOf f.ty.toNat) i = if i % 2 = 0 then x (n / 2 + i / 2) else y (n / 2 + i / 2)) ∧
      (f.ctl.extractLsb' 8 4 = 4 → laneN v (widthOf f.ty.toNat) i = if i < n / 2 then x (2 * i) else y (2 * (i - n / 2))) ∧
      (f.ctl.extractLsb' 8 4 = 5 → laneN v (widthOf f.ty.toNat) i = if i < n / 2 then x (2 * i + 1) else y (2 * (i - n / 2) + 1)) ∧
      (f.ctl.extractLsb' 8 4 = 6 → laneN v (widthOf f.ty.toNat) i = x (y i % n))) ∧
  (∀ (f : VF) (s s1 : State) (a : Vec), tyMove f.ty = true → f.ctl.extractLsb' 8 4 < 2 → srcVec f.va f.ty.toNat s = .ok (a, s1) → Claims.room f s1 →
    ∃ v, Claims.pushes (.vperm f) s f 4 v 0 s1 ∧ ∀ i < 512 / widthOf f.ty.toNat,
      let n := 512 / widthOf f.ty.toNat
      laneN v (widthOf f.ty.toNat) i = if f.ctl.extractLsb' 8 4 = 0 then laneN a (widthOf f.ty.toNat) ((i + (f.ctl.extractLsb' 0 8).toNat) % n)
        else laneN a (widthOf f.ty.toNat) (n - 1 - i)) ∧
  (∀ (f : VF) (s s1 : State) (a : Vec), f.vd < 0x80 → srcVec f.va f.ty.toNat s = .ok (a, s1) → Claims.room f s1 →
    Claims.pushes (.vmov f) s f 4 a 0 s1) ∧
  (∀ (f : VF) (s : State), f.vd < 0x80 → Claims.room f s → Claims.pushes (.vzero f) s f 4 0 0 s)

/-- The accumulator rows (06 R167-R169): on a bank that is not lent, each row operation makes the bank live and joins the engine's order;
on a lent one it raises the ownership fault with the bank's number. A `vbfpn` of a bank that is not in block mode, and a `vmov` to a row
with another type than its bank's, raise the illegal-encoding trap. -/
def Claims.AccumulatorRows : Prop :=
  (∀ (f : VF) (s s1 : State) (a : Vec), 0x80 ≤ f.vd → srcVec f.va f.ty.toNat s = .ok (a, s1) →
    ((bankOf s1.core (rowBank f)).lent = false →
      exec (.vacc f) s = .next (enqueueM false (.rowAdd (rowBank f) (bankOf s1.core (rowBank f)).block (rowNum f)
        ((elemsOf f.ty.toNat a).take 16)) (mapCore (setBank (rowBank f) { bankOf s1.core (rowBank f) with live := true }) s1)) ∧
      exec (.vaccw f) s = .next (enqueueM false (.rowAdd (rowBank f) (bankOf s1.core (rowBank f)).block (rowNum f)
        (elemsOf f.ty.toNat a)) (mapCore (setBank (rowBank f) { bankOf s1.core (rowBank f) with live := true }) s1)) ∧
      (f.ty = (if (bankOf s.core (rowBank f)).block then 7 else 0) →
        exec (.vmov f) s = .next (enqueueM false (.rowMov (rowBank f) (bankOf s.core (rowBank f)).block (rowNum f) a)
          (mapCore (setBank (rowBank f) { bankOf s1.core (rowBank f) with live := true }) s1)))) ∧
    ((bankOf s1.core (rowBank f)).lent = true →
      exec (.vacc f) s = .next (Claims.trapped 0x07 (BitVec.ofNat 64 (rowBank f)) s) ∧
      exec (.vaccw f) s = .next (Claims.trapped 0x07 (BitVec.ofNat 64 (rowBank f)) s) ∧
      (f.ty = (if (bankOf s.core (rowBank f)).block then 7 else 0) →
        exec (.vmov f) s = .next (Claims.trapped 0x07 (BitVec.ofNat 64 (rowBank f)) s))) ∧
    (f.ty ≠ (if (bankOf s.core (rowBank f)).block then 7 else 0) → exec (.vmov f) s = .next (Claims.trapped 0x01 s.ctx.syl s))) ∧
  (∀ (f : VF) (s : State),
    ((bankOf s.core (rowBank f)).block = false → exec (.vbfpn f) s = .next (Claims.trapped 0x01 s.ctx.syl s)) ∧
    ((bankOf s.core (rowBank f)).lent = true → ((bankOf s.core (rowBank f)).block = true →
      exec (.vbfpn f) s = .next (Claims.trapped 0x07 (BitVec.ofNat 64 (rowBank f)) s)) ∧
      (0x80 ≤ f.vd → exec (.vzero f) s = .next (Claims.trapped 0x07 (BitVec.ofNat 64 (rowBank f)) s)))) ∧
  (∀ (f : VF) (s : State), (bankOf s.core (rowBank f)).block = true → (bankOf s.core (rowBank f)).lent = false →
    exec (.vbfpn f) s = .next (enqueueM false (.rowNorm (rowBank f) (rowNum f))
      (mapCore (setBank (rowBank f) { bankOf s.core (rowBank f) with live := true }) s))) ∧
  (∀ (f : VF) (s : State), 0x80 ≤ f.vd → (bankOf s.core (rowBank f)).lent = false →
    exec (.vzero f) s = .next (enqueueM false (.rowZero (rowBank f) (bankOf s.core (rowBank f)).block (rowNum f))
      (mapCore (setBank (rowBank f) { bankOf s.core (rowBank f) with live := true }) s)))

/-- The optimiser steps (06 R170, R171): 16 f32 lanes with their flags, from the three sources and the coefficients in scalar registers. The
sign of a NaN among several inputs is the model's choice (log entry 119), and so is what `vadam` answers at a zero denominator (120). -/
def Claims.OptimiserSteps : Prop :=
  (∀ (f : VF) (s s1 s2 s3 : State) (g m v : Vec) (x y : Word), srcVec f.va 0 s = .ok (g, s1) → srcVec f.vb 0 s1 = .ok (m, s2) →
    srcVec f.vc 0 s2 = .ok (v, s3) → readS ((f.ctl.extractLsb' 0 5 : BitVec 5).setWidth 6) s3 = .ok x →
    readS ((f.ctl.extractLsb' 0 5 : BitVec 5).setWidth 6 + 1) s3 = .ok y → Claims.room f s3 →
      Claims.pushesLanes (.vadam f) s f 32 5 (fun i =>
        adamLane (f.ctl.extractLsb' 5 2).toNat (valueOf 0 (x.extractLsb' 0 32 : BitVec 32).toNat) (valueOf 0 (x.extractLsb' 32 32 : BitVec 32).toNat)
          (valueOf 0 (y.extractLsb' 0 32 : BitVec 32).toNat) (valueOf 0 (y.extractLsb' 32 32 : BitVec 32).toNat)
          (valueOf 0 (laneN g 32 i)) (valueOf 0 (laneN m 32 i)) (valueOf 0 (laneN v 32 i))) s3) ∧
  (∀ (f : VF) (s s1 s2 s3 : State) (g u w : Vec) (x : Word), srcVec f.va 0 s = .ok (g, s1) → srcVec f.vb 0 s1 = .ok (u, s2) →
    srcVec f.vc 0 s2 = .ok (w, s3) → readS ((f.ctl.extractLsb' 0 5 : BitVec 5).setWidth 6) s3 = .ok x → Claims.room f s3 →
      Claims.pushesLanes (.vsgdm f) s f 32 5 (fun i =>
        sgdmLane (f.ctl.extractLsb' 5 2).toNat (valueOf 0 (x.extractLsb' 32 32 : BitVec 32).toNat) (valueOf 0 (x.extractLsb' 0 32 : BitVec 32).toNat)
          (valueOf 0 (laneN g 32 i)) (valueOf 0 (laneN u 32 i)) (valueOf 0 (laneN w 32 i))) s3)

/-- The frame of the vector instructions whose destination is a write port: where no trap is raised, every byte of global memory, every
scalar register, FLAGS, the loop stack, the handles, the spline registers, the shadow set, the trap registers and every bank are as
before; ports and drain queues that the instruction names, SEED, the held pieces of `vqnt` and the pending results may change. -/
def Claims.VectorPortFrame : Prop :=
  ∀ (i : Instr) (f : VF) (s t : State), i.vform = some f → i.wf = true → f.vd < 0x14 → exec i s = .next t → t.ctx.cause = none →
    (∀ a, rdByte t a = rdByte s a) ∧ (∀ r, regVal t r = regVal s r) ∧ t.core.st.a.flags = s.core.st.a.flags ∧
    t.core.st.a.loops = s.core.st.a.loops ∧ t.core.st.a.handles = s.core.st.a.handles ∧ t.core.st.a.knots = s.core.st.a.knots ∧
    t.core.st.a.pc = s.core.st.a.pc ∧ t.core.st.shadow = s.core.st.shadow ∧ t.core.st.trapPc = s.core.st.trapPc ∧
    t.core.st.trapCause = s.core.st.trapCause ∧ t.core.st.trapInfo = s.core.st.trapInfo ∧ t.core.scratch = s.core.scratch ∧
    t.core.full = s.core.full ∧ t.core.banks = s.core.banks ∧ t.others = s.others

/-! ### The matrix and spline engines (07, 08) -/

/-- The rank-one updates as they issue (07 R176, R179, R182): on a bank of the right mode that is not lent, with room in the queue and
their operands readable, they make the bank live and enter the queue with the operands captured. -/
def Claims.RankOneIssue : Prop :=
  ∀ r ∈ ([(.mop, fun _ => true, false), (.mmac, fun _ => false, false), (.mbfp, fun f => f.ctl.getLsbD 2, true)] :
      List ((MA → Instr) × (MA → Bool) × Bool)), ∀ (f : MA) (s s1 s2 : State) (a b : Vec) (tb : Nat),
    tb = (if f.tyd = 0 then f.ty.toNat else f.tyd.toNat) → (bankOf s.core f.bk.toNat).block = r.2.2 →
    (bankOf s.core f.bk.toNat).lent = false → (s.core.mq.filter (·.mslot)).length < 4 →
    srcVec f.va f.ty.toNat s = .ok (a, s1) → srcVec f.vb tb s1 = .ok (b, s2) →
      exec (r.1 f) s = .next (enqueueM true (.rank1 (r.2.1 f) r.2.2 f.bk.toNat a b f.ty.toNat tb (f.ctl.getLsbD 0) (f.ctl.getLsbD 1))
        (mapCore (setBank f.bk.toNat { bankOf s2.core f.bk.toNat with live := true }) s2))

/-- The other operations on an owned bank as they issue (07 R184-R191): each enters the queue and leaves the bank's status as its entry
says; `mdrain` adds a tile to its queue of at most four; `mlend` needs an idle engine for the bank; `mrecl` needs a lent bank. -/
def Claims.BankOperationsIssue : Prop :=
  (∀ (f : MA) (s : State), (bankOf s.core f.bk.toNat).lent = false → (s.core.mq.filter (·.mslot)).length < 4 →
    exec (.mzero f) s = .next (enqueueM true (.zero f.bk.toNat)
      (mapCore (setBank f.bk.toNat { bankOf s.core f.bk.toNat with live := false }) s)) ∧
    exec (.mcfg f) s = .next (enqueueM true (.cfg f.bk.toNat (f.ty == 7))
      (mapCore (setBank f.bk.toNat { bankOf s.core f.bk.toNat with live := false, block := f.ty == 7 }) s)) ∧
    (engineHas s.core s.now f.bk.toNat = false → exec (.mlend f) s = .next (enqueueM true (.lend f.bk.toNat)
      (mapCore (setBank f.bk.toNat { bankOf s.core f.bk.toNat with lent := true, toCopy := f.ctl.getLsbD 0, live := true })
        (noteBank f.bk.toNat s)))) ∧
    (∀ x : Word, (bankOf s.core f.bk.toNat).block = true → readS f.reg s = .ok x → exec (.mrealn f) s =
      .next (enqueueM true (.realn f.bk.toNat (f.ctl.extractLsb' 0 4).toNat
        (if f.ctl.getLsbD 4 then none else some (max 0 (min 254 x.toInt)).toNat))
        (mapCore (setBank f.bk.toNat { bankOf s.core f.bk.toNat with live := true }) s))) ∧
    (∀ (x : Word) (bs : List Byte) (t : State), readS f.reg s = .ok x →
      spadRead (intOffs (imgOff x (f.ctl.extractLsb' 0 12).toNat) 1024) (f.ctl.extractLsb' 12 2).toNat
        (imgOff x (f.ctl.extractLsb' 0 12).toNat) s = .ok (bs, t) →
      exec (.mload f) s = .next (enqueueM true (.load f.bk.toNat (f.ty == 7) (wordsOf 4 bs))
        (mapCore (setBank f.bk.toNat { bankOf t.core f.bk.toNat with live := true, block := f.ty == 7 }) t))) ∧
    (∀ x : Word, (bankOf s.core f.bk.toNat).block = (f.ty == 7) → readS f.reg s = .ok x →
      spadWriteCheck (intOffs (imgOff x (f.ctl.extractLsb' 0 12).toNat) 1024) (f.ctl.extractLsb' 12 2).toNat
        (imgOff x (f.ctl.extractLsb' 0 12).toNat) s = .ok () →
      exec (.msave f) s = .next (enqueueM true (.save f.bk.toNat (imgOff x (f.ctl.extractLsb' 0 12).toNat).toNat
        (f.ctl.extractLsb' 12 2).toNat (dueAt s 8)) (mapCore (setBank f.bk.toNat { bankOf s.core f.bk.toNat with live := false }) s))) ∧
    (∀ (x : Word), readS f.reg s = .ok x → f.bd < 4 → (s.core.queues[f.bd.toNat]?.getD []).length < 4 →
      ∃ t, exec (.mdrain f) s = .next t ∧ (bankOf t.core f.bk.toNat).live = f.ctl.getLsbD 0 ∧
        t.core.queues[f.bd.toNat]? = some ((s.core.queues[f.bd.toNat]?.getD []) ++ [⟨s.nextId, none, dueAt s 10, s.now⟩]) ∧
        ∃ o, t.core.mq = s.core.mq ++ [o] ∧ o.mslot = true ∧ o.op = .drain f.bk.toNat (bankOf s.core f.bk.toNat).block f.bd.toNat s.nextId
          f.tyd.toNat (dueAt s 10) (max (-1024) (min 1023 x.toInt)) f.rnd.toNat (draws f.rnd.toNat 256 s).1 (f.ctl.getLsbD 0))) ∧
  (∀ (f : MA) (s : State), (bankOf s.core f.bk.toNat).lent = true → borrowerBusy s f.bk.toNat = false →
    (s.core.mq.filter (·.mslot)).length < 4 → exec (.mrecl f) s = .next (enqueueM true (.recl f.bk.toNat)
      (mapCore (setBank f.bk.toNat { bankOf s.core f.bk.toNat with lent := false, toCopy := false }) (noteBank f.bk.toNat s))))

/-- `mzero`, `mcfg` and `mlend` on a lent bank raise the ownership fault with the bank's number, and `mrecl` on one that is not lent
(07 R176, R190). -/
def Claims.BankOwnership : Prop :=
  (∀ i ∈ ([.mzero, .mcfg, .mlend] : List (MA → Instr)), ∀ (f : MA) (s : State), (bankOf s.core f.bk.toNat).lent = true →
    exec (i f) s = .next (mapCtx (fun k => { k with cause := some ⟨0x07, BitVec.ofNat 64 f.bk.toNat, some s.ctx.slot⟩ })
      (takeTrap finishSaves ⟨0x07, BitVec.ofNat 64 f.bk.toNat, some s.ctx.slot⟩ s))) ∧
  (∀ (f : MA) (s : State), (bankOf s.core f.bk.toNat).lent = false →
    exec (.mrecl f) s = .next (mapCtx (fun k => { k with cause := some ⟨0x07, BitVec.ofNat 64 f.bk.toNat, some s.ctx.slot⟩ })
      (takeTrap finishSaves ⟨0x07, BitVec.ofNat 64 f.bk.toNat, some s.ctx.slot⟩ s)))

/-- The 256 words that an operation leaves in its bank, from those it finds (07 R182-R191, 06 R167-R169). -/
def Claims.bankAfter (o : EOp) (ws : List Nat) : List Nat :=
  match o with
  | .rank1 clear block _ a b ta tb la lb => (rankRun block (elemsOf ta a) (elemsOf tb b) (rankSteps ta) la lb (List.range (rankSteps ta))
      (if clear then List.replicate 256 0 else ws)).1
  | .zero _ | .cfg _ _ | .save .. => []
  | .drain _ _ _ _ _ _ _ _ _ keep => if keep then ws else []
  | .load _ block v => if block then (List.range 4).flatMap fun b => bfpWords (bfpOfWords (blockWords v b)) else v
  | .lend _ | .recl _ => ws
  | .realn _ mask target => (realnWords ws mask target).1
  | .rowMov _ block row v => rowMov ws block row v
  | .rowZero _ block row => rowMov ws block row 0
  | .rowAdd _ block row xs => (rowAdd ws block row xs).1
  | .rowNorm _ row => putWords ws (64 * (row / 4)) (bfpWords (bfpNorm (bfpOfWords (blockWords ws (row / 4)))))

/-- The cycles that an operation occupies the engine for (07 R179), from its bank's words: for `mrealn` the realignment steps of the busiest
selected block, at least one; the row operations of the accumulator path take none. -/
def Claims.engineCycles (o : EOp) (ws : List Nat) : Nat :=
  match o with
  | .rank1 _ _ _ _ _ ta _ _ _ => if ta = 4 then 2 else 4
  | .drain .. | .save .. | .load .. => 4
  | .zero _ | .cfg _ _ | .lend _ | .recl _ => 1
  | .realn _ mask target =>
    let e (b : Nat) : Nat := (bfpOfWords (blockWords ws b)).e
    let sel := (List.range 4).filter (bit mask)
    let t := target.getD (sel.foldl (fun m b => max m (e b)) 0)
    sel.foldl (fun m b => max m (t - e b)) 1
  | .rowMov .. | .rowZero .. | .rowAdd .. | .rowNorm .. => 0

/-- The flags of an operation are pending for the clock in which it completes (07 R180, 05 R141); without a flag nothing is. -/
def Claims.flagsDue (k k' : Core) (seq ready cls : Nat) (due_ : Option Nat) (fl : Flags) : Prop :=
  k'.st.pend = k.st.pend ++ if fl = 0 then [] else [⟨due_, ready, none, seq, .flags, fl, cls⟩]

/-- Element k of a bank that `mdrain` converts (07 R185): its f32 word, or its mantissa under its block's exponent, times 2^x. -/
def Claims.drainElem (ws : List Nat) (block : Bool) (x : Int) (k : Nat) : XV :=
  (if block then bfpValue (bfpExp (ws.getD (k / 64 * 64) 0)) (sint 24 (ws.getD k 0)) else valueOf 0 (ws.getD k 0)).scale x

/-- The vectors of a drained tile and its flags, by destination type (07 R185): elements row-major, one conversion each; an mx4 block per pair
of rows; bfp24 blocks, which a bank in block mode gives unchanged. -/
def Claims.DrainedTiles : Prop :=
  ∀ (ws : List Nat) (block : Bool) (ty : Nat) (x : Int) (rnd : Nat) (rs : List Nat), ws.length = 256 → rs = [] ∨ rs.length = 256 →
    (ty ∈ [0, 1, 2, 3, 5, 6] →
      (drainTile ws block ty x rnd rs).1.length = widthOf ty / 2 ∧
      (∀ k < 256, laneN ((drainTile ws block ty x rnd rs).1.getD (k / (512 / widthOf ty)) 0) (widthOf ty) (k % (512 / widthOf ty)) =
        (convertSat (Claims.drainElem ws block x k) ty rnd (rs.getD k 0)).1) ∧
      (drainTile ws block ty x rnd rs).2 =
        unionFlags ((List.range 256).map fun k => (convertSat (Claims.drainElem ws block x k) ty rnd (rs.getD k 0)).2)) ∧
    (∀ e : Nat → Nat × List Nat × Flags,
      (∀ b, e b = mx4Encode ((List.range 32).map fun i => Claims.drainElem ws block x (32 * b + i)) rnd ((rs.drop (32 * b)).take 32)) →
      (drainTile ws block 4 x rnd rs).1.length = 4 ∧ (drainTile ws block 4 x rnd rs).2 = unionFlags ((List.range 8).map fun b => (e b).2.2) ∧
      ∀ b < 8, laneN ((drainTile ws block 4 x rnd rs).1.getD (b / 2) 0) 8 (32 + b % 2) = (e b).1 ∧
        ∀ i < 32, laneN ((drainTile ws block 4 x rnd rs).1.getD (b / 2) 0) 4 (32 * (b % 2) + i) = (e b).2.1.getD i 0) ∧
    (drainTile ws block 7 x rnd rs).1.length = 16 ∧
    ∀ k < 256, laneN ((drainTile ws block 7 x rnd rs).1.getD (k / 16) 0) 32 (k % 16) =
      if block then bfpWord (bfpExp (ws.getD (k / 64 * 64) 0)) (sint 24 (ws.getD k 0))
      else (bfpWords (bfpEncode ((List.range 64).map fun i => Claims.drainElem ws block x (64 * (k / 64) + i))).1).getD (k % 64) 0

/-- The engine executes its oldest operation when it is free and the strand is not stopped (07 R179, 01 R41): the operation leaves the
queue, the engine is busy for the operation's cycles, and the bank's words are those that the operation leaves; the bytes of a save are
pending for the scratchpad, a drained tile's vectors stand in its queue, and the flags come as the operation completes, those of a drain as
its tile lands; memory is as before. -/
def Claims.MatrixEngineRuns : Prop :=
  ∀ (c : CoreId) (s : State) (o : MOp) (rest : List MOp), (coreOf s c).mq = o :: rest → (coreOf s c).dstop = false →
    (coreOf s c).mBusy ≤ s.now →
      ∃ t, exec (.matrixEngineExecute c) s = .next t ∧ (coreOf t c).mq = rest ∧
        (coreOf t c).mOn = o.op.bank ∧ (coreOf t c).mBusy = s.now + Claims.engineCycles o.op (bankWords (coreOf s c) o.op.bank) ∧
        (∀ a, rdByte t a = rdByte s a) ∧
        (o.op.bank < 8 → ∀ k < 256, SMap.get 0 (bankOf (coreOf t c) o.op.bank).img k =
          (Claims.bankAfter o.op (bankWords (coreOf s c) o.op.bank)).getD k 0) ∧
        (∀ bk off fe d, o.op = .save bk off fe d → ∃ p, (coreOf t c).st.pend = (coreOf s c).st.pend ++ [p] ∧ p.due = d ∧ p.seq = o.seq ∧
          ∃ fb, p.act = .spad none (wordBytes off (bankWords (coreOf s c) bk)) fb) ∧
        (∀ clear block bk a b ta tb la lb, o.op = .rank1 clear block bk a b ta tb la lb →
          Claims.flagsDue (coreOf s c) (coreOf t c) o.seq (coreOf t c).mBusy 7 none
            (rankRun block (elemsOf ta a) (elemsOf tb b) (rankSteps ta) la lb (List.range (rankSteps ta))
              (if clear then List.replicate 256 0 else bankWords (coreOf s c) bk)).2) ∧
        (∀ bk block row xs, o.op = .rowAdd bk block row xs → Claims.flagsDue (coreOf s c) (coreOf t c) o.seq s.now 7 none
          (rowAdd (bankWords (coreOf s c) bk) block row xs).2) ∧
        (∀ bk block q tile ty d x rnd rs keep l, o.op = .drain bk block q tile ty d x rnd rs keep → (coreOf s c).queues[q]? = some l →
          ∃ at_, at_ = s.now + max 4 (real (focus c s) 10) ∧
            (coreOf t c).queues[q]? = some (l.map fun e => if e.id = tile then
              { e with vecs := some (drainTile (bankWords (coreOf s c) bk) block ty x rnd rs).1, ready := at_ } else e) ∧
            Claims.flagsDue (coreOf s c) (coreOf t c) o.seq at_ 10 d (drainTile (bankWords (coreOf s c) bk) block ty x rnd rs).2)

/-- The spline instructions as they issue (08 R198-R208): with room in the queue, valid knots where they are read, and their operands
readable, each enters the queue with what it captured. -/
def Claims.SplineIssue : Prop :=
  (∀ (f : MA) (s : State) (a : Word), readS f.reg s = .ok a →
    exec (.knset f) s = .next { s with ctx := { s.ctx with ends := s.ctx.ends ++ [.knset f.bd.toNat a] } }) ∧
  (∀ (f : MA) (s : State), exec (.knget f) s = .next (writeS f.reg 0 (knot s f.bd.toNat) 0 s)) ∧
  (∀ (f : MA) (s t : State) (a : Word) (bs : List Byte), readS f.reg s = .ok a →
    spadRead (intOffs (splOff f a) (if f.ty = 0 then 2048 else 1024)) (splFe f) (splOff f a) s = .ok (bs, t) → t.core.sq.length < 4 →
      (f.ty ≠ 0 → exec (.splld f) s = .next (enqueueS (.ld (splRow f) (wordsOf 2 bs) false) 0 t)) ∧
      (f.ty = 0 → ∀ rs u, draws f.rnd.toNat 512 t = (rs, u) → exec (.splld f) s = .next (enqueueS (.ld (splRow f)
        (convLanes ((wordsOf 4 bs).map (valueOf 0)) 1 f.rnd.toNat rs).1 true)
        (convLanes ((wordsOf 4 bs).map (valueOf 0)) 1 f.rnd.toNat rs).2 u))) ∧
  (∀ (f : MA) (s : State) (a : Word), readS f.reg s = .ok a → s.core.sq.length < 4 →
    (spadWriteCheck (intOffs (splOff f a) (if f.tyd = 0 then 2048 else 1024)) (splFe f) (splOff f a) s = .ok () →
      exec (.splst f) s = .next (enqueueS (.st (splRow f) (splOff f a).toNat (splFe f) (f.tyd == 0) (dueAt s 9)) 0 s)) ∧
    (spadWriteCheck (intOffs (splOff f a) 2048) (splFe f) (splOff f a) s = .ok () →
      exec (.splgx f) s = .next (enqueueS (.gx (splRow f) (splOff f a).toNat (splFe f) (f.tyd == 0) (dueAt s 9)) 0 s))) ∧
  (∀ (f : MA) (s s1 s2 : State) (xs dy : List XV) (b : Nat), knotsOk s = .ok () → s.core.sq.length < 4 →
    (needBank (f.ctl.getLsbD 5) s = .ok b → src16 f.va f.ty.toNat s = .ok (xs, s1) → exec (.splev f) s = .next
      (enqueueS (.ev b (splRow f) (f.ctl.getLsbD 4) (knot s1 0) (knot s1 1) (knot s1 2) (knot s1 3) xs) 0 s1)) ∧
    (src16 f.va 0 s = .ok (xs, s1) → src16 f.vb 0 s1 = .ok (dy, s2) →
      (needBank (f.ctl.getLsbD 5) s = .ok b → exec (.splbwd f) s = .next
        (enqueueS (.bwd b (splRow f) (f.ctl.getLsbD 4) (knot s2 0) (knot s2 1) (knot s2 2) (knot s2 3) xs dy) 0 s2)) ∧
      exec (.splgs f) s = .next (enqueueS (.gs (knot s2 0) (knot s2 1) (knot s2 2) (knot s2 3) xs dy) 0 s2))) ∧
  (∀ (s : State), s.core.sq.length < 4 → exec .splgz s = .next (enqueueS .gz 0 s)) ∧
  (∀ (s : State), s.core.sq.length < 4 → knotValid 0 (knot s 0) = true → k0G (knot s 0) ≤ 14 → k0Hx (knot s 0) ≠ -64 →
    ∃ t, exec .gridref s = .next t ∧ k0G (knot t 0) = 2 * k0G (knot s 0) ∧ k0Hx (knot t 0) = k0Hx (knot s 0) - 1 ∧
      (∀ n, n ≠ 0 → knot t n = knot s n) ∧ (∃ q, t.core.sq = s.core.sq ++ [q] ∧ q.op = .ref (k0G (knot s 0)))) ∧
  (∀ (f : MA) (s : State), s.core.sq.length < 4 → exec (.splcnt f) s =
    .next (enqueueS (.cnt (f.reg.setWidth 5) (f.ctl.getLsbD 0) (f.ctl.getLsbD 1) (dueAt s 9)) 0 s))

/-- An invalid knot register is named by the knot fault, and a missing output bank by the ownership fault with TRAPINFO 8 (08 R194, R200,
R201). `gridref` raises the knot fault with TRAPINFO 0 for an invalid k0, G above 14, or HX = -64 (R207). -/
def Claims.SplineFaults : Prop :=
  (∀ (s : State) (n : Nat), n < 4 → knotValid n (knot s n) = false → (∀ m < n, knotValid m (knot s m) = true) →
    knotsOk s = .error (.trap ⟨0x09, BitVec.ofNat 64 n, some s.ctx.slot⟩)) ∧
  (∀ (ob : Bool) (s : State), splBank ob s = none → needBank ob s = .error (.trap ⟨0x07, 8, some s.ctx.slot⟩)) ∧
  (∀ (s : State), knotValid 0 (knot s 0) = false ∨ 14 < k0G (knot s 0) ∨ k0Hx (knot s 0) = -64 →
    exec .gridref s = .next (Claims.trapped 0x09 0 s))

/-- A rational. -/
def Claims.rat (q : Q) : ℚ := (q.num : ℚ) / q.den

/-- locate (08 R195): where a finite input falls, from u = (x - LO) / 2^HX; the fraction is truncated to 24 bits, and outside the grid d is the
distance from it, capped at XL intervals when XL is not 0. -/
def Claims.Located : Prop :=
  ∀ (k0 k3 : Word) (nz : Bool) (q : Q) (u d : ℚ) (l : Loc), knotValid 0 k0 = true → q.den ≠ 0 → l = locate k0 k3 (.fin nz q) →
    u = (Claims.rat q - Claims.rat (loQ k0)) * (2 : ℚ) ^ (-(k0Hx k0)) → d = (if u < 0 then u else if (k0G k0 : ℚ) ≤ u then u - k0G k0 else 0) →
      (u < 0 → l.side = 0 ∧ l.m = 0 ∧ Claims.rat l.f = 0) ∧
      ((k0G k0 : ℚ) ≤ u → l.side = 2 ∧ l.m = k0G k0 - 1 ∧ Claims.rat l.f = 1) ∧
      (0 ≤ u → u < k0G k0 → l.side = 1 ∧ (l.m : ℤ) = ⌊u⌋ ∧ Claims.rat l.f = (⌊(u - ⌊u⌋) * 2 ^ 24⌋ : ℚ) / 2 ^ 24) ∧
      (l.cap = true ↔ k3Xl k3 ≠ 0 ∧ (k3Xl k3 : ℚ) < |d|) ∧
      ∃ z p, l.d = .fin z p ∧ Claims.rat p = if l.cap then (if u < 0 then -(k3Xl k3 : ℚ) else k3Xl k3) else d

/-- An exact value without a flag. -/
def Claims.exactly (r : XV × Flags) (v : ℚ) : Prop := r.2 = 0 ∧ ∃ z p, r.1 = .fin z p ∧ p.den ≠ 0 ∧ Claims.rat p = v

/-- phi_exact on finite coefficients (08 R196): the sums over the cubic B-spline pieces and their derivatives, exact; outside the grid CLAMP
(mode 0) keeps the end value with slope 0, ZERO (1) gives 0 and 0, and LINEAR (2) goes on along the end tangent, with slope 0 where it is
capped. -/
def Claims.PhiExact : Prop :=
  ∀ (mode : Nat) (l : Loc) (q0 q1 q2 q3 : Q) (z0 z1 z2 z3 : Bool) (cs : List XV) (f val slp : ℚ),
    q0.den ≠ 0 → q1.den ≠ 0 → q2.den ≠ 0 → q3.den ≠ 0 → l.f.den ≠ 0 → cs = [.fin z0 q0, .fin z1 q1, .fin z2 q2, .fin z3 q3] → f = Claims.rat l.f →
    val = (Claims.rat q0 * (1 - f) ^ 3 + Claims.rat q1 * (3 * f ^ 3 - 6 * f ^ 2 + 4) + Claims.rat q2 * (-3 * f ^ 3 + 3 * f ^ 2 + 3 * f + 1) +
      Claims.rat q3 * f ^ 3) / 6 →
    slp = (-(Claims.rat q0 * (1 - f) ^ 2) + Claims.rat q1 * (3 * f ^ 2 - 4 * f) + Claims.rat q2 * (-3 * f ^ 2 + 2 * f + 1) +
      Claims.rat q3 * f ^ 2) / 2 →
      (l.side = 1 → Claims.exactly (phiVal mode l cs) val ∧ Claims.exactly (phiSlope mode l cs) slp) ∧
      (l.side ≠ 1 → (mode = 0 → Claims.exactly (phiVal mode l cs) val ∧ Claims.exactly (phiSlope mode l cs) 0) ∧
        (mode = 1 → Claims.exactly (phiVal mode l cs) 0 ∧ Claims.exactly (phiSlope mode l cs) 0) ∧
        (mode = 2 → ∀ z d, l.d = .fin z d → d.den ≠ 0 → Claims.exactly (phiVal mode l cs) (val + slp * Claims.rat d) ∧
          Claims.exactly (phiSlope mode l cs) (if l.cap then 0 else slp)))

/-- Element (r, col) that `splev` leaves (08 R202), from the word found there, with the flags of its steps: one rounding per cell and one per
step; an inactive column keeps its element. -/
def Claims.evElem (k : Core) (add : Bool) (k0 k1 k2 k3 : Word) (xs : List XV) (col w : Nat) : Nat × Flags :=
  if colOn k1 col then ((List.range 16).filter (rowOn k1)).foldl (fun (acc : Nat × Flags) i =>
    let x := (xs[i]?).getD .zero
    let p := if x.isNaN then (x, 1) else phiVal (k0Mode k0) (locate k0 k3 x) (coefs4 k i col (locate k0 k3 x).m)
    let v := toF32 (p.1.scale (k2Ox k2))
    let r := accAdd acc.1 v.1
    (r.1, acc.2 ||| p.2 ||| v.2 ||| r.2)) (if add then w else 0, 0)
  else (w, 0)

/-- Element (r, i) that `splbwd` leaves (08 R203): the slopes by x, times the gradients; an inactive row keeps its element. -/
def Claims.bwdElem (k : Core) (add : Bool) (k0 k1 k2 k3 : Word) (xs dy : List XV) (i w : Nat) : Nat × Flags :=
  if rowOn k1 i then ((List.range 16).filter (colOn k1)).foldl (fun (acc : Nat × Flags) col =>
    let x := (xs[i]?).getD .zero
    let p := if x.isNaN then (x, 1) else phiSlope (k0Mode k0) (locate k0 k3 x) (coefs4 k i col (locate k0 k3 x).m)
    let g := toF32 (p.1.scale (k2Dx k2 - k0Hx k0))
    let m := g.1.mul ((dy[col]?).getD .zero)
    let r := accAdd acc.1 m.1
    (r.1, acc.2 ||| p.2 ||| g.2 ||| m.2 ||| r.2)) (if add then w else 0, 0)
  else (w, 0)

/-- What `splgs` adds to lane n of a gradient block (08 R204), if anything: the cell's weight at that element times the gradient and 2^GX; a
NaN input marks every element of the cell. -/
def Claims.gsLane (k0 k1 k2 k3 : Word) (xs dy : List XV) (blk n : Nat) : Option XV :=
  let i := blk / 8
  let c := blk % 8 * 2 + n / 32
  let x := (xs[i]?).getD .zero
  let l := locate k0 k3 x
  if !(rowOn k1 i && colOn k1 c) then none
  else if x.isNaN then (if n % 32 < k0G k0 + 3 then some x else none)
  else if (l.side ≠ 1 ∧ k0Mode k0 = 1) ∨ n % 32 < l.m ∨ l.m + 4 ≤ n % 32 then none
  else
    let p : XV := .fin false (basisP l.f (n % 32 - l.m))
    let q := basisQ l.f (n % 32 - l.m)
    let w := if l.side ≠ 1 ∧ k0Mode k0 = 2 ∧ q.num ≠ 0 then (p.add ((XV.fin false q).mul l.d).1).1 else p
    some ((w.mul ((dy[c]?).getD .zero)).1.scale (k2Gx k2))

/-- The spline array executes its oldest operation when it is free and the strand is not stopped (08 R199, 01 R41): it is busy for the
operation's occupancy; `splld` leaves its values in the row's cells, `splev` and `splbwd` write their values into one row of their bank,
`splev` counts the inputs outside the grid, `splgs` adds its terms with one bfp_add a block, `splgz` and `gridref` clear the gradient store,
`gridref` leaves the refined coefficients, `splcnt` leaves a count pending and clears it when asked; flags come as the operation completes;
memory is as before. -/
def Claims.SplineArrayRuns : Prop :=
  ∀ (c : CoreId) (s : State) (o : SQOp) (rest : List SQOp), (coreOf s c).sq = o :: rest → (coreOf s c).dstop = false →
    (coreOf s c).sBusy ≤ s.now →
      ∃ t, exec (.splineArrayExecute c) s = .next t ∧ (coreOf t c).sq = rest ∧ (coreOf t c).sBusy = s.now + o.op.occ ∧
        (∀ a, rdByte t a = rdByte s a) ∧ (o.op = .gz ∨ (∃ g, o.op = .ref g) → (coreOf t c).grad = []) ∧
        (∀ row vals f32, o.op = .ld row vals f32 → SMap.wf 0 (coreOf s c).coef = true → vals.length = 512 →
          ∀ n < 512, SMap.get 0 (coreOf t c).coef (coefKey row (n / 32) (n % 32)) = vals.getD n 0) ∧
        (∀ bank row, ((∃ add k0 k1 k2 k3 xs, o.op = .ev bank row add k0 k1 k2 k3 xs) ∨
            ∃ add k0 k1 k2 k3 xs dy, o.op = .bwd bank row add k0 k1 k2 k3 xs dy) → bank < 8 → row < 16 →
          ∀ k < 256, k / 16 ≠ row →
            SMap.get 0 (bankOf (coreOf t c) bank).img k = SMap.get 0 (bankOf (coreOf s c) bank).img k) ∧
        (∀ rd above clear d, o.op = .cnt rd above clear d →
          (∃ p, (coreOf t c).st.pend = (coreOf s c).st.pend ++ [p] ∧
            p.act = .sreg rd (BitVec.ofNat 64 (if above then (coreOf s c).above else (coreOf s c).below))) ∧
          (coreOf t c).above = (if clear && above then 0 else (coreOf s c).above) ∧
          (coreOf t c).below = (if clear && !above then 0 else (coreOf s c).below)) ∧
        (∀ bank row add k0 k1 k2 k3 xs, o.op = .ev bank row add k0 k1 k2 k3 xs → bank < 8 → row < 16 →
          ∃ e : Nat → Nat × Flags, (∀ col, e col = Claims.evElem (coreOf s c) add k0 k1 k2 k3 xs col
              (SMap.get 0 (bankOf (coreOf s c) bank).img (16 * row + col))) ∧
            (∀ col < 16, SMap.get 0 (bankOf (coreOf t c) bank).img (16 * row + col) = (e col).1) ∧
            Claims.flagsDue (coreOf s c) (coreOf t c) o.seq (s.now + 4) 7 none (unionFlags ((List.range 16).map fun col => (e col).2)) ∧
            ∀ side, side = 0 ∨ side = 2 → (if side = 0 then (coreOf t c).below else (coreOf t c).above) =
              min ((if side = 0 then (coreOf s c).below else (coreOf s c).above) + ((List.range 16).filter fun i => rowOn k1 i &&
                !((xs[i]?).getD .zero).isNaN && (locate k0 k3 ((xs[i]?).getD .zero)).side == side).length) 4294967295) ∧
        (∀ bank row add k0 k1 k2 k3 xs dy, o.op = .bwd bank row add k0 k1 k2 k3 xs dy → bank < 8 → row < 16 →
          ∃ e : Nat → Nat × Flags, (∀ i, e i = Claims.bwdElem (coreOf s c) add k0 k1 k2 k3 xs dy i
              (SMap.get 0 (bankOf (coreOf s c) bank).img (16 * row + i))) ∧
            (∀ i < 16, SMap.get 0 (bankOf (coreOf t c) bank).img (16 * row + i) = (e i).1) ∧
            Claims.flagsDue (coreOf s c) (coreOf t c) o.seq (s.now + 4) 7 none (unionFlags ((List.range 16).map fun i => (e i).2)) ∧
            (coreOf t c).below = (coreOf s c).below ∧ (coreOf t c).above = (coreOf s c).above) ∧
        (∀ k0 k1 k2 k3 xs dy, o.op = .gs k0 k1 k2 k3 xs dy → knotValid 0 k0 = true →
          ∃ e : Nat → List Nat × Flags,
            (∀ b, e b = blockAddAll (gradWords (coreOf s c) b) ((List.range 64).map (Claims.gsLane k0 k1 k2 k3 xs dy b))) ∧
            (∀ b < 128, ∀ j < 64, SMap.get 0 (coreOf t c).grad (64 * b + j) = (e b).1.getD j 0) ∧
            Claims.flagsDue (coreOf s c) (coreOf t c) o.seq (s.now + 4) 7 none (unionFlags ((List.range 128).map fun b => (e b).2))) ∧
        (∀ g, o.op = .ref g → g ≤ 14 → ∀ n < 256, ∀ j < 32,
          (2 * g + 2 < j → SMap.get 0 (coreOf t c).coef (32 * n + j) = 0) ∧
          (∀ z0 z1 z2 q0 q1 q2, valueOf 1 (SMap.get 0 (coreOf s c).coef (32 * n + j / 2)) = .fin z0 q0 →
            valueOf 1 (SMap.get 0 (coreOf s c).coef (32 * n + j / 2 + 1)) = .fin z1 q1 →
            valueOf 1 (SMap.get 0 (coreOf s c).coef (32 * n + j / 2 + 2)) = .fin z2 q2 → j ≤ 2 * g + 2 →
              ∃ z p, p.den ≠ 0 ∧ Claims.rat p = (if j % 2 = 0 then (Claims.rat q0 + Claims.rat q1) / 2
                  else (Claims.rat q0 + 6 * Claims.rat q1 + Claims.rat q2) / 8) ∧
                SMap.get 0 (coreOf t c).coef (32 * n + j) = (convertSat (.fin z p) 1 0 0).1))

/-! ### Landings and the debugger (01 R30-R33, R41) -/

/-- A sole pending result, scratchpad write, variable-latency result or image row that may land now lands on the core that it belongs to,
focused or not. -/
def Claims.LandingEvents : Prop :=
  (∀ (c : CoreId) (s : State) (p : Pend) (r : BitVec 5) (v : Word), (coreOf s c).st.pend = [p] → p.act = .sreg r v → r ≠ 0 → p.next = none →
    p.ready ≤ s.now → (∀ d, p.due = some d → d ≤ (coreOf s c).st.cyc) → (coreOf s c).dstop = false → queuedBefore (coreOf s c) p = false →
      ∃ t, exec (.resultLands c) s = .next t ∧ (coreOf t c).st.pend = [] ∧ (coreOf t c).st.a.regs[r.toNat] = v) ∧
  (∀ (c : CoreId) (s : State) (p : Pend) (k : Option Nat) (a : Nat) (b : Byte), (coreOf s c).st.pend = [p] →
    p.act = .spad k [(a, b)] [(a / 16, true)] → p.next = none → p.ready ≤ s.now → (∀ d, p.due = some d → d ≤ (coreOf s c).st.cyc) →
    (coreOf s c).dstop = false → queuedBefore (coreOf s c) p = false → SMap.wf 0 (coreOf s c).scratch = true →
      ∃ t, exec (.scratchpadWriteLands c) s = .next t ∧ (coreOf t c).st.pend = [] ∧ SMap.get 0 (coreOf t c).scratch a = b ∧
        SMap.get false (coreOf t c).full (a / 16) = true) ∧
  (∀ (c : CoreId) (k : Nat) (s : State) (v : VRes) (x : BitVec 256) (r : BitVec 5), (coreOf s c).st.vls = [v] → v.id = k → v.held = false →
    v.val = some x → v.dst = .sreg r → r ≠ 0 → v.keep = true → v.first ≤ s.now →
      ∃ t, exec (.variableLatencyResult c k) s = .next t ∧ (coreOf t c).st.vls = [] ∧ (coreOf t c).st.a.regs[r.toNat] = x.extractLsb' 0 64 ∧
        (coreOf t c).st.a.empties[r.toNat] = false) ∧
  (∀ (c : CoreId) (k : Nat) (s : State) (i : Img) (a : Nat) (b : Byte), (coreOf s c).st.imgs = [i] → i.id = k → i.bytes = [(a, b)] →
    s.mcs = [] → SMap.wf 0 (coreOf s c).scratch = true → ∃ t, exec (.imageLanding c k) s = .next t ∧ (coreOf t c).st.imgs = [] ∧ SMap.get 0 (coreOf t c).scratch a = b ∧
      (i.full = true → SMap.get false (coreOf t c).full (a / 16) = true) ∧ (coreOf t c).st.a.flags = (coreOf s c).st.a.flags ||| i.flags)

/-- The debug interface (01 R21, R41): a write to DBGCTL sets SSTEP and BRKEN and stops the strand when STOPPED is set; a restart lets a
stopped strand issue again. -/
def Claims.DebugInterface : Prop :=
  (∀ (c : CoreId) (w : Word) (s : State), ∃ t, exec (.dbgctlWrite c w) s = .next t ∧ (coreOf t c).sstep = w.getLsbD 0 ∧
    (coreOf t c).brken = w.getLsbD 1 ∧ (coreOf t c).dstop = w.getLsbD 2 ∧ (coreOf t c).st.a = (coreOf s c).st.a) ∧
  (∀ (c : CoreId) (s : State), (coreOf s c).dstop = true → ∃ t, exec (.debugRestart c) s = .next t ∧
    (coreOf t c).dstop = false ∧ (coreOf t c).st.a = (coreOf s c).st.a)

/-! ### Counters, atomics and barriers (13, 10) -/

/-- `cadd`, `caddi`, `cflg` and `cceil` (13 R291, R292): each enters one held piece with the counter's translated address; a ceiling of
2^32 or more is illegal. -/
def Claims.HeldCounterOperations : Prop :=
  (∀ (f : YA) (s t : State) (a b : Word) (pa : Nat), readS f.a s = .ok a → readS f.b s = .ok b →
    ctrAddr .ctrWr (a + f.imm.signExtend 64) s = .ok (pa, t) → t.core.held.length < 128 →
      exec (.cadd f) s = .next (Claims.holding (.cadd pa (a + f.imm.signExtend 64) b) t) ∧
      exec (.cflg f) s = .next (Claims.holding (.cflg pa (b.extractLsb' 0 32)) t) ∧
      (b.toNat < 2 ^ 32 →
        exec (.cceil f) s = .next (Claims.holding (.cceil pa (a + f.imm.signExtend 64) b) t)) ∧
      (2 ^ 32 ≤ b.toNat → exec (.cceil f) s = .next (mapCtx (fun k => { k with cause := some ⟨0x01, s.ctx.syl, some s.ctx.slot⟩ })
        (takeTrap finishSaves ⟨0x01, s.ctx.syl, some s.ctx.slot⟩ s)))) ∧
  (∀ (f : YA) (s t : State) (a : Word) (pa : Nat), readS f.a s = .ok a → ctrAddr .ctrWr a s = .ok (pa, t) → t.core.held.length < 128 →
    exec (.caddi f) s = .next (Claims.holding (.cadd pa a (f.imm.setWidth 64)) t))

/-- `crd` reads VALUE, or CEIL and FLAGS with FLAGS' bits [15:8] as 0, as a variable-latency result (13 R290, R295). `cwait` (R296) with nothing held registers last and
waits, or, when its threshold is met already, returns the flag word at once; with something held it raises wait-with-held (01 R25). A wake
gives a waiting strand the flag word and lets it go on (R297). With s0 as its register no register changes either way (01 R16). -/
def Claims.CounterWaits : Prop :=
  (∀ (f : YA) (s s1 s2 : State) (a : Word) (bs : List (List Byte)) (pa : Nat) (imm : Bool), readS f.a s = .ok a →
    (a + f.imm.signExtend 64).toNat % 16 = 0 →
    globalReadWith .ctrRd true [] [((a + f.imm.signExtend 64).toNat, 16)] s = .ok (bs, s1) →
    coreXlate .ctrRd (a + f.imm.signExtend 64).toNat s1 = .ok ((pa, imm), s2) →
      ∃ t, exec (.crd f) s = .next t ∧ t.core = s1.core ∧ t.ctx.ends = s1.ctx.ends ++ [.produce ⟨s1.nextId, .sreg (f.c.setWidth 5),
        some ((BitVec.ofNat 64 (if f.ctl = 0 then leNat (bs.headD []) % 2 ^ 64
          else flagMask (leNat (bs.headD []) / 2 ^ 64 % 2 ^ 32) + leNat (bs.headD []) / 2 ^ 96 % 2 ^ 32 * 2 ^ 32)).setWidth 256),
        s1.now, false, false, true⟩]) ∧
  (∀ (f : YA) (s t : State) (a thr : Word) (pa : Nat), readS f.a s = .ok a → readS f.b s = .ok thr → s.core.held = [] →
    ctrAddr .ctrRd (a + f.imm.signExtend 64) s = .ok (pa, t) → homeServes t (pa / 64) = .ok () →
      (ctrMet t pa thr.toNat (f.wf == 1) = false → ∃ u, exec (.cwait f) s = .next u ∧
        u.waiters = t.waiters ++ [⟨pa, thr.toNat, f.wf == 1, .core t.core.id⟩] ∧
        u.ctx.wait = .cwait (f.c.setWidth 5) pa t.core.st.a.pc ∧ u.core = t.core) ∧
      (ctrMet t pa thr.toNat (f.wf == 1) = true → ∃ u, exec (.cwait f) s = .next u ∧ u.waiters = t.waiters ∧ u.ctx = t.ctx ∧
        ((f.c.setWidth 5 : BitVec 5) ≠ 0 → regVal u (f.c.setWidth 5) = BitVec.ofNat 64 (ctrFlags t pa)) ∧
        ((f.c.setWidth 5 : BitVec 5) = 0 → u.core.st.a = t.core.st.a))) ∧
  (∀ (f : YA) (s : State) (a thr : Word), readS f.a s = .ok a → readS f.b s = .ok thr → s.core.held ≠ [] →
    exec (.cwait f) s = .next (mapCtx (fun k => { k with cause := some ⟨0x28, BitVec.ofNat 64 s.core.held.length, some s.ctx.slot⟩ })
      (takeTrap finishSaves ⟨0x28, BitVec.ofNat 64 s.core.held.length, some s.ctx.slot⟩ s))) ∧
  (∀ (c : CoreId) (fl : BitVec 32) (n : Nat) (s : State) (rd : BitVec 5) (pa : Nat) (pc : BPc), (coreOf s c).st.wait = .cwait rd pa pc →
    ∃ t, exec (.cwaitWake c fl n) s = .next t ∧ (coreOf t c).st.wait = .none ∧
      (rd ≠ 0 → (coreOf t c).st.a.regs[rd.toNat] = fl.setWidth 64) ∧ (rd = 0 → (coreOf t c).st.a = (coreOf s c).st.a) ∧ n ≤ (coreOf t c).pts ∧ (coreOf s c).pts ≤ (coreOf t c).pts)

/-- The memory atomics (13 R299): constructor and kind. -/
def Claims.atomicRows : List ((YA → Instr) × AtomKind) :=
  [(.amadd, .add), (.amax, .max), (.amin, .min), (.aswp, .swp), (.acas, .cas), (.aand, .and), (.aor, .or), (.afadd, .fadd)]

/-- Each enters one held piece at its aligned target and makes its register the destination of a result that waits for the region's
commit (13 R299, R300; 12 R283). -/
def Claims.AtomicsHeld : Prop :=
  ∀ r ∈ Claims.atomicRows, ∀ (f : YA) (s t : State) (a x y : Word) (pa : Nat), readS f.a s = .ok a → readS f.b s = .ok x →
    (if r.2 = .cas then readS f.d s = .ok y else y = 0) → (a + f.imm.signExtend 64).toNat % (if f.ctl.getLsbD 0 then 4 else 8) = 0 →
    xlateW .atomic (a + f.imm.signExtend 64).toNat s = .ok (pa, t) → t.core.held.length < 128 →
      ∃ u, exec (r.1 f) s = .next u ∧
        u.core.held = t.core.held ++ [.atomic r.2 pa (f.ctl.getLsbD 0) (f.ctl.getLsbD 1) x y (f.c.setWidth 5) t.nextId] ∧
        u.ctx.ends = t.ctx.ends ++ [.produce ⟨t.nextId, .sreg (f.c.setWidth 5), none, t.now, false, true, true⟩] ∧
        (∀ b, rdByte u b = rdByte s b)

/-- The new value of an atomic's target (13 R299), on w = 32 or 64 bits. `afadd` (R301) rounds the exact sum of two f32 numbers once, to
nearest even; its flags are those of the sum, of the conversion, and NV for a NaN operand. -/
def Claims.AtomicValues : Prop :=
  ∀ (w4 u : Bool) (w : Nat) (o x y : Nat), w = (if w4 then 32 else 64) → o < 2 ^ w → x < 2 ^ w → y < 2 ^ w →
    (atomicNew .add w4 u o x y).1 = (o + x) % 2 ^ w ∧ (atomicNew .swp w4 u o x y).1 = x ∧
    (atomicNew .cas w4 u o x y).1 = (if o = x then y else o) ∧ (atomicNew .and w4 u o x y).1 = o &&& x ∧
    (atomicNew .or w4 u o x y).1 = o ||| x ∧
    (u = true → (atomicNew .max w4 u o x y).1 = max o x ∧ (atomicNew .min w4 u o x y).1 = min o x) ∧
    (u = false → sint w (atomicNew .max w4 u o x y).1 = max (sint w o) (sint w x) ∧
      sint w (atomicNew .min w4 u o x y).1 = min (sint w o) (sint w x)) ∧
    (w4 = true → ∀ v f b g, (valueOf 0 o).add (valueOf 0 x) = (v, f) → convertSat v 0 0 0 = (b, g) →
      atomicNew .fadd w4 u o x y = (b, f ||| g ||| nanFlag [valueOf 0 o, valueOf 0 x]))

/-- The last apply of a region that holds one atomic (13 R300, R301; 12 R283): the target takes the new value of what stands there, every other
byte is unchanged, the flags are set, and the old value lands, zero-extended, in the atomic's register and in the checkpoint that is captured
with it; a result that a later write of the register has discarded does not. -/
def Claims.AtomicApplies : Prop :=
  ∀ (c : CoreId) (home n pa id w : Nat) (k : AtomKind) (w4 u : Bool) (x y : Word) (r : BitVec 5) (s : State) (m : Commit), s.core.id = c →
    s.core.commit = some m → m.todo = [] → m.t = some n → m.renewals = [] → m.toApply = [home] → w = (if w4 then 4 else 8) → pa % w = 0 →
    homeOf (pa / 64) = home → s.core.held = [.atomic k pa w4 u x y r id] → Memory.wf s = true → (dirOf s (pa / 64)).psn = false →
    s.core.stale = false → (dirOf s (pa / 64)).resv = some c →
      ∃ t, exec (.apply c home) s = .next t ∧ Memory.wf t = true ∧
        rdN t pa w = (atomicNew k w4 u (rdN s pa w) x.toNat y.toNat).1 % 2 ^ (8 * w) ∧
        (∀ a, a < pa ∨ pa + w ≤ a → rdByte t a = rdByte s a) ∧
        (dirOf t (pa / 64)).wts = n ∧ (dirOf t (pa / 64)).resv = none ∧ t.core.held = [] ∧ t.core.commit = none ∧
        t.core.st.a.flags = s.core.st.a.flags ||| (atomicNew k w4 u (rdN s pa w) x.toNat y.toNat).2 ∧ t.core.st.shadow = t.core.st.a ∧
        (∀ q, q ≠ r → regVal t q = regVal s q) ∧ (∀ v ∈ t.core.st.vls, v.id ≠ id) ∧
        ((∃ v ∈ s.core.st.vls, v.id = id ∧ v.keep = true) → r ≠ 0 → regVal t r = BitVec.ofNat 64 (rdN s pa w)) ∧
        ((∀ v ∈ s.core.st.vls, v.id = id → v.keep = false) → regVal t r = regVal s r)

/-- apply_add (13 R292, R293) on a counter without waiters: VALUE rises by n and FLAGS take the bits ORed in, unless the sum passes
2^64 − 1 or a CEIL that is set; then VALUE is kept and OVF is set as well. CEIL and every byte outside the counter are unchanged. -/
def Claims.AddRule : Prop :=
  ∀ (pa : Nat) (va : Word) (n fl : Nat) (src : Source) (t : Nat) (s : State), Memory.wf s = true → (∀ w ∈ s.waiters, w.pa ≠ pa) →
    ctrCeil (addCounter pa va n fl src t s) pa = ctrCeil s pa ∧
    (∀ a, a < pa ∨ pa + 16 ≤ a → rdByte (addCounter pa va n fl src t s) a = rdByte s a) ∧
    (n = 0 ∨ (ctrValue s pa + n < 2 ^ 64 ∧ (ctrCeil s pa = 0 ∨ ctrValue s pa + n ≤ ctrCeil s pa)) →
      ctrValue (addCounter pa va n fl src t s) pa = ctrValue s pa + n ∧
      ctrFlags (addCounter pa va n fl src t s) pa = ctrFlags s pa ||| flagMask fl) ∧
    (n ≠ 0 → 2 ^ 64 ≤ ctrValue s pa + n ∨ (ctrCeil s pa ≠ 0 ∧ ctrCeil s pa < ctrValue s pa + n) →
      ctrValue (addCounter pa va n fl src t s) pa = ctrValue s pa ∧
      ctrFlags (addCounter pa va n fl src t s) pa = ctrFlags s pa ||| flagMask fl ||| 0x80)

/-- wake_check (13 R297): the waiters of a counter that are met leave the list, the others stay in their order of registration. -/
def Claims.WakeRemovesMetWaiters : Prop :=
  ∀ (pa t : Nat) (s : State), (wakeCheck pa t s).waiters = s.waiters.filter (fun w => !(w.pa == pa && ctrMet s pa w.thr w.wf)) ∧
    (∀ w ∈ s.waiters, w.pa = pa → ctrMet s pa w.thr w.wf = true → ∀ c, w.who = .core c →
      ∃ d ∈ (wakeCheck pa t s).agenda, d.act = .cwaitWake c (BitVec.ofNat 32 (ctrFlags s pa)) t ∧ s.now ≤ d.at_ ∧ d.at_ ≤ s.now + 3000)

/-- The events of a counter's home (13 R292, R294, R298): when its line can take a write, the operation happens at a time after the line's
leases; when the line is reserved or locked, it happens later; a poisoned counter is reported to the operation's source. -/
def Claims.HomeCounterEvents : Prop :=
  (∀ (pa : Nat) (va n : Word) (fl : BitVec 32) (src : Source) (t : Nat) (s : State), lineReady s (pa / 64) false none = .ok →
    exec (.applyAdd pa va n fl src t) s = .next (addCounter pa va n.toNat fl.toNat src (max (t + 1) ((dirOf s (pa / 64)).rts + 1)) s)) ∧
  (∀ (pa : Nat) (va n : Word) (fl : BitVec 32) (src : Source) (t : Nat) (s : State), lineReady s (pa / 64) false none = .wait →
    exec (.applyAdd pa va n fl src t) s = .next { s with agenda := s.agenda ++ [⟨s.now + 1, .applyAdd pa va n fl src t⟩] }) ∧
  (∀ (pa : Nat) (va n : Word) (fl : BitVec 32) (k t : Nat) (s : State), lineReady s (pa / 64) false none = .poison →
    ∃ u r, exec (.applyAdd pa va n fl (.task k) t) s = .next u ∧ u.agenda = s.agenda ++ [⟨s.now, .faultReport r⟩] ∧ r.async = true ∧
      r.code = 0x22 ∧ r.tser = k ∧ r.info = BitVec.ofNat 64 pa) ∧
  (∀ (pa : Nat) (b : BitVec 32) (t : Nat) (s : State), lineReady s (pa / 64) false none = .ok → Memory.wf s = true →
    (∀ w ∈ s.waiters, w.pa ≠ pa) → ∃ u, exec (.applyCflg pa b t) s = .next u ∧
      ctrFlags u pa = ctrFlags s pa ||| flagMask b.toNat ∧ ctrValue u pa = ctrValue s pa ∧ ctrCeil u pa = ctrCeil s pa) ∧
  (∀ (pa : Nat) (va v : Word) (src : Source) (t : Nat) (s : State), lineReady s (pa / 64) false none = .ok → Memory.wf s = true →
    (∀ w ∈ s.waiters, w.pa ≠ pa) → v.toNat < 2 ^ 32 → v ≠ 0 → ∃ u, exec (.applyCeil pa va v src t) s = .next u ∧
      ctrValue u pa = ctrValue s pa ∧
      (ctrCeil s pa = 0 → ctrValue s pa ≤ v.toNat → ctrCeil u pa = v.toNat ∧ ctrFlags u pa = ctrFlags s pa) ∧
      (ctrCeil s pa ≠ 0 ∨ v.toNat < ctrValue s pa → ctrCeil u pa = ctrCeil s pa ∧ ctrFlags u pa = ctrFlags s pa ||| 0x80))

/-- The barrier instructions on an armed segment (10 R238-R241): `barr` returns the phase and holds an arrival; `bwait` goes on when the
phase has been released and waits otherwise; `barq` returns PHASE, ARMED and the core's own bits. On a segment that the task has not armed
each is illegal. -/
def Claims.BarrierInstructions : Prop :=
  (∀ (f : YA) (s : State) (i : Nat) (g : Seg), segOf s f.seg.toNat = some (i, g) → s.core.held.length < 128 →
    exec (.barr f) s = .next (Claims.holding (.barr i) (writeS f.a 0 (g.phase.setWidth 64) 0 s))) ∧
  (∀ (f : YA) (s : State) (i : Nat) (g : Seg) (p : Word), segOf s f.seg.toNat = some (i, g) → readS f.a s = .ok p → s.core.held = [] →
    (released g (p.setWidth 16) = true → exec (.bwait f) s = .next { s with core := { s.core with pts := max s.core.pts g.tmax } }) ∧
    (released g (p.setWidth 16) = false → exec (.bwait f) s = .next { s with ctx := { s.ctx with wait := .bwait i (p.setWidth 16) } })) ∧
  (∀ (f : YA) (s : State) (i : Nat) (g : Seg), segOf s f.seg.toNat = some (i, g) → ∃ v, exec (.barq f) s = .next (writeS f.a 0 v 0 s) ∧
    v.extractLsb' 0 16 = g.phase ∧ v.getLsbD 16 = g.armed ∧ v.getLsbD 17 = g.arrived.contains s.core.id ∧
    v.getLsbD 18 = g.excuse.contains s.core.id) ∧
  (∀ (f : YA) (s : State), segOf s f.seg.toNat = none →
    exec (.barr f) s = .next (Claims.trapped 0x01 s.ctx.syl s) ∧ exec (.barq f) s = .next (Claims.trapped 0x01 s.ctx.syl s) ∧
    ((∃ p, readS f.a s = .ok p) → exec (.bwait f) s = .next (Claims.trapped 0x01 s.ctx.syl s)))

/-- Arrivals (10 R237, R239, R240): a member's arrival is noted; the arrival that makes every input true raises PHASE by one and clears the
arrivals; a waiting strand goes on once its phase has been released. -/
def Claims.BarrierPhases : Prop :=
  (∀ (c : CoreId) (seg n : Nat) (s : State) (g : Seg), findKey s.segs seg = some g → g.armed = true → c ∈ g.member → c ∉ g.arrived →
    g.away = [] → ∃ t g', exec (.barrierArrival c seg n) s = .next t ∧ findKey t.segs seg = some g' ∧ g'.tmax = max g.tmax n ∧
      ((∀ m ∈ g.member, m = c ∨ m ∈ g.arrived ∨ m ∈ g.excuse) → g'.phase = g.phase + 1 ∧ g'.arrived = []) ∧
      ((∃ m ∈ g.member, m ≠ c ∧ m ∉ g.arrived ∧ m ∉ g.excuse) → g'.phase = g.phase ∧ g'.arrived = g.arrived ++ [c])) ∧
  (∀ (c : CoreId) (s : State) (i : Nat) (p : BitVec 16) (g : Seg), (coreOf s c).st.wait = .bwait i p → findKey s.segs i = some g →
    released g p = true → ∃ t, exec (.bwaitReturn c) s = .next t ∧ (coreOf t c).st.wait = .none ∧ g.tmax ≤ (coreOf t c).pts) ∧
  (∀ (g : Seg) (p : BitVec 16), released { g with phase := p } p = false ∧ released { g with phase := p + 1 } p = true)

/-- A multicast lands in every target at its clock: the line's bytes, and its granules full when asked (10 R232, R233). One that does not
ask leaves every full/empty bit as it is: the model follows 10 R232 there and not 04 R115 (log entry 122). -/
def Claims.MulticastLands : Prop :=
  ∀ (s : State) (m : Mc) (k : Nat), s.mcs = [m] → m.seq = k → m.at_ ≤ s.now →
    ∃ t, exec (.multicastLanding k) s = .next t ∧ t.mcs = [] ∧ (∀ a, rdByte t a = rdByte s a) ∧
      ∀ c ∈ m.targets, (∀ j < 64, SMap.wf 0 (coreOf s c).scratch = true → SMap.get 0 (coreOf t c).scratch (m.off + j) = vecByte m.data j) ∧
        (m.full = true → m.off % 16 = 0 → ∀ j < 4, SMap.wf false (coreOf s c).full = true → SMap.get false (coreOf t c).full (m.off / 16 + j) = true) ∧
        (m.full = false → (coreOf t c).full = (coreOf s c).full)

/-! ### Regions and their commit (01 R22-R31, R43; 12) -/

/-- A checkpoint (01 R22) waits, landing what is due, until the core is settled. Of a settled core whose banks and queues are clean, a region
with nothing read or held ends at once, and the shadow set, CKPTPC and the cleared engines begin the next; a region that holds writes begins
its commit at their homes and the bundle waits; one that translated through a dropped entry fails and re-executes (11 R267). Live banks or
tiles raise the dirty-checkpoint trap with their bitmap (01 R34). -/
def Claims.CheckpointSteps : Prop :=
  (∀ (s : State), settled false s = false →
    (settled false (landDue true s) = false → exec .checkpoint s = .next (mapCtx (fun k => { k with stall := true }) (landDue true s))) ∧
    (settled false (landDue true s) = true → exec .checkpoint s = exec .checkpoint (landDue true s))) ∧
  ∀ (s : State), settled false s = true →
    (dirtyMap s.core = 0 → placeless s.core = true → ∃ t, exec .checkpoint s = .next t ∧ t.ctx = s.ctx ∧ t.core.st.a = s.core.st.a ∧
      t.core.st.shadow = s.core.st.a ∧ t.core.st.ckDone = true ∧ t.core.st.retry = 0 ∧ t.core.st.pin = false ∧
      (s.core.st.tm = false → t.core.st.ckptPc = s.core.st.a.pc) ∧ (s.core.st.tm = true → t.core.st.hckpt = s.core.st.a.pc) ∧
      t.core.held = [] ∧ t.core.coef = [] ∧ t.core.grad = [] ∧ (∀ b < 8, (bankOf t.core b).img = []) ∧ (∀ a, rdByte t a = rdByte s a)) ∧
    (dirtyMap s.core = 0 → placeless s.core = false → ∃ t, exec .checkpoint s = .next t ∧ t.ctx.stall = true ∧
      (s.core.stale = false → writeSet s.core ≠ [] → t.core.held = s.core.held ∧
        ∃ m, t.core.commit = some m ∧ m.todo = homesOf (writeSet s.core) ∧ m.toApply = homesOf (writeSet s.core) ∧ m.t = none) ∧
      (s.core.stale = true → t.core.commit = none ∧ t.core.held = [] ∧ t.core.st.a.pc = resumePc s.core.st ∧
        t.core.st.retry = min 3 (s.core.st.retry + 1))) ∧
    (dirtyMap s.core ≠ 0 → exec .checkpoint s = .next (mapCtx (fun k => { k with cause := some ⟨0x26, BitVec.ofNat 64 (dirtyMap s.core), none⟩ })
      (takeTrap finishSaves ⟨0x26, BitVec.ofNat 64 (dirtyMap s.core), none⟩ s)))

/-- An ordered bundle waits until nothing is pending (01 R31), landing what may land; with nothing pending it goes on, and of the machine
only the assumed landing cycles of arrived tiles change (01 R30). A BRK bundle passes once after its own trap, which clears the passed
breakpoint, and with BRKEN clear; it raises the breakpoint trap otherwise (01 R43, R44). -/
def Claims.BundleFlags : Prop :=
  (∀ (s : State), settled true (landDue true s) = true → exec .orderedBundle s = .next (landDue true s)) ∧
  (∀ (s : State), settled true (landDue true s) = false →
    exec .orderedBundle s = .next (mapCtx (fun k => { k with stall := true }) (landDue true s))) ∧
  (∀ (s : State), settled true s = true → ∃ t, exec .orderedBundle s = .next t ∧
    t = { s with core := { s.core with queues := t.core.queues } } ∧ ∀ q < 4,
      ((t.core.queues[q]?.getD []).map fun x => (x.id, x.vecs, x.ready)) = (s.core.queues[q]?.getD []).map fun x => (x.id, x.vecs, x.ready)) ∧
  (∀ (s : State), s.core.brken = false → s.core.st.passed ≠ some s.core.st.a.pc → exec .breakpoint s = .next s) ∧
  (∀ (s : State), s.core.st.passed = some s.core.st.a.pc →
    exec .breakpoint s = .next { s with core := { s.core with st := { s.core.st with passed := none } } }) ∧
  (∀ (s : State), s.core.brken = true → s.core.st.passed ≠ some s.core.st.a.pc →
    exec .breakpoint s = .next (mapCtx (fun k => { k with cause := some ⟨0x03, 0, none⟩ }) (takeTrap finishSaves ⟨0x03, 0, none⟩ s)))

/-- The reservation of a home's lines (12 R277): when every line can be reserved, each is reserved for the core; when a line is pinned by
another region, the region fails its validation and re-executes from its checkpoint with nothing held (12 R278). -/
def Claims.CommitReserves : Prop :=
  ∀ (c : CoreId) (home : Nat) (s : State) (m : Commit) (rest : List Nat), s.core.id = c → s.core.lockWait = [] → s.core.commit = some m →
    m.todo = home :: rest → m.toApply ≠ [] → s.core.stale = false →
      ((∀ l ∈ writeSet s.core, homeOf l = home → reserveMeets s l = .ok) →
        ∃ t, exec (.reserve c home) s = .next t ∧ t.core.commit.isSome = true ∧ t.core.held = s.core.held ∧
          (∀ l ∈ writeSet s.core, homeOf l = home → (dirOf t l).resv = some c) ∧ (∀ a, rdByte t a = rdByte s a)) ∧
      ((∃ l ∈ writeSet s.core, homeOf l = home ∧ reserveMeets s l = .fail) → (∀ l ∈ writeSet s.core, homeOf l = home → reserveMeets s l ≠ .poison) →
        ∃ t, exec (.reserve c home) s = .next t ∧ t.core.commit = none ∧ t.core.held = [] ∧ t.core.st.a.pc = resumePc s.core.st ∧
          t.core.st.a.regs = s.core.st.shadow.regs ∧ t.core.st.retry = min 3 (s.core.st.retry + 1) ∧
          (t.core.st.pin = true ↔ 2 ≤ s.core.st.retry))

/-- The renewal of a line of the read set (12 R277): it succeeds while the line has not been written since its lease and no other region
has reserved it, and raises the line's RTS to the region's time; otherwise the region fails: it re-executes from its checkpoint with nothing
held and RETRY one higher, which the model counts for a stale region too (log entry 53). -/
def Claims.CommitRenews : Prop :=
  ∀ (c : CoreId) (line n : Nat) (s : State) (m : Commit) (rest : List Nat), s.core.id = c → s.core.commit = some m → m.todo = [] →
    m.t = some n → m.renewals = line :: rest → m.toApply ≠ [] → s.core.stale = false →
      ((∀ e ∈ readSet s.core, e.1 = line → (dirOf s line).wts ≤ e.2) → (dirOf s line).resv = none →
        ∃ t, exec (.renew c line) s = .next t ∧ (dirOf t line).rts = max (dirOf s line).rts n ∧ (dirOf t line).wts = (dirOf s line).wts ∧
          t.core.commit = some { m with renewals := rest } ∧ (∀ a, rdByte t a = rdByte s a)) ∧
      ((∃ e ∈ readSet s.core, e.1 = line ∧ e.2 < (dirOf s line).wts) ∨ (∃ d, d ≠ c ∧ (dirOf s line).resv = some d) →
        ∃ t, exec (.renew c line) s = .next t ∧ t.core.commit = none ∧ t.core.held = [] ∧ t.core.st.a.pc = resumePc s.core.st ∧
          t.core.st.a.regs = s.core.st.shadow.regs ∧ t.core.st.retry = min 3 (s.core.st.retry + 1))

/-- The last apply of a region that holds one store (12 R276): the bytes that the store names take its values, every other byte is unchanged,
the written line's WTS becomes the region's time and its reservation is released, and the region ends. -/
def Claims.CommitApplies : Prop :=
  ∀ (c : CoreId) (home n pa : Nat) (va : Word) (data : Vec) (mask : BitVec 64) (s : State) (m : Commit), s.core.id = c →
    s.core.commit = some m → m.todo = [] → m.t = some n → m.renewals = [] → m.toApply = [home] → pa % 64 = 0 → homeOf (pa / 64) = home →
    s.core.held = [.store pa va data mask none] → Memory.wf s = true → (dirOf s (pa / 64)).psn = false → s.core.stale = false →
    (dirOf s (pa / 64)).resv = some c →
      ∃ t, exec (.apply c home) s = .next t ∧ Memory.wf t = true ∧
        (∀ a, rdByte t a = if pa ≤ a ∧ a < pa + 64 ∧ mask.getLsbD (a - pa) = true then vecByte data (a - pa) else rdByte s a) ∧
        (dirOf t (pa / 64)).wts = n ∧ (dirOf t (pa / 64)).resv = none ∧ t.core.held = [] ∧ t.core.pts = max n (s.now / 16) ∧
        t.core.commit = none

/-- A grant (12 R273) of an unreserved line extends its RTS by the lease of 256 beyond the reader's PTS and the line's WTS, changes no
data, and gives a core with no copy and room in the line's set of its L1 the line's bytes under that lease. -/
def Claims.LeaseGrant : Prop :=
  ∀ (c : CoreId) (line : Nat) (s : State), s.core.id = c → homeServes s line = .ok () → (dirOf s line).resv = none →
    ∃ t, exec (.grant c line) s = .next t ∧ (dirOf t line).rts = max (dirOf s line).rts (max s.core.pts (dirOf s line).wts + 256) ∧
      (dirOf t line).wts = (dirOf s line).wts ∧ (∀ a, rdByte t a = rdByte s a) ∧
      ((∀ l ∈ s.core.l1, l.pa ≠ 64 * line) → (s.core.l1.filter fun l => l1Set l.pa == l1Set (64 * line)).length < waysOf s.core →
        ∃ l ∈ t.core.l1, l.pa = 64 * line ∧ l.data = lineVec s line ∧ l.lease = (dirOf t line).rts ∧ l.wts = (dirOf s line).wts)

/-- The pin token goes to the oldest request (12 R279), and a home raises the stamps that have fallen too far behind its clock to it
(12 R274). -/
def Claims.TokenAndStamps : Prop :=
  (∀ (s : State) (c : CoreId) (q : List CoreId), s.sched.pinHolder = none → s.sched.pinQ = c :: q →
    ∃ t, exec .pinTokenGrant s = .next t ∧ t.sched.pinHolder = some c ∧ t.sched.pinQ = q ∧ (coreOf t c).pinTok = true ∧
      (coreOf t c).pinReq = false) ∧
  (∀ (home : Nat) (s : State), ∃ t, exec (.stampRaise home) s = .next t ∧ t.mem = s.mem ∧
    ∀ l d, findKey s.dir l = some d → ∃ e, findKey t.dir l = some e ∧
      e.rts = (if homeOf l = home ∧ d.rts + 2 ^ 46 ≤ hcOf s home then hcOf s home else d.rts) ∧
      e.wts = (if homeOf l = home ∧ d.wts + 2 ^ 46 ≤ hcOf s home then hcOf s home else d.wts) ∧
      { e with rts := d.rts, wts := d.wts } = d)

/-! ### Tensor tiles (09 R216-R224) -/

/-- The record a tile instruction reads first: none for a tensor that is not governed (09 R218). -/
def Claims.tileRec (t : TileArgs) (s s1 : State) (r : Option Rec) : Prop :=
  (hGov t.h = false ∧ r = none ∧ s1 = s) ∨ (hGov t.h = true ∧ ∃ q, r = some q ∧ readRec (hTmr t.h) s = .ok (q, s1))

/-- The entry of each element of a governed tile: the one that the version or the watermark read with the element names (09 R218). -/
def Claims.tileEnts (t : TileArgs) (r : Option Rec) (ms : List (Nat × Nat × Nat)) (ents : List Ent) : Prop :=
  match r with
  | none => ents = List.replicate 256 ⟨0, 0, hFmt t.h⟩
  | some q => ((tileElems t.blk (hTrn t.h) t.r0 t.c0).map fun p =>
      if inTensor t.h p then entryOf t q (codeVa t.h (layoutFmt t.h t.blk) (t.r0, t.c0)) ms p else .ok ⟨0, 0, layoutFmt t.h t.blk⟩) = ents.map .ok

/-- On a die without the mx4 subset no element of the tile names an mx4 entry (09 R218). -/
def Claims.mxOk (t : TileArgs) (r : Option Rec) (ms : List (Nat × Nat × Nat)) (s : State) : Prop :=
  isL s.core.id = true → ∀ q, r = some q → ∀ p ∈ t.inside, ∀ e, namedEntry t q ms p = some e → e.f ≠ 4

/-- `gld` (09 R219): with every byte readable and every entry found, it issues the rows of an image; each lane of an image that is not mx4
is one rounding of its element's value times its entry's power of two, and 0 outside the tensor; a block of an mx4 image keeps its codes
under the scale X + e when that fits and X is no NaN, is 0 outside the tensor, and otherwise is the encoding of its scaled values. The flags
of a row are those of its roundings. A stale entry raises the stale-watermark fault. `gldr` (R220) copies codes as they are. Each row lands at the image's next 64 bytes (R224). -/
def Claims.TileLoadResults : Prop :=
  (∀ (f : LS) (s s1 s2 s3 : State) (t : TileArgs) (o : Word) (r : Option Rec) (m : List (Nat × List Byte)) (ents : List Ent) (rs : List Nat),
    tileArgs f s = .ok t → tileOff f s = .ok o → tileLegal t.h t.blk = true →
    spadWriteCheck (spadOffs o (imgBytes f.ty.toNat)) f.fe.toNat o s = .ok () → Claims.tileRec t s s1 r → readTile t s1 = .ok (m, s2) →
    Claims.mxOk t r (tileMarks t s1) s2 → Claims.tileEnts t r (tileMarks t s1) ents → draws f.rnd.toNat 256 s2 = (rs, s3) →
      ∃ rows, exec (.gld f) s = .next (issueImg o.toNat (f.fe != 0) rows s3) ∧
        (f.ty ≠ 4 → rows.length = 16 ∧ ∀ x : Nat → Nat × Flags, (∀ k, x k = convertSat
            (if inTensor t.h ((tileElems t.blk (hTrn t.h) t.r0 t.c0).getD k (0, 0)) then
              (tileValue t m (ents.getD k ⟨0, 0, 0⟩).f ((tileElems t.blk (hTrn t.h) t.r0 t.c0).getD k (0, 0))).scale (ents.getD k ⟨0, 0, 0⟩).e
             else .zero) f.ty.toNat f.rnd.toNat (rs.getD k 0)) →
          ∀ i < 16, (rows.getD i (0, 0)).2 = unionFlags ((List.range 16).map fun j => (x (16 * i + j)).2) ∧
            (f.ty = 0 ∨ f.ty = 1 ∨ f.ty = 2 ∨ f.ty = 3 ∨ f.ty = 5 ∨ f.ty = 6 → ∀ j < 16,
              laneN (rows.getD i (0, 0)).1 (widthOf f.ty.toNat) j = (x (16 * i + j)).1)) ∧
        (f.ty = 4 → t.blk = true → rows.length = 4 ∧ ∀ b : Nat → Nat × List Nat × Flags, (∀ k, ∀ p e X,
            p = (tileElems t.blk (hTrn t.h) t.r0 t.c0).getD (32 * k) (0, 0) → e = (ents.getD (32 * k) ⟨0, 0, 4⟩).e → X = byteIn m (scaleVa t.h p) →
            (inTensor t.h p = false → b k = (0, List.replicate 32 0, 0)) ∧
            (inTensor t.h p = true → X ≠ 255 → 0 ≤ (X : Int) + e → (X : Int) + e ≤ 254 →
              b k = (((X : Int) + e).toNat, (List.range 32).map (fun c => codeIn t.h 4 m (p.1, p.2 + c)), 0)) ∧
            (inTensor t.h p = true → X = 255 ∨ (X : Int) + e < 0 ∨ 254 < (X : Int) + e → b k = mx4Encode
              ((List.range 32).map fun c => (tileValue t m 4 (p.1, p.2 + c)).scale e) f.rnd.toNat ((rs.drop (32 * k)).take 32))) →
          ∀ i < 4, (rows.getD i (0, 0)).2 = (b (2 * i)).2.2 ||| (b (2 * i + 1)).2.2 ∧ ∀ g < 2,
            laneN (rows.getD i (0, 0)).1 8 (32 + g) = (b (2 * i + g)).1 ∧
            ∀ j < 32, laneN (rows.getD i (0, 0)).1 4 (32 * g + j) = (b (2 * i + g)).2.1.getD j 0)) ∧
  (∀ (f : LS) (s s1 s2 : State) (t : TileArgs) (o : Word) (q : Rec) (m : List (Nat × List Byte)) (va : Nat),
    tileArgs f s = .ok t → tileOff f s = .ok o → tileLegal t.h t.blk = true →
    spadWriteCheck (spadOffs o (imgBytes f.ty.toNat)) f.fe.toNat o s = .ok () → hGov t.h = true → readRec (hTmr t.h) s = .ok (q, s1) →
    readTile t s1 = .ok (m, s2) → (∃ x, readTile t s = .ok x) → Claims.mxOk t (some q) (tileMarks t s1) s1 →
    Claims.mxOk t (some q) (tileMarks t s1) s2 →
    staleVa ((tileElems t.blk (hTrn t.h) t.r0 t.c0).map fun p =>
      if inTensor t.h p then entryOf t q (codeVa t.h (layoutFmt t.h t.blk) (t.r0, t.c0)) (tileMarks t s1) p else .ok ⟨0, 0, layoutFmt t.h t.blk⟩) = some va →
      exec (.gld f) s = .next (mapCtx (fun k => { k with cause := some ⟨0x23, BitVec.ofNat 64 va, some s.ctx.slot⟩ })
        (takeTrap finishSaves ⟨0x23, BitVec.ofNat 64 va, some s.ctx.slot⟩ s))) ∧
  (∀ (f : LS) (s s2 : State) (t : TileArgs) (o : Word) (m : List (Nat × List Byte)),
    tileArgs f s = .ok t → tileOff f s = .ok o → tileLegal t.h t.blk = true → f.ty.toNat = (if hGov t.h then 15 else hFmt t.h) →
    spadWriteCheck (spadOffs o (imgBytes (if t.blk then 4 else 0))) f.fe.toNat o s = .ok () → readTile t s = .ok (m, s2) →
      ∃ rows, exec (.gldr f) s = .next (issueImg o.toNat (f.fe != 0) rows s2) ∧
        (t.blk = false → rows.length = 16 ∧ ∀ i < 16, ∀ j < 16,
          let p := (tileElems false (hTrn t.h) t.r0 t.c0).getD (16 * i + j) (0, 0)
          laneN (rows.getD i (0, 0)).1 (8 * elemBytes (layoutFmt t.h false)) j =
            if inTensor t.h p then codeIn t.h (layoutFmt t.h false) m p else 0) ∧
        (t.blk = true → rows.length = 4 ∧ ∀ i < 4, ∀ j < 64,
          let p := (tileElems true (hTrn t.h) t.r0 t.c0).getD (64 * i + j) (0, 0)
          laneN (rows.getD i (0, 0)).1 4 j = if inTensor t.h p then codeIn t.h 4 m p else 0)) ∧
  (∀ (off : Nat) (full : Bool) (rows : List (Vec × Flags)) (s : State),
    (issueImg off full rows s).core.st.imgs.map (fun i => (i.bytes, i.full, i.flags)) =
      s.core.st.imgs.map (fun i => (i.bytes, i.full, i.flags)) ++
        (List.range rows.length).map (fun i => ((offsFrom (off + 64 * i) 64).zip (vecBytes (rows.getD i (0, 0)).1), full, (rows.getD i (0, 0)).2)))

/-- The byte that the blocks of a tile store put at an address, if any. -/
def Claims.blockByte (bs : List Blk) (va : Nat) : Option Byte :=
  (bs.find? fun b => b.va == va / 64 * 64).bind fun b => if b.mask.getLsbD (va % 64) then some (vecByte b.data (va % 64)) else none

/-- The byte that a list of stored bytes leaves at an address: the last one that names it. -/
def Claims.lastByte (l : List (Nat × Nat)) (a : Nat) : Option Byte := (l.reverse.find? fun e => e.1 == a).map fun e => BitVec.ofNat 8 e.2

/-- Block j of an mx4 vector stored as it is; a NaN block becomes canonical and sets NV (05 R139). -/
def Claims.keptBlock (v : Vec) (j : Nat) : Nat × List Nat × Flags :=
  if laneN v 8 (32 + j) = 255 then (255, List.replicate 32 0, flagNV)
  else (laneN v 8 (32 + j), (List.range 32).map (fun i => laneN v 4 (32 * j + i)), 0)

/-- The pieces of a tile store's blocks: each block's own data and mask at the place where its first byte translates for writes, under one
watermark. -/
def Claims.piecesOf (wm : Option Nat) : List Blk → State → List Held → State → Prop
  | [], s, ps, t => ps = [] ∧ t = s
  | b :: bs, s, ps, t => ∃ pa imm s1 qs, coreXlate .wr (b.va + firstByte b.mask) s = .ok ((pa, imm), s1) ∧ Claims.piecesOf wm bs s1 qs t ∧
      ps = .store (pa / 64 * 64) (BitVec.ofNat 64 b.va) b.data b.mask wm :: qs

/-- `gst` (09 R221) and `gstr` (R222): with the record's entry of the tile's class and the vector popped, each holds one store piece per
64-byte block with a byte of the tile inside the tensor, whose bytes are the encoded elements at their addresses (and, for mx4, the packed
codes and the scale bytes) and nothing else; governed stores carry the record's version as watermark and the counts of
R161 of 06; the flags of the conversions of elements inside the tensor go to FLAGS with the end of the bundle. An mx4 vector under an mx4
entry of exponent 0 is stored as it is, and encoded anew otherwise (the model's reading of 05 R139 with R221, log entry 33). -/
def Claims.TileStoreResults : Prop :=
  (∀ (f : LS) (s s1 s2 s3 s4 : State) (t : TileArgs) (r : Option Rec) (en : Ent) (v : Vec) (rs : List Nat) (cs : List (Nat × Flags)),
    tileArgs f s = .ok t → tileLegal t.h t.blk = true → t.blk = false → Claims.tileRec t s s1 r →
    (match r with | none => en = ⟨0, 0, hFmt t.h⟩ | some q => q.current = some en) → en.f ≠ 4 → srcVec (f.f0.setWidth 6) f.ty.toNat s1 = .ok (v, s2) →
    draws (hRnd t.h) (vecElems f.ty.toNat) s2 = (rs, s3) →
    cs = (((elemsOf f.ty.toNat v).map (XV.scale (-en.e))).zip (rs ++ List.replicate (vecElems f.ty.toNat) 0)).map
      (fun x => convertSat x.1 en.f (hRnd t.h) x.2) →
    holdTile t (r.map fun q => q.ver % 16) (r.map fun q => (q.pa, ((elemsOf f.ty.toNat v).zip (carried t (vecElems f.ty.toNat))).filterMap fun x =>
      if inTensor t.h x.2 then some (binOf x.1 en.e en.f) else none))
      (elemBlocks t en.f (carried t (vecElems f.ty.toNat)) (cs.map (·.1))) s3 = .ok s4 →
      exec (.gst f) s = .next (mapCtx (fun k => { k with ends := k.ends ++ [.flags (unionFlags
        ((cs.zip (carried t (vecElems f.ty.toNat))).map fun c => if inTensor t.h c.2 then c.1.2 else 0))] }) s4)) ∧
  (∀ (f : LS) (s s1 s2 s3 s4 : State) (t : TileArgs) (r : Option Rec) (en : Ent) (v : Vec) (rs : List Nat) (a b : Nat × List Nat × Flags),
    tileArgs f s = .ok t → tileLegal t.h t.blk = true → t.blk = true → Claims.tileRec t s s1 r →
    (match r with | none => en = ⟨0, 0, hFmt t.h⟩ | some q => q.current = some en) → en.f = 4 → srcVec (f.f0.setWidth 6) f.ty.toNat s1 = .ok (v, s2) →
    draws (hRnd t.h) (vecElems f.ty.toNat) s2 = (rs, s3) →
    a = (if f.ty = 4 ∧ en.e = 0 then Claims.keptBlock v 0
      else mx4Encode (((elemsOf f.ty.toNat v).map (XV.scale (-en.e))).take 32) (hRnd t.h) (rs.take 32)) →
    b = (if f.ty = 4 ∧ en.e = 0 then Claims.keptBlock v 1
      else mx4Encode ((((elemsOf f.ty.toNat v).map (XV.scale (-en.e))).drop 32).take 32) (hRnd t.h) ((rs.drop 32).take 32)) →
    holdTile t (r.map fun q => q.ver % 16) (r.map fun q => (q.pa, ((elemsOf f.ty.toNat v).zip (carried t (vecElems f.ty.toNat))).filterMap fun x =>
      if inTensor t.h x.2 then some (binOf x.1 en.e en.f) else none)) (mxBlocks t [(a.1, a.2.1), (b.1, b.2.1)]) s3 = .ok s4 →
      exec (.gst f) s = .next (mapCtx (fun k => { k with ends := k.ends ++ [.flags
        ((if inTensor t.h (t.r0, t.c0) then a.2.2 else 0) ||| (if inTensor t.h (t.r0 + 1, t.c0) then b.2.2 else 0))] }) s4)) ∧
  (∀ (f : LS) (s s1 s2 s3 : State) (t : TileArgs) (r : Option Rec) (v : Vec), tileArgs f s = .ok t → tileLegal t.h t.blk = true →
    f.ty.toNat = (if hGov t.h then 15 else hFmt t.h) → Claims.tileRec t s s1 r →
    (∀ q, r = some q → ((q.current.map (·.f)).getD 2 == 4) = t.blk) → srcVec (f.f0.setWidth 6) (rawCarry t.h t.blk) s1 = .ok (v, s2) →
    holdTile t (r.map fun q => q.ver % 16) none
      (if t.blk then mxBlocks t ((List.range 2).map fun b => (laneN v 8 (32 + b), (List.range 32).map fun i => laneN v 4 (32 * b + i)))
       else elemBlocks t (rawCarry t.h t.blk) (carried t (vecElems (rawCarry t.h t.blk)))
        ((List.range (vecElems (rawCarry t.h t.blk))).map (laneN v (8 * elemBytes (rawCarry t.h t.blk))))) s2 = .ok s3 →
      exec (.gstr f) s = .next s3) ∧
  (∀ (va v a : Nat) (bs : List Blk), Claims.blockByte (putByte va v bs) a = if a = va then some (BitVec.ofNat 8 v) else Claims.blockByte bs a) ∧
  (∀ (t : TileArgs) (wm : Option Nat) (hist : Option (Nat × List Nat)) (bs : List Blk) (s u : State), holdTile t wm hist bs s = .ok u →
    (∀ a, rdByte u a = rdByte s a) ∧ u.core.st = s.core.st ∧ u.core.held.length ≤ 128 ∧ ∃ more s1, Claims.piecesOf wm (sortBlks bs) s more s1 ∧
      u.core.held = match hist with | none => s.core.held ++ more | some (pa, ks) => addHist pa ks (s.core.held ++ more)) ∧
  (∀ (bs : List Blk), (sortBlks bs).Perm bs ∧ (sortBlks bs).Pairwise fun x y => x.va ≤ y.va) ∧
  (∀ (t : TileArgs) (ty : Nat) (ps : List (Nat × Nat)) (cs : List Nat) (a : Nat), Claims.blockByte (elemBlocks t ty ps cs) a =
    Claims.lastByte ((ps.zip cs).flatMap fun x => if inTensor t.h x.1 then
      (List.range (elemBytes ty)).map fun k => (codeVa t.h ty x.1 + k, x.2 / 2 ^ (8 * k)) else []) a) ∧
  (∀ (t : TileArgs) (rows : List (Nat × List Nat)) (a : Nat), Claims.blockByte (mxBlocks t rows) a =
    Claims.lastByte (((List.range rows.length).zip rows).flatMap fun x => if inTensor t.h (t.r0 + x.1, t.c0) then
      (List.range 16).map (fun i => (codeVa t.h 4 (t.r0 + x.1, t.c0) + i, x.2.2.getD (2 * i) 0 + 16 * x.2.2.getD (2 * i + 1) 0)) ++
        [(scaleVa t.h (t.r0 + x.1, t.c0), x.2.1)] else []) a)

/-! ### Copies (13 R302-R311) -/

/-- The copies that hold one launch with one range (13 R302): constructor, kind, destination and source in scratchpads. -/
def Claims.copyRows : List ((CE → Instr) × CopyKind × Bool × Bool) :=
  [(.cpy, .cpy, false, false), (.cpyg, .cpyg, true, false), (.cpys, .cpys, false, true), (.cpyx, .cpyx, true, true), (.cpyo, .cpyo, false, false)]

/-- Each of the copy launches holds one piece with its operands as read, and with the watermark fields of its mode; a length of 2^32 or more,
or more than 196,608 bytes for a scratchpad side, and a scratchpad operand with high bits are illegal, and so is a `cpy2` of a transposed, a
bfp24 or an unaligned mx4 tensor (13 R302, R306, R308). High bits of the third operand of `cpyr` are illegal by the model's choice (log entry
150). `cpyq` returns the counter's status word or
state 3 (R310); `cpyk` begins a bank load, of 16 rows of 16 words that all translate, into a bank that is lent to the copy engine, and raises the ownership fault
for a bank that is not lent (R311). -/
def Claims.CopyIssue : Prop :=
  (∀ r ∈ Claims.copyRows, ∀ (f : CE) (s : State) (a b c d : Word), readS f.a s = .ok a → readS f.b s = .ok b → readS f.c s = .ok c →
    readS f.d s = .ok d →
    (c.toNat < 2 ^ 32 → (r.2.2.1 = true ∨ r.2.2.2 = true → c.toNat ≤ 196608) → (r.2.2.1 = true → a.toNat < 2 ^ 38) →
      (r.2.2.2 = true → b.toNat < 2 ^ 38) → s.core.held.length < 128 →
      ∃ l : Launch, exec (r.1 f) s = .next (Claims.holding (.copy l) s) ∧
        l.kind = r.2.1 ∧ l.dst = a ∧ l.src = b ∧ l.len = c.toNat ∧ l.rows = 1 ∧ l.ctr = d ∧ l.amt = f.imm.toNat ∧ l.pull = false ∧
        l.wmp = f.mode.toNat / 16 % 4 ∧ l.wmv = f.mode.toNat % 16) ∧
    (2 ^ 32 ≤ c.toNat ∨ ((r.2.2.1 = true ∨ r.2.2.2 = true) ∧ 196608 < c.toNat) ∨ (r.2.2.1 = true ∧ 2 ^ 38 ≤ a.toNat) ∨
      (r.2.2.2 = true ∧ 2 ^ 38 ≤ b.toNat) → exec (r.1 f) s = .next (Claims.trapped 0x01 s.ctx.syl s))) ∧
  (∀ (f : CE) (s : State) (a b d : Word) (h : BitVec 256), readS f.a s = .ok a → readS f.b s = .ok b → readS f.d s = .ok d →
    readH f.h s = .ok h → hTrn h = false → hGov h = true ∨ (hFmt h ≠ 7 ∧ (hFmt h = 4 → hCols h % 32 = 0)) → s.core.held.length < 128 →
      ∃ l : Launch, exec (.cpy2 f) s = .next (Claims.holding (.copy l) s) ∧
        l.kind = .cpy2 ∧ l.dst = a ∧ l.src.toNat = hBase h ∧ l.len = rowBytes h ∧ l.rows = hRows h ∧ l.dstStride = b ∧
        l.srcStride.toNat = hStride h ∧ l.ctr = d ∧ l.amt = f.imm.toNat ∧ l.wmp = f.mode.toNat / 16 % 4 ∧ l.wmv = f.mode.toNat % 16) ∧
  (∀ (f : CE) (s : State) (a b d : Word) (h : BitVec 256), readS f.a s = .ok a → readS f.b s = .ok b → readS f.d s = .ok d →
    readH f.h s = .ok h → hTrn h = true ∨ (hGov h = false ∧ (hFmt h = 7 ∨ (hFmt h = 4 ∧ hCols h % 32 ≠ 0))) →
      exec (.cpy2 f) s = .next (Claims.trapped 0x01 s.ctx.syl s)) ∧
  (∀ (f : CE) (s : State) (a b c d : Word), readS f.a s = .ok a → readS f.b s = .ok b → readS f.c s = .ok c → readS f.d s = .ok d →
    2 ^ 49 ≤ c.toNat → exec (.cpyr f) s = .next (Claims.trapped 0x01 s.ctx.syl s)) ∧
  (∀ (f : CE) (s : State) (a b c d : Word), readS f.a s = .ok a → readS f.b s = .ok b → readS f.c s = .ok c → readS f.d s = .ok d →
    c.toNat < 2 ^ 49 → s.core.held.length < 128 →
      ∃ l : Launch, exec (.cpyr f) s = .next (Claims.holding (.copy l) s) ∧
        l.kind = .cpyr ∧ l.len = c.toNat % 2 ^ 32 ∧ l.module.toNat = c.toNat / 2 ^ 32 ∧ l.pull = f.mode.getLsbD 0 ∧
        l.rc = f.mode.getLsbD 1 ∧ l.dst = (if l.pull then a else b) ∧ l.src = (if l.pull then b else a)) ∧
  (∀ (f : CE) (s : State) (b : Word), readS f.b s = .ok b →
    ∃ t at_ w, exec (.cpyq f) s = .next t ∧ s.now ≤ at_ ∧ t.core = s.core ∧
      t.ctx.ends = s.ctx.ends ++ [.produce ⟨s.nextId, .sreg (f.a.setWidth 5), some (BitVec.setWidth 256 w), s.now, false, false, true⟩] ∧
      t.agenda = s.agenda ++ [⟨at_, .variableLatencyResult s.core.id s.nextId⟩] ∧
      ((∀ e ∈ s.stats, e.cl = clusterOf s.core.id → e.ctr ≠ b) → (w : Word) = 0x3000000000000000) ∧
      (∀ e, (s.stats.find? fun e => e.cl == clusterOf s.core.id && e.ctr == b) = some e → e.cause < 2 ^ 12 → e.st < 4 →
        w.extractLsb' 0 48 = BitVec.ofNat 48 e.done ∧ (w.extractLsb' 48 12).toNat = e.cause ∧ (w.extractLsb' 60 2).toNat = e.st)) ∧
  (∀ (f : CE) (s s1 : State) (b c : Word) (vas pas : List Nat), readS f.b s = .ok b → readS f.c s = .ok c →
    vas = ((List.range 16).map fun i => (b + f.imm.signExtend 64 + BitVec.ofNat 64 i * c).toNat) → (∀ va ∈ vas, va % 4 = 0) →
    loadWords (vas.flatMap fun va => (List.range 16).map (va + 4 * ·)) s = (([], pas), s1) →
    ((seenBank s1 f.mode.toNat).lent = true → (seenBank s1 f.mode.toNat).toCopy = true →
      ∃ t at_, exec (.cpyk f) s = .next t ∧ t.core = s1.core ∧ pas.length = 256 ∧
        t.loads = s1.loads ++ [⟨s1.nextId, s1.core.id, f.mode.toNat, (List.range 256).zip pas, []⟩] ∧
        t.agenda = s1.agenda ++ [⟨at_, .copyPiece s1.nextId 0⟩] ∧ s.now ≤ at_) ∧
    ((seenBank s1 f.mode.toNat).lent = false → exec (.cpyk f) s = .next (Claims.trapped 0x07 (BitVec.ofNat 64 f.mode.toNat) s)))

/-- An engine accepts its cluster's oldest launch while it has an operation free (13 R303): a launch whose checks pass begins its pieces,
with its counter, if it names one, found, or asks the remote module for the check of a remote one (23 R429); one without a counter that
fails ends with a report of its cause and moves nothing (R309). With sixteen operations running it accepts none. -/
def Claims.CopyAccept : Prop :=
  (∀ (cl : ClusterId) (s : State) (q : LaunchQ), (s.launchq.find? fun x => x.cl == cl) = some q →
    (s.copies.filter fun o => o.cl == cl && o.sw.isNone).length < 16 → q.l.ctr = 0 → (∀ o ∈ s.copies, o.id ≠ s.nextId) →
    (launchCheck s q = none → q.l.pieces ≠ [] → ∃ t k, exec (.copyLaunchAccept cl) s = .next t ∧
      t.copies = s.copies ++ [⟨s.nextId, cl, q.core, q.tser, q.gix, q.l, q.l.pieces, 0, q.t, none, false, false, none⟩] ∧
      t.launchq = s.launchq.eraseP (fun x => x.cl == cl) ∧ t.mem = s.mem ∧ (∃ d ∈ t.agenda, d.act = .copyPiece s.nextId k) ∧
      k < q.l.pieces.length ∧ (q.l.kind = .cpyo → k = 0)) ∧
    (∀ w c, launchCheck s q = some w → w.code = some c → ∃ t r, exec (.copyLaunchAccept cl) s = .next t ∧ t.copies = s.copies ∧
      t.mem = s.mem ∧ (∃ d ∈ t.agenda, d.act = .faultReport r) ∧ r.async = true ∧ r.code = c ∧ r.info = w.info ∧ r.tser = q.tser)) ∧
  (∀ (cl : ClusterId) (s : State) (q : LaunchQ), (s.launchq.find? fun x => x.cl == cl) = some q →
    (s.copies.filter fun o => o.cl == cl && o.sw.isNone).length < 16 → q.l.ctr ≠ 0 → (∀ o ∈ s.copies, o.id ≠ s.nextId) →
    (takeStat cl q.l.ctr s.nextId s).isSome = true → launchCheck s q = none →
    (∀ pa, q.l.rc = false → engCounter s q.l.ctr.toNat = .ok pa → q.l.pieces ≠ [] → ∃ t k, exec (.copyLaunchAccept cl) s = .next t ∧
      t.copies = s.copies ++ [⟨s.nextId, cl, q.core, q.tser, q.gix, q.l, q.l.pieces, 0, q.t, some pa, true, false, none⟩] ∧
      (∃ d ∈ t.agenda, d.act = .copyPiece s.nextId k) ∧ k < q.l.pieces.length) ∧
    (q.l.rc = true → ∃ t g, exec (.copyLaunchAccept cl) s = .next t ∧ t.gout = s.gout ++ [g] ∧ g.dst = q.l.module ∧
      g.body = .check s.nextId q.l.ctr)) ∧
  (∀ (cl : ClusterId) (s : State), 16 ≤ (s.copies.filter fun o => o.cl == cl && o.sw.isNone).length →
    exec (.copyLaunchAccept cl) s = .next s)

/-- A piece (13 R304): bytes read from memory, at a time that the line's RTS then covers (12 R285), or from the source core's scratchpad are
written at the destination and nowhere else, a scratchpad's granules becoming full; the operation's remaining pieces and its count of
delivered bytes follow a global write. A remote piece is sent to its module. -/
def Claims.CopyPieces : Prop :=
  (∀ (o : Cop) (p : Piece) (s : State), o.l.spad = true → pieceRead o p s =
    .ok ((offsFrom p.src p.n).map fun k => SMap.get 0 (coreOf s (padCore o.l.src)).scratch k, o.t, s)) ∧
  (∀ (o : Cop) (p : Piece) (s : State) (pa : Nat), o.l.spad = false → engXlate s .rd p.src = .ok pa → engServes s (pa / 64) = .ok () →
    isPool pa = false → ∃ t1 s1, pieceRead o p s = .ok (rdBytes s pa p.n, t1, s1) ∧ t1 = max (o.t + 1) (dirOf s (pa / 64)).wts ∧
      (dirOf s1 (pa / 64)).rts = max (dirOf s (pa / 64)).rts t1 ∧ s1.mem = s.mem) ∧
  (∀ (k : Nat) (s s1 : State) (o : Cop) (p : Piece) (bs : List Byte) (t1 qa : Nat), (∀ l ∈ s.loads, l.id ≠ o.id) →
    (s.copies.find? fun x => x.id == o.id) = some o → o.pieces[k]? = some p → p.out = false → o.l.kind ≠ .cpyr → o.l.dpad = false → o.l.wmp = 0 →
    pieceRead o p s = .ok (bs, t1, s1) → bs.length = p.n → engXlate s1 .wr p.dst = .ok qa → isPool qa = false →
    lineReady s1 (qa / 64) (p.n == 64) none = .ok → Memory.wf s = true →
      ∃ t, exec (.copyPiece o.id k) s = .next t ∧
        (∀ a, rdByte t a = if qa ≤ a ∧ a < qa + p.n then bs.getD (a - qa) 0 else rdByte s a) ∧
        (dirOf t (qa / 64)).wts = max (max o.t t1 + 1) ((dirOf s1 (qa / 64)).rts + 1) ∧
        (o.pieces.erase p ≠ [] → ∃ o', o' ∈ t.copies ∧ o'.id = o.id ∧ o'.pieces = o.pieces.erase p ∧ o'.done = o.done + p.n)) ∧
  (∀ (k : Nat) (s s1 : State) (o : Cop) (p : Piece) (bs : List Byte) (t1 : Nat), (∀ l ∈ s.loads, l.id ≠ o.id) →
    (s.copies.find? fun x => x.id == o.id) = some o → o.pieces[k]? = some p → p.out = false → o.l.kind ≠ .cpyr → o.l.dpad = true →
    pieceRead o p s = .ok (bs, t1, s1) → bs.length = p.n → s.mcs = [] → SMap.wf 0 (coreOf s (padCore o.l.dst)).scratch = true →
    SMap.wf false (coreOf s (padCore o.l.dst)).full = true →
      ∃ t, exec (.copyPiece o.id k) s = .next t ∧ (∀ a, rdByte t a = rdByte s a) ∧
        (∀ j, SMap.get 0 (coreOf t (padCore o.l.dst)).scratch j = if p.dst ≤ j ∧ j < p.dst + p.n then bs.getD (j - p.dst) 0
          else SMap.get 0 (coreOf s (padCore o.l.dst)).scratch j) ∧
        ∀ j, p.dst ≤ j → j < p.dst + p.n → SMap.get false (coreOf t (padCore o.l.dst)).full (j / 16) = true) ∧
  (∀ (k : Nat) (s : State) (o : Cop) (p : Piece), (∀ l ∈ s.loads, l.id ≠ o.id) → (s.copies.find? fun x => x.id == o.id) = some o →
    o.pieces[k]? = some p → p.out = false → o.l.kind = .cpyr → o.l.pull = true →
      ∃ t g, exec (.copyPiece o.id k) s = .next t ∧ t.gout = s.gout ++ [g] ∧ g.dst = o.l.module ∧ g.body = .read o.id k (BitVec.ofNat 64 p.src) p.n ∧
        t.mem = s.mem) ∧
  (∀ (k : Nat) (s s1 : State) (o : Cop) (p : Piece) (bs : List Byte) (t1 : Nat), (∀ l ∈ s.loads, l.id ≠ o.id) →
    (s.copies.find? fun x => x.id == o.id) = some o → o.pieces[k]? = some p → p.out = false → o.l.kind = .cpyr → o.l.pull = false →
    pieceRead o p s = .ok (bs, t1, s1) →
      ∃ t g, exec (.copyPiece o.id k) s = .next t ∧ t.gout = s.gout ++ [g] ∧ g.dst = o.l.module ∧
        g.body = .write o.id k (BitVec.ofNat 64 p.dst) bs ∧ t.mem = s.mem)

/-! ### Tensor metadata records (14) -/

/-- The held record operations (14 R330-R333) with their register operand 0 or a counter, and the range of `tmset`; `tmgov` (R334) returns
the decision's word for a record that is not CLOSING, waits at the record's home for one that is, and raises the poison fault for a record
with a poisoned line (R458). -/
def Claims.RecordInstructions : Prop :=
  (∀ r ∈ ([(.tmopn, .opn), (.tmcls, .cls), (.tmflt, .flt)] : List ((YA → Instr) × TmKind)), ∀ (f : YA) (s s1 : State) (h : BitVec 256) (a b : Word)
    (pa : Nat), readH f.h s = .ok h → readS f.a s = .ok a → readS f.b s = .ok b → checkRec (hTmr h) s = .ok (pa, s1) → s1.core.held.length < 128 →
    (f.a.extractLsb' 0 5 = (0 : BitVec 5) → exec (r.1 f) s =
      .next (Claims.holding (.tm pa (BitVec.ofNat 64 (hTmr h)) none f.imm.toNat r.2 []) s1)) ∧
    (f.a.extractLsb' 0 5 ≠ (0 : BitVec 5) → ∀ (c : Nat) (s2 : State), ctrAddr .ctrWr a s1 = .ok (c, s2) → s2.core.held = s1.core.held →
      exec (r.1 f) s = .next (Claims.holding (.tm pa (BitVec.ofNat 64 (hTmr h)) (some (c, a)) f.imm.toNat r.2 []) s2))) ∧
  (∀ (f : YA) (s s1 : State) (h : BitVec 256) (a v : Word) (pa : Nat), readH f.h s = .ok h → readS f.a s = .ok a → readS f.b s = .ok v →
    checkRec (hTmr h) s = .ok (pa, s1) → s1.core.held.length < 128 → f.a.extractLsb' 0 5 = (0 : BitVec 5) →
    (tmsetOk f.ctl.toNat v = true → exec (.tmset f) s =
      .next (Claims.holding (.tm pa (BitVec.ofNat 64 (hTmr h)) none f.imm.toNat (.set f.ctl.toNat v) []) s1)) ∧
    (tmsetOk f.ctl.toNat v = false → exec (.tmset f) s = .next (mapCtx (fun k => { k with cause := some ⟨0x01, s.ctx.syl, some s.ctx.slot⟩ })
      (takeTrap finishSaves ⟨0x01, s.ctx.syl, some s.ctx.slot⟩ s)))) ∧
  (∀ (f : YA) (s s1 : State) (h : BitVec 256) (pa : Nat), readH f.h s = .ok h → checkRec (hTmr h) s = .ok (pa, s1) →
    (recPoisoned s1 pa = true → exec (.tmgov f) s = .next (Claims.trapped 0x22 (BitVec.ofNat 64 (recBadLine s1 pa)) s)) ∧
    (recPoisoned s1 pa = false → ctlField s1 pa 39 36 ≠ 2 → ∀ s2 s3, homeRead (pa / 64) s1 = .ok s2 → policyServes pa s2 = .ok s3 →
      ∃ t, exec (.tmgov f) s = .next t ∧ t.core = s3.core ∧ t.ctx.ends = s3.ctx.ends ++
        [.produce ⟨s3.nextId, .sreg (f.c.setWidth 5), some ((govValue s3 pa).setWidth 256), s3.now, false, false, true⟩] ∧
        (govValue s3 pa).extractLsb' 24 1 = (if (decideRec s3 pa).fault then 1 else 0 : BitVec 1) ∧
        (govValue s3 pa).extractLsb' 32 32 = BitVec.ofNat 32 (decideRec s3 pa).sum) ∧
    (recPoisoned s1 pa = false → ctlField s1 pa 39 36 = 2 → ∃ t o, exec (.tmgov f) s = .next t ∧ t.core = s1.core ∧
      t.ctx.ends = s1.ctx.ends ++ [.produce ⟨s1.nextId, .sreg (f.c.setWidth 5), none, s1.now, false, false, true⟩] ∧
      t.tmq = s1.tmq ++ [o] ∧ o.pa = pa ∧ o.k = .gov s1.core.id s1.nextId s1.core.st.a.pc))

/-- The states of a pass (14 R323): `tmopn` opens an IDLE record and clears TOTAL; on an OPEN one it only completes; in any other state but
CLOSING it is refused. `tmcls` begins the close of an OPEN record. `tmflt` returns a FAULTED record to IDLE. In a close every operation
waits. A poisoned record refuses each and reports it (R458). An operation that changes nothing reads the record at its time: both lines' RTS
cover it (12 R270). `tmset` (R333) writes POL or WIN alone; in IDLE alone SCALE publishes the next version with the exponent and format
given, MAN set and DSTAR 31, and CLEAR empties the statistics and sets PEND; in another state these two are refused. -/
def Claims.RecordStates : Prop :=
  (∀ (t : Nat) (op : TmOp) (s : State), Memory.wf s = true → (∀ c id pc, op.k ≠ .gov c id pc) →
    (recPoisoned s op.pa = false →
      (op.k = .opn → ctlField s op.pa 39 36 = 0 → ctlField (applyTm t op s) op.pa 39 36 = 1 ∧ rdN (applyTm t op s) (op.pa + 96) 8 = 0) ∧
      (op.k = .opn → ctlField s op.pa 39 36 = 1 → applyTm t op s = tmDone op t (readStamp (op.pa / 64 + 1) t (readStamp (op.pa / 64) t s))) ∧
      (op.k = .opn → ctlField s op.pa 39 36 = 3 → applyTm t op s = tmRefuse op 8 t (readStamp (op.pa / 64 + 1) t (readStamp (op.pa / 64) t s))) ∧
      (op.k = .cls → ctlField s op.pa 39 36 = 1 → ctlField (applyTm t op s) op.pa 39 36 = 2 ∧ ∃ x ∈ (applyTm t op s).closes, x.op.pa = op.pa ∧
        x.todo = (allCores s).map (·.id)) ∧
      (op.k = .cls → ctlField s op.pa 39 36 = 3 → applyTm t op s = tmCtr op op.n 8 t (readStamp (op.pa / 64 + 1) t (readStamp (op.pa / 64) t s))) ∧
      (op.k = .flt → ctlField s op.pa 39 36 = 3 → ctlField (applyTm t op s) op.pa 39 36 = 0) ∧
      (ctlField s op.pa 39 36 = 2 → (applyTm t op s).tmq = s.tmq ++ [{ op with t := t }] ∧ (applyTm t op s).mem = s.mem) ∧
      t ≤ (dirOf (applyTm t op s) (op.pa / 64)).rts ∧ t ≤ (dirOf (applyTm t op s) (op.pa / 64 + 1)).rts) ∧
    (recPoisoned s op.pa = true → (applyTm t op s).mem = s.mem ∧ ∃ d ∈ (applyTm t op s).agenda, ∃ r, d.act = .faultReport r ∧ r.code = 0x22 ∧
      r.tser = op.tser)) ∧
  (∀ (t fld pa : Nat) (v : Word) (op : TmOp) (s u : State), op.k = .set fld v → op.pa = pa → Memory.wf s = true → recPoisoned s pa = false →
    ctlField s pa 39 36 ≠ 2 → tmsetOk fld v = true → fld < 4 → u = applyTm t op s →
    (fld = 0 → ctlField u pa 15 8 = v.toNat ∧ ∀ a, a ≠ pa + 1 → rdByte u a = rdByte s a) ∧
    (fld = 1 → ctlField u pa 35 32 = v.toNat ∧ ctlField u pa 39 36 = ctlField s pa 39 36 ∧ ∀ a, a ≠ pa + 4 → rdByte u a = rdByte s a) ∧
    (fld = 2 → ctlField s pa 39 36 = 0 → ctlField u pa 31 16 = nextVer (ctlField s pa 31 16) ∧ ctlField u pa 3 0 = v.toNat / 256 ∧
      ctlField u pa 15 4 = ctlField s pa 15 4 ∧ ctlField u pa 63 32 = ctlField s pa 63 32 ∧
      (recOf pa (rdBytes u pa 24)).ring[nextVer (ctlField s pa 31 16) % 4]? =
        some ⟨nextVer (ctlField s pa 31 16), sint 8 v.toNat, v.toNat / 256⟩ ∧
      bit (rdN u (pa + 104) 8) 57 = true ∧ bits (rdN u (pa + 104) 8) 45 40 = 31 ∧ ∀ a, a < pa ∨ pa + 128 ≤ a → rdByte u a = rdByte s a) ∧
    (fld = 3 → ctlField s pa 39 36 = 0 → (∀ b < 34, recBin u pa b = 0) ∧ rdN u (pa + 92) 4 = 0 ∧ rdN u (pa + 96) 8 = 0 ∧
      ctlField u pa 7 4 = 15 ∧ ctlField u pa 3 0 = ctlField s pa 3 0 ∧ ctlField u pa 63 8 = ctlField s pa 63 8 ∧
      bits (rdN u (pa + 104) 8) 55 52 = 0 ∧ (∀ a, a < pa ∨ pa + 128 ≤ a → rdByte u a = rdByte s a)) ∧
    (fld < 2 ∨ ctlField s pa 39 36 = 0 → ∀ c va, op.ctr = some (c, va) → ∃ d ∈ u.agenda, d.act = .applyAdd c va (BitVec.ofNat 64 op.n) 0 (.task op.tser) t) ∧
    (2 ≤ fld → ctlField s pa 39 36 ≠ 0 → u.mem = s.mem ∧
      ∀ c va, op.ctr = some (c, va) → ∃ d ∈ u.agenda, d.act = .applyAdd c va 0 8 (.task op.tser) t))

/-- A core's slot flushed to its OPEN record empties the slot and adds its counts to the bins (saturating) and to UPD while UPD stays below
its window, when none of them is late (14 R320, R321); flushed to a record that is neither OPEN nor CLOSING, its counts go to LATE alone
(R324). A flush request is answered by the core; the last answer lets the close publish. -/
def Claims.DeltaFlushes : Prop :=
  (∀ (c : CoreId) (k : Nat) (s : State) (d : Delta), (coreOf s c).delta[k]? = some d → Memory.wf s = true → recPoisoned s d.pa = false →
    ctlField s d.pa 39 36 = 1 → SMap.wf 0 d.counts = true → (∀ e ∈ d.counts, e.1 < 34) →
    d.late = [] → rdN s (d.pa + 92) 4 + countSum d.counts < 2 ^ (10 + ctlField s d.pa 35 32) →
    (coreOf s c).delta.find? (fun e => e.pa == d.pa) = some d →
      ∃ t, exec (.deltaFlush c k) s = .next t ∧ (∀ e ∈ (coreOf t c).delta, e.pa ≠ d.pa) ∧
        (∀ b < 34, recBin t d.pa b = min 65535 (recBin s d.pa b + SMap.get 0 d.counts b)) ∧
        rdN t (d.pa + 92) 4 = rdN s (d.pa + 92) 4 + countSum d.counts ∧ ctlField t d.pa 63 0 = ctlField s d.pa 63 0) ∧
  (∀ (c : CoreId) (k : Nat) (s : State) (d : Delta), (coreOf s c).delta[k]? = some d → Memory.wf s = true → recPoisoned s d.pa = false →
    ctlField s d.pa 39 36 ≠ 1 → ctlField s d.pa 39 36 ≠ 2 → (coreOf s c).delta.find? (fun e => e.pa == d.pa) = some d →
      ∃ t, exec (.deltaFlush c k) s = .next t ∧ (∀ e ∈ (coreOf t c).delta, e.pa ≠ d.pa) ∧
        recLate t d.pa = min 65535 (recLate s d.pa + countSum d.counts) ∧ ∀ b < 34, recBin t d.pa b = recBin s d.pa b) ∧
  (∀ (c : CoreId) (rec : Nat) (s : State) (x : Close), (coreOf s c).commit = none → (∀ d ∈ (coreOf s c).delta, d.pa ≠ rec) → s.closes = [x] →
    x.op.pa = rec → ∃ t, exec (.flushRequest c rec) s = .next t ∧ t.closes = [{ x with todo := x.todo.filter (· != c) }] ∧ t.mem = s.mem ∧
      ((∀ e ∈ x.todo, e = c) → ∃ d ∈ t.agenda, d.act = .closePublication rec ∧ d.at_ = s.now))

/-- The publication that ends a close (14 R326-R328): when every core has answered, the policy entry can be read and the record's lines can be written, the ring entry of
the next version holds the decision, the control word names it, and the state is IDLE or, with more overflows than FLTF allows, FAULTED
with a class A report; the close leaves the list. -/
def Claims.Publications : Prop :=
  (∀ (rec : Nat) (s : State) (x : Close), s.closes = [x] → x.op.pa = rec → x.todo = [] → rec % 128 = 0 → Memory.wf s = true →
    (∀ o ∈ s.tmq, o.pa ≠ rec) → policyWait s rec = none →
    lineReady s (rec / 64) false none = .ok → lineReady s (rec / 64 + 1) false none = .ok →
      ∃ t, exec (.closePublication rec) s = .next t ∧ t.closes = [] ∧ ctlField t rec 31 16 = nextVer (ctlField s rec 31 16) ∧
        ctlField t rec 39 36 = (if (decideRec s rec).fault then 3 else 0) ∧ ctlField t rec 3 0 = (decideRec s rec).f2 % 16 ∧
        (∃ e ∈ (recOf rec (rdBytes t rec 24)).ring, e.v = nextVer (ctlField s rec 31 16) ∧ e.f = (decideRec s rec).f2 % 16) ∧
        (∀ a, a < rec ∨ rec + 128 ≤ a → rdByte t a = rdByte s a) ∧
        ((decideRec s rec).fault = true → ∃ d ∈ t.agenda, ∃ r, d.act = .faultReport r ∧ r.code = 0x24 ∧ r.async = true)) ∧
  (∀ v < 65536, nextVer v = if v = 65535 then 4 else v + 1) ∧
  (∀ (s : State) (pa : Nat), ctlField s pa 15 8 = 0 → (decideRec s pa).e2 = (decideRec s pa).e ∧ (decideRec s pa).f2 = (decideRec s pa).f ∧
    (decideRec s pa).man = true ∧ (decideRec s pa).fault = false)

/-! ### The scheduler (16, 17; 10 R242-R250; 01 R19) -/

/-- `spawn` (16 R369) holds one piece, with its two addresses aligned, and raises the access fault otherwise; `yield` marks its bundle,
whose end offers the gang to the scheduler. -/
def Claims.SpawnYield : Prop :=
  (∀ (f : YA) (s : State) (a b : Word), readS f.a s = .ok a → readS f.b s = .ok b →
    (a.toNat % 256 = 0 → b.toNat % 128 = 0 → s.core.held.length < 128 →
      exec (.spawn f) s = .next (Claims.holding (.spawn a b) s)) ∧
    (a.toNat % 256 ≠ 0 → exec (.spawn f) s = .next (mapCtx (fun k => { k with cause := some ⟨0x21, a, some s.ctx.slot⟩ })
      (takeTrap finishSaves ⟨0x21, a, some s.ctx.slot⟩ s))) ∧
    (a.toNat % 256 = 0 → b.toNat % 128 ≠ 0 → exec (.spawn f) s = .next (mapCtx (fun k => { k with cause := some ⟨0x21, b, some s.ctx.slot⟩ })
      (takeTrap finishSaves ⟨0x21, b, some s.ctx.slot⟩ s)))) ∧
  (∀ (s : State), exec .yield s = .next { s with ctx := { s.ctx with yields := true } })

/-- The append of a spawned descriptor whose turn it is to an empty queue (16 R369): NEXT of the descriptor becomes 0, QHEAD and QTAIL name
it, the queue's counter takes an add of 1 at a later time than the spawn's, and every other byte is unchanged. A queue that does not exist
refuses with cause 0x43. A spawn of which another to the queue has the earlier turn waits for the next clock. -/
def Claims.SpawnAppends : Prop :=
  (∀ (rcb desc : Word) (k n : Nat) (s : State) (r : Region) (pa : Nat), (∀ e, nextSpawn s rcb = some e → e = (rcb, desc, k, n)) →
    (s.sched.regions.find? fun x => x.va == rcb.toNat && x.kind == 2 && x.qmode) = some r → rdN s (r.pa + 120) 8 = 0 →
    engXlate s .wr desc.toNat = .ok pa → Memory.wf s = true → (pa + 8 ≤ r.pa + 104 ∨ r.pa + 128 ≤ pa) → desc.toNat < 2 ^ 57 →
    lineReady s (pa / 64) false none = .ok → lineReady s ((r.pa + 104) / 64) false none = .ok →
    lineReady s ((r.pa + 120) / 64) false none = .ok → lineReady s (r.qctr / 64) false none = .ok → addRefused s r.qctr 1 = false →
    (r.qctr + 16 ≤ pa ∨ pa + 8 ≤ r.qctr) → (r.qctr + 16 ≤ r.pa + 104 ∨ r.pa + 128 ≤ r.qctr) →
      ∃ t, exec (.spawnAppend rcb desc k n) s = .next t ∧ rdN t pa 8 % 2 ^ 57 = 0 ∧ rdN t (r.pa + 104) 8 % 2 ^ 57 = desc.toNat ∧
        rdN t (r.pa + 120) 8 % 2 ^ 57 = desc.toNat ∧
        (∀ a, (a < pa ∨ pa + 8 ≤ a) → (a < r.pa + 104 ∨ r.pa + 112 ≤ a) → (a < r.pa + 120 ∨ r.pa + 128 ≤ a) →
          (a < r.qctr ∨ r.qctr + 12 ≤ a) → rdByte t a = rdByte s a) ∧
        t.spawnq = s.spawnq.erase (rcb, desc, k, n) ∧ ctrValue t r.qctr = ctrValue s r.qctr + 1 ∧ ctrFlags t r.qctr = ctrFlags s r.qctr ∧
        n < (dirOf t (r.qctr / 64)).wts) ∧
  (∀ (rcb desc : Word) (k n : Nat) (s : State), (∀ e, nextSpawn s rcb = some e → e = (rcb, desc, k, n)) →
    (s.sched.regions.find? fun x => x.va == rcb.toNat && x.kind == 2 && x.qmode) = none →
      ∃ t r, exec (.spawnAppend rcb desc k n) s = .next t ∧ t.mem = s.mem ∧ t.agenda = s.agenda ++ [⟨s.now, .faultReport r⟩] ∧
        r.async = true ∧ r.code = 0x43 ∧ r.info = rcb ∧ r.tser = k) ∧
  (∀ (rcb desc : Word) (k n : Nat) (s : State) (e : Word × Word × Nat × Nat), nextSpawn s rcb = some e → e ≠ (rcb, desc, k, n) →
    exec (.spawnAppend rcb desc k n) s = .next { s with agenda := s.agenda ++ [⟨s.now + 1, .spawnAppend rcb desc k n⟩] })

/-- A write to ROOT (15 R339; 16 R353) of a module that has left bring-up: while a job is in CHECK or RUN it only records event 0x000A; a misaligned root or one outside HBM
leaves LSTATE FAULT; any other begins CHECK, with a round due. The round then walks the tree: a malformed one leaves FAULT, a good one
makes its regions the scheduler's, with every fault record, bytes 192 to 255 of a region's control block, at 0 (R371) and every other byte of
memory as it was. -/
def Claims.Launches : Prop :=
  (∀ (w : Word) (s : State), s.ctl.bringUp = false → s.host.lstate = 1 ∨ s.host.lstate = 2 →
    exec (.launch w) s = .next (record 256 0xA w s)) ∧
  (∀ (w : Word) (s : State), s.ctl.bringUp = false → s.host.lstate ≠ 1 → s.host.lstate ≠ 2 → ∃ t, exec (.launch w) s = .next t ∧ t.host.root = w.toNat % 2 ^ 57 ∧
    t.mem = s.mem ∧
    (w.toNat % 256 ≠ 0 ∨ hbmEnd ≤ w.toNat % 2 ^ 57 → t.host.lstate = 4) ∧
    (w.toNat % 256 = 0 → w.toNat % 2 ^ 57 < hbmEnd → t.host.lstate = 1 ∧ t.sched.regions = [] ∧ t.tables = [] ∧
      ∃ d ∈ t.agenda, d.act = .schedulerRound ∧ d.at_ ≤ s.now)) ∧
  (∀ (s : State), s.host.lstate = 1 → s.sched.regions = [] → (∀ t ∈ s.sched.tasks, t.st ≠ .ending) →
    (checkTree s.host.root s = .error .bad → ∃ t, exec .schedulerRound s = .next t ∧ t.host.lstate = 4 ∧ t.mem = s.mem) ∧
    (∀ sc, checkTree s.host.root s = .ok sc → poisoned s (sc.jobctr / 64) = false → ctrValue s sc.jobctr < sc.jobthr →
      recordsWait s sc.regions = none → (∀ r ∈ sc.regions, lineReady s (recLine r) true none ≠ .poison) → Memory.wf s = true →
      (∀ r ∈ sc.regions, sc.jobctr + 16 ≤ r.pa + 192 ∨ r.pa + 256 ≤ sc.jobctr) →
      ∃ t, exec .schedulerRound s = .next t ∧ t.host.lstate = 1 ∧ t.sched = sc ∧ (∀ r ∈ sc.regions, rdN t (r.pa + 192) 64 = 0) ∧
        (∀ a, (∀ r ∈ sc.regions, a < r.pa + 192 ∨ r.pa + 256 ≤ a) → rdByte t a = rdByte s a) ∧
        t.waiters = s.waiters ++ [⟨sc.jobctr, sc.jobthr, false, .job⟩] ∧
        ∀ r ∈ sc.regions, r.kind = 2 → ∃ d ∈ t.agenda, d.act = .descriptorFetch r.rnum ∧ d.at_ = s.now)) ∧
  (∀ (s : State), s.host.lstate ≠ 1 → s.host.lstate ≠ 2 → exec .schedulerRound s = .next s) ∧
  (∀ (s : State), s.host.lstate = 2 → s.sched.regions ≠ [] → s.sched.tasks = [] →
    ∃ t, exec .schedulerRound s = .next t ∧ t.mem = s.mem ∧ t.sched.tasks = [] ∧ t.standby = t.sched ∧
      t.host.lstate = (if s.sched.jobDone then 3 else 2))

/-- A leaf's fetch (16 R359): it registers on the queue's counter while that does not cover the next descriptor, and enters the
descriptor as a task with the next serial when it does. A dependency's release (R360) makes a task ready when it was the last; fault bits
fail it with cause 0x42. -/
def Claims.QueuesAndDependencies : Prop :=
  (∀ (rnum : Nat) (s : State) (r : Region), regionOf s rnum = some r → r.rnum = rnum → jobLive s = true → s.sched.jobDone = false → r.kind = 2 →
    r.withheld = 0 → (∀ w ∈ s.waiters, w.who ≠ .queue rnum) → poisoned s (r.qctr / 64) = false → ctrsFit s rnum = true →
    engServes s (r.qctr / 64) = .ok () →
    (ctrValue s r.qctr ≤ r.qidx → ∃ t, exec (.descriptorFetch rnum) s = .next t ∧ t.mem = s.mem ∧ t.sched = s.sched ∧
      t.waiters = s.waiters ++ [⟨r.qctr, r.qidx + 1, false, .queue rnum⟩]) ∧
    (r.qidx < ctrValue s r.qctr → ∀ (va : Nat) (rd : Option (Nat × Nat) × Option Nat), va ≠ 0 → nextDesc r (nameCtr r.qctr s) = .ok va →
      readTask (nameCtr r.qctr s) va = .ok rd → depsWait (nameCtr r.qctr s) rd = none → (∀ y ∈ s.sched.tasks, y.tser < s.sched.nextTser) →
      ∃ t x, exec (.descriptorFetch rnum) s = .next t ∧ x ∈ t.sched.tasks ∧
        x.tser = s.sched.nextTser ∧ x.rnum = rnum ∧ x.va = va ∧ t.sched.nextTser = s.sched.nextTser + 1 ∧ t.mem = s.mem ∧
        (∃ d ∈ t.agenda, d.act = .descriptorFetch rnum ∧ d.at_ = s.now))) ∧
  (∀ (tser k : Nat) (fl : BitVec 32) (s : State) (x : Task), s.sched.tasks = [x] → x.tser = tser → x.st = .waiting → k ∈ x.unmet →
    (bits fl.toNat 7 3 = 0 → ∃ t y, exec (.dependencyMet tser k fl) s = .next t ∧ t.sched.tasks = [y] ∧ y.unmet = x.unmet.filter (· != k) ∧
      (y.st = .ready ↔ ∀ j ∈ x.unmet, j = k) ∧ y.t = x.t ∧ t.mem = s.mem) ∧
    (bits fl.toNat 7 3 ≠ 0 → ∃ t r, exec (.dependencyMet tser k fl) s = .next t ∧ t.sched = s.sched ∧
      t.agenda = s.agenda ++ [⟨s.now, .faultReport r⟩] ∧ r.code = 0x42 ∧ r.tser = tser ∧ r.async = false))

/-- The start state of a strand (01 R19): PC at the entry, s1 the parameter, s2 the linear number, every other register 0, SEED from the
descriptor and LIN, never 0; the shadow set equals the state; GANGID, GANGDIM and STRANDIX name the gang's place. -/
def Claims.StrandStart : Prop :=
  ∀ (t : Task) (gix lin : Nat), gix < 2 ^ 16 → lin < 2 ^ 16 →
    (startStrand t gix lin).a.pc = BitVec.ofNat 51 (t.d 120 64 / 64 + bits (t.h (512 + 64 * t.d 123 121 + 63) (512 + 64 * t.d 123 121)) 50 0) ∧
    (startStrand t gix lin).a.regs[1] = BitVec.ofNat 64 (t.d 248 192) ∧ (startStrand t gix lin).a.regs[2] = BitVec.ofNat 64 lin ∧
    (∀ r : Nat, r < 32 → r ≠ 1 → r ≠ 2 → (startStrand t gix lin).a.regs[r]? = some 0) ∧
    (startStrand t gix lin).a.seed ≠ 0 ∧ (startStrand t gix lin).a.loops = [] ∧ (startStrand t gix lin).a.flags = 0 ∧
    (startStrand t gix lin).shadow = (startStrand t gix lin).a ∧ (startStrand t gix lin).tm = false ∧
    (startStrand t gix lin).ckptPc = (startStrand t gix lin).a.pc ∧
    (startStrand t gix lin).gangId.toNat = gix + t.tser % 2 ^ 32 * 2 ^ 16 ∧ (startStrand t gix lin).run = .running

/-- The end of a quantum (16 R366) of a gang that nothing contends with begins a new quantum; of one that other work needs, and whose
images fit, begins its eviction, in which its strands issue no more. The first migrate trap of a gang that runs, or is being evicted for
another reason (17 R380), adds the subset that it names to the gang, fills the migration record and puts the gang in transit, in its
eviction. -/
def Claims.EvictionBegins : Prop :=
  (∀ (tser gix : Nat) (s : State) (x : Task) (g : Gang) (r : Region), taskOf s tser = some x → gangOf s tser gix = some g → x.tser = tser →
    g.gix = gix → regionOf s x.rnum = some r → g.st = .running → r.quant ≠ 0 → g.qstart + 1024 * r.quant ≤ s.now →
    (contended s (epGang s x g) = false → ∃ t g', exec (.quantumExpiry tser gix) s = .next t ∧ gangOf t tser gix = some g' ∧
      g'.st = .running ∧ g'.qstart = s.now ∧ t.core = s.core ∧ t.others = s.others ∧ t.mem = s.mem ∧
      ∃ d ∈ t.agenda, d.act = .quantumExpiry tser gix ∧ d.at_ = s.now + 1024 * r.quant) ∧
    (contended s (epGang s x g) = true → combFits s x.rnum (combNeed s x g) = true → ∃ t g', exec (.quantumExpiry tser gix) s = .next t ∧
      gangOf t tser gix = some g' ∧ g'.st = .evicting ∧ t.mem = s.mem ∧ ∀ c ∈ g.cores, (coreOf t c).st.run ≠ .running)) ∧
  (∀ (c : CoreId) (s : State) (x : Task) (g : Gang), taskOf s (bits (coreOf s c).st.gangId.toNat 47 16) = some x →
    gangOf s (bits (coreOf s c).st.gangId.toNat 47 16) (bits (coreOf s c).st.gangId.toNat 15 0) = some g →
    g.gix = bits (coreOf s c).st.gangId.toNat 15 0 → x.tser = bits (coreOf s c).st.gangId.toNat 47 16 → c ∈ g.cores →
    (g.st = .running ∨ (g.st = .evicting ∧ g.transit = false)) → (∀ y ∈ x.gangs, y.gix = g.gix → y = g) → (coreOf s c).st.run = .stopped → bits (coreOf s c).st.trapCause.toNat 7 0 = 0x10 →
      ∃ t g', exec (.migrateTrapReceipt c) s = .next t ∧ gangOf t x.tser g.gix = some g' ∧ g'.st = .evicting ∧ g'.transit = true ∧
        g'.adds = g.adds ||| trapSubset (coreOf s c).st.trapInfo.toNat ∧ t.mem = s.mem ∧
        ∃ m, g'.mig = some m ∧ m.source = dieOf c ∧ m.opc = bits (coreOf s c).st.trapInfo.toNat 7 0 ∧
          m.slot = bits (coreOf s c).st.trapInfo.toNat 10 8 ∧ m.ttrap = s.now)

/-- A core that an image is written to (17 R383) has the strand's registers, trap state and spill words below SPILLN, the scratchpad and
the full/empty bits of the image, and a PTS that neither the core's nor the image's exceeds; a strand withheld for its eviction runs. -/
def Claims.ImagesKept : Prop :=
  ∀ (i : Image) (k : Core), (imageCore i k).st.a = i.st.a ∧ (imageCore i k).st.shadow = i.st.shadow ∧ (imageCore i k).scratch = i.scratch ∧
    (imageCore i k).full = i.full ∧ (imageCore i k).st.tm = i.st.tm ∧ (imageCore i k).st.trapPc = i.st.trapPc ∧
    (imageCore i k).st.trapCause = i.st.trapCause ∧ (imageCore i k).st.trapInfo = i.st.trapInfo ∧
    (∀ n < i.st.spilln, SMap.wf 0 i.st.spill = true → SMap.get 0 (imageCore i k).st.spill n = SMap.get 0 i.st.spill n) ∧
    (i.st.run = .withheld → (imageCore i k).st.run = .running) ∧ k.pts ≤ (imageCore i k).pts ∧ i.pts ≤ (imageCore i k).pts ∧
    (imageCore i k).id = k.id ∧ (imageCore i k).split = k.split

/-- A task whose strands have all halted completes (16 R367): its DONE counter takes the descriptor's amount and the task is done; a handler's
also clears the fault record of its scope and releases the queues that its fault withheld, and LSTATE becomes FAULT after that of a class E JOB
fault (R372, R373). A killed task, also a handler's, ORs 0x40 instead (R372). -/
def Claims.TaskCompletes : Prop :=
  ∀ (tser pa : Nat) (s : State) (x : Task), s.sched.tasks = [x] → x.tser = tser → x.done = some pa →
    lineReady s (pa / 64) false none = .ok → Memory.wf s = true → s.waiters = [] → s.sched.jobDone = false →
    (x.st = .started → x.handler = none → (∀ g ∈ x.gangs, g.st = .halted) → addRefused s pa (x.d 978 960) = false →
      ∃ t y, exec (.taskComplete tser) s = .next t ∧ t.sched.tasks = [y] ∧ y.st = .done ∧ y.tser = tser ∧
        ctrValue t pa = ctrValue s pa + x.d 978 960 ∧ ctrFlags t pa = ctrFlags s pa) ∧
    (∀ rn l q, x.st = .started → x.handler = some (rn, l) → (∀ g ∈ x.gangs, g.st = .halted) → addRefused s pa (x.d 978 960) = false →
      regionOf s rn = some q → q.rnum = rn → lineReady s ((q.pa + 192) / 64) true none = .ok → q.pa % 256 = 0 →
      (pa + 16 ≤ q.pa + 192 ∨ q.pa + 256 ≤ pa) → (s.sched.regions.map (·.rnum)).Nodup →
      ∃ t y, exec (.taskComplete tser) s = .next t ∧ t.sched.tasks = [y] ∧ y.st = .done ∧ (∀ i < 64, rdByte t (q.pa + 192 + i) = 0) ∧
        ctrValue t pa = ctrValue s pa + x.d 978 960 ∧ (l = 2 → x.classE = true → jobLive s = true → t.host.lstate = 4) ∧
        (l ≠ 2 ∨ x.classE = false → ∀ z ∈ s.sched.regions, { z with withheld := z.withheld - x.withholds.count z.rnum } ∈ t.sched.regions)) ∧
    (x.st = .ending → ∃ t y, exec (.taskComplete tser) s = .next t ∧ t.sched.tasks = [y] ∧ y.st = .killed ∧
      ctrValue t pa = ctrValue s pa ∧ ctrFlags t pa = ctrFlags s pa ||| 0x40)

/-- A fault that no handler of its task's domains takes (16 R371, R372), the root region's record being clear: the record is filled with
the report and the leaf's RNUM, vector 1 is signalled, and a class E fault ends the job in FAULT. That the record is filled for a class E fault
too is the model's reading (log entry 61). -/
def Claims.FaultLands : Prop :=
  ∀ (r : FaultReport) (s : State) (x : Task) (leaf root : Region), taskOf s r.tser = some x → x.handler = none → regionOf s x.rnum = some leaf →
    rootRegion s = some root → landLevel s leaf 3 leaf.fdom = 3 → jobLive s = true → s.sched.tasks = [x] → x.st ≠ .ending → x.st ≠ .done →
    x.st ≠ .killed → x.gangs = [] → s.tables = [] → lineReady s ((root.pa + 192) / 64) true none = .ok → Memory.wf s = true →
    bit (rdN s (root.pa + 192) 64) 12 = false → root.pa % 256 = 0 → r.code < 256 → leaf.rnum < 2 ^ 16 →
      ∃ t, exec (.faultReport r) s = .next t ∧ rdN t (root.pa + 192) 64 = recordBits r leaf.rnum ∧
        (∀ a, a < root.pa + 192 ∨ root.pa + 256 ≤ a → rdByte t a = rdByte s a) ∧ t.host.evstat.getLsbD 1 = true ∧
        (r.async = false → t.host.lstate = 4) ∧ (r.async = true → t.host.lstate = s.host.lstate ∧ t.sched.tasks = s.sched.tasks)

/-- The scope of a fault (16 R372): of TASK the leaf; of REGION the outermost region below the root that is reached upward from the leaf
through regions whose domain is REGION; of JOB the root. A scope without a handler passes the fault to the domain above; 3 stands for none. -/
def Claims.FaultScopes : Prop :=
  (∀ (s : State) (leaf : Region), scopeOf s leaf 0 = leaf ∧ ∀ root, rootRegion s = some root → scopeOf s leaf 2 = root) ∧
  (∀ (s : State) (leaf p : Region) (rs : List Region), rs.length < 16 →
    (∀ i < rs.length, ((leaf :: rs)[i]?.bind (·.parent)).bind (regionOf s) = rs[i]?) → (∀ q ∈ rs, q.kind ≠ 0 ∧ q.fdom = 1) →
    ((rs.getLastD leaf).parent.bind (regionOf s) = some p) → p.kind = 0 ∨ p.fdom ≠ 1 → scopeOf s leaf 1 = rs.getLastD leaf) ∧
  (∀ (s : State) (leaf : Region) (f l : Nat), f ≤ l → l ≤ 3 → (∀ k, f ≤ k → k < l → (scopeOf s leaf k).handler = 0) →
    (l < 3 → (scopeOf s leaf l).handler ≠ 0) → landLevel s leaf 3 f = l)

/-- A fault that lands in a domain with a handler (16 R371-R373), no gang having started: with V = 0 the scope's record is filled, and a
handler task is made from a copy of the descriptor with PARAM the record's address and priority 7, ready at once. A class A fault kills and
withholds nothing; a class E one kills its task, and in REGION and JOB every running task of the scope, whose queues are withheld. With V = 1
FMORE alone rises and no handler is made. -/
def Claims.FaultSpawns : Prop :=
  ∀ (r : FaultReport) (s : State) (x : Task) (leaf scope : Region) (l n pa hd : Nat), taskOf s r.tser = some x → regionOf s x.rnum = some leaf →
    jobLive s = true → landLevel s leaf 3 (match x.handler with | none => leaf.fdom | some h => h.2 + 1) = l → l < 3 → scope = scopeOf s leaf l →
    readTask s scope.handler = .ok (some (n, pa), some hd) →
    lineReady (engTake (taskParts scope.handler (some (n, pa), some hd)) 0 s).2 ((scope.pa + 192) / 64) true none = .ok → Memory.wf s = true →
    scope.pa % 256 = 0 → scope.va + 192 < 2 ^ 57 → r.code < 256 → leaf.rnum < 2 ^ 16 → s.tables = [] →
    (∀ y ∈ s.sched.tasks, y.gangs = [] ∧ y.tser < s.sched.nextTser) → (s.sched.tasks.map (·.tser)).Nodup → (s.sched.regions.map (·.rnum)).Nodup →
    (bit (rdN s (scope.pa + 192) 64) 12 = false → descForm n scope.nseg = true → (descCtrs s n).isSome = true →
      codeOk hd (bits n 135 128) (bits n 143 136) (bits n 123 121) = true →
      ∃ t y, exec (.faultReport r) s = .next t ∧ t.sched.tasks.getLast? = some y ∧ t.sched.tasks.length = s.sched.tasks.length + 1 ∧
        y.tser = s.sched.nextTser ∧ y.handler = some (scope.rnum, l) ∧ y.st = .ready ∧ y.classE = !r.async ∧ y.d 248 192 = scope.va + 192 ∧
        y.d 175 172 = 15 ∧ (∀ b < 1024, b < 172 ∨ (175 < b ∧ b < 192) ∨ 248 < b → y.desc.getLsbD b = bit n b) ∧
        rdN t (scope.pa + 192) 64 = recordBits r leaf.rnum ∧ (∀ a, a < scope.pa + 192 ∨ scope.pa + 256 ≤ a → rdByte t a = rdByte s a) ∧
        t.host.lstate = s.host.lstate ∧ (l = 2 → t.host.evstat.getLsbD 1 = true) ∧
        (r.async = true → (∀ z ∈ s.sched.tasks, z ∈ t.sched.tasks) ∧ y.withholds = [] ∧ t.sched.regions = s.sched.regions) ∧
        (r.async = false → r.code ≠ 0x41 →
          (∀ z ∈ s.sched.tasks, (z.tser = r.tser ∧ taskEnded z = false ∨ l ≠ 0 ∧ z.st = .started ∧ under s z.rnum scope.rnum = true) →
            ∃ z' ∈ t.sched.tasks, z'.tser = z.tser ∧ z'.st = .ending) ∧
          (∀ z ∈ s.sched.tasks, z.tser ≠ r.tser → (l = 0 ∨ z.st ≠ .started ∨ under s z.rnum scope.rnum = false) → z ∈ t.sched.tasks) ∧
          (l = 0 → y.withholds = []) ∧
          (l ≠ 0 → ∀ k, k ∈ y.withholds ↔ ∃ q ∈ s.sched.regions, q.rnum = k ∧ q.kind = 2 ∧ under s k scope.rnum = true) ∧
          (∀ q ∈ s.sched.regions, { q with withheld := q.withheld + (if q.rnum ∈ y.withholds then 1 else 0) } ∈ t.sched.regions))) ∧
    (bit (rdN s (scope.pa + 192) 64) 12 = true → ∃ t, exec (.faultReport r) s = .next t ∧ t.sched.nextTser = s.sched.nextTser ∧
      t.sched.tasks.length = s.sched.tasks.length ∧ rdByte t (scope.pa + 194) = BitVec.ofNat 8 (min 255 ((rdByte s (scope.pa + 194)).toNat + 1)) ∧
      ∀ a, a ≠ scope.pa + 194 → rdByte t a = rdByte s a)

/-- Every running gang with a core of a set is being evicted after a step. -/
def Claims.evicted (p : CoreId → Bool) (s t : State) : Prop :=
  ∀ (tser gix : Nat) (g : Gang), gangOf s tser gix = some g → g.st = .running → g.cores.any p = true →
    ∃ h, gangOf t tser gix = some h ∧ h.st = .evicting

/-- The withdrawals (15 R345; 10 R242; 16 R366, R374): a die's or a core's mark, with event 0x000D, and the eviction of its gangs; a core's
only while its die keeps 1,250 good ones (log entry 125). A takeover keeps the scheduler's tasks and regions, and goes on with the mirrored
order (log entry 67). -/
def Claims.Withdrawals : Prop :=
  (∀ (die : Nat) (s : State), die < 128 → die ∉ s.ctl.deadDies → ∃ t e,
    exec (.dieFault die) s = .next t ∧ t.ctl.deadDies = s.ctl.deadDies ++ [die] ∧ t.mem = s.mem ∧
    Claims.evicted (fun c => dieOf c == die) s t ∧ e ∈ SMap.get [] t.ctl.recorders die ∧ e.code = 0xD ∧ e.die = die ∧
    e.seq = SMap.get 0 s.ctl.seqs die) ∧
  (∀ (c : CoreId) (s : State), isCore c = true → (coreOf s c).dead = false → 1250 < goodCores s (dieOf c) →
    ∃ t e, exec (.coreWithdrawn c) s = .next t ∧ (coreOf t c).dead = true ∧ t.mem = s.mem ∧ Claims.evicted (· == c) s t ∧ e ∈ SMap.get [] t.ctl.recorders (dieOf c) ∧
    e.code = 0xD ∧ e.info = c.setWidth 64) ∧
  (∀ (s : State), s.schedAt ≠ 2 → ∃ t, exec .schedulerTakeover s = .next t ∧ t.schedAt = 2 ∧ t.sched = { s.sched with rr := s.standby.rr } ∧
    t.core = s.core ∧ t.others = s.others ∧ t.mem = s.mem)

/-! ### The swarm engine (18) -/

/-- `route` (18 R391) holds one piece; it is illegal with an expert operand above 16 bits, and takes the access fault for a table or a source
that is not aligned. `rtver` (R393) on a table that is registered, or becomes so, returns the version, AMASK, one less than its population
(0 when AMASK is 0), and 0 above. -/
def Claims.SwarmInstructions : Prop :=
  (∀ (f : YA) (s : State) (a b c d : Word), readS f.a s = .ok a → readS f.b s = .ok b → readS f.c s = .ok c → readS f.d s = .ok d →
    (c.extractLsb' 16 16 = (0 : BitVec 16) → a.toNat % 1024 = 0 → b.toNat % 256 = 0 → s.core.held.length < 128 →
      exec (.route f) s = .next (Claims.holding (.route a b (c.extractLsb' 32 32) (c.extractLsb' 0 16 : BitVec 16).toNat d f.imm.toNat) s)) ∧
    (c.extractLsb' 16 16 = (0 : BitVec 16) → a.toNat % 1024 ≠ 0 → exec (.route f) s = .next (Claims.trapped 0x21 a s)) ∧
    (c.extractLsb' 16 16 = (0 : BitVec 16) → a.toNat % 1024 = 0 → b.toNat % 256 ≠ 0 → exec (.route f) s = .next (Claims.trapped 0x21 b s)) ∧
    (c.extractLsb' 16 16 ≠ (0 : BitVec 16) → exec (.route f) s = .next (Claims.trapped 0x01 s.ctx.syl s))) ∧
  (∀ (f : YA) (s s1 s2 s3 : State) (a e : Word) (h n : Nat) (x : Table), readS f.a s = .ok a → readS f.b s = .ok e →
    (a + f.imm.signExtend 64).toNat % 1024 = 0 → globalRead1 (a + f.imm.signExtend 64).toNat 4 s = .ok (h, s1) →
    registerTable (a + f.imm.signExtend 64).toNat s1 = .ok s2 → findTable s2 (a + f.imm.signExtend 64).toNat = some x → x.ok = true →
    e.toNat < hdrNexp h → globalRead1 (entVa (a + f.imm.signExtend 64).toNat e.toNat) 4 s2 = .ok (n, s3) →
      ∃ t at_ v, exec (.rtver f) s = .next t ∧ t.core = s3.core ∧
        t.ctx.ends = s3.ctx.ends ++ [.produce ⟨s3.nextId, .sreg (f.c.setWidth 5), some (BitVec.setWidth 256 v), s.now, false, false, true⟩] ∧
        t.agenda = s3.agenda ++ [⟨at_, .variableLatencyResult s3.core.id s3.nextId⟩] ∧
        (v : Word).extractLsb' 0 16 = BitVec.ofNat 16 h ∧ v.extractLsb' 16 8 = BitVec.ofNat 8 n ∧
        v.extractLsb' 24 40 = BitVec.ofNat 40 (popcount (n % 256) 8 - 1))

/-- The choice (18 R392): the replica at the key's place among AMASK's set bits, numbered from bit 0. -/
def Claims.ReplicaChoice : Prop :=
  ∀ (a key : Nat), 0 < a → a < 256 → bit a (pickReplica a key) = true ∧
    ((List.range (pickReplica a key)).filter fun i => bit a i).length = key % popcount a 8

/-- A route operation on a registered table (18 R392): the choice reserves the next slot of the replica that the key chooses; once the slot
is free, LOAD takes an add of 1 at the operation's next time and the delivery follows; a delivery without payload left writes the slot's header; the routed add
then takes place after those of the replica's earlier slots, and the operation ends. -/
def Claims.RouteSteps : Prop :=
  (∀ (k : Nat) (s : State) (o : RouteOp) (x : Table) (h n : Nat), s.routes = [o] → o.id = k → o.st = .choice → o.doneVa = 0 →
    findTable s o.tab = some x → x.ok = true → tabHdr s o.tab = .ok h → o.e < hdrNexp h → tabEnt s o.tab o.e = .ok n → o.e ∉ x.abandoned →
    bits n 7 0 ≠ 0 →
      ∃ t p, exec (.routeChoice k) s = .next t ∧ t.routes = [p] ∧ p.st = .room ∧ p.r = pickReplica (bits n 7 0) o.key ∧
        p.j = resOf s o.tab o.e p.r ∧ p.v = bits h 15 0 ∧ resOf t o.tab o.e p.r = p.j + 1 ∧ o.t < p.t ∧ t.mem = s.mem) ∧
  (∀ (k : Nat) (s : State) (o : RouteOp) (h w c pa : Nat), s.routes = [o] → o.id = k → o.st = .room → tabHdr s o.tab = .ok h →
    tabSlot s o.tab o.e o.r = .ok w → ctrNow s (slotCctr w) = .ok c → engXlate s .ctrWr (hdrLoad h o.e) = .ok pa →
    (o.j - c < hdrSlots h → lineReady (engTake [(slotCctr w, 8)] o.t s).2 (pa / 64) false none = .ok → addRefused s pa 1 = false →
      Memory.wf s = true → ∃ t p, exec (.routeChoice k) s = .next t ∧ t.routes = [p] ∧ p = { o with st := .deliver, t := p.t } ∧ o.t < p.t ∧
      (dirOf t (pa / 64)).wts = p.t ∧ ctrValue t pa = ctrValue s pa + 1 ∧ ctrFlags t pa = ctrFlags s pa ∧
      (∀ a, a < pa ∨ pa + 12 ≤ a → rdByte t a = rdByte s a) ∧ ∃ d ∈ t.agenda, d.act = .routeDelivery k) ∧
    (hdrSlots h ≤ o.j - c → exec (.routeChoice k) s = .next { s with agenda := s.agenda ++ [⟨s.now + 1, .routeChoice k⟩] })) ∧
  (∀ (k : Nat) (s : State) (o : RouteOp) (h w pa : Nat), s.routes = [o] → o.id = k → o.st = .deliver → tabHdr s o.tab = .ok h →
    tabSlot s o.tab o.e o.r = .ok w → o.left = [] → Memory.wf s = true → (slotInbox w + o.j % hdrSlots h * hdrSlotBytes h) % 64 = 0 →
    engXlate s .wr (slotInbox w + o.j % hdrSlots h * hdrSlotBytes h) = .ok pa → pa % 64 = 0 → lineReady s (pa / 64) true none = .ok →
      ∃ t p, exec (.routeDelivery k) s = .next t ∧ t.routes = [p] ∧ p.st = .routed ∧ rdBytes t pa 64 = slotHeader o ∧
        (∀ a, a < pa ∨ pa + 64 ≤ a → rdByte t a = rdByte s a) ∧ ∃ d ∈ t.agenda, d.act = .routedAdd k) ∧
  (∀ (k : Nat) (s : State) (o : RouteOp) (w pa : Nat), s.routes = [o] → o.id = k → o.st = .routed → o.donePa = none → o.stopped = none → o.redir = none →
    tabSlot s o.tab o.e o.r = .ok w → engXlate s .ctrWr (slotRctr w) = .ok pa → poisoned s (pa / 64) = false →
    (ctrValue s pa < o.j → exec (.routedAdd k) s = .next { s with agenda := s.agenda ++ [⟨s.now + 1, .routedAdd k⟩] }) ∧
    (o.j ≤ ctrValue s pa → lineReady s (pa / 64) false none = .ok → addRefused s pa 1 = false → Memory.wf s = true → s.waiters = [] →
      ∃ t, exec (.routedAdd k) s = .next t ∧ t.routes = [] ∧ ctrValue t pa = ctrValue s pa + 1 ∧
        ∀ a, a < pa ∨ pa + 16 ≤ a → rdByte t a = rdByte s a))

/-- M of a sample (18 R394): the sum of D over every expert, D being the load counter's value less LAST. -/
def Claims.sampled (h : Nat) (n v : Nat → Nat) : Nat := ((List.range (hdrNexp h)).map fun e => v e - bits (n e) 127 64).sum

/-- An expert is hot, or cold, in a sample (18 R394). -/
def Claims.hot (h : Nat) (n v : Nat → Nat) (e : Nat) : Prop :=
  0 < Claims.sampled h n v ∧
    bits h 55 48 * Claims.sampled h n v * popcount (bits (n e) 7 0) 8 ≤ 16 * hdrNexp h * (v e - bits (n e) 127 64)
def Claims.cold (h : Nat) (n v : Nat → Nat) (e : Nat) : Prop :=
  bits h 63 56 ≠ 0 ∧ 16 * hdrNexp h * (v e - bits (n e) 127 64) ≤ bits h 63 56 * Claims.sampled h n v * popcount (bits (n e) 7 0) 8

/-- A sample (18 R394) comes at its clock and the next one after the period; while a merge is in progress it only counts the time. Otherwise
LAST of every expert takes its load counter's value and BLEFT falls by one to 0. With no switch in progress an expert that is hot, below
MAXR + 1 replicas and with BLEFT 0 begins the replication of its lowest free slot, which is COPYING then; otherwise one that is cold for the
KCOLD-th time and has another replica begins the retirement of its highest, with CRUN 0; CRUN counts the cold samples up to 15. The fifth
copy of a module and the replicas of an abandoned expert are left out here. -/
def Claims.SwarmSamples : Prop :=
  (∀ (tab : Nat) (s : State) (x : Table) (h : Nat), s.tables = [x] → x.va = tab → x.ok = true → x.next ≤ s.now → jobLive s = true →
    tabHdr s tab = .ok h → bits h 47 40 ≠ 0 → tableWaits s tab h = none →
    (x.merging = none → statWaits s tab h = none) →
      ∃ t y, exec (.swarmSample tab) s = .next t ∧ findTable t tab = some y ∧ y.next = x.next + 65536 * bits h 47 40 ∧ y.res = x.res ∧
        (∃ d ∈ t.agenda, d.act = .swarmSample tab ∧ d.at_ = x.next + 65536 * bits h 47 40) ∧ (x.merging ≠ none → t.mem = s.mem)) ∧
  (∀ (tab : Nat) (s : State) (x : Table) (h : Nat) (line : Nat → Nat → Nat) (n v : Nat → Nat) (w : Nat → Nat → Nat), s.tables = [x] →
    x.va = tab → x.ok = true → x.next ≤ s.now → jobLive s = true → tabHdr s tab = .ok h → bits h 47 40 ≠ 0 → tableWaits s tab h = none →
    statWaits s tab h = none → x.merging = none → s.switches = [] → Memory.wf s = true →
    (∀ e < hdrNexp h, tabEnt s tab e = .ok (n e) ∧ ctrNow s (hdrLoad h e) = .ok (v e) ∧ bits (n e) 127 64 ≤ v e ∧
      engXlate s .rd (entVa tab e) = .ok (64 * line e 0) ∧ lineReady s (line e 0) false none = .ok) →
    (∀ e < hdrNexp h, ∀ r < hdrMaxr h + 1, tabSlot s tab e r = .ok (w e r) ∧ engXlate s .rd (slotVa tab e r) = .ok (64 * line e (r + 1)) ∧
      lineReady s (line e (r + 1)) false none = .ok) →
    (∀ e < hdrNexp h, ∀ k < hdrMaxr h + 2, ∀ e' < hdrNexp h, ∀ k' < hdrMaxr h + 2, line e k = line e' k' → e = e' ∧ k = k') →
      ∃ t, exec (.swarmSample tab) s = .next t ∧
        (∀ a, (∀ e < hdrNexp h, ∀ k < hdrMaxr h + 2, a / 64 ≠ line e k) → rdByte t a = rdByte s a) ∧
        ∀ e < hdrNexp h, ∀ E c k f, E = rdN t (64 * line e 0) 64 → k = popcount (bits (n e) 7 0) 8 →
          f = (List.range (hdrMaxr h + 1)).find? (fun r => r != 0 && bits (w e r) 2 0 == 0) →
          (Claims.cold h n v e → c = min (bits (n e) 35 32 + 1) 15) → (¬ Claims.cold h n v e → c = 0) →
            bits E 127 64 = v e ∧ bits E 31 16 = bits (n e) 31 16 - 1 ∧ bits E 15 0 = bits (n e) 15 0 ∧
            (∀ r, e < 4 → e ∉ x.abandoned → Claims.hot h n v e → k ≤ hdrMaxr h → bits (n e) 31 16 ≤ 1 → f = some r →
              bits (rdN t (64 * line e (r + 1)) 64) 2 0 = 1 ∧ bits E 35 32 = c ∧
              ∃ y, t.switches.filter (·.e == e) = [y] ∧ y.tab = tab ∧ y.r = r ∧ y.k = .replicate ∧ y.step = 0) ∧
            (¬ Claims.hot h n v e ∨ hdrMaxr h < k ∨ 1 < bits (n e) 31 16 ∨ f = none →
              (bits h 67 64 ≤ c → 1 < k → bits E 35 32 = 0 ∧ ∃ y, t.switches.filter (·.e == e) = [y] ∧ y.tab = tab ∧ y.k = .retire ∧
                bit (bits (n e) 7 0) y.r = true ∧ ∀ i < 8, bit (bits (n e) 7 0) i = true → i ≤ y.r) ∧
              (c < bits h 67 64 ∨ k ≤ 1 → bits E 35 32 = c ∧ t.switches.filter (·.e == e) = [])))

/-- The switches (18 R395-R397). A weight copy that has ended takes its turn, and reads the slot's routed counter into RES; one that has
stopped frees the slot and raises FAILS and BLEFT; a loss of a replica becomes a switch of its table once no merge is in progress, and so
does the loss of replica 0; a redirection publishes a new version of the table without the replica. -/
def Claims.Switches : Prop :=
  (∀ (k : Nat) (s : State) (w : Switch) (h n v : Nat), s.switches = [w] → w.id = k → w.k = .replicate → w.step = 0 → tabHdr s w.tab = .ok h →
    tabSlot s w.tab w.e w.r = .ok n → ctrNow s (slotRctr n) = .ok v → (findTable s w.tab).isSome = true →
    (∀ x, findTable s w.tab = some x → SMap.wf 0 x.res = true) →
      ∃ t, exec (.replicaCopyDone k) s = .next t ∧ t.switches = [{ w with step := 2 }] ∧ resOf t w.tab w.e w.r = v ∧ t.mem = s.mem) ∧
  (∀ (k : Nat) (s : State) (w : Switch) (h n m pe ps : Nat), s.switches = [w] → w.id = k → w.k = .replicate → w.step = 0 →
    tabHdr s w.tab = .ok h → tabEnt s w.tab w.e = .ok n → tabSlot s w.tab w.e w.r = .ok m → w.tab % 1024 = 0 →
    engXlate s .rd (entVa w.tab w.e) = .ok pe → engXlate s .rd (slotVa w.tab w.e w.r) = .ok ps → pe % 64 = 0 → ps % 64 = 0 → pe ≠ ps →
    lineReady s (pe / 64) true none = .ok → lineReady s (ps / 64) true none = .ok → Memory.wf s = true →
      ∃ t, exec (.replicaCopyStop k) s = .next t ∧ t.switches = [] ∧ bits (rdN t ps 64) 2 0 = 0 ∧
        bits (rdN t pe 64) 15 8 = min (bits n 15 8 + 1) 255 ∧
        bits (rdN t pe 64) 31 16 = min (bits h 71 68 * 2 ^ (min (bits n 15 8 + 1) 255 - 1)) 1024 ∧
        ∀ a, (a < pe ∨ pe + 64 ≤ a) → (a < ps ∨ ps + 64 ≤ a) → rdByte t a = rdByte s a) ∧
  (∀ (tab e r : Nat) (s : State) (x : Table), findTable s tab = some x → x.ok = true → e ∉ x.abandoned →
    (x.merging = none → r ≠ 0 → ∃ t, exec (.replicaLoss tab e r) s = .next t ∧
      t.switches = s.switches ++ [⟨s.nextId, tab, e, r, .loss, 1, 0, 0, 0⟩] ∧ t.agenda = s.agenda ++ [⟨s.now, .redirection s.nextId⟩] ∧ t.mem = s.mem) ∧
    (x.merging = none → ∃ t, exec (.replica0Loss tab e) s = .next t ∧
      t.switches = s.switches ++ [⟨s.nextId, tab, e, 0, .restart, 1, 0, 0, 0⟩] ∧ t.agenda = s.agenda ++ [⟨s.now, .redirection s.nextId⟩] ∧
      t.mem = s.mem) ∧
    (x.merging ≠ none → r ≠ 0 → exec (.replicaLoss tab e r) s = .next { s with agenda := s.agenda ++ [⟨s.now + 1, .replicaLoss tab e r⟩] })) ∧
  (∀ (k : Nat) (s : State) (w : Switch) (h n m ph pe ps : Nat), s.switches = [w] → w.id = k → w.k = .retire ∨ w.k = .loss → w.step = 1 →
    tabHdr s w.tab = .ok h → tabEnt s w.tab w.e = .ok n → tabSlot s w.tab w.e w.r = .ok m → bits m 2 0 = 2 → w.tab % 1024 = 0 → 0 < w.r → w.r < 8 →
    engXlate s .rd w.tab = .ok ph → engXlate s .rd (entVa w.tab w.e) = .ok pe → engXlate s .rd (slotVa w.tab w.e w.r) = .ok ps →
    ph % 64 = 0 → pe % 64 = 0 → ps % 64 = 0 → ph ≠ pe → pe ≠ ps → ph ≠ ps → Memory.wf s = true → lineReady s (ph / 64) true none = .ok →
    lineReady s (pe / 64) true none = .ok → lineReady s (ps / 64) true none = .ok →
      ∃ t, exec (.redirection k) s = .next t ∧ t.switches = [{ w with step := 2 }] ∧
        bits (rdN t ph 64) 15 0 = nextVersion (bits h 15 0) ∧ bits (rdN t pe 64) 7 0 = bits n 7 0 &&& (255 - 2 ^ w.r) ∧
        bits (rdN t ps 64) 2 0 = (if w.k = .loss then 5 else 3) ∧ bits (rdN t ps 64) 47 32 = nextVersion (bits h 15 0))

/-- One element of a merge (18 R398): the element of replica 0's gradient takes the f32 sum with that of the replica in turn, which becomes
0, and the merge goes on to the next element. Poison in the slot whose turn it is stops the merge: no further element is merged, and CF and
PSN come to MDONE without an add. A merge waits while a switch of the table is under way. -/
def Claims.GradientMerges : Prop :=
  (∀ (tab : Nat) (s : State) (x : Table) (p : MergePos) (h w w0 p0 pr : Nat), s.tables = [x] → x.va = tab → x.ok = true → x.merging = some p →
    s.switches = [] → tabHdr s tab = .ok h → tableWaits s tab h = none → p.e < hdrNexp h → 0 < p.r →
    p.r ≤ hdrMaxr h → tabSlot s tab p.e p.r = .ok w → (bits w 2 0 = 2 ∨ bits w 2 0 = 4 ∨ bits w 2 0 = 5) →
    tabSlot s tab p.e 0 = .ok w0 → 4 * p.i < bits h 383 352 →
    (slotGrad w0 + 4 * p.i) % 4 = 0 → (slotGrad w + 4 * p.i) % 4 = 0 →
    engXlate s .rd (slotGrad w0 + 4 * p.i) = .ok p0 → engXlate s .rd (slotGrad w + 4 * p.i) = .ok pr →
    engXlate s .wr (slotGrad w0 + 4 * p.i) = .ok p0 → engXlate s .wr (slotGrad w + 4 * p.i) = .ok pr →
    p0 % 4 = 0 → pr % 4 = 0 → p0 ≠ pr → isPool p0 = false → isPool pr = false → engServes s (p0 / 64) = .ok () → engServes s (pr / 64) = .ok () →
    lineReady s (p0 / 64) false none = .ok → lineReady s (pr / 64) false none = .ok → Memory.wf s = true →
      ∃ t y, exec (.gradientMerge tab) s = .next t ∧ t.tables = [y] ∧ (∃ q, y.merging = some q ∧ q.e = p.e ∧ q.r = p.r ∧ q.i = p.i + 1) ∧
        rdN t p0 4 = (atomicNew .fadd true false (rdN s p0 4) (rdN s pr 4) 0).1 ∧ rdN t pr 4 = 0 ∧
        ∀ a, (a < p0 ∨ p0 + 4 ≤ a) → (a < pr ∨ pr + 4 ≤ a) → rdByte t a = rdByte s a) ∧
  (∀ (tab : Nat) (s : State) (x : Table) (p : MergePos) (h va pa : Nat), s.tables = [x] → x.va = tab → x.ok = true → x.merging = some p →
    s.switches = [] → tabHdr s tab = .ok h → tableWaits s tab h = none → p.e < hdrNexp h → 0 < p.r → p.r ≤ hdrMaxr h →
    tabSlot s tab p.e p.r = .error (.poison va) → engCounter s (bits h 312 256) = .ok pa →
    (∀ pc, engCounter s (bits h 248 192) = .ok pc → ctrMet s pc (x.asked + 1) false = false) →
      ∃ t y e, exec (.gradientMerge tab) s = .next t ∧ t.mem = s.mem ∧ t.tables = [y] ∧ y.merging = none ∧ e ∈ t.agenda ∧
        ∃ src n, e.act = .applyAdd pa (BitVec.ofNat 64 (bits h 312 256)) 0 0x30 src n) ∧
  (∀ (tab : Nat) (s : State) (x : Table), findTable s tab = some x → x.ok = true → x.merging ≠ none → (∃ w ∈ s.switches, w.tab = tab ∧ w.k ≠ .clear) →
    exec (.gradientMerge tab) s = .next { s with agenda := s.agenda ++ [⟨s.now + 1, .gradientMerge tab⟩] })

/-! ### Collectives (24) -/

/-- `wgl` and `wglk` hold one piece, `wglq` returns the status of the tag's most recent launch (24 R437, R446, R448); a tag operand above 12
bits is illegal, and a misaligned descriptor raises the access fault. -/
def Claims.WaggleInstructions : Prop :=
  (∀ (f : YA) (s : State) (a : Word), readS f.a s = .ok a → s.core.held.length < 128 →
    ((a + f.imm.signExtend 64).toNat % 128 = 0 → exec (.wgl f) s = .next (Claims.holding (.wgl (a + f.imm.signExtend 64)) s)) ∧
    ((a + f.imm.signExtend 64).toNat % 128 ≠ 0 → exec (.wgl f) s = .next (Claims.trapped 0x21 (a + f.imm.signExtend 64) s))) ∧
  (∀ (f : YA) (s : State) (b : Word), readS f.b s = .ok b →
    (b.toNat < 4096 → s.core.held.length < 128 → exec (.wglk f) s = .next (Claims.holding (.wglk b.toNat) s)) ∧
    (b.toNat < 4096 → ∃ t at_ v, exec (.wglq f) s = .next t ∧ s.now ≤ at_ ∧ t.core = s.core ∧
      t.ctx.ends = s.ctx.ends ++ [.produce ⟨s.nextId, .sreg (f.c.setWidth 5), some (BitVec.setWidth 256 v), s.now, false, false, true⟩] ∧
      t.agenda = s.agenda ++ [⟨at_, .variableLatencyResult s.core.id s.nextId⟩] ∧
      (s.colls = [] → s.wstat = [] → (v : Word) = 0x3000) ∧
      (∀ c, s.colls = [c] → c.tag = b.toNat → c.launch = SMap.get 0 s.wcount b.toNat →
        v.extractLsb' 12 4 = (0 : BitVec 4) ∧ v.extractLsb' 0 10 = BitVec.ofNat 10 c.pc ∧ v.extractLsb' 16 32 = BitVec.ofNat 32 c.nfin)) ∧
    (4096 ≤ b.toNat → exec (.wglk f) s = .next (Claims.trapped 0x01 s.ctx.syl s) ∧ exec (.wglq f) s = .next (Claims.trapped 0x01 s.ctx.syl s)))

/-- The engine takes its oldest launch, of a tag with none running (24 R438, R439): one whose descriptor, group and program pass begins a
collective with the tag's next launch number, which waits for the other ranks; one whose descriptor or group table is malformed is refused,
with an abort of that number to the group's modules, the status of a refusal and a report (the model's reading, log entries 84 and 85). When every rank's signature has matched, the
collective starts; a signature that differs aborts it on every rank, and so does a launch on a module that has left RUN (R446). -/
def Claims.WaggleLaunches : Prop :=
  (∀ (k : Nat) (s : State) (q : WglQ) (n : Nat) (b : Bool) (g : List (BitVec 17)) (ws : List Word) (is : List Instr), s.wglq = [q] → q.id = k → q.kill = none →
    engNat .rd s q.va 128 = .ok n → groupOf s n = .ok (b, g) → readProg s 1025 (bits n 56 0) = .ok ws → ws.mapM decodeStep = some is →
    progOk n is = true → ctrBufs is = none → cdDone n = 0 → s.colls = [] → s.waborts = [] → tagsFit s q.tser = true →
    (cdOk s n = true → b = true → s.host.lstate = 2 → ∃ t c, exec (.waggleLaunch k) s = .next t ∧ t.colls = [c] ∧ t.wglq = [] ∧ c.tag = bits n 75 64 ∧
      c.launch = SMap.get 0 s.wcount (bits n 75 64) + 1 ∧ c.group = g ∧ c.steps = is ∧ c.started = false ∧ c.pc = 0 ∧ t.mem = s.mem ∧
      ∃ d ∈ t.agenda, d.act = .signatureAgreement c.tag) ∧
    (cdOk s n = true → b = true → s.host.lstate ≠ 2 → ∃ t, exec (.waggleLaunch k) s = .next t ∧ t.wglq = [] ∧ t.mem = s.mem ∧
      ∃ d ∈ t.agenda, d.act = .waggleAbort (bits n 75 64) (SMap.get 0 s.wcount (bits n 75 64) + 1) false) ∧
    (cdOk s n = false ∨ b = false → ∃ t r, exec (.waggleLaunch k) s = .next t ∧ t.colls = [] ∧ t.wglq = [] ∧ tagStatus t (bits n 75 64) = 4 * 2 ^ 12 ∧
      t.mem = s.mem ∧ (∀ m ∈ g, m ≠ ownModule s → ∃ o ∈ t.gout, o.dst = m ∧
        o.body = .abort (bits n 75 64) (SMap.get 0 s.wcount (bits n 75 64) + 1) false) ∧
      (∃ d ∈ t.agenda, d.act = .faultReport r) ∧ r.code = 0x21 ∧ r.tser = q.tser ∧ r.async = true)) ∧
  (∀ (k : Nat) (s : State) (c : Coll), s.colls = [c] → c.tag = k → c.started = false → c.aborting = none →
    ((∀ x ∈ s.wsigs, x.1 = k → x.2.1 = c.launch → x.2.2.1 < c.ranks → x.2.2.2 = c.sigw) →
      ∃ t d, exec (.signatureAgreement k) s = .next t ∧ t.colls = [d] ∧ t.mem = s.mem ∧
        (d.started = true ↔ ∀ r < c.ranks, r ∈ c.agreed ∨ ∃ x ∈ s.wsigs, x.1 = k ∧ x.2.1 = c.launch ∧ x.2.2.1 = r)) ∧
    ((∃ x ∈ s.wsigs, x.1 = k ∧ x.2.1 = c.launch ∧ x.2.2.1 < c.ranks ∧ x.2.2.2 ≠ c.sigw) →
      ∃ t, exec (.signatureAgreement k) s = .next t ∧ ∃ d ∈ t.agenda, d.act = .waggleAbort k c.launch false))

/-- The collective in whose turn a step executes: it has started and is not aborting. -/
def Claims.turnOf (s : State) (c : Coll) : Prop := s.colls = [c] ∧ s.wcur = c.tag ∧ c.started = true ∧ c.aborting = none

/-- Control steps (24 R440, R443): `wloop` enters its body with index 0, `wendl` goes back while iterations are left, `wsig` adds to SIG,
`wwait` goes on once its counter has met the threshold and aborts on fault flags whatever the threshold (the model's reading, log entry 83), `wflags` once every rank's flags have come, with their OR, and `wend` ends the
collective as complete, with the amount and the flags in DONE when it has one. -/
def Claims.WaggleControl : Prop :=
  (∀ (s : State) (c : Coll) (n : BitVec 32), Claims.turnOf s c → ∃ t d, exec (.wloop n) s = .next t ∧ t.colls = [d] ∧ d.pc = c.pc + 1 ∧
    d.loops = (c.pc + 1, n.toNat, 0) :: c.loops ∧ t.mem = s.mem) ∧
  (∀ (s : State) (c : Coll) (a n i : Nat) (rest : List (Nat × Nat × Nat)), Claims.turnOf s c → c.loops = (a, n, i) :: rest →
    ∃ t d, exec .wendl s = .next t ∧ t.colls = [d] ∧ t.mem = s.mem ∧ (n ≤ 1 → d.pc = c.pc + 1 ∧ d.loops = rest) ∧
      (1 < n → d.pc = a ∧ d.loops = (a, n - 1, i + 1) :: rest)) ∧
  (∀ (s : State) (c : Coll) (n : BitVec 20) (pa : Nat), Claims.turnOf s c → c.sig = some pa → lineReady s (pa / 64) false none = .ok →
    addRefused s pa n.toNat = false → Memory.wf s = true → s.waiters = [] →
      ∃ t d, exec (.wsig n) s = .next t ∧ t.colls = [d] ∧ d.pc = c.pc + 1 ∧ ctrValue t pa = ctrValue s pa + n.toNat) ∧
  (∀ (s : State) (c : Coll) (n : BitVec 48) (f tt : Nat), Claims.turnOf s c → c.sent = true → c.woken = some (f, tt) →
    (bits f 7 3 = 0 → ∃ t d, exec (.wwait n) s = .next t ∧ t.colls = [d] ∧ d.pc = c.pc + 1 ∧ d.t = max c.t tt ∧ t.mem = s.mem) ∧
    (bits f 7 3 ≠ 0 → ∃ t, exec (.wwait n) s = .next t ∧ ∃ d ∈ t.agenda, d.act = .waggleAbort c.tag c.launch false)) ∧
  (∀ (s : State) (c : Coll) (n : BitVec 48) (pa : Nat), Claims.turnOf s c → c.sent = false → c.wait = some pa → poisoned s (pa / 64) = false →
    ctrMet s pa n.toNat true = false → ∃ t d, exec (.wwait n) s = .next t ∧ t.colls = [d] ∧ d.pc = c.pc ∧ d.sent = true ∧ d.woken = none ∧
      t.waiters = s.waiters ++ [⟨pa, n.toNat, true, .wag c.tag c.launch⟩]) ∧
  (∀ (s : State) (c : Coll) (vs : List Word), Claims.turnOf s c → c.sent = true → valsOf c 1 = some vs →
    ∃ t d, exec .wflags s = .next t ∧ t.colls = [d] ∧ d.pc = c.pc + 1 ∧ t.mem = s.mem ∧
      ∀ i < 32, d.lf.getLsbD i = vs.any fun v => v.getLsbD i) ∧
  (∀ (s : State) (c : Coll), Claims.turnOf s c → c.done = none → SMap.get 0 s.wcount c.tag = c.launch →
    ∃ t, exec .wend s = .next t ∧ t.colls = [] ∧ t.mem = s.mem ∧ tagStatus t c.tag = collStatus c 1) ∧
  (∀ (s : State) (c : Coll) (pa : Nat), Claims.turnOf s c → c.done = some pa → SMap.get 0 s.wcount c.tag = c.launch →
    lineReady s (pa / 64) false none = .ok → addRefused s pa (c.d 306 288) = false → Memory.wf s = true → s.waiters = [] →
    ∃ t, exec .wend s = .next t ∧ t.colls = [] ∧ tagStatus t c.tag = collStatus c 1 ∧ ctrValue t pa = ctrValue s pa + c.d 306 288 ∧
      ctrFlags t pa = ctrFlags s pa ||| flagMask c.lf.toNat)

/-- Data steps (24 R443, R444). `wsend` with its chunk read sends it to its peer, and goes on once it has landed there; `wrecv` takes the
next chunk of its peer, as much of it as the buffer's chunk takes (the model's choice, log entry 88), and writes it where every line of it can
be written, and else aborts; `wcopy` reads the lines of a chunk and then writes them (the model's choice, log entry 140), where they stood as the chunk was begun (entry
89), and goes on once all are written, while its reserved form goes on at once; `wagree` writes the largest of the ranks' values and goes on; `wrrs` combines the
contributions of a chunk that this rank owns, none of them spilled, in rank order, from the prefix that switches have combined on where one
has come (R445), sends the result to every other rank under `all`, and goes on once it has written every chunk it owes. -/
def Claims.WaggleData : Prop :=
  (∀ (f : WP) (s : State) (c : Coll), Claims.turnOf s c →
    (c.sent = false → c.reading = true → c.want = [] → ∃ t d bs, exec (.wsend f) s = .next t ∧ t.colls = [d] ∧ d.sent = true ∧ d.pc = c.pc ∧
      t.mem = s.mem ∧ (∃ g ∈ t.gout, g.dst = c.moduleOf (peerOf c f) ∧ g.body = .chunk ⟨.send, c.tag, c.launch, c.rank,
        SMap.get 0 c.sends (peerOf c f) + 1, chunkOf c f, bs⟩) ∧
      bs = (spansOf (chunkVa c f.buf.toNat (chunkOf c f)) (chunkLen c f.buf.toNat (chunkOf c f))).flatMap fun p =>
        ((c.got.find? fun g => g.1 == p.1).map (·.2)).getD []) ∧
    (c.sent = true → c.landed.contains (peerOf c f, SMap.get 0 c.sends (peerOf c f)) = true →
      ∃ t d, exec (.wsend f) s = .next t ∧ t.colls = [d] ∧ d.pc = c.pc + 1 ∧ t.mem = s.mem)) ∧
  (∀ (f : WP) (s : State) (c : Coll), Claims.turnOf s c →
    (∀ m, c.writing = false → (c.held.find? fun m => m.kind == .send && m.rank == peerOf c f && m.inst == SMap.get 0 c.recvs (peerOf c f) + 1) = some m →
      (placed s (chunkVa c f.buf.toNat (chunkOf c f)) (m.data.take (chunkLen c f.buf.toNat (chunkOf c f))).length = .ok () →
        ∃ t d, exec (.wrecv f) s = .next t ∧ t.colls = [d] ∧ d.writing = true ∧ d.pc = c.pc ∧ t.mem = s.mem ∧
          (d.out.flatMap (·.2)) = m.data.take (chunkLen c f.buf.toNat (chunkOf c f))) ∧
      (∀ va, placed s (chunkVa c f.buf.toNat (chunkOf c f)) (m.data.take (chunkLen c f.buf.toNat (chunkOf c f))).length = .error (.trans va) →
        ∃ t, exec (.wrecv f) s = .next t ∧ t.mem = s.mem ∧ ∃ d ∈ t.agenda, d.act = .waggleAbort c.tag c.launch false)) ∧
    (c.writing = true → c.out = [] → ∃ t d, exec (.wrecv f) s = .next t ∧ t.colls = [d] ∧ d.pc = c.pc + 1 ∧ t.mem = s.mem)) ∧
  (∀ (f : WC) (s : State) (c : Coll), Claims.turnOf s c → f.low ≠ 0 ∨ (c.reading = true ∧ c.want = [] ∧ c.out = []) →
    ∃ t d, exec (.wcopy f) s = .next t ∧ t.colls = [d] ∧ d.pc = c.pc + 1 ∧ t.mem = s.mem) ∧
  (∀ (f : WC) (s : State) (c : Coll) (a m : Nat) (bs : List Byte), Claims.turnOf s c → f.low = 0 → c.reading = true → c.want = [(a, m)] →
    c.out = [] → engBytes .rd s a m = .ok bs →
    placed (engTake [(a, m)] c.t { s with free := s.free + 1 }).2
      (cdBva c.n f.dst.toNat + cdChunk c.n * copyChunk c f (cdBva c.n f.dst.toNat + (a - cdBva c.n f.src.toNat)))
      (min (cdChunk c.n) (copyLen c f - cdChunk c.n * copyChunk c f (cdBva c.n f.dst.toNat + (a - cdBva c.n f.src.toNat)))) = .ok () →
      ∃ t d, exec (.wcopy f) s = .next t ∧ t.colls = [d] ∧ d.want = [] ∧ d.pc = c.pc ∧ t.mem = s.mem ∧
        d.out = (c.got ++ [(cdBva c.n f.dst.toNat + (a - cdBva c.n f.src.toNat), bs)]).filter fun q =>
          copyChunk c f q.1 == copyChunk c f (cdBva c.n f.dst.toNat + (a - cdBva c.n f.src.toNat))) ∧
  (∀ (f : WC) (s : State) (c : Coll) (a qa : Nat) (bs : List Byte), Claims.turnOf s c → f.low = 0 → c.reading = true → c.want = [] →
    c.out = [(a, bs)] → bs ≠ [] → a % 64 + bs.length ≤ 64 → c.spot s a = .ok qa → lineReady s (qa / 64) (bs.length == 64) none = .ok →
    Memory.wf s = true → ∃ t d, exec (.wcopy f) s = .next t ∧ t.colls = [d] ∧ d.out = [] ∧ d.pc = c.pc ∧
      ∀ x, rdByte t x = if qa ≤ x ∧ x < qa + bs.length then bs.getD (x - qa) 0 else rdByte s x) ∧
  (∀ (b : BitVec 2) (off : BitVec 32) (s : State) (c : Coll) (vs : List Word) (pa : Nat), Claims.turnOf s c → c.sent = true →
    valsOf c 0 = some vs → vs ≠ [] → (cdBva c.n b.toNat + off.toNat) % 64 + 8 ≤ 64 →
    engXlate s .wr (cdBva c.n b.toNat + off.toNat) = .ok pa → lineReady s (pa / 64) false none = .ok → Memory.wf s = true →
      ∃ t d v, exec (.wagree b off) s = .next t ∧ t.colls = [d] ∧ d.pc = c.pc + 1 ∧ v ∈ vs ∧ (∀ u ∈ vs, u.toInt ≤ v.toInt) ∧
        rdN t pa 8 = v.toNat ∧ d.ae = max (-128) (min 127 v.toInt)) ∧
  (∀ (f : WR) (s : State) (c : Coll), Claims.turnOf s c → c.sent = true → c.writing = false → c.todo = [] →
    (c.owed = [] → ∃ t d, exec (.wrrs f) s = .next t ∧ t.colls = [d] ∧ d.pc = c.pc + 1 ∧ t.mem = s.mem) ∧
    (∀ i rest own, c.owed = i :: rest → c.reading = true → c.cur = i → c.want = [] → ownerOf c f i = c.rank →
      (∀ e ∈ c.spilled, e.2.2.inst = c.inst → e.2.2.chunk ≠ i) →
      own = ((spansOf (chunkVa c f.buf.toNat i) (chunkLen c f.buf.toNat i)).flatMap fun p =>
        ((c.got.find? fun g => g.1 == p.1).map (·.2)).getD []) →
      placed s (chunkVa c f.dst.toNat i) (ownFinal c i own).1.length = .ok () → ∃ t d, exec (.wrrs f) s = .next t ∧ t.colls = [d] ∧
        d.writing = true ∧ t.mem = s.mem ∧ (d.out.flatMap (·.2)) = (ownFinal c i own).1 ∧
        (f.mode = 1 → ∀ r < c.group.length, r ≠ c.rank → ∃ g ∈ t.gout, g.dst = c.moduleOf r ∧
          g.body = .chunk ⟨.final, c.tag, c.launch, c.rank, c.inst, i, d.out.flatMap (·.2)⟩))) ∧
  (∀ (c : Coll) (i : Nat) (own : List Byte),
    ((∀ m ∈ c.held, isPart c.inst i m = true → m.kind = .contrib) → ownFinal c i own =
      combineChunk c ((List.range c.ranks).map fun r => if r = c.rank then own else (contribOf c i r).getD [])) ∧
    (∀ (m : ChunkMsg) (acc : List XV) (fl : Flags) (rest : List ChunkMsg), c.held.filter (isPart c.inst i) = m :: rest →
      m.kind = .combined acc fl → (∀ x ∈ rest, x.kind = .contrib) → (ownFinal c i own).1 =
        (combineFrom c acc (((List.range c.ranks).drop (m.rank + 1)).map fun r => if r = c.rank then own else (contribOf c i r).getD [])).1))

/-- A collective with a message in hand, in place of an earlier copy of it, held or spilled. -/
def Claims.taken (c : Coll) (m : ChunkMsg) : Coll :=
  let other (x : ChunkMsg) : Bool := x.kind != m.kind || x.rank != m.rank || x.inst != m.inst || (m.kind != .send && x.chunk != m.chunk)
  { c with held := c.held.filter other ++ [m], spilled := c.spilled.filter fun e => other e.2.2 }

/-- Arrivals, lost slots and aborts (24 R443, R445, R446): a chunk of a running launch is held where the engine's SRAM has the room, or dropped where this rank has no use for it any more; one of a
launch to come is kept, one of a launch that has ended is dropped; a sent chunk's landing is answered; a lost contribution is sent again,
and the owner drops those that it holds; an abort ends a collective with status ABT, after a chunk in writing and the chunks of a copy that it
has begun to write, and ORs 0x40, or 0x60 on poison, into DONE. -/
def Claims.WaggleArrivals : Prop :=
  (∀ (s : State) (m : ChunkMsg) (c : Coll), s.colls = [c] → c.tag = m.tag → c.launch = m.launch →
    (c.started = true → c.past m = true → exec (.chunkArrival m) s = .next s) ∧
    (c.started = true → c.past m = false → engineUnits { s with colls := [Claims.taken c m] } (c.tag % 4) ≤ slotRoom → m.kind ≠ .send →
      exec (.chunkArrival m) s = .next { s with colls := [Claims.taken c m] }) ∧
    (c.started = true → c.past m = false → engineUnits { s with colls := [Claims.taken c m] } (c.tag % 4) ≤ slotRoom → m.kind = .send →
      ∃ t g, exec (.chunkArrival m) s = .next t ∧ t.colls = [Claims.taken c m] ∧ t.mem = s.mem ∧ t.gout = s.gout ++ [g] ∧
      g.dst = c.moduleOf m.rank ∧ g.body = .sent c.tag c.launch c.rank m.inst) ∧
    (c.started = false → exec (.chunkArrival m) s = .next { s with wchunks := s.wchunks ++ [m] })) ∧
  (∀ (s : State) (m : ChunkMsg), s.colls = [] → exec (.chunkArrival m) s =
    .next (if s.host.lstate ≠ 2 ∨ SMap.get 0 s.wcount m.tag < m.launch then { s with wchunks := s.wchunks ++ [m] } else s)) ∧
  (∀ (k inst chunk : Nat) (s : State) (c : Coll) (f : WR) (bs : List Byte), s.colls = [c] → c.tag = k → c.started = true →
    c.aborting = none → (c.rs.find? fun e => e.1 == inst) = some (inst, f) → ownerOf c f chunk ≠ c.rank → f.mode ≠ 1 →
    engBytes .rd s (chunkVa c f.buf.toNat chunk) (chunkLen c f.buf.toNat chunk) = .ok bs →
      ∃ t g, exec (.switchSlotLoss k inst chunk) s = .next t ∧ t.gout = s.gout ++ [g] ∧ g.dst = c.moduleOf (ownerOf c f chunk) ∧
        g.body = .chunk ⟨.contrib, c.tag, c.launch, c.rank, inst, chunk, bs⟩ ∧ t.mem = s.mem) ∧
  (∀ (k inst chunk : Nat) (s : State) (c : Coll) (f : WR), s.colls = [c] → c.tag = k → c.started = true →
    c.aborting = none → (c.rs.find? fun e => e.1 == inst) = some (inst, f) → ownerOf c f chunk = c.rank → c.inst = inst →
    chunk ∈ c.owed → c.writing = false →
      ∃ t d, exec (.switchSlotLoss k inst chunk) s = .next t ∧ t.colls = [d] ∧ t.mem = s.mem ∧ d.pc = c.pc ∧ d.owed = c.owed ∧
        d.held = (c.held.filter fun m => !isPart inst chunk m) ∧ d.spilled = c.spilled.filter fun e => !isPart inst chunk e.2.2) ∧
  (∀ (tag launch : Nat) (p : Bool) (s : State) (c : Coll), s.colls = [c] → c.tag = tag → c.launch = launch → c.aborting = none →
    (c.finishing.writing = false → SMap.get 0 s.wcount tag = launch → ∃ t, exec (.waggleAbort tag launch p) s = .next t ∧ t.colls = [] ∧
      t.mem = s.mem ∧ tagStatus t tag = collStatus c 2 ∧
      ∀ pa, c.done = some pa → ∃ d ∈ t.agenda, d.act = .applyAdd pa (BitVec.ofNat 64 (cdDone c.n)) 0 (if p then 0x60 else 0x40) (.task c.tser) c.t) ∧
    (c.finishing.writing = true → ∃ t, exec (.waggleAbort tag launch p) s = .next t ∧
      t.colls = [{ c.finishing with aborting := some (if p then 0x60 else 0x40) }] ∧ t.mem = s.mem) ∧
    (c.copying = none → c.finishing = c) ∧
    (∀ f, c.copying = some f → c.finishing.writing = !c.finishing.out.isEmpty ∧ ∀ x, x ∈ c.finishing.out ↔ x ∈ c.out ∧
      (c.out.filter fun y => copyChunk c f y.1 == copyChunk c f x.1).length < copyLines c f (copyChunk c f x.1)))

/-! ### Fabric and pools (23; 11 R256, R261) -/

/-- A message (23 R428, R429) is applied once and acknowledged: a duplicate changes nothing but the acknowledgement; an acknowledgement
removes its message; a remote write of a member's piece into HBM writes its bytes and answers; a piece for a module that does not run a
job is refused with cause 4. -/
def Claims.FabricMessages : Prop :=
  (∀ (m : GMsg) (s : State), (m.src, m.seq) ∈ s.gseen → exec (.glodricMessage m) s = .next { s with gacks := (m.src, m.seq) :: s.gacks }) ∧
  (∀ (m : GMsg) (n : Nat) (s : State), (m.src, m.seq) ∉ s.gseen → m.body = .ack n →
    exec (.glodricMessage m) s = .next { s with gout := s.gout.filter fun o => !(o.dst == m.src && o.seq == n) }) ∧
  (∀ (m : GMsg) (op k : Nat) (va : Word) (bs : List Byte) (s : State), (m.src, m.seq) ∉ s.gseen → m.body = .write op k va bs →
    m.src ≠ s.host.modid →
    (∀ pa, serves s m.src = true → engXlate s .wr va.toNat = .ok pa → isPool pa = false → lineReady s (pa / 64) (bs.length == 64) none = .ok →
      Memory.wf s = true → ∃ t g, exec (.glodricMessage m) s = .next t ∧
        (∀ a, rdByte t a = if pa ≤ a ∧ a < pa + bs.length then bs.getD (a - pa) 0 else rdByte s a) ∧
        t.gseen = s.gseen ++ [(m.src, m.seq)] ∧ t.gacks = (m.src, m.seq) :: s.gacks ∧ t.gout = s.gout ++ [g] ∧ g.dst = m.src ∧
        g.body = .done op k) ∧
    (serves s m.src = false → ∃ t g, exec (.glodricMessage m) s = .next t ∧ t.mem = s.mem ∧ t.gseen = s.gseen ++ [(m.src, m.seq)] ∧
      t.gout = s.gout ++ [g] ∧ g.dst = m.src ∧ g.body = .fail op k 4 va)) ∧
  (∀ (m : GMsg) (op k n : Nat) (va : Word) (pa : Nat) (s : State), (m.src, m.seq) ∉ s.gseen → m.body = .read op k va n →
    m.src ≠ s.host.modid → serves s m.src = true → engXlate s .rd va.toNat = .ok pa → isPool pa = false → engServes s (pa / 64) = .ok () →
      ∃ t g, exec (.glodricMessage m) s = .next t ∧ t.mem = s.mem ∧ t.gout = s.gout ++ [g] ∧ g.dst = m.src ∧ g.body = .data op k (rdBytes s pa n))

/-- A port that leaves service (23 R428) is recorded, and its unacknowledged messages move to the remaining ports of their destination;
after 1 ms with no port to a module, the copies that wait for it stop with cause 2; the domain table is written only while no job runs, and
with one to four of the 48 ports in each route (R425, R427); a withdrawn die link is recorded, and stops the job when some pair of dies has
both of its paths broken (11 R261): of a pair in one row or column these are one line, so that every withdrawal stops it (the model's reading,
log entry 98). -/
def Claims.FabricPorts : Prop :=
  (∀ (p : Nat) (s : State), p < 48 → p ∉ s.gdown → ∃ t, exec (.glodricPortWithdrawn p) s = .next t ∧ t.gdown = s.gdown ++ [p] ∧ t.mem = s.mem ∧
    t.gout.length = s.gout.length ∧ (∀ o ∈ t.gout, o.port = p → portsTo t o.dst = []) ∧
    ∃ e ∈ SMap.get [] t.ctl.recorders (256 + p / 12), e.code = 1 ∧ e.info = BitVec.ofNat 64 (0x20000 + p)) ∧
  (∀ (m : BitVec 17) (s : State) (o : Cop), m ≠ s.host.modid → portsTo s m = [] → s.copies = [o] → waitsFor m o = true → o.sw = none →
    o.ctr = none → o.l.rc = false → s.colls = [] → ∃ t, exec (.destinationTimeout m) s = .next t ∧ t.copies = [] ∧ t.mem = s.mem ∧
      ∀ e ∈ s.stats, e.op = some o.id → { e with st := 2, cause := 2, op := none } ∈ t.stats) ∧
  (∀ (m : BitVec 17) (s : State), portsTo s m ≠ [] → exec (.destinationTimeout m) s = .next s) ∧
  (∀ (d : DomainTable) (s : State), (s.host.lstate = 1 ∨ s.host.lstate = 2 ∨ routesOk d = false → exec (.domainTableWrite d) s = .next s) ∧
    (s.host.lstate ≠ 1 → s.host.lstate ≠ 2 → d.members ≠ [] → d.members.length ≤ 1024 → d.self < d.members.length →
      routesOk d = true → ∃ t, exec (.domainTableWrite d) s = .next t ∧ t.dom = d ∧ d.members[d.self]?.map (·.1) = some t.host.modid ∧ t.mem = s.mem ∧ t.core = s.core)) ∧
  (∀ (k : Nat) (s : State), k < 480 → k ∉ s.ctl.linksDown →
    ∃ t, exec (.linkWithdrawn k) s = .next t ∧ t.ctl.linksDown = s.ctl.linksDown ++ [k] ∧
      (s.host.lstate = 1 ∨ s.host.lstate = 2 → t.host.lstate = 4) ∧
      (s.host.lstate ≠ 1 → s.host.lstate ≠ 2 → t.host.lstate = s.host.lstate ∧ t.mem = s.mem)) ∧
  (∀ (down : List Nat) (x1 y1 x2 y2 : Nat), (x1 = x2 ∨ y1 = y2) → (pairBroken down x1 y1 x2 y2 = true ↔
    ∃ l ∈ down, (l < 240 ∧ l / 15 = y1 ∧ min x1 x2 ≤ l % 15 ∧ l % 15 < max x1 x2) ∨
      (240 ≤ l ∧ (l - 240) / 15 = x2 ∧ min y1 y2 ≤ (l - 240) % 15 ∧ (l - 240) % 15 < max y1 y2)))

/-- Completions at a pool (23 R431): a MemRd brings the bytes of a line that its home has not, Exclusive when it asked for ownership, or when
the line was Invalid and the pool offers it, else Shared; a MemInv makes a Shared line Exclusive; a MemWr of an eviction leaves the line
Invalid once its leases are past, else Shared without its data. -/
def Claims.PoolCompletions : Prop :=
  (∀ (line : Nat) (own excl : Bool) (v : Vec) (s : State), s.ptx = [.rd line own] → (dirOf s line).psn = false →
    (dirOf s line).pst = 0 ∨ (dirOf s line).gone = true → Memory.wf s = true → ∃ t, exec (.memrdCompletion line (.data excl v)) s = .next t ∧
      (∀ tx, tx ∈ t.ptx → tx ≠ .rd line own) ∧ (∀ k < 64, rdByte t (64 * line + k) = vecByte v k) ∧
      (∀ a, a < 64 * line ∨ 64 * line + 64 ≤ a → rdByte t a = rdByte s a) ∧
      (dirOf t line).pst = (if own || (excl && (dirOf s line).pst == 0) then 2 else 1) ∧ (dirOf t line).gone = false) ∧
  (∀ (line : Nat) (s : State), .inv line ∈ s.ptx → (dirOf s line).pst = 1 → ∃ t, exec (.meminvCompletion line) s = .next t ∧
    .inv line ∉ t.ptx ∧ (dirOf t line).pst = 2 ∧ t.mem = s.mem) ∧
  (∀ (line : Nat) (s : State), s.ptx = [.wr line .evict] → ∃ t, exec (.memwrCompletion line false) s = .next t ∧ t.ptx = [] ∧ t.mem = s.mem ∧
    ((dirOf s line).rts ≤ hcOf s (homeOf line) → (dirOf t line).pst = 0) ∧
    (hcOf s (homeOf line) < (dirOf s line).rts → (dirOf t line).pst = 1 ∧ (dirOf t line).gone = true))

/-- Snoops of a line that is neither pinned nor reserved (23 R431, R432): BISnpInv of a clean line leaves it Invalid with its leases
bumped, BISnpData leaves it Shared, BISnpCur leaves its state; each answers. A dirty line is written back first, in state O meanwhile (the
model's reading, log entry 94); a BISnpInv that meets a write-back waits for it, and then bumps the leases although the line is Invalid. A pinned line's snoop waits; 16 µs after its arrival the
pinned region re-executes. -/
def Claims.PoolSnoops : Prop :=
  (∀ (line : Nat) (s : State), isPool (64 * line) = true → (dirOf s line).resv = none → (dirOf s line).pin = none →
    ((dirOf s line).pst = 1 ∨ (dirOf s line).pst = 2 →
      (∃ t, exec (.bisnpinv line) s = .next t ∧ (dirOf t line).pst = 0 ∧ (dirOf t line).wts = (dirOf s line).rts + 1 ∧
        t.birsp = (line, 0) :: s.birsp ∧ t.mem = s.mem) ∧
      (∃ t, exec (.bisnpdata line) s = .next t ∧ (dirOf t line).pst = 1 ∧ (dirOf t line).wts = (dirOf s line).wts ∧
        t.birsp = (line, 1) :: s.birsp ∧ t.mem = s.mem) ∧
      (∃ t, exec (.bisnpcur line) s = .next t ∧ (dirOf t line).pst = (dirOf s line).pst ∧
        t.birsp = (line, (dirOf s line).pst) :: s.birsp ∧ t.mem = s.mem)) ∧
    ((dirOf s line).pst = 4 → ∃ t, exec (.bisnpinv line) s = .next t ∧ (dirOf t line).pst = 3 ∧ .wr line .snoopInv ∈ t.ptx ∧ t.mem = s.mem) ∧
    ((dirOf s line).pst = 3 → ∃ t w, exec (.bisnpinv line) s = .next t ∧ dirOf t line = dirOf s line ∧ t.birsp = s.birsp ∧ w ∈ t.snoops ∧
      w.line = line ∧ w.kind = 0 ∧ w.owned = true ∧ t.mem = s.mem ∧ ∃ d ∈ t.agenda, d.act = .bisnpinv line ∧ d.at_ = s.now + 1) ∧
    (∀ w, (dirOf s line).pst = 0 → s.snoops = [w] → w.line = line → w.kind = 0 → ∃ t, exec (.bisnpinv line) s = .next t ∧
      (dirOf t line).pst = 0 ∧ t.birsp = (line, 0) :: s.birsp ∧ t.snoops = [] ∧ t.mem = s.mem ∧
      (dirOf t line).wts = (if w.owned then (dirOf s line).rts + 1 else (dirOf s line).wts))) ∧
  (∀ (line : Nat) (s : State) (c : CoreId), isPool (64 * line) = true → (dirOf s line).resv = none → (dirOf s line).pin = some c →
    (∀ d ∈ s.agenda, d.act ≠ .snoopPinTimeout line) → ∃ t, exec (.bisnpinv line) s = .next t ∧ t.mem = s.mem ∧ dirOf t line = dirOf s line ∧
      (∃ d ∈ t.agenda, d.act = .bisnpinv line ∧ d.at_ = s.now + 1) ∧
      (s.snoops = [] → ∃ d ∈ t.agenda, d.act = .snoopPinTimeout line ∧ d.at_ = s.now + 24000) ∧
      (∀ w, s.snoops = [w] → w.line = line → w.kind = 0 → ∃ d ∈ t.agenda, d.act = .snoopPinTimeout line ∧ d.at_ = w.since + 24000)) ∧
  (∀ (line : Nat) (s : State), (dirOf s line).resv = none → (dirOf s line).pin = some s.core.id →
    (∃ w ∈ s.snoops, w.line = line ∧ w.since + 24000 ≤ s.now) → s.core.commit = none →
      ∃ t, exec (.snoopPinTimeout line) s = .next t ∧ t.core.held = [] ∧ t.core.st.a.pc = resumePc s.core.st ∧ (dirOf t line).pin = none)

/-- A line of the window of pool port p (23 R430). -/
def Claims.onPort (p l : Nat) : Bool := isPool (64 * l) && poolPort (64 * l) == p

/-- Poison (23 R433; 11 R256): a line's PSN with event 0x0004; a comb die's SRAM error records event 0x0003 and stops the job. The poison of a line that a commit has reserved, and what waits for a poisoned line, comes a clock later
(the model's choice, log entries 95 and 5). A port that leaves service makes every line of its window Invalid with a lease bump, poisons those
in M or O and ends their write-backs, and changes no other line; a commit that writes there and has no time yet has the poison fault (the
model's reading of when, log entry 158). Its return lets its window be read. -/
def Claims.PoolFailures : Prop :=
  (∀ (line : Nat) (s : State), (dirOf s line).psn = false → (dirOf s line).resv = none → s.waiters = [] → s.closes = [] → s.tmq = [] →
    ∃ t e, exec (.linePoisoned line) s = .next t ∧ (dirOf t line).psn = true ∧ t.mem = s.mem ∧
      e ∈ SMap.get [] t.ctl.recorders (128 + homeOf line) ∧ e.code = 4 ∧ e.info = BitVec.ofNat 64 (64 * line) ∧ e.sev = 2) ∧
  (∀ (line : Nat) (s : State) (c : CoreId), (dirOf s line).resv = some c → exec (.linePoisoned line) s =
    .next { s with agenda := s.agenda ++ [⟨s.now + 1, .linePoisoned line⟩] }) ∧
  (∀ (home : Nat) (s : State), home < 128 → ∃ t, exec (.combSramError home) s = .next t ∧
    (s.host.lstate = 1 ∨ s.host.lstate = 2 → t.host.lstate = 4) ∧ ∃ e ∈ SMap.get [] t.ctl.recorders (128 + home), e.code = 3 ∧ e.sev = 3) ∧
  (∀ (p : Nat) (s : State), p < 8 → (∀ x, s.ports[p]? = some x → x.up = true) → (∀ c ∈ allCores s, c.commit = none) →
    (∀ l w, .wr l w ∈ s.ptx → Claims.onPort p l = true → w = .evict ∨ w = .full) → (s.dir.map (·.1)).Nodup → s.waiters = [] → s.closes = [] →
    s.tmq = [] → ∃ t, exec (.cxlPortDown p) s = .next t ∧ (∀ x, t.ports[p]? = some x → x.up = false) ∧ t.mem = s.mem ∧
      (∃ e ∈ SMap.get [] t.ctl.recorders (256 + p / 2), e.code = 1 ∧ e.info = BitVec.ofNat 64 (0x10000 + p)) ∧
      t.ptx = s.ptx.filter (fun x => !Claims.onPort p (txLine x)) ∧
      (∀ l, Claims.onPort p l = false → findKey t.dir l = findKey s.dir l) ∧
      (∀ l d, Claims.onPort p l = true → findKey s.dir l = some d → (dirOf t l).pst = 0 ∧ (dirOf t l).psn = (d.psn || d.pst == 3 || d.pst == 4) ∧
        (dirOf t l).wts = d.rts + 1 ∧ (dirOf t l).rts = d.rts + 1)) ∧
  (∀ (p : Nat) (s : State) (m : Commit) (l : Nat), p < 8 → (∀ x, s.ports[p]? = some x → x.up = true) → s.core.commit = some m → m.t = none →
    (∀ c ∈ s.others, c.commit = none) → l ∈ writeSet s.core → Claims.onPort p l = true → s.ptx = [] → s.waiters = [] → s.closes = [] →
    s.tmq = [] → ∃ t l', exec (.cxlPortDown p) s = .next t ∧ l' ∈ writeSet s.core ∧ Claims.onPort p l' = true ∧
      t.core = (takeTrap finishSaves ⟨0x22, BitVec.ofNat 64 (64 * l'), none⟩ s).core) ∧
  (∀ (p : Nat) (s : State), p < 8 → ∃ t, exec (.cxlPortReturnToService p) s = .next t ∧
    t = { s with ports := t.ports } ∧ (∀ x, t.ports[p]? = some x → x.up = true) ∧ ∀ q, q ≠ p → t.ports[q]? = s.ports[q]?)

/-! ### The host interface and the controller (15; 11 R267-R269; 12 R286) -/

/-- Inbound traffic (15 R340, R341; 12 R286) at an empty ordering point outside a warm reset: a write TLP to HBM that nothing refuses
writes its bytes; a BAR2 read returns the committed bytes; a counter add takes effect at CADDR. -/
def Claims.InboundTraffic : Prop :=
  (∀ (link : Nat) (off : BitVec 36) (bs : List Byte) (s : State), s.host.inq = [] → s.host.busyTil ≤ s.now → bs ≠ [] →
    tlpOk link (bar2Pa s off) bs.length = true → Memory.wf s = true →
    (dropCode s (bar2Pa s off) bs.length = none → (∀ l ∈ linesOf (bar2Pa s off) bs.length,
        lineReady s l (fullLine (bar2Pa s off) bs.length l) none = .ok) →
      ∃ t, exec (.inboundWrite link off bs) s = .next t ∧ t.host.inq = [] ∧
        ∀ a, rdByte t a = if bar2Pa s off ≤ a ∧ a < bar2Pa s off + bs.length then bs.getD (a - bar2Pa s off) 0 else rdByte s a) ∧
    (∀ c, dropCode s (bar2Pa s off) bs.length = some c → ∃ t, exec (.inboundWrite link off bs) s = .next t ∧ t.mem = s.mem ∧
      ∃ e ∈ SMap.get [] t.ctl.recorders 256, e.code = c ∧ e.info = BitVec.ofNat 64 (bar2Pa s off))) ∧
  (∀ (link : Nat) (off : BitVec 36) (n : Nat) (s : State), s.host.inq = [] → link < 4 → 1 ≤ n →
    paMapped (bar2Pa s off) = true → paMapped (bar2Pa s off + n - 1) = true → (∀ l ∈ linesOf (bar2Pa s off) n, engServes s l = .ok ()) →
      ∃ t, exec (.bar2Read link off n) s = .next t ∧ t.host.read = some (rdBytes s (bar2Pa s off) n) ∧ t.mem = s.mem) ∧
  (∀ (n fl : BitVec 32) (s : State), s.host.inq = [] → s.host.busyTil ≤ s.now → s.host.caddr.toNat % 16 = 0 →
    paMapped s.host.caddr.toNat = true → lineReady s (s.host.caddr.toNat / 64) false none = .ok → s.waiters = [] → Memory.wf s = true →
    addRefused s s.host.caddr.toNat n.toNat = false →
      ∃ t, exec (.hostCounterAdd n fl) s = .next t ∧ ctrValue t s.host.caddr.toNat = ctrValue s s.host.caddr.toNat + n.toNat ∧
        ctrFlags t s.host.caddr.toNat = ctrFlags s s.host.caddr.toNat ||| flagMask fl.toNat)

/-- Invalidations and page locks (11 R267-R269): every translation in the range leaves the micro-TLBs and the dies' caches, and a region
that used one is stale; the completion adds 1 to the named counter once no region is stale. A lock sets LOCK on the page's granules, an
unlock clears it; the lock is done once no commit has reserved a line of the page and no engine's write is out. Address bits
below the page size do not count (log entry 105), a completion's add has no task (106), and a region is stale by its recorded pages (111). -/
def Claims.Maintenance : Prop :=
  (∀ (d : BitVec 256) (s : State), d.extractLsb' 59 5 = (0 : BitVec 5) → d.extractLsb' 128 128 = (0 : BitVec 128) → d.extractLsb' 57 2 = (3 : BitVec 2) →
    ∃ t, exec (.invalidation d) s = .next t ∧ t.core.tlb = [] ∧ (∀ c ∈ t.others, c.tlb = []) ∧ t.dieTlb = [] ∧ t.mem = s.mem ∧
      (s.core.xlat ≠ [] → t.core.stale = true) ∧ t.core.st = s.core.st ∧
      ∃ e ∈ t.agenda, e.act = .invalidationDone (d.extractLsb' 64 64 : BitVec 64).toNat) ∧
  (∀ (d : BitVec 256) (s : State) (b va : Nat), d.extractLsb' 59 5 = (0 : BitVec 5) → d.extractLsb' 128 128 = (0 : BitVec 128) →
    d.extractLsb' 57 2 ≠ (3 : BitVec 2) → b = sizeBits (d.extractLsb' 57 2 : BitVec 2).toNat → va = (d.extractLsb' 0 57 : BitVec 57).toNat →
    ∃ t, exec (.invalidation d) s = .next t ∧ t.mem = s.mem ∧ ∀ e : Tlb,
      (e ∈ t.core.tlb ↔ e ∈ s.core.tlb ∧ ¬ (e.va < va / 2 ^ b * 2 ^ b + 2 ^ b ∧ va / 2 ^ b * 2 ^ b < e.va + 2 ^ e.bits))) ∧
  (∀ (ctr : Nat) (s : State) (v : Inval), s.invals = [v] → v.ctr = ctr → ctr % 16 = 0 → ctr ≠ 0 → paMapped ctr = true →
    ((∀ c ∈ allCores s, c.stale = false) → ∃ t u, exec (.invalidationDone ctr) s = .next t ∧ t.invals = [] ∧ t.mem = s.mem ∧
      t.agenda = s.agenda ++ [u] ∧ u.act = .applyAdd ctr (BitVec.ofNat 64 ctr) 1 0 .nobody 0) ∧
    ((∃ c ∈ allCores s, c.stale = true) → exec (.invalidationDone ctr) s =
      .next { s with agenda := s.agenda ++ [⟨s.now + 1, .invalidationDone ctr⟩] })) ∧
  (∀ (d : BitVec 128) (s : State) (b : Nat), d.extractLsb' 60 4 = (0 : BitVec 4) → d.extractLsb' 57 2 ≠ (3 : BitVec 2) →
    b = sizeBits (d.extractLsb' 57 2 : BitVec 2).toNat → SMap.wf false s.locks = true →
    (d.getLsbD 59 = false → ∃ t, exec (.pageLock d) s = .next t ∧ t.mem = s.mem ∧
      ∀ pa, locked t pa = (locked s pa || decide (pa / 2 ^ b = (d.extractLsb' 0 57 : BitVec 57).toNat / 2 ^ b))) ∧
    (d.getLsbD 59 = true → ∃ t, exec (.pageUnlock d) s = .next t ∧ t.mem = s.mem ∧
      ∀ pa, locked t pa = (locked s pa && !decide (pa / 2 ^ b = (d.extractLsb' 0 57 : BitVec 57).toNat / 2 ^ b)))) ∧
  (∀ (ctr : Nat) (s : State) (r : LockReq), s.lockreqs = [r] → r.ctr = ctr → ctr = 0 ∨ (ctr % 16 = 0 ∧ paMapped ctr = true) →
    (r.unlock = true ∨ pageReserved s r = false → ∃ t, exec (.lockDone ctr) s = .next t ∧ t.lockreqs = [] ∧ t.mem = s.mem ∧
      (ctr ≠ 0 → ∃ e ∈ t.agenda, e.act = .applyAdd ctr (BitVec.ofNat 64 ctr) 1 0 .nobody 0)) ∧
    (r.unlock = false → pageReserved s r = true → exec (.lockDone ctr) s = .next { s with agenda := s.agenda ++ [⟨s.now + 1, .lockDone ctr⟩] }))

/-- BAR0 writes (15 R338) and counter watches (R342): the listed registers take their fields, EVSTAT is write-one-to-clear, others ignore it; an enabled watch of a counter that is not met registers last, and one that is met signals its vector and clears WEN.
A write of its threshold registers an enabled watch anew, or signals at once (log entry 107), and changes the threshold alone otherwise. -/
def Claims.HostRegisters : Prop :=
  (∀ (w : Word) (s : State),
    exec (.registerWrite 0x20 w) s = .next { s with host := { s.host with apbase := w.extractLsb' 36 21 } } ∧
    exec (.registerWrite 0x30 w) s = .next { s with host := { s.host with evstat := s.host.evstat &&& ~~~(w.setWidth 5) } } ∧
    exec (.registerWrite 0x40 w) s = .next { s with host := { s.host with caddr := w.setWidth 57 } } ∧
    exec (.registerWrite 0x08 w) s = exec (.launch w) s ∧ (w.getLsbD 0 = true → exec (.registerWrite 0x18 w) s = exec .warmReset s) ∧
    (w.getLsbD 0 = false → exec (.registerWrite 0x18 w) s = .next s) ∧
    exec (.registerWrite 0x48 w) s = exec (.hostCounterAdd (w.extractLsb' 0 32) (w.extractLsb' 32 32)) s) ∧
  (∀ (off : BitVec 16) (w : Word) (s : State), off.toNat % 8 ≠ 0 ∨ off = 0 ∨ off = 0x10 ∨ off = 0x28 ∨ off = 0x38 ∨ 0x3180 ≤ off.toNat →
    exec (.registerWrite off w) s = .next s) ∧
  (∀ (i : Nat) (w : Word) (s : State), i < 16 → w.getLsbD 63 = true → (w.setWidth 57 : BitVec 57).toNat % 16 = 0 →
    paMapped (w.setWidth 57 : BitVec 57).toNat = true → poisoned s ((w.setWidth 57 : BitVec 57).toNat / 64) = false →
    (ctrMet s (w.setWidth 57 : BitVec 57).toNat (watchOf s i).thr.toNat true = false → ∃ t, exec (.counterWatch i w) s = .next t ∧
      t.waiters = s.waiters.filter (fun x => x.who != .watch i) ++ [⟨(w.setWidth 57 : BitVec 57).toNat, (watchOf s i).thr.toNat, true, .watch i⟩] ∧
      (watchOf t i).en = true ∧ (watchOf t i).addr = w.setWidth 57 ∧ t.mem = s.mem) ∧
    (ctrMet s (w.setWidth 57 : BitVec 57).toNat (watchOf s i).thr.toNat true = true → ∃ t, exec (.counterWatch i w) s = .next t ∧
      (watchOf t i).en = false ∧ t.mem = s.mem ∧ (8 + i ∈ t.host.signalled ∨ t.host.pba.getLsbD (8 + i) = true))) ∧
  (∀ (i : Nat) (w : Word) (s : State), i < 16 →
    exec (.registerWrite (BitVec.ofNat 16 (0x2000 + 16 * i)) w) s = exec (.counterWatch i w) s ∧
    ((watchOf s i).en = false → ∃ t, exec (.registerWrite (BitVec.ofNat 16 (0x2008 + 16 * i)) w) s = .next t ∧
      watchOf t i = { watchOf s i with thr := w } ∧ t.waiters = s.waiters.filter (fun x => x.who != .watch i) ∧ t.mem = s.mem) ∧
    ((watchOf s i).en = true → (watchOf s i).addr.toNat % 16 = 0 → paMapped (watchOf s i).addr.toNat = true →
      poisoned s ((watchOf s i).addr.toNat / 64) = false →
      (ctrMet s (watchOf s i).addr.toNat w.toNat true = false → ∃ t,
        exec (.registerWrite (BitVec.ofNat 16 (0x2008 + 16 * i)) w) s = .next t ∧ watchOf t i = { watchOf s i with thr := w } ∧
        t.waiters = s.waiters.filter (fun x => x.who != .watch i) ++ [⟨(watchOf s i).addr.toNat, w.toNat, true, .watch i⟩] ∧ t.mem = s.mem) ∧
      (ctrMet s (watchOf s i).addr.toNat w.toNat true = true → ∃ t,
        exec (.registerWrite (BitVec.ofNat 16 (0x2008 + 16 * i)) w) s = .next t ∧ watchOf t i = { watchOf s i with thr := w, en := false } ∧
        t.mem = s.mem ∧ (8 + i ∈ t.host.signalled ∨ t.host.pba.getLsbD (8 + i) = true))))

/-- The configuration space (15 R337, R344): the control function has BAR0, BAR2, MSI-X and the vendor capability, the data functions BAR2
alone, a 64-bit prefetchable window of 64 GiB, with the same codes and serial number. The walk from 0x100 finds the vendor capability of the
control function alone; its entries begin at offset + 12, and NEXT leads from the identity to the two maps. The order and the field places
that the spec does not give are the model's (log entry 143). -/
def Claims.ConfigurationSpace : Prop :=
  (∀ k : Nat, (configSpace k).header = 0 ∧ (configSpace k).vendor = (configSpace 0).vendor ∧ (configSpace k).device = (configSpace 0).device ∧
    (configSpace k).cls = (configSpace 0).cls ∧ ⟨2, true, true, 2 ^ 36⟩ ∈ (configSpace k).bars ∧
    (k ≠ 0 → (configSpace k).bars = [⟨2, true, true, 2 ^ 36⟩]) ∧ (k = 0 → (configSpace k).bars = [⟨0, true, false, 2 ^ 16⟩, ⟨2, true, true, 2 ^ 36⟩]) ∧ (.msix ∈ (configSpace k).caps ↔ k = 0) ∧ (.vendor ∈ (configSpace k).caps ↔ k = 0) ∧
    .pciExpress ∈ (configSpace k).caps ∧ .power ∈ (configSpace k).caps ∧ .advancedErrors ∈ (configSpace k).caps ∧
    .serial Config.serial ∈ (configSpace k).caps) ∧
  (∀ (k : Nat) (s : State), cfg32 k 0 s = Config.vendorCode.toNat + Config.deviceCode.toNat * 2 ^ 16 ∧
    cfg32 k 8 s / 2 ^ 8 = Config.classCode.toNat ∧ bits (cfg32 k 0xC s) 22 16 = 0 ∧ cfg32 k 0x18 s = 0xC ∧
    (k = 0 → cfg32 k 0x10 s % 2 ^ 16 = 4) ∧ (k ≠ 0 → cfg32 k 0x10 s = 0 ∧ cfg32 k 0x14 s = 0) ∧
    (∀ fuel, k ≠ 0 → vsecWalk k s fuel 0x100 = none) ∧ vsecWalk 0 s 4 0x100 = some (vsecAt + 12)) ∧
  (∀ (s : State) (e : Nat), e = vsecAt + 12 → 0x10C ≤ e ∧ e % 4 = 0 ∧ e + 596 ≤ 0x1000 ∧
    cfg32 0 vsecAt s % 2 ^ 16 = 0x000B ∧ cfg32 0 (vsecAt + 4) s % 2 ^ 20 = 0x14A51 ∧
    cfg32 0 e s = 1 + 4 * 2 ^ 8 + (e + 16) * 2 ^ 16 ∧ cfg32 0 (e + 4) s = s.host.modid.toNat ∧
    cfg32 0 (e + 8) s = diesInService false s ∧ cfg32 0 (e + 12) s = diesInService true s ∧
    cfg32 0 (e + 16) s = 2 + 129 * 2 ^ 8 + (e + 532) * 2 ^ 16 ∧
    (∀ n < 128, cfg32 0 (e + 20 + 4 * n) s = dieMapEntry s n) ∧ cfg32 0 (e + 532) s = 3 + 16 * 2 ^ 8 ∧
    ∀ n < 480, bit (cfg32 0 (e + 536 + 4 * (n / 32)) s) (n % 32) = (linkMap s).contains n)

/-- The resets (15 R346, R347, R349; 01 R21): a cold reset leaves every field at its reset value, with what comes from outside the module
still to come and fresh free values; a module whose images do not verify stays in bring-up with LSTATE FAULT, in which its Abavas controller
runs only if its own image has verified (log entry 28). A warm reset ends the job, which on a module in bring-up leaves LSTATE FAULT,
leaves every core without a strand and keeps the clock; with an empty ordering point memory is what the settling of half-done commits and
copies leaves, which changes no byte where there are none. What the resets keep is the model's (log entries 108, 109 and 127), and so are
the values that State.reset has where no rule gives one: HBM as 0 (entry 1), registers (2), dies (11), pool ports (16), the first event (20)
and MSKEW (129). -/
def Claims.Resets : Prop :=
  (∀ (s : State), (Config.abavasPass s.free = true → Config.imagesPass s.free = true → exec .coldReset s = .next { State.reset with
      free := s.free + 1, nextId := s.nextId, agenda := s.agenda.filter fun d => fromOutside d.act }) ∧
    (Config.abavasPass s.free = false ∨ Config.imagesPass s.free = false → ∃ t, exec .coldReset s = .next t ∧ t = { State.reset with
      free := s.free + 1, nextId := s.nextId, agenda := s.agenda.filter (fun d => fromOutside d.act), host := t.host, ctl := t.ctl } ∧
      t.host = { HostIf.init with lstate := 4 } ∧ t.ctl.bringUp = true ∧ t.ctl.abavas = Config.abavasPass s.free ∧ t.ctl.recorders = [])) ∧
  (∀ (s : State), s.host.inq = [] → ∃ t, exec .warmReset s = .next t ∧ t.host.lstate = (if s.ctl.bringUp then 4 else 0) ∧
    t.mem = (settleForReset s).mem ∧ ((∀ c ∈ allCores s, c.commit = none) → (∀ l k, PoolTx.wr l (.copy k) ∉ s.ptx) → t.mem = s.mem) ∧ t.now = s.now ∧ t.core.id = s.core.id ∧
    t.core.st.run = .idle ∧ (∀ c ∈ t.others, c.st.run = .idle ∧ c.held = []) ∧ t.core.held = [] ∧ t.sched = Sched.init ∧ t.waiters = [] ∧ t.copies = [] ∧
    t.colls = [] ∧ t.host.busyTil ≤ s.now + 3000000)

/-- The requests of the responder but for GET_VERSION (15 R350). -/
def Claims.spdmRequest (i : Instr) : Bool :=
  match i with
  | .getCapabilities | .negotiateAlgorithms _ | .getDigests | .getCertificate _ _ _ | .challenge _ _ | .getMeasurements _ => true
  | _ => false

/-- What the Abavas controller does of itself. -/
def Claims.byController (i : Instr) : Bool :=
  match i with
  | .abavasTakeover | .throttling | .throttlingEnd | .abavasMailboxMessage _ | .getVersion => true
  | i => Claims.spdmRequest i

/-- The Abavas controller (15 R349-R351): takeover, throttling and its end, a mailbox message with vector 4, and the requests of the
responder; a controller whose image has failed does none of this. The version codes 0x12 and 0x13, the index 255 and the blocks 1 to 5 in
answer to it are the model's (log entry 15), and so are the eight slots whose digests of 32 bytes GET_DIGESTS returns (the same entry) and the
message that block 5 digests (entry 142); other bytes of a response are free, and no statement names them. -/
def Claims.Controller : Prop :=
  (∀ (i : Instr) (s : State), Claims.byController i = true → s.ctl.abavas = false → exec i s = .next s) ∧
  (∀ (s : State), s.ctl.abavas = true → s.ctl.active ≠ 3 → ∃ t e, exec .abavasTakeover s = .next t ∧ t.ctl.active = 3 ∧ t.mem = s.mem ∧ t.core = s.core ∧
    e ∈ SMap.get [] t.ctl.recorders 259 ∧ e.code = 0xF ∧ e.sev = 2) ∧
  (∀ (s : State), s.ctl.abavas = true → (s.ctl.throttled = false → ∃ t e, exec .throttling s = .next t ∧ t.ctl.throttled = true ∧ t.mem = s.mem ∧ t.core = s.core ∧
      e ∈ SMap.get [] t.ctl.recorders (256 + s.ctl.active) ∧ e.code = 0xE) ∧
    exec .throttlingEnd s = .next { s with ctl := { s.ctl with throttled := false } }) ∧
  (∀ (m : Word) (s : State), s.ctl.abavas = true → ∃ t, exec (.abavasMailboxMessage m) s = .next t ∧ t.ctl.mailbox = s.ctl.mailbox ++ [m] ∧
    t.host.evstat.getLsbD 4 = true ∧ t.mem = s.mem) ∧
  (∀ (s : State), s.ctl.abavas = true → exec .getVersion s = .next { s with ctl := { s.ctl with spdmVer := true, spdmOut := .versions [0x12, 0x13] } }) ∧
  (∀ (i : Instr) (s : State), Claims.spdmRequest i = true → s.ctl.abavas = true →
    ∃ t, exec i s = .next t ∧ t = { s with free := t.free, ctl := { s.ctl with
      spdmCap := t.ctl.spdmCap, spdmAlg := t.ctl.spdmAlg, spdmOut := t.ctl.spdmOut } } ∧ t.ctl.spdmOut ≠ .none) ∧
  (∀ (s : State), s.ctl.abavas = true → ∃ t, exec .getCapabilities s = .next t ∧ t.ctl.spdmCap = true) ∧
  (∀ (a : BitVec 64) (s : State), s.ctl.abavas = true → ∃ t, exec (.negotiateAlgorithms a) s = .next t ∧ t.ctl.spdmAlg = some a) ∧
  (∀ (s : State), s.ctl.abavas = true → ∃ t ds, exec .getDigests s = .next t ∧ t.ctl.spdmOut = .digests ds ∧ ds.length = 256) ∧
  (∀ (k : BitVec 8) (o n : BitVec 16) (s : State), s.ctl.abavas = true → ∃ t p, exec (.getCertificate k o n) s = .next t ∧ t.ctl.spdmOut = .certificate p ∧ p.length ≤ n.toNat) ∧
  (∀ (k : BitVec 8) (n : BitVec 256) (s : State), s.ctl.abavas = true → ∃ t sig, exec (.challenge k n) s = .next t ∧ t.ctl.spdmOut = .signed sig ∧ sig.length = 384) ∧
  (∀ (k : BitVec 8) (s : State), s.ctl.abavas = true → ∃ t bs, exec (.getMeasurements k) s = .next t ∧ t.ctl.spdmOut = .measurements bs ∧
    (k = 255 → bs.map (·.1) = [1, 2, 3, 4, 5]) ∧ (1 ≤ k → k ≤ 5 → bs.map (·.1) = [k.toNat]) ∧
    (k = 255 ∨ k = 5 → (5, sha256 ((vsecBody 2 s ++ vsecBody 3 s).flatMap dwordBytes)) ∈ bs))

/-! ### The machine as a whole -/

/-- A slot's instruction left neither cause, stall nor a full read-victim table. -/
def Claims.clean (u : State) : Prop := u.ctx.cause = none ∧ u.ctx.stall = false ∧ u.ctx.rvtFull = false

/-- The focused core's state as its bundle's slots find it: the bundle's own context, and the results that are due landed. -/
def Claims.issuing (c : CoreId) (rest : List CoreId) (s : State) : State :=
  let f := focus c { s with turn := rest }
  mapCtx (fun _ => { Ctx.init with seq0 := f.core.st.seq }) (landDue false f)

/-- The state in which slot k of a bundle executes. -/
def Claims.slotState (b : Vec) (k : Nat) (s : State) : State := mapCtx (fun x => { x with slot := k, syl := sylOf b k }) s

/-- A step runs the decoded instruction. When no event is due and a core whose strand may issue has its turn, the bytes at its PC decode to
one instruction without a flag, and its grade has the subset: the step is `exec` of that instruction in its slot, with the bundle's end
after it, the trap that it raised taken (a table that failed its registration stays remembered, 18 R388), or nothing but the request of a
stall. With two slots filled the second executes in the state that
the first left. The order of the kinds of step is the model's choice (log entry 4). When a due event stands in the agenda, the step is `exec` of that event; when a collective has its turn, `exec` of its
current step; when nothing is left, the clock. -/
def Obligations.StepsRunDecoded : Prop :=
  (∀ (s s1 : State) (c : CoreId) (rest : List CoreId) (b : Vec) (k : Nat) (i : Instr), takeDue s.now s.agenda = none → s.turn = c :: rest →
    mayIssue (focus c { s with turn := rest }) = true → fetchBundle (Claims.issuing c rest s) = .ok (b, s1) →
    decodeBundle b = .ok 0 [(k, i)] → ownCheckpoint i = false → lacks (isL s1.core.id) i = false →
      ∃ u, exec i (Claims.slotState b k s1) = .next u ∧
        (Claims.clean u → endCause u (sylOf b 0) = none → step s = .next (finishBundle (clearPassed s1.core.st.a.pc u))) ∧
        (∀ x, u.ctx.cause = some x → step s = .next (mapCtx (fun _ => .init) (takeTrap finishSaves x
          { s1 with tables := s1.tables ++ u.tables.filter fun y => !y.ok && !s1.tables.contains y }))) ∧
        (u.ctx.cause = none → u.ctx.rvtFull = false → u.ctx.stall = true → step s = .next (mapCtx (fun _ => .init) { s1 with ptx := u.ptx }))) ∧
  (∀ (s s1 u v : State) (c : CoreId) (rest : List CoreId) (b : Vec) (k l : Nat) (i j : Instr), takeDue s.now s.agenda = none →
    s.turn = c :: rest → mayIssue (focus c { s with turn := rest }) = true → fetchBundle (Claims.issuing c rest s) = .ok (b, s1) →
    decodeBundle b = .ok 0 [(k, i), (l, j)] → ownCheckpoint i = false → ownCheckpoint j = false → lacks (isL s1.core.id) i = false →
    lacks (isL s1.core.id) j = false → exec i (Claims.slotState b k s1) = .next u → Claims.clean u →
    exec j (Claims.slotState b l u) = .next v → Claims.clean v → endCause v (sylOf b 0) = none →
      step s = .next (finishBundle (clearPassed s1.core.st.a.pc v))) ∧
  (∀ (s : State) (d : Due) (rest : List Due), takeDue s.now s.agenda = some (d, rest) → d.act.slot = none → d.act.isStep = false →
    step s = exec d.act { s with agenda := rest }) ∧
  (∀ (s : State) (c : Coll) (rest : List Nat) (i : Instr), takeDue s.now s.agenda = none → s.turn = [] → s.wturn = c.tag :: rest →
    collOf { s with wturn := rest } c.tag = some c → c.aborting = none → c.steps[c.pc]? = some i → i.isStep = true →
      step s = exec i { s with wturn := rest, wcur := c.tag }) ∧
  (∀ (s : State), takeDue s.now s.agenda = none → s.turn = [] → s.wturn = [] → ∃ t, step s = .next t ∧ t.now = s.now + 1 ∧ t.mem = s.mem ∧
    t.core = s.core ∧ t.others = s.others ∧ t.agenda = s.agenda)

/-- A few of the spec's worked syllables and steps, one or more of each slot, decode to the instructions that they stand for. -/
def Obligations.WorkedEncodings : Prop :=
  decodeSyl 0 0x0100420C00000000 = .instr (.add ⟨1, 2, 3, 0⟩) ∧
  decodeSyl 0 0x1F013FFFFFFFFFFD = .instr (.movi ⟨4, 0x3FFFFFFFFFFD⟩) ∧
  decodeSyl 0 0x300101FFFFFFFFFE = .instr (.br ⟨4, 0x1FFFFFFFFFE⟩) ∧
  decodeSyl 0 0x3500000000200002 = .instr (.loopi ⟨2, 2⟩) ∧
  decodeSyl 0 0x4102411000000000 = .instr (.spst ⟨9, 17, 0⟩) ∧
  decodeSyl 1 0x2011001080800300 = .instr (.vcvt ⟨false, 0x11, 0, 1, 2, 0, 2, 0, 3⟩) ∧
  decodeSyl 3 0x0100004020000000 = .instr (.mop ⟨0, 0, 0, 1, 0, 2, 0, 0, 0⟩) ∧
  decodeSyl 4 0x0105187000C00010 = .instr (.ld ⟨5, 6, 7, 0, 0, 0, 0, 3, 16⟩) ∧
  decodeSyl 5 0x03080C4200000000 = .instr (.gst ⟨8, 3, 4, 2, 0, 0, 0, 0, 0⟩) ∧
  decodeSyl 6 0x0110518700000001 = .instr (.cpy ⟨4, 5, 6, 7, 0, 0, 1⟩) ∧
  decodeSyl 7 0x0310518004000000 = .instr (.cwait ⟨4, 5, 6, 0, 0, 0, 1, 0, 0⟩) ∧
  decodeStep 0x0140000440000000 = some (.wsend ⟨1, 0, 1, 0, 1, 0⟩)

/-- Decode and encode agree on every well-formed slot instruction in its slot and on every waggle step, with every operand; and a word
decodes to an instruction only where that instruction is well formed, stands in that slot and encodes to the word, the bundle flags
[55:52] of slot S aside. -/
def Obligations.DecodeAndEncodeAgree : Prop :=
  (∀ (i : Instr) (k : Nat), i.slot = some k → i.wf = true → decodeSyl k i.encode = .instr i) ∧
  (∀ (i : Instr), i.isStep = true → i.wf = true → decodeStep i.encode = some i) ∧
  (∀ (i : Instr) (k : Nat) (w : Word), k < 8 → decodeSyl k w = .instr i → i.slot = some k ∧ i.wf = true ∧
    i.encode = if k = 0 then w &&& 0xFF0FFFFFFFFFFFFF else w) ∧
  (∀ (i : Instr) (w : Word), decodeStep w = some i → i.isStep = true ∧ i.wf = true ∧ i.encode = w)

/-- Every step keeps memory in its canonical form, from every state that has it. -/
def Obligations.MemoryStaysCanonical : Prop :=
  ∀ s t : State, Memory.wf s = true → step s = .next t → Memory.wf t = true

/-- A strand's loop stacks hold at most six entries and its region has failed at most three times (01 R17, R28). -/
def Claims.strandBounds (t : Strand) : Prop := t.a.loops.length ≤ 6 ∧ t.shadow.loops.length ≤ 6 ∧ t.retry ≤ 3

/-- The bounds of a core (01 R17, R21, R23): those of its strand, at most 128 held pieces, and a split of 0 to 3. -/
def Claims.coreBounds (c : Core) : Prop := Claims.strandBounds c.st ∧ c.held.length ≤ 128 ∧ c.split ≤ 3

/-- Every core of the machine, and every parked image of a strand, is within its bounds. -/
def Claims.bounds (s : State) : Prop :=
  (∀ c ∈ allCores s, Claims.coreBounds c) ∧ ∀ x ∈ s.sched.tasks, ∀ g ∈ x.gangs, ∀ i ∈ g.images, Claims.strandBounds i.st

/-- Every step keeps the bounds, from every state that has them. -/
def Obligations.BoundsKept : Prop :=
  ∀ s t : State, Claims.bounds s → step s = .next t → Claims.bounds t

/-- The bins that a held histogram piece counts in, also behind a held operation on its record, are bins of a record (14 R320). -/
def Claims.binsOk : Held → Bool
  | .hist _ m => m.all fun e => e.1 < 34
  | .tm _ _ _ _ _ m => m.all fun e => e.1 < 34
  | _ => true

/-- The maps of a core are in their canonical form, and the bins of its histogram pieces and deltas are those of a record (14 R320). -/
def Claims.coreCanonical (c : Core) : Prop :=
  SMap.wf 0 c.scratch = true ∧ SMap.wf false c.full = true ∧ SMap.wf 0 c.st.spill = true ∧
  (∀ d ∈ c.delta, SMap.wf 0 d.counts = true ∧ SMap.wf 0 d.late = true ∧ ∀ e ∈ d.counts ++ d.late, e.1 < 34) ∧ ∀ h ∈ c.held, Claims.binsOk h = true

/-- The maps of the machine are in their canonical form, and running copies and bank loads have distinct ids that have been given out. -/
def Claims.canonical (s : State) : Prop :=
  (∀ c ∈ allCores s, Claims.coreCanonical c) ∧
  (∀ x ∈ s.sched.tasks, ∀ g ∈ x.gangs, ∀ i ∈ g.images,
    SMap.wf 0 i.scratch = true ∧ SMap.wf false i.full = true ∧ SMap.wf 0 i.st.spill = true) ∧
  SMap.wf false s.locks = true ∧ SMap.wf 0 s.hbm = true ∧ (∀ x ∈ s.tables, SMap.wf 0 x.res = true) ∧
  (s.copies.map (·.id) ++ s.loads.map (·.id)).Nodup ∧ ∀ k ∈ s.copies.map (·.id) ++ s.loads.map (·.id), k < s.nextId

/-- Every step keeps the canonical form of scratchpads, full/empty bits, spill memories, parked images, delta counts, page locks, the HBM
stacks and RES maps, and the ids of copies and bank loads distinct, from every state that has them. -/
def Obligations.CanonicalMapsKept : Prop :=
  ∀ s t : State, Claims.canonical s → step s = .next t → Claims.canonical t

/-- No slot instruction writes global memory as it issues: what it does to memory is held until its region commits (01 R23). -/
def Claims.IssueWritesNoMemory : Prop :=
  ∀ (i : Instr) (k : Nat) (s t : State), i.slot = some k → exec i s = .next t → ∀ a, rdByte t a = rdByte s a

/-- Every instruction of the table answers a next state in every state, and so does every step: traps, waits and refusals of the module
are effects. -/
def Claims.EveryStepAnswers : Prop :=
  (∀ (i : Instr) (s : State), ∃ t, exec i s = .next t) ∧ (∀ s : State, ∃ t, step s = .next t)

/-- The state after reset: memory with nothing listed is canonical, and so is every map, and every bound holds; every directory field reads 0 (11 R254), no core
carries a strand and SPLIT is 3 with four ways lent (10 R246), trap registers and FLAGS are 0 (01 R21), LSTATE is IDLE and BAR0's
registers are 0 (15 R338), and the domain has one module (23 R425). Which core is the focused one, that memory reads 0 where nothing has been
written, and the reset values that the spec does not give are the model's choices (log entries 1, 2 and 11). -/
def Obligations.ResetState : Prop :=
  Memory.wf State.reset = true ∧ State.reset.mem = [] ∧ Claims.bounds State.reset ∧ Claims.canonical State.reset ∧
  (∀ line, dirOf State.reset line = ⟨0, 0, none, 0, false, false, none, false⟩) ∧
  (∀ id : CoreId, (coreOf State.reset id).id = id ∧ (coreOf State.reset id).st.run = .idle ∧ (coreOf State.reset id).split = 3 ∧
    (coreOf State.reset id).lent = 4 ∧ (coreOf State.reset id).st.trapPc = 0 ∧ (coreOf State.reset id).st.trapCause = 0 ∧
    (coreOf State.reset id).st.trapInfo = 0 ∧ (coreOf State.reset id).st.a.flags = 0 ∧ (coreOf State.reset id).st.tm = false ∧
    (coreOf State.reset id).st.pin = false ∧ (coreOf State.reset id).st.retry = 0 ∧ (coreOf State.reset id).held = [] ∧
    (coreOf State.reset id).mcw = 0) ∧
  State.reset.now = 0 ∧ State.reset.host.lstate = 0 ∧ State.reset.host.root = 0 ∧ State.reset.host.evstat = 0 ∧
  State.reset.host.caddr = 0 ∧ State.reset.host.apbase = 0 ∧ State.reset.dom.domid = 0 ∧ State.reset.dom.self = 0 ∧
  State.reset.dom.members.length = 1 ∧ State.reset.locks = [] ∧ State.reset.wm = []

/-! ### The statements made of several parts -/

/-- What a scalar source reads, and what a landing result writes. Completion of: `resultLands`, `scratchpadWriteLands`,
`variableLatencyResult`, `imageLanding`. -/
def Obligations.ScalarReadsAndLandings : Prop :=
  Claims.ScalarReads ∧
  Claims.LandingWritesRegister ∧
  Claims.LandingEvents

/-- Integer, logical, shift and immediate operations leave their value pending for rd. Completion of: `add`, `sub`, `mul`, `mulh`, `mulhu`,
`and`, `or`, `xor`, `shl`, `shr`, `sar`, `min`, `max`, `minu`, `maxu`, `clz`, `popc`, `sel`, `movi`, `addi`, `andi`, `ori`, `xori`,
`shli`, `shri`, `sari`, `movhi`, `ceqi`, `clti`. -/
def Obligations.IntegerResults : Prop :=
  Claims.IntegerTable ∧
  Claims.OneSourceResults ∧
  Claims.ImmediateResults

/-- What the scalar instructions, loads, held stores and port configuration leave unchanged. -/
def Obligations.ScalarAndAccessFrame : Prop :=
  Claims.ScalarOnlyFrame ∧
  Claims.LoadStoreFrame

/-- Branches, jumps, calls, loop pushes and the next bundle address. Completion of: `br`, `brZ`, `jmp`, `call`, `jr`, `loopi`, `loop`. -/
def Obligations.TransfersAndLoops : Prop :=
  Claims.TransferTargets ∧
  Claims.LoopPush ∧
  Claims.NextAddress

/-- Taking a trap: the rollback, the trap registers, the vector, and escalation. Completion of: `trap`. -/
def Obligations.TrapEntry : Prop :=
  Claims.TrapInstructionEnters ∧
  Claims.ClassITrapEntry ∧
  Claims.EscalatedTrap

/-- eret, halt and the debug interface. Completion of: `eret`, `halt`, `dbgctlWrite`, `debugRestart`. -/
def Obligations.HandlerReturnAndHalt : Prop :=
  Claims.HandlerReturn ∧
  Claims.HaltEndsStrand ∧
  Claims.DebugInterface

/-- System registers, spill memory and capability queries. Completion of: `sysrd`, `syswr`, `spst`, `spld`, `capq`. -/
def Obligations.SystemRegisters : Prop :=
  Claims.SystemReads ∧
  Claims.SystemWrites ∧
  Claims.SpillAccess ∧
  Claims.CapabilityQueries

/-- Handle fields, handle loads and stores, and port descriptors. Where it follows a choice or a reading of the model and no sentence of the
spec: log entry 135. Completion of: `hset`, `hget`, `hmov`, `hld`, `hst`, `pcfg`, `pset`, `pget`. -/
def Obligations.HandlesAndPorts : Prop :=
  Claims.HandleFields ∧
  Claims.HandleMemory ∧
  Claims.PortConfiguration

/-- Global loads read the region's own held bytes first; stores are held. Completion of: `ld`, `st`. -/
def Obligations.GlobalLoadsAndStores : Prop :=
  Claims.StorePieceBytes ∧
  Claims.RegionReads ∧
  Claims.ScalarGlobalAccess

/-- Scratchpad reads, writes and full/empty bits, and the other load-store instructions. Where it follows a choice or a reading of the model
and no sentence of the spec: log entry 34. Completion of: `sld`, `sst`, `sfe`, `dpop`, `wmc`, `pref`, `tmrd`, `wmrd`. -/
def Obligations.ScratchpadAccess : Prop :=
  Claims.ScratchpadInstructions ∧
  Claims.ScratchpadReads ∧
  Claims.OtherLoadStore

/-- Exact values keep their code, others round once; NaN and infinity convert as the formats give. -/
def Obligations.Conversions : Prop :=
  Claims.ExactValuesKept ∧
  Claims.OffGridRounding ∧
  Claims.SpecialConversions

/-- Vector sources, lanes, and the stream ports' pops, order and pushes. -/
def Obligations.VectorSourcesAndPorts : Prop :=
  Claims.StochasticDraws ∧
  Claims.LanePacking ∧
  Claims.VectorSources ∧
  Claims.PortPops ∧
  Claims.PortOrder ∧
  Claims.PortPushes

/-- Vector arithmetic: integer lanes wrap, floating lanes round once. Completion of: `vadd`, `vsub`, `vmul`, `vmax`, `vmin`, `vabs`, `vneg`,
`vfma`, `vfms`, `vrcp`, `vrsq`, `vexp2`, `vlog2`, `vtanh`. -/
def Obligations.VectorArithmetic : Prop :=
  Claims.VectorTwoSource ∧
  Claims.VectorAbsNeg ∧
  Claims.VectorFusedTranscendental ∧
  Claims.TranscendentalCases

/-- The error bounds of vrsq, vexp2, vlog2 and vtanh (`Claims.TranscendentalErrors`). -/
def Obligations.TranscendentalBounds : Prop := Claims.TranscendentalErrors

/-- Bitwise operations, shifts, comparisons and selection lane by lane (`Claims.VectorBits`). Completion of: `vand`, `vor`, `vxor`, `vshl`,
`vshr`, `vsar`, `vceq`, `vclt`, `vcle`, `vsel`. -/
def Obligations.VectorBitsAndComparisons : Prop := Claims.VectorBits

/-- vcvt, vsrnd, vscal, vqnt and vdq (`Claims.VectorConvert`). Completion of: `vcvt`, `vqnt`, `vdq`. -/
def Obligations.VectorConversions : Prop := Claims.VectorConvert

/-- Reductions, broadcast, extract, permutations and moves. Completion of: `vredsum`, `vredmax`, `vredmin`, `vbcast`, `vextr`, `vperm`,
`vmov`, `vzero`. -/
def Obligations.VectorReductionsAndMovement : Prop :=
  Claims.VectorReductions ∧
  Claims.VectorMovement

/-- Accumulator rows and the optimiser steps. Where it follows a choice or a reading of the model and no sentence of the spec: log entries
119 and 120. Completion of: `vacc`, `vaccw`, `vmov`, `vbfpn`, `vzero`. -/
def Obligations.AccumulatorRowsAndOptimiser : Prop :=
  Claims.AccumulatorRows ∧
  Claims.OptimiserSteps

/-- What a vector instruction with a write port leaves unchanged (`Claims.VectorPortFrame`). -/
def Obligations.VectorFrame : Prop := Claims.VectorPortFrame

/-- The M-slot operations on accumulator banks as they issue, and bank ownership. Completion of: `mop`, `mmac`, `mbfp`, `mzero`, `mcfg`,
`mlend`, `mrealn`, `mload`, `msave`, `mdrain`, `mrecl`. -/
def Obligations.MatrixIssue : Prop :=
  Claims.RankOneIssue ∧
  Claims.BankOperationsIssue ∧
  Claims.BankOwnership

/-- The outer-product engine and the spline array execute their oldest operation. Completion of: `matrixEngineExecute`,
`splineArrayExecute`. -/
def Obligations.EnginesRun : Prop :=
  Claims.MatrixEngineRuns ∧
  Claims.DrainedTiles ∧
  Claims.SplineArrayRuns ∧
  Claims.Located ∧
  Claims.PhiExact

/-- The spline instructions as they issue, and their faults. Completion of: `knset`, `knget`, `splld`, `splst`, `splgx`, `splev`, `splbwd`,
`splgs`, `splgz`, `gridref`, `splcnt`. -/
def Obligations.SplineInstructions : Prop :=
  Claims.SplineIssue ∧
  Claims.SplineFaults

/-- Held counter operations, crd, cwait and its wake. Completion of: `cadd`, `cflg`, `cceil`, `caddi`, `crd`, `cwait`, `cwaitWake`. -/
def Obligations.CounterInstructions : Prop :=
  Claims.HeldCounterOperations ∧
  Claims.CounterWaits

/-- Atomics are held with their result, and the value each leaves. Completion of: `amadd`, `amax`, `amin`, `aswp`, `acas`, `aand`, `aor`,
`afadd`, `apply`. -/
def Obligations.MemoryAtomics : Prop :=
  Claims.AtomicsHeld ∧
  Claims.AtomicValues ∧
  Claims.AtomicApplies

/-- An add raises VALUE unless it passes the ceiling or 2^64 - 1 (`Claims.AddRule`). -/
def Obligations.CounterAddRule : Prop := Claims.AddRule

/-- wake_check and the events of a counter's home. Completion of: `applyAdd`, `applyCflg`, `applyCeil`. -/
def Obligations.CounterEvents : Prop :=
  Claims.WakeRemovesMetWaiters ∧
  Claims.HomeCounterEvents

/-- Barrier instructions, arrivals and phases, and the multicast landing. Where it follows a choice or a reading of the model and no
sentence of the spec: log entry 122. Completion of: `barr`, `bwait`, `barq`, `barrierArrival`, `bwaitReturn`, `multicastLanding`. -/
def Obligations.BarriersAndMulticast : Prop :=
  Claims.BarrierInstructions ∧
  Claims.BarrierPhases ∧
  Claims.MulticastLands

/-- Checkpoints, bundle flags, and the reserve, renew and apply steps of a commit. Where it follows a choice or a reading of the model and
no sentence of the spec: log entry 53. Completion of: `checkpoint`, `orderedBundle`, `breakpoint`, `reserve`, `renew`, `apply`. -/
def Obligations.RegionCommit : Prop :=
  Claims.CheckpointSteps ∧
  Claims.BundleFlags ∧
  Claims.CommitReserves ∧
  Claims.CommitRenews ∧
  Claims.CommitApplies

/-- Lease grants, the pin token and the stamp raise. Completion of: `grant`, `pinTokenGrant`, `stampRaise`. -/
def Obligations.LeasesAndToken : Prop :=
  Claims.LeaseGrant ∧
  Claims.TokenAndStamps

/-- Tile loads: decoded values, raw codes, and the stale-watermark fault (`Claims.TileLoadResults`). Completion of: `gld`, `gldr`. -/
def Obligations.TileLoads : Prop := Claims.TileLoadResults

/-- Tile stores: encoded blocks, watermarks, and what a governed store counts (`Claims.TileStoreResults`). Where it follows a choice or a
reading of the model and no sentence of the spec: log entry 33. Completion of: `gst`, `gstr`. -/
def Obligations.TileStores : Prop := Claims.TileStoreResults

/-- Copy launches, the status query and the bank load as they issue (`Claims.CopyIssue`). Where it follows a choice or a reading of the
model and no sentence of the spec: log entry 150. Completion of: `cpy`, `cpyg`, `cpys`, `cpyx`, `cpyo`, `cpy2`, `cpyr`, `cpyq`, `cpyk`. -/
def Obligations.CopyInstructions : Prop := Claims.CopyIssue

/-- A launch's acceptance and a copy's pieces. Completion of: `copyLaunchAccept`, `copyPiece`. -/
def Obligations.CopyEngine : Prop :=
  Claims.CopyAccept ∧
  Claims.CopyPieces

/-- The instructions on tensor records, and the states of a pass. Completion of: `tmopn`, `tmcls`, `tmflt`, `tmset`, `tmgov`. -/
def Obligations.TensorRecords : Prop :=
  Claims.RecordInstructions ∧
  Claims.RecordStates

/-- Delta flushes and the publication that ends a close. Completion of: `deltaFlush`, `flushRequest`, `closePublication`. -/
def Obligations.TensorPasses : Prop :=
  Claims.DeltaFlushes ∧
  Claims.Publications

/-- spawn, yield, the launch of a job, queues and dependencies. Where it follows a choice or a reading of the model and no sentence of the
spec: log entry 124. Completion of: `spawn`, `yield`, `spawnAppend`, `launch`, `schedulerRound`, `descriptorFetch`, `dependencyMet`. -/
def Obligations.SchedulerQueues : Prop :=
  Claims.SpawnYield ∧
  Claims.SpawnAppends ∧
  Claims.Launches ∧
  Claims.QueuesAndDependencies

/-- Start state, evictions, and what a parked image keeps. Completion of: `quantumExpiry`, `migrateTrapReceipt`. -/
def Obligations.StrandsAndImages : Prop :=
  Claims.StrandStart ∧
  Claims.EvictionBegins ∧
  Claims.ImagesKept

/-- Task completion, fault domains and withdrawals. Where it follows a choice or a reading of the model and no sentence of the spec: log
entries 61, 67 and 125. Completion of: `taskComplete`, `faultReport`, `dieFault`, `coreWithdrawn`, `schedulerTakeover`. -/
def Obligations.TaskEnds : Prop :=
  Claims.TaskCompletes ∧
  Claims.FaultLands ∧
  Claims.FaultScopes ∧
  Claims.FaultSpawns ∧
  Claims.Withdrawals

/-- route, rtver, the choice of a replica and the steps of a route. Completion of: `route`, `rtver`, `routeChoice`, `routeDelivery`,
`routedAdd`. -/
def Obligations.SwarmRouting : Prop :=
  Claims.SwarmInstructions ∧
  Claims.ReplicaChoice ∧
  Claims.RouteSteps

/-- Samples, switches and gradient merges. Where it follows a choice or a reading of the model and no sentence of the spec: log entry 17.
Completion of: `swarmSample`, `replicaCopyDone`, `replicaCopyStop`, `replicaLoss`, `replica0Loss`, `redirection`, `gradientMerge`. -/
def Obligations.SwarmSwitches : Prop :=
  Claims.SwarmSamples ∧
  Claims.Switches ∧
  Claims.GradientMerges

/-- Collectives: instructions, launches and control steps. Where it follows a choice or a reading of the model and no sentence of the spec:
log entries 83, 84 and 85. Completion of: `wgl`, `wglk`, `wglq`, `waggleLaunch`, `signatureAgreement`, `wloop`, `wendl`, `wsig`,
`wwait`, `wflags`, `wend`. -/
def Obligations.CollectiveControl : Prop :=
  Claims.WaggleInstructions ∧
  Claims.WaggleLaunches ∧
  Claims.WaggleControl

/-- Collectives: data steps, arrivals and aborts. Where it follows a choice or a reading of the model and no sentence of the spec: log
entries 88, 89, 92, 126, 140 and 141. Completion of: `wsend`, `wrecv`, `wcopy`, `wagree`, `wrrs`, `chunkArrival`, `switchSlotLoss`,
`waggleAbort`. -/
def Obligations.CollectiveData : Prop :=
  Claims.WaggleData ∧
  Claims.WaggleArrivals

/-- Messages between modules and the ports that carry them. Where it follows a choice or a reading of the model and no sentence of the spec:
log entries 12 and 98. Completion of: `glodricMessage`, `glodricPortWithdrawn`, `destinationTimeout`, `domainTableWrite`,
`linkWithdrawn`. -/
def Obligations.Fabric : Prop :=
  Claims.FabricMessages ∧
  Claims.FabricPorts

/-- Completions, snoops and failures at memory pools. Where it follows a choice or a reading of the model and no sentence of the spec: log
entries 5, 94, 95 and 158. Completion of: `memrdCompletion`, `meminvCompletion`, `memwrCompletion`, `bisnpinv`, `bisnpdata`, `bisnpcur`,
`snoopPinTimeout`, `linePoisoned`, `combSramError`, `cxlPortDown`, `cxlPortReturnToService`. -/
def Obligations.Pools : Prop :=
  Claims.PoolCompletions ∧
  Claims.PoolSnoops ∧
  Claims.PoolFailures

/-- Inbound traffic, invalidations, page locks, BAR0, counter watches and the configuration space. Where it follows a choice or a reading of
the model and no sentence of the spec: log entries 105, 106, 107, 111 and 143. Completion of: `inboundWrite`, `bar2Read`,
`hostCounterAdd`, `invalidation`, `invalidationDone`, `pageLock`, `pageUnlock`, `lockDone`, `registerWrite`, `counterWatch`. -/
def Obligations.HostInterface : Prop :=
  Claims.InboundTraffic ∧
  Claims.Maintenance ∧
  Claims.HostRegisters ∧
  Claims.ConfigurationSpace

/-- Warm and cold resets, and the controller's requests. Where it follows a choice or a reading of the model and no sentence of the spec:
log entries 1, 2, 11, 15, 16, 20, 28, 108, 109, 127, 129 and 142. Completion of: `coldReset`, `warmReset`, `abavasTakeover`,
`throttling`, `throttlingEnd`, `abavasMailboxMessage`, `getVersion`, `getCapabilities`, `negotiateAlgorithms`, `getDigests`,
`getCertificate`, `challenge`, `getMeasurements`. -/
def Obligations.ResetsAndController : Prop :=
  Claims.Resets ∧
  Claims.Controller

/-- Issue writes no memory, and every step answers a next state. -/
def Obligations.IssueAndAnswers : Prop :=
  Claims.IssueWritesNoMemory ∧
  Claims.EveryStepAnswers
end

