-- ==== Sys2Proof/Laws/State.lean ====
section
/-! SUPPORT. One equation per field and update of the state, each true by unfolding: what `mapCore`, `mapSt`, `mapArch`, `mapCtx`, `due`,
`setDir`, `wrByte` and `addPend` leave of each field. Written field by field so that no later proof unfolds a record update. -/

namespace Sys2Proof.Machine

@[simp] theorem mapCore_now (f : Core → Core) (s : State) : (mapCore f s).now = s.now := rfl
@[simp] theorem mapCore_others (f : Core → Core) (s : State) : (mapCore f s).others = s.others := rfl
@[simp] theorem mapCore_ctx (f : Core → Core) (s : State) : (mapCore f s).ctx = s.ctx := rfl
@[simp] theorem mapCore_turn (f : Core → Core) (s : State) : (mapCore f s).turn = s.turn := rfl
@[simp] theorem mapCore_wturn (f : Core → Core) (s : State) : (mapCore f s).wturn = s.wturn := rfl
@[simp] theorem mapCore_wcur (f : Core → Core) (s : State) : (mapCore f s).wcur = s.wcur := rfl
@[simp] theorem mapCore_agenda (f : Core → Core) (s : State) : (mapCore f s).agenda = s.agenda := rfl
@[simp] theorem mapCore_free (f : Core → Core) (s : State) : (mapCore f s).free = s.free := rfl
@[simp] theorem mapCore_nextId (f : Core → Core) (s : State) : (mapCore f s).nextId = s.nextId := rfl
@[simp] theorem mapCore_mem (f : Core → Core) (s : State) : (mapCore f s).mem = s.mem := rfl
@[simp] theorem mapCore_wm (f : Core → Core) (s : State) : (mapCore f s).wm = s.wm := rfl
@[simp] theorem mapCore_dir (f : Core → Core) (s : State) : (mapCore f s).dir = s.dir := rfl
@[simp] theorem mapCore_hc (f : Core → Core) (s : State) : (mapCore f s).hc = s.hc := rfl
@[simp] theorem mapCore_locks (f : Core → Core) (s : State) : (mapCore f s).locks = s.locks := rfl
@[simp] theorem mapCore_slices (f : Core → Core) (s : State) : (mapCore f s).slices = s.slices := rfl
@[simp] theorem mapCore_hbm (f : Core → Core) (s : State) : (mapCore f s).hbm = s.hbm := rfl
@[simp] theorem mapCore_sram (f : Core → Core) (s : State) : (mapCore f s).sram = s.sram := rfl
@[simp] theorem mapCore_waiters (f : Core → Core) (s : State) : (mapCore f s).waiters = s.waiters := rfl
@[simp] theorem mapCore_closes (f : Core → Core) (s : State) : (mapCore f s).closes = s.closes := rfl
@[simp] theorem mapCore_tmq (f : Core → Core) (s : State) : (mapCore f s).tmq = s.tmq := rfl
@[simp] theorem mapCore_dieTlb (f : Core → Core) (s : State) : (mapCore f s).dieTlb = s.dieTlb := rfl
@[simp] theorem mapCore_copies (f : Core → Core) (s : State) : (mapCore f s).copies = s.copies := rfl
@[simp] theorem mapCore_loads (f : Core → Core) (s : State) : (mapCore f s).loads = s.loads := rfl
@[simp] theorem mapCore_launchq (f : Core → Core) (s : State) : (mapCore f s).launchq = s.launchq := rfl
@[simp] theorem mapCore_stats (f : Core → Core) (s : State) : (mapCore f s).stats = s.stats := rfl
@[simp] theorem mapCore_segs (f : Core → Core) (s : State) : (mapCore f s).segs = s.segs := rfl
@[simp] theorem mapCore_mcs (f : Core → Core) (s : State) : (mapCore f s).mcs = s.mcs := rfl
@[simp] theorem mapCore_ports (f : Core → Core) (s : State) : (mapCore f s).ports = s.ports := rfl
@[simp] theorem mapCore_ptx (f : Core → Core) (s : State) : (mapCore f s).ptx = s.ptx := rfl
@[simp] theorem mapCore_snoops (f : Core → Core) (s : State) : (mapCore f s).snoops = s.snoops := rfl
@[simp] theorem mapCore_birsp (f : Core → Core) (s : State) : (mapCore f s).birsp = s.birsp := rfl
@[simp] theorem mapCore_clnEvcts (f : Core → Core) (s : State) : (mapCore f s).clnEvcts = s.clnEvcts := rfl
@[simp] theorem mapCore_dom (f : Core → Core) (s : State) : (mapCore f s).dom = s.dom := rfl
@[simp] theorem mapCore_gdown (f : Core → Core) (s : State) : (mapCore f s).gdown = s.gdown := rfl
@[simp] theorem mapCore_gout (f : Core → Core) (s : State) : (mapCore f s).gout = s.gout := rfl
@[simp] theorem mapCore_gseq (f : Core → Core) (s : State) : (mapCore f s).gseq = s.gseq := rfl
@[simp] theorem mapCore_gseen (f : Core → Core) (s : State) : (mapCore f s).gseen = s.gseen := rfl
@[simp] theorem mapCore_gacks (f : Core → Core) (s : State) : (mapCore f s).gacks = s.gacks := rfl
@[simp] theorem mapCore_rtimes (f : Core → Core) (s : State) : (mapCore f s).rtimes = s.rtimes := rfl
@[simp] theorem mapCore_rctrs (f : Core → Core) (s : State) : (mapCore f s).rctrs = s.rctrs := rfl
@[simp] theorem mapCore_cfOrs (f : Core → Core) (s : State) : (mapCore f s).cfOrs = s.cfOrs := rfl
@[simp] theorem mapCore_sched (f : Core → Core) (s : State) : (mapCore f s).sched = s.sched := rfl
@[simp] theorem mapCore_spawnq (f : Core → Core) (s : State) : (mapCore f s).spawnq = s.spawnq := rfl
@[simp] theorem mapCore_standby (f : Core → Core) (s : State) : (mapCore f s).standby = s.standby := rfl
@[simp] theorem mapCore_schedAt (f : Core → Core) (s : State) : (mapCore f s).schedAt = s.schedAt := rfl
@[simp] theorem mapCore_tables (f : Core → Core) (s : State) : (mapCore f s).tables = s.tables := rfl
@[simp] theorem mapCore_adders (f : Core → Core) (s : State) : (mapCore f s).adders = s.adders := rfl
@[simp] theorem mapCore_switches (f : Core → Core) (s : State) : (mapCore f s).switches = s.switches := rfl
@[simp] theorem mapCore_routes (f : Core → Core) (s : State) : (mapCore f s).routes = s.routes := rfl
@[simp] theorem mapCore_colls (f : Core → Core) (s : State) : (mapCore f s).colls = s.colls := rfl
@[simp] theorem mapCore_wglq (f : Core → Core) (s : State) : (mapCore f s).wglq = s.wglq := rfl
@[simp] theorem mapCore_wcount (f : Core → Core) (s : State) : (mapCore f s).wcount = s.wcount := rfl
@[simp] theorem mapCore_wstat (f : Core → Core) (s : State) : (mapCore f s).wstat = s.wstat := rfl
@[simp] theorem mapCore_waborts (f : Core → Core) (s : State) : (mapCore f s).waborts = s.waborts := rfl
@[simp] theorem mapCore_wsigs (f : Core → Core) (s : State) : (mapCore f s).wsigs = s.wsigs := rfl
@[simp] theorem mapCore_wchunks (f : Core → Core) (s : State) : (mapCore f s).wchunks = s.wchunks := rfl
@[simp] theorem mapCore_wvals (f : Core → Core) (s : State) : (mapCore f s).wvals = s.wvals := rfl
@[simp] theorem mapCore_host (f : Core → Core) (s : State) : (mapCore f s).host = s.host := rfl
@[simp] theorem mapCore_ctl (f : Core → Core) (s : State) : (mapCore f s).ctl = s.ctl := rfl
@[simp] theorem mapCore_invals (f : Core → Core) (s : State) : (mapCore f s).invals = s.invals := rfl
@[simp] theorem mapCore_lockreqs (f : Core → Core) (s : State) : (mapCore f s).lockreqs = s.lockreqs := rfl
@[simp] theorem mapSt_now (f : Strand → Strand) (s : State) : (mapSt f s).now = s.now := rfl
@[simp] theorem mapSt_others (f : Strand → Strand) (s : State) : (mapSt f s).others = s.others := rfl
@[simp] theorem mapSt_ctx (f : Strand → Strand) (s : State) : (mapSt f s).ctx = s.ctx := rfl
@[simp] theorem mapSt_turn (f : Strand → Strand) (s : State) : (mapSt f s).turn = s.turn := rfl
@[simp] theorem mapSt_wturn (f : Strand → Strand) (s : State) : (mapSt f s).wturn = s.wturn := rfl
@[simp] theorem mapSt_wcur (f : Strand → Strand) (s : State) : (mapSt f s).wcur = s.wcur := rfl
@[simp] theorem mapSt_agenda (f : Strand → Strand) (s : State) : (mapSt f s).agenda = s.agenda := rfl
@[simp] theorem mapSt_free (f : Strand → Strand) (s : State) : (mapSt f s).free = s.free := rfl
@[simp] theorem mapSt_nextId (f : Strand → Strand) (s : State) : (mapSt f s).nextId = s.nextId := rfl
@[simp] theorem mapSt_mem (f : Strand → Strand) (s : State) : (mapSt f s).mem = s.mem := rfl
@[simp] theorem mapSt_wm (f : Strand → Strand) (s : State) : (mapSt f s).wm = s.wm := rfl
@[simp] theorem mapSt_dir (f : Strand → Strand) (s : State) : (mapSt f s).dir = s.dir := rfl
@[simp] theorem mapSt_hc (f : Strand → Strand) (s : State) : (mapSt f s).hc = s.hc := rfl
@[simp] theorem mapSt_locks (f : Strand → Strand) (s : State) : (mapSt f s).locks = s.locks := rfl
@[simp] theorem mapSt_slices (f : Strand → Strand) (s : State) : (mapSt f s).slices = s.slices := rfl
@[simp] theorem mapSt_hbm (f : Strand → Strand) (s : State) : (mapSt f s).hbm = s.hbm := rfl
@[simp] theorem mapSt_sram (f : Strand → Strand) (s : State) : (mapSt f s).sram = s.sram := rfl
@[simp] theorem mapSt_waiters (f : Strand → Strand) (s : State) : (mapSt f s).waiters = s.waiters := rfl
@[simp] theorem mapSt_closes (f : Strand → Strand) (s : State) : (mapSt f s).closes = s.closes := rfl
@[simp] theorem mapSt_tmq (f : Strand → Strand) (s : State) : (mapSt f s).tmq = s.tmq := rfl
@[simp] theorem mapSt_dieTlb (f : Strand → Strand) (s : State) : (mapSt f s).dieTlb = s.dieTlb := rfl
@[simp] theorem mapSt_copies (f : Strand → Strand) (s : State) : (mapSt f s).copies = s.copies := rfl
@[simp] theorem mapSt_loads (f : Strand → Strand) (s : State) : (mapSt f s).loads = s.loads := rfl
@[simp] theorem mapSt_launchq (f : Strand → Strand) (s : State) : (mapSt f s).launchq = s.launchq := rfl
@[simp] theorem mapSt_stats (f : Strand → Strand) (s : State) : (mapSt f s).stats = s.stats := rfl
@[simp] theorem mapSt_segs (f : Strand → Strand) (s : State) : (mapSt f s).segs = s.segs := rfl
@[simp] theorem mapSt_mcs (f : Strand → Strand) (s : State) : (mapSt f s).mcs = s.mcs := rfl
@[simp] theorem mapSt_ports (f : Strand → Strand) (s : State) : (mapSt f s).ports = s.ports := rfl
@[simp] theorem mapSt_ptx (f : Strand → Strand) (s : State) : (mapSt f s).ptx = s.ptx := rfl
@[simp] theorem mapSt_snoops (f : Strand → Strand) (s : State) : (mapSt f s).snoops = s.snoops := rfl
@[simp] theorem mapSt_birsp (f : Strand → Strand) (s : State) : (mapSt f s).birsp = s.birsp := rfl
@[simp] theorem mapSt_clnEvcts (f : Strand → Strand) (s : State) : (mapSt f s).clnEvcts = s.clnEvcts := rfl
@[simp] theorem mapSt_dom (f : Strand → Strand) (s : State) : (mapSt f s).dom = s.dom := rfl
@[simp] theorem mapSt_gdown (f : Strand → Strand) (s : State) : (mapSt f s).gdown = s.gdown := rfl
@[simp] theorem mapSt_gout (f : Strand → Strand) (s : State) : (mapSt f s).gout = s.gout := rfl
@[simp] theorem mapSt_gseq (f : Strand → Strand) (s : State) : (mapSt f s).gseq = s.gseq := rfl
@[simp] theorem mapSt_gseen (f : Strand → Strand) (s : State) : (mapSt f s).gseen = s.gseen := rfl
@[simp] theorem mapSt_gacks (f : Strand → Strand) (s : State) : (mapSt f s).gacks = s.gacks := rfl
@[simp] theorem mapSt_rtimes (f : Strand → Strand) (s : State) : (mapSt f s).rtimes = s.rtimes := rfl
@[simp] theorem mapSt_rctrs (f : Strand → Strand) (s : State) : (mapSt f s).rctrs = s.rctrs := rfl
@[simp] theorem mapSt_cfOrs (f : Strand → Strand) (s : State) : (mapSt f s).cfOrs = s.cfOrs := rfl
@[simp] theorem mapSt_sched (f : Strand → Strand) (s : State) : (mapSt f s).sched = s.sched := rfl
@[simp] theorem mapSt_spawnq (f : Strand → Strand) (s : State) : (mapSt f s).spawnq = s.spawnq := rfl
@[simp] theorem mapSt_standby (f : Strand → Strand) (s : State) : (mapSt f s).standby = s.standby := rfl
@[simp] theorem mapSt_schedAt (f : Strand → Strand) (s : State) : (mapSt f s).schedAt = s.schedAt := rfl
@[simp] theorem mapSt_tables (f : Strand → Strand) (s : State) : (mapSt f s).tables = s.tables := rfl
@[simp] theorem mapSt_adders (f : Strand → Strand) (s : State) : (mapSt f s).adders = s.adders := rfl
@[simp] theorem mapSt_switches (f : Strand → Strand) (s : State) : (mapSt f s).switches = s.switches := rfl
@[simp] theorem mapSt_routes (f : Strand → Strand) (s : State) : (mapSt f s).routes = s.routes := rfl
@[simp] theorem mapSt_colls (f : Strand → Strand) (s : State) : (mapSt f s).colls = s.colls := rfl
@[simp] theorem mapSt_wglq (f : Strand → Strand) (s : State) : (mapSt f s).wglq = s.wglq := rfl
@[simp] theorem mapSt_wcount (f : Strand → Strand) (s : State) : (mapSt f s).wcount = s.wcount := rfl
@[simp] theorem mapSt_wstat (f : Strand → Strand) (s : State) : (mapSt f s).wstat = s.wstat := rfl
@[simp] theorem mapSt_waborts (f : Strand → Strand) (s : State) : (mapSt f s).waborts = s.waborts := rfl
@[simp] theorem mapSt_wsigs (f : Strand → Strand) (s : State) : (mapSt f s).wsigs = s.wsigs := rfl
@[simp] theorem mapSt_wchunks (f : Strand → Strand) (s : State) : (mapSt f s).wchunks = s.wchunks := rfl
@[simp] theorem mapSt_wvals (f : Strand → Strand) (s : State) : (mapSt f s).wvals = s.wvals := rfl
@[simp] theorem mapSt_host (f : Strand → Strand) (s : State) : (mapSt f s).host = s.host := rfl
@[simp] theorem mapSt_ctl (f : Strand → Strand) (s : State) : (mapSt f s).ctl = s.ctl := rfl
@[simp] theorem mapSt_invals (f : Strand → Strand) (s : State) : (mapSt f s).invals = s.invals := rfl
@[simp] theorem mapSt_lockreqs (f : Strand → Strand) (s : State) : (mapSt f s).lockreqs = s.lockreqs := rfl
@[simp] theorem mapArch_now (f : Arch → Arch) (s : State) : (mapArch f s).now = s.now := rfl
@[simp] theorem mapArch_others (f : Arch → Arch) (s : State) : (mapArch f s).others = s.others := rfl
@[simp] theorem mapArch_ctx (f : Arch → Arch) (s : State) : (mapArch f s).ctx = s.ctx := rfl
@[simp] theorem mapArch_turn (f : Arch → Arch) (s : State) : (mapArch f s).turn = s.turn := rfl
@[simp] theorem mapArch_wturn (f : Arch → Arch) (s : State) : (mapArch f s).wturn = s.wturn := rfl
@[simp] theorem mapArch_wcur (f : Arch → Arch) (s : State) : (mapArch f s).wcur = s.wcur := rfl
@[simp] theorem mapArch_agenda (f : Arch → Arch) (s : State) : (mapArch f s).agenda = s.agenda := rfl
@[simp] theorem mapArch_free (f : Arch → Arch) (s : State) : (mapArch f s).free = s.free := rfl
@[simp] theorem mapArch_nextId (f : Arch → Arch) (s : State) : (mapArch f s).nextId = s.nextId := rfl
@[simp] theorem mapArch_mem (f : Arch → Arch) (s : State) : (mapArch f s).mem = s.mem := rfl
@[simp] theorem mapArch_wm (f : Arch → Arch) (s : State) : (mapArch f s).wm = s.wm := rfl
@[simp] theorem mapArch_dir (f : Arch → Arch) (s : State) : (mapArch f s).dir = s.dir := rfl
@[simp] theorem mapArch_hc (f : Arch → Arch) (s : State) : (mapArch f s).hc = s.hc := rfl
@[simp] theorem mapArch_locks (f : Arch → Arch) (s : State) : (mapArch f s).locks = s.locks := rfl
@[simp] theorem mapArch_slices (f : Arch → Arch) (s : State) : (mapArch f s).slices = s.slices := rfl
@[simp] theorem mapArch_hbm (f : Arch → Arch) (s : State) : (mapArch f s).hbm = s.hbm := rfl
@[simp] theorem mapArch_sram (f : Arch → Arch) (s : State) : (mapArch f s).sram = s.sram := rfl
@[simp] theorem mapArch_waiters (f : Arch → Arch) (s : State) : (mapArch f s).waiters = s.waiters := rfl
@[simp] theorem mapArch_closes (f : Arch → Arch) (s : State) : (mapArch f s).closes = s.closes := rfl
@[simp] theorem mapArch_tmq (f : Arch → Arch) (s : State) : (mapArch f s).tmq = s.tmq := rfl
@[simp] theorem mapArch_dieTlb (f : Arch → Arch) (s : State) : (mapArch f s).dieTlb = s.dieTlb := rfl
@[simp] theorem mapArch_copies (f : Arch → Arch) (s : State) : (mapArch f s).copies = s.copies := rfl
@[simp] theorem mapArch_loads (f : Arch → Arch) (s : State) : (mapArch f s).loads = s.loads := rfl
@[simp] theorem mapArch_launchq (f : Arch → Arch) (s : State) : (mapArch f s).launchq = s.launchq := rfl
@[simp] theorem mapArch_stats (f : Arch → Arch) (s : State) : (mapArch f s).stats = s.stats := rfl
@[simp] theorem mapArch_segs (f : Arch → Arch) (s : State) : (mapArch f s).segs = s.segs := rfl
@[simp] theorem mapArch_mcs (f : Arch → Arch) (s : State) : (mapArch f s).mcs = s.mcs := rfl
@[simp] theorem mapArch_ports (f : Arch → Arch) (s : State) : (mapArch f s).ports = s.ports := rfl
@[simp] theorem mapArch_ptx (f : Arch → Arch) (s : State) : (mapArch f s).ptx = s.ptx := rfl
@[simp] theorem mapArch_snoops (f : Arch → Arch) (s : State) : (mapArch f s).snoops = s.snoops := rfl
@[simp] theorem mapArch_birsp (f : Arch → Arch) (s : State) : (mapArch f s).birsp = s.birsp := rfl
@[simp] theorem mapArch_clnEvcts (f : Arch → Arch) (s : State) : (mapArch f s).clnEvcts = s.clnEvcts := rfl
@[simp] theorem mapArch_dom (f : Arch → Arch) (s : State) : (mapArch f s).dom = s.dom := rfl
@[simp] theorem mapArch_gdown (f : Arch → Arch) (s : State) : (mapArch f s).gdown = s.gdown := rfl
@[simp] theorem mapArch_gout (f : Arch → Arch) (s : State) : (mapArch f s).gout = s.gout := rfl
@[simp] theorem mapArch_gseq (f : Arch → Arch) (s : State) : (mapArch f s).gseq = s.gseq := rfl
@[simp] theorem mapArch_gseen (f : Arch → Arch) (s : State) : (mapArch f s).gseen = s.gseen := rfl
@[simp] theorem mapArch_gacks (f : Arch → Arch) (s : State) : (mapArch f s).gacks = s.gacks := rfl
@[simp] theorem mapArch_rtimes (f : Arch → Arch) (s : State) : (mapArch f s).rtimes = s.rtimes := rfl
@[simp] theorem mapArch_rctrs (f : Arch → Arch) (s : State) : (mapArch f s).rctrs = s.rctrs := rfl
@[simp] theorem mapArch_cfOrs (f : Arch → Arch) (s : State) : (mapArch f s).cfOrs = s.cfOrs := rfl
@[simp] theorem mapArch_sched (f : Arch → Arch) (s : State) : (mapArch f s).sched = s.sched := rfl
@[simp] theorem mapArch_spawnq (f : Arch → Arch) (s : State) : (mapArch f s).spawnq = s.spawnq := rfl
@[simp] theorem mapArch_standby (f : Arch → Arch) (s : State) : (mapArch f s).standby = s.standby := rfl
@[simp] theorem mapArch_schedAt (f : Arch → Arch) (s : State) : (mapArch f s).schedAt = s.schedAt := rfl
@[simp] theorem mapArch_tables (f : Arch → Arch) (s : State) : (mapArch f s).tables = s.tables := rfl
@[simp] theorem mapArch_adders (f : Arch → Arch) (s : State) : (mapArch f s).adders = s.adders := rfl
@[simp] theorem mapArch_switches (f : Arch → Arch) (s : State) : (mapArch f s).switches = s.switches := rfl
@[simp] theorem mapArch_routes (f : Arch → Arch) (s : State) : (mapArch f s).routes = s.routes := rfl
@[simp] theorem mapArch_colls (f : Arch → Arch) (s : State) : (mapArch f s).colls = s.colls := rfl
@[simp] theorem mapArch_wglq (f : Arch → Arch) (s : State) : (mapArch f s).wglq = s.wglq := rfl
@[simp] theorem mapArch_wcount (f : Arch → Arch) (s : State) : (mapArch f s).wcount = s.wcount := rfl
@[simp] theorem mapArch_wstat (f : Arch → Arch) (s : State) : (mapArch f s).wstat = s.wstat := rfl
@[simp] theorem mapArch_waborts (f : Arch → Arch) (s : State) : (mapArch f s).waborts = s.waborts := rfl
@[simp] theorem mapArch_wsigs (f : Arch → Arch) (s : State) : (mapArch f s).wsigs = s.wsigs := rfl
@[simp] theorem mapArch_wchunks (f : Arch → Arch) (s : State) : (mapArch f s).wchunks = s.wchunks := rfl
@[simp] theorem mapArch_wvals (f : Arch → Arch) (s : State) : (mapArch f s).wvals = s.wvals := rfl
@[simp] theorem mapArch_host (f : Arch → Arch) (s : State) : (mapArch f s).host = s.host := rfl
@[simp] theorem mapArch_ctl (f : Arch → Arch) (s : State) : (mapArch f s).ctl = s.ctl := rfl
@[simp] theorem mapArch_invals (f : Arch → Arch) (s : State) : (mapArch f s).invals = s.invals := rfl
@[simp] theorem mapArch_lockreqs (f : Arch → Arch) (s : State) : (mapArch f s).lockreqs = s.lockreqs := rfl
@[simp] theorem mapCore_core (f : Core → Core) (s : State) : (mapCore f s).core = f s.core := rfl
@[simp] theorem mapSt_core_id (f : Strand → Strand) (s : State) : (mapSt f s).core.id = s.core.id := rfl
@[simp] theorem mapArch_core_id (f : Arch → Arch) (s : State) : (mapArch f s).core.id = s.core.id := rfl
@[simp] theorem mapSt_core_split (f : Strand → Strand) (s : State) : (mapSt f s).core.split = s.core.split := rfl
@[simp] theorem mapArch_core_split (f : Arch → Arch) (s : State) : (mapArch f s).core.split = s.core.split := rfl
@[simp] theorem mapSt_core_scratch (f : Strand → Strand) (s : State) : (mapSt f s).core.scratch = s.core.scratch := rfl
@[simp] theorem mapArch_core_scratch (f : Arch → Arch) (s : State) : (mapArch f s).core.scratch = s.core.scratch := rfl
@[simp] theorem mapSt_core_full (f : Strand → Strand) (s : State) : (mapSt f s).core.full = s.core.full := rfl
@[simp] theorem mapArch_core_full (f : Arch → Arch) (s : State) : (mapArch f s).core.full = s.core.full := rfl
@[simp] theorem mapSt_core_banks (f : Strand → Strand) (s : State) : (mapSt f s).core.banks = s.core.banks := rfl
@[simp] theorem mapArch_core_banks (f : Arch → Arch) (s : State) : (mapArch f s).core.banks = s.core.banks := rfl
@[simp] theorem mapSt_core_queues (f : Strand → Strand) (s : State) : (mapSt f s).core.queues = s.core.queues := rfl
@[simp] theorem mapArch_core_queues (f : Arch → Arch) (s : State) : (mapArch f s).core.queues = s.core.queues := rfl
@[simp] theorem mapSt_core_mq (f : Strand → Strand) (s : State) : (mapSt f s).core.mq = s.core.mq := rfl
@[simp] theorem mapArch_core_mq (f : Arch → Arch) (s : State) : (mapArch f s).core.mq = s.core.mq := rfl
@[simp] theorem mapSt_core_mBusy (f : Strand → Strand) (s : State) : (mapSt f s).core.mBusy = s.core.mBusy := rfl
@[simp] theorem mapArch_core_mBusy (f : Arch → Arch) (s : State) : (mapArch f s).core.mBusy = s.core.mBusy := rfl
@[simp] theorem mapSt_core_mOn (f : Strand → Strand) (s : State) : (mapSt f s).core.mOn = s.core.mOn := rfl
@[simp] theorem mapArch_core_mOn (f : Arch → Arch) (s : State) : (mapArch f s).core.mOn = s.core.mOn := rfl
@[simp] theorem mapSt_core_sq (f : Strand → Strand) (s : State) : (mapSt f s).core.sq = s.core.sq := rfl
@[simp] theorem mapArch_core_sq (f : Arch → Arch) (s : State) : (mapArch f s).core.sq = s.core.sq := rfl
@[simp] theorem mapSt_core_sBusy (f : Strand → Strand) (s : State) : (mapSt f s).core.sBusy = s.core.sBusy := rfl
@[simp] theorem mapArch_core_sBusy (f : Arch → Arch) (s : State) : (mapArch f s).core.sBusy = s.core.sBusy := rfl
@[simp] theorem mapSt_core_sOn (f : Strand → Strand) (s : State) : (mapSt f s).core.sOn = s.core.sOn := rfl
@[simp] theorem mapArch_core_sOn (f : Arch → Arch) (s : State) : (mapArch f s).core.sOn = s.core.sOn := rfl
@[simp] theorem mapSt_core_coef (f : Strand → Strand) (s : State) : (mapSt f s).core.coef = s.core.coef := rfl
@[simp] theorem mapArch_core_coef (f : Arch → Arch) (s : State) : (mapArch f s).core.coef = s.core.coef := rfl
@[simp] theorem mapSt_core_grad (f : Strand → Strand) (s : State) : (mapSt f s).core.grad = s.core.grad := rfl
@[simp] theorem mapArch_core_grad (f : Arch → Arch) (s : State) : (mapArch f s).core.grad = s.core.grad := rfl
@[simp] theorem mapSt_core_below (f : Strand → Strand) (s : State) : (mapSt f s).core.below = s.core.below := rfl
@[simp] theorem mapArch_core_below (f : Arch → Arch) (s : State) : (mapArch f s).core.below = s.core.below := rfl
@[simp] theorem mapSt_core_above (f : Strand → Strand) (s : State) : (mapSt f s).core.above = s.core.above := rfl
@[simp] theorem mapArch_core_above (f : Arch → Arch) (s : State) : (mapArch f s).core.above = s.core.above := rfl
@[simp] theorem mapSt_core_held (f : Strand → Strand) (s : State) : (mapSt f s).core.held = s.core.held := rfl
@[simp] theorem mapArch_core_held (f : Arch → Arch) (s : State) : (mapArch f s).core.held = s.core.held := rfl
@[simp] theorem mapSt_core_l1 (f : Strand → Strand) (s : State) : (mapSt f s).core.l1 = s.core.l1 := rfl
@[simp] theorem mapArch_core_l1 (f : Arch → Arch) (s : State) : (mapArch f s).core.l1 = s.core.l1 := rfl
@[simp] theorem mapSt_core_rvt (f : Strand → Strand) (s : State) : (mapSt f s).core.rvt = s.core.rvt := rfl
@[simp] theorem mapArch_core_rvt (f : Arch → Arch) (s : State) : (mapArch f s).core.rvt = s.core.rvt := rfl
@[simp] theorem mapSt_core_pts (f : Strand → Strand) (s : State) : (mapSt f s).core.pts = s.core.pts := rfl
@[simp] theorem mapArch_core_pts (f : Arch → Arch) (s : State) : (mapArch f s).core.pts = s.core.pts := rfl
@[simp] theorem mapSt_core_lb (f : Strand → Strand) (s : State) : (mapSt f s).core.lb = s.core.lb := rfl
@[simp] theorem mapArch_core_lb (f : Arch → Arch) (s : State) : (mapArch f s).core.lb = s.core.lb := rfl
@[simp] theorem mapSt_core_commit (f : Strand → Strand) (s : State) : (mapSt f s).core.commit = s.core.commit := rfl
@[simp] theorem mapArch_core_commit (f : Arch → Arch) (s : State) : (mapArch f s).core.commit = s.core.commit := rfl
@[simp] theorem mapSt_core_pinTok (f : Strand → Strand) (s : State) : (mapSt f s).core.pinTok = s.core.pinTok := rfl
@[simp] theorem mapArch_core_pinTok (f : Arch → Arch) (s : State) : (mapArch f s).core.pinTok = s.core.pinTok := rfl
@[simp] theorem mapSt_core_pinReq (f : Strand → Strand) (s : State) : (mapSt f s).core.pinReq = s.core.pinReq := rfl
@[simp] theorem mapArch_core_pinReq (f : Arch → Arch) (s : State) : (mapArch f s).core.pinReq = s.core.pinReq := rfl
@[simp] theorem mapSt_core_lockWait (f : Strand → Strand) (s : State) : (mapSt f s).core.lockWait = s.core.lockWait := rfl
@[simp] theorem mapArch_core_lockWait (f : Arch → Arch) (s : State) : (mapArch f s).core.lockWait = s.core.lockWait := rfl
@[simp] theorem mapSt_core_tlb (f : Strand → Strand) (s : State) : (mapSt f s).core.tlb = s.core.tlb := rfl
@[simp] theorem mapArch_core_tlb (f : Arch → Arch) (s : State) : (mapArch f s).core.tlb = s.core.tlb := rfl
@[simp] theorem mapSt_core_xlat (f : Strand → Strand) (s : State) : (mapSt f s).core.xlat = s.core.xlat := rfl
@[simp] theorem mapArch_core_xlat (f : Arch → Arch) (s : State) : (mapArch f s).core.xlat = s.core.xlat := rfl
@[simp] theorem mapSt_core_stale (f : Strand → Strand) (s : State) : (mapSt f s).core.stale = s.core.stale := rfl
@[simp] theorem mapArch_core_stale (f : Arch → Arch) (s : State) : (mapArch f s).core.stale = s.core.stale := rfl
@[simp] theorem mapSt_core_delta (f : Strand → Strand) (s : State) : (mapSt f s).core.delta = s.core.delta := rfl
@[simp] theorem mapArch_core_delta (f : Arch → Arch) (s : State) : (mapArch f s).core.delta = s.core.delta := rfl
@[simp] theorem mapSt_core_mcw (f : Strand → Strand) (s : State) : (mapSt f s).core.mcw = s.core.mcw := rfl
@[simp] theorem mapArch_core_mcw (f : Arch → Arch) (s : State) : (mapArch f s).core.mcw = s.core.mcw := rfl
@[simp] theorem mapSt_core_mskew (f : Strand → Strand) (s : State) : (mapSt f s).core.mskew = s.core.mskew := rfl
@[simp] theorem mapArch_core_mskew (f : Arch → Arch) (s : State) : (mapArch f s).core.mskew = s.core.mskew := rfl
@[simp] theorem mapSt_core_lent (f : Strand → Strand) (s : State) : (mapSt f s).core.lent = s.core.lent := rfl
@[simp] theorem mapArch_core_lent (f : Arch → Arch) (s : State) : (mapArch f s).core.lent = s.core.lent := rfl
@[simp] theorem mapSt_core_slots (f : Strand → Strand) (s : State) : (mapSt f s).core.slots = s.core.slots := rfl
@[simp] theorem mapArch_core_slots (f : Arch → Arch) (s : State) : (mapArch f s).core.slots = s.core.slots := rfl
@[simp] theorem mapSt_core_sstep (f : Strand → Strand) (s : State) : (mapSt f s).core.sstep = s.core.sstep := rfl
@[simp] theorem mapArch_core_sstep (f : Arch → Arch) (s : State) : (mapArch f s).core.sstep = s.core.sstep := rfl
@[simp] theorem mapSt_core_brken (f : Strand → Strand) (s : State) : (mapSt f s).core.brken = s.core.brken := rfl
@[simp] theorem mapArch_core_brken (f : Arch → Arch) (s : State) : (mapArch f s).core.brken = s.core.brken := rfl
@[simp] theorem mapSt_core_dstop (f : Strand → Strand) (s : State) : (mapSt f s).core.dstop = s.core.dstop := rfl
@[simp] theorem mapArch_core_dstop (f : Arch → Arch) (s : State) : (mapArch f s).core.dstop = s.core.dstop := rfl
@[simp] theorem mapSt_core_dstopAt (f : Strand → Strand) (s : State) : (mapSt f s).core.dstopAt = s.core.dstopAt := rfl
@[simp] theorem mapArch_core_dstopAt (f : Arch → Arch) (s : State) : (mapArch f s).core.dstopAt = s.core.dstopAt := rfl
@[simp] theorem mapSt_core_dead (f : Strand → Strand) (s : State) : (mapSt f s).core.dead = s.core.dead := rfl
@[simp] theorem mapArch_core_dead (f : Arch → Arch) (s : State) : (mapArch f s).core.dead = s.core.dead := rfl
@[simp] theorem mapSt_core_st (f : Strand → Strand) (s : State) : (mapSt f s).core.st = f s.core.st := rfl
@[simp] theorem mapArch_core_st_shadow (f : Arch → Arch) (s : State) : (mapArch f s).core.st.shadow = s.core.st.shadow := rfl
@[simp] theorem mapArch_core_st_ckptPc (f : Arch → Arch) (s : State) : (mapArch f s).core.st.ckptPc = s.core.st.ckptPc := rfl
@[simp] theorem mapArch_core_st_hckpt (f : Arch → Arch) (s : State) : (mapArch f s).core.st.hckpt = s.core.st.hckpt := rfl
@[simp] theorem mapArch_core_st_trapPc (f : Arch → Arch) (s : State) : (mapArch f s).core.st.trapPc = s.core.st.trapPc := rfl
@[simp] theorem mapArch_core_st_trapCause (f : Arch → Arch) (s : State) : (mapArch f s).core.st.trapCause = s.core.st.trapCause := rfl
@[simp] theorem mapArch_core_st_trapInfo (f : Arch → Arch) (s : State) : (mapArch f s).core.st.trapInfo = s.core.st.trapInfo := rfl
@[simp] theorem mapArch_core_st_trapBase (f : Arch → Arch) (s : State) : (mapArch f s).core.st.trapBase = s.core.st.trapBase := rfl
@[simp] theorem mapArch_core_st_lathdr (f : Arch → Arch) (s : State) : (mapArch f s).core.st.lathdr = s.core.st.lathdr := rfl
@[simp] theorem mapArch_core_st_tm (f : Arch → Arch) (s : State) : (mapArch f s).core.st.tm = s.core.st.tm := rfl
@[simp] theorem mapArch_core_st_pin (f : Arch → Arch) (s : State) : (mapArch f s).core.st.pin = s.core.st.pin := rfl
@[simp] theorem mapArch_core_st_retry (f : Arch → Arch) (s : State) : (mapArch f s).core.st.retry = s.core.st.retry := rfl
@[simp] theorem mapArch_core_st_passed (f : Arch → Arch) (s : State) : (mapArch f s).core.st.passed = s.core.st.passed := rfl
@[simp] theorem mapArch_core_st_gangId (f : Arch → Arch) (s : State) : (mapArch f s).core.st.gangId = s.core.st.gangId := rfl
@[simp] theorem mapArch_core_st_gangDim (f : Arch → Arch) (s : State) : (mapArch f s).core.st.gangDim = s.core.st.gangDim := rfl
@[simp] theorem mapArch_core_st_strandIx (f : Arch → Arch) (s : State) : (mapArch f s).core.st.strandIx = s.core.st.strandIx := rfl
@[simp] theorem mapArch_core_st_spilln (f : Arch → Arch) (s : State) : (mapArch f s).core.st.spilln = s.core.st.spilln := rfl
@[simp] theorem mapArch_core_st_spill (f : Arch → Arch) (s : State) : (mapArch f s).core.st.spill = s.core.st.spill := rfl
@[simp] theorem mapArch_core_st_cyc (f : Arch → Arch) (s : State) : (mapArch f s).core.st.cyc = s.core.st.cyc := rfl
@[simp] theorem mapArch_core_st_fresh (f : Arch → Arch) (s : State) : (mapArch f s).core.st.fresh = s.core.st.fresh := rfl
@[simp] theorem mapArch_core_st_seq (f : Arch → Arch) (s : State) : (mapArch f s).core.st.seq = s.core.st.seq := rfl
@[simp] theorem mapArch_core_st_pend (f : Arch → Arch) (s : State) : (mapArch f s).core.st.pend = s.core.st.pend := rfl
@[simp] theorem mapArch_core_st_vls (f : Arch → Arch) (s : State) : (mapArch f s).core.st.vls = s.core.st.vls := rfl
@[simp] theorem mapArch_core_st_imgs (f : Arch → Arch) (s : State) : (mapArch f s).core.st.imgs = s.core.st.imgs := rfl
@[simp] theorem mapArch_core_st_ckDone (f : Arch → Arch) (s : State) : (mapArch f s).core.st.ckDone = s.core.st.ckDone := rfl
@[simp] theorem mapArch_core_st_wait (f : Arch → Arch) (s : State) : (mapArch f s).core.st.wait = s.core.st.wait := rfl
@[simp] theorem mapArch_core_st_ending (f : Arch → Arch) (s : State) : (mapArch f s).core.st.ending = s.core.st.ending := rfl
@[simp] theorem mapArch_core_st_run (f : Arch → Arch) (s : State) : (mapArch f s).core.st.run = s.core.st.run := rfl
@[simp] theorem mapArch_core_st_a (f : Arch → Arch) (s : State) : (mapArch f s).core.st.a = f s.core.st.a := rfl
@[simp] theorem mapCtx_now (f : Ctx → Ctx) (s : State) : (mapCtx f s).now = s.now := rfl
@[simp] theorem mapCtx_core (f : Ctx → Ctx) (s : State) : (mapCtx f s).core = s.core := rfl
@[simp] theorem mapCtx_others (f : Ctx → Ctx) (s : State) : (mapCtx f s).others = s.others := rfl
@[simp] theorem mapCtx_ctx (f : Ctx → Ctx) (s : State) : (mapCtx f s).ctx = f s.ctx := rfl
@[simp] theorem mapCtx_turn (f : Ctx → Ctx) (s : State) : (mapCtx f s).turn = s.turn := rfl
@[simp] theorem mapCtx_wturn (f : Ctx → Ctx) (s : State) : (mapCtx f s).wturn = s.wturn := rfl
@[simp] theorem mapCtx_wcur (f : Ctx → Ctx) (s : State) : (mapCtx f s).wcur = s.wcur := rfl
@[simp] theorem mapCtx_agenda (f : Ctx → Ctx) (s : State) : (mapCtx f s).agenda = s.agenda := rfl
@[simp] theorem mapCtx_free (f : Ctx → Ctx) (s : State) : (mapCtx f s).free = s.free := rfl
@[simp] theorem mapCtx_nextId (f : Ctx → Ctx) (s : State) : (mapCtx f s).nextId = s.nextId := rfl
@[simp] theorem mapCtx_mem (f : Ctx → Ctx) (s : State) : (mapCtx f s).mem = s.mem := rfl
@[simp] theorem mapCtx_wm (f : Ctx → Ctx) (s : State) : (mapCtx f s).wm = s.wm := rfl
@[simp] theorem mapCtx_dir (f : Ctx → Ctx) (s : State) : (mapCtx f s).dir = s.dir := rfl
@[simp] theorem mapCtx_hc (f : Ctx → Ctx) (s : State) : (mapCtx f s).hc = s.hc := rfl
@[simp] theorem mapCtx_locks (f : Ctx → Ctx) (s : State) : (mapCtx f s).locks = s.locks := rfl
@[simp] theorem mapCtx_slices (f : Ctx → Ctx) (s : State) : (mapCtx f s).slices = s.slices := rfl
@[simp] theorem mapCtx_hbm (f : Ctx → Ctx) (s : State) : (mapCtx f s).hbm = s.hbm := rfl
@[simp] theorem mapCtx_sram (f : Ctx → Ctx) (s : State) : (mapCtx f s).sram = s.sram := rfl
@[simp] theorem mapCtx_waiters (f : Ctx → Ctx) (s : State) : (mapCtx f s).waiters = s.waiters := rfl
@[simp] theorem mapCtx_closes (f : Ctx → Ctx) (s : State) : (mapCtx f s).closes = s.closes := rfl
@[simp] theorem mapCtx_tmq (f : Ctx → Ctx) (s : State) : (mapCtx f s).tmq = s.tmq := rfl
@[simp] theorem mapCtx_dieTlb (f : Ctx → Ctx) (s : State) : (mapCtx f s).dieTlb = s.dieTlb := rfl
@[simp] theorem mapCtx_copies (f : Ctx → Ctx) (s : State) : (mapCtx f s).copies = s.copies := rfl
@[simp] theorem mapCtx_loads (f : Ctx → Ctx) (s : State) : (mapCtx f s).loads = s.loads := rfl
@[simp] theorem mapCtx_launchq (f : Ctx → Ctx) (s : State) : (mapCtx f s).launchq = s.launchq := rfl
@[simp] theorem mapCtx_stats (f : Ctx → Ctx) (s : State) : (mapCtx f s).stats = s.stats := rfl
@[simp] theorem mapCtx_segs (f : Ctx → Ctx) (s : State) : (mapCtx f s).segs = s.segs := rfl
@[simp] theorem mapCtx_mcs (f : Ctx → Ctx) (s : State) : (mapCtx f s).mcs = s.mcs := rfl
@[simp] theorem mapCtx_ports (f : Ctx → Ctx) (s : State) : (mapCtx f s).ports = s.ports := rfl
@[simp] theorem mapCtx_ptx (f : Ctx → Ctx) (s : State) : (mapCtx f s).ptx = s.ptx := rfl
@[simp] theorem mapCtx_snoops (f : Ctx → Ctx) (s : State) : (mapCtx f s).snoops = s.snoops := rfl
@[simp] theorem mapCtx_birsp (f : Ctx → Ctx) (s : State) : (mapCtx f s).birsp = s.birsp := rfl
@[simp] theorem mapCtx_clnEvcts (f : Ctx → Ctx) (s : State) : (mapCtx f s).clnEvcts = s.clnEvcts := rfl
@[simp] theorem mapCtx_dom (f : Ctx → Ctx) (s : State) : (mapCtx f s).dom = s.dom := rfl
@[simp] theorem mapCtx_gdown (f : Ctx → Ctx) (s : State) : (mapCtx f s).gdown = s.gdown := rfl
@[simp] theorem mapCtx_gout (f : Ctx → Ctx) (s : State) : (mapCtx f s).gout = s.gout := rfl
@[simp] theorem mapCtx_gseq (f : Ctx → Ctx) (s : State) : (mapCtx f s).gseq = s.gseq := rfl
@[simp] theorem mapCtx_gseen (f : Ctx → Ctx) (s : State) : (mapCtx f s).gseen = s.gseen := rfl
@[simp] theorem mapCtx_gacks (f : Ctx → Ctx) (s : State) : (mapCtx f s).gacks = s.gacks := rfl
@[simp] theorem mapCtx_rtimes (f : Ctx → Ctx) (s : State) : (mapCtx f s).rtimes = s.rtimes := rfl
@[simp] theorem mapCtx_rctrs (f : Ctx → Ctx) (s : State) : (mapCtx f s).rctrs = s.rctrs := rfl
@[simp] theorem mapCtx_cfOrs (f : Ctx → Ctx) (s : State) : (mapCtx f s).cfOrs = s.cfOrs := rfl
@[simp] theorem mapCtx_sched (f : Ctx → Ctx) (s : State) : (mapCtx f s).sched = s.sched := rfl
@[simp] theorem mapCtx_spawnq (f : Ctx → Ctx) (s : State) : (mapCtx f s).spawnq = s.spawnq := rfl
@[simp] theorem mapCtx_standby (f : Ctx → Ctx) (s : State) : (mapCtx f s).standby = s.standby := rfl
@[simp] theorem mapCtx_schedAt (f : Ctx → Ctx) (s : State) : (mapCtx f s).schedAt = s.schedAt := rfl
@[simp] theorem mapCtx_tables (f : Ctx → Ctx) (s : State) : (mapCtx f s).tables = s.tables := rfl
@[simp] theorem mapCtx_adders (f : Ctx → Ctx) (s : State) : (mapCtx f s).adders = s.adders := rfl
@[simp] theorem mapCtx_switches (f : Ctx → Ctx) (s : State) : (mapCtx f s).switches = s.switches := rfl
@[simp] theorem mapCtx_routes (f : Ctx → Ctx) (s : State) : (mapCtx f s).routes = s.routes := rfl
@[simp] theorem mapCtx_colls (f : Ctx → Ctx) (s : State) : (mapCtx f s).colls = s.colls := rfl
@[simp] theorem mapCtx_wglq (f : Ctx → Ctx) (s : State) : (mapCtx f s).wglq = s.wglq := rfl
@[simp] theorem mapCtx_wcount (f : Ctx → Ctx) (s : State) : (mapCtx f s).wcount = s.wcount := rfl
@[simp] theorem mapCtx_wstat (f : Ctx → Ctx) (s : State) : (mapCtx f s).wstat = s.wstat := rfl
@[simp] theorem mapCtx_waborts (f : Ctx → Ctx) (s : State) : (mapCtx f s).waborts = s.waborts := rfl
@[simp] theorem mapCtx_wsigs (f : Ctx → Ctx) (s : State) : (mapCtx f s).wsigs = s.wsigs := rfl
@[simp] theorem mapCtx_wchunks (f : Ctx → Ctx) (s : State) : (mapCtx f s).wchunks = s.wchunks := rfl
@[simp] theorem mapCtx_wvals (f : Ctx → Ctx) (s : State) : (mapCtx f s).wvals = s.wvals := rfl
@[simp] theorem mapCtx_host (f : Ctx → Ctx) (s : State) : (mapCtx f s).host = s.host := rfl
@[simp] theorem mapCtx_ctl (f : Ctx → Ctx) (s : State) : (mapCtx f s).ctl = s.ctl := rfl
@[simp] theorem mapCtx_invals (f : Ctx → Ctx) (s : State) : (mapCtx f s).invals = s.invals := rfl
@[simp] theorem mapCtx_lockreqs (f : Ctx → Ctx) (s : State) : (mapCtx f s).lockreqs = s.lockreqs := rfl
@[simp] theorem due_now (n : Nat) (i : Instr) (s : State) : (due n i s).now = s.now := rfl
@[simp] theorem due_core (n : Nat) (i : Instr) (s : State) : (due n i s).core = s.core := rfl
@[simp] theorem due_others (n : Nat) (i : Instr) (s : State) : (due n i s).others = s.others := rfl
@[simp] theorem due_ctx (n : Nat) (i : Instr) (s : State) : (due n i s).ctx = s.ctx := rfl
@[simp] theorem due_turn (n : Nat) (i : Instr) (s : State) : (due n i s).turn = s.turn := rfl
@[simp] theorem due_wturn (n : Nat) (i : Instr) (s : State) : (due n i s).wturn = s.wturn := rfl
@[simp] theorem due_wcur (n : Nat) (i : Instr) (s : State) : (due n i s).wcur = s.wcur := rfl
@[simp] theorem due_agenda (n : Nat) (i : Instr) (s : State) : (due n i s).agenda = s.agenda ++ [⟨n, i⟩] := rfl
@[simp] theorem due_free (n : Nat) (i : Instr) (s : State) : (due n i s).free = s.free := rfl
@[simp] theorem due_nextId (n : Nat) (i : Instr) (s : State) : (due n i s).nextId = s.nextId := rfl
@[simp] theorem due_mem (n : Nat) (i : Instr) (s : State) : (due n i s).mem = s.mem := rfl
@[simp] theorem due_wm (n : Nat) (i : Instr) (s : State) : (due n i s).wm = s.wm := rfl
@[simp] theorem due_dir (n : Nat) (i : Instr) (s : State) : (due n i s).dir = s.dir := rfl
@[simp] theorem due_hc (n : Nat) (i : Instr) (s : State) : (due n i s).hc = s.hc := rfl
@[simp] theorem due_locks (n : Nat) (i : Instr) (s : State) : (due n i s).locks = s.locks := rfl
@[simp] theorem due_slices (n : Nat) (i : Instr) (s : State) : (due n i s).slices = s.slices := rfl
@[simp] theorem due_hbm (n : Nat) (i : Instr) (s : State) : (due n i s).hbm = s.hbm := rfl
@[simp] theorem due_sram (n : Nat) (i : Instr) (s : State) : (due n i s).sram = s.sram := rfl
@[simp] theorem due_waiters (n : Nat) (i : Instr) (s : State) : (due n i s).waiters = s.waiters := rfl
@[simp] theorem due_closes (n : Nat) (i : Instr) (s : State) : (due n i s).closes = s.closes := rfl
@[simp] theorem due_tmq (n : Nat) (i : Instr) (s : State) : (due n i s).tmq = s.tmq := rfl
@[simp] theorem due_dieTlb (n : Nat) (i : Instr) (s : State) : (due n i s).dieTlb = s.dieTlb := rfl
@[simp] theorem due_copies (n : Nat) (i : Instr) (s : State) : (due n i s).copies = s.copies := rfl
@[simp] theorem due_loads (n : Nat) (i : Instr) (s : State) : (due n i s).loads = s.loads := rfl
@[simp] theorem due_launchq (n : Nat) (i : Instr) (s : State) : (due n i s).launchq = s.launchq := rfl
@[simp] theorem due_stats (n : Nat) (i : Instr) (s : State) : (due n i s).stats = s.stats := rfl
@[simp] theorem due_segs (n : Nat) (i : Instr) (s : State) : (due n i s).segs = s.segs := rfl
@[simp] theorem due_mcs (n : Nat) (i : Instr) (s : State) : (due n i s).mcs = s.mcs := rfl
@[simp] theorem due_ports (n : Nat) (i : Instr) (s : State) : (due n i s).ports = s.ports := rfl
@[simp] theorem due_ptx (n : Nat) (i : Instr) (s : State) : (due n i s).ptx = s.ptx := rfl
@[simp] theorem due_snoops (n : Nat) (i : Instr) (s : State) : (due n i s).snoops = s.snoops := rfl
@[simp] theorem due_birsp (n : Nat) (i : Instr) (s : State) : (due n i s).birsp = s.birsp := rfl
@[simp] theorem due_clnEvcts (n : Nat) (i : Instr) (s : State) : (due n i s).clnEvcts = s.clnEvcts := rfl
@[simp] theorem due_dom (n : Nat) (i : Instr) (s : State) : (due n i s).dom = s.dom := rfl
@[simp] theorem due_gdown (n : Nat) (i : Instr) (s : State) : (due n i s).gdown = s.gdown := rfl
@[simp] theorem due_gout (n : Nat) (i : Instr) (s : State) : (due n i s).gout = s.gout := rfl
@[simp] theorem due_gseq (n : Nat) (i : Instr) (s : State) : (due n i s).gseq = s.gseq := rfl
@[simp] theorem due_gseen (n : Nat) (i : Instr) (s : State) : (due n i s).gseen = s.gseen := rfl
@[simp] theorem due_gacks (n : Nat) (i : Instr) (s : State) : (due n i s).gacks = s.gacks := rfl
@[simp] theorem due_rtimes (n : Nat) (i : Instr) (s : State) : (due n i s).rtimes = s.rtimes := rfl
@[simp] theorem due_rctrs (n : Nat) (i : Instr) (s : State) : (due n i s).rctrs = s.rctrs := rfl
@[simp] theorem due_cfOrs (n : Nat) (i : Instr) (s : State) : (due n i s).cfOrs = s.cfOrs := rfl
@[simp] theorem due_sched (n : Nat) (i : Instr) (s : State) : (due n i s).sched = s.sched := rfl
@[simp] theorem due_spawnq (n : Nat) (i : Instr) (s : State) : (due n i s).spawnq = s.spawnq := rfl
@[simp] theorem due_standby (n : Nat) (i : Instr) (s : State) : (due n i s).standby = s.standby := rfl
@[simp] theorem due_schedAt (n : Nat) (i : Instr) (s : State) : (due n i s).schedAt = s.schedAt := rfl
@[simp] theorem due_tables (n : Nat) (i : Instr) (s : State) : (due n i s).tables = s.tables := rfl
@[simp] theorem due_adders (n : Nat) (i : Instr) (s : State) : (due n i s).adders = s.adders := rfl
@[simp] theorem due_switches (n : Nat) (i : Instr) (s : State) : (due n i s).switches = s.switches := rfl
@[simp] theorem due_routes (n : Nat) (i : Instr) (s : State) : (due n i s).routes = s.routes := rfl
@[simp] theorem due_colls (n : Nat) (i : Instr) (s : State) : (due n i s).colls = s.colls := rfl
@[simp] theorem due_wglq (n : Nat) (i : Instr) (s : State) : (due n i s).wglq = s.wglq := rfl
@[simp] theorem due_wcount (n : Nat) (i : Instr) (s : State) : (due n i s).wcount = s.wcount := rfl
@[simp] theorem due_wstat (n : Nat) (i : Instr) (s : State) : (due n i s).wstat = s.wstat := rfl
@[simp] theorem due_waborts (n : Nat) (i : Instr) (s : State) : (due n i s).waborts = s.waborts := rfl
@[simp] theorem due_wsigs (n : Nat) (i : Instr) (s : State) : (due n i s).wsigs = s.wsigs := rfl
@[simp] theorem due_wchunks (n : Nat) (i : Instr) (s : State) : (due n i s).wchunks = s.wchunks := rfl
@[simp] theorem due_wvals (n : Nat) (i : Instr) (s : State) : (due n i s).wvals = s.wvals := rfl
@[simp] theorem due_host (n : Nat) (i : Instr) (s : State) : (due n i s).host = s.host := rfl
@[simp] theorem due_ctl (n : Nat) (i : Instr) (s : State) : (due n i s).ctl = s.ctl := rfl
@[simp] theorem due_invals (n : Nat) (i : Instr) (s : State) : (due n i s).invals = s.invals := rfl
@[simp] theorem due_lockreqs (n : Nat) (i : Instr) (s : State) : (due n i s).lockreqs = s.lockreqs := rfl
@[simp] theorem setDir_now (l : Nat) (d : Dir) (s : State) : (setDir l d s).now = s.now := rfl
@[simp] theorem setDir_core (l : Nat) (d : Dir) (s : State) : (setDir l d s).core = s.core := rfl
@[simp] theorem setDir_others (l : Nat) (d : Dir) (s : State) : (setDir l d s).others = s.others := rfl
@[simp] theorem setDir_ctx (l : Nat) (d : Dir) (s : State) : (setDir l d s).ctx = s.ctx := rfl
@[simp] theorem setDir_turn (l : Nat) (d : Dir) (s : State) : (setDir l d s).turn = s.turn := rfl
@[simp] theorem setDir_wturn (l : Nat) (d : Dir) (s : State) : (setDir l d s).wturn = s.wturn := rfl
@[simp] theorem setDir_wcur (l : Nat) (d : Dir) (s : State) : (setDir l d s).wcur = s.wcur := rfl
@[simp] theorem setDir_agenda (l : Nat) (d : Dir) (s : State) : (setDir l d s).agenda = s.agenda := rfl
@[simp] theorem setDir_free (l : Nat) (d : Dir) (s : State) : (setDir l d s).free = s.free := rfl
@[simp] theorem setDir_nextId (l : Nat) (d : Dir) (s : State) : (setDir l d s).nextId = s.nextId := rfl
@[simp] theorem setDir_mem (l : Nat) (d : Dir) (s : State) : (setDir l d s).mem = s.mem := rfl
@[simp] theorem setDir_wm (l : Nat) (d : Dir) (s : State) : (setDir l d s).wm = s.wm := rfl
@[simp] theorem setDir_dir (l : Nat) (d : Dir) (s : State) : (setDir l d s).dir = putKey s.dir l d := rfl
@[simp] theorem setDir_hc (l : Nat) (d : Dir) (s : State) : (setDir l d s).hc = s.hc := rfl
@[simp] theorem setDir_locks (l : Nat) (d : Dir) (s : State) : (setDir l d s).locks = s.locks := rfl
@[simp] theorem setDir_slices (l : Nat) (d : Dir) (s : State) : (setDir l d s).slices = s.slices := rfl
@[simp] theorem setDir_hbm (l : Nat) (d : Dir) (s : State) : (setDir l d s).hbm = s.hbm := rfl
@[simp] theorem setDir_sram (l : Nat) (d : Dir) (s : State) : (setDir l d s).sram = s.sram := rfl
@[simp] theorem setDir_waiters (l : Nat) (d : Dir) (s : State) : (setDir l d s).waiters = s.waiters := rfl
@[simp] theorem setDir_closes (l : Nat) (d : Dir) (s : State) : (setDir l d s).closes = s.closes := rfl
@[simp] theorem setDir_tmq (l : Nat) (d : Dir) (s : State) : (setDir l d s).tmq = s.tmq := rfl
@[simp] theorem setDir_dieTlb (l : Nat) (d : Dir) (s : State) : (setDir l d s).dieTlb = s.dieTlb := rfl
@[simp] theorem setDir_copies (l : Nat) (d : Dir) (s : State) : (setDir l d s).copies = s.copies := rfl
@[simp] theorem setDir_loads (l : Nat) (d : Dir) (s : State) : (setDir l d s).loads = s.loads := rfl
@[simp] theorem setDir_launchq (l : Nat) (d : Dir) (s : State) : (setDir l d s).launchq = s.launchq := rfl
@[simp] theorem setDir_stats (l : Nat) (d : Dir) (s : State) : (setDir l d s).stats = s.stats := rfl
@[simp] theorem setDir_segs (l : Nat) (d : Dir) (s : State) : (setDir l d s).segs = s.segs := rfl
@[simp] theorem setDir_mcs (l : Nat) (d : Dir) (s : State) : (setDir l d s).mcs = s.mcs := rfl
@[simp] theorem setDir_ports (l : Nat) (d : Dir) (s : State) : (setDir l d s).ports = s.ports := rfl
@[simp] theorem setDir_ptx (l : Nat) (d : Dir) (s : State) : (setDir l d s).ptx = s.ptx := rfl
@[simp] theorem setDir_snoops (l : Nat) (d : Dir) (s : State) : (setDir l d s).snoops = s.snoops := rfl
@[simp] theorem setDir_birsp (l : Nat) (d : Dir) (s : State) : (setDir l d s).birsp = s.birsp := rfl
@[simp] theorem setDir_clnEvcts (l : Nat) (d : Dir) (s : State) : (setDir l d s).clnEvcts = s.clnEvcts := rfl
@[simp] theorem setDir_dom (l : Nat) (d : Dir) (s : State) : (setDir l d s).dom = s.dom := rfl
@[simp] theorem setDir_gdown (l : Nat) (d : Dir) (s : State) : (setDir l d s).gdown = s.gdown := rfl
@[simp] theorem setDir_gout (l : Nat) (d : Dir) (s : State) : (setDir l d s).gout = s.gout := rfl
@[simp] theorem setDir_gseq (l : Nat) (d : Dir) (s : State) : (setDir l d s).gseq = s.gseq := rfl
@[simp] theorem setDir_gseen (l : Nat) (d : Dir) (s : State) : (setDir l d s).gseen = s.gseen := rfl
@[simp] theorem setDir_gacks (l : Nat) (d : Dir) (s : State) : (setDir l d s).gacks = s.gacks := rfl
@[simp] theorem setDir_rtimes (l : Nat) (d : Dir) (s : State) : (setDir l d s).rtimes = s.rtimes := rfl
@[simp] theorem setDir_rctrs (l : Nat) (d : Dir) (s : State) : (setDir l d s).rctrs = s.rctrs := rfl
@[simp] theorem setDir_cfOrs (l : Nat) (d : Dir) (s : State) : (setDir l d s).cfOrs = s.cfOrs := rfl
@[simp] theorem setDir_sched (l : Nat) (d : Dir) (s : State) : (setDir l d s).sched = s.sched := rfl
@[simp] theorem setDir_spawnq (l : Nat) (d : Dir) (s : State) : (setDir l d s).spawnq = s.spawnq := rfl
@[simp] theorem setDir_standby (l : Nat) (d : Dir) (s : State) : (setDir l d s).standby = s.standby := rfl
@[simp] theorem setDir_schedAt (l : Nat) (d : Dir) (s : State) : (setDir l d s).schedAt = s.schedAt := rfl
@[simp] theorem setDir_tables (l : Nat) (d : Dir) (s : State) : (setDir l d s).tables = s.tables := rfl
@[simp] theorem setDir_adders (l : Nat) (d : Dir) (s : State) : (setDir l d s).adders = s.adders := rfl
@[simp] theorem setDir_switches (l : Nat) (d : Dir) (s : State) : (setDir l d s).switches = s.switches := rfl
@[simp] theorem setDir_routes (l : Nat) (d : Dir) (s : State) : (setDir l d s).routes = s.routes := rfl
@[simp] theorem setDir_colls (l : Nat) (d : Dir) (s : State) : (setDir l d s).colls = s.colls := rfl
@[simp] theorem setDir_wglq (l : Nat) (d : Dir) (s : State) : (setDir l d s).wglq = s.wglq := rfl
@[simp] theorem setDir_wcount (l : Nat) (d : Dir) (s : State) : (setDir l d s).wcount = s.wcount := rfl
@[simp] theorem setDir_wstat (l : Nat) (d : Dir) (s : State) : (setDir l d s).wstat = s.wstat := rfl
@[simp] theorem setDir_waborts (l : Nat) (d : Dir) (s : State) : (setDir l d s).waborts = s.waborts := rfl
@[simp] theorem setDir_wsigs (l : Nat) (d : Dir) (s : State) : (setDir l d s).wsigs = s.wsigs := rfl
@[simp] theorem setDir_wchunks (l : Nat) (d : Dir) (s : State) : (setDir l d s).wchunks = s.wchunks := rfl
@[simp] theorem setDir_wvals (l : Nat) (d : Dir) (s : State) : (setDir l d s).wvals = s.wvals := rfl
@[simp] theorem setDir_host (l : Nat) (d : Dir) (s : State) : (setDir l d s).host = s.host := rfl
@[simp] theorem setDir_ctl (l : Nat) (d : Dir) (s : State) : (setDir l d s).ctl = s.ctl := rfl
@[simp] theorem setDir_invals (l : Nat) (d : Dir) (s : State) : (setDir l d s).invals = s.invals := rfl
@[simp] theorem setDir_lockreqs (l : Nat) (d : Dir) (s : State) : (setDir l d s).lockreqs = s.lockreqs := rfl
@[simp] theorem wrByte_now (pa : Nat) (b : Byte) (s : State) : (wrByte pa b s).now = s.now := rfl
@[simp] theorem wrByte_core (pa : Nat) (b : Byte) (s : State) : (wrByte pa b s).core = s.core := rfl
@[simp] theorem wrByte_others (pa : Nat) (b : Byte) (s : State) : (wrByte pa b s).others = s.others := rfl
@[simp] theorem wrByte_ctx (pa : Nat) (b : Byte) (s : State) : (wrByte pa b s).ctx = s.ctx := rfl
@[simp] theorem wrByte_turn (pa : Nat) (b : Byte) (s : State) : (wrByte pa b s).turn = s.turn := rfl
@[simp] theorem wrByte_wturn (pa : Nat) (b : Byte) (s : State) : (wrByte pa b s).wturn = s.wturn := rfl
@[simp] theorem wrByte_wcur (pa : Nat) (b : Byte) (s : State) : (wrByte pa b s).wcur = s.wcur := rfl
@[simp] theorem wrByte_agenda (pa : Nat) (b : Byte) (s : State) : (wrByte pa b s).agenda = s.agenda := rfl
@[simp] theorem wrByte_free (pa : Nat) (b : Byte) (s : State) : (wrByte pa b s).free = s.free := rfl
@[simp] theorem wrByte_nextId (pa : Nat) (b : Byte) (s : State) : (wrByte pa b s).nextId = s.nextId := rfl
@[simp] theorem wrByte_mem (pa : Nat) (b : Byte) (s : State) : (wrByte pa b s).mem = SMap.set 0 s.mem pa b := rfl
@[simp] theorem wrByte_wm (pa : Nat) (b : Byte) (s : State) : (wrByte pa b s).wm = s.wm := rfl
@[simp] theorem wrByte_dir (pa : Nat) (b : Byte) (s : State) : (wrByte pa b s).dir = s.dir := rfl
@[simp] theorem wrByte_hc (pa : Nat) (b : Byte) (s : State) : (wrByte pa b s).hc = s.hc := rfl
@[simp] theorem wrByte_locks (pa : Nat) (b : Byte) (s : State) : (wrByte pa b s).locks = s.locks := rfl
@[simp] theorem wrByte_slices (pa : Nat) (b : Byte) (s : State) : (wrByte pa b s).slices = s.slices := rfl
@[simp] theorem wrByte_hbm (pa : Nat) (b : Byte) (s : State) : (wrByte pa b s).hbm = s.hbm := rfl
@[simp] theorem wrByte_sram (pa : Nat) (b : Byte) (s : State) : (wrByte pa b s).sram = s.sram := rfl
@[simp] theorem wrByte_waiters (pa : Nat) (b : Byte) (s : State) : (wrByte pa b s).waiters = s.waiters := rfl
@[simp] theorem wrByte_closes (pa : Nat) (b : Byte) (s : State) : (wrByte pa b s).closes = s.closes := rfl
@[simp] theorem wrByte_tmq (pa : Nat) (b : Byte) (s : State) : (wrByte pa b s).tmq = s.tmq := rfl
@[simp] theorem wrByte_dieTlb (pa : Nat) (b : Byte) (s : State) : (wrByte pa b s).dieTlb = s.dieTlb := rfl
@[simp] theorem wrByte_copies (pa : Nat) (b : Byte) (s : State) : (wrByte pa b s).copies = s.copies := rfl
@[simp] theorem wrByte_loads (pa : Nat) (b : Byte) (s : State) : (wrByte pa b s).loads = s.loads := rfl
@[simp] theorem wrByte_launchq (pa : Nat) (b : Byte) (s : State) : (wrByte pa b s).launchq = s.launchq := rfl
@[simp] theorem wrByte_stats (pa : Nat) (b : Byte) (s : State) : (wrByte pa b s).stats = s.stats := rfl
@[simp] theorem wrByte_segs (pa : Nat) (b : Byte) (s : State) : (wrByte pa b s).segs = s.segs := rfl
@[simp] theorem wrByte_mcs (pa : Nat) (b : Byte) (s : State) : (wrByte pa b s).mcs = s.mcs := rfl
@[simp] theorem wrByte_ports (pa : Nat) (b : Byte) (s : State) : (wrByte pa b s).ports = s.ports := rfl
@[simp] theorem wrByte_ptx (pa : Nat) (b : Byte) (s : State) : (wrByte pa b s).ptx = s.ptx := rfl
@[simp] theorem wrByte_snoops (pa : Nat) (b : Byte) (s : State) : (wrByte pa b s).snoops = s.snoops := rfl
@[simp] theorem wrByte_birsp (pa : Nat) (b : Byte) (s : State) : (wrByte pa b s).birsp = s.birsp := rfl
@[simp] theorem wrByte_clnEvcts (pa : Nat) (b : Byte) (s : State) : (wrByte pa b s).clnEvcts = s.clnEvcts := rfl
@[simp] theorem wrByte_dom (pa : Nat) (b : Byte) (s : State) : (wrByte pa b s).dom = s.dom := rfl
@[simp] theorem wrByte_gdown (pa : Nat) (b : Byte) (s : State) : (wrByte pa b s).gdown = s.gdown := rfl
@[simp] theorem wrByte_gout (pa : Nat) (b : Byte) (s : State) : (wrByte pa b s).gout = s.gout := rfl
@[simp] theorem wrByte_gseq (pa : Nat) (b : Byte) (s : State) : (wrByte pa b s).gseq = s.gseq := rfl
@[simp] theorem wrByte_gseen (pa : Nat) (b : Byte) (s : State) : (wrByte pa b s).gseen = s.gseen := rfl
@[simp] theorem wrByte_gacks (pa : Nat) (b : Byte) (s : State) : (wrByte pa b s).gacks = s.gacks := rfl
@[simp] theorem wrByte_rtimes (pa : Nat) (b : Byte) (s : State) : (wrByte pa b s).rtimes = s.rtimes := rfl
@[simp] theorem wrByte_rctrs (pa : Nat) (b : Byte) (s : State) : (wrByte pa b s).rctrs = s.rctrs := rfl
@[simp] theorem wrByte_cfOrs (pa : Nat) (b : Byte) (s : State) : (wrByte pa b s).cfOrs = s.cfOrs := rfl
@[simp] theorem wrByte_sched (pa : Nat) (b : Byte) (s : State) : (wrByte pa b s).sched = s.sched := rfl
@[simp] theorem wrByte_spawnq (pa : Nat) (b : Byte) (s : State) : (wrByte pa b s).spawnq = s.spawnq := rfl
@[simp] theorem wrByte_standby (pa : Nat) (b : Byte) (s : State) : (wrByte pa b s).standby = s.standby := rfl
@[simp] theorem wrByte_schedAt (pa : Nat) (b : Byte) (s : State) : (wrByte pa b s).schedAt = s.schedAt := rfl
@[simp] theorem wrByte_tables (pa : Nat) (b : Byte) (s : State) : (wrByte pa b s).tables = s.tables := rfl
@[simp] theorem wrByte_adders (pa : Nat) (b : Byte) (s : State) : (wrByte pa b s).adders = s.adders := rfl
@[simp] theorem wrByte_switches (pa : Nat) (b : Byte) (s : State) : (wrByte pa b s).switches = s.switches := rfl
@[simp] theorem wrByte_routes (pa : Nat) (b : Byte) (s : State) : (wrByte pa b s).routes = s.routes := rfl
@[simp] theorem wrByte_colls (pa : Nat) (b : Byte) (s : State) : (wrByte pa b s).colls = s.colls := rfl
@[simp] theorem wrByte_wglq (pa : Nat) (b : Byte) (s : State) : (wrByte pa b s).wglq = s.wglq := rfl
@[simp] theorem wrByte_wcount (pa : Nat) (b : Byte) (s : State) : (wrByte pa b s).wcount = s.wcount := rfl
@[simp] theorem wrByte_wstat (pa : Nat) (b : Byte) (s : State) : (wrByte pa b s).wstat = s.wstat := rfl
@[simp] theorem wrByte_waborts (pa : Nat) (b : Byte) (s : State) : (wrByte pa b s).waborts = s.waborts := rfl
@[simp] theorem wrByte_wsigs (pa : Nat) (b : Byte) (s : State) : (wrByte pa b s).wsigs = s.wsigs := rfl
@[simp] theorem wrByte_wchunks (pa : Nat) (b : Byte) (s : State) : (wrByte pa b s).wchunks = s.wchunks := rfl
@[simp] theorem wrByte_wvals (pa : Nat) (b : Byte) (s : State) : (wrByte pa b s).wvals = s.wvals := rfl
@[simp] theorem wrByte_host (pa : Nat) (b : Byte) (s : State) : (wrByte pa b s).host = s.host := rfl
@[simp] theorem wrByte_ctl (pa : Nat) (b : Byte) (s : State) : (wrByte pa b s).ctl = s.ctl := rfl
@[simp] theorem wrByte_invals (pa : Nat) (b : Byte) (s : State) : (wrByte pa b s).invals = s.invals := rfl
@[simp] theorem wrByte_lockreqs (pa : Nat) (b : Byte) (s : State) : (wrByte pa b s).lockreqs = s.lockreqs := rfl
@[simp] theorem addPend_now (d : Option Nat) (r : Nat) (n : Option (Nat × Nat)) (a : PendAct) (fl : Flags) (k : Nat) (s : State) : (addPend d r n a fl k s).now = s.now := rfl
@[simp] theorem addPend_others (d : Option Nat) (r : Nat) (n : Option (Nat × Nat)) (a : PendAct) (fl : Flags) (k : Nat) (s : State) : (addPend d r n a fl k s).others = s.others := rfl
@[simp] theorem addPend_ctx (d : Option Nat) (r : Nat) (n : Option (Nat × Nat)) (a : PendAct) (fl : Flags) (k : Nat) (s : State) : (addPend d r n a fl k s).ctx = s.ctx := rfl
@[simp] theorem addPend_turn (d : Option Nat) (r : Nat) (n : Option (Nat × Nat)) (a : PendAct) (fl : Flags) (k : Nat) (s : State) : (addPend d r n a fl k s).turn = s.turn := rfl
@[simp] theorem addPend_wturn (d : Option Nat) (r : Nat) (n : Option (Nat × Nat)) (a : PendAct) (fl : Flags) (k : Nat) (s : State) : (addPend d r n a fl k s).wturn = s.wturn := rfl
@[simp] theorem addPend_wcur (d : Option Nat) (r : Nat) (n : Option (Nat × Nat)) (a : PendAct) (fl : Flags) (k : Nat) (s : State) : (addPend d r n a fl k s).wcur = s.wcur := rfl
@[simp] theorem addPend_agenda (d : Option Nat) (r : Nat) (n : Option (Nat × Nat)) (a : PendAct) (fl : Flags) (k : Nat) (s : State) : (addPend d r n a fl k s).agenda = s.agenda := rfl
@[simp] theorem addPend_free (d : Option Nat) (r : Nat) (n : Option (Nat × Nat)) (a : PendAct) (fl : Flags) (k : Nat) (s : State) : (addPend d r n a fl k s).free = s.free := rfl
@[simp] theorem addPend_nextId (d : Option Nat) (r : Nat) (n : Option (Nat × Nat)) (a : PendAct) (fl : Flags) (k : Nat) (s : State) : (addPend d r n a fl k s).nextId = s.nextId := rfl
@[simp] theorem addPend_mem (d : Option Nat) (r : Nat) (n : Option (Nat × Nat)) (a : PendAct) (fl : Flags) (k : Nat) (s : State) : (addPend d r n a fl k s).mem = s.mem := rfl
@[simp] theorem addPend_wm (d : Option Nat) (r : Nat) (n : Option (Nat × Nat)) (a : PendAct) (fl : Flags) (k : Nat) (s : State) : (addPend d r n a fl k s).wm = s.wm := rfl
@[simp] theorem addPend_dir (d : Option Nat) (r : Nat) (n : Option (Nat × Nat)) (a : PendAct) (fl : Flags) (k : Nat) (s : State) : (addPend d r n a fl k s).dir = s.dir := rfl
@[simp] theorem addPend_hc (d : Option Nat) (r : Nat) (n : Option (Nat × Nat)) (a : PendAct) (fl : Flags) (k : Nat) (s : State) : (addPend d r n a fl k s).hc = s.hc := rfl
@[simp] theorem addPend_locks (d : Option Nat) (r : Nat) (n : Option (Nat × Nat)) (a : PendAct) (fl : Flags) (k : Nat) (s : State) : (addPend d r n a fl k s).locks = s.locks := rfl
@[simp] theorem addPend_slices (d : Option Nat) (r : Nat) (n : Option (Nat × Nat)) (a : PendAct) (fl : Flags) (k : Nat) (s : State) : (addPend d r n a fl k s).slices = s.slices := rfl
@[simp] theorem addPend_hbm (d : Option Nat) (r : Nat) (n : Option (Nat × Nat)) (a : PendAct) (fl : Flags) (k : Nat) (s : State) : (addPend d r n a fl k s).hbm = s.hbm := rfl
@[simp] theorem addPend_sram (d : Option Nat) (r : Nat) (n : Option (Nat × Nat)) (a : PendAct) (fl : Flags) (k : Nat) (s : State) : (addPend d r n a fl k s).sram = s.sram := rfl
@[simp] theorem addPend_waiters (d : Option Nat) (r : Nat) (n : Option (Nat × Nat)) (a : PendAct) (fl : Flags) (k : Nat) (s : State) : (addPend d r n a fl k s).waiters = s.waiters := rfl
@[simp] theorem addPend_closes (d : Option Nat) (r : Nat) (n : Option (Nat × Nat)) (a : PendAct) (fl : Flags) (k : Nat) (s : State) : (addPend d r n a fl k s).closes = s.closes := rfl
@[simp] theorem addPend_tmq (d : Option Nat) (r : Nat) (n : Option (Nat × Nat)) (a : PendAct) (fl : Flags) (k : Nat) (s : State) : (addPend d r n a fl k s).tmq = s.tmq := rfl
@[simp] theorem addPend_dieTlb (d : Option Nat) (r : Nat) (n : Option (Nat × Nat)) (a : PendAct) (fl : Flags) (k : Nat) (s : State) : (addPend d r n a fl k s).dieTlb = s.dieTlb := rfl
@[simp] theorem addPend_copies (d : Option Nat) (r : Nat) (n : Option (Nat × Nat)) (a : PendAct) (fl : Flags) (k : Nat) (s : State) : (addPend d r n a fl k s).copies = s.copies := rfl
@[simp] theorem addPend_loads (d : Option Nat) (r : Nat) (n : Option (Nat × Nat)) (a : PendAct) (fl : Flags) (k : Nat) (s : State) : (addPend d r n a fl k s).loads = s.loads := rfl
@[simp] theorem addPend_launchq (d : Option Nat) (r : Nat) (n : Option (Nat × Nat)) (a : PendAct) (fl : Flags) (k : Nat) (s : State) : (addPend d r n a fl k s).launchq = s.launchq := rfl
@[simp] theorem addPend_stats (d : Option Nat) (r : Nat) (n : Option (Nat × Nat)) (a : PendAct) (fl : Flags) (k : Nat) (s : State) : (addPend d r n a fl k s).stats = s.stats := rfl
@[simp] theorem addPend_segs (d : Option Nat) (r : Nat) (n : Option (Nat × Nat)) (a : PendAct) (fl : Flags) (k : Nat) (s : State) : (addPend d r n a fl k s).segs = s.segs := rfl
@[simp] theorem addPend_mcs (d : Option Nat) (r : Nat) (n : Option (Nat × Nat)) (a : PendAct) (fl : Flags) (k : Nat) (s : State) : (addPend d r n a fl k s).mcs = s.mcs := rfl
@[simp] theorem addPend_ports (d : Option Nat) (r : Nat) (n : Option (Nat × Nat)) (a : PendAct) (fl : Flags) (k : Nat) (s : State) : (addPend d r n a fl k s).ports = s.ports := rfl
@[simp] theorem addPend_ptx (d : Option Nat) (r : Nat) (n : Option (Nat × Nat)) (a : PendAct) (fl : Flags) (k : Nat) (s : State) : (addPend d r n a fl k s).ptx = s.ptx := rfl
@[simp] theorem addPend_snoops (d : Option Nat) (r : Nat) (n : Option (Nat × Nat)) (a : PendAct) (fl : Flags) (k : Nat) (s : State) : (addPend d r n a fl k s).snoops = s.snoops := rfl
@[simp] theorem addPend_birsp (d : Option Nat) (r : Nat) (n : Option (Nat × Nat)) (a : PendAct) (fl : Flags) (k : Nat) (s : State) : (addPend d r n a fl k s).birsp = s.birsp := rfl
@[simp] theorem addPend_clnEvcts (d : Option Nat) (r : Nat) (n : Option (Nat × Nat)) (a : PendAct) (fl : Flags) (k : Nat) (s : State) : (addPend d r n a fl k s).clnEvcts = s.clnEvcts := rfl
@[simp] theorem addPend_dom (d : Option Nat) (r : Nat) (n : Option (Nat × Nat)) (a : PendAct) (fl : Flags) (k : Nat) (s : State) : (addPend d r n a fl k s).dom = s.dom := rfl
@[simp] theorem addPend_gdown (d : Option Nat) (r : Nat) (n : Option (Nat × Nat)) (a : PendAct) (fl : Flags) (k : Nat) (s : State) : (addPend d r n a fl k s).gdown = s.gdown := rfl
@[simp] theorem addPend_gout (d : Option Nat) (r : Nat) (n : Option (Nat × Nat)) (a : PendAct) (fl : Flags) (k : Nat) (s : State) : (addPend d r n a fl k s).gout = s.gout := rfl
@[simp] theorem addPend_gseq (d : Option Nat) (r : Nat) (n : Option (Nat × Nat)) (a : PendAct) (fl : Flags) (k : Nat) (s : State) : (addPend d r n a fl k s).gseq = s.gseq := rfl
@[simp] theorem addPend_gseen (d : Option Nat) (r : Nat) (n : Option (Nat × Nat)) (a : PendAct) (fl : Flags) (k : Nat) (s : State) : (addPend d r n a fl k s).gseen = s.gseen := rfl
@[simp] theorem addPend_gacks (d : Option Nat) (r : Nat) (n : Option (Nat × Nat)) (a : PendAct) (fl : Flags) (k : Nat) (s : State) : (addPend d r n a fl k s).gacks = s.gacks := rfl
@[simp] theorem addPend_rtimes (d : Option Nat) (r : Nat) (n : Option (Nat × Nat)) (a : PendAct) (fl : Flags) (k : Nat) (s : State) : (addPend d r n a fl k s).rtimes = s.rtimes := rfl
@[simp] theorem addPend_rctrs (d : Option Nat) (r : Nat) (n : Option (Nat × Nat)) (a : PendAct) (fl : Flags) (k : Nat) (s : State) : (addPend d r n a fl k s).rctrs = s.rctrs := rfl
@[simp] theorem addPend_cfOrs (d : Option Nat) (r : Nat) (n : Option (Nat × Nat)) (a : PendAct) (fl : Flags) (k : Nat) (s : State) : (addPend d r n a fl k s).cfOrs = s.cfOrs := rfl
@[simp] theorem addPend_sched (d : Option Nat) (r : Nat) (n : Option (Nat × Nat)) (a : PendAct) (fl : Flags) (k : Nat) (s : State) : (addPend d r n a fl k s).sched = s.sched := rfl
@[simp] theorem addPend_spawnq (d : Option Nat) (r : Nat) (n : Option (Nat × Nat)) (a : PendAct) (fl : Flags) (k : Nat) (s : State) : (addPend d r n a fl k s).spawnq = s.spawnq := rfl
@[simp] theorem addPend_standby (d : Option Nat) (r : Nat) (n : Option (Nat × Nat)) (a : PendAct) (fl : Flags) (k : Nat) (s : State) : (addPend d r n a fl k s).standby = s.standby := rfl
@[simp] theorem addPend_schedAt (d : Option Nat) (r : Nat) (n : Option (Nat × Nat)) (a : PendAct) (fl : Flags) (k : Nat) (s : State) : (addPend d r n a fl k s).schedAt = s.schedAt := rfl
@[simp] theorem addPend_tables (d : Option Nat) (r : Nat) (n : Option (Nat × Nat)) (a : PendAct) (fl : Flags) (k : Nat) (s : State) : (addPend d r n a fl k s).tables = s.tables := rfl
@[simp] theorem addPend_adders (d : Option Nat) (r : Nat) (n : Option (Nat × Nat)) (a : PendAct) (fl : Flags) (k : Nat) (s : State) : (addPend d r n a fl k s).adders = s.adders := rfl
@[simp] theorem addPend_switches (d : Option Nat) (r : Nat) (n : Option (Nat × Nat)) (a : PendAct) (fl : Flags) (k : Nat) (s : State) : (addPend d r n a fl k s).switches = s.switches := rfl
@[simp] theorem addPend_routes (d : Option Nat) (r : Nat) (n : Option (Nat × Nat)) (a : PendAct) (fl : Flags) (k : Nat) (s : State) : (addPend d r n a fl k s).routes = s.routes := rfl
@[simp] theorem addPend_colls (d : Option Nat) (r : Nat) (n : Option (Nat × Nat)) (a : PendAct) (fl : Flags) (k : Nat) (s : State) : (addPend d r n a fl k s).colls = s.colls := rfl
@[simp] theorem addPend_wglq (d : Option Nat) (r : Nat) (n : Option (Nat × Nat)) (a : PendAct) (fl : Flags) (k : Nat) (s : State) : (addPend d r n a fl k s).wglq = s.wglq := rfl
@[simp] theorem addPend_wcount (d : Option Nat) (r : Nat) (n : Option (Nat × Nat)) (a : PendAct) (fl : Flags) (k : Nat) (s : State) : (addPend d r n a fl k s).wcount = s.wcount := rfl
@[simp] theorem addPend_wstat (d : Option Nat) (r : Nat) (n : Option (Nat × Nat)) (a : PendAct) (fl : Flags) (k : Nat) (s : State) : (addPend d r n a fl k s).wstat = s.wstat := rfl
@[simp] theorem addPend_waborts (d : Option Nat) (r : Nat) (n : Option (Nat × Nat)) (a : PendAct) (fl : Flags) (k : Nat) (s : State) : (addPend d r n a fl k s).waborts = s.waborts := rfl
@[simp] theorem addPend_wsigs (d : Option Nat) (r : Nat) (n : Option (Nat × Nat)) (a : PendAct) (fl : Flags) (k : Nat) (s : State) : (addPend d r n a fl k s).wsigs = s.wsigs := rfl
@[simp] theorem addPend_wchunks (d : Option Nat) (r : Nat) (n : Option (Nat × Nat)) (a : PendAct) (fl : Flags) (k : Nat) (s : State) : (addPend d r n a fl k s).wchunks = s.wchunks := rfl
@[simp] theorem addPend_wvals (d : Option Nat) (r : Nat) (n : Option (Nat × Nat)) (a : PendAct) (fl : Flags) (k : Nat) (s : State) : (addPend d r n a fl k s).wvals = s.wvals := rfl
@[simp] theorem addPend_host (d : Option Nat) (r : Nat) (n : Option (Nat × Nat)) (a : PendAct) (fl : Flags) (k : Nat) (s : State) : (addPend d r n a fl k s).host = s.host := rfl
@[simp] theorem addPend_ctl (d : Option Nat) (r : Nat) (n : Option (Nat × Nat)) (a : PendAct) (fl : Flags) (k : Nat) (s : State) : (addPend d r n a fl k s).ctl = s.ctl := rfl
@[simp] theorem addPend_invals (d : Option Nat) (r : Nat) (n : Option (Nat × Nat)) (a : PendAct) (fl : Flags) (k : Nat) (s : State) : (addPend d r n a fl k s).invals = s.invals := rfl
@[simp] theorem addPend_lockreqs (d : Option Nat) (r : Nat) (n : Option (Nat × Nat)) (a : PendAct) (fl : Flags) (k : Nat) (s : State) : (addPend d r n a fl k s).lockreqs = s.lockreqs := rfl

end Sys2Proof.Machine
end

