-- ==== Sys2Proof/Laws/Memory.lean ====
section
/-! SUPPORT. The laws of sparse maps and of memory: what a read gives after a write, and that every write keeps the canonical form. -/

namespace Sys2Proof.Machine

/-! ### Sparse maps -/

theorem SMap.wfFrom_mono {α : Type} [DecidableEq α] {d : α} {lo lo' : Nat} (h : lo' ≤ lo) :
    ∀ {m : SMap α}, SMap.wfFrom d lo m = true → SMap.wfFrom d lo' m = true
  | [], _ => rfl
  | (k, v) :: t, hw => by
    simp only [SMap.wfFrom, Bool.and_eq_true, decide_eq_true_eq] at hw ⊢
    exact ⟨⟨le_trans h hw.1.1, hw.1.2⟩, hw.2⟩

/-- A key below every listed one reads as the default. -/
theorem SMap.get_of_lt {α : Type} [DecidableEq α] {d : α} {lo a : Nat} (h : a < lo) :
    ∀ {m : SMap α}, SMap.wfFrom d lo m = true → SMap.get d m a = d
  | [], _ => rfl
  | (k, v) :: t, hw => by
    simp only [SMap.wfFrom, Bool.and_eq_true, decide_eq_true_eq] at hw
    have : a < k := lt_of_lt_of_le h hw.1.1
    simp [SMap.get, this, Nat.ne_of_lt this]

/-- A write keeps the canonical form. -/
theorem SMap.wfFrom_set {α : Type} [DecidableEq α] {d : α} {lo a : Nat} (v : α) (h : lo ≤ a) :
    ∀ {m : SMap α}, SMap.wfFrom d lo m = true → SMap.wfFrom d lo (SMap.set d m a v) = true
  | [], _ => by
    by_cases hv : v = d <;> simp [SMap.set, SMap.wfFrom, hv, h]
  | (k, w) :: t, hw => by
    simp only [SMap.wfFrom, Bool.and_eq_true, decide_eq_true_eq] at hw
    obtain ⟨⟨hk, hn⟩, ht⟩ := hw
    unfold SMap.set
    split
    · split
      · simp [SMap.wfFrom, hk, ht]; simpa using hn
      · rename_i hlt hv
        simp [SMap.wfFrom, h, hv, ht, Nat.succ_le_of_lt hlt]; simpa using hn
    · split
      · rename_i _ he
        subst he
        split
        · exact SMap.wfFrom_mono (by omega) ht
        · rename_i hv
          simp [SMap.wfFrom, h, hv, ht]
      · rename_i h1 h2
        have := SMap.wfFrom_set v (lo := k + 1) (a := a) (by omega) ht
        simp [SMap.wfFrom, hk, this]; simpa using hn

theorem SMap.wf_set {α : Type} [DecidableEq α] {d : α} {m : SMap α} (a : Nat) (v : α) (h : SMap.wf d m = true) :
    SMap.wf d (SMap.set d m a v) = true :=
  SMap.wfFrom_set v (Nat.zero_le a) h

theorem SMap.wf_setAll {α : Type} [DecidableEq α] {d : α} (l : List (Nat × α)) :
    ∀ {m : SMap α}, SMap.wf d m = true → SMap.wf d (SMap.setAll d m l) = true := by
  induction l with
  | nil => exact id
  | cons e l ih => exact fun h => ih (SMap.wf_set e.1 e.2 h)

/-- What a read gives after a write. -/
theorem SMap.get_set_from {α : Type} [DecidableEq α] {d : α} {lo : Nat} (a b : Nat) (v : α) :
    ∀ {m : SMap α}, SMap.wfFrom d lo m = true → SMap.get d (SMap.set d m a v) b = if b = a then v else SMap.get d m b
  | [], _ => by
    unfold SMap.set
    split
    · rename_i hv; simp [SMap.get, hv]
    · simp [SMap.get]
  | (k, w) :: t, hw => by
    have hw' := hw
    simp only [SMap.wfFrom, Bool.and_eq_true, decide_eq_true_eq] at hw
    obtain ⟨⟨hk, hn⟩, ht⟩ := hw
    unfold SMap.set
    split
    · rename_i hlt
      split
      · rename_i hv
        subst hv
        by_cases hb : b = a
        · subst hb; simp [SMap.get, hlt, Nat.ne_of_lt hlt]
        · simp [hb]
      · by_cases hb : b = a
        · subst hb; simp [SMap.get]
        · simp only [SMap.get, hb, if_false]
          split
          · rename_i hba
            have : b < k := lt_trans hba hlt
            simp [this, Nat.ne_of_lt this]
          · rfl
    · split
      · rename_i _ he
        subst he
        split
        · rename_i hv
          subst hv
          by_cases hb : b = a
          · subst hb; simpa using SMap.get_of_lt (Nat.lt_succ_self b) ht
          · simp only [SMap.get, hb, if_false]
            split
            · rename_i hba
              exact SMap.get_of_lt (by omega) ht
            · rfl
        · by_cases hb : b = a <;> simp [SMap.get, hb]
      · rename_i h1 h2
        have ih := SMap.get_set_from a b v (lo := k + 1) ht
        simp only [SMap.get]
        rw [ih]
        by_cases hbk : b = k
        · subst hbk; simp [show b ≠ a from fun h => h2 h.symm]
        · simp only [hbk, if_false]
          by_cases hlt : b < k
          · simp [hlt, show b ≠ a by omega]
          · simp [hlt]

theorem SMap.get_set {α : Type} [DecidableEq α] {d : α} {m : SMap α} (h : SMap.wf d m = true) (a b : Nat) (v : α) :
    SMap.get d (SMap.set d m a v) b = if b = a then v else SMap.get d m b :=
  SMap.get_set_from a b v h

theorem SMap.get_set_same {α : Type} [DecidableEq α] {d : α} {m : SMap α} (h : SMap.wf d m = true) (a : Nat) (v : α) :
    SMap.get d (SMap.set d m a v) a = v := by simp [SMap.get_set h]

theorem SMap.get_set_other {α : Type} [DecidableEq α] {d : α} {m : SMap α} (h : SMap.wf d m = true) {a b : Nat} (v : α) (hb : b ≠ a) :
    SMap.get d (SMap.set d m a v) b = SMap.get d m b := by simp [SMap.get_set h, hb]

/-! ### Memory -/

/-- Only `mem` decides the canonical form. -/
theorem Memory.wf_of_mem {s t : State} (h : t.mem = s.mem) : Memory.wf t = Memory.wf s := by simp [Memory.wf, h]

/-- Only `mem` decides what a byte reads as. -/
theorem rdByte_of_mem {s t : State} (h : t.mem = s.mem) (a : Nat) : rdByte t a = rdByte s a := by simp [rdByte, h]

theorem Memory.wf_wrByte {s : State} (pa : Nat) (b : Byte) (h : Memory.wf s = true) : Memory.wf (wrByte pa b s) = true :=
  SMap.wf_set pa b h

theorem Memory.wf_wrBytes : ∀ (bs : List Byte) (pa : Nat) {s : State}, Memory.wf s = true → Memory.wf (wrBytes pa bs s) = true
  | [], _, _, h => h
  | b :: t, pa, _, h => Memory.wf_wrBytes t (pa + 1) (Memory.wf_wrByte pa b h)

theorem Memory.wf_wrN {s : State} (pa n v : Nat) (h : Memory.wf s = true) : Memory.wf (wrN pa n v s) = true :=
  Memory.wf_wrBytes _ _ h

/-- What a byte reads as after a byte is written. -/
theorem rdByte_wrByte {s : State} (h : Memory.wf s = true) (pa a : Nat) (b : Byte) :
    rdByte (wrByte pa b s) a = if a = pa then b else rdByte s a :=
  SMap.get_set h pa a b

/-- What a byte reads as after bytes are written. -/
theorem rdByte_wrBytes : ∀ (bs : List Byte) (pa a : Nat) {s : State}, Memory.wf s = true →
    rdByte (wrBytes pa bs s) a = if pa ≤ a ∧ a < pa + bs.length then bs.getD (a - pa) 0 else rdByte s a
  | [], pa, a, s, _ => by
    have : ¬ (pa ≤ a ∧ a < pa + ([] : List Byte).length) := by simp
    rw [if_neg this]; rfl
  | b :: t, pa, a, s, h => by
    have ih := rdByte_wrBytes t (pa + 1) a (Memory.wf_wrByte pa b h)
    simp only [wrBytes]
    rw [ih, rdByte_wrByte h]
    by_cases h0 : a = pa
    · subst h0; simp [show ¬ (a + 1 ≤ a) by omega]
    · by_cases h1 : pa + 1 ≤ a ∧ a < pa + 1 + t.length
      · have h2 : pa ≤ a ∧ a < pa + (b :: t).length := by simp only [List.length_cons]; omega
        obtain ⟨k, rfl⟩ : ∃ k, a = pa + 1 + k := ⟨a - (pa + 1), by omega⟩
        rw [if_pos h1, if_pos h2, show pa + 1 + k - (pa + 1) = k by omega, show pa + 1 + k - pa = k + 1 by omega]
        simp
      · have h2 : ¬ (pa ≤ a ∧ a < pa + (b :: t).length) := by simp only [List.length_cons]; omega
        rw [if_neg h1, if_neg h2, if_neg h0]

/-- Bytes written leave every address outside them. -/
theorem rdByte_wrBytes_outside {s : State} (h : Memory.wf s = true) (bs : List Byte) (pa a : Nat) (ho : a < pa ∨ pa + bs.length ≤ a) :
    rdByte (wrBytes pa bs s) a = rdByte s a := by
  rw [rdByte_wrBytes bs pa a h, if_neg (by omega)]

@[simp] theorem natBytes_length (n v : Nat) : (natBytes n v).length = n := by simp [natBytes]

theorem rdByte_wrN_outside {s : State} (h : Memory.wf s = true) (pa n v a : Nat) (ho : a < pa ∨ pa + n ≤ a) :
    rdByte (wrN pa n v s) a = rdByte s a :=
  rdByte_wrBytes_outside h _ pa a (by simpa using ho)

/-! ### What bytes written leave of the other fields -/

/-- Bytes written change nothing but `mem`. -/
theorem wrBytes_eq : ∀ (bs : List Byte) (pa : Nat) (s : State), wrBytes pa bs s = { s with mem := (wrBytes pa bs s).mem }
  | [], _, _ => rfl
  | b :: t, pa, s => by
    simp only [wrBytes]
    rw [wrBytes_eq t (pa + 1) (wrByte pa b s)]
    rfl

/-- Little-endian numbers: n bytes of v read back as v modulo 256^n. -/
theorem leNat_natBytes : ∀ (n v : Nat), leNat (natBytes n v) = v % 256 ^ n := by
  intro n
  induction n with
  | zero => intro v; simp [natBytes, leNat, Nat.mod_one]
  | succ n ih =>
    intro v
    have h : natBytes (n + 1) v = BitVec.ofNat 8 v :: natBytes n (v / 256) := by
      simp only [natBytes, List.range_succ_eq_map, List.map_cons, List.map_map]
      congr 1
      · simp
      · apply List.map_congr_left
        intro i _
        simp only [Function.comp, Nat.div_div_eq_div_mul]
        congr 2
        rw [show 8 * (i + 1) = 8 + 8 * i by ring, pow_add]; norm_num
    have h2 := ih (v / 256)
    simp only [leNat] at h2 ⊢
    rw [h, List.foldr_cons, h2]
    simp only [BitVec.toNat_ofNat, Nat.reducePow]
    rw [pow_succ, Nat.mul_comm (256 ^ n) 256, Nat.mod_mul]
    ring

end Sys2Proof.Machine
end

