-- ==== Sys2Proof/Laws/Ops.lean ====
section
/-! SUPPORT. What the shared operations can do, said once: source reads, pending results, landings, the focus, tokens, the rollback, taking a
trap, and the outcome of an issue. -/

namespace Sys2Proof.Machine

/-! ### Issues and their outcomes -/

/-- An issue whose checks are gathered succeeds exactly as its main part does. -/
theorem gather_ok {α : Type} {m : Res α} {cs : List (Option Stop)} {a : α} : gather m cs = .ok a ↔ m = .ok a := by
  cases m <;> simp [gather]

@[simp] theorem gather_ok_eq {α : Type} (a : α) (cs : List (Option Stop)) : gather (.ok a : Res α) cs = .ok a := rfl

/-- The outcome of an issue that succeeds. -/
@[simp] theorem close_ok (f : State → State) (s t : State) : close f s (.ok t) = .next t := rfl

/-- The outcome of an issue that waits. -/
@[simp] theorem close_stall (f : State → State) (s : State) :
    close f s (.error .stall) = .next (mapCtx (fun c => { c with stall := true }) s) := rfl

/-- The outcome of an issue that raises a cause. -/
@[simp] theorem close_trap (f : State → State) (s : State) (c : Cause) :
    close f s (.error (.trap c)) = .next (mapCtx (fun k => { k with cause := some c }) (takeTrap f c s)) := rfl

/-- An issue always ends in a next state: its effect, a wait with or without a pool request, a full read-victim table, or its trap. -/
theorem close_cases (f : State → State) (s : State) (r : Res State) :
    (∃ t, r = .ok t ∧ close f s r = .next t) ∨
    (r = .error .stall ∧ close f s r = .next (mapCtx (fun c => { c with stall := true }) s)) ∨
    (∃ tx, r = .error (.fetch tx) ∧ close f s r = .next (mapCtx (fun c => { c with stall := true })
      { s with ptx := if s.ptx.contains tx then s.ptx else s.ptx ++ [tx] })) ∨
    (r = .error .overflow ∧ close f s r = .next (mapCtx (fun c => { c with rvtFull := true }) s)) ∨
    (∃ c, r = .error (.trap c) ∧ close f s r = .next (mapCtx (fun k => { k with cause := some c }) (takeTrap f c s))) := by
  cases r with
  | ok t => exact .inl ⟨t, rfl, rfl⟩
  | error e =>
    cases e with
    | trap c => exact .inr (.inr (.inr (.inr ⟨c, rfl, rfl⟩)))
    | stall => exact .inr (.inl ⟨rfl, rfl⟩)
    | fetch tx => exact .inr (.inr (.inl ⟨tx, rfl, rfl⟩))
    | overflow => exact .inr (.inr (.inr (.inl ⟨rfl, rfl⟩)))

theorem close_next (f : State → State) (s : State) (r : Res State) : ∃ t, close f s r = .next t := by
  rcases close_cases f s r with ⟨t, -, h⟩ | ⟨-, h⟩ | ⟨_, -, h⟩ | ⟨-, h⟩ | ⟨_, -, h⟩ <;> exact ⟨_, h⟩

/-- `issue` is `close` with the engines' saves. -/
theorem issue_eq (s : State) (r : Res State) : issue s r = close finishSaves s r := rfl

@[simp] theorem issue_ok (s t : State) : issue s (.ok t) = .next t := rfl

theorem issue_next (s : State) (r : Res State) : ∃ t, issue s r = .next t := close_next _ s r

@[simp] theorem need_true (s : State) (c : Nat) (i : Word) : need s true c i = .ok () := rfl
@[simp] theorem need_false (s : State) (c : Nat) (i : Word) : need s false c i = .error (.trap ⟨c, i, some s.ctx.slot⟩) := rfl
@[simp] theorem needLegal_true (s : State) : needLegal s true = .ok () := rfl
@[simp] theorem stallUnless_true : stallUnless true = .ok () := rfl
@[simp] theorem stallUnless_false : stallUnless false = .error .stall := rfl

/-! ### Scalar sources -/

/-- A source field that names s0 reads 0. -/
theorem readS_zero {f : BitVec 6} (s : State) (h : f.setWidth 5 = (0 : BitVec 5)) : readS f s = .ok 0 := by
  simp [readS, h]

/-- A source that reads gives its register's value. -/
theorem readS_value {f : BitVec 6} {s : State} {v : Word} (h : readS f s = .ok v) : v = regVal s (f.setWidth 5) := by
  unfold readS at h
  simp only at h
  split at h
  · rename_i h0; cases h; simp [regVal, h0]
  · split at h
    · simp [raise] at h
    · split at h
      · split at h <;> simp [raise] at h
      · split at h
        · simp at h
        · split at h
          · simp at h
          · cases h; rfl

/-- A register that is full, with nothing outstanding, reads. -/
theorem readS_ready {f : BitVec 6} {s : State} (h0 : f.setWidth 5 ≠ (0 : BitVec 5)) (hv : s.core.st.vls = []) (hp : s.core.st.pend = [])
    (hq : s.core.sq = []) (he : s.core.st.a.empties[(f.setWidth 5 : BitVec 5).toNat] = false) :
    readS f s = .ok (regVal s (f.setWidth 5)) := by
  have ha : atomicHeld s (f.setWidth 5) = false := by simp [atomicHeld, hv]
  unfold readS
  simp only
  rw [if_neg h0, ha, he]
  simp [hp, hq]

/-! ### Landings -/

/-- Landing keeps memory. -/
@[simp] theorem landOne_mem (p : Pend) (s : State) : (landOne p s).mem = s.mem := by
  unfold landOne
  cases p.act with
  | sreg r v => simp only; split <;> rfl
  | spad => rfl
  | hfield => rfl
  | flags => rfl

@[simp] theorem stageTwo_mem (p : Pend) (b l : Nat) (s : State) : (stageTwo p b l s).mem = s.mem := rfl

@[simp] theorem landLoop_mem (force : Bool) : ∀ (n : Nat) (s : State), (landLoop force n s).mem = s.mem
  | 0, _ => rfl
  | n + 1, s => by
    unfold landLoop
    split
    · rfl
    · split <;> simp [landLoop_mem force n]

@[simp] theorem landDue_mem (force : Bool) (s : State) : (landDue force s).mem = s.mem := by
  unfold landDue; simp only; split <;> simp

@[simp] theorem landOn_mem : ∀ (n : Nat) (s : State), (landOn n s).mem = s.mem
  | 0, _ => rfl
  | n + 1, s => by simp [landOn, landOn_mem n, mapSt]

/-- What sets flags changes FLAGS, and what the strand cycle has set, alone (03 R94). -/
theorem orFlags_eq (f : Flags) (s : State) :
    orFlags f s = mapSt (fun t => { t with a := { t.a with flags := t.a.flags ||| f }, fresh := t.fresh ||| f }) s := rfl
@[simp] theorem orFlags_mem (f : Flags) (s : State) : (orFlags f s).mem = s.mem := rfl
@[simp] theorem orFlags_flags (f : Flags) (s : State) : (orFlags f s).core.st.a.flags = s.core.st.a.flags ||| f := rfl

/-- The end of a wait begins the next strand cycle and keeps the architectural state (01 R30). -/
@[simp] theorem endWait_wait (t : Strand) : (endWait t).wait = .none := rfl
@[simp] theorem endWait_cyc (t : Strand) : (endWait t).cyc = t.cyc + 1 := rfl
@[simp] theorem endWait_a (t : Strand) : (endWait t).a = t.a := rfl
@[simp] theorem endWait_pend (t : Strand) : (endWait t).pend = t.pend := rfl

/-- Landing keeps who the cores are. -/
@[simp] theorem landOne_others (p : Pend) (s : State) : (landOne p s).others = s.others := by
  unfold landOne
  cases p.act with
  | sreg r v => simp only; split <;> rfl
  | spad => rfl
  | hfield => rfl
  | flags => rfl

@[simp] theorem landLoop_others (force : Bool) : ∀ (n : Nat) (s : State), (landLoop force n s).others = s.others
  | 0, _ => rfl
  | n + 1, s => by
    unfold landLoop
    split
    · rfl
    · split
      · simp [landLoop_others force n, stageTwo]
      · simp [landLoop_others force n]

@[simp] theorem landDue_others (force : Bool) (s : State) : (landDue force s).others = s.others := by
  unfold landDue; simp only; split <;> simp

/-! ### The focus -/

@[simp] theorem focus_mem (c : CoreId) (s : State) : (focus c s).mem = s.mem := by unfold focus; split <;> rfl

/-- The focused core is the one asked for. -/
theorem focus_core (c : CoreId) (s : State) : (focus c s).core = coreOf s c := by
  unfold focus coreOf; split <;> simp_all

@[simp] theorem onCore_mem (c : CoreId) (f : Core → Core) (s : State) : (onCore c f s).mem = s.mem := by unfold onCore; split <;> rfl

theorem onCore_eq_of_focus {c : CoreId} {s : State} (f : Core → Core) (h : s.core.id = c) : onCore c f s = mapCore f s := by
  simp [onCore, h]

/-! ### Events -/

@[simp] theorem signal_mem (v : Nat) (s : State) : (signal v s).mem = s.mem := rfl
@[simp] theorem signal_core (v : Nat) (s : State) : (signal v s).core = s.core := rfl

@[simp] theorem record_mem (d c : Nat) (i : Word) (s : State) : (record d c i s).mem = s.mem := by
  unfold record; simp only; split <;> rfl

@[simp] theorem record_core (d c : Nat) (i : Word) (s : State) : (record d c i s).core = s.core := by
  unfold record; simp only; split <;> rfl

@[simp] theorem record_others (d c : Nat) (i : Word) (s : State) : (record d c i s).others = s.others := by
  unfold record; simp only; split <;> rfl

/-! ### Rollback and traps -/

@[simp] theorem releaseToken_mem (s : State) : (releaseToken s).mem = s.mem := by
  simp [releaseToken, apply_ite State.mem]

@[simp] theorem requestToken_mem (s : State) : (requestToken s).mem = s.mem := by
  simp [requestToken, apply_ite State.mem]

/-- A flush changes the core's array, its bits, and what is pending, and nothing else (01 R24). -/
theorem flushSpad_eq (s : State) : ∃ a f, flushSpad s =
    mapCore (fun c => { c with scratch := a, full := f, st := { c.st with imgs := [], pend := [] } }) s := ⟨_, _, rfl⟩

@[simp] theorem flushSpad_mem (s : State) : (flushSpad s).mem = s.mem := rfl

/-- A rollback keeps memory, given that the engines' saves do. -/
theorem rollback_mem {f : State → State} (hf : ∀ s, (f s).mem = s.mem) (pc : BPc) (s : State) : (rollback f pc s).mem = s.mem := by
  simp [rollback, releaseCore, hf]

/-- What the strand is after a rollback (01 R24). -/
theorem rollback_st (f : State → State) (pc : BPc) (s : State) :
    (rollback f pc s).core.st.a = { (rollback f pc s).core.st.shadow with pc := pc } ∧ (rollback f pc s).core.held = [] ∧
    (rollback f pc s).core.st.vls = [] ∧ (rollback f pc s).core.st.pend = [] ∧ (rollback f pc s).core.st.imgs = [] ∧
    (rollback f pc s).core.mq = [] ∧ (rollback f pc s).core.sq = [] := by
  simp [rollback, clearEngines, mapCore, mapSt]

@[simp] theorem escalate_mem (c : Cause) (s : State) : (escalate c s).mem = s.mem := rfl
@[simp] theorem setTrapRegs_mem (pc : BPc) (c : Cause) (s : State) : (setTrapRegs pc c s).mem = s.mem := rfl

/-- Taking a trap keeps memory, given that the engines' saves do (01 R23, R24). -/
theorem takeTrap_mem {f : State → State} (hf : ∀ s, (f s).mem = s.mem) (c : Cause) (s : State) : (takeTrap f c s).mem = s.mem := by
  unfold takeTrap trapNaming
  simp only
  split
  · simp [rollback_mem hf]
  · split
    · simp [rollback_mem hf]
    · split <;> simp [rollback_mem hf]

/-! ### The engines -/

@[simp] theorem flagsAt_mem (q r : Nat) (f : Flags) (s : State) : (flagsAt q r f s).mem = s.mem := by
  simp [flagsAt, addPendAt, apply_ite State.mem]

@[simp] theorem addPendAt_mem (q : Nat) (d : Option Nat) (r : Nat) (a : PendAct) (f : Flags) (k : Nat) (s : State) :
    (addPendAt q d r a f k s).mem = s.mem := rfl

/-- An engine operation works on its core alone. -/
@[simp] theorem runEOp_mem (o : MOp) (s : State) : (runEOp o s).mem = s.mem := by
  unfold runEOp
  cases o.op <;> dsimp only <;> first | exact flagsAt_mem _ _ _ _ | rfl | (simp only [apply_ite State.mem]; (repeat' split) <;> rfl)

/-- A spline operation works on its core alone. -/
@[simp] theorem runSOp_mem (o : SQOp) (s : State) : (runSOp o s).mem = s.mem := by
  unfold runSOp
  cases o.op
  case ld => exact (flagsAt_mem _ _ _ _).trans (mapCore_mem _ _)
  case st => rfl
  case ev => exact (flagsAt_mem _ _ _ _).trans (mapCore_mem _ _)
  case bwd => exact (flagsAt_mem _ _ _ _).trans (mapCore_mem _ _)
  case gs => exact (flagsAt_mem _ _ _ _).trans (mapCore_mem _ _)
  case gx => rfl
  case gz => rfl
  case ref => exact (flagsAt_mem _ _ _ _).trans (mapCore_mem _ _)
  case cnt =>
    dsimp only
    split <;> rfl

theorem foldl_mem {β : Type} (f : State → β → State) (hf : ∀ s b, (f s b).mem = s.mem) :
    ∀ (l : List β) (s : State), (l.foldl f s).mem = s.mem
  | [], _ => rfl
  | b :: t, s => (foldl_mem f hf t (f s b)).trans (hf s b)

@[simp] theorem finishM_mem (k : List MOp) : ∀ (l : List MOp) (s : State), (finishM k l s).mem = s.mem
  | [], _ => rfl
  | o :: t, s => by simp only [finishM, finishM_mem k t, mapCore_mem]; split <;> simp

@[simp] theorem finishS_mem : ∀ (l : List SQOp) (s : State), (finishS l s).mem = s.mem
  | [], _ => rfl
  | o :: t, s => by simp [finishS, finishS_mem t]

@[simp] theorem finishSaves_mem (s : State) : (finishSaves s).mem = s.mem := by simp [finishSaves]

@[simp] theorem engineStep_mem (s : State) : (engineStep s).mem = s.mem := by
  unfold engineStep; split <;> simp

@[simp] theorem splineStep_mem (s : State) : (splineStep s).mem = s.mem := by
  unfold splineStep; split <;> simp

@[simp] theorem enqueueM_mem (b : Bool) (o : EOp) (s : State) : (enqueueM b o s).mem = s.mem := rfl
@[simp] theorem enqueueS_mem (o : SOp) (f : Flags) (s : State) : (enqueueS o f s).mem = s.mem := rfl

/-- A trap taken by an instruction keeps memory. -/
@[simp] theorem takeTrap_saves_mem (c : Cause) (s : State) : (takeTrap finishSaves c s).mem = s.mem :=
  takeTrap_mem finishSaves_mem c s

/-- An issue whose effect keeps memory keeps it whatever its outcome (01 R23, R24). -/
theorem issue_mem {s u : State} {r : Res State} (hr : ∀ t, r = .ok t → t.mem = s.mem) (h : issue s r = .next u) : u.mem = s.mem := by
  rw [issue_eq] at h
  rcases close_cases finishSaves s r with ⟨t, h1, h2⟩ | ⟨-, h2⟩ | ⟨_, -, h2⟩ | ⟨-, h2⟩ | ⟨_, -, h2⟩ <;> rw [h2] at h <;> cases h
  · exact hr _ h1
  all_goals simp

@[simp] theorem writeS_mem (r : BitVec 6) (c : Nat) (v : Word) (f : Flags) (s : State) : (writeS r c v f s).mem = s.mem := rfl
@[simp] theorem writeSpad_mem (c : Nat) (b : List (Nat × Byte)) (g : List (Nat × Bool)) (f : Flags) (s : State) :
    (writeSpad c b g f s).mem = s.mem := rfl
@[simp] theorem produceVal_mem (r : BitVec 6) (v : Word) (n : Nat) (b : Bool) (s : State) : (produceVal r v n b s).mem = s.mem := rfl

end Sys2Proof.Machine
end

