-- ==== Sys2Proof/Laws/Access.lean ====
section
/-! SUPPORT. What a core's translations and reads of global memory can change: translation caches, leases, and the record of what the region
has read; and what entering held pieces changes. -/

namespace Sys2Proof.Machine

/-- `u` is `s` but for translation caches, cache slices with the evictions they make, directory entries, the free-value counter, and the
region's record of its reads. -/
def ReadsOnly (s u : State) : Prop :=
  u = { s with dieTlb := u.dieTlb, dir := u.dir, slices := u.slices, hbm := u.hbm, ptx := u.ptx, clnEvcts := u.clnEvcts, free := u.free,
               core := { s.core with tlb := u.core.tlb, xlat := u.core.xlat, l1 := u.core.l1, rvt := u.core.rvt, lb := u.core.lb } }

theorem ReadsOnly.refl (s : State) : ReadsOnly s s := rfl

theorem ReadsOnly.trans {s t u : State} (h1 : ReadsOnly s t) (h2 : ReadsOnly t u) : ReadsOnly s u := by
  unfold ReadsOnly at *
  rw [h2, h1]

theorem ReadsOnly.mem {s u : State} (h : ReadsOnly s u) : u.mem = s.mem := by rw [h]
theorem ReadsOnly.st {s u : State} (h : ReadsOnly s u) : u.core.st = s.core.st := by rw [h]
theorem ReadsOnly.held {s u : State} (h : ReadsOnly s u) : u.core.held = s.core.held := by rw [h]
theorem ReadsOnly.id {s u : State} (h : ReadsOnly s u) : u.core.id = s.core.id := by rw [h]
theorem ReadsOnly.scratch {s u : State} (h : ReadsOnly s u) : u.core.scratch = s.core.scratch := by rw [h]
theorem ReadsOnly.full {s u : State} (h : ReadsOnly s u) : u.core.full = s.core.full := by rw [h]
theorem ReadsOnly.banks {s u : State} (h : ReadsOnly s u) : u.core.banks = s.core.banks := by rw [h]
theorem ReadsOnly.others {s u : State} (h : ReadsOnly s u) : u.others = s.others := by rw [h]
theorem ReadsOnly.ctx {s u : State} (h : ReadsOnly s u) : u.ctx = s.ctx := by rw [h]
theorem ReadsOnly.agenda {s u : State} (h : ReadsOnly s u) : u.agenda = s.agenda := by rw [h]
theorem ReadsOnly.now {s u : State} (h : ReadsOnly s u) : u.now = s.now := by rw [h]
theorem ReadsOnly.nextId {s u : State} (h : ReadsOnly s u) : u.nextId = s.nextId := by rw [h]

/-- Two reads in a row that answer: both answered, the second from what the first gave (with the state that the first read left). -/
theorem bothRead {ε γ δ : Type} {P : Prop} {first : Except ε γ} {second : γ → Except ε δ} {r : δ} (done : first.bind second = .ok r)
    (goal : ∀ v, first = .ok v → second v = .ok r → P) : P :=
  match first, done, goal with
  | .ok v, done, goal => goal v rfl done

/-! ### Cache slices -/

theorem askPool_reads (tx : PoolTx) (s : State) : ReadsOnly s (askPool tx s) := rfl
theorem slices_reads (x : List (Nat × List SliceLine)) (s : State) : ReadsOnly s { s with slices := x } := rfl
theorem hbm_reads (x : SMap Byte) (s : State) : ReadsOnly s { s with hbm := x } := rfl
theorem clnEvcts_reads (x : List Nat) (s : State) : ReadsOnly s { s with clnEvcts := x } := rfl

theorem setPst_reads (line p : Nat) (s : State) : ReadsOnly s (setPst line p s) := by unfold setPst; simp only; split <;> rfl

theorem dropClean_reads (line : Nat) (s : State) : ReadsOnly s (dropClean line s) := by
  unfold dropClean; simp only; split
  · exact (clnEvcts_reads _ s).trans (setPst_reads _ _ _)
  · rfl

theorem evictLine_reads (v : SliceLine) (s : State) : ReadsOnly s (evictLine v s) := by
  unfold evictLine; simp only; split
  · split
    · exact ReadsOnly.refl _
    · exact ReadsOnly.refl _
    · exact (setPst_reads _ _ _).trans (askPool_reads _ _)
    · exact dropClean_reads _ _
  · split
    · exact hbm_reads _ _
    · exact ReadsOnly.refl _

/-- An access to a line through its slice changes no byte, no register and no agenda. -/
theorem touchLine_reads (line : Nat) (wr : Bool) (s : State) : ReadsOnly s (touchLine line wr s) := by
  unfold touchLine; simp only; split
  · exact slices_reads _ _
  · exact (slices_reads _ _).trans (evictLine_reads _ _)

theorem touchAll_reads : ∀ (ls : List Nat) (s : State), ReadsOnly s (touchAll ls s)
  | [], s => ReadsOnly.refl s
  | l :: t, s => (touchLine_reads l false s).trans (touchAll_reads t _)

theorem dieTlb_reads (x : List (Nat × Tlb)) (n : Nat) (s : State) : ReadsOnly s { s with dieTlb := x, free := n } := rfl
theorem keepDie_reads (d : Nat) (t : Tlb) (s : State) : ReadsOnly s (keepDie d t s) := by
  unfold keepDie
  simp only
  split
  · exact dieTlb_reads _ _ _
  · exact dieTlb_reads _ _ _

theorem tlb_reads (f : Core → List Tlb) (g : Core → List (Nat × Nat)) (s : State) :
    ReadsOnly s (mapCore (fun c => { c with tlb := f c, xlat := g c }) s) := rfl

@[simp] theorem touchLine_mem (line : Nat) (wr : Bool) (s : State) : (touchLine line wr s).mem = s.mem := (touchLine_reads line wr s).mem

theorem lookupTlb_reads {s u : State} {va : Nat} {t : Tlb} (h : lookupTlb s va = .ok (t, u)) : ReadsOnly s u := by
  unfold lookupTlb at h
  simp only at h
  split at h
  · cases h; rfl
  · split at h
    · cases h; rfl
    · refine bothRead h fun w _ h => ?_
      cases h
      exact ((touchAll_reads _ _).trans (keepDie_reads _ _ _)).trans (tlb_reads _ _ _)

theorem coreXlate_reads {s u : State} {acc : Acc} {va : Nat} {p : Nat × Bool} (h : coreXlate acc va s = .ok (p, u)) : ReadsOnly s u := by
  unfold coreXlate at h
  refine bothRead h fun ⟨t, w⟩ h1 h => ?_
  refine bothRead h fun pa _ h => ?_
  cases h
  exact lookupTlb_reads h1

theorem xlateAll_reads (acc : Acc) : ∀ (l : List (Nat × Nat)) (s : State), ReadsOnly s (xlateAll acc l s).2
  | [], s => ReadsOnly.refl s
  | (va, n) :: t, s => by
    unfold xlateAll
    split
    · rename_i h
      exact (coreXlate_reads h).trans (xlateAll_reads acc t _)
    · exact xlateAll_reads acc t s

theorem grantLease_reads (line pts : Nat) (p : Option CoreId) (s : State) : ReadsOnly s (grantLease line pts p s).2 := by
  unfold grantLease
  simp only
  (repeat' split) <;> rfl

theorem rvtAdd_core {line lease : Nat} {c d : Core} (h : rvtAdd line lease c = some d) : d = { c with rvt := d.rvt } := by
  unfold rvtAdd at h
  split at h
  · cases h; rfl
  · split at h
    · cases h
    · cases h; rfl

theorem l1Insert_core {l : L1Line} {c d : Core} (h : l1Insert l c = some d) : d = { c with l1 := d.l1, rvt := d.rvt } := by
  unfold l1Insert at h
  simp only at h
  split at h
  · cases h; rfl
  · split at h
    · cases h; rfl
    · split at h
      · have := rvtAdd_core h; rw [this]
      · cases h; rfl

theorem regionLine_reads {s u : State} {line : Nat} {rop : Bool} {v : Vec} (h : regionLine line rop s = .ok (v, u)) : ReadsOnly s u := by
  unfold regionLine at h
  simp only at h
  split at h
  · cases h; rfl
  · refine bothRead h fun _ _ h => ?_
    have ht := touchLine_reads line false s
    generalize touchLine line false s = s1 at h ht
    generalize lineVec s line = v0, leafMark s (64 * line) = m0 at h
    refine ht.trans ?_
    clear ht
    split at h
    · split at h
      · rename_i hc
        cases h
        split at hc
        · cases hc; rfl
        · have := l1Insert_core hc
          unfold ReadsOnly; rw [this]
      · cases h
    · split at h
      · cases h
      · have hg := grantLease_reads line s.core.pts (if s.core.st.pin = true then some s.core.id else none) s1
        generalize grantLease line s.core.pts (if s.core.st.pin = true then some s.core.id else none) s1 = g at h hg
        split at h
        · rename_i hc
          cases h
          split at hc
          · have := rvtAdd_core hc
            unfold ReadsOnly at *; rw [this, hg]
          · have := l1Insert_core hc
            unfold ReadsOnly at *; rw [this, hg]
        · cases h

theorem readChunks_reads : ∀ (l : List (Nat × Nat × Bool)) {s u : State} {r : List (List Byte)}, readChunks l s = .ok (r, u) → ReadsOnly s u
  | [], s, u, r, h => by cases h; exact ReadsOnly.refl _
  | (pa, n, imm) :: t, s, u, r, h => by
    unfold readChunks at h
    refine bothRead h fun ⟨v, w⟩ h1 h => ?_
    refine bothRead h fun ⟨r', x⟩ h2 h => ?_
    cases h
    exact (regionLine_reads h1).trans (readChunks_reads t h2)

theorem globalReadWith_reads {acc : Acc} {chk : Bool} {ex : List MemErr} {l : List (Nat × Nat)} {s u : State} {r : List (List Byte)}
    (h : globalReadWith acc chk ex l s = .ok (r, u)) : ReadsOnly s u := by
  unfold globalReadWith at h
  simp only at h
  split at h
  · cases h
  · split at h
    · cases h
    · exact (xlateAll_reads acc l s).trans (readChunks_reads _ h)

theorem globalRead1_reads {va n : Nat} {s u : State} {v : Nat} (h : globalRead1 va n s = .ok (v, u)) : ReadsOnly s u := by
  unfold globalRead1 globalRead at h
  refine bothRead h fun ⟨r, w⟩ h1 h => ?_
  cases h
  exact globalReadWith_reads h1

theorem liftMem_ok {α : Type} {s : State} {x : Except MemErr α} {a : α} (h : liftMem s x = .ok a) : x = .ok a := by
  cases x with
  | ok b => cases h; rfl
  | error e => cases e <;> simp [liftMem, memStop, raise] at h

theorem xlateW_reads {acc : Acc} {va : Nat} {s u : State} {pa : Nat} (h : xlateW acc va s = .ok (pa, u)) : ReadsOnly s u := by
  unfold xlateW at h
  refine bothRead h fun ⟨p, w⟩ h1 h => ?_
  cases h
  exact coreXlate_reads (liftMem_ok h1)

/-- Entering pieces appends them, and the buffer then holds at most 128 (01 R23). -/
theorem holdAll_ok {ps : List Held} {s u : State} (h : holdAll ps s = .ok u) :
    u = { s with core := { s.core with held := s.core.held ++ ps }, ctx := { s.ctx with ownHeld := s.ctx.ownHeld + ps.length } } ∧
      u.core.held.length ≤ 128 := by
  unfold holdAll need at h
  split at h
  · rename_i hl
    cases h
    simp only [decide_eq_true_eq] at hl
    exact ⟨rfl, by simpa [mapCore] using hl⟩
  · cases h

theorem holdAll_room {ps : List Held} {s : State} (h : s.core.held.length + ps.length ≤ 128) :
    holdAll ps s = .ok
      { s with core := { s.core with held := s.core.held ++ ps }, ctx := { s.ctx with ownHeld := s.ctx.ownHeld + ps.length } } := by
  simp [holdAll, need, h, mapCore]
  rfl

end Sys2Proof.Machine
end

