-- ==== Sys2Proof/Laws/Encoding.lean ====
section
/-! SUPPORT. Each format's word reads back: its opcode, its fields and its reserved bits (02 R56-R61, 24 R440). -/

namespace Sys2Proof

/-- Bits of a concatenation that lie in its high part. -/
theorem extract_high {m n : Nat} (a : BitVec m) (b : BitVec n) {s k : Nat} (h : n ≤ s) :
    (a ++ b).extractLsb' s k = a.extractLsb' (s - n) k := by
  apply BitVec.eq_of_getLsbD_eq
  intro i hi
  simp only [BitVec.getLsbD_extractLsb', BitVec.getLsbD_append, hi, decide_true, Bool.true_and]
  rw [if_neg (by omega)]
  congr 1; omega

/-- Bits of a concatenation that lie in its low part. -/
theorem extract_low {m n : Nat} (a : BitVec m) (b : BitVec n) {s k : Nat} (h : s + k ≤ n) :
    (a ++ b).extractLsb' s k = b.extractLsb' s k := by
  apply BitVec.eq_of_getLsbD_eq
  intro i hi
  simp only [BitVec.getLsbD_extractLsb', BitVec.getLsbD_append, hi, decide_true, Bool.true_and]
  rw [if_pos (by omega)]

/-- All bits of a value. -/
theorem extract_all {n : Nat} (a : BitVec n) : a.extractLsb' 0 n = a := by
  apply BitVec.eq_of_getLsbD_eq
  intro i hi
  simp [hi]

@[simp] theorem SR.op_word (op : BitVec 8) (f : SR) : (SR.word op f).extractLsb' 56 8 = op := by
  simp (disch := decide) only [SR.word, extract_high, extract_all, Nat.reduceSub]

@[simp] theorem SR.of_word (op : BitVec 8) (f : SR) : SR.of (SR.word op f) = f := by
  simp (disch := decide) only [SR.of, SR.word, extract_high, extract_low, extract_all, Nat.reduceSub]

@[simp] theorem SR.zeros_word (op : BitVec 8) (f : SR) : SR.zeros (SR.word op f) = true := by
  simp (disch := decide) only [SR.zeros, SR.word, extract_low, extract_all]
  rfl

@[simp] theorem SI.op_word (op : BitVec 8) (f : SI) : (SI.word op f).extractLsb' 56 8 = op := by
  simp (disch := decide) only [SI.word, extract_high, extract_all, Nat.reduceSub]

@[simp] theorem SI.of_word (op : BitVec 8) (f : SI) : SI.of (SI.word op f) = f := by
  simp (disch := decide) only [SI.of, SI.word, extract_high, extract_low, extract_all, Nat.reduceSub]

@[simp] theorem SI.zeros_word (w : Word) : SI.zeros w = true := rfl

@[simp] theorem SW.op_word (op : BitVec 8) (f : SW) : (SW.word op f).extractLsb' 56 8 = op := by
  simp (disch := decide) only [SW.word, extract_high, extract_all, Nat.reduceSub]

@[simp] theorem SW.of_word (op : BitVec 8) (f : SW) : SW.of (SW.word op f) = f := by
  simp (disch := decide) only [SW.of, SW.word, extract_high, extract_low, extract_all, Nat.reduceSub]

@[simp] theorem SW.zeros_word (w : Word) : SW.zeros w = true := rfl

@[simp] theorem SF.op_word (op : BitVec 8) (f : SF) : (SF.word op f).extractLsb' 56 8 = op := by
  simp (disch := decide) only [SF.word, extract_high, extract_all, Nat.reduceSub]

@[simp] theorem SF.of_word (op : BitVec 8) (f : SF) : SF.of (SF.word op f) = f := by
  simp (disch := decide) only [SF.of, SF.word, extract_high, extract_low, extract_all, Nat.reduceSub]

@[simp] theorem SF.zeros_word (op : BitVec 8) (f : SF) : SF.zeros (SF.word op f) = true := by
  simp (disch := decide) only [SF.zeros, SF.word, extract_low, extract_all]
  rfl

@[simp] theorem SL.op_word (op : BitVec 8) (f : SL) : (SL.word op f).extractLsb' 56 8 = op := by
  simp (disch := decide) only [SL.word, extract_high, extract_all, Nat.reduceSub]

@[simp] theorem SL.of_word (op : BitVec 8) (f : SL) : SL.of (SL.word op f) = f := by
  simp (disch := decide) only [SL.of, SL.word, extract_high, extract_low, extract_all, Nat.reduceSub]

@[simp] theorem SL.zeros_word (w : Word) : SL.zeros w = true := rfl

@[simp] theorem SP.op_word (op : BitVec 8) (f : SP) : (SP.word op f).extractLsb' 56 8 = op := by
  simp (disch := decide) only [SP.word, extract_high, extract_all, Nat.reduceSub]

@[simp] theorem SP.of_word (op : BitVec 8) (f : SP) : SP.of (SP.word op f) = f := by
  simp (disch := decide) only [SP.of, SP.word, extract_high, extract_low, extract_all, Nat.reduceSub]

@[simp] theorem SP.zeros_word (op : BitVec 8) (f : SP) : SP.zeros (SP.word op f) = true := by
  simp (disch := decide) only [SP.zeros, SP.word, extract_high, extract_low, extract_all, Nat.reduceSub]
  rfl

@[simp] theorem SQ.op_word (op : BitVec 8) (f : SQ) : (SQ.word op f).extractLsb' 56 8 = op := by
  simp (disch := decide) only [SQ.word, extract_high, extract_all, Nat.reduceSub]

@[simp] theorem SQ.of_word (op : BitVec 8) (f : SQ) : SQ.of (SQ.word op f) = f := by
  simp (disch := decide) only [SQ.of, SQ.word, extract_high, extract_low, extract_all, Nat.reduceSub]

@[simp] theorem SQ.zeros_word (w : Word) : SQ.zeros w = true := rfl

@[simp] theorem SX.op_word (op : BitVec 8) (f : SX) : (SX.word op f).extractLsb' 56 8 = op := by
  simp (disch := decide) only [SX.word, extract_high, extract_all, Nat.reduceSub]

@[simp] theorem SX.of_word (op : BitVec 8) (f : SX) : SX.of (SX.word op f) = f := by
  simp (disch := decide) only [SX.of, SX.word, extract_high, extract_low, extract_all, Nat.reduceSub]

@[simp] theorem SX.zeros_word (op : BitVec 8) (f : SX) : SX.zeros (SX.word op f) = true := by
  simp (disch := decide) only [SX.zeros, SX.word, extract_high, extract_low, extract_all, Nat.reduceSub]
  rfl

@[simp] theorem SH.op_word (op : BitVec 8) (f : SH) : (SH.word op f).extractLsb' 56 8 = op := by
  simp (disch := decide) only [SH.word, extract_high, extract_all, Nat.reduceSub]

@[simp] theorem SH.of_word (op : BitVec 8) (f : SH) : SH.of (SH.word op f) = f := by
  simp (disch := decide) only [SH.of, SH.word, extract_high, extract_low, extract_all, Nat.reduceSub]

@[simp] theorem SH.zeros_word (w : Word) : SH.zeros w = true := rfl

@[simp] theorem MA.op_word (op : BitVec 8) (f : MA) : (MA.word op f).extractLsb' 56 8 = op := by
  simp (disch := decide) only [MA.word, extract_high, extract_all, Nat.reduceSub]

@[simp] theorem MA.of_word (op : BitVec 8) (f : MA) : MA.of (MA.word op f) = f := by
  simp (disch := decide) only [MA.of, MA.word, extract_high, extract_low, extract_all, Nat.reduceSub]

@[simp] theorem MA.zeros_word (op : BitVec 8) (f : MA) : MA.zeros (MA.word op f) = true := by
  simp (disch := decide) only [MA.zeros, MA.word, extract_low, extract_all]
  rfl

@[simp] theorem LS.op_word (op : BitVec 8) (f : LS) : (LS.word op f).extractLsb' 56 8 = op := by
  simp (disch := decide) only [LS.word, extract_high, extract_all, Nat.reduceSub]

@[simp] theorem LS.of_word (op : BitVec 8) (f : LS) : LS.of (LS.word op f) = f := by
  simp (disch := decide) only [LS.of, LS.word, extract_high, extract_low, extract_all, Nat.reduceSub]

@[simp] theorem LS.zeros_word (w : Word) : LS.zeros w = true := rfl

@[simp] theorem CE.op_word (op : BitVec 8) (f : CE) : (CE.word op f).extractLsb' 56 8 = op := by
  simp (disch := decide) only [CE.word, extract_high, extract_all, Nat.reduceSub]

@[simp] theorem CE.of_word (op : BitVec 8) (f : CE) : CE.of (CE.word op f) = f := by
  simp (disch := decide) only [CE.of, CE.word, extract_high, extract_low, extract_all, Nat.reduceSub]

@[simp] theorem CE.zeros_word (w : Word) : CE.zeros w = true := rfl

@[simp] theorem YA.op_word (op : BitVec 8) (f : YA) : (YA.word op f).extractLsb' 56 8 = op := by
  simp (disch := decide) only [YA.word, extract_high, extract_all, Nat.reduceSub]

@[simp] theorem YA.of_word (op : BitVec 8) (f : YA) : YA.of (YA.word op f) = f := by
  simp (disch := decide) only [YA.of, YA.word, extract_high, extract_low, extract_all, Nat.reduceSub]

@[simp] theorem YA.zeros_word (w : Word) : YA.zeros w = true := rfl

@[simp] theorem WP.op_word (op : BitVec 8) (f : WP) : (WP.word op f).extractLsb' 56 8 = op := by
  simp (disch := decide) only [WP.word, extract_high, extract_all, Nat.reduceSub]

@[simp] theorem WP.of_word (op : BitVec 8) (f : WP) : WP.of (WP.word op f) = f := by
  simp (disch := decide) only [WP.of, WP.word, extract_high, extract_low, extract_all, Nat.reduceSub]

@[simp] theorem WP.zeros_word (op : BitVec 8) (f : WP) : WP.zeros (WP.word op f) = true := by
  simp (disch := decide) only [WP.zeros, WP.word, extract_low, extract_all]
  rfl

@[simp] theorem WR.op_word (op : BitVec 8) (f : WR) : (WR.word op f).extractLsb' 56 8 = op := by
  simp (disch := decide) only [WR.word, extract_high, extract_all, Nat.reduceSub]

@[simp] theorem WR.of_word (op : BitVec 8) (f : WR) : WR.of (WR.word op f) = f := by
  simp (disch := decide) only [WR.of, WR.word, extract_high, extract_low, extract_all, Nat.reduceSub]

@[simp] theorem WR.zeros_word (op : BitVec 8) (f : WR) : WR.zeros (WR.word op f) = true := by
  simp (disch := decide) only [WR.zeros, WR.word, extract_high, extract_low, extract_all, Nat.reduceSub]
  rfl

@[simp] theorem WC.op_word (op : BitVec 8) (f : WC) : (WC.word op f).extractLsb' 56 8 = op := by
  simp (disch := decide) only [WC.word, extract_high, extract_all, Nat.reduceSub]

@[simp] theorem WC.of_word (op : BitVec 8) (f : WC) : WC.of (WC.word op f) = f := by
  simp (disch := decide) only [WC.of, WC.word, extract_high, extract_low, extract_all, Nat.reduceSub]

@[simp] theorem WC.zeros_word (w : Word) : WC.zeros w = true := rfl

@[simp] theorem SB.op_word (op : BitVec 8) (zf : BitVec 1) (f : SB) : (SB.word op zf f).extractLsb' 56 8 = op := by
  simp (disch := decide) only [SB.word, extract_high, extract_all, Nat.reduceSub]

@[simp] theorem SB.of_word (op : BitVec 8) (zf : BitVec 1) (f : SB) : SB.of (SB.word op zf f) = f := by
  simp (disch := decide) only [SB.of, SB.word, extract_high, extract_low, extract_all, Nat.reduceSub]

@[simp] theorem SB.zeros_word (op : BitVec 8) (zf : BitVec 1) (f : SB) : SB.zeros (SB.word op zf f) = true := by
  simp (disch := decide) only [SB.zeros, SB.word, extract_high, extract_low, extract_all, Nat.reduceSub]
  rfl

@[simp] theorem VF.op_word (op : BitVec 8) (f : VF) : (VF.word op f).extractLsb' 56 8 = op := by
  simp (disch := decide) only [VF.word, extract_high, extract_all, Nat.reduceSub]

theorem VF.of_word (op : BitVec 8) (f : VF) : VF.of f.slotB (VF.word op f) = f := by
  simp (disch := decide) only [VF.of, VF.word, extract_high, extract_low, extract_all, Nat.reduceSub]

@[simp] theorem VF.zeros_word (op : BitVec 8) (f : VF) : VF.zeros (VF.word op f) = true := by
  simp (disch := decide) only [VF.zeros, VF.word, extract_low, extract_all]
  rfl

/-- Bit 45 of format SB is zf. -/
@[simp] theorem SB.zf_word (op : BitVec 8) (zf : BitVec 1) (f : SB) : (SB.word op zf f).getLsbD 45 = zf.getLsbD 0 := by
  simp only [SB.word, BitVec.getLsbD_append]
  repeat' split
  all_goals first | omega | rfl

end Sys2Proof
end

