-- ==== Sys2Proof/Laws/Homes.lean ====
section
/-! SUPPORT. What the stamps of a line and the work at a home leave unchanged, and how the fault of a fetch differs from a trap. -/

namespace Sys2Proof.Machine

theorem setDir_reads (line : Nat) (d : Dir) (s : State) : ReadsOnly s (setDir line d s) := rfl

/-- A home's clock rises, and times far below it are due to be raised: nothing else changes (12 R274). -/
theorem raiseHc_eq (home t : Nat) (s : State) : ∃ h a n, raiseHc home t s = { s with hc := h, agenda := a, free := n } := by
  unfold raiseHc; dsimp only; split
  · exact ⟨_, _, _, rfl⟩
  · exact ⟨_, s.agenda, s.free, rfl⟩

/-- A read at a logical time raises the home's clock and the line's RTS, and changes nothing else (12 R274, R276). -/
theorem readStamp_eq (line t : Nat) (s : State) :
    ∃ h a n d, readStamp line t s = { s with hc := h, agenda := a, free := n, dir := d } := by
  obtain ⟨h, a, n, e⟩ := raiseHc_eq (combHome (64 * line)) t s
  exact ⟨h, a, n, _, by simp only [readStamp, e]; rfl⟩

@[simp] theorem readStamp_mem (line t : Nat) (s : State) : (readStamp line t s).mem = s.mem := by
  obtain ⟨h, a, n, d, e⟩ := readStamp_eq line t s
  rw [e]

theorem findKey_putKey {α : Type} (k : Nat) (v : α) : ∀ l : List (Nat × α), findKey (putKey l k v) k = some v
  | [] => by simp [findKey, putKey]
  | (j, w) :: t => by
    unfold putKey
    split
    · simp [findKey]
    · have := findKey_putKey k v t
      simp_all [findKey]

/-- The entry that is set is the one that is read. -/
@[simp] theorem dirOf_setDir (line : Nat) (d : Dir) (s : State) : dirOf (setDir line d s) line = d := by
  simp [dirOf, setDir, findKey_putKey]

/-- After a read at t no later write commits at t or below (12 R270, R276). -/
theorem readStamp_rts (line t : Nat) (s : State) : t ≤ (dirOf (readStamp line t s) line).rts := by
  simp [readStamp]

theorem modDir_reads (line : Nat) (full : Bool) (s : State) : ReadsOnly s (modDir line full s) := by
  have h (p : Prop) [Decidable p] (d : Dir) : ReadsOnly s (if p then s else setDir line d s) := by split <;> rfl
  exact h _ _

/-- Statistics and images modify a line in its slice without a stamp. -/
theorem modLine_reads (line : Nat) (full : Bool) (s : State) : ReadsOnly s (modLine line full s) :=
  (modDir_reads line full s).trans (touchLine_reads _ _ _)

/-- An engine's use of lines changes the order of their slices, with the evictions that it makes (11 R252). -/
theorem engUse_reads (parts : List (Nat × Nat)) (s : State) : ReadsOnly s (engUse parts s) := touchAll_reads _ s
@[simp] theorem engUse_mem (parts : List (Nat × Nat)) (s : State) : (engUse parts s).mem = s.mem := (engUse_reads parts s).mem

/-- Without a commit there is nothing to apply. -/
theorem finishApplies_idle {s : State} (h : s.core.commit = none) : ∀ n, finishApplies n s = s
  | 0 => rfl
  | _ + 1 => by simp [finishApplies, h]

/-- The records of a job that is over stay as they are (17 R384, 21 R417). -/
theorem dropRecords_idle (tser : Nat) {s : State} (h : jobLive s = false) : dropRecords tser s = s := by
  unfold dropRecords; split <;> simp [h]

@[simp] theorem dropRecords_mem (tser : Nat) (s : State) : (dropRecords tser s).mem = s.mem := by
  unfold dropRecords; split
  · split <;> rfl
  · rfl

@[simp] theorem modLine_mem (line : Nat) (full : Bool) (s : State) : (modLine line full s).mem = s.mem := (modLine_reads line full s).mem

/-- Outside a handler the fault of a fetch is a trap like any other (01 R38). -/
theorem fetchTrap_outside (f : State → State) (c : Cause) (s : State) (h : s.core.st.tm = false) : fetchTrap f c s = takeTrap f c s := by
  simp [fetchTrap, takeTrap, h]

/-- Within the engines' saves, the fault of a fetch keeps memory. -/
theorem fetchTrap_mem {f : State → State} (hf : ∀ s, (f s).mem = s.mem) (c : Cause) (s : State) : (fetchTrap f c s).mem = s.mem := by
  unfold fetchTrap trapNaming
  simp only
  split
  · simp [rollback_mem hf]
  · split
    · simp [rollback_mem hf]
    · split <;> simp [rollback_mem hf]

/-- An operation that waited for a publication applies later than t and than every lease on the record (12 R277). -/
theorem tmTime_after (s : State) (o : TmOp) (t : Nat) :
    t < tmTime s o t ∧ (dirOf s (o.pa / 64)).rts < tmTime s o t ∧ (dirOf s (o.pa / 64 + 1)).rts < tmTime s o t := by
  unfold tmTime afterLine
  have h (a b : Nat) : a.max b = max a b := rfl
  simp only [h]
  omega

end Sys2Proof.Machine
end

