-- ==== Sys2Proof/Laws/PerInstr.lean ====
section
/-! SUPPORT. Per constructor: the syllable or step that `encode` gives a well-formed instruction decodes to that instruction (family
`RoundTrip`). -/

namespace Sys2Proof

/-- The encoding of an instruction that is well formed decodes to it, in its slot or as a step. -/
def Laws.RoundTrip.Statement (i : Instr) : Prop :=
  (∀ k, i.slot = some k → i.wf = true → decodeSyl k i.encode = .instr i) ∧
  (i.isStep = true → i.wf = true → decodeStep i.encode = some i)

theorem legal_wf {i : Instr} (h : i.wf = true) : legal true i = .instr i := by simp [legal, h]

theorem Laws.RoundTrip.checkpoint : Laws.RoundTrip.Statement .checkpoint :=
  ⟨fun k h => absurd h.symm (Option.some_ne_none k), fun h => absurd h Bool.false_ne_true⟩

theorem Laws.RoundTrip.orderedBundle : Laws.RoundTrip.Statement .orderedBundle :=
  ⟨fun k h => absurd h.symm (Option.some_ne_none k), fun h => absurd h Bool.false_ne_true⟩

theorem Laws.RoundTrip.breakpoint : Laws.RoundTrip.Statement .breakpoint :=
  ⟨fun k h => absurd h.symm (Option.some_ne_none k), fun h => absurd h Bool.false_ne_true⟩

theorem Laws.RoundTrip.resultLands (c : CoreId) : Laws.RoundTrip.Statement (.resultLands c) :=
  ⟨fun k h => absurd h.symm (Option.some_ne_none k), fun h => absurd h Bool.false_ne_true⟩

theorem Laws.RoundTrip.variableLatencyResult (c : CoreId) (k : Nat) : Laws.RoundTrip.Statement (.variableLatencyResult c k) :=
  ⟨fun k h => absurd h.symm (Option.some_ne_none k), fun h => absurd h Bool.false_ne_true⟩

theorem Laws.RoundTrip.scratchpadWriteLands (c : CoreId) : Laws.RoundTrip.Statement (.scratchpadWriteLands c) :=
  ⟨fun k h => absurd h.symm (Option.some_ne_none k), fun h => absurd h Bool.false_ne_true⟩

theorem Laws.RoundTrip.imageLanding (c : CoreId) (k : Nat) : Laws.RoundTrip.Statement (.imageLanding c k) :=
  ⟨fun k h => absurd h.symm (Option.some_ne_none k), fun h => absurd h Bool.false_ne_true⟩

theorem Laws.RoundTrip.multicastLanding (k : Nat) : Laws.RoundTrip.Statement (.multicastLanding k) :=
  ⟨fun k h => absurd h.symm (Option.some_ne_none k), fun h => absurd h Bool.false_ne_true⟩

theorem Laws.RoundTrip.matrixEngineExecute (c : CoreId) : Laws.RoundTrip.Statement (.matrixEngineExecute c) :=
  ⟨fun k h => absurd h.symm (Option.some_ne_none k), fun h => absurd h Bool.false_ne_true⟩

theorem Laws.RoundTrip.splineArrayExecute (c : CoreId) : Laws.RoundTrip.Statement (.splineArrayExecute c) :=
  ⟨fun k h => absurd h.symm (Option.some_ne_none k), fun h => absurd h Bool.false_ne_true⟩

theorem Laws.RoundTrip.debugRestart (c : CoreId) : Laws.RoundTrip.Statement (.debugRestart c) :=
  ⟨fun k h => absurd h.symm (Option.some_ne_none k), fun h => absurd h Bool.false_ne_true⟩

theorem Laws.RoundTrip.add (f : SR) : Laws.RoundTrip.Statement (.add f) := by
  refine ⟨fun k h hw => ?_, fun h => absurd h Bool.false_ne_true⟩
  obtain rfl : 0 = k := Option.some.inj h
  have hd : ∀ w, w.extractLsb' 56 8 = 1#8 → decodeS w = legal (SR.zeros w) (.add (SR.of w)) := by
    intro w h; delta decodeS; rw [h]; rfl
  show decodeS (SR.word 1 f) = _
  rw [hd _ (SR.op_word 1 f), SR.of_word, SR.zeros_word]
  exact legal_wf hw

theorem Laws.RoundTrip.sub (f : SR) : Laws.RoundTrip.Statement (.sub f) := by
  refine ⟨fun k h hw => ?_, fun h => absurd h Bool.false_ne_true⟩
  obtain rfl : 0 = k := Option.some.inj h
  have hd : ∀ w, w.extractLsb' 56 8 = 2#8 → decodeS w = legal (SR.zeros w) (.sub (SR.of w)) := by
    intro w h; delta decodeS; rw [h]; rfl
  show decodeS (SR.word 2 f) = _
  rw [hd _ (SR.op_word 2 f), SR.of_word, SR.zeros_word]
  exact legal_wf hw

theorem Laws.RoundTrip.mul (f : SR) : Laws.RoundTrip.Statement (.mul f) := by
  refine ⟨fun k h hw => ?_, fun h => absurd h Bool.false_ne_true⟩
  obtain rfl : 0 = k := Option.some.inj h
  have hd : ∀ w, w.extractLsb' 56 8 = 3#8 → decodeS w = legal (SR.zeros w) (.mul (SR.of w)) := by
    intro w h; delta decodeS; rw [h]; rfl
  show decodeS (SR.word 3 f) = _
  rw [hd _ (SR.op_word 3 f), SR.of_word, SR.zeros_word]
  exact legal_wf hw

theorem Laws.RoundTrip.mulh (f : SR) : Laws.RoundTrip.Statement (.mulh f) := by
  refine ⟨fun k h hw => ?_, fun h => absurd h Bool.false_ne_true⟩
  obtain rfl : 0 = k := Option.some.inj h
  have hd : ∀ w, w.extractLsb' 56 8 = 4#8 → decodeS w = legal (SR.zeros w) (.mulh (SR.of w)) := by
    intro w h; delta decodeS; rw [h]; rfl
  show decodeS (SR.word 4 f) = _
  rw [hd _ (SR.op_word 4 f), SR.of_word, SR.zeros_word]
  exact legal_wf hw

theorem Laws.RoundTrip.mulhu (f : SR) : Laws.RoundTrip.Statement (.mulhu f) := by
  refine ⟨fun k h hw => ?_, fun h => absurd h Bool.false_ne_true⟩
  obtain rfl : 0 = k := Option.some.inj h
  have hd : ∀ w, w.extractLsb' 56 8 = 5#8 → decodeS w = legal (SR.zeros w) (.mulhu (SR.of w)) := by
    intro w h; delta decodeS; rw [h]; rfl
  show decodeS (SR.word 5 f) = _
  rw [hd _ (SR.op_word 5 f), SR.of_word, SR.zeros_word]
  exact legal_wf hw

theorem Laws.RoundTrip.div (f : SR) : Laws.RoundTrip.Statement (.div f) := by
  refine ⟨fun k h hw => ?_, fun h => absurd h Bool.false_ne_true⟩
  obtain rfl : 0 = k := Option.some.inj h
  have hd : ∀ w, w.extractLsb' 56 8 = 6#8 → decodeS w = legal (SR.zeros w) (.div (SR.of w)) := by
    intro w h; delta decodeS; rw [h]; rfl
  show decodeS (SR.word 6 f) = _
  rw [hd _ (SR.op_word 6 f), SR.of_word, SR.zeros_word]
  exact legal_wf hw

theorem Laws.RoundTrip.divu (f : SR) : Laws.RoundTrip.Statement (.divu f) := by
  refine ⟨fun k h hw => ?_, fun h => absurd h Bool.false_ne_true⟩
  obtain rfl : 0 = k := Option.some.inj h
  have hd : ∀ w, w.extractLsb' 56 8 = 7#8 → decodeS w = legal (SR.zeros w) (.divu (SR.of w)) := by
    intro w h; delta decodeS; rw [h]; rfl
  show decodeS (SR.word 7 f) = _
  rw [hd _ (SR.op_word 7 f), SR.of_word, SR.zeros_word]
  exact legal_wf hw

theorem Laws.RoundTrip.rem (f : SR) : Laws.RoundTrip.Statement (.rem f) := by
  refine ⟨fun k h hw => ?_, fun h => absurd h Bool.false_ne_true⟩
  obtain rfl : 0 = k := Option.some.inj h
  have hd : ∀ w, w.extractLsb' 56 8 = 8#8 → decodeS w = legal (SR.zeros w) (.rem (SR.of w)) := by
    intro w h; delta decodeS; rw [h]; rfl
  show decodeS (SR.word 8 f) = _
  rw [hd _ (SR.op_word 8 f), SR.of_word, SR.zeros_word]
  exact legal_wf hw

theorem Laws.RoundTrip.remu (f : SR) : Laws.RoundTrip.Statement (.remu f) := by
  refine ⟨fun k h hw => ?_, fun h => absurd h Bool.false_ne_true⟩
  obtain rfl : 0 = k := Option.some.inj h
  have hd : ∀ w, w.extractLsb' 56 8 = 9#8 → decodeS w = legal (SR.zeros w) (.remu (SR.of w)) := by
    intro w h; delta decodeS; rw [h]; rfl
  show decodeS (SR.word 9 f) = _
  rw [hd _ (SR.op_word 9 f), SR.of_word, SR.zeros_word]
  exact legal_wf hw

theorem Laws.RoundTrip.and (f : SR) : Laws.RoundTrip.Statement (.and f) := by
  refine ⟨fun k h hw => ?_, fun h => absurd h Bool.false_ne_true⟩
  obtain rfl : 0 = k := Option.some.inj h
  have hd : ∀ w, w.extractLsb' 56 8 = 10#8 → decodeS w = legal (SR.zeros w) (.and (SR.of w)) := by
    intro w h; delta decodeS; rw [h]; rfl
  show decodeS (SR.word 10 f) = _
  rw [hd _ (SR.op_word 10 f), SR.of_word, SR.zeros_word]
  exact legal_wf hw

theorem Laws.RoundTrip.or (f : SR) : Laws.RoundTrip.Statement (.or f) := by
  refine ⟨fun k h hw => ?_, fun h => absurd h Bool.false_ne_true⟩
  obtain rfl : 0 = k := Option.some.inj h
  have hd : ∀ w, w.extractLsb' 56 8 = 11#8 → decodeS w = legal (SR.zeros w) (.or (SR.of w)) := by
    intro w h; delta decodeS; rw [h]; rfl
  show decodeS (SR.word 11 f) = _
  rw [hd _ (SR.op_word 11 f), SR.of_word, SR.zeros_word]
  exact legal_wf hw

theorem Laws.RoundTrip.xor (f : SR) : Laws.RoundTrip.Statement (.xor f) := by
  refine ⟨fun k h hw => ?_, fun h => absurd h Bool.false_ne_true⟩
  obtain rfl : 0 = k := Option.some.inj h
  have hd : ∀ w, w.extractLsb' 56 8 = 12#8 → decodeS w = legal (SR.zeros w) (.xor (SR.of w)) := by
    intro w h; delta decodeS; rw [h]; rfl
  show decodeS (SR.word 12 f) = _
  rw [hd _ (SR.op_word 12 f), SR.of_word, SR.zeros_word]
  exact legal_wf hw

theorem Laws.RoundTrip.shl (f : SR) : Laws.RoundTrip.Statement (.shl f) := by
  refine ⟨fun k h hw => ?_, fun h => absurd h Bool.false_ne_true⟩
  obtain rfl : 0 = k := Option.some.inj h
  have hd : ∀ w, w.extractLsb' 56 8 = 13#8 → decodeS w = legal (SR.zeros w) (.shl (SR.of w)) := by
    intro w h; delta decodeS; rw [h]; rfl
  show decodeS (SR.word 13 f) = _
  rw [hd _ (SR.op_word 13 f), SR.of_word, SR.zeros_word]
  exact legal_wf hw

theorem Laws.RoundTrip.shr (f : SR) : Laws.RoundTrip.Statement (.shr f) := by
  refine ⟨fun k h hw => ?_, fun h => absurd h Bool.false_ne_true⟩
  obtain rfl : 0 = k := Option.some.inj h
  have hd : ∀ w, w.extractLsb' 56 8 = 14#8 → decodeS w = legal (SR.zeros w) (.shr (SR.of w)) := by
    intro w h; delta decodeS; rw [h]; rfl
  show decodeS (SR.word 14 f) = _
  rw [hd _ (SR.op_word 14 f), SR.of_word, SR.zeros_word]
  exact legal_wf hw

theorem Laws.RoundTrip.sar (f : SR) : Laws.RoundTrip.Statement (.sar f) := by
  refine ⟨fun k h hw => ?_, fun h => absurd h Bool.false_ne_true⟩
  obtain rfl : 0 = k := Option.some.inj h
  have hd : ∀ w, w.extractLsb' 56 8 = 15#8 → decodeS w = legal (SR.zeros w) (.sar (SR.of w)) := by
    intro w h; delta decodeS; rw [h]; rfl
  show decodeS (SR.word 15 f) = _
  rw [hd _ (SR.op_word 15 f), SR.of_word, SR.zeros_word]
  exact legal_wf hw

theorem Laws.RoundTrip.min (f : SR) : Laws.RoundTrip.Statement (.min f) := by
  refine ⟨fun k h hw => ?_, fun h => absurd h Bool.false_ne_true⟩
  obtain rfl : 0 = k := Option.some.inj h
  have hd : ∀ w, w.extractLsb' 56 8 = 16#8 → decodeS w = legal (SR.zeros w) (.min (SR.of w)) := by
    intro w h; delta decodeS; rw [h]; rfl
  show decodeS (SR.word 16 f) = _
  rw [hd _ (SR.op_word 16 f), SR.of_word, SR.zeros_word]
  exact legal_wf hw

theorem Laws.RoundTrip.max (f : SR) : Laws.RoundTrip.Statement (.max f) := by
  refine ⟨fun k h hw => ?_, fun h => absurd h Bool.false_ne_true⟩
  obtain rfl : 0 = k := Option.some.inj h
  have hd : ∀ w, w.extractLsb' 56 8 = 17#8 → decodeS w = legal (SR.zeros w) (.max (SR.of w)) := by
    intro w h; delta decodeS; rw [h]; rfl
  show decodeS (SR.word 17 f) = _
  rw [hd _ (SR.op_word 17 f), SR.of_word, SR.zeros_word]
  exact legal_wf hw

theorem Laws.RoundTrip.minu (f : SR) : Laws.RoundTrip.Statement (.minu f) := by
  refine ⟨fun k h hw => ?_, fun h => absurd h Bool.false_ne_true⟩
  obtain rfl : 0 = k := Option.some.inj h
  have hd : ∀ w, w.extractLsb' 56 8 = 18#8 → decodeS w = legal (SR.zeros w) (.minu (SR.of w)) := by
    intro w h; delta decodeS; rw [h]; rfl
  show decodeS (SR.word 18 f) = _
  rw [hd _ (SR.op_word 18 f), SR.of_word, SR.zeros_word]
  exact legal_wf hw

theorem Laws.RoundTrip.maxu (f : SR) : Laws.RoundTrip.Statement (.maxu f) := by
  refine ⟨fun k h hw => ?_, fun h => absurd h Bool.false_ne_true⟩
  obtain rfl : 0 = k := Option.some.inj h
  have hd : ∀ w, w.extractLsb' 56 8 = 19#8 → decodeS w = legal (SR.zeros w) (.maxu (SR.of w)) := by
    intro w h; delta decodeS; rw [h]; rfl
  show decodeS (SR.word 19 f) = _
  rw [hd _ (SR.op_word 19 f), SR.of_word, SR.zeros_word]
  exact legal_wf hw

theorem Laws.RoundTrip.clz (f : SR) : Laws.RoundTrip.Statement (.clz f) := by
  refine ⟨fun k h hw => ?_, fun h => absurd h Bool.false_ne_true⟩
  obtain rfl : 0 = k := Option.some.inj h
  have hd : ∀ w, w.extractLsb' 56 8 = 20#8 → decodeS w = legal (SR.zeros w) (.clz (SR.of w)) := by
    intro w h; delta decodeS; rw [h]; rfl
  show decodeS (SR.word 20 f) = _
  rw [hd _ (SR.op_word 20 f), SR.of_word, SR.zeros_word]
  exact legal_wf hw

theorem Laws.RoundTrip.popc (f : SR) : Laws.RoundTrip.Statement (.popc f) := by
  refine ⟨fun k h hw => ?_, fun h => absurd h Bool.false_ne_true⟩
  obtain rfl : 0 = k := Option.some.inj h
  have hd : ∀ w, w.extractLsb' 56 8 = 21#8 → decodeS w = legal (SR.zeros w) (.popc (SR.of w)) := by
    intro w h; delta decodeS; rw [h]; rfl
  show decodeS (SR.word 21 f) = _
  rw [hd _ (SR.op_word 21 f), SR.of_word, SR.zeros_word]
  exact legal_wf hw

theorem Laws.RoundTrip.sel (f : SR) : Laws.RoundTrip.Statement (.sel f) := by
  refine ⟨fun k h hw => ?_, fun h => absurd h Bool.false_ne_true⟩
  obtain rfl : 0 = k := Option.some.inj h
  have hd : ∀ w, w.extractLsb' 56 8 = 22#8 → decodeS w = legal (SR.zeros w) (.sel (SR.of w)) := by
    intro w h; delta decodeS; rw [h]; rfl
  show decodeS (SR.word 22 f) = _
  rw [hd _ (SR.op_word 22 f), SR.of_word, SR.zeros_word]
  exact legal_wf hw

theorem Laws.RoundTrip.addi (f : SI) : Laws.RoundTrip.Statement (.addi f) := by
  refine ⟨fun k h hw => ?_, fun h => absurd h Bool.false_ne_true⟩
  obtain rfl : 0 = k := Option.some.inj h
  have hd : ∀ w, w.extractLsb' 56 8 = 24#8 → decodeS w = legal (SI.zeros w) (.addi (SI.of w)) := by
    intro w h; delta decodeS; rw [h]; rfl
  show decodeS (SI.word 24 f) = _
  rw [hd _ (SI.op_word 24 f), SI.of_word, SI.zeros_word]
  exact legal_wf hw

theorem Laws.RoundTrip.andi (f : SI) : Laws.RoundTrip.Statement (.andi f) := by
  refine ⟨fun k h hw => ?_, fun h => absurd h Bool.false_ne_true⟩
  obtain rfl : 0 = k := Option.some.inj h
  have hd : ∀ w, w.extractLsb' 56 8 = 25#8 → decodeS w = legal (SI.zeros w) (.andi (SI.of w)) := by
    intro w h; delta decodeS; rw [h]; rfl
  show decodeS (SI.word 25 f) = _
  rw [hd _ (SI.op_word 25 f), SI.of_word, SI.zeros_word]
  exact legal_wf hw

theorem Laws.RoundTrip.ori (f : SI) : Laws.RoundTrip.Statement (.ori f) := by
  refine ⟨fun k h hw => ?_, fun h => absurd h Bool.false_ne_true⟩
  obtain rfl : 0 = k := Option.some.inj h
  have hd : ∀ w, w.extractLsb' 56 8 = 26#8 → decodeS w = legal (SI.zeros w) (.ori (SI.of w)) := by
    intro w h; delta decodeS; rw [h]; rfl
  show decodeS (SI.word 26 f) = _
  rw [hd _ (SI.op_word 26 f), SI.of_word, SI.zeros_word]
  exact legal_wf hw

theorem Laws.RoundTrip.xori (f : SI) : Laws.RoundTrip.Statement (.xori f) := by
  refine ⟨fun k h hw => ?_, fun h => absurd h Bool.false_ne_true⟩
  obtain rfl : 0 = k := Option.some.inj h
  have hd : ∀ w, w.extractLsb' 56 8 = 27#8 → decodeS w = legal (SI.zeros w) (.xori (SI.of w)) := by
    intro w h; delta decodeS; rw [h]; rfl
  show decodeS (SI.word 27 f) = _
  rw [hd _ (SI.op_word 27 f), SI.of_word, SI.zeros_word]
  exact legal_wf hw

theorem Laws.RoundTrip.shli (f : SI) : Laws.RoundTrip.Statement (.shli f) := by
  refine ⟨fun k h hw => ?_, fun h => absurd h Bool.false_ne_true⟩
  obtain rfl : 0 = k := Option.some.inj h
  have hd : ∀ w, w.extractLsb' 56 8 = 28#8 → decodeS w = legal (SI.zeros w) (.shli (SI.of w)) := by
    intro w h; delta decodeS; rw [h]; rfl
  show decodeS (SI.word 28 f) = _
  rw [hd _ (SI.op_word 28 f), SI.of_word, SI.zeros_word]
  exact legal_wf hw

theorem Laws.RoundTrip.shri (f : SI) : Laws.RoundTrip.Statement (.shri f) := by
  refine ⟨fun k h hw => ?_, fun h => absurd h Bool.false_ne_true⟩
  obtain rfl : 0 = k := Option.some.inj h
  have hd : ∀ w, w.extractLsb' 56 8 = 29#8 → decodeS w = legal (SI.zeros w) (.shri (SI.of w)) := by
    intro w h; delta decodeS; rw [h]; rfl
  show decodeS (SI.word 29 f) = _
  rw [hd _ (SI.op_word 29 f), SI.of_word, SI.zeros_word]
  exact legal_wf hw

theorem Laws.RoundTrip.sari (f : SI) : Laws.RoundTrip.Statement (.sari f) := by
  refine ⟨fun k h hw => ?_, fun h => absurd h Bool.false_ne_true⟩
  obtain rfl : 0 = k := Option.some.inj h
  have hd : ∀ w, w.extractLsb' 56 8 = 30#8 → decodeS w = legal (SI.zeros w) (.sari (SI.of w)) := by
    intro w h; delta decodeS; rw [h]; rfl
  show decodeS (SI.word 30 f) = _
  rw [hd _ (SI.op_word 30 f), SI.of_word, SI.zeros_word]
  exact legal_wf hw

theorem Laws.RoundTrip.movi (f : SW) : Laws.RoundTrip.Statement (.movi f) := by
  refine ⟨fun k h hw => ?_, fun h => absurd h Bool.false_ne_true⟩
  obtain rfl : 0 = k := Option.some.inj h
  have hd : ∀ w, w.extractLsb' 56 8 = 31#8 → decodeS w = legal (SW.zeros w) (.movi (SW.of w)) := by
    intro w h; delta decodeS; rw [h]; rfl
  show decodeS (SW.word 31 f) = _
  rw [hd _ (SW.op_word 31 f), SW.of_word, SW.zeros_word]
  exact legal_wf hw

theorem Laws.RoundTrip.movhi (f : SI) : Laws.RoundTrip.Statement (.movhi f) := by
  refine ⟨fun k h hw => ?_, fun h => absurd h Bool.false_ne_true⟩
  obtain rfl : 0 = k := Option.some.inj h
  have hd : ∀ w, w.extractLsb' 56 8 = 32#8 → decodeS w = legal (SI.zeros w) (.movhi (SI.of w)) := by
    intro w h; delta decodeS; rw [h]; rfl
  show decodeS (SI.word 32 f) = _
  rw [hd _ (SI.op_word 32 f), SI.of_word, SI.zeros_word]
  exact legal_wf hw

theorem Laws.RoundTrip.lea (f : SL) : Laws.RoundTrip.Statement (.lea f) := by
  refine ⟨fun k h hw => ?_, fun h => absurd h Bool.false_ne_true⟩
  obtain rfl : 0 = k := Option.some.inj h
  have hd : ∀ w, w.extractLsb' 56 8 = 33#8 → decodeS w = legal (SL.zeros w) (.lea (SL.of w)) := by
    intro w h; delta decodeS; rw [h]; rfl
  show decodeS (SL.word 33 f) = _
  rw [hd _ (SL.op_word 33 f), SL.of_word, SL.zeros_word]
  exact legal_wf hw

theorem Laws.RoundTrip.ext (f : SF) : Laws.RoundTrip.Statement (.ext f) := by
  refine ⟨fun k h hw => ?_, fun h => absurd h Bool.false_ne_true⟩
  obtain rfl : 0 = k := Option.some.inj h
  have hd : ∀ w, w.extractLsb' 56 8 = 34#8 → decodeS w = legal (SF.zeros w) (.ext (SF.of w)) := by
    intro w h; delta decodeS; rw [h]; rfl
  show decodeS (SF.word 34 f) = _
  rw [hd _ (SF.op_word 34 f), SF.of_word, SF.zeros_word]
  exact legal_wf hw

theorem Laws.RoundTrip.ins (f : SF) : Laws.RoundTrip.Statement (.ins f) := by
  refine ⟨fun k h hw => ?_, fun h => absurd h Bool.false_ne_true⟩
  obtain rfl : 0 = k := Option.some.inj h
  have hd : ∀ w, w.extractLsb' 56 8 = 35#8 → decodeS w = legal (SF.zeros w) (.ins (SF.of w)) := by
    intro w h; delta decodeS; rw [h]; rfl
  show decodeS (SF.word 35 f) = _
  rw [hd _ (SF.op_word 35 f), SF.of_word, SF.zeros_word]
  exact legal_wf hw

theorem Laws.RoundTrip.ceq (f : SR) : Laws.RoundTrip.Statement (.ceq f) := by
  refine ⟨fun k h hw => ?_, fun h => absurd h Bool.false_ne_true⟩
  obtain rfl : 0 = k := Option.some.inj h
  have hd : ∀ w, w.extractLsb' 56 8 = 40#8 → decodeS w = legal (SR.zeros w) (.ceq (SR.of w)) := by
    intro w h; delta decodeS; rw [h]; rfl
  show decodeS (SR.word 40 f) = _
  rw [hd _ (SR.op_word 40 f), SR.of_word, SR.zeros_word]
  exact legal_wf hw

theorem Laws.RoundTrip.cne (f : SR) : Laws.RoundTrip.Statement (.cne f) := by
  refine ⟨fun k h hw => ?_, fun h => absurd h Bool.false_ne_true⟩
  obtain rfl : 0 = k := Option.some.inj h
  have hd : ∀ w, w.extractLsb' 56 8 = 41#8 → decodeS w = legal (SR.zeros w) (.cne (SR.of w)) := by
    intro w h; delta decodeS; rw [h]; rfl
  show decodeS (SR.word 41 f) = _
  rw [hd _ (SR.op_word 41 f), SR.of_word, SR.zeros_word]
  exact legal_wf hw

theorem Laws.RoundTrip.clt (f : SR) : Laws.RoundTrip.Statement (.clt f) := by
  refine ⟨fun k h hw => ?_, fun h => absurd h Bool.false_ne_true⟩
  obtain rfl : 0 = k := Option.some.inj h
  have hd : ∀ w, w.extractLsb' 56 8 = 42#8 → decodeS w = legal (SR.zeros w) (.clt (SR.of w)) := by
    intro w h; delta decodeS; rw [h]; rfl
  show decodeS (SR.word 42 f) = _
  rw [hd _ (SR.op_word 42 f), SR.of_word, SR.zeros_word]
  exact legal_wf hw

theorem Laws.RoundTrip.cle (f : SR) : Laws.RoundTrip.Statement (.cle f) := by
  refine ⟨fun k h hw => ?_, fun h => absurd h Bool.false_ne_true⟩
  obtain rfl : 0 = k := Option.some.inj h
  have hd : ∀ w, w.extractLsb' 56 8 = 43#8 → decodeS w = legal (SR.zeros w) (.cle (SR.of w)) := by
    intro w h; delta decodeS; rw [h]; rfl
  show decodeS (SR.word 43 f) = _
  rw [hd _ (SR.op_word 43 f), SR.of_word, SR.zeros_word]
  exact legal_wf hw

theorem Laws.RoundTrip.cltu (f : SR) : Laws.RoundTrip.Statement (.cltu f) := by
  refine ⟨fun k h hw => ?_, fun h => absurd h Bool.false_ne_true⟩
  obtain rfl : 0 = k := Option.some.inj h
  have hd : ∀ w, w.extractLsb' 56 8 = 44#8 → decodeS w = legal (SR.zeros w) (.cltu (SR.of w)) := by
    intro w h; delta decodeS; rw [h]; rfl
  show decodeS (SR.word 44 f) = _
  rw [hd _ (SR.op_word 44 f), SR.of_word, SR.zeros_word]
  exact legal_wf hw

theorem Laws.RoundTrip.cleu (f : SR) : Laws.RoundTrip.Statement (.cleu f) := by
  refine ⟨fun k h hw => ?_, fun h => absurd h Bool.false_ne_true⟩
  obtain rfl : 0 = k := Option.some.inj h
  have hd : ∀ w, w.extractLsb' 56 8 = 45#8 → decodeS w = legal (SR.zeros w) (.cleu (SR.of w)) := by
    intro w h; delta decodeS; rw [h]; rfl
  show decodeS (SR.word 45 f) = _
  rw [hd _ (SR.op_word 45 f), SR.of_word, SR.zeros_word]
  exact legal_wf hw

theorem Laws.RoundTrip.ceqi (f : SI) : Laws.RoundTrip.Statement (.ceqi f) := by
  refine ⟨fun k h hw => ?_, fun h => absurd h Bool.false_ne_true⟩
  obtain rfl : 0 = k := Option.some.inj h
  have hd : ∀ w, w.extractLsb' 56 8 = 46#8 → decodeS w = legal (SI.zeros w) (.ceqi (SI.of w)) := by
    intro w h; delta decodeS; rw [h]; rfl
  show decodeS (SI.word 46 f) = _
  rw [hd _ (SI.op_word 46 f), SI.of_word, SI.zeros_word]
  exact legal_wf hw

theorem Laws.RoundTrip.clti (f : SI) : Laws.RoundTrip.Statement (.clti f) := by
  refine ⟨fun k h hw => ?_, fun h => absurd h Bool.false_ne_true⟩
  obtain rfl : 0 = k := Option.some.inj h
  have hd : ∀ w, w.extractLsb' 56 8 = 47#8 → decodeS w = legal (SI.zeros w) (.clti (SI.of w)) := by
    intro w h; delta decodeS; rw [h]; rfl
  show decodeS (SI.word 47 f) = _
  rw [hd _ (SI.op_word 47 f), SI.of_word, SI.zeros_word]
  exact legal_wf hw

theorem Laws.RoundTrip.br (f : SB) : Laws.RoundTrip.Statement (.br f) := by
  refine ⟨fun k h hw => ?_, fun h => absurd h Bool.false_ne_true⟩
  obtain rfl : 0 = k := Option.some.inj h
  have hd : ∀ w, w.extractLsb' 56 8 = 48#8 → decodeS w = (if w.getLsbD 45 then legal (SB.zeros w) (.brZ (SB.of w)) else legal (SB.zeros w) (.br (SB.of w))) := by
    intro w h; delta decodeS; rw [h]; rfl
  show decodeS (SB.word 48 0 f) = _
  rw [hd _ (SB.op_word 48 0 f), SB.of_word, SB.zeros_word, SB.zf_word]
  exact legal_wf hw

theorem Laws.RoundTrip.brZ (f : SB) : Laws.RoundTrip.Statement (.brZ f) := by
  refine ⟨fun k h hw => ?_, fun h => absurd h Bool.false_ne_true⟩
  obtain rfl : 0 = k := Option.some.inj h
  have hd : ∀ w, w.extractLsb' 56 8 = 48#8 → decodeS w = (if w.getLsbD 45 then legal (SB.zeros w) (.brZ (SB.of w)) else legal (SB.zeros w) (.br (SB.of w))) := by
    intro w h; delta decodeS; rw [h]; rfl
  show decodeS (SB.word 48 1 f) = _
  rw [hd _ (SB.op_word 48 1 f), SB.of_word, SB.zeros_word, SB.zf_word]
  exact legal_wf hw

theorem Laws.RoundTrip.jmp (f : SB) : Laws.RoundTrip.Statement (.jmp f) := by
  refine ⟨fun k h hw => ?_, fun h => absurd h Bool.false_ne_true⟩
  obtain rfl : 0 = k := Option.some.inj h
  have hd : ∀ w, w.extractLsb' 56 8 = 49#8 → decodeS w = legal (SB.zeros w && !w.getLsbD 45) (.jmp (SB.of w)) := by
    intro w h; delta decodeS; rw [h]; rfl
  show decodeS (SB.word 49 0 f) = _
  rw [hd _ (SB.op_word 49 0 f), SB.of_word, SB.zeros_word, SB.zf_word]
  exact legal_wf hw

theorem Laws.RoundTrip.call (f : SB) : Laws.RoundTrip.Statement (.call f) := by
  refine ⟨fun k h hw => ?_, fun h => absurd h Bool.false_ne_true⟩
  obtain rfl : 0 = k := Option.some.inj h
  have hd : ∀ w, w.extractLsb' 56 8 = 50#8 → decodeS w = legal (SB.zeros w && !w.getLsbD 45) (.call (SB.of w)) := by
    intro w h; delta decodeS; rw [h]; rfl
  show decodeS (SB.word 50 0 f) = _
  rw [hd _ (SB.op_word 50 0 f), SB.of_word, SB.zeros_word, SB.zf_word]
  exact legal_wf hw

theorem Laws.RoundTrip.jr (f : SX) : Laws.RoundTrip.Statement (.jr f) := by
  refine ⟨fun k h hw => ?_, fun h => absurd h Bool.false_ne_true⟩
  obtain rfl : 0 = k := Option.some.inj h
  have hd : ∀ w, w.extractLsb' 56 8 = 51#8 → decodeS w = legal (SX.zeros w) (.jr (SX.of w)) := by
    intro w h; delta decodeS; rw [h]; rfl
  show decodeS (SX.word 51 f) = _
  rw [hd _ (SX.op_word 51 f), SX.of_word, SX.zeros_word]
  exact legal_wf hw

theorem Laws.RoundTrip.loop (f : SP) : Laws.RoundTrip.Statement (.loop f) := by
  refine ⟨fun k h hw => ?_, fun h => absurd h Bool.false_ne_true⟩
  obtain rfl : 0 = k := Option.some.inj h
  have hd : ∀ w, w.extractLsb' 56 8 = 52#8 → decodeS w = legal (SP.zeros w) (.loop (SP.of w)) := by
    intro w h; delta decodeS; rw [h]; rfl
  show decodeS (SP.word 52 f) = _
  rw [hd _ (SP.op_word 52 f), SP.of_word, SP.zeros_word]
  exact legal_wf hw

theorem Laws.RoundTrip.loopi (f : SQ) : Laws.RoundTrip.Statement (.loopi f) := by
  refine ⟨fun k h hw => ?_, fun h => absurd h Bool.false_ne_true⟩
  obtain rfl : 0 = k := Option.some.inj h
  have hd : ∀ w, w.extractLsb' 56 8 = 53#8 → decodeS w = legal (SQ.zeros w) (.loopi (SQ.of w)) := by
    intro w h; delta decodeS; rw [h]; rfl
  show decodeS (SQ.word 53 f) = _
  rw [hd _ (SQ.op_word 53 f), SQ.of_word, SQ.zeros_word]
  exact legal_wf hw

theorem Laws.RoundTrip.lbrk : Laws.RoundTrip.Statement .lbrk := by
  refine ⟨fun k h _ => ?_, fun h => absurd h Bool.false_ne_true⟩
  obtain rfl : 0 = k := Option.some.inj h
  decide

theorem Laws.RoundTrip.lidx (f : SX) : Laws.RoundTrip.Statement (.lidx f) := by
  refine ⟨fun k h hw => ?_, fun h => absurd h Bool.false_ne_true⟩
  obtain rfl : 0 = k := Option.some.inj h
  have hd : ∀ w, w.extractLsb' 56 8 = 55#8 → decodeS w = legal (SX.zeros w) (.lidx (SX.of w)) := by
    intro w h; delta decodeS; rw [h]; rfl
  show decodeS (SX.word 55 f) = _
  rw [hd _ (SX.op_word 55 f), SX.of_word, SX.zeros_word]
  exact legal_wf hw

theorem Laws.RoundTrip.trap (f : SX) : Laws.RoundTrip.Statement (.trap f) := by
  refine ⟨fun k h hw => ?_, fun h => absurd h Bool.false_ne_true⟩
  obtain rfl : 0 = k := Option.some.inj h
  have hd : ∀ w, w.extractLsb' 56 8 = 56#8 → decodeS w = legal (SX.zeros w) (.trap (SX.of w)) := by
    intro w h; delta decodeS; rw [h]; rfl
  show decodeS (SX.word 56 f) = _
  rw [hd _ (SX.op_word 56 f), SX.of_word, SX.zeros_word]
  exact legal_wf hw

theorem Laws.RoundTrip.eret : Laws.RoundTrip.Statement .eret := by
  refine ⟨fun k h _ => ?_, fun h => absurd h Bool.false_ne_true⟩
  obtain rfl : 0 = k := Option.some.inj h
  decide

theorem Laws.RoundTrip.halt : Laws.RoundTrip.Statement .halt := by
  refine ⟨fun k h _ => ?_, fun h => absurd h Bool.false_ne_true⟩
  obtain rfl : 0 = k := Option.some.inj h
  decide

theorem Laws.RoundTrip.spld (f : SX) : Laws.RoundTrip.Statement (.spld f) := by
  refine ⟨fun k h hw => ?_, fun h => absurd h Bool.false_ne_true⟩
  obtain rfl : 0 = k := Option.some.inj h
  have hd : ∀ w, w.extractLsb' 56 8 = 64#8 → decodeS w = legal (SX.zeros w) (.spld (SX.of w)) := by
    intro w h; delta decodeS; rw [h]; rfl
  show decodeS (SX.word 64 f) = _
  rw [hd _ (SX.op_word 64 f), SX.of_word, SX.zeros_word]
  exact legal_wf hw

theorem Laws.RoundTrip.spst (f : SX) : Laws.RoundTrip.Statement (.spst f) := by
  refine ⟨fun k h hw => ?_, fun h => absurd h Bool.false_ne_true⟩
  obtain rfl : 0 = k := Option.some.inj h
  have hd : ∀ w, w.extractLsb' 56 8 = 65#8 → decodeS w = legal (SX.zeros w) (.spst (SX.of w)) := by
    intro w h; delta decodeS; rw [h]; rfl
  show decodeS (SX.word 65 f) = _
  rw [hd _ (SX.op_word 65 f), SX.of_word, SX.zeros_word]
  exact legal_wf hw

theorem Laws.RoundTrip.sysrd (f : SX) : Laws.RoundTrip.Statement (.sysrd f) := by
  refine ⟨fun k h hw => ?_, fun h => absurd h Bool.false_ne_true⟩
  obtain rfl : 0 = k := Option.some.inj h
  have hd : ∀ w, w.extractLsb' 56 8 = 72#8 → decodeS w = legal (SX.zeros w) (.sysrd (SX.of w)) := by
    intro w h; delta decodeS; rw [h]; rfl
  show decodeS (SX.word 72 f) = _
  rw [hd _ (SX.op_word 72 f), SX.of_word, SX.zeros_word]
  exact legal_wf hw

theorem Laws.RoundTrip.syswr (f : SX) : Laws.RoundTrip.Statement (.syswr f) := by
  refine ⟨fun k h hw => ?_, fun h => absurd h Bool.false_ne_true⟩
  obtain rfl : 0 = k := Option.some.inj h
  have hd : ∀ w, w.extractLsb' 56 8 = 73#8 → decodeS w = legal (SX.zeros w) (.syswr (SX.of w)) := by
    intro w h; delta decodeS; rw [h]; rfl
  show decodeS (SX.word 73 f) = _
  rw [hd _ (SX.op_word 73 f), SX.of_word, SX.zeros_word]
  exact legal_wf hw

theorem Laws.RoundTrip.capq (f : SX) : Laws.RoundTrip.Statement (.capq f) := by
  refine ⟨fun k h hw => ?_, fun h => absurd h Bool.false_ne_true⟩
  obtain rfl : 0 = k := Option.some.inj h
  have hd : ∀ w, w.extractLsb' 56 8 = 74#8 → decodeS w = legal (SX.zeros w) (.capq (SX.of w)) := by
    intro w h; delta decodeS; rw [h]; rfl
  show decodeS (SX.word 74 f) = _
  rw [hd _ (SX.op_word 74 f), SX.of_word, SX.zeros_word]
  exact legal_wf hw

theorem Laws.RoundTrip.hld (f : SH) : Laws.RoundTrip.Statement (.hld f) := by
  refine ⟨fun k h hw => ?_, fun h => absurd h Bool.false_ne_true⟩
  obtain rfl : 0 = k := Option.some.inj h
  have hd : ∀ w, w.extractLsb' 56 8 = 80#8 → decodeS w = legal (SH.zeros w) (.hld (SH.of w)) := by
    intro w h; delta decodeS; rw [h]; rfl
  show decodeS (SH.word 80 f) = _
  rw [hd _ (SH.op_word 80 f), SH.of_word, SH.zeros_word]
  exact legal_wf hw

theorem Laws.RoundTrip.hst (f : SH) : Laws.RoundTrip.Statement (.hst f) := by
  refine ⟨fun k h hw => ?_, fun h => absurd h Bool.false_ne_true⟩
  obtain rfl : 0 = k := Option.some.inj h
  have hd : ∀ w, w.extractLsb' 56 8 = 81#8 → decodeS w = legal (SH.zeros w) (.hst (SH.of w)) := by
    intro w h; delta decodeS; rw [h]; rfl
  show decodeS (SH.word 81 f) = _
  rw [hd _ (SH.op_word 81 f), SH.of_word, SH.zeros_word]
  exact legal_wf hw

theorem Laws.RoundTrip.hset (f : SH) : Laws.RoundTrip.Statement (.hset f) := by
  refine ⟨fun k h hw => ?_, fun h => absurd h Bool.false_ne_true⟩
  obtain rfl : 0 = k := Option.some.inj h
  have hd : ∀ w, w.extractLsb' 56 8 = 82#8 → decodeS w = legal (SH.zeros w) (.hset (SH.of w)) := by
    intro w h; delta decodeS; rw [h]; rfl
  show decodeS (SH.word 82 f) = _
  rw [hd _ (SH.op_word 82 f), SH.of_word, SH.zeros_word]
  exact legal_wf hw

theorem Laws.RoundTrip.hget (f : SH) : Laws.RoundTrip.Statement (.hget f) := by
  refine ⟨fun k h hw => ?_, fun h => absurd h Bool.false_ne_true⟩
  obtain rfl : 0 = k := Option.some.inj h
  have hd : ∀ w, w.extractLsb' 56 8 = 83#8 → decodeS w = legal (SH.zeros w) (.hget (SH.of w)) := by
    intro w h; delta decodeS; rw [h]; rfl
  show decodeS (SH.word 83 f) = _
  rw [hd _ (SH.op_word 83 f), SH.of_word, SH.zeros_word]
  exact legal_wf hw

theorem Laws.RoundTrip.hmov (f : SH) : Laws.RoundTrip.Statement (.hmov f) := by
  refine ⟨fun k h hw => ?_, fun h => absurd h Bool.false_ne_true⟩
  obtain rfl : 0 = k := Option.some.inj h
  have hd : ∀ w, w.extractLsb' 56 8 = 84#8 → decodeS w = legal (SH.zeros w) (.hmov (SH.of w)) := by
    intro w h; delta decodeS; rw [h]; rfl
  show decodeS (SH.word 84 f) = _
  rw [hd _ (SH.op_word 84 f), SH.of_word, SH.zeros_word]
  exact legal_wf hw

theorem Laws.RoundTrip.pcfg (f : SH) : Laws.RoundTrip.Statement (.pcfg f) := by
  refine ⟨fun k h hw => ?_, fun h => absurd h Bool.false_ne_true⟩
  obtain rfl : 0 = k := Option.some.inj h
  have hd : ∀ w, w.extractLsb' 56 8 = 88#8 → decodeS w = legal (SH.zeros w) (.pcfg (SH.of w)) := by
    intro w h; delta decodeS; rw [h]; rfl
  show decodeS (SH.word 88 f) = _
  rw [hd _ (SH.op_word 88 f), SH.of_word, SH.zeros_word]
  exact legal_wf hw

theorem Laws.RoundTrip.pset (f : SH) : Laws.RoundTrip.Statement (.pset f) := by
  refine ⟨fun k h hw => ?_, fun h => absurd h Bool.false_ne_true⟩
  obtain rfl : 0 = k := Option.some.inj h
  have hd : ∀ w, w.extractLsb' 56 8 = 89#8 → decodeS w = legal (SH.zeros w) (.pset (SH.of w)) := by
    intro w h; delta decodeS; rw [h]; rfl
  show decodeS (SH.word 89 f) = _
  rw [hd _ (SH.op_word 89 f), SH.of_word, SH.zeros_word]
  exact legal_wf hw

theorem Laws.RoundTrip.pget (f : SH) : Laws.RoundTrip.Statement (.pget f) := by
  refine ⟨fun k h hw => ?_, fun h => absurd h Bool.false_ne_true⟩
  obtain rfl : 0 = k := Option.some.inj h
  have hd : ∀ w, w.extractLsb' 56 8 = 90#8 → decodeS w = legal (SH.zeros w) (.pget (SH.of w)) := by
    intro w h; delta decodeS; rw [h]; rfl
  show decodeS (SH.word 90 f) = _
  rw [hd _ (SH.op_word 90 f), SH.of_word, SH.zeros_word]
  exact legal_wf hw

theorem Laws.RoundTrip.vadd (f : VF) : Laws.RoundTrip.Statement (.vadd f) := by
  refine ⟨fun k h hw => ?_, fun h => absurd h Bool.false_ne_true⟩
  have hd : ∀ b w, w.extractLsb' 56 8 = 1#8 → decodeV b w = legal (VF.zeros w) (.vadd (VF.of b w)) := by
    intro b w h; delta decodeV; rw [h]; rfl
  have ho := VF.of_word 1 f
  have hk : k = if f.slotB then 2 else 1 := (Option.some.inj h).symm
  subst hk
  cases hb : f.slotB
  · rw [hb] at ho
    show decodeV false (VF.word 1 f) = _
    rw [hd _ _ (VF.op_word 1 f), VF.zeros_word, ho]
    exact legal_wf hw
  · rw [hb] at ho
    show decodeV true (VF.word 1 f) = _
    rw [hd _ _ (VF.op_word 1 f), VF.zeros_word, ho]
    exact legal_wf hw

theorem Laws.RoundTrip.vsub (f : VF) : Laws.RoundTrip.Statement (.vsub f) := by
  refine ⟨fun k h hw => ?_, fun h => absurd h Bool.false_ne_true⟩
  have hd : ∀ b w, w.extractLsb' 56 8 = 2#8 → decodeV b w = legal (VF.zeros w) (.vsub (VF.of b w)) := by
    intro b w h; delta decodeV; rw [h]; rfl
  have ho := VF.of_word 2 f
  have hk : k = if f.slotB then 2 else 1 := (Option.some.inj h).symm
  subst hk
  cases hb : f.slotB
  · rw [hb] at ho
    show decodeV false (VF.word 2 f) = _
    rw [hd _ _ (VF.op_word 2 f), VF.zeros_word, ho]
    exact legal_wf hw
  · rw [hb] at ho
    show decodeV true (VF.word 2 f) = _
    rw [hd _ _ (VF.op_word 2 f), VF.zeros_word, ho]
    exact legal_wf hw

theorem Laws.RoundTrip.vmul (f : VF) : Laws.RoundTrip.Statement (.vmul f) := by
  refine ⟨fun k h hw => ?_, fun h => absurd h Bool.false_ne_true⟩
  have hd : ∀ b w, w.extractLsb' 56 8 = 3#8 → decodeV b w = legal (VF.zeros w) (.vmul (VF.of b w)) := by
    intro b w h; delta decodeV; rw [h]; rfl
  have ho := VF.of_word 3 f
  have hk : k = if f.slotB then 2 else 1 := (Option.some.inj h).symm
  subst hk
  cases hb : f.slotB
  · rw [hb] at ho
    show decodeV false (VF.word 3 f) = _
    rw [hd _ _ (VF.op_word 3 f), VF.zeros_word, ho]
    exact legal_wf hw
  · rw [hb] at ho
    show decodeV true (VF.word 3 f) = _
    rw [hd _ _ (VF.op_word 3 f), VF.zeros_word, ho]
    exact legal_wf hw

theorem Laws.RoundTrip.vfma (f : VF) : Laws.RoundTrip.Statement (.vfma f) := by
  refine ⟨fun k h hw => ?_, fun h => absurd h Bool.false_ne_true⟩
  have hd : ∀ b w, w.extractLsb' 56 8 = 4#8 → decodeV b w = legal (VF.zeros w) (.vfma (VF.of b w)) := by
    intro b w h; delta decodeV; rw [h]; rfl
  have ho := VF.of_word 4 f
  have hk : k = if f.slotB then 2 else 1 := (Option.some.inj h).symm
  subst hk
  cases hb : f.slotB
  · rw [hb] at ho
    show decodeV false (VF.word 4 f) = _
    rw [hd _ _ (VF.op_word 4 f), VF.zeros_word, ho]
    exact legal_wf hw
  · rw [hb] at ho
    show decodeV true (VF.word 4 f) = _
    rw [hd _ _ (VF.op_word 4 f), VF.zeros_word, ho]
    exact legal_wf hw

theorem Laws.RoundTrip.vfms (f : VF) : Laws.RoundTrip.Statement (.vfms f) := by
  refine ⟨fun k h hw => ?_, fun h => absurd h Bool.false_ne_true⟩
  have hd : ∀ b w, w.extractLsb' 56 8 = 5#8 → decodeV b w = legal (VF.zeros w) (.vfms (VF.of b w)) := by
    intro b w h; delta decodeV; rw [h]; rfl
  have ho := VF.of_word 5 f
  have hk : k = if f.slotB then 2 else 1 := (Option.some.inj h).symm
  subst hk
  cases hb : f.slotB
  · rw [hb] at ho
    show decodeV false (VF.word 5 f) = _
    rw [hd _ _ (VF.op_word 5 f), VF.zeros_word, ho]
    exact legal_wf hw
  · rw [hb] at ho
    show decodeV true (VF.word 5 f) = _
    rw [hd _ _ (VF.op_word 5 f), VF.zeros_word, ho]
    exact legal_wf hw

theorem Laws.RoundTrip.vmax (f : VF) : Laws.RoundTrip.Statement (.vmax f) := by
  refine ⟨fun k h hw => ?_, fun h => absurd h Bool.false_ne_true⟩
  have hd : ∀ b w, w.extractLsb' 56 8 = 6#8 → decodeV b w = legal (VF.zeros w) (.vmax (VF.of b w)) := by
    intro b w h; delta decodeV; rw [h]; rfl
  have ho := VF.of_word 6 f
  have hk : k = if f.slotB then 2 else 1 := (Option.some.inj h).symm
  subst hk
  cases hb : f.slotB
  · rw [hb] at ho
    show decodeV false (VF.word 6 f) = _
    rw [hd _ _ (VF.op_word 6 f), VF.zeros_word, ho]
    exact legal_wf hw
  · rw [hb] at ho
    show decodeV true (VF.word 6 f) = _
    rw [hd _ _ (VF.op_word 6 f), VF.zeros_word, ho]
    exact legal_wf hw

theorem Laws.RoundTrip.vmin (f : VF) : Laws.RoundTrip.Statement (.vmin f) := by
  refine ⟨fun k h hw => ?_, fun h => absurd h Bool.false_ne_true⟩
  have hd : ∀ b w, w.extractLsb' 56 8 = 7#8 → decodeV b w = legal (VF.zeros w) (.vmin (VF.of b w)) := by
    intro b w h; delta decodeV; rw [h]; rfl
  have ho := VF.of_word 7 f
  have hk : k = if f.slotB then 2 else 1 := (Option.some.inj h).symm
  subst hk
  cases hb : f.slotB
  · rw [hb] at ho
    show decodeV false (VF.word 7 f) = _
    rw [hd _ _ (VF.op_word 7 f), VF.zeros_word, ho]
    exact legal_wf hw
  · rw [hb] at ho
    show decodeV true (VF.word 7 f) = _
    rw [hd _ _ (VF.op_word 7 f), VF.zeros_word, ho]
    exact legal_wf hw

theorem Laws.RoundTrip.vabs (f : VF) : Laws.RoundTrip.Statement (.vabs f) := by
  refine ⟨fun k h hw => ?_, fun h => absurd h Bool.false_ne_true⟩
  have hd : ∀ b w, w.extractLsb' 56 8 = 8#8 → decodeV b w = legal (VF.zeros w) (.vabs (VF.of b w)) := by
    intro b w h; delta decodeV; rw [h]; rfl
  have ho := VF.of_word 8 f
  have hk : k = if f.slotB then 2 else 1 := (Option.some.inj h).symm
  subst hk
  cases hb : f.slotB
  · rw [hb] at ho
    show decodeV false (VF.word 8 f) = _
    rw [hd _ _ (VF.op_word 8 f), VF.zeros_word, ho]
    exact legal_wf hw
  · rw [hb] at ho
    show decodeV true (VF.word 8 f) = _
    rw [hd _ _ (VF.op_word 8 f), VF.zeros_word, ho]
    exact legal_wf hw

theorem Laws.RoundTrip.vneg (f : VF) : Laws.RoundTrip.Statement (.vneg f) := by
  refine ⟨fun k h hw => ?_, fun h => absurd h Bool.false_ne_true⟩
  have hd : ∀ b w, w.extractLsb' 56 8 = 9#8 → decodeV b w = legal (VF.zeros w) (.vneg (VF.of b w)) := by
    intro b w h; delta decodeV; rw [h]; rfl
  have ho := VF.of_word 9 f
  have hk : k = if f.slotB then 2 else 1 := (Option.some.inj h).symm
  subst hk
  cases hb : f.slotB
  · rw [hb] at ho
    show decodeV false (VF.word 9 f) = _
    rw [hd _ _ (VF.op_word 9 f), VF.zeros_word, ho]
    exact legal_wf hw
  · rw [hb] at ho
    show decodeV true (VF.word 9 f) = _
    rw [hd _ _ (VF.op_word 9 f), VF.zeros_word, ho]
    exact legal_wf hw

theorem Laws.RoundTrip.vrcp (f : VF) : Laws.RoundTrip.Statement (.vrcp f) := by
  refine ⟨fun k h hw => ?_, fun h => absurd h Bool.false_ne_true⟩
  have hd : ∀ b w, w.extractLsb' 56 8 = 10#8 → decodeV b w = legal (VF.zeros w) (.vrcp (VF.of b w)) := by
    intro b w h; delta decodeV; rw [h]; rfl
  have ho := VF.of_word 10 f
  have hk : k = if f.slotB then 2 else 1 := (Option.some.inj h).symm
  subst hk
  cases hb : f.slotB
  · rw [hb] at ho
    show decodeV false (VF.word 10 f) = _
    rw [hd _ _ (VF.op_word 10 f), VF.zeros_word, ho]
    exact legal_wf hw
  · rw [hb] at ho
    show decodeV true (VF.word 10 f) = _
    rw [hd _ _ (VF.op_word 10 f), VF.zeros_word, ho]
    exact legal_wf hw

theorem Laws.RoundTrip.vrsq (f : VF) : Laws.RoundTrip.Statement (.vrsq f) := by
  refine ⟨fun k h hw => ?_, fun h => absurd h Bool.false_ne_true⟩
  have hd : ∀ b w, w.extractLsb' 56 8 = 11#8 → decodeV b w = legal (VF.zeros w) (.vrsq (VF.of b w)) := by
    intro b w h; delta decodeV; rw [h]; rfl
  have ho := VF.of_word 11 f
  have hk : k = if f.slotB then 2 else 1 := (Option.some.inj h).symm
  subst hk
  cases hb : f.slotB
  · rw [hb] at ho
    show decodeV false (VF.word 11 f) = _
    rw [hd _ _ (VF.op_word 11 f), VF.zeros_word, ho]
    exact legal_wf hw
  · rw [hb] at ho
    show decodeV true (VF.word 11 f) = _
    rw [hd _ _ (VF.op_word 11 f), VF.zeros_word, ho]
    exact legal_wf hw

theorem Laws.RoundTrip.vexp2 (f : VF) : Laws.RoundTrip.Statement (.vexp2 f) := by
  refine ⟨fun k h hw => ?_, fun h => absurd h Bool.false_ne_true⟩
  have hd : ∀ b w, w.extractLsb' 56 8 = 12#8 → decodeV b w = legal (VF.zeros w) (.vexp2 (VF.of b w)) := by
    intro b w h; delta decodeV; rw [h]; rfl
  have ho := VF.of_word 12 f
  have hk : k = if f.slotB then 2 else 1 := (Option.some.inj h).symm
  subst hk
  cases hb : f.slotB
  · rw [hb] at ho
    show decodeV false (VF.word 12 f) = _
    rw [hd _ _ (VF.op_word 12 f), VF.zeros_word, ho]
    exact legal_wf hw
  · rw [hb] at ho
    show decodeV true (VF.word 12 f) = _
    rw [hd _ _ (VF.op_word 12 f), VF.zeros_word, ho]
    exact legal_wf hw

theorem Laws.RoundTrip.vlog2 (f : VF) : Laws.RoundTrip.Statement (.vlog2 f) := by
  refine ⟨fun k h hw => ?_, fun h => absurd h Bool.false_ne_true⟩
  have hd : ∀ b w, w.extractLsb' 56 8 = 13#8 → decodeV b w = legal (VF.zeros w) (.vlog2 (VF.of b w)) := by
    intro b w h; delta decodeV; rw [h]; rfl
  have ho := VF.of_word 13 f
  have hk : k = if f.slotB then 2 else 1 := (Option.some.inj h).symm
  subst hk
  cases hb : f.slotB
  · rw [hb] at ho
    show decodeV false (VF.word 13 f) = _
    rw [hd _ _ (VF.op_word 13 f), VF.zeros_word, ho]
    exact legal_wf hw
  · rw [hb] at ho
    show decodeV true (VF.word 13 f) = _
    rw [hd _ _ (VF.op_word 13 f), VF.zeros_word, ho]
    exact legal_wf hw

theorem Laws.RoundTrip.vtanh (f : VF) : Laws.RoundTrip.Statement (.vtanh f) := by
  refine ⟨fun k h hw => ?_, fun h => absurd h Bool.false_ne_true⟩
  have hd : ∀ b w, w.extractLsb' 56 8 = 14#8 → decodeV b w = legal (VF.zeros w) (.vtanh (VF.of b w)) := by
    intro b w h; delta decodeV; rw [h]; rfl
  have ho := VF.of_word 14 f
  have hk : k = if f.slotB then 2 else 1 := (Option.some.inj h).symm
  subst hk
  cases hb : f.slotB
  · rw [hb] at ho
    show decodeV false (VF.word 14 f) = _
    rw [hd _ _ (VF.op_word 14 f), VF.zeros_word, ho]
    exact legal_wf hw
  · rw [hb] at ho
    show decodeV true (VF.word 14 f) = _
    rw [hd _ _ (VF.op_word 14 f), VF.zeros_word, ho]
    exact legal_wf hw

theorem Laws.RoundTrip.vand (f : VF) : Laws.RoundTrip.Statement (.vand f) := by
  refine ⟨fun k h hw => ?_, fun h => absurd h Bool.false_ne_true⟩
  have hd : ∀ b w, w.extractLsb' 56 8 = 16#8 → decodeV b w = legal (VF.zeros w) (.vand (VF.of b w)) := by
    intro b w h; delta decodeV; rw [h]; rfl
  have ho := VF.of_word 16 f
  have hk : k = if f.slotB then 2 else 1 := (Option.some.inj h).symm
  subst hk
  cases hb : f.slotB
  · rw [hb] at ho
    show decodeV false (VF.word 16 f) = _
    rw [hd _ _ (VF.op_word 16 f), VF.zeros_word, ho]
    exact legal_wf hw
  · rw [hb] at ho
    show decodeV true (VF.word 16 f) = _
    rw [hd _ _ (VF.op_word 16 f), VF.zeros_word, ho]
    exact legal_wf hw

theorem Laws.RoundTrip.vor (f : VF) : Laws.RoundTrip.Statement (.vor f) := by
  refine ⟨fun k h hw => ?_, fun h => absurd h Bool.false_ne_true⟩
  have hd : ∀ b w, w.extractLsb' 56 8 = 17#8 → decodeV b w = legal (VF.zeros w) (.vor (VF.of b w)) := by
    intro b w h; delta decodeV; rw [h]; rfl
  have ho := VF.of_word 17 f
  have hk : k = if f.slotB then 2 else 1 := (Option.some.inj h).symm
  subst hk
  cases hb : f.slotB
  · rw [hb] at ho
    show decodeV false (VF.word 17 f) = _
    rw [hd _ _ (VF.op_word 17 f), VF.zeros_word, ho]
    exact legal_wf hw
  · rw [hb] at ho
    show decodeV true (VF.word 17 f) = _
    rw [hd _ _ (VF.op_word 17 f), VF.zeros_word, ho]
    exact legal_wf hw

theorem Laws.RoundTrip.vxor (f : VF) : Laws.RoundTrip.Statement (.vxor f) := by
  refine ⟨fun k h hw => ?_, fun h => absurd h Bool.false_ne_true⟩
  have hd : ∀ b w, w.extractLsb' 56 8 = 18#8 → decodeV b w = legal (VF.zeros w) (.vxor (VF.of b w)) := by
    intro b w h; delta decodeV; rw [h]; rfl
  have ho := VF.of_word 18 f
  have hk : k = if f.slotB then 2 else 1 := (Option.some.inj h).symm
  subst hk
  cases hb : f.slotB
  · rw [hb] at ho
    show decodeV false (VF.word 18 f) = _
    rw [hd _ _ (VF.op_word 18 f), VF.zeros_word, ho]
    exact legal_wf hw
  · rw [hb] at ho
    show decodeV true (VF.word 18 f) = _
    rw [hd _ _ (VF.op_word 18 f), VF.zeros_word, ho]
    exact legal_wf hw

theorem Laws.RoundTrip.vshl (f : VF) : Laws.RoundTrip.Statement (.vshl f) := by
  refine ⟨fun k h hw => ?_, fun h => absurd h Bool.false_ne_true⟩
  have hd : ∀ b w, w.extractLsb' 56 8 = 19#8 → decodeV b w = legal (VF.zeros w) (.vshl (VF.of b w)) := by
    intro b w h; delta decodeV; rw [h]; rfl
  have ho := VF.of_word 19 f
  have hk : k = if f.slotB then 2 else 1 := (Option.some.inj h).symm
  subst hk
  cases hb : f.slotB
  · rw [hb] at ho
    show decodeV false (VF.word 19 f) = _
    rw [hd _ _ (VF.op_word 19 f), VF.zeros_word, ho]
    exact legal_wf hw
  · rw [hb] at ho
    show decodeV true (VF.word 19 f) = _
    rw [hd _ _ (VF.op_word 19 f), VF.zeros_word, ho]
    exact legal_wf hw

theorem Laws.RoundTrip.vshr (f : VF) : Laws.RoundTrip.Statement (.vshr f) := by
  refine ⟨fun k h hw => ?_, fun h => absurd h Bool.false_ne_true⟩
  have hd : ∀ b w, w.extractLsb' 56 8 = 20#8 → decodeV b w = legal (VF.zeros w) (.vshr (VF.of b w)) := by
    intro b w h; delta decodeV; rw [h]; rfl
  have ho := VF.of_word 20 f
  have hk : k = if f.slotB then 2 else 1 := (Option.some.inj h).symm
  subst hk
  cases hb : f.slotB
  · rw [hb] at ho
    show decodeV false (VF.word 20 f) = _
    rw [hd _ _ (VF.op_word 20 f), VF.zeros_word, ho]
    exact legal_wf hw
  · rw [hb] at ho
    show decodeV true (VF.word 20 f) = _
    rw [hd _ _ (VF.op_word 20 f), VF.zeros_word, ho]
    exact legal_wf hw

theorem Laws.RoundTrip.vsar (f : VF) : Laws.RoundTrip.Statement (.vsar f) := by
  refine ⟨fun k h hw => ?_, fun h => absurd h Bool.false_ne_true⟩
  have hd : ∀ b w, w.extractLsb' 56 8 = 21#8 → decodeV b w = legal (VF.zeros w) (.vsar (VF.of b w)) := by
    intro b w h; delta decodeV; rw [h]; rfl
  have ho := VF.of_word 21 f
  have hk : k = if f.slotB then 2 else 1 := (Option.some.inj h).symm
  subst hk
  cases hb : f.slotB
  · rw [hb] at ho
    show decodeV false (VF.word 21 f) = _
    rw [hd _ _ (VF.op_word 21 f), VF.zeros_word, ho]
    exact legal_wf hw
  · rw [hb] at ho
    show decodeV true (VF.word 21 f) = _
    rw [hd _ _ (VF.op_word 21 f), VF.zeros_word, ho]
    exact legal_wf hw

theorem Laws.RoundTrip.vceq (f : VF) : Laws.RoundTrip.Statement (.vceq f) := by
  refine ⟨fun k h hw => ?_, fun h => absurd h Bool.false_ne_true⟩
  have hd : ∀ b w, w.extractLsb' 56 8 = 24#8 → decodeV b w = legal (VF.zeros w) (.vceq (VF.of b w)) := by
    intro b w h; delta decodeV; rw [h]; rfl
  have ho := VF.of_word 24 f
  have hk : k = if f.slotB then 2 else 1 := (Option.some.inj h).symm
  subst hk
  cases hb : f.slotB
  · rw [hb] at ho
    show decodeV false (VF.word 24 f) = _
    rw [hd _ _ (VF.op_word 24 f), VF.zeros_word, ho]
    exact legal_wf hw
  · rw [hb] at ho
    show decodeV true (VF.word 24 f) = _
    rw [hd _ _ (VF.op_word 24 f), VF.zeros_word, ho]
    exact legal_wf hw

theorem Laws.RoundTrip.vclt (f : VF) : Laws.RoundTrip.Statement (.vclt f) := by
  refine ⟨fun k h hw => ?_, fun h => absurd h Bool.false_ne_true⟩
  have hd : ∀ b w, w.extractLsb' 56 8 = 25#8 → decodeV b w = legal (VF.zeros w) (.vclt (VF.of b w)) := by
    intro b w h; delta decodeV; rw [h]; rfl
  have ho := VF.of_word 25 f
  have hk : k = if f.slotB then 2 else 1 := (Option.some.inj h).symm
  subst hk
  cases hb : f.slotB
  · rw [hb] at ho
    show decodeV false (VF.word 25 f) = _
    rw [hd _ _ (VF.op_word 25 f), VF.zeros_word, ho]
    exact legal_wf hw
  · rw [hb] at ho
    show decodeV true (VF.word 25 f) = _
    rw [hd _ _ (VF.op_word 25 f), VF.zeros_word, ho]
    exact legal_wf hw

theorem Laws.RoundTrip.vcle (f : VF) : Laws.RoundTrip.Statement (.vcle f) := by
  refine ⟨fun k h hw => ?_, fun h => absurd h Bool.false_ne_true⟩
  have hd : ∀ b w, w.extractLsb' 56 8 = 26#8 → decodeV b w = legal (VF.zeros w) (.vcle (VF.of b w)) := by
    intro b w h; delta decodeV; rw [h]; rfl
  have ho := VF.of_word 26 f
  have hk : k = if f.slotB then 2 else 1 := (Option.some.inj h).symm
  subst hk
  cases hb : f.slotB
  · rw [hb] at ho
    show decodeV false (VF.word 26 f) = _
    rw [hd _ _ (VF.op_word 26 f), VF.zeros_word, ho]
    exact legal_wf hw
  · rw [hb] at ho
    show decodeV true (VF.word 26 f) = _
    rw [hd _ _ (VF.op_word 26 f), VF.zeros_word, ho]
    exact legal_wf hw

theorem Laws.RoundTrip.vsel (f : VF) : Laws.RoundTrip.Statement (.vsel f) := by
  refine ⟨fun k h hw => ?_, fun h => absurd h Bool.false_ne_true⟩
  have hd : ∀ b w, w.extractLsb' 56 8 = 27#8 → decodeV b w = legal (VF.zeros w) (.vsel (VF.of b w)) := by
    intro b w h; delta decodeV; rw [h]; rfl
  have ho := VF.of_word 27 f
  have hk : k = if f.slotB then 2 else 1 := (Option.some.inj h).symm
  subst hk
  cases hb : f.slotB
  · rw [hb] at ho
    show decodeV false (VF.word 27 f) = _
    rw [hd _ _ (VF.op_word 27 f), VF.zeros_word, ho]
    exact legal_wf hw
  · rw [hb] at ho
    show decodeV true (VF.word 27 f) = _
    rw [hd _ _ (VF.op_word 27 f), VF.zeros_word, ho]
    exact legal_wf hw

theorem Laws.RoundTrip.vcvt (f : VF) : Laws.RoundTrip.Statement (.vcvt f) := by
  refine ⟨fun k h hw => ?_, fun h => absurd h Bool.false_ne_true⟩
  have hd : ∀ b w, w.extractLsb' 56 8 = 32#8 → decodeV b w = legal (VF.zeros w) (.vcvt (VF.of b w)) := by
    intro b w h; delta decodeV; rw [h]; rfl
  have ho := VF.of_word 32 f
  have hk : k = if f.slotB then 2 else 1 := (Option.some.inj h).symm
  subst hk
  cases hb : f.slotB
  · rw [hb] at ho
    show decodeV false (VF.word 32 f) = _
    rw [hd _ _ (VF.op_word 32 f), VF.zeros_word, ho]
    exact legal_wf hw
  · rw [hb] at ho
    show decodeV true (VF.word 32 f) = _
    rw [hd _ _ (VF.op_word 32 f), VF.zeros_word, ho]
    exact legal_wf hw

theorem Laws.RoundTrip.vqnt (f : VF) : Laws.RoundTrip.Statement (.vqnt f) := by
  refine ⟨fun k h hw => ?_, fun h => absurd h Bool.false_ne_true⟩
  have hd : ∀ b w, w.extractLsb' 56 8 = 33#8 → decodeV b w = legal (VF.zeros w) (.vqnt (VF.of b w)) := by
    intro b w h; delta decodeV; rw [h]; rfl
  have ho := VF.of_word 33 f
  have hk : k = if f.slotB then 2 else 1 := (Option.some.inj h).symm
  subst hk
  cases hb : f.slotB
  · rw [hb] at ho
    show decodeV false (VF.word 33 f) = _
    rw [hd _ _ (VF.op_word 33 f), VF.zeros_word, ho]
    exact legal_wf hw
  · rw [hb] at ho
    show decodeV true (VF.word 33 f) = _
    rw [hd _ _ (VF.op_word 33 f), VF.zeros_word, ho]
    exact legal_wf hw

theorem Laws.RoundTrip.vdq (f : VF) : Laws.RoundTrip.Statement (.vdq f) := by
  refine ⟨fun k h hw => ?_, fun h => absurd h Bool.false_ne_true⟩
  have hd : ∀ b w, w.extractLsb' 56 8 = 34#8 → decodeV b w = legal (VF.zeros w) (.vdq (VF.of b w)) := by
    intro b w h; delta decodeV; rw [h]; rfl
  have ho := VF.of_word 34 f
  have hk : k = if f.slotB then 2 else 1 := (Option.some.inj h).symm
  subst hk
  cases hb : f.slotB
  · rw [hb] at ho
    show decodeV false (VF.word 34 f) = _
    rw [hd _ _ (VF.op_word 34 f), VF.zeros_word, ho]
    exact legal_wf hw
  · rw [hb] at ho
    show decodeV true (VF.word 34 f) = _
    rw [hd _ _ (VF.op_word 34 f), VF.zeros_word, ho]
    exact legal_wf hw

theorem Laws.RoundTrip.vsrnd (f : VF) : Laws.RoundTrip.Statement (.vsrnd f) := by
  refine ⟨fun k h hw => ?_, fun h => absurd h Bool.false_ne_true⟩
  have hd : ∀ b w, w.extractLsb' 56 8 = 35#8 → decodeV b w = legal (VF.zeros w) (.vsrnd (VF.of b w)) := by
    intro b w h; delta decodeV; rw [h]; rfl
  have ho := VF.of_word 35 f
  have hk : k = if f.slotB then 2 else 1 := (Option.some.inj h).symm
  subst hk
  cases hb : f.slotB
  · rw [hb] at ho
    show decodeV false (VF.word 35 f) = _
    rw [hd _ _ (VF.op_word 35 f), VF.zeros_word, ho]
    exact legal_wf hw
  · rw [hb] at ho
    show decodeV true (VF.word 35 f) = _
    rw [hd _ _ (VF.op_word 35 f), VF.zeros_word, ho]
    exact legal_wf hw

theorem Laws.RoundTrip.vscal (f : VF) : Laws.RoundTrip.Statement (.vscal f) := by
  refine ⟨fun k h hw => ?_, fun h => absurd h Bool.false_ne_true⟩
  have hd : ∀ b w, w.extractLsb' 56 8 = 36#8 → decodeV b w = legal (VF.zeros w) (.vscal (VF.of b w)) := by
    intro b w h; delta decodeV; rw [h]; rfl
  have ho := VF.of_word 36 f
  have hk : k = if f.slotB then 2 else 1 := (Option.some.inj h).symm
  subst hk
  cases hb : f.slotB
  · rw [hb] at ho
    show decodeV false (VF.word 36 f) = _
    rw [hd _ _ (VF.op_word 36 f), VF.zeros_word, ho]
    exact legal_wf hw
  · rw [hb] at ho
    show decodeV true (VF.word 36 f) = _
    rw [hd _ _ (VF.op_word 36 f), VF.zeros_word, ho]
    exact legal_wf hw

theorem Laws.RoundTrip.vredsum (f : VF) : Laws.RoundTrip.Statement (.vredsum f) := by
  refine ⟨fun k h hw => ?_, fun h => absurd h Bool.false_ne_true⟩
  have hd : ∀ b w, w.extractLsb' 56 8 = 40#8 → decodeV b w = legal (VF.zeros w) (.vredsum (VF.of b w)) := by
    intro b w h; delta decodeV; rw [h]; rfl
  have ho := VF.of_word 40 f
  have hk : k = if f.slotB then 2 else 1 := (Option.some.inj h).symm
  subst hk
  cases hb : f.slotB
  · rw [hb] at ho
    show decodeV false (VF.word 40 f) = _
    rw [hd _ _ (VF.op_word 40 f), VF.zeros_word, ho]
    exact legal_wf hw
  · rw [hb] at ho
    show decodeV true (VF.word 40 f) = _
    rw [hd _ _ (VF.op_word 40 f), VF.zeros_word, ho]
    exact legal_wf hw

theorem Laws.RoundTrip.vredmax (f : VF) : Laws.RoundTrip.Statement (.vredmax f) := by
  refine ⟨fun k h hw => ?_, fun h => absurd h Bool.false_ne_true⟩
  have hd : ∀ b w, w.extractLsb' 56 8 = 41#8 → decodeV b w = legal (VF.zeros w) (.vredmax (VF.of b w)) := by
    intro b w h; delta decodeV; rw [h]; rfl
  have ho := VF.of_word 41 f
  have hk : k = if f.slotB then 2 else 1 := (Option.some.inj h).symm
  subst hk
  cases hb : f.slotB
  · rw [hb] at ho
    show decodeV false (VF.word 41 f) = _
    rw [hd _ _ (VF.op_word 41 f), VF.zeros_word, ho]
    exact legal_wf hw
  · rw [hb] at ho
    show decodeV true (VF.word 41 f) = _
    rw [hd _ _ (VF.op_word 41 f), VF.zeros_word, ho]
    exact legal_wf hw

theorem Laws.RoundTrip.vredmin (f : VF) : Laws.RoundTrip.Statement (.vredmin f) := by
  refine ⟨fun k h hw => ?_, fun h => absurd h Bool.false_ne_true⟩
  have hd : ∀ b w, w.extractLsb' 56 8 = 42#8 → decodeV b w = legal (VF.zeros w) (.vredmin (VF.of b w)) := by
    intro b w h; delta decodeV; rw [h]; rfl
  have ho := VF.of_word 42 f
  have hk : k = if f.slotB then 2 else 1 := (Option.some.inj h).symm
  subst hk
  cases hb : f.slotB
  · rw [hb] at ho
    show decodeV false (VF.word 42 f) = _
    rw [hd _ _ (VF.op_word 42 f), VF.zeros_word, ho]
    exact legal_wf hw
  · rw [hb] at ho
    show decodeV true (VF.word 42 f) = _
    rw [hd _ _ (VF.op_word 42 f), VF.zeros_word, ho]
    exact legal_wf hw

theorem Laws.RoundTrip.vbcast (f : VF) : Laws.RoundTrip.Statement (.vbcast f) := by
  refine ⟨fun k h hw => ?_, fun h => absurd h Bool.false_ne_true⟩
  have hd : ∀ b w, w.extractLsb' 56 8 = 43#8 → decodeV b w = legal (VF.zeros w) (.vbcast (VF.of b w)) := by
    intro b w h; delta decodeV; rw [h]; rfl
  have ho := VF.of_word 43 f
  have hk : k = if f.slotB then 2 else 1 := (Option.some.inj h).symm
  subst hk
  cases hb : f.slotB
  · rw [hb] at ho
    show decodeV false (VF.word 43 f) = _
    rw [hd _ _ (VF.op_word 43 f), VF.zeros_word, ho]
    exact legal_wf hw
  · rw [hb] at ho
    show decodeV true (VF.word 43 f) = _
    rw [hd _ _ (VF.op_word 43 f), VF.zeros_word, ho]
    exact legal_wf hw

theorem Laws.RoundTrip.vextr (f : VF) : Laws.RoundTrip.Statement (.vextr f) := by
  refine ⟨fun k h hw => ?_, fun h => absurd h Bool.false_ne_true⟩
  have hd : ∀ b w, w.extractLsb' 56 8 = 44#8 → decodeV b w = legal (VF.zeros w) (.vextr (VF.of b w)) := by
    intro b w h; delta decodeV; rw [h]; rfl
  have ho := VF.of_word 44 f
  have hk : k = if f.slotB then 2 else 1 := (Option.some.inj h).symm
  subst hk
  cases hb : f.slotB
  · rw [hb] at ho
    show decodeV false (VF.word 44 f) = _
    rw [hd _ _ (VF.op_word 44 f), VF.zeros_word, ho]
    exact legal_wf hw
  · rw [hb] at ho
    show decodeV true (VF.word 44 f) = _
    rw [hd _ _ (VF.op_word 44 f), VF.zeros_word, ho]
    exact legal_wf hw

theorem Laws.RoundTrip.vperm (f : VF) : Laws.RoundTrip.Statement (.vperm f) := by
  refine ⟨fun k h hw => ?_, fun h => absurd h Bool.false_ne_true⟩
  have hd : ∀ b w, w.extractLsb' 56 8 = 45#8 → decodeV b w = legal (VF.zeros w) (.vperm (VF.of b w)) := by
    intro b w h; delta decodeV; rw [h]; rfl
  have ho := VF.of_word 45 f
  have hk : k = if f.slotB then 2 else 1 := (Option.some.inj h).symm
  subst hk
  cases hb : f.slotB
  · rw [hb] at ho
    show decodeV false (VF.word 45 f) = _
    rw [hd _ _ (VF.op_word 45 f), VF.zeros_word, ho]
    exact legal_wf hw
  · rw [hb] at ho
    show decodeV true (VF.word 45 f) = _
    rw [hd _ _ (VF.op_word 45 f), VF.zeros_word, ho]
    exact legal_wf hw

theorem Laws.RoundTrip.vmov (f : VF) : Laws.RoundTrip.Statement (.vmov f) := by
  refine ⟨fun k h hw => ?_, fun h => absurd h Bool.false_ne_true⟩
  have hd : ∀ b w, w.extractLsb' 56 8 = 48#8 → decodeV b w = legal (VF.zeros w) (.vmov (VF.of b w)) := by
    intro b w h; delta decodeV; rw [h]; rfl
  have ho := VF.of_word 48 f
  have hk : k = if f.slotB then 2 else 1 := (Option.some.inj h).symm
  subst hk
  cases hb : f.slotB
  · rw [hb] at ho
    show decodeV false (VF.word 48 f) = _
    rw [hd _ _ (VF.op_word 48 f), VF.zeros_word, ho]
    exact legal_wf hw
  · rw [hb] at ho
    show decodeV true (VF.word 48 f) = _
    rw [hd _ _ (VF.op_word 48 f), VF.zeros_word, ho]
    exact legal_wf hw

theorem Laws.RoundTrip.vzero (f : VF) : Laws.RoundTrip.Statement (.vzero f) := by
  refine ⟨fun k h hw => ?_, fun h => absurd h Bool.false_ne_true⟩
  have hd : ∀ b w, w.extractLsb' 56 8 = 49#8 → decodeV b w = legal (VF.zeros w) (.vzero (VF.of b w)) := by
    intro b w h; delta decodeV; rw [h]; rfl
  have ho := VF.of_word 49 f
  have hk : k = if f.slotB then 2 else 1 := (Option.some.inj h).symm
  subst hk
  cases hb : f.slotB
  · rw [hb] at ho
    show decodeV false (VF.word 49 f) = _
    rw [hd _ _ (VF.op_word 49 f), VF.zeros_word, ho]
    exact legal_wf hw
  · rw [hb] at ho
    show decodeV true (VF.word 49 f) = _
    rw [hd _ _ (VF.op_word 49 f), VF.zeros_word, ho]
    exact legal_wf hw

theorem Laws.RoundTrip.vacc (f : VF) : Laws.RoundTrip.Statement (.vacc f) := by
  refine ⟨fun k h hw => ?_, fun h => absurd h Bool.false_ne_true⟩
  have hd : ∀ b w, w.extractLsb' 56 8 = 56#8 → decodeV b w = (if b then legal (VF.zeros w) (.vacc (VF.of b w)) else .illegal) := by
    intro b w h; delta decodeV; rw [h]; rfl
  have ho := VF.of_word 56 f
  have hk : k = if f.slotB then 2 else 1 := (Option.some.inj h).symm
  subst hk
  cases hb : f.slotB
  · have hx : wfVacc f = true := hw
    simp [wfVacc, rowDst, hb] at hx
  · rw [hb] at ho
    show decodeV true (VF.word 56 f) = _
    rw [hd _ _ (VF.op_word 56 f), VF.zeros_word, ho]
    exact legal_wf hw

theorem Laws.RoundTrip.vaccw (f : VF) : Laws.RoundTrip.Statement (.vaccw f) := by
  refine ⟨fun k h hw => ?_, fun h => absurd h Bool.false_ne_true⟩
  have hd : ∀ b w, w.extractLsb' 56 8 = 57#8 → decodeV b w = (if b then legal (VF.zeros w) (.vaccw (VF.of b w)) else .illegal) := by
    intro b w h; delta decodeV; rw [h]; rfl
  have ho := VF.of_word 57 f
  have hk : k = if f.slotB then 2 else 1 := (Option.some.inj h).symm
  subst hk
  cases hb : f.slotB
  · have hx : wfVaccw f = true := hw
    simp [wfVaccw, rowDst, hb] at hx
  · rw [hb] at ho
    show decodeV true (VF.word 57 f) = _
    rw [hd _ _ (VF.op_word 57 f), VF.zeros_word, ho]
    exact legal_wf hw

theorem Laws.RoundTrip.vadam (f : VF) : Laws.RoundTrip.Statement (.vadam f) := by
  refine ⟨fun k h hw => ?_, fun h => absurd h Bool.false_ne_true⟩
  have hd : ∀ b w, w.extractLsb' 56 8 = 58#8 → decodeV b w = (if b then legal (VF.zeros w) (.vadam (VF.of b w)) else .illegal) := by
    intro b w h; delta decodeV; rw [h]; rfl
  have ho := VF.of_word 58 f
  have hk : k = if f.slotB then 2 else 1 := (Option.some.inj h).symm
  subst hk
  cases hb : f.slotB
  · have hx : wfVadam f = true := hw
    simp [wfVadam, hb] at hx
  · rw [hb] at ho
    show decodeV true (VF.word 58 f) = _
    rw [hd _ _ (VF.op_word 58 f), VF.zeros_word, ho]
    exact legal_wf hw

theorem Laws.RoundTrip.vsgdm (f : VF) : Laws.RoundTrip.Statement (.vsgdm f) := by
  refine ⟨fun k h hw => ?_, fun h => absurd h Bool.false_ne_true⟩
  have hd : ∀ b w, w.extractLsb' 56 8 = 59#8 → decodeV b w = (if b then legal (VF.zeros w) (.vsgdm (VF.of b w)) else .illegal) := by
    intro b w h; delta decodeV; rw [h]; rfl
  have ho := VF.of_word 59 f
  have hk : k = if f.slotB then 2 else 1 := (Option.some.inj h).symm
  subst hk
  cases hb : f.slotB
  · have hx : wfVsgdm f = true := hw
    simp [wfVsgdm, hb] at hx
  · rw [hb] at ho
    show decodeV true (VF.word 59 f) = _
    rw [hd _ _ (VF.op_word 59 f), VF.zeros_word, ho]
    exact legal_wf hw

theorem Laws.RoundTrip.vbfpn (f : VF) : Laws.RoundTrip.Statement (.vbfpn f) := by
  refine ⟨fun k h hw => ?_, fun h => absurd h Bool.false_ne_true⟩
  have hd : ∀ b w, w.extractLsb' 56 8 = 60#8 → decodeV b w = (if b then legal (VF.zeros w) (.vbfpn (VF.of b w)) else .illegal) := by
    intro b w h; delta decodeV; rw [h]; rfl
  have ho := VF.of_word 60 f
  have hk : k = if f.slotB then 2 else 1 := (Option.some.inj h).symm
  subst hk
  cases hb : f.slotB
  · have hx : wfVbfpn f = true := hw
    simp [wfVbfpn, rowDst, hb] at hx
  · rw [hb] at ho
    show decodeV true (VF.word 60 f) = _
    rw [hd _ _ (VF.op_word 60 f), VF.zeros_word, ho]
    exact legal_wf hw

theorem Laws.RoundTrip.mop (f : MA) : Laws.RoundTrip.Statement (.mop f) := by
  refine ⟨fun k h hw => ?_, fun h => absurd h Bool.false_ne_true⟩
  obtain rfl : 3 = k := Option.some.inj h
  have hd : ∀ w, w.extractLsb' 56 8 = 1#8 → decodeM w = legal (MA.zeros w) (.mop (MA.of w)) := by
    intro w h; delta decodeM; rw [h]; rfl
  show decodeM (MA.word 1 f) = _
  rw [hd _ (MA.op_word 1 f), MA.of_word, MA.zeros_word]
  exact legal_wf hw

theorem Laws.RoundTrip.mmac (f : MA) : Laws.RoundTrip.Statement (.mmac f) := by
  refine ⟨fun k h hw => ?_, fun h => absurd h Bool.false_ne_true⟩
  obtain rfl : 3 = k := Option.some.inj h
  have hd : ∀ w, w.extractLsb' 56 8 = 2#8 → decodeM w = legal (MA.zeros w) (.mmac (MA.of w)) := by
    intro w h; delta decodeM; rw [h]; rfl
  show decodeM (MA.word 2 f) = _
  rw [hd _ (MA.op_word 2 f), MA.of_word, MA.zeros_word]
  exact legal_wf hw

theorem Laws.RoundTrip.mbfp (f : MA) : Laws.RoundTrip.Statement (.mbfp f) := by
  refine ⟨fun k h hw => ?_, fun h => absurd h Bool.false_ne_true⟩
  obtain rfl : 3 = k := Option.some.inj h
  have hd : ∀ w, w.extractLsb' 56 8 = 3#8 → decodeM w = legal (MA.zeros w) (.mbfp (MA.of w)) := by
    intro w h; delta decodeM; rw [h]; rfl
  show decodeM (MA.word 3 f) = _
  rw [hd _ (MA.op_word 3 f), MA.of_word, MA.zeros_word]
  exact legal_wf hw

theorem Laws.RoundTrip.mzero (f : MA) : Laws.RoundTrip.Statement (.mzero f) := by
  refine ⟨fun k h hw => ?_, fun h => absurd h Bool.false_ne_true⟩
  obtain rfl : 3 = k := Option.some.inj h
  have hd : ∀ w, w.extractLsb' 56 8 = 4#8 → decodeM w = legal (MA.zeros w) (.mzero (MA.of w)) := by
    intro w h; delta decodeM; rw [h]; rfl
  show decodeM (MA.word 4 f) = _
  rw [hd _ (MA.op_word 4 f), MA.of_word, MA.zeros_word]
  exact legal_wf hw

theorem Laws.RoundTrip.mdrain (f : MA) : Laws.RoundTrip.Statement (.mdrain f) := by
  refine ⟨fun k h hw => ?_, fun h => absurd h Bool.false_ne_true⟩
  obtain rfl : 3 = k := Option.some.inj h
  have hd : ∀ w, w.extractLsb' 56 8 = 5#8 → decodeM w = legal (MA.zeros w) (.mdrain (MA.of w)) := by
    intro w h; delta decodeM; rw [h]; rfl
  show decodeM (MA.word 5 f) = _
  rw [hd _ (MA.op_word 5 f), MA.of_word, MA.zeros_word]
  exact legal_wf hw

theorem Laws.RoundTrip.mload (f : MA) : Laws.RoundTrip.Statement (.mload f) := by
  refine ⟨fun k h hw => ?_, fun h => absurd h Bool.false_ne_true⟩
  obtain rfl : 3 = k := Option.some.inj h
  have hd : ∀ w, w.extractLsb' 56 8 = 6#8 → decodeM w = legal (MA.zeros w) (.mload (MA.of w)) := by
    intro w h; delta decodeM; rw [h]; rfl
  show decodeM (MA.word 6 f) = _
  rw [hd _ (MA.op_word 6 f), MA.of_word, MA.zeros_word]
  exact legal_wf hw

theorem Laws.RoundTrip.msave (f : MA) : Laws.RoundTrip.Statement (.msave f) := by
  refine ⟨fun k h hw => ?_, fun h => absurd h Bool.false_ne_true⟩
  obtain rfl : 3 = k := Option.some.inj h
  have hd : ∀ w, w.extractLsb' 56 8 = 7#8 → decodeM w = legal (MA.zeros w) (.msave (MA.of w)) := by
    intro w h; delta decodeM; rw [h]; rfl
  show decodeM (MA.word 7 f) = _
  rw [hd _ (MA.op_word 7 f), MA.of_word, MA.zeros_word]
  exact legal_wf hw

theorem Laws.RoundTrip.mlend (f : MA) : Laws.RoundTrip.Statement (.mlend f) := by
  refine ⟨fun k h hw => ?_, fun h => absurd h Bool.false_ne_true⟩
  obtain rfl : 3 = k := Option.some.inj h
  have hd : ∀ w, w.extractLsb' 56 8 = 8#8 → decodeM w = legal (MA.zeros w) (.mlend (MA.of w)) := by
    intro w h; delta decodeM; rw [h]; rfl
  show decodeM (MA.word 8 f) = _
  rw [hd _ (MA.op_word 8 f), MA.of_word, MA.zeros_word]
  exact legal_wf hw

theorem Laws.RoundTrip.mrecl (f : MA) : Laws.RoundTrip.Statement (.mrecl f) := by
  refine ⟨fun k h hw => ?_, fun h => absurd h Bool.false_ne_true⟩
  obtain rfl : 3 = k := Option.some.inj h
  have hd : ∀ w, w.extractLsb' 56 8 = 9#8 → decodeM w = legal (MA.zeros w) (.mrecl (MA.of w)) := by
    intro w h; delta decodeM; rw [h]; rfl
  show decodeM (MA.word 9 f) = _
  rw [hd _ (MA.op_word 9 f), MA.of_word, MA.zeros_word]
  exact legal_wf hw

theorem Laws.RoundTrip.mcfg (f : MA) : Laws.RoundTrip.Statement (.mcfg f) := by
  refine ⟨fun k h hw => ?_, fun h => absurd h Bool.false_ne_true⟩
  obtain rfl : 3 = k := Option.some.inj h
  have hd : ∀ w, w.extractLsb' 56 8 = 10#8 → decodeM w = legal (MA.zeros w) (.mcfg (MA.of w)) := by
    intro w h; delta decodeM; rw [h]; rfl
  show decodeM (MA.word 10 f) = _
  rw [hd _ (MA.op_word 10 f), MA.of_word, MA.zeros_word]
  exact legal_wf hw

theorem Laws.RoundTrip.mrealn (f : MA) : Laws.RoundTrip.Statement (.mrealn f) := by
  refine ⟨fun k h hw => ?_, fun h => absurd h Bool.false_ne_true⟩
  obtain rfl : 3 = k := Option.some.inj h
  have hd : ∀ w, w.extractLsb' 56 8 = 11#8 → decodeM w = legal (MA.zeros w) (.mrealn (MA.of w)) := by
    intro w h; delta decodeM; rw [h]; rfl
  show decodeM (MA.word 11 f) = _
  rw [hd _ (MA.op_word 11 f), MA.of_word, MA.zeros_word]
  exact legal_wf hw

theorem Laws.RoundTrip.knset (f : MA) : Laws.RoundTrip.Statement (.knset f) := by
  refine ⟨fun k h hw => ?_, fun h => absurd h Bool.false_ne_true⟩
  obtain rfl : 3 = k := Option.some.inj h
  have hd : ∀ w, w.extractLsb' 56 8 = 16#8 → decodeM w = legal (MA.zeros w) (.knset (MA.of w)) := by
    intro w h; delta decodeM; rw [h]; rfl
  show decodeM (MA.word 16 f) = _
  rw [hd _ (MA.op_word 16 f), MA.of_word, MA.zeros_word]
  exact legal_wf hw

theorem Laws.RoundTrip.knget (f : MA) : Laws.RoundTrip.Statement (.knget f) := by
  refine ⟨fun k h hw => ?_, fun h => absurd h Bool.false_ne_true⟩
  obtain rfl : 3 = k := Option.some.inj h
  have hd : ∀ w, w.extractLsb' 56 8 = 17#8 → decodeM w = legal (MA.zeros w) (.knget (MA.of w)) := by
    intro w h; delta decodeM; rw [h]; rfl
  show decodeM (MA.word 17 f) = _
  rw [hd _ (MA.op_word 17 f), MA.of_word, MA.zeros_word]
  exact legal_wf hw

theorem Laws.RoundTrip.splld (f : MA) : Laws.RoundTrip.Statement (.splld f) := by
  refine ⟨fun k h hw => ?_, fun h => absurd h Bool.false_ne_true⟩
  obtain rfl : 3 = k := Option.some.inj h
  have hd : ∀ w, w.extractLsb' 56 8 = 18#8 → decodeM w = legal (MA.zeros w) (.splld (MA.of w)) := by
    intro w h; delta decodeM; rw [h]; rfl
  show decodeM (MA.word 18 f) = _
  rw [hd _ (MA.op_word 18 f), MA.of_word, MA.zeros_word]
  exact legal_wf hw

theorem Laws.RoundTrip.splst (f : MA) : Laws.RoundTrip.Statement (.splst f) := by
  refine ⟨fun k h hw => ?_, fun h => absurd h Bool.false_ne_true⟩
  obtain rfl : 3 = k := Option.some.inj h
  have hd : ∀ w, w.extractLsb' 56 8 = 19#8 → decodeM w = legal (MA.zeros w) (.splst (MA.of w)) := by
    intro w h; delta decodeM; rw [h]; rfl
  show decodeM (MA.word 19 f) = _
  rw [hd _ (MA.op_word 19 f), MA.of_word, MA.zeros_word]
  exact legal_wf hw

theorem Laws.RoundTrip.splev (f : MA) : Laws.RoundTrip.Statement (.splev f) := by
  refine ⟨fun k h hw => ?_, fun h => absurd h Bool.false_ne_true⟩
  obtain rfl : 3 = k := Option.some.inj h
  have hd : ∀ w, w.extractLsb' 56 8 = 20#8 → decodeM w = legal (MA.zeros w) (.splev (MA.of w)) := by
    intro w h; delta decodeM; rw [h]; rfl
  show decodeM (MA.word 20 f) = _
  rw [hd _ (MA.op_word 20 f), MA.of_word, MA.zeros_word]
  exact legal_wf hw

theorem Laws.RoundTrip.splbwd (f : MA) : Laws.RoundTrip.Statement (.splbwd f) := by
  refine ⟨fun k h hw => ?_, fun h => absurd h Bool.false_ne_true⟩
  obtain rfl : 3 = k := Option.some.inj h
  have hd : ∀ w, w.extractLsb' 56 8 = 21#8 → decodeM w = legal (MA.zeros w) (.splbwd (MA.of w)) := by
    intro w h; delta decodeM; rw [h]; rfl
  show decodeM (MA.word 21 f) = _
  rw [hd _ (MA.op_word 21 f), MA.of_word, MA.zeros_word]
  exact legal_wf hw

theorem Laws.RoundTrip.splgs (f : MA) : Laws.RoundTrip.Statement (.splgs f) := by
  refine ⟨fun k h hw => ?_, fun h => absurd h Bool.false_ne_true⟩
  obtain rfl : 3 = k := Option.some.inj h
  have hd : ∀ w, w.extractLsb' 56 8 = 22#8 → decodeM w = legal (MA.zeros w) (.splgs (MA.of w)) := by
    intro w h; delta decodeM; rw [h]; rfl
  show decodeM (MA.word 22 f) = _
  rw [hd _ (MA.op_word 22 f), MA.of_word, MA.zeros_word]
  exact legal_wf hw

theorem Laws.RoundTrip.splgx (f : MA) : Laws.RoundTrip.Statement (.splgx f) := by
  refine ⟨fun k h hw => ?_, fun h => absurd h Bool.false_ne_true⟩
  obtain rfl : 3 = k := Option.some.inj h
  have hd : ∀ w, w.extractLsb' 56 8 = 23#8 → decodeM w = legal (MA.zeros w) (.splgx (MA.of w)) := by
    intro w h; delta decodeM; rw [h]; rfl
  show decodeM (MA.word 23 f) = _
  rw [hd _ (MA.op_word 23 f), MA.of_word, MA.zeros_word]
  exact legal_wf hw

theorem Laws.RoundTrip.splgz : Laws.RoundTrip.Statement .splgz := by
  refine ⟨fun k h _ => ?_, fun h => absurd h Bool.false_ne_true⟩
  obtain rfl : 3 = k := Option.some.inj h
  decide

theorem Laws.RoundTrip.gridref : Laws.RoundTrip.Statement .gridref := by
  refine ⟨fun k h _ => ?_, fun h => absurd h Bool.false_ne_true⟩
  obtain rfl : 3 = k := Option.some.inj h
  decide

theorem Laws.RoundTrip.splcnt (f : MA) : Laws.RoundTrip.Statement (.splcnt f) := by
  refine ⟨fun k h hw => ?_, fun h => absurd h Bool.false_ne_true⟩
  obtain rfl : 3 = k := Option.some.inj h
  have hd : ∀ w, w.extractLsb' 56 8 = 26#8 → decodeM w = legal (MA.zeros w) (.splcnt (MA.of w)) := by
    intro w h; delta decodeM; rw [h]; rfl
  show decodeM (MA.word 26 f) = _
  rw [hd _ (MA.op_word 26 f), MA.of_word, MA.zeros_word]
  exact legal_wf hw

theorem Laws.RoundTrip.ld (f : LS) : Laws.RoundTrip.Statement (.ld f) := by
  refine ⟨fun k h hw => ?_, fun h => absurd h Bool.false_ne_true⟩
  obtain rfl : 4 = k := Option.some.inj h
  have hd : ∀ w, w.extractLsb' 56 8 = 1#8 → decodeL w = legal (LS.zeros w) (.ld (LS.of w)) := by
    intro w h; delta decodeL; rw [h]; rfl
  show decodeL (LS.word 1 f) = _
  rw [hd _ (LS.op_word 1 f), LS.of_word, LS.zeros_word]
  exact legal_wf hw

theorem Laws.RoundTrip.sld (f : LS) : Laws.RoundTrip.Statement (.sld f) := by
  refine ⟨fun k h hw => ?_, fun h => absurd h Bool.false_ne_true⟩
  obtain rfl : 4 = k := Option.some.inj h
  have hd : ∀ w, w.extractLsb' 56 8 = 2#8 → decodeL w = legal (LS.zeros w) (.sld (LS.of w)) := by
    intro w h; delta decodeL; rw [h]; rfl
  show decodeL (LS.word 2 f) = _
  rw [hd _ (LS.op_word 2 f), LS.of_word, LS.zeros_word]
  exact legal_wf hw

theorem Laws.RoundTrip.gld (f : LS) : Laws.RoundTrip.Statement (.gld f) := by
  refine ⟨fun k h hw => ?_, fun h => absurd h Bool.false_ne_true⟩
  obtain rfl : 4 = k := Option.some.inj h
  have hd : ∀ w, w.extractLsb' 56 8 = 3#8 → decodeL w = legal (LS.zeros w) (.gld (LS.of w)) := by
    intro w h; delta decodeL; rw [h]; rfl
  show decodeL (LS.word 3 f) = _
  rw [hd _ (LS.op_word 3 f), LS.of_word, LS.zeros_word]
  exact legal_wf hw

theorem Laws.RoundTrip.gldr (f : LS) : Laws.RoundTrip.Statement (.gldr f) := by
  refine ⟨fun k h hw => ?_, fun h => absurd h Bool.false_ne_true⟩
  obtain rfl : 4 = k := Option.some.inj h
  have hd : ∀ w, w.extractLsb' 56 8 = 4#8 → decodeL w = legal (LS.zeros w) (.gldr (LS.of w)) := by
    intro w h; delta decodeL; rw [h]; rfl
  show decodeL (LS.word 4 f) = _
  rw [hd _ (LS.op_word 4 f), LS.of_word, LS.zeros_word]
  exact legal_wf hw

theorem Laws.RoundTrip.tmrd (f : LS) : Laws.RoundTrip.Statement (.tmrd f) := by
  refine ⟨fun k h hw => ?_, fun h => absurd h Bool.false_ne_true⟩
  obtain rfl : 4 = k := Option.some.inj h
  have hd : ∀ w, w.extractLsb' 56 8 = 5#8 → decodeL w = legal (LS.zeros w) (.tmrd (LS.of w)) := by
    intro w h; delta decodeL; rw [h]; rfl
  show decodeL (LS.word 5 f) = _
  rw [hd _ (LS.op_word 5 f), LS.of_word, LS.zeros_word]
  exact legal_wf hw

theorem Laws.RoundTrip.wmrd (f : LS) : Laws.RoundTrip.Statement (.wmrd f) := by
  refine ⟨fun k h hw => ?_, fun h => absurd h Bool.false_ne_true⟩
  obtain rfl : 4 = k := Option.some.inj h
  have hd : ∀ w, w.extractLsb' 56 8 = 6#8 → decodeL w = legal (LS.zeros w) (.wmrd (LS.of w)) := by
    intro w h; delta decodeL; rw [h]; rfl
  show decodeL (LS.word 6 f) = _
  rw [hd _ (LS.op_word 6 f), LS.of_word, LS.zeros_word]
  exact legal_wf hw

theorem Laws.RoundTrip.pref (f : LS) : Laws.RoundTrip.Statement (.pref f) := by
  refine ⟨fun k h hw => ?_, fun h => absurd h Bool.false_ne_true⟩
  obtain rfl : 4 = k := Option.some.inj h
  have hd : ∀ w, w.extractLsb' 56 8 = 7#8 → decodeL w = legal (LS.zeros w) (.pref (LS.of w)) := by
    intro w h; delta decodeL; rw [h]; rfl
  show decodeL (LS.word 7 f) = _
  rw [hd _ (LS.op_word 7 f), LS.of_word, LS.zeros_word]
  exact legal_wf hw

theorem Laws.RoundTrip.st (f : LS) : Laws.RoundTrip.Statement (.st f) := by
  refine ⟨fun k h hw => ?_, fun h => absurd h Bool.false_ne_true⟩
  obtain rfl : 5 = k := Option.some.inj h
  have hd : ∀ w, w.extractLsb' 56 8 = 1#8 → decodeW w = legal (LS.zeros w) (.st (LS.of w)) := by
    intro w h; delta decodeW; rw [h]; rfl
  show decodeW (LS.word 1 f) = _
  rw [hd _ (LS.op_word 1 f), LS.of_word, LS.zeros_word]
  exact legal_wf hw

theorem Laws.RoundTrip.sst (f : LS) : Laws.RoundTrip.Statement (.sst f) := by
  refine ⟨fun k h hw => ?_, fun h => absurd h Bool.false_ne_true⟩
  obtain rfl : 5 = k := Option.some.inj h
  have hd : ∀ w, w.extractLsb' 56 8 = 2#8 → decodeW w = legal (LS.zeros w) (.sst (LS.of w)) := by
    intro w h; delta decodeW; rw [h]; rfl
  show decodeW (LS.word 2 f) = _
  rw [hd _ (LS.op_word 2 f), LS.of_word, LS.zeros_word]
  exact legal_wf hw

theorem Laws.RoundTrip.gst (f : LS) : Laws.RoundTrip.Statement (.gst f) := by
  refine ⟨fun k h hw => ?_, fun h => absurd h Bool.false_ne_true⟩
  obtain rfl : 5 = k := Option.some.inj h
  have hd : ∀ w, w.extractLsb' 56 8 = 3#8 → decodeW w = legal (LS.zeros w) (.gst (LS.of w)) := by
    intro w h; delta decodeW; rw [h]; rfl
  show decodeW (LS.word 3 f) = _
  rw [hd _ (LS.op_word 3 f), LS.of_word, LS.zeros_word]
  exact legal_wf hw

theorem Laws.RoundTrip.gstr (f : LS) : Laws.RoundTrip.Statement (.gstr f) := by
  refine ⟨fun k h hw => ?_, fun h => absurd h Bool.false_ne_true⟩
  obtain rfl : 5 = k := Option.some.inj h
  have hd : ∀ w, w.extractLsb' 56 8 = 4#8 → decodeW w = legal (LS.zeros w) (.gstr (LS.of w)) := by
    intro w h; delta decodeW; rw [h]; rfl
  show decodeW (LS.word 4 f) = _
  rw [hd _ (LS.op_word 4 f), LS.of_word, LS.zeros_word]
  exact legal_wf hw

theorem Laws.RoundTrip.sfe (f : LS) : Laws.RoundTrip.Statement (.sfe f) := by
  refine ⟨fun k h hw => ?_, fun h => absurd h Bool.false_ne_true⟩
  obtain rfl : 5 = k := Option.some.inj h
  have hd : ∀ w, w.extractLsb' 56 8 = 5#8 → decodeW w = legal (LS.zeros w) (.sfe (LS.of w)) := by
    intro w h; delta decodeW; rw [h]; rfl
  show decodeW (LS.word 5 f) = _
  rw [hd _ (LS.op_word 5 f), LS.of_word, LS.zeros_word]
  exact legal_wf hw

theorem Laws.RoundTrip.wmc (f : LS) : Laws.RoundTrip.Statement (.wmc f) := by
  refine ⟨fun k h hw => ?_, fun h => absurd h Bool.false_ne_true⟩
  obtain rfl : 5 = k := Option.some.inj h
  have hd : ∀ w, w.extractLsb' 56 8 = 6#8 → decodeW w = legal (LS.zeros w) (.wmc (LS.of w)) := by
    intro w h; delta decodeW; rw [h]; rfl
  show decodeW (LS.word 6 f) = _
  rw [hd _ (LS.op_word 6 f), LS.of_word, LS.zeros_word]
  exact legal_wf hw

theorem Laws.RoundTrip.dpop (f : LS) : Laws.RoundTrip.Statement (.dpop f) := by
  refine ⟨fun k h hw => ?_, fun h => absurd h Bool.false_ne_true⟩
  obtain rfl : 5 = k := Option.some.inj h
  have hd : ∀ w, w.extractLsb' 56 8 = 7#8 → decodeW w = legal (LS.zeros w) (.dpop (LS.of w)) := by
    intro w h; delta decodeW; rw [h]; rfl
  show decodeW (LS.word 7 f) = _
  rw [hd _ (LS.op_word 7 f), LS.of_word, LS.zeros_word]
  exact legal_wf hw

theorem Laws.RoundTrip.cpy (f : CE) : Laws.RoundTrip.Statement (.cpy f) := by
  refine ⟨fun k h hw => ?_, fun h => absurd h Bool.false_ne_true⟩
  obtain rfl : 6 = k := Option.some.inj h
  have hd : ∀ w, w.extractLsb' 56 8 = 1#8 → decodeC w = legal (CE.zeros w) (.cpy (CE.of w)) := by
    intro w h; delta decodeC; rw [h]; rfl
  show decodeC (CE.word 1 f) = _
  rw [hd _ (CE.op_word 1 f), CE.of_word, CE.zeros_word]
  exact legal_wf hw

theorem Laws.RoundTrip.cpy2 (f : CE) : Laws.RoundTrip.Statement (.cpy2 f) := by
  refine ⟨fun k h hw => ?_, fun h => absurd h Bool.false_ne_true⟩
  obtain rfl : 6 = k := Option.some.inj h
  have hd : ∀ w, w.extractLsb' 56 8 = 2#8 → decodeC w = legal (CE.zeros w) (.cpy2 (CE.of w)) := by
    intro w h; delta decodeC; rw [h]; rfl
  show decodeC (CE.word 2 f) = _
  rw [hd _ (CE.op_word 2 f), CE.of_word, CE.zeros_word]
  exact legal_wf hw

theorem Laws.RoundTrip.cpyg (f : CE) : Laws.RoundTrip.Statement (.cpyg f) := by
  refine ⟨fun k h hw => ?_, fun h => absurd h Bool.false_ne_true⟩
  obtain rfl : 6 = k := Option.some.inj h
  have hd : ∀ w, w.extractLsb' 56 8 = 3#8 → decodeC w = legal (CE.zeros w) (.cpyg (CE.of w)) := by
    intro w h; delta decodeC; rw [h]; rfl
  show decodeC (CE.word 3 f) = _
  rw [hd _ (CE.op_word 3 f), CE.of_word, CE.zeros_word]
  exact legal_wf hw

theorem Laws.RoundTrip.cpys (f : CE) : Laws.RoundTrip.Statement (.cpys f) := by
  refine ⟨fun k h hw => ?_, fun h => absurd h Bool.false_ne_true⟩
  obtain rfl : 6 = k := Option.some.inj h
  have hd : ∀ w, w.extractLsb' 56 8 = 4#8 → decodeC w = legal (CE.zeros w) (.cpys (CE.of w)) := by
    intro w h; delta decodeC; rw [h]; rfl
  show decodeC (CE.word 4 f) = _
  rw [hd _ (CE.op_word 4 f), CE.of_word, CE.zeros_word]
  exact legal_wf hw

theorem Laws.RoundTrip.cpyx (f : CE) : Laws.RoundTrip.Statement (.cpyx f) := by
  refine ⟨fun k h hw => ?_, fun h => absurd h Bool.false_ne_true⟩
  obtain rfl : 6 = k := Option.some.inj h
  have hd : ∀ w, w.extractLsb' 56 8 = 5#8 → decodeC w = legal (CE.zeros w) (.cpyx (CE.of w)) := by
    intro w h; delta decodeC; rw [h]; rfl
  show decodeC (CE.word 5 f) = _
  rw [hd _ (CE.op_word 5 f), CE.of_word, CE.zeros_word]
  exact legal_wf hw

theorem Laws.RoundTrip.cpyr (f : CE) : Laws.RoundTrip.Statement (.cpyr f) := by
  refine ⟨fun k h hw => ?_, fun h => absurd h Bool.false_ne_true⟩
  obtain rfl : 6 = k := Option.some.inj h
  have hd : ∀ w, w.extractLsb' 56 8 = 6#8 → decodeC w = legal (CE.zeros w) (.cpyr (CE.of w)) := by
    intro w h; delta decodeC; rw [h]; rfl
  show decodeC (CE.word 6 f) = _
  rw [hd _ (CE.op_word 6 f), CE.of_word, CE.zeros_word]
  exact legal_wf hw

theorem Laws.RoundTrip.cpyo (f : CE) : Laws.RoundTrip.Statement (.cpyo f) := by
  refine ⟨fun k h hw => ?_, fun h => absurd h Bool.false_ne_true⟩
  obtain rfl : 6 = k := Option.some.inj h
  have hd : ∀ w, w.extractLsb' 56 8 = 7#8 → decodeC w = legal (CE.zeros w) (.cpyo (CE.of w)) := by
    intro w h; delta decodeC; rw [h]; rfl
  show decodeC (CE.word 7 f) = _
  rw [hd _ (CE.op_word 7 f), CE.of_word, CE.zeros_word]
  exact legal_wf hw

theorem Laws.RoundTrip.cpyq (f : CE) : Laws.RoundTrip.Statement (.cpyq f) := by
  refine ⟨fun k h hw => ?_, fun h => absurd h Bool.false_ne_true⟩
  obtain rfl : 6 = k := Option.some.inj h
  have hd : ∀ w, w.extractLsb' 56 8 = 8#8 → decodeC w = legal (CE.zeros w) (.cpyq (CE.of w)) := by
    intro w h; delta decodeC; rw [h]; rfl
  show decodeC (CE.word 8 f) = _
  rw [hd _ (CE.op_word 8 f), CE.of_word, CE.zeros_word]
  exact legal_wf hw

theorem Laws.RoundTrip.cpyk (f : CE) : Laws.RoundTrip.Statement (.cpyk f) := by
  refine ⟨fun k h hw => ?_, fun h => absurd h Bool.false_ne_true⟩
  obtain rfl : 6 = k := Option.some.inj h
  have hd : ∀ w, w.extractLsb' 56 8 = 9#8 → decodeC w = legal (CE.zeros w) (.cpyk (CE.of w)) := by
    intro w h; delta decodeC; rw [h]; rfl
  show decodeC (CE.word 9 f) = _
  rw [hd _ (CE.op_word 9 f), CE.of_word, CE.zeros_word]
  exact legal_wf hw

theorem Laws.RoundTrip.cadd (f : YA) : Laws.RoundTrip.Statement (.cadd f) := by
  refine ⟨fun k h hw => ?_, fun h => absurd h Bool.false_ne_true⟩
  obtain rfl : 7 = k := Option.some.inj h
  have hd : ∀ w, w.extractLsb' 56 8 = 1#8 → decodeY w = legal (YA.zeros w) (.cadd (YA.of w)) := by
    intro w h; delta decodeY; rw [h]; rfl
  show decodeY (YA.word 1 f) = _
  rw [hd _ (YA.op_word 1 f), YA.of_word, YA.zeros_word]
  exact legal_wf hw

theorem Laws.RoundTrip.caddi (f : YA) : Laws.RoundTrip.Statement (.caddi f) := by
  refine ⟨fun k h hw => ?_, fun h => absurd h Bool.false_ne_true⟩
  obtain rfl : 7 = k := Option.some.inj h
  have hd : ∀ w, w.extractLsb' 56 8 = 2#8 → decodeY w = legal (YA.zeros w) (.caddi (YA.of w)) := by
    intro w h; delta decodeY; rw [h]; rfl
  show decodeY (YA.word 2 f) = _
  rw [hd _ (YA.op_word 2 f), YA.of_word, YA.zeros_word]
  exact legal_wf hw

theorem Laws.RoundTrip.cwait (f : YA) : Laws.RoundTrip.Statement (.cwait f) := by
  refine ⟨fun k h hw => ?_, fun h => absurd h Bool.false_ne_true⟩
  obtain rfl : 7 = k := Option.some.inj h
  have hd : ∀ w, w.extractLsb' 56 8 = 3#8 → decodeY w = legal (YA.zeros w) (.cwait (YA.of w)) := by
    intro w h; delta decodeY; rw [h]; rfl
  show decodeY (YA.word 3 f) = _
  rw [hd _ (YA.op_word 3 f), YA.of_word, YA.zeros_word]
  exact legal_wf hw

theorem Laws.RoundTrip.crd (f : YA) : Laws.RoundTrip.Statement (.crd f) := by
  refine ⟨fun k h hw => ?_, fun h => absurd h Bool.false_ne_true⟩
  obtain rfl : 7 = k := Option.some.inj h
  have hd : ∀ w, w.extractLsb' 56 8 = 4#8 → decodeY w = legal (YA.zeros w) (.crd (YA.of w)) := by
    intro w h; delta decodeY; rw [h]; rfl
  show decodeY (YA.word 4 f) = _
  rw [hd _ (YA.op_word 4 f), YA.of_word, YA.zeros_word]
  exact legal_wf hw

theorem Laws.RoundTrip.cflg (f : YA) : Laws.RoundTrip.Statement (.cflg f) := by
  refine ⟨fun k h hw => ?_, fun h => absurd h Bool.false_ne_true⟩
  obtain rfl : 7 = k := Option.some.inj h
  have hd : ∀ w, w.extractLsb' 56 8 = 5#8 → decodeY w = legal (YA.zeros w) (.cflg (YA.of w)) := by
    intro w h; delta decodeY; rw [h]; rfl
  show decodeY (YA.word 5 f) = _
  rw [hd _ (YA.op_word 5 f), YA.of_word, YA.zeros_word]
  exact legal_wf hw

theorem Laws.RoundTrip.cceil (f : YA) : Laws.RoundTrip.Statement (.cceil f) := by
  refine ⟨fun k h hw => ?_, fun h => absurd h Bool.false_ne_true⟩
  obtain rfl : 7 = k := Option.some.inj h
  have hd : ∀ w, w.extractLsb' 56 8 = 6#8 → decodeY w = legal (YA.zeros w) (.cceil (YA.of w)) := by
    intro w h; delta decodeY; rw [h]; rfl
  show decodeY (YA.word 6 f) = _
  rw [hd _ (YA.op_word 6 f), YA.of_word, YA.zeros_word]
  exact legal_wf hw

theorem Laws.RoundTrip.amadd (f : YA) : Laws.RoundTrip.Statement (.amadd f) := by
  refine ⟨fun k h hw => ?_, fun h => absurd h Bool.false_ne_true⟩
  obtain rfl : 7 = k := Option.some.inj h
  have hd : ∀ w, w.extractLsb' 56 8 = 8#8 → decodeY w = legal (YA.zeros w) (.amadd (YA.of w)) := by
    intro w h; delta decodeY; rw [h]; rfl
  show decodeY (YA.word 8 f) = _
  rw [hd _ (YA.op_word 8 f), YA.of_word, YA.zeros_word]
  exact legal_wf hw

theorem Laws.RoundTrip.amax (f : YA) : Laws.RoundTrip.Statement (.amax f) := by
  refine ⟨fun k h hw => ?_, fun h => absurd h Bool.false_ne_true⟩
  obtain rfl : 7 = k := Option.some.inj h
  have hd : ∀ w, w.extractLsb' 56 8 = 9#8 → decodeY w = legal (YA.zeros w) (.amax (YA.of w)) := by
    intro w h; delta decodeY; rw [h]; rfl
  show decodeY (YA.word 9 f) = _
  rw [hd _ (YA.op_word 9 f), YA.of_word, YA.zeros_word]
  exact legal_wf hw

theorem Laws.RoundTrip.amin (f : YA) : Laws.RoundTrip.Statement (.amin f) := by
  refine ⟨fun k h hw => ?_, fun h => absurd h Bool.false_ne_true⟩
  obtain rfl : 7 = k := Option.some.inj h
  have hd : ∀ w, w.extractLsb' 56 8 = 10#8 → decodeY w = legal (YA.zeros w) (.amin (YA.of w)) := by
    intro w h; delta decodeY; rw [h]; rfl
  show decodeY (YA.word 10 f) = _
  rw [hd _ (YA.op_word 10 f), YA.of_word, YA.zeros_word]
  exact legal_wf hw

theorem Laws.RoundTrip.aswp (f : YA) : Laws.RoundTrip.Statement (.aswp f) := by
  refine ⟨fun k h hw => ?_, fun h => absurd h Bool.false_ne_true⟩
  obtain rfl : 7 = k := Option.some.inj h
  have hd : ∀ w, w.extractLsb' 56 8 = 11#8 → decodeY w = legal (YA.zeros w) (.aswp (YA.of w)) := by
    intro w h; delta decodeY; rw [h]; rfl
  show decodeY (YA.word 11 f) = _
  rw [hd _ (YA.op_word 11 f), YA.of_word, YA.zeros_word]
  exact legal_wf hw

theorem Laws.RoundTrip.acas (f : YA) : Laws.RoundTrip.Statement (.acas f) := by
  refine ⟨fun k h hw => ?_, fun h => absurd h Bool.false_ne_true⟩
  obtain rfl : 7 = k := Option.some.inj h
  have hd : ∀ w, w.extractLsb' 56 8 = 12#8 → decodeY w = legal (YA.zeros w) (.acas (YA.of w)) := by
    intro w h; delta decodeY; rw [h]; rfl
  show decodeY (YA.word 12 f) = _
  rw [hd _ (YA.op_word 12 f), YA.of_word, YA.zeros_word]
  exact legal_wf hw

theorem Laws.RoundTrip.aand (f : YA) : Laws.RoundTrip.Statement (.aand f) := by
  refine ⟨fun k h hw => ?_, fun h => absurd h Bool.false_ne_true⟩
  obtain rfl : 7 = k := Option.some.inj h
  have hd : ∀ w, w.extractLsb' 56 8 = 13#8 → decodeY w = legal (YA.zeros w) (.aand (YA.of w)) := by
    intro w h; delta decodeY; rw [h]; rfl
  show decodeY (YA.word 13 f) = _
  rw [hd _ (YA.op_word 13 f), YA.of_word, YA.zeros_word]
  exact legal_wf hw

theorem Laws.RoundTrip.aor (f : YA) : Laws.RoundTrip.Statement (.aor f) := by
  refine ⟨fun k h hw => ?_, fun h => absurd h Bool.false_ne_true⟩
  obtain rfl : 7 = k := Option.some.inj h
  have hd : ∀ w, w.extractLsb' 56 8 = 14#8 → decodeY w = legal (YA.zeros w) (.aor (YA.of w)) := by
    intro w h; delta decodeY; rw [h]; rfl
  show decodeY (YA.word 14 f) = _
  rw [hd _ (YA.op_word 14 f), YA.of_word, YA.zeros_word]
  exact legal_wf hw

theorem Laws.RoundTrip.afadd (f : YA) : Laws.RoundTrip.Statement (.afadd f) := by
  refine ⟨fun k h hw => ?_, fun h => absurd h Bool.false_ne_true⟩
  obtain rfl : 7 = k := Option.some.inj h
  have hd : ∀ w, w.extractLsb' 56 8 = 15#8 → decodeY w = legal (YA.zeros w) (.afadd (YA.of w)) := by
    intro w h; delta decodeY; rw [h]; rfl
  show decodeY (YA.word 15 f) = _
  rw [hd _ (YA.op_word 15 f), YA.of_word, YA.zeros_word]
  exact legal_wf hw

theorem Laws.RoundTrip.barr (f : YA) : Laws.RoundTrip.Statement (.barr f) := by
  refine ⟨fun k h hw => ?_, fun h => absurd h Bool.false_ne_true⟩
  obtain rfl : 7 = k := Option.some.inj h
  have hd : ∀ w, w.extractLsb' 56 8 = 16#8 → decodeY w = legal (YA.zeros w) (.barr (YA.of w)) := by
    intro w h; delta decodeY; rw [h]; rfl
  show decodeY (YA.word 16 f) = _
  rw [hd _ (YA.op_word 16 f), YA.of_word, YA.zeros_word]
  exact legal_wf hw

theorem Laws.RoundTrip.bwait (f : YA) : Laws.RoundTrip.Statement (.bwait f) := by
  refine ⟨fun k h hw => ?_, fun h => absurd h Bool.false_ne_true⟩
  obtain rfl : 7 = k := Option.some.inj h
  have hd : ∀ w, w.extractLsb' 56 8 = 17#8 → decodeY w = legal (YA.zeros w) (.bwait (YA.of w)) := by
    intro w h; delta decodeY; rw [h]; rfl
  show decodeY (YA.word 17 f) = _
  rw [hd _ (YA.op_word 17 f), YA.of_word, YA.zeros_word]
  exact legal_wf hw

theorem Laws.RoundTrip.barq (f : YA) : Laws.RoundTrip.Statement (.barq f) := by
  refine ⟨fun k h hw => ?_, fun h => absurd h Bool.false_ne_true⟩
  obtain rfl : 7 = k := Option.some.inj h
  have hd : ∀ w, w.extractLsb' 56 8 = 18#8 → decodeY w = legal (YA.zeros w) (.barq (YA.of w)) := by
    intro w h; delta decodeY; rw [h]; rfl
  show decodeY (YA.word 18 f) = _
  rw [hd _ (YA.op_word 18 f), YA.of_word, YA.zeros_word]
  exact legal_wf hw

theorem Laws.RoundTrip.tmopn (f : YA) : Laws.RoundTrip.Statement (.tmopn f) := by
  refine ⟨fun k h hw => ?_, fun h => absurd h Bool.false_ne_true⟩
  obtain rfl : 7 = k := Option.some.inj h
  have hd : ∀ w, w.extractLsb' 56 8 = 24#8 → decodeY w = legal (YA.zeros w) (.tmopn (YA.of w)) := by
    intro w h; delta decodeY; rw [h]; rfl
  show decodeY (YA.word 24 f) = _
  rw [hd _ (YA.op_word 24 f), YA.of_word, YA.zeros_word]
  exact legal_wf hw

theorem Laws.RoundTrip.tmcls (f : YA) : Laws.RoundTrip.Statement (.tmcls f) := by
  refine ⟨fun k h hw => ?_, fun h => absurd h Bool.false_ne_true⟩
  obtain rfl : 7 = k := Option.some.inj h
  have hd : ∀ w, w.extractLsb' 56 8 = 25#8 → decodeY w = legal (YA.zeros w) (.tmcls (YA.of w)) := by
    intro w h; delta decodeY; rw [h]; rfl
  show decodeY (YA.word 25 f) = _
  rw [hd _ (YA.op_word 25 f), YA.of_word, YA.zeros_word]
  exact legal_wf hw

theorem Laws.RoundTrip.tmgov (f : YA) : Laws.RoundTrip.Statement (.tmgov f) := by
  refine ⟨fun k h hw => ?_, fun h => absurd h Bool.false_ne_true⟩
  obtain rfl : 7 = k := Option.some.inj h
  have hd : ∀ w, w.extractLsb' 56 8 = 26#8 → decodeY w = legal (YA.zeros w) (.tmgov (YA.of w)) := by
    intro w h; delta decodeY; rw [h]; rfl
  show decodeY (YA.word 26 f) = _
  rw [hd _ (YA.op_word 26 f), YA.of_word, YA.zeros_word]
  exact legal_wf hw

theorem Laws.RoundTrip.tmset (f : YA) : Laws.RoundTrip.Statement (.tmset f) := by
  refine ⟨fun k h hw => ?_, fun h => absurd h Bool.false_ne_true⟩
  obtain rfl : 7 = k := Option.some.inj h
  have hd : ∀ w, w.extractLsb' 56 8 = 27#8 → decodeY w = legal (YA.zeros w) (.tmset (YA.of w)) := by
    intro w h; delta decodeY; rw [h]; rfl
  show decodeY (YA.word 27 f) = _
  rw [hd _ (YA.op_word 27 f), YA.of_word, YA.zeros_word]
  exact legal_wf hw

theorem Laws.RoundTrip.tmflt (f : YA) : Laws.RoundTrip.Statement (.tmflt f) := by
  refine ⟨fun k h hw => ?_, fun h => absurd h Bool.false_ne_true⟩
  obtain rfl : 7 = k := Option.some.inj h
  have hd : ∀ w, w.extractLsb' 56 8 = 28#8 → decodeY w = legal (YA.zeros w) (.tmflt (YA.of w)) := by
    intro w h; delta decodeY; rw [h]; rfl
  show decodeY (YA.word 28 f) = _
  rw [hd _ (YA.op_word 28 f), YA.of_word, YA.zeros_word]
  exact legal_wf hw

theorem Laws.RoundTrip.spawn (f : YA) : Laws.RoundTrip.Statement (.spawn f) := by
  refine ⟨fun k h hw => ?_, fun h => absurd h Bool.false_ne_true⟩
  obtain rfl : 7 = k := Option.some.inj h
  have hd : ∀ w, w.extractLsb' 56 8 = 32#8 → decodeY w = legal (YA.zeros w) (.spawn (YA.of w)) := by
    intro w h; delta decodeY; rw [h]; rfl
  show decodeY (YA.word 32 f) = _
  rw [hd _ (YA.op_word 32 f), YA.of_word, YA.zeros_word]
  exact legal_wf hw

theorem Laws.RoundTrip.yield : Laws.RoundTrip.Statement .yield := by
  refine ⟨fun k h _ => ?_, fun h => absurd h Bool.false_ne_true⟩
  obtain rfl : 7 = k := Option.some.inj h
  decide

theorem Laws.RoundTrip.route (f : YA) : Laws.RoundTrip.Statement (.route f) := by
  refine ⟨fun k h hw => ?_, fun h => absurd h Bool.false_ne_true⟩
  obtain rfl : 7 = k := Option.some.inj h
  have hd : ∀ w, w.extractLsb' 56 8 = 40#8 → decodeY w = legal (YA.zeros w) (.route (YA.of w)) := by
    intro w h; delta decodeY; rw [h]; rfl
  show decodeY (YA.word 40 f) = _
  rw [hd _ (YA.op_word 40 f), YA.of_word, YA.zeros_word]
  exact legal_wf hw

theorem Laws.RoundTrip.rtver (f : YA) : Laws.RoundTrip.Statement (.rtver f) := by
  refine ⟨fun k h hw => ?_, fun h => absurd h Bool.false_ne_true⟩
  obtain rfl : 7 = k := Option.some.inj h
  have hd : ∀ w, w.extractLsb' 56 8 = 41#8 → decodeY w = legal (YA.zeros w) (.rtver (YA.of w)) := by
    intro w h; delta decodeY; rw [h]; rfl
  show decodeY (YA.word 41 f) = _
  rw [hd _ (YA.op_word 41 f), YA.of_word, YA.zeros_word]
  exact legal_wf hw

theorem Laws.RoundTrip.wgl (f : YA) : Laws.RoundTrip.Statement (.wgl f) := by
  refine ⟨fun k h hw => ?_, fun h => absurd h Bool.false_ne_true⟩
  obtain rfl : 7 = k := Option.some.inj h
  have hd : ∀ w, w.extractLsb' 56 8 = 48#8 → decodeY w = legal (YA.zeros w) (.wgl (YA.of w)) := by
    intro w h; delta decodeY; rw [h]; rfl
  show decodeY (YA.word 48 f) = _
  rw [hd _ (YA.op_word 48 f), YA.of_word, YA.zeros_word]
  exact legal_wf hw

theorem Laws.RoundTrip.wglq (f : YA) : Laws.RoundTrip.Statement (.wglq f) := by
  refine ⟨fun k h hw => ?_, fun h => absurd h Bool.false_ne_true⟩
  obtain rfl : 7 = k := Option.some.inj h
  have hd : ∀ w, w.extractLsb' 56 8 = 49#8 → decodeY w = legal (YA.zeros w) (.wglq (YA.of w)) := by
    intro w h; delta decodeY; rw [h]; rfl
  show decodeY (YA.word 49 f) = _
  rw [hd _ (YA.op_word 49 f), YA.of_word, YA.zeros_word]
  exact legal_wf hw

theorem Laws.RoundTrip.wglk (f : YA) : Laws.RoundTrip.Statement (.wglk f) := by
  refine ⟨fun k h hw => ?_, fun h => absurd h Bool.false_ne_true⟩
  obtain rfl : 7 = k := Option.some.inj h
  have hd : ∀ w, w.extractLsb' 56 8 = 50#8 → decodeY w = legal (YA.zeros w) (.wglk (YA.of w)) := by
    intro w h; delta decodeY; rw [h]; rfl
  show decodeY (YA.word 50 f) = _
  rw [hd _ (YA.op_word 50 f), YA.of_word, YA.zeros_word]
  exact legal_wf hw

theorem Laws.RoundTrip.grant (c : CoreId) (line : Nat) : Laws.RoundTrip.Statement (.grant c line) :=
  ⟨fun k h => absurd h.symm (Option.some_ne_none k), fun h => absurd h Bool.false_ne_true⟩

theorem Laws.RoundTrip.reserve (c : CoreId) (home : Nat) : Laws.RoundTrip.Statement (.reserve c home) :=
  ⟨fun k h => absurd h.symm (Option.some_ne_none k), fun h => absurd h Bool.false_ne_true⟩

theorem Laws.RoundTrip.renew (c : CoreId) (line : Nat) : Laws.RoundTrip.Statement (.renew c line) :=
  ⟨fun k h => absurd h.symm (Option.some_ne_none k), fun h => absurd h Bool.false_ne_true⟩

theorem Laws.RoundTrip.apply (c : CoreId) (home : Nat) : Laws.RoundTrip.Statement (.apply c home) :=
  ⟨fun k h => absurd h.symm (Option.some_ne_none k), fun h => absurd h Bool.false_ne_true⟩

theorem Laws.RoundTrip.pinTokenGrant : Laws.RoundTrip.Statement .pinTokenGrant :=
  ⟨fun k h => absurd h.symm (Option.some_ne_none k), fun h => absurd h Bool.false_ne_true⟩

theorem Laws.RoundTrip.stampRaise (home : Nat) : Laws.RoundTrip.Statement (.stampRaise home) :=
  ⟨fun k h => absurd h.symm (Option.some_ne_none k), fun h => absurd h Bool.false_ne_true⟩

theorem Laws.RoundTrip.applyAdd (ctr : Nat) (va : Word) (n : Word) (fl : BitVec 32) (src : Source) (t : Nat) : Laws.RoundTrip.Statement (.applyAdd ctr va n fl src t) :=
  ⟨fun k h => absurd h.symm (Option.some_ne_none k), fun h => absurd h Bool.false_ne_true⟩

theorem Laws.RoundTrip.applyCflg (ctr : Nat) (b : BitVec 32) (t : Nat) : Laws.RoundTrip.Statement (.applyCflg ctr b t) :=
  ⟨fun k h => absurd h.symm (Option.some_ne_none k), fun h => absurd h Bool.false_ne_true⟩

theorem Laws.RoundTrip.applyCeil (ctr : Nat) (va : Word) (v : Word) (src : Source) (t : Nat) : Laws.RoundTrip.Statement (.applyCeil ctr va v src t) :=
  ⟨fun k h => absurd h.symm (Option.some_ne_none k), fun h => absurd h Bool.false_ne_true⟩

theorem Laws.RoundTrip.cwaitWake (c : CoreId) (flags : BitVec 32) (t : Nat) : Laws.RoundTrip.Statement (.cwaitWake c flags t) :=
  ⟨fun k h => absurd h.symm (Option.some_ne_none k), fun h => absurd h Bool.false_ne_true⟩

theorem Laws.RoundTrip.barrierArrival (c : CoreId) (seg : Nat) (t : Nat) : Laws.RoundTrip.Statement (.barrierArrival c seg t) :=
  ⟨fun k h => absurd h.symm (Option.some_ne_none k), fun h => absurd h Bool.false_ne_true⟩

theorem Laws.RoundTrip.bwaitReturn (c : CoreId) : Laws.RoundTrip.Statement (.bwaitReturn c) :=
  ⟨fun k h => absurd h.symm (Option.some_ne_none k), fun h => absurd h Bool.false_ne_true⟩

theorem Laws.RoundTrip.copyLaunchAccept (cl : ClusterId) : Laws.RoundTrip.Statement (.copyLaunchAccept cl) :=
  ⟨fun k h => absurd h.symm (Option.some_ne_none k), fun h => absurd h Bool.false_ne_true⟩

theorem Laws.RoundTrip.copyPiece (op : Nat) (k : Nat) : Laws.RoundTrip.Statement (.copyPiece op k) :=
  ⟨fun k h => absurd h.symm (Option.some_ne_none k), fun h => absurd h Bool.false_ne_true⟩

theorem Laws.RoundTrip.deltaFlush (c : CoreId) (slot : Nat) : Laws.RoundTrip.Statement (.deltaFlush c slot) :=
  ⟨fun k h => absurd h.symm (Option.some_ne_none k), fun h => absurd h Bool.false_ne_true⟩

theorem Laws.RoundTrip.flushRequest (c : CoreId) (rec : Nat) : Laws.RoundTrip.Statement (.flushRequest c rec) :=
  ⟨fun k h => absurd h.symm (Option.some_ne_none k), fun h => absurd h Bool.false_ne_true⟩

theorem Laws.RoundTrip.closePublication (rec : Nat) : Laws.RoundTrip.Statement (.closePublication rec) :=
  ⟨fun k h => absurd h.symm (Option.some_ne_none k), fun h => absurd h Bool.false_ne_true⟩

theorem Laws.RoundTrip.launch (root : Word) : Laws.RoundTrip.Statement (.launch root) :=
  ⟨fun k h => absurd h.symm (Option.some_ne_none k), fun h => absurd h Bool.false_ne_true⟩

theorem Laws.RoundTrip.schedulerRound : Laws.RoundTrip.Statement .schedulerRound :=
  ⟨fun k h => absurd h.symm (Option.some_ne_none k), fun h => absurd h Bool.false_ne_true⟩

theorem Laws.RoundTrip.descriptorFetch (rnum : Nat) : Laws.RoundTrip.Statement (.descriptorFetch rnum) :=
  ⟨fun k h => absurd h.symm (Option.some_ne_none k), fun h => absurd h Bool.false_ne_true⟩

theorem Laws.RoundTrip.dependencyMet (tser : Nat) (k : Nat) (flags : BitVec 32) : Laws.RoundTrip.Statement (.dependencyMet tser k flags) :=
  ⟨fun k h => absurd h.symm (Option.some_ne_none k), fun h => absurd h Bool.false_ne_true⟩

theorem Laws.RoundTrip.quantumExpiry (tser : Nat) (gix : Nat) : Laws.RoundTrip.Statement (.quantumExpiry tser gix) :=
  ⟨fun k h => absurd h.symm (Option.some_ne_none k), fun h => absurd h Bool.false_ne_true⟩

theorem Laws.RoundTrip.taskComplete (tser : Nat) : Laws.RoundTrip.Statement (.taskComplete tser) :=
  ⟨fun k h => absurd h.symm (Option.some_ne_none k), fun h => absurd h Bool.false_ne_true⟩

theorem Laws.RoundTrip.faultReport (r : FaultReport) : Laws.RoundTrip.Statement (.faultReport r) :=
  ⟨fun k h => absurd h.symm (Option.some_ne_none k), fun h => absurd h Bool.false_ne_true⟩

theorem Laws.RoundTrip.migrateTrapReceipt (c : CoreId) : Laws.RoundTrip.Statement (.migrateTrapReceipt c) :=
  ⟨fun k h => absurd h.symm (Option.some_ne_none k), fun h => absurd h Bool.false_ne_true⟩

theorem Laws.RoundTrip.spawnAppend (rcb : Word) (desc : Word) (tser : Nat) (t : Nat) : Laws.RoundTrip.Statement (.spawnAppend rcb desc tser t) :=
  ⟨fun k h => absurd h.symm (Option.some_ne_none k), fun h => absurd h Bool.false_ne_true⟩

theorem Laws.RoundTrip.schedulerTakeover : Laws.RoundTrip.Statement .schedulerTakeover :=
  ⟨fun k h => absurd h.symm (Option.some_ne_none k), fun h => absurd h Bool.false_ne_true⟩

theorem Laws.RoundTrip.dieFault (die : Nat) : Laws.RoundTrip.Statement (.dieFault die) :=
  ⟨fun k h => absurd h.symm (Option.some_ne_none k), fun h => absurd h Bool.false_ne_true⟩

theorem Laws.RoundTrip.coreWithdrawn (c : CoreId) : Laws.RoundTrip.Statement (.coreWithdrawn c) :=
  ⟨fun k h => absurd h.symm (Option.some_ne_none k), fun h => absurd h Bool.false_ne_true⟩

theorem Laws.RoundTrip.routeChoice (k : Nat) : Laws.RoundTrip.Statement (.routeChoice k) :=
  ⟨fun k h => absurd h.symm (Option.some_ne_none k), fun h => absurd h Bool.false_ne_true⟩

theorem Laws.RoundTrip.routeDelivery (k : Nat) : Laws.RoundTrip.Statement (.routeDelivery k) :=
  ⟨fun k h => absurd h.symm (Option.some_ne_none k), fun h => absurd h Bool.false_ne_true⟩

theorem Laws.RoundTrip.routedAdd (k : Nat) : Laws.RoundTrip.Statement (.routedAdd k) :=
  ⟨fun k h => absurd h.symm (Option.some_ne_none k), fun h => absurd h Bool.false_ne_true⟩

theorem Laws.RoundTrip.swarmSample (tab : Nat) : Laws.RoundTrip.Statement (.swarmSample tab) :=
  ⟨fun k h => absurd h.symm (Option.some_ne_none k), fun h => absurd h Bool.false_ne_true⟩

theorem Laws.RoundTrip.replicaCopyDone (sw : Nat) : Laws.RoundTrip.Statement (.replicaCopyDone sw) :=
  ⟨fun k h => absurd h.symm (Option.some_ne_none k), fun h => absurd h Bool.false_ne_true⟩

theorem Laws.RoundTrip.replicaCopyStop (sw : Nat) : Laws.RoundTrip.Statement (.replicaCopyStop sw) :=
  ⟨fun k h => absurd h.symm (Option.some_ne_none k), fun h => absurd h Bool.false_ne_true⟩

theorem Laws.RoundTrip.redirection (sw : Nat) : Laws.RoundTrip.Statement (.redirection sw) :=
  ⟨fun k h => absurd h.symm (Option.some_ne_none k), fun h => absurd h Bool.false_ne_true⟩

theorem Laws.RoundTrip.replicaLoss (tab : Nat) (e : Nat) (r : Nat) : Laws.RoundTrip.Statement (.replicaLoss tab e r) :=
  ⟨fun k h => absurd h.symm (Option.some_ne_none k), fun h => absurd h Bool.false_ne_true⟩

theorem Laws.RoundTrip.replica0Loss (tab : Nat) (e : Nat) : Laws.RoundTrip.Statement (.replica0Loss tab e) :=
  ⟨fun k h => absurd h.symm (Option.some_ne_none k), fun h => absurd h Bool.false_ne_true⟩

theorem Laws.RoundTrip.gradientMerge (tab : Nat) : Laws.RoundTrip.Statement (.gradientMerge tab) :=
  ⟨fun k h => absurd h.symm (Option.some_ne_none k), fun h => absurd h Bool.false_ne_true⟩

theorem Laws.RoundTrip.waggleLaunch (k : Nat) : Laws.RoundTrip.Statement (.waggleLaunch k) :=
  ⟨fun k h => absurd h.symm (Option.some_ne_none k), fun h => absurd h Bool.false_ne_true⟩

theorem Laws.RoundTrip.signatureAgreement (k : Nat) : Laws.RoundTrip.Statement (.signatureAgreement k) :=
  ⟨fun k h => absurd h.symm (Option.some_ne_none k), fun h => absurd h Bool.false_ne_true⟩

theorem Laws.RoundTrip.wsend (f : WP) : Laws.RoundTrip.Statement (.wsend f) := by
  refine ⟨fun k h => absurd h.symm (Option.some_ne_none k), fun _ hw => ?_⟩
  show decodeStep (WP.word 1 f) = _
  simp only [decodeStep, WP.op_word, WP.of_word, WP.zeros_word]
  simp [hw]

theorem Laws.RoundTrip.wrecv (f : WP) : Laws.RoundTrip.Statement (.wrecv f) := by
  refine ⟨fun k h => absurd h.symm (Option.some_ne_none k), fun _ hw => ?_⟩
  show decodeStep (WP.word 2 f) = _
  simp only [decodeStep, WP.op_word, WP.of_word, WP.zeros_word]
  simp [hw]

theorem Laws.RoundTrip.wrrs (f : WR) : Laws.RoundTrip.Statement (.wrrs f) := by
  refine ⟨fun k h => absurd h.symm (Option.some_ne_none k), fun _ hw => ?_⟩
  show decodeStep (WR.word 3 f) = _
  simp only [decodeStep, WR.op_word, WR.of_word, WR.zeros_word]
  simp [hw]

theorem Laws.RoundTrip.wcopy (f : WC) : Laws.RoundTrip.Statement (.wcopy f) := by
  refine ⟨fun k h => absurd h.symm (Option.some_ne_none k), fun _ hw => ?_⟩
  show decodeStep (WC.word 4 f) = _
  simp only [decodeStep, WC.op_word, WC.of_word, WC.zeros_word]
  simp [hw]

theorem Laws.RoundTrip.wwait (thr : BitVec 48) : Laws.RoundTrip.Statement (.wwait thr) := by
  refine ⟨fun k h => absurd h.symm (Option.some_ne_none k), fun _ hw => ?_⟩
  have h0 : ((5#8 ++ 0#8 ++ thr : BitVec 64)).extractLsb' 56 8 = 5#8 := by
    simp (disch := decide) only [extract_high, extract_low, extract_all, Nat.reduceSub]
  have h1 : ((5#8 ++ 0#8 ++ thr : BitVec 64)).extractLsb' 48 8 = 0#8 := by
    simp (disch := decide) only [extract_high, extract_low, extract_all, Nat.reduceSub]
  have h2 : ((5#8 ++ 0#8 ++ thr : BitVec 64)).extractLsb' 0 48 = thr := by
    simp (disch := decide) only [extract_high, extract_low, extract_all, Nat.reduceSub]
  show decodeStep (5#8 ++ 0#8 ++ thr : BitVec 64) = _
  simp only [decodeStep, h0, h1, h2]
  simp [hw]

theorem Laws.RoundTrip.wsig (n : BitVec 20) : Laws.RoundTrip.Statement (.wsig n) := by
  refine ⟨fun k h => absurd h.symm (Option.some_ne_none k), fun _ hw => ?_⟩
  have h0 : ((6#8 ++ 0#36 ++ n : BitVec 64)).extractLsb' 56 8 = 6#8 := by
    simp (disch := decide) only [extract_high, extract_low, extract_all, Nat.reduceSub]
  have h1 : ((6#8 ++ 0#36 ++ n : BitVec 64)).extractLsb' 20 36 = 0#36 := by
    simp (disch := decide) only [extract_high, extract_low, extract_all, Nat.reduceSub]
  have h2 : ((6#8 ++ 0#36 ++ n : BitVec 64)).extractLsb' 0 20 = n := by
    simp (disch := decide) only [extract_high, extract_low, extract_all, Nat.reduceSub]
  show decodeStep (6#8 ++ 0#36 ++ n : BitVec 64) = _
  simp only [decodeStep, h0, h1, h2]
  simp [hw]

theorem Laws.RoundTrip.wloop (cnt : BitVec 32) : Laws.RoundTrip.Statement (.wloop cnt) := by
  refine ⟨fun k h => absurd h.symm (Option.some_ne_none k), fun _ hw => ?_⟩
  have h0 : ((7#8 ++ 0#24 ++ cnt : BitVec 64)).extractLsb' 56 8 = 7#8 := by
    simp (disch := decide) only [extract_high, extract_low, extract_all, Nat.reduceSub]
  have h1 : ((7#8 ++ 0#24 ++ cnt : BitVec 64)).extractLsb' 32 24 = 0#24 := by
    simp (disch := decide) only [extract_high, extract_low, extract_all, Nat.reduceSub]
  have h2 : ((7#8 ++ 0#24 ++ cnt : BitVec 64)).extractLsb' 0 32 = cnt := by
    simp (disch := decide) only [extract_high, extract_low, extract_all, Nat.reduceSub]
  show decodeStep (7#8 ++ 0#24 ++ cnt : BitVec 64) = _
  simp only [decodeStep, h0, h1, h2]
  simp [hw]

theorem Laws.RoundTrip.wendl : Laws.RoundTrip.Statement .wendl := by
  refine ⟨fun k h => absurd h.symm (Option.some_ne_none k), fun _ hw => ?_⟩
  decide

theorem Laws.RoundTrip.wagree (buf : BitVec 2) (off : BitVec 32) : Laws.RoundTrip.Statement (.wagree buf off) := by
  refine ⟨fun k h => absurd h.symm (Option.some_ne_none k), fun _ hw => ?_⟩
  have h0 : ((9#8 ++ buf ++ 0#22 ++ off : BitVec 64)).extractLsb' 56 8 = 9#8 := by
    simp (disch := decide) only [extract_high, extract_low, extract_all, Nat.reduceSub]
  have h1 : ((9#8 ++ buf ++ 0#22 ++ off : BitVec 64)).extractLsb' 32 22 = 0#22 := by
    simp (disch := decide) only [extract_high, extract_low, extract_all, Nat.reduceSub]
  have h2 : ((9#8 ++ buf ++ 0#22 ++ off : BitVec 64)).extractLsb' 54 2 = buf := by
    simp (disch := decide) only [extract_high, extract_low, extract_all, Nat.reduceSub]
  have h3 : ((9#8 ++ buf ++ 0#22 ++ off : BitVec 64)).extractLsb' 0 32 = off := by
    simp (disch := decide) only [extract_high, extract_low, extract_all, Nat.reduceSub]
  show decodeStep (9#8 ++ buf ++ 0#22 ++ off : BitVec 64) = _
  simp only [decodeStep, h0, h1, h2, h3]
  simp [hw]

theorem Laws.RoundTrip.wflags : Laws.RoundTrip.Statement .wflags := by
  refine ⟨fun k h => absurd h.symm (Option.some_ne_none k), fun _ hw => ?_⟩
  decide

theorem Laws.RoundTrip.wend : Laws.RoundTrip.Statement .wend := by
  refine ⟨fun k h => absurd h.symm (Option.some_ne_none k), fun _ hw => ?_⟩
  decide

theorem Laws.RoundTrip.chunkArrival (m : ChunkMsg) : Laws.RoundTrip.Statement (.chunkArrival m) :=
  ⟨fun k h => absurd h.symm (Option.some_ne_none k), fun h => absurd h Bool.false_ne_true⟩

theorem Laws.RoundTrip.switchSlotLoss (k : Nat) (inst : Nat) (chunk : Nat) : Laws.RoundTrip.Statement (.switchSlotLoss k inst chunk) :=
  ⟨fun k h => absurd h.symm (Option.some_ne_none k), fun h => absurd h Bool.false_ne_true⟩

theorem Laws.RoundTrip.waggleAbort (tag : Nat) (launch : Nat) (poison : Bool) : Laws.RoundTrip.Statement (.waggleAbort tag launch poison) :=
  ⟨fun k h => absurd h.symm (Option.some_ne_none k), fun h => absurd h Bool.false_ne_true⟩

theorem Laws.RoundTrip.glodricMessage (m : GMsg) : Laws.RoundTrip.Statement (.glodricMessage m) :=
  ⟨fun k h => absurd h.symm (Option.some_ne_none k), fun h => absurd h Bool.false_ne_true⟩

theorem Laws.RoundTrip.glodricPortWithdrawn (p : Nat) : Laws.RoundTrip.Statement (.glodricPortWithdrawn p) :=
  ⟨fun k h => absurd h.symm (Option.some_ne_none k), fun h => absurd h Bool.false_ne_true⟩

theorem Laws.RoundTrip.destinationTimeout (m : BitVec 17) : Laws.RoundTrip.Statement (.destinationTimeout m) :=
  ⟨fun k h => absurd h.symm (Option.some_ne_none k), fun h => absurd h Bool.false_ne_true⟩

theorem Laws.RoundTrip.linkWithdrawn (bit : Nat) : Laws.RoundTrip.Statement (.linkWithdrawn bit) :=
  ⟨fun k h => absurd h.symm (Option.some_ne_none k), fun h => absurd h Bool.false_ne_true⟩

theorem Laws.RoundTrip.bisnpinv (line : Nat) : Laws.RoundTrip.Statement (.bisnpinv line) :=
  ⟨fun k h => absurd h.symm (Option.some_ne_none k), fun h => absurd h Bool.false_ne_true⟩

theorem Laws.RoundTrip.bisnpdata (line : Nat) : Laws.RoundTrip.Statement (.bisnpdata line) :=
  ⟨fun k h => absurd h.symm (Option.some_ne_none k), fun h => absurd h Bool.false_ne_true⟩

theorem Laws.RoundTrip.bisnpcur (line : Nat) : Laws.RoundTrip.Statement (.bisnpcur line) :=
  ⟨fun k h => absurd h.symm (Option.some_ne_none k), fun h => absurd h Bool.false_ne_true⟩

theorem Laws.RoundTrip.snoopPinTimeout (line : Nat) : Laws.RoundTrip.Statement (.snoopPinTimeout line) :=
  ⟨fun k h => absurd h.symm (Option.some_ne_none k), fun h => absurd h Bool.false_ne_true⟩

theorem Laws.RoundTrip.memrdCompletion (line : Nat) (r : PoolReply) : Laws.RoundTrip.Statement (.memrdCompletion line r) :=
  ⟨fun k h => absurd h.symm (Option.some_ne_none k), fun h => absurd h Bool.false_ne_true⟩

theorem Laws.RoundTrip.memwrCompletion (line : Nat) (refused : Bool) : Laws.RoundTrip.Statement (.memwrCompletion line refused) :=
  ⟨fun k h => absurd h.symm (Option.some_ne_none k), fun h => absurd h Bool.false_ne_true⟩

theorem Laws.RoundTrip.cxlPortDown (p : Nat) : Laws.RoundTrip.Statement (.cxlPortDown p) :=
  ⟨fun k h => absurd h.symm (Option.some_ne_none k), fun h => absurd h Bool.false_ne_true⟩

theorem Laws.RoundTrip.linePoisoned (line : Nat) : Laws.RoundTrip.Statement (.linePoisoned line) :=
  ⟨fun k h => absurd h.symm (Option.some_ne_none k), fun h => absurd h Bool.false_ne_true⟩

theorem Laws.RoundTrip.combSramError (home : Nat) : Laws.RoundTrip.Statement (.combSramError home) :=
  ⟨fun k h => absurd h.symm (Option.some_ne_none k), fun h => absurd h Bool.false_ne_true⟩

theorem Laws.RoundTrip.inboundWrite (link : Nat) (off : BitVec 36) (data : List Byte) : Laws.RoundTrip.Statement (.inboundWrite link off data) :=
  ⟨fun k h => absurd h.symm (Option.some_ne_none k), fun h => absurd h Bool.false_ne_true⟩

theorem Laws.RoundTrip.bar2Read (link : Nat) (off : BitVec 36) (n : Nat) : Laws.RoundTrip.Statement (.bar2Read link off n) :=
  ⟨fun k h => absurd h.symm (Option.some_ne_none k), fun h => absurd h Bool.false_ne_true⟩

theorem Laws.RoundTrip.hostCounterAdd (amt : BitVec 32) (fl : BitVec 32) : Laws.RoundTrip.Statement (.hostCounterAdd amt fl) :=
  ⟨fun k h => absurd h.symm (Option.some_ne_none k), fun h => absurd h Bool.false_ne_true⟩

theorem Laws.RoundTrip.invalidation (d : BitVec 256) : Laws.RoundTrip.Statement (.invalidation d) :=
  ⟨fun k h => absurd h.symm (Option.some_ne_none k), fun h => absurd h Bool.false_ne_true⟩

theorem Laws.RoundTrip.invalidationDone (ctr : Nat) : Laws.RoundTrip.Statement (.invalidationDone ctr) :=
  ⟨fun k h => absurd h.symm (Option.some_ne_none k), fun h => absurd h Bool.false_ne_true⟩

theorem Laws.RoundTrip.pageLock (d : BitVec 128) : Laws.RoundTrip.Statement (.pageLock d) :=
  ⟨fun k h => absurd h.symm (Option.some_ne_none k), fun h => absurd h Bool.false_ne_true⟩

theorem Laws.RoundTrip.pageUnlock (d : BitVec 128) : Laws.RoundTrip.Statement (.pageUnlock d) :=
  ⟨fun k h => absurd h.symm (Option.some_ne_none k), fun h => absurd h Bool.false_ne_true⟩

theorem Laws.RoundTrip.lockDone (ctr : Nat) : Laws.RoundTrip.Statement (.lockDone ctr) :=
  ⟨fun k h => absurd h.symm (Option.some_ne_none k), fun h => absurd h Bool.false_ne_true⟩

theorem Laws.RoundTrip.counterWatch (i : Nat) (w : Word) : Laws.RoundTrip.Statement (.counterWatch i w) :=
  ⟨fun k h => absurd h.symm (Option.some_ne_none k), fun h => absurd h Bool.false_ne_true⟩

theorem Laws.RoundTrip.registerWrite (off : BitVec 16) (w : Word) : Laws.RoundTrip.Statement (.registerWrite off w) :=
  ⟨fun k h => absurd h.symm (Option.some_ne_none k), fun h => absurd h Bool.false_ne_true⟩

theorem Laws.RoundTrip.warmReset : Laws.RoundTrip.Statement .warmReset :=
  ⟨fun k h => absurd h.symm (Option.some_ne_none k), fun h => absurd h Bool.false_ne_true⟩

theorem Laws.RoundTrip.coldReset : Laws.RoundTrip.Statement .coldReset :=
  ⟨fun k h => absurd h.symm (Option.some_ne_none k), fun h => absurd h Bool.false_ne_true⟩

theorem Laws.RoundTrip.abavasTakeover : Laws.RoundTrip.Statement .abavasTakeover :=
  ⟨fun k h => absurd h.symm (Option.some_ne_none k), fun h => absurd h Bool.false_ne_true⟩

theorem Laws.RoundTrip.throttling : Laws.RoundTrip.Statement .throttling :=
  ⟨fun k h => absurd h.symm (Option.some_ne_none k), fun h => absurd h Bool.false_ne_true⟩

theorem Laws.RoundTrip.getVersion : Laws.RoundTrip.Statement .getVersion :=
  ⟨fun k h => absurd h.symm (Option.some_ne_none k), fun h => absurd h Bool.false_ne_true⟩

theorem Laws.RoundTrip.getCapabilities : Laws.RoundTrip.Statement .getCapabilities :=
  ⟨fun k h => absurd h.symm (Option.some_ne_none k), fun h => absurd h Bool.false_ne_true⟩

theorem Laws.RoundTrip.negotiateAlgorithms (algs : BitVec 64) : Laws.RoundTrip.Statement (.negotiateAlgorithms algs) :=
  ⟨fun k h => absurd h.symm (Option.some_ne_none k), fun h => absurd h Bool.false_ne_true⟩

theorem Laws.RoundTrip.getDigests : Laws.RoundTrip.Statement .getDigests :=
  ⟨fun k h => absurd h.symm (Option.some_ne_none k), fun h => absurd h Bool.false_ne_true⟩

theorem Laws.RoundTrip.getCertificate (slot : BitVec 8) (off : BitVec 16) (len : BitVec 16) : Laws.RoundTrip.Statement (.getCertificate slot off len) :=
  ⟨fun k h => absurd h.symm (Option.some_ne_none k), fun h => absurd h Bool.false_ne_true⟩

theorem Laws.RoundTrip.challenge (slot : BitVec 8) (nonce : BitVec 256) : Laws.RoundTrip.Statement (.challenge slot nonce) :=
  ⟨fun k h => absurd h.symm (Option.some_ne_none k), fun h => absurd h Bool.false_ne_true⟩

theorem Laws.RoundTrip.getMeasurements (idx : BitVec 8) : Laws.RoundTrip.Statement (.getMeasurements idx) :=
  ⟨fun k h => absurd h.symm (Option.some_ne_none k), fun h => absurd h Bool.false_ne_true⟩

theorem Laws.RoundTrip.dbgctlWrite (c : CoreId) (w : Word) : Laws.RoundTrip.Statement (.dbgctlWrite c w) :=
  ⟨fun k h => absurd h.symm (Option.some_ne_none k), fun h => absurd h Bool.false_ne_true⟩

theorem Laws.RoundTrip.domainTableWrite (t : DomainTable) : Laws.RoundTrip.Statement (.domainTableWrite t) :=
  ⟨fun k h => absurd h.symm (Option.some_ne_none k), fun h => absurd h Bool.false_ne_true⟩

theorem Laws.RoundTrip.cxlPortReturnToService (p : Nat) : Laws.RoundTrip.Statement (.cxlPortReturnToService p) :=
  ⟨fun k h => absurd h.symm (Option.some_ne_none k), fun h => absurd h Bool.false_ne_true⟩

theorem Laws.RoundTrip.throttlingEnd : Laws.RoundTrip.Statement .throttlingEnd :=
  ⟨fun k h => absurd h.symm (Option.some_ne_none k), fun h => absurd h Bool.false_ne_true⟩

theorem Laws.RoundTrip.abavasMailboxMessage (m : Word) : Laws.RoundTrip.Statement (.abavasMailboxMessage m) :=
  ⟨fun k h => absurd h.symm (Option.some_ne_none k), fun h => absurd h Bool.false_ne_true⟩

theorem Laws.RoundTrip.meminvCompletion (line : Nat) : Laws.RoundTrip.Statement (.meminvCompletion line) :=
  ⟨fun k h => absurd h.symm (Option.some_ne_none k), fun h => absurd h Bool.false_ne_true⟩

end Sys2Proof
end

