-- ==== Sys2Proof/Machine/Debug.lean ====
section
/-! DEFINITION. What the debug interface reports of a strand that the debugger has stopped (01 R42). -/

namespace Sys2Proof.Machine

/-- The destination of a pending write: a scalar or handle register, a row of a bank, a port by its index. -/
inductive DbgDest where
  | sreg (r : BitVec 5)
  | handle (h : BitVec 4)
  | row (bank row : Nat)
  | port (p : Nat)
deriving DecidableEq, Repr

/-- A pending write: DEST; VALUE as bytes, none for "empty"; REMAIN; CLASS, none for VL. -/
structure DbgWrite where
  dest : DbgDest
  value : Option (List Byte)
  remain : Nat
  cls : Option Nat
deriving DecidableEq, Repr

/-- The kind of a held piece. -/
inductive DbgKind where
  | store | cadd | cflg | cceil | atomic | copy | barr | tm | spawn | route | wgl | wglk | hist
deriving DecidableEq, Repr

/-- A bank's status (07 R173): LIVE, MODE, LENT, and BORR. -/
structure DbgBank where
  live : Bool
  mode : Nat
  lent : Bool
  borr : Nat
deriving DecidableEq, Repr

/-- The report: with the pending writes and held pieces, the handler checkpoint (01 R39) and the banks' status (07 R173). -/
structure DbgReport where
  writes : List DbgWrite
  holdcnt : Nat
  held : List (DbgKind × Word)
  hckpt : BPc
  banks : List DbgBank
deriving DecidableEq, Repr

/-- Strand cycles until a result lands that is due at a strand cycle; 0 for one held only by interlock. A second latency stage
(06 R149) counts with the first. -/
def remainOf (t : Strand) (due : Option Nat) (next : Option (Nat × Nat)) : Nat :=
  (match due with | some d => d - t.cyc | none => 0) + (match next with | some (b, _) => b | none => 0)

/-- The report of a pending exposed-latency write. Scratchpad writes of a store name no register. -/
def dbgPend (t : Strand) (p : Pend) : Option DbgWrite :=
  let mk (d : DbgDest) (v : List Byte) : Option DbgWrite := some ⟨d, some v, remainOf t p.due p.next, some p.cls⟩
  match p.act with
  | .sreg r v => mk (.sreg r) (natBytes 8 v.toNat)
  | .hfield h _ w v => mk (.handle h) (natBytes ((w + 7) / 8) v)
  | .spad (some k) bs _ => mk (.port k) (bs.map (·.2))
  | _ => none

/-- The report of an outstanding variable-latency result: it lands as it arrives, so while it is outstanding its value is empty. -/
def dbgVl (v : VRes) : DbgWrite := ⟨match v.dst with | .sreg r => .sreg r | .handle h => .handle h, none, 0, none⟩

/-- The first row that a queued operation writes, how many rows, and its class: LC4 and LC5 on the accumulator path (06 R149), LC7 for the
engine's own operations. R42 names no class for those but `mop` and `mmac` (DESIGN CHOICE, log entry 134). -/
def EOp.rows : EOp → Option (Nat × Nat × Nat × Nat)
  | .rowMov bk _ row _ => some (bk, row, 1, 4)
  | .rowZero bk _ row => some (bk, row, 1, 4)
  | .rowAdd bk _ row xs => some (bk, row, (xs.length + 15) / 16, 5)
  | .rowNorm bk row => some (bk, row / 4 * 4, 4, 5)
  | .rank1 _ _ bk .. => some (bk, 0, 16, 7)
  | .zero bk => some (bk, 0, 16, 7)
  | .cfg bk _ => some (bk, 0, 16, 7)
  | .load bk _ _ => some (bk, 0, 16, 7)
  | .save bk .. => some (bk, 0, 16, 7)
  | .realn bk .. => some (bk, 0, 16, 7)
  | .drain bk _ _ _ _ _ _ _ _ keep => if keep then none else some (bk, 0, 16, 7)
  | .lend _ => none
  | .recl _ => none

/-- The bytes of a row of a bank. -/
def rowBytesOf (c : Core) (bk row : Nat) : List Byte := (((bankWords c bk).drop (16 * row)).take 16).flatMap (natBytes 4)

/-- The reports of the operations that the engine has queued, each with the rows as the operations up to it leave them. -/
def dbgRows (s : State) : List MOp → List DbgWrite
  | [] => []
  | o :: t =>
    let s := runEOp o s
    (match o.op.rows with
    | some (bk, row, n, cls) => (List.range n).map fun k =>
        ⟨.row bk (row + k), some (rowBytesOf s.core bk (row + k)), 0, some cls⟩
    | none => []) ++ dbgRows s t

/-- The reports of what the spline array has queued: a count (08 R208) with the value that the operations before it leave, the row of an
evaluation (08 R202, R203) as that leaves it. -/
def dbgSpline (s : State) : List SQOp → List DbgWrite
  | [] => []
  | o :: t =>
    let c := s.core
    let s := runSOp o s
    (match o.op with
    | .cnt rd above _ d => [⟨.sreg rd, some (natBytes 8 (if above then c.above else c.below)), remainOf c.st d none, some 9⟩]
    | .ev bank row .. => [⟨.row bank row, some (rowBytesOf s.core bank row), 0, some 9⟩]
    | .bwd bank row .. => [⟨.row bank row, some (rowBytesOf s.core bank row), 0, some 9⟩]
    | _ => []) ++ dbgSpline s t

/-- The rows of the banks that the copy engine is filling (13 R311): their words have not all arrived. -/
def dbgLoads (s : State) : List DbgWrite :=
  (s.loads.filter fun l => l.core == s.core.id).flatMap fun l => (List.range 16).map fun r => ⟨.row l.bk r, none, 0, none⟩

/-- The kind and the target address of a held piece: its virtual address where it holds one, the physical one else; for a launch, its
destination; for an arrival, its segment; for a kill, its tag. -/
def dbgHeld : Held → DbgKind × Word
  | .store _ va _ _ _ => (.store, va)
  | .cadd _ va _ => (.cadd, va)
  | .cflg pa _ => (.cflg, word pa)
  | .cceil _ va _ => (.cceil, va)
  | .atomic _ pa _ _ _ _ _ _ => (.atomic, word pa)
  | .copy l => (.copy, l.dst)
  | .barr seg => (.barr, word seg)
  | .tm pa _ _ _ _ _ => (.tm, word pa)
  | .spawn rcb _ => (.spawn, rcb)
  | .route tab _ _ _ _ _ => (.route, tab)
  | .wgl va => (.wgl, va)
  | .wglk tag => (.wglk, word tag)
  | .hist pa _ => (.hist, word pa)

/-- The debug report of the focused core, while its strand is stopped. -/
def debugReport (s : State) : Option DbgReport :=
  let c := s.core
  if !c.dstop then none
  else some {
    writes := c.st.pend.filterMap (dbgPend c.st) ++ (c.st.vls.filter (·.keep)).map dbgVl ++ dbgRows s c.mq ++ dbgSpline s c.sq ++
      dbgLoads s
    holdcnt := c.held.length
    held := c.held.map dbgHeld
    hckpt := c.st.hckpt
    banks := c.banks.toList.map fun b => ⟨b.live, b2n b.block, b.lent, b2n b.toCopy⟩ }

end Sys2Proof.Machine
end

