-- ==== Sys2Proof/Tests/Slice0.lean ====
section
/-! SUPPORT. Tests: words of each family written out from the spec's encodings, an ill-formed term for each check of `WellFormed`, single steps with
results worked out by hand from the spec, and for every statement with hypotheses concrete states and operands that meet them. -/

set_option linter.unusedVariables false
set_option Elab.async false

namespace Sys2Proof.Tests

open Sys2Proof.Machine

/-! ### Decoding: syllables and steps written out from the spec's encodings (02 R54-R61 and the opcode rows of each family) -/

theorem test_decode_scalar : decodeSyl 0 0x0100420C00000000 = .instr (.add ⟨1, 2, 3, 0⟩) ∧
    decodeSyl 0 0x1801450000000001 = .instr (.addi ⟨5, 5, 1⟩) ∧
    decodeSyl 0 0x1F013FFFFFFFFFFD = .instr (.movi ⟨4, 0x3FFFFFFFFFFD⟩) := by decide +kernel

theorem test_decode_control : decodeSyl 0 0x300101FFFFFFFFFE = .instr (.br ⟨4, 0x1FFFFFFFFFE⟩) ∧
    decodeSyl 0 0x3500000000200002 = .instr (.loopi ⟨2, 2⟩) ∧
    decodeSyl 0 0x3800000000000042 = .instr (.trap ⟨0, 0, 0x42⟩) := by decide +kernel

theorem test_decode_system : decodeSyl 0 0x480100D000000000 = .instr (.sysrd ⟨4, 13, 0⟩) ∧
    decodeSyl 0 0x4102411000000000 = .instr (.spst ⟨9, 17, 0⟩) := by decide +kernel

theorem test_decode_handles_and_ports : decodeSyl 0 0x5201CC0500000000 = .instr (.hset ⟨7, 3, 0, 5, 0⟩) ∧
    decodeSyl 0 0x530080C100000000 = .instr (.hget ⟨2, 0, 3, 1, 0⟩) ∧
    decodeSyl 0 0x5901E40300000000 = .instr (.pset ⟨7, 9, 0, 3, 0⟩) := by decide +kernel

theorem test_decode_vector : decodeSyl 1 0x0110001000000000 = .instr (.vadd ⟨false, 16, 0, 1, 0, 0, 0, 0, 0⟩) ∧
    decodeSyl 1 0x2011001080800300 = .instr (.vcvt ⟨false, 0x11, 0, 1, 2, 0, 2, 0, 3⟩) ∧
    decodeSyl 2 0x0410269040000000 = .instr (.vfma ⟨true, 16, 9, 41, 1, 0, 0, 0, 0⟩) := by decide +kernel

theorem test_decode_matrix : decodeSyl 3 0x0100004020000000 = .instr (.mop ⟨0, 0, 0, 1, 0, 2, 0, 0, 0⟩) ∧
    decodeSyl 3 0x0240004020000000 = .instr (.mmac ⟨2, 0, 0, 1, 0, 2, 0, 0, 0⟩) ∧
    decodeSyl 3 0x0500000502000000 = .instr (.mdrain ⟨0, 0, 0, 0, 5, 0, 2, 0, 0⟩) ∧
    decodeSyl 3 0x0820000000000000 = .instr (.mlend ⟨1, 0, 0, 0, 0, 0, 0, 0, 0⟩) := by decide +kernel

theorem test_decode_spline : decodeSyl 3 0x1400200000001300 = .instr (.splev ⟨0, 0, 2, 0, 0, 0, 0, 0, 19⟩) ∧
    decodeSyl 3 0x1004000600000000 = .instr (.knset ⟨0, 1, 0, 0, 6, 0, 0, 0, 0⟩) ∧
    decodeSyl 3 0x1600004000000000 = .instr (.splgs ⟨0, 0, 0, 1, 0, 0, 0, 0, 0⟩) := by decide +kernel

theorem test_decode_loads_and_stores : decodeSyl 4 0x0105187000C00010 = .instr (.ld ⟨5, 6, 7, 0, 0, 0, 0, 3, 16⟩) ∧
    decodeSyl 4 0x0300000120000400 = .instr (.gld ⟨0, 0, 0, 1, 2, 0, 0, 0, 0x400⟩) ∧
    decodeSyl 5 0x03080C4200000000 = .instr (.gst ⟨8, 3, 4, 2, 0, 0, 0, 0, 0⟩) ∧
    decodeSyl 5 0x0601180002000040 = .instr (.wmc ⟨1, 6, 0, 0, 0, 0, 2, 0, 64⟩) := by decide +kernel

theorem test_decode_copies : decodeSyl 6 0x0110518700000001 = .instr (.cpy ⟨4, 5, 6, 7, 0, 0, 1⟩) ∧
    decodeSyl 6 0x0610518700200001 = .instr (.cpyr ⟨4, 5, 6, 7, 0, 2, 1⟩) := by decide +kernel

theorem test_decode_counters_and_barriers : decodeSyl 7 0x0110500000000000 = .instr (.cadd ⟨4, 5, 0, 0, 0, 0, 0, 0, 0⟩) ∧
    decodeSyl 7 0x0310518004000000 = .instr (.cwait ⟨4, 5, 6, 0, 0, 0, 1, 0, 0⟩) ∧
    decodeSyl 7 0x0539100000000000 = .instr (.cflg ⟨14, 17, 0, 0, 0, 0, 0, 0, 0⟩) ∧
    decodeSyl 7 0x1014000008000000 = .instr (.barr ⟨5, 0, 0, 0, 0, 1, 0, 0, 0⟩) ∧
    decodeSyl 7 0x1114000008000000 = .instr (.bwait ⟨5, 0, 0, 0, 0, 1, 0, 0, 0⟩) := by decide +kernel

theorem test_decode_records_and_tasks : decodeSyl 7 0x1810000020000001 = .instr (.tmopn ⟨4, 0, 0, 0, 2, 0, 0, 0, 1⟩) ∧
    decodeSyl 7 0x1A00018020000000 = .instr (.tmgov ⟨0, 0, 6, 0, 2, 0, 0, 0, 0⟩) ∧
    decodeSyl 7 0x1B00700020200000 = .instr (.tmset ⟨0, 7, 0, 0, 2, 0, 0, 2, 0⟩) ∧
    decodeSyl 7 0x2010500000000000 = .instr (.spawn ⟨4, 5, 0, 0, 0, 0, 0, 0, 0⟩) ∧
    decodeSyl 7 0x2100000000000000 = .instr .yield := by decide +kernel

theorem test_decode_swarm : decodeSyl 7 0x2810518700000001 = .instr (.route ⟨4, 5, 6, 7, 0, 0, 0, 0, 1⟩) ∧
    decodeSyl 7 0x2910620000000000 = .instr (.rtver ⟨4, 6, 8, 0, 0, 0, 0, 0, 0⟩) := by decide +kernel

theorem test_decode_steps : decodeStep 0x0140000440000000 = some (.wsend ⟨1, 0, 1, 0, 1, 0⟩) ∧
    decodeStep 0x0314000000000000 = some (.wrrs ⟨0, 1, 1, 0⟩) ∧ decodeStep 0x0980000000000000 = some (.wagree 2 0) ∧
    decodeStep 0x0A00000000000000 = some .wflags ∧ decodeStep 0x0B00000000000000 = some .wend := by decide +kernel

/-- Opcodes without an instruction, a reserved bit set, and a syllable in a slot that has no such opcode are illegal. -/
theorem test_decode_rejects : decodeSyl 0 0xFF00000000000000 = .illegal ∧ decodeSyl 0 0x0100420C00000001 = .illegal ∧
    decodeSyl 7 0x7F00000000000000 = .illegal ∧ decodeStep 0x0C00000000000000 = none ∧
    decodeStep 0x0B00000000000001 = none := by decide +kernel

/-! ### Well-formedness: for each check an ill-formed term that it refuses, beside a well-formed one that it passes -/

theorem test_wf_three_registers : let b : SR := ⟨1, 2, 3, 0⟩
    (Instr.add b).wf = true ∧ ([{ b with rd := 32 }, { b with rc := 1 }].all fun (b : SR) => !(Instr.add b).wf) = true := by decide

theorem test_wf_scalar : ([.clz ⟨1, 2, 0, 0⟩, .sel ⟨1, 2, 3, 4⟩, .shli ⟨1, 2, 63⟩, .movhi ⟨1, 2, 5⟩, .ext ⟨1, 2, 60, 4⟩, .ins ⟨1, 2, 0,
    64⟩, .lea ⟨1, 2, 3, 0, 0⟩].all fun (i : Instr) => i.wf) = true ∧
    ([.clz ⟨1, 2, 1, 0⟩, .popc ⟨32, 2, 0, 0⟩, .sel ⟨32, 2, 3, 4⟩, .addi ⟨32, 2, 0⟩, .shli ⟨1, 2, 64⟩, .sari ⟨32, 2, 0⟩, .movi ⟨32, 0⟩,
    .movhi ⟨1, 2, 0x100000000⟩, .ext ⟨1, 2, 60, 5⟩, .ext ⟨1, 2, 0, 0⟩, .ins ⟨32, 2, 0, 1⟩, .lea ⟨32, 2, 3, 0,
    0⟩].all fun (i : Instr) => !i.wf) = true := by decide

theorem test_wf_control_and_system : ([.jmp ⟨0, 1⟩, .jr ⟨1, 0, 0⟩, .loop ⟨1, 1⟩, .lidx ⟨1, 5, 0⟩, .trap ⟨0, 0, 255⟩, .spld ⟨1, 511, 0⟩,
    .spst ⟨33, 0, 0⟩, .sysrd ⟨1, 15, 0⟩, .capq ⟨1, 13, 0⟩].all fun (i : Instr) => i.wf) = true ∧
    ([.jmp ⟨1, 1⟩, .call ⟨1, 1⟩, .jr ⟨1, 1, 0⟩, .jr ⟨1, 0, 1⟩, .loop ⟨1, 0⟩, .loopi ⟨1, 0⟩, .lidx ⟨32, 5, 0⟩, .lidx ⟨1, 6, 0⟩, .lidx ⟨1,
    5, 1⟩, .trap ⟨1, 0, 0⟩, .trap ⟨0, 1, 0⟩, .spld ⟨32, 0, 0⟩, .spld ⟨1, 512, 0⟩, .spst ⟨1, 512, 0⟩, .spst ⟨1, 0, 1⟩, .sysrd ⟨1, 16, 0⟩,
    .sysrd ⟨32, 1, 0⟩, .syswr ⟨1, 16, 0⟩, .syswr ⟨1, 0, 1⟩, .capq ⟨1, 14, 0⟩].all fun (i : Instr) => !i.wf) = true := by decide

theorem test_wf_handles_and_ports : ([.hld ⟨1, 2, 0, 0, 8⟩, .hset ⟨7, 3, 0, 11, 0⟩, .pcfg ⟨1, 8, 0, 0, 0⟩, .pget ⟨1, 5, 0, 15,
    0⟩].all fun (i : Instr) => i.wf) = true ∧
    ([.hld ⟨1, 2, 1, 0, 8⟩, .hst ⟨1, 1, 2, 0, 8⟩, .hset ⟨7, 3, 0, 12, 0⟩, .hset ⟨7, 3, 1, 0, 0⟩, .hset ⟨7, 3, 0, 0, 1⟩, .hget ⟨32, 0, 3,
    1, 0⟩, .hget ⟨1, 1, 3, 1, 0⟩, .hmov ⟨1, 1, 2, 0, 0⟩, .hmov ⟨0, 1, 2, 1, 0⟩, .pcfg ⟨1, 6, 0, 0, 0⟩, .pcfg ⟨1, 8, 1, 0, 0⟩, .pset ⟨1,
    12, 0, 0, 0⟩, .pset ⟨1, 8, 0, 16, 0⟩, .pset ⟨1, 8, 0, 0, 1⟩, .pget ⟨33, 8, 0, 0, 0⟩, .pget ⟨1, 7, 0, 0,
    0⟩].all fun (i : Instr) => !i.wf) = true := by decide

theorem test_wf_vector_two : let b : VF := ⟨true, 16, 0, 1, 0, 0, 0, 0, 0⟩
    (Instr.vadd b).wf = true ∧
    ([{ b with vd := 20 }, { b with va := 6 }, { b with vb := 7 }, { b with vc := 1 }, { b with tyd := 1 }, { b with ctl := 1 },
    { b with ty := 2 }, { b with rnd := 3 }, { b with ty := 5, rnd := 1 }].all fun (b : VF) => !(Instr.vadd b).wf) = true := by decide

theorem test_wf_vector_fused : let b : VF := ⟨true, 16, 0, 1, 2, 0, 0, 0, 0⟩
    (Instr.vfma b).wf = true ∧
    ([{ b with vd := 32 }, { b with va := 12 }, { b with vb := 6 }, { b with vc := 6 }, { b with tyd := 1 }, { b with ctl := 1 },
    { b with ty := 5 }, { b with rnd := 3 }].all fun (b : VF) => !(Instr.vfma b).wf) = true := by decide

theorem test_wf_vector_one : let b : VF := ⟨true, 16, 0, 0, 0, 0, 0, 0, 0⟩
    (Instr.vabs b).wf = true ∧
    ([{ b with vb := 1 }, { b with vc := 1 }, { b with ty := 7 },
    { b with tyd := 1 }].all fun (b : VF) => !(Instr.vabs b).wf) = true := by decide

theorem test_wf_vector_functions : let b : VF := ⟨true, 16, 0, 0, 0, 0, 0, 0, 0⟩
    (Instr.vexp2 b).wf = true ∧
    ([{ b with rnd := 1 }, { b with ty := 1, rnd := 3 }, { b with vb := 1 }, { b with ty := 6 },
    { b with ctl := 2 }].all fun (b : VF) => !(Instr.vexp2 b).wf) = true := by decide

theorem test_wf_vector_bits : let b : VF := ⟨true, 16, 0, 1, 0, 6, 0, 0, 0⟩
    (Instr.vand b).wf = true ∧
    ([{ b with ty := 0 }, { b with rnd := 1 }, { b with vc := 1 }].all fun (b : VF) => !(Instr.vand b).wf) = true := by decide

theorem test_wf_vector_shifts : let b : VF := ⟨true, 16, 0, 0, 0, 5, 0, 0, 0x807⟩
    (Instr.vshl b).wf = true ∧
    ([{ b with vb := 1 }, { b with ctl := 0x808 }, { b with ctl := 0x827 }, { b with ctl := 7 }, { b with ty := 0 },
    { b with rnd := 1 }].all fun (b : VF) => !(Instr.vshl b).wf) = true := by decide

theorem test_wf_vector_compares : let b : VF := ⟨true, 16, 0, 1, 0, 6, 0, 0, 1⟩
    (Instr.vclt b).wf = true ∧
    ([{ b with ty := 2 }, { b with ty := 4 }, { b with ctl := 2 },
    { b with rnd := 1 }].all fun (b : VF) => !(Instr.vclt b).wf) = true := by decide

theorem test_wf_vector_select : let b : VF := ⟨true, 16, 0, 1, 2, 6, 0, 0, 0⟩
    (Instr.vsel b).wf = true ∧
    ([{ b with ty := 4 }, { b with vc := 6 }, { b with tyd := 1 }, { b with rnd := 1 },
    { b with ctl := 1 }].all fun (b : VF) => !(Instr.vsel b).wf) = true := by decide

theorem test_wf_vector_convert : let b : VF := ⟨true, 16, 0, 1, 2, 0, 2, 0, 3⟩
    (Instr.vcvt b).wf = true ∧
    ([{ b with vb := 6 }, { b with vc := 7 }, { b with ctl := 6 }, { b with ctl := 0x43 }, { b with ctl := 0x103 }, { b with tyd := 8 },
    { b with rnd := 3 }, { b with ty := 2, tyd := 0, ctl := 0 },
    { b with va := 6 }].all fun (b : VF) => !(Instr.vcvt b).wf) = true := by decide

theorem test_wf_vector_quantise : let b : VF := ⟨true, 16, 0, 1, 2, 0, 15, 0, 0⟩
    (Instr.vqnt b).wf = true ∧
    ([{ b with tyd := 0 }, { b with ty := 2 }, { b with rnd := 3 }, { b with vb := 6 }, { b with ctl := 0x400 },
    { b with ctl := 0x60 }].all fun (b : VF) => !(Instr.vqnt b).wf) = true := by decide

theorem test_wf_vector_dequantise : let b : VF := ⟨true, 16, 0, 33, 0, 15, 0, 0, 0⟩
    (Instr.vdq b).wf = true ∧
    ([{ b with ty := 0 }, { b with tyd := 2 }, { b with vb := 1 }, { b with vc := 1 }, { b with ctl := 0x10 },
    { b with ctl := 0x400 }].all fun (b : VF) => !(Instr.vdq b).wf) = true := by decide

theorem test_wf_vector_stochastic : let b : VF := ⟨true, 16, 0, 0, 0, 0, 1, 0, 0⟩
    (Instr.vsrnd b).wf = true ∧
    ([{ b with tyd := 0 }, { b with ty := 2 }, { b with vb := 1 }, { b with ctl := 1 },
    { b with rnd := 3 }].all fun (b : VF) => !(Instr.vsrnd b).wf) = true := by decide

theorem test_wf_vector_scale : let b : VF := ⟨true, 16, 0, 33, 0, 0, 0, 0, 0⟩
    (Instr.vscal b).wf = true ∧
    ([{ b with vb := 1 }, { b with ctl := 1 }, { b with ctl := 0x800 }, { b with vb := 0, ctl := 0xA00 }, { b with ty := 5 },
    { b with rnd := 3 }].all fun (b : VF) => !(Instr.vscal b).wf) = true := by decide

theorem test_wf_vector_reduce : let b : VF := ⟨true, 33, 0, 0, 0, 5, 6, 0, 0⟩
    (Instr.vredsum b).wf = true ∧
    ([{ b with rnd := 1 }, { b with tyd := 0 }, { b with vd := 64 }, { b with vb := 1 },
    { b with ty := 0, tyd := 5 }].all fun (b : VF) => !(Instr.vredsum b).wf) = true := by decide

theorem test_wf_vector_lane : let b : VF := ⟨true, 33, 0, 0, 0, 0, 0, 0, 15⟩
    (Instr.vextr b).wf = true ∧
    ([{ b with ctl := 16 }, { b with vd := 16 }, { b with ty := 4 },
    { b with rnd := 1 }].all fun (b : VF) => !(Instr.vextr b).wf) = true := by decide

theorem test_wf_vector_permute : let b : VF := ⟨true, 16, 0, 0, 0, 0, 0, 0, 15⟩
    (Instr.vperm b).wf = true ∧
    ([{ b with ctl := 16 }, { b with ctl := 0x700 }, { b with ctl := 0x101 }, { b with vb := 1 },
    { b with ty := 4 }].all fun (b : VF) => !(Instr.vperm b).wf) = true := by decide

theorem test_wf_vector_move : let b : VF := ⟨true, 0x80, 0, 0, 0, 4, 0, 0, 0⟩
    (Instr.vmov b).wf = true ∧
    ([{ b with slotB := false }, { b with va := 32 }, { b with ty := 8 }, { b with vb := 1 },
    { b with vd := 48 }].all fun (b : VF) => !(Instr.vmov b).wf) = true := by decide

theorem test_wf_vector_zero : let b : VF := ⟨false, 16, 0, 0, 0, 0, 0, 0, 0⟩
    (Instr.vzero b).wf = true ∧
    ([{ b with vd := 0x80 }, { b with va := 1 }, { b with ty := 1 }].all fun (b : VF) => !(Instr.vzero b).wf) = true := by decide

theorem test_wf_vector_accumulate : let b : VF := ⟨true, 0x80, 0, 0, 0, 0, 0, 0, 0⟩
    (Instr.vacc b).wf = true ∧
    ([{ b with slotB := false }, { b with vd := 16 }, { b with ty := 2 },
    { b with ctl := 1 }].all fun (b : VF) => !(Instr.vacc b).wf) = true := by decide

theorem test_wf_vector_widen : let b : VF := ⟨true, 0x82, 0, 0, 0, 1, 0, 0, 0⟩
    (Instr.vaccw b).wf = true ∧
    ([{ b with vd := 0x81 }, { b with ty := 0 }, { b with ty := 2 }].all fun (b : VF) => !(Instr.vaccw b).wf) = true := by decide

theorem test_wf_vector_adam : let b : VF := ⟨true, 16, 0, 1, 2, 0, 0, 0, 30⟩
    (Instr.vadam b).wf = true ∧
    ([{ b with slotB := false }, { b with ctl := 31 }, { b with ctl := 0 }, { b with ctl := 0x61 }, { b with ctl := 0x81 },
    { b with ty := 1 }].all fun (b : VF) => !(Instr.vadam b).wf) = true := by decide

theorem test_wf_vector_sgd : let b : VF := ⟨true, 16, 0, 1, 2, 0, 0, 0, 31⟩
    (Instr.vsgdm b).wf = true ∧
    ([{ b with slotB := false }, { b with ctl := 0 }, { b with ctl := 0x41 }].all fun (b : VF) => !(Instr.vsgdm b).wf) = true := by decide

theorem test_wf_vector_block : let b : VF := ⟨true, 0x84, 0, 0, 0, 7, 0, 0, 0⟩
    (Instr.vbfpn b).wf = true ∧
    ([{ b with vd := 0x85 }, { b with ty := 0 }, { b with va := 1 }].all fun (b : VF) => !(Instr.vbfpn b).wf) = true := by decide

theorem test_wf_matrix_products : let b : MA := ⟨2, 0, 0, 1, 0, 2, 0, 0, 0⟩
    (Instr.mop b).wf = true ∧
    ([{ b with bd := 1 }, { b with reg := 1 }, { b with rnd := 1 }, { b with va := 6 }, { b with ty := 0 },
    { b with ty := 1, tyd := 2 }, { b with tyd := 1 }, { b with ctl := 4 }].all fun (b : MA) => !(Instr.mop b).wf) = true := by decide

theorem test_wf_matrix_banks : ([.mzero ⟨2, 0, 0, 0, 0, 0, 0, 0, 0⟩, .mlend ⟨2, 0, 0, 0, 0, 0, 0, 0, 1⟩, .mdrain ⟨0, 3, 0, 0, 5, 0, 2, 2,
    1⟩, .mload ⟨0, 0, 0, 0, 5, 7, 0, 0, 0⟩, .mcfg ⟨0, 0, 0, 0, 0, 7, 0, 0, 0⟩, .mrealn ⟨0, 0, 0, 0, 0, 7, 0, 0,
    17⟩].all fun (i : Instr) => i.wf) = true ∧
    ([.mzero ⟨2, 0, 0, 0, 0, 0, 0, 0, 1⟩, .mlend ⟨2, 0, 0, 0, 0, 0, 0, 0, 2⟩, .mrecl ⟨2, 1, 0, 0, 0, 0, 0, 0, 0⟩, .mdrain ⟨0, 4, 0, 0, 5,
    0, 2, 0, 0⟩, .mdrain ⟨0, 0, 0, 0, 5, 0, 7, 0, 0⟩, .mdrain ⟨0, 0, 0, 0, 5, 0, 2, 3, 0⟩, .mdrain ⟨0, 0, 0, 0, 5, 0, 2, 0, 2⟩, .mload ⟨0,
    0, 0, 0, 5, 1, 0, 0, 0⟩, .msave ⟨0, 0, 0, 0, 5, 0, 0, 0, 0x3000⟩, .mcfg ⟨0, 0, 0, 0, 0, 1, 0, 0, 0⟩, .mcfg ⟨0, 0, 0, 0, 1, 0, 0, 0,
    0⟩, .mrealn ⟨0, 0, 0, 0, 0, 7, 0, 0, 16⟩, .mrealn ⟨0, 0, 0, 0, 1, 7, 0, 0, 17⟩, .mrealn ⟨0, 0, 0, 0, 0, 0, 0, 0,
    1⟩].all fun (i : Instr) => !i.wf) = true := by decide

theorem test_wf_spline : ([.knset ⟨0, 3, 0, 0, 6, 0, 0, 0, 0⟩, .splld ⟨0, 0, 0, 0, 5, 1, 0, 0, 0⟩, .splst ⟨0, 0, 0, 0, 5, 0, 1, 0, 0⟩,
    .splgx ⟨0, 0, 0, 0, 5, 0, 7, 0, 0⟩, .splev ⟨0, 0, 8, 0, 0, 0, 0, 0, 63⟩, .splbwd ⟨0, 0, 0, 1, 0, 0, 0, 0, 63⟩, .splcnt ⟨0, 0, 0, 0,
    31, 0, 0, 0, 3⟩].all fun (i : Instr) => i.wf) = true ∧
    ([.knset ⟨0, 4, 0, 0, 6, 0, 0, 0, 0⟩, .knset ⟨1, 3, 0, 0, 6, 0, 0, 0, 0⟩, .knget ⟨0, 3, 0, 0, 32, 0, 0, 0, 0⟩, .splld ⟨0, 0, 0, 0, 5,
    1, 0, 1, 0⟩, .splld ⟨0, 0, 0, 0, 5, 2, 0, 0, 0⟩, .splld ⟨0, 0, 0, 0, 5, 0, 0, 0, 0x30⟩, .splst ⟨0, 0, 0, 0, 5, 0, 7, 0, 0⟩, .splgx ⟨0,
    0, 0, 0, 5, 0, 1, 0, 0⟩, .splev ⟨0, 0, 8, 0, 0, 2, 0, 0, 0⟩, .splev ⟨0, 0, 8, 0, 0, 0, 0, 0, 64⟩, .splbwd ⟨0, 0, 0, 6, 0, 0, 0, 0, 0⟩,
    .splgs ⟨0, 0, 0, 1, 0, 0, 0, 0, 1⟩, .splcnt ⟨0, 0, 0, 0, 32, 0, 0, 0, 0⟩, .splcnt ⟨0, 0, 0, 0, 1, 0, 0, 0,
    4⟩].all fun (i : Instr) => !i.wf) = true := by decide

theorem test_wf_load : let b : LS := ⟨5, 6, 7, 0, 0, 0, 0, 3, 16⟩
    (Instr.ld b).wf = true ∧
    ([{ b with f0 := 32 }, { b with h := 1 }, { b with ty := 1 }, { b with rnd := 1 },
    { b with fe := 1 }].all fun (b : LS) => !(Instr.ld b).wf) = true := by decide

theorem test_wf_scratch_load : let b : LS := ⟨5, 6, 7, 0, 0, 0, 0, 3, 16⟩
    (Instr.sld b).wf = true ∧ ([{ b with f0 := 32 }, { b with fe := 3 }].all fun (b : LS) => !(Instr.sld b).wf) = true := by decide

theorem test_wf_tile_load : let b : LS := ⟨5, 6, 7, 1, 4, 2, 2, 1, 16⟩
    (Instr.gld b).wf = true ∧
    ([{ b with f0 := 64 }, { b with rnd := 3 }, { b with fe := 3 }, { b with sz := 2 }, { b with sz := 0 },
    { b with ty := 7 }].all fun (b : LS) => !(Instr.gld b).wf) = true := by decide

theorem test_wf_raw_tile_load : let b : LS := ⟨5, 6, 7, 1, 15, 0, 2, 1, 16⟩
    (Instr.gldr b).wf = true ∧
    ([{ b with rnd := 1 }, { b with ty := 8 }, { b with sz := 2 },
    { b with fe := 3 }].all fun (b : LS) => !(Instr.gldr b).wf) = true := by decide

theorem test_wf_tile_store : let b : LS := ⟨8, 3, 4, 2, 4, 0, 0, 1, 0⟩
    (Instr.gst b).wf = true ∧
    ([{ b with f0 := 6 }, { b with f0 := 33 }, { b with rnd := 1 }, { b with fe := 1 }, { b with disp := 1 }, { b with sz := 0 },
    { b with ty := 0 }, { b with sz := 2 }].all fun (b : LS) => !(Instr.gst b).wf) = true := by decide

theorem test_wf_raw_tile_store : let b : LS := ⟨33, 3, 4, 2, 15, 0, 0, 1, 0⟩
    (Instr.gstr b).wf = true ∧
    ([{ b with f0 := 64 }, { b with disp := 1 }, { b with sz := 2 },
    { b with ty := 9 }].all fun (b : LS) => !(Instr.gstr b).wf) = true := by decide

theorem test_wf_other_stores : ([.tmrd ⟨1, 0, 0, 1, 0, 0, 0, 0, 15⟩, .wmrd ⟨1, 2, 3, 0, 0, 0, 0, 0, 5⟩, .pref ⟨0, 2, 3, 0, 0, 0, 0, 0, 5⟩,
    .st ⟨63, 2, 3, 0, 0, 0, 0, 3, 5⟩, .sst ⟨1, 2, 3, 0, 0, 0, 2, 3, 5⟩, .sfe ⟨1, 2, 3, 0, 0, 0, 2, 0, 5⟩, .wmc ⟨1, 6, 0, 0, 0, 0, 2, 0,
    64⟩, .dpop ⟨11, 6, 0, 0, 0, 0, 2, 0, 64⟩].all fun (i : Instr) => i.wf) = true ∧
    ([.tmrd ⟨1, 0, 0, 1, 0, 0, 0, 0, 16⟩, .tmrd ⟨1, 1, 0, 1, 0, 0, 0, 0, 1⟩, .wmrd ⟨32, 2, 3, 0, 0, 0, 0, 0, 5⟩, .wmrd ⟨1, 2, 3, 0, 0, 0,
    0, 1, 5⟩, .pref ⟨1, 2, 3, 0, 0, 0, 0, 0, 5⟩, .st ⟨64, 2, 3, 0, 0, 0, 0, 3, 5⟩, .st ⟨1, 2, 3, 0, 0, 0, 1, 3, 5⟩, .sst ⟨1, 2, 3, 0, 0,
    0, 3, 3, 5⟩, .sst ⟨1, 2, 3, 1, 0, 0, 0, 3, 5⟩, .sfe ⟨1, 2, 3, 0, 0, 0, 1, 0, 5⟩, .sfe ⟨1, 2, 3, 0, 0, 0, 0, 1, 5⟩, .wmc ⟨6, 6, 0, 0,
    0, 0, 2, 0, 64⟩, .wmc ⟨1, 6, 0, 0, 0, 0, 1, 0, 64⟩, .dpop ⟨7, 6, 0, 0, 0, 0, 2, 0, 64⟩, .dpop ⟨12, 6, 0, 0, 0, 0, 2, 0,
    64⟩].all fun (i : Instr) => !i.wf) = true := by decide

theorem test_wf_copies : ([.cpy ⟨4, 5, 6, 7, 0, 0x2F, 1⟩, .cpyr ⟨4, 5, 6, 7, 0, 2, 1⟩, .cpyq ⟨4, 5, 0, 0, 0, 0, 0⟩, .cpyk ⟨0, 5, 6, 0, 0,
    7, 0x80000⟩].all fun (i : Instr) => i.wf) = true ∧
    ([.cpy ⟨4, 5, 6, 7, 1, 0, 1⟩, .cpy ⟨4, 5, 6, 7, 0, 0x30, 1⟩, .cpy ⟨4, 5, 6, 7, 0, 0x1F, 1⟩, .cpy ⟨4, 5, 6, 7, 0, 0x40, 1⟩, .cpy ⟨4, 5,
    6, 7, 0, 0, 0x80000⟩, .cpy2 ⟨4, 5, 6, 7, 0, 0, 1⟩, .cpyg ⟨4, 5, 6, 7, 0, 1, 1⟩, .cpys ⟨4, 5, 6, 7, 0, 0x10, 1⟩, .cpyx ⟨4, 5, 6, 7, 0,
    1, 1⟩, .cpyr ⟨4, 5, 6, 7, 0, 3, 1⟩, .cpyo ⟨4, 5, 6, 7, 1, 0, 1⟩, .cpyq ⟨32, 5, 0, 0, 0, 0, 0⟩, .cpyq ⟨4, 5, 1, 0, 0, 0, 0⟩, .cpyk ⟨1,
    5, 6, 0, 0, 7, 0⟩, .cpyk ⟨0, 5, 6, 0, 0, 8, 0⟩].all fun (i : Instr) => !i.wf) = true := by decide

theorem test_wf_counters_and_atomics : ([.cadd ⟨4, 5, 0, 0, 0, 0, 0, 0, 9⟩, .caddi ⟨4, 0, 0, 0, 0, 0, 0, 0, 9⟩, .cwait ⟨4, 5, 6, 0, 0, 0,
    1, 0, 0⟩, .crd ⟨4, 0, 6, 0, 0, 0, 0, 1, 0⟩, .amax ⟨4, 5, 6, 0, 0, 0, 0, 3, 0⟩, .acas ⟨4, 5, 6, 7, 0, 0, 0, 1, 0⟩, .afadd ⟨4, 5, 6, 0,
    0, 0, 0, 1, 0⟩].all fun (i : Instr) => i.wf) = true ∧
    ([.cadd ⟨4, 5, 1, 0, 0, 0, 0, 0, 9⟩, .cflg ⟨4, 5, 0, 1, 0, 0, 0, 0, 9⟩, .cceil ⟨4, 5, 0, 0, 1, 0, 0, 0, 9⟩, .cadd ⟨4, 5, 0, 0, 0, 1,
    0, 0, 9⟩, .cadd ⟨4, 5, 0, 0, 0, 0, 1, 0, 9⟩, .cadd ⟨4, 5, 0, 0, 0, 0, 0, 1, 9⟩, .caddi ⟨4, 1, 0, 0, 0, 0, 0, 0, 9⟩, .caddi ⟨4, 0, 0,
    0, 0, 0, 0, 0, 0x80000⟩, .cwait ⟨4, 5, 32, 0, 0, 0, 1, 0, 0⟩, .cwait ⟨4, 5, 6, 0, 0, 0, 1, 1, 0⟩, .crd ⟨4, 0, 32, 0, 0, 0, 0, 1, 0⟩,
    .crd ⟨4, 0, 6, 0, 0, 0, 0, 2, 0⟩, .amadd ⟨4, 5, 6, 0, 0, 0, 0, 2, 0⟩, .amadd ⟨4, 5, 32, 0, 0, 0, 0, 0, 0⟩, .amin ⟨4, 5, 6, 0, 0, 0, 0,
    4, 0⟩, .aor ⟨4, 5, 6, 1, 0, 0, 0, 0, 0⟩, .acas ⟨4, 5, 32, 7, 0, 0, 0, 1, 0⟩, .afadd ⟨4, 5, 6, 0, 0, 0, 0, 0,
    0⟩].all fun (i : Instr) => !i.wf) = true := by decide

theorem test_wf_barriers_and_records : ([.barr ⟨5, 0, 0, 0, 0, 1, 0, 0, 0⟩, .bwait ⟨33, 0, 0, 0, 0, 1, 0, 0, 0⟩, .tmopn ⟨4, 0, 0, 0, 2, 0,
    0, 0, 1⟩, .tmset ⟨0, 7, 0, 0, 2, 0, 0, 3, 0⟩, .tmgov ⟨0, 0, 6, 0, 2, 0, 0, 0, 0⟩].all fun (i : Instr) => i.wf) = true ∧
    ([.barr ⟨32, 0, 0, 0, 0, 1, 0, 0, 0⟩, .barr ⟨5, 0, 0, 0, 0, 1, 1, 0, 0⟩, .barr ⟨5, 0, 0, 0, 0, 1, 0, 0, 1⟩, .bwait ⟨5, 1, 0, 0, 0, 1,
    0, 0, 0⟩, .barq ⟨32, 0, 0, 0, 0, 1, 0, 0, 0⟩, .tmopn ⟨4, 1, 0, 0, 2, 0, 0, 0, 1⟩, .tmopn ⟨0, 0, 0, 0, 2, 0, 0, 0, 1⟩, .tmcls ⟨4, 0, 1,
    0, 2, 0, 0, 0, 1⟩, .tmflt ⟨4, 0, 0, 0, 2, 0, 0, 0, 0x80000⟩, .tmset ⟨0, 7, 0, 0, 2, 0, 0, 4, 0⟩, .tmgov ⟨0, 0, 32, 0, 2, 0, 0, 0, 0⟩,
    .tmgov ⟨1, 0, 6, 0, 2, 0, 0, 0, 0⟩].all fun (i : Instr) => !i.wf) = true := by decide

theorem test_wf_tasks_and_launches : ([.spawn ⟨4, 5, 0, 0, 0, 0, 0, 0, 0⟩, .route ⟨4, 5, 6, 7, 0, 0, 0, 0, 1⟩, .rtver ⟨4, 6, 8, 0, 0, 0,
    0, 0, 0⟩, .wgl ⟨4, 0, 0, 0, 0, 0, 0, 0, 9⟩, .wglq ⟨0, 5, 6, 0, 0, 0, 0, 0, 0⟩].all fun (i : Instr) => i.wf) = true ∧
    ([.spawn ⟨4, 5, 0, 0, 0, 0, 0, 0, 1⟩, .spawn ⟨4, 5, 1, 0, 0, 0, 0, 0, 0⟩, .route ⟨4, 5, 6, 0, 0, 0, 0, 0, 1⟩, .route ⟨4, 5, 6, 7, 0,
    0, 0, 0, 0x80000⟩, .rtver ⟨4, 6, 32, 0, 0, 0, 0, 0, 0⟩, .rtver ⟨4, 6, 8, 1, 0, 0, 0, 0, 0⟩, .wgl ⟨4, 1, 0, 0, 0, 0, 0, 0, 9⟩,
    .wglq ⟨1, 5, 6, 0, 0, 0, 0, 0, 0⟩, .wglq ⟨0, 5, 32, 0, 0, 0, 0, 0, 0⟩, .wglk ⟨0, 5, 1, 0, 0, 0, 0, 0, 0⟩, .wglk ⟨0, 5, 0, 0, 0, 0, 0,
    0, 1⟩].all fun (i : Instr) => !i.wf) = true := by decide

theorem test_wf_steps : ([.wsend ⟨1, 2, 1, 0, 1, 0⟩, .wrrs ⟨0, 2, 1, 5⟩, .wcopy ⟨0, 1, 0⟩, .wcopy ⟨0, 0, 0x100000002⟩, .wloop 1,
    .wagree 2 8].all fun (i : Instr) => i.wf) = true ∧
    ([.wsend ⟨1, 3, 1, 0, 1, 0⟩, .wrecv ⟨1, 0, 1, 3, 1, 0⟩, .wsend ⟨1, 0, 1, 0, 3, 0⟩, .wrrs ⟨0, 3, 1, 5⟩, .wcopy ⟨0, 1, 0x100000002⟩,
    .wcopy ⟨0, 0, 0x300000002⟩, .wloop 0, .wagree 2 4].all fun (i : Instr) => !i.wf) = true := by decide

/-! ### Values worked out in the spec -/

/-- 464 ties to 448 in e4m3, 470 saturates there; 65,000 saturates in e5m2 and +Inf stays (05 R137, example). -/
theorem test_convert_examples : convertSat (valueOf 0 0x43E80000) 2 0 0 = (0x7E, 0) ∧
    convertSat (valueOf 0 0x43EB0000) 2 0 0 = (0x7E, flagOF) ∧
    convertSat (valueOf 0 0x477DE800) 3 0 0 = (0x7B, flagOF) ∧ convertSat (valueOf 0 0x7F800000) 3 0 0 = (0x7C, 0) := by decide +kernel

/-- The generator's first step from SEED 1, and its first draw (05 R135, example). -/
theorem test_generator_example : rngNext 1 = 0x40822041 ∧ rngDraws 1 1 = ([0], 0x40822041) := by decide +kernel

/-- 10.0, -0.7 and 0.3 in one mx4 block: scale byte 0x80, codes 6, 9 and 0, no flag (05 R138, example). -/
theorem test_mx4_example : mx4Encode ([valueOf 0 0x41200000, valueOf 0 0xBF333333, valueOf 0 0x3E99999A] ++ List.replicate 29 .zero) 0 [] =
    (0x80, [6, 9] ++ List.replicate 30 0, 0) := by decide +kernel

/-- 0.5 added to lane 0 of a bfp24 block realigns it (05 R142, example). -/
theorem test_bfp24_example : Bfp.add ⟨127, [8000000, 3, 5]⟩ [some (valueOf 0 0x3F000000), none, none] = (⟨128, [5048576, 2, 2]⟩, 0) := by
  decide +kernel

/-- Homes of physical addresses (11 R257; 15 R343, examples). -/
theorem test_home_examples : combHome 0x40123040 = 49 ∧ combX 49 = 3 ∧ combY 49 = 6 ∧ combHome 0x100000800 = 64 ∧
    combHome 0x100001000 = 65 ∧
    combHome 0x100002000 = 66 := by decide +kernel

/-- The path from C(2,4) to that home, its stack S25 on M(0,9) with the offset in it, and the path from the home to the stack (11 R260, R261,
example). -/
theorem test_path_example : pathXY 2 4 3 6 = [(2, 4), (3, 4), (3, 5), (3, 6)] ∧ stackOf 0x40123040 = 25 ∧ stackOff 0x40123040 = 0x222B040 ∧
    stackDie 25 = (0, 9) ∧ pathXY 3 6 0 9 = [(3, 6), (2, 6), (1, 6), (0, 6), (0, 7), (0, 8), (0, 9)] ∧
    ioDie 3 = (15, 15) := by decide +kernel

/-- BAR0 after reset: PARTID 0x4A39 and ENCV 2 with MODID 0, and LSTATE IDLE (15 R338). -/
theorem test_bar0_identity : bar0Read 0x0000 State.reset = 0x24A39 ∧ bar0Read 0x0010 State.reset = 0 := by decide +kernel

/-- Key 5 chooses replica 1 of AMASK 0b011 (18 R392, example). -/
theorem test_replica_example : pickReplica 3 5 = 1 ∧ pickReplica 1 5 = 0 := by decide +kernel

/-! ### Witnesses -/

/-- An answer that is there, whatever it is. -/
theorem ok1 {ε α : Type} {e : Except ε α} (h : e.toOption.isSome = true) : e = .ok (e.toOption.get h) :=
  match e, h with
  | .ok _, _ => rfl

theorem some1 {α : Type} {o : Option α} (h : o.isSome = true) : o = some (o.get h) := (Option.some_get h).symm

theorem ok0 {ε : Type} {e : Except ε Unit} (h : e.toOption.isSome = true) : e = .ok () := ok1 h

theorem ok2 {ε α β : Type} {e : Except ε (α × β)} (h : e.toOption.isSome = true) :
    e = .ok ((e.toOption.get h).1, (e.toOption.get h).2) := ok1 h

theorem ok3 {ε α β γ : Type} {e : Except ε ((α × β) × γ)} (h : e.toOption.isSome = true) :
    e = .ok (((e.toOption.get h).1.1, (e.toOption.get h).1.2), (e.toOption.get h).2) := ok1 h

theorem okSomes {ε α β γ : Type} {e : Except ε (Option (α × β) × Option γ)}
    (h : (e.toOption.bind fun r => r.1.bind fun x => r.2.map fun y => (x, y)).isSome = true) :
    e = .ok (some (((e.toOption.bind fun r => r.1.bind fun x => r.2.map fun y => (x, y)).get h).1.1,
      ((e.toOption.bind fun r => r.1.bind fun x => r.2.map fun y => (x, y)).get h).1.2),
      some ((e.toOption.bind fun r => r.1.bind fun x => r.2.map fun y => (x, y)).get h).2) :=
  match e, h with
  | .ok (some _, some _), _ => rfl

theorem okIs {ε α : Type} {e : Except ε α} {a : α} (h : e.toOption = some a) : e = .ok a :=
  (ok1 (Option.isSome_of_eq_some h)).trans (congrArg _ (Option.get_of_eq_some _ h))

theorem allOk {ε α : Type} : ∀ {l : List (Except ε α)} {r : List α}, l.map Except.toOption = r.map some → l = r.map .ok
  | [], [], _ => rfl
  | a :: l, b :: r, h => (congrArg (· :: l) (okIs (List.cons.inj h).1)).trans (congrArg _ (allOk (List.cons.inj h).2))

/-- A state with a register set. -/
def reg (n : Nat) (v : Word) (s : State) : State := mapArch (fun a => { a with regs := a.regs.setIfInBounds n v }) s

/-- s2 holds 5 and s3 holds 7. -/
def w1 : State := reg 2 5 (reg 3 7 State.reset)

/-- A loop entry with two iterations left, of the bundle at address 0. -/
def lpe : LoopEnt := ⟨2, 0, 0, 0⟩

/-- One live loop. -/
def wLoop : State := mapArch (fun a => { a with loops := [lpe] }) w1

/-- The loop stack is full. -/
def wFull : State := mapArch (fun a => { a with loops := List.replicate 6 lpe }) w1

/-- A vector table at bundle address 16. -/
def wTrap : State := mapSt (fun t => { t with trapBase := 16 }) w1

/-- A strand in a trap handler. -/
def wTm : State := mapSt (fun t => { t with tm := true, ckptPc := 9 }) wTrap

/-- The entries of three levels of page tables: the 1 GB page at 0 maps to itself with read, write and execute permission, and the one
after it maps to itself for counters. -/
def pages : SMap Byte :=
  [(16777216, 0x01), (16777218, 0x01), (16777219, 0x10), (16781312, 0x01), (16781314, 0x02), (16781315, 0x10), (16785408, 0x1f),
    (16785416, 0x4f), (16785420, 0x04)]

/-- A running strand at bundle address 0x400, the pages, and some memory below 16 MB. -/
def wMem (m : SMap Byte) : State :=
  mapSt (fun t => { t with a := { t.a with pc := 0x400 }, run := .running })
    { w1 with mem := m ++ pages, turn := [0], sched := { w1.sched with ptroot := 0x1000000 } }

def wPg : State := wMem []

/-- A line's directory entry changed. -/
def dirW (l : Nat) (g : Dir → Dir) (s : State) : State := setDir l (g (dirOf s l)) s

/-- A port of four accesses of 64 bytes from offset 0. -/
def pd : BitVec 256 := BitVec.ofNat 256 (2 ^ 32 + 2 ^ 48 + 4 * 2 ^ 64 + 64 * 2 ^ 144 + 2 ^ 179 + 15 * 2 ^ 184 + 15 * 2 ^ 188)

/-- Read port q0 and write port 0x10 are ready. -/
def wPort : State := setPort 0 pd (setPort 6 pd w1)

/-- A plain handle: 16 rows of 16 f32 elements at 0x8000. -/
def hp : BitVec 256 := BitVec.ofNat 256 (0x8000 + 16 * 2 ^ 64 + 16 * 2 ^ 80 + 64 * 2 ^ 96)

/-- A governed handle of record 0. -/
def hg : BitVec 256 := BitVec.ofNat 256 (0x8000 + 16 * 2 ^ 64 + 16 * 2 ^ 80 + 256 * 2 ^ 96 + 2 ^ 155 + 15 * 2 ^ 160 + 2 ^ 164)

/-- The same of mx4 blocks: 2 rows of 64 elements. -/
def hb : BitVec 256 := BitVec.ofNat 256 (0x8000 + 16 * 2 ^ 64 + 64 * 2 ^ 80 + 256 * 2 ^ 96 + 2 ^ 155 + 15 * 2 ^ 160 + 2 ^ 164)

/-- An mx4 tensor that is not governed: 16 rows of 64 elements. -/
def hm : BitVec 256 := BitVec.ofNat 256 (0x8000 + 16 * 2 ^ 64 + 64 * 2 ^ 80 + 256 * 2 ^ 96 + 4 * 2 ^ 160)

/-- A handle set. -/
def hdl (n : Nat) (h : BitVec 256) (s : State) : State := mapArch (fun a => { a with handles := a.handles.setIfInBounds n h }) s

/-- Pages, ports, two handles, and record 0 with version 4, exponent 1, the format `f` and the state `st`. -/
def wRecS (f st : Nat) : State :=
  let s := hdl 1 (if f = 4 then hb else hg) (hdl 0 hp (setPort 0 pd (setPort 6 pd
    (wMem ([(16384, BitVec.ofNat 8 f), (16386, 4)] ++ (if st = 0 then [] else [(16388, BitVec.ofNat 8 (16 * st))]) ++
      [(16392, 4), (16394, 1), (16395, BitVec.ofNat 8 f)])))))
  { s with sched := { s.sched with tmrbase := 0x4000, tmrcnt := 4 } }

def wRec (f : Nat) : State := wRecS f 0

/-- The scratchpad's granule 4 is full. -/
def wFe : State := mapCore (fun c => { c with full := [(4, true)] }) w1

/-- A multicast window of 64 bytes at offset 0 to core 1 of the cluster. -/
def wMc : State := mapCore (fun c => { c with mcw := BitVec.ofNat 128 (64 * 2 ^ 18 + 2 ^ 37 + 2 ^ 73) }) w1

/-- Bank 1 lent or not, in block mode or not. -/
def wBank (lent block : Bool) : State := mapCore (setBank 1 ⟨true, block, lent, false, []⟩) wPort

/-- Knot registers that describe one interval from 0. -/
def wKnot : State := mapArch (fun a => { a with knots := a.knots.set 0 (2 ^ 47 + 2 ^ 40) }) w1

/-- A first knot register of one interval from 0. -/
def wK : Word := 2 ^ 47 + 2 ^ 40

theorem wK_lo : (loQ wK).num = 0 := by decide +kernel
theorem wK_hx : k0Hx wK = 0 := by decide +kernel
theorem wK_g : k0G wK = 1 := by decide +kernel

/-- A region, a task of it, and a barrier segment of cores 0 and 0x4000 that the task has armed. -/
def rg : Region :=
  { va := 0x8000, pa := 0x8000, rnum := 0, kind := 2, prio := 0, fdom := 3, splm := 3, park := 0, qmode := true, parent := none, cores := 0,
    ctrs := 0, comb := 0, wtags := 0, nseg := 0, quant := 1, handler := 0, pol := 0, qctr := 0x40000000, segs := [5], qidx := 0, qlast := 0,
    deficit := 0, withheld := 0 }

def tk : Task :=
  { tser := 0, rnum := 0, desc := 0, va := 0x9000, pa := 0x9000, code := 0, st := .started, unmet := [], pred := none, rounds := 0, start := 0,
    done := none, gangs := [], t := 0, deps := [], handler := none, classE := false, withholds := [] }

def sg : Seg := ⟨true, 0, [0, 0x4000], [], [], [], 65535, 9⟩

def wSeg : State := { w1 with sched := { w1.sched with regions := [rg], tasks := [tk] }, segs := [(5, sg)] }

/-- A commit at home 8 whose next step is to apply a store of the bytes 1 and 2 at 0x8000. -/
def wCommit (c : Commit) : State :=
  mapCore (fun k => { k with commit := some c, held := [.store 0x8000 0x8000 0x0201 3 none] }) wPg

/-- Valid knots and a bank lent to the spline array. -/
def wEv : State := mapCore (setBank 1 ⟨true, false, true, false, []⟩) wKnot

/-- s4 names a counter. -/
def wCtr : State := reg 4 0x40000000 wPg

/-- A counter with VALUE 4 and CEIL 5. -/
def wCeil : State := { wCtr with mem := pages ++ [(0x40000000, 4), (0x4000000C, 5)] }

/-- Core 0 waits for a counter. -/
def wWait (thr : Nat) : State := { wCtr with waiters := [⟨0x40000000, thr, true, .core 0⟩] }

/-- A commit that is to renew line 3, read with a lease to 256, and written at `w`. -/
def wRenew (w : Nat) : State :=
  dirW 3 (fun d => { d with wts := w }) (mapCore (fun k => { k with rvt := [(3, 256)] }) (wCommit ⟨[], 0, some 9, [3], [8]⟩))

/-- A commit at home 8 whose next step is to apply an `afadd` of a NaN at 0x8000, whose result s6 still takes or not. -/
def wAt (keep : Bool) : State :=
  dirW 512 (fun d => { d with resv := some 0 }) (mapCore (fun k => { k with
    commit := some ⟨[], 0, some 40, [], [8]⟩, held := [.atomic .fadd 0x8000 true false 0x7F800001 0 6 7],
    st := { k.st with vls := [⟨7, .sreg 6, none, 0, false, true, keep⟩] } }) wPg)

/-- A copy of 64 bytes from 0x9000 to 0x8000 of memory. -/
def ln : Launch := ⟨.cpy, 0x8000, 0x9000, 64, 1, 0, 0, 0, 0, 0, 0, 0, false, false⟩

/-- A running copy operation of two pieces. -/
def cop (l : Launch) : Cop :=
  ⟨3, 0, 0, 0, 0, l, [⟨0x8000, 0x9000, 64, false, []⟩, ⟨0x8040, 0x9040, 64, false, []⟩], 0, 7, none, false, false, none⟩

/-- Memory with two bytes to copy. -/
def wCop (l : Launch) : State := { wMem [(0x9000, 1), (0x903F, 2)] with copies := [cop l] }

/-- A core of a die with every subset, and a governed tensor of one row of four elements in a leaf whose watermark names version 4. -/
def wTile : State :=
  let s := hdl 1 (BitVec.ofNat 256 (0x8000 + 2 ^ 64 + 4 * 2 ^ 80 + 256 * 2 ^ 96 + 2 ^ 155 + 15 * 2 ^ 160 + 2 ^ 164)) (wRec 2)
  { s with wm := [(0x80, 4)], core := { s.core with id := 2 } }

theorem erIs {ε α : Type} [DecidableEq ε] {e : Except ε α} {a : ε} (h : (match e with | .error x => some x | .ok _ => none) = some a) :
    e = .error a :=
  match e, h with
  | .error _, h => congrArg _ (Option.some.inj h)

/-- A job whose one leaf is `r`. -/
def wReg (r : Region) (s : State) : State :=
  { s with sched := { s.sched with regions := [r] }, host := { s.host with lstate := 2 } }

/-- A region tree of one region at 0x8000, with a job counter. -/
def wRoot : State :=
  let s := wMem [(0x8000, 1), (0x8002, 0x80), (0x8020, 1), (0x8024, 1), (0x8043, 1), (0x8050, 1), (0x805B, 0x40), (0x8060, 1)]
  { s with host := { s.host with lstate := 1, root := 0x8000 } }

/-- A gang of core 0. -/
def gg : Gang := ⟨0, .running, [0], [0], 0, [], 0, none, false, 0, [], false⟩

/-- A task with one gang, and a job of it at clock `n`. -/
def wGang (t : Task) (n : Nat) : State :=
  let s := wReg rg wPg
  { s with now := n, sched := { s.sched with tasks := [t] } }

/-- A task that waits for its dependency 0. -/
def wDep : State := wGang { tk with st := .waiting, unmet := [0] } 5

/-- A strand stopped by a migrate trap of its gang. -/
def wMig (g : Gang) : State :=
  mapSt (fun t => { t with run := .stopped, trapCause := 0x10, trapInfo := 0x120 }) (wGang { tk with gangs := [g] } 5)

/-- A task whose DONE counter is at 0x40000000. -/
def tkDone (st : TaskSt) : Task := { tk with st := st, done := some 0x40000000 }

/-- A region without a handler, and the root above it. -/
def wLand : State :=
  let s := wGang tk 5
  { s with sched := { s.sched with regions := [{ rg with kind := 0, rnum := 1, pa := 0x4000, va := 0x4000 }, { rg with fdom := 0 }] } }

/-- The bytes of a handler's descriptor at 0xA000, of one gang of one strand, and of its code header at 0xB000. -/
def handlerMem : SMap Byte :=
  [(0xA009, 0xB0), (0xA010, 1), (0xA011, 1), (0xA012, 1), (0xB000, 0x4F), (0xB001, 0x4E), (0xB002, 0x41), (0xB003, 0x32), (0xB004, 2),
    (0xB005, 1), (0xB014, 2), (0xB019, 0x10), (0xB040, 2)]

/-- A leaf at 0x8000 with that handler and a fault domain, with a record that is filled or not, and a task of the leaf. -/
def wHandler (dom : Nat) (v : Bool) : State :=
  let s := wMem ((if v then [(0x80C1, 0x10), (0x80C2, 255)] else []) ++ handlerMem)
  let r : Region := { rg with fdom := dom, handler := 0xA000 }
  { s with sched := { s.sched with regions := [r], tasks := [tk], nextTser := 1 }, host := { s.host with lstate := 2 } }

/-- Three regions: the root, one of the domain REGION with a handler, and a leaf below it. -/
def wScopes : State :=
  let s := wHandler 1 false
  { s with sched := { s.sched with regions := [{ rg with kind := 0, rnum := 1, pa := 0x4000, va := 0x4000 },
      { rg with kind := 1, rnum := 2, pa := 0x5000, va := 0x5000, fdom := 1, handler := 0xA000, parent := some 1 },
      { rg with fdom := 0, parent := some 2 }] } }

/-- A started task, and a ready one that the budget of cores keeps waiting. -/
def wCont : State :=
  let s := wGang { tk with gangs := [gg] } 1024
  { s with sched := { s.sched with tasks := s.sched.tasks ++ [{ tk with tser := 1, st := .ready }] } }

/-- A table at 0x10000 of one expert with two replicas, both active, inboxes of 16 slots at 0x20000 and 0x28000 and gradients of 64 bytes at
0x30000 and 0x38000; the load counter is at 0x40000000, the slots' counters after it. -/
def tabMem : SMap Byte :=
  [(0x10000, 1), (0x10002, 1), (0x10003, 0x48), (0x10004, 0x40), (0x10005, 1), (0x10006, 16), (0x10008, 0x11), (0x10013, 0x40), (0x10018, 0x50), (0x1001B, 0x40), (0x10020, 0x60), (0x10023, 0x40), (0x1002C, 0x40)] ++
  [(0x10400, 3), (0x10440, 2), (0x1044A, 2), (0x10450, 0x10), (0x10453, 0x40), (0x10458, 0x20), (0x1045B, 0x40), (0x1046A, 3), (0x10480, 2), (0x10489, 0x80), (0x1048A, 2), (0x10490, 0x30), (0x10493, 0x40), (0x10498, 0x40), (0x1049B, 0x40), (0x104A9, 0x80), (0x104AA, 3)]

/-- The table, registered, in a running job at clock 9. -/
def tb : Table := ⟨0x10000, true, 5, [], 1, none, [], 0⟩
def wTab (t : Table) : State :=
  let s := wMem tabMem
  { s with now := 9, tables := [t], host := { s.host with lstate := 2 } }

/-- Its header, its entry and its two slots as numbers. -/
def tH : Nat := 587135645693458306972494480017552744071248577536948443246461862664953462523168294528538283783791510481338369
def tE : Nat := 3
def tS0 : Nat := 419952139158338289479520427606583308887795398386412269199661585708123787186830639614135576194057240578
def tS1 : Nat := 489944162351394671059440498874347192579097021042250599539070698747539567276567419723559465839069495298

/-- One replica active and the other slot free, with a load of 5; two active ones with a cold threshold, for one cold sample or for two. -/
def wHot : State :=
  let s := wTab tb
  { s with mem := SMap.set 0 (SMap.set 0 (SMap.set 0 s.mem 0x10400 1) 0x10480 0) 0x40000000 5 }
def wCold (k : Byte) : State :=
  let s := wTab tb
  { s with mem := SMap.set 0 (SMap.set 0 s.mem 0x10007 16) 0x10008 k }

/-- The lines of the entry and of the slots of that table's expert. -/
def tLine (_ k : Nat) : Nat := 0x410 + k

theorem tLine_inj {h : Nat} (hn : hdrNexp h = 1) : ∀ e < hdrNexp h, ∀ k < hdrMaxr h + 2, ∀ e1 < hdrNexp h, ∀ k1 < hdrMaxr h + 2,
    tLine e k = tLine e1 k1 → e = e1 ∧ k = k1 := fun e he k _ e1 he1 k1 _ hh => by
  unfold tLine at hh
  omega

theorem okOnly {ε α : Type} {e : Except ε α} {a : α} {p : α → Prop} (h : e.toOption = some a) (hp : p a) : ∀ b, e = .ok b → p b :=
  fun b hb => Except.ok.inj ((okIs h).symm.trans hb) ▸ hp

theorem all1 {p : Nat → Prop} {n : Nat} (hn : n = 1) (h : p 0) : ∀ e < n, p e := fun e he => by
  obtain rfl : e = 0 := by omega
  exact h

theorem all2 {p : Nat → Prop} {n : Nat} (hn : n = 2) (h : p 0) (g : p 1) : ∀ e < n, p e := fun e he => by
  obtain rfl | rfl : e = 0 ∨ e = 1 := by omega
  exacts [h, g]

/-- A route operation on expert 0. -/
def ro (st : RouteSt) (j : Nat) : RouteOp := ⟨1, 0x10000, 0x9000, 7, 0, 0, none, 1, 0, 0, st, 0, 0, j, [], 0, 0, false, none, none⟩
def wRo (st : RouteSt) (j : Nat) : State := { wTab tb with routes := [ro st j] }

/-- A switch of replica 1. -/
def sw (k : SwKind) (step : Nat) : Switch := ⟨1, 0x10000, 0, 1, k, step, 0, 0, 0⟩
def wSw (k : SwKind) (step : Nat) : State := { wTab tb with switches := [sw k step] }

/-- A merge at its first element. -/
def tbM : Table := { tb with merging := some ⟨0, 1, 0, 0⟩ }

/-- A collective descriptor of this module alone: tag 5, program at 0x9000, chunks of 256 bytes, two buffers of 256 bytes at 0x8000 and
0x8100, and `x` besides. -/
def cd (x : Nat) : Nat :=
  0x9000 + 5 * 2 ^ 64 + 2 ^ 83 + x * 2 ^ 320 + 0x8000 * 2 ^ 384 + 256 * 2 ^ 448 + 0x8100 * 2 ^ 512 + 256 * 2 ^ 576

/-- The bytes of that descriptor at 0x7000 and of a program of `wflags` and `wend`. -/
def wagMem (x : Byte) : SMap Byte :=
  [(0x7001, 0x90), (0x7008, 5), (0x700A, 8)] ++ (if x = 0 then [] else [(0x7028, x)]) ++
    [(0x7031, 0x80), (0x7039, 1), (0x7041, 0x81), (0x7049, 1), (0x9007, 0x0A), (0x900F, 0x0B)]

/-- A launch that waits for the engine. -/
def wWgl (x : Byte) : State := { wMem (wagMem x) with wglq := [⟨3, 0x7000, none, 0, 0⟩] }

/-- The collective of that launch, in its first step. -/
def co : Coll :=
  { tag := 5, launch := 1, va := 0x7000, tser := 0, t := 0, desc := BitVec.ofNat 1024 (cd 1), group := [0], steps := [.wflags, .wend],
    sigw := [7], agreed := [0], started := true, sig := some 0x40000000, wait := some 0x40000010, done := some 0x40000020, pc := 0, loops := [],
    inst := 0, ae := 0, lf := 0, nfin := 0, sent := false, woken := none, todo := [], owed := [], want := [], got := [], reading := false,
    out := [], writing := false, cur := 0, rs := [], held := [], spilled := [], reruns := [], vals := [], landed := [], sends := [], recvs := [], aborting := none, spots := [] }

/-- That of a group of two ranks, this module being rank 0. -/
def co2 : Coll := { co with desc := BitVec.ofNat 1024 (cd 1 + 2 ^ 96), group := [0, 9] }

/-- The state in whose turn a collective executes a step. -/
def wCo (c : Coll) : State := { wPg with colls := [c], wcur := 5, wcount := [(5, 1)] }

/-- A chunk message of the first launch of tag 5. -/
def cm (k : ChunkKind) (rank inst : Nat) : ChunkMsg := ⟨k, 5, 1, rank, inst, 0, [1, 2]⟩

/-- Module 3 is a member of the domain, reached by port 2, and a job runs. -/
def wDom : State :=
  { wPg with dom := { domid := 0, self := 0, members := [(0, true), (3, true)], routes := [(3, [2])] }, host := { wPg.host with lstate := 2 } }

/-- A message to module 3 waits on port 2. -/
def wOut : State := { wDom with gout := [⟨3, 1, 2, .done 1 0⟩] }

/-- A remote copy to module 3 with a piece out, and no port to it. -/
def wFar : State :=
  let o := cop { ln with kind := .cpyr, module := 3 }
  { wDom with gdown := [2], copies := [{ o with pieces := [⟨0x8000, 0x9000, 64, true, []⟩] }] }

/-- A line of pool memory. -/
def pl : Nat := 2 ^ 50

theorem onlyEvict : ∀ (l : Nat) (w : WrWhy), .wr l w ∈ [PoolTx.wr pl .evict, .rd 9 true] → Claims.onPort 0 l = true → w = .evict ∨ w = .full :=
  fun l w h _ => by simp_all

/-- That line in a state, with its pin. -/
def wPool (st : Nat) (pin : Option CoreId) : State := dirW pl (fun d => { d with pst := st, pin := pin }) wPg

/-- A commit without a time yet that writes that line. -/
def wPoolCommit : State :=
  dirW pl (fun d => { d with pst := 2, resv := some 0 }) (mapCore (fun k => { k with held := [.store (64 * pl + 3) (64 * pl + 3) 0x0201 3 none] })
    (wCommit ⟨[], 0, none, [], []⟩))

/-- Every watch is of the counter at 0x40000000, enabled or not, with the threshold 5. -/
def wWatch (en : Bool) : State := { wPg with host := { wPg.host with watches := Vector.replicate 16 ⟨0x40000000, en, 5⟩ } }

/-- The state that an answer goes on in. -/
def nextOf (o : Host.Outcome State Fault Refusal) : State := match o with | .next u => u | _ => State.reset

theorem nx1 {o : Host.Outcome State Fault Refusal} (h : (match o with | .next _ => true | _ => false) = true) : o = .next (nextOf o) := by
  cases o with
  | next u => rfl
  | fault f => cases h
  | refused r => cases h

/-- A state with a bundle of 512 bits about to issue. -/
def wIss (s : State) (w : Nat) : State := s.withFetchWord 512 w

theorem wIss_bounds : Claims.bounds (wIss w1 0x0100420C00000000) := by
  unfold Claims.bounds Claims.coreBounds Claims.strandBounds
  decide +kernel

theorem wIss_canonical : Claims.canonical (wIss w1 0x0100420C00000000) := by
  unfold Claims.canonical Claims.coreCanonical
  decide +kernel

theorem allServe {s : State} {ls : List Nat} (h : (ls.all fun l => (engServes s l).toOption.isSome) = true) : ∀ l ∈ ls, engServes s l = .ok () :=
  fun l hl => ok0 (List.all_eq_true.1 h l hl)


theorem ok3r {ε α β γ : Type} {e : Except ε (α × β × γ)} (h : e.toOption.isSome = true) :
    e = .ok ((e.toOption.get h).1, (e.toOption.get h).2.1, (e.toOption.get h).2.2) := ok1 h

/-- A load of a bank whose every word reads and translates. -/
theorem loadOk {ls : List Nat} {s : State} (h : (loadWords ls s).1.1 = []) : loadWords ls s = (([], (loadWords ls s).1.2), (loadWords ls s).2) :=
  h ▸ rfl

/-- Bank 1 lent to the copy engine, or not lent. -/
def wLoadK (lent : Bool) : State := mapCore (setBank 1 ⟨true, false, lent, lent, []⟩) wPg

/-- A strand stopped by the debugger with 9 pending for s1 two strand cycles ahead, and an arrival held: DEST, VALUE, REMAIN, CLASS, the held
piece's kind and segment (01 R42), HCKPT (R39), and the status of bank 2, live and lent (07 R173). -/
theorem test_debug_report : ((debugReport (mapCore (fun c => { c with dstop := true, held := [.barr 5] })
    (mapSt (fun t => { t with cyc := 7, pend := [⟨some 9, 0, none, 0, .sreg 1 9, 0, 1⟩] }) w1))).map fun r =>
      (r.writes, r.holdcnt, r.held)) = some ([⟨.sreg 1, some [9, 0, 0, 0, 0, 0, 0, 0], 2, some 1⟩], 1, [(.barr, 5)]) ∧
    ((debugReport (mapCore (fun c => { setBank 2 ⟨true, false, true, false, []⟩ c with dstop := true })
      (mapSt (fun t => { t with hckpt := 6 }) w1))).map fun r => (r.hckpt, r.banks[2]?)) = some (6, some ⟨true, 0, true, 0⟩) ∧
    debugReport w1 = none := by decide +kernel

/-- The digest of the message "abc" (the worked example of FIPS 180-4's examples, outside the spec). -/
theorem test_sha256_abc : sha256 [0x61, 0x62, 0x63] = ((List.range 32).map fun k => BitVec.ofNat 8
    (0xba7816bf8f01cfea414140de5dae2223b00361a396177a9cb410ff61f20015ad / 2 ^ (248 - 8 * k))) := by decide +kernel

theorem witness_ZeroRegister_1 : ∃ (f : BitVec 6) (s : State), f.setWidth 5 = (0 : BitVec 5) :=
  ⟨32, w1, rfl⟩

theorem witness_ZeroRegister_2 : ∃ (v : VRes) (s : State), v.dst = .sreg 0 :=
  ⟨⟨0, .sreg 0, some 1, 0, false, false, true⟩, w1, rfl⟩

theorem witness_ZeroRegister_3 : ∃ (p : Pend) (v : Word) (s : State), p.act = .sreg 0 v :=
  ⟨⟨none, 0, none, 0, .sreg 0 7, 0, 0⟩, 7, w1, rfl⟩

theorem witness_ZeroRegister_4 : ∃ (v : VRes) (x : BitVec 256) (s : State), v.dst = .sreg 0 :=
  ⟨⟨0, .sreg 0, some 1, 0, false, false, true⟩, 7, w1, rfl⟩

theorem witness_ComparisonResults_1 : ∃ r ∈ Claims.compareRows, ∃ (f : SR) (s : State) (a b : Word), readS f.ra s = .ok a ∧
    readS f.rb s = .ok b :=
  ⟨(.ceq, fun a b => decide (a = b)), List.mem_cons_self .., ⟨1, 2, 2, 0⟩, w1, 5, 5, rfl, rfl⟩

theorem witness_BitFieldsAndAddresses_1 : ∃ (f : SF) (s : State) (a : Word), readS f.ra s = .ok a :=
  ⟨⟨1, 2, 63, 1⟩, w1, 5, rfl⟩

theorem witness_BitFieldsAndAddresses_2 : ∃ (f : SF) (s : State) (a old : Word), f.pos.toNat + f.len.toNat ≤ 64 ∧ readS f.ra s = .ok a ∧
    readS (f.rd &&& 31) s = .ok old :=
  ⟨⟨3, 2, 60, 4⟩, w1, 5, 7, by decide, rfl, rfl⟩

theorem witness_BitFieldsAndAddresses_3 : ∃ (f : SF), (64 < f.pos.toNat + f.len.toNat ∨ f.len = 0) :=
  ⟨⟨3, 2, 60, 5⟩, by decide⟩

theorem witness_BitFieldsAndAddresses_4 : ∃ (f : SF) (s : State) (a : Word), readS f.ra s = .ok a ∧ f.rd.setWidth 5 ≠ (0 : BitVec 5) ∧
    atomicHeld s (f.rd.setWidth 5) = false ∧ s.core.st.a.empties[(f.rd.setWidth 5 : BitVec 5).toNat] = true :=
  ⟨⟨4, 2, 0, 8⟩,
    mapSt (fun t => { t with vls := [⟨0, .sreg 4, some 9, 0, true, false,
    true⟩] }) (mapArch (fun a => { a with empties := a.empties.set 4 true }) w1), 5, rfl, by decide, rfl, rfl⟩

theorem witness_BitFieldsAndAddresses_5 : ∃ (f : SL) (s : State) (a b : Word), readS f.ra s = .ok a ∧ readS f.rb s = .ok b :=
  ⟨⟨1, 2, 3, 3, 0xFFFFFFFF⟩, w1, 5, 7, rfl, rfl⟩

theorem witness_BitFieldsAndAddresses_6 : ∃ (f : SL) (s : State) (a : Word), readS f.ra s = .ok a ∧ f.rb = 0 ∧ f.sh = 0 :=
  ⟨⟨1, 2, 0, 0, 8⟩, w1, 5, rfl, rfl, rfl⟩

theorem witness_DivideResults_1 : ∃ r ∈ Claims.divRows, ∃ (f : SR) (s : State) (a b : Word), readS f.ra s = .ok a ∧
    readS f.rb s = .ok b ∧ s.core.st.vls.any (·.div) = false :=
  ⟨(.div, fun a b => if b = 0 then BitVec.allOnes 64 else a.sdiv b), List.mem_cons_self .., ⟨1, 2, 0, 0⟩, w1, 5, 0, rfl, rfl, rfl⟩

theorem witness_DivideResults_2 : ∃ r ∈ Claims.divRows, ∃ (f : SR) (s : State) (a b : Word), readS f.ra s = .ok a ∧
    readS f.rb s = .ok b ∧ s.core.st.vls.any (·.div) = true :=
  ⟨(.div, fun a b => if b = 0 then BitVec.allOnes 64 else a.sdiv b), List.mem_cons_self .., ⟨1, 2, 3, 0⟩,
    mapSt (fun t => { t with vls := [⟨0, .sreg 9, none, 0, true, false, true⟩] }) w1, 5, 7, rfl, rfl, rfl⟩

theorem witness_DivideResults_3 : ∃ (a b : Word), b ≠ 0 ∧ (a ≠ BitVec.intMin 64 ∨ b ≠ BitVec.allOnes 64) :=
  ⟨5, -1, by decide, by decide⟩

theorem witness_DivideResults_4 : ∃ (v : VRes) (r : BitVec 5) (s : State), v.dst = .sreg r ∧ r ≠ 0 :=
  ⟨⟨0, .sreg 31, some 1, 0, true, false, true⟩, 31, w1, rfl, by decide⟩

theorem witness_LoopStackReads_1 : ∃ (s : State) (e : LoopEnt) (rest : List LoopEnt), s.core.st.a.loops = e :: rest ∧
    (e :: rest).length ≤ 6 :=
  ⟨wLoop, lpe, [], rfl, by decide⟩

theorem witness_LoopStackReads_2 : ∃ (f : SX) (s : State) (e : LoopEnt), s.core.st.a.loops[f.n.toNat]? = some e :=
  ⟨⟨1, 5, 0⟩, wFull, lpe, rfl⟩

theorem witness_LoopStackReads_3 : ∃ (f : SQ) (s : State), f.cnt ≠ 0 ∧ s.core.st.a.loops.length < 6 :=
  ⟨⟨0xFFFFFFFF, 1⟩, wLoop, by decide, by decide⟩

theorem witness_LoopStackReads_4 : ∃ (a : Arch) (e : LoopEnt) (rest : List LoopEnt), a.loops = e :: rest ∧ e.last = a.pc ∧
    1 < e.count.toNat :=
  ⟨wLoop.core.st.a, lpe, [], rfl, rfl, by decide⟩

theorem witness_LoopStackReads_5 : ∃ (f : SX) (s : State), s.core.st.a.loops.length ≤ f.n.toNat :=
  ⟨⟨1, 1, 0⟩, wLoop, by decide⟩

theorem witness_LoopStackReads_6 : ∃ (s : State), s.core.st.a.loops = [] :=
  ⟨w1, rfl⟩

theorem witness_LoopStackReads_7 : ∃ (f : SX), 5 < f.n :=
  ⟨⟨1, 6, 0⟩, by decide⟩

theorem witness_GeneratorSteps_1 : ∃ x : Word, x ≠ 0 :=
  ⟨1, by decide⟩

theorem witness_ScalarReads_1 : ∃ (f : BitVec 6) (s : State), f.setWidth 5 = (0 : BitVec 5) :=
  ⟨0, w1, rfl⟩

theorem witness_ScalarReads_2 : ∃ (f : BitVec 6) (s : State), f.setWidth 5 ≠ (0 : BitVec 5) ∧ atomicHeld s (f.setWidth 5) = false ∧
    s.core.st.pend = [] ∧ s.core.sq = [] ∧ s.core.st.a.empties[(f.setWidth 5 : BitVec 5).toNat] = false :=
  ⟨63, w1, by decide, rfl, rfl, rfl, rfl⟩

theorem witness_ScalarReads_3 : ∃ (f : BitVec 6) (s : State), f.setWidth 5 ≠ (0 : BitVec 5) ∧ atomicHeld s (f.setWidth 5) = false ∧
    s.core.st.a.empties[(f.setWidth 5 : BitVec 5).toNat] = true :=
  ⟨36, mapSt (fun t => { t with vls := [⟨0, .sreg 4, some 9, 0, true, false,
    true⟩] }) (mapArch (fun a => { a with empties := a.empties.set 4 true }) w1), by decide, rfl, rfl⟩

theorem witness_IntegerTable_1 : ∃ r ∈ Claims.alu2Rows, ∃ (f : SR) (s : State) (a b : Word), readS f.ra s = .ok a ∧ readS f.rb s = .ok b :=
  ⟨(.add, 0, fun a b => a + b), List.mem_cons_self .., ⟨1, 2, 3, 0⟩, w1, 5, 7, rfl, rfl⟩

theorem witness_OneSourceResults_1 : ∃ (f : SR) (s : State) (a : Word), readS f.ra s = .ok a :=
  ⟨⟨1, 2, 0, 0⟩, w1, 5, rfl⟩

theorem witness_OneSourceResults_2 : ∃ (f : SR) (s : State) (a b c : Word), readS f.ra s = .ok a ∧ readS f.rb s = .ok b ∧
    readS f.rc s = .ok c :=
  ⟨⟨1, 0, 2, 3⟩, w1, 0, 5, 7, rfl, rfl, rfl⟩

theorem witness_ImmediateResults_1 : ∃ r ∈ Claims.immRows, ∃ (f : SI) (s : State) (a : Word), (r.1 f).wf = true ∧ readS f.ra s = .ok a :=
  ⟨(.addi, fun a i => a + i), List.mem_cons_self .., ⟨1, 2, 0xFFFFFFFFFF⟩, w1, 5, rfl, rfl⟩

theorem witness_ScalarOnlyFrame_1 : ∃ (i : Instr) (s t : State), Claims.scalarOnly i = true ∧ exec i s = .next t ∧ t.ctx.cause = none :=
  ⟨.add ⟨1, 2, 3, 0⟩, w1, _, rfl, rfl, rfl⟩

theorem witness_LandingWritesRegister_1 : ∃ (p : Pend) (r : BitVec 5) (v : Word) (s : State), p.act = .sreg r v :=
  ⟨⟨none, 0, none, 0, .sreg 31 7, 1, 0⟩, 31, 7, w1, rfl⟩

theorem witness_TransferTargets_1 : ∃ (f : SB) (s : State) (a : Word), readS f.ra s = .ok a :=
  ⟨⟨2, 0x1FFFFFFFFFF⟩, w1, 5, rfl⟩

theorem witness_TransferTargets_2 : ∃ (f : SX) (s : State) (a : Word), readS f.reg s = .ok a ∧ a.extractLsb' 51 13 = (0 : BitVec 13) :=
  ⟨⟨2, 0, 0⟩, w1, 5, rfl, rfl⟩

theorem witness_TransferTargets_3 : ∃ (f : SX) (s : State) (a : Word), readS f.reg s = .ok a ∧ a.extractLsb' 51 13 ≠ (0 : BitVec 13) :=
  ⟨⟨2, 0, 0⟩, reg 2 (2 ^ 51) w1, 2 ^ 51, rfl, by decide⟩

theorem witness_LoopPush_1 : ∃ (f : SQ) (s : State), f.cnt ≠ 0 ∧ s.core.st.a.loops.length < 6 :=
  ⟨⟨1, 2⟩, wLoop, by decide, by decide⟩

theorem witness_LoopPush_2 : ∃ (f : SQ) (s : State), f.cnt ≠ 0 ∧ 6 ≤ s.core.st.a.loops.length :=
  ⟨⟨1, 2⟩, wFull, by decide, by decide⟩

theorem witness_LoopPush_3 : ∃ (f : SQ) (s : State), f.cnt = 0 :=
  ⟨⟨0, 2⟩, wFull, rfl⟩

theorem witness_LoopPush_4 : ∃ (f : SP) (s : State) (a : Word), readS f.ra s = .ok a ∧ a.toInt ≤ 0 :=
  ⟨⟨0, 2⟩, wLoop, 0, rfl, by decide⟩

theorem witness_LoopPush_5 : ∃ (f : SP) (s : State) (a : Word), readS f.ra s = .ok a ∧ 0 < a.toInt ∧ s.core.st.a.loops.length < 6 :=
  ⟨⟨2, 2⟩, reg 2 0x100000000 wLoop, 0x100000000, rfl, by decide, by decide⟩

theorem witness_LoopPush_6 : ∃ (f : SP) (s : State) (a : Word), readS f.ra s = .ok a ∧ 0 < a.toInt ∧ 6 ≤ s.core.st.a.loops.length :=
  ⟨⟨2, 2⟩, wFull, 5, rfl, by decide, by decide⟩

theorem witness_NextAddress_1 : ∃ (a : Arch), (∀ e ∈ a.loops.head?, e.last ≠ a.pc) :=
  ⟨{ wLoop.core.st.a with pc := 1 }, by decide⟩

theorem witness_NextAddress_2 : ∃ (a : Arch) (e : LoopEnt) (rest : List LoopEnt), a.loops = e :: rest ∧ e.last = a.pc ∧ 1 < e.count.toNat :=
  ⟨wLoop.core.st.a, lpe, [], rfl, rfl, by decide⟩

theorem witness_NextAddress_3 : ∃ (a : Arch) (e : LoopEnt) (rest : List LoopEnt), a.loops = e :: rest ∧ a.loops.length ≤ 6 ∧
    e.last = a.pc ∧ e.count.toNat ≤ 1 :=
  ⟨{ wLoop.core.st.a with loops := { lpe with count := 1 } :: List.replicate 5 lpe },
    { lpe with count := 1 }, List.replicate 5 lpe, rfl, by decide, rfl, by decide⟩

theorem witness_NextAddress_4 : ∃ (a : Arch) (last : BPc), (∀ e ∈ a.loops.head?, e.last ≠ last) :=
  ⟨wLoop.core.st.a, 3, by decide⟩

theorem witness_NextAddress_5 : ∃ (a : Arch) (last : BPc), (∀ e ∈ a.loops.head?, e.last ≠ a.pc) :=
  ⟨{ wLoop.core.st.a with pc := 1 }, 3, by decide⟩

theorem witness_TrapInstructionEnters_1 : ∃ (f : SX) (s : State), s.core.st.tm = false ∧ s.core.st.trapBase ≠ 0 ∧ s.ctx.slot < 8 :=
  ⟨⟨0, 0, 0x42⟩, wTrap, rfl, by decide, by decide⟩

theorem witness_ClassITrapEntry_1 : ∃ (c : Cause) (s : State), 1 ≤ c.code ∧ c.code ≤ 0x0A ∧ s.core.st.tm = false ∧ s.core.st.trapBase ≠ 0 :=
  ⟨⟨0x0A, 1, some 0⟩, wTrap, by decide, by decide, rfl, by decide⟩

theorem witness_EscalatedTrap_1 : ∃ (c : Cause) (s : State), s.core.st.tm = false ∧ 0x20 ≤ c.code ∧ c.code ≤ 0x28 :=
  ⟨⟨0x28, 1, none⟩, wTrap, rfl, by decide, by decide⟩

theorem witness_EscalatedTrap_2 : ∃ (c : Cause) (s : State), s.core.st.tm = true :=
  ⟨⟨0x05, 1, some 4⟩, wTm, rfl⟩

theorem witness_EscalatedTrap_3 : ∃ (c : Cause) (s : State), s.core.st.tm = false ∧ s.core.st.trapBase = 0 ∧ 1 ≤ c.code ∧ c.code ≤ 0x0A :=
  ⟨⟨0x0A, 1, some 0⟩, w1, rfl, rfl, by decide, by decide⟩

theorem witness_HandlerReturn_1 : ∃ (s : State), s.core.st.tm = true :=
  ⟨wTm, rfl⟩

theorem witness_HandlerReturn_2 : ∃ (s : State), s.core.st.tm = false :=
  ⟨w1, rfl⟩

theorem witness_HaltEndsStrand_1 : ∃ (s : State), s.ctx.halts = true ∧ s.ctx.yields = false ∧ s.core.st.run = .running ∧
    s.ctx.wait = .none :=
  ⟨mapSt (fun t => { t with run := .running }) (mapCtx (fun k => { k with halts := true }) w1), rfl, rfl, rfl, rfl⟩

theorem witness_HaltEndsStrand_2 : ∃ (s : State), s.ctx.halts = true ∧ s.ctx.yields = false ∧ s.core.st.run = .running ∧
    s.ctx.wait ≠ .none :=
  ⟨mapSt (fun t => { t with run := .running }) (mapCtx (fun k => { k with halts := true, wait := .bwait 0 1 }) w1), rfl, rfl, rfl,
    by decide⟩

theorem witness_SystemReads_1 : ∃ (f : SX) (s : State), f.n = 0 ∧ s.core.held.length ≤ 128 ∧ s.core.st.a.loops.length ≤ 6 ∧
    s.core.st.retry ≤ 3 :=
  ⟨⟨1, 0, 0⟩, w1, rfl,
    by refine ⟨?_, ?_, ?_⟩ <;> decide⟩

theorem witness_SystemReads_2 : ∃ (f : SX) (s : State), f.n = 6 ∧ s.core.split ≤ 3 :=
  ⟨⟨1, 6, 0⟩, w1, rfl, by decide⟩

theorem witness_SystemReads_3 : ∃ (f : SX) (s : State), f.n = 15 :=
  ⟨⟨1, 15, 0⟩, w1, rfl⟩

theorem witness_SystemReads_4 : ∃ (f : SX) (s : State), f.n = 12 :=
  ⟨⟨1, 12, 0⟩, w1, rfl⟩

theorem witness_SystemWrites_1 : ∃ (f : SX) (s : State) (a : Word), readS f.reg s = .ok a :=
  ⟨⟨2, 2, 0⟩, w1, 5, rfl⟩

theorem witness_SystemWrites_2 : ∃ (s : State) (a : Word), s.core.st.tm = true ∧ a ≠ 0 :=
  ⟨wTm, 2 ^ 51 + 1, rfl, by decide⟩

theorem witness_SystemWrites_3 : ∃ (s : State) (n : Nat), s.core.st.tm = false ∧ n ≠ 2 ∧ n ≠ 4 ∧ n ≠ 11 ∧ n ≠ 13 ∧ n ≠ 14 :=
  ⟨w1, 15, rfl,
    by refine ⟨?_, ?_, ?_, ?_, ?_⟩ <;> decide⟩

theorem witness_SpillAccess_1 : ∃ (f : SX) (s : State) (a : Word), readS f.reg s = .ok a ∧ SMap.wf 0 s.core.st.spill = true :=
  ⟨⟨2, 1023, 0⟩, w1, 5, rfl, rfl⟩

theorem witness_CapabilityQueries_1 : ∃ (f : SX) (s : State), f.n = 2 ∧ s.core.split ≤ 3 :=
  ⟨⟨1, 2, 0⟩, w1, rfl, by decide⟩

theorem witness_CapabilityQueries_2 : ∃ (f : SX) (s : State), f.n = 13 :=
  ⟨⟨1, 13, 0⟩, w1, rfl⟩

theorem witness_HandleFields_1 : ∃ (f : SH) (s : State) (a : Word) (h : BitVec 256), readS f.reg s = .ok a ∧ readH f.x s = .ok h ∧
    a.toNat < 2 ^ (hField f.fld.toNat).2 ∧
    handleValid (setField (handleToCome f.x s) (hField f.fld.toNat).1 (hField f.fld.toNat).2 a.toNat) = true :=
  ⟨⟨2, 1, 0, 1, 0⟩, hdl 1 hp w1, 5, hp, rfl, rfl, by decide, by decide⟩

theorem witness_HandleFields_2 : ∃ (f : SH) (s : State) (a : Word) (h : BitVec 256), readS f.reg s = .ok a ∧ readH f.x s = .ok h ∧
    (2 ^ (hField f.fld.toNat).2 ≤ a.toNat ∨ handleValid (setField (handleToCome f.x s) (hField f.fld.toNat).1 (hField f.fld.toNat).2
    a.toNat) = false) :=
  ⟨⟨2, 1, 0, 7, 0⟩, hdl 1 hp w1, 5, hp, rfl, rfl, .inl (by decide)⟩

theorem witness_HandleFields_3 : ∃ (f : SH) (s : State) (a : Word) (h : BitVec 256), readS f.reg s = .ok a ∧ readH f.x s = .ok h ∧
    s.core.st.pend = [] :=
  ⟨⟨2, 1, 0, 1, 0⟩, hdl 1 hp w1, 5, hp, rfl, rfl, rfl⟩

theorem witness_HandleFields_4 : ∃ (f : SH) (s : State) (h : BitVec 256), readH f.y s = .ok h :=
  ⟨⟨1, 0, 15, 0, 0⟩, hdl 15 hp w1, hp, rfl⟩

theorem witness_HandleFields_5 : ∃ (f : SH) (s : State) (h g : BitVec 256), readH f.y s = .ok h ∧ readH f.x s = .ok g :=
  ⟨⟨0, 2, 1, 0, 0⟩, hdl 1 hp w1, hp, 0, rfl, rfl⟩

theorem witness_HandleFields_6 : ∃ (h : BitVec 256) (lo w v lo' w' : Nat), lo + w ≤ 256 ∧ lo' + w' ≤ 256 ∧ v < 2 ^ w ∧
    (lo' + w' ≤ lo ∨ lo + w ≤ lo') ∧ 0 < w' :=
  ⟨hp, 80, 16, 65535, 64, 16,
    by refine ⟨?_, ?_, ?_, ?_, ?_⟩ <;> decide⟩

theorem witness_HandleMemory_1 : ∃ (f : SH) (s t0 : State) (a : Word) (h : BitVec 256) (v : Nat), readS f.reg s = .ok a ∧
    readH f.x s = .ok h ∧ (a + f.disp.signExtend 64).toNat % 32 = 0 ∧ globalRead1 (a + f.disp.signExtend 64).toNat 32 s = .ok (v, t0) ∧
    handleValid (BitVec.ofNat 256 v) = true :=
  ⟨⟨0, 1, 0, 0, 0x8000⟩, wMem [(0x8001, 0x80), (0x8008, 16), (0x800A, 16), (0x800C, 64)], _, 0, 0, _, rfl, rfl, rfl, rfl, by decide +kernel⟩

theorem witness_HandleMemory_2 : ∃ (f : SH) (s t0 : State) (a : Word) (h : BitVec 256) (v : Nat), readS f.reg s = .ok a ∧
    readH f.x s = .ok h ∧ (a + f.disp.signExtend 64).toNat % 32 = 0 ∧ globalRead1 (a + f.disp.signExtend 64).toNat 32 s = .ok (v, t0) ∧
    handleValid (BitVec.ofNat 256 v) = false :=
  ⟨⟨0, 1, 0, 0, 0x8000⟩, wMem [(0x801F, 255)], _, 0, 0, _, rfl, rfl, rfl, rfl, by decide +kernel⟩

theorem witness_HandleMemory_3 : ∃ (f : SH) (s t0 : State) (a : Word) (h : BitVec 256) (pa : Nat), readS f.reg s = .ok a ∧
    readH f.y s = .ok h ∧ (a + f.disp.signExtend 64).toNat % 32 = 0 ∧ xlateW .wr (a + f.disp.signExtend 64).toNat s = .ok (pa, t0) ∧
    t0.core.held.length < 128 :=
  ⟨⟨0, 0, 1, 0, 0x8020⟩, hdl 1 hp wPg, _, 0, hp, _, rfl, rfl, rfl, rfl, by decide +kernel⟩

theorem witness_PortConfiguration_1 : ∃ (f : SH) (s t0 : State) (a : Word) (bs : List Byte), readS f.reg s = .ok a ∧
    spadRead ((offsFrom ((a + f.disp.signExtend 64) &&& ~~~31).toNat 32).map fun (n : Nat) => (n : Int)) 0 ((a + f.disp.signExtend 64) &&&
    ~~~31) s = .ok (bs, t0) :=
  ⟨⟨2, 0, 0, 0, 70⟩, w1, _, 5, _, rfl, rfl⟩

theorem witness_PortConfiguration_2 : ∃ (f : SH) (s : State) (a : Word), readS f.reg s = .ok a ∧ psetOk f.fld.toNat a = true :=
  ⟨⟨2, 0, 0, 1, 0⟩, w1, 5, rfl, by decide⟩

theorem witness_PortConfiguration_3 : ∃ (f : SH) (s : State) (a : Word), readS f.reg s = .ok a ∧ psetOk f.fld.toNat a = false :=
  ⟨⟨2, 0, 0, 7, 0⟩, w1, 5, rfl, by decide⟩

theorem witness_PortConfiguration_4 : ∃ (s : State) (p fld : Nat) (a : Word), p < 10 ∧ fld < 16 ∧ psetOk fld a = true :=
  ⟨w1, 9, 15, 65535,
    by refine ⟨?_, ?_, ?_⟩ <;> decide⟩

theorem witness_StorePieceBytes_1 : ∃ (pa va : Nat) (bs : List Byte) (wm : Option Nat) (a : Nat), bs.length ≤ 64 - pa % 64 :=
  ⟨0x803C, 0x803C, [1, 2, 3, 4], none, 0x803F, by decide⟩

theorem witness_RegionReads_1 : ∃ (s s' t : State) (va n pa : Nat) (imm : Bool) (v : Nat), coreXlate .rd va s = .ok ((pa, imm), s') ∧
    s.core.l1 = [] ∧ pa % 64 + n ≤ 64 ∧ globalRead1 va n s = .ok (v, t) :=
  ⟨wPg, _, _, 0x8038, 8, _, _, _, ok3 (by decide +kernel), rfl, by decide +kernel, ok2 (by decide +kernel)⟩

theorem witness_ScalarGlobalAccess_1 : ∃ (f : LS) (s t0 : State) (a : Word) (v : Nat), lsAddr f s = .ok a ∧
    a.toNat % 2 ^ f.sz.toNat = 0 ∧ globalRead1 a.toNat (2 ^ f.sz.toNat) s = .ok (v, t0) :=
  ⟨⟨1, 0, 0, 0, 6, 0, 0, 3, 0x8000⟩, wPg, _, 0x8000, _, rfl, rfl, ok2 (by decide +kernel)⟩

theorem witness_ScalarGlobalAccess_2 : ∃ (f : LS) (s t0 : State) (a v : Word) (pa : Nat), lsAddr f s = .ok a ∧
    readS (f.f0.setWidth 6) s = .ok v ∧ a.toNat % 2 ^ f.sz.toNat = 0 ∧ xlateW .wr a.toNat s = .ok (pa, t0) ∧ t0.core.held.length < 128 :=
  ⟨⟨2, 0, 0, 0, 0, 0, 0, 0, 0x8001⟩, wPg, _, 0x8001, 5, _, rfl, rfl, rfl, ok2 (by decide +kernel), by decide +kernel⟩

theorem witness_ScalarGlobalAccess_3 : ∃ (f : LS) (s : State) (a : Word), lsAddr f s = .ok a ∧ a.toNat % 2 ^ f.sz.toNat ≠ 0 ∧
    (∃ t, lookupTlb s a.toNat = .ok t) ∧ (∃ t, lookupTlb s ((a.toNat + 2 ^ f.sz.toNat - 1) / 65536 * 65536) = .ok t) :=
  ⟨⟨1, 0, 0, 0, 0, 0, 0, 3, 0x8001⟩, wPg, 0x8001, rfl, by decide, ⟨_, ok1 (by decide +kernel)⟩, ⟨_, ok1 (by decide +kernel)⟩⟩

theorem witness_ScratchpadInstructions_1 : ∃ (f : LS) (s t0 : State) (a : Word) (bs : List Byte), lsAddr f s = .ok a ∧
    spadRead (spadOffs a (2 ^ f.sz.toNat)) f.fe.toNat a s = .ok (bs, t0) ∧ f.fe = 0 :=
  ⟨⟨1, 0, 0, 0, 0, 0, 0, 2, 64⟩, w1, _, 64, _, rfl, rfl, rfl⟩

theorem witness_ScratchpadInstructions_2 : ∃ (f : LS) (s t0 : State) (a : Word) (bs : List Byte), lsAddr f s = .ok a ∧
    spadRead (spadOffs a (2 ^ f.sz.toNat)) f.fe.toNat a s = .ok (bs, t0) ∧ f.fe ≠ 0 :=
  ⟨⟨1, 0, 0, 0, 0, 0, 2, 3, 64⟩, wFe, _, 64, _, rfl, rfl, by decide⟩

theorem witness_ScratchpadInstructions_3 : ∃ (f : LS) (s : State) (a v : Word), lsAddr f s = .ok a ∧ readS (f.f0.setWidth 6) s = .ok v ∧
    spadWriteCheck (spadOffs a (2 ^ f.sz.toNat)) f.fe.toNat a s = .ok () :=
  ⟨⟨2, 0, 0, 0, 0, 0, 0, 3, 64⟩, w1, 64, 5, rfl, rfl, rfl⟩

theorem witness_ScratchpadInstructions_4 : ∃ (f : LS) (s : State) (a v : Word), lsAddr f s = .ok a ∧ readS (f.f0.setWidth 6) s = .ok v ∧
    spadWriteCheck (spadOffs a (2 ^ f.sz.toNat)) f.fe.toNat a s = .ok () :=
  ⟨⟨2, 0, 0, 0, 0, 0, 1, 3, 128⟩, wFe, 128, 5, rfl, rfl, rfl⟩

theorem witness_ScratchpadInstructions_5 : ∃ (f : LS) (s : State) (a n : Word), lsAddr f s = .ok a ∧ readS (f.f0.setWidth 6) s = .ok n ∧
    n ≠ 0 ∧ a.toNat + 16 * n.toNat ≤ splitBytes s.core.split :=
  ⟨⟨2, 0, 0, 0, 0, 0, 2, 0, 16⟩, w1, 16, 5, rfl, rfl, by decide, by decide⟩

theorem witness_ScratchpadReads_1 : ∃ (offs : List Int) (s : State), inWindow s offs = false :=
  ⟨[131072], w1, by decide⟩

theorem witness_ScratchpadReads_2 : ∃ (offs : List Int) (fe : Nat) (s : State), inWindow s offs = true ∧ fe ≠ 0 ∧
    (∃ o ∈ offs, SMap.get false s.core.full (o.toNat / 16) = false) :=
  ⟨[0], 2, w1,
    by refine ⟨?_, ?_, ?_⟩ <;> decide⟩

theorem witness_ScratchpadReads_3 : ∃ (offs : List Int) (fe : Nat) (s : State), inWindow s offs = true ∧
    (fe ≠ 0 → ∀ o ∈ offs, SMap.get false s.core.full (o.toNat / 16) = true) ∧ s.core.st.pend = [] ∧ s.core.st.imgs = [] ∧
    s.core.mq = [] ∧ s.core.sq = [] :=
  ⟨[131071], 2, mapCore (fun c => { c with full := [(8191, true)] }) w1, by decide, by decide, rfl, rfl, rfl, rfl⟩

theorem witness_OtherLoadStore_1 : ∃ (f : LS) (s t0 : State) (a : Word) (v : Vec), lsAddr f s = .ok a ∧
    spadWriteCheck (spadOffs (a &&& ~~~63) 64) f.fe.toNat (a &&& ~~~63) s = .ok () ∧ popSel (f.f0.setWidth 6) s = .ok (v, t0) :=
  ⟨⟨0, 0, 0, 0, 0, 0, 0, 0, 256⟩, wPort, _, 256, _, rfl, rfl, rfl⟩

theorem witness_OtherLoadStore_2 : ∃ (f : LS) (s t0 : State) (a : Word) (v : Vec), lsAddr f s = .ok a ∧ mcV s.core.mcw = true ∧
    a.toNat / 64 * 64 + 64 ≤ mcLen s.core.mcw ∧ srcVec (f.f0.setWidth 6) 0 s = .ok (v, t0) ∧ mcTargets s.core.id s.core.mcw ≠ [] :=
  ⟨⟨34, 0, 0, 0, 0, 0, 2, 0, 0⟩, wMc, _, 0, _, rfl, by decide, by decide, rfl, by decide⟩

theorem witness_OtherLoadStore_3 : ∃ (f : LS) (s : State) (a : Word), lsAddr f s = .ok a :=
  ⟨⟨0, 2, 3, 0, 0, 0, 0, 0, 0x3FFFFF⟩, w1, 11, rfl⟩

theorem witness_OtherLoadStore_4 : ∃ (f : LS) (s s1 s2 : State) (h : BitVec 256) (p : Nat) (w v pa : Nat) (imm : Bool) (s3 : State),
    readH f.h s = .ok h ∧ checkRec (hTmr h) s = .ok (p, s1) ∧ globalRead1 (tmrVa s (hTmr h) + 8 * f.disp.toNat) 8 s1 = .ok (w, s2) ∧
    coreXlate .rd (tmrVa s (hTmr h) + 8 * f.disp.toNat) s1 = .ok ((pa, imm), s3) ∧ v = (if 3 ≤ f.disp.toNat ∧
    f.disp.toNat ≤ 12 then rdN s1 pa 8 else w) :=
  ⟨⟨1, 0, 0, 1, 0, 0, 0, 0, 0⟩, wRec 2, _, _, hg, _, _, _, _, _, _, rfl, ok2 (by decide +kernel), ok2 (by decide +kernel),
    ok3 (by decide +kernel), rfl⟩

theorem witness_OtherLoadStore_5 : ∃ (f : LS) (s s1 s2 : State) (a : Word) (pa : Nat) (imm : Bool) (bs : List (List Byte)),
    lsAddr f s = .ok a ∧ coreXlate .rd a.toNat s = .ok ((pa, imm), s1) ∧ isPool pa = false ∧
    globalReadWith .rd false [] [(a.toNat, 1)] s = .ok (bs, s2) :=
  ⟨⟨1, 0, 0, 0, 0, 0, 0, 0, 0x8000⟩, wPg, _, _, 0x8000, _, _, _, rfl, ok3 (by decide +kernel), by decide +kernel, ok2 (by decide +kernel)⟩

theorem witness_LoadStoreFrame_1 : ∃ (i : Instr) (s t : State), i = .st ⟨2, 0, 0, 0, 0, 0, 0, 0, 0x8001⟩ ∧ exec i s = .next t ∧
    t.ctx.cause = none :=
  ⟨.st ⟨2, 0, 0, 0, 0, 0, 0, 0, 0x8001⟩, wPg, _, rfl, rfl, rfl⟩

theorem witness_CapabilityQueries_3 : ∃ (f : SX) (s : State), f.n = 1 ∧ s.ctl.deadDies.contains (dieOf s.core.id) = false :=
  ⟨⟨1, 1, 0⟩, w1, rfl, rfl⟩

theorem witness_CapabilityQueries_4 : ∃ (f : SX) (s : State), f.n = 11 ∧ s.ctl.deadDies = [] :=
  ⟨⟨1, 11, 0⟩, w1, rfl, rfl⟩

theorem witness_SystemWrites_4 : ∃ (s : State), s.core.st.tm = false :=
  ⟨w1, rfl⟩

theorem witness_ScratchpadInstructions_6 : ∃ (f : LS) (s : State) (a n : Word), lsAddr f s = .ok a ∧ readS (f.f0.setWidth 6) s = .ok n ∧
    n = 0 :=
  ⟨⟨3, 0, 0, 0, 0, 0, 2, 0, 16⟩, reg 3 0 w1, 16, 0, rfl, rfl, rfl⟩

theorem witness_ScalarGlobalAccess_4 : ∃ (f : LS) (s : State) (a : Word), lsAddr f s = .ok a ∧ a.toNat % 2 ^ f.sz.toNat ≠ 0 ∧
    (∃ t, lookupTlb s a.toNat = .ok t) ∧ (∃ t, lookupTlb s ((a.toNat + 2 ^ f.sz.toNat - 1) / 65536 * 65536) = .ok t) ∧
    (∃ v, readS (f.f0.setWidth 6) s = .ok v) :=
  ⟨⟨2, 0, 0, 0, 0, 0, 0, 2, 0x8002⟩, wPg, 0x8002, rfl, by decide, ⟨_, ok1 (by decide +kernel)⟩, ⟨_, ok1 (by decide +kernel)⟩, ⟨5, rfl⟩⟩

theorem witness_ScalarGlobalAccess_5 : ∃ (f : LS) (s : State) (a : Word), lsAddr f s = .ok a ∧ a.toNat % 2 ^ f.sz.toNat ≠ 0 ∧
    (∃ t, lookupTlb s a.toNat = .ok t) ∧ (∃ t, lookupTlb s ((a.toNat + 2 ^ f.sz.toNat - 1) / 65536 * 65536) = .ok t) ∧
    heldMeets (.ok a) (2 ^ f.sz.toNat) s = none :=
  ⟨⟨1, 0, 0, 0, 0, 0, 0, 1, 0x800F⟩, wPg, 0x800F, rfl, by decide, ⟨_, ok1 (by decide +kernel)⟩, ⟨_, ok1 (by decide +kernel)⟩, rfl⟩

theorem witness_ExactValuesKept_1 : ∃ (ty c mode r : Nat), ty ≤ 3 ∧ c < 2 ^ widthOf ty ∧ (∃ nz q, valueOf ty c = .fin nz q) ∧ mode ≤ 2 ∧
    r < 65536 :=
  ⟨0, 0x3F800000, 2, 65535, by decide, by decide, ⟨_, _, rfl⟩, by decide, by decide⟩

theorem witness_SpecialConversions_1 : ∃ ty : Nat, ty ≤ 3 :=
  ⟨3, by decide⟩

theorem witness_StochasticDraws_1 : ∃ (rnd n : Nat) (s : State), rnd ≠ 2 :=
  ⟨1, 16, w1, by decide⟩

theorem witness_LanePacking_1 : ∃ (w : Nat) (ls : List Nat) (i : Nat), w ∈ [4, 8, 16, 32] ∧ ls.length ≤ 512 / w ∧ (∀ x ∈ ls, x < 2 ^ w) :=
  ⟨32, List.replicate 16 0xFFFFFFFF, 15,
    by refine ⟨?_, ?_, ?_⟩ <;> decide⟩

theorem witness_VectorSources_1 : ∃ (sel : BitVec 6) (ty : Nat) (s : State) (w : Word), 32 ≤ sel ∧ readS (sel &&& 31) s = .ok w :=
  ⟨34, 0, w1, 5, by decide, rfl⟩

theorem witness_VectorSources_2 : ∃ (sel : BitVec 6) (ty : Nat) (s : State) (v : Vec), ¬ 32 ≤ sel ∧ findKey s.ctx.pops sel.toNat = some v :=
  ⟨31, 0, mapCtx (fun k => { k with pops := [(31, 9)] }) w1, 9, by decide, rfl⟩

theorem witness_VectorSources_3 : ∃ (sel : BitVec 6) (s t : State) (v : Vec), popSel sel s = .ok (v, t) :=
  ⟨0, wPort, _, _, ok2 (by decide +kernel)⟩

theorem witness_PortPops_1 : ∃ (k : Nat) (s : State), k < 10 ∧
    (dfield (portDesc s k) 179 179 = 0 ∨ dfield (portDesc s k) 239 224 = dfield (portDesc s k) 79 64) :=
  ⟨0, w1, by decide, by decide⟩

theorem witness_PortPops_2 : ∃ (k : Nat) (s : State) (bs : List Byte) (t : State), k < 10 ∧ dfield (portDesc s k) 179 179 = 1 ∧
    dfield (portDesc s k) 239 224 ≠ dfield (portDesc s k) 79 64 ∧
    spadRead ((portBytes (portDesc s k)).map (·.2)) (dfield (portDesc s k) 177 176) (BitVec.ofInt 64 (portAddr (portDesc s k))) s = .ok
    (bs, t) :=
  ⟨0, wPort, _, _, by decide, by decide, by decide, ok2 (by decide +kernel)⟩

theorem witness_PortOrder_1 : ∃ (d : BitVec 256), portValid d = true ∧ dfield d 179 179 = 1 ∧ dfield d 239 224 < dfield d 79 64 :=
  ⟨pd,
    by refine ⟨?_, ?_, ?_⟩ <;> decide⟩

theorem witness_PortPushes_1 : ∃ (k : Nat) (v : Vec) (cls : Nat) (fl : Flags) (s : State), k < 10 ∧ pushCheck k s = .ok () ∧
    assumed s cls = 0 ∧ assumed s 11 = 0 :=
  ⟨6, 9, 4, 1, wPort, by decide, ok0 (by decide +kernel), by decide, by decide⟩

theorem witness_PortPushes_2 : ∃ (k : Nat) (v : Vec) (cls : Nat) (fl : Flags) (s : State), k < 10 ∧ pushCheck k s = .ok () ∧
    assumed s cls ≠ 0 ∧ assumed s 11 ≠ 0 :=
  ⟨6, 9, 4, 1, mapSt (fun t => { t with lathdr := 0x100000060000 }) wPort, by decide, ok0 (by decide +kernel), by decide, by decide⟩

theorem witness_PortPushes_3 : ∃ (k : Nat) (v : Vec) (cls : Nat) (fl : Flags) (s : State), k < 10 ∧ pushCheck k s = .ok () ∧
    (assumed s cls = 0) ≠ (assumed s 11 = 0) :=
  ⟨6, 9, 4, 1, mapSt (fun t => { t with lathdr := 0x100000000000 }) wPort, by decide, ok0 (by decide +kernel), by decide +kernel⟩

theorem witness_VectorTwoSource_1 : ∃ r ∈ Claims.arithRows, ∃ (f : VF) (s s1 s2 : State) (a b : Vec), srcVec f.va f.ty.toNat s = .ok (a,
    s1) ∧ srcVec f.vb f.ty.toNat s1 = .ok (b, s2) ∧ (f.ty = 5 ∨ f.ty = 6) ∧ Claims.room f s2 :=
  ⟨(.vadd, 4, XV.add, (· + ·)), List.mem_cons_self .., ⟨false, 0x10, 34, 35, 0, 6, 0, 0, 0⟩, wPort, _, _, _, _, ok2 (by decide +kernel),
    ok2 (by decide +kernel), by decide, ok0 (by decide +kernel)⟩

theorem witness_VectorTwoSource_2 : ∃ r ∈ Claims.arithRows, ∃ (f : VF) (s s1 s2 : State) (a b : Vec) (rs : List Nat) (s3 : State),
    srcVec f.va f.ty.toNat s = .ok (a, s1) ∧ srcVec f.vb f.ty.toNat s1 = .ok (b, s2) ∧ (f.ty = 0 ∨ f.ty = 1) ∧
    draws f.rnd.toNat (512 / widthOf f.ty.toNat) s2 = (rs, s3) ∧ Claims.room f s3 :=
  ⟨(.vadd, 4, XV.add, (· + ·)), List.mem_cons_self .., ⟨false, 0x10, 34, 0, 0, 1, 0, 2, 0⟩, wPort, _, _, _, _, _, _,
    ok2 (by decide +kernel), ok2 (by decide +kernel), by decide, rfl, ok0 (by decide +kernel)⟩

theorem witness_VectorAbsNeg_1 : ∃ (f : VF) (s s1 : State) (a : Vec), srcVec f.va f.ty.toNat s = .ok (a, s1) ∧ (f.ty = 5 ∨ f.ty = 6) ∧
    Claims.room f s1 :=
  ⟨⟨false, 0x10, 34, 0, 0, 5, 0, 0, 0⟩, wPort, _, _, ok2 (by decide +kernel), by decide, ok0 (by decide +kernel)⟩

theorem witness_VectorAbsNeg_2 : ∃ (f : VF) (s s1 s2 : State) (a : Vec) (rs : List Nat), srcVec f.va f.ty.toNat s = .ok (a, s1) ∧
    (f.ty = 0 ∨ f.ty = 1) ∧ draws f.rnd.toNat (512 / widthOf f.ty.toNat) s1 = (rs, s2) ∧ Claims.room f s2 :=
  ⟨⟨false, 0x10, 34, 0, 0, 0, 0, 1, 0⟩, wPort, _, _, _, _, ok2 (by decide +kernel), by decide, rfl, ok0 (by decide +kernel)⟩

theorem witness_VectorFusedTranscendental_1 : ∃ (f : VF) (s s1 s2 s3 s4 : State) (a b c : Vec) (rs : List Nat), (f.ty = 0 ∨ f.ty = 1) ∧
    srcVec f.va f.ty.toNat s = .ok (a, s1) ∧ srcVec f.vb f.ty.toNat s1 = .ok (b, s2) ∧ srcVec f.vc f.ty.toNat s2 = .ok (c, s3) ∧
    draws f.rnd.toNat (512 / widthOf f.ty.toNat) s3 = (rs, s4) ∧ Claims.room f s4 :=
  ⟨⟨false, 0x10, 34, 35, 0, 0, 0, 2, 0⟩, wPort, _, _, _, _, _, _, _, _, by decide, ok2 (by decide +kernel), ok2 (by decide +kernel),
    ok2 (by decide +kernel), rfl, ok0 (by decide +kernel)⟩

theorem witness_VectorFusedTranscendental_2 : ∃ (f : VF) (s s1 s2 : State) (a : Vec) (rs : List Nat), (f.ty = 0 ∨ f.ty = 1) ∧
    srcVec f.va f.ty.toNat s = .ok (a, s1) ∧ draws f.rnd.toNat (512 / widthOf f.ty.toNat) s1 = (rs, s2) ∧ Claims.room f s2 :=
  ⟨⟨false, 0x10, 34, 0, 0, 1, 0, 0, 0⟩, wPort, _, _, _, _, by decide, ok2 (by decide +kernel), rfl, ok0 (by decide +kernel)⟩

theorem witness_VectorBits_1 : ∃ (f : VF) (s s1 s2 : State) (a b : Vec), srcVec f.va f.ty.toNat s = .ok (a, s1) ∧
    srcVec f.vb f.ty.toNat s1 = .ok (b, s2) ∧ Claims.room f s2 :=
  ⟨⟨false, 0x10, 34, 0, 0, 0, 0, 0, 0⟩, wPort, _, _, _, _, ok2 (by decide +kernel), ok2 (by decide +kernel), ok0 (by decide +kernel)⟩

theorem witness_VectorBits_2 : ∃ (f : VF) (s s1 : State) (a : Vec), (f.ty = 5 ∨ f.ty = 6) ∧ srcVec f.va f.ty.toNat s = .ok (a, s1) ∧
    f.ctl.getLsbD 11 = true ∧ Claims.room f s1 :=
  ⟨⟨false, 0x10, 34, 0, 0, 6, 0, 0, 0x81F⟩, wPort, _, _, by decide, ok2 (by decide +kernel), by decide, ok0 (by decide +kernel)⟩

theorem witness_VectorBits_3 : ∃ (f : VF) (s s1 : State) (a b : Vec) (s2 : State), (f.ty = 5 ∨ f.ty = 6) ∧
    srcVec f.va f.ty.toNat s = .ok (a, s1) ∧ f.ctl.getLsbD 11 = false ∧ srcVec f.vb f.ty.toNat s1 = .ok (b, s2) ∧ Claims.room f s2 :=
  ⟨⟨false, 0x10, 34, 35, 0, 5, 0, 0, 0⟩, wPort, _, _, _, _, by decide, ok2 (by decide +kernel), by decide, ok2 (by decide +kernel),
    ok0 (by decide +kernel)⟩

theorem witness_VectorBits_4 : ∃ (f : VF) (s s1 s2 : State) (a b : Vec),
    (f.ty = 0 ∨ f.ty = 1 ∨ f.ty = 2 ∨ f.ty = 3 ∨ f.ty = 5 ∨ f.ty = 6) ∧ srcVec f.va f.ty.toNat s = .ok (a, s1) ∧
    srcVec f.vb f.ty.toNat s1 = .ok (b, s2) ∧ Claims.room f s2 :=
  ⟨⟨false, 0x10, 34, 35, 0, 2, 0, 0, 0⟩, wPort, _, _, _, _, by decide, ok2 (by decide +kernel), ok2 (by decide +kernel),
    ok0 (by decide +kernel)⟩

theorem witness_VectorBits_5 : ∃ (f : VF) (s s1 s2 s3 : State) (a b c : Vec), tyMove f.ty = true ∧
    srcVec f.va f.ty.toNat s = .ok (a, s1) ∧ srcVec f.vb f.ty.toNat s1 = .ok (b, s2) ∧ srcVec f.vc f.ty.toNat s2 = .ok (c, s3) ∧
    Claims.room f s3 :=
  ⟨⟨false, 0x10, 34, 35, 0, 2, 0, 0, 0⟩, wPort, _, _, _, _, _, _, by decide, ok2 (by decide +kernel), ok2 (by decide +kernel),
    ok2 (by decide +kernel), ok0 (by decide +kernel)⟩

theorem witness_VectorConvert_1 : ∃ (f : VF) (s s1 s2 : State) (all xs : List XV) (rs : List Nat), (Instr.vcvt f).wf = true ∧
    f.tyd ≠ f.ty ∧ popAll f.ty.toNat (Claims.cvtSels f) s = .ok (all, s1) ∧
    xs = (if elems f.tyd < elems f.ty then (all.drop ((f.ctl.extractLsb' 6 2).toNat * elems f.tyd)).take (elems f.tyd) else all) ∧
    draws f.rnd.toNat (elems f.tyd) s1 = (rs, s2) ∧ Claims.room f s2 :=
  ⟨⟨false, 0x10, 34, 35, 0, 0, 1, 0, 0⟩, wPort, _, _, _, _, _, by decide, by decide, ok2 (by decide +kernel), rfl, rfl,
    ok0 (by decide +kernel)⟩

theorem witness_VectorConvert_2 : ∃ (f : VF) (s s1 s2 : State) (a : Vec) (rs : List Nat), f.tyd = f.ty ∧
    srcVec f.va f.ty.toNat s = .ok (a, s1) ∧ draws f.rnd.toNat (elems f.tyd) s1 = (rs, s2) ∧ Claims.room f s2 :=
  ⟨⟨false, 0x10, 34, 0, 0, 0, 0, 0, 0⟩, wPort, _, _, _, _, rfl, ok2 (by decide +kernel), rfl, ok0 (by decide +kernel)⟩

theorem witness_VectorConvert_3 : ∃ (f : VF) (s s1 s2 : State) (a : Vec) (rs : List Nat), (f.ty = 0 ∨ f.ty = 1) ∧
    (f.tyd = 1 ∨ f.tyd = 2 ∨ f.tyd = 3) ∧ srcVec f.va f.ty.toNat s = .ok (a, s1) ∧
    draws f.rnd.toNat (512 / widthOf f.ty.toNat) s1 = (rs, s2) ∧ Claims.room f s2 :=
  ⟨⟨false, 0x10, 34, 0, 0, 0, 3, 2, 0⟩, wPort, _, _, _, _, by decide, by decide, ok2 (by decide +kernel), rfl, ok0 (by decide +kernel)⟩

theorem witness_VectorConvert_4 : ∃ (f : VF) (s s1 s2 : State) (a : Vec) (rs : List Nat), (f.ty = 0 ∨ f.ty = 1) ∧
    f.ctl.getLsbD 11 = true ∧ srcVec f.va f.ty.toNat s = .ok (a, s1) ∧ draws f.rnd.toNat (512 / widthOf f.ty.toNat) s1 = (rs, s2) ∧
    Claims.room f s2 :=
  ⟨⟨false, 0x10, 34, 0, 0, 0, 0, 0, 0x9FF⟩, wPort, _, _, _, _, by decide, by decide, ok2 (by decide +kernel), rfl, ok0 (by decide +kernel)⟩

theorem witness_VectorConvert_5 : ∃ (f : VF) (s s1 s2 : State) (a : Vec) (w : Word) (rs : List Nat), (f.ty = 0 ∨ f.ty = 1) ∧
    f.ctl.getLsbD 11 = false ∧ 32 ≤ f.vb ∧ srcVec f.va f.ty.toNat s = .ok (a, s1) ∧ readS (f.vb &&& 31) s1 = .ok w ∧
    draws f.rnd.toNat (512 / widthOf f.ty.toNat) s1 = (rs, s2) ∧ Claims.room f s2 :=
  ⟨⟨false, 0x10, 34, 35, 0, 1, 0, 0, 0⟩, wPort, _, _, _, _, _, by decide, by decide, by decide, ok2 (by decide +kernel),
    ok1 (by decide +kernel), rfl, ok0 (by decide +kernel)⟩

theorem witness_VectorConvert_6 : ∃ (f : VF) (s s1 s2 s3 s4 : State) (h : BitVec 256) (r : Rec) (e : Ent) (xs ys : List XV) (rs : List
    Nat), readH (f.ctl.extractLsb' 0 4) s = .ok h ∧ hGov h = true ∧ readRec (hTmr h) s = .ok (r, s1) ∧ r.current = some e ∧
    needFmt s1 e.f = .ok () ∧ noPoolData h s1 = .ok () ∧ popAll f.ty.toNat (vqntSels f (vecElems e.f)) s1 = .ok (ys, s2) ∧
    xs = ys.take (vecElems e.f) ∧ draws f.rnd.toNat (vecElems e.f) s2 = (rs, s3) ∧
    setHeld (addHist r.pa (xs.map fun x => binOf x e.e e.f) s3.core.held) s3 = .ok s4 ∧ Claims.room f s4 :=
  ⟨⟨false, 0x10, 34, 35, 34, 0, 15, 0, 0x221⟩, wRec 2, _, _, _, _, hg, _, ⟨4, 1, 2⟩, _, _, _, rfl, by decide, ok2 (by decide +kernel),
    by decide +kernel, rfl, ok0 (by decide +kernel), ok2 (by decide +kernel), rfl, rfl, ok1 (by decide +kernel), ok0 (by decide +kernel)⟩

theorem witness_VectorConvert_7 : ∃ (f : VF) (s s1 s2 s3 : State) (h : BitVec 256) (w : Word) (r : Rec) (e : Ent) (a : Vec) (rs : List Nat)
    (n : Nat), n = (if f.tyd = 0 then 16 else 32) ∧ (f.ctl.extractLsb' 8 2).toNat < vecElems e.f / n ∧
    readH (f.ctl.extractLsb' 0 4) s = .ok h ∧ hGov h = true ∧ readS (f.vb &&& 31) s = .ok w ∧ readRec (hTmr h) s = .ok (r, s1) ∧
    vdqEntry h w r = some e ∧ needFmt s1 e.f = .ok () ∧ noPoolData h s1 = .ok () ∧ srcVec f.va e.f s1 = .ok (a, s2) ∧
    draws f.rnd.toNat n s2 = (rs, s3) ∧ Claims.room f s3 :=
  ⟨⟨false, 0x10, 34, 36, 0, 15, 0, 0, 0x301⟩, reg 4 4 (wRec 3), _, _, _, hg, 4, _, ⟨4, 1, 3⟩, _, _, 16, rfl, by decide, rfl, by decide,
    rfl, ok2 (by decide +kernel), by decide +kernel, rfl, ok0 (by decide +kernel), ok2 (by decide +kernel), rfl, ok0 (by decide +kernel)⟩

theorem witness_VectorReductions_1 : ∃ (f : VF) (s s1 : State) (a : Vec), (f.ty = 5 ∨ f.ty = 6) ∧ scalDst f.vd = true ∧
    srcVec f.va f.ty.toNat s = .ok (a, s1) :=
  ⟨⟨false, 0x21, 34, 0, 0, 6, 6, 0, 0⟩, wPort, _, _, by decide, by decide, ok2 (by decide +kernel)⟩

theorem witness_VectorReductions_2 : ∃ (f : VF) (s s1 s2 : State) (a : Vec) (rs : List Nat), (f.ty = 0 ∨ f.ty = 1) ∧
    srcVec f.va f.ty.toNat s = .ok (a, s1) ∧ scalDst f.vd = true ∧ draws f.rnd.toNat 1 s1 = (rs, s2) :=
  ⟨⟨false, 0x21, 34, 0, 0, 0, 0, 2, 0⟩, wPort, _, _, _, _, by decide, ok2 (by decide +kernel), by decide, rfl⟩

theorem witness_VectorReductions_3 : ∃ (f : VF) (s s1 s2 : State) (a : Vec) (rs : List Nat), (f.ty = 0 ∨ f.ty = 1) ∧
    srcVec f.va f.ty.toNat s = .ok (a, s1) ∧ scalDst f.vd = false ∧ draws f.rnd.toNat (elems f.tyd) s1 = (rs, s2) ∧ Claims.room f s2 :=
  ⟨⟨false, 0x10, 34, 0, 0, 1, 0, 2, 0⟩, wPort, _, _, _, _, by decide, ok2 (by decide +kernel), by decide, rfl, ok0 (by decide +kernel)⟩

theorem witness_VectorReductions_4 : ∃ (f : VF) (s s1 s2 : State) (a : Vec) (rs : List Nat), (f.ty = 5 ∨ f.ty = 6) ∧
    scalDst f.vd = false ∧ srcVec f.va f.ty.toNat s = .ok (a, s1) ∧ draws f.rnd.toNat (elems f.tyd) s1 = (rs, s2) ∧ Claims.room f s2 :=
  ⟨⟨false, 0x10, 34, 0, 0, 5, 6, 0, 0⟩, wPort, _, _, _, _, by decide, by decide, ok2 (by decide +kernel), rfl, ok0 (by decide +kernel)⟩

theorem witness_VectorMovement_1 : ∃ (f : VF) (s s1 : State) (a : Vec), tyMove f.ty = true ∧ srcVec f.va f.ty.toNat s = .ok (a, s1) ∧
    Claims.room f s1 :=
  ⟨⟨false, 0x10, 34, 0, 0, 5, 0, 0, 63⟩, wPort, _, _, by decide, ok2 (by decide +kernel), ok0 (by decide +kernel)⟩

theorem witness_VectorMovement_2 : ∃ (f : VF) (s s1 : State) (a : Vec), srcVec f.va f.ty.toNat s = .ok (a, s1) :=
  ⟨⟨false, 0x21, 34, 0, 0, 6, 0, 0, 15⟩, wPort, _, _, ok2 (by decide +kernel)⟩

theorem witness_VectorMovement_3 : ∃ (f : VF) (s s1 s2 : State) (a b : Vec), tyMove f.ty = true ∧ 2 ≤ f.ctl.extractLsb' 8 4 ∧
    f.ctl.extractLsb' 8 4 < 7 ∧ srcVec f.va f.ty.toNat s = .ok (a, s1) ∧ srcVec f.vb f.ty.toNat s1 = .ok (b, s2) ∧ Claims.room f s2 :=
  ⟨⟨false, 0x10, 34, 0, 0, 0, 0, 0, 0x600⟩, wPort, _, _, _, _, by decide, by decide, by decide, ok2 (by decide +kernel),
    ok2 (by decide +kernel), ok0 (by decide +kernel)⟩

theorem witness_VectorMovement_4 : ∃ (f : VF) (s s1 : State) (a : Vec), tyMove f.ty = true ∧ f.ctl.extractLsb' 8 4 < 2 ∧
    srcVec f.va f.ty.toNat s = .ok (a, s1) ∧ Claims.room f s1 :=
  ⟨⟨false, 0x10, 34, 0, 0, 0, 0, 0, 0x0FF⟩, wPort, _, _, by decide, by decide, ok2 (by decide +kernel), ok0 (by decide +kernel)⟩

theorem witness_VectorMovement_5 : ∃ (f : VF) (s s1 : State) (a : Vec), f.vd < 0x80 ∧ srcVec f.va f.ty.toNat s = .ok (a, s1) ∧
    Claims.room f s1 :=
  ⟨⟨false, 0x10, 0, 0, 0, 0, 0, 0, 0⟩, wPort, _, _, by decide, ok2 (by decide +kernel), ok0 (by decide +kernel)⟩

theorem witness_VectorMovement_6 : ∃ (f : VF) (s : State), f.vd < 0x80 ∧ Claims.room f s :=
  ⟨⟨false, 0x10, 0, 0, 0, 0, 0, 0, 0⟩, wPort, by decide, ok0 (by decide +kernel)⟩

theorem witness_AccumulatorRows_1 : ∃ (f : VF) (s s1 : State) (a : Vec), 0x80 ≤ f.vd ∧ srcVec f.va f.ty.toNat s = .ok (a, s1) ∧
    (bankOf s1.core (rowBank f)).lent = false :=
  ⟨⟨true, 0x95, 34, 0, 0, 0, 0, 0, 0⟩, wPort, _, _, by decide, ok2 (by decide +kernel), by decide +kernel⟩

theorem witness_AccumulatorRows_2 : ∃ (f : VF) (s s1 : State) (a : Vec), 0x80 ≤ f.vd ∧ srcVec f.va f.ty.toNat s = .ok (a, s1) ∧
    (bankOf s1.core (rowBank f)).lent = true :=
  ⟨⟨true, 0x95, 34, 0, 0, 0, 0, 0, 0⟩, wBank true false, _, _, by decide, ok2 (by decide +kernel), by decide +kernel⟩

theorem witness_AccumulatorRows_3 : ∃ (f : VF) (s : State), (bankOf s.core (rowBank f)).block = true ∧
    (bankOf s.core (rowBank f)).lent = false :=
  ⟨⟨true, 0x94, 0, 0, 0, 7, 0, 0, 0⟩, wBank false true, by decide +kernel, by decide +kernel⟩

theorem witness_AccumulatorRows_4 : ∃ (f : VF) (s : State), 0x80 ≤ f.vd ∧ (bankOf s.core (rowBank f)).lent = false :=
  ⟨⟨true, 0xFF, 0, 0, 0, 0, 0, 0, 0⟩, wPort, by decide, by decide +kernel⟩

theorem witness_AccumulatorRows_5 : ∃ (f : VF) (s s1 : State) (a : Vec), 0x80 ≤ f.vd ∧ srcVec f.va f.ty.toNat s = .ok (a, s1) ∧
    f.ty ≠ (if (bankOf s.core (rowBank f)).block then 7 else 0) :=
  ⟨⟨true, 0x95, 34, 0, 0, 7, 0, 0, 0⟩, wPort, _, _, by decide, ok2 (by decide +kernel), by decide +kernel⟩

theorem witness_AccumulatorRows_6 : ∃ (f : VF) (s : State), (bankOf s.core (rowBank f)).block = false :=
  ⟨⟨true, 0x94, 0, 0, 0, 7, 0, 0, 0⟩, wBank true false, by decide +kernel⟩

theorem witness_AccumulatorRows_7 : ∃ (f : VF) (s : State), (bankOf s.core (rowBank f)).block = true ∧ 0x80 ≤ f.vd ∧
    (bankOf s.core (rowBank f)).lent = true :=
  ⟨⟨true, 0x94, 0, 0, 0, 7, 0, 0, 0⟩, wBank true true,
    by refine ⟨?_, ?_, ?_⟩ <;> decide +kernel⟩

theorem witness_OptimiserSteps_1 : ∃ (f : VF) (s s1 s2 s3 : State) (g m v : Vec) (x y : Word), srcVec f.va 0 s = .ok (g, s1) ∧
    srcVec f.vb 0 s1 = .ok (m, s2) ∧ srcVec f.vc 0 s2 = .ok (v, s3) ∧ readS ((f.ctl.extractLsb' 0 5 : BitVec 5).setWidth 6) s3 = .ok x ∧
    readS ((f.ctl.extractLsb' 0 5 : BitVec 5).setWidth 6 + 1) s3 = .ok y ∧ Claims.room f s3 :=
  ⟨⟨true, 0x10, 34, 35, 34, 0, 0, 0, 30⟩, wPort, _, _, _, _, _, _, _, _, ok2 (by decide +kernel), ok2 (by decide +kernel),
    ok2 (by decide +kernel), ok1 (by decide +kernel), ok1 (by decide +kernel), ok0 (by decide +kernel)⟩

theorem witness_OptimiserSteps_2 : ∃ (f : VF) (s s1 s2 s3 : State) (g u w : Vec) (x : Word), srcVec f.va 0 s = .ok (g, s1) ∧
    srcVec f.vb 0 s1 = .ok (u, s2) ∧ srcVec f.vc 0 s2 = .ok (w, s3) ∧ readS ((f.ctl.extractLsb' 0 5 : BitVec 5).setWidth 6) s3 = .ok x ∧
    Claims.room f s3 :=
  ⟨⟨true, 0x10, 34, 35, 34, 0, 0, 0, 31⟩, wPort, _, _, _, _, _, _, _, ok2 (by decide +kernel), ok2 (by decide +kernel),
    ok2 (by decide +kernel), ok1 (by decide +kernel), ok0 (by decide +kernel)⟩

theorem witness_VectorPortFrame_1 : ∃ (i : Instr) (f : VF) (s t : State), i.vform = some f ∧ i.wf = true ∧ f.vd < 0x14 ∧
    exec i s = .next t ∧ t.ctx.cause = none :=
  ⟨.vadd ⟨false, 0x10, 34, 35, 0, 6, 0, 0, 0⟩, _, wPort, _, rfl, by decide, by decide, rfl, by decide +kernel⟩

theorem witness_TranscendentalCases_1 : ∃ (b : BitVec 32) (nz : Bool) (q : Q), q.den ≠ 0 ∧ q.num = 0 :=
  ⟨0, true, ⟨0, 1⟩, by decide, by decide⟩

theorem witness_TranscendentalCases_2 : ∃ (b : BitVec 32) (nz : Bool) (q : Q), q.den ≠ 0 ∧ q.num < 0 :=
  ⟨0, true, ⟨-1, 1⟩, by decide, by decide⟩

theorem witness_TranscendentalCases_3 : ∃ (b : BitVec 32) (nz : Bool) (q : Q), q.den ≠ 0 ∧ 128 ≤ q.floor :=
  ⟨0, true, ⟨128, 1⟩, by decide, by decide⟩

theorem witness_TranscendentalCases_4 : ∃ (b : BitVec 32) (nz : Bool) (q : Q), q.den ≠ 0 ∧ q.floor < -126 ∧ q.eq (.ofInt q.floor) = false :=
  ⟨0, true, ⟨-253, 2⟩,
    by refine ⟨?_, ?_, ?_⟩ <;> decide⟩

theorem witness_TranscendentalCases_5 : ∃ (b : BitVec 32) (nz : Bool) (q : Q), q.den ≠ 0 ∧ 9011 * q.den ≤ 1000 * q.num :=
  ⟨0, true, ⟨9011, 1000⟩, by decide, by decide⟩

theorem witness_TranscendentalCases_6 : ∃ (b : BitVec 32) (nz : Bool) (q : Q), q.den ≠ 0 ∧ 1000 * q.num ≤ -(9011 * q.den) :=
  ⟨0, true, ⟨-9011, 1000⟩, by decide, by decide⟩

theorem witness_TranscendentalCases_7 : ∃ (b : BitVec 32) (nz : Bool) (k : Int), -74 ≤ k ∧ k ≤ 63 :=
  ⟨0, false, -74, by decide, by decide⟩

theorem witness_TranscendentalCases_8 : ∃ (b : BitVec 32) (nz : Bool) (n : Int), -149 ≤ n ∧ n ≤ 127 :=
  ⟨0, false, -149, by decide, by decide⟩

theorem witness_TranscendentalCases_9 : ∃ (b : BitVec 32) (nz : Bool) (k : Int), -149 ≤ k ∧ k ≤ 127 :=
  ⟨0, true, 127, by decide, by decide⟩

theorem witness_TranscendentalCases_10 : ∃ (nz : Bool) (q : Q), q.den ≠ 0 ∧ q.num = 0 :=
  ⟨true, ⟨0, 1⟩, by decide, by decide⟩

theorem witness_TranscendentalCases_11 : ∃ (nz : Bool) (q : Q), q.den ≠ 0 ∧ q.num ≠ 0 :=
  ⟨true, ⟨-3, 7⟩, by decide, by decide⟩

theorem witness_TranscendentalCases_12 : ∃ (nz : Bool) (n k : Int), (n = 1 ∨ n = -1) ∧ -127 ≤ k ∧ k ≤ 127 :=
  ⟨true, -1, 127,
    by refine ⟨?_, ?_, ?_⟩ <;> decide⟩

theorem witness_TranscendentalCases_13 : ∃ (nz : Bool) (n k : Int), (n = 1 ∨ n = -1) ∧ -149 ≤ k ∧ k < -127 :=
  ⟨true, -1, -149,
    by refine ⟨?_, ?_, ?_⟩ <;> decide⟩

theorem witness_OffGridRounding_1 : ∃ f ∈ ([(0, 24, -126, (2 ^ 24 - 1) * 2 ^ 104), (1, 8, -126, 255 * 2 ^ 120), (2, 4, -6, 448), (3, 3,
    -14, 57344)] : List (Nat × ℤ × ℤ × ℚ)), ∃ (nz : Bool) (q : Q) (mode r : Nat) (e m : ℤ) (x u : ℚ), q.num ≠ 0 ∧ q.den ≠ 0 ∧ mode ≤ 2 ∧
    r < 65536 ∧ x = (q.num : ℚ) / q.den ∧ (2 : ℚ) ^ e ≤ |x| ∧ |x| < (2 : ℚ) ^ (e + 1) ∧ u = (2 : ℚ) ^ (max e f.2.2.1 - f.2.1 + 1) ∧
    Claims.keeps mode r x u m ∧ m * u ≤ f.2.2.2 :=
  ⟨(0, 24, -126, (2 ^ 24 - 1) * 2 ^ 104), by simp, false, ⟨16777217, 1⟩, 0, 0, 24, 8388608, 16777217, 2, by decide, by decide, by decide,
    by decide, by norm_num [Claims.keeps, Claims.roundsUp, abs_of_neg, abs_of_pos], by norm_num [Claims.keeps, Claims.roundsUp,
    abs_of_neg, abs_of_pos], by norm_num [Claims.keeps, Claims.roundsUp, abs_of_neg, abs_of_pos], by norm_num [Claims.keeps,
    Claims.roundsUp, abs_of_neg, abs_of_pos], by norm_num [Claims.keeps, Claims.roundsUp, abs_of_neg, abs_of_pos],
    by norm_num [Claims.keeps, Claims.roundsUp, abs_of_neg, abs_of_pos]⟩

theorem witness_OffGridRounding_2 : ∃ f ∈ ([(0, 24, -126, (2 ^ 24 - 1) * 2 ^ 104), (1, 8, -126, 255 * 2 ^ 120), (2, 4, -6, 448), (3, 3,
    -14, 57344)] : List (Nat × ℤ × ℤ × ℚ)), ∃ (nz : Bool) (q : Q) (mode r : Nat) (e m : ℤ) (x u : ℚ), q.num ≠ 0 ∧ q.den ≠ 0 ∧ mode ≤ 2 ∧
    r < 65536 ∧ x = (q.num : ℚ) / q.den ∧ (2 : ℚ) ^ e ≤ |x| ∧ |x| < (2 : ℚ) ^ (e + 1) ∧ u = (2 : ℚ) ^ (max e f.2.2.1 - f.2.1 + 1) ∧
    Claims.keeps mode r x u m ∧ m * u ≤ f.2.2.2 ∧ |x| < (2 : ℚ) ^ f.2.2.1 ∧ m * u ≠ |x| :=
  ⟨(3, 3, -14, 57344), by simp, false, ⟨-3, 262144⟩, 0, 0, -17, 1, -3 / 262144, 1 / 65536, by decide, by decide, by decide, by decide,
    by norm_num [Claims.keeps, Claims.roundsUp, abs_of_neg, abs_of_pos], by norm_num [Claims.keeps, Claims.roundsUp, abs_of_neg,
    abs_of_pos], by norm_num [Claims.keeps, Claims.roundsUp, abs_of_neg, abs_of_pos], by norm_num [Claims.keeps, Claims.roundsUp,
    abs_of_neg, abs_of_pos], by norm_num [Claims.keeps, Claims.roundsUp, abs_of_neg, abs_of_pos], by norm_num [Claims.keeps,
    Claims.roundsUp, abs_of_neg, abs_of_pos], by norm_num [Claims.keeps, Claims.roundsUp, abs_of_neg, abs_of_pos]⟩

theorem witness_OffGridRounding_3 : ∃ f ∈ ([(0, 24, -126, (2 ^ 24 - 1) * 2 ^ 104), (1, 8, -126, 255 * 2 ^ 120), (2, 4, -6, 448), (3, 3,
    -14, 57344)] : List (Nat × ℤ × ℤ × ℚ)), ∃ (nz : Bool) (q : Q) (mode r : Nat) (e m : ℤ) (x u : ℚ), q.num ≠ 0 ∧ q.den ≠ 0 ∧ mode ≤ 2 ∧
    r < 65536 ∧ x = (q.num : ℚ) / q.den ∧ (2 : ℚ) ^ e ≤ |x| ∧ |x| < (2 : ℚ) ^ (e + 1) ∧ u = (2 : ℚ) ^ (max e f.2.2.1 - f.2.1 + 1) ∧
    Claims.keeps mode r x u m ∧ f.2.2.2 < m * u :=
  ⟨(2, 4, -6, 448), by simp, false, ⟨-500, 1⟩, 1, 0, 8, 15, -500, 32, by decide, by decide, by decide, by decide,
    by norm_num [Claims.keeps, Claims.roundsUp, abs_of_neg, abs_of_pos], by norm_num [Claims.keeps, Claims.roundsUp, abs_of_neg,
    abs_of_pos], by norm_num [Claims.keeps, Claims.roundsUp, abs_of_neg, abs_of_pos], by norm_num [Claims.keeps, Claims.roundsUp,
    abs_of_neg, abs_of_pos], by norm_num [Claims.keeps, Claims.roundsUp, abs_of_neg, abs_of_pos], by norm_num [Claims.keeps,
    Claims.roundsUp, abs_of_neg, abs_of_pos]⟩

theorem witness_OffGridRounding_4 : ∃ f ∈ ([(5, 8), (6, 32)] : List (Nat × Nat)), ∃ (nz : Bool) (q : Q) (mode r : Nat) (m : ℤ) (x : ℚ),
    q.num ≠ 0 ∧ q.den ≠ 0 ∧ mode ≤ 2 ∧ r < 65536 ∧ x = (q.num : ℚ) / q.den ∧ Claims.keeps mode r x 1 m ∧ 0 < q.num ∧ m < 2 ^ (f.2 - 1) :=
  ⟨(5, 8), by simp, true, ⟨5, 2⟩, 2, 32768, 3, 5 / 2, by decide, by decide, by decide, by decide, by norm_num [Claims.keeps,
    Claims.roundsUp, abs_of_neg, abs_of_pos], by norm_num [Claims.keeps, Claims.roundsUp, abs_of_neg, abs_of_pos], by decide, by decide⟩

theorem witness_OffGridRounding_5 : ∃ f ∈ ([(5, 8), (6, 32)] : List (Nat × Nat)), ∃ (nz : Bool) (q : Q) (mode r : Nat) (m : ℤ) (x : ℚ),
    q.num ≠ 0 ∧ q.den ≠ 0 ∧ mode ≤ 2 ∧ r < 65536 ∧ x = (q.num : ℚ) / q.den ∧ Claims.keeps mode r x 1 m ∧ q.num < 0 ∧ m ≤ 2 ^ (f.2 - 1) :=
  ⟨(5, 8), by simp, true, ⟨-5, 2⟩, 2, 32767, 2, -5 / 2, by decide, by decide, by decide, by decide, by norm_num [Claims.keeps,
    Claims.roundsUp, abs_of_neg, abs_of_pos], by norm_num [Claims.keeps, Claims.roundsUp, abs_of_neg, abs_of_pos], by decide, by decide⟩

theorem witness_OffGridRounding_6 : ∃ f ∈ ([(5, 8), (6, 32)] : List (Nat × Nat)), ∃ (nz : Bool) (q : Q) (mode r : Nat) (m : ℤ) (x : ℚ),
    q.num ≠ 0 ∧ q.den ≠ 0 ∧ mode ≤ 2 ∧ r < 65536 ∧ x = (q.num : ℚ) / q.den ∧ Claims.keeps mode r x 1 m ∧ 0 < q.num ∧ 2 ^ (f.2 - 1) ≤ m :=
  ⟨(5, 8), by simp, true, ⟨128, 1⟩, 2, 0, 128, 128, by decide, by decide, by decide, by decide, by norm_num [Claims.keeps,
    Claims.roundsUp, abs_of_neg, abs_of_pos], by norm_num [Claims.keeps, Claims.roundsUp, abs_of_neg, abs_of_pos], by decide, by decide⟩

theorem witness_OffGridRounding_7 : ∃ f ∈ ([(5, 8), (6, 32)] : List (Nat × Nat)), ∃ (nz : Bool) (q : Q) (mode r : Nat) (m : ℤ) (x : ℚ),
    q.num ≠ 0 ∧ q.den ≠ 0 ∧ mode ≤ 2 ∧ r < 65536 ∧ x = (q.num : ℚ) / q.den ∧ Claims.keeps mode r x 1 m ∧ q.num < 0 ∧ 2 ^ (f.2 - 1) < m :=
  ⟨(5, 8), by simp, true, ⟨-129, 1⟩, 2, 0, 129, -129, by decide, by decide, by decide, by decide, by norm_num [Claims.keeps,
    Claims.roundsUp, abs_of_neg, abs_of_pos], by norm_num [Claims.keeps, Claims.roundsUp, abs_of_neg, abs_of_pos], by decide, by decide⟩

theorem witness_TranscendentalErrors_1 : ∃ (c : Nat) (nz : Bool) (q : Q) (b : BitVec 32), c < 2 ^ 32 ∧ valueOf 0 c = .fin nz q ∧
    0 < q.num :=
  ⟨0x3F000001, _, _, 0, by decide, rfl, by decide⟩

theorem witness_TranscendentalErrors_2 : ∃ (c : Nat) (nz : Bool) (q : Q) (b : BitVec 32), c < 2 ^ 32 ∧ valueOf 0 c = .fin nz q ∧
    q.floor < 128 :=
  ⟨0x3F000001, _, _, 0, by decide, rfl, by decide⟩

theorem witness_TranscendentalErrors_3 : ∃ (c : Nat) (nz : Bool) (q : Q) (b : BitVec 32), c < 2 ^ 32 ∧ valueOf 0 c = .fin nz q ∧
    q.abs.lt ⟨9011, 1000⟩ = true :=
  ⟨0x3F000001, _, _, 0, by decide, rfl, by decide⟩

theorem witness_RankOneIssue_1 : ∃ (f : MA) (s s1 s2 : State) (a b : Vec) (tb : Nat),
    tb = (if f.tyd = 0 then f.ty.toNat else f.tyd.toNat) ∧ (bankOf s.core f.bk.toNat).block = false ∧
    (bankOf s.core f.bk.toNat).lent = false ∧ (s.core.mq.filter (·.mslot)).length < 4 ∧ srcVec f.va f.ty.toNat s = .ok (a, s1) ∧
    srcVec f.vb tb s1 = .ok (b, s2) :=
  ⟨⟨1, 0, 34, 35, 0, 2, 3, 0, 0⟩, w1, _, _, _, _, _, rfl, rfl, rfl, by decide, ok2 (by decide +kernel), ok2 (by decide +kernel)⟩

theorem witness_RankOneIssue_2 : ∃ (f : MA) (s s1 s2 : State) (a b : Vec) (tb : Nat),
    tb = (if f.tyd = 0 then f.ty.toNat else f.tyd.toNat) ∧ (bankOf s.core f.bk.toNat).block = true ∧
    (bankOf s.core f.bk.toNat).lent = false ∧ (s.core.mq.filter (·.mslot)).length < 4 ∧ srcVec f.va f.ty.toNat s = .ok (a, s1) ∧
    srcVec f.vb tb s1 = .ok (b, s2) :=
  ⟨⟨1, 0, 34, 35, 0, 2, 0, 0, 4⟩, wBank false true, _, _, _, _, _, rfl, rfl, rfl, by decide, ok2 (by decide +kernel),
    ok2 (by decide +kernel)⟩

theorem witness_BankOperationsIssue_1 : ∃ (f : MA) (s : State), (bankOf s.core f.bk.toNat).lent = false ∧
    (s.core.mq.filter (·.mslot)).length < 4 ∧ engineHas s.core s.now f.bk.toNat = false :=
  ⟨⟨7, 0, 0, 0, 2, 0, 0, 0, 1⟩, w1, rfl, by decide, rfl⟩

theorem witness_BankOperationsIssue_2 : ∃ (f : MA) (s : State) (x : Word), (bankOf s.core f.bk.toNat).lent = false ∧
    (s.core.mq.filter (·.mslot)).length < 4 ∧ (bankOf s.core f.bk.toNat).block = true ∧ readS f.reg s = .ok x :=
  ⟨⟨1, 0, 0, 0, 2, 7, 0, 0, 0⟩, wBank false true, 5, rfl, by decide, rfl, rfl⟩

theorem witness_BankOperationsIssue_3 : ∃ (f : MA) (s : State) (x : Word) (bs : List Byte) (t : State),
    (bankOf s.core f.bk.toNat).lent = false ∧ (s.core.mq.filter (·.mslot)).length < 4 ∧ readS f.reg s = .ok x ∧
    spadRead (intOffs (imgOff x (f.ctl.extractLsb' 0 12).toNat) 1024) (f.ctl.extractLsb' 12 2).toNat (imgOff x (f.ctl.extractLsb' 0
    12).toNat) s = .ok (bs, t) :=
  ⟨⟨1, 0, 0, 0, 2, 0, 0, 0, 0⟩, w1, 5, _, _, rfl, by decide, rfl, ok2 (by decide +kernel)⟩

theorem witness_BankOperationsIssue_4 : ∃ (f : MA) (s : State) (x : Word), (bankOf s.core f.bk.toNat).lent = false ∧
    (s.core.mq.filter (·.mslot)).length < 4 ∧ (bankOf s.core f.bk.toNat).block = (f.ty == 7) ∧ readS f.reg s = .ok x ∧
    spadWriteCheck (intOffs (imgOff x (f.ctl.extractLsb' 0 12).toNat) 1024) (f.ctl.extractLsb' 12 2).toNat (imgOff x (f.ctl.extractLsb' 0
    12).toNat) s = .ok () :=
  ⟨⟨1, 0, 0, 0, 2, 7, 0, 0, 1⟩, wBank false true, 5, rfl, by decide, rfl, rfl, ok0 (by decide +kernel)⟩

theorem witness_BankOperationsIssue_5 : ∃ (f : MA) (s : State) (x : Word), (bankOf s.core f.bk.toNat).lent = false ∧
    (s.core.mq.filter (·.mslot)).length < 4 ∧ readS f.reg s = .ok x ∧ f.bd < 4 ∧ (s.core.queues[f.bd.toNat]?.getD []).length < 4 :=
  ⟨⟨1, 3, 0, 0, 2, 0, 0, 0, 1⟩, w1, 5, rfl, by decide, rfl, by decide, by decide⟩

theorem witness_BankOperationsIssue_6 : ∃ (f : MA) (s : State), (bankOf s.core f.bk.toNat).lent = true ∧
    borrowerBusy s f.bk.toNat = false ∧ (s.core.mq.filter (·.mslot)).length < 4 :=
  ⟨⟨1, 0, 0, 0, 0, 0, 0, 0, 0⟩, wBank true false, rfl, rfl, by decide⟩

theorem witness_BankOwnership_1 : ∃ (f : MA) (s : State), (bankOf s.core f.bk.toNat).lent = true :=
  ⟨⟨1, 0, 0, 0, 0, 0, 0, 0, 0⟩, wBank true false, rfl⟩

theorem witness_BankOwnership_2 : ∃ (f : MA) (s : State), (bankOf s.core f.bk.toNat).lent = false :=
  ⟨⟨1, 0, 0, 0, 0, 0, 0, 0, 0⟩, wBank false false, rfl⟩

theorem witness_MatrixEngineRuns_1 : ∃ (c : CoreId) (s : State) (o : MOp) (rest : List MOp), (coreOf s c).mq = o :: rest ∧
    (coreOf s c).dstop = false ∧ (coreOf s c).mBusy ≤ s.now :=
  ⟨0, mapCore (fun k => { k with mq := [⟨0, true, .zero 7⟩] }) w1, _, _, rfl, rfl, by decide⟩

theorem witness_MatrixEngineRuns_2 : ∃ (s : State) (o : MOp) (rest : List MOp) (clear block : Bool) (bk : Nat) (a b : Vec) (ta tb : Nat)
    (la lb : Bool), (coreOf s 0).mq = o :: rest ∧ (coreOf s 0).dstop = false ∧ (coreOf s 0).mBusy ≤ s.now ∧
    o.op = .rank1 clear block bk a b ta tb la lb ∧ bk < 8 :=
  ⟨mapCore (fun k => { k with mq := [⟨0, true, .rank1 true false 7 1 1 2 2 false false⟩] }) w1, _, _, _, _, _, _, _, _, _, _, _, rfl, rfl,
    by decide, rfl, by decide⟩

theorem witness_MatrixEngineRuns_3 : ∃ (s : State) (o : MOp) (rest : List MOp) (bk off fe : Nat) (d : Option Nat),
    (coreOf s 0).mq = o :: rest ∧ (coreOf s 0).dstop = false ∧ (coreOf s 0).mBusy ≤ s.now ∧ o.op = .save bk off fe d :=
  ⟨mapCore (fun k => { k with mq := [⟨0, true, .save 7 0 2 none⟩] }) w1, _, _, _, _, _, _, rfl, rfl, by decide, rfl⟩

theorem witness_SplineIssue_1 : ∃ (f : MA) (s : State) (a : Word), readS f.reg s = .ok a :=
  ⟨⟨0, 3, 0, 0, 2, 0, 0, 0, 0⟩, w1, 5, rfl⟩

theorem witness_SplineIssue_2 : ∃ (f : MA) (s t : State) (a : Word) (bs : List Byte), readS f.reg s = .ok a ∧
    spadRead (intOffs (splOff f a) (if f.ty = 0 then 2048 else 1024)) (splFe f) (splOff f a) s = .ok (bs, t) ∧ t.core.sq.length < 4 ∧
    f.ty ≠ 0 :=
  ⟨⟨0, 0, 0, 0, 2, 1, 0, 0, 0⟩, w1, _, 5, _, rfl, ok2 (by decide +kernel), by decide +kernel, by decide⟩

theorem witness_SplineIssue_3 : ∃ (f : MA) (s t : State) (a : Word) (bs : List Byte) (rs : List Nat) (u : State), readS f.reg s = .ok a ∧
    spadRead (intOffs (splOff f a) (if f.ty = 0 then 2048 else 1024)) (splFe f) (splOff f a) s = .ok (bs, t) ∧ t.core.sq.length < 4 ∧
    f.ty = 0 ∧ draws f.rnd.toNat 512 t = (rs, u) :=
  ⟨⟨0, 0, 0, 0, 2, 0, 0, 0, 0⟩, w1, _, 5, _, _, _, rfl, ok2 (by decide +kernel), by decide +kernel, rfl, rfl⟩

theorem witness_SplineIssue_4 : ∃ (f : MA) (s : State) (a : Word), readS f.reg s = .ok a ∧ s.core.sq.length < 4 ∧
    spadWriteCheck (intOffs (splOff f a) (if f.tyd = 0 then 2048 else 1024)) (splFe f) (splOff f a) s = .ok () :=
  ⟨⟨0, 0, 0, 0, 2, 0, 0, 0, 0⟩, w1, 5, rfl, by decide, ok0 (by decide +kernel)⟩

theorem witness_SplineIssue_5 : ∃ (f : MA) (s : State) (a : Word), readS f.reg s = .ok a ∧ s.core.sq.length < 4 ∧
    spadWriteCheck (intOffs (splOff f a) 2048) (splFe f) (splOff f a) s = .ok () :=
  ⟨⟨0, 0, 0, 0, 2, 0, 1, 0, 0⟩, w1, 5, rfl, by decide, ok0 (by decide +kernel)⟩

theorem witness_SplineIssue_6 : ∃ (f : MA) (s s1 : State) (xs : List XV) (b : Nat), knotsOk s = .ok () ∧ s.core.sq.length < 4 ∧
    needBank (f.ctl.getLsbD 5) s = .ok b ∧ src16 f.va f.ty.toNat s = .ok (xs, s1) :=
  ⟨⟨0, 0, 34, 35, 0, 0, 0, 0, 0⟩, wEv, _, _, _, ok0 (by decide +kernel), by decide, ok1 (by decide +kernel), ok2 (by decide +kernel)⟩

theorem witness_SplineIssue_7 : ∃ (f : MA) (s s1 s2 : State) (xs dy : List XV) (b : Nat), knotsOk s = .ok () ∧ s.core.sq.length < 4 ∧
    src16 f.va 0 s = .ok (xs, s1) ∧ src16 f.vb 0 s1 = .ok (dy, s2) ∧ needBank (f.ctl.getLsbD 5) s = .ok b :=
  ⟨⟨0, 0, 34, 35, 0, 0, 0, 0, 0⟩, wEv, _, _, _, _, _, ok0 (by decide +kernel), by decide, ok2 (by decide +kernel),
    ok2 (by decide +kernel), ok1 (by decide +kernel)⟩

theorem witness_SplineIssue_8 : ∃ (s : State), s.core.sq.length < 4 :=
  ⟨w1, by decide⟩

theorem witness_SplineIssue_9 : ∃ (s : State), s.core.sq.length < 4 ∧ knotValid 0 (knot s 0) = true ∧ k0G (knot s 0) ≤ 14 ∧
    k0Hx (knot s 0) ≠ -64 :=
  ⟨wKnot,
    by refine ⟨?_, ?_, ?_, ?_⟩ <;> decide +kernel⟩

theorem witness_SplineIssue_10 : ∃ (f : MA) (s : State), s.core.sq.length < 4 :=
  ⟨⟨0, 0, 0, 0, 31, 0, 0, 0, 3⟩, w1, by decide⟩

theorem witness_SplineFaults_1 : ∃ (s : State) (n : Nat), n < 4 ∧ knotValid n (knot s n) = false ∧
    (∀ m < n, knotValid m (knot s m) = true) :=
  ⟨mapArch (fun a => { a with knots := a.knots.set 3 (2 ^ 16) }) wKnot, 3,
    by refine ⟨?_, ?_, ?_⟩ <;> decide +kernel⟩

theorem witness_SplineFaults_2 : ∃ (ob : Bool) (s : State), splBank ob s = none :=
  ⟨true, mapCore (setBank 1 ⟨true, false, true, false, []⟩) w1, by decide +kernel⟩

theorem witness_SplineArrayRuns_1 : ∃ (c : CoreId) (s : State) (o : SQOp) (rest : List SQOp), (coreOf s c).sq = o :: rest ∧
    (coreOf s c).dstop = false ∧ (coreOf s c).sBusy ≤ s.now :=
  ⟨0, mapCore (fun k => { k with sq := [⟨0, .cnt 4 true true none, 0⟩], above := 3 }) w1, _, _, rfl, rfl, by decide⟩

theorem witness_SplineArrayRuns_2 : ∃ (s : State) (o : SQOp) (rest : List SQOp), (coreOf s 0).sq = o :: rest ∧
    (coreOf s 0).dstop = false ∧ (coreOf s 0).sBusy ≤ s.now ∧ o.op = .gz :=
  ⟨mapCore (fun k => { k with sq := [⟨0, .gz, 0⟩] }) w1, _, _, rfl, rfl, by decide, rfl⟩

theorem witness_SplineArrayRuns_3 : ∃ (s : State) (o : SQOp) (rest : List SQOp) (row : Nat) (vals : List Nat) (f32 : Bool),
    (coreOf s 0).sq = o :: rest ∧ (coreOf s 0).dstop = false ∧ (coreOf s 0).sBusy ≤ s.now ∧ o.op = .ld row vals f32 ∧
    SMap.wf 0 (coreOf s 0).coef = true ∧ vals.length = 512 :=
  ⟨mapCore (fun k => { k with sq := [⟨0, .ld 1 (List.replicate 512 1) false, 0⟩] }) w1, _, _, _, _, _, rfl, rfl, by decide, rfl, rfl,
    by decide +kernel⟩

theorem witness_SplineArrayRuns_4 : ∃ (s : State) (o : SQOp) (rest : List SQOp) (bank row : Nat) (add : Bool) (k0 k1 k2 k3 : Word) (xs :
    List XV), (coreOf s 0).sq = o :: rest ∧ (coreOf s 0).dstop = false ∧ (coreOf s 0).sBusy ≤ s.now ∧
    o.op = .ev bank row add k0 k1 k2 k3 xs ∧ bank < 8 ∧ row < 16 :=
  ⟨mapCore (fun k => { k with sq := [⟨0, .ev 7 15 false 0 0 0 0 [], 0⟩] }) w1, _, _, _, _, _, _, _, _, _, _, rfl, rfl, by decide, rfl,
    by decide, by decide⟩

theorem witness_SplineArrayRuns_5 : ∃ (s : State) (o : SQOp) (rest : List SQOp) (bank row : Nat) (add : Bool) (k0 k1 k2 k3 : Word) (xs dy :
    List XV), (coreOf s 0).sq = o :: rest ∧ (coreOf s 0).dstop = false ∧ (coreOf s 0).sBusy ≤ s.now ∧
    o.op = .bwd bank row add k0 k1 k2 k3 xs dy ∧ bank < 8 ∧ row < 16 :=
  ⟨mapCore (fun k => { k with sq := [⟨0, .bwd 7 15 false 0 0 0 0 [] [], 0⟩] }) w1, _, _, _, _, _, _, _, _, _, _, _, rfl, rfl, by decide,
    rfl, by decide, by decide⟩

theorem witness_LandingEvents_1 : ∃ (c : CoreId) (s : State) (p : Pend) (r : BitVec 5) (v : Word), (coreOf s c).st.pend = [p] ∧
    p.act = .sreg r v ∧ r ≠ 0 ∧ p.next = none ∧ p.ready ≤ s.now ∧ (∀ d, p.due = some d → d ≤ (coreOf s c).st.cyc) ∧
    (coreOf s c).dstop = false ∧ queuedBefore (coreOf s c) p = false :=
  ⟨0, mapSt (fun t => { t with pend := [⟨some 0, 0, none, 0, .sreg 31 7, 0, 0⟩] }) w1, _, 31, 7, rfl, rfl, by decide, rfl, by decide,
    (fun d h => by cases h; decide), rfl, rfl⟩

theorem witness_LandingEvents_2 : ∃ (c : CoreId) (s : State) (p : Pend) (k : Option Nat) (a : Nat) (b : Byte),
    (coreOf s c).st.pend = [p] ∧ p.act = .spad k [(a, b)] [(a / 16, true)] ∧ p.next = none ∧ p.ready ≤ s.now ∧
    (∀ d, p.due = some d → d ≤ (coreOf s c).st.cyc) ∧ (coreOf s c).dstop = false ∧ queuedBefore (coreOf s c) p = false ∧
    SMap.wf 0 (coreOf s c).scratch = true :=
  ⟨0, mapSt (fun t => { t with pend := [⟨none, 0, none, 0, .spad (some 6) [(131071, 7)] [(8191, true)], 0, 0⟩] }) w1, _, _, 131071, 7,
    rfl, rfl, rfl, by decide, (fun d h => by cases h), rfl, rfl, rfl⟩

theorem witness_LandingEvents_3 : ∃ (c : CoreId) (k : Nat) (s : State) (v : VRes) (x : BitVec 256) (r : BitVec 5),
    (coreOf s c).st.vls = [v] ∧ v.id = k ∧ v.held = false ∧ v.val = some x ∧ v.dst = .sreg r ∧ r ≠ 0 ∧ v.keep = true ∧ v.first ≤ s.now :=
  ⟨0, 3, mapSt (fun t => { t with vls := [⟨3, .sreg 1, some 7, 0, false, false, true⟩] }) w1, _, 7, 1, rfl, rfl, rfl, rfl, rfl, by decide,
    rfl, by decide⟩

theorem witness_LandingEvents_4 : ∃ (c : CoreId) (k : Nat) (s : State) (i : Img) (a : Nat) (b : Byte), (coreOf s c).st.imgs = [i] ∧
    i.id = k ∧ i.bytes = [(a, b)] ∧ s.mcs = [] ∧ SMap.wf 0 (coreOf s c).scratch = true :=
  ⟨0, 3, mapSt (fun t => { t with imgs := [⟨3, 0, [(64, 7)], true, 2⟩] }) w1, _, 64, 7, rfl, rfl, rfl, rfl, rfl⟩

theorem witness_DebugInterface_1 : ∃ (c : CoreId) (s : State), (coreOf s c).dstop = true :=
  ⟨0, mapCore (fun c => { c with dstop := true }) w1, rfl⟩

theorem witness_SplineFaults_3 : ∃ (s : State), (knotValid 0 (knot s 0) = false ∨ 14 < k0G (knot s 0) ∨ k0Hx (knot s 0) = -64) :=
  ⟨w1, by decide +kernel⟩

theorem witness_DrainedTiles_1 : ∃ (ws : List Nat) (block : Bool) (ty : Nat) (x : Int) (rnd : Nat) (rs : List Nat), ws.length = 256 ∧
    (rs = [] ∨ rs.length = 256) ∧ ty ∈ [0, 1, 2, 3, 5, 6] :=
  ⟨List.replicate 256 0x3F000001, false, 2, 1, 2, List.replicate 256 65535, List.length_replicate, .inr List.length_replicate, by decide⟩

theorem witness_DrainedTiles_2 : ∃ (ws : List Nat) (block : Bool) (ty : Nat) (x : Int) (rnd : Nat) (rs : List Nat) (e : Nat → Nat × List
    Nat × Flags), ws.length = 256 ∧ (rs = [] ∨ rs.length = 256) ∧
    (∀ b, e b = mx4Encode ((List.range 32).map fun i => Claims.drainElem ws block x (32 * b + i)) rnd ((rs.drop (32 * b)).take 32)) :=
  ⟨List.replicate 256 0x3F000001, true, 4, 0, 0, [], _, List.length_replicate, .inl rfl, fun _ => rfl⟩

theorem witness_MatrixEngineRuns_4 : ∃ (s : State) (o : MOp) (rest : List MOp) (bk row : Nat) (block : Bool) (xs : List XV),
    (coreOf s 0).mq = o :: rest ∧ (coreOf s 0).dstop = false ∧ (coreOf s 0).mBusy ≤ s.now ∧ o.op = .rowAdd bk block row xs :=
  ⟨mapCore (fun k => { k with mq := [⟨0, false, .rowAdd 7 false 15 [.inf true]⟩] }) w1, _, _, _, _, _, _, rfl, rfl, by decide, rfl⟩

theorem witness_MatrixEngineRuns_5 : ∃ (s : State) (o : MOp) (rest : List MOp) (bk : Nat) (block : Bool) (q tile ty : Nat) (d : Option Nat)
    (x : Int) (rnd : Nat) (rs : List Nat) (keep : Bool) (l : List Tile), (coreOf s 0).mq = o :: rest ∧ (coreOf s 0).dstop = false ∧
    (coreOf s 0).mBusy ≤ s.now ∧ o.op = .drain bk block q tile ty d x rnd rs keep ∧ (coreOf s 0).queues[q]? = some l :=
  ⟨mapCore (fun k => { k with mq := [⟨0, true, .drain 7 false 3 9 4 none 1023 0 [] true⟩], queues := k.queues.setIfInBounds 3 [⟨9, none,
    none, 0⟩] }) w1, _, _, _, _, _, _, _, _, _, _, _, _, _, rfl, rfl, by decide, rfl, rfl⟩

theorem witness_SplineArrayRuns_6 : ∃ (s : State) (o : SQOp) (rest : List SQOp) (k0 k1 k2 k3 : Word) (xs dy : List XV),
    (coreOf s 0).sq = o :: rest ∧ (coreOf s 0).dstop = false ∧ (coreOf s 0).sBusy ≤ s.now ∧ o.op = .gs k0 k1 k2 k3 xs dy ∧
    knotValid 0 k0 = true :=
  ⟨mapCore (fun k => { k with sq := [⟨0, .gs (2 ^ 47 + 2 ^ 40) (-1) 0 0 [.nan true] [], 0⟩] }) w1, _, _, _, _, _, _, _, _, rfl, rfl,
    by decide, rfl, by decide +kernel⟩

theorem witness_SplineArrayRuns_7 : ∃ (s : State) (o : SQOp) (rest : List SQOp) (g n j : Nat) (z0 z1 z2 : Bool) (q0 q1 q2 : Q),
    (coreOf s 0).sq = o :: rest ∧ (coreOf s 0).dstop = false ∧ (coreOf s 0).sBusy ≤ s.now ∧ o.op = .ref g ∧ g ≤ 14 ∧ n < 256 ∧ j < 32 ∧
    valueOf 1 (SMap.get 0 (coreOf s 0).coef (32 * n + j / 2)) = .fin z0 q0 ∧
    valueOf 1 (SMap.get 0 (coreOf s 0).coef (32 * n + j / 2 + 1)) = .fin z1 q1 ∧
    valueOf 1 (SMap.get 0 (coreOf s 0).coef (32 * n + j / 2 + 2)) = .fin z2 q2 ∧ j ≤ 2 * g + 2 :=
  ⟨mapCore (fun k => { k with sq := [⟨0, .ref 14, 0⟩], coef := [(8174, 0x3F80)] }) w1, _, _, 14, 255, 29, _, _, _, _, _, _, rfl, rfl,
    by decide, rfl, by decide, by decide, by decide, rfl, rfl, rfl, by decide⟩

theorem witness_SplineArrayRuns_8 : ∃ (s : State) (o : SQOp) (rest : List SQOp) (g n j : Nat), (coreOf s 0).sq = o :: rest ∧
    (coreOf s 0).dstop = false ∧ (coreOf s 0).sBusy ≤ s.now ∧ o.op = .ref g ∧ g ≤ 14 ∧ n < 256 ∧ j < 32 ∧ 2 * g + 2 < j :=
  ⟨mapCore (fun k => { k with sq := [⟨0, .ref 14, 0⟩] }) w1, _, _, 14, 255, 31, rfl, rfl, by decide, rfl,
    by refine ⟨?_, ?_, ?_, ?_⟩ <;> decide⟩

theorem witness_Located_1 : ∃ (k0 k3 : Word) (nz : Bool) (q : Q) (u d : ℚ) (l : Loc), knotValid 0 k0 = true ∧ q.den ≠ 0 ∧
    l = locate k0 k3 (.fin nz q) ∧ u = (Claims.rat q - Claims.rat (loQ k0)) * (2 : ℚ) ^ (-(k0Hx k0)) ∧
    d = (if u < 0 then u else if (k0G k0 : ℚ) ≤ u then u - k0G k0 else 0) ∧ u < 0 :=
  ⟨wK, 2, true, ⟨-1, 4⟩, _, _, _, by decide +kernel, by decide, rfl, rfl, rfl, by norm_num [Claims.rat, wK_lo, wK_hx, wK_g]⟩

theorem witness_Located_2 : ∃ (k0 k3 : Word) (nz : Bool) (q : Q) (u d : ℚ) (l : Loc), knotValid 0 k0 = true ∧ q.den ≠ 0 ∧
    l = locate k0 k3 (.fin nz q) ∧ u = (Claims.rat q - Claims.rat (loQ k0)) * (2 : ℚ) ^ (-(k0Hx k0)) ∧
    d = (if u < 0 then u else if (k0G k0 : ℚ) ≤ u then u - k0G k0 else 0) ∧ (k0G k0 : ℚ) ≤ u :=
  ⟨wK, 2, true, ⟨5, 4⟩, _, _, _, by decide +kernel, by decide, rfl, rfl, rfl, by norm_num [Claims.rat, wK_lo, wK_hx, wK_g]⟩

theorem witness_Located_3 : ∃ (k0 k3 : Word) (nz : Bool) (q : Q) (u d : ℚ) (l : Loc), knotValid 0 k0 = true ∧ q.den ≠ 0 ∧
    l = locate k0 k3 (.fin nz q) ∧ u = (Claims.rat q - Claims.rat (loQ k0)) * (2 : ℚ) ^ (-(k0Hx k0)) ∧
    d = (if u < 0 then u else if (k0G k0 : ℚ) ≤ u then u - k0G k0 else 0) ∧ 0 ≤ u ∧ u < k0G k0 :=
  ⟨wK, 2, true, ⟨1, 3⟩, _, _, _, by decide +kernel, by decide, rfl, rfl, rfl, by norm_num [Claims.rat, wK_lo, wK_hx, wK_g],
    by norm_num [Claims.rat, wK_lo, wK_hx, wK_g]⟩

theorem witness_PhiExact_1 : ∃ (mode : Nat) (l : Loc) (q0 q1 q2 q3 : Q) (z0 z1 z2 z3 : Bool) (cs : List XV) (f : ℚ), q0.den ≠ 0 ∧
    q1.den ≠ 0 ∧ q2.den ≠ 0 ∧ q3.den ≠ 0 ∧ l.f.den ≠ 0 ∧ cs = [.fin z0 q0, .fin z1 q1, .fin z2 q2, .fin z3 q3] ∧ f = Claims.rat l.f ∧
    l.side = 1 :=
  ⟨1, ⟨1, 14, ⟨1, 1⟩, .fin false ⟨3, 2⟩, false⟩, ⟨1, 3⟩, ⟨-2, 1⟩, ⟨0, 1⟩, ⟨7, 5⟩, false, true, false, false, _, _, by decide, by decide,
    by decide, by decide, by decide, rfl, rfl, rfl⟩

theorem witness_PhiExact_2 : ∃ (mode : Nat) (l : Loc) (q0 q1 q2 q3 : Q) (z0 z1 z2 z3 : Bool) (cs : List XV) (f : ℚ), q0.den ≠ 0 ∧
    q1.den ≠ 0 ∧ q2.den ≠ 0 ∧ q3.den ≠ 0 ∧ l.f.den ≠ 0 ∧ cs = [.fin z0 q0, .fin z1 q1, .fin z2 q2, .fin z3 q3] ∧ f = Claims.rat l.f ∧
    l.side ≠ 1 ∧ mode = 0 :=
  ⟨0, ⟨0, 14, ⟨1, 1⟩, .fin false ⟨3, 2⟩, false⟩, ⟨1, 3⟩, ⟨-2, 1⟩, ⟨0, 1⟩, ⟨7, 5⟩, false, true, false, false, _, _, by decide, by decide,
    by decide, by decide, by decide, rfl, rfl, by decide, rfl⟩

theorem witness_PhiExact_3 : ∃ (mode : Nat) (l : Loc) (q0 q1 q2 q3 : Q) (z0 z1 z2 z3 : Bool) (cs : List XV) (f : ℚ), q0.den ≠ 0 ∧
    q1.den ≠ 0 ∧ q2.den ≠ 0 ∧ q3.den ≠ 0 ∧ l.f.den ≠ 0 ∧ cs = [.fin z0 q0, .fin z1 q1, .fin z2 q2, .fin z3 q3] ∧ f = Claims.rat l.f ∧
    l.side ≠ 1 ∧ mode = 1 :=
  ⟨1, ⟨2, 14, ⟨1, 1⟩, .fin false ⟨3, 2⟩, false⟩, ⟨1, 3⟩, ⟨-2, 1⟩, ⟨0, 1⟩, ⟨7, 5⟩, false, true, false, false, _, _, by decide, by decide,
    by decide, by decide, by decide, rfl, rfl, by decide, rfl⟩

theorem witness_PhiExact_4 : ∃ (mode : Nat) (l : Loc) (q0 q1 q2 q3 : Q) (z0 z1 z2 z3 : Bool) (cs : List XV) (f : ℚ) (z : Bool) (d : Q),
    q0.den ≠ 0 ∧ q1.den ≠ 0 ∧ q2.den ≠ 0 ∧ q3.den ≠ 0 ∧ l.f.den ≠ 0 ∧ cs = [.fin z0 q0, .fin z1 q1, .fin z2 q2, .fin z3 q3] ∧
    f = Claims.rat l.f ∧ l.side ≠ 1 ∧ mode = 2 ∧ l.d = .fin z d ∧ d.den ≠ 0 :=
  ⟨2, ⟨2, 14, ⟨1, 1⟩, .fin false ⟨3, 2⟩, true⟩, ⟨1, 3⟩, ⟨-2, 1⟩, ⟨0, 1⟩, ⟨7, 5⟩, false, true, false, false, _, _, _, _, by decide,
    by decide, by decide, by decide, by decide, rfl, rfl, by decide, rfl, rfl, by decide⟩

theorem witness_HeldCounterOperations_1 : ∃ (f : YA) (s t : State) (a b : Word) (pa : Nat), readS f.a s = .ok a ∧ readS f.b s = .ok b ∧
    ctrAddr .ctrWr (a + f.imm.signExtend 64) s = .ok (pa, t) ∧ t.core.held.length < 128 ∧ b.toNat < 2 ^ 32 :=
  ⟨⟨4, 2, 0, 0, 0, 0, 0, 0, 0x10⟩, wCtr, _, 0x40000000, 5, _, rfl, rfl, ok2 (by decide +kernel), by decide +kernel, by decide⟩

theorem witness_HeldCounterOperations_2 : ∃ (f : YA) (s t : State) (a b : Word) (pa : Nat), readS f.a s = .ok a ∧ readS f.b s = .ok b ∧
    ctrAddr .ctrWr (a + f.imm.signExtend 64) s = .ok (pa, t) ∧ t.core.held.length < 128 ∧ 2 ^ 32 ≤ b.toNat :=
  ⟨⟨4, 2, 0, 0, 0, 0, 0, 0, 0⟩, reg 2 0x100000000 wCtr, _, 0x40000000, 0x100000000, _, rfl, rfl, ok2 (by decide +kernel),
    by decide +kernel, by decide⟩

theorem witness_HeldCounterOperations_3 : ∃ (f : YA) (s t : State) (a : Word) (pa : Nat), readS f.a s = .ok a ∧
    ctrAddr .ctrWr a s = .ok (pa, t) ∧ t.core.held.length < 128 :=
  ⟨⟨4, 0, 0, 0, 0, 0, 0, 0, 0xFFFFF⟩, wCtr, _, 0x40000000, _, rfl, ok2 (by decide +kernel), by decide +kernel⟩

theorem witness_CounterWaits_1 : ∃ (f : YA) (s s1 s2 : State) (a : Word) (bs : List (List Byte)) (pa : Nat) (imm : Bool),
    readS f.a s = .ok a ∧ (a + f.imm.signExtend 64).toNat % 16 = 0 ∧
    globalReadWith .ctrRd true [] [((a + f.imm.signExtend 64).toNat, 16)] s = .ok (bs, s1) ∧
    coreXlate .ctrRd (a + f.imm.signExtend 64).toNat s1 = .ok ((pa, imm), s2) :=
  ⟨⟨4, 0, 6, 0, 0, 0, 0, 1, 0⟩, wCtr, _, _, 0x40000000, _, _, _, rfl, by decide, ok2 (by decide +kernel), ok3 (by decide +kernel)⟩

theorem witness_CounterWaits_2 : ∃ (f : YA) (s t : State) (a thr : Word) (pa : Nat), readS f.a s = .ok a ∧ readS f.b s = .ok thr ∧
    s.core.held = [] ∧ ctrAddr .ctrRd (a + f.imm.signExtend 64) s = .ok (pa, t) ∧ homeServes t (pa / 64) = .ok () ∧
    ctrMet t pa thr.toNat (f.wf == 1) = false :=
  ⟨⟨4, 2, 6, 0, 0, 0, 1, 0, 0⟩, wCtr, _, 0x40000000, 5, _, rfl, rfl, rfl, ok2 (by decide +kernel), ok0 (by decide +kernel),
    by decide +kernel⟩

theorem witness_CounterWaits_3 : ∃ (f : YA) (s t : State) (a thr : Word) (pa : Nat), readS f.a s = .ok a ∧ readS f.b s = .ok thr ∧
    s.core.held = [] ∧ ctrAddr .ctrRd (a + f.imm.signExtend 64) s = .ok (pa, t) ∧ homeServes t (pa / 64) = .ok () ∧
    ctrMet t pa thr.toNat (f.wf == 1) = true :=
  ⟨⟨4, 0, 6, 0, 0, 0, 0, 0, 0⟩, wCtr, _, 0x40000000, 0, _, rfl, rfl, rfl, ok2 (by decide +kernel), ok0 (by decide +kernel),
    by decide +kernel⟩

theorem witness_CounterWaits_4 : ∃ (f : YA) (s t : State) (a thr : Word) (pa : Nat), readS f.a s = .ok a ∧ readS f.b s = .ok thr ∧
    s.core.held = [] ∧ ctrAddr .ctrRd (a + f.imm.signExtend 64) s = .ok (pa, t) ∧ homeServes t (pa / 64) = .ok () ∧
    ctrMet t pa thr.toNat (f.wf == 1) = true :=
  ⟨⟨4, 0, 0, 0, 0, 0, 0, 0, 0⟩, wCtr, _, 0x40000000, 0, _, rfl, rfl, rfl, ok2 (by decide +kernel), ok0 (by decide +kernel),
    by decide +kernel⟩

theorem witness_CounterWaits_5 : ∃ (f : YA) (s : State) (a thr : Word), readS f.a s = .ok a ∧ readS f.b s = .ok thr ∧ s.core.held ≠ [] :=
  ⟨⟨4, 2, 6, 0, 0, 0, 0, 0, 0⟩, mapCore (fun c => { c with held := [.barr 5] }) wCtr, 0x40000000, 5, rfl, rfl, by decide⟩

theorem witness_CounterWaits_6 : ∃ (c : CoreId) (fl : BitVec 32) (n : Nat) (s : State) (rd : BitVec 5) (pa : Nat) (pc : BPc),
    (coreOf s c).st.wait = .cwait rd pa pc :=
  ⟨0, 0x80, 7, mapSt (fun t => { t with wait := .cwait 6 0x40000000 0x400 }) wCtr, 6, 0x40000000, 0x400, rfl⟩

theorem witness_CounterWaits_7 : ∃ (c : CoreId) (fl : BitVec 32) (n : Nat) (s : State) (rd : BitVec 5) (pa : Nat) (pc : BPc),
    (coreOf s c).st.wait = .cwait rd pa pc :=
  ⟨0, 0x80, 7, mapSt (fun t => { t with wait := .cwait 0 0x40000000 0x400 }) wCtr, 0, 0x40000000, 0x400, rfl⟩

theorem witness_AtomicsHeld_1 : ∃ (f : YA) (s t : State) (a x y : Word) (pa : Nat), readS f.a s = .ok a ∧ readS f.b s = .ok x ∧ y = 0 ∧
    (a + f.imm.signExtend 64).toNat % (if f.ctl.getLsbD 0 then 4 else 8) = 0 ∧
    xlateW .atomic (a + f.imm.signExtend 64).toNat s = .ok (pa, t) ∧ t.core.held.length < 128 :=
  ⟨⟨0, 2, 6, 0, 0, 0, 0, 1, 0x8004⟩, wCtr, _, 0, 5, 0, _, rfl, rfl, rfl, by decide, ok2 (by decide +kernel), by decide +kernel⟩

theorem witness_AtomicsHeld_2 : ∃ (f : YA) (s t : State) (a x y : Word) (pa : Nat), readS f.a s = .ok a ∧ readS f.b s = .ok x ∧
    readS f.d s = .ok y ∧ (a + f.imm.signExtend 64).toNat % (if f.ctl.getLsbD 0 then 4 else 8) = 0 ∧
    xlateW .atomic (a + f.imm.signExtend 64).toNat s = .ok (pa, t) ∧ t.core.held.length < 128 :=
  ⟨⟨0, 2, 6, 3, 0, 0, 0, 0, 0x8008⟩, wCtr, _, 0, 5, 7, _, rfl, rfl, rfl, by decide, ok2 (by decide +kernel), by decide +kernel⟩

theorem witness_AtomicValues_1 : ∃ (w4 u : Bool) (w : Nat) (o x y : Nat), w = (if w4 then 32 else 64) ∧ o < 2 ^ w ∧ x < 2 ^ w ∧ y < 2 ^ w :=
  ⟨true, false, 32, 0xFFFFFFFF, 0x80000000, 1, rfl,
    by refine ⟨?_, ?_, ?_⟩ <;> decide⟩

theorem witness_AddRule_1 : ∃ (pa : Nat) (s : State), Memory.wf s = true ∧ (∀ w ∈ s.waiters, w.pa ≠ pa) :=
  ⟨0x40000000, wCtr, by decide +kernel, by decide⟩

theorem witness_AddRule_2 : ∃ (pa n : Nat) (s : State), Memory.wf s = true ∧ (∀ w ∈ s.waiters, w.pa ≠ pa) ∧ n ≠ 0 ∧
    (2 ^ 64 ≤ ctrValue s pa + n ∨ (ctrCeil s pa ≠ 0 ∧ ctrCeil s pa < ctrValue s pa + n)) :=
  ⟨0x40000000, 2, wCeil,
    by refine ⟨?_, ?_, ?_, ?_⟩ <;> decide +kernel⟩

theorem witness_AddRule_3 : ∃ (pa n : Nat) (s : State), Memory.wf s = true ∧ (∀ w ∈ s.waiters, w.pa ≠ pa) ∧
    (n = 0 ∨ (ctrValue s pa + n < 2 ^ 64 ∧ (ctrCeil s pa = 0 ∨ ctrValue s pa + n ≤ ctrCeil s pa))) :=
  ⟨0x40000000, 1, wCeil,
    by refine ⟨?_, ?_, ?_⟩ <;> decide +kernel⟩

theorem witness_WakeRemovesMetWaiters_1 : ∃ (pa : Nat) (s : State) (w : Waiter) (c : CoreId), w ∈ s.waiters ∧ w.pa = pa ∧
    ctrMet s pa w.thr w.wf = true ∧ w.who = .core c :=
  ⟨0x40000000, wWait 0, ⟨0x40000000, 0, true, .core 0⟩, 0, by decide, rfl, by decide +kernel, rfl⟩

theorem witness_HomeCounterEvents_1 : ∃ (pa : Nat) (va n : Word) (fl : BitVec 32) (src : Source) (t : Nat) (s : State),
    lineReady s (pa / 64) false none = .ok :=
  ⟨0x40000000, 0x40000000, 5, 0, .task 0, 3, wCtr, by decide +kernel⟩

theorem witness_HomeCounterEvents_2 : ∃ (pa : Nat) (va n : Word) (fl : BitVec 32) (src : Source) (t : Nat) (s : State),
    lineReady s (pa / 64) false none = .wait :=
  ⟨0x40000000, 0x40000000, 5, 0, .host, 3, dirW 0x1000000 (fun d => { d with resv := some 0 }) wCtr, by decide +kernel⟩

theorem witness_HomeCounterEvents_3 : ∃ (pa : Nat) (va n : Word) (fl : BitVec 32) (k t : Nat) (s : State),
    lineReady s (pa / 64) false none = .poison :=
  ⟨0x40000000, 0x40000000, 5, 0, 2, 3, dirW 0x1000000 (fun d => { d with psn := true }) wCtr, by decide +kernel⟩

theorem witness_HomeCounterEvents_4 : ∃ (pa : Nat) (b : BitVec 32) (t : Nat) (s : State), lineReady s (pa / 64) false none = .ok ∧
    Memory.wf s = true ∧ (∀ w ∈ s.waiters, w.pa ≠ pa) :=
  ⟨0x40000000, 0x48, 3, wCtr,
    by refine ⟨?_, ?_, ?_⟩ <;> decide +kernel⟩

theorem witness_HomeCounterEvents_5 : ∃ (pa : Nat) (va v : Word) (src : Source) (t : Nat) (s : State),
    lineReady s (pa / 64) false none = .ok ∧ Memory.wf s = true ∧ (∀ w ∈ s.waiters, w.pa ≠ pa) ∧ v.toNat < 2 ^ 32 ∧ v ≠ 0 :=
  ⟨0x40000000, 0x40000000, 9, .nobody, 3, wCeil,
    by refine ⟨?_, ?_, ?_, ?_, ?_⟩ <;> decide +kernel⟩

theorem witness_BarrierInstructions_1 : ∃ (f : YA) (s : State) (i : Nat) (g : Seg), segOf s f.seg.toNat = some (i, g) ∧
    s.core.held.length < 128 :=
  ⟨⟨6, 0, 0, 0, 0, 0, 0, 0, 0⟩, wSeg, 5, sg, by decide +kernel, by decide⟩

theorem witness_BarrierInstructions_2 : ∃ (f : YA) (s : State) (i : Nat) (g : Seg) (p : Word), segOf s f.seg.toNat = some (i, g) ∧
    readS f.a s = .ok p ∧ s.core.held = [] ∧ released g (p.setWidth 16) = true :=
  ⟨⟨4, 0, 0, 0, 0, 0, 0, 0, 0⟩, reg 4 65534 wSeg, 5, sg, 65534, by decide +kernel, rfl, rfl, by decide⟩

theorem witness_BarrierInstructions_3 : ∃ (f : YA) (s : State) (i : Nat) (g : Seg) (p : Word), segOf s f.seg.toNat = some (i, g) ∧
    readS f.a s = .ok p ∧ s.core.held = [] ∧ released g (p.setWidth 16) = false :=
  ⟨⟨4, 0, 0, 0, 0, 0, 0, 0, 0⟩, reg 4 65535 wSeg, 5, sg, 65535, by decide +kernel, rfl, rfl, by decide⟩

theorem witness_BarrierInstructions_4 : ∃ (f : YA) (s : State), segOf s f.seg.toNat = none ∧ (∃ p, readS f.a s = .ok p) :=
  ⟨⟨0, 0, 0, 0, 0, 1, 0, 0, 0⟩, wSeg, by decide +kernel, ⟨0, rfl⟩⟩

theorem witness_BarrierPhases_1 : ∃ (c : CoreId) (seg n : Nat) (s : State) (g : Seg), findKey s.segs seg = some g ∧ g.armed = true ∧
    c ∈ g.member ∧ c ∉ g.arrived ∧ g.away = [] :=
  ⟨0, 5, 20, wSeg, sg, rfl, rfl, by decide, by decide, rfl⟩

theorem witness_BarrierPhases_2 : ∃ (c : CoreId) (g : Seg), (∀ m ∈ g.member, m = c ∨ m ∈ g.arrived ∨ m ∈ g.excuse) :=
  ⟨0, { sg with arrived := [0x4000] }, by simp [sg]⟩

theorem witness_BarrierPhases_3 : ∃ (c : CoreId) (g : Seg), (∃ m ∈ g.member, m ≠ c ∧ m ∉ g.arrived ∧ m ∉ g.excuse) :=
  ⟨0, { sg with arrived := [] }, ⟨0x4000, by simp [sg]⟩⟩

theorem witness_BarrierPhases_4 : ∃ (c : CoreId) (s : State) (i : Nat) (p : BitVec 16) (g : Seg), (coreOf s c).st.wait = .bwait i p ∧
    findKey s.segs i = some g ∧ released g p = true :=
  ⟨0, mapSt (fun t => { t with wait := .bwait 5 65534 }) wSeg, 5, 65534, sg, rfl, rfl, by decide⟩

theorem witness_MulticastLands_1 : ∃ (s : State) (m : Mc) (k : Nat), s.mcs = [m] ∧ m.seq = k ∧ m.at_ ≤ s.now :=
  ⟨{ w1 with mcs := [⟨0, 0, 3, [0], 64, 7, true⟩] }, _, 3, rfl, rfl, by decide⟩

theorem witness_MulticastLands_2 : ∃ (s : State) (m : Mc) (k : Nat), s.mcs = [m] ∧ m.seq = k ∧ m.at_ ≤ s.now :=
  ⟨{ w1 with mcs := [⟨0, 0, 3, [0], 64, 7, false⟩] }, _, 3, rfl, rfl, by decide⟩

theorem witness_MulticastLands_3 : ∃ (s : State) (m : Mc) (c : CoreId), s.mcs = [m] ∧ c ∈ m.targets ∧
    SMap.wf 0 (coreOf s c).scratch = true ∧ m.full = true ∧ m.off % 16 = 0 ∧ SMap.wf false (coreOf s c).full = true :=
  ⟨{ w1 with mcs := [⟨0, 0, 3, [0], 64, 7, true⟩] }, _, 0, rfl, by decide, rfl, rfl, by decide, rfl⟩

theorem witness_CheckpointSteps_1 : ∃ (s : State), settled false s = false ∧ settled false (landDue true s) = false :=
  ⟨mapSt (fun t => { t with pend := [⟨some 9, 9, none, 0, .sreg 31 7, 0, 0⟩] }) w1, by decide +kernel, by decide +kernel⟩

theorem witness_CheckpointSteps_2 : ∃ (s : State), settled false s = false ∧ settled false (landDue true s) = true :=
  ⟨mapSt (fun t => { t with pend := [⟨none, 0, none, 0, .sreg 31 7, 0, 0⟩] }) w1, by decide +kernel, by decide +kernel⟩

theorem witness_CheckpointSteps_3 : ∃ (s : State), settled false s = true ∧ dirtyMap s.core = 0 ∧ placeless s.core = true :=
  ⟨w1,
    by refine ⟨?_, ?_, ?_⟩ <;> decide +kernel⟩

theorem witness_CheckpointSteps_4 : ∃ (s : State), settled false s = true ∧ dirtyMap s.core = 0 ∧ placeless s.core = false :=
  ⟨mapCore (fun c => { c with held := [.store 0x8000 0x8000 1 1 none] }) w1,
    by refine ⟨?_, ?_, ?_⟩ <;> decide +kernel⟩

theorem witness_CheckpointSteps_5 : ∃ (s : State), settled false s = true ∧ dirtyMap s.core = 0 ∧ placeless s.core = false ∧
    s.core.stale = false ∧ writeSet s.core ≠ [] :=
  ⟨mapCore (fun c => { c with held := [.store 0x8000 0x8000 1 1 none] }) w1, by decide +kernel, by decide +kernel, by decide +kernel, rfl,
    by decide +kernel⟩

theorem witness_CheckpointSteps_6 : ∃ (s : State), settled false s = true ∧ dirtyMap s.core = 0 ∧ placeless s.core = false ∧
    s.core.stale = true :=
  ⟨mapCore (fun c => { c with stale := true }) w1, by decide +kernel, by decide +kernel, by decide +kernel, rfl⟩

theorem witness_CheckpointSteps_7 : ∃ (s : State), settled false s = true ∧ dirtyMap s.core ≠ 0 :=
  ⟨wBank false false, by decide +kernel, by decide +kernel⟩

theorem witness_BundleFlags_1 : ∃ (s : State), settled true (landDue true s) = true :=
  ⟨mapSt (fun t => { t with pend := [⟨none, 0, none, 0, .sreg 31 7, 0, 0⟩] }) w1, by decide +kernel⟩

theorem witness_BundleFlags_2 : ∃ (s : State), settled true (landDue true s) = false :=
  ⟨mapSt (fun t => { t with pend := [⟨some 9, 9, none, 0, .sreg 31 7, 0, 0⟩] }) w1, by decide +kernel⟩

theorem witness_BundleFlags_3 : ∃ (s : State), settled true s = true :=
  ⟨w1, by decide +kernel⟩

theorem witness_BundleFlags_4 : ∃ (s : State), s.core.brken = false ∧ s.core.st.passed ≠ some s.core.st.a.pc :=
  ⟨w1, rfl, by decide⟩

theorem witness_BundleFlags_5 : ∃ (s : State), s.core.st.passed = some s.core.st.a.pc :=
  ⟨mapSt (fun t => { t with passed := some 0 }) w1, rfl⟩

theorem witness_BundleFlags_6 : ∃ (s : State), s.core.brken = true ∧ s.core.st.passed ≠ some s.core.st.a.pc :=
  ⟨mapCore (fun c => { c with brken := true, st := { c.st with passed := some 1 } }) w1, rfl, by decide⟩

theorem witness_CommitReserves_1 : ∃ (c : CoreId) (home : Nat) (s : State) (m : Commit) (rest : List Nat), s.core.id = c ∧
    s.core.lockWait = [] ∧ s.core.commit = some m ∧ m.todo = home :: rest ∧ m.toApply ≠ [] ∧ s.core.stale = false ∧
    (∀ l ∈ writeSet s.core, homeOf l = home → reserveMeets s l = .ok) :=
  ⟨0, 8, wCommit ⟨[8], 0, none, [], [8]⟩, _, _, rfl, rfl, rfl, rfl, by decide, rfl, by decide +kernel⟩

theorem witness_CommitReserves_2 : ∃ (c : CoreId) (home : Nat) (s : State) (m : Commit) (rest : List Nat), s.core.id = c ∧
    s.core.lockWait = [] ∧ s.core.commit = some m ∧ m.todo = home :: rest ∧ m.toApply ≠ [] ∧ s.core.stale = false ∧
    (∃ l ∈ writeSet s.core, homeOf l = home ∧ reserveMeets s l = .fail) ∧
    (∀ l ∈ writeSet s.core, homeOf l = home → reserveMeets s l ≠ .poison) :=
  ⟨0, 8, dirW 512 (fun d => { d with pin := some 1 }) (wCommit ⟨[8], 0, none, [], [8]⟩), _, _, rfl, rfl, rfl, rfl, by decide, rfl,
    by decide +kernel, by decide +kernel⟩

theorem witness_CommitRenews_1 : ∃ (c : CoreId) (line n : Nat) (s : State) (m : Commit) (rest : List Nat), s.core.id = c ∧
    s.core.commit = some m ∧ m.todo = [] ∧ m.t = some n ∧ m.renewals = line :: rest ∧ m.toApply ≠ [] ∧ s.core.stale = false ∧
    (∀ e ∈ readSet s.core, e.1 = line → (dirOf s line).wts ≤ e.2) ∧ (dirOf s line).resv = none :=
  ⟨0, 3, 9, wRenew 0, _, _, rfl, rfl, rfl, rfl, rfl, by decide, rfl, by decide +kernel, by decide +kernel⟩

theorem witness_CommitRenews_2 : ∃ (c : CoreId) (line n : Nat) (s : State) (m : Commit) (rest : List Nat), s.core.id = c ∧
    s.core.commit = some m ∧ m.todo = [] ∧ m.t = some n ∧ m.renewals = line :: rest ∧ m.toApply ≠ [] ∧ s.core.stale = false ∧
    ((∃ e ∈ readSet s.core, e.1 = line ∧ e.2 < (dirOf s line).wts) ∨ (∃ d, d ≠ c ∧ (dirOf s line).resv = some d)) :=
  ⟨0, 3, 9, wRenew 300, _, _, rfl, rfl, rfl, rfl, rfl, by decide, rfl, Or.inl (by decide +kernel)⟩

theorem witness_CommitRenews_3 : ∃ (c : CoreId) (line n : Nat) (s : State) (m : Commit) (rest : List Nat), s.core.id = c ∧
    s.core.commit = some m ∧ m.todo = [] ∧ m.t = some n ∧ m.renewals = line :: rest ∧ m.toApply ≠ [] ∧ s.core.stale = false ∧
    ((∃ e ∈ readSet s.core, e.1 = line ∧ e.2 < (dirOf s line).wts) ∨ (∃ d, d ≠ c ∧ (dirOf s line).resv = some d)) :=
  ⟨0, 3, 9, dirW 3 (fun d => { d with resv := some 1 }) (wRenew 0), _, _, rfl, rfl, rfl, rfl, rfl, by decide, rfl, Or.inr ⟨1, by decide,
    by decide +kernel⟩⟩

theorem witness_CommitApplies_1 : ∃ (c : CoreId) (home n pa : Nat) (va : Word) (data : Vec) (mask : BitVec 64) (s : State) (m : Commit),
    s.core.id = c ∧ s.core.commit = some m ∧ m.todo = [] ∧ m.t = some n ∧ m.renewals = [] ∧ m.toApply = [home] ∧ pa % 64 = 0 ∧
    homeOf (pa / 64) = home ∧ s.core.held = [.store pa va data mask none] ∧ Memory.wf s = true ∧ (dirOf s (pa / 64)).psn = false ∧
    s.core.stale = false ∧ (dirOf s (pa / 64)).resv = some c :=
  ⟨0, 8, 40, 0x8000, 0x8000, 0x0201, 3, dirW 512 (fun d => { d with resv := some 0 }) (wCommit ⟨[], 0, some 40, [], [8]⟩), _, rfl, rfl,
    rfl, rfl, rfl, rfl, by decide, by decide +kernel, rfl, by decide +kernel, by decide +kernel, rfl, by decide +kernel⟩

theorem witness_LeaseGrant_1 : ∃ (c : CoreId) (line : Nat) (s : State), s.core.id = c ∧ homeServes s line = .ok () ∧
    (dirOf s line).resv = none :=
  ⟨0, 512, wPg, rfl, ok0 (by decide +kernel), by decide +kernel⟩

theorem witness_LeaseGrant_2 : ∃ (c : CoreId) (line : Nat) (s : State), s.core.id = c ∧ homeServes s line = .ok () ∧
    (dirOf s line).resv = none ∧ (∀ l ∈ s.core.l1, l.pa ≠ 64 * line) ∧
    (s.core.l1.filter fun l => l1Set l.pa == l1Set (64 * line)).length < waysOf s.core :=
  ⟨0, 512, mapCore (fun c => { c with lent := 0 }) wPg, rfl, ok0 (by decide +kernel), by decide +kernel, (by intro l h; cases h),
    by decide +kernel⟩

theorem witness_TokenAndStamps_1 : ∃ (s : State) (c : CoreId) (q : List CoreId), s.sched.pinHolder = none ∧ s.sched.pinQ = c :: q :=
  ⟨{ w1 with sched := { w1.sched with pinQ := [0, 0x4000] } }, 0, [0x4000], rfl, rfl⟩

theorem witness_AtomicApplies_1 : ∃ (c : CoreId) (home n pa id w : Nat) (k : AtomKind) (w4 u : Bool) (x y : Word) (r : BitVec 5) (s :
    State) (m : Commit), s.core.id = c ∧ s.core.commit = some m ∧ m.todo = [] ∧ m.t = some n ∧ m.renewals = [] ∧ m.toApply = [home] ∧
    w = (if w4 then 4 else 8) ∧ pa % w = 0 ∧ homeOf (pa / 64) = home ∧ s.core.held = [.atomic k pa w4 u x y r id] ∧ Memory.wf s = true ∧
    (dirOf s (pa / 64)).psn = false ∧ s.core.stale = false ∧ (dirOf s (pa / 64)).resv = some c ∧ (∃ v ∈ s.core.st.vls, v.id = id ∧
    v.keep = true) ∧ r ≠ 0 :=
  ⟨0, 8, 40, 0x8000, 7, 4, .fadd, true, false, 0x7F800001, 0, 6, wAt true, _, rfl, rfl, rfl, rfl, rfl, rfl, rfl, by decide,
    by decide +kernel, rfl, by decide +kernel, by decide +kernel, rfl,
    by refine ⟨?_, ?_, ?_⟩ <;> decide +kernel⟩

theorem witness_AtomicApplies_2 : ∃ (c : CoreId) (home n pa id w : Nat) (k : AtomKind) (w4 u : Bool) (x y : Word) (r : BitVec 5) (s :
    State) (m : Commit), s.core.id = c ∧ s.core.commit = some m ∧ m.todo = [] ∧ m.t = some n ∧ m.renewals = [] ∧ m.toApply = [home] ∧
    w = (if w4 then 4 else 8) ∧ pa % w = 0 ∧ homeOf (pa / 64) = home ∧ s.core.held = [.atomic k pa w4 u x y r id] ∧ Memory.wf s = true ∧
    (dirOf s (pa / 64)).psn = false ∧ s.core.stale = false ∧ (dirOf s (pa / 64)).resv = some c ∧
    (∀ v ∈ s.core.st.vls, v.id = id → v.keep = false) :=
  ⟨0, 8, 40, 0x8000, 7, 4, .fadd, true, false, 0x7F800001, 0, 6, wAt false, _, rfl, rfl, rfl, rfl, rfl, rfl, rfl, by decide,
    by decide +kernel, rfl, by decide +kernel, by decide +kernel, rfl, by decide +kernel, by decide +kernel⟩

theorem witness_AtomicValues_2 : ∃ (w4 : Bool) (o x : Nat) (v : XV) (f : Flags) (b : Nat) (g : Flags), o < 2 ^ 32 ∧ x < 2 ^ 32 ∧
    w4 = true ∧ (valueOf 0 o).add (valueOf 0 x) = (v, f) ∧ convertSat v 0 0 0 = (b, g) :=
  ⟨true, 0x3F800000, 0x7F800001, _, _, _, _, by decide, by decide, rfl, rfl, rfl⟩

theorem witness_TileLoadResults_1 : ∃ (f : LS) (s s1 s2 s3 : State) (t : TileArgs) (o : Word) (r : Option Rec) (m : List (Nat × List Byte))
    (ents : List Ent) (rs : List Nat), tileArgs f s = .ok t ∧ tileOff f s = .ok o ∧ tileLegal t.h t.blk = true ∧
    spadWriteCheck (spadOffs o (imgBytes f.ty.toNat)) f.fe.toNat o s = .ok () ∧ Claims.tileRec t s s1 r ∧ readTile t s1 = .ok (m, s2) ∧
    Claims.mxOk t r (tileMarks t s1) s2 ∧ Claims.tileEnts t r (tileMarks t s1) ents ∧ draws f.rnd.toNat 256 s2 = (rs, s3) :=
  ⟨⟨5, 0, 0, 0, 0, 0, 0, 0, 0⟩, wRec 2, _, _, _, _, _, none, _, _, _, ok1 (by decide +kernel), ok1 (by decide +kernel), by decide +kernel,
    ok0 (by decide +kernel), Or.inl ⟨by decide +kernel, rfl, rfl⟩, ok2 (by decide +kernel), (fun _ _ h => nomatch h), rfl, rfl⟩

theorem witness_TileLoadResults_2 : ∃ (f : LS) (s s1 s2 s3 : State) (t : TileArgs) (o : Word) (r : Option Rec) (m : List (Nat × List Byte))
    (ents : List Ent) (rs : List Nat), tileArgs f s = .ok t ∧ tileOff f s = .ok o ∧ tileLegal t.h t.blk = true ∧
    spadWriteCheck (spadOffs o (imgBytes f.ty.toNat)) f.fe.toNat o s = .ok () ∧ Claims.tileRec t s s1 r ∧ readTile t s1 = .ok (m, s2) ∧
    Claims.mxOk t r (tileMarks t s1) s2 ∧ Claims.tileEnts t r (tileMarks t s1) ents ∧ draws f.rnd.toNat 256 s2 = (rs, s3) :=
  ⟨⟨5, 0, 0, 1, 1, 0, 1, 0, 3⟩, wTile, _, _, _, _, _, _, _, List.replicate 4 ⟨4, 1, 2⟩ ++ List.replicate 252 ⟨0, 0, 2⟩, _,
    ok1 (by decide +kernel), ok1 (by decide +kernel), by decide +kernel, ok0 (by decide +kernel), Or.inr ⟨by decide +kernel, _, rfl,
    ok2 (by decide +kernel)⟩, ok2 (by decide +kernel), (fun h => absurd h (by decide +kernel)), allOk (by decide +kernel), rfl⟩

theorem witness_TileLoadResults_3 : ∃ (f : LS) (s s1 s2 s3 : State) (t : TileArgs) (o : Word) (r : Option Rec) (m : List (Nat × List Byte))
    (ents : List Ent) (rs : List Nat), tileArgs f s = .ok t ∧ tileOff f s = .ok o ∧ tileLegal t.h t.blk = true ∧
    spadWriteCheck (spadOffs o (imgBytes f.ty.toNat)) f.fe.toNat o s = .ok () ∧ Claims.tileRec t s s1 r ∧ readTile t s1 = .ok (m, s2) ∧
    Claims.mxOk t r (tileMarks t s1) s2 ∧ Claims.tileEnts t r (tileMarks t s1) ents ∧ draws f.rnd.toNat 256 s2 = (rs, s3) ∧ f.ty = 4 ∧
    t.blk = true :=
  ⟨⟨5, 0, 0, 1, 4, 0, 0, 1, 0⟩, hdl 1 hm (wRec 2), _, _, _, _, _, none, _, _, _, ok1 (by decide +kernel), ok1 (by decide +kernel),
    by decide +kernel, ok0 (by decide +kernel), Or.inl ⟨by decide +kernel, rfl, rfl⟩, ok2 (by decide +kernel), (fun _ _ h => nomatch h),
    rfl, rfl, rfl, rfl⟩

theorem witness_TileLoadResults_4 : ∃ (f : LS) (s s1 s2 : State) (t : TileArgs) (o : Word) (q : Rec) (m : List (Nat × List Byte)) (va :
    Nat), tileArgs f s = .ok t ∧ tileOff f s = .ok o ∧ tileLegal t.h t.blk = true ∧
    spadWriteCheck (spadOffs o (imgBytes f.ty.toNat)) f.fe.toNat o s = .ok () ∧ hGov t.h = true ∧ readRec (hTmr t.h) s = .ok (q, s1) ∧
    readTile t s1 = .ok (m, s2) ∧ (∃ x, readTile t s = .ok x) ∧ Claims.mxOk t (some q) (tileMarks t s1) s1 ∧
    Claims.mxOk t (some q) (tileMarks t s1) s2 ∧
    staleVa ((tileElems t.blk (hTrn t.h) t.r0 t.c0).map fun p => if inTensor t.h p then entryOf t q (codeVa t.h (layoutFmt t.h t.blk)
    (t.r0, t.c0)) (tileMarks t s1) p else .ok ⟨0, 0, layoutFmt t.h t.blk⟩) = some va :=
  ⟨⟨5, 0, 0, 1, 1, 2, 1, 0, 3⟩, { wTile with wm := [(0x80, 5)] }, _, _, _, _, _, _, _, ok1 (by decide +kernel), ok1 (by decide +kernel),
    by decide +kernel, ok0 (by decide +kernel), by decide +kernel, ok2 (by decide +kernel), ok2 (by decide +kernel), ⟨_,
    ok1 (by decide +kernel)⟩, (fun h => absurd h (by decide +kernel)), (fun h => absurd h (by decide +kernel)), some1 (by decide +kernel)⟩

theorem witness_TileLoadResults_5 : ∃ (f : LS) (s s2 : State) (t : TileArgs) (o : Word) (m : List (Nat × List Byte)),
    tileArgs f s = .ok t ∧ tileOff f s = .ok o ∧ tileLegal t.h t.blk = true ∧ f.ty.toNat = (if hGov t.h then 15 else hFmt t.h) ∧
    spadWriteCheck (spadOffs o (imgBytes (if t.blk then 4 else 0))) f.fe.toNat o s = .ok () ∧ readTile t s = .ok (m, s2) :=
  ⟨⟨5, 0, 0, 1, 15, 0, 0, 1, 0⟩, wRec 4, _, _, _, _, ok1 (by decide +kernel), ok1 (by decide +kernel), by decide +kernel,
    by decide +kernel, ok0 (by decide +kernel), ok2 (by decide +kernel)⟩

theorem witness_TileStoreResults_1 : ∃ (f : LS) (s s1 s2 s3 s4 : State) (t : TileArgs) (r : Option Rec) (en : Ent) (v : Vec) (rs : List
    Nat) (cs : List (Nat × Flags)), tileArgs f s = .ok t ∧ tileLegal t.h t.blk = true ∧ t.blk = false ∧ Claims.tileRec t s s1 r ∧
    (match r with | none => en = ⟨0, 0, hFmt t.h⟩ | some q => q.current = some en) ∧ en.f ≠ 4 ∧
    srcVec (f.f0.setWidth 6) f.ty.toNat s1 = .ok (v, s2) ∧ draws (hRnd t.h) (vecElems f.ty.toNat) s2 = (rs, s3) ∧
    cs = (((elemsOf f.ty.toNat v).map (XV.scale (-en.e))).zip (rs ++ List.replicate (vecElems f.ty.toNat) 0)).map (fun x => convertSat x.1
    en.f (hRnd t.h) x.2) ∧
    holdTile t (r.map fun q => q.ver % 16) (r.map fun q => (q.pa,
    ((elemsOf f.ty.toNat v).zip (carried t (vecElems f.ty.toNat))).filterMap fun x => if inTensor t.h x.2 then some (binOf x.1 en.e en.f)
    else none)) (elemBlocks t en.f (carried t (vecElems f.ty.toNat)) (cs.map (·.1))) s3 = .ok s4 :=
  ⟨⟨34, 0, 0, 0, 0, 0, 0, 0, 0⟩, wRec 2, _, _, _, _, _, none, _, _, _, _, ok1 (by decide +kernel), by decide +kernel, by decide +kernel,
    Or.inl ⟨by decide +kernel, rfl, rfl⟩, rfl, by decide +kernel, ok2 (by decide +kernel), rfl, rfl, ok1 (by decide +kernel)⟩

theorem witness_TileStoreResults_2 : ∃ (f : LS) (s s1 s2 s3 s4 : State) (t : TileArgs) (r : Option Rec) (en : Ent) (v : Vec) (rs : List
    Nat) (cs : List (Nat × Flags)), tileArgs f s = .ok t ∧ tileLegal t.h t.blk = true ∧ t.blk = false ∧ Claims.tileRec t s s1 r ∧
    (match r with | none => en = ⟨0, 0, hFmt t.h⟩ | some q => q.current = some en) ∧ en.f ≠ 4 ∧
    srcVec (f.f0.setWidth 6) f.ty.toNat s1 = .ok (v, s2) ∧ draws (hRnd t.h) (vecElems f.ty.toNat) s2 = (rs, s3) ∧
    cs = (((elemsOf f.ty.toNat v).map (XV.scale (-en.e))).zip (rs ++ List.replicate (vecElems f.ty.toNat) 0)).map (fun x => convertSat x.1
    en.f (hRnd t.h) x.2) ∧
    holdTile t (r.map fun q => q.ver % 16) (r.map fun q => (q.pa,
    ((elemsOf f.ty.toNat v).zip (carried t (vecElems f.ty.toNat))).filterMap fun x => if inTensor t.h x.2 then some (binOf x.1 en.e en.f)
    else none)) (elemBlocks t en.f (carried t (vecElems f.ty.toNat)) (cs.map (·.1))) s3 = .ok s4 :=
  ⟨⟨34, 0, 0, 1, 0, 0, 0, 0, 0⟩, wRec 2, _, _, _, _, _, _, ⟨4, 1, 2⟩, _, _, _, ok1 (by decide +kernel), by decide +kernel,
    by decide +kernel, Or.inr ⟨by decide +kernel, _, rfl, ok2 (by decide +kernel)⟩, (by decide +kernel : _ = some (⟨4, 1, 2⟩ : Ent)),
    by decide +kernel, ok2 (by decide +kernel), rfl, rfl, ok1 (by decide +kernel)⟩

theorem witness_TileStoreResults_3 : ∃ (f : LS) (s s1 s2 s3 s4 : State) (t : TileArgs) (r : Option Rec) (en : Ent) (v : Vec) (rs : List
    Nat) (a b : Nat × List Nat × Flags), tileArgs f s = .ok t ∧ tileLegal t.h t.blk = true ∧ t.blk = true ∧ Claims.tileRec t s s1 r ∧
    (match r with | none => en = ⟨0, 0, hFmt t.h⟩ | some q => q.current = some en) ∧ en.f = 4 ∧
    srcVec (f.f0.setWidth 6) f.ty.toNat s1 = .ok (v, s2) ∧ draws (hRnd t.h) (vecElems f.ty.toNat) s2 = (rs, s3) ∧ a = (if f.ty = 4 ∧
    en.e = 0 then Claims.keptBlock v 0 else mx4Encode (((elemsOf f.ty.toNat v).map (XV.scale (-en.e))).take 32) (hRnd t.h) (rs.take 32)) ∧
    b = (if f.ty = 4 ∧
    en.e = 0 then Claims.keptBlock v 1 else mx4Encode ((((elemsOf f.ty.toNat v).map (XV.scale (-en.e))).drop 32).take 32) (hRnd t.h)
    ((rs.drop 32).take 32)) ∧
    holdTile t (r.map fun q => q.ver % 16) (r.map fun q => (q.pa,
    ((elemsOf f.ty.toNat v).zip (carried t (vecElems f.ty.toNat))).filterMap fun x => if inTensor t.h x.2 then some (binOf x.1 en.e en.f)
    else none)) (mxBlocks t [(a.1, a.2.1), (b.1, b.2.1)]) s3 = .ok s4 :=
  ⟨⟨34, 0, 0, 1, 2, 0, 0, 1, 0⟩, wRec 4, _, _, _, _, _, _, ⟨4, 1, 4⟩, _, _, _, _, ok1 (by decide +kernel), by decide +kernel,
    by decide +kernel, Or.inr ⟨by decide +kernel, _, rfl, ok2 (by decide +kernel)⟩, (by decide +kernel : _ = some (⟨4, 1, 4⟩ : Ent)), rfl,
    ok2 (by decide +kernel), rfl, rfl, rfl, ok1 (by decide +kernel)⟩

theorem witness_TileStoreResults_4 : ∃ (f : LS) (s s1 s2 s3 s4 : State) (t : TileArgs) (r : Option Rec) (en : Ent) (v : Vec) (rs : List
    Nat) (a b : Nat × List Nat × Flags), tileArgs f s = .ok t ∧ tileLegal t.h t.blk = true ∧ t.blk = true ∧ Claims.tileRec t s s1 r ∧
    (match r with | none => en = ⟨0, 0, hFmt t.h⟩ | some q => q.current = some en) ∧ en.f = 4 ∧
    srcVec (f.f0.setWidth 6) f.ty.toNat s1 = .ok (v, s2) ∧ draws (hRnd t.h) (vecElems f.ty.toNat) s2 = (rs, s3) ∧ a = (if f.ty = 4 ∧
    en.e = 0 then Claims.keptBlock v 0 else mx4Encode (((elemsOf f.ty.toNat v).map (XV.scale (-en.e))).take 32) (hRnd t.h) (rs.take 32)) ∧
    b = (if f.ty = 4 ∧
    en.e = 0 then Claims.keptBlock v 1 else mx4Encode ((((elemsOf f.ty.toNat v).map (XV.scale (-en.e))).drop 32).take 32) (hRnd t.h)
    ((rs.drop 32).take 32)) ∧
    holdTile t (r.map fun q => q.ver % 16) (r.map fun q => (q.pa,
    ((elemsOf f.ty.toNat v).zip (carried t (vecElems f.ty.toNat))).filterMap fun x => if inTensor t.h x.2 then some (binOf x.1 en.e en.f)
    else none)) (mxBlocks t [(a.1, a.2.1), (b.1, b.2.1)]) s3 = .ok s4 :=
  ⟨⟨34, 0, 0, 1, 4, 0, 0, 1, 0⟩, hdl 1 hm (wRec 2), _, _, _, _, _, none, _, _, _, _, _, ok1 (by decide +kernel), by decide +kernel,
    by decide +kernel, Or.inl ⟨by decide +kernel, rfl, rfl⟩, rfl, rfl, ok2 (by decide +kernel), rfl, rfl, rfl, ok1 (by decide +kernel)⟩

theorem witness_TileStoreResults_5 : ∃ (f : LS) (s s1 s2 s3 : State) (t : TileArgs) (r : Option Rec) (v : Vec), tileArgs f s = .ok t ∧
    tileLegal t.h t.blk = true ∧ f.ty.toNat = (if hGov t.h then 15 else hFmt t.h) ∧ Claims.tileRec t s s1 r ∧
    (∀ q, r = some q → ((q.current.map (·.f)).getD 2 == 4) = t.blk) ∧ srcVec (f.f0.setWidth 6) (rawCarry t.h t.blk) s1 = .ok (v, s2) ∧
    holdTile t (r.map fun q => q.ver % 16) none (if t.blk then mxBlocks t ((List.range 2).map fun b => (laneN v 8 (32 + b),
    (List.range 32).map fun i => laneN v 4 (32 * b + i))) else elemBlocks t (rawCarry t.h t.blk) (carried t (vecElems (rawCarry t.h
    t.blk))) ((List.range (vecElems (rawCarry t.h t.blk))).map (laneN v (8 * elemBytes (rawCarry t.h t.blk))))) s2 = .ok s3 :=
  ⟨⟨34, 0, 0, 0, 0, 0, 0, 0, 0⟩, wRec 2, _, _, _, _, none, _, ok1 (by decide +kernel), by decide +kernel, by decide +kernel,
    Or.inl ⟨by decide +kernel, rfl, rfl⟩, (fun _ h => nomatch h), ok2 (by decide +kernel), ok1 (by decide +kernel)⟩

theorem witness_TileStoreResults_6 : ∃ (t : TileArgs) (wm : Option Nat) (hist : Option (Nat × List Nat)) (bs : List Blk) (s u : State),
    holdTile t wm hist bs s = .ok u :=
  ⟨⟨hp, false, 0, 0⟩, none, none, [⟨0x8000, 1, 1⟩], wPg, _, ok1 (by decide +kernel)⟩

theorem witness_CopyIssue_1 : ∃ (f : CE) (s : State) (a b c d : Word), readS f.a s = .ok a ∧ readS f.b s = .ok b ∧ readS f.c s = .ok c ∧
    readS f.d s = .ok d ∧ c.toNat ≤ 196608 ∧ a.toNat < 2 ^ 38 ∧ b.toNat < 2 ^ 38 ∧ s.core.held.length < 128 :=
  ⟨⟨4, 2, 3, 0, 0, 0, 1⟩, reg 3 196608 (reg 4 0x3FFFFFFFFF w1), 0x3FFFFFFFFF, 5, 196608, 0, rfl, rfl, rfl, rfl,
    by refine ⟨?_, ?_, ?_, ?_⟩ <;> decide⟩

theorem witness_CopyIssue_2 : ∃ (f : CE) (s : State) (a b c d : Word), readS f.a s = .ok a ∧ readS f.b s = .ok b ∧ readS f.c s = .ok c ∧
    readS f.d s = .ok d ∧ 2 ^ 32 ≤ c.toNat :=
  ⟨⟨4, 2, 3, 0, 0, 0, 1⟩, reg 3 0x100000000 w1, 0, 5, 0x100000000, 0, rfl, rfl, rfl, rfl, by decide⟩

theorem witness_CopyIssue_3 : ∃ (f : CE) (s : State) (a b c d : Word), readS f.a s = .ok a ∧ readS f.b s = .ok b ∧ readS f.c s = .ok c ∧
    readS f.d s = .ok d ∧ 196608 < c.toNat :=
  ⟨⟨4, 2, 3, 0, 0, 0, 1⟩, reg 3 196609 w1, 0, 5, 196609, 0, rfl, rfl, rfl, rfl, by decide⟩

theorem witness_CopyIssue_4 : ∃ (f : CE) (s : State) (a b c d : Word), readS f.a s = .ok a ∧ readS f.b s = .ok b ∧ readS f.c s = .ok c ∧
    readS f.d s = .ok d ∧ 2 ^ 38 ≤ a.toNat :=
  ⟨⟨4, 2, 3, 0, 0, 0, 1⟩, reg 4 0x4000000000 w1, 0x4000000000, 5, 7, 0, rfl, rfl, rfl, rfl, by decide⟩

theorem witness_CopyIssue_5 : ∃ (f : CE) (s : State) (a b c d : Word), readS f.a s = .ok a ∧ readS f.b s = .ok b ∧ readS f.c s = .ok c ∧
    readS f.d s = .ok d ∧ 2 ^ 38 ≤ b.toNat :=
  ⟨⟨4, 2, 3, 0, 0, 0, 1⟩, reg 2 0x4000000000 w1, 0, 0x4000000000, 7, 0, rfl, rfl, rfl, rfl, by decide⟩

theorem witness_CopyIssue_6 : ∃ (f : CE) (s : State) (a b d : Word) (h : BitVec 256), readS f.a s = .ok a ∧ readS f.b s = .ok b ∧
    readS f.d s = .ok d ∧ readH f.h s = .ok h ∧ (hTrn h = true ∨ (hGov h = false ∧ (hFmt h = 7 ∨ (hFmt h = 4 ∧ hCols h % 32 ≠ 0)))) :=
  ⟨⟨4, 2, 0, 0, 0, 0, 1⟩, hdl 0 (hp ||| BitVec.ofNat 256 (7 * 2 ^ 160)) w1, 0, 5, 0, _, rfl, rfl, rfl, rfl, by decide⟩

theorem witness_CopyIssue_7 : ∃ (f : CE) (s : State) (a b c d : Word), readS f.a s = .ok a ∧ readS f.b s = .ok b ∧ readS f.c s = .ok c ∧
    readS f.d s = .ok d ∧ 2 ^ 49 ≤ c.toNat :=
  ⟨⟨4, 2, 3, 0, 0, 3, 1⟩, reg 3 (2 ^ 49) w1, 0, 5, 2 ^ 49, 0, rfl, rfl, rfl, rfl, by decide⟩

theorem witness_CopyIssue_8 : ∃ (f : CE) (s : State) (a b d : Word) (h : BitVec 256), readS f.a s = .ok a ∧ readS f.b s = .ok b ∧
    readS f.d s = .ok d ∧ readH f.h s = .ok h ∧ hTrn h = false ∧ (hGov h = true ∨ (hFmt h ≠ 7 ∧ (hFmt h = 4 → hCols h % 32 = 0))) ∧
    s.core.held.length < 128 :=
  ⟨⟨4, 2, 0, 0, 0, 0, 1⟩, hdl 0 hp (reg 4 0x8000 w1), 0x8000, 5, 0, hp, rfl, rfl, rfl, rfl,
    by refine ⟨?_, ?_, ?_⟩ <;> decide⟩

theorem witness_CopyIssue_9 : ∃ (f : CE) (s : State) (a b c d : Word), readS f.a s = .ok a ∧ readS f.b s = .ok b ∧ readS f.c s = .ok c ∧
    readS f.d s = .ok d ∧ c.toNat < 2 ^ 49 ∧ s.core.held.length < 128 :=
  ⟨⟨4, 2, 3, 0, 0, 3, 1⟩, reg 3 (2 ^ 49 - 1) w1, 0, 5, 2 ^ 49 - 1, 0, rfl, rfl, rfl, rfl, by decide, by decide⟩

theorem witness_CopyIssue_10 : ∃ (f : CE) (s : State) (b : Word), readS f.b s = .ok b ∧
    (∀ e ∈ s.stats, e.cl = clusterOf s.core.id → e.ctr ≠ b) :=
  ⟨⟨6, 2, 0, 0, 0, 0, 0⟩, w1, 5, rfl, (fun _ h => nomatch h)⟩

theorem witness_CopyIssue_11 : ∃ (f : CE) (s : State) (b : Word) (e : StatEnt), readS f.b s = .ok b ∧
    (s.stats.find? fun e => e.cl == clusterOf s.core.id && e.ctr == b) = some e ∧ e.cause < 2 ^ 12 ∧ e.st < 4 :=
  ⟨⟨6, 2, 0, 0, 0, 0, 0⟩, { w1 with stats := [⟨0, 5, 4096, 4095, 3, none⟩] }, 5, ⟨0, 5, 4096, 4095, 3, none⟩, rfl,
    by refine ⟨?_, ?_, ?_⟩ <;> decide +kernel⟩

theorem witness_CopyIssue_12 : ∃ (f : CE) (s s1 : State) (b c : Word) (vas pas : List Nat), readS f.b s = .ok b ∧ readS f.c s = .ok c ∧
    vas = ((List.range 16).map fun i => (b + f.imm.signExtend 64 + BitVec.ofNat 64 i * c).toNat) ∧ (∀ va ∈ vas, va % 4 = 0) ∧
    loadWords (vas.flatMap fun va => (List.range 16).map (va + 4 * ·)) s = (([], pas), s1) ∧ (seenBank s1 f.mode.toNat).lent = true ∧
    (seenBank s1 f.mode.toNat).toCopy = true :=
  ⟨⟨0, 0, 0, 0, 0, 1, 0x8000⟩, wLoadK true,
    (loadWords ((List.replicate 16 0x8000).flatMap fun va => (List.range 16).map (va + 4 * ·)) (wLoadK true)).2, 0, 0,
    List.replicate 16 0x8000,
    (loadWords ((List.replicate 16 0x8000).flatMap fun va => (List.range 16).map (va + 4 * ·)) (wLoadK true)).1.2, rfl, rfl,
    by decide +kernel, by decide +kernel, loadOk (by decide +kernel), by decide +kernel, by decide +kernel⟩

theorem witness_CopyIssue_13 : ∃ (f : CE) (s s1 : State) (b c : Word) (vas pas : List Nat), readS f.b s = .ok b ∧ readS f.c s = .ok c ∧
    vas = ((List.range 16).map fun i => (b + f.imm.signExtend 64 + BitVec.ofNat 64 i * c).toNat) ∧ (∀ va ∈ vas, va % 4 = 0) ∧
    loadWords (vas.flatMap fun va => (List.range 16).map (va + 4 * ·)) s = (([], pas), s1) ∧ (seenBank s1 f.mode.toNat).lent = false :=
  ⟨⟨0, 0, 0, 0, 0, 1, 0x8000⟩, wLoadK false,
    (loadWords ((List.replicate 16 0x8000).flatMap fun va => (List.range 16).map (va + 4 * ·)) (wLoadK false)).2, 0, 0,
    List.replicate 16 0x8000,
    (loadWords ((List.replicate 16 0x8000).flatMap fun va => (List.range 16).map (va + 4 * ·)) (wLoadK false)).1.2, rfl, rfl,
    by decide +kernel, by decide +kernel, loadOk (by decide +kernel), by decide +kernel⟩

theorem witness_CopyAccept_1 : ∃ (cl : ClusterId) (s : State) (q : LaunchQ), (s.launchq.find? fun x => x.cl == cl) = some q ∧
    (s.copies.filter fun o => o.cl == cl && o.sw.isNone).length < 16 ∧ q.l.ctr = 0 ∧ (∀ o ∈ s.copies, o.id ≠ s.nextId) ∧
    launchCheck s q = none ∧ q.l.pieces ≠ [] :=
  ⟨0, { wPg with launchq := [⟨0, 0, 0, 0, ln, 7⟩] }, _, rfl, by decide, rfl, (fun _ h => nomatch h), by decide +kernel, by decide +kernel⟩

theorem witness_CopyAccept_2 : ∃ (cl : ClusterId) (s : State) (q : LaunchQ) (y : StopWhy) (c : Nat),
    (s.launchq.find? fun x => x.cl == cl) = some q ∧ (s.copies.filter fun o => o.cl == cl && o.sw.isNone).length < 16 ∧ q.l.ctr = 0 ∧
    (∀ o ∈ s.copies, o.id ≠ s.nextId) ∧ launchCheck s q = some y ∧ y.code = some c :=
  ⟨0, { wPg with launchq := [⟨0, 0, 0, 0, { ln with kind := .cpyr, module := 9 }, 7⟩] }, _, _, _, rfl, by decide, rfl,
    (fun _ h => nomatch h), some1 (by decide +kernel), some1 (by decide +kernel)⟩

theorem witness_CopyAccept_3 : ∃ (cl : ClusterId) (s : State) (q : LaunchQ) (pa : Nat), (s.launchq.find? fun x => x.cl == cl) = some q ∧
    (s.copies.filter fun o => o.cl == cl && o.sw.isNone).length < 16 ∧ q.l.ctr ≠ 0 ∧ (∀ o ∈ s.copies, o.id ≠ s.nextId) ∧
    (takeStat cl q.l.ctr s.nextId s).isSome = true ∧ launchCheck s q = none ∧ q.l.rc = false ∧ engCounter s q.l.ctr.toNat = .ok pa ∧
    q.l.pieces ≠ [] :=
  ⟨0, { wPg with launchq := [⟨0, 0, 0, 0, { ln with ctr := 0x40000000, amt := 1 }, 7⟩] }, _, 0x40000000, rfl, by decide, by decide,
    (fun _ h => nomatch h), by decide +kernel, by decide +kernel, rfl, okIs (by decide +kernel), by decide +kernel⟩

theorem witness_CopyAccept_4 : ∃ (cl : ClusterId) (s : State) (q : LaunchQ), (s.launchq.find? fun x => x.cl == cl) = some q ∧
    (s.copies.filter fun o => o.cl == cl && o.sw.isNone).length < 16 ∧ q.l.ctr ≠ 0 ∧ (∀ o ∈ s.copies, o.id ≠ s.nextId) ∧
    (takeStat cl q.l.ctr s.nextId s).isSome = true ∧ launchCheck s q = none ∧ q.l.rc = true :=
  ⟨0, { wDom with launchq := [⟨0, 0, 0, 0, { ln with kind := .cpyr, module := 3, ctr := 0x40000000, amt := 1, rc := true }, 7⟩] }, _, rfl,
    by decide, by decide, (fun _ h => nomatch h), by decide +kernel, by decide +kernel, rfl⟩

theorem witness_CopyAccept_5 : ∃ (cl : ClusterId) (s : State), 16 ≤ (s.copies.filter fun o => o.cl == cl && o.sw.isNone).length :=
  ⟨0, { wPg with copies := List.replicate 16 (cop ln) }, by decide⟩

theorem witness_CopyPieces_1 : ∃ (o : Cop) (p : Piece) (s : State), o.l.spad = true :=
  ⟨cop { ln with kind := .cpys }, ⟨0x8000, 64, 16, false, []⟩, w1, by decide⟩

theorem witness_CopyPieces_2 : ∃ (o : Cop) (p : Piece) (s : State) (pa : Nat), o.l.spad = false ∧ engXlate s .rd p.src = .ok pa ∧
    engServes s (pa / 64) = .ok () ∧ isPool pa = false :=
  ⟨cop ln, ⟨0x8000, 0x9000, 64, false, []⟩, wPg, 0x9000, by decide, okIs (by decide +kernel), ok0 (by decide +kernel), by decide⟩

theorem witness_CopyPieces_3 : ∃ (k : Nat) (s s1 : State) (o : Cop) (p : Piece) (bs : List Byte) (t1 qa : Nat), (∀ l ∈ s.loads,
    l.id ≠ o.id) ∧ (s.copies.find? fun x => x.id == o.id) = some o ∧ o.pieces[k]? = some p ∧ p.out = false ∧ o.l.kind ≠ .cpyr ∧
    o.l.dpad = false ∧ o.l.wmp = 0 ∧ pieceRead o p s = .ok (bs, t1, s1) ∧ bs.length = p.n ∧ engXlate s1 .wr p.dst = .ok qa ∧
    isPool qa = false ∧ lineReady s1 (qa / 64) (p.n == 64) none = .ok ∧ Memory.wf s = true :=
  ⟨0, wCop ln, _, cop ln, _, _, _, 0x8000, (fun _ h => nomatch h), by decide +kernel, rfl, rfl, by decide, by decide, rfl,
    ok3r (by decide +kernel), by decide +kernel, okIs (by decide +kernel),
    by refine ⟨?_, ?_, ?_⟩ <;> decide +kernel⟩

theorem witness_CopyPieces_4 : ∃ (k : Nat) (s s1 : State) (o : Cop) (p : Piece) (bs : List Byte) (t1 : Nat), (∀ l ∈ s.loads,
    l.id ≠ o.id) ∧ (s.copies.find? fun x => x.id == o.id) = some o ∧ o.pieces[k]? = some p ∧ p.out = false ∧ o.l.kind ≠ .cpyr ∧
    o.l.dpad = true ∧ pieceRead o p s = .ok (bs, t1, s1) ∧ bs.length = p.n ∧ s.mcs = [] ∧
    SMap.wf 0 (coreOf s (padCore o.l.dst)).scratch = true ∧ SMap.wf false (coreOf s (padCore o.l.dst)).full = true :=
  ⟨0, wCop { ln with kind := .cpyg }, _, cop { ln with kind := .cpyg }, _, _, _, (fun _ h => nomatch h), by decide +kernel, rfl, rfl,
    by decide, by decide, ok3r (by decide +kernel), by decide +kernel, rfl, by decide +kernel, by decide +kernel⟩

theorem witness_CopyPieces_5 : ∃ (k : Nat) (s : State) (o : Cop) (p : Piece), (∀ l ∈ s.loads, l.id ≠ o.id) ∧
    (s.copies.find? fun x => x.id == o.id) = some o ∧ o.pieces[k]? = some p ∧ p.out = false ∧ o.l.kind = .cpyr ∧ o.l.pull = true :=
  ⟨0, wCop { ln with kind := .cpyr, pull := true }, cop { ln with kind := .cpyr, pull := true }, _, (fun _ h => nomatch h),
    by decide +kernel, rfl, rfl, rfl, rfl⟩

theorem witness_CopyPieces_6 : ∃ (k : Nat) (s s1 : State) (o : Cop) (p : Piece) (bs : List Byte) (t1 : Nat), (∀ l ∈ s.loads,
    l.id ≠ o.id) ∧ (s.copies.find? fun x => x.id == o.id) = some o ∧ o.pieces[k]? = some p ∧ p.out = false ∧ o.l.kind = .cpyr ∧
    o.l.pull = false ∧ pieceRead o p s = .ok (bs, t1, s1) :=
  ⟨0, wCop { ln with kind := .cpyr }, _, cop { ln with kind := .cpyr }, _, _, _, (fun _ h => nomatch h), by decide +kernel, rfl, rfl, rfl,
    rfl, ok3r (by decide +kernel)⟩

theorem witness_RecordInstructions_1 : ∃ (f : YA) (s s1 : State) (h : BitVec 256) (a b : Word) (pa : Nat), readH f.h s = .ok h ∧
    readS f.a s = .ok a ∧ readS f.b s = .ok b ∧ checkRec (hTmr h) s = .ok (pa, s1) ∧ s1.core.held.length < 128 ∧
    f.a.extractLsb' 0 5 = (0 : BitVec 5) :=
  ⟨⟨0, 0, 0, 0, 1, 0, 0, 0, 1⟩, wRec 2, _, hg, 0, 0, _, rfl, rfl, rfl, ok2 (by decide +kernel), by decide +kernel, rfl⟩

theorem witness_RecordInstructions_2 : ∃ (f : YA) (s s1 : State) (h : BitVec 256) (a b : Word) (pa c : Nat) (s2 : State),
    readH f.h s = .ok h ∧ readS f.a s = .ok a ∧ readS f.b s = .ok b ∧ checkRec (hTmr h) s = .ok (pa, s1) ∧ s1.core.held.length < 128 ∧
    f.a.extractLsb' 0 5 ≠ (0 : BitVec 5) ∧ ctrAddr .ctrWr a s1 = .ok (c, s2) ∧ s2.core.held = s1.core.held :=
  ⟨⟨4, 0, 0, 0, 1, 0, 0, 0, 1⟩, reg 4 0x40000000 (wRec 2), _, hg, 0x40000000, 0, _, _, _, rfl, rfl, rfl, ok2 (by decide +kernel),
    by decide +kernel, by decide +kernel, ok2 (by decide +kernel), by decide +kernel⟩

theorem witness_RecordInstructions_3 : ∃ (f : YA) (s s1 : State) (h : BitVec 256) (a v : Word) (pa : Nat), readH f.h s = .ok h ∧
    readS f.a s = .ok a ∧ readS f.b s = .ok v ∧ checkRec (hTmr h) s = .ok (pa, s1) ∧ s1.core.held.length < 128 ∧
    f.a.extractLsb' 0 5 = (0 : BitVec 5) ∧ tmsetOk f.ctl.toNat v = true :=
  ⟨⟨0, 2, 0, 0, 1, 0, 0, 0, 1⟩, reg 2 2 (wRec 2), _, hg, 0, 2, _, rfl, rfl, rfl, ok2 (by decide +kernel), by decide +kernel, rfl, by decide⟩

theorem witness_RecordInstructions_4 : ∃ (f : YA) (s s1 : State) (h : BitVec 256) (a v : Word) (pa : Nat), readH f.h s = .ok h ∧
    readS f.a s = .ok a ∧ readS f.b s = .ok v ∧ checkRec (hTmr h) s = .ok (pa, s1) ∧ s1.core.held.length < 128 ∧
    f.a.extractLsb' 0 5 = (0 : BitVec 5) ∧ tmsetOk f.ctl.toNat v = false :=
  ⟨⟨0, 2, 0, 0, 1, 0, 0, 0, 1⟩, reg 2 17 (wRec 2), _, hg, 0, 17, _, rfl, rfl, rfl, ok2 (by decide +kernel), by decide +kernel, rfl,
    by decide⟩

theorem witness_RecordInstructions_5 : ∃ (f : YA) (s s1 : State) (h : BitVec 256) (pa : Nat), readH f.h s = .ok h ∧
    checkRec (hTmr h) s = .ok (pa, s1) ∧ recPoisoned s1 pa = true :=
  ⟨⟨0, 0, 6, 0, 1, 0, 0, 0, 0⟩, dirW 257 (fun d => { d with psn := true }) (wRec 2), _, hg, _, rfl, ok2 (by decide +kernel),
    by decide +kernel⟩

theorem witness_RecordInstructions_6 : ∃ (f : YA) (s s1 : State) (h : BitVec 256) (pa : Nat), readH f.h s = .ok h ∧
    checkRec (hTmr h) s = .ok (pa, s1) ∧ recPoisoned s1 pa = false ∧ ctlField s1 pa 39 36 ≠ 2 :=
  ⟨⟨0, 0, 6, 0, 1, 0, 0, 0, 0⟩, wRec 2, _, hg, _, rfl, ok2 (by decide +kernel), by decide +kernel, by decide +kernel⟩

theorem witness_RecordInstructions_7 : ∃ (f : YA) (s s1 s2 s3 : State) (h : BitVec 256) (pa : Nat), readH f.h s = .ok h ∧
    checkRec (hTmr h) s = .ok (pa, s1) ∧ recPoisoned s1 pa = false ∧ ctlField s1 pa 39 36 ≠ 2 ∧ homeRead (pa / 64) s1 = .ok s2 ∧
    policyServes pa s2 = .ok s3 :=
  ⟨⟨0, 0, 6, 0, 1, 0, 0, 0, 0⟩, wRec 2, _, _, _, hg, _, rfl, ok2 (by decide +kernel), by decide +kernel, by decide +kernel,
    ok1 (by decide +kernel), ok1 (by decide +kernel)⟩

theorem witness_RecordInstructions_8 : ∃ (f : YA) (s s1 : State) (h : BitVec 256) (pa : Nat), readH f.h s = .ok h ∧
    checkRec (hTmr h) s = .ok (pa, s1) ∧ recPoisoned s1 pa = false ∧ ctlField s1 pa 39 36 = 2 :=
  ⟨⟨0, 0, 6, 0, 1, 0, 0, 0, 0⟩, wRecS 2 2, _, hg, _, rfl, ok2 (by decide +kernel), by decide +kernel, by decide +kernel⟩

theorem witness_RecordStates_1 : ∃ (op : TmOp) (s : State), Memory.wf s = true ∧ (∀ c id pc, op.k ≠ .gov c id pc) ∧
    recPoisoned s op.pa = false ∧ op.k = .opn ∧ ctlField s op.pa 39 36 = 0 :=
  ⟨⟨0x4000, 0x8000000, none, 1, .opn, 0, 0⟩, wRecS 2 0, by decide +kernel, (fun _ _ _ h => nomatch h), by decide +kernel, rfl,
    by decide +kernel⟩

theorem witness_RecordStates_2 : ∃ (op : TmOp) (s : State), Memory.wf s = true ∧ (∀ c id pc, op.k ≠ .gov c id pc) ∧
    recPoisoned s op.pa = false ∧ op.k = .opn ∧ ctlField s op.pa 39 36 = 1 :=
  ⟨⟨0x4000, 0x8000000, none, 1, .opn, 0, 0⟩, wRecS 2 1, by decide +kernel, (fun _ _ _ h => nomatch h), by decide +kernel, rfl,
    by decide +kernel⟩

theorem witness_RecordStates_3 : ∃ (op : TmOp) (s : State), Memory.wf s = true ∧ (∀ c id pc, op.k ≠ .gov c id pc) ∧
    recPoisoned s op.pa = false ∧ op.k = .opn ∧ ctlField s op.pa 39 36 = 3 :=
  ⟨⟨0x4000, 0x8000000, none, 1, .opn, 0, 0⟩, wRecS 2 3, by decide +kernel, (fun _ _ _ h => nomatch h), by decide +kernel, rfl,
    by decide +kernel⟩

theorem witness_RecordStates_4 : ∃ (op : TmOp) (s : State), Memory.wf s = true ∧ (∀ c id pc, op.k ≠ .gov c id pc) ∧
    recPoisoned s op.pa = false ∧ op.k = .cls ∧ ctlField s op.pa 39 36 = 1 :=
  ⟨⟨0x4000, 0x8000000, none, 1, .cls, 0, 0⟩, wRecS 2 1, by decide +kernel, (fun _ _ _ h => nomatch h), by decide +kernel, rfl,
    by decide +kernel⟩

theorem witness_RecordStates_5 : ∃ (op : TmOp) (s : State), Memory.wf s = true ∧ (∀ c id pc, op.k ≠ .gov c id pc) ∧
    recPoisoned s op.pa = false ∧ op.k = .cls ∧ ctlField s op.pa 39 36 = 3 :=
  ⟨⟨0x4000, 0x8000000, none, 1, .cls, 0, 0⟩, wRecS 2 3, by decide +kernel, (fun _ _ _ h => nomatch h), by decide +kernel, rfl,
    by decide +kernel⟩

theorem witness_RecordStates_6 : ∃ (op : TmOp) (s : State), Memory.wf s = true ∧ (∀ c id pc, op.k ≠ .gov c id pc) ∧
    recPoisoned s op.pa = false ∧ op.k = .flt ∧ ctlField s op.pa 39 36 = 3 :=
  ⟨⟨0x4000, 0x8000000, none, 1, .flt, 0, 0⟩, wRecS 2 3, by decide +kernel, (fun _ _ _ h => nomatch h), by decide +kernel, rfl,
    by decide +kernel⟩

theorem witness_RecordStates_7 : ∃ (op : TmOp) (s : State), Memory.wf s = true ∧ (∀ c id pc, op.k ≠ .gov c id pc) ∧
    recPoisoned s op.pa = false ∧ op.k = .flt ∧ ctlField s op.pa 39 36 = 2 :=
  ⟨⟨0x4000, 0x8000000, none, 1, .flt, 0, 0⟩, wRecS 2 2, by decide +kernel, (fun _ _ _ h => nomatch h), by decide +kernel, rfl,
    by decide +kernel⟩

theorem witness_RecordStates_8 : ∃ (op : TmOp) (s : State), Memory.wf s = true ∧ (∀ c id pc, op.k ≠ .gov c id pc) ∧
    recPoisoned s op.pa = true :=
  ⟨⟨0x4000, 0x8000000, none, 1, .opn, 0, 0⟩, dirW 257 (fun d => { d with psn := true }) (wRec 2), by decide +kernel,
    (fun _ _ _ h => nomatch h), by decide +kernel⟩

theorem witness_DeltaFlushes_1 : ∃ (c : CoreId) (k : Nat) (s : State) (d : Delta), (coreOf s c).delta[k]? = some d ∧ Memory.wf s = true ∧
    recPoisoned s d.pa = false ∧ ctlField s d.pa 39 36 = 1 ∧ SMap.wf 0 d.counts = true ∧ (∀ e ∈ d.counts, e.1 < 34) ∧ d.late = [] ∧
    rdN s (d.pa + 92) 4 + countSum d.counts < 2 ^ (10 + ctlField s d.pa 35 32) ∧
    (coreOf s c).delta.find? (fun e => e.pa == d.pa) = some d :=
  ⟨0, 0, mapCore (fun c => { c with delta := [⟨0x4000, 0, [(0, 3), (33, 1020)], []⟩] }) (wRecS 2 1), ⟨0x4000, 0, [(0, 3), (33, 1020)],
    []⟩, rfl, by decide +kernel, by decide +kernel, by decide +kernel, by decide +kernel, by decide +kernel, rfl, by decide +kernel,
    by decide +kernel⟩

theorem witness_DeltaFlushes_2 : ∃ (c : CoreId) (k : Nat) (s : State) (d : Delta), (coreOf s c).delta[k]? = some d ∧ Memory.wf s = true ∧
    recPoisoned s d.pa = false ∧ ctlField s d.pa 39 36 ≠ 1 ∧ ctlField s d.pa 39 36 ≠ 2 ∧
    (coreOf s c).delta.find? (fun e => e.pa == d.pa) = some d :=
  ⟨0, 0, mapCore (fun c => { c with delta := [⟨0x4000, 0, [(0, 3), (33, 1020)], []⟩] }) (wRecS 2 3), ⟨0x4000, 0, [(0, 3), (33, 1020)],
    []⟩, rfl,
    by refine ⟨?_, ?_, ?_, ?_, ?_⟩ <;> decide +kernel⟩

theorem witness_DeltaFlushes_3 : ∃ (c : CoreId) (rec : Nat) (s : State) (x : Close), (coreOf s c).commit = none ∧
    (∀ d ∈ (coreOf s c).delta, d.pa ≠ rec) ∧ s.closes = [x] ∧ x.op.pa = rec :=
  ⟨0, 0x4000, { wRecS 2 2 with closes := [⟨(⟨0x4000, 0x8000000, none, 1, .opn, 0, 0⟩ : TmOp), [0]⟩] }, _, rfl, (fun _ h => nomatch h),
    rfl, rfl⟩

theorem witness_Publications_1 : ∃ (rec : Nat) (s : State) (x : Close), s.closes = [x] ∧ x.op.pa = rec ∧ x.todo = [] ∧ rec % 128 = 0 ∧
    Memory.wf s = true ∧ (∀ o ∈ s.tmq, o.pa ≠ rec) ∧ policyWait s rec = none ∧ lineReady s (rec / 64) false none = .ok ∧
    lineReady s (rec / 64 + 1) false none = .ok :=
  ⟨0x4000, { wRecS 2 2 with closes := [⟨(⟨0x4000, 0x8000000, none, 1, .opn, 0, 0⟩ : TmOp), []⟩] }, _, rfl, rfl, rfl, by decide,
    by decide +kernel, (fun _ h => nomatch h),
    by refine ⟨?_, ?_, ?_⟩ <;> decide +kernel⟩

theorem witness_Publications_2 : ∃ (s : State) (pa : Nat), ctlField s pa 15 8 = 0 :=
  ⟨wRec 2, 0x4000, by decide +kernel⟩

theorem witness_RecordStates_9 : ∃ (t fld pa : Nat) (v : Word) (op : TmOp) (s u : State), op.k = .set fld v ∧ op.pa = pa ∧
    Memory.wf s = true ∧ recPoisoned s pa = false ∧ ctlField s pa 39 36 ≠ 2 ∧ tmsetOk fld v = true ∧ fld < 4 ∧ u = applyTm t op s ∧
    fld = 0 ∧ ctlField s pa 39 36 = 3 :=
  ⟨9, 0, 0x4000, 16, (⟨0x4000, 0x8000000, some (0x40000000, 7), 1, .set 0 16, 0, 0⟩ : TmOp), wRecS 2 3, _, rfl, rfl, by decide +kernel,
    by decide +kernel, by decide +kernel, by decide, by decide, rfl, rfl, by decide +kernel⟩

theorem witness_RecordStates_10 : ∃ (t fld pa : Nat) (v : Word) (op : TmOp) (s u : State), op.k = .set fld v ∧ op.pa = pa ∧
    Memory.wf s = true ∧ recPoisoned s pa = false ∧ ctlField s pa 39 36 ≠ 2 ∧ tmsetOk fld v = true ∧ fld < 4 ∧ u = applyTm t op s ∧
    fld = 1 ∧ ctlField s pa 39 36 = 1 :=
  ⟨9, 1, 0x4000, 15, (⟨0x4000, 0x8000000, some (0x40000000, 7), 1, .set 1 15, 0, 0⟩ : TmOp), wRecS 2 1, _, rfl, rfl, by decide +kernel,
    by decide +kernel, by decide +kernel, by decide, by decide, rfl, rfl, by decide +kernel⟩

theorem witness_RecordStates_11 : ∃ (t fld pa : Nat) (v : Word) (op : TmOp) (s u : State), op.k = .set fld v ∧ op.pa = pa ∧
    Memory.wf s = true ∧ recPoisoned s pa = false ∧ ctlField s pa 39 36 ≠ 2 ∧ tmsetOk fld v = true ∧ fld < 4 ∧ u = applyTm t op s ∧
    fld = 2 ∧ ctlField s pa 39 36 = 0 :=
  ⟨9, 2, 0x4000, 0x3FE, (⟨0x4000, 0x8000000, some (0x40000000, 7), 1, .set 2 0x3FE, 0, 0⟩ : TmOp), wRecS 2 0, _, rfl, rfl,
    by decide +kernel, by decide +kernel, by decide +kernel, by decide, by decide, rfl, rfl, by decide +kernel⟩

theorem witness_RecordStates_12 : ∃ (t fld pa : Nat) (v : Word) (op : TmOp) (s u : State), op.k = .set fld v ∧ op.pa = pa ∧
    Memory.wf s = true ∧ recPoisoned s pa = false ∧ ctlField s pa 39 36 ≠ 2 ∧ tmsetOk fld v = true ∧ fld < 4 ∧ u = applyTm t op s ∧
    fld = 3 ∧ ctlField s pa 39 36 = 0 :=
  ⟨9, 3, 0x4000, 0, (⟨0x4000, 0x8000000, some (0x40000000, 7), 1, .set 3 0, 0, 0⟩ : TmOp), wRecS 2 0, _, rfl, rfl, by decide +kernel,
    by decide +kernel, by decide +kernel, by decide, by decide, rfl, rfl, by decide +kernel⟩

theorem witness_RecordStates_13 : ∃ (t fld pa : Nat) (v : Word) (op : TmOp) (s u : State), op.k = .set fld v ∧ op.pa = pa ∧
    Memory.wf s = true ∧ recPoisoned s pa = false ∧ ctlField s pa 39 36 ≠ 2 ∧ tmsetOk fld v = true ∧ fld < 4 ∧ u = applyTm t op s ∧
    fld = 2 ∧ ctlField s pa 39 36 = 1 :=
  ⟨9, 2, 0x4000, 0x3FE, (⟨0x4000, 0x8000000, some (0x40000000, 7), 1, .set 2 0x3FE, 0, 0⟩ : TmOp), wRecS 2 1, _, rfl, rfl,
    by decide +kernel, by decide +kernel, by decide +kernel, by decide, by decide, rfl, rfl, by decide +kernel⟩

theorem witness_SpawnYield_1 : ∃ (f : YA) (s : State) (a b : Word), readS f.a s = .ok a ∧ readS f.b s = .ok b ∧ a.toNat % 256 = 0 ∧
    b.toNat % 128 = 0 ∧ s.core.held.length < 128 :=
  ⟨⟨4, 5, 0, 0, 0, 0, 0, 0, 0⟩, reg 4 33024 (reg 5 36992 w1), 33024, 36992, rfl, rfl,
    by refine ⟨?_, ?_, ?_⟩ <;> decide⟩

theorem witness_SpawnYield_2 : ∃ (f : YA) (s : State) (a b : Word), readS f.a s = .ok a ∧ readS f.b s = .ok b ∧ a.toNat % 256 ≠ 0 :=
  ⟨⟨4, 5, 0, 0, 0, 0, 0, 0, 0⟩, reg 4 32769 (reg 5 36992 w1), 32769, 36992, rfl, rfl, by decide⟩

theorem witness_SpawnYield_3 : ∃ (f : YA) (s : State) (a b : Word), readS f.a s = .ok a ∧ readS f.b s = .ok b ∧ a.toNat % 256 = 0 ∧
    b.toNat % 128 ≠ 0 :=
  ⟨⟨4, 5, 0, 0, 0, 0, 0, 0, 0⟩, reg 4 33024 (reg 5 36865 w1), 33024, 36865, rfl, rfl, by decide, by decide⟩

theorem witness_SpawnAppends_1 : ∃ (rcb desc : Word) (k n : Nat) (s : State) (r : Region) (pa : Nat), (∀ e,
    nextSpawn s rcb = some e → e = (rcb, desc, k, n)) ∧
    (s.sched.regions.find? fun x => x.va == rcb.toNat && x.kind == 2 && x.qmode) = some r ∧ rdN s (r.pa + 120) 8 = 0 ∧
    engXlate s .wr desc.toNat = .ok pa ∧ Memory.wf s = true ∧ (pa + 8 ≤ r.pa + 104 ∨ r.pa + 128 ≤ pa) ∧ desc.toNat < 2 ^ 57 ∧
    lineReady s (pa / 64) false none = .ok ∧ lineReady s ((r.pa + 104) / 64) false none = .ok ∧
    lineReady s ((r.pa + 120) / 64) false none = .ok ∧ lineReady s (r.qctr / 64) false none = .ok ∧ addRefused s r.qctr 1 = false ∧
    (r.qctr + 16 ≤ pa ∨ pa + 8 ≤ r.qctr) ∧ (r.qctr + 16 ≤ r.pa + 104 ∨ r.pa + 128 ≤ r.qctr) :=
  ⟨0x8000, 0x9000, 1, 2, { wReg rg wPg with spawnq := [(0x8000, 0x9000, 1, 2)] }, rg, 0x9000,
    (fun e h => Option.some.inj (h.symm.trans (by decide +kernel))), by decide +kernel, by decide +kernel, okIs (by decide +kernel),
    by refine ⟨?_, ?_, ?_, ?_, ?_, ?_, ?_, ?_, ?_, ?_⟩ <;> decide +kernel⟩

theorem witness_SpawnAppends_2 : ∃ (rcb desc : Word) (k n : Nat) (s : State), (∀ e, nextSpawn s rcb = some e → e = (rcb, desc, k, n)) ∧
    (s.sched.regions.find? fun x => x.va == rcb.toNat && x.kind == 2 && x.qmode) = none :=
  ⟨0x8100, 0x9000, 1, 2, { wReg rg wPg with spawnq := [(0x8100, 0x9000, 1, 2)] },
    (fun e h => Option.some.inj (h.symm.trans (by decide +kernel))), by decide +kernel⟩

theorem witness_SpawnAppends_3 : ∃ (rcb desc : Word) (k n : Nat) (s : State) (e : Word × Word × Nat × Nat), nextSpawn s rcb = some e ∧
    e ≠ (rcb, desc, k, n) :=
  ⟨0x8000, 0x9080, 1, 2, { wReg rg wPg with spawnq := [(0x8000, 0x9000, 1, 2), (0x8000, 0x9080, 1, 2)] }, (0x8000, 0x9000, 1, 2),
    by decide +kernel, by decide +kernel⟩

theorem witness_Launches_1 : ∃ (w : Word) (s : State), s.ctl.bringUp = false ∧ (s.host.lstate = 1 ∨ s.host.lstate = 2) :=
  ⟨0x8000, wRoot, rfl, Or.inl rfl⟩

theorem witness_Launches_2 : ∃ (w : Word) (s : State), s.ctl.bringUp = false ∧ s.host.lstate ≠ 1 ∧ s.host.lstate ≠ 2 ∧
    (w.toNat % 256 ≠ 0 ∨ hbmEnd ≤ w.toNat % 2 ^ 57) :=
  ⟨0x8001, wPg, rfl,
    by refine ⟨?_, ?_, ?_⟩ <;> decide +kernel⟩

theorem witness_Launches_3 : ∃ (w : Word) (s : State), s.ctl.bringUp = false ∧ s.host.lstate ≠ 1 ∧ s.host.lstate ≠ 2 ∧
    (w.toNat % 256 ≠ 0 ∨ hbmEnd ≤ w.toNat % 2 ^ 57) :=
  ⟨BitVec.ofNat 64 hbmEnd, wPg, rfl,
    by refine ⟨?_, ?_, ?_⟩ <;> decide +kernel⟩

theorem witness_Launches_4 : ∃ (w : Word) (s : State), s.ctl.bringUp = false ∧ s.host.lstate ≠ 1 ∧ s.host.lstate ≠ 2 ∧
    w.toNat % 256 = 0 ∧ w.toNat % 2 ^ 57 < hbmEnd :=
  ⟨BitVec.ofNat 64 (hbmEnd - 256), wPg, rfl,
    by refine ⟨?_, ?_, ?_, ?_⟩ <;> decide +kernel⟩

theorem witness_Launches_5 : ∃ (s : State), s.host.lstate = 1 ∧ s.sched.regions = [] ∧ (∀ t ∈ s.sched.tasks, t.st ≠ .ending) ∧
    checkTree s.host.root s = .error .bad :=
  ⟨{ wRoot with host := { wRoot.host with root := 0x9000 } }, rfl, rfl, (fun _ h => nomatch h), erIs (by decide +kernel)⟩

theorem witness_Launches_6 : ∃ (s : State), s.host.lstate = 1 ∧ s.sched.regions = [] ∧ (∀ t ∈ s.sched.tasks, t.st ≠ .ending) ∧
    (∃ sc, checkTree s.host.root s = .ok sc ∧ poisoned s (sc.jobctr / 64) = false ∧ ctrValue s sc.jobctr < sc.jobthr ∧
    recordsWait s sc.regions = none ∧ (∀ r ∈ sc.regions, lineReady s (recLine r) true none ≠ .poison) ∧ Memory.wf s = true ∧
    (∀ r ∈ sc.regions, sc.jobctr + 16 ≤ r.pa + 192 ∨ r.pa + 256 ≤ sc.jobctr)) :=
  ⟨{ wRoot with mem := SMap.set 0 wRoot.mem 0x80C5 9 }, rfl, rfl, (fun _ h => nomatch h), _, ok1 (by decide +kernel),
    by refine ⟨?_, ?_, ?_, ?_, ?_, ?_⟩ <;> decide +kernel⟩

theorem witness_Launches_7 : ∃ (s : State), s.host.lstate ≠ 1 ∧ s.host.lstate ≠ 2 :=
  ⟨wPg, by decide, by decide⟩

theorem witness_Launches_8 : ∃ (s : State), s.host.lstate = 2 ∧ s.sched.regions ≠ [] ∧ s.sched.tasks = [] :=
  ⟨wReg rg wPg, rfl, by decide +kernel, rfl⟩

theorem witness_QueuesAndDependencies_1 : ∃ (rnum : Nat) (s : State) (r : Region), regionOf s rnum = some r ∧ r.rnum = rnum ∧
    jobLive s = true ∧ s.sched.jobDone = false ∧ r.kind = 2 ∧ r.withheld = 0 ∧ (∀ w ∈ s.waiters, w.who ≠ .queue rnum) ∧
    poisoned s (r.qctr / 64) = false ∧ ctrsFit s rnum = true ∧ engServes s (r.qctr / 64) = .ok () ∧ ctrValue s r.qctr ≤ r.qidx :=
  ⟨0, wReg { rg with ctrs := 1 } wPg, _, rfl, rfl, rfl, rfl, rfl, rfl, (fun _ h => nomatch h), by decide +kernel, by decide +kernel,
    ok0 (by decide +kernel), by decide +kernel⟩

theorem witness_QueuesAndDependencies_2 : ∃ (rnum : Nat) (s : State) (r : Region) (va : Nat) (rd : Option (Nat × Nat) × Option Nat),
    regionOf s rnum = some r ∧ r.rnum = rnum ∧ jobLive s = true ∧ s.sched.jobDone = false ∧ r.kind = 2 ∧ r.withheld = 0 ∧
    (∀ w ∈ s.waiters, w.who ≠ .queue rnum) ∧ poisoned s (r.qctr / 64) = false ∧ ctrsFit s rnum = true ∧
    engServes s (r.qctr / 64) = .ok () ∧ r.qidx < ctrValue s r.qctr ∧ va ≠ 0 ∧ nextDesc r (nameCtr r.qctr s) = .ok va ∧
    readTask (nameCtr r.qctr s) va = .ok rd ∧ depsWait (nameCtr r.qctr s) rd = none ∧ (∀ y ∈ s.sched.tasks, y.tser < s.sched.nextTser) :=
  ⟨0, wReg { rg with ctrs := 1 } (wMem [(0x8069, 0x90)] |> fun s => { s with mem := s.mem ++ [(0x40000000, 1)] }), _, 0x9000, _, rfl, rfl,
    rfl, rfl, rfl, rfl, (fun _ h => nomatch h), by decide +kernel, by decide +kernel, ok0 (by decide +kernel), by decide +kernel,
    by decide, okIs (by decide +kernel), ok1 (by decide +kernel), by decide +kernel, (fun _ h => nomatch h)⟩

theorem witness_QueuesAndDependencies_3 : ∃ (tser k : Nat) (fl : BitVec 32) (s : State) (x : Task), s.sched.tasks = [x] ∧ x.tser = tser ∧
    x.st = .waiting ∧ k ∈ x.unmet ∧ bits fl.toNat 7 3 = 0 :=
  ⟨0, 0, 1, wDep, _, rfl, rfl, rfl, by decide +kernel, by decide +kernel⟩

theorem witness_QueuesAndDependencies_4 : ∃ (tser k : Nat) (fl : BitVec 32) (s : State) (x : Task), s.sched.tasks = [x] ∧ x.tser = tser ∧
    x.st = .waiting ∧ k ∈ x.unmet ∧ bits fl.toNat 7 3 ≠ 0 :=
  ⟨0, 0, 0x40, wDep, _, rfl, rfl, rfl, by decide +kernel, by decide +kernel⟩

theorem witness_StrandStart_1 : ∃ (t : Task) (gix lin : Nat), gix < 2 ^ 16 ∧ lin < 2 ^ 16 :=
  ⟨{ tk with tser := 3 }, 65535, 65535, by decide, by decide⟩

theorem witness_EvictionBegins_1 : ∃ (tser gix : Nat) (s : State) (x : Task) (g : Gang) (r : Region), taskOf s tser = some x ∧
    gangOf s tser gix = some g ∧ x.tser = tser ∧ g.gix = gix ∧ regionOf s x.rnum = some r ∧ g.st = .running ∧ r.quant ≠ 0 ∧
    g.qstart + 1024 * r.quant ≤ s.now ∧ contended s (epGang s x g) = false :=
  ⟨0, 0, wGang { tk with gangs := [gg] } 1024, _, _, _, rfl, rfl, rfl, rfl, rfl, rfl,
    by refine ⟨?_, ?_, ?_⟩ <;> decide +kernel⟩

theorem witness_EvictionBegins_2 : ∃ (tser gix : Nat) (s : State) (x : Task) (g : Gang) (r : Region), taskOf s tser = some x ∧
    gangOf s tser gix = some g ∧ x.tser = tser ∧ g.gix = gix ∧ regionOf s x.rnum = some r ∧ g.st = .running ∧ r.quant ≠ 0 ∧
    g.qstart + 1024 * r.quant ≤ s.now ∧ contended s (epGang s x g) = true ∧ combFits s x.rnum (combNeed s x g) = true :=
  ⟨0, 0, wCont, _, _, _, rfl, rfl, rfl, rfl, rfl, rfl,
    by refine ⟨?_, ?_, ?_, ?_⟩ <;> decide +kernel⟩

theorem witness_EvictionBegins_3 : ∃ (c : CoreId) (s : State) (x : Task) (g : Gang),
    taskOf s (bits (coreOf s c).st.gangId.toNat 47 16) = some x ∧
    gangOf s (bits (coreOf s c).st.gangId.toNat 47 16) (bits (coreOf s c).st.gangId.toNat 15 0) = some g ∧
    g.gix = bits (coreOf s c).st.gangId.toNat 15 0 ∧ x.tser = bits (coreOf s c).st.gangId.toNat 47 16 ∧ c ∈ g.cores ∧
    (g.st = .running ∨ (g.st = .evicting ∧ g.transit = false)) ∧ (∀ y ∈ x.gangs, y.gix = g.gix → y = g) ∧
    (coreOf s c).st.run = .stopped ∧ bits (coreOf s c).st.trapCause.toNat 7 0 = 0x10 :=
  ⟨0, wMig gg, _, gg, rfl, rfl, by decide +kernel, by decide +kernel, by decide +kernel, Or.inl rfl,
    by refine ⟨?_, ?_, ?_⟩ <;> decide +kernel⟩

theorem witness_EvictionBegins_4 : ∃ (c : CoreId) (s : State) (x : Task) (g : Gang),
    taskOf s (bits (coreOf s c).st.gangId.toNat 47 16) = some x ∧
    gangOf s (bits (coreOf s c).st.gangId.toNat 47 16) (bits (coreOf s c).st.gangId.toNat 15 0) = some g ∧
    g.gix = bits (coreOf s c).st.gangId.toNat 15 0 ∧ x.tser = bits (coreOf s c).st.gangId.toNat 47 16 ∧ c ∈ g.cores ∧
    (g.st = .running ∨ (g.st = .evicting ∧ g.transit = false)) ∧ (∀ y ∈ x.gangs, y.gix = g.gix → y = g) ∧
    (coreOf s c).st.run = .stopped ∧ bits (coreOf s c).st.trapCause.toNat 7 0 = 0x10 :=
  ⟨0, wMig { gg with st := .evicting }, _, { gg with st := .evicting }, rfl, rfl, by decide +kernel, by decide +kernel, by decide +kernel,
    Or.inr ⟨rfl, rfl⟩,
    by refine ⟨?_, ?_, ?_⟩ <;> decide +kernel⟩

theorem witness_ImagesKept_1 : ∃ (i : Image) (k : Core) (n : Nat), n < i.st.spilln ∧ SMap.wf 0 i.st.spill = true ∧ i.st.run = .withheld :=
  ⟨⟨0, { Strand.init with spilln := 2, spill := [(1, 7)], run := .withheld }, [(5, 1)], [(0, true)], 0, 9, [0], [], 2, none, false⟩,
    Core.init 3, 1, by decide, by decide +kernel, rfl⟩

theorem witness_TaskCompletes_1 : ∃ (tser pa : Nat) (s : State) (x : Task), s.sched.tasks = [x] ∧ x.tser = tser ∧ x.done = some pa ∧
    lineReady s (pa / 64) false none = .ok ∧ Memory.wf s = true ∧ s.waiters = [] ∧ s.sched.jobDone = false ∧ x.st = .started ∧
    x.handler = none ∧ (∀ g ∈ x.gangs, g.st = .halted) ∧ addRefused s pa (x.d 978 960) = false :=
  ⟨0, 0x40000000, wGang { tkDone .started with gangs := [{ gg with st := .halted }], desc := 2 ^ 961 } 5, _, rfl, rfl, rfl,
    by decide +kernel, by decide +kernel, rfl, rfl, rfl, rfl, by decide +kernel, by decide +kernel⟩

theorem witness_TaskCompletes_2 : ∃ (tser pa : Nat) (s : State) (x : Task), s.sched.tasks = [x] ∧ x.tser = tser ∧ x.done = some pa ∧
    lineReady s (pa / 64) false none = .ok ∧ Memory.wf s = true ∧ s.waiters = [] ∧ s.sched.jobDone = false ∧ x.st = .ending :=
  ⟨0, 0x40000000, wGang (tkDone .ending) 5, _, rfl, rfl, rfl, by decide +kernel, by decide +kernel, rfl, rfl, rfl⟩

theorem witness_TaskCompletes_3 : ∃ (tser pa : Nat) (s : State) (x : Task), s.sched.tasks = [x] ∧ x.tser = tser ∧ x.done = some pa ∧
    lineReady s (pa / 64) false none = .ok ∧ Memory.wf s = true ∧ s.waiters = [] ∧ s.sched.jobDone = false ∧ x.st = .ending :=
  ⟨0, 0x40000000, wGang { tkDone .ending with handler := some (0, 1) } 5, _, rfl, rfl, rfl, by decide +kernel, by decide +kernel, rfl,
    rfl, rfl⟩

theorem witness_TaskCompletes_4 : ∃ (tser pa : Nat) (s : State) (x : Task) (rn l : Nat) (q : Region), s.sched.tasks = [x] ∧
    x.tser = tser ∧ x.done = some pa ∧ lineReady s (pa / 64) false none = .ok ∧ Memory.wf s = true ∧ s.waiters = [] ∧
    s.sched.jobDone = false ∧ x.st = .started ∧ x.handler = some (rn, l) ∧ (∀ g ∈ x.gangs, g.st = .halted) ∧
    addRefused s pa (x.d 978 960) = false ∧ regionOf s rn = some q ∧ q.rnum = rn ∧ lineReady s ((q.pa + 192) / 64) true none = .ok ∧
    q.pa % 256 = 0 ∧ (pa + 16 ≤ q.pa + 192 ∨ q.pa + 256 ≤ pa) ∧ (s.sched.regions.map (·.rnum)).Nodup ∧ l = 2 ∧ x.classE = true ∧
    jobLive s = true :=
  ⟨0, 0x40000000,
    { wGang { tkDone .started with handler := some (0, 2), classE := true, desc := 2 ^ 961 } 5 with mem := (0x80C1, 0x10) :: pages }, _,
    0, 2, rg, rfl, rfl, rfl, by decide +kernel, by decide +kernel, rfl, rfl, rfl, rfl, (fun _ h => nomatch h), by decide +kernel,
    by decide +kernel, rfl, by decide +kernel, by decide, by decide, by decide +kernel, rfl, rfl, rfl⟩

theorem witness_FaultScopes_1 : ∃ (s : State) (root : Region), rootRegion s = some root :=
  ⟨wScopes, _, some1 (by decide +kernel)⟩

theorem witness_FaultScopes_2 : ∃ (s : State) (leaf p : Region) (rs : List Region), rs.length < 16 ∧
    (∀ i < rs.length, ((leaf :: rs)[i]?.bind (·.parent)).bind (regionOf s) = rs[i]?) ∧ (∀ q ∈ rs, q.kind ≠ 0 ∧ q.fdom = 1) ∧
    ((rs.getLastD leaf).parent.bind (regionOf s) = some p) ∧ (p.kind = 0 ∨ p.fdom ≠ 1) :=
  ⟨wScopes, { rg with fdom := 0, parent := some 2 },
    { rg with kind := 0, rnum := 1, pa := 0x4000, va := 0x4000 },
    [{ rg with kind := 1, rnum := 2, pa := 0x5000, va := 0x5000, fdom := 1, handler := 0xA000, parent := some 1 }], by decide,
    by decide +kernel, by decide +kernel, by decide +kernel, Or.inl rfl⟩

theorem witness_FaultScopes_3 : ∃ (s : State) (leaf : Region) (f l : Nat), f ≤ l ∧ l ≤ 3 ∧
    (∀ k, f ≤ k → k < l → (scopeOf s leaf k).handler = 0) ∧ (l < 3 → (scopeOf s leaf l).handler ≠ 0) :=
  ⟨wScopes, { rg with fdom := 0, parent := some 2 }, 0, 1, by decide, by decide, (fun k _ hk => (by decide : ∀ k < 1,
    (scopeOf wScopes { rg with fdom := 0, parent := some 2 } k).handler = 0) k hk), by decide +kernel⟩

theorem witness_FaultSpawns_1 : ∃ (r : FaultReport) (s : State) (x : Task) (leaf scope : Region) (l n pa hd : Nat),
    taskOf s r.tser = some x ∧ regionOf s x.rnum = some leaf ∧ jobLive s = true ∧
    landLevel s leaf 3 (match x.handler with | none => leaf.fdom | some h => h.2 + 1) = l ∧ l < 3 ∧ scope = scopeOf s leaf l ∧
    readTask s scope.handler = .ok (some (n, pa), some hd) ∧
    lineReady (engTake (taskParts scope.handler (some (n, pa), some hd)) 0 s).2 ((scope.pa + 192) / 64) true none = .ok ∧
    Memory.wf s = true ∧ scope.pa % 256 = 0 ∧ scope.va + 192 < 2 ^ 57 ∧ r.code < 256 ∧ leaf.rnum < 2 ^ 16 ∧ s.tables = [] ∧
    (∀ y ∈ s.sched.tasks, y.gangs = [] ∧ y.tser < s.sched.nextTser) ∧ (s.sched.tasks.map (·.tser)).Nodup ∧
    (s.sched.regions.map (·.rnum)).Nodup ∧ bit (rdN s (scope.pa + 192) 64) 12 = false ∧ descForm n scope.nseg = true ∧
    (descCtrs s n).isSome = true ∧ codeOk hd (bits n 135 128) (bits n 143 136) (bits n 123 121) = true ∧ r.async = true :=
  ⟨⟨true, 0x22, 0x4000, 0, 0, 0, 0, 0, 0, 0, 5⟩, wHandler 0 false, _, _, _, 0, _, _, _, rfl, rfl, rfl, by decide +kernel, by decide, rfl,
    okSomes (by decide +kernel), by decide +kernel, by decide +kernel, by decide, by decide, by decide, by decide, rfl,
    by refine ⟨?_, ?_, ?_, ?_, ?_, ?_, ?_, ?_⟩ <;> decide +kernel⟩

theorem witness_FaultSpawns_2 : ∃ (r : FaultReport) (s : State) (x : Task) (leaf scope : Region) (l n pa hd : Nat),
    taskOf s r.tser = some x ∧ regionOf s x.rnum = some leaf ∧ jobLive s = true ∧
    landLevel s leaf 3 (match x.handler with | none => leaf.fdom | some h => h.2 + 1) = l ∧ l < 3 ∧ scope = scopeOf s leaf l ∧
    readTask s scope.handler = .ok (some (n, pa), some hd) ∧
    lineReady (engTake (taskParts scope.handler (some (n, pa), some hd)) 0 s).2 ((scope.pa + 192) / 64) true none = .ok ∧
    Memory.wf s = true ∧ scope.pa % 256 = 0 ∧ scope.va + 192 < 2 ^ 57 ∧ r.code < 256 ∧ leaf.rnum < 2 ^ 16 ∧ s.tables = [] ∧
    (∀ y ∈ s.sched.tasks, y.gangs = [] ∧ y.tser < s.sched.nextTser) ∧ (s.sched.tasks.map (·.tser)).Nodup ∧
    (s.sched.regions.map (·.rnum)).Nodup ∧ bit (rdN s (scope.pa + 192) 64) 12 = false ∧ descForm n scope.nseg = true ∧
    (descCtrs s n).isSome = true ∧ codeOk hd (bits n 135 128) (bits n 143 136) (bits n 123 121) = true ∧ r.async = false ∧ r.code ≠ 0x41 :=
  ⟨⟨false, 0x21, 0x4000, 0, 0, 0, 0, 0, 0, 0, 5⟩, wHandler 0 false, _, _, _, 0, _, _, _, rfl, rfl, rfl, by decide +kernel, by decide, rfl,
    okSomes (by decide +kernel), by decide +kernel, by decide +kernel, by decide, by decide, by decide, by decide, rfl,
    by refine ⟨?_, ?_, ?_, ?_, ?_, ?_, ?_, ?_, ?_⟩ <;> decide +kernel⟩

theorem witness_FaultSpawns_3 : ∃ (r : FaultReport) (s : State) (x : Task) (leaf scope : Region) (l n pa hd : Nat),
    taskOf s r.tser = some x ∧ regionOf s x.rnum = some leaf ∧ jobLive s = true ∧
    landLevel s leaf 3 (match x.handler with | none => leaf.fdom | some h => h.2 + 1) = l ∧ l < 3 ∧ scope = scopeOf s leaf l ∧
    readTask s scope.handler = .ok (some (n, pa), some hd) ∧
    lineReady (engTake (taskParts scope.handler (some (n, pa), some hd)) 0 s).2 ((scope.pa + 192) / 64) true none = .ok ∧
    Memory.wf s = true ∧ scope.pa % 256 = 0 ∧ scope.va + 192 < 2 ^ 57 ∧ r.code < 256 ∧ leaf.rnum < 2 ^ 16 ∧ s.tables = [] ∧
    (∀ y ∈ s.sched.tasks, y.gangs = [] ∧ y.tser < s.sched.nextTser) ∧ (s.sched.tasks.map (·.tser)).Nodup ∧
    (s.sched.regions.map (·.rnum)).Nodup ∧ bit (rdN s (scope.pa + 192) 64) 12 = false ∧ descForm n scope.nseg = true ∧
    (descCtrs s n).isSome = true ∧ codeOk hd (bits n 135 128) (bits n 143 136) (bits n 123 121) = true ∧ r.async = false ∧ r.code ≠ 0x41 :=
  ⟨⟨false, 0x21, 0x4000, 0, 0, 0, 0, 0, 0, 0, 5⟩, wScopes, _, _, _, 1, _, _, _, rfl, rfl, rfl, by decide +kernel, by decide, rfl,
    okSomes (by decide +kernel), by decide +kernel, by decide +kernel, by decide, by decide, by decide, by decide, rfl,
    by refine ⟨?_, ?_, ?_, ?_, ?_, ?_, ?_, ?_, ?_⟩ <;> decide +kernel⟩

theorem witness_FaultSpawns_4 : ∃ (r : FaultReport) (s : State) (x : Task) (leaf scope : Region) (l n pa hd : Nat),
    taskOf s r.tser = some x ∧ regionOf s x.rnum = some leaf ∧ jobLive s = true ∧
    landLevel s leaf 3 (match x.handler with | none => leaf.fdom | some h => h.2 + 1) = l ∧ l < 3 ∧ scope = scopeOf s leaf l ∧
    readTask s scope.handler = .ok (some (n, pa), some hd) ∧
    lineReady (engTake (taskParts scope.handler (some (n, pa), some hd)) 0 s).2 ((scope.pa + 192) / 64) true none = .ok ∧
    Memory.wf s = true ∧ scope.pa % 256 = 0 ∧ scope.va + 192 < 2 ^ 57 ∧ r.code < 256 ∧ leaf.rnum < 2 ^ 16 ∧ s.tables = [] ∧
    (∀ y ∈ s.sched.tasks, y.gangs = [] ∧ y.tser < s.sched.nextTser) ∧ (s.sched.tasks.map (·.tser)).Nodup ∧
    (s.sched.regions.map (·.rnum)).Nodup ∧ bit (rdN s (scope.pa + 192) 64) 12 = true :=
  ⟨⟨false, 0x21, 0x4000, 0, 0, 0, 0, 0, 0, 0, 5⟩, wHandler 0 true, _, _, _, 0, _, _, _, rfl, rfl, rfl, by decide +kernel, by decide, rfl,
    okSomes (by decide +kernel), by decide +kernel, by decide +kernel, by decide, by decide, by decide, by decide, rfl,
    by refine ⟨?_, ?_, ?_, ?_⟩ <;> decide +kernel⟩

theorem witness_FaultLands_1 : ∃ (r : FaultReport) (s : State) (x : Task) (leaf root : Region), taskOf s r.tser = some x ∧
    x.handler = none ∧ regionOf s x.rnum = some leaf ∧ rootRegion s = some root ∧ landLevel s leaf 3 leaf.fdom = 3 ∧ jobLive s = true ∧
    s.sched.tasks = [x] ∧ x.st ≠ .ending ∧ x.st ≠ .done ∧ x.st ≠ .killed ∧ x.gangs = [] ∧ s.tables = [] ∧
    lineReady s ((root.pa + 192) / 64) true none = .ok ∧ Memory.wf s = true ∧ bit (rdN s (root.pa + 192) 64) 12 = false ∧
    root.pa % 256 = 0 ∧ r.code < 256 ∧ leaf.rnum < 2 ^ 16 :=
  ⟨⟨true, 0x22, 0x4000, 0, 0, 0, 0, 0, 0, 0, 5⟩, wLand, _, _, _, rfl, rfl, rfl, rfl, by decide +kernel, rfl, rfl, by decide, by decide,
    by decide, rfl, rfl,
    by refine ⟨?_, ?_, ?_, ?_, ?_, ?_⟩ <;> decide +kernel⟩

theorem witness_Withdrawals_1 : ∃ (die : Nat) (s : State), die < 128 ∧ die ∉ s.ctl.deadDies :=
  ⟨127, wPg, by decide, by decide⟩

theorem witness_Withdrawals_2 : ∃ (die : Nat) (s : State), die < 128 ∧ die ∉ s.ctl.deadDies :=
  ⟨0, wMig gg, by decide, by decide⟩

theorem witness_Withdrawals_3 : ∃ (c : CoreId) (s : State), isCore c = true ∧ (coreOf s c).dead = false ∧ 1250 < goodCores s (dieOf c) :=
  ⟨0, wMig gg,
    by refine ⟨?_, ?_, ?_⟩ <;> decide +kernel⟩

theorem witness_Withdrawals_4 : ∃ (s : State), s.schedAt ≠ 2 :=
  ⟨wPg, by decide⟩

theorem witness_SwarmInstructions_1 : ∃ (f : YA) (s : State) (a b c d : Word), readS f.a s = .ok a ∧ readS f.b s = .ok b ∧
    readS f.c s = .ok c ∧ readS f.d s = .ok d ∧ c.extractLsb' 16 16 = (0 : BitVec 16) ∧ a.toNat % 1024 = 0 ∧ b.toNat % 256 = 0 ∧
    s.core.held.length < 128 :=
  ⟨⟨4, 5, 2, 0, 0, 0, 0, 0, 1⟩, reg 4 0x10000 (reg 5 0x9000 w1), 0x10000, 0x9000, 5, 0, rfl, rfl, rfl, rfl,
    by refine ⟨?_, ?_, ?_, ?_⟩ <;> decide⟩

theorem witness_SwarmInstructions_2 : ∃ (f : YA) (s : State) (a b c d : Word), readS f.a s = .ok a ∧ readS f.b s = .ok b ∧
    readS f.c s = .ok c ∧ readS f.d s = .ok d ∧ c.extractLsb' 16 16 ≠ (0 : BitVec 16) :=
  ⟨⟨4, 5, 2, 0, 0, 0, 0, 0, 1⟩, reg 2 0x10000 w1, 0, 0, 0x10000, 0, rfl, rfl, rfl, rfl, by decide⟩

theorem witness_SwarmInstructions_3 : ∃ (f : YA) (s : State) (a b c d : Word), readS f.a s = .ok a ∧ readS f.b s = .ok b ∧
    readS f.c s = .ok c ∧ readS f.d s = .ok d ∧ c.extractLsb' 16 16 = (0 : BitVec 16) ∧ a.toNat % 1024 ≠ 0 :=
  ⟨⟨4, 5, 2, 0, 0, 0, 0, 0, 1⟩, reg 4 0x10200 (reg 5 0x9000 w1), 0x10200, 0x9000, 5, 0, rfl, rfl, rfl, rfl, by decide, by decide⟩

theorem witness_SwarmInstructions_4 : ∃ (f : YA) (s : State) (a b c d : Word), readS f.a s = .ok a ∧ readS f.b s = .ok b ∧
    readS f.c s = .ok c ∧ readS f.d s = .ok d ∧ c.extractLsb' 16 16 = (0 : BitVec 16) ∧ a.toNat % 1024 = 0 ∧ b.toNat % 256 ≠ 0 :=
  ⟨⟨4, 5, 2, 0, 0, 0, 0, 0, 1⟩, reg 4 0x10000 (reg 5 0x9080 w1), 0x10000, 0x9080, 5, 0, rfl, rfl, rfl, rfl,
    by refine ⟨?_, ?_, ?_⟩ <;> decide⟩

theorem witness_SwarmInstructions_5 : ∃ (f : YA) (s s1 s2 s3 : State) (a e : Word) (h n : Nat) (x : Table), readS f.a s = .ok a ∧
    readS f.b s = .ok e ∧ (a + f.imm.signExtend 64).toNat % 1024 = 0 ∧ globalRead1 (a + f.imm.signExtend 64).toNat 4 s = .ok (h, s1) ∧
    registerTable (a + f.imm.signExtend 64).toNat s1 = .ok s2 ∧ findTable s2 (a + f.imm.signExtend 64).toNat = some x ∧ x.ok = true ∧
    e.toNat < hdrNexp h ∧ globalRead1 (entVa (a + f.imm.signExtend 64).toNat e.toNat) 4 s2 = .ok (n, s3) :=
  ⟨⟨4, 0, 6, 0, 0, 0, 0, 0, 0⟩, reg 4 0x10000 (wTab tb), _, _, _, 0x10000, 0, _, _, _, rfl, rfl, by decide +kernel,
    ok2 (by decide +kernel), ok1 (by decide +kernel), some1 (by decide +kernel), by decide +kernel, by decide +kernel,
    ok2 (by decide +kernel)⟩

theorem witness_ReplicaChoice_1 : ∃ (a key : Nat), 0 < a ∧ a < 256 :=
  ⟨0x91, 5, by decide, by decide⟩

theorem witness_RouteSteps_1 : ∃ (k : Nat) (s : State) (o : RouteOp) (x : Table) (h n : Nat), s.routes = [o] ∧ o.id = k ∧
    o.st = .choice ∧ o.doneVa = 0 ∧ findTable s o.tab = some x ∧ x.ok = true ∧ tabHdr s o.tab = .ok h ∧ o.e < hdrNexp h ∧
    tabEnt s o.tab o.e = .ok n ∧ o.e ∉ x.abandoned ∧ bits n 7 0 ≠ 0 :=
  ⟨1, wRo .choice 0, _, tb, tH, tE, rfl, rfl, rfl, rfl, by decide +kernel, rfl, okIs (by decide +kernel), by decide +kernel,
    okIs (by decide +kernel), by decide +kernel, by decide +kernel⟩

theorem witness_RouteSteps_2 : ∃ (k : Nat) (s : State) (o : RouteOp) (h w c pa : Nat), s.routes = [o] ∧ o.id = k ∧ o.st = .room ∧
    tabHdr s o.tab = .ok h ∧ tabSlot s o.tab o.e o.r = .ok w ∧ ctrNow s (slotCctr w) = .ok c ∧
    engXlate s .ctrWr (hdrLoad h o.e) = .ok pa ∧ o.j - c < hdrSlots h ∧
    lineReady (engTake [(slotCctr w, 8)] o.t s).2 (pa / 64) false none = .ok ∧ addRefused s pa 1 = false ∧ Memory.wf s = true :=
  ⟨1, wRo .room 15, _, tH, tS0, _, _, rfl, rfl, rfl, okIs (by decide +kernel), okIs (by decide +kernel), ok1 (by decide +kernel),
    ok1 (by decide +kernel),
    by refine ⟨?_, ?_, ?_, ?_⟩ <;> decide +kernel⟩

theorem witness_RouteSteps_3 : ∃ (k : Nat) (s : State) (o : RouteOp) (h w c pa : Nat), s.routes = [o] ∧ o.id = k ∧ o.st = .room ∧
    tabHdr s o.tab = .ok h ∧ tabSlot s o.tab o.e o.r = .ok w ∧ ctrNow s (slotCctr w) = .ok c ∧
    engXlate s .ctrWr (hdrLoad h o.e) = .ok pa ∧ hdrSlots h ≤ o.j - c :=
  ⟨1, wRo .room 16, _, tH, tS0, _, _, rfl, rfl, rfl, okIs (by decide +kernel), okIs (by decide +kernel), ok1 (by decide +kernel),
    ok1 (by decide +kernel), by decide +kernel⟩

theorem witness_RouteSteps_4 : ∃ (k : Nat) (s : State) (o : RouteOp) (h w pa : Nat), s.routes = [o] ∧ o.id = k ∧ o.st = .deliver ∧
    tabHdr s o.tab = .ok h ∧ tabSlot s o.tab o.e o.r = .ok w ∧ o.left = [] ∧ Memory.wf s = true ∧
    (slotInbox w + o.j % hdrSlots h * hdrSlotBytes h) % 64 = 0 ∧
    engXlate s .wr (slotInbox w + o.j % hdrSlots h * hdrSlotBytes h) = .ok pa ∧ pa % 64 = 0 ∧ lineReady s (pa / 64) true none = .ok :=
  ⟨1, wRo .deliver 3, _, tH, tS0, _, rfl, rfl, rfl, okIs (by decide +kernel), okIs (by decide +kernel), rfl, by decide +kernel,
    by decide +kernel, ok1 (by decide +kernel), by decide +kernel, by decide +kernel⟩

theorem witness_RouteSteps_5 : ∃ (k : Nat) (s : State) (o : RouteOp) (w pa : Nat), s.routes = [o] ∧ o.id = k ∧ o.st = .routed ∧
    o.donePa = none ∧ o.stopped = none ∧ o.redir = none ∧ tabSlot s o.tab o.e o.r = .ok w ∧ engXlate s .ctrWr (slotRctr w) = .ok pa ∧
    poisoned s (pa / 64) = false ∧ ctrValue s pa < o.j :=
  ⟨1, wRo .routed 1, _, tS0, _, rfl, rfl, rfl, rfl, rfl, rfl, okIs (by decide +kernel), ok1 (by decide +kernel), by decide +kernel,
    by decide +kernel⟩

theorem witness_RouteSteps_6 : ∃ (k : Nat) (s : State) (o : RouteOp) (w pa : Nat), s.routes = [o] ∧ o.id = k ∧ o.st = .routed ∧
    o.donePa = none ∧ o.stopped = none ∧ o.redir = none ∧ tabSlot s o.tab o.e o.r = .ok w ∧ engXlate s .ctrWr (slotRctr w) = .ok pa ∧
    poisoned s (pa / 64) = false ∧ o.j ≤ ctrValue s pa ∧ lineReady s (pa / 64) false none = .ok ∧ addRefused s pa 1 = false ∧
    Memory.wf s = true ∧ s.waiters = [] :=
  ⟨1, wRo .routed 0, _, tS0, _, rfl, rfl, rfl, rfl, rfl, rfl, okIs (by decide +kernel), ok1 (by decide +kernel), by decide +kernel,
    by decide +kernel, by decide +kernel, by decide +kernel, by decide +kernel, rfl⟩

theorem witness_SwarmSamples_1 : ∃ (tab : Nat) (s : State) (x : Table) (h : Nat), s.tables = [x] ∧ x.va = tab ∧ x.ok = true ∧
    x.next ≤ s.now ∧ jobLive s = true ∧ tabHdr s tab = .ok h ∧ bits h 47 40 ≠ 0 ∧ tableWaits s tab h = none ∧
    (x.merging = none → statWaits s tab h = none) ∧ x.merging = none :=
  ⟨0x10000, wTab tb, _, tH, rfl, rfl, rfl, by decide +kernel, by decide +kernel, okIs (by decide +kernel),
    by refine ⟨?_, ?_, ?_, ?_⟩ <;> decide +kernel⟩

theorem witness_SwarmSamples_2 : ∃ (tab : Nat) (s : State) (x : Table) (h : Nat), s.tables = [x] ∧ x.va = tab ∧ x.ok = true ∧
    x.next ≤ s.now ∧ jobLive s = true ∧ tabHdr s tab = .ok h ∧ bits h 47 40 ≠ 0 ∧ tableWaits s tab h = none ∧
    (x.merging = none → statWaits s tab h = none) ∧ x.merging ≠ none :=
  ⟨0x10000, wTab tbM, _, tH, rfl, rfl, rfl, by decide +kernel, by decide +kernel, okIs (by decide +kernel),
    by refine ⟨?_, ?_, ?_, ?_⟩ <;> decide +kernel⟩

theorem witness_SwarmSamples_3 : ∃ (tab : Nat) (s : State) (x : Table) (h : Nat) (line : Nat → Nat → Nat) (n v : Nat → Nat) (w : Nat → Nat
    → Nat) (e c k r : Nat) (f : Option Nat), s.tables = [x] ∧ x.va = tab ∧ x.ok = true ∧ x.next ≤ s.now ∧ jobLive s = true ∧
    tabHdr s tab = .ok h ∧ bits h 47 40 ≠ 0 ∧ tableWaits s tab h = none ∧ statWaits s tab h = none ∧ x.merging = none ∧ s.switches = [] ∧
    Memory.wf s = true ∧ (∀ e < hdrNexp h, tabEnt s tab e = .ok (n e) ∧ ctrNow s (hdrLoad h e) = .ok (v e) ∧ bits (n e) 127 64 ≤ v e ∧
    engXlate s .rd (entVa tab e) = .ok (64 * line e 0) ∧ lineReady s (line e 0) false none = .ok) ∧
    (∀ e < hdrNexp h, ∀ r < hdrMaxr h + 1, tabSlot s tab e r = .ok (w e r) ∧
    engXlate s .rd (slotVa tab e r) = .ok (64 * line e (r + 1)) ∧ lineReady s (line e (r + 1)) false none = .ok) ∧
    (∀ e < hdrNexp h, ∀ k < hdrMaxr h + 2, ∀ e1 < hdrNexp h, ∀ k1 < hdrMaxr h + 2, line e k = line e1 k1 → e = e1 ∧ k = k1) ∧
    e < hdrNexp h ∧ k = popcount (bits (n e) 7 0) 8 ∧ f = (List.range (hdrMaxr h + 1)).find? (fun r => r != 0 && bits (w e r) 2 0 == 0) ∧
    ¬ Claims.cold h n v e ∧ c = 0 ∧ e < 4 ∧ e ∉ x.abandoned ∧ Claims.hot h n v e ∧ k ≤ hdrMaxr h ∧ bits (n e) 31 16 ≤ 1 ∧ f = some r :=
  ⟨0x10000, wHot, _, tH, tLine, fun _ => 1, fun _ => 5, fun _ r => if r = 0 then tS0 else tS1 - 2, 0, 0, _, 1, _, rfl, rfl, rfl,
    by decide +kernel, by decide +kernel, okIs (by decide +kernel), by decide +kernel, by decide +kernel, by decide +kernel, rfl, rfl,
    by decide +kernel, all1 (by decide +kernel) ⟨okIs (by decide +kernel), okIs (by decide +kernel), by decide +kernel,
    okIs (by decide +kernel), by decide +kernel⟩, all1 (by decide +kernel) (all2 (by decide +kernel) ⟨okIs (by decide +kernel),
    okIs (by decide +kernel), by decide +kernel⟩ ⟨okIs (by decide +kernel), okIs (by decide +kernel), by decide +kernel⟩),
    tLine_inj (by decide +kernel), by decide +kernel, rfl, rfl, by unfold Claims.cold Claims.sampled; decide +kernel, rfl, by decide,
    by decide +kernel, by unfold Claims.hot Claims.sampled; decide +kernel,
    by refine ⟨?_, ?_, ?_⟩ <;> decide +kernel⟩

theorem witness_SwarmSamples_4 : ∃ (tab : Nat) (s : State) (x : Table) (h : Nat) (line : Nat → Nat → Nat) (n v : Nat → Nat) (w : Nat → Nat
    → Nat) (e c k : Nat) (f : Option Nat), s.tables = [x] ∧ x.va = tab ∧ x.ok = true ∧ x.next ≤ s.now ∧ jobLive s = true ∧
    tabHdr s tab = .ok h ∧ bits h 47 40 ≠ 0 ∧ tableWaits s tab h = none ∧ statWaits s tab h = none ∧ x.merging = none ∧ s.switches = [] ∧
    Memory.wf s = true ∧ (∀ e < hdrNexp h, tabEnt s tab e = .ok (n e) ∧ ctrNow s (hdrLoad h e) = .ok (v e) ∧ bits (n e) 127 64 ≤ v e ∧
    engXlate s .rd (entVa tab e) = .ok (64 * line e 0) ∧ lineReady s (line e 0) false none = .ok) ∧
    (∀ e < hdrNexp h, ∀ r < hdrMaxr h + 1, tabSlot s tab e r = .ok (w e r) ∧
    engXlate s .rd (slotVa tab e r) = .ok (64 * line e (r + 1)) ∧ lineReady s (line e (r + 1)) false none = .ok) ∧
    (∀ e < hdrNexp h, ∀ k < hdrMaxr h + 2, ∀ e1 < hdrNexp h, ∀ k1 < hdrMaxr h + 2, line e k = line e1 k1 → e = e1 ∧ k = k1) ∧
    e < hdrNexp h ∧ k = popcount (bits (n e) 7 0) 8 ∧ f = (List.range (hdrMaxr h + 1)).find? (fun r => r != 0 && bits (w e r) 2 0 == 0) ∧
    Claims.cold h n v e ∧ c = min (bits (n e) 35 32 + 1) 15 ∧ (¬ Claims.hot h n v e ∨ hdrMaxr h < k ∨ 1 < bits (n e) 31 16 ∨ f = none) ∧
    bits h 67 64 ≤ c ∧ 1 < k :=
  ⟨0x10000, wCold 0x11, _, tH + 16 * 2 ^ 56, tLine, fun _ => tE, fun _ => 0, fun _ r => if r = 0 then tS0 else tS1, 0, _, _, _, rfl, rfl,
    rfl, by decide +kernel, by decide +kernel, okIs (by decide +kernel), by decide +kernel, by decide +kernel, by decide +kernel, rfl,
    rfl, by decide +kernel, all1 (by decide +kernel) ⟨okIs (by decide +kernel), okIs (by decide +kernel), by decide +kernel,
    okIs (by decide +kernel), by decide +kernel⟩, all1 (by decide +kernel) (all2 (by decide +kernel) ⟨okIs (by decide +kernel),
    okIs (by decide +kernel), by decide +kernel⟩ ⟨okIs (by decide +kernel), okIs (by decide +kernel), by decide +kernel⟩),
    tLine_inj (by decide +kernel), by decide +kernel, rfl, rfl, by unfold Claims.cold Claims.sampled; decide +kernel, rfl,
    Or.inr (Or.inl (by decide +kernel)), by decide +kernel, by decide +kernel⟩

theorem witness_SwarmSamples_5 : ∃ (tab : Nat) (s : State) (x : Table) (h : Nat) (line : Nat → Nat → Nat) (n v : Nat → Nat) (w : Nat → Nat
    → Nat) (e c k : Nat) (f : Option Nat), s.tables = [x] ∧ x.va = tab ∧ x.ok = true ∧ x.next ≤ s.now ∧ jobLive s = true ∧
    tabHdr s tab = .ok h ∧ bits h 47 40 ≠ 0 ∧ tableWaits s tab h = none ∧ statWaits s tab h = none ∧ x.merging = none ∧ s.switches = [] ∧
    Memory.wf s = true ∧ (∀ e < hdrNexp h, tabEnt s tab e = .ok (n e) ∧ ctrNow s (hdrLoad h e) = .ok (v e) ∧ bits (n e) 127 64 ≤ v e ∧
    engXlate s .rd (entVa tab e) = .ok (64 * line e 0) ∧ lineReady s (line e 0) false none = .ok) ∧
    (∀ e < hdrNexp h, ∀ r < hdrMaxr h + 1, tabSlot s tab e r = .ok (w e r) ∧
    engXlate s .rd (slotVa tab e r) = .ok (64 * line e (r + 1)) ∧ lineReady s (line e (r + 1)) false none = .ok) ∧
    (∀ e < hdrNexp h, ∀ k < hdrMaxr h + 2, ∀ e1 < hdrNexp h, ∀ k1 < hdrMaxr h + 2, line e k = line e1 k1 → e = e1 ∧ k = k1) ∧
    e < hdrNexp h ∧ k = popcount (bits (n e) 7 0) 8 ∧ f = (List.range (hdrMaxr h + 1)).find? (fun r => r != 0 && bits (w e r) 2 0 == 0) ∧
    Claims.cold h n v e ∧ c = min (bits (n e) 35 32 + 1) 15 ∧ (¬ Claims.hot h n v e ∨ hdrMaxr h < k ∨ 1 < bits (n e) 31 16 ∨ f = none) ∧
    (c < bits h 67 64 ∨ k ≤ 1) :=
  ⟨0x10000, wCold 0x12, _, tH + 16 * 2 ^ 56 + 2 ^ 64, tLine, fun _ => tE, fun _ => 0, fun _ r => if r = 0 then tS0 else tS1, 0, _, _, _,
    rfl, rfl, rfl, by decide +kernel, by decide +kernel, okIs (by decide +kernel), by decide +kernel, by decide +kernel,
    by decide +kernel, rfl, rfl, by decide +kernel, all1 (by decide +kernel) ⟨okIs (by decide +kernel), okIs (by decide +kernel),
    by decide +kernel, okIs (by decide +kernel), by decide +kernel⟩,
    all1 (by decide +kernel) (all2 (by decide +kernel) ⟨okIs (by decide +kernel), okIs (by decide +kernel),
    by decide +kernel⟩ ⟨okIs (by decide +kernel), okIs (by decide +kernel), by decide +kernel⟩), tLine_inj (by decide +kernel),
    by decide +kernel, rfl, rfl, by unfold Claims.cold Claims.sampled; decide +kernel, rfl, Or.inr (Or.inl (by decide +kernel)),
    by decide +kernel⟩

theorem witness_Switches_1 : ∃ (k : Nat) (s : State) (w : Switch) (h n v : Nat), s.switches = [w] ∧ w.id = k ∧ w.k = .replicate ∧
    w.step = 0 ∧ tabHdr s w.tab = .ok h ∧ tabSlot s w.tab w.e w.r = .ok n ∧ ctrNow s (slotRctr n) = .ok v ∧
    (findTable s w.tab).isSome = true ∧ (∀ x, findTable s w.tab = some x → SMap.wf 0 x.res = true) :=
  ⟨1, wSw .replicate 0, _, tH, tS1, _, rfl, rfl, rfl, rfl, okIs (by decide +kernel), okIs (by decide +kernel), ok1 (by decide +kernel),
    by decide +kernel, (fun x h => by cases h; rfl)⟩

theorem witness_Switches_2 : ∃ (k : Nat) (s : State) (w : Switch) (h n m pe ps : Nat), s.switches = [w] ∧ w.id = k ∧ w.k = .replicate ∧
    w.step = 0 ∧ tabHdr s w.tab = .ok h ∧ tabEnt s w.tab w.e = .ok n ∧ tabSlot s w.tab w.e w.r = .ok m ∧ w.tab % 1024 = 0 ∧
    engXlate s .rd (entVa w.tab w.e) = .ok pe ∧ engXlate s .rd (slotVa w.tab w.e w.r) = .ok ps ∧ pe % 64 = 0 ∧ ps % 64 = 0 ∧ pe ≠ ps ∧
    lineReady s (pe / 64) true none = .ok ∧ lineReady s (ps / 64) true none = .ok ∧ Memory.wf s = true :=
  ⟨1, wSw .replicate 0, _, tH, tE, tS1, _, _, rfl, rfl, rfl, rfl, okIs (by decide +kernel), okIs (by decide +kernel),
    okIs (by decide +kernel), by decide +kernel, ok1 (by decide +kernel), ok1 (by decide +kernel),
    by refine ⟨?_, ?_, ?_, ?_, ?_, ?_⟩ <;> decide +kernel⟩

theorem witness_Switches_3 : ∃ (tab e r : Nat) (s : State) (x : Table), findTable s tab = some x ∧ x.ok = true ∧ e ∉ x.abandoned ∧
    x.merging = none ∧ r ≠ 0 :=
  ⟨0x10000, 0, 1, wTab tb, _, rfl, rfl, by decide +kernel, rfl, by decide⟩

theorem witness_Switches_4 : ∃ (tab e r : Nat) (s : State) (x : Table), findTable s tab = some x ∧ x.ok = true ∧ e ∉ x.abandoned ∧
    x.merging ≠ none ∧ r ≠ 0 :=
  ⟨0x10000, 0, 1, wTab tbM, _, rfl, rfl,
    by refine ⟨?_, ?_, ?_⟩ <;> decide +kernel⟩

theorem witness_Switches_5 : ∃ (k : Nat) (s : State) (w : Switch) (h n m ph pe ps : Nat), s.switches = [w] ∧ w.id = k ∧
    (w.k = .retire ∨ w.k = .loss) ∧ w.step = 1 ∧ tabHdr s w.tab = .ok h ∧ tabEnt s w.tab w.e = .ok n ∧ tabSlot s w.tab w.e w.r = .ok m ∧
    bits m 2 0 = 2 ∧ w.tab % 1024 = 0 ∧ 0 < w.r ∧ w.r < 8 ∧ engXlate s .rd w.tab = .ok ph ∧ engXlate s .rd (entVa w.tab w.e) = .ok pe ∧
    engXlate s .rd (slotVa w.tab w.e w.r) = .ok ps ∧ ph % 64 = 0 ∧ pe % 64 = 0 ∧ ps % 64 = 0 ∧ ph ≠ pe ∧ pe ≠ ps ∧ ph ≠ ps ∧
    Memory.wf s = true ∧ lineReady s (ph / 64) true none = .ok ∧ lineReady s (pe / 64) true none = .ok ∧
    lineReady s (ps / 64) true none = .ok :=
  ⟨1, wSw .retire 1, _, tH, tE, tS1, _, _, _, rfl, rfl, Or.inl rfl, rfl, okIs (by decide +kernel), okIs (by decide +kernel),
    okIs (by decide +kernel), by decide +kernel, by decide +kernel, by decide +kernel, by decide +kernel, ok1 (by decide +kernel),
    ok1 (by decide +kernel), ok1 (by decide +kernel),
    by refine ⟨?_, ?_, ?_, ?_, ?_, ?_, ?_, ?_, ?_, ?_⟩ <;> decide +kernel⟩

theorem witness_Switches_6 : ∃ (k : Nat) (s : State) (w : Switch) (h n m ph pe ps : Nat), s.switches = [w] ∧ w.id = k ∧
    (w.k = .retire ∨ w.k = .loss) ∧ w.step = 1 ∧ tabHdr s w.tab = .ok h ∧ tabEnt s w.tab w.e = .ok n ∧ tabSlot s w.tab w.e w.r = .ok m ∧
    bits m 2 0 = 2 ∧ w.tab % 1024 = 0 ∧ 0 < w.r ∧ w.r < 8 ∧ engXlate s .rd w.tab = .ok ph ∧ engXlate s .rd (entVa w.tab w.e) = .ok pe ∧
    engXlate s .rd (slotVa w.tab w.e w.r) = .ok ps ∧ ph % 64 = 0 ∧ pe % 64 = 0 ∧ ps % 64 = 0 ∧ ph ≠ pe ∧ pe ≠ ps ∧ ph ≠ ps ∧
    Memory.wf s = true ∧ lineReady s (ph / 64) true none = .ok ∧ lineReady s (pe / 64) true none = .ok ∧
    lineReady s (ps / 64) true none = .ok :=
  ⟨1, wSw .loss 1, _, tH, tE, tS1, _, _, _, rfl, rfl, Or.inr rfl, rfl, okIs (by decide +kernel), okIs (by decide +kernel),
    okIs (by decide +kernel), by decide +kernel, by decide +kernel, by decide +kernel, by decide +kernel, ok1 (by decide +kernel),
    ok1 (by decide +kernel), ok1 (by decide +kernel),
    by refine ⟨?_, ?_, ?_, ?_, ?_, ?_, ?_, ?_, ?_, ?_⟩ <;> decide +kernel⟩

theorem witness_GradientMerges_1 : ∃ (tab : Nat) (s : State) (x : Table) (p : MergePos) (h w w0 p0 pr : Nat), s.tables = [x] ∧
    x.va = tab ∧ x.ok = true ∧ x.merging = some p ∧ s.switches = [] ∧ tabHdr s tab = .ok h ∧ tableWaits s tab h = none ∧
    p.e < hdrNexp h ∧ 0 < p.r ∧ p.r ≤ hdrMaxr h ∧ tabSlot s tab p.e p.r = .ok w ∧ (bits w 2 0 = 2 ∨ bits w 2 0 = 4 ∨ bits w 2 0 = 5) ∧
    tabSlot s tab p.e 0 = .ok w0 ∧ 4 * p.i < bits h 383 352 ∧ (slotGrad w0 + 4 * p.i) % 4 = 0 ∧ (slotGrad w + 4 * p.i) % 4 = 0 ∧
    engXlate s .rd (slotGrad w0 + 4 * p.i) = .ok p0 ∧ engXlate s .rd (slotGrad w + 4 * p.i) = .ok pr ∧
    engXlate s .wr (slotGrad w0 + 4 * p.i) = .ok p0 ∧ engXlate s .wr (slotGrad w + 4 * p.i) = .ok pr ∧ p0 % 4 = 0 ∧ pr % 4 = 0 ∧
    p0 ≠ pr ∧ isPool p0 = false ∧ isPool pr = false ∧ engServes s (p0 / 64) = .ok () ∧ engServes s (pr / 64) = .ok () ∧
    lineReady s (p0 / 64) false none = .ok ∧ lineReady s (pr / 64) false none = .ok ∧ Memory.wf s = true :=
  ⟨0x10000, wTab tbM, _, ⟨0, 1, 0, 0⟩, tH, tS1, tS0, 0x30000, 0x38000, rfl, rfl, rfl, rfl, rfl, okIs (by decide +kernel),
    by decide +kernel, by decide +kernel, by decide +kernel, by decide +kernel, okIs (by decide +kernel), by decide +kernel,
    okIs (by decide +kernel), by decide +kernel, by decide +kernel, by decide +kernel, okIs (by decide +kernel), okIs (by decide +kernel),
    okIs (by decide +kernel), okIs (by decide +kernel), by decide +kernel, by decide +kernel, by decide +kernel, by decide +kernel,
    by decide +kernel, ok0 (by decide +kernel), ok0 (by decide +kernel),
    by refine ⟨?_, ?_, ?_⟩ <;> decide +kernel⟩

theorem witness_GradientMerges_2 : ∃ (tab : Nat) (s : State) (x : Table) (p : MergePos) (h va pa : Nat), s.tables = [x] ∧ x.va = tab ∧
    x.ok = true ∧ x.merging = some p ∧ s.switches = [] ∧ tabHdr s tab = .ok h ∧ tableWaits s tab h = none ∧ p.e < hdrNexp h ∧ 0 < p.r ∧
    p.r ≤ hdrMaxr h ∧ tabSlot s tab p.e p.r = .error (.poison va) ∧ engCounter s (bits h 312 256) = .ok pa ∧
    (∀ pc, engCounter s (bits h 248 192) = .ok pc → ctrMet s pc (x.asked + 1) false = false) :=
  ⟨0x10000, dirW 0x412 (fun d => { d with psn := true }) (wTab tbM), _, ⟨0, 1, 0, 0⟩, tH, 0x10480, _, rfl, rfl, rfl, rfl, rfl,
    okIs (by decide +kernel), by decide +kernel, by decide +kernel, by decide +kernel, by decide +kernel, erIs (by decide +kernel),
    ok1 (by decide +kernel), okOnly (a := 0x40000050) (by decide +kernel) (by decide +kernel)⟩

theorem witness_GradientMerges_3 : ∃ (tab : Nat) (s : State) (x : Table), findTable s tab = some x ∧ x.ok = true ∧ x.merging ≠ none ∧
    (∃ w ∈ s.switches, w.tab = tab ∧ w.k ≠ .clear) :=
  ⟨0x10000, { wTab tbM with switches := [sw .loss 2] }, _, rfl, rfl, by decide +kernel, by decide +kernel⟩

theorem witness_WaggleInstructions_1 : ∃ (f : YA) (s : State) (a : Word), readS f.a s = .ok a ∧ s.core.held.length < 128 ∧
    (a + f.imm.signExtend 64).toNat % 128 = 0 :=
  ⟨⟨4, 0, 0, 0, 0, 0, 0, 0, 0⟩, reg 4 0x7000 w1, 0x7000, rfl, by decide, by decide⟩

theorem witness_WaggleInstructions_2 : ∃ (f : YA) (s : State) (a : Word), readS f.a s = .ok a ∧ s.core.held.length < 128 ∧
    (a + f.imm.signExtend 64).toNat % 128 ≠ 0 :=
  ⟨⟨4, 0, 0, 0, 0, 0, 0, 0, 0xFFFFF⟩, reg 4 0x7000 w1, 0x7000, rfl, by decide, by decide⟩

theorem witness_WaggleInstructions_3 : ∃ (f : YA) (s : State) (b : Word), readS f.b s = .ok b ∧ b.toNat < 4096 ∧ s.core.held.length < 128 :=
  ⟨⟨0, 2, 6, 0, 0, 0, 0, 0, 0⟩, reg 2 4095 w1, 4095, rfl, by decide, by decide⟩

theorem witness_WaggleInstructions_4 : ∃ (f : YA) (s : State) (b : Word), readS f.b s = .ok b ∧ b.toNat < 4096 ∧ s.colls = [] ∧
    s.wstat = [] :=
  ⟨⟨0, 2, 6, 0, 0, 0, 0, 0, 0⟩, w1, 5, rfl, by decide, rfl, rfl⟩

theorem witness_WaggleInstructions_5 : ∃ (f : YA) (s : State) (b : Word) (c : Coll), readS f.b s = .ok b ∧ b.toNat < 4096 ∧
    s.colls = [c] ∧ c.tag = b.toNat ∧ c.launch = SMap.get 0 s.wcount b.toNat :=
  ⟨⟨0, 2, 6, 0, 0, 0, 0, 0, 0⟩, wCo co, 5, co, rfl, by decide, rfl, rfl, rfl⟩

theorem witness_WaggleInstructions_6 : ∃ (f : YA) (s : State) (b : Word), readS f.b s = .ok b ∧ 4096 ≤ b.toNat :=
  ⟨⟨0, 2, 6, 0, 0, 0, 0, 0, 0⟩, reg 2 4096 w1, 4096, rfl, by decide⟩

theorem witness_WaggleLaunches_1 : ∃ (k : Nat) (s : State) (q : WglQ) (n : Nat) (b : Bool) (g : List (BitVec 17)) (ws : List Word) (is :
    List Instr), s.wglq = [q] ∧ q.id = k ∧ q.kill = none ∧ engNat .rd s q.va 128 = .ok n ∧ groupOf s n = .ok (b, g) ∧
    readProg s 1025 (bits n 56 0) = .ok ws ∧ ws.mapM decodeStep = some is ∧ progOk n is = true ∧ ctrBufs is = none ∧ cdDone n = 0 ∧
    s.colls = [] ∧ s.waborts = [] ∧ tagsFit s q.tser = true ∧ cdOk s n = true ∧ b = true ∧ s.host.lstate = 2 :=
  ⟨3, { wWgl 1 with host := { (wWgl 1).host with lstate := 2 } }, _, cd 1, true, [0], [0x0A00000000000000, 0x0B00000000000000], _, rfl,
    rfl, rfl, okIs (by decide +kernel), okIs (by decide +kernel), okIs (by decide +kernel), some1 (by decide +kernel), by decide +kernel,
    by decide +kernel, by decide +kernel, rfl, rfl, by decide +kernel, by decide +kernel, rfl, rfl⟩

theorem witness_WaggleLaunches_2 : ∃ (k : Nat) (s : State) (q : WglQ) (n : Nat) (b : Bool) (g : List (BitVec 17)) (ws : List Word) (is :
    List Instr), s.wglq = [q] ∧ q.id = k ∧ q.kill = none ∧ engNat .rd s q.va 128 = .ok n ∧ groupOf s n = .ok (b, g) ∧
    readProg s 1025 (bits n 56 0) = .ok ws ∧ ws.mapM decodeStep = some is ∧ progOk n is = true ∧ ctrBufs is = none ∧ cdDone n = 0 ∧
    s.colls = [] ∧ s.waborts = [] ∧ tagsFit s q.tser = true ∧ cdOk s n = true ∧ b = true ∧ s.host.lstate ≠ 2 :=
  ⟨3, { wWgl 1 with host := { (wWgl 1).host with lstate := 4 } }, _, cd 1, true, [0], [0x0A00000000000000, 0x0B00000000000000], _, rfl,
    rfl, rfl, okIs (by decide +kernel), okIs (by decide +kernel), okIs (by decide +kernel), some1 (by decide +kernel), by decide +kernel,
    by decide +kernel, by decide +kernel, rfl, rfl, by decide +kernel, by decide +kernel, rfl, by decide⟩

theorem witness_WaggleLaunches_3 : ∃ (k : Nat) (s : State) (q : WglQ) (n : Nat) (b : Bool) (g : List (BitVec 17)) (ws : List Word) (is :
    List Instr), s.wglq = [q] ∧ q.id = k ∧ q.kill = none ∧ engNat .rd s q.va 128 = .ok n ∧ groupOf s n = .ok (b, g) ∧
    readProg s 1025 (bits n 56 0) = .ok ws ∧ ws.mapM decodeStep = some is ∧ progOk n is = true ∧ ctrBufs is = none ∧ cdDone n = 0 ∧
    s.colls = [] ∧ s.waborts = [] ∧ tagsFit s q.tser = true ∧ (cdOk s n = false ∨ b = false) :=
  ⟨3, { wWgl 0 with host := { (wWgl 0).host with lstate := 2 } }, _, cd 0, true, [0], [0x0A00000000000000, 0x0B00000000000000], _, rfl,
    rfl, rfl, okIs (by decide +kernel), okIs (by decide +kernel), okIs (by decide +kernel), some1 (by decide +kernel), by decide +kernel,
    by decide +kernel, by decide +kernel, rfl, rfl, by decide +kernel, Or.inl (by decide +kernel)⟩

theorem witness_WaggleLaunches_4 : ∃ (k : Nat) (s : State) (c : Coll), s.colls = [c] ∧ c.tag = k ∧ c.started = false ∧
    c.aborting = none ∧ (∀ x ∈ s.wsigs, x.1 = k → x.2.1 = c.launch → x.2.2.1 < c.ranks → x.2.2.2 = c.sigw) :=
  ⟨5, { wCo { co2 with started := false } with wsigs := [(5, 1, 1, [7])] }, _, rfl, rfl, rfl, rfl, by decide +kernel⟩

theorem witness_WaggleLaunches_5 : ∃ (k : Nat) (s : State) (c : Coll), s.colls = [c] ∧ c.tag = k ∧ c.started = false ∧
    c.aborting = none ∧ (∃ x ∈ s.wsigs, x.1 = k ∧ x.2.1 = c.launch ∧ x.2.2.1 < c.ranks ∧ x.2.2.2 ≠ c.sigw) :=
  ⟨5, { wCo { co2 with started := false } with wsigs := [(5, 1, 1, [8])] }, _, rfl, rfl, rfl, rfl, by decide +kernel⟩

theorem witness_WaggleControl_1 : ∃ (s : State) (c : Coll) (n : BitVec 32), Claims.turnOf s c :=
  ⟨wCo co, _, 3, ⟨rfl, rfl, rfl, rfl⟩⟩

theorem witness_WaggleControl_2 : ∃ (s : State) (c : Coll) (a n i : Nat) (rest : List (Nat × Nat × Nat)), Claims.turnOf s c ∧
    c.loops = (a, n, i) :: rest ∧ n ≤ 1 :=
  ⟨wCo { co with loops := [(1, 1, 4)] }, _, 1, 1, 4, [], ⟨rfl, rfl, rfl, rfl⟩, rfl, by decide⟩

theorem witness_WaggleControl_3 : ∃ (s : State) (c : Coll) (a n i : Nat) (rest : List (Nat × Nat × Nat)), Claims.turnOf s c ∧
    c.loops = (a, n, i) :: rest ∧ 1 < n :=
  ⟨wCo { co with loops := [(1, 2, 4)] }, _, 1, 2, 4, [], ⟨rfl, rfl, rfl, rfl⟩, rfl, by decide⟩

theorem witness_WaggleControl_4 : ∃ (s : State) (c : Coll) (n : BitVec 20) (pa : Nat), Claims.turnOf s c ∧ c.sig = some pa ∧
    lineReady s (pa / 64) false none = .ok ∧ addRefused s pa n.toNat = false ∧ Memory.wf s = true ∧ s.waiters = [] :=
  ⟨wCo co, _, 3, _, ⟨rfl, rfl, rfl, rfl⟩, rfl, by decide +kernel, by decide +kernel, by decide +kernel, rfl⟩

theorem witness_WaggleControl_5 : ∃ (s : State) (c : Coll) (n : BitVec 48) (f tt : Nat), Claims.turnOf s c ∧ c.sent = true ∧
    c.woken = some (f, tt) ∧ bits f 7 3 = 0 :=
  ⟨wCo { co with sent := true, woken := some (1, 9) }, _, 4, _, _, ⟨rfl, rfl, rfl, rfl⟩, rfl, rfl, by decide +kernel⟩

theorem witness_WaggleControl_6 : ∃ (s : State) (c : Coll) (n : BitVec 48) (f tt : Nat), Claims.turnOf s c ∧ c.sent = true ∧
    c.woken = some (f, tt) ∧ bits f 7 3 ≠ 0 :=
  ⟨wCo { co with sent := true, woken := some (64, 9) }, _, 4, _, _, ⟨rfl, rfl, rfl, rfl⟩, rfl, rfl, by decide +kernel⟩

theorem witness_WaggleControl_7 : ∃ (s : State) (c : Coll) (n : BitVec 48) (pa : Nat), Claims.turnOf s c ∧ c.sent = false ∧
    c.wait = some pa ∧ poisoned s (pa / 64) = false ∧ ctrMet s pa n.toNat true = false :=
  ⟨wCo co, _, 1, _, ⟨rfl, rfl, rfl, rfl⟩, rfl, rfl, by decide +kernel, by decide +kernel⟩

theorem witness_WaggleControl_8 : ∃ (s : State) (c : Coll) (vs : List Word), Claims.turnOf s c ∧ c.sent = true ∧ valsOf c 1 = some vs :=
  ⟨wCo { co with sent := true, inst := 1, vals := [(1, 1, 0, 5)] }, _, [5], ⟨rfl, rfl, rfl, rfl⟩, rfl, by decide +kernel⟩

theorem witness_WaggleControl_9 : ∃ (s : State) (c : Coll), Claims.turnOf s c ∧ c.done = none ∧ SMap.get 0 s.wcount c.tag = c.launch :=
  ⟨wCo { co with done := none }, _, ⟨rfl, rfl, rfl, rfl⟩, rfl, rfl⟩

theorem witness_WaggleControl_10 : ∃ (s : State) (c : Coll) (pa : Nat), Claims.turnOf s c ∧ c.done = some pa ∧
    SMap.get 0 s.wcount c.tag = c.launch ∧ lineReady s (pa / 64) false none = .ok ∧ addRefused s pa (c.d 306 288) = false ∧
    Memory.wf s = true ∧ s.waiters = [] :=
  ⟨wCo co, _, _, ⟨rfl, rfl, rfl, rfl⟩, rfl, rfl, by decide +kernel, by decide +kernel, by decide +kernel, rfl⟩

theorem witness_WaggleData_1 : ∃ (f : WP) (s : State) (c : Coll), Claims.turnOf s c ∧ c.sent = false ∧ c.reading = true ∧ c.want = [] :=
  ⟨⟨0, 0, 1, 0, 0, 0⟩, wCo { co2 with reading := true, got := [(0x8000, [1])] }, _, ⟨rfl, rfl, rfl, rfl⟩, rfl, rfl, rfl⟩

theorem witness_WaggleData_2 : ∃ (f : WP) (s : State) (c : Coll), Claims.turnOf s c ∧ c.sent = true ∧
    c.landed.contains (peerOf c f, SMap.get 0 c.sends (peerOf c f)) = true :=
  ⟨⟨0, 0, 1, 0, 0, 0⟩, wCo { co2 with sent := true, sends := [(1, 1)], landed := [(1, 1)] }, _, ⟨rfl, rfl, rfl, rfl⟩, rfl,
    by decide +kernel⟩

theorem witness_WaggleData_3 : ∃ (f : WP) (s : State) (c : Coll) (m : ChunkMsg), Claims.turnOf s c ∧ c.writing = false ∧
    (c.held.find? fun m => m.kind == .send && m.rank == peerOf c f && m.inst == SMap.get 0 c.recvs (peerOf c f) + 1) = some m ∧
    placed s (chunkVa c f.buf.toNat (chunkOf c f)) (m.data.take (chunkLen c f.buf.toNat (chunkOf c f))).length = .ok () :=
  ⟨⟨0, 0, 1, 0, 0, 0⟩, wCo { co2 with held := [cm .send 1 1] }, _, cm .send 1 1, ⟨rfl, rfl, rfl, rfl⟩, rfl, by decide +kernel,
    ok0 (by decide +kernel)⟩

theorem witness_WaggleData_4 : ∃ (f : WP) (s : State) (c : Coll) (m : ChunkMsg) (va : Nat), Claims.turnOf s c ∧ c.writing = false ∧
    (c.held.find? fun m => m.kind == .send && m.rank == peerOf c f && m.inst == SMap.get 0 c.recvs (peerOf c f) + 1) = some m ∧
    placed s (chunkVa c f.buf.toNat (chunkOf c f)) (m.data.take (chunkLen c f.buf.toNat (chunkOf c f))).length = .error (.trans va) :=
  ⟨⟨0, 0, 1, 0, 0, 0⟩, { wCo { co2 with held := [cm .send 1 1] } with mem := [] }, _, cm .send 1 1, 0x8000, ⟨rfl, rfl, rfl, rfl⟩, rfl,
    by decide +kernel, erIs (by decide +kernel)⟩

theorem witness_WaggleData_5 : ∃ (f : WP) (s : State) (c : Coll), Claims.turnOf s c ∧ c.writing = true ∧ c.out = [] :=
  ⟨⟨0, 0, 1, 0, 0, 0⟩, wCo { co2 with writing := true }, _, ⟨rfl, rfl, rfl, rfl⟩, rfl, rfl⟩

theorem witness_WaggleData_6 : ∃ (f : WC) (s : State) (c : Coll), Claims.turnOf s c ∧ (f.low ≠ 0 ∨ (c.reading = true ∧ c.want = [] ∧
    c.out = [])) :=
  ⟨⟨0, 1, 0⟩, wCo { co with reading := true }, _, ⟨rfl, rfl, rfl, rfl⟩, Or.inr ⟨rfl, rfl, rfl⟩⟩

theorem witness_WaggleData_7 : ∃ (f : WC) (s : State) (c : Coll), Claims.turnOf s c ∧ (f.low ≠ 0 ∨ (c.reading = true ∧ c.want = [] ∧
    c.out = [])) :=
  ⟨⟨0, 1, 1⟩, wCo co, _, ⟨rfl, rfl, rfl, rfl⟩, Or.inl (by decide)⟩

theorem witness_WaggleData_8 : ∃ (f : WC) (s : State) (c : Coll) (a m : Nat) (bs : List Byte), Claims.turnOf s c ∧ f.low = 0 ∧
    c.reading = true ∧ c.want = [(a, m)] ∧ c.out = [] ∧ engBytes .rd s a m = .ok bs ∧
    placed (engTake [(a,
    m)] c.t { s with free := s.free + 1 }).2 (cdBva c.n f.dst.toNat + cdChunk c.n * copyChunk c f (cdBva c.n f.dst.toNat + (a - cdBva c.n
    f.src.toNat))) (min (cdChunk c.n) (copyLen c f - cdChunk c.n * copyChunk c f (cdBva c.n f.dst.toNat + (a - cdBva c.n f.src.toNat)))) =
    .ok () :=
  ⟨⟨0, 1, 0⟩, wCo { co with reading := true, want := [(0x8040, 64)] }, _, 0x8040, 64, _, ⟨rfl, rfl, rfl, rfl⟩, rfl, rfl, rfl, rfl,
    ok1 (by decide +kernel), ok0 (by decide +kernel)⟩

theorem witness_WaggleData_9 : ∃ (f : WC) (s : State) (c : Coll) (a qa : Nat) (bs : List Byte), Claims.turnOf s c ∧ f.low = 0 ∧
    c.reading = true ∧ c.want = [] ∧ c.out = [(a, bs)] ∧ bs ≠ [] ∧ a % 64 + bs.length ≤ 64 ∧ c.spot s a = .ok qa ∧
    lineReady s (qa / 64) (bs.length == 64) none = .ok ∧ Memory.wf s = true :=
  ⟨⟨0, 1, 0⟩, wCo { co with reading := true, out := [(0x8140, [1, 2])] }, _, 0x8140, 0x8140, [1, 2], ⟨rfl, rfl, rfl, rfl⟩, rfl, rfl, rfl,
    rfl, by decide, by decide, okIs (by decide +kernel), by decide +kernel, by decide +kernel⟩

theorem witness_WaggleData_10 : ∃ (b : BitVec 2) (off : BitVec 32) (s : State) (c : Coll) (vs : List Word) (pa : Nat),
    Claims.turnOf s c ∧ c.sent = true ∧ valsOf c 0 = some vs ∧ vs ≠ [] ∧ (cdBva c.n b.toNat + off.toNat) % 64 + 8 ≤ 64 ∧
    engXlate s .wr (cdBva c.n b.toNat + off.toNat) = .ok pa ∧ lineReady s (pa / 64) false none = .ok ∧ Memory.wf s = true :=
  ⟨1, 56, wCo { co with sent := true, inst := 1, vals := [(0, 1, 0, 5)] }, _, [5], 0x8138, ⟨rfl, rfl, rfl, rfl⟩, rfl, by decide +kernel,
    by decide, by decide +kernel, okIs (by decide +kernel), by decide +kernel, by decide +kernel⟩

theorem witness_WaggleData_11 : ∃ (f : WR) (s : State) (c : Coll), Claims.turnOf s c ∧ c.sent = true ∧ c.writing = false ∧ c.todo = [] ∧
    c.owed = [] :=
  ⟨⟨0, 0, 1, 0⟩, wCo { co with sent := true }, _, ⟨rfl, rfl, rfl, rfl⟩, rfl, rfl, rfl, rfl⟩

theorem witness_WaggleData_12 : ∃ (f : WR) (s : State) (c : Coll) (i : Nat) (rest : List Nat) (own : List Byte), Claims.turnOf s c ∧
    c.sent = true ∧ c.writing = false ∧ c.todo = [] ∧ c.owed = i :: rest ∧ c.reading = true ∧ c.cur = i ∧ c.want = [] ∧
    ownerOf c f i = c.rank ∧ (∀ e ∈ c.spilled, e.2.2.inst = c.inst → e.2.2.chunk ≠ i) ∧
    own = ((spansOf (chunkVa c f.buf.toNat i) (chunkLen c f.buf.toNat i)).flatMap fun p => ((c.got.find? fun g => g.1 == p.1).map
    (·.2)).getD []) ∧ placed s (chunkVa c f.dst.toNat i) (ownFinal c i own).1.length = .ok () :=
  ⟨⟨0, 0, 1, 0⟩,
    wCo { co2 with sent := true, inst := 1, owed := [0], reading := true, got := [(0x8000, [1, 2])], held := [cm .contrib 1 1] }, _, 0,
    [], _, ⟨rfl, rfl, rfl, rfl⟩, rfl, rfl, rfl, rfl, rfl, rfl, rfl, by decide +kernel, (fun _ h => nomatch h), rfl, ok0 (by decide +kernel)⟩

theorem witness_WaggleData_13 : ∃ (f : WR) (s : State) (c : Coll) (i : Nat) (rest : List Nat) (own : List Byte), Claims.turnOf s c ∧
    c.sent = true ∧ c.writing = false ∧ c.todo = [] ∧ c.owed = i :: rest ∧ c.reading = true ∧ c.cur = i ∧ c.want = [] ∧
    ownerOf c f i = c.rank ∧ (∀ e ∈ c.spilled, e.2.2.inst = c.inst → e.2.2.chunk ≠ i) ∧
    own = ((spansOf (chunkVa c f.buf.toNat i) (chunkLen c f.buf.toNat i)).flatMap fun p => ((c.got.find? fun g => g.1 == p.1).map
    (·.2)).getD []) ∧ placed s (chunkVa c f.dst.toNat i) (ownFinal c i own).1.length = .ok () :=
  ⟨⟨0, 1, 1, 0⟩,
    wCo { co2 with sent := true, inst := 1, owed := [0], reading := true, got := [(0x8000, [1, 2])], held := [cm .contrib 1 1] }, _, 0,
    [], _, ⟨rfl, rfl, rfl, rfl⟩, rfl, rfl, rfl, rfl, rfl, rfl, rfl, by decide +kernel, (fun _ h => nomatch h), rfl, ok0 (by decide +kernel)⟩

theorem witness_WaggleData_14 : ∃ (c : Coll) (i : Nat), (∀ m ∈ c.held, isPart c.inst i m = true → m.kind = .contrib) :=
  ⟨{ co2 with inst := 1, held := [cm .contrib 1 1] }, 0, by decide +kernel⟩

theorem witness_WaggleData_15 : ∃ (c : Coll) (i : Nat) (m : ChunkMsg) (acc : List XV) (fl : Flags) (rest : List ChunkMsg),
    c.held.filter (isPart c.inst i) = m :: rest ∧ m.kind = .combined acc fl ∧ (∀ x ∈ rest, x.kind = .contrib) :=
  ⟨{ co2 with inst := 1, held := [cm (.combined [.zero, .zero] 1) 0 1, cm .contrib 1 1] }, 0, cm (.combined [.zero, .zero] 1) 0 1, [.zero,
    .zero], 1, [cm .contrib 1 1], by decide +kernel, rfl, by decide +kernel⟩

theorem witness_WaggleArrivals_1 : ∃ (s : State) (m : ChunkMsg) (c : Coll), s.colls = [c] ∧ c.tag = m.tag ∧ c.launch = m.launch ∧
    c.started = true ∧ c.past m = true :=
  ⟨wCo { co2 with inst := 2 }, cm .contrib 1 1, _, rfl, rfl, rfl, rfl, by decide +kernel⟩

theorem witness_WaggleArrivals_2 : ∃ (s : State) (m : ChunkMsg) (c : Coll), s.colls = [c] ∧ c.tag = m.tag ∧ c.launch = m.launch ∧
    c.started = true ∧ c.past m = false ∧ engineUnits { s with colls := [Claims.taken c m] } (c.tag % 4) ≤ slotRoom ∧ m.kind ≠ .send :=
  ⟨wCo { co2 with inst := 1, owed := [0] }, cm .contrib 1 1, _, rfl, rfl, rfl, rfl,
    by refine ⟨?_, ?_, ?_⟩ <;> decide +kernel⟩

theorem witness_WaggleArrivals_3 : ∃ (s : State) (m : ChunkMsg) (c : Coll), s.colls = [c] ∧ c.tag = m.tag ∧ c.launch = m.launch ∧
    c.started = true ∧ c.past m = false ∧ engineUnits { s with colls := [Claims.taken c m] } (c.tag % 4) ≤ slotRoom ∧ m.kind = .send :=
  ⟨wCo co2, cm .send 1 1, _, rfl, rfl, rfl, rfl, by decide +kernel, by decide +kernel, rfl⟩

theorem witness_WaggleArrivals_4 : ∃ (s : State) (m : ChunkMsg) (c : Coll), s.colls = [c] ∧ c.tag = m.tag ∧ c.launch = m.launch ∧
    c.started = false :=
  ⟨wCo { co2 with started := false }, cm .send 1 1, _, rfl, rfl, rfl, rfl⟩

theorem witness_WaggleArrivals_5 : ∃ (s : State) (m : ChunkMsg), s.colls = [] :=
  ⟨wPg, cm .send 1 1, rfl⟩

theorem witness_WaggleArrivals_6 : ∃ (k inst chunk : Nat) (s : State) (c : Coll) (f : WR) (bs : List Byte), s.colls = [c] ∧ c.tag = k ∧
    c.started = true ∧ c.aborting = none ∧ (c.rs.find? fun e => e.1 == inst) = some (inst, f) ∧ ownerOf c f chunk ≠ c.rank ∧ f.mode ≠ 1 ∧
    engBytes .rd s (chunkVa c f.buf.toNat chunk) (chunkLen c f.buf.toNat chunk) = .ok bs :=
  ⟨5, 1, 0, wCo { co2 with rs := [(1, ⟨0, 2, 1, 1⟩)] }, _, ⟨0, 2, 1, 1⟩, _, rfl, rfl, rfl, rfl, by decide +kernel, by decide +kernel,
    by decide, ok1 (by decide +kernel)⟩

theorem witness_WaggleArrivals_7 : ∃ (k inst chunk : Nat) (s : State) (c : Coll) (f : WR), s.colls = [c] ∧ c.tag = k ∧ c.started = true ∧
    c.aborting = none ∧ (c.rs.find? fun e => e.1 == inst) = some (inst, f) ∧ ownerOf c f chunk = c.rank ∧ c.inst = inst ∧
    chunk ∈ c.owed ∧ c.writing = false :=
  ⟨5, 1, 0, wCo { co2 with rs := [(1, ⟨0, 0, 1, 0⟩)], inst := 1, owed := [0], held := [cm .contrib 1 1] }, _, ⟨0, 0, 1, 0⟩, rfl, rfl, rfl,
    rfl, by decide +kernel, by decide +kernel, rfl, by decide, rfl⟩

theorem witness_WaggleArrivals_8 : ∃ (tag launch : Nat) (p : Bool) (s : State) (c : Coll), s.colls = [c] ∧ c.tag = tag ∧
    c.launch = launch ∧ c.aborting = none ∧ c.finishing.writing = false ∧ SMap.get 0 s.wcount tag = launch :=
  ⟨5, 1, true, wCo co, _, rfl, rfl, rfl, rfl, rfl, rfl⟩

theorem witness_WaggleArrivals_9 : ∃ (tag launch : Nat) (p : Bool) (s : State) (c : Coll), s.colls = [c] ∧ c.tag = tag ∧
    c.launch = launch ∧ c.aborting = none ∧ c.finishing.writing = true :=
  ⟨5, 1, false, wCo { co with writing := true }, _, rfl, rfl, rfl, rfl, rfl⟩

theorem witness_WaggleArrivals_10 : ∃ (tag launch : Nat) (p : Bool) (s : State) (c : Coll), s.colls = [c] ∧ c.tag = tag ∧
    c.launch = launch ∧ c.aborting = none ∧ c.finishing.writing = true :=
  ⟨5, 1, false, wCo { co with steps := [.wcopy ⟨0, 1, 0⟩, .wflags, .wend], reading := true, out := [(0x8140, [1, 2])] }, _, rfl, rfl, rfl,
    rfl, by decide +kernel⟩

theorem witness_WaggleArrivals_11 : ∃ (tag launch : Nat) (p : Bool) (s : State) (c : Coll), s.colls = [c] ∧ c.tag = tag ∧
    c.launch = launch ∧ c.aborting = none ∧ c.copying = none :=
  ⟨5, 1, false, wCo co, _, rfl, rfl, rfl, rfl, rfl⟩

theorem witness_WaggleArrivals_12 : ∃ (tag launch : Nat) (p : Bool) (s : State) (c : Coll) (f : WC), s.colls = [c] ∧ c.tag = tag ∧
    c.launch = launch ∧ c.aborting = none ∧ c.copying = some f :=
  ⟨5, 1, false, wCo { co with steps := [.wcopy ⟨0, 1, 0⟩, .wflags, .wend], reading := true, out := [(0x8140, [1, 2])] }, _, ⟨0, 1, 0⟩,
    rfl, rfl, rfl, rfl, by decide +kernel⟩

theorem witness_FabricMessages_1 : ∃ (m : GMsg) (s : State), (m.src, m.seq) ∈ s.gseen :=
  ⟨⟨3, 7, .done 1 0⟩, { wDom with gseen := [(3, 7)] }, by decide +kernel⟩

theorem witness_FabricMessages_2 : ∃ (m : GMsg) (n : Nat) (s : State), (m.src, m.seq) ∉ s.gseen ∧ m.body = .ack n :=
  ⟨⟨3, 7, .ack 1⟩, 1, wOut, by decide +kernel, rfl⟩

theorem witness_FabricMessages_3 : ∃ (m : GMsg) (op k : Nat) (va : Word) (bs : List Byte) (s : State) (pa : Nat), (m.src,
    m.seq) ∉ s.gseen ∧ m.body = .write op k va bs ∧ m.src ≠ s.host.modid ∧ serves s m.src = true ∧ engXlate s .wr va.toNat = .ok pa ∧
    isPool pa = false ∧ lineReady s (pa / 64) (bs.length == 64) none = .ok ∧ Memory.wf s = true :=
  ⟨⟨3, 7, .write 1 0 0x803E [1, 2]⟩, 1, 0, 0x803E, [1, 2], wDom, 0x803E, by decide +kernel, rfl, by decide, by decide +kernel,
    okIs (by decide +kernel),
    by refine ⟨?_, ?_, ?_⟩ <;> decide +kernel⟩

theorem witness_FabricMessages_4 : ∃ (m : GMsg) (op k : Nat) (va : Word) (bs : List Byte) (s : State), (m.src, m.seq) ∉ s.gseen ∧
    m.body = .write op k va bs ∧ m.src ≠ s.host.modid ∧ serves s m.src = false :=
  ⟨⟨4, 7, .write 1 0 0x803E [1, 2]⟩, 1, 0, 0x803E, [1, 2], wDom, by decide +kernel, rfl, by decide, by decide +kernel⟩

theorem witness_FabricMessages_5 : ∃ (m : GMsg) (op k n : Nat) (va : Word) (pa : Nat) (s : State), (m.src, m.seq) ∉ s.gseen ∧
    m.body = .read op k va n ∧ m.src ≠ s.host.modid ∧ serves s m.src = true ∧ engXlate s .rd va.toNat = .ok pa ∧ isPool pa = false ∧
    engServes s (pa / 64) = .ok () :=
  ⟨⟨3, 7, .read 1 0 0x8000 64⟩, 1, 0, 64, 0x8000, 0x8000, wDom, by decide +kernel, rfl, by decide, by decide +kernel,
    okIs (by decide +kernel), by decide +kernel, ok0 (by decide +kernel)⟩

theorem witness_FabricPorts_1 : ∃ (p : Nat) (s : State), p < 48 ∧ p ∉ s.gdown :=
  ⟨2, wOut, by decide, by decide +kernel⟩

theorem witness_FabricPorts_2 : ∃ (m : BitVec 17) (s : State) (o : Cop), m ≠ s.host.modid ∧ portsTo s m = [] ∧ s.copies = [o] ∧
    waitsFor m o = true ∧ o.sw = none ∧ o.ctr = none ∧ o.l.rc = false ∧ s.colls = [] :=
  ⟨3, wFar, _, by decide, by decide +kernel, rfl, by decide +kernel, rfl, rfl, rfl, rfl⟩

theorem witness_FabricPorts_3 : ∃ (m : BitVec 17) (s : State), portsTo s m ≠ [] :=
  ⟨3, wDom, by decide +kernel⟩

theorem witness_FabricPorts_4 : ∃ (d : DomainTable) (s : State), (s.host.lstate = 1 ∨ s.host.lstate = 2 ∨ routesOk d = false) :=
  ⟨⟨1, 0, [(5, true)], []⟩, wDom, Or.inr (Or.inl rfl)⟩

theorem witness_FabricPorts_5 : ∃ (d : DomainTable) (s : State), (s.host.lstate = 1 ∨ s.host.lstate = 2 ∨ routesOk d = false) :=
  ⟨⟨1, 0, [(5, true)], [(6, [48])]⟩, wPg, Or.inr (Or.inr (by decide +kernel))⟩

theorem witness_FabricPorts_6 : ∃ (d : DomainTable) (s : State), s.host.lstate ≠ 1 ∧ s.host.lstate ≠ 2 ∧ d.members ≠ [] ∧
    d.members.length ≤ 1024 ∧ d.self < d.members.length ∧ routesOk d = true :=
  ⟨⟨1, 1, [(5, true), (6, true)], [(5, [0, 47])]⟩, wPg,
    by refine ⟨?_, ?_, ?_, ?_, ?_, ?_⟩ <;> decide +kernel⟩

theorem witness_FabricPorts_7 : ∃ (k : Nat) (s : State), k < 480 ∧ k ∉ s.ctl.linksDown :=
  ⟨479, wPg, by decide, by decide⟩

theorem witness_FabricPorts_8 : ∃ (k : Nat) (s : State), k < 480 ∧ k ∉ s.ctl.linksDown :=
  ⟨479, wDom, by decide, by decide⟩

theorem witness_FabricPorts_9 : ∃ (down : List Nat) (x1 y1 x2 y2 : Nat), (x1 = x2 ∨ y1 = y2) :=
  ⟨[479], 15, 14, 15, 15, Or.inl rfl⟩

theorem witness_PoolCompletions_1 : ∃ (line : Nat) (own excl : Bool) (v : Vec) (s : State), s.ptx = [.rd line own] ∧
    (dirOf s line).psn = false ∧ ((dirOf s line).pst = 0 ∨ (dirOf s line).gone = true) ∧ Memory.wf s = true :=
  ⟨pl, false, true, 7, { wPg with ptx := [.rd pl false] }, rfl,
    by refine ⟨?_, ?_, ?_⟩ <;> decide +kernel⟩

theorem witness_PoolCompletions_2 : ∃ (line : Nat) (own excl : Bool) (v : Vec) (s : State), s.ptx = [.rd line own] ∧
    (dirOf s line).psn = false ∧ ((dirOf s line).pst = 0 ∨ (dirOf s line).gone = true) ∧ Memory.wf s = true :=
  ⟨pl, true, false, 7, { wPg with ptx := [.rd pl true] }, rfl,
    by refine ⟨?_, ?_, ?_⟩ <;> decide +kernel⟩

theorem witness_PoolCompletions_3 : ∃ (line : Nat) (own excl : Bool) (v : Vec) (s : State), s.ptx = [.rd line own] ∧
    (dirOf s line).psn = false ∧ ((dirOf s line).pst = 0 ∨ (dirOf s line).gone = true) ∧ Memory.wf s = true :=
  ⟨pl, false, false, 7, { wPg with ptx := [.rd pl false] }, rfl,
    by refine ⟨?_, ?_, ?_⟩ <;> decide +kernel⟩

theorem witness_PoolCompletions_4 : ∃ (line : Nat) (own excl : Bool) (v : Vec) (s : State), s.ptx = [.rd line own] ∧
    (dirOf s line).psn = false ∧ ((dirOf s line).pst = 0 ∨ (dirOf s line).gone = true) ∧ Memory.wf s = true :=
  ⟨pl, false, true, 7, { dirW pl (fun d => { d with pst := 1, gone := true }) wPg with ptx := [.rd pl false] }, rfl,
    by refine ⟨?_, ?_, ?_⟩ <;> decide +kernel⟩

theorem witness_PoolCompletions_5 : ∃ (line : Nat) (s : State), .inv line ∈ s.ptx ∧ (dirOf s line).pst = 1 :=
  ⟨pl, { wPool 1 none with ptx := [.inv pl] }, by decide +kernel, by decide +kernel⟩

theorem witness_PoolCompletions_6 : ∃ (line : Nat) (s : State), s.ptx = [.wr line .evict] ∧ (dirOf s line).rts ≤ hcOf s (homeOf line) :=
  ⟨pl, { wPool 3 none with ptx := [.wr pl .evict] }, rfl, by decide +kernel⟩

theorem witness_PoolCompletions_7 : ∃ (line : Nat) (s : State), s.ptx = [.wr line .evict] ∧ hcOf s (homeOf line) < (dirOf s line).rts :=
  ⟨pl, { dirW pl (fun d => { d with pst := 3, rts := 1 }) wPg with ptx := [.wr pl .evict] }, rfl, by decide +kernel⟩

theorem witness_PoolSnoops_1 : ∃ (line : Nat) (s : State), isPool (64 * line) = true ∧ (dirOf s line).resv = none ∧
    (dirOf s line).pin = none ∧ ((dirOf s line).pst = 1 ∨ (dirOf s line).pst = 2) :=
  ⟨pl, wPool 1 none,
    by refine ⟨?_, ?_, ?_, ?_⟩ <;> decide +kernel⟩

theorem witness_PoolSnoops_2 : ∃ (line : Nat) (s : State), isPool (64 * line) = true ∧ (dirOf s line).resv = none ∧
    (dirOf s line).pin = none ∧ ((dirOf s line).pst = 1 ∨ (dirOf s line).pst = 2) :=
  ⟨pl, wPool 2 none,
    by refine ⟨?_, ?_, ?_, ?_⟩ <;> decide +kernel⟩

theorem witness_PoolSnoops_3 : ∃ (line : Nat) (s : State), isPool (64 * line) = true ∧ (dirOf s line).resv = none ∧
    (dirOf s line).pin = none ∧ (dirOf s line).pst = 4 :=
  ⟨pl, wPool 4 none,
    by refine ⟨?_, ?_, ?_, ?_⟩ <;> decide +kernel⟩

theorem witness_PoolSnoops_4 : ∃ (line : Nat) (s : State), isPool (64 * line) = true ∧ (dirOf s line).resv = none ∧
    (dirOf s line).pin = none ∧ (dirOf s line).pst = 3 :=
  ⟨pl, wPool 3 none,
    by refine ⟨?_, ?_, ?_, ?_⟩ <;> decide +kernel⟩

theorem witness_PoolSnoops_5 : ∃ (line : Nat) (s : State) (w : SnoopWait), isPool (64 * line) = true ∧ (dirOf s line).resv = none ∧
    (dirOf s line).pin = none ∧ (dirOf s line).pst = 0 ∧ s.snoops = [w] ∧ w.line = line ∧ w.kind = 0 :=
  ⟨pl, { wPool 0 none with snoops := [⟨pl, 0, 1, true⟩] }, _, by decide +kernel, by decide +kernel, by decide +kernel, by decide +kernel,
    rfl, rfl, rfl⟩

theorem witness_PoolSnoops_6 : ∃ (line : Nat) (s : State) (w : SnoopWait), isPool (64 * line) = true ∧ (dirOf s line).resv = none ∧
    (dirOf s line).pin = none ∧ (dirOf s line).pst = 0 ∧ s.snoops = [w] ∧ w.line = line ∧ w.kind = 0 :=
  ⟨pl, { wPool 0 none with snoops := [⟨pl, 0, 1, false⟩] }, _, by decide +kernel, by decide +kernel, by decide +kernel, by decide +kernel,
    rfl, rfl, rfl⟩

theorem witness_PoolSnoops_7 : ∃ (line : Nat) (s : State) (c : CoreId), isPool (64 * line) = true ∧ (dirOf s line).resv = none ∧
    (dirOf s line).pin = some c ∧ (∀ d ∈ s.agenda, d.act ≠ .snoopPinTimeout line) :=
  ⟨pl, wPool 2 (some 0), 0, by decide +kernel, by decide +kernel, by decide +kernel, (fun _ h => nomatch h)⟩

theorem witness_PoolSnoops_8 : ∃ (line : Nat) (s : State) (c : CoreId) (w : SnoopWait), isPool (64 * line) = true ∧
    (dirOf s line).resv = none ∧ (dirOf s line).pin = some c ∧ (∀ d ∈ s.agenda, d.act ≠ .snoopPinTimeout line) ∧ s.snoops = [w] ∧
    w.line = line ∧ w.kind = 0 :=
  ⟨pl, { wPool 2 (some 0) with snoops := [⟨pl, 0, 1, true⟩] }, 0, _, by decide +kernel, by decide +kernel, by decide +kernel,
    (fun _ h => nomatch h), rfl, rfl, rfl⟩

theorem witness_PoolSnoops_9 : ∃ (line : Nat) (s : State), (dirOf s line).resv = none ∧ (dirOf s line).pin = some s.core.id ∧
    (∃ w ∈ s.snoops, w.line = line ∧ w.since + 24000 ≤ s.now) ∧ s.core.commit = none :=
  ⟨pl, { wPool 2 (some 0) with now := 24001, snoops := [⟨pl, 0, 1, false⟩] }, by decide +kernel, by decide +kernel, by decide +kernel, rfl⟩

theorem witness_PoolFailures_1 : ∃ (line : Nat) (s : State), (dirOf s line).psn = false ∧ (dirOf s line).resv = none ∧ s.waiters = [] ∧
    s.closes = [] ∧ s.tmq = [] :=
  ⟨pl, wPool 2 none, by decide +kernel, by decide +kernel, rfl, rfl, rfl⟩

theorem witness_PoolFailures_2 : ∃ (line : Nat) (s : State) (c : CoreId), (dirOf s line).resv = some c :=
  ⟨3, dirW 3 (fun d => { d with resv := some 0 }) wPg, 0, by decide +kernel⟩

theorem witness_PoolFailures_3 : ∃ (home : Nat) (s : State), home < 128 :=
  ⟨127, wDom, by decide⟩

theorem witness_PoolFailures_4 : ∃ (p : Nat) (s : State) (l : Nat) (d : Dir), p < 8 ∧ (∀ x, s.ports[p]? = some x → x.up = true) ∧
    (∀ c ∈ allCores s, c.commit = none) ∧ (∀ l w, .wr l w ∈ s.ptx → Claims.onPort p l = true → w = .evict ∨ w = .full) ∧
    (s.dir.map (·.1)).Nodup ∧ s.waiters = [] ∧ s.closes = [] ∧ s.tmq = [] ∧ Claims.onPort p l = true ∧ findKey s.dir l = some d ∧
    d.pst = 4 :=
  ⟨0, { wPool 4 (some 0) with ptx := [.wr pl .evict, .rd 9 true] }, pl, _, by decide, (fun x h => by cases h; rfl), by decide +kernel,
    onlyEvict, by decide +kernel, rfl, rfl, rfl, by decide +kernel, rfl, rfl⟩

theorem witness_PoolFailures_5 : ∃ (p : Nat) (s : State) (m : Commit) (l : Nat), p < 8 ∧ (∀ x, s.ports[p]? = some x → x.up = true) ∧
    s.core.commit = some m ∧ m.t = none ∧ (∀ c ∈ s.others, c.commit = none) ∧ l ∈ writeSet s.core ∧ Claims.onPort p l = true ∧
    s.ptx = [] ∧ s.waiters = [] ∧ s.closes = [] ∧ s.tmq = [] :=
  ⟨0, wPoolCommit, _, pl, by decide, (fun x h => by cases h; rfl), rfl, rfl, by decide +kernel, by decide +kernel, by decide +kernel, rfl,
    rfl, rfl, rfl⟩

theorem witness_PoolFailures_6 : ∃ (p : Nat) (s : State), p < 8 :=
  ⟨7, wPg, by decide⟩

theorem witness_InboundTraffic_1 : ∃ (link : Nat) (off : BitVec 36) (bs : List Byte) (s : State), s.host.inq = [] ∧
    s.host.busyTil ≤ s.now ∧ bs ≠ [] ∧ tlpOk link (bar2Pa s off) bs.length = true ∧ Memory.wf s = true ∧
    dropCode s (bar2Pa s off) bs.length = none ∧
    (∀ l ∈ linesOf (bar2Pa s off) bs.length, lineReady s l (fullLine (bar2Pa s off) bs.length l) none = .ok) :=
  ⟨3, 0x803E, [1, 2, 3, 4], wPg, rfl,
    by refine ⟨?_, ?_, ?_, ?_, ?_, ?_⟩ <;> decide +kernel⟩

theorem witness_InboundTraffic_2 : ∃ (link : Nat) (off : BitVec 36) (bs : List Byte) (s : State) (c : Nat), s.host.inq = [] ∧
    s.host.busyTil ≤ s.now ∧ bs ≠ [] ∧ tlpOk link (bar2Pa s off) bs.length = true ∧ Memory.wf s = true ∧
    dropCode s (bar2Pa s off) bs.length = some c :=
  ⟨0, 0x4000, [1], wRec 2, 6, rfl,
    by refine ⟨?_, ?_, ?_, ?_, ?_⟩ <;> decide +kernel⟩

theorem witness_InboundTraffic_3 : ∃ (link : Nat) (off : BitVec 36) (bs : List Byte) (s : State) (c : Nat), s.host.inq = [] ∧
    s.host.busyTil ≤ s.now ∧ bs ≠ [] ∧ tlpOk link (bar2Pa s off) bs.length = true ∧ Memory.wf s = true ∧
    dropCode s (bar2Pa s off) bs.length = some c :=
  ⟨0, 0, [1], { wPg with host := { wPg.host with apbase := 31 } }, 9, rfl,
    by refine ⟨?_, ?_, ?_, ?_, ?_⟩ <;> decide +kernel⟩

theorem witness_InboundTraffic_4 : ∃ (link : Nat) (off : BitVec 36) (n : Nat) (s : State), s.host.inq = [] ∧ link < 4 ∧ 1 ≤ n ∧
    paMapped (bar2Pa s off) = true ∧ paMapped (bar2Pa s off + n - 1) = true ∧ (∀ l ∈ linesOf (bar2Pa s off) n, engServes s l = .ok ()) :=
  ⟨3, 0x8000, 64, wPg, rfl, by decide, by decide, by decide +kernel, by decide +kernel, allServe (by decide +kernel)⟩

theorem witness_InboundTraffic_5 : ∃ (n fl : BitVec 32) (s : State), s.host.inq = [] ∧ s.host.busyTil ≤ s.now ∧
    s.host.caddr.toNat % 16 = 0 ∧ paMapped s.host.caddr.toNat = true ∧ lineReady s (s.host.caddr.toNat / 64) false none = .ok ∧
    s.waiters = [] ∧ Memory.wf s = true ∧ addRefused s s.host.caddr.toNat n.toNat = false :=
  ⟨3, 1, { wPg with host := { wPg.host with caddr := 0x40000000 } }, rfl, by decide +kernel, by decide +kernel, by decide +kernel,
    by decide +kernel, rfl, by decide +kernel, by decide +kernel⟩

theorem witness_Maintenance_1 : ∃ (d : BitVec 256) (s : State), d.extractLsb' 59 5 = (0 : BitVec 5) ∧
    d.extractLsb' 128 128 = (0 : BitVec 128) ∧ d.extractLsb' 57 2 = (3 : BitVec 2) :=
  ⟨BitVec.ofNat 256 (3 * 2 ^ 57 + 0x40000000 * 2 ^ 64), wPg,
    by refine ⟨?_, ?_, ?_⟩ <;> decide⟩

theorem witness_Maintenance_2 : ∃ (d : BitVec 256) (s : State) (b va : Nat), d.extractLsb' 59 5 = (0 : BitVec 5) ∧
    d.extractLsb' 128 128 = (0 : BitVec 128) ∧ d.extractLsb' 57 2 ≠ (3 : BitVec 2) ∧ b = sizeBits (d.extractLsb' 57 2 : BitVec 2).toNat ∧
    va = (d.extractLsb' 0 57 : BitVec 57).toNat :=
  ⟨BitVec.ofNat 256 (2 ^ 57 + 0x8000 + 0x40000000 * 2 ^ 64), wPg, 21, 0x8000,
    by refine ⟨?_, ?_, ?_, ?_, ?_⟩ <;> decide +kernel⟩

theorem witness_Maintenance_3 : ∃ (ctr : Nat) (s : State) (v : Inval), s.invals = [v] ∧ v.ctr = ctr ∧ ctr % 16 = 0 ∧ ctr ≠ 0 ∧
    paMapped ctr = true ∧ (∀ c ∈ allCores s, c.stale = false) :=
  ⟨0x40000000, { wPg with invals := [⟨0, 16, true, 0x40000000⟩] }, _, rfl, rfl,
    by refine ⟨?_, ?_, ?_, ?_⟩ <;> decide +kernel⟩

theorem witness_Maintenance_4 : ∃ (ctr : Nat) (s : State) (v : Inval), s.invals = [v] ∧ v.ctr = ctr ∧ ctr % 16 = 0 ∧ ctr ≠ 0 ∧
    paMapped ctr = true ∧ (∃ c ∈ allCores s, c.stale = true) :=
  ⟨0x40000000, { mapCore (fun c => { c with stale := true }) wPg with invals := [⟨0, 16, true, 0x40000000⟩] }, _, rfl, rfl,
    by refine ⟨?_, ?_, ?_, ?_⟩ <;> decide +kernel⟩

theorem witness_Maintenance_5 : ∃ (d : BitVec 128) (s : State), d.extractLsb' 60 4 = (0 : BitVec 4) ∧
    d.extractLsb' 57 2 ≠ (3 : BitVec 2) ∧ SMap.wf false s.locks = true ∧ d.getLsbD 59 = false :=
  ⟨65536, { wPg with locks := [(1, true)] },
    by refine ⟨?_, ?_, ?_, ?_⟩ <;> decide +kernel⟩

theorem witness_Maintenance_6 : ∃ (d : BitVec 128) (s : State), d.extractLsb' 60 4 = (0 : BitVec 4) ∧
    d.extractLsb' 57 2 ≠ (3 : BitVec 2) ∧ SMap.wf false s.locks = true ∧ d.getLsbD 59 = true :=
  ⟨576460752303489024, { wPg with locks := [(1, true)] },
    by refine ⟨?_, ?_, ?_, ?_⟩ <;> decide +kernel⟩

theorem witness_Maintenance_7 : ∃ (ctr : Nat) (s : State) (r : LockReq), s.lockreqs = [r] ∧ r.ctr = ctr ∧ (ctr = 0 ∨ (ctr % 16 = 0 ∧
    paMapped ctr = true)) ∧ (r.unlock = true ∨ pageReserved s r = false) :=
  ⟨0, { wPg with lockreqs := [⟨0, 16, false, 0⟩] }, _, rfl, rfl, by decide +kernel, by decide +kernel⟩

theorem witness_Maintenance_8 : ∃ (ctr : Nat) (s : State) (r : LockReq), s.lockreqs = [r] ∧ r.ctr = ctr ∧ (ctr = 0 ∨ (ctr % 16 = 0 ∧
    paMapped ctr = true)) ∧ (r.unlock = true ∨ pageReserved s r = false) :=
  ⟨1073741824, { wPg with lockreqs := [⟨0, 16, false, 1073741824⟩] }, _, rfl, rfl, by decide +kernel, by decide +kernel⟩

theorem witness_Maintenance_9 : ∃ (ctr : Nat) (s : State) (r : LockReq), s.lockreqs = [r] ∧ r.ctr = ctr ∧ (ctr = 0 ∨ (ctr % 16 = 0 ∧
    paMapped ctr = true)) ∧ r.unlock = false ∧ pageReserved s r = true :=
  ⟨0, { dirW 3 (fun d => { d with resv := some 0 }) wPg with lockreqs := [⟨0, 16, false, 0⟩] }, _, rfl, rfl, by decide +kernel, rfl,
    by decide +kernel⟩

theorem witness_HostRegisters_1 : ∃ (w : Word) (s : State), w.getLsbD 0 = true :=
  ⟨1, wPg, by decide⟩

theorem witness_HostRegisters_2 : ∃ (w : Word) (s : State), w.getLsbD 0 = false :=
  ⟨2, wPg, by decide⟩

theorem witness_HostRegisters_3 : ∃ (off : BitVec 16) (w : Word) (s : State),
    (off.toNat % 8 ≠ 0 ∨ off = 0 ∨ off = 0x10 ∨ off = 0x28 ∨ off = 0x38 ∨ 0x3180 ≤ off.toNat) :=
  ⟨0, 5, wPg, by decide⟩

theorem witness_HostRegisters_4 : ∃ (off : BitVec 16) (w : Word) (s : State),
    (off.toNat % 8 ≠ 0 ∨ off = 0 ∨ off = 0x10 ∨ off = 0x28 ∨ off = 0x38 ∨ 0x3180 ≤ off.toNat) :=
  ⟨0x10, 5, wPg, by decide⟩

theorem witness_HostRegisters_5 : ∃ (off : BitVec 16) (w : Word) (s : State),
    (off.toNat % 8 ≠ 0 ∨ off = 0 ∨ off = 0x10 ∨ off = 0x28 ∨ off = 0x38 ∨ 0x3180 ≤ off.toNat) :=
  ⟨0x28, 5, wPg, by decide⟩

theorem witness_HostRegisters_6 : ∃ (off : BitVec 16) (w : Word) (s : State),
    (off.toNat % 8 ≠ 0 ∨ off = 0 ∨ off = 0x10 ∨ off = 0x28 ∨ off = 0x38 ∨ 0x3180 ≤ off.toNat) :=
  ⟨0x38, 5, wPg, by decide⟩

theorem witness_HostRegisters_7 : ∃ (off : BitVec 16) (w : Word) (s : State),
    (off.toNat % 8 ≠ 0 ∨ off = 0 ∨ off = 0x10 ∨ off = 0x28 ∨ off = 0x38 ∨ 0x3180 ≤ off.toNat) :=
  ⟨0x3180, 5, wPg, by decide⟩

theorem witness_HostRegisters_8 : ∃ (off : BitVec 16) (w : Word) (s : State),
    (off.toNat % 8 ≠ 0 ∨ off = 0 ∨ off = 0x10 ∨ off = 0x28 ∨ off = 0x38 ∨ 0x3180 ≤ off.toNat) :=
  ⟨0x21, 5, wPg, by decide⟩

theorem witness_HostRegisters_9 : ∃ (off : BitVec 16) (w : Word) (s : State),
    (off.toNat % 8 ≠ 0 ∨ off = 0 ∨ off = 0x10 ∨ off = 0x28 ∨ off = 0x38 ∨ 0x3180 ≤ off.toNat) :=
  ⟨0x47, 5, wPg, by decide⟩

theorem witness_HostRegisters_10 : ∃ (i : Nat) (w : Word) (s : State), i < 16 ∧ w.getLsbD 63 = true ∧
    (w.setWidth 57 : BitVec 57).toNat % 16 = 0 ∧ paMapped (w.setWidth 57 : BitVec 57).toNat = true ∧
    poisoned s ((w.setWidth 57 : BitVec 57).toNat / 64) = false ∧
    ctrMet s (w.setWidth 57 : BitVec 57).toNat (watchOf s i).thr.toNat true = false :=
  ⟨15, 0x8000000040000000, { wPg with host := { wPg.host with watches := Vector.replicate 16 ⟨0, false, 5⟩ } },
    by refine ⟨?_, ?_, ?_, ?_, ?_, ?_⟩ <;> decide +kernel⟩

theorem witness_HostRegisters_11 : ∃ (i : Nat) (w : Word) (s : State), i < 16 ∧ w.getLsbD 63 = true ∧
    (w.setWidth 57 : BitVec 57).toNat % 16 = 0 ∧ paMapped (w.setWidth 57 : BitVec 57).toNat = true ∧
    poisoned s ((w.setWidth 57 : BitVec 57).toNat / 64) = false ∧
    ctrMet s (w.setWidth 57 : BitVec 57).toNat (watchOf s i).thr.toNat true = true :=
  ⟨15, 0x8000000040000000, wPg,
    by refine ⟨?_, ?_, ?_, ?_, ?_, ?_⟩ <;> decide +kernel⟩

theorem witness_ConfigurationSpace_1 : ∃ (s : State) (e : Nat), e = vsecAt + 12 :=
  ⟨wPg, _, rfl⟩

theorem witness_ConfigurationSpace_2 : ∃ (k : Nat) (s : State), k = 0 :=
  ⟨0, wPg, by decide⟩

theorem witness_ConfigurationSpace_3 : ∃ (k : Nat) (s : State), k ≠ 0 :=
  ⟨3, wPg, by decide⟩

theorem witness_HostRegisters_12 : ∃ (i : Nat) (s : State), i < 16 ∧ (watchOf s i).en = false :=
  ⟨15, wWatch false, by decide, by decide +kernel⟩

theorem witness_HostRegisters_13 : ∃ (i : Nat) (w : Word) (s : State), i < 16 ∧ (watchOf s i).en = true ∧
    (watchOf s i).addr.toNat % 16 = 0 ∧ paMapped (watchOf s i).addr.toNat = true ∧ poisoned s ((watchOf s i).addr.toNat / 64) = false ∧
    ctrMet s (watchOf s i).addr.toNat w.toNat true = false :=
  ⟨15, 1, wWatch true,
    by refine ⟨?_, ?_, ?_, ?_, ?_, ?_⟩ <;> decide +kernel⟩

theorem witness_HostRegisters_14 : ∃ (i : Nat) (w : Word) (s : State), i < 16 ∧ (watchOf s i).en = true ∧
    (watchOf s i).addr.toNat % 16 = 0 ∧ paMapped (watchOf s i).addr.toNat = true ∧ poisoned s ((watchOf s i).addr.toNat / 64) = false ∧
    ctrMet s (watchOf s i).addr.toNat w.toNat true = true :=
  ⟨15, 0, wWatch true,
    by refine ⟨?_, ?_, ?_, ?_, ?_, ?_⟩ <;> decide +kernel⟩

theorem witness_Resets_1 : ∃ (s : State), s.host.inq = [] :=
  ⟨wDom, rfl⟩

theorem witness_Resets_2 : ∃ (s : State), s.host.inq = [] :=
  ⟨{ wPg with ctl := { wPg.ctl with bringUp := true } }, rfl⟩

theorem witness_Resets_3 : ∃ (s : State), s.host.inq = [] ∧ (∀ c ∈ allCores s, c.commit = none) ∧ (∀ l k, PoolTx.wr l (.copy k) ∉ s.ptx) :=
  ⟨wDom, rfl, by decide +kernel, (fun _ _ h => nomatch h)⟩

theorem witness_Controller_1 : ∃ (i : Instr) (s : State), Claims.byController i = true ∧ s.ctl.abavas = false :=
  ⟨.abavasTakeover, { wPg with ctl := { wPg.ctl with abavas := false } }, rfl, rfl⟩

theorem witness_Controller_2 : ∃ (i : Instr) (s : State), Claims.byController i = true ∧ s.ctl.abavas = false :=
  ⟨.throttling, { wPg with ctl := { wPg.ctl with abavas := false } }, rfl, rfl⟩

theorem witness_Controller_3 : ∃ (i : Instr) (s : State), Claims.byController i = true ∧ s.ctl.abavas = false :=
  ⟨.getVersion, { wPg with ctl := { wPg.ctl with abavas := false } }, rfl, rfl⟩

theorem witness_Controller_4 : ∃ (i : Instr) (s : State), Claims.byController i = true ∧ s.ctl.abavas = false :=
  ⟨.getMeasurements 255, { wPg with ctl := { wPg.ctl with abavas := false } }, rfl, rfl⟩

theorem witness_Controller_5 : ∃ (s : State), s.ctl.abavas = true ∧ s.ctl.active ≠ 3 :=
  ⟨wPg, rfl, by decide⟩

theorem witness_Controller_6 : ∃ (s : State), s.ctl.abavas = true ∧ s.ctl.throttled = false :=
  ⟨wPg, rfl, rfl⟩

theorem witness_Controller_7 : ∃ (i : Instr) (s : State), Claims.spdmRequest i = true ∧ s.ctl.abavas = true :=
  ⟨.getCapabilities, wPg, rfl, rfl⟩

theorem witness_Controller_8 : ∃ (i : Instr) (s : State), Claims.spdmRequest i = true ∧ s.ctl.abavas = true :=
  ⟨.negotiateAlgorithms 5, wPg, rfl, rfl⟩

theorem witness_Controller_9 : ∃ (i : Instr) (s : State), Claims.spdmRequest i = true ∧ s.ctl.abavas = true :=
  ⟨.getDigests, wPg, rfl, rfl⟩

theorem witness_Controller_10 : ∃ (i : Instr) (s : State), Claims.spdmRequest i = true ∧ s.ctl.abavas = true :=
  ⟨.getCertificate 0 0 16, wPg, rfl, rfl⟩

theorem witness_Controller_11 : ∃ (i : Instr) (s : State), Claims.spdmRequest i = true ∧ s.ctl.abavas = true :=
  ⟨.challenge 0 5, wPg, rfl, rfl⟩

theorem witness_Controller_12 : ∃ (i : Instr) (s : State), Claims.spdmRequest i = true ∧ s.ctl.abavas = true :=
  ⟨.getMeasurements 255, wPg, rfl, rfl⟩

theorem witness_Controller_13 : ∃ (k : BitVec 8) (s : State), s.ctl.abavas = true ∧ k = 255 :=
  ⟨255, wPg, rfl, by decide⟩

theorem witness_Controller_14 : ∃ (k : BitVec 8) (s : State), s.ctl.abavas = true ∧ 1 ≤ k ∧ k ≤ 5 :=
  ⟨1, wPg, rfl, by decide, by decide⟩

theorem witness_Controller_15 : ∃ (k : BitVec 8) (s : State), s.ctl.abavas = true ∧ 1 ≤ k ∧ k ≤ 5 :=
  ⟨5, wPg, rfl, by decide, by decide⟩

theorem witness_StepsRunDecoded_1 : ∃ (s s1 u : State) (c : CoreId) (rest : List CoreId) (b : Vec) (k : Nat) (i : Instr),
    takeDue s.now s.agenda = none ∧ s.turn = c :: rest ∧ mayIssue (focus c { s with turn := rest }) = true ∧
    fetchBundle (Claims.issuing c rest s) = .ok (b, s1) ∧ decodeBundle b = .ok 0 [(k, i)] ∧ ownCheckpoint i = false ∧
    lacks (isL s1.core.id) i = false ∧ exec i (Claims.slotState b k s1) = .next u ∧ Claims.clean u ∧ endCause u (sylOf b 0) = none :=
  ⟨wIss w1 0x0100420C00000000, _, _, 0, [], _, 0, .add ⟨1, 2, 3, 0⟩, rfl, rfl, by decide +kernel, ok2 (by decide +kernel),
    by decide +kernel, rfl, by decide +kernel, (nx1 (by decide +kernel)), ⟨by decide +kernel, by decide +kernel, by decide +kernel⟩,
    by decide +kernel⟩

theorem witness_StepsRunDecoded_2 : ∃ (s s1 u : State) (c : CoreId) (rest : List CoreId) (b : Vec) (k : Nat) (i : Instr),
    takeDue s.now s.agenda = none ∧ s.turn = c :: rest ∧ mayIssue (focus c { s with turn := rest }) = true ∧
    fetchBundle (Claims.issuing c rest s) = .ok (b, s1) ∧ decodeBundle b = .ok 0 [(k, i)] ∧ ownCheckpoint i = false ∧
    lacks (isL s1.core.id) i = false ∧ exec i (Claims.slotState b k s1) = .next u ∧ ∃ x, u.ctx.cause = some x :=
  ⟨wIss wTrap 0x3800000000000042, _, _, 0, [], _, 0, .trap ⟨0, 0, 0x42⟩, rfl, rfl, by decide +kernel, ok2 (by decide +kernel),
    by decide +kernel, rfl, by decide +kernel, (nx1 (by decide +kernel)), _, some1 (by decide +kernel)⟩

theorem witness_StepsRunDecoded_3 : ∃ (s s1 : State) (c : CoreId) (rest : List CoreId) (b : Vec) (k : Nat) (i : Instr),
    takeDue s.now s.agenda = none ∧ s.turn = c :: rest ∧ mayIssue (focus c { s with turn := rest }) = true ∧
    fetchBundle (Claims.issuing c rest s) = .ok (b, s1) ∧ decodeBundle b = .ok 0 [(k, i)] ∧ ownCheckpoint i = false ∧
    lacks (isL s1.core.id) i = false :=
  ⟨wIss w1 0x0100420C00000000, _, 0, [], _, 0, .add ⟨1, 2, 3, 0⟩, rfl, rfl, by decide +kernel, ok2 (by decide +kernel), by decide +kernel,
    rfl, by decide +kernel⟩

theorem witness_StepsRunDecoded_4 : ∃ (s s1 u v : State) (c : CoreId) (rest : List CoreId) (b : Vec) (k l : Nat) (i j : Instr),
    takeDue s.now s.agenda = none ∧ s.turn = c :: rest ∧ mayIssue (focus c { s with turn := rest }) = true ∧
    fetchBundle (Claims.issuing c rest s) = .ok (b, s1) ∧ decodeBundle b = .ok 0 [(k, i), (l, j)] ∧ ownCheckpoint i = false ∧
    ownCheckpoint j = false ∧ lacks (isL s1.core.id) i = false ∧ lacks (isL s1.core.id) j = false ∧
    exec i (Claims.slotState b k s1) = .next u ∧ Claims.clean u ∧ exec j (Claims.slotState b l u) = .next v ∧ Claims.clean v ∧
    endCause v (sylOf b 0) = none :=
  ⟨wIss w1 (0x0100420C00000000 + 0x0105187000C00010 * 2 ^ 256), _, _, _, 0, [], _, 0, 4, .add ⟨1, 2, 3, 0⟩, .ld ⟨5, 6, 7, 0, 0, 0, 0, 3,
    16⟩, rfl, rfl, by decide +kernel, ok2 (by decide +kernel), by decide +kernel, rfl, rfl, by decide +kernel, by decide +kernel,
    (nx1 (by decide +kernel)), ⟨by decide +kernel, by decide +kernel, by decide +kernel⟩, (nx1 (by decide +kernel)), ⟨by decide +kernel,
    by decide +kernel, by decide +kernel⟩, by decide +kernel⟩

theorem witness_StepsRunDecoded_5 : ∃ (s : State) (d : Due) (rest : List Due), takeDue s.now s.agenda = some (d, rest) ∧
    d.act.slot = none ∧ d.act.isStep = false :=
  ⟨{ wPg with now := 9, agenda := [⟨10, .coldReset⟩, ⟨9, .throttling⟩] }, _, _, rfl, rfl, rfl⟩

theorem witness_StepsRunDecoded_6 : ∃ (s : State) (c : Coll) (rest : List Nat) (i : Instr), takeDue s.now s.agenda = none ∧ s.turn = [] ∧
    s.wturn = c.tag :: rest ∧ collOf { s with wturn := rest } c.tag = some c ∧ c.aborting = none ∧ c.steps[c.pc]? = some i ∧
    i.isStep = true :=
  ⟨{ wCo co with turn := [], wturn := [5] }, co, [], _, rfl, rfl, rfl, rfl, rfl, rfl, rfl⟩

theorem witness_StepsRunDecoded_7 : ∃ (s : State), takeDue s.now s.agenda = none ∧ s.turn = [] ∧ s.wturn = [] :=
  ⟨State.reset, rfl, rfl, rfl⟩

theorem witness_DecodeAndEncodeAgree_1 : ∃ (i : Instr) (k : Nat), i.slot = some k ∧ i.wf = true :=
  ⟨.gst ⟨8, 3, 4, 2, 0, 0, 0, 0, 0⟩, 5, rfl, rfl⟩

theorem witness_DecodeAndEncodeAgree_2 : ∃ (i : Instr), i.isStep = true ∧ i.wf = true :=
  ⟨.wsend ⟨1, 0, 1, 0, 1, 0⟩, rfl, rfl⟩

theorem witness_DecodeAndEncodeAgree_3 : ∃ (i : Instr) (k : Nat) (w : Word), k < 8 ∧ decodeSyl k w = .instr i :=
  ⟨.add ⟨1, 2, 3, 0⟩, 0, 0x0110420C00000000, by decide, by decide +kernel⟩

theorem witness_DecodeAndEncodeAgree_4 : ∃ (i : Instr) (w : Word), decodeStep w = some i :=
  ⟨.wsend ⟨1, 0, 1, 0, 1, 0⟩, 0x0140000440000000, by decide +kernel⟩

theorem witness_MemoryStaysCanonical_1 : ∃ s t : State, Memory.wf s = true ∧ step s = .next t :=
  ⟨wIss w1 0x0100420C00000000, _, by decide +kernel, (nx1 (by decide +kernel))⟩

theorem witness_CanonicalMapsKept_1 : ∃ s t : State, Claims.canonical s ∧ step s = .next t :=
  ⟨wIss w1 0x0100420C00000000, _, wIss_canonical, (nx1 (by decide +kernel))⟩

theorem witness_BoundsKept_1 : ∃ s t : State, Claims.bounds s ∧ step s = .next t :=
  ⟨wIss w1 0x0100420C00000000, _, wIss_bounds, (nx1 (by decide +kernel))⟩

theorem witness_IssueWritesNoMemory_1 : ∃ (i : Instr) (k : Nat) (s t : State), i.slot = some k ∧ exec i s = .next t :=
  ⟨.st ⟨8, 3, 4, 0, 0, 0, 0, 3, 0⟩, 5, wPg, _, rfl, (nx1 (by decide +kernel))⟩

end Sys2Proof.Tests
end

section
/-! SUPPORT. Memory under every step (O56). Three kinds of lemma, one for each function of the model that `step` reaches: `f_mem` says that
`f` leaves memory alone, `op_leaves` that the state in an operation's answer has the memory it began with, and `f_canon` that `f`, which may
write memory, keeps its canonical form. The lemmas stand in the order of the model's files; those about the model's own combinators, which
take functions on states, take the property of the functions as a hypothesis. -/

namespace Sys2Proof.Machine

/-! ### The two predicates, and how they pass through the combinators -/

/-- The map of memory is in its canonical form. -/
def Canon (m : SMap Byte) : Prop := SMap.wf 0 m = true

/-- Whatever the computation answers, the state in its answer has the memory `m`. -/
def Leaves {ε β : Type} (st : β → State) (m : SMap Byte) (r : Except ε β) : Prop := ∀ b, r = .ok b → (st b).mem = m

@[simp] theorem leaves_ok {ε β : Type} (st : β → State) (m : SMap Byte) (b : β) : Leaves st m (.ok b : Except ε β) ↔ (st b).mem = m :=
  ⟨fun h => h b rfl, fun h _ e => Except.ok.inj e ▸ h⟩

@[simp] theorem leaves_error {ε β : Type} (st : β → State) (m : SMap Byte) (e : ε) : Leaves st m (.error e : Except ε β) :=
  fun _ h => nomatch h

/-- A step that carries no state. -/
@[simp] theorem leaves_bind {ε α β : Type} {st : β → State} {m : SMap Byte} {x : Except ε α} {f : α → Except ε β} :
    Leaves st m (x >>= f) ↔ ∀ a, x = .ok a → Leaves st m (f a) := by
  cases x with
  | ok a => exact ⟨fun h b e => Except.ok.inj e ▸ h, fun h => h a rfl⟩
  | error e => exact ⟨fun _ _ h => (nomatch h), fun _ => leaves_error st m e⟩

/-- A step that hands on a state. -/
@[simp high] theorem leaves_bind_state {ε α β : Type} {st : β → State} {m : SMap Byte} {x : Except ε (α × State)}
    {f : α × State → Except ε β} (hx : Leaves Prod.snd m x) :
    Leaves st m (x >>= f) ↔ ∀ a u, u.mem = m → x = .ok (a, u) → Leaves st m (f (a, u)) :=
  leaves_bind.trans ⟨fun h a u _ e => h (a, u) e, fun h p e => h p.1 p.2 (hx p e) e⟩

/-- A step whose answer is the state. -/
@[simp high] theorem leaves_bind_self {ε β : Type} {st : β → State} {m : SMap Byte} {x : Except ε State} {f : State → Except ε β}
    (hx : Leaves id m x) : Leaves st m (x >>= f) ↔ ∀ u, u.mem = m → x = .ok u → Leaves st m (f u) :=
  leaves_bind.trans ⟨fun h u _ e => h u e, fun h u e => h u (hx u e) e⟩

@[simp] theorem leaves_ite {ε β : Type} {st : β → State} {m : SMap Byte} {p : Prop} [Decidable p] {x y : Except ε β} :
    Leaves st m (if p then x else y) ↔ (p → Leaves st m x) ∧ (¬p → Leaves st m y) := by split <;> simp [*]

@[simp] theorem leaves_gather {β : Type} {st : β → State} {m : SMap Byte} {r : Res β} {cs : List (Option Stop)} :
    Leaves st m (gather r cs) ↔ Leaves st m r := by simp only [Leaves, gather_ok]

@[simp] theorem leaves_liftMem {β : Type} {st : β → State} {m : SMap Byte} {s : State} {x : Except MemErr β} :
    Leaves st m (liftMem s x) ↔ Leaves st m x := by
  cases x with
  | ok a => simp [liftMem]
  | error e => exact ⟨fun _ => leaves_error st m e, fun _ b h => nomatch (liftMem_ok h)⟩

@[simp] theorem leaves_raise {β : Type} (st : β → State) (m : SMap Byte) (s : State) (c : Nat) (w : Word) :
    Leaves st m (raise s c w : Res β) :=
  leaves_error st m _
@[simp] theorem leaves_memStop {β : Type} (st : β → State) (m : SMap Byte) (s : State) (e : MemErr) : Leaves st m (memStop s e : Res β) :=
  fun _ h => nomatch liftMem_ok (x := .error e) h

@[simp] theorem coreXlate_leaves {m : SMap Byte} {acc : Acc} {va : Nat} {s : State} (h : s.mem = m) :
    Leaves Prod.snd m (coreXlate acc va s) :=
  fun _ e => (coreXlate_reads e).mem.trans h
@[simp] theorem lookupTlb_leaves {m : SMap Byte} {va : Nat} {s : State} (h : s.mem = m) : Leaves Prod.snd m (lookupTlb s va) :=
  fun _ e => (lookupTlb_reads e).mem.trans h
@[simp] theorem xlateW_leaves {m : SMap Byte} {acc : Acc} {va : Nat} {s : State} (h : s.mem = m) : Leaves Prod.snd m (xlateW acc va s) :=
  fun _ e => (xlateW_reads e).mem.trans h
@[simp] theorem globalReadWith_leaves {m : SMap Byte} {acc : Acc} {chk : Bool} {ex : List MemErr} {l : List (Nat × Nat)} {s : State}
    (h : s.mem = m) : Leaves Prod.snd m (globalReadWith acc chk ex l s) :=
  fun _ e => (globalReadWith_reads e).mem.trans h
@[simp] theorem globalRead_leaves {m : SMap Byte} {l : List (Nat × Nat)} {s : State} (h : s.mem = m) :
    Leaves Prod.snd m (globalRead l s) :=
  globalReadWith_leaves h
@[simp] theorem globalRead1_leaves {m : SMap Byte} {va n : Nat} {s : State} (h : s.mem = m) : Leaves Prod.snd m (globalRead1 va n s) :=
  fun _ e => (globalRead1_reads e).mem.trans h
@[simp] theorem holdAll_leaves {m : SMap Byte} {ps : List Held} {s : State} (h : s.mem = m) : Leaves id m (holdAll ps s) :=
  fun _ e => by rw [(holdAll_ok e).1]; exact h

@[simp] theorem canon_ite {p : Prop} [Decidable p] {a b : State} :
    Canon (if p then a else b).mem ↔ (p → Canon a.mem) ∧ (¬p → Canon b.mem) := by split <;> simp [*]

@[simp] theorem canon_foldl {β : Type} {f : State → β → State} {l : List β} {s : State} (h : Canon s.mem)
    (hf : ∀ s b, Canon s.mem → Canon (f s b).mem) : Canon (l.foldl f s).mem := by
  induction l generalizing s with
  | nil => exact h
  | cons b t ih => exact ih (hf s b h)

@[simp] theorem canon_wrByte {s : State} (pa : Nat) (b : Byte) (h : Canon s.mem) : Canon (wrByte pa b s).mem := Memory.wf_wrByte pa b h
@[simp] theorem canon_wrBytes {s : State} (pa : Nat) (bs : List Byte) (h : Canon s.mem) : Canon (wrBytes pa bs s).mem :=
  Memory.wf_wrBytes bs pa h
@[simp] theorem canon_wrN {s : State} (pa n v : Nat) (h : Canon s.mem) : Canon (wrN pa n v s).mem := Memory.wf_wrN pa n v h

/-- The next state, if the outcome is one, has the property. -/
def Ends (P : State → Prop) (o : Host.Outcome State Fault Refusal) : Prop := ∀ t, o = .next t → P t

@[simp] theorem ends_next {P : State → Prop} {t : State} : Ends P (.next t) ↔ P t :=
  ⟨fun h => h t rfl, fun h _ e => Host.Outcome.next.inj e ▸ h⟩

@[simp] theorem ends_ite {P : State → Prop} {p : Prop} [Decidable p] {a b : Host.Outcome State Fault Refusal} :
    Ends P (if p then a else b) ↔ (p → Ends P a) ∧ (¬p → Ends P b) := by split <;> simp [*]

theorem SMap.wf_foldl_set {α β : Type} [DecidableEq α] {d : α} {k : β → Nat} {v : β → α} (l : List β) :
    ∀ {m : SMap α}, SMap.wf d m = true → SMap.wf d (l.foldl (fun m e => SMap.set d m (k e) (v e)) m) = true := by
  induction l with
  | nil => exact fun h => h
  | cons e l ih => exact fun h => ih (SMap.wf_set _ _ h)

theorem SMap.wfFrom_filter {α : Type} [DecidableEq α] {d : α} (p : Nat × α → Bool) :
    ∀ {m : SMap α} {lo : Nat}, SMap.wfFrom d lo m = true → SMap.wfFrom d lo (m.filter p) = true
  | [], _, _ => rfl
  | (k, v) :: t, lo, h => by
    simp only [SMap.wfFrom, Bool.and_eq_true, decide_eq_true_eq] at h
    obtain ⟨⟨hk, hv⟩, ht⟩ := h
    have ih := SMap.wfFrom_filter p ht
    rw [List.filter_cons]
    split
    · simp [SMap.wfFrom, hk, ih, hv]
    · exact SMap.wfFrom_mono (by omega) ih

/-! ### Ops -/

@[simp] theorem freshId_mem (s : State) : (freshId s).2.mem = s.mem := by
  simp [freshId]

@[simp] theorem produceS_mem (rd : BitVec 6) (val : Option Word) (first : Nat) (isDiv held : Bool) (s : State) :
    (produceS rd val first isDiv held s).2.mem = s.mem := by
  simp [produceS]

@[simp] theorem freeDelay_mem (s : State) : (freeDelay s).2.mem = s.mem := by
  simp [freeDelay]

@[simp] theorem releaseCore_mem (c : CoreId) (s : State) : (releaseCore c s).mem = s.mem := by
  simp [releaseCore]

@[simp] theorem returnFromHandler_mem (s : State) : (returnFromHandler s).mem = s.mem := by
  simp [returnFromHandler]

/-! ### Flags -/

@[simp] theorem draws_mem (rnd n : Nat) (s : State) : (draws rnd n s).2.mem = s.mem := by
  unfold draws
  split <;> simp

/-! ### Mem -/

@[simp] theorem askPool_mem (tx : PoolTx) (s : State) : (askPool tx s).mem = s.mem := by
  simp [askPool]

@[simp] theorem dropSlice_mem (line : Nat) (s : State) : (dropSlice line s).mem = s.mem := by
  simp [dropSlice]

@[simp] theorem setPst_mem (line p : Nat) (s : State) : (setPst line p s).mem = s.mem := by
  unfold setPst
  split <;> simp

@[simp] theorem touchAll_mem (lines : List Nat) (s : State) : (touchAll lines s).mem = s.mem := by
  simp [touchAll, foldl_mem]

@[simp] theorem grantLease_mem (line pts : Nat) (pinner : Option CoreId) (s : State) : (grantLease line pts pinner s).2.mem = s.mem := by
  unfold grantLease
  dsimp only
  (repeat' split) <;> simp

@[simp] theorem engReads_mem (lines : List Nat) (t : Nat) (s : State) : (engReads lines t s).2.mem = s.mem :=
  foldl_mem _ (by simp) lines s

@[simp] theorem engRead_mem (line t : Nat) (s : State) : (engRead line t s).2.mem = s.mem := by
  simp [engRead]

@[simp] theorem regionLine_leaves {m : SMap Byte} (line : Nat) (rop : Bool) (s : State) (h : s.mem = m) :
    Leaves Prod.snd m (regionLine line rop s) := by
  unfold regionLine
  dsimp only
  (repeat' split) <;> simp [h]

/-! ### Operands -/

@[simp] theorem clearAtEnd_mem (gs : List Nat) (s : State) : (clearAtEnd gs s).mem = s.mem := by
  simp [clearAtEnd]

@[simp] theorem spadRead_leaves {m : SMap Byte} (offs : List Int) (fe : Nat) (info : Word) (s : State) (h : s.mem = m) :
    Leaves Prod.snd m (spadRead offs fe info s) := by
  simp +contextual [spadRead, h, apply_ite State.mem]

@[simp] theorem setPort_mem (k : Nat) (d : BitVec 256) (s : State) : (setPort k d s).mem = s.mem := by
  simp [setPort]

@[simp] theorem popPort_leaves {m : SMap Byte} (k : Nat) (s : State) (h : s.mem = m) : Leaves Prod.snd m (popPort k s) := by
  simp +contextual [popPort, h]

@[simp] theorem pushPort_leaves {m : SMap Byte} (k : Nat) (data : Vec) (cls : Nat) (fl : Flags) (s : State) (h : s.mem = m) :
    Leaves id m (pushPort k data cls fl s) := by
  simp [pushPort, h, apply_ite State.mem]

@[simp] theorem popQueue_leaves {m : SMap Byte} (n : Nat) (s : State) (h : s.mem = m) : Leaves Prod.snd m (popQueue n s) := by
  unfold popQueue
  dsimp only
  (repeat' split) <;> simp [h]

@[simp] theorem popSel_leaves {m : SMap Byte} (sel : BitVec 6) (s : State) (h : s.mem = m) : Leaves Prod.snd m (popSel sel s) := by
  unfold popSel
  split <;> simp +contextual [h]

@[simp] theorem srcVec_leaves {m : SMap Byte} (sel : BitVec 6) (ty : Nat) (s : State) (h : s.mem = m) :
    Leaves Prod.snd m (srcVec sel ty s) := by
  simp [srcVec, h]

@[simp] theorem putVec_leaves {m : SMap Byte} (vd : BitVec 8) (v : Vec) (cls : Nat) (fl : Flags) (s : State) (h : s.mem = m) :
    Leaves id m (putVec vd v cls fl s) := by
  simp [putVec, h]

@[simp] theorem writeHField_mem (h : BitVec 4) (lo w v : Nat) (s : State) : (writeHField h lo w v s).mem = s.mem := by
  simp [writeHField]

/-! ### Engine -/

@[simp] theorem noteBank_mem (bk : Nat) (s : State) : (noteBank bk s).mem = s.mem := by
  simp [noteBank]

@[simp] theorem rollback_saves_mem (pc : BPc) (s : State) : (rollback finishSaves pc s).mem = s.mem :=
  rollback_mem finishSaves_mem pc s
@[simp] theorem rollbackPinned_mem (s : State) : (rollbackPinned s).mem = s.mem := by
  simp [rollbackPinned]

/-! ### Vector -/

@[simp] theorem putLanes_leaves {m : SMap Byte} (f : VF) (w cls : Nat) (r : List Nat × Flags) (s : State) (h : s.mem = m) :
    Leaves id m (putLanes f w cls r s) := by
  simp [putLanes, h]

@[simp] theorem putRounded_leaves {m : SMap Byte} (f : VF) (cls : Nat) (xs : List XV) (fl : Flags) (s : State) (h : s.mem = m) :
    Leaves id m (putRounded f cls xs fl s) := by
  simp [putRounded, h]

@[simp] theorem arith2_leaves {m : SMap Byte} (cls : Nat) (fop : XV → XV → XV × Flags) (iop : Int → Int → Int) (f : VF) (s : State)
    (h : s.mem = m) : Leaves id m (arith2 cls fop iop f s) := by
  simp +contextual [arith2, h]

@[simp] theorem arith1_leaves {m : SMap Byte} (fop : XV → XV) (iop : Int → Int) (f : VF) (s : State) (h : s.mem = m) :
    Leaves id m (arith1 fop iop f s) := by
  simp +contextual [arith1, h]

@[simp] theorem arith3_leaves {m : SMap Byte} (minus : Bool) (f : VF) (s : State) (h : s.mem = m) : Leaves id m (arith3 minus f s) := by
  simp +contextual [arith3, h]

@[simp] theorem trans_leaves {m : SMap Byte} (op : XV → BitVec 32 → Nat × Flags) (f : VF) (s : State) (h : s.mem = m) :
    Leaves id m (trans op f s) := by
  simp +contextual [trans, h]

@[simp] theorem bitOp_leaves {m : SMap Byte} (op : Vec → Vec → Vec) (f : VF) (s : State) (h : s.mem = m) :
    Leaves id m (bitOp op f s) := by
  simp +contextual [bitOp, h]

@[simp] theorem shiftOp_leaves {m : SMap Byte} (op : Nat → Nat → Nat → Nat) (f : VF) (s : State) (h : s.mem = m) :
    Leaves id m (shiftOp op f s) := by
  simp +contextual [shiftOp, h]

@[simp] theorem cmpOp_leaves {m : SMap Byte} (fop : XV → XV → Bool) (iop : Int → Int → Bool) (f : VF) (s : State) (h : s.mem = m) :
    Leaves id m (cmpOp fop iop f s) := by
  simp +contextual [cmpOp, h]

@[simp] theorem vselOp_leaves {m : SMap Byte} (f : VF) (s : State) (h : s.mem = m) : Leaves id m (vselOp f s) := by
  simp +contextual [vselOp, h]

@[simp] theorem vcvtOp_leaves {m : SMap Byte} (f : VF) (s : State) (h : s.mem = m) : Leaves id m (vcvtOp f s) := by
  unfold vcvtOp
  dsimp only
  (repeat' split) <;> simp +contextual [h]

@[simp] theorem vsrndOp_leaves {m : SMap Byte} (f : VF) (s : State) (h : s.mem = m) : Leaves id m (vsrndOp f s) := by
  simp +contextual [vsrndOp, h]

@[simp] theorem vscalOp_leaves {m : SMap Byte} (f : VF) (s : State) (h : s.mem = m) : Leaves id m (vscalOp f s) := by
  simp +contextual [vscalOp, h]

@[simp] theorem redOp_leaves {m : SMap Byte} (node : XV → XV → XV × Flags) (iop : Int → Int → Int) (f : VF) (s : State) (h : s.mem = m) :
    Leaves id m (redOp node iop f s) := by
  simp +contextual [redOp, h]

@[simp] theorem vbcastOp_leaves {m : SMap Byte} (f : VF) (s : State) (h : s.mem = m) : Leaves id m (vbcastOp f s) := by
  simp +contextual [vbcastOp, h]

@[simp] theorem vextrOp_leaves {m : SMap Byte} (f : VF) (s : State) (h : s.mem = m) : Leaves id m (vextrOp f s) := by
  simp +contextual [vextrOp, h]

@[simp] theorem vpermOp_leaves {m : SMap Byte} (f : VF) (s : State) (h : s.mem = m) : Leaves id m (vpermOp f s) := by
  simp +contextual [vpermOp, h]

@[simp] theorem rowOp_leaves {m : SMap Byte} (bk : Nat) (op : EOp) (s : State) (h : s.mem = m) : Leaves id m (rowOp bk op s) := by
  simp [rowOp, h]

@[simp] theorem vmovOp_leaves {m : SMap Byte} (f : VF) (s : State) (h : s.mem = m) : Leaves id m (vmovOp f s) := by
  simp +contextual [vmovOp, h]

@[simp] theorem vzeroOp_leaves {m : SMap Byte} (f : VF) (s : State) (h : s.mem = m) : Leaves id m (vzeroOp f s) := by
  simp [vzeroOp, h]

@[simp] theorem vaccOp_leaves {m : SMap Byte} (wide : Bool) (f : VF) (s : State) (h : s.mem = m) : Leaves id m (vaccOp wide f s) := by
  simp +contextual [vaccOp, h]

@[simp] theorem vbfpnOp_leaves {m : SMap Byte} (f : VF) (s : State) (h : s.mem = m) : Leaves id m (vbfpnOp f s) := by
  simp [vbfpnOp, h]

@[simp] theorem vadamOp_leaves {m : SMap Byte} (f : VF) (s : State) (h : s.mem = m) : Leaves id m (vadamOp f s) := by
  simp +contextual [vadamOp, h]

@[simp] theorem vsgdmOp_leaves {m : SMap Byte} (f : VF) (s : State) (h : s.mem = m) : Leaves id m (vsgdmOp f s) := by
  simp +contextual [vsgdmOp, h]

/-! ### Tmr -/

@[simp] theorem tmrPlace_leaves {m : SMap Byte} (ref : Nat) (s : State) (h : s.mem = m) : Leaves Prod.snd m (tmrPlace ref s) := by
  simp +contextual [tmrPlace, h]

@[simp] theorem readRec_leaves {m : SMap Byte} (ref : Nat) (s : State) (h : s.mem = m) : Leaves Prod.snd m (readRec ref s) := by
  simp +contextual [readRec, h]

@[simp] theorem checkRec_leaves {m : SMap Byte} (ref : Nat) (s : State) (h : s.mem = m) : Leaves Prod.snd m (checkRec ref s) := by
  simp +contextual [checkRec, h]

@[simp] theorem setHeld_leaves {m : SMap Byte} (hs : List Held) (s : State) (h : s.mem = m) : Leaves id m (setHeld hs s) := by
  simp [setHeld, h]

@[simp] theorem popAll_leaves {m : SMap Byte} (ty : Nat) :
    ∀ (l : List (BitVec 6)) (s : State), s.mem = m → Leaves Prod.snd m (popAll ty l s)
  | [], s, h => by simp [popAll, h]
  | v :: t, s, h => by simp +contextual [popAll, h, popAll_leaves ty t]

@[simp] theorem vqntOp_leaves {m : SMap Byte} (f : VF) (s : State) (h : s.mem = m) : Leaves id m (vqntOp f s) := by
  simp +contextual [vqntOp, h]

@[simp] theorem vdqOp_leaves {m : SMap Byte} (f : VF) (s : State) (h : s.mem = m) : Leaves id m (vdqOp f s) := by
  refine leaves_gather.2 (leaves_bind.2 fun hd _ => leaves_bind.2 fun _ _ => leaves_bind.2 fun w _ =>
    (leaves_bind_state (leaves_liftMem.2 (readRec_leaves _ s h))).2 fun r u hu _ => ?_)
  dsimp only
  split
  · simp
  · simp +contextual [hu]

/-! ### Counters -/

@[simp] theorem askOpt_mem (tx : Option PoolTx) (s : State) : (askOpt tx s).mem = s.mem := by
  unfold askOpt
  split <;> simp

@[simp] theorem raiseHc_mem (home t : Nat) (s : State) : (raiseHc home t s).mem = s.mem := by
  simp [raiseHc, apply_ite State.mem]

@[simp] theorem stampLine_mem (line t : Nat) (full : Bool) (s : State) : (stampLine line t full s).mem = s.mem := by
  simp [stampLine, apply_ite State.mem]

@[simp] theorem modDir_mem (line : Nat) (full : Bool) (s : State) : (modDir line full s).mem = s.mem := by
  simp [modDir, apply_ite State.mem]

@[simp] theorem again_mem (i : Instr) (s : State) : (again i s).mem = s.mem := by
  simp [again]

@[simp] theorem whenReady_canon {line : Nat} {full : Bool} {i : Instr} {bad ok : State → State} {s : State} (h : Canon s.mem)
    (hb : ∀ s, Canon s.mem → Canon (bad s).mem) (ho : ∀ s, Canon s.mem → Canon (ok s).mem) :
    Canon (whenReady line full i bad ok s).mem := by
  unfold whenReady
  split <;> simp [h, hb, ho]

@[simp] theorem reportA_mem (tser code : Nat) (info : Word) (s : State) : (reportA tser code info s).mem = s.mem := by
  simp [reportA]

@[simp] theorem reportSrc_mem (src : Source) (code : Nat) (info hostInfo : Word) (s : State) :
    (reportSrc src code info hostInfo s).mem = s.mem := by
  unfold reportSrc
  split <;> simp

@[simp] theorem holdCtr_mem (pa : Nat) (s : State) : (holdCtr pa s).mem = s.mem := by
  simp [holdCtr]

@[simp] theorem nameCtr_mem (pa : Nat) (s : State) : (nameCtr pa s).mem = s.mem := by
  simp [nameCtr]

@[simp] theorem clearWatch_mem (i : Nat) (s : State) : (clearWatch i s).mem = s.mem := by
  simp [clearWatch]

@[simp] theorem tableTime_mem (tab t : Nat) (s : State) : (tableTime tab t s).mem = s.mem := by
  simp [tableTime]

@[simp] theorem startMerge_mem (tab t : Nat) (s : State) : (startMerge tab t s).mem = s.mem := by
  simp [startMerge]

@[simp] theorem clearR0loss_mem (tab e t : Nat) (s : State) : (clearR0loss tab e t s).mem = s.mem := by
  simp [clearR0loss]

@[simp] theorem wakeOne_mem (delay t : Nat) (w : Waiter) (s : State) : (wakeOne delay t w s).mem = s.mem := by
  unfold wakeOne
  split <;> simp

@[simp] theorem wakeCheck_mem (pa t : Nat) (s : State) : (wakeCheck pa t s).mem = s.mem := by
  simp [wakeCheck, freeDelay, apply_ite State.mem, foldl_mem]

@[simp] theorem overflowCheck_mem (n : Nat) (s : State) : (overflowCheck n s).mem = s.mem := by
  simp [overflowCheck, apply_ite State.mem]

@[simp] theorem registerWaiter_mem (w : Waiter) (s : State) : (registerWaiter w s).2.mem = s.mem := by
  unfold registerWaiter
  dsimp only
  split <;> simp

@[simp] theorem addCounter_canon (pa : Nat) (va : Word) (n fl : Nat) (src : Source) (t : Nat) (s : State) (h : Canon s.mem) :
    Canon (addCounter pa va n fl src t s).mem := by
  unfold addCounter
  cases src <;> simp [h]

@[simp] theorem flagCounter_canon (pa b t : Nat) (s : State) (h : Canon s.mem) : Canon (flagCounter pa b t s).mem := by
  simp [flagCounter, h]

@[simp] theorem ceilCounter_canon (pa : Nat) (va : Word) (c : Nat) (src : Source) (t : Nat) (s : State) (h : Canon s.mem) :
    Canon (ceilCounter pa va c src t s).mem := by
  simp [ceilCounter, h]

@[simp] theorem execApplyAdd_canon (ctr : Nat) (va : Word) (n : Word) (fl : BitVec 32) (src : Source) (t : Nat) (s : State)
    (h : Canon s.mem) : Ends (Canon ·.mem) (execApplyAdd ctr va n fl src t s) := by
  simp +contextual [execApplyAdd, h]

@[simp] theorem execApplyCflg_canon (ctr : Nat) (b : BitVec 32) (t : Nat) (s : State) (h : Canon s.mem) :
    Ends (Canon ·.mem) (execApplyCflg ctr b t s) := by
  simp +contextual [execApplyCflg, h]

@[simp] theorem execApplyCeil_canon (ctr : Nat) (va : Word) (v : Word) (src : Source) (t : Nat) (s : State) (h : Canon s.mem) :
    Ends (Canon ·.mem) (execApplyCeil ctr va v src t s) := by
  simp +contextual [execApplyCeil, h]

/-! ### Sync -/

@[simp] theorem ctrAddr_leaves {m : SMap Byte} (acc : Acc) (va : Word) (s : State) (h : s.mem = m) :
    Leaves Prod.snd m (ctrAddr acc va s) := by
  simp [ctrAddr, h]

@[simp] theorem heldCtr_leaves {m : SMap Byte} (f : YA) (mk : Nat → Word → Word → Held) (s : State) (h : s.mem = m) :
    Leaves id m (heldCtr f mk s) := by
  simp +contextual [heldCtr, h]

@[simp] theorem caddiOp_leaves {m : SMap Byte} (f : YA) (s : State) (h : s.mem = m) : Leaves id m (caddiOp f s) := by
  simp +contextual [caddiOp, h]

@[simp] theorem cceilOp_leaves {m : SMap Byte} (f : YA) (s : State) (h : s.mem = m) : Leaves id m (cceilOp f s) := by
  simp [cceilOp, h]

@[simp] theorem crdOp_leaves {m : SMap Byte} (f : YA) (s : State) (h : s.mem = m) : Leaves id m (crdOp f s) := by
  simp +contextual [crdOp, h]

@[simp] theorem cwaitDone_mem (rd : BitVec 5) (flags : Nat) (t : Nat) (s : State) : (cwaitDone rd flags t s).mem = s.mem := by
  simp [cwaitDone]

@[simp] theorem cwaitOp_leaves {m : SMap Byte} (f : YA) (s : State) (h : s.mem = m) : Leaves id m (cwaitOp f s) := by
  simp +contextual [cwaitOp, h, apply_ite State.mem]

@[simp] theorem execCwaitWake_canon (c : CoreId) (flags : BitVec 32) (t : Nat) (s : State) (h : Canon s.mem) :
    Ends (Canon ·.mem) (execCwaitWake c flags t s) := by
  unfold execCwaitWake
  dsimp only
  (repeat' split) <;> simp [h]

@[simp] theorem atomicOp_leaves {m : SMap Byte} (k : AtomKind) (f : YA) (s : State) (h : s.mem = m) : Leaves id m (atomicOp k f s) := by
  simp +contextual [atomicOp, h]

/-! ### Cluster -/

@[simp] theorem releaseSeg_mem (seg : Nat) (s : State) : (releaseSeg seg s).mem = s.mem := by
  unfold releaseSeg
  split
  · rfl
  · split
    · exact foldl_mem _ (by simp) _ _
    · rfl

@[simp] theorem arrive_mem (c : CoreId) (seg t : Nat) (s : State) : (arrive c seg t s).mem = s.mem := by
  unfold arrive
  (repeat' split) <;> simp

@[simp] theorem retireCore_mem (c : CoreId) (s : State) : (retireCore c s).mem = s.mem := by
  simp [retireCore, apply_ite State.mem, foldl_mem]

@[simp] theorem execBarrierArrival_canon (c : CoreId) (seg : Nat) (t : Nat) (s : State) (h : Canon s.mem) :
    Ends (Canon ·.mem) (execBarrierArrival c seg t s) := by
  simp [execBarrierArrival, h]

@[simp] theorem barrOp_leaves {m : SMap Byte} (f : YA) (s : State) (h : s.mem = m) : Leaves id m (barrOp f s) := by
  simp [barrOp, h]

@[simp] theorem bwaitDone_mem (t : Nat) (s : State) : (bwaitDone t s).mem = s.mem := by
  simp [bwaitDone]

@[simp] theorem bwaitOp_leaves {m : SMap Byte} (f : YA) (s : State) (h : s.mem = m) : Leaves id m (bwaitOp f s) := by
  simp [bwaitOp, h, apply_ite State.mem]

@[simp] theorem barqOp_leaves {m : SMap Byte} (f : YA) (s : State) (h : s.mem = m) : Leaves id m (barqOp f s) := by
  simp [barqOp, h]

@[simp] theorem execBwaitReturn_canon (c : CoreId) (s : State) (h : Canon s.mem) : Ends (Canon ·.mem) (execBwaitReturn c s) := by
  unfold execBwaitReturn
  split
  · split
    · simp [h]
    · simp [h]
  · simp [h]

@[simp] theorem landMc_mem (m : Mc) (s : State) : (landMc m s).mem = s.mem := by
  simp [landMc, foldl_mem]

@[simp] theorem landMcs_mem (s : State) : (landMcs s).mem = s.mem := by
  simp [landMcs, foldl_mem]

@[simp] theorem execMulticastLanding_canon (k : Nat) (s : State) (h : Canon s.mem) : Ends (Canon ·.mem) (execMulticastLanding k s) := by
  simp [execMulticastLanding, h]

/-! ### Net -/

@[simp] theorem sendG_mem (dst : BitVec 17) (body : GBody) (s : State) : (sendG dst body s).mem = s.mem := by
  simp [sendG, freeDelay, apply_ite State.mem]

@[simp] theorem ackMsg_mem (m : GMsg) (s : State) : (ackMsg m s).mem = s.mem := by
  simp [ackMsg]

@[simp] theorem answerG_mem (m : GMsg) (b : GBody) (s : State) : (answerG m b s).mem = s.mem := by
  simp [answerG]

@[simp] theorem abortAll_mem (tag launch : Nat) (group : List (BitVec 17)) (poison : Bool) (s : State) :
    (abortAll tag launch group poison s).mem = s.mem := by
  simp [abortAll, foldl_mem]

@[simp] theorem abortColls_mem (p : Coll → Bool) (s : State) : (abortColls p s).mem = s.mem := by
  simp [abortColls, foldl_mem]

/-! ### Copy -/

@[simp] theorem cpyOp_leaves {m : SMap Byte} (kind : CopyKind) (dpad spad : Bool) (f : CE) (s : State) (h : s.mem = m) :
    Leaves id m (cpyOp kind dpad spad f s) := by
  simp [cpyOp, h]

@[simp] theorem cpy2Op_leaves {m : SMap Byte} (f : CE) (s : State) (h : s.mem = m) : Leaves id m (cpy2Op f s) := by
  simp [cpy2Op, h]

@[simp] theorem cpyrOp_leaves {m : SMap Byte} (f : CE) (s : State) (h : s.mem = m) : Leaves id m (cpyrOp f s) := by
  simp [cpyrOp, h]

@[simp] theorem cpyqOp_leaves {m : SMap Byte} (f : CE) (s : State) (h : s.mem = m) : Leaves id m (cpyqOp f s) := by
  simp [cpyqOp, h]

@[simp] theorem xlateAll_mem (acc : Acc) (l : List (Nat × Nat)) (s : State) : (xlateAll acc l s).2.mem = s.mem :=
  (xlateAll_reads acc l s).mem
@[simp] theorem loadWords_mem (vas : List Nat) (s : State) : (loadWords vas s).2.mem = s.mem :=
  xlateAll_mem ..

@[simp] theorem cpykOp_leaves {m : SMap Byte} (f : CE) (s : State) (h : s.mem = m) : Leaves id m (cpykOp f s) := by
  refine leaves_gather.2 (leaves_bind.2 fun b _ => leaves_bind.2 fun c _ => ?_)
  dsimp only
  split
  · simp
  · simp [h, freeDelay]

@[simp] theorem bankRow_mem (l : BankLoad) (s : State) : (bankRow l s).mem = s.mem := by
  unfold bankRow
  dsimp only
  split
  · simp
  · simp [freeDelay, apply_ite State.mem]

@[simp] theorem setStat_mem (op : Nat) (f : StatEnt → StatEnt) (s : State) : (setStat op f s).mem = s.mem := by
  simp [setStat]

@[simp] theorem switchTime_mem (i t : Nat) (s : State) : (switchTime i t s).mem = s.mem := by
  unfold switchTime
  split <;> simp

@[simp] theorem endOp_mem (o : Cop) (s : State) : (endOp o s).mem = s.mem := by
  simp [endOp, apply_ite State.mem]

@[simp] theorem stopOpn_mem (o : Cop) (w : StopWhy) (s : State) : (stopOpn o w s).mem = s.mem := by
  unfold stopOpn
  (repeat' split) <;> simp

@[simp] theorem completeOp_mem (o : Cop) (s : State) : (completeOp o s).mem = s.mem := by
  unfold completeOp
  (repeat' split) <;> simp

@[simp] theorem nextPiece_mem (o : Cop) (s : State) : (nextPiece o s).mem = s.mem := by
  simp [nextPiece, freeDelay, apply_ite State.mem]

@[simp] theorem startOp_mem (o : Cop) (q : LaunchQ) (s : State) : (startOp o q s).mem = s.mem := by
  unfold startOp
  dsimp only
  (repeat' split) <;> simp

theorem takeStat_mem {cl : ClusterId} {ctr : Word} {op : Nat} {s u : State} (h : takeStat cl ctr op s = some u) : u.mem = s.mem := by
  unfold takeStat at h
  dsimp only at h
  (repeat' split at h) <;> cases h <;> rfl

@[simp] theorem execCopyLaunchAccept_canon (cl : ClusterId) (s : State) (h : Canon s.mem) :
    Ends (Canon ·.mem) (execCopyLaunchAccept cl s) := by
  unfold execCopyLaunchAccept
  split
  · simp [h]
  · split
    · simp [h]
    · rw [← Prod.eta (freshId _)]
      dsimp only
      split
      · simp [h]
      · rename_i u hu
        have hm : u.mem = s.mem := by
          split at hu
          · cases hu
            simp
          · simpa using takeStat_mem hu
        split <;> simp [hm, h]

theorem pieceRead_mem {o : Cop} {p : Piece} {s u : State} {bs : List Byte} {t : Nat} (h : pieceRead o p s = .ok (bs, t, u)) :
    u.mem = s.mem := by
  unfold pieceRead at h
  (repeat' split at h) <;> cases h
  · rfl
  · exact engReads_mem ..

@[simp] theorem copyTime_mem (o : Cop) (t : Nat) (s : State) : (copyTime o t s).2.mem = s.mem := by
  simp [copyTime]

@[simp] theorem pieceMark_mem (o : Cop) (p : Piece) (pa : Nat) (s : State) : (pieceMark o p pa s).mem = s.mem := by
  unfold pieceMark
  split <;> simp

@[simp] theorem pieceDone_mem (o : Cop) (p : Piece) (t : Nat) (s : State) : (pieceDone o p t s).mem = s.mem := by
  simp [pieceDone]

@[simp] theorem pieceGlobal_canon (o : Cop) (p : Piece) (pa : Nat) (bs : List Byte) (s : State) (h : Canon s.mem) :
    Canon (pieceGlobal o p pa bs s).mem := by
  simp [pieceGlobal, foldl_mem, h]

@[simp] theorem markOut_mem (o : Cop) (k : Nat) (bs : List Byte) (s : State) : (markOut o k bs s).mem = s.mem := by
  simp [markOut]

@[simp] theorem pieceWrite_canon (o : Cop) (p : Piece) (k : Nat) (bs : List Byte) (s : State) (h : Canon s.mem) :
    Canon (pieceWrite o p k bs s).mem := by
  unfold pieceWrite
  (repeat' split) <;> simp [h]

@[simp] theorem runPiece_canon (o : Cop) (p : Piece) (k : Nat) (s : State) (h : Canon s.mem) : Canon (runPiece o p k s).mem := by
  unfold runPiece
  split
  · simp [h]
  · split
    · simp [h]
    · simp [h]
    · simp [h]
    · rename_i hr
      have hu := pieceRead_mem hr
      simp [h, hu]

@[simp] theorem execCopyPiece_canon (op k : Nat) (s : State) (h : Canon s.mem) : Ends (Canon ·.mem) (execCopyPiece op k s) := by
  unfold execCopyPiece
  (repeat' split) <;> simp [h]

/-! ### Tensor -/

@[simp] theorem setCtl_canon (pa lo w v : Nat) (s : State) (h : Canon s.mem) : Canon (setCtl pa lo w v s).mem := by
  simp [setCtl, h]

@[simp] theorem setBin_canon (pa k v : Nat) (s : State) (h : Canon s.mem) : Canon (setBin pa k v s).mem := by
  simp [setBin, h]

@[simp] theorem halve_canon (pa w : Nat) : ∀ (n : Nat) (s : State), Canon s.mem → Canon (halve pa w n s).mem
  | 0, _, h => h
  | n + 1, s, h => by
    simp only [halve]
    split
    · exact h
    · exact halve_canon pa w n _ (canon_wrN _ _ _ (canon_foldl h (by simp +contextual)))

@[simp] theorem addLate_canon (pa n : Nat) (s : State) (h : Canon s.mem) : Canon (addLate pa n s).mem := by
  simp [addLate, h]

@[simp] theorem modRec_mem (pa : Nat) (s : State) : (modRec pa s).mem = s.mem := by
  simp [modRec]

@[simp] theorem applyFlush_canon (d : Delta) (s : State) (h : Canon s.mem) : Canon (applyFlush d s).mem := by
  unfold applyFlush
  dsimp only
  split
  · simp [h]
  · split
    · simp [h]
    · rw [modRec_mem]
      refine halve_canon _ _ _ _ (canon_wrN _ _ _ (canon_wrN _ _ _ (canon_foldl ?_ ?_)))
      · simp [h]
      · simp +contextual

@[simp] theorem flushSlot_canon (pa : Nat) (s : State) (h : Canon s.mem) : Canon (flushSlot pa s).mem := by
  unfold flushSlot
  split <;> simp -implicitDefEqProofs [h]

@[simp] theorem flushDeltas_canon (s : State) (h : Canon s.mem) : Canon (flushDeltas s).mem := by
  simp +contextual [flushDeltas, h]

@[simp] theorem addDelta_canon (pa : Nat) (counts : SMap Nat) (tser t : Nat) (s : State) (h : Canon s.mem) :
    Canon (addDelta pa counts tser t s).mem := by
  unfold addDelta
  extract_lets u old st late new v
  have hu : Canon u.mem := by
    unfold u
    split
    · exact h
    · split <;> simp [h]
  have hv : Canon v.mem := hu
  clear_value v
  split
  · exact flushSlot_canon _ _ hv
  · exact hv

@[simp] theorem execDeltaFlush_canon (c : CoreId) (slot : Nat) (s : State) (h : Canon s.mem) :
    Ends (Canon ·.mem) (execDeltaFlush c slot s) := by
  unfold execDeltaFlush
  dsimp only
  (repeat' split) <;> simp [h]

@[simp] theorem readPolicy_mem (pa t : Nat) (s : State) : (readPolicy pa t s).2.mem = s.mem := by
  unfold readPolicy
  split <;> simp

@[simp] theorem policyServes_leaves {m : SMap Byte} (pa : Nat) (s : State) (h : s.mem = m) : Leaves id m (policyServes pa s) := by
  unfold policyServes
  split <;> simp [h]

@[simp] theorem shiftBins_canon (pa : Nat) (sh : Int) (s : State) (h : Canon s.mem) : Canon (shiftBins pa sh s).mem := by
  unfold shiftBins
  exact setBin_canon _ _ _ _ (setBin_canon _ _ _ _ (canon_foldl h (by simp +contextual)))

@[simp] theorem publish_canon (pa t : Nat) (d : Decision) (st : Nat) (s : State) (h : Canon s.mem) : Canon (publish pa t d st s).mem := by
  unfold publish
  extract_lets v a b c r1 e f g k
  have hb : Canon b.mem :=
    setCtl_canon _ _ _ _ _ (setCtl_canon _ _ _ _ _ (setCtl_canon _ _ _ _ _ (setCtl_canon _ _ _ _ _ (canon_wrN _ _ _ h))))
  clear_value b
  have hc : Canon c.mem := by
    unfold c
    split <;> simp [hb]
  clear_value c
  have hg : Canon g.mem := canon_wrN _ _ _ (canon_wrN _ _ _ (canon_wrN _ _ _ hc))
  clear_value g
  have hk : Canon k.mem := by simp [k, hg]
  clear_value k
  simp [hk]

@[simp] theorem tmCtr_mem (op : TmOp) (n fl t : Nat) (s : State) : (tmCtr op n fl t s).mem = s.mem := by
  unfold tmCtr
  split <;> simp

@[simp] theorem tmDone_mem (op : TmOp) (t : Nat) (s : State) : (tmDone op t s).mem = s.mem := by
  simp [tmDone]

@[simp] theorem tmRefuse_mem (op : TmOp) (fl t : Nat) (s : State) : (tmRefuse op fl t s).mem = s.mem := by
  simp [tmRefuse]

@[simp] theorem govLand_mem (c : CoreId) (id : Nat) (v : Word) (s : State) : (govLand c id v s).mem = s.mem := by
  simp [govLand]

@[simp] theorem beginClose_canon (op : TmOp) (t : Nat) (s : State) (h : Canon s.mem) : Canon (beginClose op t s).mem := by
  unfold beginClose
  rw [foldl_mem _ (by simp)]
  simp [h, freeDelay]

@[simp] theorem tmField_canon (op : TmOp) (fld : Nat) (v : Word) (t : Nat) (s : State) (h : Canon s.mem) :
    Canon (tmField op fld v t s).mem := by
  unfold tmField
  dsimp only
  split
  · simp [h]
  · simp [h]
  · simp [h]
  · simp only [stampLine_mem]
    exact setCtl_canon _ _ _ _ _ (canon_wrN _ _ _ (canon_wrN _ _ _ (canon_wrN _ _ _ (canon_foldl h (by simp +contextual)))))

@[simp] theorem homeRead_leaves {m : SMap Byte} (line : Nat) (s : State) (h : s.mem = m) : Leaves id m (homeRead line s) := by
  simp +contextual [homeRead, h]

@[simp] theorem govWakes_mem (c : CoreId) (id : Nat) (pc : BPc) (pa : Nat) (s : State) : (govWakes c id pc pa s).mem = s.mem := by
  unfold govWakes
  extract_lets k t
  split
  · rfl
  · split
    · simp [t]
    · split
      · rename_i u hr
        have hu : u.mem = s.mem := (leaves_bind_self (homeRead_leaves _ t (focus_mem ..))).2
          (fun v hv _ => policyServes_leaves pa v hv) u hr
        simpa using hu
      · simp [t]
      · simp [t]

@[simp] theorem applyTm_canon (t : Nat) (op : TmOp) (s : State) (h : Canon s.mem) : Canon (applyTm t op s).mem := by
  unfold applyTm
  (repeat' split) <;> simp [h]

@[simp] theorem execFlushRequest_canon (c : CoreId) (rec : Nat) (s : State) (h : Canon s.mem) :
    Ends (Canon ·.mem) (execFlushRequest c rec s) := by
  simp [execFlushRequest, h]

@[simp] theorem drainTm_canon (pa t : Nat) (s : State) (h : Canon s.mem) : Canon (drainTm pa t s).mem := by
  unfold drainTm
  extract_lets step
  have hs (a : Nat × State) (o : TmOp) (ha : Canon a.2.mem) : Canon (step a o).2.mem := by
    unfold step
    split <;> simp [ha]
  clear_value step
  suffices hf : ∀ (l : List TmOp) (a : Nat × State), Canon a.2.mem → Canon (l.foldl step a).2.mem from hf _ _ h
  intro l
  induction l with
  | nil => exact fun _ ha => ha
  | cons o l ih => exact fun a ha => ih _ (hs a o ha)

@[simp] theorem publishClose_canon (x : Close) (s : State) (h : Canon s.mem) : Canon (publishClose x s).mem := by
  simp [publishClose, h]

@[simp] theorem execClosePublication_canon (rec : Nat) (s : State) (h : Canon s.mem) :
    Ends (Canon ·.mem) (execClosePublication rec s) := by
  unfold execClosePublication
  split
  · simp [h]
  · refine ends_next.2 ?_
    split
    · simp [h]
    · exact whenReady_canon h (by simp) fun u hu => whenReady_canon hu (by simp) (by simp +contextual)

@[simp] theorem tmChecks_leaves {m : SMap Byte} (f : YA) (s : State) (h : s.mem = m) : Leaves Prod.snd m (tmChecks f s) := by
  simp +contextual [tmChecks, h]

@[simp] theorem tmHeld_leaves {m : SMap Byte} (k : TmKind) (f : YA) (s : State) (h : s.mem = m) : Leaves id m (tmHeld k f s) := by
  simp +contextual [tmHeld, h]

@[simp] theorem tmsetOp_leaves {m : SMap Byte} (f : YA) (s : State) (h : s.mem = m) : Leaves id m (tmsetOp f s) := by
  simp [tmsetOp, h]

@[simp] theorem tmgovOp_leaves {m : SMap Byte} (f : YA) (s : State) (h : s.mem = m) : Leaves id m (tmgovOp f s) := by
  simp +contextual [tmgovOp, h]

/-! ### Commit -/

@[simp] theorem failRegion_mem (lines : List Nat) (s : State) : (failRegion lines s).mem = s.mem := by
  simp [failRegion, apply_ite State.mem]

@[simp] theorem captureCkpt_mem (s : State) : (captureCkpt s).mem = s.mem := by
  simp [captureCkpt]

@[simp] theorem closeRegion_mem (s : State) : (closeRegion s).mem = s.mem := by
  simp [closeRegion]

@[simp] theorem atomicLands_mem (id : Nat) (r : BitVec 5) (v : Word) (f : Flags) (s : State) : (atomicLands id r v f s).mem = s.mem := by
  simp [atomicLands]

@[simp] theorem applyPiece_canon (t : Nat) (s : State) (p : Held) (h : Canon s.mem) : Canon (applyPiece t s p).mem := by
  unfold applyPiece
  extract_lets tser
  split
  · extract_lets full u v
    have hu : Canon u.mem := SMap.wf_foldl_set _ h
    have hv : Canon v.mem := by rw [stampLine_mem]; exact hu
    clear_value v
    split
    · exact hv
    · extract_lets x
      rw [foldl_mem _ (by simp)]
      exact hv
  · simp [h]
  · simp [h]
  · simp [h]
  · simp [h]
  · dsimp only
    split <;> simp [h]
  · simp [h]
  · exact h

@[simp] theorem healLines_mem (c : Core) (home t : Nat) (s : State) : (healLines c home t s).mem = s.mem := by
  simp [healLines, foldl_mem]

@[simp] theorem launchPiece_mem (t : Nat) (s : State) (h : Held) : (launchPiece t s h).mem = s.mem := by
  cases h <;> simp [launchPiece]

@[simp] theorem refreshL1_mem (ls : List Nat) (s : State) : (refreshL1 ls s).mem = s.mem := by
  simp [refreshL1]

@[simp] theorem finishCommit_mem (t : Nat) (s : State) : (finishCommit t s).mem = s.mem := by
  simp [finishCommit, foldl_mem]

@[simp] theorem commitNext_mem (m : Commit) (s : State) : (commitNext m s).mem = s.mem := by
  unfold commitNext
  dsimp only
  split <;> simp

@[simp] theorem beginCommit_mem (s : State) : (beginCommit s).mem = s.mem := by
  simp [beginCommit, apply_ite State.mem]

@[simp] theorem reserveHome_mem (home : Nat) (m : Commit) (s : State) : (reserveHome home m s).mem = s.mem := by
  unfold reserveHome
  extract_lets c ls rs evt gs r u
  have hu : u.mem = s.mem := foldl_mem _ (by simp) _ _
  clear_value u
  split
  · simp
  · split
    · simp
    · split
      · simp
      · split
        · rw [again_mem, foldl_mem]
          intro v e
          split <;> simp
        · simpa using hu

@[simp] theorem lockStep_mem (home : Nat) (s : State) : (lockStep home s).mem = s.mem := by
  unfold lockStep
  split <;> simp

@[simp] theorem atCore_canon {c : CoreId} {f : State → State} {s : State} (h : Canon s.mem) (hf : ∀ s, Canon s.mem → Canon (f s).mem) :
    Canon (atCore c f s).mem := by
  simp [atCore, h, hf]

@[simp] theorem execReserve_canon (c : CoreId) (home : Nat) (s : State) (h : Canon s.mem) :
    Ends (Canon ·.mem) (execReserve c home s) := by
  refine ends_next.2 (atCore_canon h fun u hu => ?_)
  (repeat' split) <;> simp [hu]

@[simp] theorem renewLine_mem (line : Nat) (m : Commit) (s : State) : (renewLine line m s).mem = s.mem := by
  simp [renewLine, apply_ite State.mem]

@[simp] theorem execRenew_canon (c : CoreId) (line : Nat) (s : State) (h : Canon s.mem) : Ends (Canon ·.mem) (execRenew c line s) := by
  refine ends_next.2 (atCore_canon h fun u hu => ?_)
  (repeat' split) <;> simp [hu]

@[simp] theorem applyHome_canon (home : Nat) (m : Commit) (s : State) (h : Canon s.mem) : Canon (applyHome home m s).mem := by
  simp +contextual [applyHome, h]

@[simp] theorem execApply_canon (c : CoreId) (home : Nat) (s : State) (h : Canon s.mem) : Ends (Canon ·.mem) (execApply c home s) := by
  refine ends_next.2 (atCore_canon h fun u hu => ?_)
  (repeat' split) <;> simp [hu]

@[simp] theorem finishApplies_canon : ∀ (n : Nat) (s : State), Canon s.mem → Canon (finishApplies n s).mem
  | 0, _, h => h
  | n + 1, s, h => by
    unfold finishApplies
    (repeat' split) <;> simp [h, finishApplies_canon n]

@[simp] theorem holdBack_mem (s : State) : (holdBack s).mem = s.mem := by
  simp [holdBack]

@[simp] theorem execCheckpoint_canon (s : State) (h : Canon s.mem) : Ends (Canon ·.mem) (execCheckpoint s) := by
  simp [execCheckpoint, h]

@[simp] theorem execOrderedBundle_canon (s : State) (h : Canon s.mem) : Ends (Canon ·.mem) (execOrderedBundle s) := by
  simp [execOrderedBundle, h]

@[simp] theorem execBreakpoint_canon (s : State) (h : Canon s.mem) : Ends (Canon ·.mem) (execBreakpoint s) := by
  simp [execBreakpoint, h]

@[simp] theorem grantLine_mem (line : Nat) (s : State) : (grantLine line s).mem = s.mem := by
  unfold grantLine
  split
  · simp
  · rfl
  · split
    · simp
    · dsimp only
      generalize hg : grantLease _ _ _ _ = g
      have hu : g.2.mem = s.mem := by rw [← hg]; simp
      (repeat' split) <;> simp [hu]

@[simp] theorem execGrant_canon (c : CoreId) (line : Nat) (s : State) (h : Canon s.mem) : Ends (Canon ·.mem) (execGrant c line s) := by
  simp [execGrant, h]

@[simp] theorem execPinTokenGrant_canon (s : State) (h : Canon s.mem) : Ends (Canon ·.mem) (execPinTokenGrant s) := by
  unfold execPinTokenGrant
  split <;> simp [h]

@[simp] theorem execStampRaise_canon (home : Nat) (s : State) (h : Canon s.mem) : Ends (Canon ·.mem) (execStampRaise home s) := by
  simp [execStampRaise, h]

/-! ### Control -/

@[simp] theorem takeJump_mem (t : BPc) (s : State) : (takeJump t s).mem = s.mem := by
  simp [takeJump]

@[simp] theorem branchIf_leaves {m : SMap Byte} (zero : Bool) (f : SB) (s : State) (h : s.mem = m) : Leaves id m (branchIf zero f s) := by
  simp [branchIf, h, apply_ite State.mem]

@[simp] theorem callOp_mem (f : SB) (s : State) : (callOp f s).mem = s.mem := by
  simp [callOp]

@[simp] theorem jrOp_leaves {m : SMap Byte} (f : SX) (s : State) (h : s.mem = m) : Leaves id m (jrOp f s) := by
  simp [jrOp, h]

@[simp] theorem pushLoop_leaves {m : SMap Byte} (count : Nat) (last : BitVec 20) (s : State) (h : s.mem = m) :
    Leaves id m (pushLoop count last s) := by
  simp [pushLoop, h]

@[simp] theorem loopOp_leaves {m : SMap Byte} (f : SP) (s : State) (h : s.mem = m) : Leaves id m (loopOp f s) := by
  simp [loopOp, h]

@[simp] theorem lbrkOp_leaves {m : SMap Byte} (s : State) (h : s.mem = m) : Leaves id m (lbrkOp s) := by
  unfold lbrkOp
  split <;> simp [h]

@[simp] theorem lidxOp_leaves {m : SMap Byte} (f : SX) (s : State) (h : s.mem = m) : Leaves id m (lidxOp f s) := by
  unfold lidxOp
  split <;> simp [h]

@[simp] theorem eretOp_leaves {m : SMap Byte} (s : State) (h : s.mem = m) : Leaves id m (eretOp s) := by
  simp [eretOp, h]

/-! ### System -/

@[simp] theorem spldOp_mem (f : SX) (s : State) : (spldOp f s).mem = s.mem := by
  simp [spldOp]

@[simp] theorem spstOp_leaves {m : SMap Byte} (f : SX) (s : State) (h : s.mem = m) : Leaves id m (spstOp f s) := by
  simp [spstOp, h]

@[simp] theorem sysrdOp_mem (f : SX) (s : State) : (sysrdOp f s).mem = s.mem := by
  simp [sysrdOp]

@[simp] theorem syswrOp_leaves {m : SMap Byte} (f : SX) (s : State) (h : s.mem = m) : Leaves id m (syswrOp f s) := by
  simp [syswrOp, h]

@[simp] theorem capqOp_mem (f : SX) (s : State) : (capqOp f s).mem = s.mem := by
  simp [capqOp]

/-! ### Tasks -/

@[simp] theorem engTake_mem (parts : List (Nat × Nat)) (t : Nat) (s : State) : (engTake parts t s).2.mem = s.mem := by
  simp [engTake]

@[simp] theorem setRegion_mem (r : Region) (s : State) : (setRegion r s).mem = s.mem := by
  simp [setRegion]

@[simp] theorem setTask_mem (t : Task) (s : State) : (setTask t s).mem = s.mem := by
  simp [setTask]

@[simp] theorem setGang_mem (tser : Nat) (g : Gang) (s : State) : (setGang tser g s).mem = s.mem := by
  simp [setGang]

/-! ### Placement -/

@[simp] theorem takeSlots_mem (tser gix lin : Nat) (cs : List CoreId) (s : State) : (takeSlots tser gix lin cs s).mem = s.mem := by
  simp [takeSlots, foldl_mem]

@[simp] theorem freeImage_mem (tser gix lin : Nat) (cs : List CoreId) (s : State) : (freeImage tser gix lin cs s).mem = s.mem := by
  simp [freeImage, foldl_mem]

@[simp] theorem combPlace_mem (n size : Nat) (s : State) : (combPlace n size s).2.mem = s.mem := by
  simp [combPlace]

@[simp] theorem putImage_canon (i : Image) (s : State) (h : Canon s.mem) : Canon (putImage i s).2.mem := by
  unfold putImage
  extract_lets bs m
  clear_value bs
  rw [foldl_mem _ (by simp)]
  exact SMap.wf_setAll _ (SMap.wfFrom_filter _ h)

/-! ### Gangs -/

@[simp] theorem askRound_mem (at_ : Nat) (s : State) : (askRound at_ s).mem = s.mem := by
  unfold askRound
  split <;> simp

@[simp] theorem abortUnlaunched_mem (s : State) : (abortUnlaunched s).mem = s.mem := by
  simp [abortUnlaunched, foldl_mem]

@[simp] theorem setLstate_mem (n : Nat) (s : State) : (setLstate n s).mem = s.mem := by
  simp [setLstate, apply_ite State.mem]

@[simp] theorem dropMcs_mem (c : CoreId) (s : State) : (dropMcs c s).mem = s.mem := by
  simp [dropMcs]

@[simp] theorem moveImage_canon (x : Slot) (k : Nat) (s : State) (h : Canon s.mem) : Canon (moveImage x k s).mem := by
  unfold moveImage
  dsimp only
  (repeat' split) <;> simp [h]

@[simp] theorem moveImages_canon (s : State) (x : Slot) (h : Canon s.mem) : Canon (moveImages s x).mem := by
  simp +contextual [moveImages, h]

@[simp] theorem reclaimSlots_canon (c : CoreId) (lent : Nat) (s : State) (h : Canon s.mem) : Canon (reclaimSlots c lent s).mem := by
  simp +contextual [reclaimSlots, h]

@[simp] theorem configGang_canon (t : Task) (park : Nat) (sp : Spot) (s : State) (h : Canon s.mem) :
    Canon (configGang t park sp s).mem := by
  simp +contextual [configGang, h]

@[simp] theorem onSegs_mem (s : State) (t : Task) (f : Seg → Seg) : (onSegs s t f).mem = s.mem := by
  simp [onSegs, foldl_mem]

@[simp] theorem armSegs_mem (t : Task) (cores : List CoreId) (s : State) : (armSegs t cores s).mem = s.mem := by
  simp [armSegs]

@[simp] theorem disarmSegs_mem (t : Task) (s : State) : (disarmSegs t s).mem = s.mem := by
  simp [disarmSegs]

@[simp] theorem startQuantum_mem (tser gix quant : Nat) (s : State) : (startQuantum tser gix quant s).mem = s.mem := by
  unfold startQuantum
  split <;> simp

@[simp] theorem startGang_canon (t : Task) (g : Gang) (sp : Spot) (s : State) (h : Canon s.mem) : Canon (startGang t g sp s).mem := by
  simp [startGang, h]

@[simp] theorem beginEvict_mem (tser gix : Nat) (s : State) : (beginEvict tser gix s).mem = s.mem := by
  unfold beginEvict
  split <;> simp [foldl_mem]

@[simp] theorem quit_canon (s : State) (h : Canon s.mem) : Canon (quit s).mem := by
  unfold quit
  extract_lets u v
  have hu : Canon u.mem := finishApplies_canon 128 s h
  clear_value u
  have hv : Canon v.mem := by
    unfold v
    split
    · exact hu
    · simpa using hu
  clear_value v
  simp [hv]

@[simp] theorem parkStrand_canon (t : Task) (g : Gang) (lin : Nat) (c : CoreId) (s : State) (h : Canon s.mem) :
    Canon (parkStrand t g lin c s).1.mem := by
  unfold parkStrand
  dsimp only
  split <;> simp -implicitDefEqProofs [h]

@[simp] theorem clearCores_mem (cores : List CoreId) (s : State) : (clearCores cores s).mem = s.mem := by
  simp [clearCores, foldl_mem]

@[simp] theorem freeImages_mem (tser : Nat) (g : Gang) (s : State) : (freeImages tser g s).mem = s.mem := by
  simp [freeImages, foldl_mem]

@[simp] theorem parkOne_canon (t : Task) (g : Gang) (lin : Nat) (c : CoreId) (imgs : List Image) (s : State) (h : Canon s.mem) :
    Canon (parkOne t g lin c imgs s).mem := by
  simp [parkOne, h]

@[simp] theorem evictGang_canon (t : Task) (g : Gang) (s : State) (h : Canon s.mem) : Canon (evictGang t g s).mem := by
  simp +contextual [evictGang, h]

@[simp] theorem combNeed1_mem (s : State) (g : Gang) : (combNeed1 s g).1.mem = s.mem := by
  suffices h : ∀ (l : List CoreId) (a : State × Nat), a.1.mem = s.mem → (l.foldl (fun (acc : State × Nat) c =>
      let size := imageSize (coreOf acc.1 c).split
      match parkSlots acc.1 g.cores c ((size + 16383) / 16384) with
      | some cs => (takeSlots 0 0 0 cs acc.1, acc.2)
      | none => (acc.1, acc.2 + size)) a).1.mem = s.mem from h _ _ rfl
  intro l
  induction l with
  | nil => exact fun _ h => h
  | cons c t ih =>
    refine fun a h => ih _ ?_
    dsimp only
    split <;> simp [h]

@[simp] theorem taskFault_mem (tser rnum code : Nat) (info : Word) (s : State) : (taskFault tser rnum code info s).mem = s.mem := by
  simp [taskFault]

@[simp] theorem schedFault_mem (tser rnum code : Nat) (s : State) : (schedFault tser rnum code s).mem = s.mem := by
  simp [schedFault]

@[simp] theorem resumeImage_mem (tser : Nat) (cores : List CoreId) (s : State) (i : Image) :
    (resumeImage tser cores s i).mem = s.mem := by
  unfold resumeImage
  split <;> simp

@[simp] theorem resumeGang_canon (t : Task) (g : Gang) (sp : Spot) (s : State) (h : Canon s.mem) : Canon (resumeGang t g sp s).mem := by
  unfold resumeGang
  dsimp only
  (repeat' split) <;> simp [h]

@[simp] theorem firstBundle_mem (s : State) : (firstBundle s).mem = s.mem := by
  unfold firstBundle
  dsimp only
  (repeat' split) <;> simp

@[simp] theorem strandEnds_canon (s : State) (h : Canon s.mem) : Canon (strandEnds s).mem := by
  unfold strandEnds
  extract_lets u v
  have hv : Canon v.mem := by
    unfold v
    rw [retireCore_mem]
    exact flushDeltas_canon _ h
  clear_value v
  split
  · extract_lets w x
    have hw : Canon w.mem := by simpa [w] using hv
    have hx : Canon x.mem := by simpa [x] using hw
    clear_value x w
    (repeat' split) <;> simp [hw, hx]
  · exact hv

@[simp] theorem killTask_canon (tser : Nat) (s : State) (h : Canon s.mem) : Canon (killTask tser s).mem := by
  unfold killTask
  split
  · exact h
  · split
    · exact h
    · simp -implicitDefEqProofs +contextual [h, foldl_mem]

@[simp] theorem releaseGangs_mem (t : Task) (s : State) : (releaseGangs t s).mem = s.mem := by
  simp [releaseGangs, foldl_mem]

/-! ### Tables -/

theorem engTry_mem {α : Type} {retry : State → State} {bad : MemErr → State → State} {r : Except MemErr α} {k : α → State → State}
    {s : State} (hr : ∀ s, (retry s).mem = s.mem) (hb : ∀ e, (bad e s).mem = s.mem) (hk : ∀ a, (k a s).mem = s.mem) :
    (engTry retry bad r k s).mem = s.mem := by
  unfold engTry
  split <;> simp [hr, hb, hk]
@[simp] theorem engTry_canon {α : Type} {retry : State → State} {bad : MemErr → State → State} {r : Except MemErr α}
    {k : α → State → State} {s : State} (h : Canon s.mem) (hr : ∀ s, Canon s.mem → Canon (retry s).mem)
    (hb : ∀ e s, Canon s.mem → Canon (bad e s).mem) (hk : ∀ a s, Canon s.mem → Canon (k a s).mem) :
    Canon (engTry retry bad r k s).mem := by
  unfold engTry
  split
  · exact hk _ s h
  · exact hr _ (by simpa using h)
  · exact hr s h
  · exact hb _ s h

@[simp] theorem putVia_canon {xl : Nat → Except MemErr Nat} {retry : State → State} {bad : MemErr → State → State} {t : Nat}
    {parts : List (Nat × List Byte)} {k : Nat → State → State} {s : State} (h : Canon s.mem) (hr : ∀ s, Canon s.mem → Canon (retry s).mem)
    (hb : ∀ e s, Canon s.mem → Canon (bad e s).mem) (hk : ∀ t s, Canon s.mem → Canon (k t s).mem) :
    Canon (putVia xl retry bad t parts k s).mem := by
  unfold putVia
  dsimp only
  split
  · exact hb _ s h
  · split
    · exact hb _ s h
    · split
      · refine hr _ (canon_foldl h fun s e hs => ?_)
        split <;> simp [hs]
      · exact hk _ _ (by simp +contextual [h])

@[simp] theorem engPut_canon {retry : State → State} {bad : MemErr → State → State} {acc : Acc} {t : Nat} {parts : List (Nat × List Byte)}
    {k : Nat → State → State} {s : State} (h : Canon s.mem) (hr : ∀ s, Canon s.mem → Canon (retry s).mem)
    (hb : ∀ e s, Canon s.mem → Canon (bad e s).mem) (hk : ∀ t s, Canon s.mem → Canon (k t s).mem) :
    Canon (engPut retry bad acc t parts k s).mem :=
  putVia_canon h hr hb hk

@[simp] theorem setTable_mem (x : Table) (s : State) : (setTable x s).mem = s.mem := by
  simp [setTable]

@[simp] theorem setRes_mem (tab e r v : Nat) (s : State) : (setRes tab e r v s).mem = s.mem := by
  simp [setRes]

@[simp] theorem armMerge_mem (tab : Nat) (s : State) : (armMerge tab s).mem = s.mem := by
  unfold armMerge
  split
  · split
    · split
      · rfl
      · rw [← Prod.eta (registerWaiter _ _)]
        simp [apply_ite State.mem]
    · rfl
  · rfl

@[simp] theorem registerTable_leaves {m : SMap Byte} (tab : Nat) (s : State) (h : s.mem = m) : Leaves id m (registerTable tab s) := by
  unfold registerTable
  dsimp only
  (repeat' split) <;> simp [h]

@[simp] theorem publishTable_canon {evt : Instr} {tab e : Nat} {amask ent : Nat → Nat} {slots : List (Nat × (Nat → Nat → Nat))}
    {k : State → State} {s : State} (h : Canon s.mem) (hk : ∀ s, Canon s.mem → Canon (k s).mem) :
    Canon (publishTable evt tab e amask ent slots k s).mem := by
  unfold publishTable
  extract_lets parts wait
  clear_value parts
  exact engTry_canon h (by simp) (by simp [wait]) fun ps u hu =>
    engPut_canon hu (by simp) (by simp [wait]) fun t u hu => hk _ (by simpa using hu)

@[simp] theorem lossesOf_mem (va : Nat) (s : State) : (lossesOf va s).mem = s.mem :=
  foldl_mem _ (by simp) _ _

/-! ### Scheduler -/

@[simp] theorem dropRegs_mem (s : State) : (dropRegs s).mem = s.mem := by
  simp [dropRegs]

@[simp] theorem jobFault_canon (s : State) (h : Canon s.mem) : Canon (jobFault s).mem := by
  simp +contextual [jobFault, h]

@[simp] theorem checkJobEnd_mem (s : State) : (checkJobEnd s).mem = s.mem := by
  unfold checkJobEnd
  split <;> simp

@[simp] theorem readyTask_mem (tser : Nat) (s : State) : (readyTask tser s).mem = s.mem := by
  unfold readyTask
  (repeat' split) <;> simp

@[simp] theorem depMet_mem (tser k at_ : Nat) (s : State) : (depMet tser k at_ s).mem = s.mem := by
  unfold depMet
  split <;> simp

@[simp] theorem registerDep_mem (tser : Nat) (dwf : Bool) (e : Nat × Nat × Nat) (s : State) : (registerDep tser dwf e s).mem = s.mem := by
  unfold registerDep
  rw [← Prod.eta (registerWaiter _ _)]
  simp [apply_ite State.mem]

@[simp] theorem enterTask_mem (r : Region) (va t : Nat) (rd : Option (Nat × Nat) × Option Nat) (s : State) :
    (enterTask r va t rd s).mem = s.mem := by
  unfold enterTask
  dsimp only
  split
  · simp
  · split
    · simp
    · split
      · simp
      · rw [readyTask_mem, foldl_mem _ (by simp)]

@[simp] theorem enterNext_mem (r : Region) (va t : Nat) (rd : Option (Nat × Nat) × Option Nat) (s : State) :
    (enterNext r va t rd s).mem = s.mem := by
  simp [enterNext, apply_ite State.mem]

@[simp] theorem fetchNext_mem (r : Region) (s : State) : (fetchNext r s).mem = s.mem := by
  unfold fetchNext
  dsimp only
  (repeat' split) <;> simp

@[simp] theorem execDescriptorFetch_canon (rnum : Nat) (s : State) (h : Canon s.mem) :
    Ends (Canon ·.mem) (execDescriptorFetch rnum s) := by
  unfold execDescriptorFetch
  dsimp only
  (repeat' split) <;> simp [h]

@[simp] theorem execDependencyMet_canon (tser k : Nat) (flags : BitVec 32) (s : State) (h : Canon s.mem) :
    Ends (Canon ·.mem) (execDependencyMet tser k flags s) := by
  unfold execDependencyMet
  split <;> simp [h]

@[simp] theorem execLaunch_canon (root : Word) (s : State) (h : Canon s.mem) : Ends (Canon ·.mem) (execLaunch root s) := by
  simp [execLaunch, h]

@[simp] theorem installTree_canon (sc : Sched) (s : State) (h : Canon s.mem) : Canon (installTree sc s).mem := by
  unfold installTree
  extract_lets u
  have hu : Canon u.mem := h
  clear_value u
  split
  · simp [hu]
  · rw [← Prod.eta (registerWaiter _ _)]
    dsimp -zeta only
    extract_lets v w
    have hw : Canon w.mem := by
      unfold w
      split <;> simp [hu]
    clear_value w
    rw [checkJobEnd_mem, foldl_mem _ (by simp)]
    exact hw

@[simp] theorem clearRecord_canon (s : State) (r : Region) (h : Canon s.mem) : Canon (clearRecord s r).mem := by
  simp [clearRecord, h]

@[simp] theorem treeReads_mem (rs : List Region) (s : State) : (treeReads rs s).mem = s.mem := by
  simp [treeReads]

@[simp] theorem checkJob_canon (s : State) (h : Canon s.mem) : Canon (checkJob s).mem := by
  unfold checkJob
  split
  · simp [h]
  · split
    · simp [h]
    · simp [h]
    · split
      · simp [h]
      · exact installTree_canon _ _ (canon_foldl (by simp [h]) (by simp +contextual))

@[simp] theorem noPlace_mem (tser : Nat) (s : State) : (noPlace tser s).mem = s.mem := by
  unfold noPlace
  split <;> simp

@[simp] theorem placeGang_canon (tser gix : Nat) (s : State) (h : Canon s.mem) : Canon (placeGang tser gix s).mem := by
  unfold placeGang
  dsimp only
  (repeat' split) <;> simp [h]

@[simp] theorem roundGangs_canon (s : State) (h : Canon s.mem) : Canon (roundGangs s).mem := by
  simp +contextual [roundGangs, h]

@[simp] theorem failStart_mem (t : Task) (code : Nat) (s : State) : (failStart t code s).mem = s.mem := by
  simp [failStart]

theorem startTask_canon {t : Task} {s u : State} {b : Bool} (h : Canon s.mem) (e : startTask t s = some (b, u)) : Canon u.mem := by
  unfold startTask at e
  dsimp only at e
  split at e
  · cases e; simp [h]
  · split at e
    · cases e; simp [h]
    · split at e
      · cases e; simp [h]
      · split at e
        · cases e
        · split at e
          · cases e
          · cases e
            refine canon_foldl ?_ (by simp +contextual)
            split <;> simp [h]

@[simp] theorem serveLeaf_canon (p rnum : Nat) : ∀ (n : Nat) (s : State), Canon s.mem → Canon (serveLeaf p rnum n s).mem
  | 0, _, h => h
  | n + 1, s, h => by
    unfold serveLeaf
    split
    · exact h
    · split
      · simp [h]
      · split
        · exact h
        · split
          · rename_i hs
            exact serveLeaf_canon p rnum n _ (by simpa using startTask_canon h hs)
          · rename_i hs
            exact serveLeaf_canon p rnum n _ (startTask_canon h hs)
          · exact h

@[simp] theorem roundStarts_canon (s : State) (h : Canon s.mem) : Canon (roundStarts s).mem := by
  unfold roundStarts
  split
  · exact h
  · refine canon_foldl (canon_foldl h fun u t hu => ?_) fun u p hu => canon_foldl hu fun v k hv => ?_
    · split
      · rename_i hs
        exact startTask_canon hu hs
      · exact hu
    · split
      · simp [hv]
      · exact hv

@[simp] theorem roundEvicts_canon (s : State) (h : Canon s.mem) : Canon (roundEvicts s).mem :=
  canon_foldl h fun u e hu => by
    split
    · split <;> simp [hu]
    · exact hu

@[simp] theorem countRound_mem (s : State) : (countRound s).mem = s.mem := by
  simp [countRound]

@[simp] theorem execSchedulerRound_canon (s : State) (h : Canon s.mem) : Ends (Canon ·.mem) (execSchedulerRound s) := by
  unfold execSchedulerRound
  split
  · simp [h]
  · split
    · simp [h]
    · extract_lets u v
      have hu : Canon u.mem := by
        unfold u
        rw [checkJobEnd_mem]
        exact roundStarts_canon _ (roundGangs_canon _ (roundEvicts_canon _ (by simpa using h)))
      clear_value u
      refine ends_next.2 ?_
      change Canon v.mem
      unfold v
      split <;> simp [hu]

@[simp] theorem execSchedulerTakeover_canon (s : State) (h : Canon s.mem) : Ends (Canon ·.mem) (execSchedulerTakeover s) := by
  simp [execSchedulerTakeover, h]

@[simp] theorem quantumEnds_mem (t : Task) (g : Gang) (s : State) : (quantumEnds t g s).mem = s.mem := by
  unfold quantumEnds
  split <;> simp

@[simp] theorem execQuantumExpiry_canon (tser gix : Nat) (s : State) (h : Canon s.mem) :
    Ends (Canon ·.mem) (execQuantumExpiry tser gix s) := by
  unfold execQuantumExpiry
  split <;> simp [h]

@[simp] theorem strandYields_mem (s : State) : (strandYields s).mem = s.mem := by
  unfold strandYields
  (repeat' split) <;> simp

@[simp] theorem execMigrateTrapReceipt_canon (c : CoreId) (s : State) (h : Canon s.mem) :
    Ends (Canon ·.mem) (execMigrateTrapReceipt c s) := by
  unfold execMigrateTrapReceipt
  dsimp only
  (repeat' split) <;> simp [h]

@[simp] theorem evictOf_mem (p : CoreId → Bool) (s : State) : (evictOf p s).mem = s.mem := by
  simp [evictOf, foldl_mem]

@[simp] theorem execDieFault_canon (die : Nat) (s : State) (h : Canon s.mem) : Ends (Canon ·.mem) (execDieFault die s) := by
  simp [execDieFault, h]

@[simp] theorem execCoreWithdrawn_canon (c : CoreId) (s : State) (h : Canon s.mem) : Ends (Canon ·.mem) (execCoreWithdrawn c s) := by
  simp [execCoreWithdrawn, h]

@[simp] theorem handlerDone_canon (t : Task) (s : State) (h : Canon s.mem) : Canon (handlerDone t s).mem := by
  unfold handlerDone
  split
  · exact h
  · extract_lets u v
    have hu : Canon u.mem := by
      unfold u
      split <;> simp [h]
    have hv : Canon v.mem := canon_foldl hu fun a k ha => by split <;> simp [ha]
    clear_value v
    simp [hv]

@[simp] theorem taskEnds_canon (t : Task) (killed : Bool) (tt : Nat) (s : State) (h : Canon s.mem) :
    Canon (taskEnds t killed tt s).mem := by
  simp [taskEnds, h]

@[simp] theorem doneAdd_canon (t : Task) (n fl : Nat) (killed : Bool) (s : State) (h : Canon s.mem) :
    Canon (doneAdd t n fl killed s).mem := by
  unfold doneAdd
  extract_lets evt go
  have hgo (u : State) (hu : Canon u.mem) : Canon (go u).mem := by
    unfold go
    split
    · simp [hu]
    · exact whenReady_canon hu (by simp +contextual) (by simp +contextual)
  clear_value go
  split
  · exact whenReady_canon h hgo hgo
  · exact hgo s h

@[simp] theorem execTaskComplete_canon (tser : Nat) (s : State) (h : Canon s.mem) : Ends (Canon ·.mem) (execTaskComplete tser s) := by
  unfold execTaskComplete
  (repeat' split) <;> simp [h]

@[simp] theorem spawnHandler_mem (scope : Region) (level : Nat) (r : FaultReport) (holds : List Nat) (t : Nat)
    (rd : Option (Nat × Nat) × Option Nat) (s : State) : (spawnHandler scope level r holds t rd s).mem = s.mem := by
  simp [spawnHandler, apply_ite State.mem]

@[simp] theorem killFor_canon (tser : Nat) (s : State) (h : Canon s.mem) : Canon (killFor tser s).mem := by
  unfold killFor
  split <;> simp [h]

@[simp] theorem killScope_canon (scope : Region) (level : Nat) (r : FaultReport) (s : State) (h : Canon s.mem) :
    Canon (killScope scope level r s).1.mem := by
  unfold killScope
  split
  · exact h
  · extract_lets u own v ls
    have hu : Canon u.mem := by simp [u, h]
    have hv : Canon v.mem := by
      unfold v
      split
      · exact hu
      · exact canon_foldl hu (by simp +contextual)
    clear_value v u
    exact canon_foldl hv fun w k hw => by split <;> simp [hw]

@[simp] theorem landFault_canon (leaf scope : Region) (level : Nat) (r : FaultReport) (rd : Option (Nat × Nat) × Option Nat) (s : State)
    (h : Canon s.mem) : Canon (landFault leaf scope level r rd s).mem := by
  unfold landFault
  extract_lets u
  have hu : Canon u.mem := by
    unfold u
    split <;> simp [h]
  clear_value u
  generalize hk : killScope _ _ _ _ = k
  have hv : Canon k.1.mem := hk ▸ killScope_canon _ _ _ _ hu
  obtain ⟨v, holds⟩ := k
  dsimp -zeta only at hv ⊢
  extract_lets t old w x y
  have hx : Canon x.mem := by
    have hw : Canon w.mem := by simp [w, hv]
    unfold x
    split <;> simp [hw]
  clear_value x
  have hy : Canon y.mem := by simp [y, hv]
  clear_value y
  (repeat' split) <;> simp [hx, hy]

@[simp] theorem execFaultReport_canon (r : FaultReport) (s : State) (h : Canon s.mem) : Ends (Canon ·.mem) (execFaultReport r s) := by
  unfold execFaultReport
  dsimp only
  (repeat' split) <;> simp +contextual [h]

@[simp] theorem spawnOp_leaves {m : SMap Byte} (f : YA) (s : State) (h : s.mem = m) : Leaves id m (spawnOp f s) := by
  simp [spawnOp, h]

@[simp] theorem put57_canon (pa v : Nat) (s : State) (h : Canon s.mem) : Canon (put57 pa v s).mem := by
  simp [put57, h]

@[simp] theorem appendDesc_canon (r : Region) (dpa tpa : Nat) (desc : Nat) (tser t : Nat) (s : State) (h : Canon s.mem) :
    Canon (appendDesc r dpa tpa desc tser t s).mem := by
  unfold appendDesc
  extract_lets t1 a t2 b q t3 c
  have hc : Canon c.mem := by
    simp only [c, b, a, stampLine_mem]
    exact put57_canon _ _ _ (by rw [stampLine_mem]; exact put57_canon _ _ _ (by rw [stampLine_mem]; exact put57_canon _ _ _ h))
  clear_value c
  simp [hc]

@[simp] theorem execSpawnAppend_canon (rcb desc : Word) (tser t : Nat) (s : State) (h : Canon s.mem) :
    Ends (Canon ·.mem) (execSpawnAppend rcb desc tser t s) := by
  unfold execSpawnAppend
  extract_lets evt done refuse
  have hr (u : State) (hu : Canon u.mem) : Canon (refuse u).mem := by simp [refuse, done, hu]
  split
  · simp [h]
  · split
    · exact ends_next.2 (hr s h)
    · extract_lets tail
      split
      · exact ends_next.2 (whenReady_canon h hr fun u hu => whenReady_canon hu hr fun u hu => whenReady_canon hu hr fun u hu =>
          whenReady_canon hu (by simp +contextual [done]) (by simp +contextual [done]))
      · exact ends_next.2 (hr s h)

/-! ### Swarm -/

@[simp] theorem routeOp_leaves {m : SMap Byte} (f : YA) (s : State) (h : s.mem = m) : Leaves id m (routeOp f s) := by
  simp [routeOp, h]

@[simp] theorem rtverTable_leaves {m : SMap Byte} (va : Nat) (s : State) (h : s.mem = m) : Leaves id m (rtverTable va s) := by
  unfold rtverTable
  split
  · rename_i t e
    exact (leaves_ok ..).2 (registerTable_leaves va s h t e)
  · simp
  · simp

@[simp] theorem rtverOp_leaves {m : SMap Byte} (f : YA) (s : State) (h : s.mem = m) : Leaves id m (rtverOp f s) := by
  simp +contextual [rtverOp, h]

@[simp] theorem rtverKeeps_mem (f : YA) (s : State) : (rtverKeeps f s).mem = s.mem := by
  unfold rtverKeeps
  split <;> simp

@[simp] theorem setRoute_mem (o : RouteOp) (s : State) : (setRoute o s).mem = s.mem := by
  simp [setRoute]

@[simp] theorem dropRoute_mem (o : RouteOp) (s : State) : (dropRoute o s).mem = s.mem := by
  simp [dropRoute]

@[simp] theorem addDone_mem (o : RouteOp) (n fl : Nat) (s : State) : (addDone o n fl s).mem = s.mem := by
  unfold addDone
  split <;> simp

@[simp] theorem reportStop_mem (o : RouteOp) (cause : Nat) (info : Word) (s : State) : (reportStop o cause info s).mem = s.mem := by
  simp [reportStop, apply_ite State.mem]

@[simp] theorem stopRoute_mem (o : RouteOp) (cause : Nat) (info : Word) (s : State) : (stopRoute o cause info s).mem = s.mem := by
  simp [stopRoute]

@[simp] theorem stopRouteMem_mem (o : RouteOp) (e : MemErr) (s : State) : (stopRouteMem o e s).mem = s.mem := by
  simp [stopRouteMem]

@[simp] theorem reserveSlot_mem (o : RouteOp) (h a : Nat) (s : State) : (reserveSlot o h a s).mem = s.mem := by
  unfold reserveSlot
  rw [← Prod.eta (engTake _ _ _)]
  simp

@[simp] theorem chooseFrom_mem (o : RouteOp) (bad : Option MemErr) (x : Table) (h : Nat) (s : State) :
    (chooseFrom o bad x h s).mem = s.mem := by
  unfold chooseFrom
  rw [← Prod.eta (engTake _ _ _)]
  dsimp only
  split
  · simp
  · split
    · simp
    · refine (engTry_mem (by simp) (by simp) fun n => ?_).trans (engTake_mem ..)
      split
      · rw [← Prod.eta (engTake _ _ _)]
        simp
      · split <;> simp

@[simp] theorem routeChoose_mem (o : RouteOp) (s : State) : (routeChoose o s).mem = s.mem := by
  unfold routeChoose
  dsimp only
  generalize (if o.doneVa = 0 then (o, none) else _ : RouteOp × Option MemErr) = p
  split
  · simp
  · rename_i u hu
    have hm := registerTable_leaves _ s rfl u hu
    split
    · simpa using hm
    · exact (engTry_mem (by simp) (by simp) (by simp)).trans (by simpa using hm)

@[simp] theorem routeLoad_canon (o : RouteOp) (h : Nat) (s : State) (hc : Canon s.mem) : Canon (routeLoad o h s).mem := by
  unfold routeLoad
  split <;> simp +contextual [hc]

@[simp] theorem routeRoom_canon (o : RouteOp) (s : State) (h : Canon s.mem) : Canon (routeRoom o s).mem := by
  simp +contextual [routeRoom, h]

@[simp] theorem execRouteChoice_canon (k : Nat) (s : State) (h : Canon s.mem) : Ends (Canon ·.mem) (execRouteChoice k s) := by
  unfold execRouteChoice
  (repeat' split) <;> simp [h]

@[simp] theorem nextDelivery_mem (o : RouteOp) (s : State) : (nextDelivery o s).mem = s.mem := by
  simp [nextDelivery]

@[simp] theorem deliverPiece_canon (o : RouteOp) (h w : Nat) (s : State) (hc : Canon s.mem) : Canon (deliverPiece o h w s).mem := by
  simp +contextual [deliverPiece, hc]

@[simp] theorem execRouteDelivery_canon (k : Nat) (s : State) (h : Canon s.mem) : Ends (Canon ·.mem) (execRouteDelivery k s) := by
  unfold execRouteDelivery
  split <;> simp +contextual [h]

@[simp] theorem finishRoute_mem (o : RouteOp) (s : State) : (finishRoute o s).mem = s.mem := by
  unfold finishRoute
  (repeat' split) <;> simp

@[simp] theorem execRoutedAdd_canon (k : Nat) (s : State) (h : Canon s.mem) : Ends (Canon ·.mem) (execRoutedAdd k s) := by
  unfold execRoutedAdd
  split
  · simp [h]
  · split
    · simp [h]
    · refine ends_next.2 (engTry_canon h (by simp) (by simp) fun w u hu => ?_)
      dsimp only
      split
      · simp [hu]
      · split
        · simp [hu]
        · exact whenReady_canon (by simp [hu]) (by simp +contextual) (by simp +contextual)

@[simp] theorem setSwitch_mem (w : Switch) (s : State) : (setSwitch w s).mem = s.mem := by
  simp [setSwitch]

@[simp] theorem dropSwitch_mem (w : Switch) (s : State) : (dropSwitch w s).mem = s.mem := by
  simp [dropSwitch]

@[simp] theorem addSwitch_mem (tab e r : Nat) (k : SwKind) (step : Nat) (s : State) : (addSwitch tab e r k step s).2.mem = s.mem := by
  simp [addSwitch]

@[simp] theorem statWrite_canon (va n v : Nat) (s : State) (h : Canon s.mem) : Canon (statWrite va n v s).mem := by
  unfold statWrite
  split <;> simp [h]

@[simp] theorem startReplica_canon (tab e r h : Nat) (s : State) (hc : Canon s.mem) : Canon (startReplica tab e r h s).mem := by
  unfold startReplica
  split
  · generalize ha : addSwitch _ _ _ _ _ _ = a
    have hu : Canon a.2.mem := by simp [← ha, hc]
    obtain ⟨i, u⟩ := a
    dsimp only
    rw [← Prod.eta (freshId _)]
    simpa using hu
  · exact hc

@[simp] theorem startRetire_mem (tab e r : Nat) (s : State) : (startRetire tab e r s).mem = s.mem := by
  simp [startRetire]

@[simp] theorem sampleExpert_canon (tab h m : Nat) (x : Nat × Nat × Nat) (s : State) (hc : Canon s.mem) :
    Canon (sampleExpert tab h m x s).mem := by
  unfold sampleExpert
  extract_lets
  split
  split
  · exact hc
  · extract_lets a k bleft gone hot cold crun busy free put
    have hp (n : Nat) {u : State} (hu : Canon u.mem) : Canon (put n u).mem := by simp [put, hu]
    clear_value put free crun busy
    split
    · exact hp _ (startReplica_canon _ _ _ _ _ hc)
    · split
      · exact hp _ (by simp [hc])
      · exact hp _ hc

@[simp] theorem sampleUses_mem (tab h : Nat) (old s : State) : (sampleUses tab h old s).mem = s.mem := by
  simp [sampleUses, foldl_mem]

@[simp] theorem sampleTable_canon (tab h : Nat) (s : State) (hc : Canon s.mem) : Canon (sampleTable tab h s).mem := by
  simp +contextual [sampleTable, hc]

@[simp] theorem execSwarmSample_canon (tab : Nat) (s : State) (h : Canon s.mem) : Ends (Canon ·.mem) (execSwarmSample tab s) := by
  unfold execSwarmSample
  split
  · simp [h]
  · extract_lets evt
    split
    · simp [h]
    · refine ends_next.2 (engTry_canon h (by simp) (by simp) fun w u hu => ?_)
      dsimp only
      (repeat' split) <;> simp [hu]

@[simp] theorem execReplicaCopyStop_canon (sw : Nat) (s : State) (h : Canon s.mem) : Ends (Canon ·.mem) (execReplicaCopyStop sw s) := by
  unfold execReplicaCopyStop
  split <;> simp +contextual [h]

@[simp] theorem appendTask_mem (k t : Nat) (s : State) : (appendTask k t s).mem = s.mem := by
  simp [appendTask]

@[simp] theorem replicaSteps_canon (w : Switch) (h k : Nat) (s : State) (hc : Canon s.mem) : Canon (replicaSteps w h k s).mem := by
  unfold replicaSteps
  split <;> simp [hc]

@[simp] theorem execReplicaCopyDone_canon (sw : Nat) (s : State) (h : Canon s.mem) : Ends (Canon ·.mem) (execReplicaCopyDone sw s) := by
  unfold execReplicaCopyDone
  split <;> simp +contextual [h]

@[simp] theorem endQuietly_canon (va : Nat) (s : State) (h : Canon s.mem) : Canon (endQuietly va s).mem := by
  simp +contextual [endQuietly, h]

@[simp] theorem redirectSlot_mem (w : Switch) (h k : Nat) (s : State) : (redirectSlot w h k s).mem = s.mem := by
  unfold redirectSlot
  refine engTry_mem (by simp) (by simp) fun ⟨g, n, r, k', c⟩ => ?_
  dsimp only
  rw [← Prod.eta (engTake _ _ _)]
  simp [apply_ite State.mem]

@[simp] theorem voidSlot_canon (w : Switch) (h k : Nat) (s : State) (hc : Canon s.mem) : Canon (voidSlot w h k s).mem := by
  simp +contextual [voidSlot, hc]

@[simp] theorem closeInbox_canon (w : Switch) (k : Nat) (s : State) (h : Canon s.mem) : Canon (closeInbox w k s).mem := by
  unfold closeInbox
  split <;> simp +contextual [h]

@[simp] theorem redirectSteps_canon (w : Switch) (h k : Nat) (s : State) (hc : Canon s.mem) : Canon (redirectSteps w h k s).mem := by
  unfold redirectSteps
  (repeat' split) <;> simp [hc]

@[simp] theorem removeReplica_canon (w : Switch) (s : State) (h : Canon s.mem) : Canon (removeReplica w s).mem := by
  simp [removeReplica, h]

@[simp] theorem abandonExpert_canon (w : Switch) (h n : Nat) (s : State) (hc : Canon s.mem) : Canon (abandonExpert w h n s).mem := by
  simp [abandonExpert, hc]

@[simp] theorem watchConsumed_mem (tab e k : Nat) (s : State) : (watchConsumed tab e k s).mem = s.mem := by
  unfold watchConsumed
  split <;> simp [apply_ite State.mem]

@[simp] theorem restartSteps_canon (w : Switch) (h n k : Nat) (s : State) (hc : Canon s.mem) : Canon (restartSteps w h n k s).mem := by
  unfold restartSteps
  (repeat' split) <;> simp [hc]

@[simp] theorem clearLoss_canon (w : Switch) (s : State) (h : Canon s.mem) : Canon (clearLoss w s).mem := by
  simp +contextual [clearLoss, h]

@[simp] theorem execRedirection_canon (sw : Nat) (s : State) (h : Canon s.mem) : Ends (Canon ·.mem) (execRedirection sw s) := by
  unfold execRedirection
  split <;> simp +contextual [h]

@[simp] theorem loseReplica_mem (evt : Instr) (tab e r : Nat) (k : SwKind) (s : State) : (loseReplica evt tab e r k s).mem = s.mem := by
  unfold loseReplica
  split
  · rfl
  · rw [← Prod.eta (addSwitch _ _ _ _ _ _)]
    simp [apply_ite State.mem]

@[simp] theorem execReplicaLoss_canon (tab e r : Nat) (s : State) (h : Canon s.mem) : Ends (Canon ·.mem) (execReplicaLoss tab e r s) := by
  simp [execReplicaLoss, h]

@[simp] theorem execReplica0Loss_canon (tab e : Nat) (s : State) (h : Canon s.mem) : Ends (Canon ·.mem) (execReplica0Loss tab e s) := by
  simp [execReplica0Loss, h]

@[simp] theorem endMerge_mem (x : Table) (s : State) : (endMerge x s).mem = s.mem := by
  simp [endMerge]

@[simp] theorem addMdone_mem (h n fl tser t : Nat) (s : State) : (addMdone h n fl tser t s).mem = s.mem := by
  unfold addMdone
  split <;> simp

@[simp] theorem stopMerge_mem (x : Table) (h : Nat) (e : MemErr) (s : State) : (stopMerge x h e s).mem = s.mem := by
  simp [stopMerge, apply_ite State.mem]

@[simp] theorem mergeElement_canon (x : Table) (p : MergePos) (h w0 w : Nat) (s : State) (hc : Canon s.mem) :
    Canon (mergeElement x p h w0 w s).mem := by
  simp +contextual [mergeElement, hc]

@[simp] theorem finishMerge_canon (x : Table) (p : MergePos) (h : Nat) (s : State) (hc : Canon s.mem) :
    Canon (finishMerge x p h s).mem := by
  simp +contextual [finishMerge, hc]

@[simp] theorem execGradientMerge_canon (tab : Nat) (s : State) (h : Canon s.mem) : Ends (Canon ·.mem) (execGradientMerge tab s) := by
  unfold execGradientMerge
  split
  · simp [h]
  · split
    · simp [h]
    · extract_lets evt
      split
      · simp [h]
      · refine ends_next.2 (engTry_canon h (by simp) (by simp +contextual) fun w u hu => ?_)
        split
        · simp [hu]
        · refine engTry_canon hu (by simp) (by simp +contextual) fun y v hv => ?_
          split
          · simp [hv]
          · extract_lets x
            split
            · simp [x, hv]
            · exact engTry_canon (by simp [x, hv]) (by simp) (by simp +contextual) (by simp +contextual)

/-! ### Waggle -/

@[simp] theorem wglOp_leaves {m : SMap Byte} (f : YA) (s : State) (h : s.mem = m) : Leaves id m (wglOp f s) := by
  simp [wglOp, h]

@[simp] theorem setStatus_mem (tag v : Nat) (s : State) : (setStatus tag v s).mem = s.mem := by
  simp [setStatus]

@[simp] theorem wglqOp_leaves {m : SMap Byte} (f : YA) (s : State) (h : s.mem = m) : Leaves id m (wglqOp f s) := by
  simp [wglqOp, h]

@[simp] theorem wglkOp_leaves {m : SMap Byte} (f : YA) (s : State) (h : s.mem = m) : Leaves id m (wglkOp f s) := by
  simp [wglkOp, h]

@[simp] theorem setColl_mem (c : Coll) (s : State) : (setColl c s).mem = s.mem := by
  simp [setColl]

@[simp] theorem dropColl_mem (c : Coll) (s : State) : (dropColl c s).mem = s.mem := by
  simp [dropColl]

@[simp] theorem leaveStatus_mem (c : Coll) (st : Nat) (s : State) : (leaveStatus c st s).mem = s.mem := by
  unfold leaveStatus
  split <;> simp

@[simp] theorem finishAbort_mem (c : Coll) (fl : Nat) (s : State) : (finishAbort c fl s).mem = s.mem := by
  unfold finishAbort
  split <;> simp

@[simp] theorem execWaggleAbort_canon (tag launch : Nat) (poison : Bool) (s : State) (h : Canon s.mem) :
    Ends (Canon ·.mem) (execWaggleAbort tag launch poison s) := by
  unfold execWaggleAbort
  (repeat' split) <;> simp [h]

@[simp] theorem failColl_mem (c : Coll) (e : MemErr) (s : State) : (failColl c e s).mem = s.mem := by
  simp [failColl]

@[simp] theorem failPiece_mem (c : Coll) (p : Nat × List Byte) (e : MemErr) (s : State) : (failPiece c p e s).mem = s.mem := by
  simp [failPiece, apply_ite State.mem]

@[simp] theorem writePiece_canon (c : Coll) (p : Nat × List Byte) (s : State) (h : Canon s.mem) : Canon (writePiece c p s).mem := by
  simp [writePiece, h]

@[simp] theorem refuseLaunch_mem (q : WglQ) (n launch : Nat) (done : Option Nat) (group : List (BitVec 17)) (code : Nat) (info : Word)
    (s : State) : (refuseLaunch q n launch done group code info s).mem = s.mem := by
  unfold refuseLaunch
  split <;> simp [foldl_mem]

@[simp] theorem startColl_mem (c : Coll) (s : State) : (startColl c s).mem = s.mem := by
  simp [startColl, apply_ite State.mem, foldl_mem]

@[simp] theorem launchRead_mem (q : WglQ) (n : Nat) (group : Bool × List (BitVec 17)) (prog : Except MemErr (List Word)) (s : State) :
    (launchRead q n group prog s).mem = s.mem := by
  unfold launchRead
  extract_lets tag launch running u done donePa no
  have hno (c : Nat) (i : Word) : (no c i).mem = s.mem := by simp [no, u]
  have hu : u.mem = s.mem := rfl
  clear_value no donePa done u
  simp only [apply_ite State.mem, hno]
  rw [ite_eq_left_iff]
  intro _
  (repeat' split) <;> simp [hno, hu]

@[simp] theorem killTag_mem (tag : Nat) (s : State) : (killTag tag s).mem = s.mem := by
  unfold killTag
  split <;> simp

@[simp] theorem execWaggleLaunch_canon (k : Nat) (s : State) (h : Canon s.mem) : Ends (Canon ·.mem) (execWaggleLaunch k s) := by
  unfold execWaggleLaunch
  split
  · exact ends_next.2 h
  · split
    · split <;> simp [h]
    · split
      · simp [h]
      · refine ends_next.2 (engTry_canon h (by simp) (by simp +contextual) fun n u hu => ?_)
        dsimp only
        generalize (if bit n 83 = true then 0 else 4 * cdRanks n) = z
        split
        · simp [hu]
        · simp [hu]
        · simp [hu]
        · simp [hu]
        · rw [← Prod.eta (engTake _ _ _)]
          simp [hu]
        · rw [← Prod.eta (engTake _ _ _)]
          simp [hu]

@[simp] theorem execSignatureAgreement_canon (k : Nat) (s : State) (h : Canon s.mem) :
    Ends (Canon ·.mem) (execSignatureAgreement k s) := by
  unfold execSignatureAgreement
  split
  · simp [h]
  · extract_lets mine u agreed all chunks vals v w
    have hu : Canon u.mem := h
    clear_value u
    have hv : Canon v.mem := by
      unfold v
      split <;> exact hu
    clear_value v
    have hw : Canon w.mem := by
      simp only [w]
      rw [foldl_mem _ (by simp)]
      exact hv
    clear_value w
    split
    · simp [hu]
    · simp [hw]

@[simp] theorem readPieces_canon {c : Coll} {va n : Nat} {k : List Byte → Coll → State → State} {s : State} (h : Canon s.mem)
    (hk : ∀ bs c s, Canon s.mem → Canon (k bs c s).mem) : Canon (readPieces c va n k s).mem := by
  simp +contextual [readPieces, h, hk]

@[simp] theorem whenPlaced_canon {c : Coll} {va n : Nat} {k : State → State} {s : State} (h : Canon s.mem)
    (hk : ∀ s, Canon s.mem → Canon (k s).mem) : Canon (whenPlaced c va n k s).mem := by
  simp +contextual [whenPlaced, h, hk]

@[simp] theorem beginChunk_mem (c : Coll) (va : Nat) (bs : List Byte) (s : State) : (beginChunk c va bs s).mem = s.mem := by
  simp [beginChunk]

@[simp] theorem writePieces_canon {c : Coll} {k : Coll → State → State} {s : State} (h : Canon s.mem)
    (hk : ∀ c s, Canon s.mem → Canon (k c s).mem) : Canon (writePieces c k s).mem := by
  simp [writePieces, h, hk]

@[simp] theorem toStep_mem (c : Coll) (pc : Nat) (s : State) : (toStep c pc s).mem = s.mem := by
  simp [toStep]

@[simp] theorem nextStep_mem (c : Coll) (s : State) : (nextStep c s).mem = s.mem := by
  simp [nextStep]

@[simp] theorem onStep_canon {f : Coll → State → State} {s : State} (h : Canon s.mem) (hf : ∀ c s, Canon s.mem → Canon (f c s).mem) :
    Ends (Canon ·.mem) (onStep f s) := by
  unfold onStep
  split <;> simp [h, hf]

@[simp] theorem wsendStep_canon (f : WP) (c : Coll) (s : State) (h : Canon s.mem) : Canon (wsendStep f c s).mem := by
  unfold wsendStep
  extract_lets
  split
  · exact readPieces_canon h (by simp +contextual)
  · split <;> simp [h]

@[simp] theorem execWsend_canon (f : WP) (s : State) (h : Canon s.mem) : Ends (Canon ·.mem) (execWsend f s) := by
  simp +contextual [execWsend, h]

@[simp] theorem wrecvStep_canon (f : WP) (c : Coll) (s : State) (h : Canon s.mem) : Canon (wrecvStep f c s).mem := by
  unfold wrecvStep
  dsimp only
  (repeat' split) <;> simp [h]

@[simp] theorem execWrecv_canon (f : WP) (s : State) (h : Canon s.mem) : Ends (Canon ·.mem) (execWrecv f s) := by
  simp +contextual [execWrecv, h]

@[simp] theorem copyRead_canon (f : WC) (p : Nat × Nat) (bs : List Byte) (t : Nat) (c : Coll) (s : State) (h : Canon s.mem) :
    Canon (copyRead f p bs t c s).mem := by
  unfold copyRead
  extract_lets
  split
  · simp [h]
  · exact whenPlaced_canon h (by simp)

@[simp] theorem wcopyStep_canon (f : WC) (c : Coll) (s : State) (h : Canon s.mem) : Canon (wcopyStep f c s).mem := by
  unfold wcopyStep
  dsimp only
  (repeat' split) <;> simp +contextual [h]

@[simp] theorem execWcopy_canon (f : WC) (s : State) (h : Canon s.mem) : Ends (Canon ·.mem) (execWcopy f s) := by
  simp +contextual [execWcopy, h]

@[simp] theorem wwaitStep_mem (thr : Nat) (c : Coll) (s : State) : (wwaitStep thr c s).mem = s.mem := by
  unfold wwaitStep
  dsimp only
  (repeat' split) <;> simp

@[simp] theorem execWwait_canon (thr : BitVec 48) (s : State) (h : Canon s.mem) : Ends (Canon ·.mem) (execWwait thr s) := by
  simp [execWwait, h]

@[simp] theorem collAdd_canon {c : Coll} {pa : Nat} {va : Word} {n fl : Nat} {k : Coll → State → State} {s : State} (h : Canon s.mem)
    (hk : ∀ c s, Canon s.mem → Canon (k c s).mem) : Canon (collAdd c pa va n fl k s).mem := by
  unfold collAdd
  split <;> simp -implicitDefEqProofs [h, hk]

@[simp] theorem wsigStep_canon (n : Nat) (c : Coll) (s : State) (h : Canon s.mem) : Canon (wsigStep n c s).mem := by
  simp [wsigStep, h]

@[simp] theorem execWsig_canon (n : BitVec 20) (s : State) (h : Canon s.mem) : Ends (Canon ·.mem) (execWsig n s) := by
  simp +contextual [execWsig, h]

@[simp] theorem execWloop_canon (cnt : BitVec 32) (s : State) (h : Canon s.mem) : Ends (Canon ·.mem) (execWloop cnt s) := by
  simp [execWloop, h]

@[simp] theorem wendlStep_mem (c : Coll) (s : State) : (wendlStep c s).mem = s.mem := by
  unfold wendlStep
  (repeat' split) <;> simp

@[simp] theorem execWendl_canon (s : State) (h : Canon s.mem) : Ends (Canon ·.mem) (execWendl s) := by
  simp [execWendl, h]

@[simp] theorem enterVal_mem (kind : Nat) (v : Word) (c : Coll) (s : State) : (enterVal kind v c s).mem = s.mem := by
  simp [enterVal, foldl_mem]

@[simp] theorem wagreeStep_canon (b off : Nat) (c : Coll) (s : State) (h : Canon s.mem) : Canon (wagreeStep b off c s).mem := by
  unfold wagreeStep
  (repeat' split) <;> simp [h]

@[simp] theorem execWagree_canon (buf : BitVec 2) (off : BitVec 32) (s : State) (h : Canon s.mem) :
    Ends (Canon ·.mem) (execWagree buf off s) := by
  simp +contextual [execWagree, h]

@[simp] theorem wflagsStep_mem (c : Coll) (s : State) : (wflagsStep c s).mem = s.mem := by
  unfold wflagsStep
  (repeat' split) <;> simp

@[simp] theorem execWflags_canon (s : State) (h : Canon s.mem) : Ends (Canon ·.mem) (execWflags s) := by
  simp [execWflags, h]

@[simp] theorem completeColl_mem (c : Coll) (s : State) : (completeColl c s).mem = s.mem := by
  simp [completeColl]

@[simp] theorem wendStep_canon (c : Coll) (s : State) (h : Canon s.mem) : Canon (wendStep c s).mem := by
  unfold wendStep
  split <;> simp [h]

@[simp] theorem execWend_canon (s : State) (h : Canon s.mem) : Ends (Canon ·.mem) (execWend s) := by
  simp +contextual [execWend, h]

@[simp] theorem enterRs_mem (f : WR) (c : Coll) (s : State) : (enterRs f c s).mem = s.mem := by
  simp [enterRs]

@[simp] theorem reduceChunk_canon (f : WR) (i : Nat) (own : List Byte) (c : Coll) (s : State) (h : Canon s.mem) :
    Canon (reduceChunk f i own c s).mem := by
  unfold reduceChunk
  split
  refine whenPlaced_canon h fun u hu => ?_
  extract_lets v
  have hv : Canon v.mem := by
    unfold v
    split
    · exact canon_foldl hu (by simp)
    · exact hu
  simp [hv]

@[simp] theorem rerunChunk_mem (i : Nat) (c : Coll) (s : State) : (rerunChunk i c s).mem = s.mem := by
  unfold rerunChunk
  split <;> simp [foldl_mem]

@[simp] theorem refetch_mem (i : Nat) (e : Nat × Nat × ChunkMsg) (c : Coll) (s : State) : (refetch i e c s).mem = s.mem := by
  unfold refetch
  dsimp only
  (repeat' split) <;> simp

@[simp] theorem rsStep_canon (f : WR) (c : Coll) (s : State) (h : Canon s.mem) : Canon (rsStep f c s).mem := by
  unfold rsStep
  dsimp only
  (repeat' split) <;> simp +contextual [h]

@[simp] theorem wrrsStep_canon (f : WR) (c : Coll) (s : State) (h : Canon s.mem) : Canon (wrrsStep f c s).mem := by
  simp [wrrsStep, h]

@[simp] theorem execWrrs_canon (f : WR) (s : State) (h : Canon s.mem) : Ends (Canon ·.mem) (execWrrs f s) := by
  simp +contextual [execWrrs, h]

@[simp] theorem spillOne_canon (io : Nat) (s : State) (h : Canon s.mem) : Canon (spillOne io s).mem := by
  unfold spillOne
  split <;> simp [h]

@[simp] theorem spillDown_canon (io : Nat) : ∀ (n : Nat) (s : State), Canon s.mem → Canon (spillDown io n s).mem
  | 0, _, h => h
  | n + 1, s, h => by
    unfold spillDown
    split
    · exact h
    · exact spillDown_canon io n _ (spillOne_canon io s h)

@[simp] theorem execChunkArrival_canon (m : ChunkMsg) (s : State) (h : Canon s.mem) : Ends (Canon ·.mem) (execChunkArrival m s) := by
  unfold execChunkArrival
  split <;> simp [h]

@[simp] theorem execSwitchSlotLoss_canon (k inst chunk : Nat) (s : State) (h : Canon s.mem) :
    Ends (Canon ·.mem) (execSwitchSlotLoss k inst chunk s) := by
  unfold execSwitchSlotLoss
  (repeat' split) <;> simp [h]

@[simp] theorem abortTurn_canon (c : Coll) (s : State) (h : Canon s.mem) : Canon (abortTurn c s).mem := by
  simp [abortTurn, h]

/-! ### Pool -/

@[simp] theorem releaseWaiter_canon (line : Nat) (w : Waiter) (s : State) (h : Canon s.mem) : Canon (releaseWaiter line w s).mem := by
  unfold releaseWaiter
  cases w.who with
  | core c =>
    refine atCore_canon h fun u hu => ?_
    split <;> simp [hu]
  | wag tag launch =>
    dsimp only
    split <;> simp [h]
  | dep | queue | job | watch | merge | consumed => simp [h]

@[simp] theorem releaseLine_canon (line : Nat) (s : State) (h : Canon s.mem) : Canon (releaseLine line s).mem := by
  simp +contextual [releaseLine, h]

@[simp] theorem releaseRecord_canon (line : Nat) (s : State) (h : Canon s.mem) : Canon (releaseRecord line s).mem := by
  unfold releaseRecord
  exact canon_foldl (canon_foldl h (by simp +contextual)) (by simp +contextual)

@[simp] theorem poisonLine_canon (line : Nat) (s : State) (h : Canon s.mem) : Canon (poisonLine line s).mem := by
  simp [poisonLine, h]

@[simp] theorem execLinePoisoned_canon (line : Nat) (s : State) (h : Canon s.mem) : Ends (Canon ·.mem) (execLinePoisoned line s) := by
  simp [execLinePoisoned, h]

@[simp] theorem execCombSramError_canon (home : Nat) (s : State) (h : Canon s.mem) : Ends (Canon ·.mem) (execCombSramError home s) := by
  simp [execCombSramError, h]

@[simp] theorem bumpLease_mem (line : Nat) (s : State) : (bumpLease line s).mem = s.mem := by
  simp [bumpLease]

@[simp] theorem birsp_mem (line p : Nat) (s : State) : (birsp line p s).mem = s.mem := by
  simp [birsp]

@[simp] theorem execMemrdCompletion_canon (line : Nat) (r : PoolReply) (s : State) (h : Canon s.mem) :
    Ends (Canon ·.mem) (execMemrdCompletion line r s) := by
  unfold execMemrdCompletion
  split <;> simp [h]

@[simp] theorem execMeminvCompletion_canon (line : Nat) (s : State) (h : Canon s.mem) :
    Ends (Canon ·.mem) (execMeminvCompletion line s) := by
  simp [execMeminvCompletion, h]

@[simp] theorem poolTakes_mem (line n : Nat) (s : State) : (poolTakes line n s).mem = s.mem := by
  unfold poolTakes
  split <;> simp

@[simp] theorem copyWritten_canon (op line : Nat) (refused : Bool) (s : State) (h : Canon s.mem) :
    Canon (copyWritten op line refused s).mem := by
  unfold copyWritten
  (repeat' split) <;> simp [h]

@[simp] theorem remotePut_canon (src : BitVec 17) (op pa : Nat) (bs : List Byte) (s : State) (h : Canon s.mem) :
    Canon (remotePut src op pa bs s).mem := by
  simp [remotePut, h]

@[simp] theorem remoteWritten_canon (m : GMsg) (line : Nat) (refused : Bool) (s : State) (h : Canon s.mem) :
    Canon (remoteWritten m line refused s).mem := by
  unfold remoteWritten
  (repeat' split) <;> simp [h]

@[simp] theorem wrCompleted_canon (line : Nat) (why : WrWhy) (refused : Bool) (s : State) (h : Canon s.mem) :
    Canon (wrCompleted line why refused s).mem := by
  unfold wrCompleted
  split <;> simp [h]

@[simp] theorem execMemwrCompletion_canon (line : Nat) (refused : Bool) (s : State) (h : Canon s.mem) :
    Ends (Canon ·.mem) (execMemwrCompletion line refused s) := by
  unfold execMemwrCompletion
  split <;> simp [h]

@[simp] theorem noteSnoop_mem (kind line : Nat) (owned : Bool) (s : State) : (noteSnoop kind line owned s).mem = s.mem := by
  simp [noteSnoop, apply_ite State.mem]

@[simp] theorem snoopActs_mem (evt : Instr) (kind line : Nat) (s : State) : (snoopActs evt kind line s).mem = s.mem := by
  unfold snoopActs
  dsimp only
  (repeat' split) <;> simp

@[simp] theorem pinSnoop_mem (kind line : Nat) (s : State) : (pinSnoop kind line s).mem = s.mem := by
  simp [pinSnoop, apply_ite State.mem]

@[simp] theorem snoop_mem (evt : Instr) (kind line : Nat) (s : State) : (snoop evt kind line s).mem = s.mem := by
  simp [snoop, apply_ite State.mem]

@[simp] theorem execBisnpinv_canon (line : Nat) (s : State) (h : Canon s.mem) : Ends (Canon ·.mem) (execBisnpinv line s) := by
  simp [execBisnpinv, h]

@[simp] theorem execBisnpdata_canon (line : Nat) (s : State) (h : Canon s.mem) : Ends (Canon ·.mem) (execBisnpdata line s) := by
  simp [execBisnpdata, h]

@[simp] theorem execBisnpcur_canon (line : Nat) (s : State) (h : Canon s.mem) : Ends (Canon ·.mem) (execBisnpcur line s) := by
  simp [execBisnpcur, h]

@[simp] theorem execSnoopPinTimeout_canon (line : Nat) (s : State) (h : Canon s.mem) :
    Ends (Canon ·.mem) (execSnoopPinTimeout line s) := by
  unfold execSnoopPinTimeout
  (repeat' split) <;> simp [h]

@[simp] theorem lostWrite_canon (t : PoolTx) (s : State) (h : Canon s.mem) : Canon (lostWrite t s).mem := by
  unfold lostWrite
  (repeat' split) <;> simp [h]

@[simp] theorem loseLine_canon (line : Nat) (s : State) (h : Canon s.mem) : Canon (loseLine line s).mem := by
  simp [loseLine, h]

@[simp] theorem commitsLose_canon (on : Nat → Bool) (s : State) (h : Canon s.mem) : Canon (commitsLose on s).mem := by
  unfold commitsLose
  extract_lets one
  refine canon_foldl h fun u c hu => ?_
  unfold one
  split
  · exact atCore_canon hu fun v hv => by
      dsimp only
      split <;> simp [hv]
  · exact hu

@[simp] theorem execCxlPortDown_canon (p : Nat) (s : State) (h : Canon s.mem) : Ends (Canon ·.mem) (execCxlPortDown p s) := by
  unfold execCxlPortDown
  split
  · simp [h]
  · split
    · simp [h]
    · extract_lets on u v txs w x
      have hu : Canon u.mem := commitsLose_canon on s h
      have hv : Canon v.mem := by simpa [v] using hu
      have hx : Canon x.mem := canon_foldl hv (by simp +contextual)
      exact ends_next.2 (canon_foldl hx (by simp +contextual))

@[simp] theorem execCxlPortReturnToService_canon (p : Nat) (s : State) (h : Canon s.mem) :
    Ends (Canon ·.mem) (execCxlPortReturnToService p s) := by
  unfold execCxlPortReturnToService
  split <;> simp [h]

/-! ### Fabric -/

@[simp] theorem failWith_mem (m : GMsg) (op piece : Nat) (e : MemErr) (s : State) : (failWith m op piece e s).mem = s.mem := by
  simp [failWith]

@[simp] theorem remoteWrite_canon (m : GMsg) (op piece : Nat) (va : Word) (bs : List Byte) (s : State) (h : Canon s.mem) :
    Canon (remoteWrite m op piece va bs s).mem := by
  unfold remoteWrite
  split <;> simp +contextual [h]

@[simp] theorem remoteRead_mem (m : GMsg) (op piece : Nat) (va : Word) (n : Nat) (s : State) :
    (remoteRead m op piece va n s).mem = s.mem := by
  unfold remoteRead
  dsimp only
  (repeat' split) <;> simp

@[simp] theorem remoteAdd_canon (m : GMsg) (op : Nat) (va n : Word) (fl : BitVec 32) (s : State) (h : Canon s.mem) :
    Canon (remoteAdd m op va n fl s).mem := by
  unfold remoteAdd
  split <;> simp +contextual [h]

@[simp] theorem gotData_canon (op k : Nat) (bs : List Byte) (s : State) (h : Canon s.mem) : Canon (gotData op k bs s).mem := by
  unfold gotData
  dsimp only
  (repeat' split) <;> simp [h]

@[simp] theorem gotDone_mem (op k : Nat) (s : State) : (gotDone op k s).mem = s.mem := by
  unfold gotDone
  (repeat' split) <;> simp

@[simp] theorem remoteAdded_mem (o : Cop) (s : State) : (remoteAdded o s).mem = s.mem := by
  simp [remoteAdded]

@[simp] theorem gotFail_mem (op cause : Nat) (info : Word) (s : State) : (gotFail op cause info s).mem = s.mem := by
  unfold gotFail
  (repeat' split) <;> simp

@[simp] theorem gotChecked_mem (op : Nat) (s : State) : (gotChecked op s).mem = s.mem := by
  unfold gotChecked
  (repeat' split) <;> simp

@[simp] theorem gotAdded_mem (op : Nat) (refused : Bool) (s : State) : (gotAdded op refused s).mem = s.mem := by
  unfold gotAdded
  (repeat' split) <;> simp

@[simp] theorem gotVal_mem (kind tag launch inst rank : Nat) (v : Word) (s : State) :
    (gotVal kind tag launch inst rank v s).mem = s.mem := by
  unfold gotVal
  (repeat' split) <;> simp

@[simp] theorem gotSent_mem (tag launch rank inst : Nat) (s : State) : (gotSent tag launch rank inst s).mem = s.mem := by
  unfold gotSent
  split <;> simp

@[simp] theorem applyMsg_canon (m : GMsg) (s : State) (h : Canon s.mem) : Canon (applyMsg m s).mem := by
  unfold applyMsg
  (repeat' split) <;> simp [h]

@[simp] theorem execGlodricMessage_canon (m : GMsg) (s : State) (h : Canon s.mem) : Ends (Canon ·.mem) (execGlodricMessage m s) := by
  simp [execGlodricMessage, h]

@[simp] theorem resend_mem (p : Nat) (s : State) : (resend p s).mem = s.mem := foldl_mem _ (by simp) _ _
@[simp] theorem execGlodricPortWithdrawn_canon (p : Nat) (s : State) (h : Canon s.mem) :
    Ends (Canon ·.mem) (execGlodricPortWithdrawn p s) := by
  simp [execGlodricPortWithdrawn, h]

@[simp] theorem execDestinationTimeout_canon (m : BitVec 17) (s : State) (h : Canon s.mem) :
    Ends (Canon ·.mem) (execDestinationTimeout m s) := by
  simp [execDestinationTimeout, h]

@[simp] theorem execDomainTableWrite_canon (t : DomainTable) (s : State) (h : Canon s.mem) :
    Ends (Canon ·.mem) (execDomainTableWrite t s) := by
  simp [execDomainTableWrite, h]

@[simp] theorem execLinkWithdrawn_canon (bit : Nat) (s : State) (h : Canon s.mem) : Ends (Canon ·.mem) (execLinkWithdrawn bit s) := by
  simp [execLinkWithdrawn, h]

/-! ### Handles -/

@[simp] theorem produceH_mem (h : BitVec 4) (v : BitVec 256) (s : State) : (produceH h v s).mem = s.mem := by
  simp [produceH]

@[simp] theorem hldOp_leaves {m : SMap Byte} (f : SH) (s : State) (h : s.mem = m) : Leaves id m (hldOp f s) := by
  simp +contextual [hldOp, h]

@[simp] theorem hstOp_leaves {m : SMap Byte} (f : SH) (s : State) (h : s.mem = m) : Leaves id m (hstOp f s) := by
  simp +contextual [hstOp, h]

@[simp] theorem hsetOp_leaves {m : SMap Byte} (f : SH) (s : State) (h : s.mem = m) : Leaves id m (hsetOp f s) := by
  simp [hsetOp, h]

@[simp] theorem hgetOp_leaves {m : SMap Byte} (f : SH) (s : State) (h : s.mem = m) : Leaves id m (hgetOp f s) := by
  simp [hgetOp, h]

@[simp] theorem hmovOp_leaves {m : SMap Byte} (f : SH) (s : State) (h : s.mem = m) : Leaves id m (hmovOp f s) := by
  simp [hmovOp, h]

@[simp] theorem pcfgOp_leaves {m : SMap Byte} (f : SH) (s : State) (h : s.mem = m) : Leaves id m (pcfgOp f s) := by
  simp +contextual [pcfgOp, h]

@[simp] theorem psetOp_leaves {m : SMap Byte} (f : SH) (s : State) (h : s.mem = m) : Leaves id m (psetOp f s) := by
  simp [psetOp, h]

@[simp] theorem pgetOp_mem (f : SH) (s : State) : (pgetOp f s).mem = s.mem := by
  simp [pgetOp]

/-! ### Inbound -/

@[simp] theorem putInbound_canon (pa : Nat) (data : List Byte) (s : State) (h : Canon s.mem) : Canon (putInbound pa data s).mem := by
  refine canon_foldl (canon_foldl h fun u x hu => ?_) (by simp +contextual)
  split
  split
  · exact canon_wrByte _ _ hu
  · exact hu

def Pass.state : Pass → State
  | .done s => s
  | .wait s => s
@[simp] theorem passRead_mem (pa n : Nat) (s : State) : (passRead pa n s).state.mem = s.mem := by
  unfold passRead
  split
  · rfl
  · extract_lets ls
    split <;> simp [Pass.state]
@[simp] theorem passWrite_canon (pa : Nat) (data : List Byte) (s : State) (h : Canon s.mem) : Canon (passWrite pa data s).state.mem := by
  unfold passWrite
  split
  · simp [Pass.state, h]
  · extract_lets sts
    split
    · refine canon_foldl h fun u r hu => ?_
      split <;> simp [hu]
    · exact putInbound_canon _ _ _ h
@[simp] theorem passAdd_canon (pa n fl : Nat) (s : State) (h : Canon s.mem) : Canon (passAdd pa n fl s).state.mem := by
  unfold passAdd
  (repeat' split) <;> simp [Pass.state, h]
@[simp] theorem passReads_mem : ∀ (ws : List Nat) (l : List Inb) (s : State), (passReads ws l s).2.mem = s.mem
  | _, [], _ => rfl
  | ws, e :: t, s => by
    unfold passReads
    split
    · rename_i l pa n
      have hr := passRead_mem pa n s
      split
      · exact passReads_mem ws t s
      · split
        · rename_i u he
          rw [he] at hr
          exact (passReads_mem ws t u).trans hr
        · rename_i u he
          rw [he] at hr
          exact (passReads_mem ws t u).trans hr
    · exact passReads_mem _ t s

@[simp] theorem passWrites_canon : ∀ (l : List Inb) (s : State), Canon s.mem → Canon (passWrites l s).2.mem
  | [], _, h => h
  | e :: t, s, h => by
    unfold passWrites
    extract_lets go
    have hgo (p : Pass) (hp : Canon p.state.mem) : Canon (go p).2.mem := by
      unfold go
      cases p with
      | done u => exact passWrites_canon t u hp
      | wait u => exact hp
    clear_value go
    split
    · exact hgo _ (passWrite_canon _ _ _ h)
    · exact hgo _ (passAdd_canon _ _ _ _ h)
    · exact passWrites_canon t s h

@[simp] theorem pump_canon (s : State) (h : Canon s.mem) : Canon (pump s).mem := by
  unfold pump
  rw [← Prod.eta (passWrites _ _)]
  dsimp only
  rw [← Prod.eta (passReads _ _ _)]
  dsimp only
  split <;> simp [h]

@[simp] theorem enterInb_canon (e : Inb) (s : State) (h : Canon s.mem) : Canon (enterInb e s).mem := by
  simp [enterInb, h]

@[simp] theorem execInboundWrite_canon (link : Nat) (off : BitVec 36) (data : List Byte) (s : State) (h : Canon s.mem) :
    Ends (Canon ·.mem) (execInboundWrite link off data s) := by
  simp [execInboundWrite, h]

@[simp] theorem execBar2Read_canon (link : Nat) (off : BitVec 36) (n : Nat) (s : State) (h : Canon s.mem) :
    Ends (Canon ·.mem) (execBar2Read link off n s) := by
  simp [execBar2Read, h]

@[simp] theorem hostAdd_canon (n fl : Nat) (s : State) (h : Canon s.mem) : Canon (hostAdd n fl s).mem := by
  simp [hostAdd, h]

@[simp] theorem execHostCounterAdd_canon (amt fl : BitVec 32) (s : State) (h : Canon s.mem) :
    Ends (Canon ·.mem) (execHostCounterAdd amt fl s) := by
  simp [execHostCounterAdd, h]

@[simp] theorem invalidate_mem (d : Nat) (s : State) : (invalidate d s).mem = s.mem := by
  unfold invalidate
  split <;> simp

@[simp] theorem execInvalidation_canon (d : BitVec 256) (s : State) (h : Canon s.mem) : Ends (Canon ·.mem) (execInvalidation d s) := by
  simp [execInvalidation, h]

@[simp] theorem addCnt_mem (ctr : Nat) (s : State) : (addCnt ctr s).mem = s.mem := by
  unfold addCnt
  split <;> simp

@[simp] theorem execInvalidationDone_canon (ctr : Nat) (s : State) (h : Canon s.mem) :
    Ends (Canon ·.mem) (execInvalidationDone ctr s) := by
  unfold execInvalidationDone
  split <;> simp [h]

@[simp] theorem lockPage_mem (d : Nat) (s : State) : (lockPage d s).mem = s.mem := by
  unfold lockPage
  split <;> simp

@[simp] theorem execPageLock_canon (d : BitVec 128) (s : State) (h : Canon s.mem) : Ends (Canon ·.mem) (execPageLock d s) := by
  simp [execPageLock, h]

@[simp] theorem execPageUnlock_canon (d : BitVec 128) (s : State) (h : Canon s.mem) : Ends (Canon ·.mem) (execPageUnlock d s) := by
  simp [execPageUnlock, h]

@[simp] theorem execLockDone_canon (ctr : Nat) (s : State) (h : Canon s.mem) : Ends (Canon ·.mem) (execLockDone ctr s) := by
  unfold execLockDone
  dsimp only
  (repeat' split) <;> simp [h]

@[simp] theorem setWatch_mem (i : Nat) (w : Watch) (s : State) : (setWatch i w s).mem = s.mem := by
  simp [setWatch]

@[simp] theorem armWatch_mem (i : Nat) (w : Watch) (s : State) : (armWatch i w s).mem = s.mem := by
  simp [armWatch, apply_ite State.mem]

@[simp] theorem watchWrite_mem (i : Nat) (w : Word) (s : State) : (watchWrite i w s).mem = s.mem := by
  simp [watchWrite]

@[simp] theorem execCounterWatch_canon (i : Nat) (w : Word) (s : State) (h : Canon s.mem) :
    Ends (Canon ·.mem) (execCounterWatch i w s) := by
  simp [execCounterWatch, h]

/-! ### Landings -/

@[simp] theorem landKind_mem (spad : Bool) (s : State) : (landKind spad s).mem = s.mem := by
  unfold landKind
  dsimp only
  (repeat' split) <;> simp

@[simp] theorem execResultLands_canon (c : CoreId) (s : State) (h : Canon s.mem) : Ends (Canon ·.mem) (execResultLands c s) := by
  simp [execResultLands, h]

@[simp] theorem execScratchpadWriteLands_canon (c : CoreId) (s : State) (h : Canon s.mem) :
    Ends (Canon ·.mem) (execScratchpadWriteLands c s) := by
  simp [execScratchpadWriteLands, h]

@[simp] theorem landV_mem (v : VRes) (x : BitVec 256) (s : State) : (landV v x s).mem = s.mem := by
  simp [landV]

@[simp] theorem execVariableLatencyResult_canon (c : CoreId) (k : Nat) (s : State) (h : Canon s.mem) :
    Ends (Canon ·.mem) (execVariableLatencyResult c k s) := by
  refine ends_next.2 (atCore_canon h fun u hu => ?_)
  (repeat' split) <;> simp [hu]

@[simp] theorem landImg_mem (i : Img) (s : State) : (landImg i s).mem = s.mem := by
  simp [landImg]

@[simp] theorem execImageLanding_canon (c : CoreId) (k : Nat) (s : State) (h : Canon s.mem) :
    Ends (Canon ·.mem) (execImageLanding c k s) := by
  refine ends_next.2 (atCore_canon h fun u hu => ?_)
  split <;> simp [hu]

@[simp] theorem execMatrixEngineExecute_canon (c : CoreId) (s : State) (h : Canon s.mem) :
    Ends (Canon ·.mem) (execMatrixEngineExecute c s) := by
  simp +contextual [execMatrixEngineExecute, h]

@[simp] theorem execSplineArrayExecute_canon (c : CoreId) (s : State) (h : Canon s.mem) :
    Ends (Canon ·.mem) (execSplineArrayExecute c s) := by
  simp +contextual [execSplineArrayExecute, h]

@[simp] theorem wakePipes_mem (s : State) : (wakePipes s).mem = s.mem := by
  unfold wakePipes
  extract_lets c u
  rw [foldl_mem _ (by simp)]
  exact foldl_mem _ (by simp) _ _

@[simp] theorem debugGo_mem (s : State) : (debugGo s).mem = s.mem := by
  unfold debugGo
  split <;> simp

@[simp] theorem execDebugRestart_canon (c : CoreId) (s : State) (h : Canon s.mem) : Ends (Canon ·.mem) (execDebugRestart c s) := by
  simp [execDebugRestart, h]

@[simp] theorem execDbgctlWrite_canon (c : CoreId) (w : Word) (s : State) (h : Canon s.mem) :
    Ends (Canon ·.mem) (execDbgctlWrite c w s) := by
  simp +contextual [execDbgctlWrite, h]

/-! ### Lifecycle -/

@[simp] theorem settleForReset_canon (s : State) (h : Canon s.mem) : Canon (settleForReset s).mem := by
  unfold settleForReset
  extract_lets k u
  have hu : Canon u.mem := by
    unfold u
    rw [focus_mem]
    exact canon_foldl h (by simp +contextual)
  refine canon_foldl hu fun v x hv => ?_
  split <;> simp [hv]

@[simp] theorem warmReset_canon (s : State) (h : Canon s.mem) : Canon (warmReset s).mem := by
  simp [warmReset, h]

@[simp] theorem execWarmReset_canon (s : State) (h : Canon s.mem) : Ends (Canon ·.mem) (execWarmReset s) := by
  simp [execWarmReset, h]

@[simp] theorem execColdReset_canon (s : State) : Ends (Canon ·.mem) (execColdReset s) := by
  unfold execColdReset
  extract_lets up a
  exact ends_next.2 (canon_ite.2 ⟨fun _ => rfl, fun _ => rfl⟩)

@[simp] theorem setPart_mem (off : Nat) (w : Word) (s : State) : (setPart off w s).mem = s.mem := by
  simp [setPart]

@[simp] theorem msixWrite_mem (k : Nat) (w : Word) (s : State) : (msixWrite k w s).mem = s.mem := by
  simp [msixWrite, apply_ite State.mem]

@[simp] theorem bar0Write_canon (o : Nat) (w : Word) (s : State) (h : Canon s.mem) : Ends (Canon ·.mem) (bar0Write o w s) := by
  simp [bar0Write, h]

@[simp] theorem execRegisterWrite_canon (off : BitVec 16) (w : Word) (s : State) (h : Canon s.mem) :
    Ends (Canon ·.mem) (execRegisterWrite off w s) := by
  simp [execRegisterWrite, h]

@[simp] theorem byAbavas_canon {f : State → State} {s : State} (h : Canon s.mem) (hf : ∀ s, Canon s.mem → Canon (f s).mem) :
    Ends (Canon ·.mem) (byAbavas f s) := by
  simp [byAbavas, h, hf]

@[simp] theorem execAbavasTakeover_canon (s : State) (h : Canon s.mem) : Ends (Canon ·.mem) (execAbavasTakeover s) := by
  simp [execAbavasTakeover, h]

@[simp] theorem execThrottling_canon (s : State) (h : Canon s.mem) : Ends (Canon ·.mem) (execThrottling s) := by
  simp +contextual [execThrottling, h]

@[simp] theorem execThrottlingEnd_canon (s : State) (h : Canon s.mem) : Ends (Canon ·.mem) (execThrottlingEnd s) := by
  simp [execThrottlingEnd, h]

@[simp] theorem execAbavasMailboxMessage_canon (m : Word) (s : State) (h : Canon s.mem) :
    Ends (Canon ·.mem) (execAbavasMailboxMessage m s) := by
  simp -implicitDefEqProofs [execAbavasMailboxMessage, h]

@[simp] theorem setOut_mem (o : SpdmOut) (s : State) : (setOut o s).mem = s.mem := by
  simp [setOut]

@[simp] theorem freeBytes_mem (n : Nat) (s : State) : (freeBytes n s).2.mem = s.mem := by
  simp [freeBytes]

@[simp] theorem respond_mem (s : State) : (respond s).mem = s.mem := by
  simp [respond]

@[simp] theorem execGetVersion_canon (s : State) (h : Canon s.mem) : Ends (Canon ·.mem) (execGetVersion s) := by
  simp [execGetVersion, h]

@[simp] theorem execGetCapabilities_canon (s : State) (h : Canon s.mem) : Ends (Canon ·.mem) (execGetCapabilities s) := by
  simp [execGetCapabilities, h]

@[simp] theorem execNegotiateAlgorithms_canon (algs : BitVec 64) (s : State) (h : Canon s.mem) :
    Ends (Canon ·.mem) (execNegotiateAlgorithms algs s) := by
  simp [execNegotiateAlgorithms, h]

@[simp] theorem execGetDigests_canon (s : State) (h : Canon s.mem) : Ends (Canon ·.mem) (execGetDigests s) := by
  simp [execGetDigests, h]

@[simp] theorem execGetCertificate_canon (slot : BitVec 8) (off len : BitVec 16) (s : State) (h : Canon s.mem) :
    Ends (Canon ·.mem) (execGetCertificate slot off len s) := by
  simp [execGetCertificate, h]

@[simp] theorem execChallenge_canon (_slot : BitVec 8) (_nonce : BitVec 256) (s : State) (h : Canon s.mem) :
    Ends (Canon ·.mem) (execChallenge _slot _nonce s) := by
  simp [execChallenge, h]

@[simp] theorem execGetMeasurements_canon (idx : BitVec 8) (s : State) (h : Canon s.mem) :
    Ends (Canon ·.mem) (execGetMeasurements idx s) := by
  simp [execGetMeasurements, h]

/-! ### LoadStore -/

@[simp] theorem ldOp_leaves {m : SMap Byte} (f : LS) (s : State) (h : s.mem = m) : Leaves id m (ldOp f s) := by
  simp +contextual [ldOp, h]

@[simp] theorem stOp_leaves {m : SMap Byte} (f : LS) (s : State) (h : s.mem = m) : Leaves id m (stOp f s) := by
  simp +contextual [stOp, h]

@[simp] theorem produceAt_mem (rd : BitVec 6) (v : Word) (at_ : Nat) (s : State) : (produceAt rd v at_ s).mem = s.mem := by
  simp [produceAt]

@[simp] theorem sldOp_leaves {m : SMap Byte} (f : LS) (s : State) (h : s.mem = m) : Leaves id m (sldOp f s) := by
  simp +contextual [sldOp, h, apply_ite State.mem]

@[simp] theorem sstOp_leaves {m : SMap Byte} (f : LS) (s : State) (h : s.mem = m) : Leaves id m (sstOp f s) := by
  simp [sstOp, h]

@[simp] theorem sfeOp_leaves {m : SMap Byte} (f : LS) (s : State) (h : s.mem = m) : Leaves id m (sfeOp f s) := by
  simp [sfeOp, h]

@[simp] theorem dpopOp_leaves {m : SMap Byte} (f : LS) (s : State) (h : s.mem = m) : Leaves id m (dpopOp f s) := by
  simp +contextual [dpopOp, h]

@[simp] theorem tmrdOp_leaves {m : SMap Byte} (f : LS) (s : State) (h : s.mem = m) : Leaves id m (tmrdOp f s) := by
  simp +contextual [tmrdOp, h]

@[simp] theorem wmrdOp_leaves {m : SMap Byte} (f : LS) (s : State) (h : s.mem = m) : Leaves id m (wmrdOp f s) := by
  simp +contextual [wmrdOp, h]

@[simp] theorem prefOp_leaves {m : SMap Byte} (f : LS) (s : State) (h : s.mem = m) : Leaves id m (prefOp f s) := by
  simp [prefOp, h]

@[simp] theorem wmcOp_leaves {m : SMap Byte} (f : LS) (s : State) (h : s.mem = m) : Leaves id m (wmcOp f s) := by
  simp +contextual [wmcOp, h]

/-! ### Matrix -/

@[simp] theorem bankStatus_mem (bk : Nat) (f : Bank → Bank) (s : State) : (bankStatus bk f s).mem = s.mem := by
  simp [bankStatus]

@[simp] theorem rankOp_leaves {m : SMap Byte} (clear block : Bool) (f : MA) (s : State) (h : s.mem = m) :
    Leaves id m (rankOp clear block f s) := by
  simp +contextual [rankOp, h]

@[simp] theorem clearOp_leaves {m : SMap Byte} (op : EOp) (block : Bool) (bk : Nat) (s : State) (h : s.mem = m) :
    Leaves id m (clearOp op block bk s) := by
  simp [clearOp, h]

@[simp] theorem mdrainOp_leaves {m : SMap Byte} (f : MA) (s : State) (h : s.mem = m) : Leaves id m (mdrainOp f s) := by
  simp [mdrainOp, h]

@[simp] theorem mloadOp_leaves {m : SMap Byte} (f : MA) (s : State) (h : s.mem = m) : Leaves id m (mloadOp f s) := by
  simp +contextual [mloadOp, h]

@[simp] theorem msaveOp_leaves {m : SMap Byte} (f : MA) (s : State) (h : s.mem = m) : Leaves id m (msaveOp f s) := by
  simp [msaveOp, h]

@[simp] theorem mlendOp_leaves {m : SMap Byte} (f : MA) (s : State) (h : s.mem = m) : Leaves id m (mlendOp f s) := by
  simp [mlendOp, h]

@[simp] theorem mreclOp_leaves {m : SMap Byte} (f : MA) (s : State) (h : s.mem = m) : Leaves id m (mreclOp f s) := by
  simp [mreclOp, h]

@[simp] theorem mrealnOp_leaves {m : SMap Byte} (f : MA) (s : State) (h : s.mem = m) : Leaves id m (mrealnOp f s) := by
  simp [mrealnOp, h]

/-! ### Scalar -/

@[simp] theorem alu2_leaves {m : SMap Byte} (cls : Nat) (op : Word → Word → Word) (f : SR) (s : State) (h : s.mem = m) :
    Leaves id m (alu2 cls op f s) := by
  simp [alu2, h]

@[simp] theorem alu1_leaves {m : SMap Byte} (op : Word → Word) (f : SR) (s : State) (h : s.mem = m) : Leaves id m (alu1 op f s) := by
  simp [alu1, h]

@[simp] theorem aluI_leaves {m : SMap Byte} (op : Word → Word → Word) (f : SI) (s : State) (h : s.mem = m) :
    Leaves id m (aluI op f s) := by
  simp [aluI, h]

@[simp] theorem divide_leaves {m : SMap Byte} (op : Word → Word → Word) (f : SR) (s : State) (h : s.mem = m) :
    Leaves id m (divide op f s) := by
  simp [divide, h]

@[simp] theorem selOp_leaves {m : SMap Byte} (f : SR) (s : State) (h : s.mem = m) : Leaves id m (selOp f s) := by
  simp [selOp, h]

@[simp] theorem extOp_leaves {m : SMap Byte} (f : SF) (s : State) (h : s.mem = m) : Leaves id m (extOp f s) := by
  simp [extOp, h]

@[simp] theorem insOp_leaves {m : SMap Byte} (f : SF) (s : State) (h : s.mem = m) : Leaves id m (insOp f s) := by
  simp [insOp, h]

@[simp] theorem leaOp_leaves {m : SMap Byte} (f : SL) (s : State) (h : s.mem = m) : Leaves id m (leaOp f s) := by
  simp [leaOp, h]

/-! ### Spline -/

@[simp] theorem knsetOp_leaves {m : SMap Byte} (f : MA) (s : State) (h : s.mem = m) : Leaves id m (knsetOp f s) := by
  simp [knsetOp, h]

@[simp] theorem kngetOp_mem (f : MA) (s : State) : (kngetOp f s).mem = s.mem := by
  simp [kngetOp]

@[simp] theorem splldOp_leaves {m : SMap Byte} (f : MA) (s : State) (h : s.mem = m) : Leaves id m (splldOp f s) := by
  simp +contextual [splldOp, h]

@[simp] theorem splstOp_leaves {m : SMap Byte} (op : Nat → Nat → Option Nat → SOp) (n : Nat) (f : MA) (s : State) (h : s.mem = m) :
    Leaves id m (splstOp op n f s) := by
  simp [splstOp, h]

@[simp] theorem src16_leaves {m : SMap Byte} (sel : BitVec 6) (ty : Nat) (s : State) (h : s.mem = m) :
    Leaves Prod.snd m (src16 sel ty s) := by
  simp +contextual [src16, h]

@[simp] theorem splevOp_leaves {m : SMap Byte} (f : MA) (s : State) (h : s.mem = m) : Leaves id m (splevOp f s) := by
  simp +contextual [splevOp, h]

@[simp] theorem splbwdOp_leaves {m : SMap Byte} (f : MA) (s : State) (h : s.mem = m) : Leaves id m (splbwdOp f s) := by
  simp +contextual [splbwdOp, h]

@[simp] theorem splgsOp_leaves {m : SMap Byte} (f : MA) (s : State) (h : s.mem = m) : Leaves id m (splgsOp f s) := by
  simp +contextual [splgsOp, h]

@[simp] theorem splgzOp_leaves {m : SMap Byte} (s : State) (h : s.mem = m) : Leaves id m (splgzOp s) := by
  simp [splgzOp, h]

@[simp] theorem gridrefOp_leaves {m : SMap Byte} (s : State) (h : s.mem = m) : Leaves id m (gridrefOp s) := by
  simp [gridrefOp, h]

@[simp] theorem splcntOp_leaves {m : SMap Byte} (f : MA) (s : State) (h : s.mem = m) : Leaves id m (splcntOp f s) := by
  simp [splcntOp, h]

/-! ### Tiles -/

@[simp] theorem readTile_leaves {m : SMap Byte} (t : TileArgs) (s : State) (h : s.mem = m) : Leaves Prod.snd m (readTile t s) := by
  simp +contextual [readTile, h]

@[simp] theorem issueImg_mem (off : Nat) (full : Bool) : ∀ (l : List (Vec × Flags)) (s : State), (issueImg off full l s).mem = s.mem
  | [], _ => rfl
  | _ :: t, _ => issueImg_mem (off + 64) full t _

@[simp] theorem gldOp_leaves {m : SMap Byte} (f : LS) (s : State) (h : s.mem = m) : Leaves id m (gldOp f s) := by
  refine leaves_gather.2 (leaves_bind.2 fun t _ => leaves_bind.2 fun o _ => leaves_bind.2 fun _ _ => leaves_bind.2 fun _ _ =>
    (leaves_bind_state ?_).2 fun r u hu _ => ?_)
  · split
    · simp +contextual [h]
    · simp [h]
  · refine (leaves_bind_state (leaves_liftMem.2 (readTile_leaves _ u hu))).2 fun b v hv _ => leaves_bind.2 fun _ _ => ?_
    dsimp only
    split
    · simp
    · simp [hv]

@[simp] theorem gldrOp_leaves {m : SMap Byte} (f : LS) (s : State) (h : s.mem = m) : Leaves id m (gldrOp f s) := by
  simp +contextual [gldrOp, h]

@[simp] theorem blockPieces_mem (wm : Option Nat) : ∀ (bs : List Blk) (s : State), (blockPieces wm bs s).2.mem = s.mem
  | [], _ => rfl
  | b :: t, s => by
    unfold blockPieces
    split
    · exact blockPieces_mem wm t s
    · rename_i he
      exact (blockPieces_mem wm t _).trans (coreXlate_leaves rfl _ he)

@[simp] theorem holdTile_leaves {m : SMap Byte} (t : TileArgs) (wm : Option Nat) (hist : Option (Nat × List Nat)) (bs : List Blk)
    (s : State) (h : s.mem = m) : Leaves id m (holdTile t wm hist bs s) := by
  unfold holdTile
  extract_lets bs extra
  have hb := blockPieces_mem wm bs s
  split
  rename_i hp
  rw [hp] at hb
  split
  · simp
  · exact setHeld_leaves _ _ (hb.trans h)

@[simp] theorem gstOp_leaves {m : SMap Byte} (f : LS) (s : State) (h : s.mem = m) : Leaves id m (gstOp f s) := by
  refine leaves_gather.2 (leaves_bind.2 fun t _ => leaves_bind.2 fun _ _ =>
    (leaves_bind_state ?_).2 fun r u hu _ => leaves_bind.2 fun _ _ => (leaves_bind_state (srcVec_leaves _ _ u hu)).2 fun v w hw _ => ?_)
  · split
    · simp +contextual [h]
    · simp [h]
  · dsimp only
    refine (leaves_bind_self (holdTile_leaves _ _ _ _ _ (by simp [hw]))).2 fun x hx _ => ?_
    simp [hx]

@[simp] theorem gstrOp_leaves {m : SMap Byte} (f : LS) (s : State) (h : s.mem = m) : Leaves id m (gstrOp f s) := by
  refine leaves_gather.2 (leaves_bind.2 fun t _ => leaves_bind.2 fun _ _ =>
    (leaves_bind_state ?_).2 fun r u hu _ => leaves_bind.2 fun _ _ => (leaves_bind_state (srcVec_leaves _ _ u hu)).2 fun v w hw _ =>
      holdTile_leaves _ _ _ _ w hw)
  split
  · simp +contextual [h]
  · simp [h]

/-! ### Bundle -/

@[simp] theorem doEnd_mem (s : State) (e : EndAct) : (doEnd s e).mem = s.mem := by
  unfold doEnd
  split
  · split <;> simp
  all_goals simp

@[simp] theorem finishBundle_canon (s : State) (h : Canon s.mem) : Canon (finishBundle s).mem := by
  unfold finishBundle
  extract_lets c u v w x y
  have hw : w.mem = s.mem := by
    change v.mem = _
    simp only [v, u, mapSt_mem, orFlags_mem]
    rw [foldl_mem _ doEnd_mem]
    simp
  clear_value w
  have hx : Canon x.mem := by
    unfold x
    split <;> simp [hw, h]
  clear_value x
  have hy : Canon y.mem := by
    unfold y
    split <;> simp [hx]
  clear_value y
  simpa using hy

@[simp] theorem fetchBundle_leaves {m : SMap Byte} (s : State) (h : s.mem = m) : Leaves Prod.snd m (fetchBundle s) := by
  simp +contextual [fetchBundle, h]

@[simp] theorem idleTurn_canon (s : State) (h : Canon s.mem) : Canon (idleTurn s).mem := by
  simp [idleTurn, h]

/-! ### Instructions, events and steps -/

theorem issue_leaves {m : SMap Byte} {s : State} {r : Res State} (h : s.mem = m) (hr : Leaves id m r) : Ends (·.mem = m) (issue s r) :=
  fun _ e => (issue_mem (fun t ht => (hr t ht).trans h.symm) e).trans h

theorem issue_ok_mem {s t : State} (h : t.mem = s.mem) : Ends (·.mem = s.mem) (issue s (.ok t)) := ends_next.2 h

/-- No slot instruction changes memory as it issues (02 R23): what it stores is held until the region commits. -/
theorem exec_slot_mem {i : Instr} {k : Nat} (s : State) (hi : i.slot = some k) : Ends (·.mem = s.mem) (exec i s) := by
  cases i with
  | add f | sub f | mul f | mulh f | mulhu f | and f | or f | xor f | shl f | shr f | sar f | min f | max f | minu f
  | maxu f | ceq f | cne f | clt f | cle f | cltu f | cleu f => exact issue_leaves rfl (alu2_leaves _ _ _ _ rfl)
  | div f | divu f | rem f | remu f => exact issue_leaves rfl (divide_leaves _ _ _ rfl)
  | clz f | popc f => exact issue_leaves rfl (alu1_leaves _ _ _ rfl)
  | sel f => exact issue_leaves rfl (selOp_leaves _ _ rfl)
  | addi f | andi f | ori f | xori f | shli f | shri f | sari f | movhi f | ceqi f | clti f => exact issue_leaves rfl (aluI_leaves _ _ _ rfl)
  | movi f => exact issue_ok_mem (writeS_mem ..)
  | jmp f => exact issue_ok_mem (takeJump_mem ..)
  | call f => exact issue_ok_mem (callOp_mem ..)
  | halt => exact issue_ok_mem (mapCtx_mem ..)
  | spld f => exact issue_ok_mem (spldOp_mem ..)
  | sysrd f => exact issue_ok_mem (sysrdOp_mem ..)
  | capq f => exact issue_ok_mem (capqOp_mem ..)
  | pget f => exact issue_ok_mem (pgetOp_mem ..)
  | knget f => exact issue_ok_mem (kngetOp_mem ..)
  | yield => exact issue_ok_mem (mapCtx_mem ..)
  | lea f => exact issue_leaves rfl (leaOp_leaves _ _ rfl)
  | ext f => exact issue_leaves rfl (extOp_leaves _ _ rfl)
  | ins f => exact issue_leaves rfl (insOp_leaves _ _ rfl)
  | br f | brZ f => exact issue_leaves rfl (branchIf_leaves _ _ _ rfl)
  | jr f => exact issue_leaves rfl (jrOp_leaves _ _ rfl)
  | loop f => exact issue_leaves rfl (loopOp_leaves _ _ rfl)
  | loopi f => exact issue_leaves rfl (pushLoop_leaves _ _ _ rfl)
  | lbrk => exact issue_leaves rfl (lbrkOp_leaves _ rfl)
  | lidx f => exact issue_leaves rfl (lidxOp_leaves _ _ rfl)
  | trap f => exact issue_leaves rfl (leaves_raise _ _ _ _ _)
  | eret => exact issue_leaves rfl (eretOp_leaves _ rfl)
  | spst f => exact issue_leaves rfl (spstOp_leaves _ _ rfl)
  | syswr f => exact issue_leaves rfl (syswrOp_leaves _ _ rfl)
  | hld f => exact issue_leaves rfl (hldOp_leaves _ _ rfl)
  | hst f => exact issue_leaves rfl (hstOp_leaves _ _ rfl)
  | hset f => exact issue_leaves rfl (hsetOp_leaves _ _ rfl)
  | hget f => exact issue_leaves rfl (hgetOp_leaves _ _ rfl)
  | hmov f => exact issue_leaves rfl (hmovOp_leaves _ _ rfl)
  | pcfg f => exact issue_leaves rfl (pcfgOp_leaves _ _ rfl)
  | pset f => exact issue_leaves rfl (psetOp_leaves _ _ rfl)
  | vadd f | vsub f | vmul f | vmax f | vmin f => exact issue_leaves rfl (arith2_leaves _ _ _ _ _ rfl)
  | vfma f | vfms f => exact issue_leaves rfl (arith3_leaves _ _ _ rfl)
  | vabs f | vneg f => exact issue_leaves rfl (arith1_leaves _ _ _ _ rfl)
  | vrcp f | vrsq f | vexp2 f | vlog2 f | vtanh f => exact issue_leaves rfl (trans_leaves _ _ _ rfl)
  | vand f | vor f | vxor f => exact issue_leaves rfl (bitOp_leaves _ _ _ rfl)
  | vshl f | vshr f | vsar f => exact issue_leaves rfl (shiftOp_leaves _ _ _ rfl)
  | vceq f | vclt f | vcle f => exact issue_leaves rfl (cmpOp_leaves _ _ _ _ rfl)
  | vsel f => exact issue_leaves rfl (vselOp_leaves _ _ rfl)
  | vcvt f => exact issue_leaves rfl (vcvtOp_leaves _ _ rfl)
  | vqnt f => exact issue_leaves rfl (vqntOp_leaves _ _ rfl)
  | vdq f => exact issue_leaves rfl (vdqOp_leaves _ _ rfl)
  | vsrnd f => exact issue_leaves rfl (vsrndOp_leaves _ _ rfl)
  | vscal f => exact issue_leaves rfl (vscalOp_leaves _ _ rfl)
  | vredsum f | vredmax f | vredmin f => exact issue_leaves rfl (redOp_leaves _ _ _ _ rfl)
  | vbcast f => exact issue_leaves rfl (vbcastOp_leaves _ _ rfl)
  | vextr f => exact issue_leaves rfl (vextrOp_leaves _ _ rfl)
  | vperm f => exact issue_leaves rfl (vpermOp_leaves _ _ rfl)
  | vmov f => exact issue_leaves rfl (vmovOp_leaves _ _ rfl)
  | vzero f => exact issue_leaves rfl (vzeroOp_leaves _ _ rfl)
  | vacc f | vaccw f => exact issue_leaves rfl (vaccOp_leaves _ _ _ rfl)
  | vadam f => exact issue_leaves rfl (vadamOp_leaves _ _ rfl)
  | vsgdm f => exact issue_leaves rfl (vsgdmOp_leaves _ _ rfl)
  | vbfpn f => exact issue_leaves rfl (vbfpnOp_leaves _ _ rfl)
  | mop f | mmac f | mbfp f => exact issue_leaves rfl (rankOp_leaves _ _ _ _ rfl)
  | mzero f | mcfg f => exact issue_leaves rfl (clearOp_leaves _ _ _ _ rfl)
  | mdrain f => exact issue_leaves rfl (mdrainOp_leaves _ _ rfl)
  | mload f => exact issue_leaves rfl (mloadOp_leaves _ _ rfl)
  | msave f => exact issue_leaves rfl (msaveOp_leaves _ _ rfl)
  | mlend f => exact issue_leaves rfl (mlendOp_leaves _ _ rfl)
  | mrecl f => exact issue_leaves rfl (mreclOp_leaves _ _ rfl)
  | mrealn f => exact issue_leaves rfl (mrealnOp_leaves _ _ rfl)
  | knset f => exact issue_leaves rfl (knsetOp_leaves _ _ rfl)
  | splld f => exact issue_leaves rfl (splldOp_leaves _ _ rfl)
  | splst f | splgx f => exact issue_leaves rfl (splstOp_leaves _ _ _ _ rfl)
  | splev f => exact issue_leaves rfl (splevOp_leaves _ _ rfl)
  | splbwd f => exact issue_leaves rfl (splbwdOp_leaves _ _ rfl)
  | splgs f => exact issue_leaves rfl (splgsOp_leaves _ _ rfl)
  | splgz => exact issue_leaves rfl (splgzOp_leaves _ rfl)
  | gridref => exact issue_leaves rfl (gridrefOp_leaves _ rfl)
  | splcnt f => exact issue_leaves rfl (splcntOp_leaves _ _ rfl)
  | ld f => exact issue_leaves rfl (ldOp_leaves _ _ rfl)
  | sld f => exact issue_leaves rfl (sldOp_leaves _ _ rfl)
  | gld f => exact issue_leaves rfl (gldOp_leaves _ _ rfl)
  | gldr f => exact issue_leaves rfl (gldrOp_leaves _ _ rfl)
  | tmrd f => exact issue_leaves rfl (tmrdOp_leaves _ _ rfl)
  | wmrd f => exact issue_leaves rfl (wmrdOp_leaves _ _ rfl)
  | pref f => exact issue_leaves rfl (prefOp_leaves _ _ rfl)
  | st f => exact issue_leaves rfl (stOp_leaves _ _ rfl)
  | sst f => exact issue_leaves rfl (sstOp_leaves _ _ rfl)
  | gst f => exact issue_leaves rfl (gstOp_leaves _ _ rfl)
  | gstr f => exact issue_leaves rfl (gstrOp_leaves _ _ rfl)
  | sfe f => exact issue_leaves rfl (sfeOp_leaves _ _ rfl)
  | wmc f => exact issue_leaves rfl (wmcOp_leaves _ _ rfl)
  | dpop f => exact issue_leaves rfl (dpopOp_leaves _ _ rfl)
  | cpy f | cpyg f | cpys f | cpyx f | cpyo f => exact issue_leaves rfl (cpyOp_leaves _ _ _ _ _ rfl)
  | cpy2 f => exact issue_leaves rfl (cpy2Op_leaves _ _ rfl)
  | cpyr f => exact issue_leaves rfl (cpyrOp_leaves _ _ rfl)
  | cpyq f => exact issue_leaves rfl (cpyqOp_leaves _ _ rfl)
  | cpyk f => exact issue_leaves rfl (cpykOp_leaves _ _ rfl)
  | cadd f | cflg f => exact issue_leaves rfl (heldCtr_leaves _ _ _ rfl)
  | caddi f => exact issue_leaves rfl (caddiOp_leaves _ _ rfl)
  | cwait f => exact issue_leaves rfl (cwaitOp_leaves _ _ rfl)
  | crd f => exact issue_leaves rfl (crdOp_leaves _ _ rfl)
  | cceil f => exact issue_leaves rfl (cceilOp_leaves _ _ rfl)
  | amadd f | amax f | amin f | aswp f | acas f | aand f | aor f | afadd f => exact issue_leaves rfl (atomicOp_leaves _ _ _ rfl)
  | barr f => exact issue_leaves rfl (barrOp_leaves _ _ rfl)
  | bwait f => exact issue_leaves rfl (bwaitOp_leaves _ _ rfl)
  | barq f => exact issue_leaves rfl (barqOp_leaves _ _ rfl)
  | tmopn f | tmcls f | tmflt f => exact issue_leaves rfl (tmHeld_leaves _ _ _ rfl)
  | tmgov f => exact issue_leaves rfl (tmgovOp_leaves _ _ rfl)
  | tmset f => exact issue_leaves rfl (tmsetOp_leaves _ _ rfl)
  | spawn f => exact issue_leaves rfl (spawnOp_leaves _ _ rfl)
  | route f => exact issue_leaves rfl (routeOp_leaves _ _ rfl)
  | rtver f => exact issue_leaves (rtverKeeps_mem f s) (rtverOp_leaves f s rfl)
  | wgl f => exact issue_leaves rfl (wglOp_leaves _ _ rfl)
  | wglq f => exact issue_leaves rfl (wglqOp_leaves _ _ rfl)
  | wglk f => exact issue_leaves rfl (wglkOp_leaves _ _ rfl)
  | _ => exact nomatch hi

/-- Every instruction, event and step of a collective keeps memory in its canonical form. -/
theorem exec_canon (i : Instr) (s : State) (h : Canon s.mem) : Ends (Canon ·.mem) (exec i s) := by
  cases hi : i.slot with
  | some k =>
    intro u e
    have hm : u.mem = s.mem := exec_slot_mem s hi u e
    exact hm ▸ h
  | none =>
    cases i with
    | checkpoint => exact execCheckpoint_canon s h
    | orderedBundle => exact execOrderedBundle_canon s h
    | breakpoint => exact execBreakpoint_canon s h
    | resultLands c => exact execResultLands_canon c s h
    | variableLatencyResult c k => exact execVariableLatencyResult_canon c k s h
    | scratchpadWriteLands c => exact execScratchpadWriteLands_canon c s h
    | imageLanding c k => exact execImageLanding_canon c k s h
    | multicastLanding k => exact execMulticastLanding_canon k s h
    | matrixEngineExecute c => exact execMatrixEngineExecute_canon c s h
    | splineArrayExecute c => exact execSplineArrayExecute_canon c s h
    | debugRestart c => exact execDebugRestart_canon c s h
    | grant c line => exact execGrant_canon c line s h
    | reserve c home => exact execReserve_canon c home s h
    | renew c line => exact execRenew_canon c line s h
    | apply c home => exact execApply_canon c home s h
    | pinTokenGrant => exact execPinTokenGrant_canon s h
    | stampRaise home => exact execStampRaise_canon home s h
    | applyAdd ctr va n fl src t => exact execApplyAdd_canon ctr va n fl src t s h
    | applyCflg ctr b t => exact execApplyCflg_canon ctr b t s h
    | applyCeil ctr va v src t => exact execApplyCeil_canon ctr va v src t s h
    | cwaitWake c flags t => exact execCwaitWake_canon c flags t s h
    | barrierArrival c seg t => exact execBarrierArrival_canon c seg t s h
    | bwaitReturn c => exact execBwaitReturn_canon c s h
    | copyLaunchAccept cl => exact execCopyLaunchAccept_canon cl s h
    | copyPiece op k => exact execCopyPiece_canon op k s h
    | deltaFlush c slot => exact execDeltaFlush_canon c slot s h
    | flushRequest c rec => exact execFlushRequest_canon c rec s h
    | closePublication rec => exact execClosePublication_canon rec s h
    | launch root => exact execLaunch_canon root s h
    | schedulerRound => exact execSchedulerRound_canon s h
    | descriptorFetch rnum => exact execDescriptorFetch_canon rnum s h
    | dependencyMet tser k flags => exact execDependencyMet_canon tser k flags s h
    | quantumExpiry tser gix => exact execQuantumExpiry_canon tser gix s h
    | taskComplete tser => exact execTaskComplete_canon tser s h
    | faultReport r => exact execFaultReport_canon r s h
    | migrateTrapReceipt c => exact execMigrateTrapReceipt_canon c s h
    | spawnAppend rcb desc tser t => exact execSpawnAppend_canon rcb desc tser t s h
    | schedulerTakeover => exact execSchedulerTakeover_canon s h
    | dieFault die => exact execDieFault_canon die s h
    | coreWithdrawn c => exact execCoreWithdrawn_canon c s h
    | routeChoice k => exact execRouteChoice_canon k s h
    | routeDelivery k => exact execRouteDelivery_canon k s h
    | routedAdd k => exact execRoutedAdd_canon k s h
    | swarmSample tab => exact execSwarmSample_canon tab s h
    | replicaCopyDone sw => exact execReplicaCopyDone_canon sw s h
    | replicaCopyStop sw => exact execReplicaCopyStop_canon sw s h
    | redirection sw => exact execRedirection_canon sw s h
    | replicaLoss tab e r => exact execReplicaLoss_canon tab e r s h
    | replica0Loss tab e => exact execReplica0Loss_canon tab e s h
    | gradientMerge tab => exact execGradientMerge_canon tab s h
    | waggleLaunch k => exact execWaggleLaunch_canon k s h
    | signatureAgreement k => exact execSignatureAgreement_canon k s h
    | wsend f => exact execWsend_canon f s h
    | wrecv f => exact execWrecv_canon f s h
    | wrrs f => exact execWrrs_canon f s h
    | wcopy f => exact execWcopy_canon f s h
    | wwait thr => exact execWwait_canon thr s h
    | wsig n => exact execWsig_canon n s h
    | wloop cnt => exact execWloop_canon cnt s h
    | wendl => exact execWendl_canon s h
    | wagree buf off => exact execWagree_canon buf off s h
    | wflags => exact execWflags_canon s h
    | wend => exact execWend_canon s h
    | chunkArrival m => exact execChunkArrival_canon m s h
    | switchSlotLoss k inst chunk => exact execSwitchSlotLoss_canon k inst chunk s h
    | waggleAbort tag launch poison => exact execWaggleAbort_canon tag launch poison s h
    | glodricMessage m => exact execGlodricMessage_canon m s h
    | glodricPortWithdrawn p => exact execGlodricPortWithdrawn_canon p s h
    | destinationTimeout m => exact execDestinationTimeout_canon m s h
    | linkWithdrawn bit => exact execLinkWithdrawn_canon bit s h
    | bisnpinv line => exact execBisnpinv_canon line s h
    | bisnpdata line => exact execBisnpdata_canon line s h
    | bisnpcur line => exact execBisnpcur_canon line s h
    | snoopPinTimeout line => exact execSnoopPinTimeout_canon line s h
    | memrdCompletion line r => exact execMemrdCompletion_canon line r s h
    | memwrCompletion line refused => exact execMemwrCompletion_canon line refused s h
    | cxlPortDown p => exact execCxlPortDown_canon p s h
    | linePoisoned line => exact execLinePoisoned_canon line s h
    | combSramError home => exact execCombSramError_canon home s h
    | inboundWrite link off data => exact execInboundWrite_canon link off data s h
    | bar2Read link off n => exact execBar2Read_canon link off n s h
    | hostCounterAdd amt fl => exact execHostCounterAdd_canon amt fl s h
    | invalidation d => exact execInvalidation_canon d s h
    | invalidationDone ctr => exact execInvalidationDone_canon ctr s h
    | pageLock d => exact execPageLock_canon d s h
    | pageUnlock d => exact execPageUnlock_canon d s h
    | lockDone ctr => exact execLockDone_canon ctr s h
    | counterWatch idx w => exact execCounterWatch_canon idx w s h
    | registerWrite off w => exact execRegisterWrite_canon off w s h
    | warmReset => exact execWarmReset_canon s h
    | coldReset => exact execColdReset_canon s
    | abavasTakeover => exact execAbavasTakeover_canon s h
    | throttling => exact execThrottling_canon s h
    | getVersion => exact execGetVersion_canon s h
    | getCapabilities => exact execGetCapabilities_canon s h
    | negotiateAlgorithms algs => exact execNegotiateAlgorithms_canon algs s h
    | getDigests => exact execGetDigests_canon s h
    | getCertificate slot off len => exact execGetCertificate_canon slot off len s h
    | challenge slot nonce => exact execChallenge_canon slot nonce s h
    | getMeasurements idx => exact execGetMeasurements_canon idx s h
    | dbgctlWrite c w => exact execDbgctlWrite_canon c w s h
    | domainTableWrite t => exact execDomainTableWrite_canon t s h
    | cxlPortReturnToService p => exact execCxlPortReturnToService_canon p s h
    | throttlingEnd => exact execThrottlingEnd_canon s h
    | abavasMailboxMessage m => exact execAbavasMailboxMessage_canon m s h
    | meminvCompletion line => exact execMeminvCompletion_canon line s h
    | _ => exact nomatch hi

/-- A result of the issue of a bundle: a state handed on, or the outcome that ends the issue, has a memory in canonical form. -/
def HandsOn {β : Type} (st : β → State) : Except (Host.Outcome State Fault Refusal) β → Prop
  | .ok b => Canon (st b).mem
  | .error o => Ends (Canon ·.mem) o

@[simp] theorem handsOn_ok {β : Type} {st : β → State} {b : β} : HandsOn st (.ok b) ↔ Canon (st b).mem := Iff.rfl

@[simp] theorem handsOn_error {β : Type} {st : β → State} {o : Host.Outcome State Fault Refusal} :
    HandsOn st (.error o) ↔ Ends (Canon ·.mem) o := Iff.rfl

theorem runSlot_canon {r : SlotRun} (k : Nat) (w : Word) (i : Instr) (h : Canon r.cur.mem) : HandsOn SlotRun.cur (runSlot r k w i) := by
  have he := exec_canon i (mapCtx (fun c => { c with slot := k, syl := w }) r.cur) h
  unfold runSlot
  split
  · rename_i t ht
    rw [ht, ends_next] at he
    split
    · exact h
    · split
      · exact h
      · split
        · exact h
        · exact he
  · exact he

theorem runSlots_canon (b : Vec) : ∀ (l : List (Nat × Instr)) {r : SlotRun}, Canon r.cur.mem → HandsOn SlotRun.cur (runSlots b l r)
  | [], _, h => h
  | (k, i) :: t, r, h => by
    have hr := runSlot_canon k (sylOf b k) i h
    unfold runSlots
    split
    · rename_i e
      rw [e] at hr
      exact runSlots_canon b t hr
    · rename_i e
      rw [e] at hr
      exact hr

theorem issueSlots_canon (b : Vec) (slots : List (Nat × Instr)) {pre s : State} (hp : Canon pre.mem) (h : Canon s.mem) :
    Ends (Canon ·.mem) (issueSlots b slots pre s) := by
  have hr := runSlots_canon b slots (r := ⟨s, none, false, false, s.ptx⟩) h
  unfold issueSlots
  split
  · rename_i e
    rw [e] at hr
    exact hr
  · rename_i r e
    rw [e, handsOn_ok] at hr
    extract_lets done pre best
    have hp : Canon pre.mem := hp
    clear_value pre best
    split
    · exact ends_next.2 hp
    · split
      · exact ends_next.2 (by simpa [done] using hp)
      · split
        · exact ends_next.2 (by simpa [done] using hp)
        · exact ends_next.2 (finishBundle_canon _ hr)

theorem flagRow_canon (want : Bool) (i : Instr) {s : State} (h : Canon s.mem) : HandsOn id (flagRow want i s) := by
  have he := exec_canon i s h
  unfold flagRow
  split
  · exact h
  · split
    · rename_i e
      rw [e, ends_next] at he
      split
      · exact ends_next.2 he
      · exact he
    · exact he

theorem issueLegal_canon (b : Vec) (flags : BitVec 4) (slots : List (Nat × Instr)) {s : State} (h : Canon s.mem) :
    Ends (Canon ·.mem) (issueLegal b flags slots s) := by
  unfold issueLegal
  extract_lets own
  have h1 := flagRow_canon ((flags.getLsbD 3 || own) && !s.core.st.ckDone) .checkpoint h
  split
  · rename_i e
    rw [e] at h1
    exact h1
  · rename_i t e
    rw [e] at h1
    have h2 := flagRow_canon (flags.getLsbD 2) .orderedBundle h1
    split
    · rename_i e
      rw [id, e] at h2
      exact h2
    · rename_i pre e
      rw [id, e] at h2
      have h3 := flagRow_canon (flags.getLsbD 1) .breakpoint h2
      split
      · rename_i e
        rw [id, e] at h3
        exact h3
      · rename_i e
        rw [id, e] at h3
        exact issueSlots_canon b slots h2 h3

theorem issueFetched_canon (b : Vec) {s : State} (h : Canon s.mem) : Ends (Canon ·.mem) (issueFetched b s) := by
  unfold issueFetched
  extract_lets trapAt
  have ht (c : Cause) : Ends (Canon ·.mem) (trapAt c) := ends_next.2 (by simpa using h)
  clear_value trapAt
  split
  · exact ht _
  · split
    · exact ht _
    · split
      · exact ht _
      · exact issueLegal_canon b _ _ h

theorem issueBundle_canon {s : State} (h : Canon s.mem) : Ends (Canon ·.mem) (issueBundle s) := by
  unfold issueBundle
  split
  · simp [h]
  · extract_lets c u
    have hu : Canon u.mem := by simpa [u] using h
    clear_value u
    split
    · simp [hu]
    · simp [fetchTrap_mem finishSaves_mem, hu]
    · rename_i e
      exact issueFetched_canon _ ((fetchBundle_leaves u rfl _ e).symm ▸ hu)

theorem runDue_canon (d : Due) {s : State} (h : Canon s.mem) : Ends (Canon ·.mem) (runDue d s) :=
  ends_ite.2 ⟨fun _ => ends_next.2 h, fun _ => exec_canon _ _ h⟩

theorem collTurn_canon (tag : Nat) {s : State} (h : Canon s.mem) : Ends (Canon ·.mem) (collTurn tag s) := by
  unfold collTurn
  split
  · simp [h]
  · split
    · simp [h]
    · split
      · exact ends_ite.2 ⟨fun _ => exec_canon _ _ h, fun _ => ends_next.2 h⟩
      · simp [h]

theorem step_canon {s : State} (h : Canon s.mem) : Ends (Canon ·.mem) (step s) := by
  unfold step
  split
  · exact runDue_canon _ h
  · split
    · exact issueBundle_canon (by simpa using h)
    · split
      · exact collTurn_canon _ h
      · exact ends_next.2 h

/-- Settles O56: every slot instruction, event, collective step and end of a bundle leaves memory alone or writes it through operations
that keep the canonical form (05 R5, R257). -/
theorem memoryStaysCanonical : Obligations.MemoryStaysCanonical :=
  fun _ t h e => step_canon h t e

end Sys2Proof.Machine
end

section
/-! SUPPORT. System registers, spill memory and capability queries (O12). The words of STATUS, CAPS and DBGCTL are sums of their shifted
fields: a field reads back by the arithmetic of the sum while every count fits its field. -/

namespace Sys2Proof.Machine

/-! ### The fields of a word -/

theorem b2n_le (b : Bool) : b2n b ≤ 1 := by cases b <;> decide

theorem decide_b2n (b : Bool) : decide (b2n b = 1) = b := by cases b <;> rfl

theorem getLsbD_word {n k : Nat} {b : Bool} (hk : k < 64) (h : n / 2 ^ k % 2 = b2n b) : (word n).getLsbD k = b := by
  rw [word, BitVec.getLsbD_ofNat, Nat.testBit_eq_decide_div_mod_eq, h, decide_b2n, decide_eq_true hk, Bool.true_and]

theorem toNat_extractLsb'_word (n k w : Nat) : ((word n).extractLsb' k w).toNat = n % 2 ^ 64 / 2 ^ k % 2 ^ w := by
  rw [word, BitVec.extractLsb'_toNat, BitVec.toNat_ofNat, Nat.shiftRight_eq_div_pow]

theorem extractLsb'_word {n k w : Nat} (v : Nat) (h : n % 2 ^ 64 / 2 ^ k % 2 ^ w = v % 2 ^ w) : (word n).extractLsb' k w = BitVec.ofNat w v :=
  BitVec.eq_of_toNat_eq (by rw [toNat_extractLsb'_word, BitVec.toNat_ofNat, h])

/-! ### The system registers that are made of fields (01 R21) -/

theorem statusWord_fields {c : Core} (hh : c.held.length ≤ 128) (hl : c.st.a.loops.length ≤ 6) (hr : c.st.retry ≤ 3) :
    (statusWord c).getLsbD 0 = c.st.tm ∧ (statusWord c).getLsbD 1 = c.st.pin ∧ (statusWord c).getLsbD 2 = !c.held.isEmpty ∧
    ((statusWord c).extractLsb' 3 8).toNat = c.held.length ∧ ((statusWord c).extractLsb' 11 3).toNat = c.st.a.loops.length ∧
    ((statusWord c).extractLsb' 14 2).toNat = c.st.retry ∧ (statusWord c).extractLsb' 16 48 = (0 : BitVec 48) := by
  have htm := b2n_le c.st.tm
  have hpin := b2n_le c.st.pin
  have hheld := b2n_le (!c.held.isEmpty)
  unfold statusWord
  simp only [toNat_extractLsb'_word]
  refine ⟨getLsbD_word (by decide) ?_, getLsbD_word (by decide) ?_, getLsbD_word (by decide) ?_, ?_, ?_, ?_, extractLsb'_word 0 ?_⟩
  all_goals omega

theorem toNat_subsets (l : Bool) : (subsets l).toNat = 31 - 12 * b2n l := by cases l <;> rfl

theorem capsWord_fields {c : Core} (hs : c.split ≤ 3) :
    (capsWord c).extractLsb' 0 5 = (if isL c.id then 0b10011 else 0b11111 : BitVec 5) ∧ (capsWord c).getLsbD 8 = isL c.id ∧
    (capsWord c).extractLsb' 12 4 = (2 : BitVec 4) ∧ ((capsWord c).extractLsb' 16 2).toNat = c.split := by
  have hgrade := b2n_le (isL c.id)
  have hsub := toNat_subsets (isL c.id)
  change _ = subsets (isL c.id) ∧ _
  unfold capsWord
  simp only [toNat_extractLsb'_word]
  refine ⟨BitVec.eq_of_toNat_eq ?_, getLsbD_word (by decide) ?_, extractLsb'_word 2 ?_, ?_⟩
  · rw [toNat_extractLsb'_word]
    omega
  all_goals omega

theorem dbgWord_fields (c : Core) : (dbgWord c).getLsbD 0 = c.sstep ∧ (dbgWord c).getLsbD 1 = c.brken ∧ (dbgWord c).getLsbD 2 = c.dstop ∧
    (dbgWord c).extractLsb' 3 61 = (0 : BitVec 61) := by
  unfold dbgWord
  cases c.sstep <;> cases c.brken <;> cases c.dstop <;> decide

/-! ### What the instructions do -/

theorem systemReads : Claims.SystemReads := by
  intro f s
  refine ⟨rfl, ?status, ?caps, ?_, ?_, ?_, ?_, ?_, ?_, ?_, ?_, ?_, ?_, ?_, ?_, ?_, ?dbgctl⟩
  case status =>
    intro h hh hl hr
    rw [h]
    exact statusWord_fields hh hl hr
  case caps =>
    intro h hs
    rw [h]
    exact capsWord_fields hs
  case dbgctl =>
    intro h
    rw [h]
    exact dbgWord_fields s.core
  all_goals
    intro h
    rw [h]
    rfl

theorem exec_syswr_of_ready {f : SX} {s : State} {a : Word} (h : readS f.reg s = .ok a) :
    exec (.syswr f) s = .next (mapCtx (fun c => { c with ends := c.ends ++ [.syswr f.n.toNat a] }) s) := by
  change issue s (syswrOp f s) = _
  rw [syswrOp, h]
  rfl

theorem exec_spst_of_ready {f : SX} {s : State} {a : Word} (h : readS f.reg s = .ok a) :
    exec (.spst f) s = .next (mapSt (fun t => { t with spill := SMap.set 0 t.spill f.n.toNat a }) s) := by
  change issue s (spstOp f s) = _
  rw [spstOp, h]
  rfl

theorem doEnd_syswr_ckptPc (s : State) (a : Word) :
    doEnd s (.syswr 4 a) = if s.core.st.tm then mapSt (fun t => { t with ckptPc := a.setWidth 51 }) s else s := by
  cases h : s.core.st.tm <;> simp [doEnd, mapSt, h]

theorem systemWrites : Claims.SystemWrites := by
  have low (a : Word) : a.setWidth 51 = a.extractLsb' 0 51 := BitVec.setWidth_eq_extractLsb' (by decide)
  refine ⟨fun f s a => exec_syswr_of_ready, fun s a => ⟨low a, low a, ?handler, ?outside, fun h => if_neg h, rfl, ?flags, ?others⟩⟩
  case handler =>
    intro h
    rw [doEnd_syswr_ckptPc, if_pos h]
    exact low a
  case outside =>
    intro h
    rw [doEnd_syswr_ckptPc, h]
    rfl
  case flags =>
    intro i hi
    simp [doEnd, mapSt, clearFlags, hi]
  case others =>
    intro n h2 h4 hb hd he
    simp [doEnd]

theorem spillAccess : Claims.SpillAccess := fun _ _ _ h hw =>
  ⟨_, exec_spst_of_ready h, fun _ => rfl, SMap.get_set_same hw _ _, fun _ hn => SMap.get_set_other hw _ hn, rfl⟩

/-! ### The capability queries (03 R95) -/

theorem goodCores_of_inService {s : State} {d : Nat} (h : s.ctl.deadDies.contains d = false) :
    goodCores s d = 1296 - ((allCores s).filter fun c => c.dead && dieOf c.id == d).length := by
  simp only [goodCores, h, Bool.false_eq_true, if_false]

theorem diesInService_of_noDeadDies (l : Bool) {s : State} (h : s.ctl.deadDies = []) : diesInService l s = if l then 32 else 96 := by
  unfold diesInService
  rw [h]
  cases l <;> decide

theorem splitBytes_eq {n : Nat} (h : n ≤ 3) :
    word (splitBytes n) = [196608, 180224, 163840, 131072].getD n 0 ∧
    word (196608 - splitBytes n) = [0, 16384, 32768, 65536].getD n 0 := by
  interval_cases n <;> decide

theorem capabilityQueries : Claims.CapabilityQueries := by
  intro f s
  refine ⟨capValue s f.n.toNat, rfl, ?_, ?cores, ?scratch, ?cache, ?_, ?_, ?_, ?_, ?_, ?_, fun hd => ⟨?dies, ?diesL⟩, ?_, ?_⟩
  case cores =>
    intro h hd
    rw [h]
    exact congrArg word (goodCores_of_inService hd)
  case scratch =>
    intro h hs
    rw [h]
    exact (splitBytes_eq hs).1
  case cache =>
    intro h hs
    rw [h]
    exact (splitBytes_eq hs).2
  case dies =>
    intro h
    rw [h]
    exact congrArg word (diesInService_of_noDeadDies false hd)
  case diesL =>
    intro h
    rw [h]
    exact congrArg word (diesInService_of_noDeadDies true hd)
  all_goals
    intro h
    rw [h]
    rfl

/-- Settles O12, part by part: the registers that `sysrd` reads, the writes of `syswr`, the spill words and the capability queries. -/
theorem systemRegisters : Obligations.SystemRegisters := ⟨systemReads, systemWrites, spillAccess, capabilityQueries⟩

end Sys2Proof.Machine
end

section
/-! SUPPORT. The bounds under every step (O58). Two kinds of lemma, one for each function of the model that `step` reaches: `f_bounds` says
that `f` keeps the bounds of `Claims.bounds`, and `op_keeps` that the state in an operation's answer has them. The lemmas stand in the order
of the model's files; those about the model's own combinators, which take functions on states, take the property of the functions as a
hypothesis. -/

namespace Sys2Proof.Machine

/-! ### The bounds, part by part -/

/-- The cores out of focus are within their bounds. -/
def OthersBounds (cs : List Core) : Prop := ∀ c ∈ cs, Claims.coreBounds c

/-- The parked images of a gang are within their bounds. -/
def ImagesBounds (is : List Image) : Prop := ∀ i ∈ is, Claims.strandBounds i.st

/-- The parked images of the gangs are within their bounds. -/
def GangsBounds (gs : List Gang) : Prop := ∀ g ∈ gs, ImagesBounds g.images

/-- The parked images of the tasks are within their bounds. -/
def TasksBounds (ts : List Task) : Prop := ∀ x ∈ ts, GangsBounds x.gangs

theorem bounds_iff {s : State} :
    Claims.bounds s ↔ Claims.coreBounds s.core ∧ OthersBounds s.others ∧ TasksBounds s.sched.tasks := by
  simp only [Claims.bounds, allCores, List.forall_mem_cons, and_assoc]
  rfl

@[simp] theorem bounds_mk {now core others ctx turn wturn wcur agenda free nextId mem wm dir hc locks slices hbm sram waiters closes tmq
    dieTlb copies loads launchq stats segs mcs ports ptx snoops birsp clnEvcts dom gdown gout gseq gseen gacks rtimes rctrs cfOrs sched
    spawnq standby schedAt tables adders switches routes colls wglq wcount wstat waborts wsigs wchunks wvals host ctl invals lockreqs} :
    Claims.bounds (State.mk now core others ctx turn wturn wcur agenda free nextId mem wm dir hc locks slices hbm sram waiters closes tmq
      dieTlb copies loads launchq stats segs mcs ports ptx snoops birsp clnEvcts dom gdown gout gseq gseen gacks rtimes rctrs cfOrs sched
      spawnq standby schedAt tables adders switches routes colls wglq wcount wstat waborts wsigs wchunks wvals host ctl invals lockreqs) ↔
      Claims.coreBounds core ∧ OthersBounds others ∧ TasksBounds sched.tasks :=
  bounds_iff

@[simp] theorem coreBounds_mk {id st split scratch full banks queues mq mBusy mOn sq sBusy sOn coef grad below above held l1 rvt pts lb
    commit pinTok pinReq lockWait tlb xlat stale delta mcw mskew lent slots sstep brken dstop dstopAt dead} :
    Claims.coreBounds (Core.mk id st split scratch full banks queues mq mBusy mOn sq sBusy sOn coef grad below above held l1 rvt pts lb
      commit pinTok pinReq lockWait tlb xlat stale delta mcw mskew lent slots sstep brken dstop dstopAt dead) ↔
      Claims.strandBounds st ∧ held.length ≤ 128 ∧ split ≤ 3 :=
  Iff.rfl

@[simp] theorem strandBounds_mk {a shadow ckptPc hckpt trapPc trapCause trapInfo trapBase lathdr tm pin retry passed gangId gangDim strandIx
    spilln spill cyc fresh seq pend vls imgs ckDone wait ending run} :
    Claims.strandBounds (Strand.mk a shadow ckptPc hckpt trapPc trapCause trapInfo trapBase lathdr tm pin retry passed gangId gangDim
      strandIx spilln spill cyc fresh seq pend vls imgs ckDone wait ending run) ↔
      a.loops.length ≤ 6 ∧ shadow.loops.length ≤ 6 ∧ retry ≤ 3 :=
  Iff.rfl

/-- The parts of one state are its bounds. -/
@[simp] theorem bounds_parts {s : State} :
    (Claims.coreBounds s.core ∧ OthersBounds s.others ∧ TasksBounds s.sched.tasks) ↔ Claims.bounds s :=
  bounds_iff.symm

@[simp] theorem bounds_core {s : State} (h : Claims.bounds s) : Claims.coreBounds s.core := (bounds_iff.1 h).1
@[simp] theorem bounds_others {s : State} (h : Claims.bounds s) : OthersBounds s.others := (bounds_iff.1 h).2.1
@[simp] theorem bounds_tasks {s : State} (h : Claims.bounds s) : TasksBounds s.sched.tasks := (bounds_iff.1 h).2.2

@[simp] theorem coreBounds_st {c : Core} (h : Claims.coreBounds c) : Claims.strandBounds c.st := h.1
@[simp] theorem coreBounds_held {c : Core} (h : Claims.coreBounds c) : c.held.length ≤ 128 := h.2.1
@[simp] theorem coreBounds_split {c : Core} (h : Claims.coreBounds c) : c.split ≤ 3 := h.2.2

@[simp] theorem strandBounds_loops {t : Strand} (h : Claims.strandBounds t) : t.a.loops.length ≤ 6 := h.1
@[simp] theorem strandBounds_shadow {t : Strand} (h : Claims.strandBounds t) : t.shadow.loops.length ≤ 6 := h.2.1
@[simp] theorem strandBounds_retry {t : Strand} (h : Claims.strandBounds t) : t.retry ≤ 3 := h.2.2

@[simp] theorem bounds_loops {s : State} (h : Claims.bounds s) : s.core.st.a.loops.length ≤ 6 := (bounds_core h).1.1
@[simp] theorem bounds_shadow {s : State} (h : Claims.bounds s) : s.core.st.shadow.loops.length ≤ 6 := (bounds_core h).1.2.1
@[simp] theorem bounds_retry {s : State} (h : Claims.bounds s) : s.core.st.retry ≤ 3 := (bounds_core h).1.2.2
@[simp] theorem bounds_held {s : State} (h : Claims.bounds s) : s.core.held.length ≤ 128 := (bounds_core h).2.1
@[simp] theorem bounds_split {s : State} (h : Claims.bounds s) : s.core.split ≤ 3 := (bounds_core h).2.2

@[simp] theorem othersBounds_nil : OthersBounds [] := fun _ h => nomatch h
@[simp] theorem othersBounds_cons {c : Core} {cs : List Core} : OthersBounds (c :: cs) ↔ Claims.coreBounds c ∧ OthersBounds cs :=
  List.forall_mem_cons
@[simp] theorem othersBounds_filter {p : Core → Bool} {cs : List Core} (h : OthersBounds cs) : OthersBounds (cs.filter p) :=
  fun c hc => h c (List.mem_of_mem_filter hc)
@[simp] theorem othersBounds_map {f : Core → Core} {cs : List Core} (h : OthersBounds cs)
    (hf : ∀ c, Claims.coreBounds c → Claims.coreBounds (f c)) : OthersBounds (cs.map f) :=
  List.forall_mem_map.2 fun c hc => hf c (h c hc)

@[simp] theorem imagesBounds_nil : ImagesBounds [] := fun _ h => nomatch h
@[simp] theorem gangsBounds_nil : GangsBounds [] := fun _ h => nomatch h
@[simp] theorem tasksBounds_nil : TasksBounds [] := fun _ h => nomatch h
@[simp] theorem tasksBounds_append {xs ys : List Task} : TasksBounds (xs ++ ys) ↔ TasksBounds xs ∧ TasksBounds ys :=
  List.forall_mem_append
@[simp] theorem tasksBounds_singleton {x : Task} : TasksBounds [x] ↔ GangsBounds x.gangs := List.forall_mem_singleton
@[simp] theorem tasksBounds_map {f : Task → Task} {ts : List Task} (h : TasksBounds ts)
    (hf : ∀ x, GangsBounds x.gangs → GangsBounds (f x).gangs) : TasksBounds (ts.map f) :=
  List.forall_mem_map.2 fun x hx => hf x (h x hx)
/-- Tasks that change but for their gangs. -/
@[simp] theorem tasksBounds_map_iff {f : Task → Task} {ts : List Task} (hf : ∀ x, (f x).gangs = x.gangs) :
    TasksBounds (ts.map f) ↔ TasksBounds ts :=
  List.forall_mem_map.trans (forall₂_congr fun x _ => by rw [hf x])
@[simp] theorem gangsBounds_map {f : Gang → Gang} {gs : List Gang} (h : GangsBounds gs)
    (hf : ∀ g, ImagesBounds g.images → ImagesBounds (f g).images) : GangsBounds (gs.map f) :=
  List.forall_mem_map.2 fun g hg => hf g (h g hg)
@[simp] theorem imagesBounds_map {f : Image → Image} {is : List Image} (h : ImagesBounds is)
    (hf : ∀ i, Claims.strandBounds i.st → Claims.strandBounds (f i).st) : ImagesBounds (is.map f) :=
  List.forall_mem_map.2 fun i hi => hf i (h i hi)

/-! ### How the bounds pass through the combinators -/

@[simp] theorem bounds_ite {p : Prop} [Decidable p] {a b : State} :
    Claims.bounds (if p then a else b) ↔ if p then Claims.bounds a else Claims.bounds b := by split <;> rfl

@[simp] theorem bounds_foldl {β : Type} {f : State → β → State} {l : List β} {s : State} (h : Claims.bounds s)
    (hf : ∀ s b, Claims.bounds s → Claims.bounds (f s b)) : Claims.bounds (l.foldl f s) := by
  induction l generalizing s with
  | nil => exact h
  | cons b t ih => exact ih (hf s b h)

/-- What the bounds read of a strand. -/
@[simp] abbrev sameStrand (t u : Strand) : Prop := u.a.loops = t.a.loops ∧ u.shadow.loops = t.shadow.loops ∧ u.retry = t.retry

/-- What the bounds read of a core. -/
@[simp] abbrev sameCore (c d : Core) : Prop := sameStrand c.st d.st ∧ d.held = c.held ∧ d.split = c.split

theorem strandBounds_congr {t u : Strand} (h : sameStrand t u) : Claims.strandBounds u ↔ Claims.strandBounds t := by
  obtain ⟨ha, hs, hr⟩ := h
  simp only [Claims.strandBounds, ha, hs, hr]

theorem coreBounds_congr {c d : Core} (h : sameCore c d) : Claims.coreBounds d ↔ Claims.coreBounds c := by
  obtain ⟨ht, hh, hs⟩ := h
  simp only [Claims.coreBounds, strandBounds_congr ht, hh, hs]

theorem mapCore_keeps {f : Core → Core} {s : State} (h : Claims.bounds s) (hf : Claims.coreBounds (f s.core)) :
    Claims.bounds (mapCore f s) :=
  bounds_iff.2 ⟨hf, bounds_others (s := s) h, bounds_tasks (s := s) h⟩

theorem mapSt_keeps {f : Strand → Strand} {s : State} (h : Claims.bounds s) (hf : Claims.strandBounds (f s.core.st)) :
    Claims.bounds (mapSt f s) :=
  mapCore_keeps (f := fun c => { c with st := f c.st }) h ⟨hf, (bounds_core h).2⟩

theorem mapArch_keeps {f : Arch → Arch} {s : State} (h : Claims.bounds s) (hf : (f s.core.st.a).loops.length ≤ 6) :
    Claims.bounds (mapArch f s) :=
  mapSt_keeps (f := fun t => { t with a := f t.a }) h ⟨hf, (bounds_core h).1.2⟩

@[simp] theorem bounds_foldl_iff {β : Type} {f : State → β → State} {l : List β} {s : State}
    (hf : ∀ s b, Claims.bounds (f s b) ↔ Claims.bounds s) : Claims.bounds (l.foldl f s) ↔ Claims.bounds s := by
  induction l generalizing s with
  | nil => exact Iff.rfl
  | cons b t ih => exact ih.trans (hf s b)

@[simp] theorem mapCore_bounds {f : Core → Core} {s : State} (hf : ∀ c, sameCore c (f c)) :
    Claims.bounds (mapCore f s) ↔ Claims.bounds s := by
  rw [bounds_iff, bounds_iff, ← coreBounds_congr (hf s.core)]
  rfl

@[simp] theorem mapSt_bounds {f : Strand → Strand} {s : State} (hf : ∀ t, sameStrand t (f t)) :
    Claims.bounds (mapSt f s) ↔ Claims.bounds s :=
  mapCore_bounds (f := fun c => { c with st := f c.st }) fun c => ⟨hf c.st, rfl, rfl⟩

@[simp] theorem mapArch_bounds {f : Arch → Arch} {s : State} (hf : ∀ a, (f a).loops = a.loops) :
    Claims.bounds (mapArch f s) ↔ Claims.bounds s :=
  mapSt_bounds (f := fun t => { t with a := f t.a }) fun t => ⟨hf t.a, rfl, rfl⟩

@[simp] theorem mapCtx_bounds {f : Ctx → Ctx} {s : State} : Claims.bounds (mapCtx f s) ↔ Claims.bounds s := Iff.rfl

@[simp] theorem coreInit_bounds (c : CoreId) : Claims.coreBounds (Core.init c) := by simp [Core.init, Strand.init, Arch.init]

@[simp] theorem coreOf_bounds {s : State} (c : CoreId) (h : Claims.bounds s) : Claims.coreBounds (coreOf s c) := by
  unfold coreOf
  split
  · exact bounds_core h
  · cases hk : s.others.find? fun k => k.id == c with
    | none => exact coreInit_bounds c
    | some k => exact bounds_others h k (List.mem_of_find?_eq_some hk)

@[simp] theorem focus_bounds {s : State} (c : CoreId) (h : Claims.bounds s) : Claims.bounds (focus c s) := by
  simp [focus, h]

theorem onCore_keeps {f : Core → Core} {s : State} (c : CoreId) (h : Claims.bounds s)
    (hf : ∀ k, Claims.coreBounds k → Claims.coreBounds (f k)) : Claims.bounds (onCore c f s) := by
  unfold onCore
  split
  · exact mapCore_keeps h (hf _ (bounds_core h))
  · simp [h, hf]

@[simp] theorem onCore_bounds {f : Core → Core} {s : State} (c : CoreId) (h : Claims.bounds s) (hf : ∀ k, sameCore k (f k)) :
    Claims.bounds (onCore c f s) :=
  onCore_keeps c h fun k hk => (coreBounds_congr (hf k)).2 hk

/-- Whatever the computation answers, the state in its answer is within the bounds. -/
def Keeps {ε β : Type} (st : β → State) (r : Except ε β) : Prop := ∀ b, r = .ok b → Claims.bounds (st b)

@[simp] theorem keeps_ok {ε β : Type} (st : β → State) (b : β) : Keeps st (.ok b : Except ε β) ↔ Claims.bounds (st b) :=
  ⟨fun h => h b rfl, fun h _ e => Except.ok.inj e ▸ h⟩

@[simp] theorem keeps_error {ε β : Type} (st : β → State) (e : ε) : Keeps st (.error e : Except ε β) := fun _ h => nomatch h

/-- A step that carries no state. -/
@[simp] theorem keeps_bind {ε α β : Type} {st : β → State} {x : Except ε α} {f : α → Except ε β} :
    Keeps st (x >>= f) ↔ ∀ a, x = .ok a → Keeps st (f a) := by
  cases x with
  | ok a => exact ⟨fun h b e => Except.ok.inj e ▸ h, fun h => h a rfl⟩
  | error e => exact ⟨fun _ _ h => (nomatch h), fun _ => keeps_error st e⟩

/-- A step that hands on a state. -/
@[simp high] theorem keeps_bind_state {ε α β : Type} {st : β → State} {x : Except ε (α × State)} {f : α × State → Except ε β}
    (hx : Keeps Prod.snd x) : Keeps st (x >>= f) ↔ ∀ a u, Claims.bounds u → x = .ok (a, u) → Keeps st (f (a, u)) :=
  keeps_bind.trans ⟨fun h a u _ e => h (a, u) e, fun h p e => h p.1 p.2 (hx p e) e⟩

/-- A step whose answer is the state. -/
@[simp high] theorem keeps_bind_self {ε β : Type} {st : β → State} {x : Except ε State} {f : State → Except ε β} (hx : Keeps id x) :
    Keeps st (x >>= f) ↔ ∀ u, Claims.bounds u → x = .ok u → Keeps st (f u) :=
  keeps_bind.trans ⟨fun h u _ e => h u e, fun h u e => h u (hx u e) e⟩

@[simp] theorem keeps_ite {ε β : Type} {st : β → State} {p : Prop} [Decidable p] {x y : Except ε β} :
    Keeps st (if p then x else y) ↔ (p → Keeps st x) ∧ (¬p → Keeps st y) := by split <;> simp [*]

@[simp] theorem keeps_gather {β : Type} {st : β → State} {r : Res β} {cs : List (Option Stop)} :
    Keeps st (gather r cs) ↔ Keeps st r := by simp only [Keeps, gather_ok]

@[simp] theorem keeps_liftMem {β : Type} {st : β → State} {s : State} {x : Except MemErr β} : Keeps st (liftMem s x) ↔ Keeps st x := by
  cases x with
  | ok a => simp [liftMem]
  | error e => exact ⟨fun _ => keeps_error st e, fun _ b h => nomatch (liftMem_ok h)⟩

@[simp] theorem need_eq_ok {s : State} {b : Bool} {c : Nat} {w : Word} {a : Unit} : need s b c w = .ok a ↔ b = true := by
  cases b <;> simp

@[simp] theorem keeps_raise {β : Type} (st : β → State) (s : State) (c : Nat) (w : Word) : Keeps st (raise s c w : Res β) :=
  keeps_error st _
@[simp] theorem keeps_memStop {β : Type} (st : β → State) (s : State) (e : MemErr) : Keeps st (memStop s e : Res β) :=
  fun _ h => nomatch liftMem_ok (x := .error e) h

/-- What reads only leaves the bounds alone: it touches translations, leases and cache slices. -/
theorem ReadsOnly.bounds_iff {s u : State} (h : ReadsOnly s u) : Claims.bounds u ↔ Claims.bounds s := by
  rw [h]
  simp only [Machine.bounds_iff, Claims.coreBounds]

theorem ReadsOnly.bounds {s u : State} (h : ReadsOnly s u) (hb : Claims.bounds s) : Claims.bounds u := h.bounds_iff.2 hb

@[simp] theorem coreXlate_keeps {acc : Acc} {va : Nat} {s : State} (h : Claims.bounds s) : Keeps Prod.snd (coreXlate acc va s) :=
  fun _ e => (coreXlate_reads e).bounds h
@[simp] theorem lookupTlb_keeps {va : Nat} {s : State} (h : Claims.bounds s) : Keeps Prod.snd (lookupTlb s va) :=
  fun _ e => (lookupTlb_reads e).bounds h
@[simp] theorem xlateW_keeps {acc : Acc} {va : Nat} {s : State} (h : Claims.bounds s) : Keeps Prod.snd (xlateW acc va s) :=
  fun _ e => (xlateW_reads e).bounds h
@[simp] theorem globalReadWith_keeps {acc : Acc} {chk : Bool} {ex : List MemErr} {l : List (Nat × Nat)} {s : State}
    (h : Claims.bounds s) : Keeps Prod.snd (globalReadWith acc chk ex l s) :=
  fun _ e => (globalReadWith_reads e).bounds h
@[simp] theorem globalRead_keeps {l : List (Nat × Nat)} {s : State} (h : Claims.bounds s) : Keeps Prod.snd (globalRead l s) :=
  globalReadWith_keeps h
@[simp] theorem globalRead1_keeps {va n : Nat} {s : State} (h : Claims.bounds s) : Keeps Prod.snd (globalRead1 va n s) :=
  fun _ e => (globalRead1_reads e).bounds h

/-- The store-hold buffer takes no 129th piece (01 R23). -/
@[simp] theorem holdAll_keeps {ps : List Held} {s : State} (h : Claims.bounds s) : Keeps id (holdAll ps s) := fun u e => by
  obtain ⟨hu, hl⟩ := holdAll_ok e
  rw [hu] at hl ⊢
  simpa [h] using hl

/-! ### Shared operations -/

@[simp] theorem due_bounds (n : Nat) (i : Instr) (s : State) : Claims.bounds (due n i s) ↔ Claims.bounds s := by
  simp [due]

@[simp] theorem signal_bounds (v : Nat) (s : State) : Claims.bounds (signal v s) ↔ Claims.bounds s := by
  simp [signal]

@[simp] theorem record_bounds (d c : Nat) (i : Word) (s : State) : Claims.bounds (record d c i s) ↔ Claims.bounds s := by
  simp [record]

@[simp] theorem freshId_bounds (s : State) : Claims.bounds (freshId s).2 ↔ Claims.bounds s := by
  simp [freshId]

@[simp] theorem addPend_bounds (d : Option Nat) (r : Nat) (n : Option (Nat × Nat)) (a : PendAct) (f : Flags) (k : Nat)
    (s : State) : Claims.bounds (addPend d r n a f k s) ↔ Claims.bounds s := by
  simp [addPend]

@[simp] theorem addPendAt_bounds (q : Nat) (d : Option Nat) (r : Nat) (a : PendAct) (f : Flags) (k : Nat)
    (s : State) : Claims.bounds (addPendAt q d r a f k s) ↔ Claims.bounds s := by
  simp [addPendAt]

@[simp] theorem writeS_bounds (r : BitVec 6) (c : Nat) (v : Word) (f : Flags) (s : State) :
    Claims.bounds (writeS r c v f s) ↔ Claims.bounds s := by
  simp [writeS]

@[simp] theorem writeSpad_bounds (c : Nat) (b : List (Nat × Byte)) (g : List (Nat × Bool)) (f : Flags) (s : State) :
    Claims.bounds (writeSpad c b g f s) ↔ Claims.bounds s := by
  simp [writeSpad]

@[simp] theorem produceS_bounds (rd : BitVec 6) (val : Option Word) (first : Nat) (isDiv held : Bool) (s : State) :
    Claims.bounds (produceS rd val first isDiv held s).2 ↔ Claims.bounds s := by
  simp [produceS]

@[simp] theorem freeDelay_bounds (s : State) : Claims.bounds (freeDelay s).2 ↔ Claims.bounds s := by
  simp [freeDelay]

@[simp] theorem produceVal_bounds (rd : BitVec 6) (v : Word) (first : Nat) (isDiv : Bool) (s : State) :
    Claims.bounds (produceVal rd v first isDiv s) ↔ Claims.bounds s := by
  simp [produceVal]

@[simp] theorem setReg_loops (r : BitVec 5) (v : Word) (a : Arch) : (setReg r v a).loops = a.loops := by
  unfold setReg
  split <;> rfl

@[simp] theorem writeScratch_st (bs : List (Nat × Byte)) (fb : List (Nat × Bool)) (c : Core) : (writeScratch bs fb c).st = c.st := rfl
@[simp] theorem writeScratch_held (bs : List (Nat × Byte)) (fb : List (Nat × Bool)) (c : Core) :
    (writeScratch bs fb c).held = c.held := rfl
@[simp] theorem writeScratch_split (bs : List (Nat × Byte)) (fb : List (Nat × Bool)) (c : Core) :
    (writeScratch bs fb c).split = c.split := rfl

@[simp] theorem endWait_shadow (t : Strand) : (endWait t).shadow = t.shadow := rfl
@[simp] theorem endWait_retry (t : Strand) : (endWait t).retry = t.retry := rfl

@[simp] theorem orFlags_bounds (f : Flags) (s : State) : Claims.bounds (orFlags f s) ↔ Claims.bounds s := by
  simp [orFlags]

@[simp] theorem landOne_bounds (p : Pend) (s : State) : Claims.bounds (landOne p s) ↔ Claims.bounds s := by
  unfold landOne
  cases p.act <;> simp

@[simp] theorem stageTwo_bounds (p : Pend) (b l : Nat) (s : State) : Claims.bounds (stageTwo p b l s) ↔ Claims.bounds s := by
  simp [stageTwo]

@[simp] theorem landLoop_bounds (force : Bool) :
    ∀ (n : Nat) (s : State), Claims.bounds (landLoop force n s) ↔ Claims.bounds s
  | 0, _ => Iff.rfl
  | n + 1, s => by
    unfold landLoop
    (repeat' split) <;> simp [landLoop_bounds force n]

@[simp] theorem landDue_bounds (force : Bool) (s : State) : Claims.bounds (landDue force s) ↔ Claims.bounds s := by
  simp [landDue, landTiles]

@[simp] theorem setDir_bounds (l : Nat) (d : Dir) (s : State) : Claims.bounds (setDir l d s) ↔ Claims.bounds s := by
  simp [setDir]

@[simp] theorem releaseCore_bounds (c : CoreId) (s : State) : Claims.bounds (releaseCore c s) ↔ Claims.bounds s := by
  simp [releaseCore]

@[simp] theorem releaseToken_bounds (s : State) : Claims.bounds (releaseToken s) ↔ Claims.bounds s := by
  simp [releaseToken]

@[simp] theorem requestToken_bounds (s : State) : Claims.bounds (requestToken s) ↔ Claims.bounds s := by
  simp [requestToken]

@[simp] theorem flushSpad_bounds (s : State) : Claims.bounds (flushSpad s) ↔ Claims.bounds s := by
  obtain ⟨a, f, e⟩ := flushSpad_eq s
  simp [e]

/-- A rollback empties the store-hold buffer and takes the loop stack of the shadow set (01 R24). -/
theorem rollback_bounds {f : State → State} {s : State} (hf : ∀ s, Claims.bounds s → Claims.bounds (f s)) (pc : BPc)
    (h : Claims.bounds s) : Claims.bounds (rollback f pc s) := by
  have hs := hf s h
  unfold rollback
  refine mapSt_keeps (mapCore_keeps ?_ ?_) ?_ <;> simp [clearEngines, hs]

@[simp] theorem setTrapRegs_bounds (pc : BPc) (c : Cause) (s : State) : Claims.bounds (setTrapRegs pc c s) ↔ Claims.bounds s := by
  simp [setTrapRegs]

@[simp] theorem escalate_bounds (c : Cause) (s : State) : Claims.bounds (escalate c s) ↔ Claims.bounds s := by
  simp [escalate]

/-- A trap rolls back and ends the region's count of failed validations (01 R28, R35). -/
theorem trapNaming_bounds {f : State → State} {s : State} (hf : ∀ s, Claims.bounds s → Claims.bounds (f s)) (n : Nat) (c : Cause)
    (h : Claims.bounds s) : Claims.bounds (trapNaming n f c s) := by
  have hr : Claims.bounds (mapSt (fun t => { t with retry := 0, pin := false }) (releaseToken (rollback f s.core.st.ckptPc s))) := by
    have hb := rollback_bounds hf s.core.st.ckptPc h
    refine mapSt_keeps ?_ ?_ <;> simp [hb]
  simp [trapNaming, hr]

@[simp] theorem returnFromHandler_bounds {s : State} (h : Claims.bounds s) : Claims.bounds (returnFromHandler s) := by
  refine mapSt_keeps h ?_
  simp [h]

/-! ### Flags -/

@[simp] theorem draws_bounds (rnd n : Nat) (s : State) : Claims.bounds (draws rnd n s).2 ↔ Claims.bounds s := by
  unfold draws
  split <;> simp

/-! ### Engines -/

@[simp] theorem flagsAt_bounds (q r : Nat) (f : Flags) (s : State) : Claims.bounds (flagsAt q r f s) ↔ Claims.bounds s := by
  simp [flagsAt]

@[simp] theorem setBank_st (k : Nat) (b : Bank) (c : Core) : (setBank k b c).st = c.st := rfl
@[simp] theorem setBank_held (k : Nat) (b : Bank) (c : Core) : (setBank k b c).held = c.held := rfl
@[simp] theorem setBank_split (k : Nat) (b : Bank) (c : Core) : (setBank k b c).split = c.split := rfl
@[simp] theorem setWords_st (k : Nat) (ws : List Nat) (c : Core) : (setWords k ws c).st = c.st := rfl
@[simp] theorem setWords_held (k : Nat) (ws : List Nat) (c : Core) : (setWords k ws c).held = c.held := rfl
@[simp] theorem setWords_split (k : Nat) (ws : List Nat) (c : Core) : (setWords k ws c).split = c.split := rfl

/-- An engine operation changes banks, queues and what is pending (07 R179). -/
@[simp] theorem runEOp_bounds (o : MOp) (s : State) : Claims.bounds (runEOp o s) ↔ Claims.bounds s := by
  unfold runEOp
  cases o.op with
  | rank1 => exact (flagsAt_bounds ..).trans (mapCore_bounds fun _ => ⟨⟨rfl, rfl, rfl⟩, rfl, rfl⟩)
  | _ => simp

/-- A spline operation changes banks, the coefficient and gradient stores and what is pending (08 R199). -/
@[simp] theorem runSOp_bounds (o : SQOp) (s : State) : Claims.bounds (runSOp o s) ↔ Claims.bounds s := by
  unfold runSOp
  cases o.op with
  | cnt rd above clear d => cases above <;> simp
  | _ => simp

@[simp] theorem finishM_bounds (k : List MOp) : ∀ (l : List MOp) (s : State), Claims.bounds (finishM k l s) ↔ Claims.bounds s
  | [], _ => Iff.rfl
  | o :: t, s => by simp [finishM, finishM_bounds k t]

@[simp] theorem finishS_bounds : ∀ (l : List SQOp) (s : State), Claims.bounds (finishS l s) ↔ Claims.bounds s
  | [], _ => Iff.rfl
  | o :: t, s => by simp [finishS, finishS_bounds t]

@[simp] theorem finishSaves_bounds (s : State) : Claims.bounds (finishSaves s) ↔ Claims.bounds s := by
  simp [finishSaves]

@[simp] theorem engineStep_bounds (s : State) : Claims.bounds (engineStep s) ↔ Claims.bounds s := by
  unfold engineStep
  split <;> simp

@[simp] theorem splineStep_bounds (s : State) : Claims.bounds (splineStep s) ↔ Claims.bounds s := by
  unfold splineStep
  split <;> simp

@[simp] theorem enqueueM_bounds (b : Bool) (o : EOp) (s : State) : Claims.bounds (enqueueM b o s) ↔ Claims.bounds s := by
  simp [enqueueM]

@[simp] theorem enqueueS_bounds (o : SOp) (f : Flags) (s : State) : Claims.bounds (enqueueS o f s) ↔ Claims.bounds s := by
  simp [enqueueS]

@[simp] theorem noteBank_bounds (bk : Nat) (s : State) : Claims.bounds (noteBank bk s) ↔ Claims.bounds s := by
  simp [noteBank]

@[simp] theorem rollback_saves_bounds {s : State} (pc : BPc) (h : Claims.bounds s) : Claims.bounds (rollback finishSaves pc s) :=
  rollback_bounds (fun u => (finishSaves_bounds u).2) pc h

/-- A re-execution in pinned mode counts as the third failed validation (12 R279). -/
@[simp] theorem rollbackPinned_bounds {s : State} (h : Claims.bounds s) : Claims.bounds (rollbackPinned s) := by
  have hb := rollback_saves_bounds (resumePc s.core.st) h
  rw [rollbackPinned, requestToken_bounds]
  refine mapSt_keeps hb ?_
  simp [hb]

@[simp] theorem takeTrap_bounds {s : State} (c : Cause) (h : Claims.bounds s) : Claims.bounds (takeTrap finishSaves c s) :=
  trapNaming_bounds (fun u => (finishSaves_bounds u).2) _ c h

@[simp] theorem fetchTrap_bounds {s : State} (c : Cause) (h : Claims.bounds s) : Claims.bounds (fetchTrap finishSaves c s) :=
  trapNaming_bounds (fun u => (finishSaves_bounds u).2) _ c h

/-! ### Mem -/

@[simp] theorem wrByte_bounds (pa : Nat) (b : Byte) (s : State) : Claims.bounds (wrByte pa b s) ↔ Claims.bounds s := by
  simp [wrByte]

@[simp] theorem wrBytes_bounds : ∀ (bs : List Byte) (pa : Nat) (s : State), Claims.bounds (wrBytes pa bs s) ↔ Claims.bounds s
  | [], _, _ => Iff.rfl
  | b :: t, pa, s => by simp [wrBytes, wrBytes_bounds t]

@[simp] theorem wrN_bounds (pa n v : Nat) (s : State) : Claims.bounds (wrN pa n v s) ↔ Claims.bounds s := by
  simp [wrN]

@[simp] theorem touchLine_bounds (line : Nat) (wr : Bool) (s : State) : Claims.bounds (touchLine line wr s) ↔ Claims.bounds s :=
  (touchLine_reads line wr s).bounds_iff

@[simp] theorem askPool_bounds (tx : PoolTx) (s : State) : Claims.bounds (askPool tx s) ↔ Claims.bounds s := by
  simp [askPool]

@[simp] theorem dropSlice_bounds (line : Nat) (s : State) : Claims.bounds (dropSlice line s) ↔ Claims.bounds s := by
  simp [dropSlice]

@[simp] theorem setPst_bounds (line p : Nat) (s : State) : Claims.bounds (setPst line p s) ↔ Claims.bounds s := by
  unfold setPst
  split <;> simp

@[simp] theorem touchAll_bounds (lines : List Nat) (s : State) : Claims.bounds (touchAll lines s) ↔ Claims.bounds s := by
  simp [touchAll]

@[simp] theorem grantLease_bounds (line pts : Nat) (pinner : Option CoreId) (s : State) : Claims.bounds (grantLease line pts pinner s).2 ↔ Claims.bounds s := by
  unfold grantLease
  dsimp only
  (repeat' split) <;> simp

@[simp] theorem engReads_bounds (lines : List Nat) (t : Nat) (s : State) : Claims.bounds (engReads lines t s).2 ↔ Claims.bounds s :=
  bounds_foldl_iff (by simp)

@[simp] theorem engRead_bounds (line t : Nat) (s : State) : Claims.bounds (engRead line t s).2 ↔ Claims.bounds s := by
  simp [engRead]

@[simp] theorem regionLine_keeps (line : Nat) (rop : Bool) (s : State) (h : Claims.bounds s) : Keeps Prod.snd (regionLine line rop s) :=
  fun _ e => (regionLine_reads e).bounds h

/-! ### Operands -/

@[simp] theorem clearAtEnd_bounds (gs : List Nat) (s : State) : Claims.bounds (clearAtEnd gs s) ↔ Claims.bounds s := by
  simp [clearAtEnd]

@[simp] theorem spadRead_keeps (offs : List Int) (fe : Nat) (info : Word) (s : State) (h : Claims.bounds s) :
    Keeps Prod.snd (spadRead offs fe info s) := by
  simp +contextual [spadRead, h]

@[simp] theorem setPort_bounds (k : Nat) (d : BitVec 256) (s : State) : Claims.bounds (setPort k d s) ↔ Claims.bounds s := by
  simp [setPort]

@[simp] theorem popPort_keeps (k : Nat) (s : State) (h : Claims.bounds s) : Keeps Prod.snd (popPort k s) := by
  simp +contextual [popPort, h]

@[simp] theorem pushPort_keeps (k : Nat) (data : Vec) (cls : Nat) (fl : Flags) (s : State) (h : Claims.bounds s) :
    Keeps id (pushPort k data cls fl s) := by
  simp [pushPort, h]

@[simp] theorem popQueue_keeps (n : Nat) (s : State) (h : Claims.bounds s) : Keeps Prod.snd (popQueue n s) := by
  unfold popQueue
  dsimp only
  (repeat' split) <;> simp [h]

@[simp] theorem popSel_keeps (sel : BitVec 6) (s : State) (h : Claims.bounds s) : Keeps Prod.snd (popSel sel s) := by
  unfold popSel
  split <;> simp +contextual [h]

@[simp] theorem srcVec_keeps (sel : BitVec 6) (ty : Nat) (s : State) (h : Claims.bounds s) :
    Keeps Prod.snd (srcVec sel ty s) := by
  simp [srcVec, h]

@[simp] theorem putVec_keeps (vd : BitVec 8) (v : Vec) (cls : Nat) (fl : Flags) (s : State) (h : Claims.bounds s) :
    Keeps id (putVec vd v cls fl s) := by
  simp [putVec, h]

@[simp] theorem writeHField_bounds (h : BitVec 4) (lo w v : Nat) (s : State) : Claims.bounds (writeHField h lo w v s) ↔ Claims.bounds s := by
  simp [writeHField]

/-! ### Vector -/

@[simp] theorem putLanes_keeps (f : VF) (w cls : Nat) (r : List Nat × Flags) (s : State) (h : Claims.bounds s) :
    Keeps id (putLanes f w cls r s) := by
  simp [putLanes, h]

@[simp] theorem putRounded_keeps (f : VF) (cls : Nat) (xs : List XV) (fl : Flags) (s : State) (h : Claims.bounds s) :
    Keeps id (putRounded f cls xs fl s) := by
  simp [putRounded, h]

@[simp] theorem arith2_keeps (cls : Nat) (fop : XV → XV → XV × Flags) (iop : Int → Int → Int) (f : VF) (s : State)
    (h : Claims.bounds s) : Keeps id (arith2 cls fop iop f s) := by
  simp +contextual [arith2, h]

@[simp] theorem arith1_keeps (fop : XV → XV) (iop : Int → Int) (f : VF) (s : State) (h : Claims.bounds s) :
    Keeps id (arith1 fop iop f s) := by
  simp +contextual [arith1, h]

@[simp] theorem arith3_keeps (minus : Bool) (f : VF) (s : State) (h : Claims.bounds s) : Keeps id (arith3 minus f s) := by
  simp +contextual [arith3, h]

@[simp] theorem trans_keeps (op : XV → BitVec 32 → Nat × Flags) (f : VF) (s : State) (h : Claims.bounds s) :
    Keeps id (trans op f s) := by
  simp +contextual [trans, h]

@[simp] theorem bitOp_keeps (op : Vec → Vec → Vec) (f : VF) (s : State) (h : Claims.bounds s) :
    Keeps id (bitOp op f s) := by
  simp +contextual [bitOp, h]

@[simp] theorem shiftOp_keeps (op : Nat → Nat → Nat → Nat) (f : VF) (s : State) (h : Claims.bounds s) :
    Keeps id (shiftOp op f s) := by
  simp +contextual [shiftOp, h]

@[simp] theorem cmpOp_keeps (fop : XV → XV → Bool) (iop : Int → Int → Bool) (f : VF) (s : State) (h : Claims.bounds s) :
    Keeps id (cmpOp fop iop f s) := by
  simp +contextual [cmpOp, h]

@[simp] theorem vselOp_keeps (f : VF) (s : State) (h : Claims.bounds s) : Keeps id (vselOp f s) := by
  simp +contextual [vselOp, h]

@[simp] theorem vcvtOp_keeps (f : VF) (s : State) (h : Claims.bounds s) : Keeps id (vcvtOp f s) := by
  unfold vcvtOp
  dsimp only
  (repeat' split) <;> simp +contextual [h]

@[simp] theorem vsrndOp_keeps (f : VF) (s : State) (h : Claims.bounds s) : Keeps id (vsrndOp f s) := by
  simp +contextual [vsrndOp, h]

@[simp] theorem vscalOp_keeps (f : VF) (s : State) (h : Claims.bounds s) : Keeps id (vscalOp f s) := by
  simp +contextual [vscalOp, h]

@[simp] theorem redOp_keeps (node : XV → XV → XV × Flags) (iop : Int → Int → Int) (f : VF) (s : State) (h : Claims.bounds s) :
    Keeps id (redOp node iop f s) := by
  simp +contextual [redOp, h]

@[simp] theorem vbcastOp_keeps (f : VF) (s : State) (h : Claims.bounds s) : Keeps id (vbcastOp f s) := by
  simp +contextual [vbcastOp, h]

@[simp] theorem vextrOp_keeps (f : VF) (s : State) (h : Claims.bounds s) : Keeps id (vextrOp f s) := by
  simp +contextual [vextrOp, h]

@[simp] theorem vpermOp_keeps (f : VF) (s : State) (h : Claims.bounds s) : Keeps id (vpermOp f s) := by
  simp +contextual [vpermOp, h]

@[simp] theorem rowOp_keeps (bk : Nat) (op : EOp) (s : State) (h : Claims.bounds s) : Keeps id (rowOp bk op s) := by
  simp [rowOp, h]

@[simp] theorem vmovOp_keeps (f : VF) (s : State) (h : Claims.bounds s) : Keeps id (vmovOp f s) := by
  simp +contextual [vmovOp, h]

@[simp] theorem vzeroOp_keeps (f : VF) (s : State) (h : Claims.bounds s) : Keeps id (vzeroOp f s) := by
  simp [vzeroOp, h]

@[simp] theorem vaccOp_keeps (wide : Bool) (f : VF) (s : State) (h : Claims.bounds s) : Keeps id (vaccOp wide f s) := by
  simp +contextual [vaccOp, h]

@[simp] theorem vbfpnOp_keeps (f : VF) (s : State) (h : Claims.bounds s) : Keeps id (vbfpnOp f s) := by
  simp [vbfpnOp, h]

@[simp] theorem vadamOp_keeps (f : VF) (s : State) (h : Claims.bounds s) : Keeps id (vadamOp f s) := by
  simp +contextual [vadamOp, h]

@[simp] theorem vsgdmOp_keeps (f : VF) (s : State) (h : Claims.bounds s) : Keeps id (vsgdmOp f s) := by
  simp +contextual [vsgdmOp, h]

/-! ### Tmr -/

@[simp] theorem tmrPlace_keeps (ref : Nat) (s : State) (h : Claims.bounds s) : Keeps Prod.snd (tmrPlace ref s) := by
  simp +contextual [tmrPlace, h]

@[simp] theorem readRec_keeps (ref : Nat) (s : State) (h : Claims.bounds s) : Keeps Prod.snd (readRec ref s) := by
  simp +contextual [readRec, h]

@[simp] theorem checkRec_keeps (ref : Nat) (s : State) (h : Claims.bounds s) : Keeps Prod.snd (checkRec ref s) := by
  simp +contextual [checkRec, h]

/-- Pieces that take the place of the held ones are at most 128 too (06 R161). -/
@[simp] theorem setHeld_keeps (hs : List Held) (s : State) (h : Claims.bounds s) : Keeps id (setHeld hs s) := by
  refine keeps_bind.2 fun _ hl => (keeps_ok ..).2 (mapCtx_bounds.2 (mapCore_keeps h ?_))
  rw [need_eq_ok, decide_eq_true_eq] at hl
  simp [h, hl]

@[simp] theorem popAll_keeps (ty : Nat) : ∀ (l : List (BitVec 6)) (s : State), Claims.bounds s → Keeps Prod.snd (popAll ty l s)
  | [], s, h => by simp [popAll, h]
  | v :: t, s, h => by simp +contextual [popAll, h, popAll_keeps ty t]

@[simp] theorem vqntOp_keeps (f : VF) (s : State) (h : Claims.bounds s) : Keeps id (vqntOp f s) := by
  simp +contextual [vqntOp, h]

@[simp] theorem vdqOp_keeps (f : VF) (s : State) (h : Claims.bounds s) : Keeps id (vdqOp f s) := by
  refine keeps_gather.2 (keeps_bind.2 fun hd _ => keeps_bind.2 fun _ _ => keeps_bind.2 fun w _ =>
    (keeps_bind_state (keeps_liftMem.2 (readRec_keeps _ s h))).2 fun r u hu _ => ?_)
  dsimp only
  split
  · simp
  · simp +contextual [hu]

/-! ### Counters -/

@[simp] theorem askOpt_bounds (tx : Option PoolTx) (s : State) : Claims.bounds (askOpt tx s) ↔ Claims.bounds s := by
  unfold askOpt
  split <;> simp

@[simp] theorem raiseHc_bounds (home t : Nat) (s : State) : Claims.bounds (raiseHc home t s) ↔ Claims.bounds s := by
  simp [raiseHc]

@[simp] theorem readStamp_bounds (line t : Nat) (s : State) : Claims.bounds (readStamp line t s) ↔ Claims.bounds s := by
  simp [readStamp]

@[simp] theorem stampLine_bounds (line t : Nat) (full : Bool) (s : State) : Claims.bounds (stampLine line t full s) ↔ Claims.bounds s := by
  simp [stampLine]

@[simp] theorem modDir_bounds (line : Nat) (full : Bool) (s : State) : Claims.bounds (modDir line full s) ↔ Claims.bounds s := by
  simp [modDir]

@[simp] theorem again_bounds (i : Instr) (s : State) : Claims.bounds (again i s) ↔ Claims.bounds s := by
  simp [again]

@[simp] theorem whenReady_bounds {line : Nat} {full : Bool} {i : Instr} {bad ok : State → State} {s : State} (h : Claims.bounds s)
    (hb : ∀ s, Claims.bounds s → Claims.bounds (bad s)) (ho : ∀ s, Claims.bounds s → Claims.bounds (ok s)) :
    Claims.bounds (whenReady line full i bad ok s) := by
  unfold whenReady
  split <;> simp [h, hb, ho]

@[simp] theorem reportA_bounds (tser code : Nat) (info : Word) (s : State) : Claims.bounds (reportA tser code info s) ↔ Claims.bounds s := by
  simp [reportA]

@[simp] theorem reportSrc_bounds (src : Source) (code : Nat) (info hostInfo : Word) (s : State) :
    Claims.bounds (reportSrc src code info hostInfo s) ↔ Claims.bounds s := by
  unfold reportSrc
  split <;> simp

@[simp] theorem holdCtr_bounds (pa : Nat) (s : State) : Claims.bounds (holdCtr pa s) ↔ Claims.bounds s := by
  simp [holdCtr]

@[simp] theorem nameCtr_bounds (pa : Nat) (s : State) : Claims.bounds (nameCtr pa s) ↔ Claims.bounds s := by
  simp [nameCtr]

@[simp] theorem clearWatch_bounds (i : Nat) (s : State) : Claims.bounds (clearWatch i s) ↔ Claims.bounds s := by
  simp [clearWatch]

@[simp] theorem tableTime_bounds (tab t : Nat) (s : State) : Claims.bounds (tableTime tab t s) ↔ Claims.bounds s := by
  simp [tableTime]

@[simp] theorem startMerge_bounds (tab t : Nat) (s : State) : Claims.bounds (startMerge tab t s) ↔ Claims.bounds s := by
  simp [startMerge]

@[simp] theorem clearR0loss_bounds (tab e t : Nat) (s : State) : Claims.bounds (clearR0loss tab e t s) ↔ Claims.bounds s := by
  simp [clearR0loss]

@[simp] theorem wakeOne_bounds (delay t : Nat) (w : Waiter) (s : State) : Claims.bounds (wakeOne delay t w s) ↔ Claims.bounds s := by
  unfold wakeOne
  split <;> simp [apply_ite Task.gangs]

@[simp] theorem wakeCheck_bounds (pa t : Nat) (s : State) : Claims.bounds (wakeCheck pa t s) ↔ Claims.bounds s := by
  simp [wakeCheck, freeDelay]

@[simp] theorem overflowCheck_bounds (n : Nat) (s : State) : Claims.bounds (overflowCheck n s) ↔ Claims.bounds s := by
  simp [overflowCheck]

@[simp] theorem registerWaiter_bounds (w : Waiter) (s : State) : Claims.bounds (registerWaiter w s).2 ↔ Claims.bounds s := by
  unfold registerWaiter
  dsimp only
  split <;> simp

@[simp] theorem addCounter_bounds (pa : Nat) (va : Word) (n fl : Nat) (src : Source) (t : Nat) (s : State) (h : Claims.bounds s) :
    Claims.bounds (addCounter pa va n fl src t s) := by
  unfold addCounter
  cases src <;> simp [h]

@[simp] theorem flagCounter_bounds (pa b t : Nat) (s : State) (h : Claims.bounds s) : Claims.bounds (flagCounter pa b t s) := by
  simp [flagCounter, h]

@[simp] theorem ceilCounter_bounds (pa : Nat) (va : Word) (c : Nat) (src : Source) (t : Nat) (s : State) (h : Claims.bounds s) :
    Claims.bounds (ceilCounter pa va c src t s) := by
  simp [ceilCounter, h]

@[simp] theorem execApplyAdd_bounds (ctr : Nat) (va : Word) (n : Word) (fl : BitVec 32) (src : Source) (t : Nat) (s : State)
    (h : Claims.bounds s) : Ends Claims.bounds (execApplyAdd ctr va n fl src t s) := by
  simp +contextual [execApplyAdd, h]

@[simp] theorem execApplyCflg_bounds (ctr : Nat) (b : BitVec 32) (t : Nat) (s : State) (h : Claims.bounds s) :
    Ends Claims.bounds (execApplyCflg ctr b t s) := by
  simp +contextual [execApplyCflg, h]

@[simp] theorem execApplyCeil_bounds (ctr : Nat) (va : Word) (v : Word) (src : Source) (t : Nat) (s : State) (h : Claims.bounds s) :
    Ends Claims.bounds (execApplyCeil ctr va v src t s) := by
  simp +contextual [execApplyCeil, h]

@[simp] theorem engUse_bounds (parts : List (Nat × Nat)) (s : State) : Claims.bounds (engUse parts s) ↔ Claims.bounds s :=
  (engUse_reads parts s).bounds_iff

@[simp] theorem modLine_bounds (line : Nat) (full : Bool) (s : State) : Claims.bounds (modLine line full s) ↔ Claims.bounds s :=
  (modLine_reads line full s).bounds_iff

/-! ### Sync -/

@[simp] theorem ctrAddr_keeps (acc : Acc) (va : Word) (s : State) (h : Claims.bounds s) :
    Keeps Prod.snd (ctrAddr acc va s) := by
  simp [ctrAddr, h]

@[simp] theorem heldCtr_keeps (f : YA) (mk : Nat → Word → Word → Held) (s : State) (h : Claims.bounds s) :
    Keeps id (heldCtr f mk s) := by
  simp +contextual [heldCtr, h]

@[simp] theorem caddiOp_keeps (f : YA) (s : State) (h : Claims.bounds s) : Keeps id (caddiOp f s) := by
  simp +contextual [caddiOp, h]

@[simp] theorem cceilOp_keeps (f : YA) (s : State) (h : Claims.bounds s) : Keeps id (cceilOp f s) := by
  simp [cceilOp, h]

@[simp] theorem crdOp_keeps (f : YA) (s : State) (h : Claims.bounds s) : Keeps id (crdOp f s) := by
  simp +contextual [crdOp, h]

@[simp] theorem cwaitDone_bounds (rd : BitVec 5) (flags : Nat) (t : Nat) (s : State) : Claims.bounds (cwaitDone rd flags t s) ↔ Claims.bounds s := by
  simp [cwaitDone]

@[simp] theorem cwaitOp_keeps (f : YA) (s : State) (h : Claims.bounds s) : Keeps id (cwaitOp f s) := by
  simp +contextual [cwaitOp, h]

@[simp] theorem execCwaitWake_bounds (c : CoreId) (flags : BitVec 32) (t : Nat) (s : State) (h : Claims.bounds s) :
    Ends Claims.bounds (execCwaitWake c flags t s) := by
  unfold execCwaitWake
  dsimp only
  (repeat' split) <;> simp [h]

@[simp] theorem atomicOp_keeps (k : AtomKind) (f : YA) (s : State) (h : Claims.bounds s) : Keeps id (atomicOp k f s) := by
  simp +contextual [atomicOp, h]

/-! ### Cluster -/

@[simp] theorem releaseSeg_bounds (seg : Nat) (s : State) : Claims.bounds (releaseSeg seg s) ↔ Claims.bounds s := by
  unfold releaseSeg
  split
  · rfl
  · split
    · exact bounds_foldl_iff (by simp)
    · rfl

@[simp] theorem arrive_bounds (c : CoreId) (seg t : Nat) (s : State) : Claims.bounds (arrive c seg t s) ↔ Claims.bounds s := by
  unfold arrive
  (repeat' split) <;> simp

@[simp] theorem retireCore_bounds (c : CoreId) (s : State) : Claims.bounds (retireCore c s) ↔ Claims.bounds s := by
  simp [retireCore]

@[simp] theorem execBarrierArrival_bounds (c : CoreId) (seg : Nat) (t : Nat) (s : State) (h : Claims.bounds s) :
    Ends Claims.bounds (execBarrierArrival c seg t s) := by
  simp [execBarrierArrival, h]

@[simp] theorem barrOp_keeps (f : YA) (s : State) (h : Claims.bounds s) : Keeps id (barrOp f s) := by
  simp [barrOp, h]

@[simp] theorem bwaitDone_bounds (t : Nat) (s : State) : Claims.bounds (bwaitDone t s) ↔ Claims.bounds s := by
  simp [bwaitDone]

@[simp] theorem bwaitOp_keeps (f : YA) (s : State) (h : Claims.bounds s) : Keeps id (bwaitOp f s) := by
  simp [bwaitOp, h]

@[simp] theorem barqOp_keeps (f : YA) (s : State) (h : Claims.bounds s) : Keeps id (barqOp f s) := by
  simp [barqOp, h]

@[simp] theorem execBwaitReturn_bounds (c : CoreId) (s : State) (h : Claims.bounds s) : Ends Claims.bounds (execBwaitReturn c s) := by
  unfold execBwaitReturn
  split
  · split
    · simp [h]
    · simp [h]
  · simp [h]

@[simp] theorem landMc_bounds (m : Mc) (s : State) (h : Claims.bounds s) : Claims.bounds (landMc m s) := by
  simp +contextual [landMc, h]

@[simp] theorem landMcs_bounds (s : State) (h : Claims.bounds s) : Claims.bounds (landMcs s) := by
  simp +contextual [landMcs, h]

@[simp] theorem execMulticastLanding_bounds (k : Nat) (s : State) (h : Claims.bounds s) : Ends Claims.bounds (execMulticastLanding k s) := by
  simp [execMulticastLanding, h]

/-! ### Net -/

@[simp] theorem sendG_bounds (dst : BitVec 17) (body : GBody) (s : State) : Claims.bounds (sendG dst body s) ↔ Claims.bounds s := by
  simp [sendG, freeDelay]

@[simp] theorem ackMsg_bounds (m : GMsg) (s : State) : Claims.bounds (ackMsg m s) ↔ Claims.bounds s := by
  simp [ackMsg]

@[simp] theorem answerG_bounds (m : GMsg) (b : GBody) (s : State) : Claims.bounds (answerG m b s) ↔ Claims.bounds s := by
  simp [answerG]

@[simp] theorem abortAll_bounds (tag launch : Nat) (group : List (BitVec 17)) (poison : Bool) (s : State) :
    Claims.bounds (abortAll tag launch group poison s) ↔ Claims.bounds s := by
  simp [abortAll]

@[simp] theorem abortColls_bounds (p : Coll → Bool) (s : State) : Claims.bounds (abortColls p s) ↔ Claims.bounds s := by
  simp [abortColls]

/-! ### Copy -/

@[simp] theorem cpyOp_keeps (kind : CopyKind) (dpad spad : Bool) (f : CE) (s : State) (h : Claims.bounds s) :
    Keeps id (cpyOp kind dpad spad f s) := by
  simp [cpyOp, h]

@[simp] theorem cpy2Op_keeps (f : CE) (s : State) (h : Claims.bounds s) : Keeps id (cpy2Op f s) := by
  simp [cpy2Op, h]

@[simp] theorem cpyrOp_keeps (f : CE) (s : State) (h : Claims.bounds s) : Keeps id (cpyrOp f s) := by
  simp [cpyrOp, h]

@[simp] theorem cpyqOp_keeps (f : CE) (s : State) (h : Claims.bounds s) : Keeps id (cpyqOp f s) := by
  simp [cpyqOp, h]

@[simp] theorem xlateAll_bounds (acc : Acc) (l : List (Nat × Nat)) (s : State) : Claims.bounds (xlateAll acc l s).2 ↔ Claims.bounds s :=
  (xlateAll_reads acc l s).bounds_iff
@[simp] theorem loadWords_bounds (vas : List Nat) (s : State) : Claims.bounds (loadWords vas s).2 ↔ Claims.bounds s :=
  xlateAll_bounds ..

@[simp] theorem cpykOp_keeps (f : CE) (s : State) (h : Claims.bounds s) : Keeps id (cpykOp f s) := by
  refine keeps_gather.2 (keeps_bind.2 fun b _ => keeps_bind.2 fun c _ => ?_)
  dsimp only
  split
  · simp
  · simp [h, freeDelay]

@[simp] theorem bankRow_bounds (l : BankLoad) (s : State) (h : Claims.bounds s) : Claims.bounds (bankRow l s) := by
  unfold bankRow
  dsimp only
  split
  · simp [h]
  · simp [freeDelay, h]

@[simp] theorem setStat_bounds (op : Nat) (f : StatEnt → StatEnt) (s : State) : Claims.bounds (setStat op f s) ↔ Claims.bounds s := by
  simp [setStat]

@[simp] theorem switchTime_bounds (i t : Nat) (s : State) : Claims.bounds (switchTime i t s) ↔ Claims.bounds s := by
  unfold switchTime
  split <;> simp

@[simp] theorem endOp_bounds (o : Cop) (s : State) : Claims.bounds (endOp o s) ↔ Claims.bounds s := by
  simp [endOp]

@[simp] theorem stopOpn_bounds (o : Cop) (w : StopWhy) (s : State) : Claims.bounds (stopOpn o w s) ↔ Claims.bounds s := by
  unfold stopOpn
  (repeat' split) <;> simp

@[simp] theorem completeOp_bounds (o : Cop) (s : State) : Claims.bounds (completeOp o s) ↔ Claims.bounds s := by
  unfold completeOp
  (repeat' split) <;> simp

@[simp] theorem nextPiece_bounds (o : Cop) (s : State) : Claims.bounds (nextPiece o s) ↔ Claims.bounds s := by
  simp [nextPiece, freeDelay]

@[simp] theorem startOp_bounds (o : Cop) (q : LaunchQ) (s : State) : Claims.bounds (startOp o q s) ↔ Claims.bounds s := by
  unfold startOp
  dsimp only
  (repeat' split) <;> simp

theorem takeStat_bounds {cl : ClusterId} {ctr : Word} {op : Nat} {s u : State} (hb : Claims.bounds s)
    (h : takeStat cl ctr op s = some u) : Claims.bounds u := by
  unfold takeStat at h
  dsimp only at h
  (repeat' split at h) <;> cases h <;> simpa using hb

@[simp] theorem execCopyLaunchAccept_bounds (cl : ClusterId) (s : State) (h : Claims.bounds s) :
    Ends Claims.bounds (execCopyLaunchAccept cl s) := by
  unfold execCopyLaunchAccept
  split
  · simp [h]
  · split
    · simp [h]
    · rw [← Prod.eta (freshId _)]
      dsimp only
      split
      · simp [h]
      · rename_i u hu
        have hm : Claims.bounds u := by
          split at hu
          · cases hu
            simp [h]
          · exact takeStat_bounds (by simp [h]) hu
        split <;> simp [hm]

theorem pieceRead_bounds {o : Cop} {p : Piece} {s u : State} {bs : List Byte} {t : Nat} (hb : Claims.bounds s)
    (h : pieceRead o p s = .ok (bs, t, u)) : Claims.bounds u := by
  unfold pieceRead at h
  (repeat' split at h) <;> cases h
  · exact hb
  · exact (engReads_bounds ..).2 hb

@[simp] theorem copyTime_bounds (o : Cop) (t : Nat) (s : State) : Claims.bounds (copyTime o t s).2 ↔ Claims.bounds s := by
  simp [copyTime]

@[simp] theorem pieceMark_bounds (o : Cop) (p : Piece) (pa : Nat) (s : State) : Claims.bounds (pieceMark o p pa s) ↔ Claims.bounds s := by
  unfold pieceMark
  split <;> simp

@[simp] theorem pieceDone_bounds (o : Cop) (p : Piece) (t : Nat) (s : State) : Claims.bounds (pieceDone o p t s) ↔ Claims.bounds s := by
  simp [pieceDone]

@[simp] theorem pieceGlobal_bounds (o : Cop) (p : Piece) (pa : Nat) (bs : List Byte) (s : State) (h : Claims.bounds s) :
    Claims.bounds (pieceGlobal o p pa bs s) := by
  simp [pieceGlobal, h]

@[simp] theorem markOut_bounds (o : Cop) (k : Nat) (bs : List Byte) (s : State) : Claims.bounds (markOut o k bs s) ↔ Claims.bounds s := by
  simp [markOut]

@[simp] theorem pieceWrite_bounds (o : Cop) (p : Piece) (k : Nat) (bs : List Byte) (s : State) (h : Claims.bounds s) :
    Claims.bounds (pieceWrite o p k bs s) := by
  unfold pieceWrite
  (repeat' split) <;> simp [h]

@[simp] theorem runPiece_bounds (o : Cop) (p : Piece) (k : Nat) (s : State) (h : Claims.bounds s) : Claims.bounds (runPiece o p k s) := by
  unfold runPiece
  split
  · simp [h]
  · split
    · simp [h]
    · simp [h]
    · simp [h]
    · rename_i hr
      have hu := pieceRead_bounds h hr
      simp [hu]

@[simp] theorem execCopyPiece_bounds (op k : Nat) (s : State) (h : Claims.bounds s) : Ends Claims.bounds (execCopyPiece op k s) := by
  unfold execCopyPiece
  (repeat' split) <;> simp [h]

/-! ### Tensor -/

@[simp] theorem setCtl_bounds (pa lo w v : Nat) (s : State) : Claims.bounds (setCtl pa lo w v s) ↔ Claims.bounds s := by
  simp [setCtl]

@[simp] theorem setBin_bounds (pa k v : Nat) (s : State) : Claims.bounds (setBin pa k v s) ↔ Claims.bounds s := by
  simp [setBin]

@[simp] theorem halve_bounds (pa w : Nat) : ∀ (n : Nat) (s : State), Claims.bounds (halve pa w n s) ↔ Claims.bounds s
  | 0, _ => Iff.rfl
  | n + 1, s => by simp [halve, halve_bounds pa w n]

@[simp] theorem addLate_bounds (pa n : Nat) (s : State) : Claims.bounds (addLate pa n s) ↔ Claims.bounds s := by
  simp [addLate]

@[simp] theorem modRec_bounds (pa : Nat) (s : State) : Claims.bounds (modRec pa s) ↔ Claims.bounds s := by
  simp [modRec]

@[simp] theorem applyFlush_bounds (d : Delta) (s : State) : Claims.bounds (applyFlush d s) ↔ Claims.bounds s := by
  simp [applyFlush]

@[simp] theorem flushSlot_bounds (pa : Nat) (s : State) : Claims.bounds (flushSlot pa s) ↔ Claims.bounds s := by
  unfold flushSlot
  split <;> simp -implicitDefEqProofs

@[simp] theorem flushDeltas_bounds (s : State) : Claims.bounds (flushDeltas s) ↔ Claims.bounds s := by
  simp [flushDeltas]

@[simp] theorem addDelta_bounds (pa : Nat) (counts : SMap Nat) (tser t : Nat) (s : State) :
    Claims.bounds (addDelta pa counts tser t s) ↔ Claims.bounds s := by
  unfold addDelta
  extract_lets u old st late new v
  have hu : Claims.bounds u ↔ Claims.bounds s := by
    unfold u
    split
    · rfl
    · split <;> simp
  simp [v, hu]

@[simp] theorem execDeltaFlush_bounds (c : CoreId) (slot : Nat) (s : State) (h : Claims.bounds s) :
    Ends Claims.bounds (execDeltaFlush c slot s) := by
  unfold execDeltaFlush
  dsimp only
  (repeat' split) <;> simp [h]

@[simp] theorem readPolicy_bounds (pa t : Nat) (s : State) : Claims.bounds (readPolicy pa t s).2 ↔ Claims.bounds s := by
  unfold readPolicy
  split <;> simp

@[simp] theorem policyServes_keeps (pa : Nat) (s : State) (h : Claims.bounds s) : Keeps id (policyServes pa s) := by
  unfold policyServes
  split <;> simp [h]

@[simp] theorem shiftBins_bounds (pa : Nat) (sh : Int) (s : State) : Claims.bounds (shiftBins pa sh s) ↔ Claims.bounds s := by
  simp [shiftBins]

@[simp] theorem publish_bounds (pa t : Nat) (d : Decision) (st : Nat) (s : State) :
    Claims.bounds (publish pa t d st s) ↔ Claims.bounds s := by
  simp [publish]

@[simp] theorem tmCtr_bounds (op : TmOp) (n fl t : Nat) (s : State) : Claims.bounds (tmCtr op n fl t s) ↔ Claims.bounds s := by
  unfold tmCtr
  split <;> simp

@[simp] theorem tmDone_bounds (op : TmOp) (t : Nat) (s : State) : Claims.bounds (tmDone op t s) ↔ Claims.bounds s := by
  simp [tmDone]

@[simp] theorem tmRefuse_bounds (op : TmOp) (fl t : Nat) (s : State) : Claims.bounds (tmRefuse op fl t s) ↔ Claims.bounds s := by
  simp [tmRefuse]

@[simp] theorem govLand_bounds (c : CoreId) (id : Nat) (v : Word) (s : State) (h : Claims.bounds s) :
    Claims.bounds (govLand c id v s) := by
  simp [govLand, h]

@[simp] theorem beginClose_bounds (op : TmOp) (t : Nat) (s : State) : Claims.bounds (beginClose op t s) ↔ Claims.bounds s := by
  simp [beginClose, freeDelay]

@[simp] theorem tmField_bounds (op : TmOp) (fld : Nat) (v : Word) (t : Nat) (s : State) :
    Claims.bounds (tmField op fld v t s) ↔ Claims.bounds s := by
  unfold tmField
  split <;> simp

/-- A read at the home moves a line of the L1 to the read-victim table (12 R273). -/
@[simp] theorem homeRead_keeps (line : Nat) (s : State) (h : Claims.bounds s) : Keeps id (homeRead line s) := by
  unfold homeRead
  extract_lets old u
  have hu : Claims.bounds u := by simp [u, h]
  clear_value u
  refine keeps_bind.2 fun c hc => keeps_bind.2 fun p hp => (keeps_ok ..).2 (regionLine_keeps line false _ ?_ p hp)
  have hk : Claims.coreBounds c := by
    clear_value old
    cases old with
    | none =>
      cases hc
      exact bounds_core hu
    | some l =>
      dsimp only at hc
      split at hc
      · split at hc
        · rename_i hv
          cases hc
          rw [rvtAdd_core hv]
          simp [hu]
        · cases hc
      · cases hc
        exact bounds_core hu
  simp [hk, hu]

@[simp] theorem govWakes_bounds (c : CoreId) (id : Nat) (pc : BPc) (pa : Nat) (s : State) (h : Claims.bounds s) :
    Claims.bounds (govWakes c id pc pa s) := by
  unfold govWakes
  extract_lets k t
  have ht : Claims.bounds t := focus_bounds c h
  clear_value t
  split
  · exact h
  · split
    · exact focus_bounds k (takeTrap_bounds _ (by simp [ht]))
    · split
      · rename_i u hr
        have hu : Claims.bounds u :=
          (keeps_bind_self (homeRead_keeps _ t ht)).2 (fun v hv _ => policyServes_keeps pa v hv) u hr
        simp [hu]
      · exact focus_bounds k (rollbackPinned_bounds ht)
      · exact focus_bounds k (by simp [ht])

@[simp] theorem applyTm_bounds (t : Nat) (op : TmOp) (s : State) (h : Claims.bounds s) : Claims.bounds (applyTm t op s) := by
  unfold applyTm
  (repeat' split) <;> simp [h]

@[simp] theorem execFlushRequest_bounds (c : CoreId) (rec : Nat) (s : State) (h : Claims.bounds s) :
    Ends Claims.bounds (execFlushRequest c rec s) := by
  simp [execFlushRequest, h]

@[simp] theorem drainTm_bounds (pa t : Nat) (s : State) (h : Claims.bounds s) : Claims.bounds (drainTm pa t s) := by
  unfold drainTm
  extract_lets step
  have hs (a : Nat × State) (o : TmOp) (ha : Claims.bounds a.2) : Claims.bounds (step a o).2 := by
    unfold step
    split <;> simp [ha]
  clear_value step
  suffices hf : ∀ (l : List TmOp) (a : Nat × State), Claims.bounds a.2 → Claims.bounds (l.foldl step a).2 from hf _ _ (by simp [h])
  intro l
  induction l with
  | nil => exact fun _ ha => ha
  | cons o l ih => exact fun a ha => ih _ (hs a o ha)

@[simp] theorem publishClose_bounds (x : Close) (s : State) (h : Claims.bounds s) : Claims.bounds (publishClose x s) := by
  simp [publishClose, h]

@[simp] theorem execClosePublication_bounds (rec : Nat) (s : State) (h : Claims.bounds s) :
    Ends Claims.bounds (execClosePublication rec s) := by
  unfold execClosePublication
  split
  · simp [h]
  · refine ends_next.2 ?_
    split
    · simp [h]
    · exact whenReady_bounds h (by simp) fun u hu => whenReady_bounds hu (by simp) (by simp +contextual)

@[simp] theorem tmChecks_keeps (f : YA) (s : State) (h : Claims.bounds s) : Keeps Prod.snd (tmChecks f s) := by
  simp +contextual [tmChecks, h]

@[simp] theorem tmHeld_keeps (k : TmKind) (f : YA) (s : State) (h : Claims.bounds s) : Keeps id (tmHeld k f s) := by
  simp +contextual [tmHeld, h]

@[simp] theorem tmsetOp_keeps (f : YA) (s : State) (h : Claims.bounds s) : Keeps id (tmsetOp f s) := by
  simp [tmsetOp, h]

@[simp] theorem tmgovOp_keeps (f : YA) (s : State) (h : Claims.bounds s) : Keeps id (tmgovOp f s) := by
  simp +contextual [tmgovOp, h]

/-! ### Commit -/

/-- A failed validation counts to three (01 R28, 12 R278). -/
@[simp] theorem failRegion_bounds (lines : List Nat) (s : State) (h : Claims.bounds s) : Claims.bounds (failRegion lines s) := by
  unfold failRegion
  extract_lets t n u v w
  have hv : Claims.bounds v := by simp [v, u, h]
  have hw : Claims.bounds w := mapSt_keeps hv (by simp [hv, n])
  clear_value w
  split <;> simp [hw]

/-- The shadow set takes the loop stack (01 R22). -/
@[simp] theorem captureCkpt_bounds (s : State) (h : Claims.bounds s) : Claims.bounds (captureCkpt s) := by
  unfold captureCkpt
  exact mapCore_keeps (mapSt_keeps h (by simp [h])) (by simp [clearEngines, h])

@[simp] theorem closeRegion_bounds (s : State) (h : Claims.bounds s) : Claims.bounds (closeRegion s) := by
  unfold closeRegion
  extract_lets u v
  have hu : Claims.bounds u := by simp [u, h]
  have hv : Claims.bounds v := mapCore_keeps hu (by simp [hu])
  clear_value v
  exact captureCkpt_bounds _ (mapSt_keeps hv (by simp [hv]))

@[simp] theorem atomicLands_bounds (id : Nat) (r : BitVec 5) (v : Word) (f : Flags) (s : State) :
    Claims.bounds (atomicLands id r v f s) ↔ Claims.bounds s := by
  simp [atomicLands, apply_ite Arch.loops]

@[simp] theorem applyPiece_bounds (t : Nat) (s : State) (p : Held) (h : Claims.bounds s) : Claims.bounds (applyPiece t s p) := by
  unfold applyPiece
  split
  · dsimp only
    split <;> simp [h]
  all_goals simp [h]

@[simp] theorem healLines_bounds (c : Core) (home t : Nat) (s : State) : Claims.bounds (healLines c home t s) ↔ Claims.bounds s := by
  simp [healLines]

@[simp] theorem launchPiece_bounds (t : Nat) (s : State) (h : Held) : Claims.bounds (launchPiece t s h) ↔ Claims.bounds s := by
  cases h <;> simp [launchPiece]

@[simp] theorem refreshL1_bounds (ls : List Nat) (s : State) : Claims.bounds (refreshL1 ls s) ↔ Claims.bounds s := by
  simp [refreshL1]

@[simp] theorem finishCommit_bounds (t : Nat) (s : State) (h : Claims.bounds s) : Claims.bounds (finishCommit t s) := by
  simp [finishCommit, h]

@[simp] theorem commitNext_bounds (m : Commit) (s : State) (h : Claims.bounds s) : Claims.bounds (commitNext m s) := by
  unfold commitNext
  dsimp only
  split <;> simp [h]

@[simp] theorem beginCommit_bounds (s : State) (h : Claims.bounds s) : Claims.bounds (beginCommit s) := by
  simp [beginCommit, h]

@[simp] theorem reserveHome_bounds (home : Nat) (m : Commit) (s : State) (h : Claims.bounds s) :
    Claims.bounds (reserveHome home m s) := by
  unfold reserveHome
  extract_lets c ls rs evt gs r u
  have hu : Claims.bounds u := (bounds_foldl_iff (by simp)).2 h
  clear_value u
  split
  · simp [h]
  · split
    · simp [h]
    · split
      · simp [h]
      · split
        · refine (again_bounds ..).2 (bounds_foldl h fun v e hv => ?_)
          split <;> simp [hv]
        · simp [hu]

@[simp] theorem lockStep_bounds (home : Nat) (s : State) (h : Claims.bounds s) : Claims.bounds (lockStep home s) := by
  simp [lockStep, h]

@[simp] theorem atCore_bounds {c : CoreId} {f : State → State} {s : State} (h : Claims.bounds s) (hf : ∀ s, Claims.bounds s → Claims.bounds (f s)) :
    Claims.bounds (atCore c f s) := by
  exact focus_bounds _ (hf _ (focus_bounds c h))

@[simp] theorem execReserve_bounds (c : CoreId) (home : Nat) (s : State) (h : Claims.bounds s) :
    Ends Claims.bounds (execReserve c home s) := by
  refine ends_next.2 (atCore_bounds h fun u hu => ?_)
  (repeat' split) <;> simp [hu]

@[simp] theorem renewLine_bounds (line : Nat) (m : Commit) (s : State) (h : Claims.bounds s) : Claims.bounds (renewLine line m s) := by
  simp [renewLine, h]

@[simp] theorem execRenew_bounds (c : CoreId) (line : Nat) (s : State) (h : Claims.bounds s) : Ends Claims.bounds (execRenew c line s) := by
  refine ends_next.2 (atCore_bounds h fun u hu => ?_)
  (repeat' split) <;> simp [hu]

@[simp] theorem applyHome_bounds (home : Nat) (m : Commit) (s : State) (h : Claims.bounds s) : Claims.bounds (applyHome home m s) := by
  exact commitNext_bounds _ _ (bounds_foldl (by simp [h]) (by simp +contextual))

@[simp] theorem execApply_bounds (c : CoreId) (home : Nat) (s : State) (h : Claims.bounds s) : Ends Claims.bounds (execApply c home s) := by
  refine ends_next.2 (atCore_bounds h fun u hu => ?_)
  (repeat' split) <;> simp [hu]

@[simp] theorem finishApplies_bounds : ∀ (n : Nat) (s : State), Claims.bounds s → Claims.bounds (finishApplies n s)
  | 0, _, h => h
  | n + 1, s, h => by
    unfold finishApplies
    (repeat' split) <;> simp [h, finishApplies_bounds n]

@[simp] theorem holdBack_bounds (s : State) : Claims.bounds (holdBack s) ↔ Claims.bounds s := by
  simp [holdBack]

@[simp] theorem execCheckpoint_bounds (s : State) (h : Claims.bounds s) : Ends Claims.bounds (execCheckpoint s) := by
  simp [execCheckpoint, h]

@[simp] theorem execOrderedBundle_bounds (s : State) (h : Claims.bounds s) : Ends Claims.bounds (execOrderedBundle s) := by
  simp [execOrderedBundle, h]

@[simp] theorem execBreakpoint_bounds (s : State) (h : Claims.bounds s) : Ends Claims.bounds (execBreakpoint s) := by
  simp [execBreakpoint, h]

@[simp] theorem grantLine_bounds (line : Nat) (s : State) (h : Claims.bounds s) : Claims.bounds (grantLine line s) := by
  unfold grantLine
  split
  · simp [h]
  · exact h
  · split
    · simp [h]
    · dsimp only
      generalize hg : grantLease _ _ _ _ = g
      have hu : Claims.bounds g.2 := by rw [← hg]; simp [h]
      split
      · simp [hu]
      · split
        · exact hu
        · split
          · rename_i hl
            rw [l1Insert_core hl]
            simp [hu]
          · exact hu

@[simp] theorem execGrant_bounds (c : CoreId) (line : Nat) (s : State) (h : Claims.bounds s) : Ends Claims.bounds (execGrant c line s) := by
  simp +contextual [execGrant, h]

@[simp] theorem execPinTokenGrant_bounds (s : State) (h : Claims.bounds s) : Ends Claims.bounds (execPinTokenGrant s) := by
  unfold execPinTokenGrant
  split <;> simp [h]

@[simp] theorem execStampRaise_bounds (home : Nat) (s : State) (h : Claims.bounds s) : Ends Claims.bounds (execStampRaise home s) := by
  simp [execStampRaise, h]

/-! ### Control -/

@[simp] theorem takeJump_bounds (t : BPc) (s : State) : Claims.bounds (takeJump t s) ↔ Claims.bounds s := by
  simp [takeJump]

@[simp] theorem branchIf_keeps (zero : Bool) (f : SB) (s : State) (h : Claims.bounds s) : Keeps id (branchIf zero f s) := by
  simp [branchIf, h]

@[simp] theorem callOp_bounds (f : SB) (s : State) : Claims.bounds (callOp f s) ↔ Claims.bounds s := by
  simp [callOp]

@[simp] theorem jrOp_keeps (f : SX) (s : State) (h : Claims.bounds s) : Keeps id (jrOp f s) := by
  simp [jrOp, h]

/-- The loop stack takes no seventh entry (01 R17). -/
@[simp] theorem pushLoop_keeps (count : Nat) (last : BitVec 20) (s : State) (h : Claims.bounds s) :
    Keeps id (pushLoop count last s) := by
  unfold pushLoop
  extract_lets pc stop
  split
  · simp [h]
  · refine keeps_bind.2 fun _ hl => (keeps_ok ..).2 (mapArch_keeps h ?_)
    rw [need_eq_ok, decide_eq_true_eq] at hl
    simpa using hl

@[simp] theorem loopOp_keeps (f : SP) (s : State) (h : Claims.bounds s) : Keeps id (loopOp f s) := by
  simp [loopOp, h]

@[simp] theorem lbrkOp_keeps (s : State) (h : Claims.bounds s) : Keeps id (lbrkOp s) := by
  unfold lbrkOp
  split
  · simp
  · rename_i hl
    have := bounds_loops h
    rw [hl, List.length_cons] at this
    exact (keeps_ok ..).2 (mapCtx_bounds.2 (mapArch_keeps h (Nat.le_of_succ_le this)))

@[simp] theorem lidxOp_keeps (f : SX) (s : State) (h : Claims.bounds s) : Keeps id (lidxOp f s) := by
  unfold lidxOp
  split <;> simp [h]

@[simp] theorem eretOp_keeps (s : State) (h : Claims.bounds s) : Keeps id (eretOp s) := by
  simp [eretOp, h]

/-! ### System -/

@[simp] theorem spldOp_bounds (f : SX) (s : State) : Claims.bounds (spldOp f s) ↔ Claims.bounds s := by
  simp [spldOp]

@[simp] theorem spstOp_keeps (f : SX) (s : State) (h : Claims.bounds s) : Keeps id (spstOp f s) := by
  simp [spstOp, h]

@[simp] theorem sysrdOp_bounds (f : SX) (s : State) : Claims.bounds (sysrdOp f s) ↔ Claims.bounds s := by
  simp [sysrdOp]

@[simp] theorem syswrOp_keeps (f : SX) (s : State) (h : Claims.bounds s) : Keeps id (syswrOp f s) := by
  simp [syswrOp, h]

@[simp] theorem capqOp_bounds (f : SX) (s : State) : Claims.bounds (capqOp f s) ↔ Claims.bounds s := by
  simp [capqOp]

/-! ### Tasks -/

@[simp] theorem engTake_bounds (parts : List (Nat × Nat)) (t : Nat) (s : State) : Claims.bounds (engTake parts t s).2 ↔ Claims.bounds s := by
  simp [engTake]

@[simp] theorem setRegion_bounds (r : Region) (s : State) : Claims.bounds (setRegion r s) ↔ Claims.bounds s := by
  simp [setRegion]

/-- A task that replaces another brings its gangs' parked images. -/
theorem setTask_bounds {t : Task} {s : State} (h : Claims.bounds s) (ht : GangsBounds t.gangs) : Claims.bounds (setTask t s) := by
  refine bounds_iff.2 ⟨bounds_core (s := s) h, bounds_others (s := s) h, tasksBounds_map (bounds_tasks h) fun x hx => ?_⟩
  split <;> assumption

/-- A gang that replaces another brings its parked images. -/
theorem setGang_bounds {tser : Nat} {g : Gang} {s : State} (h : Claims.bounds s) (hg : ImagesBounds g.images) :
    Claims.bounds (setGang tser g s) := by
  refine bounds_iff.2 ⟨bounds_core (s := s) h, bounds_others (s := s) h, tasksBounds_map (bounds_tasks h) fun x hx => ?_⟩
  split
  · refine gangsBounds_map hx fun y hy => ?_
    split <;> assumption
  · exact hx

theorem taskOf_bounds {s : State} {tser : Nat} {t : Task} (h : Claims.bounds s) (ht : taskOf s tser = some t) : GangsBounds t.gangs :=
  bounds_tasks h t (List.mem_of_find?_eq_some ht)

theorem gangOf_bounds {s : State} {tser gix : Nat} {g : Gang} (h : Claims.bounds s) (hg : gangOf s tser gix = some g) :
    ImagesBounds g.images := by
  obtain ⟨t, ht, hg⟩ := Option.bind_eq_some_iff.1 hg
  exact taskOf_bounds h ht g (List.mem_of_find?_eq_some hg)

theorem gangOf_images_bounds {s : State} (tser gix : Nat) (h : Claims.bounds s) :
    ImagesBounds ((gangOf s tser gix).elim [] (·.images)) := by
  cases hg : gangOf s tser gix with
  | none => exact imagesBounds_nil
  | some g => exact gangOf_bounds h hg

@[simp] theorem dropRecords_bounds (tser : Nat) (s : State) (h : Claims.bounds s) : Claims.bounds (dropRecords tser s) := by
  unfold dropRecords
  split
  next t ht =>
    split
    · exact setTask_bounds h (gangsBounds_map (taskOf_bounds h ht) fun _ hg => hg)
    · exact h
  next => exact h

/-- A fold over images or gangs, each within its bounds. -/
theorem bounds_foldl_mem {β : Type} {p : β → Prop} {f : State → β → State} {l : List β} {s : State} (h : Claims.bounds s)
    (hl : ∀ b ∈ l, p b) (hf : ∀ s b, Claims.bounds s → p b → Claims.bounds (f s b)) : Claims.bounds (l.foldl f s) := by
  induction l generalizing s with
  | nil => exact h
  | cons b t ih =>
    obtain ⟨hb, ht⟩ := List.forall_mem_cons.1 hl
    exact ih (hf s b h hb) ht

/-! ### Placement -/

@[simp] theorem takeSlots_bounds (tser gix lin : Nat) (cs : List CoreId) (s : State) (h : Claims.bounds s) :
    Claims.bounds (takeSlots tser gix lin cs s) := by
  refine bounds_foldl h fun u e hu => onCore_bounds _ hu fun k => ?_
  dsimp only
  split <;> simp

@[simp] theorem freeImage_bounds (tser gix lin : Nat) (cs : List CoreId) (s : State) (h : Claims.bounds s) :
    Claims.bounds (freeImage tser gix lin cs s) :=
  bounds_foldl h fun _ _ hu => onCore_bounds _ hu (by simp)

@[simp] theorem combPlace_bounds (n size : Nat) (s : State) : Claims.bounds (combPlace n size s).2 ↔ Claims.bounds s := by
  simp [combPlace]

@[simp] theorem putImage_bounds (i : Image) (s : State) : Claims.bounds (putImage i s).2 ↔ Claims.bounds s := by
  simp [putImage]

/-- An image that leaves for memory keeps its strand but for the spill slots. -/
@[simp] theorem putImage_strandBounds (i : Image) (s : State) :
    Claims.strandBounds (putImage i s).1.st ↔ Claims.strandBounds i.st := Iff.rfl

/-- An image that comes back from memory keeps its strand but for the spill slots. -/
@[simp] theorem getImage_strandBounds (i : Image) (s : State) :
    Claims.strandBounds (getImage i s).st ↔ Claims.strandBounds i.st := by
  unfold getImage
  split <;> rfl

theorem imagesBounds_append {is js : List Image} : ImagesBounds (is ++ js) ↔ ImagesBounds is ∧ ImagesBounds js :=
  List.forall_mem_append

theorem imagesBounds_set {is : List Image} {k : Nat} {j : Image} (h : ImagesBounds is) (hj : Claims.strandBounds j.st) :
    ImagesBounds (is.set k j) := fun i hi => by
  obtain hi | rfl := List.mem_or_eq_of_mem_set hi
  · exact h i hi
  · exact hj

/-! ### Gangs -/

@[simp] theorem askRound_bounds (at_ : Nat) (s : State) : Claims.bounds (askRound at_ s) ↔ Claims.bounds s := by
  unfold askRound
  split <;> simp

@[simp] theorem abortUnlaunched_bounds (s : State) : Claims.bounds (abortUnlaunched s) ↔ Claims.bounds s := by
  simp [abortUnlaunched]

@[simp] theorem setLstate_bounds (n : Nat) (s : State) : Claims.bounds (setLstate n s) ↔ Claims.bounds s := by
  simp [setLstate]

@[simp] theorem dropMcs_bounds (c : CoreId) (s : State) : Claims.bounds (dropMcs c s) ↔ Claims.bounds s := by
  simp [dropMcs]

@[simp] theorem moveImage_bounds (x : Slot) (k : Nat) (s : State) (h : Claims.bounds s) : Claims.bounds (moveImage x k s) := by
  unfold moveImage
  split
  next t g _ hg =>
    have hi := gangOf_bounds h hg
    split
    next => exact h
    next i hk =>
      split
      · exact h
      · have hj := hi i (List.mem_of_getElem? hk)
        exact setGang_bounds (freeImage_bounds _ _ _ _ _ (by simp [h])) (imagesBounds_set hi hj)
  next => exact h

@[simp] theorem moveImages_bounds (s : State) (x : Slot) (h : Claims.bounds s) : Claims.bounds (moveImages s x) :=
  bounds_foldl h fun u k hu => moveImage_bounds x k u hu

@[simp] theorem reclaimSlots_bounds (c : CoreId) (lent : Nat) (s : State) (h : Claims.bounds s) :
    Claims.bounds (reclaimSlots c lent s) :=
  bounds_foldl h moveImages_bounds

theorem bareCore_bounds (k : Core) : Claims.coreBounds (bareCore k) := coreInit_bounds k.id

/-- A split is a 2-bit field of the code header (10 R246). -/
theorem split_le (t : Task) : t.split ≤ 3 := by
  have h : t.split < 2 ^ (203 + 1 - 202) := Nat.mod_lt _ (by decide)
  omega

theorem configCore_bounds (t : Task) (park : Nat) (cores : List CoreId) (k : Core) : Claims.coreBounds (configCore t park cores k) :=
  ⟨(bareCore_bounds k).1, (bareCore_bounds k).2.1, split_le t⟩

@[simp] theorem configGang_bounds (t : Task) (park : Nat) (sp : Spot) (s : State) (h : Claims.bounds s) :
    Claims.bounds (configGang t park sp s) :=
  bounds_foldl h fun u c hu =>
    (dropMcs_bounds c _).2 (onCore_keeps c (reclaimSlots_bounds c _ u hu) fun k _ => configCore_bounds t park sp.cores k)

@[simp] theorem onSegs_bounds (s : State) (t : Task) (f : Seg → Seg) : Claims.bounds (onSegs s t f) ↔ Claims.bounds s := by
  simp [onSegs]

@[simp] theorem armSegs_bounds (t : Task) (cores : List CoreId) (s : State) : Claims.bounds (armSegs t cores s) ↔ Claims.bounds s := by
  simp [armSegs]

@[simp] theorem disarmSegs_bounds (t : Task) (s : State) : Claims.bounds (disarmSegs t s) ↔ Claims.bounds s := by
  simp [disarmSegs]

@[simp] theorem startQuantum_bounds (tser gix quant : Nat) (s : State) : Claims.bounds (startQuantum tser gix quant s) ↔ Claims.bounds s := by
  unfold startQuantum
  split <;> simp

theorem startPts_bounds (now : Nat) (k : Core) : Claims.coreBounds (startPts now k) ↔ Claims.coreBounds k := Iff.rfl

/-- A strand starts with empty loop stacks and no failed validation (01 R19). -/
theorem startStrand_bounds (t : Task) (gix lin : Nat) : Claims.strandBounds (startStrand t gix lin) := by
  simp [startStrand, Strand.init, Arch.init]

@[simp] theorem startGang_bounds (t : Task) (g : Gang) (sp : Spot) (s : State) (h : Claims.bounds s) (hg : ImagesBounds g.images) :
    Claims.bounds (startGang t g sp s) := by
  have hc (park : Nat) : Claims.bounds (((List.range sp.cores.length).zip sp.cores).foldl (fun s e =>
      onCore e.2 (fun k => startPts s.now { k with st := startStrand t g.gix e.1 }) s) (configGang t park sp s)) :=
    bounds_foldl (configGang_bounds t park sp s h) fun u e hu =>
      onCore_keeps e.2 hu fun _ hk => ⟨startStrand_bounds t g.gix e.1, hk.2⟩
  unfold startGang
  extract_lets r u v w x
  have hw : Claims.bounds w := setGang_bounds (hc _) hg
  have hx : Claims.bounds x := by
    unfold x
    split <;> simp [hw]
  simpa using hx

theorem withhold_bounds (k : Core) (h : Claims.coreBounds k) : Claims.coreBounds (withhold k) := by
  unfold withhold
  split <;> exact h

@[simp] theorem beginEvict_bounds (tser gix : Nat) (s : State) (h : Claims.bounds s) : Claims.bounds (beginEvict tser gix s) := by
  unfold beginEvict
  split
  next => exact h
  next t ht =>
    extract_lets gs
    refine (askRound_bounds _ _).2 ?_
    have hgs : GangsBounds gs := fun g hg => taskOf_bounds h ht g (List.mem_of_mem_filter hg)
    clear_value gs
    exact bounds_foldl_mem h hgs fun u g hu hg =>
      setGang_bounds (bounds_foldl hu fun v c hv => onCore_keeps c hv withhold_bounds) hg

@[simp] theorem quit_bounds (s : State) (h : Claims.bounds s) : Claims.bounds (quit s) := by
  unfold quit
  extract_lets u v
  have hu : Claims.bounds u := finishApplies_bounds 128 s h
  clear_value u
  have hv : Claims.bounds v := by
    unfold v
    split
    · exact hu
    · exact rollback_bounds (fun _ => (finishSaves_bounds _).2) _ hu
  clear_value v
  simp [hv]

/-- Parking counts no failed validation: the image's RETRY is 0 (16 R360). -/
theorem parkStrand_bounds {t : Task} {g : Gang} {lin : Nat} {c : CoreId} {s u : State} {i : Image} (h : Claims.bounds s)
    (e : parkStrand t g lin c s = (u, i)) : Claims.bounds u ∧ Claims.strandBounds i.st := by
  unfold parkStrand at e
  extract_lets k0 v k size slots x y j at e
  have hv : Claims.bounds v := focus_bounds k0 (quit_bounds _ (focus_bounds c h))
  have hk : Claims.coreBounds k := coreOf_bounds c hv
  have hj : Claims.strandBounds j.st := ⟨hk.1.1, hk.1.2.1, Nat.zero_le 3⟩
  clear_value v j slots
  cases slots with
  | some cs =>
    obtain ⟨rfl, rfl⟩ := Prod.mk.inj e
    exact ⟨takeSlots_bounds _ _ _ _ v hv, hj⟩
  | none =>
    obtain ⟨rfl, rfl⟩ := Prod.mk.inj e
    exact ⟨by simpa using hv, hj⟩

@[simp] theorem clearCores_bounds (cores : List CoreId) (s : State) (h : Claims.bounds s) : Claims.bounds (clearCores cores s) :=
  bounds_foldl h fun _ c hu => onCore_keeps c hu fun k _ => bareCore_bounds k

@[simp] theorem freeImages_bounds (tser : Nat) (g : Gang) (s : State) (h : Claims.bounds s) : Claims.bounds (freeImages tser g s) :=
  bounds_foldl (setGang_bounds h imagesBounds_nil) fun u _ hu => freeImage_bounds _ _ _ _ u hu

theorem parkOne_bounds (t : Task) (g : Gang) (lin : Nat) (c : CoreId) (imgs : List Image) (s : State) (h : Claims.bounds s)
    (hi : ImagesBounds imgs) : Claims.bounds (parkOne t g lin c imgs s) := by
  unfold parkOne
  extract_lets stay k0 u pts
  split
  · refine setGang_bounds (focus_bounds k0 (quit_bounds _ (focus_bounds c h))) (imagesBounds_map hi fun i hs => ?_)
    split <;> exact hs
  · obtain ⟨hu, hs⟩ := parkStrand_bounds (t := t) (g := g) (lin := lin) (c := c) h rfl
    refine setGang_bounds hu (imagesBounds_append.2 ⟨imagesBounds_map hi fun j hj => ?_, ?_⟩)
    · split <;> exact hj
    · simpa [ImagesBounds] using hs

@[simp] theorem evictGang_bounds (t : Task) (g : Gang) (s : State) (h : Claims.bounds s) : Claims.bounds (evictGang t g s) := by
  unfold evictGang
  extract_lets failed u imgs halted v mig
  have hu : Claims.bounds u := bounds_foldl h fun u e hu =>
    parkOne_bounds t g e.1 e.2 _ u hu (gangOf_images_bounds t.tser g.gix hu)
  have hv : Claims.bounds v := (onSegs_bounds u t _).2 hu
  exact setGang_bounds (clearCores_bounds g.cores v hv) (gangOf_images_bounds t.tser g.gix hu)

@[simp] theorem taskFault_bounds (tser rnum code : Nat) (info : Word) (s : State) : Claims.bounds (taskFault tser rnum code info s) ↔ Claims.bounds s := by
  simp [taskFault]

@[simp] theorem schedFault_bounds (tser rnum code : Nat) (s : State) : Claims.bounds (schedFault tser rnum code s) ↔ Claims.bounds s := by
  simp [schedFault]

theorem imageCore_bounds {i : Image} {k : Core} (hi : Claims.strandBounds i.st) (hk : Claims.coreBounds k) :
    Claims.coreBounds (imageCore i k) := ⟨hi, hk.2⟩

theorem resumeImage_bounds (tser : Nat) (cores : List CoreId) (s : State) (i : Image) (h : Claims.bounds s)
    (hi : Claims.strandBounds i.st) : Claims.bounds (resumeImage tser cores s i) := by
  unfold resumeImage
  extract_lets c u j
  have hu : Claims.bounds u := (touchAll_bounds _ s).2 h
  have hj : Claims.strandBounds j.st := (getImage_strandBounds i u).2 hi
  split
  · exact (taskFault_bounds _ _ _ _ _).2 (onCore_keeps c hu fun k hk => ⟨hi, hk.2⟩)
  · exact onCore_keeps c hu fun k hk => (startPts_bounds _ _).2 (imageCore_bounds hj hk)

theorem gangImages_bounds {s : State} {g : Gang} (tser : Nat) (h : Claims.bounds s) (hg : ImagesBounds g.images) :
    ImagesBounds (gangImages s tser g).images := by
  have hi : ImagesBounds ((gangOf s tser g.gix).getD g).images := by
    cases hc : gangOf s tser g.gix with
    | none => exact hg
    | some g' => exact gangOf_bounds h hc
  refine imagesBounds_map hi fun i hs => ?_
  split <;> exact hs

theorem resumeGang_bounds (t : Task) (g : Gang) (sp : Spot) (s : State) (h : Claims.bounds s) (hg : ImagesBounds g.images) :
    Claims.bounds (resumeGang t g sp s) := by
  unfold resumeGang
  extract_lets r u g' now_ v w mig lost runs x y
  have hu : Claims.bounds u := configGang_bounds t _ sp s h
  have hg' : ImagesBounds g'.images := gangImages_bounds t.tser hu hg
  have hv : Claims.bounds v := bounds_foldl_mem hu (fun i hi => hg' i (List.mem_of_mem_filter hi)) fun a i ha hi =>
    resumeImage_bounds t.tser sp.cores a i ha hi
  have hw : Claims.bounds w := (onSegs_bounds v t _).2 hv
  have hx : Claims.bounds x := setGang_bounds hw hg'
  have hy : Claims.bounds y := by
    unfold y
    split
    · split
      · exact freeImages_bounds t.tser _ x hx
      · exact hx
    · exact hx
  exact (startQuantum_bounds _ _ _ y).2 hy

@[simp] theorem firstBundle_bounds (s : State) (h : Claims.bounds s) : Claims.bounds (firstBundle s) := by
  unfold firstBundle
  split
  next g hg =>
    split
    · exact h
    · extract_lets first g' u
      have hu : Claims.bounds u := setGang_bounds (mapCore_keeps h ((startPts_bounds _ _).2 (bounds_core h))) (gangOf_bounds (g := g) h hg)
      clear_value u
      split
      · exact freeImages_bounds _ _ u hu
      · exact hu
  next => exact h

@[simp] theorem strandEnds_bounds (s : State) (h : Claims.bounds s) : Claims.bounds (strandEnds s) := by
  unfold strandEnds
  extract_lets u v
  have hv : Claims.bounds v := by simpa [v, u] using h
  clear_value v
  split
  next t g ht hg =>
    extract_lets w x
    have hw : Claims.bounds w := setTask_bounds hv (taskOf_bounds (t := t) hv ht)
    have hx : Claims.bounds x := setGang_bounds hw (gangOf_bounds (g := g) hv hg)
    clear_value x w
    (repeat' split) <;> simp [hw, hx]
  next => exact hv

@[simp] theorem killTask_bounds (tser : Nat) (s : State) (h : Claims.bounds s) : Claims.bounds (killTask tser s) := by
  unfold killTask
  split
  next => exact h
  next t ht =>
    split
    · exact h
    · extract_lets cs k0 u v pts w x gs
      have hu : Claims.bounds u := bounds_foldl h fun u c hu => by simpa using quit_bounds _ (focus_bounds c hu)
      have hw : Claims.bounds w := bounds_foldl (focus_bounds k0 hu) fun u g hu => freeImages_bounds tser g u hu
      have hx : Claims.bounds x := bounds_iff.2 (bounds_iff.1 hw)
      have hgs : GangsBounds gs := gangsBounds_map (taskOf_bounds h ht) fun _ _ => imagesBounds_nil
      exact (due_bounds _ _ _).2 ((disarmSegs_bounds _ _).2 (setTask_bounds hx hgs))

@[simp] theorem releaseGangs_bounds (t : Task) (s : State) (h : Claims.bounds s) (ht : GangsBounds t.gangs) :
    Claims.bounds (releaseGangs t s) :=
  bounds_foldl_mem h (fun g hg => ht g (List.mem_of_mem_filter hg)) fun u g hu hg =>
    setGang_bounds (clearCores_bounds g.cores u hu) hg

/-! ### Tables -/

@[simp] theorem engTry_bounds {α : Type} {retry : State → State} {bad : MemErr → State → State} {r : Except MemErr α}
    {k : α → State → State} {s : State} (h : Claims.bounds s) (hr : ∀ s, Claims.bounds s → Claims.bounds (retry s))
    (hb : ∀ e s, Claims.bounds s → Claims.bounds (bad e s)) (hk : ∀ a s, Claims.bounds s → Claims.bounds (k a s)) :
    Claims.bounds (engTry retry bad r k s) := by
  unfold engTry
  split
  · exact hk _ s h
  · exact hr _ (by simpa using h)
  · exact hr s h
  · exact hb _ s h

@[simp] theorem putVia_bounds {xl : Nat → Except MemErr Nat} {retry : State → State} {bad : MemErr → State → State} {t : Nat}
    {parts : List (Nat × List Byte)} {k : Nat → State → State} {s : State} (h : Claims.bounds s) (hr : ∀ s, Claims.bounds s → Claims.bounds (retry s))
    (hb : ∀ e s, Claims.bounds s → Claims.bounds (bad e s)) (hk : ∀ t s, Claims.bounds s → Claims.bounds (k t s)) :
    Claims.bounds (putVia xl retry bad t parts k s) := by
  unfold putVia
  dsimp only
  split
  · exact hb _ s h
  · split
    · exact hb _ s h
    · split
      · refine hr _ (bounds_foldl h fun s e hs => ?_)
        split <;> simp [hs]
      · exact hk _ _ (by simp +contextual [h])

@[simp] theorem engPut_bounds {retry : State → State} {bad : MemErr → State → State} {acc : Acc} {t : Nat} {parts : List (Nat × List Byte)}
    {k : Nat → State → State} {s : State} (h : Claims.bounds s) (hr : ∀ s, Claims.bounds s → Claims.bounds (retry s))
    (hb : ∀ e s, Claims.bounds s → Claims.bounds (bad e s)) (hk : ∀ t s, Claims.bounds s → Claims.bounds (k t s)) :
    Claims.bounds (engPut retry bad acc t parts k s) :=
  putVia_bounds h hr hb hk

@[simp] theorem setTable_bounds (x : Table) (s : State) : Claims.bounds (setTable x s) ↔ Claims.bounds s := by
  simp [setTable]

@[simp] theorem setRes_bounds (tab e r v : Nat) (s : State) : Claims.bounds (setRes tab e r v s) ↔ Claims.bounds s := by
  simp [setRes]

@[simp] theorem armMerge_bounds (tab : Nat) (s : State) : Claims.bounds (armMerge tab s) ↔ Claims.bounds s := by
  unfold armMerge
  split
  · split
    · split
      · rfl
      · rw [← Prod.eta (registerWaiter _ _)]
        simp
    · rfl
  · rfl

@[simp] theorem registerTable_keeps (tab : Nat) (s : State) (h : Claims.bounds s) : Keeps id (registerTable tab s) := by
  unfold registerTable
  dsimp only
  (repeat' split) <;> simp [h]

@[simp] theorem publishTable_bounds {evt : Instr} {tab e : Nat} {amask ent : Nat → Nat} {slots : List (Nat × (Nat → Nat → Nat))}
    {k : State → State} {s : State} (h : Claims.bounds s) (hk : ∀ s, Claims.bounds s → Claims.bounds (k s)) :
    Claims.bounds (publishTable evt tab e amask ent slots k s) := by
  unfold publishTable
  extract_lets parts wait
  clear_value parts
  exact engTry_bounds h (by simp) (by simp [wait]) fun ps u hu =>
    engPut_bounds hu (by simp) (by simp [wait]) fun t u hu => hk _ (by simpa using hu)

@[simp] theorem lossesOf_bounds (va : Nat) (s : State) : Claims.bounds (lossesOf va s) ↔ Claims.bounds s :=
  bounds_foldl_iff (by simp)

/-! ### Scheduler -/

@[simp] theorem dropRegs_bounds (s : State) : Claims.bounds (dropRegs s) ↔ Claims.bounds s := by
  simp [dropRegs]

@[simp] theorem jobFault_bounds (s : State) (h : Claims.bounds s) : Claims.bounds (jobFault s) := by
  unfold jobFault
  split
  · exact h
  · exact (dropRegs_bounds _).2 (bounds_foldl ((setLstate_bounds _ s).2 h) fun u k hu => killTask_bounds k u hu)

@[simp] theorem checkJobEnd_bounds (s : State) : Claims.bounds (checkJobEnd s) ↔ Claims.bounds s := by
  unfold checkJobEnd
  split <;> simp

@[simp] theorem readyTask_bounds (tser : Nat) (s : State) (h : Claims.bounds s) : Claims.bounds (readyTask tser s) := by
  unfold readyTask
  split
  next t ht =>
    split
    · exact (askRound_bounds _ _).2 (setTask_bounds h (taskOf_bounds (t := t) h ht))
    · exact h
  next => exact h

@[simp] theorem depMet_bounds (tser k at_ : Nat) (s : State) (h : Claims.bounds s) : Claims.bounds (depMet tser k at_ s) := by
  unfold depMet
  split
  next t ht => exact readyTask_bounds tser _ (setTask_bounds h (taskOf_bounds (t := t) h ht))
  next => exact h

@[simp] theorem registerDep_bounds (tser : Nat) (dwf : Bool) (e : Nat × Nat × Nat) (s : State) (h : Claims.bounds s) :
    Claims.bounds (registerDep tser dwf e s) := by
  unfold registerDep
  rw [← Prod.eta (registerWaiter _ _)]
  have hr : Claims.bounds (registerWaiter ⟨e.2.1, e.2.2, dwf, .dep tser e.1⟩ s).2 := (registerWaiter_bounds _ s).2 h
  split
  · exact (schedFault_bounds ..).2 h
  dsimp only
  (repeat' split) <;> simp [hr]

/-- A task that enters has no parked image (16 R354). -/
theorem mkTask_bounds {tser rnum va pa desc code t : Nat} {pred done : Option Nat} {unmet : List Nat} :
    GangsBounds (mkTask tser rnum va pa desc code t pred done unmet).gangs :=
  List.forall_mem_map.2 fun _ _ => imagesBounds_nil

/-- A task list that grows by one task. -/
theorem addTask_bounds {s : State} {x : Task} {n : Nat} (h : Claims.bounds s) (hx : GangsBounds x.gangs) :
    Claims.bounds { s with sched := { s.sched with tasks := s.sched.tasks ++ [x], nextTser := n } } :=
  bounds_iff.2 ⟨bounds_core (s := s) h, bounds_others (s := s) h,
    tasksBounds_append.2 ⟨bounds_tasks h, tasksBounds_singleton.2 hx⟩⟩

@[simp] theorem enterTask_bounds (r : Region) (va t : Nat) (rd : Option (Nat × Nat) × Option Nat) (s : State) (h : Claims.bounds s) :
    Claims.bounds (enterTask r va t rd s) := by
  unfold enterTask
  extract_lets tser pred add
  have hadd {x : Task} (hx : GangsBounds x.gangs) : Claims.bounds (add x s) := addTask_bounds h hx
  clear_value add
  split
  · exact (schedFault_bounds ..).2 (hadd mkTask_bounds)
  · split
    · exact (schedFault_bounds ..).2 (hadd mkTask_bounds)
    · extract_lets ok y u
      have hy : GangsBounds y.gangs := mkTask_bounds
      have hu : Claims.bounds u := hadd hy
      clear_value u
      split
      · exact (schedFault_bounds ..).2 hu
      · exact readyTask_bounds _ _ (bounds_foldl hu fun v e hv => registerDep_bounds _ _ e v hv)

@[simp] theorem enterNext_bounds (r : Region) (va t : Nat) (rd : Option (Nat × Nat) × Option Nat) (s : State) (h : Claims.bounds s) :
    Claims.bounds (enterNext r va t rd s) := by
  unfold enterNext
  extract_lets ended tser sc u y x
  have hu : Claims.bounds u := h
  clear_value u
  split
  · exact addTask_bounds hu gangsBounds_nil
  · exact enterTask_bounds r va t rd u hu

@[simp] theorem fetchNext_bounds (r : Region) (s : State) (h : Claims.bounds s) : Claims.bounds (fetchNext r s) := by
  unfold fetchNext
  dsimp only
  (repeat' split) <;> simp [h]

@[simp] theorem execDescriptorFetch_bounds (rnum : Nat) (s : State) (h : Claims.bounds s) :
    Ends Claims.bounds (execDescriptorFetch rnum s) := by
  unfold execDescriptorFetch
  dsimp only
  (repeat' split) <;> simp [h]

@[simp] theorem execDependencyMet_bounds (tser k : Nat) (flags : BitVec 32) (s : State) (h : Claims.bounds s) :
    Ends Claims.bounds (execDependencyMet tser k flags s) := by
  unfold execDependencyMet
  split <;> simp [h]

@[simp] theorem execLaunch_bounds (root : Word) (s : State) (h : Claims.bounds s) : Ends Claims.bounds (execLaunch root s) := by
  simp [execLaunch, h]

@[simp] theorem installTree_bounds (sc : Sched) (s : State) (h : Claims.bounds s) (hs : TasksBounds sc.tasks) :
    Claims.bounds (installTree sc s) := by
  unfold installTree
  extract_lets u
  have hu : Claims.bounds u := bounds_iff.2 ⟨bounds_core (s := s) h, bounds_others (s := s) h, hs⟩
  clear_value u
  split
  · exact jobFault_bounds u hu
  · rw [← Prod.eta (registerWaiter _ _)]
    dsimp -zeta only
    extract_lets v w
    have hv : Claims.bounds (registerWaiter ⟨sc.jobctr, sc.jobthr, false, .job⟩ u).2 := (registerWaiter_bounds _ u).2 hu
    have hw : Claims.bounds w := by
      unfold w
      split
      · exact bounds_iff.2 (bounds_iff.1 hv)
      · exact hv
    clear_value w
    exact (checkJobEnd_bounds _).2 (bounds_foldl hw (by simp))

theorem bind_eq_ok {ε α β : Type} {x : Except ε α} {f : α → Except ε β} {b : β} :
    (x >>= f) = .ok b ↔ ∃ a, x = .ok a ∧ f a = .ok b := by
  cases x <;> simp [bind, Except.bind]

/-- A tree as it is read has no task yet (16 R352). -/
theorem checkTree_tasks {root : Nat} {s : State} {sc : Sched} (h : checkTree root s = .ok sc) : sc.tasks = [] := by
  simp only [checkTree, bind_eq_ok] at h
  obtain ⟨_, _, _, _, _, _, _, _, _, _, h⟩ := h
  cases h
  rfl

@[simp] theorem clearRecord_bounds (s : State) (r : Region) : Claims.bounds (clearRecord s r) ↔ Claims.bounds s := by
  simp [clearRecord]

@[simp] theorem treeReads_bounds (rs : List Region) (s : State) : Claims.bounds (treeReads rs s) ↔ Claims.bounds s := by
  simp [treeReads]

@[simp] theorem checkJob_bounds (s : State) (h : Claims.bounds s) : Claims.bounds (checkJob s) := by
  unfold checkJob
  split
  · simp [h]
  · split
    · simp [h]
    · simp [h]
    next sc hsc =>
      split
      · simp [h]
      · exact installTree_bounds _ _ (bounds_foldl (by simp [h]) (by simp +contextual)) (checkTree_tasks hsc ▸ tasksBounds_nil)

@[simp] theorem noPlace_bounds (tser : Nat) (s : State) : Claims.bounds (noPlace tser s) ↔ Claims.bounds s := by
  unfold noPlace
  split <;> simp

@[simp] theorem placeGang_bounds (tser gix : Nat) (s : State) (h : Claims.bounds s) : Claims.bounds (placeGang tser gix s) := by
  unfold placeGang
  split
  next t g _ hg =>
    have hi := gangOf_bounds h hg
    dsimp only
    have hn : Claims.bounds (if placeable s t g then s else noPlace tser s) := by split <;> simp [h]
    split
    · split
      · exact resumeGang_bounds t g _ s h hi
      · exact hn
    · split
      · exact h
      · split
        · exact startGang_bounds t g _ s h hi
        · exact hn
    · exact h
  next => exact h

@[simp] theorem roundGangs_bounds (s : State) (h : Claims.bounds s) : Claims.bounds (roundGangs s) :=
  bounds_foldl h fun u e hu => placeGang_bounds e.1 e.2 u hu

theorem failStart_bounds (t : Task) (code : Nat) (s : State) (h : Claims.bounds s) (ht : GangsBounds t.gangs) :
    Claims.bounds (failStart t code s) :=
  (schedFault_bounds ..).2 (setTask_bounds h ht)

/-- The gangs that spots are found for are those asked for. -/
theorem spotsFor_mem {s : State} {bar : Nat → Bool} {t : Task} {gs : List Gang} {l : List (Gang × Spot)}
    (h : spotsFor s bar t gs = some l) : ∀ e ∈ l, e.1 ∈ gs := by
  suffices hf : ∀ (ks : List Gang) (acc : List (Gang × Spot)), (∀ e ∈ acc, e.1 ∈ gs) → (∀ g ∈ ks, g ∈ gs) →
      ∀ r, ks.foldlM (fun (acc : List (Gang × Spot)) g => do
        let sp ← findSpot s (heldClusters s ++ acc.flatMap fun e => e.2.rect) bar t g
        some (acc ++ [(g, sp)])) acc = some r → ∀ e ∈ r, e.1 ∈ gs by
    obtain ⟨r, hr, h⟩ := Option.bind_eq_some_iff.1 h
    split at h
    · exact Option.some.inj h ▸ hf gs [] (by simp) (fun _ hg => hg) r hr
    · cases h
  intro ks
  induction ks with
  | nil =>
    intro acc ha _ r hr
    cases hr
    exact ha
  | cons g ks ih =>
    intro acc ha hk r hr
    obtain ⟨hg, hks⟩ := List.forall_mem_cons.1 hk
    obtain ⟨acc', ha', hr⟩ := Option.bind_eq_some_iff.1 hr
    obtain ⟨sp, _, hsp⟩ := Option.bind_eq_some_iff.1 ha'
    cases hsp
    exact ih _ (List.forall_mem_append.2 ⟨ha, by simpa using hg⟩) hks r hr

theorem startGroup_bounds {t : Task} (ht : GangsBounds t.gangs) : GangsBounds (startGroup t) := fun g hg => by
  unfold startGroup at hg
  split at hg
  · exact ht g (List.mem_of_mem_take hg)
  · exact ht g hg

theorem startTask_bounds {t : Task} {s u : State} {b : Bool} (h : Claims.bounds s) (ht : GangsBounds t.gangs)
    (e : startTask t s = some (b, u)) : Claims.bounds u := by
  unfold startTask at e
  dsimp only at e
  split at e
  · cases e
    exact failStart_bounds t _ s h ht
  split at e
  · cases e
    exact failStart_bounds t _ s h ht
  split at e
  · cases e
    exact failStart_bounds t _ s h ht
  split at e
  · cases e
  split at e
  · cases e
  next l hl =>
    cases e
    refine bounds_foldl_mem ?_ (fun e he => startGroup_bounds ht e.1 (spotsFor_mem hl e he)) fun v e hv he =>
      startGang_bounds _ e.1 e.2 v hv he
    rw [bounds_ite, armSegs_bounds, ite_self]
    exact setTask_bounds (bounds_iff.2 (bounds_iff.1 h)) ht

theorem presents_bounds {s : State} {r : Region} {t : Task} (h : Claims.bounds s) (e : presents s r = some t) : GangsBounds t.gangs := by
  unfold presents at e
  split at e
  · cases e
  split at e
  · cases e
  next u hu =>
    split at e
    · cases e
    · cases e
      exact bounds_tasks h t (List.mem_of_find?_eq_some hu)

@[simp] theorem serveLeaf_bounds (p rnum : Nat) : ∀ (n : Nat) (s : State), Claims.bounds s → Claims.bounds (serveLeaf p rnum n s)
  | 0, _, h => h
  | n + 1, s, h => by
    unfold serveLeaf
    split
    next => exact h
    next r _ =>
      split
      next => exact (setRegion_bounds _ s).2 h
      next t ht =>
        have hg : GangsBounds t.gangs := presents_bounds h (Option.eq_some_of_filter_eq_some ht)
        split
        · exact h
        · split
          next u hu =>
            have hb := startTask_bounds h hg hu
            exact serveLeaf_bounds p rnum n _ (bounds_iff.2 (bounds_iff.1 ((setRegion_bounds { r with deficit := r.deficit - needOf t } u).2 hb)))
          next u hu => exact serveLeaf_bounds p rnum n u (startTask_bounds h hg hu)
          next => exact h

@[simp] theorem roundStarts_bounds (s : State) (h : Claims.bounds s) : Claims.bounds (roundStarts s) := by
  unfold roundStarts
  split
  · exact h
  · have hs : ∀ t ∈ s.sched.tasks.filter fun t => t.handler.isSome && t.st == .ready, GangsBounds t.gangs :=
      fun t ht => bounds_tasks h t (List.mem_of_mem_filter ht)
    refine bounds_foldl (bounds_foldl_mem h hs fun u t hu ht => ?_) fun u p hu => bounds_foldl hu fun v k hv => ?_
    · split
      next he => exact startTask_bounds hu ht he
      next => exact hu
    · split
      · exact serveLeaf_bounds p k _ _ ((setRegion_bounds _ v).2 hv)
      · exact hv

@[simp] theorem roundEvicts_bounds (s : State) (h : Claims.bounds s) : Claims.bounds (roundEvicts s) :=
  bounds_foldl h fun u e hu => by
    split
    · split <;> simp [hu]
    · exact hu

@[simp] theorem countRound_bounds (s : State) (h : Claims.bounds s) : Claims.bounds (countRound s) := by
  unfold countRound
  extract_lets g1 t1
  refine bounds_iff.2 ⟨bounds_core (s := s) h, bounds_others (s := s) h, tasksBounds_map (bounds_tasks h) fun t ht => ?_⟩
  unfold t1
  split
  · refine gangsBounds_map ht fun g hg => ?_
    unfold g1
    split <;> exact hg
  · exact ht

@[simp] theorem execSchedulerRound_bounds (s : State) (h : Claims.bounds s) : Ends Claims.bounds (execSchedulerRound s) := by
  unfold execSchedulerRound
  split
  · simp [h]
  · split
    · simp [h]
    · extract_lets u v
      have hu : Claims.bounds u :=
        (checkJobEnd_bounds _).2 (roundStarts_bounds _ (roundGangs_bounds _ (roundEvicts_bounds _ (countRound_bounds s h))))
      clear_value u
      refine ends_next.2 ?_
      change Claims.bounds v
      unfold v
      split <;> simp [hu]

@[simp] theorem execSchedulerTakeover_bounds (s : State) (h : Claims.bounds s) : Ends Claims.bounds (execSchedulerTakeover s) := by
  simp [execSchedulerTakeover, h]

@[simp] theorem quantumEnds_bounds (t : Task) (g : Gang) (s : State) (h : Claims.bounds s) (hg : ImagesBounds g.images) :
    Claims.bounds (quantumEnds t g s) := by
  unfold quantumEnds
  split
  · exact beginEvict_bounds _ _ s h
  · exact (startQuantum_bounds ..).2 (setGang_bounds h hg)

@[simp] theorem execQuantumExpiry_bounds (tser gix : Nat) (s : State) (h : Claims.bounds s) :
    Ends Claims.bounds (execQuantumExpiry tser gix s) := by
  unfold execQuantumExpiry
  split
  next t g _ hg => simp [h, gangOf_bounds h hg]
  next => exact ends_next.2 h

@[simp] theorem strandYields_bounds (s : State) (h : Claims.bounds s) : Claims.bounds (strandYields s) := by
  unfold strandYields
  split
  next t g _ hg => simp [h, gangOf_bounds h hg]
  next => exact h

theorem noteMigrate_bounds {t : Task} (g : Gang) (k : Core) (now : Nat) (ht : GangsBounds t.gangs) :
    GangsBounds (noteMigrate t g k now).gangs := by
  refine gangsBounds_map ht fun x hx => ?_
  (repeat' split) <;> exact hx

@[simp] theorem execMigrateTrapReceipt_bounds (c : CoreId) (s : State) (h : Claims.bounds s) :
    Ends Claims.bounds (execMigrateTrapReceipt c s) := by
  unfold execMigrateTrapReceipt
  extract_lets k tser gix
  split
  next t g ht _ =>
    have hm : Claims.bounds (setTask (noteMigrate t g k s.now) s) := setTask_bounds h (noteMigrate_bounds g k s.now (taskOf_bounds h ht))
    (repeat' split) <;> simp [h, hm]
  next => exact ends_next.2 h

@[simp] theorem evictOf_bounds (p : CoreId → Bool) (s : State) (h : Claims.bounds s) : Claims.bounds (evictOf p s) :=
  bounds_foldl h fun u e hu => beginEvict_bounds e.1 e.2 u hu

@[simp] theorem execDieFault_bounds (die : Nat) (s : State) (h : Claims.bounds s) : Ends Claims.bounds (execDieFault die s) := by
  simp [execDieFault, h]

@[simp] theorem execCoreWithdrawn_bounds (c : CoreId) (s : State) (h : Claims.bounds s) : Ends Claims.bounds (execCoreWithdrawn c s) := by
  simp [execCoreWithdrawn, h]

@[simp] theorem handlerDone_bounds (t : Task) (s : State) (h : Claims.bounds s) : Claims.bounds (handlerDone t s) := by
  unfold handlerDone
  split
  · exact h
  · extract_lets u v
    have hu : Claims.bounds u := by
      unfold u
      split <;> simp [h]
    have hv : Claims.bounds v := bounds_foldl hu fun a k ha => by split <;> simp [ha]
    clear_value v
    simp [hv]

theorem taskEnds_bounds (t : Task) (killed : Bool) (tt : Nat) (s : State) (h : Claims.bounds s) (ht : GangsBounds t.gangs) :
    Claims.bounds (taskEnds t killed tt s) := by
  unfold taskEnds
  extract_lets u v w x
  have hu : Claims.bounds u := setTask_bounds h ht
  clear_value u
  have hv : Claims.bounds v := by
    unfold v
    split <;> simp [hu]
  have hx : Claims.bounds x := (due_bounds ..).2 (dropRecords_bounds _ _ ((checkJobEnd_bounds _).2 hv))
  clear_value x
  split <;> simp [hx]

theorem doneAdd_bounds (t : Task) (n fl : Nat) (killed : Bool) (s : State) (h : Claims.bounds s) (ht : GangsBounds t.gangs) :
    Claims.bounds (doneAdd t n fl killed s) := by
  unfold doneAdd
  extract_lets evt go
  have hgo (u : State) (hu : Claims.bounds u) : Claims.bounds (go u) := by
    unfold go
    split
    · exact taskEnds_bounds t killed _ u hu ht
    · exact whenReady_bounds hu (fun v hv => taskEnds_bounds t killed _ _ (by simpa using hv) ht)
        fun v hv => taskEnds_bounds t killed _ _ (by simp [hv]) ht
  clear_value go
  split
  · exact whenReady_bounds h hgo hgo
  · exact hgo s h

@[simp] theorem execTaskComplete_bounds (tser : Nat) (s : State) (h : Claims.bounds s) : Ends Claims.bounds (execTaskComplete tser s) := by
  unfold execTaskComplete
  split
  next => exact ends_next.2 h
  next t ht =>
    have hg := taskOf_bounds h ht
    have hr : Claims.bounds (releaseGangs t s) := releaseGangs_bounds t s h hg
    (repeat' split) <;> simp [h, hr, doneAdd_bounds, hg]

@[simp] theorem spawnHandler_bounds (scope : Region) (level : Nat) (r : FaultReport) (holds : List Nat) (t : Nat)
    (rd : Option (Nat × Nat) × Option Nat) (s : State) (h : Claims.bounds s) :
    Claims.bounds (spawnHandler scope level r holds t rd s) := by
  unfold spawnHandler
  extract_lets tser par n pa n1 n2 ctrs code y x sc u
  have hy : GangsBounds y.gangs := mkTask_bounds
  have hx : GangsBounds x.gangs := hy
  have hu : Claims.bounds u := addTask_bounds h hx
  clear_value u x
  split
  · exact (schedFault_bounds ..).2 (setTask_bounds hu hx)
  split
  · exact (schedFault_bounds ..).2 (setTask_bounds hu hx)
  · exact (askRound_bounds ..).2 hu

@[simp] theorem killFor_bounds (tser : Nat) (s : State) (h : Claims.bounds s) : Claims.bounds (killFor tser s) := by
  unfold killFor
  split
  · exact h
  · split <;> simp [h]

theorem killScope_bounds (scope : Region) (level : Nat) (r : FaultReport) (s : State) (h : Claims.bounds s) :
    Claims.bounds (killScope scope level r s).1 := by
  unfold killScope
  split
  · exact h
  · extract_lets u own v ls
    have hu : Claims.bounds u := killFor_bounds _ s h
    have hv : Claims.bounds v := by
      unfold v
      split
      · exact hu
      · exact bounds_foldl hu fun w k hw => killFor_bounds k w hw
    clear_value v u
    exact bounds_foldl hv fun w k hw => by split <;> simp [hw]

theorem handlerOf_bounds {s : State} {rnum : Nat} {x : Task} (h : Claims.bounds s) (e : handlerOf s rnum = some x) :
    GangsBounds x.gangs :=
  bounds_tasks h x (List.mem_of_find?_eq_some e)

@[simp] theorem landFault_bounds (leaf scope : Region) (level : Nat) (r : FaultReport) (rd : Option (Nat × Nat) × Option Nat) (s : State)
    (h : Claims.bounds s) : Claims.bounds (landFault leaf scope level r rd s) := by
  unfold landFault
  extract_lets u
  have hu : Claims.bounds u := by
    unfold u
    split <;> simp [h]
  clear_value u
  generalize hk : killScope _ _ _ _ = k
  have hv : Claims.bounds k.1 := hk ▸ killScope_bounds _ _ _ _ hu
  obtain ⟨v, holds⟩ := k
  dsimp -zeta only at hv ⊢
  extract_lets t old w x y
  have hx : Claims.bounds x := by
    have hw : Claims.bounds w := by simp [w, hv]
    clear_value w
    unfold x
    split
    next k hk => exact setTask_bounds hw (handlerOf_bounds (x := k) hw hk)
    next => exact hw
  clear_value x
  have hy : Claims.bounds y := by simp [y, hv]
  clear_value y
  (repeat' split) <;> simp [hx, hy]

@[simp] theorem execFaultReport_bounds (r : FaultReport) (s : State) (h : Claims.bounds s) : Ends Claims.bounds (execFaultReport r s) := by
  unfold execFaultReport
  dsimp only
  (repeat' split) <;> simp +contextual [h]

@[simp] theorem spawnOp_keeps (f : YA) (s : State) (h : Claims.bounds s) : Keeps id (spawnOp f s) := by
  simp [spawnOp, h]

@[simp] theorem put57_bounds (pa v : Nat) (s : State) : Claims.bounds (put57 pa v s) ↔ Claims.bounds s := by
  simp [put57]

@[simp] theorem appendDesc_bounds (r : Region) (dpa tpa : Nat) (desc : Nat) (tser t : Nat) (s : State) (h : Claims.bounds s) :
    Claims.bounds (appendDesc r dpa tpa desc tser t s) := by
  unfold appendDesc
  extract_lets t1 a t2 b q t3 c
  have hc : Claims.bounds c := by
    simp only [c, b, a, stampLine_bounds]
    simpa using h
  clear_value c
  simp [hc]

@[simp] theorem execSpawnAppend_bounds (rcb desc : Word) (tser t : Nat) (s : State) (h : Claims.bounds s) :
    Ends Claims.bounds (execSpawnAppend rcb desc tser t s) := by
  unfold execSpawnAppend
  extract_lets evt done refuse
  have hr (u : State) (hu : Claims.bounds u) : Claims.bounds (refuse u) := by simp [refuse, done, hu]
  split
  · simp [h]
  · split
    · exact ends_next.2 (hr s h)
    · extract_lets tail
      split
      · exact ends_next.2 (whenReady_bounds h hr fun u hu => whenReady_bounds hu hr fun u hu => whenReady_bounds hu hr fun u hu =>
          whenReady_bounds hu (by simp +contextual [done]) (by simp +contextual [done]))
      · exact ends_next.2 (hr s h)

/-! ### Swarm -/

@[simp] theorem routeOp_keeps (f : YA) (s : State) (h : Claims.bounds s) : Keeps id (routeOp f s) := by
  simp [routeOp, h]

@[simp] theorem rtverTable_keeps (va : Nat) (s : State) (h : Claims.bounds s) : Keeps id (rtverTable va s) := by
  unfold rtverTable
  split
  · rename_i t e
    exact (keeps_ok ..).2 (registerTable_keeps va s h t e)
  · simp
  · simp

@[simp] theorem rtverOp_keeps (f : YA) (s : State) (h : Claims.bounds s) : Keeps id (rtverOp f s) := by
  simp +contextual [rtverOp, h]

@[simp] theorem rtverKeeps_bounds (f : YA) (s : State) : Claims.bounds (rtverKeeps f s) ↔ Claims.bounds s := by
  unfold rtverKeeps
  split <;> simp

@[simp] theorem setRoute_bounds (o : RouteOp) (s : State) : Claims.bounds (setRoute o s) ↔ Claims.bounds s := by
  simp [setRoute]

@[simp] theorem dropRoute_bounds (o : RouteOp) (s : State) : Claims.bounds (dropRoute o s) ↔ Claims.bounds s := by
  simp [dropRoute]

@[simp] theorem addDone_bounds (o : RouteOp) (n fl : Nat) (s : State) : Claims.bounds (addDone o n fl s) ↔ Claims.bounds s := by
  unfold addDone
  split <;> simp

@[simp] theorem reportStop_bounds (o : RouteOp) (cause : Nat) (info : Word) (s : State) : Claims.bounds (reportStop o cause info s) ↔ Claims.bounds s := by
  simp [reportStop]

@[simp] theorem stopRoute_bounds (o : RouteOp) (cause : Nat) (info : Word) (s : State) : Claims.bounds (stopRoute o cause info s) ↔ Claims.bounds s := by
  simp [stopRoute]

@[simp] theorem stopRouteMem_bounds (o : RouteOp) (e : MemErr) (s : State) : Claims.bounds (stopRouteMem o e s) ↔ Claims.bounds s := by
  simp [stopRouteMem]

@[simp] theorem reserveSlot_bounds (o : RouteOp) (h a : Nat) (s : State) : Claims.bounds (reserveSlot o h a s) ↔ Claims.bounds s := by
  unfold reserveSlot
  rw [← Prod.eta (engTake _ _ _)]
  simp

@[simp] theorem chooseFrom_bounds (o : RouteOp) (bad : Option MemErr) (x : Table) (h : Nat) (s : State) (hc : Claims.bounds s) :
    Claims.bounds (chooseFrom o bad x h s) := by
  unfold chooseFrom
  rw [← Prod.eta (engTake _ _ _)]
  have hu : Claims.bounds (engTake [(o.tab, 64)] o.t s).2 := (engTake_bounds ..).2 hc
  dsimp only
  split
  · simp [hu]
  · split
    · simp [hu]
    · refine engTry_bounds hu (by simp) (by simp) fun n v hv => ?_
      split
      · rw [← Prod.eta (engTake _ _ _)]
        simp [hv]
      · split <;> simp [hv]

@[simp] theorem routeChoose_bounds (o : RouteOp) (s : State) (h : Claims.bounds s) : Claims.bounds (routeChoose o s) := by
  unfold routeChoose
  dsimp only
  generalize (if o.doneVa = 0 then (o, none) else _ : RouteOp × Option MemErr) = p
  split
  · simp [h]
  next u hu =>
    have hb : Claims.bounds (setRoute p.1 u) := (setRoute_bounds ..).2 (registerTable_keeps _ s h u hu)
    split
    · simpa using hb
    · exact engTry_bounds hb (by simp) (by simp) fun h v hv => chooseFrom_bounds _ _ _ h v hv

@[simp] theorem routeLoad_bounds (o : RouteOp) (h : Nat) (s : State) (hc : Claims.bounds s) : Claims.bounds (routeLoad o h s) := by
  unfold routeLoad
  split <;> simp +contextual [hc]

@[simp] theorem routeRoom_bounds (o : RouteOp) (s : State) (h : Claims.bounds s) : Claims.bounds (routeRoom o s) := by
  simp +contextual [routeRoom, h]

@[simp] theorem execRouteChoice_bounds (k : Nat) (s : State) (h : Claims.bounds s) : Ends Claims.bounds (execRouteChoice k s) := by
  unfold execRouteChoice
  (repeat' split) <;> simp [h]

@[simp] theorem nextDelivery_bounds (o : RouteOp) (s : State) : Claims.bounds (nextDelivery o s) ↔ Claims.bounds s := by
  simp [nextDelivery]

@[simp] theorem deliverPiece_bounds (o : RouteOp) (h w : Nat) (s : State) (hc : Claims.bounds s) : Claims.bounds (deliverPiece o h w s) := by
  simp +contextual [deliverPiece, hc]

@[simp] theorem execRouteDelivery_bounds (k : Nat) (s : State) (h : Claims.bounds s) : Ends Claims.bounds (execRouteDelivery k s) := by
  unfold execRouteDelivery
  split <;> simp +contextual [h]

@[simp] theorem finishRoute_bounds (o : RouteOp) (s : State) : Claims.bounds (finishRoute o s) ↔ Claims.bounds s := by
  unfold finishRoute
  (repeat' split) <;> simp

@[simp] theorem execRoutedAdd_bounds (k : Nat) (s : State) (h : Claims.bounds s) : Ends Claims.bounds (execRoutedAdd k s) := by
  unfold execRoutedAdd
  split
  · simp [h]
  · split
    · simp [h]
    · refine ends_next.2 (engTry_bounds h (by simp) (by simp) fun w u hu => ?_)
      dsimp only
      split
      · simp [hu]
      · split
        · simp [hu]
        · exact whenReady_bounds (by simp [hu]) (by simp +contextual) (by simp +contextual)

@[simp] theorem setSwitch_bounds (w : Switch) (s : State) : Claims.bounds (setSwitch w s) ↔ Claims.bounds s := by
  simp [setSwitch]

@[simp] theorem dropSwitch_bounds (w : Switch) (s : State) : Claims.bounds (dropSwitch w s) ↔ Claims.bounds s := by
  simp [dropSwitch]

@[simp] theorem addSwitch_bounds (tab e r : Nat) (k : SwKind) (step : Nat) (s : State) : Claims.bounds (addSwitch tab e r k step s).2 ↔ Claims.bounds s := by
  simp [addSwitch]

@[simp] theorem statWrite_bounds (va n v : Nat) (s : State) : Claims.bounds (statWrite va n v s) ↔ Claims.bounds s := by
  unfold statWrite
  split <;> simp

@[simp] theorem startReplica_bounds (tab e r h : Nat) (s : State) (hc : Claims.bounds s) : Claims.bounds (startReplica tab e r h s) := by
  unfold startReplica
  split
  · generalize ha : addSwitch _ _ _ _ _ _ = a
    have hu : Claims.bounds a.2 := by simp [← ha, hc]
    obtain ⟨i, u⟩ := a
    dsimp only
    rw [← Prod.eta (freshId _)]
    simpa using hu
  · exact hc

@[simp] theorem startRetire_bounds (tab e r : Nat) (s : State) : Claims.bounds (startRetire tab e r s) ↔ Claims.bounds s := by
  simp [startRetire]

@[simp] theorem sampleExpert_bounds (tab h m : Nat) (x : Nat × Nat × Nat) (s : State) (hc : Claims.bounds s) :
    Claims.bounds (sampleExpert tab h m x s) := by
  unfold sampleExpert
  extract_lets
  split
  split
  · exact hc
  · extract_lets a k bleft gone hot cold crun busy free put
    have hp (n : Nat) {u : State} (hu : Claims.bounds u) : Claims.bounds (put n u) := by simp [put, hu]
    clear_value put free crun busy
    split
    · exact hp _ (startReplica_bounds _ _ _ _ _ hc)
    · split
      · exact hp _ (by simp [hc])
      · exact hp _ hc

@[simp] theorem sampleUses_bounds (tab h : Nat) (old s : State) : Claims.bounds (sampleUses tab h old s) ↔ Claims.bounds s := by
  simp [sampleUses]

@[simp] theorem sampleTable_bounds (tab h : Nat) (s : State) (hc : Claims.bounds s) : Claims.bounds (sampleTable tab h s) := by
  simp +contextual [sampleTable, hc]

@[simp] theorem execSwarmSample_bounds (tab : Nat) (s : State) (h : Claims.bounds s) : Ends Claims.bounds (execSwarmSample tab s) := by
  unfold execSwarmSample
  split
  · simp [h]
  · extract_lets evt
    split
    · simp [h]
    · refine ends_next.2 (engTry_bounds h (by simp) (by simp) fun w u hu => ?_)
      dsimp only
      (repeat' split) <;> simp [hu]

@[simp] theorem execReplicaCopyStop_bounds (sw : Nat) (s : State) (h : Claims.bounds s) : Ends Claims.bounds (execReplicaCopyStop sw s) := by
  unfold execReplicaCopyStop
  split <;> simp +contextual [h]

@[simp] theorem appendTask_bounds (k t : Nat) (s : State) : Claims.bounds (appendTask k t s) ↔ Claims.bounds s := by
  simp [appendTask]

@[simp] theorem replicaSteps_bounds (w : Switch) (h k : Nat) (s : State) (hc : Claims.bounds s) : Claims.bounds (replicaSteps w h k s) := by
  unfold replicaSteps
  split <;> simp [hc]

@[simp] theorem execReplicaCopyDone_bounds (sw : Nat) (s : State) (h : Claims.bounds s) : Ends Claims.bounds (execReplicaCopyDone sw s) := by
  unfold execReplicaCopyDone
  split <;> simp +contextual [h]

@[simp] theorem endQuietly_bounds (va : Nat) (s : State) (h : Claims.bounds s) : Claims.bounds (endQuietly va s) := by
  unfold endQuietly
  extract_lets sc u
  have hu : Claims.bounds u := h
  exact bounds_foldl_mem hu (fun t ht => bounds_tasks hu t (List.mem_of_mem_filter ht)) fun v t hv ht =>
    killTask_bounds _ _ (setTask_bounds (t := { t with done := none }) hv ht)

@[simp] theorem redirectSlot_bounds (w : Switch) (h k : Nat) (s : State) (hc : Claims.bounds s) :
    Claims.bounds (redirectSlot w h k s) := by
  unfold redirectSlot
  refine engTry_bounds hc (by simp) (by simp) fun ⟨g, n, r, k', c⟩ u hu => ?_
  dsimp only
  rw [← Prod.eta (engTake _ _ _)]
  simp [hu]

@[simp] theorem voidSlot_bounds (w : Switch) (h k : Nat) (s : State) (hc : Claims.bounds s) : Claims.bounds (voidSlot w h k s) := by
  simp +contextual [voidSlot, hc]

@[simp] theorem closeInbox_bounds (w : Switch) (k : Nat) (s : State) (h : Claims.bounds s) : Claims.bounds (closeInbox w k s) := by
  unfold closeInbox
  split <;> simp +contextual [h]

@[simp] theorem redirectSteps_bounds (w : Switch) (h k : Nat) (s : State) (hc : Claims.bounds s) : Claims.bounds (redirectSteps w h k s) := by
  unfold redirectSteps
  (repeat' split) <;> simp [hc]

@[simp] theorem removeReplica_bounds (w : Switch) (s : State) (h : Claims.bounds s) : Claims.bounds (removeReplica w s) := by
  simp +contextual [removeReplica, h]

@[simp] theorem abandonExpert_bounds (w : Switch) (h n : Nat) (s : State) (hc : Claims.bounds s) : Claims.bounds (abandonExpert w h n s) := by
  simp [abandonExpert, hc]

@[simp] theorem watchConsumed_bounds (tab e k : Nat) (s : State) : Claims.bounds (watchConsumed tab e k s) ↔ Claims.bounds s := by
  unfold watchConsumed
  split <;> simp

@[simp] theorem restartSteps_bounds (w : Switch) (h n k : Nat) (s : State) (hc : Claims.bounds s) : Claims.bounds (restartSteps w h n k s) := by
  unfold restartSteps
  (repeat' split) <;> simp [hc]

@[simp] theorem clearLoss_bounds (w : Switch) (s : State) (h : Claims.bounds s) : Claims.bounds (clearLoss w s) := by
  simp +contextual [clearLoss, h]

@[simp] theorem execRedirection_bounds (sw : Nat) (s : State) (h : Claims.bounds s) : Ends Claims.bounds (execRedirection sw s) := by
  unfold execRedirection
  split <;> simp +contextual [h]

@[simp] theorem loseReplica_bounds (evt : Instr) (tab e r : Nat) (k : SwKind) (s : State) : Claims.bounds (loseReplica evt tab e r k s) ↔ Claims.bounds s := by
  unfold loseReplica
  split
  · rfl
  · rw [← Prod.eta (addSwitch _ _ _ _ _ _)]
    simp

@[simp] theorem execReplicaLoss_bounds (tab e r : Nat) (s : State) (h : Claims.bounds s) : Ends Claims.bounds (execReplicaLoss tab e r s) := by
  simp [execReplicaLoss, h]

@[simp] theorem execReplica0Loss_bounds (tab e : Nat) (s : State) (h : Claims.bounds s) : Ends Claims.bounds (execReplica0Loss tab e s) := by
  simp [execReplica0Loss, h]

@[simp] theorem endMerge_bounds (x : Table) (s : State) : Claims.bounds (endMerge x s) ↔ Claims.bounds s := by
  simp [endMerge]

@[simp] theorem addMdone_bounds (h n fl tser t : Nat) (s : State) : Claims.bounds (addMdone h n fl tser t s) ↔ Claims.bounds s := by
  unfold addMdone
  split <;> simp

@[simp] theorem stopMerge_bounds (x : Table) (h : Nat) (e : MemErr) (s : State) : Claims.bounds (stopMerge x h e s) ↔ Claims.bounds s := by
  simp [stopMerge]

@[simp] theorem mergeElement_bounds (x : Table) (p : MergePos) (h w0 w : Nat) (s : State) (hc : Claims.bounds s) :
    Claims.bounds (mergeElement x p h w0 w s) := by
  simp +contextual [mergeElement, hc]

@[simp] theorem finishMerge_bounds (x : Table) (p : MergePos) (h : Nat) (s : State) (hc : Claims.bounds s) :
    Claims.bounds (finishMerge x p h s) := by
  simp +contextual [finishMerge, hc]

@[simp] theorem execGradientMerge_bounds (tab : Nat) (s : State) (h : Claims.bounds s) : Ends Claims.bounds (execGradientMerge tab s) := by
  unfold execGradientMerge
  split
  · simp [h]
  · split
    · simp [h]
    · extract_lets evt
      split
      · simp [h]
      · refine ends_next.2 (engTry_bounds h (by simp) (by simp +contextual) fun w u hu => ?_)
        split
        · simp [hu]
        · refine engTry_bounds hu (by simp) (by simp +contextual) fun y v hv => ?_
          split
          · simp [hv]
          · extract_lets x
            split
            · simp [x, hv]
            · exact engTry_bounds (by simp [x, hv]) (by simp) (by simp +contextual) (by simp +contextual)

/-! ### Waggle -/

@[simp] theorem wglOp_keeps (f : YA) (s : State) (h : Claims.bounds s) : Keeps id (wglOp f s) := by
  simp [wglOp, h]

@[simp] theorem setStatus_bounds (tag v : Nat) (s : State) : Claims.bounds (setStatus tag v s) ↔ Claims.bounds s := by
  simp [setStatus]

@[simp] theorem wglqOp_keeps (f : YA) (s : State) (h : Claims.bounds s) : Keeps id (wglqOp f s) := by
  simp [wglqOp, h]

@[simp] theorem wglkOp_keeps (f : YA) (s : State) (h : Claims.bounds s) : Keeps id (wglkOp f s) := by
  simp [wglkOp, h]

@[simp] theorem setColl_bounds (c : Coll) (s : State) : Claims.bounds (setColl c s) ↔ Claims.bounds s := by
  simp [setColl]

@[simp] theorem dropColl_bounds (c : Coll) (s : State) : Claims.bounds (dropColl c s) ↔ Claims.bounds s := by
  simp [dropColl]

@[simp] theorem leaveStatus_bounds (c : Coll) (st : Nat) (s : State) : Claims.bounds (leaveStatus c st s) ↔ Claims.bounds s := by
  unfold leaveStatus
  split <;> simp

@[simp] theorem finishAbort_bounds (c : Coll) (fl : Nat) (s : State) : Claims.bounds (finishAbort c fl s) ↔ Claims.bounds s := by
  unfold finishAbort
  split <;> simp

@[simp] theorem execWaggleAbort_bounds (tag launch : Nat) (poison : Bool) (s : State) (h : Claims.bounds s) :
    Ends Claims.bounds (execWaggleAbort tag launch poison s) := by
  unfold execWaggleAbort
  (repeat' split) <;> simp [h]

@[simp] theorem failColl_bounds (c : Coll) (e : MemErr) (s : State) : Claims.bounds (failColl c e s) ↔ Claims.bounds s := by
  simp [failColl]

@[simp] theorem failPiece_bounds (c : Coll) (p : Nat × List Byte) (e : MemErr) (s : State) : Claims.bounds (failPiece c p e s) ↔ Claims.bounds s := by
  simp [failPiece]

@[simp] theorem writePiece_bounds (c : Coll) (p : Nat × List Byte) (s : State) (h : Claims.bounds s) : Claims.bounds (writePiece c p s) := by
  simp +contextual [writePiece, h]

@[simp] theorem refuseLaunch_bounds (q : WglQ) (n launch : Nat) (done : Option Nat) (group : List (BitVec 17)) (code : Nat) (info : Word)
    (s : State) : Claims.bounds (refuseLaunch q n launch done group code info s) ↔ Claims.bounds s := by
  unfold refuseLaunch
  split <;> simp

@[simp] theorem startColl_bounds (c : Coll) (s : State) : Claims.bounds (startColl c s) ↔ Claims.bounds s := by
  simp [startColl]

@[simp] theorem launchRead_bounds (q : WglQ) (n : Nat) (group : Bool × List (BitVec 17)) (prog : Except MemErr (List Word)) (s : State)
    (h : Claims.bounds s) : Claims.bounds (launchRead q n group prog s) := by
  unfold launchRead
  extract_lets tag launch running u done donePa no
  have hu : Claims.bounds u := h
  have hno (c : Nat) (i : Word) : Claims.bounds (no c i) := (refuseLaunch_bounds ..).2 hu
  clear_value no donePa done u
  (repeat' split) <;> simp [hno, hu]

@[simp] theorem killTag_bounds (tag : Nat) (s : State) : Claims.bounds (killTag tag s) ↔ Claims.bounds s := by
  unfold killTag
  split <;> simp

@[simp] theorem execWaggleLaunch_bounds (k : Nat) (s : State) (h : Claims.bounds s) : Ends Claims.bounds (execWaggleLaunch k s) := by
  unfold execWaggleLaunch
  split
  · exact ends_next.2 h
  · split
    · split <;> simp [h]
    · split
      · simp [h]
      · refine ends_next.2 (engTry_bounds h (by simp) (by simp +contextual) fun n u hu => ?_)
        dsimp only
        generalize (if bit n 83 = true then 0 else 4 * cdRanks n) = z
        split
        · simp [hu]
        · simp [hu]
        · simp [hu]
        · simp [hu]
        · rw [← Prod.eta (engTake _ _ _)]
          simp [hu]
        · rw [← Prod.eta (engTake _ _ _)]
          simp [hu]

@[simp] theorem execSignatureAgreement_bounds (k : Nat) (s : State) (h : Claims.bounds s) :
    Ends Claims.bounds (execSignatureAgreement k s) := by
  unfold execSignatureAgreement
  split
  · simp [h]
  · extract_lets mine u agreed all chunks vals v w
    have hu : Claims.bounds u := h
    clear_value u
    have hv : Claims.bounds v := by
      unfold v
      split <;> exact hu
    clear_value v
    have hw : Claims.bounds w := bounds_foldl hv (by simp)
    clear_value w
    split
    · simp [hu]
    · simp [hw]

@[simp] theorem readPieces_bounds {c : Coll} {va n : Nat} {k : List Byte → Coll → State → State} {s : State} (h : Claims.bounds s)
    (hk : ∀ bs c s, Claims.bounds s → Claims.bounds (k bs c s)) : Claims.bounds (readPieces c va n k s) := by
  simp +contextual [readPieces, h, hk]

@[simp] theorem whenPlaced_bounds {c : Coll} {va n : Nat} {k : State → State} {s : State} (h : Claims.bounds s)
    (hk : ∀ s, Claims.bounds s → Claims.bounds (k s)) : Claims.bounds (whenPlaced c va n k s) := by
  simp +contextual [whenPlaced, h, hk]

@[simp] theorem beginChunk_bounds (c : Coll) (va : Nat) (bs : List Byte) (s : State) : Claims.bounds (beginChunk c va bs s) ↔ Claims.bounds s := by
  simp [beginChunk]

@[simp] theorem writePieces_bounds {c : Coll} {k : Coll → State → State} {s : State} (h : Claims.bounds s)
    (hk : ∀ c s, Claims.bounds s → Claims.bounds (k c s)) : Claims.bounds (writePieces c k s) := by
  simp [writePieces, h, hk]

@[simp] theorem toStep_bounds (c : Coll) (pc : Nat) (s : State) : Claims.bounds (toStep c pc s) ↔ Claims.bounds s := by
  simp [toStep]

@[simp] theorem nextStep_bounds (c : Coll) (s : State) : Claims.bounds (nextStep c s) ↔ Claims.bounds s := by
  simp [nextStep]

@[simp] theorem onStep_bounds {f : Coll → State → State} {s : State} (h : Claims.bounds s) (hf : ∀ c s, Claims.bounds s → Claims.bounds (f c s)) :
    Ends Claims.bounds (onStep f s) := by
  unfold onStep
  split <;> simp [h, hf]

@[simp] theorem wsendStep_bounds (f : WP) (c : Coll) (s : State) (h : Claims.bounds s) : Claims.bounds (wsendStep f c s) := by
  unfold wsendStep
  extract_lets
  split
  · exact readPieces_bounds h (by simp +contextual)
  · split <;> simp [h]

@[simp] theorem execWsend_bounds (f : WP) (s : State) (h : Claims.bounds s) : Ends Claims.bounds (execWsend f s) := by
  simp +contextual [execWsend, h]

@[simp] theorem wrecvStep_bounds (f : WP) (c : Coll) (s : State) (h : Claims.bounds s) : Claims.bounds (wrecvStep f c s) := by
  unfold wrecvStep
  dsimp only
  (repeat' split) <;> simp +contextual [h]

@[simp] theorem execWrecv_bounds (f : WP) (s : State) (h : Claims.bounds s) : Ends Claims.bounds (execWrecv f s) := by
  simp +contextual [execWrecv, h]

@[simp] theorem copyRead_bounds (f : WC) (p : Nat × Nat) (bs : List Byte) (t : Nat) (c : Coll) (s : State) (h : Claims.bounds s) :
    Claims.bounds (copyRead f p bs t c s) := by
  unfold copyRead
  extract_lets
  split
  · simp [h]
  · exact whenPlaced_bounds h (by simp)

@[simp] theorem wcopyStep_bounds (f : WC) (c : Coll) (s : State) (h : Claims.bounds s) : Claims.bounds (wcopyStep f c s) := by
  unfold wcopyStep
  dsimp only
  (repeat' split) <;> simp +contextual [h]

@[simp] theorem execWcopy_bounds (f : WC) (s : State) (h : Claims.bounds s) : Ends Claims.bounds (execWcopy f s) := by
  simp +contextual [execWcopy, h]

@[simp] theorem wwaitStep_bounds (thr : Nat) (c : Coll) (s : State) : Claims.bounds (wwaitStep thr c s) ↔ Claims.bounds s := by
  unfold wwaitStep
  dsimp only
  (repeat' split) <;> simp

@[simp] theorem execWwait_bounds (thr : BitVec 48) (s : State) (h : Claims.bounds s) : Ends Claims.bounds (execWwait thr s) := by
  simp [execWwait, h]

@[simp] theorem collAdd_bounds {c : Coll} {pa : Nat} {va : Word} {n fl : Nat} {k : Coll → State → State} {s : State} (h : Claims.bounds s)
    (hk : ∀ c s, Claims.bounds s → Claims.bounds (k c s)) : Claims.bounds (collAdd c pa va n fl k s) := by
  unfold collAdd
  split <;> simp -implicitDefEqProofs [h, hk]

@[simp] theorem wsigStep_bounds (n : Nat) (c : Coll) (s : State) (h : Claims.bounds s) : Claims.bounds (wsigStep n c s) := by
  simp +contextual [wsigStep, h]

@[simp] theorem execWsig_bounds (n : BitVec 20) (s : State) (h : Claims.bounds s) : Ends Claims.bounds (execWsig n s) := by
  simp +contextual [execWsig, h]

@[simp] theorem execWloop_bounds (cnt : BitVec 32) (s : State) (h : Claims.bounds s) : Ends Claims.bounds (execWloop cnt s) := by
  simp [execWloop, h]

@[simp] theorem wendlStep_bounds (c : Coll) (s : State) : Claims.bounds (wendlStep c s) ↔ Claims.bounds s := by
  unfold wendlStep
  (repeat' split) <;> simp

@[simp] theorem execWendl_bounds (s : State) (h : Claims.bounds s) : Ends Claims.bounds (execWendl s) := by
  simp [execWendl, h]

@[simp] theorem enterVal_bounds (kind : Nat) (v : Word) (c : Coll) (s : State) : Claims.bounds (enterVal kind v c s) ↔ Claims.bounds s := by
  simp [enterVal]

@[simp] theorem wagreeStep_bounds (b off : Nat) (c : Coll) (s : State) (h : Claims.bounds s) : Claims.bounds (wagreeStep b off c s) := by
  unfold wagreeStep
  (repeat' split) <;> simp +contextual [h]

@[simp] theorem execWagree_bounds (buf : BitVec 2) (off : BitVec 32) (s : State) (h : Claims.bounds s) :
    Ends Claims.bounds (execWagree buf off s) := by
  simp +contextual [execWagree, h]

@[simp] theorem wflagsStep_bounds (c : Coll) (s : State) : Claims.bounds (wflagsStep c s) ↔ Claims.bounds s := by
  unfold wflagsStep
  (repeat' split) <;> simp

@[simp] theorem execWflags_bounds (s : State) (h : Claims.bounds s) : Ends Claims.bounds (execWflags s) := by
  simp [execWflags, h]

@[simp] theorem completeColl_bounds (c : Coll) (s : State) : Claims.bounds (completeColl c s) ↔ Claims.bounds s := by
  simp [completeColl]

@[simp] theorem wendStep_bounds (c : Coll) (s : State) (h : Claims.bounds s) : Claims.bounds (wendStep c s) := by
  unfold wendStep
  split <;> simp +contextual [h]

@[simp] theorem execWend_bounds (s : State) (h : Claims.bounds s) : Ends Claims.bounds (execWend s) := by
  simp +contextual [execWend, h]

@[simp] theorem enterRs_bounds (f : WR) (c : Coll) (s : State) : Claims.bounds (enterRs f c s) ↔ Claims.bounds s := by
  simp [enterRs]

@[simp] theorem reduceChunk_bounds (f : WR) (i : Nat) (own : List Byte) (c : Coll) (s : State) (h : Claims.bounds s) :
    Claims.bounds (reduceChunk f i own c s) := by
  unfold reduceChunk
  split
  refine whenPlaced_bounds h fun u hu => ?_
  extract_lets v
  have hv : Claims.bounds v := by
    unfold v
    split
    · exact bounds_foldl hu (by simp)
    · exact hu
  simp [hv]

@[simp] theorem rerunChunk_bounds (i : Nat) (c : Coll) (s : State) : Claims.bounds (rerunChunk i c s) ↔ Claims.bounds s := by
  unfold rerunChunk
  split <;> simp

@[simp] theorem refetch_bounds (i : Nat) (e : Nat × Nat × ChunkMsg) (c : Coll) (s : State) : Claims.bounds (refetch i e c s) ↔ Claims.bounds s := by
  unfold refetch
  dsimp only
  (repeat' split) <;> simp

@[simp] theorem rsStep_bounds (f : WR) (c : Coll) (s : State) (h : Claims.bounds s) : Claims.bounds (rsStep f c s) := by
  unfold rsStep
  dsimp only
  (repeat' split) <;> simp +contextual [h]

@[simp] theorem wrrsStep_bounds (f : WR) (c : Coll) (s : State) (h : Claims.bounds s) : Claims.bounds (wrrsStep f c s) := by
  simp +contextual [wrrsStep, h]

@[simp] theorem execWrrs_bounds (f : WR) (s : State) (h : Claims.bounds s) : Ends Claims.bounds (execWrrs f s) := by
  simp +contextual [execWrrs, h]

@[simp] theorem spillOne_bounds (io : Nat) (s : State) : Claims.bounds (spillOne io s) ↔ Claims.bounds s := by
  unfold spillOne
  split <;> simp

@[simp] theorem spillDown_bounds (io : Nat) : ∀ (n : Nat) (s : State), Claims.bounds s → Claims.bounds (spillDown io n s)
  | 0, _, h => h
  | n + 1, s, h => by
    unfold spillDown
    split
    · exact h
    · exact spillDown_bounds io n _ ((spillOne_bounds io s).2 h)

@[simp] theorem execChunkArrival_bounds (m : ChunkMsg) (s : State) (h : Claims.bounds s) : Ends Claims.bounds (execChunkArrival m s) := by
  unfold execChunkArrival
  split <;> simp [h]

@[simp] theorem execSwitchSlotLoss_bounds (k inst chunk : Nat) (s : State) (h : Claims.bounds s) :
    Ends Claims.bounds (execSwitchSlotLoss k inst chunk s) := by
  unfold execSwitchSlotLoss
  (repeat' split) <;> simp [h]

@[simp] theorem abortTurn_bounds (c : Coll) (s : State) (h : Claims.bounds s) : Claims.bounds (abortTurn c s) := by
  simp +contextual [abortTurn, h]

/-! ### Pool -/

@[simp] theorem releaseWaiter_bounds (line : Nat) (w : Waiter) (s : State) (h : Claims.bounds s) : Claims.bounds (releaseWaiter line w s) := by
  unfold releaseWaiter
  cases w.who with
  | core c =>
    refine atCore_bounds h fun u hu => ?_
    split <;> simp [hu]
  | wag tag launch =>
    dsimp only
    split <;> simp [h]
  | dep | queue | job | watch | merge | consumed => simp [h]

@[simp] theorem releaseLine_bounds (line : Nat) (s : State) (h : Claims.bounds s) : Claims.bounds (releaseLine line s) := by
  simp +contextual [releaseLine, h]

@[simp] theorem releaseRecord_bounds (line : Nat) (s : State) (h : Claims.bounds s) : Claims.bounds (releaseRecord line s) := by
  unfold releaseRecord
  exact bounds_foldl (bounds_foldl h (by simp +contextual)) (by simp +contextual)

@[simp] theorem poisonLine_bounds (line : Nat) (s : State) (h : Claims.bounds s) : Claims.bounds (poisonLine line s) := by
  simp +contextual [poisonLine, h]

@[simp] theorem execLinePoisoned_bounds (line : Nat) (s : State) (h : Claims.bounds s) : Ends Claims.bounds (execLinePoisoned line s) := by
  simp [execLinePoisoned, h]

@[simp] theorem execCombSramError_bounds (home : Nat) (s : State) (h : Claims.bounds s) : Ends Claims.bounds (execCombSramError home s) := by
  simp [execCombSramError, h]

@[simp] theorem bumpLease_bounds (line : Nat) (s : State) : Claims.bounds (bumpLease line s) ↔ Claims.bounds s := by
  simp [bumpLease]

@[simp] theorem birsp_bounds (line p : Nat) (s : State) : Claims.bounds (birsp line p s) ↔ Claims.bounds s := by
  simp [birsp]

@[simp] theorem execMemrdCompletion_bounds (line : Nat) (r : PoolReply) (s : State) (h : Claims.bounds s) :
    Ends Claims.bounds (execMemrdCompletion line r s) := by
  unfold execMemrdCompletion
  split <;> simp [h]

@[simp] theorem execMeminvCompletion_bounds (line : Nat) (s : State) (h : Claims.bounds s) :
    Ends Claims.bounds (execMeminvCompletion line s) := by
  simp [execMeminvCompletion, h]

@[simp] theorem poolTakes_bounds (line n : Nat) (s : State) : Claims.bounds (poolTakes line n s) ↔ Claims.bounds s := by
  unfold poolTakes
  split <;> simp

@[simp] theorem copyWritten_bounds (op line : Nat) (refused : Bool) (s : State) (h : Claims.bounds s) :
    Claims.bounds (copyWritten op line refused s) := by
  unfold copyWritten
  (repeat' split) <;> simp +contextual [h]

@[simp] theorem remotePut_bounds (src : BitVec 17) (op pa : Nat) (bs : List Byte) (s : State) :
    Claims.bounds (remotePut src op pa bs s) ↔ Claims.bounds s := by
  simp [remotePut]

@[simp] theorem remoteWritten_bounds (m : GMsg) (line : Nat) (refused : Bool) (s : State) :
    Claims.bounds (remoteWritten m line refused s) ↔ Claims.bounds s := by
  unfold remoteWritten
  (repeat' split) <;> simp

@[simp] theorem wrCompleted_bounds (line : Nat) (why : WrWhy) (refused : Bool) (s : State) (h : Claims.bounds s) :
    Claims.bounds (wrCompleted line why refused s) := by
  unfold wrCompleted
  split <;> simp +contextual [h]

@[simp] theorem execMemwrCompletion_bounds (line : Nat) (refused : Bool) (s : State) (h : Claims.bounds s) :
    Ends Claims.bounds (execMemwrCompletion line refused s) := by
  unfold execMemwrCompletion
  split <;> simp [h]

@[simp] theorem noteSnoop_bounds (kind line : Nat) (owned : Bool) (s : State) : Claims.bounds (noteSnoop kind line owned s) ↔ Claims.bounds s := by
  simp [noteSnoop]

@[simp] theorem snoopActs_bounds (evt : Instr) (kind line : Nat) (s : State) : Claims.bounds (snoopActs evt kind line s) ↔ Claims.bounds s := by
  unfold snoopActs
  dsimp only
  (repeat' split) <;> simp

@[simp] theorem pinSnoop_bounds (kind line : Nat) (s : State) : Claims.bounds (pinSnoop kind line s) ↔ Claims.bounds s := by
  simp [pinSnoop]

@[simp] theorem snoop_bounds (evt : Instr) (kind line : Nat) (s : State) : Claims.bounds (snoop evt kind line s) ↔ Claims.bounds s := by
  simp [snoop]

@[simp] theorem execBisnpinv_bounds (line : Nat) (s : State) (h : Claims.bounds s) : Ends Claims.bounds (execBisnpinv line s) := by
  simp [execBisnpinv, h]

@[simp] theorem execBisnpdata_bounds (line : Nat) (s : State) (h : Claims.bounds s) : Ends Claims.bounds (execBisnpdata line s) := by
  simp [execBisnpdata, h]

@[simp] theorem execBisnpcur_bounds (line : Nat) (s : State) (h : Claims.bounds s) : Ends Claims.bounds (execBisnpcur line s) := by
  simp [execBisnpcur, h]

@[simp] theorem execSnoopPinTimeout_bounds (line : Nat) (s : State) (h : Claims.bounds s) :
    Ends Claims.bounds (execSnoopPinTimeout line s) := by
  unfold execSnoopPinTimeout
  have hf (c : CoreId) : Claims.bounds (atCore c (failRegion [line]) s) := atCore_bounds h fun u hu => failRegion_bounds [line] u hu
  (repeat' split) <;> simp [h, hf]

@[simp] theorem lostWrite_bounds (t : PoolTx) (s : State) (h : Claims.bounds s) : Claims.bounds (lostWrite t s) := by
  unfold lostWrite
  (repeat' split) <;> simp +contextual [h]

@[simp] theorem loseLine_bounds (line : Nat) (s : State) (h : Claims.bounds s) : Claims.bounds (loseLine line s) := by
  simp +contextual [loseLine, h]

@[simp] theorem commitsLose_bounds (on : Nat → Bool) (s : State) (h : Claims.bounds s) : Claims.bounds (commitsLose on s) := by
  unfold commitsLose
  extract_lets one
  refine bounds_foldl h fun u c hu => ?_
  unfold one
  split
  · exact atCore_bounds hu fun v hv => by
      dsimp only
      split <;> simp [hv]
  · exact hu

@[simp] theorem execCxlPortDown_bounds (p : Nat) (s : State) (h : Claims.bounds s) : Ends Claims.bounds (execCxlPortDown p s) := by
  unfold execCxlPortDown
  split
  · simp [h]
  · split
    · simp [h]
    · extract_lets on u v txs w x
      have hu : Claims.bounds u := commitsLose_bounds on s h
      have hv : Claims.bounds v := by simpa [v] using hu
      have hx : Claims.bounds x := bounds_foldl hv (by simp +contextual)
      exact ends_next.2 (bounds_foldl hx (by simp +contextual))

@[simp] theorem execCxlPortReturnToService_bounds (p : Nat) (s : State) (h : Claims.bounds s) :
    Ends Claims.bounds (execCxlPortReturnToService p s) := by
  unfold execCxlPortReturnToService
  split <;> simp [h]

/-! ### Fabric -/

@[simp] theorem failWith_bounds (m : GMsg) (op piece : Nat) (e : MemErr) (s : State) : Claims.bounds (failWith m op piece e s) ↔ Claims.bounds s := by
  simp [failWith]

@[simp] theorem remoteWrite_bounds (m : GMsg) (op piece : Nat) (va : Word) (bs : List Byte) (s : State) (h : Claims.bounds s) :
    Claims.bounds (remoteWrite m op piece va bs s) := by
  unfold remoteWrite
  split <;> simp +contextual [h]

@[simp] theorem remoteRead_bounds (m : GMsg) (op piece : Nat) (va : Word) (n : Nat) (s : State) :
    Claims.bounds (remoteRead m op piece va n s) ↔ Claims.bounds s := by
  unfold remoteRead
  dsimp only
  (repeat' split) <;> simp

@[simp] theorem remoteAdd_bounds (m : GMsg) (op : Nat) (va n : Word) (fl : BitVec 32) (s : State) (h : Claims.bounds s) :
    Claims.bounds (remoteAdd m op va n fl s) := by
  unfold remoteAdd
  split <;> simp +contextual [h]

@[simp] theorem gotData_bounds (op k : Nat) (bs : List Byte) (s : State) (h : Claims.bounds s) : Claims.bounds (gotData op k bs s) := by
  unfold gotData
  split
  next => exact h
  next o ho =>
    split
    next => exact h
    next p hp =>
      dsimp only
      generalize hq : (if o.l.module = ownModule s then copyTime o _ s else (o, s)) = q
      have hb : Claims.bounds q.2 := by
        rw [← hq]
        split
        · exact (copyTime_bounds ..).2 h
        · exact h
      have hm : Claims.bounds (markOut q.1 k bs q.2) := (markOut_bounds ..).2 hb
      split
      · exact hm
      · exact pieceWrite_bounds _ _ k bs _ hm

@[simp] theorem gotDone_bounds (op k : Nat) (s : State) : Claims.bounds (gotDone op k s) ↔ Claims.bounds s := by
  unfold gotDone
  (repeat' split) <;> simp

@[simp] theorem remoteAdded_bounds (o : Cop) (s : State) : Claims.bounds (remoteAdded o s) ↔ Claims.bounds s := by
  simp [remoteAdded]

@[simp] theorem gotFail_bounds (op cause : Nat) (info : Word) (s : State) : Claims.bounds (gotFail op cause info s) ↔ Claims.bounds s := by
  unfold gotFail
  (repeat' split) <;> simp

@[simp] theorem gotChecked_bounds (op : Nat) (s : State) : Claims.bounds (gotChecked op s) ↔ Claims.bounds s := by
  unfold gotChecked
  (repeat' split) <;> simp

@[simp] theorem gotAdded_bounds (op : Nat) (refused : Bool) (s : State) : Claims.bounds (gotAdded op refused s) ↔ Claims.bounds s := by
  unfold gotAdded
  (repeat' split) <;> simp

@[simp] theorem gotVal_bounds (kind tag launch inst rank : Nat) (v : Word) (s : State) :
    Claims.bounds (gotVal kind tag launch inst rank v s) ↔ Claims.bounds s := by
  unfold gotVal
  (repeat' split) <;> simp

@[simp] theorem gotSent_bounds (tag launch rank inst : Nat) (s : State) : Claims.bounds (gotSent tag launch rank inst s) ↔ Claims.bounds s := by
  unfold gotSent
  split <;> simp

@[simp] theorem applyMsg_bounds (m : GMsg) (s : State) (h : Claims.bounds s) : Claims.bounds (applyMsg m s) := by
  unfold applyMsg
  (repeat' split) <;> simp +contextual [h]

@[simp] theorem execGlodricMessage_bounds (m : GMsg) (s : State) (h : Claims.bounds s) : Ends Claims.bounds (execGlodricMessage m s) := by
  simp [execGlodricMessage, h]

@[simp] theorem resend_bounds (p : Nat) (s : State) : Claims.bounds (resend p s) ↔ Claims.bounds s := bounds_foldl_iff (by simp)

@[simp] theorem execGlodricPortWithdrawn_bounds (p : Nat) (s : State) (h : Claims.bounds s) :
    Ends Claims.bounds (execGlodricPortWithdrawn p s) := by
  simp [execGlodricPortWithdrawn, h]

@[simp] theorem execDestinationTimeout_bounds (m : BitVec 17) (s : State) (h : Claims.bounds s) :
    Ends Claims.bounds (execDestinationTimeout m s) := by
  simp [execDestinationTimeout, h]

@[simp] theorem execDomainTableWrite_bounds (t : DomainTable) (s : State) (h : Claims.bounds s) :
    Ends Claims.bounds (execDomainTableWrite t s) := by
  simp [execDomainTableWrite, h]

@[simp] theorem execLinkWithdrawn_bounds (bit : Nat) (s : State) (h : Claims.bounds s) : Ends Claims.bounds (execLinkWithdrawn bit s) := by
  simp [execLinkWithdrawn, h]

/-! ### Handles -/

@[simp] theorem produceH_bounds (h : BitVec 4) (v : BitVec 256) (s : State) : Claims.bounds (produceH h v s) ↔ Claims.bounds s := by
  simp [produceH]

@[simp] theorem hldOp_keeps (f : SH) (s : State) (h : Claims.bounds s) : Keeps id (hldOp f s) := by
  simp +contextual [hldOp, h]

@[simp] theorem hstOp_keeps (f : SH) (s : State) (h : Claims.bounds s) : Keeps id (hstOp f s) := by
  simp +contextual [hstOp, h]

@[simp] theorem hsetOp_keeps (f : SH) (s : State) (h : Claims.bounds s) : Keeps id (hsetOp f s) := by
  simp [hsetOp, h]

@[simp] theorem hgetOp_keeps (f : SH) (s : State) (h : Claims.bounds s) : Keeps id (hgetOp f s) := by
  simp [hgetOp, h]

@[simp] theorem hmovOp_keeps (f : SH) (s : State) (h : Claims.bounds s) : Keeps id (hmovOp f s) := by
  simp [hmovOp, h]

@[simp] theorem pcfgOp_keeps (f : SH) (s : State) (h : Claims.bounds s) : Keeps id (pcfgOp f s) := by
  simp +contextual [pcfgOp, h]

@[simp] theorem psetOp_keeps (f : SH) (s : State) (h : Claims.bounds s) : Keeps id (psetOp f s) := by
  simp [psetOp, h]

@[simp] theorem pgetOp_bounds (f : SH) (s : State) : Claims.bounds (pgetOp f s) ↔ Claims.bounds s := by
  simp [pgetOp]

/-! ### Inbound -/

@[simp] theorem putInbound_bounds (pa : Nat) (data : List Byte) (s : State) (h : Claims.bounds s) : Claims.bounds (putInbound pa data s) := by
  refine bounds_foldl (bounds_foldl h fun u x hu => ?_) (by simp +contextual)
  split
  split
  · exact (wrByte_bounds _ _ u).2 hu
  · exact hu

theorem passRead_bounds (pa n : Nat) (s : State) (h : Claims.bounds s) : Claims.bounds (passRead pa n s).state := by
  unfold passRead
  split
  · exact h
  · extract_lets ls
    split <;> simp [Pass.state, h]

theorem passWrite_bounds (pa : Nat) (data : List Byte) (s : State) (h : Claims.bounds s) : Claims.bounds (passWrite pa data s).state := by
  unfold passWrite
  split
  · simp [Pass.state, h]
  · extract_lets sts
    split
    · refine bounds_foldl (s := s) h fun u r hu => ?_
      split <;> simp [hu]
    · exact putInbound_bounds _ _ s h

theorem passAdd_bounds (pa n fl : Nat) (s : State) (h : Claims.bounds s) : Claims.bounds (passAdd pa n fl s).state := by
  unfold passAdd
  (repeat' split) <;> simp [Pass.state, h]

theorem passReads_bounds : ∀ (l : List Inb) (ws : List Nat) (s : State), Claims.bounds s → Claims.bounds (passReads ws l s).2
  | [], _, _, h => h
  | e :: t, ws, s, h => by
    unfold passReads
    split
    next l pa n =>
      have hr := passRead_bounds pa n s h
      split
      · exact passReads_bounds t ws s h
      · split
        next u he =>
          rw [he] at hr
          exact passReads_bounds t ws u hr
        next u he =>
          rw [he] at hr
          exact passReads_bounds t ws u hr
    next => exact passReads_bounds t _ s h

theorem passWrites_bounds : ∀ (l : List Inb) (s : State), Claims.bounds s → Claims.bounds (passWrites l s).2
  | [], _, h => h
  | e :: t, s, h => by
    unfold passWrites
    extract_lets go
    have hgo (p : Pass) (hp : Claims.bounds p.state) : Claims.bounds (go p).2 := by
      unfold go
      cases p with
      | done u => exact passWrites_bounds t u hp
      | wait u => exact hp
    clear_value go
    split
    · exact hgo _ (passWrite_bounds _ _ s h)
    · exact hgo _ (passAdd_bounds _ _ _ s h)
    · exact passWrites_bounds t s h

@[simp] theorem pump_bounds (s : State) (h : Claims.bounds s) : Claims.bounds (pump s) := by
  unfold pump
  have hw := passReads_bounds (passWrites s.host.inq s).1 [] _ (passWrites_bounds s.host.inq s h)
  rw [← Prod.eta (passWrites _ _)]
  dsimp only
  rw [← Prod.eta (passReads _ _ _)]
  dsimp only
  split
  · exact bounds_iff.2 (bounds_iff.1 hw)
  · exact (again_bounds ..).2 (bounds_iff.2 (bounds_iff.1 hw))

@[simp] theorem enterInb_bounds (e : Inb) (s : State) (h : Claims.bounds s) : Claims.bounds (enterInb e s) := by
  simp +contextual [enterInb, h]

@[simp] theorem execInboundWrite_bounds (link : Nat) (off : BitVec 36) (data : List Byte) (s : State) (h : Claims.bounds s) :
    Ends Claims.bounds (execInboundWrite link off data s) := by
  simp [execInboundWrite, h]

@[simp] theorem execBar2Read_bounds (link : Nat) (off : BitVec 36) (n : Nat) (s : State) (h : Claims.bounds s) :
    Ends Claims.bounds (execBar2Read link off n s) := by
  simp [execBar2Read, h]

@[simp] theorem hostAdd_bounds (n fl : Nat) (s : State) (h : Claims.bounds s) : Claims.bounds (hostAdd n fl s) := by
  simp +contextual [hostAdd, h]

@[simp] theorem execHostCounterAdd_bounds (amt fl : BitVec 32) (s : State) (h : Claims.bounds s) :
    Ends Claims.bounds (execHostCounterAdd amt fl s) := by
  simp [execHostCounterAdd, h]

@[simp] theorem invalidate_bounds (d : Nat) (s : State) (h : Claims.bounds s) : Claims.bounds (invalidate d s) := by
  unfold invalidate
  split
  · exact (record_bounds ..).2 h
  · exact (due_bounds ..).2 (bounds_iff.2 ⟨bounds_core (s := s) h, othersBounds_map (bounds_others h) fun _ hc => hc, bounds_tasks (s := s) h⟩)

@[simp] theorem execInvalidation_bounds (d : BitVec 256) (s : State) (h : Claims.bounds s) : Ends Claims.bounds (execInvalidation d s) := by
  simp [execInvalidation, h]

@[simp] theorem addCnt_bounds (ctr : Nat) (s : State) : Claims.bounds (addCnt ctr s) ↔ Claims.bounds s := by
  unfold addCnt
  split <;> simp

@[simp] theorem execInvalidationDone_bounds (ctr : Nat) (s : State) (h : Claims.bounds s) :
    Ends Claims.bounds (execInvalidationDone ctr s) := by
  unfold execInvalidationDone
  split <;> simp [h]

@[simp] theorem lockPage_bounds (d : Nat) (s : State) : Claims.bounds (lockPage d s) ↔ Claims.bounds s := by
  unfold lockPage
  split <;> simp

@[simp] theorem execPageLock_bounds (d : BitVec 128) (s : State) (h : Claims.bounds s) : Ends Claims.bounds (execPageLock d s) := by
  simp [execPageLock, h]

@[simp] theorem execPageUnlock_bounds (d : BitVec 128) (s : State) (h : Claims.bounds s) : Ends Claims.bounds (execPageUnlock d s) := by
  simp [execPageUnlock, h]

@[simp] theorem execLockDone_bounds (ctr : Nat) (s : State) (h : Claims.bounds s) : Ends Claims.bounds (execLockDone ctr s) := by
  unfold execLockDone
  dsimp only
  (repeat' split) <;> simp [h]

@[simp] theorem setWatch_bounds (i : Nat) (w : Watch) (s : State) : Claims.bounds (setWatch i w s) ↔ Claims.bounds s := by
  simp [setWatch]

@[simp] theorem armWatch_bounds (i : Nat) (w : Watch) (s : State) : Claims.bounds (armWatch i w s) ↔ Claims.bounds s := by
  simp [armWatch]

@[simp] theorem watchWrite_bounds (i : Nat) (w : Word) (s : State) : Claims.bounds (watchWrite i w s) ↔ Claims.bounds s := by
  simp [watchWrite]

@[simp] theorem execCounterWatch_bounds (i : Nat) (w : Word) (s : State) (h : Claims.bounds s) :
    Ends Claims.bounds (execCounterWatch i w s) := by
  simp [execCounterWatch, h]

/-! ### Landings -/

@[simp] theorem landKind_bounds (spad : Bool) (s : State) : Claims.bounds (landKind spad s) ↔ Claims.bounds s := by
  unfold landKind
  dsimp only
  (repeat' split) <;> simp

@[simp] theorem execResultLands_bounds (c : CoreId) (s : State) (h : Claims.bounds s) : Ends Claims.bounds (execResultLands c s) := by
  simp [execResultLands, h]

@[simp] theorem execScratchpadWriteLands_bounds (c : CoreId) (s : State) (h : Claims.bounds s) :
    Ends Claims.bounds (execScratchpadWriteLands c s) := by
  simp [execScratchpadWriteLands, h]

@[simp] theorem landV_bounds (v : VRes) (x : BitVec 256) (s : State) : Claims.bounds (landV v x s) ↔ Claims.bounds s := by
  refine mapSt_bounds fun t => ?_
  dsimp only
  split <;> split <;> simp [setHandle]

@[simp] theorem execVariableLatencyResult_bounds (c : CoreId) (k : Nat) (s : State) (h : Claims.bounds s) :
    Ends Claims.bounds (execVariableLatencyResult c k s) := by
  refine ends_next.2 (atCore_bounds h fun u hu => ?_)
  (repeat' split) <;> simp [hu]

@[simp] theorem landImg_bounds (i : Img) (s : State) (h : Claims.bounds s) : Claims.bounds (landImg i s) := by
  simp +contextual [landImg, h]

@[simp] theorem execImageLanding_bounds (c : CoreId) (k : Nat) (s : State) (h : Claims.bounds s) :
    Ends Claims.bounds (execImageLanding c k s) := by
  refine ends_next.2 (atCore_bounds h fun u hu => ?_)
  split <;> simp [hu]

@[simp] theorem execMatrixEngineExecute_bounds (c : CoreId) (s : State) (h : Claims.bounds s) :
    Ends Claims.bounds (execMatrixEngineExecute c s) := by
  simp +contextual [execMatrixEngineExecute, h]

@[simp] theorem execSplineArrayExecute_bounds (c : CoreId) (s : State) (h : Claims.bounds s) :
    Ends Claims.bounds (execSplineArrayExecute c s) := by
  simp +contextual [execSplineArrayExecute, h]

@[simp] theorem wakePipes_bounds (s : State) : Claims.bounds (wakePipes s) ↔ Claims.bounds s := by
  simp [wakePipes]

@[simp] theorem debugGo_bounds (s : State) : Claims.bounds (debugGo s) ↔ Claims.bounds s := by
  unfold debugGo
  split <;> simp

@[simp] theorem execDebugRestart_bounds (c : CoreId) (s : State) (h : Claims.bounds s) : Ends Claims.bounds (execDebugRestart c s) := by
  simp [execDebugRestart, h]

@[simp] theorem execDbgctlWrite_bounds (c : CoreId) (w : Word) (s : State) (h : Claims.bounds s) :
    Ends Claims.bounds (execDbgctlWrite c w s) := by
  simp +contextual [execDbgctlWrite, h]

/-! ### Lifecycle -/

@[simp] theorem settleForReset_bounds (s : State) (h : Claims.bounds s) : Claims.bounds (settleForReset s) := by
  unfold settleForReset
  extract_lets k u
  have hu : Claims.bounds u := focus_bounds k (bounds_foldl h fun v c hv => finishApplies_bounds 128 _ (focus_bounds c hv))
  refine bounds_foldl hu fun v x hv => ?_
  split <;> simp [hv]

theorem resetCore_bounds (c : Core) : Claims.coreBounds (resetCore c) := coreInit_bounds c.id

theorem othersReset_bounds (cs : List Core) : OthersBounds (cs.map resetCore) :=
  List.forall_mem_map.2 fun c _ => resetCore_bounds c

@[simp] theorem warmReset_bounds (s : State) : Claims.bounds (warmReset s) := by
  unfold warmReset
  exact pump_bounds _ (bounds_iff.2 ⟨resetCore_bounds _, othersReset_bounds _, tasksBounds_nil⟩)

@[simp] theorem execWarmReset_bounds (s : State) : Ends Claims.bounds (execWarmReset s) := by
  simp [execWarmReset]

theorem reset_bounds : Claims.bounds State.reset :=
  bounds_iff.2 ⟨coreInit_bounds _, othersBounds_nil, tasksBounds_nil⟩

@[simp] theorem execColdReset_bounds (s : State) : Ends Claims.bounds (execColdReset s) := by
  unfold execColdReset
  extract_lets up a
  have hu : Claims.bounds up := bounds_iff.2 (bounds_iff.1 reset_bounds)
  exact ends_next.2 (bounds_ite.2 (by split <;> exact bounds_iff.2 (bounds_iff.1 hu)))

@[simp] theorem setPart_bounds (off : Nat) (w : Word) (s : State) : Claims.bounds (setPart off w s) ↔ Claims.bounds s := by
  simp [setPart]

@[simp] theorem msixWrite_bounds (k : Nat) (w : Word) (s : State) : Claims.bounds (msixWrite k w s) ↔ Claims.bounds s := by
  simp [msixWrite]

@[simp] theorem bar0Write_bounds (o : Nat) (w : Word) (s : State) (h : Claims.bounds s) : Ends Claims.bounds (bar0Write o w s) := by
  simp [bar0Write, h]

@[simp] theorem execRegisterWrite_bounds (off : BitVec 16) (w : Word) (s : State) (h : Claims.bounds s) :
    Ends Claims.bounds (execRegisterWrite off w s) := by
  simp [execRegisterWrite, h]

@[simp] theorem byAbavas_bounds {f : State → State} {s : State} (h : Claims.bounds s) (hf : ∀ s, Claims.bounds s → Claims.bounds (f s)) :
    Ends Claims.bounds (byAbavas f s) := by
  simp [byAbavas, h, hf]

@[simp] theorem execAbavasTakeover_bounds (s : State) (h : Claims.bounds s) : Ends Claims.bounds (execAbavasTakeover s) := by
  simp [execAbavasTakeover, h]

@[simp] theorem execThrottling_bounds (s : State) (h : Claims.bounds s) : Ends Claims.bounds (execThrottling s) := by
  simp +contextual [execThrottling, h]

@[simp] theorem execThrottlingEnd_bounds (s : State) (h : Claims.bounds s) : Ends Claims.bounds (execThrottlingEnd s) := by
  simp [execThrottlingEnd, h]

@[simp] theorem execAbavasMailboxMessage_bounds (m : Word) (s : State) (h : Claims.bounds s) :
    Ends Claims.bounds (execAbavasMailboxMessage m s) := by
  simp -implicitDefEqProofs [execAbavasMailboxMessage, h]

@[simp] theorem setOut_bounds (o : SpdmOut) (s : State) : Claims.bounds (setOut o s) ↔ Claims.bounds s := by
  simp [setOut]

@[simp] theorem freeBytes_bounds (n : Nat) (s : State) : Claims.bounds (freeBytes n s).2 ↔ Claims.bounds s := by
  simp [freeBytes]

@[simp] theorem respond_bounds (s : State) : Claims.bounds (respond s) ↔ Claims.bounds s := by
  simp [respond]

@[simp] theorem execGetVersion_bounds (s : State) (h : Claims.bounds s) : Ends Claims.bounds (execGetVersion s) := by
  simp [execGetVersion, h]

@[simp] theorem execGetCapabilities_bounds (s : State) (h : Claims.bounds s) : Ends Claims.bounds (execGetCapabilities s) := by
  simp [execGetCapabilities, h]

@[simp] theorem execNegotiateAlgorithms_bounds (algs : BitVec 64) (s : State) (h : Claims.bounds s) :
    Ends Claims.bounds (execNegotiateAlgorithms algs s) := by
  simp [execNegotiateAlgorithms, h]

@[simp] theorem execGetDigests_bounds (s : State) (h : Claims.bounds s) : Ends Claims.bounds (execGetDigests s) := by
  simp [execGetDigests, h]

@[simp] theorem execGetCertificate_bounds (slot : BitVec 8) (off len : BitVec 16) (s : State) (h : Claims.bounds s) :
    Ends Claims.bounds (execGetCertificate slot off len s) := by
  simp [execGetCertificate, h]

@[simp] theorem execChallenge_bounds (_slot : BitVec 8) (_nonce : BitVec 256) (s : State) (h : Claims.bounds s) :
    Ends Claims.bounds (execChallenge _slot _nonce s) := by
  simp [execChallenge, h]

@[simp] theorem execGetMeasurements_bounds (idx : BitVec 8) (s : State) (h : Claims.bounds s) :
    Ends Claims.bounds (execGetMeasurements idx s) := by
  simp [execGetMeasurements, h]

/-! ### LoadStore -/

@[simp] theorem ldOp_keeps (f : LS) (s : State) (h : Claims.bounds s) : Keeps id (ldOp f s) := by
  simp +contextual [ldOp, h]

@[simp] theorem stOp_keeps (f : LS) (s : State) (h : Claims.bounds s) : Keeps id (stOp f s) := by
  simp +contextual [stOp, h]

@[simp] theorem produceAt_bounds (rd : BitVec 6) (v : Word) (at_ : Nat) (s : State) : Claims.bounds (produceAt rd v at_ s) ↔ Claims.bounds s := by
  simp [produceAt]

@[simp] theorem sldOp_keeps (f : LS) (s : State) (h : Claims.bounds s) : Keeps id (sldOp f s) := by
  simp +contextual [sldOp, h]

@[simp] theorem sstOp_keeps (f : LS) (s : State) (h : Claims.bounds s) : Keeps id (sstOp f s) := by
  simp [sstOp, h]

@[simp] theorem sfeOp_keeps (f : LS) (s : State) (h : Claims.bounds s) : Keeps id (sfeOp f s) := by
  simp [sfeOp, h]

@[simp] theorem dpopOp_keeps (f : LS) (s : State) (h : Claims.bounds s) : Keeps id (dpopOp f s) := by
  simp +contextual [dpopOp, h]

@[simp] theorem tmrdOp_keeps (f : LS) (s : State) (h : Claims.bounds s) : Keeps id (tmrdOp f s) := by
  simp +contextual [tmrdOp, h]

@[simp] theorem wmrdOp_keeps (f : LS) (s : State) (h : Claims.bounds s) : Keeps id (wmrdOp f s) := by
  simp +contextual [wmrdOp, h]

@[simp] theorem prefOp_keeps (f : LS) (s : State) (h : Claims.bounds s) : Keeps id (prefOp f s) := by
  simp [prefOp, h]

@[simp] theorem wmcOp_keeps (f : LS) (s : State) (h : Claims.bounds s) : Keeps id (wmcOp f s) := by
  simp +contextual [wmcOp, h]

/-! ### Matrix -/

@[simp] theorem bankStatus_bounds (bk : Nat) (f : Bank → Bank) (s : State) : Claims.bounds (bankStatus bk f s) ↔ Claims.bounds s := by
  simp [bankStatus]

@[simp] theorem rankOp_keeps (clear block : Bool) (f : MA) (s : State) (h : Claims.bounds s) :
    Keeps id (rankOp clear block f s) := by
  simp +contextual [rankOp, h]

@[simp] theorem clearOp_keeps (op : EOp) (block : Bool) (bk : Nat) (s : State) (h : Claims.bounds s) :
    Keeps id (clearOp op block bk s) := by
  simp [clearOp, h]

@[simp] theorem mdrainOp_keeps (f : MA) (s : State) (h : Claims.bounds s) : Keeps id (mdrainOp f s) := by
  simp [mdrainOp, h]

@[simp] theorem mloadOp_keeps (f : MA) (s : State) (h : Claims.bounds s) : Keeps id (mloadOp f s) := by
  simp +contextual [mloadOp, h]

@[simp] theorem msaveOp_keeps (f : MA) (s : State) (h : Claims.bounds s) : Keeps id (msaveOp f s) := by
  simp [msaveOp, h]

@[simp] theorem mlendOp_keeps (f : MA) (s : State) (h : Claims.bounds s) : Keeps id (mlendOp f s) := by
  simp [mlendOp, h]

@[simp] theorem mreclOp_keeps (f : MA) (s : State) (h : Claims.bounds s) : Keeps id (mreclOp f s) := by
  simp [mreclOp, h]

@[simp] theorem mrealnOp_keeps (f : MA) (s : State) (h : Claims.bounds s) : Keeps id (mrealnOp f s) := by
  simp [mrealnOp, h]

/-! ### Scalar -/

@[simp] theorem alu2_keeps (cls : Nat) (op : Word → Word → Word) (f : SR) (s : State) (h : Claims.bounds s) :
    Keeps id (alu2 cls op f s) := by
  simp [alu2, h]

@[simp] theorem alu1_keeps (op : Word → Word) (f : SR) (s : State) (h : Claims.bounds s) : Keeps id (alu1 op f s) := by
  simp [alu1, h]

@[simp] theorem aluI_keeps (op : Word → Word → Word) (f : SI) (s : State) (h : Claims.bounds s) :
    Keeps id (aluI op f s) := by
  simp [aluI, h]

@[simp] theorem divide_keeps (op : Word → Word → Word) (f : SR) (s : State) (h : Claims.bounds s) :
    Keeps id (divide op f s) := by
  simp [divide, h]

@[simp] theorem selOp_keeps (f : SR) (s : State) (h : Claims.bounds s) : Keeps id (selOp f s) := by
  simp [selOp, h]

@[simp] theorem extOp_keeps (f : SF) (s : State) (h : Claims.bounds s) : Keeps id (extOp f s) := by
  simp [extOp, h]

@[simp] theorem insOp_keeps (f : SF) (s : State) (h : Claims.bounds s) : Keeps id (insOp f s) := by
  simp [insOp, h]

@[simp] theorem leaOp_keeps (f : SL) (s : State) (h : Claims.bounds s) : Keeps id (leaOp f s) := by
  simp [leaOp, h]

/-! ### Spline -/

@[simp] theorem knsetOp_keeps (f : MA) (s : State) (h : Claims.bounds s) : Keeps id (knsetOp f s) := by
  simp [knsetOp, h]

@[simp] theorem kngetOp_bounds (f : MA) (s : State) : Claims.bounds (kngetOp f s) ↔ Claims.bounds s := by
  simp [kngetOp]

@[simp] theorem splldOp_keeps (f : MA) (s : State) (h : Claims.bounds s) : Keeps id (splldOp f s) := by
  simp +contextual [splldOp, h]

@[simp] theorem splstOp_keeps (op : Nat → Nat → Option Nat → SOp) (n : Nat) (f : MA) (s : State) (h : Claims.bounds s) :
    Keeps id (splstOp op n f s) := by
  simp [splstOp, h]

@[simp] theorem src16_keeps (sel : BitVec 6) (ty : Nat) (s : State) (h : Claims.bounds s) :
    Keeps Prod.snd (src16 sel ty s) := by
  simp +contextual [src16, h]

@[simp] theorem splevOp_keeps (f : MA) (s : State) (h : Claims.bounds s) : Keeps id (splevOp f s) := by
  simp +contextual [splevOp, h]

@[simp] theorem splbwdOp_keeps (f : MA) (s : State) (h : Claims.bounds s) : Keeps id (splbwdOp f s) := by
  simp +contextual [splbwdOp, h]

@[simp] theorem splgsOp_keeps (f : MA) (s : State) (h : Claims.bounds s) : Keeps id (splgsOp f s) := by
  simp +contextual [splgsOp, h]

@[simp] theorem splgzOp_keeps (s : State) (h : Claims.bounds s) : Keeps id (splgzOp s) := by
  simp [splgzOp, h]

@[simp] theorem gridrefOp_keeps (s : State) (h : Claims.bounds s) : Keeps id (gridrefOp s) := by
  simp [gridrefOp, h]

@[simp] theorem splcntOp_keeps (f : MA) (s : State) (h : Claims.bounds s) : Keeps id (splcntOp f s) := by
  simp [splcntOp, h]

/-! ### Tiles -/

@[simp] theorem readTile_keeps (t : TileArgs) (s : State) (h : Claims.bounds s) : Keeps Prod.snd (readTile t s) := by
  simp +contextual [readTile, h]

@[simp] theorem issueImg_bounds (off : Nat) (full : Bool) (l : List (Vec × Flags)) (s : State) :
    Claims.bounds (issueImg off full l s) ↔ Claims.bounds s := by
  induction l generalizing off s with
  | nil => exact Iff.rfl
  | cons e t ih =>
    calc Claims.bounds (issueImg off full (e :: t) s)
      _ ↔ _ := ih (off + 64) _
      _ ↔ _ := due_bounds ..
      _ ↔ _ := freeDelay_bounds _
      _ ↔ _ := mapSt_bounds (by simp)
      _ ↔ _ := freshId_bounds s

@[simp] theorem gldOp_keeps (f : LS) (s : State) (h : Claims.bounds s) : Keeps id (gldOp f s) := by
  refine keeps_gather.2 (keeps_bind.2 fun t _ => keeps_bind.2 fun o _ => keeps_bind.2 fun _ _ => keeps_bind.2 fun _ _ =>
    (keeps_bind_state ?_).2 fun r u hu _ => ?_)
  · split
    · simp +contextual [h]
    · simp [h]
  · refine (keeps_bind_state (keeps_liftMem.2 (readTile_keeps _ u hu))).2 fun b v hv _ => keeps_bind.2 fun _ _ => ?_
    dsimp only
    split
    · simp
    · simp [hv]

@[simp] theorem gldrOp_keeps (f : LS) (s : State) (h : Claims.bounds s) : Keeps id (gldrOp f s) := by
  simp +contextual [gldrOp, h]

theorem blockPieces_bounds (wm : Option Nat) (bs : List Blk) (s : State) (h : Claims.bounds s) :
    Claims.bounds (blockPieces wm bs s).2 := by
  induction bs generalizing s with
  | nil => exact h
  | cons b t ih =>
    unfold blockPieces
    split
    next => exact ih s h
    next he => exact ih _ (coreXlate_keeps h _ he)

@[simp] theorem holdTile_keeps (t : TileArgs) (wm : Option Nat) (hist : Option (Nat × List Nat)) (bs : List Blk)
    (s : State) (h : Claims.bounds s) : Keeps id (holdTile t wm hist bs s) := by
  unfold holdTile
  extract_lets bs extra
  have hb := blockPieces_bounds wm bs s h
  split
  rename_i hp
  rw [hp] at hb
  split
  · simp
  · exact setHeld_keeps _ _ hb

@[simp] theorem gstOp_keeps (f : LS) (s : State) (h : Claims.bounds s) : Keeps id (gstOp f s) := by
  refine keeps_gather.2 (keeps_bind.2 fun t _ => keeps_bind.2 fun _ _ =>
    (keeps_bind_state ?_).2 fun r u hu _ => keeps_bind.2 fun _ _ => (keeps_bind_state (srcVec_keeps _ _ u hu)).2 fun v w hw _ => ?_)
  · split
    · simp +contextual [h]
    · simp [h]
  · dsimp only
    refine (keeps_bind_self (holdTile_keeps _ _ _ _ _ (by simp [hw]))).2 fun x hx _ => ?_
    simp [hx]

@[simp] theorem gstrOp_keeps (f : LS) (s : State) (h : Claims.bounds s) : Keeps id (gstrOp f s) := by
  refine keeps_gather.2 (keeps_bind.2 fun t _ => keeps_bind.2 fun _ _ =>
    (keeps_bind_state ?_).2 fun r u hu _ => keeps_bind.2 fun _ _ => (keeps_bind_state (srcVec_keeps _ _ u hu)).2 fun v w hw _ =>
      holdTile_keeps _ _ _ _ w hw)
  split
  · simp +contextual [h]
  · simp [h]

/-! ### Bundle -/

@[simp] theorem doEnd_bounds (s : State) (e : EndAct) : Claims.bounds (doEnd s e) ↔ Claims.bounds s := by
  cases e with
  | syswr n v =>
    unfold doEnd
    dsimp only
    split
    case h_2 =>
      refine mapSt_bounds fun t => ?_
      split <;> simp
    all_goals simp
  | produce v =>
    refine mapSt_bounds fun t => ?_
    dsimp only
    split
    · split <;> simp
    · simp
  | pcfg | pset | knset | clear | flags => simp [doEnd]

/-- The loop test takes loops from the stack and puts none on it (01 R88). -/
theorem loopTest_loops (at_ next : BPc) (n : Nat) (a : Arch) : (loopTest at_ next n a).2.loops.length ≤ a.loops.length := by
  induction n generalizing a with
  | zero => exact le_rfl
  | succ n ih =>
    unfold loopTest
    split
    next => exact le_rfl
    next e rest he =>
      rw [he]
      (repeat' split)
      · exact (ih _).trans (Nat.le_succ _)
      · exact le_rfl
      · exact he ▸ le_rfl

theorem nextPc_loops (nx : Nxt) (a : Arch) : (nextPc nx a).2.loops.length ≤ a.loops.length := by
  cases nx with
  | take t => exact le_rfl
  | brk e | skip e | inSeq => exact loopTest_loops ..

@[simp] theorem finishBundle_bounds (s : State) (h : Claims.bounds s) : Claims.bounds (finishBundle s) := by
  unfold finishBundle
  extract_lets c u v w x y
  have hu : Claims.bounds u := (orFlags_bounds ..).2 ((bounds_foldl_iff doEnd_bounds).2 (firstBundle_bounds s h))
  have hv : Claims.bounds v := by
    refine mapSt_keeps hu ?_
    have hl := (nextPc_loops c.nxt u.core.st.a).trans (bounds_loops hu)
    dsimp only
    split <;> simp [hl, hu]
  have hw : Claims.bounds w := (mapCore_bounds (by simp)).2 hv
  clear_value w
  have hx : Claims.bounds x := by
    unfold x
    split <;> simp [hw]
  clear_value x
  have hy : Claims.bounds y := by
    unfold y
    split <;> simp [hx]
  exact hy

@[simp] theorem fetchBundle_keeps (s : State) (h : Claims.bounds s) : Keeps Prod.snd (fetchBundle s) := by
  simp +contextual [fetchBundle, h]

@[simp] theorem idleTurn_bounds (s : State) (h : Claims.bounds s) : Claims.bounds (idleTurn s) := by
  simp +contextual [idleTurn, h]

/-! ### Instructions, events and steps -/

/-- An issue keeps the bounds when its effect does: a wait marks the bundle only, and a trap rolls the region back. -/
theorem issue_keeps {s : State} {r : Res State} (h : Claims.bounds s) (hr : Keeps id r) : Ends Claims.bounds (issue s r) := by
  rw [issue_eq]
  rcases close_cases finishSaves s r with ⟨t, ht, e⟩ | ⟨-, e⟩ | ⟨_, -, e⟩ | ⟨-, e⟩ | ⟨c, -, e⟩ <;> rw [e, ends_next]
  · exact hr t ht
  · exact h
  · exact bounds_iff.2 (bounds_iff.1 h)
  · exact h
  · exact takeTrap_bounds c h

/-- Every slot instruction keeps the bounds as it issues (01 R17, R23). -/
theorem exec_slot_bounds {i : Instr} {k : Nat} {s : State} (h : Claims.bounds s) (hi : i.slot = some k) :
    Ends Claims.bounds (exec i s) := by
  cases i with
  | add f | sub f | mul f | mulh f | mulhu f | and f | or f | xor f | shl f | shr f | sar f | min f | max f | minu f
  | maxu f | ceq f | cne f | clt f | cle f | cltu f | cleu f => exact issue_keeps h (alu2_keeps _ _ _ _ h)
  | div f | divu f | rem f | remu f => exact issue_keeps h (divide_keeps _ _ _ h)
  | clz f | popc f => exact issue_keeps h (alu1_keeps _ _ _ h)
  | sel f => exact issue_keeps h (selOp_keeps _ _ h)
  | addi f | andi f | ori f | xori f | shli f | shri f | sari f | movhi f | ceqi f | clti f => exact issue_keeps h (aluI_keeps _ _ _ h)
  | movi f => exact ends_next.2 ((writeS_bounds ..).2 h)
  | jmp f => exact ends_next.2 ((takeJump_bounds ..).2 h)
  | call f => exact ends_next.2 ((callOp_bounds ..).2 h)
  | halt => exact ends_next.2 ((mapCtx_bounds ..).2 h)
  | spld f => exact ends_next.2 ((spldOp_bounds ..).2 h)
  | sysrd f => exact ends_next.2 ((sysrdOp_bounds ..).2 h)
  | capq f => exact ends_next.2 ((capqOp_bounds ..).2 h)
  | pget f => exact ends_next.2 ((pgetOp_bounds ..).2 h)
  | knget f => exact ends_next.2 ((kngetOp_bounds ..).2 h)
  | yield => exact ends_next.2 ((mapCtx_bounds ..).2 h)
  | lea f => exact issue_keeps h (leaOp_keeps _ _ h)
  | ext f => exact issue_keeps h (extOp_keeps _ _ h)
  | ins f => exact issue_keeps h (insOp_keeps _ _ h)
  | br f | brZ f => exact issue_keeps h (branchIf_keeps _ _ _ h)
  | jr f => exact issue_keeps h (jrOp_keeps _ _ h)
  | loop f => exact issue_keeps h (loopOp_keeps _ _ h)
  | loopi f => exact issue_keeps h (pushLoop_keeps _ _ _ h)
  | lbrk => exact issue_keeps h (lbrkOp_keeps _ h)
  | lidx f => exact issue_keeps h (lidxOp_keeps _ _ h)
  | trap f => exact issue_keeps h (keeps_raise _ _ _ _)
  | eret => exact issue_keeps h (eretOp_keeps _ h)
  | spst f => exact issue_keeps h (spstOp_keeps _ _ h)
  | syswr f => exact issue_keeps h (syswrOp_keeps _ _ h)
  | hld f => exact issue_keeps h (hldOp_keeps _ _ h)
  | hst f => exact issue_keeps h (hstOp_keeps _ _ h)
  | hset f => exact issue_keeps h (hsetOp_keeps _ _ h)
  | hget f => exact issue_keeps h (hgetOp_keeps _ _ h)
  | hmov f => exact issue_keeps h (hmovOp_keeps _ _ h)
  | pcfg f => exact issue_keeps h (pcfgOp_keeps _ _ h)
  | pset f => exact issue_keeps h (psetOp_keeps _ _ h)
  | vadd f | vsub f | vmul f | vmax f | vmin f => exact issue_keeps h (arith2_keeps _ _ _ _ _ h)
  | vfma f | vfms f => exact issue_keeps h (arith3_keeps _ _ _ h)
  | vabs f | vneg f => exact issue_keeps h (arith1_keeps _ _ _ _ h)
  | vrcp f | vrsq f | vexp2 f | vlog2 f | vtanh f => exact issue_keeps h (trans_keeps _ _ _ h)
  | vand f | vor f | vxor f => exact issue_keeps h (bitOp_keeps _ _ _ h)
  | vshl f | vshr f | vsar f => exact issue_keeps h (shiftOp_keeps _ _ _ h)
  | vceq f | vclt f | vcle f => exact issue_keeps h (cmpOp_keeps _ _ _ _ h)
  | vsel f => exact issue_keeps h (vselOp_keeps _ _ h)
  | vcvt f => exact issue_keeps h (vcvtOp_keeps _ _ h)
  | vqnt f => exact issue_keeps h (vqntOp_keeps _ _ h)
  | vdq f => exact issue_keeps h (vdqOp_keeps _ _ h)
  | vsrnd f => exact issue_keeps h (vsrndOp_keeps _ _ h)
  | vscal f => exact issue_keeps h (vscalOp_keeps _ _ h)
  | vredsum f | vredmax f | vredmin f => exact issue_keeps h (redOp_keeps _ _ _ _ h)
  | vbcast f => exact issue_keeps h (vbcastOp_keeps _ _ h)
  | vextr f => exact issue_keeps h (vextrOp_keeps _ _ h)
  | vperm f => exact issue_keeps h (vpermOp_keeps _ _ h)
  | vmov f => exact issue_keeps h (vmovOp_keeps _ _ h)
  | vzero f => exact issue_keeps h (vzeroOp_keeps _ _ h)
  | vacc f | vaccw f => exact issue_keeps h (vaccOp_keeps _ _ _ h)
  | vadam f => exact issue_keeps h (vadamOp_keeps _ _ h)
  | vsgdm f => exact issue_keeps h (vsgdmOp_keeps _ _ h)
  | vbfpn f => exact issue_keeps h (vbfpnOp_keeps _ _ h)
  | mop f | mmac f | mbfp f => exact issue_keeps h (rankOp_keeps _ _ _ _ h)
  | mzero f | mcfg f => exact issue_keeps h (clearOp_keeps _ _ _ _ h)
  | mdrain f => exact issue_keeps h (mdrainOp_keeps _ _ h)
  | mload f => exact issue_keeps h (mloadOp_keeps _ _ h)
  | msave f => exact issue_keeps h (msaveOp_keeps _ _ h)
  | mlend f => exact issue_keeps h (mlendOp_keeps _ _ h)
  | mrecl f => exact issue_keeps h (mreclOp_keeps _ _ h)
  | mrealn f => exact issue_keeps h (mrealnOp_keeps _ _ h)
  | knset f => exact issue_keeps h (knsetOp_keeps _ _ h)
  | splld f => exact issue_keeps h (splldOp_keeps _ _ h)
  | splst f | splgx f => exact issue_keeps h (splstOp_keeps _ _ _ _ h)
  | splev f => exact issue_keeps h (splevOp_keeps _ _ h)
  | splbwd f => exact issue_keeps h (splbwdOp_keeps _ _ h)
  | splgs f => exact issue_keeps h (splgsOp_keeps _ _ h)
  | splgz => exact issue_keeps h (splgzOp_keeps _ h)
  | gridref => exact issue_keeps h (gridrefOp_keeps _ h)
  | splcnt f => exact issue_keeps h (splcntOp_keeps _ _ h)
  | ld f => exact issue_keeps h (ldOp_keeps _ _ h)
  | sld f => exact issue_keeps h (sldOp_keeps _ _ h)
  | gld f => exact issue_keeps h (gldOp_keeps _ _ h)
  | gldr f => exact issue_keeps h (gldrOp_keeps _ _ h)
  | tmrd f => exact issue_keeps h (tmrdOp_keeps _ _ h)
  | wmrd f => exact issue_keeps h (wmrdOp_keeps _ _ h)
  | pref f => exact issue_keeps h (prefOp_keeps _ _ h)
  | st f => exact issue_keeps h (stOp_keeps _ _ h)
  | sst f => exact issue_keeps h (sstOp_keeps _ _ h)
  | gst f => exact issue_keeps h (gstOp_keeps _ _ h)
  | gstr f => exact issue_keeps h (gstrOp_keeps _ _ h)
  | sfe f => exact issue_keeps h (sfeOp_keeps _ _ h)
  | wmc f => exact issue_keeps h (wmcOp_keeps _ _ h)
  | dpop f => exact issue_keeps h (dpopOp_keeps _ _ h)
  | cpy f | cpyg f | cpys f | cpyx f | cpyo f => exact issue_keeps h (cpyOp_keeps _ _ _ _ _ h)
  | cpy2 f => exact issue_keeps h (cpy2Op_keeps _ _ h)
  | cpyr f => exact issue_keeps h (cpyrOp_keeps _ _ h)
  | cpyq f => exact issue_keeps h (cpyqOp_keeps _ _ h)
  | cpyk f => exact issue_keeps h (cpykOp_keeps _ _ h)
  | cadd f | cflg f => exact issue_keeps h (heldCtr_keeps _ _ _ h)
  | caddi f => exact issue_keeps h (caddiOp_keeps _ _ h)
  | cwait f => exact issue_keeps h (cwaitOp_keeps _ _ h)
  | crd f => exact issue_keeps h (crdOp_keeps _ _ h)
  | cceil f => exact issue_keeps h (cceilOp_keeps _ _ h)
  | amadd f | amax f | amin f | aswp f | acas f | aand f | aor f | afadd f => exact issue_keeps h (atomicOp_keeps _ _ _ h)
  | barr f => exact issue_keeps h (barrOp_keeps _ _ h)
  | bwait f => exact issue_keeps h (bwaitOp_keeps _ _ h)
  | barq f => exact issue_keeps h (barqOp_keeps _ _ h)
  | tmopn f | tmcls f | tmflt f => exact issue_keeps h (tmHeld_keeps _ _ _ h)
  | tmgov f => exact issue_keeps h (tmgovOp_keeps _ _ h)
  | tmset f => exact issue_keeps h (tmsetOp_keeps _ _ h)
  | spawn f => exact issue_keeps h (spawnOp_keeps _ _ h)
  | route f => exact issue_keeps h (routeOp_keeps _ _ h)
  | rtver f => exact issue_keeps ((rtverKeeps_bounds f s).2 h) (rtverOp_keeps f s h)
  | wgl f => exact issue_keeps h (wglOp_keeps _ _ h)
  | wglq f => exact issue_keeps h (wglqOp_keeps _ _ h)
  | wglk f => exact issue_keeps h (wglkOp_keeps _ _ h)
  | _ => exact nomatch hi

/-- Every instruction, event and step of a collective keeps the bounds. -/
theorem exec_bounds (i : Instr) (s : State) (h : Claims.bounds s) : Ends Claims.bounds (exec i s) := by
  cases hi : i.slot with
  | some k => exact exec_slot_bounds h hi
  | none =>
    cases i with
    | checkpoint => exact execCheckpoint_bounds s h
    | orderedBundle => exact execOrderedBundle_bounds s h
    | breakpoint => exact execBreakpoint_bounds s h
    | resultLands c => exact execResultLands_bounds c s h
    | variableLatencyResult c k => exact execVariableLatencyResult_bounds c k s h
    | scratchpadWriteLands c => exact execScratchpadWriteLands_bounds c s h
    | imageLanding c k => exact execImageLanding_bounds c k s h
    | multicastLanding k => exact execMulticastLanding_bounds k s h
    | matrixEngineExecute c => exact execMatrixEngineExecute_bounds c s h
    | splineArrayExecute c => exact execSplineArrayExecute_bounds c s h
    | debugRestart c => exact execDebugRestart_bounds c s h
    | grant c line => exact execGrant_bounds c line s h
    | reserve c home => exact execReserve_bounds c home s h
    | renew c line => exact execRenew_bounds c line s h
    | apply c home => exact execApply_bounds c home s h
    | pinTokenGrant => exact execPinTokenGrant_bounds s h
    | stampRaise home => exact execStampRaise_bounds home s h
    | applyAdd ctr va n fl src t => exact execApplyAdd_bounds ctr va n fl src t s h
    | applyCflg ctr b t => exact execApplyCflg_bounds ctr b t s h
    | applyCeil ctr va v src t => exact execApplyCeil_bounds ctr va v src t s h
    | cwaitWake c flags t => exact execCwaitWake_bounds c flags t s h
    | barrierArrival c seg t => exact execBarrierArrival_bounds c seg t s h
    | bwaitReturn c => exact execBwaitReturn_bounds c s h
    | copyLaunchAccept cl => exact execCopyLaunchAccept_bounds cl s h
    | copyPiece op k => exact execCopyPiece_bounds op k s h
    | deltaFlush c slot => exact execDeltaFlush_bounds c slot s h
    | flushRequest c rec => exact execFlushRequest_bounds c rec s h
    | closePublication rec => exact execClosePublication_bounds rec s h
    | launch root => exact execLaunch_bounds root s h
    | schedulerRound => exact execSchedulerRound_bounds s h
    | descriptorFetch rnum => exact execDescriptorFetch_bounds rnum s h
    | dependencyMet tser k flags => exact execDependencyMet_bounds tser k flags s h
    | quantumExpiry tser gix => exact execQuantumExpiry_bounds tser gix s h
    | taskComplete tser => exact execTaskComplete_bounds tser s h
    | faultReport r => exact execFaultReport_bounds r s h
    | migrateTrapReceipt c => exact execMigrateTrapReceipt_bounds c s h
    | spawnAppend rcb desc tser t => exact execSpawnAppend_bounds rcb desc tser t s h
    | schedulerTakeover => exact execSchedulerTakeover_bounds s h
    | dieFault die => exact execDieFault_bounds die s h
    | coreWithdrawn c => exact execCoreWithdrawn_bounds c s h
    | routeChoice k => exact execRouteChoice_bounds k s h
    | routeDelivery k => exact execRouteDelivery_bounds k s h
    | routedAdd k => exact execRoutedAdd_bounds k s h
    | swarmSample tab => exact execSwarmSample_bounds tab s h
    | replicaCopyDone sw => exact execReplicaCopyDone_bounds sw s h
    | replicaCopyStop sw => exact execReplicaCopyStop_bounds sw s h
    | redirection sw => exact execRedirection_bounds sw s h
    | replicaLoss tab e r => exact execReplicaLoss_bounds tab e r s h
    | replica0Loss tab e => exact execReplica0Loss_bounds tab e s h
    | gradientMerge tab => exact execGradientMerge_bounds tab s h
    | waggleLaunch k => exact execWaggleLaunch_bounds k s h
    | signatureAgreement k => exact execSignatureAgreement_bounds k s h
    | wsend f => exact execWsend_bounds f s h
    | wrecv f => exact execWrecv_bounds f s h
    | wrrs f => exact execWrrs_bounds f s h
    | wcopy f => exact execWcopy_bounds f s h
    | wwait thr => exact execWwait_bounds thr s h
    | wsig n => exact execWsig_bounds n s h
    | wloop cnt => exact execWloop_bounds cnt s h
    | wendl => exact execWendl_bounds s h
    | wagree buf off => exact execWagree_bounds buf off s h
    | wflags => exact execWflags_bounds s h
    | wend => exact execWend_bounds s h
    | chunkArrival m => exact execChunkArrival_bounds m s h
    | switchSlotLoss k inst chunk => exact execSwitchSlotLoss_bounds k inst chunk s h
    | waggleAbort tag launch poison => exact execWaggleAbort_bounds tag launch poison s h
    | glodricMessage m => exact execGlodricMessage_bounds m s h
    | glodricPortWithdrawn p => exact execGlodricPortWithdrawn_bounds p s h
    | destinationTimeout m => exact execDestinationTimeout_bounds m s h
    | linkWithdrawn bit => exact execLinkWithdrawn_bounds bit s h
    | bisnpinv line => exact execBisnpinv_bounds line s h
    | bisnpdata line => exact execBisnpdata_bounds line s h
    | bisnpcur line => exact execBisnpcur_bounds line s h
    | snoopPinTimeout line => exact execSnoopPinTimeout_bounds line s h
    | memrdCompletion line r => exact execMemrdCompletion_bounds line r s h
    | memwrCompletion line refused => exact execMemwrCompletion_bounds line refused s h
    | cxlPortDown p => exact execCxlPortDown_bounds p s h
    | linePoisoned line => exact execLinePoisoned_bounds line s h
    | combSramError home => exact execCombSramError_bounds home s h
    | inboundWrite link off data => exact execInboundWrite_bounds link off data s h
    | bar2Read link off n => exact execBar2Read_bounds link off n s h
    | hostCounterAdd amt fl => exact execHostCounterAdd_bounds amt fl s h
    | invalidation d => exact execInvalidation_bounds d s h
    | invalidationDone ctr => exact execInvalidationDone_bounds ctr s h
    | pageLock d => exact execPageLock_bounds d s h
    | pageUnlock d => exact execPageUnlock_bounds d s h
    | lockDone ctr => exact execLockDone_bounds ctr s h
    | counterWatch idx w => exact execCounterWatch_bounds idx w s h
    | registerWrite off w => exact execRegisterWrite_bounds off w s h
    | warmReset => exact execWarmReset_bounds s
    | coldReset => exact execColdReset_bounds s
    | abavasTakeover => exact execAbavasTakeover_bounds s h
    | throttling => exact execThrottling_bounds s h
    | getVersion => exact execGetVersion_bounds s h
    | getCapabilities => exact execGetCapabilities_bounds s h
    | negotiateAlgorithms algs => exact execNegotiateAlgorithms_bounds algs s h
    | getDigests => exact execGetDigests_bounds s h
    | getCertificate slot off len => exact execGetCertificate_bounds slot off len s h
    | challenge slot nonce => exact execChallenge_bounds slot nonce s h
    | getMeasurements idx => exact execGetMeasurements_bounds idx s h
    | dbgctlWrite c w => exact execDbgctlWrite_bounds c w s h
    | domainTableWrite t => exact execDomainTableWrite_bounds t s h
    | cxlPortReturnToService p => exact execCxlPortReturnToService_bounds p s h
    | throttlingEnd => exact execThrottlingEnd_bounds s h
    | abavasMailboxMessage m => exact execAbavasMailboxMessage_bounds m s h
    | meminvCompletion line => exact execMeminvCompletion_bounds line s h
    | _ => exact nomatch hi

/-- A result of the issue of a bundle, a state handed on or the outcome that ends the issue, is within the bounds. -/
def BoundsOn {β : Type} (st : β → State) : Except (Host.Outcome State Fault Refusal) β → Prop
  | .ok b => Claims.bounds (st b)
  | .error o => Ends Claims.bounds o

theorem runSlot_bounds {r : SlotRun} (k : Nat) (w : Word) (i : Instr) (h : Claims.bounds r.cur) : BoundsOn SlotRun.cur (runSlot r k w i) := by
  have he := exec_bounds i (mapCtx (fun c => { c with slot := k, syl := w }) r.cur) h
  unfold runSlot
  split
  next t ht =>
    rw [ht, ends_next] at he
    split
    · exact h
    split
    · exact h
    split
    · exact h
    · exact he
  next => exact he

theorem runSlots_bounds (b : Vec) (l : List (Nat × Instr)) {r : SlotRun} (h : Claims.bounds r.cur) :
    BoundsOn SlotRun.cur (runSlots b l r) := by
  induction l generalizing r with
  | nil => exact h
  | cons e t ih =>
    have hr := runSlot_bounds e.1 (sylOf b e.1) e.2 h
    unfold runSlots
    split
    next u hu =>
      rw [hu] at hr
      exact ih hr
    next o ho =>
      rw [ho] at hr
      exact hr

theorem issueSlots_bounds (b : Vec) (slots : List (Nat × Instr)) {pre s : State} (hp : Claims.bounds pre) (h : Claims.bounds s) :
    Ends Claims.bounds (issueSlots b slots pre s) := by
  have hr := runSlots_bounds b slots (r := ⟨s, none, false, false, s.ptx⟩) h
  unfold issueSlots
  split
  next e =>
    rw [e] at hr
    exact hr
  next r e =>
    rw [e] at hr
    extract_lets done pre best
    have hp : Claims.bounds pre := bounds_iff.2 (bounds_iff.1 hp)
    clear_value pre best
    split
    · exact ends_next.2 hp
    split
    · exact ends_next.2 (by simpa [done] using rollbackPinned_bounds hp)
    split
    · exact ends_next.2 (by simpa [done] using takeTrap_bounds _ hp)
    · exact ends_next.2 (finishBundle_bounds _ ((mapSt_bounds (by simp)).2 hr))

theorem flagRow_bounds (want : Bool) (i : Instr) {s : State} (h : Claims.bounds s) : BoundsOn id (flagRow want i s) := by
  have he := exec_bounds i s h
  unfold flagRow
  split
  · exact h
  split
  next e =>
    rw [e, ends_next] at he
    split
    · exact ends_next.2 he
    · exact he
  next => exact he

theorem issueLegal_bounds (b : Vec) (flags : BitVec 4) (slots : List (Nat × Instr)) {s : State} (h : Claims.bounds s) :
    Ends Claims.bounds (issueLegal b flags slots s) := by
  unfold issueLegal
  extract_lets own
  have h1 := flagRow_bounds ((flags.getLsbD 3 || own) && !s.core.st.ckDone) .checkpoint h
  split
  next e =>
    rw [e] at h1
    exact h1
  next t e =>
    rw [e] at h1
    have h2 := flagRow_bounds (flags.getLsbD 2) .orderedBundle h1
    split
    next e =>
      rw [id, e] at h2
      exact h2
    next pre e =>
      rw [id, e] at h2
      have h3 := flagRow_bounds (flags.getLsbD 1) .breakpoint h2
      split
      next e =>
        rw [id, e] at h3
        exact h3
      next e =>
        rw [id, e] at h3
        exact issueSlots_bounds b slots h2 h3

theorem issueFetched_bounds (b : Vec) {s : State} (h : Claims.bounds s) : Ends Claims.bounds (issueFetched b s) := by
  unfold issueFetched
  extract_lets trapAt
  have ht (c : Cause) : Ends Claims.bounds (trapAt c) := ends_next.2 (by simpa using takeTrap_bounds c h)
  clear_value trapAt
  (repeat' split)
  · exact ht _
  · exact ht _
  · exact ht _
  · exact issueLegal_bounds b _ _ h

theorem issueBundle_bounds {s : State} (h : Claims.bounds s) : Ends Claims.bounds (issueBundle s) := by
  unfold issueBundle
  split
  · simp [h]
  · extract_lets c u
    have hu : Claims.bounds u := by simpa [u] using h
    clear_value u
    split
    · simp [hu]
    · exact ends_next.2 (by simp [fetchTrap_bounds, hu])
    next e => exact issueFetched_bounds _ (fetchBundle_keeps u hu _ e)

theorem runDue_bounds (d : Due) {s : State} (h : Claims.bounds s) : Ends Claims.bounds (runDue d s) :=
  ends_ite.2 ⟨fun _ => ends_next.2 h, fun _ => exec_bounds _ _ h⟩

theorem collTurn_bounds (tag : Nat) {s : State} (h : Claims.bounds s) : Ends Claims.bounds (collTurn tag s) := by
  unfold collTurn
  split
  · simp [h]
  split
  · simp [h]
  split
  · exact ends_ite.2 ⟨fun _ => exec_bounds _ _ h, fun _ => ends_next.2 h⟩
  · simp [h]

theorem step_bounds {s : State} (h : Claims.bounds s) : Ends Claims.bounds (step s) := by
  unfold step
  split
  · exact runDue_bounds _ h
  split
  · exact issueBundle_bounds (focus_bounds _ (bounds_iff.2 (bounds_iff.1 h)))
  split
  · exact collTurn_bounds _ h
  · exact ends_next.2 h

/-- Settles O58: a step changes loop stacks, RETRY, held pieces and splits only through the operations that bound them: `loop` against six
levels (01 R17), the store-hold buffer against 128 pieces (01 R23), the retry count against pinned mode at 3 (01 R28), and a core's split by a
2-bit field of the code header (10 R246); what parks and returns with a gang is a strand that a core has held. -/
theorem boundsKept : Obligations.BoundsKept :=
  fun _ t h e => step_bounds h t e

end Sys2Proof.Machine
end

section
/-! SUPPORT. Every instruction and every step answers a next state (O59): an issue and an event choose between next states, and a step runs one
of them at most. -/
namespace Sys2Proof.Machine

/-- The outcome is a next state: neither a fault of the model nor a refusal of it. -/
def Answers (o : Host.Outcome State Fault Refusal) : Prop := ∃ t, o = .next t

theorem answers_next (t : State) : Answers (.next t) := ⟨t, rfl⟩

theorem answers_issue (s : State) (r : Res State) : Answers (issue s r) := issue_next s r

theorem answers_onStep (f : Coll → State → State) (s : State) : Answers (onStep f s) := by
  unfold onStep
  split <;> exact answers_next _

theorem answers_ite {p : Prop} [Decidable p] {a b : Host.Outcome State Fault Refusal} (ha : Answers a) (hb : Answers b) :
    Answers (if p then a else b) := by
  split <;> assumption

theorem execLaunch_answers (root : Word) (s : State) : Answers (execLaunch root s) :=
  answers_ite (answers_next _) (answers_ite (answers_next _) (answers_ite (answers_next _) (answers_next _)))

/-- Each register's write is a next state; only the write of ROOT goes on to an event. -/
theorem bar0Write_answers (o : Nat) (w : Word) (s : State) : Answers (bar0Write o w s) := by
  refine answers_ite (execLaunch_answers w s) ?_
  iterate 9 refine answers_ite (answers_next _) ?_
  exact answers_next _

/-- A slot instruction issues, a step of a collective runs at the collective's turn, and an event chooses between next states. -/
theorem exec_answers (i : Instr) (s : State) : Answers (exec i s) := by
  cases i with
  | add | sub | mul | mulh | mulhu | and | or | xor | shl | shr | sar | min | max | minu | maxu | ceq | cne | clt | cle | cltu
  | cleu | div | divu | rem | remu | clz | popc | sel | addi | andi | ori | xori | shli | shri | sari | movhi | ceqi | clti | lea
  | ext | ins | br | brZ | jr | loop | loopi | lbrk | lidx | eret | spst | syswr | hld | hst | hset | hget | hmov | pcfg | pset
  | vadd | vsub | vmul | vmax | vmin | vfma | vfms | vabs | vneg | vrcp | vrsq | vexp2 | vlog2 | vtanh | vand | vor | vxor | vshl
  | vshr | vsar | vceq | vclt | vcle | vsel | vcvt | vqnt | vdq | vsrnd | vscal | vredsum | vredmax | vredmin | vbcast | vextr
  | vperm | vmov | vzero | vacc | vaccw | vadam | vsgdm | vbfpn | mop | mmac | mbfp | mzero | mcfg | mdrain | mload | msave
  | mlend | mrecl | mrealn | knset | splld | splst | splgx | splev | splbwd | splgs | splgz | gridref | splcnt | ld | sld | gld
  | gldr | tmrd | wmrd | pref | st | sst | gst | gstr | sfe | wmc | dpop | cpy | cpyg | cpys | cpyx | cpyo | cpy2 | cpyr | cpyq
  | cpyk | cadd | cflg | caddi | cwait | crd | cceil | amadd | amax | amin | aswp | acas | aand | aor | afadd | barr | bwait
  | barq | tmopn | tmcls | tmflt | tmgov | tmset | spawn | route | wgl | wglq | wglk => exact answers_issue s _
  | rtver f => exact answers_issue _ _
  | wsend | wrecv | wrrs | wcopy | wwait | wsig | wloop | wendl | wagree | wflags | wend => exact answers_onStep _ s
  | launch root => exact execLaunch_answers root s
  | registerWrite off w => exact answers_ite (bar0Write_answers _ w s) (answers_next s)
  | movi | jmp | call | halt | spld | sysrd | capq | pget | knget | yield | trap | orderedBundle | resultLands
  | variableLatencyResult | scratchpadWriteLands | imageLanding | multicastLanding | matrixEngineExecute | splineArrayExecute
  | debugRestart | grant | reserve | renew | apply | stampRaise | applyAdd | applyCflg | applyCeil | barrierArrival | replicaLoss
  | replica0Loss | glodricMessage | glodricPortWithdrawn | bisnpinv | bisnpdata | bisnpcur | linePoisoned | combSramError
  | inboundWrite | bar2Read | hostCounterAdd | invalidation | pageLock | pageUnlock | counterWatch | warmReset | coldReset
  | abavasTakeover | throttling | getVersion | getCapabilities | negotiateAlgorithms | getDigests | getCertificate | challenge
  | getMeasurements | dbgctlWrite | domainTableWrite | throttlingEnd | abavasMailboxMessage => exact answers_next _
  | checkpoint | breakpoint | pinTokenGrant | cwaitWake | bwaitReturn | copyLaunchAccept | copyPiece | deltaFlush | flushRequest
  | closePublication | schedulerRound | descriptorFetch | dependencyMet | quantumExpiry | taskComplete | faultReport
  | migrateTrapReceipt | spawnAppend | schedulerTakeover | dieFault | coreWithdrawn | routeChoice | routeDelivery | routedAdd
  | swarmSample | replicaCopyDone | replicaCopyStop | redirection | gradientMerge | waggleLaunch | signatureAgreement
  | chunkArrival | switchSlotLoss | waggleAbort | destinationTimeout | linkWithdrawn | snoopPinTimeout | memrdCompletion
  | memwrCompletion | cxlPortDown | invalidationDone | lockDone | cxlPortReturnToService | meminvCompletion =>
    simp only [exec, execCheckpoint, execBreakpoint, execPinTokenGrant, execCwaitWake, execBwaitReturn, execCopyLaunchAccept, execCopyPiece,
      execDeltaFlush, execFlushRequest, execClosePublication, execSchedulerRound, execDescriptorFetch, execDependencyMet,
      execQuantumExpiry, execTaskComplete, execFaultReport, execMigrateTrapReceipt, execSpawnAppend, execSchedulerTakeover,
      execDieFault, execCoreWithdrawn, execRouteChoice, execRouteDelivery, execRoutedAdd, execSwarmSample, execReplicaCopyDone,
      execReplicaCopyStop, execRedirection, execGradientMerge, execWaggleLaunch, execSignatureAgreement, execChunkArrival,
      execSwitchSlotLoss, execWaggleAbort, execDestinationTimeout, execLinkWithdrawn, execSnoopPinTimeout, execMemrdCompletion,
      execMemwrCompletion, execCxlPortDown, execInvalidationDone, execLockDone, execCxlPortReturnToService, execMeminvCompletion]
    (repeat' split) <;> exact answers_next _

/-! ### Every step answers -/

theorem flagRow_answers {want : Bool} {i : Instr} {s : State} {o : Host.Outcome State Fault Refusal} (h : flagRow want i s = .error o) :
    Answers o := by
  obtain ⟨t, ht⟩ := exec_answers i s
  unfold flagRow at h
  rw [ht] at h
  dsimp only at h
  split at h
  · cases h
  split at h
  · exact Except.error.inj h ▸ answers_next _
  · cases h

theorem runSlot_ok (r : SlotRun) (k : Nat) (w : Word) (i : Instr) : ∃ u, runSlot r k w i = .ok u := by
  obtain ⟨t, ht⟩ := exec_answers i (mapCtx (fun c => { c with slot := k, syl := w }) r.cur)
  unfold runSlot
  rw [ht]
  dsimp only
  (repeat' split) <;> exact ⟨_, rfl⟩

theorem runSlots_ok (b : Vec) (l : List (Nat × Instr)) (r : SlotRun) : ∃ u, runSlots b l r = .ok u := by
  induction l generalizing r with
  | nil => exact ⟨r, rfl⟩
  | cons e l ih =>
    obtain ⟨u, hu⟩ := runSlot_ok r e.1 (sylOf b e.1) e.2
    unfold runSlots
    rw [hu]
    exact ih u

theorem issueSlots_answers (b : Vec) (slots : List (Nat × Instr)) (pre s : State) : Answers (issueSlots b slots pre s) := by
  obtain ⟨u, hu⟩ := runSlots_ok b slots ⟨s, none, false, false, s.ptx⟩
  unfold issueSlots
  rw [hu]
  dsimp only
  (repeat' split) <;> exact answers_next _

theorem issueLegal_answers (b : Vec) (flags : BitVec 4) (slots : List (Nat × Instr)) (s : State) :
    Answers (issueLegal b flags slots s) := by
  unfold issueLegal
  dsimp only
  split
  next e => exact flagRow_answers e
  split
  next e => exact flagRow_answers e
  split
  next e => exact flagRow_answers e
  · exact issueSlots_answers ..

theorem issueBundle_answers (s : State) : Answers (issueBundle s) := by
  unfold issueBundle
  dsimp only
  split
  · exact answers_next _
  split
  · exact answers_next _
  · exact answers_next _
  unfold issueFetched
  dsimp only
  (repeat' split)
  · exact answers_next _
  · exact answers_next _
  · exact answers_next _
  · exact issueLegal_answers ..

theorem step_answers (s : State) : Answers (step s) := by
  unfold step
  split
  · unfold runDue
    split
    · exact answers_next _
    · exact exec_answers ..
  split
  · exact issueBundle_answers _
  split
  · unfold collTurn
    (repeat' split)
    · exact answers_next _
    · exact answers_next _
    · exact exec_answers ..
    · exact answers_next _
    · exact answers_next _
  · exact answers_next _

/-- Settles O59: a slot instruction's stores are held, so its issue leaves memory as it is; and an issue, an event and a step of a collective
each choose between next states, so the bundle and the clock that they make up do too. -/
theorem issueAndAnswers : Obligations.IssueAndAnswers :=
  ⟨fun _ _ s _ hi e _ => rdByte_of_mem (exec_slot_mem s hi _ e) _, exec_answers, step_answers⟩

end Sys2Proof.Machine
end

section
/-! SUPPORT. The state after reset (O60). -/
namespace Sys2Proof.Machine

/-- Every core after reset is the initial one of its id, the core in focus too. -/
theorem coreOf_reset (c : CoreId) : coreOf State.reset c = .init c := by
  unfold coreOf
  split
  next h =>
    rw [← h]
    rfl
  next => rfl

theorem reset_canonical : Claims.canonical State.reset := by
  refine ⟨fun c hc => ?_, fun x hx => (List.not_mem_nil hx).elim, rfl, rfl, fun x hx => (List.not_mem_nil hx).elim, List.nodup_nil,
    fun k hk => (List.not_mem_nil hk).elim⟩
  rw [List.mem_singleton.1 hc]
  exact ⟨rfl, rfl, rfl, fun d hd => (List.not_mem_nil hd).elim, fun h hh => (List.not_mem_nil hh).elim⟩

/-- Settles O60, field by field: a core that is not listed reads as the initial one of its id, so the core in focus is no exception. -/
theorem resetState : Obligations.ResetState := by
  refine ⟨rfl, rfl, reset_bounds, reset_canonical, fun _ => rfl, fun c => ?_, rfl, rfl, rfl, rfl, rfl, rfl, rfl, rfl, rfl, rfl, rfl⟩
  rw [coreOf_reset]
  exact ⟨rfl, rfl, rfl, rfl, rfl, rfl, rfl, rfl, rfl, rfl, rfl, rfl, rfl⟩

end Sys2Proof.Machine
end

section
/-! SUPPORT. s0 in the operations that read and write registers (O1). -/
namespace Sys2Proof.Machine

/-! ### s0 (01 R16) -/

@[simp] theorem setReg_zero (v : Word) (a : Arch) : setReg 0#5 v a = a := rfl

/-- A result that lands in s0 sets its flags and leaves the registers (01 R16). -/
theorem landOne_s0 {p : Pend} {v : Word} (s : State) (h : p.act = .sreg 0 v) :
    landOne p s = orFlags p.flags (mapSt (fun t => { t with pend := t.pend.filter fun q => q.seq != p.seq }) s) := by
  simp [landOne, h]

theorem landV_s0 {v : VRes} (x : BitVec 256) (s : State) (h : v.dst = .sreg 0) : (landV v x s).core.st.a = s.core.st.a := by
  simp [landV, h, mapSt]

/-- Settles O1: each way to a register passes s0 by, in the read, in the mark as a destination, and in the three ways to write. -/
theorem zeroRegister : Obligations.ZeroRegister := by
  refine ⟨fun f s h => readS_zero s h, fun v s h => ?_, fun p v s h => ?_, fun v x s h => ?_, setReg_zero, fun flags t s => rfl,
    fun f s => ⟨_, rfl, rfl⟩⟩
  · simp [doEnd, h, mapSt]
  · rw [landOne_s0 s h]
    exact ⟨rfl, rfl⟩
  · rw [landV_s0 x s h]
    exact ⟨rfl, rfl⟩

end Sys2Proof.Machine
end

section
/-! SUPPORT. What scalar sources read and what landing results write (O2), with the lemmas about the core that an event names. -/
namespace Sys2Proof.Machine

/-! ### The core that an event names -/

theorem coreOf_id (s : State) (c : CoreId) : (coreOf s c).id = c := by
  unfold coreOf
  split
  next h => exact h
  next =>
    cases hk : s.others.find? fun k => k.id == c with
    | none => rfl
    | some k => exact eq_of_beq (List.find?_some (p := fun k : Core => k.id == c) hk)

/-- The focus moves between cores and changes none. -/
theorem coreOf_focus (k c : CoreId) (s : State) : coreOf (focus k s) c = coreOf s c := by
  unfold focus
  split
  next => rfl
  next hk =>
    change (if (coreOf s k).id = c then coreOf s k else _) = _
    rw [coreOf_id]
    split
    next h => rw [h]
    next h =>
      by_cases hs : s.core.id = c
      · simp [coreOf, hs]
      · have hf : (fun d : Core => d.id != k && d.id == c) = fun d => d.id == c := by
          funext d
          by_cases hd : d.id = c <;> simp [hd, Ne.symm h]
        unfold coreOf
        rw [if_neg hs, List.find?_cons_of_neg (by simpa using hs), List.find?_filter]
        simp only [← Bool.and_eq_true, Bool.decide_eq_true, hf]

theorem focus_core_id (c : CoreId) (s : State) : (focus c s).core.id = c := by
  rw [focus_core, coreOf_id]

/-- What an event at a core's home leaves of that core, focused or not. -/
theorem coreOf_atCore {c : CoreId} {f : State → State} {s : State} (h : (f (focus c s)).core.id = c) :
    coreOf (atCore c f s) c = (f (focus c s)).core := by
  unfold atCore
  rw [coreOf_focus, coreOf, if_pos h]

@[simp] theorem focus_now (c : CoreId) (s : State) : (focus c s).now = s.now := by
  unfold focus
  split <;> rfl

@[simp] theorem focus_mcs (c : CoreId) (s : State) : (focus c s).mcs = s.mcs := by
  unfold focus
  split <;> rfl

/-! ### What a landing result writes -/

theorem setReg_of_ne {r : BitVec 5} (v : Word) (a : Arch) (hr : r ≠ 0) :
    setReg r v a = { a with regs := a.regs.set r.toNat v, empties := a.empties.set r.toNat false } := if_neg hr

@[simp] theorem setReg_flags (r : BitVec 5) (v : Word) (a : Arch) : (setReg r v a).flags = a.flags := by
  unfold setReg
  split <;> rfl

/-- The architectural state after a scalar result lands: its register, unless that is s0, and its flags (01 R16, R30). -/
theorem landOne_sreg {p : Pend} {r : BitVec 5} {v : Word} (s : State) (h : p.act = .sreg r v) :
    (landOne p s).core.st.a = setReg r v { s.core.st.a with flags := s.core.st.a.flags ||| p.flags } := by
  unfold landOne
  rw [h]
  dsimp only
  split
  next hr =>
    subst hr
    rfl
  next => rfl

/-- A landing takes its result from the pending ones. -/
theorem landOne_pend (p : Pend) (s : State) : (landOne p s).core.st.pend = s.core.st.pend.filter fun q => q.seq != p.seq := by
  unfold landOne
  cases p.act with
  | sreg r v =>
    dsimp only
    split <;> rfl
  | spad | hfield | flags => rfl

theorem landingWritesRegister : Claims.LandingWritesRegister := by
  intro p r v s h
  have ha := landOne_sreg s h
  refine ⟨by rw [ha, setReg_flags], fun hr => ?_, fun hr => ⟨?_, ?_⟩, fun q hq => ?_, rdByte_of_mem (landOne_mem p s)⟩
  · rw [ha, hr]
    rfl
  · rw [regVal, if_neg hr, ha, setReg_of_ne _ _ hr]
    simp
  · rw [ha, setReg_of_ne _ _ hr]
    simp
  · by_cases hr : r = 0
    · subst hr
      simp [regVal, ha]
    · have hne : r.toNat ≠ q.toNat := fun e => hq (BitVec.eq_of_toNat_eq e.symm)
      simp [regVal, ha, setReg_of_ne _ _ hr, hne]

/-! ### The sole pending result -/

/-- A sole pending result lands next when its time has come: nothing lies before it (01 R30, R31). -/
theorem nextLand_sole {p : Pend} {s : State} (hp : s.core.st.pend = [p]) (hr : p.ready ≤ s.now)
    (hd : ∀ d, p.due = some d → d ≤ s.core.st.cyc) (hs : s.core.dstop = false) (hq : queuedBefore s.core p = false) :
    nextLand false s = some p := by
  have hc : canLand false s p = true := by
    cases h : p.due with
    | none => simp [canLand, pipeClock, Pend.before, hs, hr, hp, hq, h]
    | some d => simp [canLand, pipeClock, Pend.before, hs, hr, hp, hq, h, hd d h]
  simp [nextLand, hp, hc]

/-- A landing event of the kind of the sole pending result lands it. -/
theorem landKind_sole {p : Pend} {s : State} (hp : s.core.st.pend = [p]) (hn : p.next = none) (hr : p.ready ≤ s.now)
    (hd : ∀ d, p.due = some d → d ≤ s.core.st.cyc) (hs : s.core.dstop = false) (hq : queuedBefore s.core p = false) :
    landKind p.isSpad s = landOne p s := by
  have hf : (s.core.st.pend.filter fun q => q.isSpad == p.isSpad) = s.core.st.pend := by simp [hp]
  unfold landKind
  rw [hf]
  change (match nextLand false s with | none => s | some p => _) = _
  rw [nextLand_sole hp hr hd hs hq]
  simp [hn]

theorem landOne_id (p : Pend) (s : State) : (landOne p s).core.id = s.core.id := by
  unfold landOne
  cases p.act with
  | sreg r v =>
    dsimp only
    split <;> rfl
  | spad | hfield | flags => rfl

/-- The sole pending result of a core, focused or not, lands with the event of its kind. -/
theorem atCore_landKind_sole {c : CoreId} {s : State} {p : Pend} (hp : (coreOf s c).st.pend = [p]) (hn : p.next = none)
    (hr : p.ready ≤ s.now) (hd : ∀ d, p.due = some d → d ≤ (coreOf s c).st.cyc) (hs : (coreOf s c).dstop = false)
    (hq : queuedBefore (coreOf s c) p = false) :
    coreOf (atCore c (landKind p.isSpad) s) c = (landOne p (focus c s)).core := by
  rw [← focus_core] at hp hd hs hq
  have hl := landKind_sole hp hn (by simpa using hr) hd hs hq
  rw [coreOf_atCore, hl]
  rw [hl, landOne_id, focus_core_id]

theorem resultLands_event {c : CoreId} {s : State} {p : Pend} {r : BitVec 5} {v : Word} (hp : (coreOf s c).st.pend = [p])
    (ha : p.act = .sreg r v) (hr : r ≠ 0) (he : coreOf (atCore c (landKind p.isSpad) s) c = (landOne p (focus c s)).core) :
    ∃ t, exec (.resultLands c) s = .next t ∧ (coreOf t c).st.pend = [] ∧ (coreOf t c).st.a.regs[r.toNat] = v := by
  have hk : p.isSpad = false := by simp [Pend.isSpad, ha]
  rw [hk] at he
  refine ⟨_, rfl, ?_, ?_⟩
  · rw [he, landOne_pend, focus_core, hp]
    simp
  · rw [he]
    simp [landOne_sreg _ ha, setReg_of_ne _ _ hr]

/-- A value other than the default reads back after it is written, whatever the map. -/
theorem SMap.get_set_of_ne {α : Type} [DecidableEq α] {d v : α} (m : SMap α) (a : Nat) (hv : v ≠ d) :
    SMap.get d (SMap.set d m a v) a = v := by
  induction m with
  | nil => simp [SMap.set, SMap.get, hv]
  | cons e t ih =>
    unfold SMap.set
    rw [if_neg hv, if_neg hv]
    split
    next => simp [SMap.get]
    next h1 =>
      split
      next => simp [SMap.get]
      next h2 => simp [SMap.get, h1, h2, ih]

theorem landOne_spad {p : Pend} {k : Option Nat} {bs : List (Nat × Byte)} {fb : List (Nat × Bool)} (s : State)
    (h : p.act = .spad k bs fb) :
    (landOne p s).core.scratch = SMap.setAll 0 s.core.scratch bs ∧ (landOne p s).core.full = SMap.setAll false s.core.full fb := by
  simp [landOne, h, mapCore, writeScratch, orFlags, mapSt]

theorem scratchpadWriteLands_event {c : CoreId} {s : State} {p : Pend} {k : Option Nat} {a : Nat} {b : Byte}
    (hp : (coreOf s c).st.pend = [p]) (ha : p.act = .spad k [(a, b)] [(a / 16, true)]) (hw : SMap.wf 0 (coreOf s c).scratch = true)
    (he : coreOf (atCore c (landKind p.isSpad) s) c = (landOne p (focus c s)).core) :
    ∃ t, exec (.scratchpadWriteLands c) s = .next t ∧ (coreOf t c).st.pend = [] ∧ SMap.get 0 (coreOf t c).scratch a = b ∧
      SMap.get false (coreOf t c).full (a / 16) = true := by
  have hk : p.isSpad = true := by simp [Pend.isSpad, ha]
  obtain ⟨hs, hf⟩ := landOne_spad (focus c s) ha
  rw [hk] at he
  refine ⟨_, rfl, ?_, ?_, ?_⟩
  · rw [he, landOne_pend, focus_core, hp]
    simp
  · rw [he, hs, focus_core]
    exact SMap.get_set_same hw a b
  · rw [he, hf]
    exact SMap.get_set_of_ne _ _ (Bool.noConfusion : true ≠ false)

/-! ### Variable-latency results and image rows -/

theorem variableLatencyResult_event {c : CoreId} {k : Nat} {s : State} {v : VRes} {x : BitVec 256} {r : BitVec 5}
    (hv : (coreOf s c).st.vls = [v]) (hid : v.id = k) (hh : v.held = false) (hx : v.val = some x) (hd : v.dst = .sreg r) (hr : r ≠ 0)
    (hk : v.keep = true) (hf : v.first ≤ s.now) :
    ∃ t, exec (.variableLatencyResult c k) s = .next t ∧ (coreOf t c).st.vls = [] ∧
      (coreOf t c).st.a.regs[r.toNat] = x.extractLsb' 0 64 ∧ (coreOf t c).st.a.empties[r.toNat] = false := by
  rw [← focus_core] at hv
  refine ⟨_, rfl, ?_⟩
  rw [coreOf_atCore] <;> simp only [hv, List.find?_cons, hid, hh, hx, focus_now, hf, beq_self_eq_true, Bool.not_false, Bool.and_self, if_true]
  · have hx : x.setWidth 64 = x.extractLsb' 0 64 := by simp [BitVec.setWidth_eq_extractLsb']
    simp [landV, mapSt, hv, hd, hk, setReg_of_ne _ _ hr, hx]
  · exact focus_core_id c s

theorem landMcs_idle {s : State} (h : s.mcs = []) : landMcs s = s := by
  have hs : { s with mcs := [] } = s := h ▸ rfl
  simpa [landMcs, h, sortMcs] using hs

theorem imageLanding_event {c : CoreId} {k : Nat} {s : State} {i : Img} {a : Nat} {b : Byte} (hi : (coreOf s c).st.imgs = [i])
    (hid : i.id = k) (hb : i.bytes = [(a, b)]) (hm : s.mcs = []) (hw : SMap.wf 0 (coreOf s c).scratch = true) :
    ∃ t, exec (.imageLanding c k) s = .next t ∧ (coreOf t c).st.imgs = [] ∧ SMap.get 0 (coreOf t c).scratch a = b ∧
      (i.full = true → SMap.get false (coreOf t c).full (a / 16) = true) ∧
      (coreOf t c).st.a.flags = (coreOf s c).st.a.flags ||| i.flags := by
  rw [← focus_core] at hi hw ⊢
  refine ⟨_, rfl, ?_⟩
  rw [coreOf_atCore] <;> simp only [hi, List.find?_cons, hid, beq_self_eq_true, landImg, landMcs_idle ((focus_mcs c s).trans hm)]
  · refine ⟨?_, ?_, fun hf => ?_, rfl⟩
    · simp [orFlags, mapSt, mapCore, writeScratch, hi, hid]
    · simpa [orFlags, mapSt, mapCore, writeScratch, hb, SMap.setAll] using SMap.get_set_same hw a b
    · simpa [orFlags, mapSt, mapCore, writeScratch, hb, hf, granulesOf, List.eraseDups_cons, SMap.setAll] using
        SMap.get_set_of_ne _ (a / 16) (Bool.noConfusion : true ≠ false)
  · exact focus_core_id c s

theorem landingEvents : Claims.LandingEvents :=
  ⟨fun _ _ _ _ _ hp ha hr hn hready hd hs hq => resultLands_event hp ha hr (atCore_landKind_sole hp hn hready hd hs hq),
    fun _ _ _ _ _ _ hp ha hn hready hd hs hq hw => scratchpadWriteLands_event hp ha hw (atCore_landKind_sole hp hn hready hd hs hq),
    fun _ _ _ _ _ _ hv hid hh hx hd hr hk hf => variableLatencyResult_event hv hid hh hx hd hr hk hf,
    fun _ _ _ _ _ _ hi hid hb hm hw => imageLanding_event hi hid hb hm hw⟩

/-! ### Scalar sources -/

theorem scalarReads : Claims.ScalarReads := by
  refine ⟨fun f s h => readS_zero s h, fun f s h0 ha hp hq he => ?_, fun f s h0 ha he => ?_⟩
  · unfold readS
    simp only
    rw [if_neg h0, ha, he, regVal, if_neg h0]
    simp [hp, hq]
  · unfold readS
    simp only
    rw [if_neg h0, ha, he]
    rfl

/-- Settles O2, part by part. -/
theorem scalarReadsAndLandings : Obligations.ScalarReadsAndLandings := ⟨scalarReads, landingWritesRegister, landingEvents⟩

end Sys2Proof.Machine
end

section
/-! SUPPORT. What a rollback leaves of the strand, and traps by class (O10). -/
namespace Sys2Proof.Machine

/-! ### What the engines' saves and a rollback leave of the strand (01 R24) -/

/-- `u` has the focused strand of `s`, but for what is pending. -/
def SameStrand (s u : State) : Prop := u.core.st = { s.core.st with pend := u.core.st.pend } ∧ u.core.id = s.core.id

theorem SameStrand.refl (s : State) : SameStrand s s := ⟨rfl, rfl⟩

theorem SameStrand.trans {s t u : State} (h1 : SameStrand s t) (h2 : SameStrand t u) : SameStrand s u :=
  ⟨by rw [h2.1, h1.1], h2.2.trans h1.2⟩

theorem SameStrand.of_eq {s t u : State} (h : SameStrand s t) (hst : u.core.st = t.core.st) (hid : u.core.id = t.core.id) :
    SameStrand s u :=
  h.trans ⟨by rw [hst], hid⟩

theorem SameStrand.pend {s u : State} (h : SameStrand s u) (q : Nat) (d : Option Nat) (r : Nat) (a : PendAct) (f : Flags) (k : Nat) :
    SameStrand s (addPendAt q d r a f k u) :=
  h.trans ⟨rfl, rfl⟩

theorem SameStrand.ite {s a b : State} {p : Prop} [Decidable p] (ha : SameStrand s a) (hb : SameStrand s b) :
    SameStrand s (if p then a else b) := by
  split <;> assumption

theorem SameStrand.flags {s u : State} (h : SameStrand s u) (q r : Nat) (f : Flags) : SameStrand s (flagsAt q r f u) :=
  .ite h (h.pend ..)

/-- An engine operation writes banks and queues, and leaves results pending (07 R179). -/
theorem runEOp_sameStrand (o : MOp) (s : State) : SameStrand s (runEOp o s) := by
  have h := SameStrand.refl s
  have put (k : Nat) (ws : List Nat) {u : State} (hu : SameStrand s u) : SameStrand s (mapCore (setWords k ws) u) := hu.of_eq rfl rfl
  unfold runEOp
  cases o.op with
  | rank1 | rowAdd => exact (put _ _ h).flags ..
  | drain => exact .ite (.ite (h.of_eq rfl rfl) ((h.of_eq rfl rfl).pend ..)) (put _ _ (.ite (h.of_eq rfl rfl) ((h.of_eq rfl rfl).pend ..)))
  | save => exact put _ _ (h.pend ..)
  | zero | cfg | load | realn | rowMov | rowZero | rowNorm => exact put _ _ h
  | lend | recl => exact h

/-- A spline operation writes banks and the coefficient and gradient stores, and leaves results pending (08 R199). -/
theorem runSOp_sameStrand (o : SQOp) (s : State) : SameStrand s (runSOp o s) := by
  have h := SameStrand.refl s
  unfold runSOp
  cases o.op with
  | ld | ev | bwd | gs | ref => refine .flags (.of_eq h ?_ ?_) .. <;> simp only [mapCore, setWords, setBank]
  | cnt rd above clear d =>
    have hp := h.pend o.seq d (s.now + Config.latF 9) (.sreg rd (word (if above then s.core.above else s.core.below))) 0 9
    refine .ite hp (hp.of_eq ?_ ?_) <;> cases above <;> rfl
  | st | gx => exact h.pend ..
  | gz => exact h.of_eq rfl rfl

theorem finishM_sameStrand (k l : List MOp) (s : State) : SameStrand s (finishM k l s) := by
  induction l generalizing s with
  | nil => exact .refl s
  | cons o t ih =>
    have h : SameStrand s { s with now := Nat.max s.now s.core.mBusy } := (SameStrand.refl s).of_eq rfl rfl
    have hr := SameStrand.ite (p := k.contains o) (h.trans (runEOp_sameStrand o _)) h
    exact (hr.of_eq rfl rfl).trans (ih _)

theorem finishS_sameStrand (l : List SQOp) (s : State) : SameStrand s (finishS l s) := by
  induction l generalizing s with
  | nil => exact .refl s
  | cons o t ih =>
    have h : SameStrand s { s with now := Nat.max s.now s.core.sBusy } := (SameStrand.refl s).of_eq rfl rfl
    exact ((h.trans (runSOp_sameStrand o _)).of_eq rfl rfl).trans (ih _)

theorem finishSaves_sameStrand (s : State) : SameStrand s (finishSaves s) := by
  unfold finishSaves
  have hm := finishM_sameStrand (keptM s.core.mq) s.core.mq s
  have hs := finishS_sameStrand (keptS s.core.sq) { finishM (keptM s.core.mq) s.core.mq s with now := s.now }
  exact ((hm.of_eq rfl rfl).trans hs).of_eq rfl rfl

/-- The strand that a rollback leaves: the shadow set at the address asked for, with nothing outstanding (01 R24). -/
theorem rollback_saves_st (pc : BPc) (s : State) :
    (rollback finishSaves pc s).core.st = { s.core.st with
      a := { s.core.st.shadow with pc := pc }, vls := [], pend := [], imgs := [], wait := .none, ending := false, fresh := 0,
      ckDone := true } := by
  have h := (finishSaves_sameStrand s).1
  unfold rollback
  simp only [mapSt, mapCore, clearEngines, releaseCore, flushSpad, writeScratch]
  rw [h]

/-! ### Traps by class (01 R34-R40) -/

/-- The core gives up its pin token or its request for it, and nothing else of it changes. -/
theorem releaseToken_core (s : State) : (releaseToken s).core = { s.core with pinTok := false, pinReq := false } := by
  simp [releaseToken, apply_ite State.core, mapCore]

/-- The state before a trap's class is looked at: rolled back to CKPTPC, with the retry count and the pin given up. -/
def unwound (s : State) : State :=
  mapSt (fun t => { t with retry := 0, pin := false }) (releaseToken (rollback finishSaves s.core.st.ckptPc s))

theorem unwound_st (s : State) :
    (unwound s).core.st = { s.core.st with
      a := { s.core.st.shadow with pc := s.core.st.ckptPc }, vls := [], pend := [], imgs := [], wait := .none, ending := false, fresh := 0,
      ckDone := true, retry := 0, pin := false } := by
  simp [unwound, mapSt, releaseToken_core, rollback_saves_st]

theorem unwound_held (s : State) : (unwound s).core.held = [] := by
  simpa [unwound, mapSt, releaseToken_core] using (rollback_st finishSaves s.core.st.ckptPc s).2.1

/-- A trap in a handler, and a class I trap without a vector table, are handler faults (01 R38). -/
theorem takeTrap_unhandled {c : Cause} {s : State} (h : s.core.st.tm = true ∨ classI c.code = true ∧ s.core.st.trapBase = 0) :
    takeTrap finishSaves c s =
      escalate ⟨cHandler, word c.code, c.slot⟩ (setTrapRegs s.core.st.a.pc ⟨cHandler, word c.code, c.slot⟩ (unwound s)) := by
  have hc : (s.core.st.tm || (classI c.code && s.core.st.trapBase = 0)) = true := by simpa using h
  unfold takeTrap trapNaming
  simp only [hc]
  rfl

/-- A class I trap goes on at its vector (01 R36, R39). -/
theorem takeTrap_vectored {c : Cause} {s : State} (ht : s.core.st.tm = false) (hc : classI c.code = true) (hb : s.core.st.trapBase ≠ 0) :
    takeTrap finishSaves c s =
      mapSt (fun t => { t with
        tm := true, hckpt := s.core.st.trapBase + BitVec.ofNat 51 c.code,
        a := { t.a with pc := s.core.st.trapBase + BitVec.ofNat 51 c.code }, ckDone := false })
      (setTrapRegs s.core.st.a.pc c (unwound s)) := by
  unfold takeTrap trapNaming
  simp only [ht, hc, hb]
  rfl

/-- The strand at the vector: the shadow set, with the trap registers set for the bundle that raised the trap (01 R24, R35, R36, R39). -/
theorem takeTrap_vectored_st {c : Cause} {s : State} (ht : s.core.st.tm = false) (hc : classI c.code = true)
    (hb : s.core.st.trapBase ≠ 0) :
    (takeTrap finishSaves c s).core.st = { s.core.st with
      a := { s.core.st.shadow with pc := s.core.st.trapBase + BitVec.ofNat 51 c.code },
      hckpt := s.core.st.trapBase + BitVec.ofNat 51 c.code, trapPc := s.core.st.a.pc, trapCause := causeWord c, trapInfo := c.info,
      tm := true, passed := if c.code = cBreak then some s.core.st.a.pc else none, vls := [], pend := [], imgs := [], wait := .none,
      ending := false, fresh := 0, ckDone := false, retry := 0, pin := false } := by
  rw [takeTrap_vectored ht hc hb]
  simp only [mapSt, setTrapRegs, unwound_st]

/-- A class E trap escalates (01 R40). -/
theorem takeTrap_escalated {c : Cause} {s : State} (ht : s.core.st.tm = false) (hc : classI c.code = false) (hm : c.code ≠ cMigrate) :
    takeTrap finishSaves c s = escalate c (setTrapRegs s.core.st.a.pc c (unwound s)) := by
  unfold takeTrap trapNaming
  simp only [ht, hc, hm]
  rfl

/-- An escalation sends one report, with the cause's code and TRAPINFO (01 R40). -/
theorem escalate_reports (c : Cause) (s : State) : ∃ d ∈ (escalate c s).agenda, ∃ r, d.act = .faultReport r ∧ r.code = c.code ∧
    r.info = c.info ∧ r.async = false :=
  ⟨_, List.mem_append_right _ (List.mem_singleton.2 rfl), _, rfl, rfl, rfl, rfl⟩

/-- TRAPCAUSE's CODE (01 R21). -/
theorem causeWord_code (c : Cause) (h : c.code < 256) : bits (causeWord c).toNat 7 0 = c.code := by
  unfold causeWord word bits
  rw [BitVec.toNat_ofNat]
  cases c.slot <;> dsimp only <;> omega

theorem trapInstructionEnters : Claims.TrapInstructionEnters := by
  intro f s ht hb hk
  have hst := takeTrap_vectored_st (c := ⟨cTrap, zx f.imm, some s.ctx.slot⟩) ht rfl hb
  have hheld : (takeTrap finishSaves ⟨cTrap, zx f.imm, some s.ctx.slot⟩ s).core.held = [] := by
    rw [takeTrap_vectored ht rfl hb]
    exact unwound_held s
  have hcause : causeWord ⟨cTrap, zx f.imm, some s.ctx.slot⟩ = BitVec.ofNat 64 (0x04 + 256 * s.ctx.slot + 2048) := by
    simp [causeWord, word, cTrap, Nat.add_assoc]
  have hcode : BitVec.ofNat 51 cTrap = 4 := rfl
  refine ⟨_, rfl, ?_⟩
  simp only [mapCtx, hst, hheld, hcause, hcode, rdByte, takeTrap_saves_mem]
  exact ⟨trivial, rfl, trivial, trivial, trivial, trivial, trivial, trivial, trivial, fun _ => trivial⟩

theorem classITrapEntry : Claims.ClassITrapEntry := by
  intro c s h1 h2 ht hb
  have hst := takeTrap_vectored_st (c := c) ht (by simp [classI, h1, h2]) hb
  rw [hst]
  exact ⟨rfl, rfl, causeWord_code c (by omega), rfl, rfl, rfl, rfl⟩

theorem escalatedTrap : Claims.EscalatedTrap := by
  refine ⟨fun c s ht h1 h2 => ?_, fun c s ht => ?_, fun c s ht hb h1 h2 => ?_⟩
  · have hc : classI c.code = false := by simp [classI]; omega
    rw [takeTrap_escalated ht hc (by unfold cMigrate; omega)]
    exact ⟨rfl, rfl, escalate_reports ..⟩
  · rw [takeTrap_unhandled (.inl ht)]
    refine ⟨rfl, ?_, escalate_reports ..⟩
    simp [escalate, mapSt, setTrapRegs, unwound_st, ht]
  · have hc : classI c.code = true := by simp [classI, h1, h2]
    rw [takeTrap_unhandled (.inr ⟨hc, hb⟩)]
    refine ⟨rfl, ?_, rfl, escalate_reports ..⟩
    simp [escalate, mapSt, setTrapRegs, unwound_st, ht]

/-- Settles O10, by the class of the trap: each is what `unwound` leaves, with the trap registers set. -/
theorem trapEntry : Obligations.TrapEntry := ⟨trapInstructionEnters, classITrapEntry, escalatedTrap⟩

end Sys2Proof.Machine
end

section
/-! SUPPORT. eret, halt at a bundle's end and the debug interface (O11), with the functions at the end of a bundle that leave the focused strand
alone. -/
namespace Sys2Proof.Machine

/-! ### What leaves the focused strand alone -/

/-- A fold leaves the focused strand alone when each of its steps does. -/
theorem foldl_st {α : Type} {f : State → α → State} (h : ∀ s x, (f s x).core.st = s.core.st) (l : List α) (s : State) :
    (l.foldl f s).core.st = s.core.st := by
  induction l generalizing s with
  | nil => rfl
  | cons x l ih => exact (ih _).trans (h s x)

@[simp] theorem onCore_st (c : CoreId) (f : Core → Core) (s : State) (h : ∀ k, (f k).st = k.st) : (onCore c f s).core.st = s.core.st := by
  unfold onCore
  split
  · exact h s.core
  · rfl

@[simp] theorem wrBytes_st (pa : Nat) (bs : List Byte) (s : State) : (wrBytes pa bs s).core.st = s.core.st := by
  rw [wrBytes_eq]

@[simp] theorem modLine_st (l : Nat) (b : Bool) (s : State) : (modLine l b s).core.st = s.core.st :=
  ((modDir_reads l b s).trans (touchLine_reads l true _)).st

@[simp] theorem setBin_st (pa k v : Nat) (s : State) : (setBin pa k v s).core.st = s.core.st := wrBytes_st _ _ s

@[simp] theorem addLate_st (pa n : Nat) (s : State) : (addLate pa n s).core.st = s.core.st := by
  unfold addLate
  split
  · rfl
  · exact wrBytes_st _ _ s

@[simp] theorem halve_st (pa w : Nat) : ∀ (n : Nat) (s : State), (halve pa w n s).core.st = s.core.st
  | 0, _ => rfl
  | n + 1, s => by
    unfold halve
    dsimp only
    split
    · rfl
    · simp [halve_st pa w n, wrN, foldl_st]

@[simp] theorem modRec_st (pa : Nat) (s : State) : (modRec pa s).core.st = s.core.st := by simp [modRec]

@[simp] theorem applyFlush_st (d : Delta) (s : State) : (applyFlush d s).core.st = s.core.st := by
  unfold applyFlush
  dsimp only
  split
  · rfl
  split
  · simp
  · simp [wrN, foldl_st]

@[simp] theorem flushDeltas_st (s : State) : (flushDeltas s).core.st = s.core.st := by
  refine foldl_st (fun u d => ?_) _ s
  unfold flushSlot
  split
  · rfl
  · simp

@[simp] theorem releaseSeg_st (seg : Nat) (s : State) : (releaseSeg seg s).core.st = s.core.st := by
  unfold releaseSeg
  split
  · rfl
  dsimp only
  split
  · refine foldl_st (fun _ _ => ?_) _ _
    rfl
  · rfl

@[simp] theorem retireCore_st (c : CoreId) (s : State) : (retireCore c s).core.st = s.core.st := by
  refine foldl_st (fun u e => ?_) _ s
  dsimp only
  split
  · simp
  · rfl

@[simp] theorem disarmSegs_st (t : Task) (s : State) : (disarmSegs t s).core.st = s.core.st := by
  refine foldl_st (fun _ _ => ?_) _ s
  rfl

@[simp] theorem freeImages_st (tser : Nat) (g : Gang) (s : State) : (freeImages tser g s).core.st = s.core.st := by
  refine foldl_st (fun u i => ?_) _ _
  refine foldl_st (fun v c => ?_) _ u
  exact onCore_st c _ v fun _ => rfl

theorem firstBundle_st (s : State) : (firstBundle s).core.st = s.core.st := by
  unfold firstBundle
  split
  next g hg =>
    split
    · rfl
    dsimp only
    split
    · exact freeImages_st ..
    · rfl
  next => rfl

/-- A strand that ends has halted (01 R26). -/
theorem strandEnds_run (s : State) : (strandEnds s).core.st.run = .halted := by
  unfold strandEnds
  extract_lets u v
  have hv : v.core.st.run = .halted := by simp [v, u, mapSt]
  clear_value v
  split
  next t g ht hg =>
    extract_lets w x
    have hw : w.core.st.run = .halted := hv
    have hx : x.core.st.run = .halted := hv
    clear_value x w
    (repeat' split) <;> simp [hw, hx]
  next => exact hv

/-- An act at the end of a bundle leaves whether the strand runs. -/
theorem doEnd_run (s : State) (e : EndAct) : (doEnd s e).core.st.run = s.core.st.run := by
  cases e with
  | syswr n v =>
    unfold doEnd
    dsimp only
    (repeat' split) <;> simp [mapSt, mapArch, apply_ite Strand.run]
  | pcfg | pset | knset | clear | flags | produce => rfl

theorem foldl_doEnd_run (es : List EndAct) (s : State) : (es.foldl doEnd s).core.st.run = s.core.st.run := by
  induction es generalizing s with
  | nil => rfl
  | cons e es ih => exact (ih _).trans (doEnd_run s e)

/-! ### The end of a bundle with `halt` (01 R26) -/

theorem haltEndsStrand : Claims.HaltEndsStrand := by
  refine ⟨fun s => rfl, fun s hh hy hr hw => ?_, fun s hh hy hr hw => ?_⟩
  · unfold finishBundle
    simp only [hh, hy, hw]
    exact strandEnds_run _
  · have hrun : (s.ctx.ends.foldl doEnd (firstBundle s)).core.st.run = .running := by rw [foldl_doEnd_run, firstBundle_st, hr]
    unfold finishBundle
    simp [hh, hy, hw, hrun, mapSt, orFlags]

/-! ### eret (01 R37) -/

theorem handlerReturn : Claims.HandlerReturn := by
  refine ⟨fun s ht => ?_, fun s ht => ?_⟩
  · have he : eretOp s = .ok (mapCtx (fun c => { c with erets := true }) (takeJump s.core.st.ckptPc (returnFromHandler s))) := by
      unfold eretOp needLegal
      rw [if_pos ht]
      rfl
    have hx : exec .eret s = .next (mapCtx (fun c => { c with erets := true }) (takeJump s.core.st.ckptPc (returnFromHandler s))) :=
      congrArg (issue s) he
    exact ⟨_, hx, rfl, rfl, rfl, rfl, rfl, fun _ => rfl, rfl⟩
  · have he : eretOp s = raise s cIllegal s.ctx.syl := by
      unfold eretOp needLegal
      rw [if_neg (by simp [ht])]
      rfl
    exact congrArg (issue s) he

/-! ### The debug interface (01 R21, R41) -/

theorem foldl_due_core {α : Type} (e : Instr) (l : List α) (s : State) : (l.foldl (fun u _ => due u.now e u) s).core = s.core := by
  induction l generalizing s with
  | nil => rfl
  | cons _ l ih => exact ih _

theorem wakePipes_core (s : State) : (wakePipes s).core = s.core := by
  unfold wakePipes
  dsimp only
  rw [foldl_due_core, foldl_due_core]

/-- What the debug interface changes of a core that goes on: the stop, and the times of what is under way (01 R41). -/
theorem debugGo_core (s : State) : (debugGo s).core.dstop = false ∧ (debugGo s).core.sstep = s.core.sstep ∧
    (debugGo s).core.brken = s.core.brken ∧ (debugGo s).core.st.a = s.core.st.a ∧ (debugGo s).core.id = s.core.id := by
  unfold debugGo
  split
  next h => exact ⟨by simpa using h, rfl, rfl, rfl, rfl⟩
  next =>
    dsimp only
    rw [wakePipes_core]
    exact ⟨rfl, rfl, rfl, rfl, rfl⟩

/-- What a write to DBGCTL leaves of its core: `u` is the state with SSTEP and BRKEN written (01 R21). -/
theorem dbgctl_core (w : Word) (u : State) {v : State}
    (hv : v = if w.getLsbD 2 then (if u.core.dstop then u else mapCore (fun k => { k with dstop := true, dstopAt := nextIssue u - 1 }) u)
      else debugGo u) :
    v.core.dstop = w.getLsbD 2 ∧ v.core.sstep = u.core.sstep ∧ v.core.brken = u.core.brken ∧ v.core.st.a = u.core.st.a ∧
      v.core.id = u.core.id := by
  subst hv
  split
  next h =>
    rw [h]
    split
    next hd => exact ⟨hd, rfl, rfl, rfl, rfl⟩
    next => exact ⟨rfl, rfl, rfl, rfl, rfl⟩
  next h =>
    rw [Bool.not_eq_true] at h
    rw [h]
    exact debugGo_core u

theorem debugInterface : Claims.DebugInterface := by
  refine ⟨fun c w s => ⟨_, rfl, ?_⟩, fun c s hs => ⟨_, rfl, ?_⟩⟩
  · obtain ⟨hd, hs, hb, ha, hid⟩ :=
      dbgctl_core w (mapCore (fun k => { k with sstep := w.getLsbD 0, brken := w.getLsbD 1 }) (focus c s)) rfl
    rw [coreOf_atCore (hid.trans (focus_core_id c s)), ← focus_core c s]
    exact ⟨hs, hb, hd, ha⟩
  · obtain ⟨hd, -, -, ha, hid⟩ := debugGo_core (focus c s)
    rw [coreOf_atCore (hid.trans (focus_core_id c s)), ← focus_core]
    exact ⟨hd, ha⟩

/-- Settles O11: `eret` by its issue, `halt` by the end of its bundle, the debug interface by the core that it names. -/
theorem handlerReturnAndHalt : Obligations.HandlerReturnAndHalt := ⟨handlerReturn, haltEndsStrand, debugInterface⟩

end Sys2Proof.Machine
end

section
/-! SUPPORT. Held counter operations, crd, cwait and its wake (O29), with what an issue that gathers its checks answers. -/
namespace Sys2Proof.Machine

/-! ### Issues that gather their checks (01 R34) -/

theorem Stop.best_self (e : Stop) : e.best e = e := by
  cases e with
  | trap c => simp [Stop.best]
  | _ => rfl

/-- When a stopping issue's checks find nothing else, its own stop is taken. -/
theorem gather_error {α : Type} (e : Stop) {l : List (Option Stop)} (h : ∀ c ∈ l, c = none ∨ c = some e) :
    gather (.error e : Res α) l = .error e := by
  unfold gather
  dsimp only
  congr 1
  induction l with
  | nil => rfl
  | cons c l ih =>
    rw [List.foldl_cons]
    rcases h c List.mem_cons_self with rfl | rfl
    · exact ih fun d hd => h d (List.mem_cons_of_mem _ hd)
    · change List.foldl _ (e.best e) l = e
      rw [Stop.best_self]
      exact ih fun d hd => h d (List.mem_cons_of_mem _ hd)

@[simp] theorem ok_bind {ε α β : Type} (a : α) (f : α → Except ε β) : (Except.ok a >>= f) = f a := rfl
@[simp] theorem stopOf_ok {α : Type} (a : α) : stopOf (.ok a : Res α) = none := rfl
@[simp] theorem stopOf_error {α : Type} (e : Stop) : stopOf (.error e : Res α) = some e := rfl
@[simp] theorem liftMem_ok_eq {α : Type} (s : State) (a : α) : liftMem s (.ok a) = .ok a := rfl

/-! ### Held counter operations (13 R291, R292) -/

theorem holdAll_one {p : Held} {s : State} (h : s.core.held.length < 128) : holdAll [p] s = .ok (Claims.holding p s) :=
  holdAll_room (ps := [p]) h

/-- A held counter operation enters its piece. -/
theorem heldCtr_holds {f : YA} {s t : State} {a b : Word} {pa : Nat} (mk : Nat → Word → Word → Held) (ha : readS f.a s = .ok a)
    (hb : readS f.b s = .ok b) (hx : ctrAddr .ctrWr (a + f.imm.signExtend 64) s = .ok (pa, t)) (hr : t.core.held.length < 128) :
    heldCtr f mk s = .ok (Claims.holding (mk pa (a + f.imm.signExtend 64) b) t) := by
  simp [heldCtr, yaAddr, sx, ha, hb, hx, holdAll_one hr]

theorem heldCounterOperations : Claims.HeldCounterOperations := by
  refine ⟨fun f s t a b pa ha hb hx hr => ⟨?_, ?_, fun h => ?_, fun h => ?_⟩, fun f s t a pa ha hx hr => ?_⟩
  · exact congrArg (issue s) (heldCtr_holds _ ha hb hx hr)
  · exact congrArg (issue s) (heldCtr_holds _ ha hb hx hr)
  · have hc : cceilOp f s = .ok (Claims.holding (.cceil pa (a + f.imm.signExtend 64) b) t) := by
      rw [cceilOp, hb, ok_bind, decide_eq_true h, needLegal_true, ok_bind, heldCtr_holds _ ha hb hx hr, gather_ok_eq]
    exact congrArg (issue s) hc
  · have hc : cceilOp f s = raiseIllegal s := by
      rw [cceilOp, hb, ok_bind, decide_eq_false (Nat.not_lt.2 h)]
      exact gather_error _ (by simp [yaStops, ha, hb])
    exact congrArg (issue s) hc
  · have hc : caddiOp f s = .ok (Claims.holding (.cadd pa a (f.imm.setWidth 64)) t) := by
      simp [caddiOp, zx, ha, hx, holdAll_one hr]
    exact congrArg (issue s) hc

/-! ### crd (13 R295) -/

/-- A variable-latency result makes its register a destination at the end of the bundle (01 R32). -/
theorem produceVal_ends (rd : BitVec 6) (v : Word) (first : Nat) (d : Bool) (s : State) : (produceVal rd v first d s).ctx.ends =
    s.ctx.ends ++ [.produce ⟨s.nextId, .sreg (rd.setWidth 5), some (v.setWidth 256), first, d, false, true⟩] := rfl

theorem counterRead {f : YA} {s s1 s2 : State} {a : Word} {bs : List (List Byte)} {pa : Nat} {imm : Bool} (ha : readS f.a s = .ok a)
    (hal : (a + f.imm.signExtend 64).toNat % 16 = 0)
    (hg : globalReadWith .ctrRd true [] [((a + f.imm.signExtend 64).toNat, 16)] s = .ok (bs, s1))
    (hx : coreXlate .ctrRd (a + f.imm.signExtend 64).toNat s1 = .ok ((pa, imm), s2)) :
    ∃ t, exec (.crd f) s = .next t ∧ t.core = s1.core ∧ t.ctx.ends = s1.ctx.ends ++ [.produce ⟨s1.nextId, .sreg (f.c.setWidth 5),
      some ((BitVec.ofNat 64 (if f.ctl = 0 then leNat (bs.headD []) % 2 ^ 64
        else flagMask (leNat (bs.headD []) / 2 ^ 64 % 2 ^ 32) + leNat (bs.headD []) / 2 ^ 96 % 2 ^ 32 * 2 ^ 32)).setWidth 256),
      s1.now, false, false, true⟩] := by
  have hc : crdOp f s = .ok (produceVal f.c (word (if f.ctl = 0 then bits (leNat (bs.headD [])) 63 0
      else flagMask (bits (leNat (bs.headD [])) 95 64) + bits (leNat (bs.headD [])) 127 96 * 2 ^ 32)) s1.now false (nameCtr pa s1)) := by
    simp only [crdOp, yaAddr, sx, ha, ok_bind, needAligned, hal, if_true, hg, hx, liftMem_ok_eq]
  have hlow (n : Nat) : bits n 63 0 = n % 2 ^ 64 := by simp [bits]
  refine ⟨_, congrArg (issue s) hc, rfl, ?_⟩
  rw [produceVal_ends, hlow]
  rfl

/-! ### cwait (13 R296, R297) -/

@[simp] theorem nameCtr_core (pa : Nat) (s : State) : (nameCtr pa s).core = s.core := rfl

/-- The record of an event, and the alarm, are the controller's. -/
theorem overflowCheck_eq (n : Nat) (s : State) : ∃ h c fr, overflowCheck n s = { s with host := h, ctl := c, free := fr } := by
  unfold overflowCheck
  dsimp only
  split
  · unfold record
    dsimp only
    split <;> exact ⟨_, _, _, rfl⟩
  · exact ⟨_, _, _, rfl⟩

theorem rdN_of_mem {s u : State} (h : u.mem = s.mem) (pa n : Nat) : rdN u pa n = rdN s pa n := by
  unfold rdN rdBytes rdByte
  rw [h]

theorem ctrFlags_of_mem {s u : State} (h : u.mem = s.mem) (pa : Nat) : ctrFlags u pa = ctrFlags s pa := by
  rw [ctrFlags, rdN_of_mem h, ctrFlags]

theorem ctrMet_of_mem {s u : State} (h : u.mem = s.mem) (pa thr : Nat) (wf : Bool) : ctrMet u pa thr wf = ctrMet s pa thr wf := by
  unfold ctrMet ctrValue
  rw [rdN_of_mem h, ctrFlags_of_mem h]

theorem registerWaiter_met {w : Waiter} {s : State} (h : ctrMet s w.pa w.thr w.wf = true) : registerWaiter w s = (true, nameCtr w.pa s) := by
  unfold registerWaiter
  dsimp only
  rw [ctrMet_of_mem (nameCtr_mem w.pa s), if_pos h]

theorem registerWaiter_waits {w : Waiter} {s : State} (hm : ctrMet s w.pa w.thr w.wf = false) : ∃ u, registerWaiter w s = (false, u) ∧
    u.waiters = s.waiters ++ [w] ∧ u.core = s.core := by
  obtain ⟨h, c, fr, ho⟩ := overflowCheck_eq (combHome w.pa) (nameCtr w.pa s)
  unfold registerWaiter
  dsimp only
  rw [ctrMet_of_mem (nameCtr_mem w.pa s), if_neg (by simp [hm]), ho]
  exact ⟨_, rfl, rfl, rfl⟩

/-- What `cwait` leaves after it has found its waiter satisfied or registered it. -/
def cwaitAfter (rd : BitVec 5) (pa : Nat) (r : Bool × State) : State :=
  if r.1 then cwaitDone rd (ctrFlags r.2 pa) (dirOf r.2 (pa / 64)).wts r.2
  else mapCtx (fun c => { c with wait := .cwait rd pa r.2.core.st.a.pc }) r.2

theorem cwaitOp_registers {f : YA} {s t : State} {a thr : Word} {pa : Nat} (ha : readS f.a s = .ok a) (hb : readS f.b s = .ok thr)
    (hh : s.core.held = []) (hx : ctrAddr .ctrRd (a + f.imm.signExtend 64) s = .ok (pa, t)) (hs : homeServes t (pa / 64) = .ok ()) :
    cwaitOp f s = .ok (cwaitAfter (f.c.setWidth 5) pa (registerWaiter ⟨pa, thr.toNat, f.wf == 1, .core t.core.id⟩ t)) := by
  simp [cwaitOp, cwaitAfter, yaAddr, sx, ha, hb, needNoHeld, hh, hx, hs]

theorem cwaitDone_arch (rd : BitVec 5) (flags n : Nat) (s : State) :
    (cwaitDone rd flags n s).core.st.a = setReg rd (word flags) s.core.st.a := rfl

theorem regVal_of_setReg {r : BitVec 5} {v : Word} {a : Arch} {u : State} (h : u.core.st.a = setReg r v a) (hr : r ≠ 0) :
    regVal u r = v := by
  rw [regVal, if_neg hr, h, setReg_of_ne v a hr]
  simp

/-- `cwait` with something held raises wait-with-held, whatever else its sources would do (01 R25). -/
theorem cwaitOp_held {f : YA} {s : State} {a thr : Word} (ha : readS f.a s = .ok a) (hb : readS f.b s = .ok thr)
    (hh : s.core.held ≠ []) : cwaitOp f s = raise s cWaitHeld (word s.core.held.length) := by
  have hn : needNoHeld s = raise s cWaitHeld (word s.core.held.length) := by
    rw [needNoHeld, need, if_neg (by simpa using hh)]
  rw [cwaitOp, yaAddr, ha, hb, hn]
  exact gather_error _ (by simp [waitStop, hn, yaStops, ha, hb, raise])

/-- A wake gives the waiting strand the flag word, and the strand goes on (13 R297). -/
theorem cwaitWake_event {c : CoreId} {fl : BitVec 32} {n : Nat} {s : State} {rd : BitVec 5} {pa : Nat} {pc : BPc}
    (hw : (coreOf s c).st.wait = .cwait rd pa pc) :
    ∃ t, exec (.cwaitWake c fl n) s = .next t ∧ (coreOf t c).st.wait = .none ∧ (coreOf t c).st.a = setReg rd (fl.setWidth 64) (coreOf s c).st.a ∧
      (coreOf t c).pts = Nat.max (coreOf s c).pts n := by
  have hx : exec (.cwaitWake c fl n) s = .next (atCore c (fun u => mapSt endWait (cwaitDone rd fl.toNat n u)) s) := by
    rw [← focus_core] at hw
    unfold exec execCwaitWake
    simp only [hw]
    rfl
  refine ⟨_, hx, ?_⟩
  rw [coreOf_atCore (focus_core_id c s), ← focus_core]
  refine ⟨rfl, ?_, rfl⟩
  change setReg rd (word fl.toNat) _ = _
  rw [word, BitVec.ofNat_toNat]

theorem counterWaits : Claims.CounterWaits := by
  refine ⟨fun f s s1 s2 a bs pa imm => counterRead, fun f s t a thr pa ha hb hh hx hs => ⟨fun hm => ?_, fun hm => ?_⟩,
    fun f s a thr ha hb hh => congrArg (issue s) (cwaitOp_held ha hb hh), fun c fl n s rd pa pc hw => ?_⟩
  · obtain ⟨u, hu, hwt, hco⟩ := registerWaiter_waits (w := ⟨pa, thr.toNat, f.wf == 1, .core t.core.id⟩) hm
    have hc := cwaitOp_registers ha hb hh hx hs
    rw [hu] at hc
    refine ⟨_, congrArg (issue s) hc, hwt, ?_, hco⟩
    exact congrArg (fun k : Core => Wait.cwait (f.c.setWidth 5) pa k.st.a.pc) hco
  · have hc := cwaitOp_registers ha hb hh hx hs
    rw [registerWaiter_met hm] at hc
    have harch := cwaitDone_arch (f.c.setWidth 5) (ctrFlags (nameCtr pa t) pa) (dirOf (nameCtr pa t) (pa / 64)).wts (nameCtr pa t)
    have hfl := ctrFlags_of_mem (nameCtr_mem pa t) pa
    refine ⟨_, congrArg (issue s) hc, rfl, rfl, fun hr => ?_, fun hr => ?_⟩
    · exact (regVal_of_setReg harch hr).trans (congrArg word hfl)
    · exact harch.trans (by simp [hr])
  · obtain ⟨t, hx, hwt, ha, hp⟩ := cwaitWake_event (fl := fl) (n := n) hw
    refine ⟨t, hx, hwt, fun hr => ?_, fun hr => ?_, ?_, ?_⟩
    · simp [ha, setReg_of_ne _ _ hr]
    · simp [ha, hr]
    · exact hp ▸ Nat.le_max_right ..
    · exact hp ▸ Nat.le_max_left ..

/-- Settles O29: the issues by what they answer once their sources read and translate, the wake by the core that it names. -/
theorem counterInstructions : Obligations.CounterInstructions := ⟨heldCounterOperations, counterWaits⟩

end Sys2Proof.Machine
end

section
/-! SUPPORT. The bytes of numbers, vectors and store pieces, and a region's loads and stores (O14). -/
namespace Sys2Proof.Machine

/-! ### Bytes of little-endian numbers and of vectors -/

/-- Byte i of a little-endian number. -/
theorem leNat_byte (bs : List Byte) (i : Nat) : leNat bs / 2 ^ (8 * i) % 256 = (bs.getD i 0).toNat := by
  induction bs generalizing i with
  | nil => simp [leNat]
  | cons b t ih =>
    have hc : leNat (b :: t) = leNat t * 256 + b.toNat := rfl
    have hb : b.toNat < 256 := b.isLt
    rw [hc]
    cases i with
    | zero => simp; omega
    | succ i =>
      have hp : 2 ^ (8 * (i + 1)) = 256 * 2 ^ (8 * i) := by rw [show 8 * (i + 1) = 8 + 8 * i by ring, pow_add]; rfl
      have hd : (leNat t * 256 + b.toNat) / 256 = leNat t := by omega
      rw [hp, ← Nat.div_div_eq_div_mul, hd, ih i]
      rfl

theorem leNat_lt (bs : List Byte) : leNat bs < 256 ^ bs.length := by
  induction bs with
  | nil => simp [leNat]
  | cons b t ih =>
    have hc : leNat (b :: t) = leNat t * 256 + b.toNat := rfl
    have hb : b.toNat < 256 := b.isLt
    rw [hc, List.length_cons, pow_succ]
    omega

theorem vecOfBytes_eq (bs : List Byte) : vecOfBytes bs = BitVec.ofNat 512 (leNat bs) := by
  unfold vecOfBytes ofLanes leNat
  rw [List.foldr_map]
  congr 1
  induction bs with
  | nil => rfl
  | cons b t ih =>
    have hb : b.toNat < 256 := b.isLt
    simp only [List.foldr_cons, ih]
    omega

theorem extract_byte_ofNat (n : Nat) {w i : Nat} (h : 8 * i + 8 ≤ w) :
    ((BitVec.ofNat w n).extractLsb' (8 * i) 8).toNat = n / 2 ^ (8 * i) % 256 := by
  have hp : 2 ^ w = 2 ^ (8 * i) * 2 ^ (w - 8 * i) := by rw [← pow_add]; congr 1; omega
  have hq : (256 : Nat) ∣ 2 ^ (w - 8 * i) := Nat.pow_dvd_pow 2 (show 8 ≤ w - 8 * i by omega)
  rw [BitVec.extractLsb'_toNat, BitVec.toNat_ofNat, Nat.shiftRight_eq_div_pow, hp, Nat.mod_mul_right_div_self]
  exact Nat.mod_mod_of_dvd _ hq

/-- A byte of a vector made of bytes. -/
theorem vecByte_vecOfBytes (bs : List Byte) {i : Nat} (hi : i < 64) : vecByte (vecOfBytes bs) i = bs.getD i 0 := by
  apply BitVec.eq_of_toNat_eq
  rw [← leNat_byte bs i, vecOfBytes_eq, vecByte, extract_byte_ofNat _ (by omega)]

/-- A byte of a line. -/
theorem vecByte_lineVec (s : State) (line : Nat) {i : Nat} (hi : i < 64) : vecByte (lineVec s line) i = rdByte s (64 * line + i) := by
  rw [lineVec, vecByte_vecOfBytes _ hi]
  simp [rdBytes, List.getD_eq_getElem?_getD, hi]

/-! ### Store pieces (01 R23) -/

/-- A store piece's mask names its bytes' places in the block. -/
theorem storeMask_bit (len off : Nat) {i : Nat} (hi : i < 64) :
    (BitVec.ofNat 64 ((2 ^ len - 1) * 2 ^ off)).getLsbD i = decide (off ≤ i ∧ i < off + len) := by
  rw [BitVec.getLsbD_ofNat, Nat.testBit_mul_two_pow, Nat.testBit_two_pow_sub_one]
  by_cases h : off ≤ i
  · have hs : i - off < len ↔ i < off + len := by omega
    simp [hi, h, hs]
  · simp [h]

theorem storePieceBytes : Claims.StorePieceBytes := by
  intro pa va bs wm a hl
  change (if pa / 64 * 64 ≤ a && a < pa / 64 * 64 + 64 &&
      (BitVec.ofNat 64 ((2 ^ bs.length - 1) * 2 ^ (pa % 64))).getLsbD (a - pa / 64 * 64) then
    some (vecByte (vecOfBytes (List.replicate (pa % 64) 0 ++ bs)) (a - pa / 64 * 64)) else none) = _
  by_cases hb : pa / 64 * 64 ≤ a ∧ a < pa / 64 * 64 + 64
  · obtain ⟨h1, h2⟩ := hb
    have hi : a - pa / 64 * 64 < 64 := by omega
    have hr : (pa % 64 ≤ a - pa / 64 * 64 ∧ a - pa / 64 * 64 < pa % 64 + bs.length) ↔ (pa ≤ a ∧ a < pa + bs.length) := by omega
    rw [storeMask_bit _ _ hi, vecByte_vecOfBytes _ hi]
    simp only [h1, h2, hr, decide_true, Bool.true_and, decide_eq_true_eq]
    split
    next h =>
      have hlen : a - pa < bs.length := by omega
      have ho : a - pa / 64 * 64 - pa % 64 = a - pa := by omega
      rw [List.getD_append_right _ _ _ _ (by simp; omega), List.length_replicate, ho, List.getD_eq_getElem _ _ hlen,
        List.getElem?_eq_getElem hlen]
    next => rfl
  · rw [if_neg (by simp; omega), if_neg (by omega)]

/-! ### A region's reads (12 R271) -/

@[simp] theorem setPst_core (line p : Nat) (s : State) : (setPst line p s).core = s.core := by
  unfold setPst
  dsimp only
  split <;> rfl

@[simp] theorem dropClean_core (line : Nat) (s : State) : (dropClean line s).core = s.core := by
  unfold dropClean
  dsimp only
  split <;> simp

@[simp] theorem evictLine_core (v : SliceLine) (s : State) : (evictLine v s).core = s.core := by
  unfold evictLine
  dsimp only
  (repeat' split) <;> simp [askPool]

@[simp] theorem touchLine_core (line : Nat) (wr : Bool) (s : State) : (touchLine line wr s).core = s.core := by
  unfold touchLine
  dsimp only
  split <;> simp

@[simp] theorem touchAll_core (ls : List Nat) (s : State) : (touchAll ls s).core = s.core := by
  induction ls generalizing s with
  | nil => rfl
  | cons l ls ih => exact (ih _).trans (touchLine_core l false s)

theorem keepDie_core (d : Nat) (t : Tlb) (s : State) : (keepDie d t s).core = s.core := by
  unfold keepDie
  dsimp only
  split <;> rfl

theorem lookupTlb_l1 {s u : State} {va : Nat} {t : Tlb} (h : lookupTlb s va = .ok (t, u)) : u.core.l1 = s.core.l1 := by
  unfold lookupTlb at h
  dsimp only at h
  split at h
  · cases h
    rfl
  split at h
  · cases h
    rfl
  · refine bothRead h fun w _ h => ?_
    cases h
    simp [mapCore, keepDie_core]

/-- A translation leaves the L1 as it is. -/
theorem coreXlate_l1 {acc : Acc} {va : Nat} {s u : State} {r : Nat × Bool} (h : coreXlate acc va s = .ok (r, u)) :
    u.core.l1 = s.core.l1 := by
  unfold coreXlate at h
  refine bothRead h fun ⟨t, w⟩ h1 h => bothRead h fun pa _ h => ?_
  cases h
  exact lookupTlb_l1 h1

/-- A line read by a core that holds none is the home's (12 R271). -/
theorem regionLine_fresh {line : Nat} {rop : Bool} {s u : State} {v : Vec} (hl : s.core.l1 = []) (h : regionLine line rop s = .ok (v, u)) :
    v = lineVec s line := by
  unfold regionLine at h
  simp only [hl, List.find?_nil, ite_self] at h
  refine bothRead h fun _ _ h => ?_
  split at h
  · split at h <;> cases h
    rfl
  split at h
  · cases h
  · split at h <;> cases h
    rfl

/-- A read of one chunk is of one line, with the held bytes that a load sees laid over (01 R23). -/
theorem globalReadWith_one {acc : Acc} {chk : Bool} {va n pa : Nat} {imm : Bool} {s s' t : State} {r : List (List Byte)}
    (hx : coreXlate acc va s = .ok ((pa, imm), s')) (h : globalReadWith acc chk [] [(va, n)] s = .ok (r, t)) :
    ∃ v, regionLine (pa / 64) imm s' = .ok (v, t) ∧
      r = [(List.range n).map fun i => (heldByte (seenHeld t) (pa + i)).getD (vecByte v (pa % 64 + i))] := by
  unfold globalReadWith at h
  simp only [xlateAll, hx] at h
  split at h
  · cases h
  split at h
  · cases h
  unfold readChunks at h
  refine bothRead h fun ⟨v, u⟩ h1 h => ?_
  cases h
  exact ⟨v, h1, rfl⟩

/-- Byte i of a read: the last store to it held from earlier bundles, else the byte committed in memory (01 R23, 02 R48). -/
theorem regionReads : Claims.RegionReads := by
  intro s s' t va n pa imm v hx hl hp h
  have hreads := globalRead1_reads h
  have hs := coreXlate_reads hx
  unfold globalRead1 globalRead at h
  refine bothRead h fun ⟨r, w⟩ h1 h => ?_
  obtain ⟨line, hline, rfl⟩ := globalReadWith_one hx h1
  cases h
  rw [regionLine_fresh ((coreXlate_l1 hx).trans hl) hline]
  refine ⟨fun i hi => ?_, ?_, rdByte_of_mem hreads.mem, hreads.held⟩
  · have hseen : seenHeld t = seenHeld s := by rw [seenHeld, hreads.held, hreads.ctx, seenHeld]
    have ha : 64 * (pa / 64) + (pa % 64 + i) = pa + i := by omega
    rw [leNat_byte, List.headD_cons, hseen, List.getD_eq_getElem _ _ (by simpa using hi), List.getElem_map, List.getElem_range,
      vecByte_lineVec _ _ (by omega), ha, rdByte_of_mem hs.mem]
  · simpa using leNat_lt ((List.range n).map fun i => (heldByte (seenHeld t) (pa + i)).getD (vecByte (lineVec s' (pa / 64)) (pa % 64 + i)))

/-! ### ld and st (09 R211, R212) -/

theorem worstErr_access (va : Nat) : worstErr [.access va] = some (.access va) := rfl

theorem alignErr_access {va n : Nat} {s : State} (h1 : ∃ t, lookupTlb s va = .ok t)
    (h2 : ∃ t, lookupTlb s ((va + n - 1) / 65536 * 65536) = .ok t) : alignErr va n s = .access va := by
  obtain ⟨t, ht⟩ := h1
  obtain ⟨u, hu⟩ := h2
  simp [alignErr, ht, hu, worstErr_access]

theorem needAligned_access {a : Word} {n : Nat} {s : State} (hn : a.toNat % n ≠ 0) (h1 : ∃ t, lookupTlb s a.toNat = .ok t)
    (h2 : ∃ t, lookupTlb s ((a.toNat + n - 1) / 65536 * 65536) = .ok t) : needAligned a.toNat n s = raise s cAccess a := by
  rw [needAligned, if_neg hn, alignErr_access h1 h2, memStop, word, BitVec.ofNat_toNat, BitVec.setWidth_eq]

theorem f0Reg_reg (f : LS) : (f0Reg f).setWidth 5 = f.f0.setWidth 5 := by
  apply BitVec.eq_of_toNat_eq
  simp [f0Reg]

theorem loadProduces {f : LS} {s t0 : State} {a : Word} {v : Nat} (ha : lsAddr f s = .ok a) (hn : a.toNat % 2 ^ f.sz.toNat = 0)
    (hg : globalRead1 a.toNat (2 ^ f.sz.toNat) s = .ok (v, t0)) :
    ldOp f s = .ok (produceVal (f0Reg f) (lsExtend f v) t0.now false t0) := by
  simp only [ldOp, ha, ok_bind, lsSize, needAligned, hn, if_true, hg, liftMem_ok_eq, gather_ok_eq]

theorem storeHolds {f : LS} {s t0 : State} {a v : Word} {pa : Nat} (ha : lsAddr f s = .ok a) (hv : readS (f.f0.setWidth 6) s = .ok v)
    (hn : a.toNat % 2 ^ f.sz.toNat = 0) (hx : xlateW .wr a.toNat s = .ok (pa, t0)) (hr : t0.core.held.length < 128) :
    stOp f s = .ok (Claims.holding (storePiece pa a.toNat (natBytes (2 ^ f.sz.toNat) v.toNat) none) t0) := by
  simp only [stOp, ha, ok_bind, f0Reg, hv, lsSize, needAligned, hn, if_true, hx, holdAll_one hr, gather_ok_eq]

theorem scalarGlobalAccess : Claims.ScalarGlobalAccess := by
  refine ⟨fun f s t0 a v ha hn hg => ?_, fun f s t0 a v pa ha hv hn hx hr => congrArg (issue s) (storeHolds ha hv hn hx hr),
    fun f s a ha hn h1 h2 => ⟨fun hm => ?_, fun ⟨v, hv⟩ => ?_⟩⟩
  · have hc := loadProduces ha hn hg
    have hnow : t0.now = s.now := (globalRead1_reads hg).now
    refine ⟨_, max t0.now (t0.now + Config.freeTime t0.free), congrArg (issue s) hc, Nat.le_max_left .., ?_, rfl, rfl⟩
    rw [produceVal_ends, f0Reg_reg, hnow]
    rfl
  · have hc : ldOp f s = raise s cAccess a := by
      rw [ldOp, ha, ok_bind, lsSize, needAligned_access hn h1 h2]
      exact gather_error _ (by simp [hm])
    exact congrArg (issue s) hc
  · have hc : stOp f s = raise s cAccess a := by
      rw [stOp, ha, ok_bind, f0Reg, hv, ok_bind, lsSize, needAligned_access hn h1 h2]
      exact gather_error _ (by simp [lsAddrStop, ha])
    exact congrArg (issue s) hc

/-- Settles O14: pieces and reads byte by byte, `ld` and `st` by what their checks answer. -/
theorem globalLoadsAndStores : Obligations.GlobalLoadsAndStores := ⟨storePieceBytes, regionReads, scalarGlobalAccess⟩

end Sys2Proof.Machine
end

section
/-! SUPPORT. Checkpoints, the flags of a bundle, and the steps of a region's commit (O34). -/
namespace Sys2Proof.Machine

/-! ### The token, a failed validation and the end of a region -/

@[simp] theorem releaseToken_ctx (s : State) : (releaseToken s).ctx = s.ctx := by
  simp [releaseToken, apply_ite State.ctx, mapCore]

@[simp] theorem releaseToken_now (s : State) : (releaseToken s).now = s.now := by
  simp [releaseToken, apply_ite State.now, mapCore]

@[simp] theorem releaseToken_dir (s : State) : (releaseToken s).dir = s.dir := by
  simp [releaseToken, apply_ite State.dir, mapCore]

/-- A request for the token marks the core, unless it holds or awaits the token. -/
theorem requestToken_core (s : State) : (requestToken s).core = s.core ∨ (requestToken s).core = { s.core with pinReq := true } := by
  unfold requestToken
  split
  · exact .inl rfl
  · exact .inr rfl

theorem rollback_saves_core (pc : BPc) (s : State) : (rollback finishSaves pc s).core.id = s.core.id ∧
    (rollback finishSaves pc s).core.held = [] ∧ (rollback finishSaves pc s).core.commit = none :=
  ⟨(finishSaves_sameStrand s).2, rfl, rfl⟩

/-- A failed validation: the region re-executes from its checkpoint, with nothing held and RETRY one higher (12 R278, R279). -/
theorem failRegion_core (ls : List Nat) (s : State) : (failRegion ls s).core.id = s.core.id ∧ (failRegion ls s).core.held = [] ∧
    (failRegion ls s).core.commit = none ∧ (failRegion ls s).core.st.a = { s.core.st.shadow with pc := resumePc s.core.st } ∧
    (failRegion ls s).core.st.retry = min 3 (s.core.st.retry + 1) ∧
    (failRegion ls s).core.st.pin = (min 3 (s.core.st.retry + 1) == 3) := by
  obtain ⟨hid, hheld, hcommit⟩ := rollback_saves_core (resumePc s.core.st) s
  have ha := congrArg Strand.a (rollback_saves_st (resumePc s.core.st) s)
  unfold failRegion
  extract_lets t n u v w
  have hw : w.core.id = s.core.id ∧ w.core.held = [] ∧ w.core.commit = none ∧ w.core.st.a = { s.core.st.shadow with pc := resumePc s.core.st } ∧
      w.core.st.retry = n ∧ w.core.st.pin = (n == 3) := by
    simp [w, v, u, t, mapSt, mapCore, releaseToken_core, hid, hheld, hcommit, ha]
  clear_value w
  split
  · rcases requestToken_core w with h | h <;> rw [h] <;> exact hw
  · exact hw

/-- The end of a region: nothing is held, the next begins at this bundle with this state, and PTS is at least the clock's (01 R22, 12 R272). -/
theorem closeRegion_core (s : State) : (closeRegion s).core.st.a = s.core.st.a ∧ (closeRegion s).core.st.shadow = s.core.st.a ∧
    (closeRegion s).core.st.ckDone = true ∧ (closeRegion s).core.st.retry = 0 ∧ (closeRegion s).core.st.pin = false ∧
    (s.core.st.tm = false → (closeRegion s).core.st.ckptPc = s.core.st.a.pc) ∧
    (s.core.st.tm = true → (closeRegion s).core.st.hckpt = s.core.st.a.pc) := by
  simp only [closeRegion, captureCkpt, mapSt, mapCore, clearEngines, releaseToken_core]
  exact ⟨trivial, trivial, trivial, trivial, trivial, fun h => by simp [h], fun h => by simp [h]⟩

theorem closeRegion_engines (s : State) : (closeRegion s).core.id = s.core.id ∧ (closeRegion s).core.held = [] ∧
    (closeRegion s).core.commit = none ∧ (closeRegion s).core.coef = [] ∧
    (closeRegion s).core.grad = [] ∧ (closeRegion s).core.banks = Vector.replicate 8 .init ∧
    (closeRegion s).core.pts = max s.core.pts (s.now / 16) := by
  simp [closeRegion, captureCkpt, mapSt, mapCore, clearEngines, releaseToken_core]

@[simp] theorem closeRegion_ctx (s : State) : (closeRegion s).ctx = s.ctx := by
  simp [closeRegion, captureCkpt, mapSt, mapCore]

@[simp] theorem closeRegion_dir (s : State) : (closeRegion s).dir = s.dir := by
  simp [closeRegion, captureCkpt, mapSt, mapCore]

/-! ### Checkpoints (01 R22) -/

/-- A commit that has a home to apply goes on with one event; its plan stays as it is once it has its time, or while it has homes to
reserve (12 R276). -/
theorem commitNext_open {m : Commit} (ha : m.toApply ≠ []) (s : State) : ∃ n e,
    commitNext m s = due s.now e (mapCore (fun k => { k with commit := some n }) s) ∧ (m.todo ≠ [] ∨ m.t ≠ none → n = m) := by
  unfold commitNext
  extract_lets c t n u
  have hn : n.toApply = m.toApply := by
    simp only [n]
    split <;> rfl
  refine ⟨n, ?_⟩
  have he : ∃ e, (match n.todo, n.renewals, n.toApply with
      | h :: _, _, _ => due u.now (.reserve c h) u
      | [], l :: _, _ => due u.now (.renew c l) u
      | [], [], h :: _ => due u.now (.apply c h) u
      | [], [], [] => finishCommit t u) = due u.now e u := by
    split
    · exact ⟨_, rfl⟩
    · exact ⟨_, rfl⟩
    · exact ⟨_, rfl⟩
    next h => exact absurd (hn ▸ h) ha
  obtain ⟨e, he⟩ := he
  refine ⟨e, he, fun h => ?_⟩
  simp only [n]
  rw [if_neg]
  simpa [List.isEmpty_iff, imp_iff_not_or] using h

theorem commitNext_done {m : Commit} {t : Nat} (ht : m.todo = []) (hm : m.t = some t) (hr : m.renewals = []) (ha : m.toApply = [])
    (s : State) : commitNext m s = finishCommit t (mapCore (fun k => { k with commit := some m }) s) := by
  unfold commitNext
  simp [ht, hm, hr, ha, mapCore]

theorem combHome_lt (pa : Nat) : combHome pa < 128 := by
  unfold combHome
  refine Nat.xor_lt_two_pow (n := 7) ?_ (by omega)
  iterate 5 refine Nat.xor_lt_two_pow ?_ (Nat.mod_lt _ (by decide))
  exact Nat.mod_lt _ (by decide)

/-- Every line has a home, so a region that holds writes has a home to reserve. -/
theorem homesOf_ne_nil {ls : List Nat} (h : ls ≠ []) : homesOf ls ≠ [] := by
  obtain ⟨l, hl⟩ := List.exists_mem_of_ne_nil ls h
  refine List.ne_nil_of_mem (a := homeOf l) ?_
  simp only [homesOf]
  rw [if_neg (by simpa using h)]
  simp only [List.mem_filter, List.mem_range, List.contains_eq_mem, List.mem_map, decide_eq_true_eq]
  exact ⟨combHome_lt _, l, hl, rfl⟩

theorem bankOf_cleared {c : Core} (h : c.banks = Vector.replicate 8 .init) (b : Nat) : bankOf c b = .init := by
  unfold bankOf
  rw [h]
  by_cases hb : b < 8 <;> simp [hb]

theorem checkpointSteps : Claims.CheckpointSteps := by
  refine ⟨fun s hs => ⟨fun hd => ?_, fun hd => ?_⟩, fun s hs => ⟨fun hdm hp => ?_, fun hdm hp => ?_, fun hdm => ?_⟩⟩
  · simp [exec, execCheckpoint, hs, hd, holdBack]
  · simp [exec, execCheckpoint, hs, hd]
  · have hx : exec .checkpoint s = .next (closeRegion s) := by simp [exec, execCheckpoint, hs, hdm, hp]
    obtain ⟨ha, hsh, hck, hre, hpin, hc, hh⟩ := closeRegion_core s
    obtain ⟨-, hheld, -, hcoef, hgrad, hbank, -⟩ := closeRegion_engines s
    exact ⟨_, hx, closeRegion_ctx s, ha, hsh, hck, hre, hpin, hc, hh, hheld, hcoef, hgrad, fun b _ => by rw [bankOf_cleared hbank]; rfl,
      rdByte_of_mem (closeRegion_mem s)⟩
  · have hx : exec .checkpoint s = .next (holdBack (beginCommit s)) := by simp [exec, execCheckpoint, hs, hdm, hp]
    refine ⟨_, hx, rfl, fun hst hw => ?_, fun hst => ?_⟩
    · have hb : beginCommit s = commitNext ⟨homesOf (writeSet s.core), 0, none, [], homesOf (writeSet s.core)⟩ s := by
        simp [beginCommit, hst]
      have hh := homesOf_ne_nil hw
      obtain ⟨n, e, hc, hn⟩ := commitNext_open (m := ⟨homesOf (writeSet s.core), 0, none, [], homesOf (writeSet s.core)⟩) hh s
      rw [hb, hc, hn (.inl hh)]
      exact ⟨rfl, _, rfl, rfl, rfl, rfl⟩
    · have hb : beginCommit s = failRegion [] s := by simp [beginCommit, hst]
      obtain ⟨-, hheld, hcommit, ha, hre, -⟩ := failRegion_core [] s
      rw [hb]
      exact ⟨hcommit, hheld, congrArg Arch.pc ha, hre⟩
  · simp [exec, execCheckpoint, hs, hdm, cDirty, word]

/-! ### The flags of a bundle (01 R31, R43, R44) -/

/-- A tile that has arrived is seen without its assumed landing cycle (01 R30). -/
def landTile (now : Nat) (t : Tile) : Tile := if t.vecs.isSome && t.ready ≤ now then { t with due := none } else t

theorem landTile_fields (now : Nat) (t : Tile) : (landTile now t).id = t.id ∧ (landTile now t).vecs = t.vecs ∧ (landTile now t).ready = t.ready := by
  unfold landTile
  split <;> exact ⟨rfl, rfl, rfl⟩

theorem landTiles_eq (now : Nat) (c : Core) : landTiles now c = { c with queues := c.queues.map fun ts => ts.map (landTile now) } := rfl

/-- With nothing pending only tiles land. -/
theorem landDue_nothing {s : State} (h : s.core.st.pend = []) : landDue true s = mapCore (landTiles (pipeClock s)) s := by
  simp [landDue, h, landLoop]

theorem settled_landTiles (n : Nat) (s : State) : settled true (mapCore (landTiles n) s) = settled true s := by
  simp [settled, mapCore, landTiles_eq, Function.comp_def, landTile_fields]
  rfl

theorem settled_nothing {s : State} (h : settled true s = true) : s.core.st.pend = [] := by
  unfold settled at h
  obtain ⟨-, hp⟩ := (Bool.and_eq_true _ _).mp h
  cases hl : s.core.st.pend with
  | nil => rfl
  | cons p l => simp [hl] at hp

theorem bundleFlags : Claims.BundleFlags := by
  refine ⟨fun s h => ?_, fun s h => ?_, fun s h => ?_, fun s hb hp => ?_, fun s hp => ?_, fun s hb hp => ?_⟩
  · simp [exec, execOrderedBundle, h]
  · simp [exec, execOrderedBundle, h, holdBack]
  · have hl := landDue_nothing (settled_nothing h)
    have hx : exec .orderedBundle s = .next (mapCore (landTiles (pipeClock s)) s) := by
      simp [exec, execOrderedBundle, hl, settled_landTiles, h]
    refine ⟨_, hx, rfl, fun q hq => ?_⟩
    simp [mapCore, landTiles_eq, hq, Function.comp_def, landTile_fields]
  · simp [exec, execBreakpoint, hp, hb]
  · simp [exec, execBreakpoint, hp]
    rfl
  · simp [exec, execBreakpoint, hp, hb]
    rfl

/-! ### Reservations (12 R277) -/

theorem focus_self {c : CoreId} {s : State} (h : s.core.id = c) : focus c s = s := if_pos h

/-- An event at the focused core that leaves it in focus. -/
theorem atCore_self {c : CoreId} {f : State → State} {s : State} (h : s.core.id = c) (hf : (f s).core.id = c) : atCore c f s = f s := by
  unfold atCore
  rw [focus_self h, h]
  exact focus_self hf

theorem findKey_putKey_of_ne {α : Type} {j k : Nat} (v : α) (h : j ≠ k) (l : List (Nat × α)) : findKey (putKey l k v) j = findKey l j := by
  induction l with
  | nil => simp [findKey, putKey, Ne.symm h]
  | cons e l ih =>
    unfold putKey
    split
    next hk => simp [findKey, hk, Ne.symm h]
    next =>
      unfold findKey at ih ⊢
      by_cases he : e.1 = j <;> simp [he, ih]

/-- An entry that is set leaves the others. -/
theorem dirOf_setDir_of_ne {j k : Nat} (d : Dir) (s : State) (h : j ≠ k) : dirOf (setDir k d s) j = dirOf s j := by
  simp [dirOf, setDir, findKey_putKey_of_ne d h, hcOf]

/-- Lines reserved one after another for a core. -/
def reserveAll (c : CoreId) (ls : List Nat) (s : State) : State := ls.foldl (fun s l => setDir l { dirOf s l with resv := some c } s) s

@[simp] theorem reserveAll_core (c : CoreId) (ls : List Nat) (s : State) : (reserveAll c ls s).core = s.core := by
  induction ls generalizing s with
  | nil => rfl
  | cons l ls ih => exact ih _

@[simp] theorem reserveAll_mem (c : CoreId) (ls : List Nat) (s : State) : (reserveAll c ls s).mem = s.mem := by
  induction ls generalizing s with
  | nil => rfl
  | cons l ls ih => exact ih _

theorem reserveAll_resv (c : CoreId) (ls : List Nat) (s : State) (l : Nat) (h : l ∈ ls ∨ (dirOf s l).resv = some c) :
    (dirOf (reserveAll c ls s) l).resv = some c := by
  induction ls generalizing s with
  | nil => exact h.resolve_left List.not_mem_nil
  | cons k ls ih =>
    refine ih _ ?_
    by_cases hk : l = k
    · exact .inr (by rw [hk, dirOf_setDir])
    · rw [dirOf_setDir_of_ne _ _ hk]
      exact h.imp_left fun h => (List.mem_cons.1 h).resolve_left hk

/-- The lines of a home that the focused core writes. -/
def linesAt (home : Nat) (c : Core) : List Nat := (writeSet c).filter fun l => homeOf l == home

theorem mem_linesAt {home l : Nat} {c : Core} : l ∈ linesAt home c ↔ l ∈ writeSet c ∧ homeOf l = home := by simp [linesAt]

theorem reserveHome_ok {home : Nat} {s : State} (m : Commit) (h : ∀ l ∈ linesAt home s.core, reserveMeets s l = .ok) :
    ∃ k, reserveHome home m s = commitNext { m with todo := m.todo.tail, m := k } (reserveAll s.core.id (linesAt home s.core) s) := by
  unfold reserveHome
  extract_lets c ls rs
  have hrs : ∀ e ∈ rs, e.2 = .ok := fun e he => by
    obtain ⟨l, hl, rfl⟩ := List.mem_map.1 he
    exact h l hl
  have hany (x : Meets) (hx : x ≠ .ok) : ¬ (rs.any fun e => e.2 == x) = true := fun ha => by
    obtain ⟨e, he, hex⟩ := List.any_eq_true.1 ha
    exact hx ((eq_of_beq hex).symm.trans (hrs e he))
  split
  next l x hf => exact absurd (List.any_eq_true.2 ⟨_, List.mem_of_find?_eq_some hf, List.find?_some hf⟩) (hany .poison Meets.noConfusion)
  next =>
    rw [if_neg (hany _ Meets.noConfusion), if_neg (hany _ Meets.noConfusion), if_neg]
    · exact ⟨_, rfl⟩
    · simpa using hrs

theorem reserveHome_fail {home : Nat} {s : State} (m : Commit) (hf : ∃ l ∈ linesAt home s.core, reserveMeets s l = .fail)
    (hp : ∀ l ∈ linesAt home s.core, reserveMeets s l ≠ .poison) : reserveHome home m s = failRegion [] s := by
  unfold reserveHome
  extract_lets c ls rs
  split
  next l x hx =>
    obtain ⟨k, hk, he⟩ := List.mem_map.1 (List.mem_of_find?_eq_some hx)
    have hpoison : x = .poison := eq_of_beq (List.find?_some (p := fun e : Nat × Meets => e.2 == .poison) hx)
    exact absurd ((congrArg Prod.snd he).trans hpoison) (hp k hk)
  next =>
    rw [if_pos]
    obtain ⟨l, hl, he⟩ := hf
    exact List.any_eq_true.2 ⟨_, List.mem_map.2 ⟨l, hl, rfl⟩, by simp [he]⟩

theorem execReserve_eq {c : CoreId} {home : Nat} {s : State} {m : Commit} {rest : List Nat} (hc : s.core.id = c)
    (hl : s.core.lockWait = []) (hm : s.core.commit = some m) (ht : m.todo = home :: rest) (hs : s.core.stale = false)
    (hid : (reserveHome home m s).core.id = c) : exec (.reserve c home) s = .next (reserveHome home m s) := by
  refine congrArg Host.Outcome.next ?_
  rw [atCore_self hc] <;> simp [hl, hm, ht, staleFails, hs]
  exact hid

theorem commitReserves : Claims.CommitReserves := by
  intro c home s m rest hc hl hm ht ha hs
  refine ⟨fun h => ?_, fun ⟨l, hw, hh, hf⟩ hp => ?_⟩
  · obtain ⟨k, hr⟩ := reserveHome_ok m fun l hl => h l (mem_linesAt.1 hl).1 (mem_linesAt.1 hl).2
    obtain ⟨n, e, hn, -⟩ := commitNext_open (m := { m with todo := m.todo.tail, m := k }) ha (reserveAll s.core.id (linesAt home s.core) s)
    rw [hn] at hr
    refine ⟨_, execReserve_eq hc hl hm ht hs (by simp [hr, mapCore, hc]), ?_⟩
    rw [hr]
    refine ⟨rfl, by simp [mapCore], fun l hw hh => ?_, rdByte_of_mem (reserveAll_mem ..)⟩
    exact hc ▸ reserveAll_resv s.core.id _ s l (.inl (mem_linesAt.2 ⟨hw, hh⟩))
  · have hr := reserveHome_fail m ⟨l, mem_linesAt.2 ⟨hw, hh⟩, hf⟩ fun l hl => hp l (mem_linesAt.1 hl).1 (mem_linesAt.1 hl).2
    obtain ⟨hid, hheld, hcommit, harch, hre, hpin⟩ := failRegion_core [] s
    refine ⟨_, execReserve_eq hc hl hm ht hs (by rw [hr, hid, hc]), ?_⟩
    rw [hr, hpin]
    refine ⟨hcommit, hheld, (congrArg Arch.pc harch :), (congrArg Arch.regs harch :), hre, ?_⟩
    rw [beq_iff_eq]
    omega

/-! ### Renewals (12 R277, R278) -/

/-- The core's own record of a lease that has been raised: in its L1 line and its read-victim table. -/
def raiseLeases (line t : Nat) (k : Core) : Core :=
  { k with
    l1 := k.l1.map fun l => if l.pa / 64 = line && l.rd then { l with lease := Nat.max l.lease t } else l,
    rvt := k.rvt.map fun e => if e.1 = line then (line, Nat.max e.2 t) else e }

theorem renewLine_ok {line n : Nat} {m : Commit} {s : State} (ht : m.t = some n)
    (hw : ∀ e ∈ readSet s.core, e.1 = line → (dirOf s line).wts ≤ e.2) (hr : (dirOf s line).resv = none) :
    renewLine line m s = commitNext { m with renewals := m.renewals.tail }
      (mapCore (raiseLeases line n) (setDir line { dirOf s line with rts := Nat.max (dirOf s line).rts n } s)) := by
  unfold renewLine
  dsimp only
  rw [if_neg, ht]
  · rfl
  · simpa [hr] using fun x hx => hw (line, x) hx rfl

theorem renewLine_fail {line : Nat} {m : Commit} {s : State}
    (h : (∃ e ∈ readSet s.core, e.1 = line ∧ e.2 < (dirOf s line).wts) ∨ (∃ d, d ≠ s.core.id ∧ (dirOf s line).resv = some d)) :
    renewLine line m s = failRegion [line] s := by
  unfold renewLine
  dsimp only
  rw [if_pos]
  rcases h with ⟨e, he, hl, hlt⟩ | ⟨d, hd, hr⟩
  · exact Bool.or_eq_true_iff.2 (.inl (List.any_eq_true.2 ⟨e, List.mem_filter.2 ⟨he, by simp [hl]⟩, by simpa using hlt⟩))
  · simp [hr, hd]

theorem execRenew_eq {c : CoreId} {line : Nat} {s : State} {m : Commit} {rest : List Nat} (hc : s.core.id = c) (hm : s.core.commit = some m)
    (ht : m.todo = []) (hr : m.renewals = line :: rest) (hs : s.core.stale = false) (hid : (renewLine line m s).core.id = c) :
    exec (.renew c line) s = .next (renewLine line m s) := by
  refine congrArg Host.Outcome.next ?_
  rw [atCore_self hc] <;> simp [hm, ht, hr, staleFails, hs]
  exact hid

theorem commitRenews : Claims.CommitRenews := by
  intro c line n s m rest hc hm ht hn hr ha hs
  refine ⟨fun hw hv => ?_, fun h => ?_⟩
  · have hl := renewLine_ok hn hw hv
    obtain ⟨k, e, hk, hkm⟩ := commitNext_open (m := { m with renewals := m.renewals.tail }) ha
      (mapCore (raiseLeases line n) (setDir line { dirOf s line with rts := Nat.max (dirOf s line).rts n } s))
    have hd := dirOf_setDir line { dirOf s line with rts := Nat.max (dirOf s line).rts n } s
    rw [hk, hkm (.inr (by simp [hn]))] at hl
    refine ⟨_, execRenew_eq hc hm ht hr hs (by rw [hl]; exact hc), ?_⟩
    rw [hl]
    refine ⟨(congrArg Dir.rts hd :), (congrArg Dir.wts hd :), ?_, fun _ => rfl⟩
    rw [hr]
    rfl
  · have hl := renewLine_fail (m := m) (hc ▸ h)
    obtain ⟨hid, hheld, hcommit, harch, hre, -⟩ := failRegion_core [line] s
    refine ⟨_, execRenew_eq hc hm ht hr hs (by rw [hl, hid, hc]), ?_⟩
    rw [hl]
    exact ⟨hcommit, hheld, (congrArg Arch.pc harch :), (congrArg Arch.regs harch :), hre⟩

/-! ### Applies (12 R276) -/

/-- A line that a core has reserved has an entry, which stands whatever the home clocks do. -/
theorem findKey_of_resv {s : State} {line : Nat} {c : CoreId} (h : (dirOf s line).resv = some c) :
    findKey s.dir line = some (dirOf s line) := by
  cases hk : findKey s.dir line with
  | some d => simp [dirOf, hk]
  | none => simp [dirOf, hk] at h

theorem dirOf_of_findKey {s : State} {line : Nat} {d : Dir} (h : findKey s.dir line = some d) : dirOf s line = d := by
  simp [dirOf, h]

theorem findKey_map {α : Type} (g : α → α) (l : List (Nat × α)) (k : Nat) :
    findKey (l.map fun e => (e.1, g e.2)) k = (findKey l k).map g := by
  simp [findKey, List.find?_map, Function.comp_def]

theorem findKey_setPst {j k : Nat} (p : Nat) (s : State) (h : j ≠ k) : findKey (setPst k p s).dir j = findKey s.dir j := by
  unfold setPst
  dsimp only
  split <;> exact findKey_putKey_of_ne _ h _

theorem findKey_dropClean {j k : Nat} (s : State) (h : j ≠ k) : findKey (dropClean k s).dir j = findKey s.dir j := by
  unfold dropClean
  dsimp only
  split
  · exact findKey_setPst _ _ h
  · exact findKey_putKey_of_ne _ h _

theorem findKey_evictLine {v : SliceLine} {line : Nat} (s : State) (h : line ≠ v.line) :
    findKey (evictLine v s).dir line = findKey s.dir line := by
  unfold evictLine
  dsimp only
  split
  · split
    · rfl
    · rfl
    · exact findKey_setPst _ _ h
    · exact findKey_dropClean _ h
  · split <;> rfl

/-- An access to a line evicts another line at most. -/
theorem findKey_touchLine (line : Nat) (wr : Bool) (s : State) : findKey (touchLine line wr s).dir line = findKey s.dir line := by
  unfold touchLine
  extract_lets k ways me rest
  split
  next => rfl
  next v hv =>
    refine findKey_evictLine _ fun he => ?_
    have hv' : v ∈ rest := by
      split at hv
      · cases hv
      · exact List.mem_of_mem_filter (List.mem_of_getLast? hv)
    simp [rest, he] at hv'

/-- A line written at a time t has it as its WTS, and keeps its reservation (12 R276). -/
theorem findKey_stampLine (line t : Nat) (full : Bool) (s : State) : ∃ d, findKey (stampLine line t full s).dir line = some d ∧
    d.wts = t ∧ d.resv = (dirOf s line).resv := by
  unfold stampLine
  extract_lets d pool u v
  obtain ⟨h, a, f, hr⟩ := raiseHc_eq (combHome (64 * line)) t u
  have hv : findKey v.dir line = findKey u.dir line := by
    simp only [v]
    rw [findKey_touchLine, hr]
  have hpool : (if d.psn && pool && full then askPool (.wr line .full) v else v).dir = v.dir := by
    split <;> rfl
  exact ⟨_, (congrArg (findKey · line) hpool).trans (hv.trans (findKey_putKey line _ s.dir)), rfl, rfl⟩

theorem stampLine_core_now (line t : Nat) (full : Bool) (s : State) :
    (stampLine line t full s).core = s.core ∧ (stampLine line t full s).now = s.now := by
  unfold stampLine
  extract_lets d pool u v
  obtain ⟨h, a, f, hr⟩ := raiseHc_eq (combHome (64 * line)) t u
  have hv : v.core = s.core ∧ v.now = s.now := by
    simp only [v, touchLine_core, (touchLine_reads ..).now, hr]
    exact ⟨rfl, rfl⟩
  split <;> exact hv

/-- The bytes that a masked store writes over a map (01 R23, 12 R276). -/
theorem get_foldl_set {f : Nat → Byte} {pa : Nat} (ks : List Nat) (a : Nat) {m : SMap Byte} (hw : SMap.wf 0 m = true) :
    SMap.get 0 ((ks.map fun k => (k, f k)).foldl (fun m e => SMap.set 0 m (pa + e.1) e.2) m) a =
      if pa ≤ a ∧ a - pa ∈ ks then f (a - pa) else SMap.get 0 m a := by
  induction ks generalizing m with
  | nil => simp
  | cons k ks ih =>
    rw [List.map_cons, List.foldl_cons, ih (SMap.wf_set _ _ hw), SMap.get_set hw]
    by_cases hk : a = pa + k
    · subst hk
      simp
    · by_cases h : pa ≤ a ∧ a - pa ∈ ks
      · simp [h]
      · rw [if_neg h, if_neg hk, if_neg]
        rintro ⟨hp, hm⟩
        exact (List.mem_cons.1 hm).elim (fun e => hk (by omega)) fun e => h ⟨hp, e⟩

theorem get_maskBytes {data : Vec} {mask : BitVec 64} {pa : Nat} (a : Nat) {m : SMap Byte} (hw : SMap.wf 0 m = true) :
    SMap.get 0 ((maskBytes data mask).foldl (fun m e => SMap.set 0 m (pa + e.1) e.2) m) a =
      if pa ≤ a ∧ a < pa + 64 ∧ mask.getLsbD (a - pa) = true then vecByte data (a - pa) else SMap.get 0 m a := by
  have hm : (pa ≤ a ∧ a - pa ∈ (List.range 64).filter fun k => mask.getLsbD k) ↔ (pa ≤ a ∧ a < pa + 64 ∧ mask.getLsbD (a - pa) = true) := by
    simp only [List.mem_filter, List.mem_range]
    refine and_congr_right fun hp => and_congr_left fun _ => ?_
    omega
  unfold maskBytes
  rw [get_foldl_set _ a hw]
  simp only [hm]

/-- A core's reservation and pin of a line, released (12 R276, R279). -/
def releaseDir (c : CoreId) (d : Dir) : Dir :=
  { d with pin := if d.pin = some c then none else d.pin, resv := if d.resv = some c then none else d.resv }

theorem findKey_releaseCore (c : CoreId) (s : State) (line : Nat) :
    findKey (releaseCore c s).dir line = (findKey s.dir line).map (releaseDir c) := findKey_map (releaseDir c) s.dir line

/-- A pinned line takes the region's time as it is released (12 R276). -/
def raisePinned (c : CoreId) (t : Nat) (d : Dir) : Dir := if d.pin = some c then { d with rts := Nat.max d.rts t } else d

theorem findKey_raisePinned (c : CoreId) (t : Nat) (l : List (Nat × Dir)) (line : Nat) :
    findKey (l.map fun e => if e.2.pin = some c then (e.1, { e.2 with rts := Nat.max e.2.rts t }) else e) line =
      (findKey l line).map (raisePinned c t) := by
  rw [← findKey_map]
  congr 2
  funext e
  unfold raisePinned
  split <;> rfl

/-- The end of the commit of a region that holds one store: nothing leaves the core, and the region ends at its time (12 R276). -/
theorem finishCommit_store {n pa : Nat} {va : Word} {data : Vec} {mask : BitVec 64} {wm : Option Nat} {s : State}
    (h : s.core.held = [.store pa va data mask wm]) (line : Nat) :
    (finishCommit n s).core.id = s.core.id ∧ (finishCommit n s).core.held = [] ∧ (finishCommit n s).core.commit = none ∧
    (finishCommit n s).core.pts = max n (s.now / 16) ∧
    findKey (finishCommit n s).dir line = ((findKey s.dir line).map (raisePinned s.core.id n)).map (releaseDir s.core.id) := by
  unfold finishCommit
  extract_lets c u v w x
  have hw : w = v := by
    simp only [w, c, h]
    rfl
  have hx : x.core.id = s.core.id ∧ x.now = s.now ∧ x.dir = v.dir := by
    simp only [x, hw]
    exact ⟨rfl, rfl, rfl⟩
  have hv : findKey v.dir line = ((findKey s.dir line).map (raisePinned s.core.id n)).map (releaseDir s.core.id) := by
    rw [← findKey_raisePinned]
    exact findKey_releaseCore _ _ _
  obtain ⟨hid, hnow, hdir⟩ := hx
  obtain ⟨hcid, hheld, hcommit, -, -, -, hpts⟩ := closeRegion_engines (mapCore (fun k => { k with pts := n }) x)
  refine ⟨hcid.trans hid, hheld, hcommit, ?_, ?_⟩
  · rw [hpts, ← hnow]
    rfl
  · rw [closeRegion_dir, ← hv, ← hdir]
    rfl

/-- The state in which a held store's bytes stand in memory, before its line is stamped. -/
def storeBytes (pa : Nat) (data : Vec) (mask : BitVec 64) (s : State) : State :=
  { s with mem := (maskBytes data mask).foldl (fun m e => SMap.set 0 m (pa + e.1) e.2) s.mem }

/-- The apply of a region that holds one store, to a line that is not poisoned. -/
theorem applyHome_store {home n pa : Nat} {va : Word} {data : Vec} {mask : BitVec 64} {m : Commit} {s : State} {d : Dir}
    (hh : s.core.held = [.store pa va data mask none]) (hl : homeOf (pa / 64) = home) (hn : m.t = some n)
    (hk : findKey s.dir (pa / 64) = some d) (hp : d.psn = false) :
    applyHome home m s = commitNext { m with toApply := m.toApply.tail }
      (stampLine (pa / 64) n (mask == BitVec.allOnes 64) (storeBytes pa data mask (raiseHc home n s))) := by
  obtain ⟨h, a, f, hr⟩ := raiseHc_eq home n s
  have hpsn : poisoned (raiseHc home n s) (pa / 64) = false := by
    rw [poisoned, dirOf_of_findKey (d := d) (by rw [hr]; exact hk), hp]
  have hset : writeSet s.core = [pa / 64] := by
    rw [writeSet, hh]
    rfl
  have hheal : healLines s.core home n (raiseHc home n s) = raiseHc home n s := by
    simp [healLines, hset, hpsn]
  unfold applyHome
  simp only [hh, hn, Option.getD_some, hheal]
  rw [List.filter_cons_of_pos (by simp [Held.lines, hl])]
  rfl

theorem execApply_eq {c : CoreId} {home n : Nat} {s : State} {m : Commit} {rest : List Nat} (hc : s.core.id = c) (hm : s.core.commit = some m)
    (ht : m.todo = []) (hn : m.t = some n) (hr : m.renewals = []) (ha : m.toApply = home :: rest) (hs : s.core.stale = false)
    (hid : (applyHome home m s).core.id = c) : exec (.apply c home) s = .next (applyHome home m s) := by
  refine congrArg Host.Outcome.next ?_
  rw [atCore_self hc] <;> simp [hm, ht, hn, hr, ha, staleFails, hs]
  exact hid

/-- The last apply of a region that holds one store ends its commit, with the store's bytes in memory and its line stamped. -/
theorem applyHome_last {c : CoreId} {home n pa : Nat} {va : Word} {data : Vec} {mask : BitVec 64} {m : Commit} {s : State}
    (hh : s.core.held = [.store pa va data mask none]) (hl : homeOf (pa / 64) = home) (ht : m.todo = []) (hn : m.t = some n)
    (hr : m.renewals = []) (ha : m.toApply = [home]) (hp : (dirOf s (pa / 64)).psn = false) (hv : (dirOf s (pa / 64)).resv = some c) :
    ∃ u, applyHome home m s = finishCommit n u ∧ u.core.id = s.core.id ∧ u.core.held = s.core.held ∧ u.now = s.now ∧
      u.mem = (maskBytes data mask).foldl (fun m e => SMap.set 0 m (pa + e.1) e.2) s.mem ∧
      ∃ d, findKey u.dir (pa / 64) = some d ∧ d.wts = n ∧ d.resv = some c := by
  obtain ⟨h, a, f, hraise⟩ := raiseHc_eq home n s
  have hk := findKey_of_resv hv
  have happly := applyHome_store hh hl hn hk hp
  rw [commitNext_done (m := { m with toApply := m.toApply.tail }) ht hn hr (by simp [ha]), hraise] at happly
  generalize hb : storeBytes pa data mask { s with hc := h, agenda := a, free := f } = b at happly
  obtain ⟨d, hd, hw, hresv⟩ := findKey_stampLine (pa / 64) n (mask == BitVec.allOnes 64) b
  obtain ⟨hcore, hnow⟩ := stampLine_core_now (pa / 64) n (mask == BitVec.allOnes 64) b
  have hs : dirOf b (pa / 64) = dirOf s (pa / 64) := dirOf_of_findKey (by rw [← hb]; exact hk)
  refine ⟨_, happly, ?_, ?_, ?_, ?_, d, hd, hw, by rw [hresv, hs, hv]⟩
  · rw [mapCore_core, hcore, ← hb]
    rfl
  · rw [mapCore_core, hcore, ← hb]
    rfl
  · exact hnow.trans (by rw [← hb]; rfl)
  · exact (stampLine_mem ..).trans (by rw [← hb]; rfl)

theorem commitApplies : Claims.CommitApplies := by
  intro c home n pa va data mask s m hc hm ht hn hr ha _ hl hh hwf hp hs hv
  obtain ⟨u, happly, hid, hheld, hnow, hmem, d, hd, hw, hresv⟩ := applyHome_last hh hl ht hn hr ha hp hv
  obtain ⟨hfid, hfheld, hfcommit, hfpts, hfdir⟩ := finishCommit_store (n := n) (hheld.trans hh) (pa / 64)
  have hent : dirOf (finishCommit n u) (pa / 64) = releaseDir u.core.id (raisePinned u.core.id n d) :=
    dirOf_of_findKey (by rw [hfdir, hd]; rfl)
  have hfmem := (finishCommit_mem n u).trans hmem
  have hpin : (raisePinned u.core.id n d).wts = n ∧ (raisePinned u.core.id n d).resv = some c := by
    unfold raisePinned
    split <;> exact ⟨hw, hresv⟩
  refine ⟨_, execApply_eq hc hm ht hn hr ha hs (by rw [happly, hfid, hid, hc]), ?_⟩
  rw [happly]
  refine ⟨?_, fun a => ?_, ?_, ?_, hfheld, by rw [hfpts, hnow], hfcommit⟩
  · rw [Memory.wf, hfmem]
    exact SMap.wf_foldl_set _ hwf
  · rw [rdByte, hfmem, get_maskBytes a hwf]
    rfl
  · rw [hent]
    exact hpin.1
  · rw [hent, hid, hc]
    rw [hid, hc] at hpin
    exact if_pos hpin.2

/-- Settles O34, part by part: a checkpoint, the bundle flags, and the three steps of a commit, each of which fails through `failRegion` or goes on
through `commitNext`. -/
theorem regionCommit : Obligations.RegionCommit := ⟨checkpointSteps, bundleFlags, commitReserves, commitRenews, commitApplies⟩

end Sys2Proof.Machine
end

section
/-! SUPPORT. What the decoders answer (O55): an instruction that a decoder finds in a word is well formed, stands in that slot or is a
step, and encodes to the word. With the laws of `Laws.RoundTrip` the two directions agree. -/
namespace Sys2Proof

/-! ### The word of each format, from the fields and reserved bits that its own decoder reads (02 R55-R61, 24 R440)

In each, the reserved bits are written as the parts of the word that the decoder has found to be 0; neighbouring parts then join to the
whole word. -/

/-- A part of a word that is 0, as the decoder tests it. -/
theorem eq_zero_of_beq {n : Nat} {x : BitVec n} (h : (x == 0) = true) : x = 0#n := eq_of_beq h

section
variable {w : Word} {op : BitVec 8} (hop : (w.extractLsb' 56 8).toNat = op.toNat)
include hop

theorem SR.word_of (hf : w.extractLsb' 52 4 = 0#4) (hz : SR.zeros w = true) : SR.word op (SR.of w) = w := by
  obtain rfl := BitVec.eq_of_toNat_eq hop
  rw [SR.word, SR.of, ← eq_zero_of_beq hz, ← hf]
  simp (disch := decide) only [BitVec.extractLsb'_append_extractLsb'_eq_extractLsb']
  exact extract_all w

theorem SI.word_of (hf : w.extractLsb' 52 4 = 0#4) : SI.word op (SI.of w) = w := by
  obtain rfl := BitVec.eq_of_toNat_eq hop
  rw [SI.word, SI.of, ← hf]
  simp (disch := decide) only [BitVec.extractLsb'_append_extractLsb'_eq_extractLsb']
  exact extract_all w

theorem SW.word_of (hf : w.extractLsb' 52 4 = 0#4) : SW.word op (SW.of w) = w := by
  obtain rfl := BitVec.eq_of_toNat_eq hop
  rw [SW.word, SW.of, ← hf]
  simp (disch := decide) only [BitVec.extractLsb'_append_extractLsb'_eq_extractLsb']
  exact extract_all w

theorem SF.word_of (hf : w.extractLsb' 52 4 = 0#4) (hz : SF.zeros w = true) : SF.word op (SF.of w) = w := by
  obtain rfl := BitVec.eq_of_toNat_eq hop
  rw [SF.word, SF.of, ← eq_zero_of_beq hz, ← hf]
  simp (disch := decide) only [BitVec.extractLsb'_append_extractLsb'_eq_extractLsb']
  exact extract_all w

theorem SL.word_of (hf : w.extractLsb' 52 4 = 0#4) : SL.word op (SL.of w) = w := by
  obtain rfl := BitVec.eq_of_toNat_eq hop
  rw [SL.word, SL.of, ← hf]
  simp (disch := decide) only [BitVec.extractLsb'_append_extractLsb'_eq_extractLsb']
  exact extract_all w

theorem SP.word_of (hf : w.extractLsb' 52 4 = 0#4) (hz : SP.zeros w = true) : SP.word op (SP.of w) = w := by
  obtain rfl := BitVec.eq_of_toNat_eq hop
  rw [SP.word, SP.of, ← eq_zero_of_beq hz, ← hf]
  simp (disch := decide) only [BitVec.extractLsb'_append_extractLsb'_eq_extractLsb']
  exact extract_all w

theorem SQ.word_of (hf : w.extractLsb' 52 4 = 0#4) : SQ.word op (SQ.of w) = w := by
  obtain rfl := BitVec.eq_of_toNat_eq hop
  rw [SQ.word, SQ.of, ← hf]
  simp (disch := decide) only [BitVec.extractLsb'_append_extractLsb'_eq_extractLsb']
  exact extract_all w

theorem SX.word_of (hf : w.extractLsb' 52 4 = 0#4) (hz : SX.zeros w = true) : SX.word op (SX.of w) = w := by
  obtain rfl := BitVec.eq_of_toNat_eq hop
  rw [SX.word, SX.of, ← eq_zero_of_beq hz, ← hf]
  simp (disch := decide) only [BitVec.extractLsb'_append_extractLsb'_eq_extractLsb']
  exact extract_all w

theorem SH.word_of (hf : w.extractLsb' 52 4 = 0#4) : SH.word op (SH.of w) = w := by
  obtain rfl := BitVec.eq_of_toNat_eq hop
  rw [SH.word, SH.of, ← hf]
  simp (disch := decide) only [BitVec.extractLsb'_append_extractLsb'_eq_extractLsb']
  exact extract_all w

theorem SB.word_of {zf : BitVec 1} (hf : w.extractLsb' 52 4 = 0#4) (hzf : w.extractLsb' 45 1 = zf) (hz : SB.zeros w = true) :
    SB.word op zf (SB.of w) = w := by
  obtain rfl := BitVec.eq_of_toNat_eq hop
  have hz := eq_zero_of_beq hz
  rw [SB.word, SB.of, ← hzf]
  conv_lhs => enter [1, 1, 1, 1, 2]; rw [← hf]
  rw [← hz]
  simp (disch := decide) only [BitVec.extractLsb'_append_extractLsb'_eq_extractLsb']
  exact extract_all w

theorem MA.word_of (hz : MA.zeros w = true) : MA.word op (MA.of w) = w := by
  obtain rfl := BitVec.eq_of_toNat_eq hop
  rw [MA.word, MA.of, ← eq_zero_of_beq hz]
  simp (disch := decide) only [BitVec.extractLsb'_append_extractLsb'_eq_extractLsb']
  exact extract_all w

theorem LS.word_of : LS.word op (LS.of w) = w := by
  obtain rfl := BitVec.eq_of_toNat_eq hop
  rw [LS.word, LS.of]
  simp (disch := decide) only [BitVec.extractLsb'_append_extractLsb'_eq_extractLsb']
  exact extract_all w

theorem CE.word_of : CE.word op (CE.of w) = w := by
  obtain rfl := BitVec.eq_of_toNat_eq hop
  rw [CE.word, CE.of]
  simp (disch := decide) only [BitVec.extractLsb'_append_extractLsb'_eq_extractLsb']
  exact extract_all w

theorem YA.word_of : YA.word op (YA.of w) = w := by
  obtain rfl := BitVec.eq_of_toNat_eq hop
  rw [YA.word, YA.of]
  simp (disch := decide) only [BitVec.extractLsb'_append_extractLsb'_eq_extractLsb']
  exact extract_all w

theorem WP.word_of (hz : WP.zeros w = true) : WP.word op (WP.of w) = w := by
  obtain rfl := BitVec.eq_of_toNat_eq hop
  rw [WP.word, WP.of, ← eq_zero_of_beq hz]
  simp (disch := decide) only [BitVec.extractLsb'_append_extractLsb'_eq_extractLsb']
  exact extract_all w

theorem WC.word_of : WC.word op (WC.of w) = w := by
  obtain rfl := BitVec.eq_of_toNat_eq hop
  rw [WC.word, WC.of]
  simp (disch := decide) only [BitVec.extractLsb'_append_extractLsb'_eq_extractLsb']
  exact extract_all w

theorem VF.word_of (b : Bool) (hz : VF.zeros w = true) : VF.word op (VF.of b w) = w := by
  obtain rfl := BitVec.eq_of_toNat_eq hop
  rw [VF.word, VF.of, ← eq_zero_of_beq hz]
  simp (disch := decide) only [BitVec.extractLsb'_append_extractLsb'_eq_extractLsb']
  exact extract_all w

theorem WR.word_of (hz : WR.zeros w = true) : WR.word op (WR.of w) = w := by
  obtain rfl := BitVec.eq_of_toNat_eq hop
  obtain ⟨h1, h2⟩ := Bool.and_eq_true_iff.mp hz
  rw [WR.word, WR.of, ← eq_zero_of_beq h1, ← eq_zero_of_beq h2]
  simp (disch := decide) only [BitVec.extractLsb'_append_extractLsb'_eq_extractLsb']
  exact extract_all w

theorem fixed_word_of (hz : (w.extractLsb' 0 56 == 0) = true) : op ++ 0#56 = w := by
  obtain rfl := BitVec.eq_of_toNat_eq hop
  rw [← eq_zero_of_beq hz]
  simp (disch := decide) only [BitVec.extractLsb'_append_extractLsb'_eq_extractLsb']
  exact extract_all w

end

/-! ### Each slot and the steps (02 R62-R65, R68; 24 R440) -/

/-- An instruction that the answer gives is well formed, stands in slot `k` and encodes to `w`. -/
def Faithful (k : Nat) (w : Word) (r : Syl) : Prop := ∀ i, r = .instr i → i.slot = some k ∧ i.wf = true ∧ i.encode = w

theorem faithful_illegal {k : Nat} {w : Word} : Faithful k w .illegal := fun _ h => nomatch h

/-- An empty syllable is no instruction either. -/
theorem faithful_empty {k : Nat} {w : Word} {p : Prop} [Decidable p] : Faithful k w (if p then .empty else .illegal) := by
  intro i h
  split at h <;> cases h

/-- `legal` answers well-formed instructions alone, so an instruction it answers is faithful when its encoding is the word. -/
theorem faithful_legal {k : Nat} {w : Word} {z : Bool} {i : Instr} (hs : i.slot = some k) (he : z = true → i.encode = w) :
    Faithful k w (legal z i) := by
  intro j h
  unfold legal at h
  split at h
  next hl =>
    obtain ⟨hz, hw⟩ := Bool.and_eq_true_iff.mp hl
    cases h
    exact ⟨hs, hw, he hz⟩
  next => cases h

/-- A word of slot S without its bundle flags [55:52], which are not the instruction's (02 R45). -/
def flagless (w : Word) : Word := w &&& 0xFF0FFFFFFFFFFFFF

theorem flagless_bit (w : Word) (j : Nat) : (flagless w).getLsbD j = (w.getLsbD j && (decide (j < 52) || decide (56 ≤ j))) := by
  have hmask : ∀ j < 64, (0xFF0FFFFFFFFFFFFF : Word).getLsbD j = (decide (j < 52) || decide (56 ≤ j)) := by decide
  rw [flagless, BitVec.getLsbD_and]
  by_cases hj : j < 64
  · rw [hmask j hj]
  · rw [BitVec.getLsbD_of_ge w j (by omega), Bool.false_and, Bool.false_and]

/-- A part of the word that lies outside the flags. -/
theorem flagless_part (w : Word) {s n : Nat} (h : s + n ≤ 52 ∨ 56 ≤ s) : (flagless w).extractLsb' s n = w.extractLsb' s n := by
  apply BitVec.eq_of_getLsbD_eq
  intro i hi
  have hj : s + i < 52 ∨ 56 ≤ s + i := by omega
  simp [flagless_bit, hi, hj]

theorem flagless_flags (w : Word) : (flagless w).extractLsb' 52 4 = 0#4 := by
  apply BitVec.eq_of_getLsbD_eq
  intro i hi
  have hj : 52 + i < 56 := by omega
  simp [flagless_bit, hi, hj]

theorem flagless_zf (w : Word) : (flagless w).getLsbD 45 = w.getLsbD 45 := (flagless_bit w 45).trans (Bool.and_true _)

/-- The decoder of slot S does not see the flags. -/
theorem decodeS_flagless (w : Word) : decodeS (flagless w) = decodeS w := by
  simp (disch := decide) only [decodeS, flagless_zf, flagless_part, SR.of, SR.zeros, SI.of, SI.zeros, SW.of, SW.zeros, SF.of, SF.zeros,
    SL.of, SL.zeros, SP.of, SP.zeros, SQ.of, SQ.zeros, SX.of, SX.zeros, SH.of, SH.zeros, SB.of, SB.zeros]

theorem decodeM_faithful (w : Word) : Faithful 3 w (decodeM w) := by
  unfold decodeM
  split
  case h_1 => exact faithful_empty
  case h_21 | h_22 => exact faithful_legal rfl (fixed_word_of ‹_›)
  case h_24 => exact faithful_illegal
  all_goals exact faithful_legal rfl (MA.word_of ‹_›)

theorem decodeL_faithful (w : Word) : Faithful 4 w (decodeL w) := by
  unfold decodeL
  split
  case h_1 => exact faithful_empty
  case h_9 => exact faithful_illegal
  all_goals exact faithful_legal rfl fun _ => LS.word_of ‹_›

theorem decodeW_faithful (w : Word) : Faithful 5 w (decodeW w) := by
  unfold decodeW
  split
  case h_1 => exact faithful_empty
  case h_9 => exact faithful_illegal
  all_goals exact faithful_legal rfl fun _ => LS.word_of ‹_›

theorem decodeC_faithful (w : Word) : Faithful 6 w (decodeC w) := by
  unfold decodeC
  split
  case h_1 => exact faithful_empty
  case h_11 => exact faithful_illegal
  all_goals exact faithful_legal rfl fun _ => CE.word_of ‹_›

theorem decodeY_faithful (w : Word) : Faithful 7 w (decodeY w) := by
  unfold decodeY
  split
  case h_1 => exact faithful_empty
  case h_25 => exact faithful_legal rfl (fixed_word_of ‹_›)
  case h_31 => exact faithful_illegal
  all_goals exact faithful_legal rfl fun _ => YA.word_of ‹_›

theorem decodeV_faithful {b : Bool} {k : Nat} (w : Word) (hk : (if b then 2 else 1) = k) : Faithful k w (decodeV b w) := by
  unfold decodeV
  split
  case h_1 => exact faithful_empty
  case h_39 | h_40 | h_41 | h_42 | h_43 =>
    cases b with
    | true => exact faithful_legal (congrArg some hk) (VF.word_of ‹_› true)
    | false => exact faithful_illegal
  case h_44 => exact faithful_illegal
  all_goals exact faithful_legal (congrArg some hk) (VF.word_of ‹_› b)

/-- Without the flags, the fixed syllables of slot S have 0 in all their other bits. -/
theorem fixed_flagless {w : Word} (hf : w.extractLsb' 52 4 = 0#4) (hz : (w.extractLsb' 0 52 == 0) = true) :
    (w.extractLsb' 0 56 == 0) = true := by
  have h : w.extractLsb' 52 4 ++ w.extractLsb' 0 52 = w.extractLsb' 0 56 :=
    BitVec.extractLsb'_append_extractLsb'_eq_extractLsb' rfl
  rw [← h, hf, eq_zero_of_beq hz]
  rfl

/-- Bit 45 as the one-bit field zf of format SB. -/
theorem zf_eq (w : Word) : w.extractLsb' 45 1 = BitVec.ofBool (w.getLsbD 45) := by
  apply BitVec.eq_of_getLsbD_eq
  intro i hi
  obtain rfl : i = 0 := by omega
  simp

theorem zf_set {w : Word} (h : w.getLsbD 45 = true) : w.extractLsb' 45 1 = 1 := by rw [zf_eq, h]; rfl
theorem zf_clear {w : Word} (h : w.getLsbD 45 = false) : w.extractLsb' 45 1 = 0 := by rw [zf_eq, h]; rfl

/-- The cases `h_<n>` are the arms of the decoder in its order; those left to the end are of the format that most of them have. -/
theorem decodeS_faithful {w : Word} (hf : w.extractLsb' 52 4 = 0#4) : Faithful 0 w (decodeS w) := by
  unfold decodeS
  split
  case h_1 => exact faithful_empty
  case h_24 | h_25 | h_26 | h_27 | h_28 | h_29 | h_30 | h_32 | h_42 | h_43 => exact faithful_legal rfl fun _ => SI.word_of ‹_› hf
  case h_31 => exact faithful_legal rfl fun _ => SW.word_of ‹_› hf
  case h_33 => exact faithful_legal rfl fun _ => SL.word_of ‹_› hf
  case h_34 | h_35 => exact faithful_legal rfl (SF.word_of ‹_› hf)
  case h_44 | h_45 =>
    refine faithful_legal rfl fun hz => ?_
    obtain ⟨hz, h45⟩ := Bool.and_eq_true_iff.mp hz
    exact SB.word_of ‹_› hf (zf_clear (by simpa using h45)) hz
  case h_46 | h_50 | h_51 | h_54 | h_55 | h_56 | h_57 | h_58 => exact faithful_legal rfl (SX.word_of ‹_› hf)
  case h_47 => exact faithful_legal rfl (SP.word_of ‹_› hf)
  case h_48 => exact faithful_legal rfl fun _ => SQ.word_of ‹_› hf
  case h_49 | h_52 | h_53 => exact faithful_legal rfl fun hz => fixed_word_of ‹_› (fixed_flagless hf hz)
  case h_59 | h_60 | h_61 | h_62 | h_63 | h_64 | h_65 | h_66 => exact faithful_legal rfl fun _ => SH.word_of ‹_› hf
  case h_67 =>
    split
    next h45 => exact faithful_legal rfl (SB.word_of ‹_› hf (zf_set h45))
    next h45 => exact faithful_legal rfl (SB.word_of ‹_› hf (zf_clear (by simpa using h45)))
  case h_68 => exact faithful_illegal
  all_goals exact faithful_legal rfl (SR.word_of ‹_› hf)

/-- A step that the answer gives is well formed and encodes to `w`. -/
def FaithfulStep (w : Word) (r : Option Instr) : Prop := ∀ i, r = some i → i.isStep = true ∧ i.wf = true ∧ i.encode = w

theorem faithfulStep_legal {w : Word} {z : Bool} {i : Instr} (hs : i.isStep = true) (he : z = true → i.encode = w) :
    FaithfulStep w (if z && i.wf then some i else none) := by
  intro j h
  split at h
  next hl =>
    obtain ⟨hz, hw⟩ := Bool.and_eq_true_iff.mp hl
    cases h
    exact ⟨hs, hw, he hz⟩
  next => cases h

section
variable {w : Word} {op : BitVec 8} (hop : (w.extractLsb' 56 8).toNat = op.toNat)
include hop

theorem wwait_word_of (hz : (w.extractLsb' 48 8 == 0) = true) : op ++ 0#8 ++ w.extractLsb' 0 48 = w := by
  obtain rfl := BitVec.eq_of_toNat_eq hop
  rw [← eq_zero_of_beq hz]
  simp (disch := decide) only [BitVec.extractLsb'_append_extractLsb'_eq_extractLsb']
  exact extract_all w

theorem wsig_word_of (hz : (w.extractLsb' 20 36 == 0) = true) : op ++ 0#36 ++ w.extractLsb' 0 20 = w := by
  obtain rfl := BitVec.eq_of_toNat_eq hop
  rw [← eq_zero_of_beq hz]
  simp (disch := decide) only [BitVec.extractLsb'_append_extractLsb'_eq_extractLsb']
  exact extract_all w

theorem wloop_word_of (hz : (w.extractLsb' 32 24 == 0) = true) : op ++ 0#24 ++ w.extractLsb' 0 32 = w := by
  obtain rfl := BitVec.eq_of_toNat_eq hop
  rw [← eq_zero_of_beq hz]
  simp (disch := decide) only [BitVec.extractLsb'_append_extractLsb'_eq_extractLsb']
  exact extract_all w

theorem wagree_word_of (hz : (w.extractLsb' 32 22 == 0) = true) :
    op ++ w.extractLsb' 54 2 ++ 0#22 ++ w.extractLsb' 0 32 = w := by
  obtain rfl := BitVec.eq_of_toNat_eq hop
  rw [← eq_zero_of_beq hz]
  simp (disch := decide) only [BitVec.extractLsb'_append_extractLsb'_eq_extractLsb']
  exact extract_all w

end

theorem decodeStep_faithful (w : Word) : FaithfulStep w (decodeStep w) := by
  unfold decodeStep
  dsimp only
  split
  case h_1 | h_2 => exact faithfulStep_legal rfl (WP.word_of ‹_›)
  case h_3 => exact faithfulStep_legal rfl (WR.word_of ‹_›)
  case h_4 => exact faithfulStep_legal rfl fun _ => WC.word_of ‹_›
  case h_5 => exact faithfulStep_legal rfl (wwait_word_of ‹_›)
  case h_6 => exact faithfulStep_legal rfl (wsig_word_of ‹_›)
  case h_7 => exact faithfulStep_legal rfl (wloop_word_of ‹_›)
  case h_8 | h_10 | h_11 => exact faithfulStep_legal rfl (fixed_word_of ‹_›)
  case h_9 => exact faithfulStep_legal rfl (wagree_word_of ‹_›)
  case h_12 => exact fun _ h => nomatch h

/-! ### The two directions together -/

/-- Every instruction's encoding decodes to it: `Laws.RoundTrip`, one law per slot instruction and step; an event stands in no slot and is no
step. -/
theorem Laws.RoundTrip.every (i : Instr) : Laws.RoundTrip.Statement i := by
  cases i with
  | checkpoint | orderedBundle | breakpoint | resultLands | variableLatencyResult | scratchpadWriteLands | imageLanding | multicastLanding
    | matrixEngineExecute | splineArrayExecute | debugRestart | grant | reserve | renew | apply | pinTokenGrant | stampRaise | applyAdd
    | applyCflg | applyCeil | cwaitWake | barrierArrival | bwaitReturn | copyLaunchAccept | copyPiece | deltaFlush | flushRequest
    | closePublication | launch | schedulerRound | descriptorFetch | dependencyMet | quantumExpiry | taskComplete | faultReport
    | migrateTrapReceipt | spawnAppend | schedulerTakeover | dieFault | coreWithdrawn | routeChoice | routeDelivery | routedAdd
    | swarmSample | replicaCopyDone | replicaCopyStop | redirection | replicaLoss | replica0Loss | gradientMerge | waggleLaunch
    | signatureAgreement | chunkArrival | switchSlotLoss | waggleAbort | glodricMessage | glodricPortWithdrawn | destinationTimeout
    | linkWithdrawn | bisnpinv | bisnpdata | bisnpcur | snoopPinTimeout | memrdCompletion | memwrCompletion | cxlPortDown | linePoisoned
    | combSramError | inboundWrite | bar2Read | hostCounterAdd | invalidation | invalidationDone | pageLock | pageUnlock | lockDone
    | counterWatch | registerWrite | warmReset | coldReset | abavasTakeover | throttling | getVersion | getCapabilities
    | negotiateAlgorithms | getDigests | getCertificate | challenge | getMeasurements | dbgctlWrite | domainTableWrite
    | cxlPortReturnToService | throttlingEnd | abavasMailboxMessage | meminvCompletion =>
    exact ⟨nofun, nofun⟩
  | add => exact add _ | sub => exact sub _ | mul => exact mul _ | mulh => exact mulh _ | mulhu => exact mulhu _ | div => exact div _
  | divu => exact divu _ | rem => exact rem _ | remu => exact remu _ | and => exact and _ | or => exact or _ | xor => exact xor _
  | shl => exact shl _ | shr => exact shr _ | sar => exact sar _ | min => exact min _ | max => exact max _ | minu => exact minu _
  | maxu => exact maxu _ | clz => exact clz _ | popc => exact popc _ | sel => exact sel _ | addi => exact addi _ | andi => exact andi _
  | ori => exact ori _ | xori => exact xori _ | shli => exact shli _ | shri => exact shri _ | sari => exact sari _ | movi => exact movi _
  | movhi => exact movhi _ | lea => exact lea _ | ext => exact ext _ | ins => exact ins _ | ceq => exact ceq _ | cne => exact cne _
  | clt => exact clt _ | cle => exact cle _ | cltu => exact cltu _ | cleu => exact cleu _ | ceqi => exact ceqi _ | clti => exact clti _
  | br => exact br _ | brZ => exact brZ _ | jmp => exact jmp _ | call => exact call _ | jr => exact jr _ | loop => exact loop _
  | loopi => exact loopi _ | lbrk => exact lbrk | lidx => exact lidx _ | trap => exact trap _ | eret => exact eret | halt => exact halt
  | spld => exact spld _ | spst => exact spst _ | sysrd => exact sysrd _ | syswr => exact syswr _ | capq => exact capq _
  | hld => exact hld _ | hst => exact hst _ | hset => exact hset _ | hget => exact hget _ | hmov => exact hmov _ | pcfg => exact pcfg _
  | pset => exact pset _ | pget => exact pget _ | vadd => exact vadd _ | vsub => exact vsub _ | vmul => exact vmul _
  | vfma => exact vfma _ | vfms => exact vfms _ | vmax => exact vmax _ | vmin => exact vmin _ | vabs => exact vabs _
  | vneg => exact vneg _ | vrcp => exact vrcp _ | vrsq => exact vrsq _ | vexp2 => exact vexp2 _ | vlog2 => exact vlog2 _
  | vtanh => exact vtanh _ | vand => exact vand _ | vor => exact vor _ | vxor => exact vxor _ | vshl => exact vshl _
  | vshr => exact vshr _ | vsar => exact vsar _ | vceq => exact vceq _ | vclt => exact vclt _ | vcle => exact vcle _
  | vsel => exact vsel _ | vcvt => exact vcvt _ | vqnt => exact vqnt _ | vdq => exact vdq _ | vsrnd => exact vsrnd _
  | vscal => exact vscal _ | vredsum => exact vredsum _ | vredmax => exact vredmax _ | vredmin => exact vredmin _
  | vbcast => exact vbcast _ | vextr => exact vextr _ | vperm => exact vperm _ | vmov => exact vmov _ | vzero => exact vzero _
  | vacc => exact vacc _ | vaccw => exact vaccw _ | vadam => exact vadam _ | vsgdm => exact vsgdm _ | vbfpn => exact vbfpn _
  | mop => exact mop _ | mmac => exact mmac _ | mbfp => exact mbfp _ | mzero => exact mzero _ | mdrain => exact mdrain _
  | mload => exact mload _ | msave => exact msave _ | mlend => exact mlend _ | mrecl => exact mrecl _ | mcfg => exact mcfg _
  | mrealn => exact mrealn _ | knset => exact knset _ | knget => exact knget _ | splld => exact splld _ | splst => exact splst _
  | splev => exact splev _ | splbwd => exact splbwd _ | splgs => exact splgs _ | splgx => exact splgx _ | splgz => exact splgz
  | gridref => exact gridref | splcnt => exact splcnt _ | ld => exact ld _ | sld => exact sld _ | gld => exact gld _
  | gldr => exact gldr _ | tmrd => exact tmrd _ | wmrd => exact wmrd _ | pref => exact pref _ | st => exact st _ | sst => exact sst _
  | gst => exact gst _ | gstr => exact gstr _ | sfe => exact sfe _ | wmc => exact wmc _ | dpop => exact dpop _ | cpy => exact cpy _
  | cpy2 => exact cpy2 _ | cpyg => exact cpyg _ | cpys => exact cpys _ | cpyx => exact cpyx _ | cpyr => exact cpyr _
  | cpyo => exact cpyo _ | cpyq => exact cpyq _ | cpyk => exact cpyk _ | cadd => exact cadd _ | caddi => exact caddi _
  | cwait => exact cwait _ | crd => exact crd _ | cflg => exact cflg _ | cceil => exact cceil _ | amadd => exact amadd _
  | amax => exact amax _ | amin => exact amin _ | aswp => exact aswp _ | acas => exact acas _ | aand => exact aand _ | aor => exact aor _
  | afadd => exact afadd _ | barr => exact barr _ | bwait => exact bwait _ | barq => exact barq _ | tmopn => exact tmopn _
  | tmcls => exact tmcls _ | tmgov => exact tmgov _ | tmset => exact tmset _ | tmflt => exact tmflt _ | spawn => exact spawn _
  | yield => exact yield | route => exact route _ | rtver => exact rtver _ | wgl => exact wgl _ | wglq => exact wglq _
  | wglk => exact wglk _ | wsend => exact wsend _ | wrecv => exact wrecv _ | wrrs => exact wrrs _ | wcopy => exact wcopy _
  | wwait => exact wwait _ | wsig => exact wsig _ | wloop => exact wloop _ | wendl => exact wendl | wagree => exact wagree _ _
  | wflags => exact wflags | wend => exact wend

theorem decodeSyl_faithful {k : Nat} {w : Word} (hk : k < 8) : Faithful k (if k = 0 then flagless w else w) (decodeSyl k w) := by
  match k, hk with
  | 0, _ => exact (decodeS_flagless w ▸ decodeS_faithful (flagless_flags w) : Faithful 0 (flagless w) (decodeS w))
  | 1, _ => exact decodeV_faithful w rfl
  | 2, _ => exact decodeV_faithful w rfl
  | 3, _ => exact decodeM_faithful w
  | 4, _ => exact decodeL_faithful w
  | 5, _ => exact decodeW_faithful w
  | 6, _ => exact decodeC_faithful w
  | 7, _ => exact decodeY_faithful w

/-- Settles O55: every encoding decodes to its instruction by the laws of `Laws.RoundTrip`, and each decoder is faithful to the word. -/
theorem decodeAndEncodeAgree : Obligations.DecodeAndEncodeAgree :=
  ⟨fun i => (Laws.RoundTrip.every i).1, fun i => (Laws.RoundTrip.every i).2, fun i _ _ hk => decodeSyl_faithful hk i,
    fun i w => decodeStep_faithful w i⟩

/-- Settles O54: each decoder evaluates. -/
theorem workedEncodings : Obligations.WorkedEncodings := by
  refine ⟨?_, ?_, ?_, ?_, ?_, ?_, ?_, ?_, ?_, ?_, ?_, ?_⟩ <;> decide

end Sys2Proof
end
section
/-! SUPPORT. What a step is, by what has its turn (O53): the issue of a bundle slot by slot, an event, a step of a collective, or the clock. -/
namespace Sys2Proof.Machine

/-! ### From a core's turn to the slots of its bundle (02 R67) -/

/-- A core's turn in which its strand may issue is the issue of the bundle that it fetches. -/
theorem step_issues {s s1 : State} {c : CoreId} {rest : List CoreId} {b : Vec} (hd : takeDue s.now s.agenda = none)
    (ht : s.turn = c :: rest) (hm : mayIssue (focus c { s with turn := rest }) = true) (hf : fetchBundle (Claims.issuing c rest s) = .ok (b, s1)) :
    step s = issueFetched b s1 := by
  simp only [Claims.issuing] at hf
  simp only [step, hd, ht, issueBundle, hm, Bool.not_true, Bool.false_eq_true, if_false, hf]

/-- Where no event is due and no core has its turn, the next collective has. -/
theorem step_coll {s : State} {k : Nat} {rest : List Nat} (hd : takeDue s.now s.agenda = none) (ht : s.turn = []) (hw : s.wturn = k :: rest) :
    step s = collTurn k { s with wturn := rest } := by
  unfold step
  split
  next h => simp [hd] at h
  split
  next h => simp [ht] at h
  split
  next h => rw [hw] at h; cases h; rfl
  next h => simp [hw] at h

/-- The bundle that a fetch answers finds no effect for its end yet. -/
theorem fetched_ends {s s1 : State} {c : CoreId} {rest : List CoreId} {b : Vec} (hf : fetchBundle (Claims.issuing c rest s) = .ok (b, s1)) :
    s1.ctx.ends = [] := by
  unfold fetchBundle at hf
  refine bothRead hf fun ⟨⟨pa, im⟩, w⟩ hx hf => ?_
  refine bothRead hf fun _ _ hf => ?_
  cases hf
  rw [((coreXlate_reads hx).trans (touchLine_reads _ _ _)).ctx]
  rfl

theorem endCause_nil {s : State} {w : Word} (h : s.ctx.ends = []) : endCause s w = none := by simp [endCause, h]

/-- A bundle without a flag, of slots that the grade has and that are no checkpoints of their own, is the issue of its slots. -/
theorem issueFetched_slots {b : Vec} {slots : List (Nat × Instr)} {s : State} (hd : decodeBundle b = .ok 0 slots)
    (ho : ∀ e ∈ slots, ownCheckpoint e.2 = false) (hl : ∀ e ∈ slots, lacks (isL s.core.id) e.2 = false) :
    issueFetched b s = issueSlots b slots s s := by
  have hlack : (slots.find? fun e => lacks (isL s.core.id) e.2) = none := List.find?_eq_none.2 fun e he => by simp [hl e he]
  have hown : (slots.any fun e => ownCheckpoint e.2) = false := List.any_eq_false.2 fun e he => by simp [ho e he]
  have heret : (slots.any fun e => e.2 == .eret) = false := List.any_eq_false.2 fun e he h => by
    have := ho e he
    rw [eq_of_beq h] at this
    cases this
  have hflag (i : Instr) : flagRow false i s = .ok s := rfl
  simp [issueFetched, hd, hlack, heret, issueLegal, hown, hflag]

/-! ### One slot (02 R67, 01 R34, R35) -/

section
variable {r : SlotRun} {b : Vec} {k : Nat} {i : Instr} {u : State}

theorem runSlot_clean (he : exec i (Claims.slotState b k r.cur) = .next u) (hu : Claims.clean u) :
    runSlot r k (sylOf b k) i = .ok { r with cur := u } := by
  obtain ⟨hc, hs, hv⟩ := hu
  rw [Claims.slotState] at he
  simp [runSlot, he, hc, hs, hv]

theorem runSlot_cause {x : Cause} (he : exec i (Claims.slotState b k r.cur) = .next u) (hx : u.ctx.cause = some x) :
    runSlot r k (sylOf b k) i = .ok { r with best := bestCause r.best x, cur := { r.cur with tables := u.tables } } := by
  rw [Claims.slotState] at he
  simp [runSlot, he, hx]

theorem runSlot_stall (he : exec i (Claims.slotState b k r.cur) = .next u) (hc : u.ctx.cause = none) (hv : u.ctx.rvtFull = false)
    (hs : u.ctx.stall = true) : runSlot r k (sylOf b k) i = .ok { r with stalled := true, tx := u.ptx } := by
  rw [Claims.slotState] at he
  simp [runSlot, he, hc, hs, hv]

/-- A bundle of one slot runs that slot. -/
theorem runSlots_one {q : SlotRun} (h : runSlot r k (sylOf b k) i = .ok q) : runSlots b [(k, i)] r = .ok q := by
  simp only [runSlots, h]

theorem runSlots_two {l : Nat} {j : Instr} {q p : SlotRun} (h : runSlot r k (sylOf b k) i = .ok q) (hq : runSlot q l (sylOf b l) j = .ok p) :
    runSlots b [(k, i), (l, j)] r = .ok p := by
  simp only [runSlots, h, hq]

end

/-! ### What the slots leave (01 R34, R35, 18 R388) -/

section
variable {b : Vec} {slots : List (Nat × Instr)} {s u : State}

theorem issueSlots_done (hr : runSlots b slots ⟨s, none, false, false, s.ptx⟩ = .ok ⟨u, none, false, false, s.ptx⟩)
    (he : endCause u (sylOf b 0) = none) : issueSlots b slots s s = .next (finishBundle (clearPassed s.core.st.a.pc u)) := by
  simp [issueSlots, hr, he]

theorem issueSlots_trap {x : Cause} {ts : List Table}
    (hr : runSlots b slots ⟨s, none, false, false, s.ptx⟩ = .ok ⟨{ s with tables := ts }, some x, false, false, s.ptx⟩)
    (he : s.ctx.ends = []) : issueSlots b slots s s = .next (mapCtx (fun _ => .init) (takeTrap finishSaves x
      { s with tables := s.tables ++ ts.filter fun y => !y.ok && !s.tables.contains y })) := by
  have hend : endCause { s with tables := ts } (sylOf b 0) = none := endCause_nil he
  simp only [issueSlots, hr, hend, Bool.false_eq_true, if_false]

/-- A bundle that waits leaves its request alone: no table has failed a registration. -/
theorem issueSlots_stall {tx : List PoolTx} (hr : runSlots b slots ⟨s, none, false, false, s.ptx⟩ = .ok ⟨s, none, true, false, tx⟩) :
    issueSlots b slots s s = .next (mapCtx (fun _ => .init) { s with ptx := tx }) := by
  have h : (s.tables.filter fun y => !y.ok && !s.tables.contains y) = [] := List.filter_eq_nil_iff.2 fun y hy => by simp [hy]
  simp only [issueSlots, hr, h, List.append_nil, if_true]

end

/-- Settles O53, kind of step by kind of step. -/
theorem stepsRunDecoded : Obligations.StepsRunDecoded := by
  refine ⟨?oneSlot, ?twoSlots, ?event, ?collective, ?clock⟩
  case oneSlot =>
    intro s s1 c rest b k i hd ht hm hf hb ho hl
    obtain ⟨u, he⟩ := exec_answers i (Claims.slotState b k s1)
    have hstep : step s = issueSlots b [(k, i)] s1 s1 := (step_issues hd ht hm hf).trans (issueFetched_slots hb (by simpa) (by simpa))
    refine ⟨u, he, fun hu hend => ?_, fun x hx => ?_, fun hc hv hs => ?_⟩ <;> rw [hstep]
    · exact issueSlots_done (runSlots_one (runSlot_clean he hu)) hend
    · exact issueSlots_trap (runSlots_one (runSlot_cause he hx)) (fetched_ends hf)
    · exact issueSlots_stall (runSlots_one (runSlot_stall he hc hv hs))
  case twoSlots =>
    intro s s1 u v c rest b k l i j hd ht hm hf hb hi hj hli hlj heu hu hev hv hend
    rw [step_issues hd ht hm hf, issueFetched_slots hb (by simp [hi, hj]) (by simp [hli, hlj])]
    exact issueSlots_done (runSlots_two (runSlot_clean heu hu) (runSlot_clean hev hv)) hend
  case event =>
    intro s d rest hd hs hp
    simp [step, hd, runDue, hs, hp]
  case collective =>
    intro s c rest i hd ht hw hc ha hi hp
    rw [step_coll hd ht hw]
    simp [collTurn, hc, ha, hi, hp]
  case clock =>
    intro s hd ht hw
    exact ⟨tick s, by simp [step, hd, ht, hw], rfl, rfl, rfl, rfl, rfl⟩

end Sys2Proof.Machine
end

section
/-! SUPPORT. What the vector instructions with a write port leave unchanged (O25): one lemma per shared operation says that the state in its
answer has the frame it began with, and the instructions are made of those. -/
namespace Sys2Proof.Machine

/-! ### The frame, and how it passes through the combinators -/

/-- The fields of a strand, its core and the other cores that such an instruction leaves as they are (06 R148, R149). -/
structure VecFrame where
  pc : BPc
  loops : List LoopEnt
  regs : Vector Word 32
  handles : Vector (BitVec 256) 16
  knots : Vector Word 4
  flags : Flags
  shadow : Arch
  trapPc : BPc
  trapCause : Word
  trapInfo : Word
  scratch : SMap Byte
  full : SMap Bool
  banks : Vector Bank 8
  others : List Core

/-- The frame of a state. -/
def vecFrame (s : State) : VecFrame :=
  let t := s.core.st
  ⟨t.a.pc, t.a.loops, t.a.regs, t.a.handles, t.a.knots, t.a.flags, t.shadow, t.trapPc, t.trapCause, t.trapInfo, s.core.scratch, s.core.full,
    s.core.banks, s.others⟩

/-- Whatever the computation answers, the state in its answer has the frame `m`. -/
def Frames {ε β : Type} (st : β → State) (m : VecFrame) (r : Except ε β) : Prop := ∀ b, r = .ok b → vecFrame (st b) = m

@[simp] theorem frames_ok {ε β : Type} (st : β → State) (m : VecFrame) (b : β) :
    Frames st m (.ok b : Except ε β) ↔ vecFrame (st b) = m :=
  ⟨fun h => h b rfl, fun h _ e => Except.ok.inj e ▸ h⟩

@[simp] theorem frames_error {ε β : Type} (st : β → State) (m : VecFrame) (e : ε) : Frames st m (.error e : Except ε β) :=
  fun _ h => nomatch h

/-- A step that carries no state. -/
@[simp] theorem frames_bind {ε α β : Type} {st : β → State} {m : VecFrame} {x : Except ε α} {f : α → Except ε β} :
    Frames st m (x >>= f) ↔ ∀ a, x = .ok a → Frames st m (f a) := by
  cases x with
  | ok a => exact ⟨fun h b e => Except.ok.inj e ▸ h, fun h => h a rfl⟩
  | error e => exact ⟨fun _ _ h => (nomatch h), fun _ => frames_error st m e⟩

/-- A step that hands on a state. -/
@[simp high] theorem frames_bind_state {ε α β : Type} {st : β → State} {m : VecFrame} {x : Except ε (α × State)}
    {f : α × State → Except ε β} (hx : Frames Prod.snd m x) :
    Frames st m (x >>= f) ↔ ∀ a u, vecFrame u = m → x = .ok (a, u) → Frames st m (f (a, u)) :=
  frames_bind.trans ⟨fun h a u _ e => h (a, u) e, fun h p e => h p.1 p.2 (hx p e) e⟩

/-- A step whose answer is the state. -/
@[simp high] theorem frames_bind_self {ε β : Type} {st : β → State} {m : VecFrame} {x : Except ε State} {f : State → Except ε β}
    (hx : Frames id m x) : Frames st m (x >>= f) ↔ ∀ u, vecFrame u = m → x = .ok u → Frames st m (f u) :=
  frames_bind.trans ⟨fun h u _ e => h u e, fun h u e => h u (hx u e) e⟩

@[simp] theorem frames_ite {ε β : Type} {st : β → State} {m : VecFrame} {p : Prop} [Decidable p] {x y : Except ε β} :
    Frames st m (if p then x else y) ↔ (p → Frames st m x) ∧ (¬p → Frames st m y) := by split <;> simp [*]

@[simp] theorem frames_gather {β : Type} {st : β → State} {m : VecFrame} {r : Res β} {cs : List (Option Stop)} :
    Frames st m (gather r cs) ↔ Frames st m r := by simp only [Frames, gather_ok]

@[simp] theorem frames_raise {β : Type} (st : β → State) (m : VecFrame) (s : State) (c : Nat) (w : Word) :
    Frames st m (raise s c w : Res β) :=
  frames_error st m _

/-! ### State updates and reads -/

@[simp] theorem mapCtx_frame (f : Ctx → Ctx) (s : State) : vecFrame (mapCtx f s) = vecFrame s := rfl
@[simp] theorem clearAtEnd_frame (gs : List Nat) (s : State) : vecFrame (clearAtEnd gs s) = vecFrame s := rfl
@[simp] theorem setPort_frame (k : Nat) (d : BitVec 256) (s : State) : vecFrame (setPort k d s) = vecFrame s := rfl
@[simp] theorem addPend_frame (d : Option Nat) (r : Nat) (nx : Option (Nat × Nat)) (act : PendAct) (fl : Flags) (cls : Nat) (s : State) :
    vecFrame (addPend d r nx act fl cls s) = vecFrame s := rfl
@[simp] theorem writeS_frame (rd : BitVec 6) (cls : Nat) (v : Word) (fl : Flags) (s : State) :
    vecFrame (writeS rd cls v fl s) = vecFrame s := rfl
@[simp] theorem queues_frame (g : Core → Vector (List Tile) 4) (s : State) :
    vecFrame (mapCore (fun c => { c with queues := g c }) s) = vecFrame s := rfl
@[simp] theorem draws_frame (rnd n : Nat) (s : State) : vecFrame (draws rnd n s).2 = vecFrame s := by
  unfold draws
  split <;> rfl

theorem ReadsOnly.frame {s u : State} (h : ReadsOnly s u) : vecFrame u = vecFrame s := by rw [h]; rfl

@[simp] theorem frames_liftMem {β : Type} {st : β → State} {m : VecFrame} {s : State} {x : Except MemErr β} :
    Frames st m (liftMem s x) ↔ Frames st m x := by
  cases x with
  | ok a => simp [liftMem]
  | error e => exact ⟨fun _ => frames_error st m e, fun _ b h => nomatch (liftMem_ok h)⟩

@[simp] theorem lookupTlb_frames {m : VecFrame} {va : Nat} {s : State} (h : vecFrame s = m) : Frames Prod.snd m (lookupTlb s va) :=
  fun _ e => (lookupTlb_reads e).frame.trans h

@[simp] theorem globalRead_frames {m : VecFrame} {l : List (Nat × Nat)} {s : State} (h : vecFrame s = m) :
    Frames Prod.snd m (globalRead l s) :=
  fun _ e => (globalReadWith_reads e).frame.trans h

@[simp] theorem tmrPlace_frames {m : VecFrame} (ref : Nat) (s : State) (h : vecFrame s = m) : Frames Prod.snd m (tmrPlace ref s) := by
  simp +contextual [tmrPlace, h]

@[simp] theorem readRec_frames {m : VecFrame} (ref : Nat) (s : State) (h : vecFrame s = m) : Frames Prod.snd m (readRec ref s) := by
  simp +contextual [readRec, h]

@[simp] theorem setHeld_frames {m : VecFrame} (hs : List Held) (s : State) (h : vecFrame s = m) : Frames id m (setHeld hs s) :=
  frames_bind.2 fun _ _ => (frames_ok ..).2 h

/-! ### Sources and destinations -/

@[simp] theorem spadRead_frames {m : VecFrame} (offs : List Int) (fe : Nat) (info : Word) (s : State) (h : vecFrame s = m) :
    Frames Prod.snd m (spadRead offs fe info s) := by
  simp +contextual [spadRead, h, apply_ite vecFrame]

@[simp] theorem popPort_frames {m : VecFrame} (k : Nat) (s : State) (h : vecFrame s = m) : Frames Prod.snd m (popPort k s) := by
  simp +contextual [popPort, h]

@[simp] theorem pushPort_frames {m : VecFrame} (k : Nat) (data : Vec) (cls : Nat) (fl : Flags) (s : State) (h : vecFrame s = m) :
    Frames id m (pushPort k data cls fl s) := by
  simp [pushPort, h, apply_ite vecFrame]

@[simp] theorem popQueue_frames {m : VecFrame} (n : Nat) (s : State) (h : vecFrame s = m) : Frames Prod.snd m (popQueue n s) := by
  unfold popQueue
  dsimp only
  (repeat' split) <;> simp [h]

@[simp] theorem popSel_frames {m : VecFrame} (sel : BitVec 6) (s : State) (h : vecFrame s = m) : Frames Prod.snd m (popSel sel s) := by
  unfold popSel
  split <;> simp +contextual [h]

@[simp] theorem srcVec_frames {m : VecFrame} (sel : BitVec 6) (ty : Nat) (s : State) (h : vecFrame s = m) :
    Frames Prod.snd m (srcVec sel ty s) := by
  simp [srcVec, h]

@[simp] theorem popAll_frames {m : VecFrame} (ty : Nat) :
    ∀ (l : List (BitVec 6)) (s : State), vecFrame s = m → Frames Prod.snd m (popAll ty l s)
  | [], s, h => by simp [popAll, h]
  | v :: t, s, h => by simp +contextual [popAll, h, popAll_frames ty t]

@[simp] theorem putVec_frames {m : VecFrame} (vd : BitVec 8) (v : Vec) (cls : Nat) (fl : Flags) (s : State) (h : vecFrame s = m) :
    Frames id m (putVec vd v cls fl s) := by
  simp [putVec, h]

@[simp] theorem putLanes_frames {m : VecFrame} (f : VF) (w cls : Nat) (r : List Nat × Flags) (s : State) (h : vecFrame s = m) :
    Frames id m (putLanes f w cls r s) := by
  simp [putLanes, h]

@[simp] theorem putRounded_frames {m : VecFrame} (f : VF) (cls : Nat) (xs : List XV) (fl : Flags) (s : State) (h : vecFrame s = m) :
    Frames id m (putRounded f cls xs fl s) := by
  simp [putRounded, h]

/-! ### The instructions (06) -/

section
variable {f : VF} {s : State}

theorem arith2_frames {cls : Nat} {fop : XV → XV → XV × Flags} {iop : Int → Int → Int} :
    Frames id (vecFrame s) (arith2 cls fop iop f s) := by
  simp +contextual [arith2]

theorem arith1_frames {fop : XV → XV} {iop : Int → Int} : Frames id (vecFrame s) (arith1 fop iop f s) := by
  simp +contextual [arith1]

theorem arith3_frames {minus : Bool} : Frames id (vecFrame s) (arith3 minus f s) := by simp +contextual [arith3]

theorem trans_frames {op : XV → BitVec 32 → Nat × Flags} : Frames id (vecFrame s) (trans op f s) := by simp +contextual [trans]

theorem bitOp_frames {op : Vec → Vec → Vec} : Frames id (vecFrame s) (bitOp op f s) := by simp +contextual [bitOp]

theorem shiftOp_frames {op : Nat → Nat → Nat → Nat} : Frames id (vecFrame s) (shiftOp op f s) := by simp +contextual [shiftOp]

theorem cmpOp_frames {fop : XV → XV → Bool} {iop : Int → Int → Bool} : Frames id (vecFrame s) (cmpOp fop iop f s) := by
  simp +contextual [cmpOp]

theorem vselOp_frames : Frames id (vecFrame s) (vselOp f s) := by simp +contextual [vselOp]

theorem vcvtOp_frames : Frames id (vecFrame s) (vcvtOp f s) := by
  unfold vcvtOp
  dsimp only
  (repeat' split) <;> simp +contextual

theorem vqntOp_frames : Frames id (vecFrame s) (vqntOp f s) := by simp +contextual [vqntOp]

theorem vdqOp_frames : Frames id (vecFrame s) (vdqOp f s) := by
  refine frames_gather.2 (frames_bind.2 fun hd _ => frames_bind.2 fun _ _ => frames_bind.2 fun w _ =>
    (frames_bind_state (frames_liftMem.2 (readRec_frames _ s rfl))).2 fun r u hu _ => ?_)
  dsimp only
  split
  · simp
  · simp +contextual [hu]

theorem vsrndOp_frames : Frames id (vecFrame s) (vsrndOp f s) := by simp +contextual [vsrndOp]

theorem vscalOp_frames : Frames id (vecFrame s) (vscalOp f s) := by simp +contextual [vscalOp]

theorem redOp_frames {node : XV → XV → XV × Flags} {iop : Int → Int → Int} : Frames id (vecFrame s) (redOp node iop f s) := by
  simp +contextual [redOp]

theorem vbcastOp_frames : Frames id (vecFrame s) (vbcastOp f s) := by simp +contextual [vbcastOp]

theorem vextrOp_frames : Frames id (vecFrame s) (vextrOp f s) := by simp +contextual [vextrOp]

theorem vpermOp_frames : Frames id (vecFrame s) (vpermOp f s) := by simp +contextual [vpermOp]

/-- At a port: a row of a bank is another destination (02 R51). -/
theorem vmovOp_frames (h : f.vd < 0x80) : Frames id (vecFrame s) (vmovOp f s) := by
  rw [vmovOp, if_pos h]
  simp +contextual

theorem vzeroOp_frames (h : f.vd < 0x80) : Frames id (vecFrame s) (vzeroOp f s) := by
  rw [vzeroOp, if_pos h]
  exact putVec_frames _ _ _ _ s rfl

theorem vadamOp_frames : Frames id (vecFrame s) (vadamOp f s) := by simp +contextual [vadamOp]

theorem vsgdmOp_frames : Frames id (vecFrame s) (vsgdmOp f s) := by simp +contextual [vsgdmOp]

end

/-- An issue that takes no trap has the frame that its effect has: a wait marks the bundle alone. -/
theorem issue_frame {s t : State} {r : Res State} (hr : Frames id (vecFrame s) r) (h : issue s r = .next t) (hc : t.ctx.cause = none) :
    vecFrame t = vecFrame s := by
  rw [issue_eq] at h
  rcases close_cases finishSaves s r with ⟨u, hu, e⟩ | ⟨-, e⟩ | ⟨_, -, e⟩ | ⟨-, e⟩ | ⟨_, -, e⟩ <;> rw [e] at h <;> cases h
  · exact hr _ hu
  · rfl
  · rfl
  · rfl
  · cases hc

/-- The instructions whose destination is a row of a bank alone are not well formed with a port (06 R168, R169). -/
theorem vecInstr_frame {i : Instr} {f : VF} {s t : State} (hf : i.vform = some f) (hw : i.wf = true) (hd : f.vd < 0x14)
    (h : exec i s = .next t) (hc : t.ctx.cause = none) : vecFrame t = vecFrame s := by
  have hport : f.vd < 0x80 := BitVec.lt_trans hd (by decide)
  have hrow : rowDst f = false := Bool.and_eq_false_iff.2 (.inr (decide_eq_false (BitVec.not_le.2 hport)))
  cases i with
  | vadd | vsub | vmul | vmax | vmin => exact issue_frame arith2_frames h hc
  | vfma | vfms => exact issue_frame arith3_frames h hc
  | vabs | vneg => exact issue_frame arith1_frames h hc
  | vrcp | vrsq | vexp2 | vlog2 | vtanh => exact issue_frame trans_frames h hc
  | vand | vor | vxor => exact issue_frame bitOp_frames h hc
  | vshl | vshr | vsar => exact issue_frame shiftOp_frames h hc
  | vceq | vclt | vcle => exact issue_frame cmpOp_frames h hc
  | vsel => exact issue_frame vselOp_frames h hc
  | vcvt => exact issue_frame vcvtOp_frames h hc
  | vqnt => exact issue_frame vqntOp_frames h hc
  | vdq => exact issue_frame vdqOp_frames h hc
  | vsrnd => exact issue_frame vsrndOp_frames h hc
  | vscal => exact issue_frame vscalOp_frames h hc
  | vredsum | vredmax | vredmin => exact issue_frame redOp_frames h hc
  | vbcast => exact issue_frame vbcastOp_frames h hc
  | vextr => exact issue_frame vextrOp_frames h hc
  | vperm => exact issue_frame vpermOp_frames h hc
  | vmov => exact issue_frame (vmovOp_frames (Option.some.inj hf ▸ hport)) h hc
  | vzero => exact issue_frame (vzeroOp_frames (Option.some.inj hf ▸ hport)) h hc
  | vadam => exact issue_frame vadamOp_frames h hc
  | vsgdm => exact issue_frame vsgdmOp_frames h hc
  | vacc => cases hf; simp [Instr.wf, wfVacc, hrow] at hw
  | vaccw => cases hf; simp [Instr.wf, wfVaccw, hrow] at hw
  | vbfpn => cases hf; simp [Instr.wf, wfVbfpn, hrow] at hw
  | _ => cases hf

theorem vform_slot {i : Instr} {f : VF} (h : i.vform = some f) : i.slot = some (if f.slotB then 2 else 1) := by
  cases i <;> cases h <;> rfl

/-- Settles O25: the frame is kept, and no slot instruction changes memory as it issues. -/
theorem vectorFrame : Obligations.VectorFrame := by
  intro i f s t hf hw hd h hc
  have hfr := vecInstr_frame hf hw hd h hc
  refine ⟨rdByte_of_mem (exec_slot_mem s (vform_slot hf) t h), fun r => ?_, congrArg VecFrame.flags hfr, congrArg VecFrame.loops hfr,
    congrArg VecFrame.handles hfr, congrArg VecFrame.knots hfr, congrArg VecFrame.pc hfr, congrArg VecFrame.shadow hfr,
    congrArg VecFrame.trapPc hfr, congrArg VecFrame.trapCause hfr, congrArg VecFrame.trapInfo hfr, congrArg VecFrame.scratch hfr,
    congrArg VecFrame.full hfr, congrArg VecFrame.banks hfr, congrArg VecFrame.others hfr⟩
  have hregs : t.core.st.a.regs = s.core.st.a.regs := congrArg VecFrame.regs hfr
  rw [regVal, regVal, hregs]

end Sys2Proof.Machine
end

section
/-! SUPPORT. Draws, lanes, vector sources and the stream ports (O18). -/
namespace Sys2Proof.Machine

/-! ### Draws (05 R135, R136) -/

theorem rngDraws_length (n : Nat) (x : Word) : (rngDraws n x).1.length = n := by
  induction n generalizing x with
  | zero => rfl
  | succ n ih => exact congrArg (· + 1) (ih (rngNext x))

/-- A draw is the top 16 bits of a state. -/
theorem rngDraws_lt (n : Nat) (x : Word) : ∀ r ∈ (rngDraws n x).1, r < 65536 := by
  induction n generalizing x with
  | zero => exact fun _ h => nomatch h
  | succ n ih =>
    have hx : (rngNext x >>> 48).toNat < 65536 := by
      rw [BitVec.toNat_ushiftRight, Nat.shiftRight_eq_div_pow]
      have := (rngNext x).isLt
      omega
    exact List.forall_mem_cons.2 ⟨hx, ih (rngNext x)⟩

theorem stochasticDraws : Claims.StochasticDraws :=
  ⟨fun _ _ _ h => if_neg h, fun n _ => ⟨rngDraws_length n _, rngDraws_lt n _, rfl⟩⟩

/-! ### Lanes (06 R147) -/

/-- The number whose digits to the base 2^w are the lanes. -/
def lanesNum (w : Nat) (ls : List Nat) : Nat := ls.foldr (fun x acc => acc * 2 ^ w + x % 2 ^ w) 0

theorem ofLanes_eq (w : Nat) (ls : List Nat) : ofLanes w ls = BitVec.ofNat 512 (lanesNum w ls) := rfl

theorem lanesNum_lt (w : Nat) (ls : List Nat) : lanesNum w ls < 2 ^ (w * ls.length) := by
  induction ls with
  | nil => exact Nat.one_pos
  | cons x t ih =>
    have hx : x % 2 ^ w < 2 ^ w := Nat.mod_lt _ (Nat.two_pow_pos w)
    calc lanesNum w (x :: t) = lanesNum w t * 2 ^ w + x % 2 ^ w := rfl
      _ < (lanesNum w t + 1) * 2 ^ w := by rw [Nat.add_one_mul]; omega
      _ ≤ 2 ^ (w * t.length) * 2 ^ w := Nat.mul_le_mul_right _ ih
      _ = 2 ^ (w * (x :: t).length) := by rw [← pow_add, List.length_cons, Nat.mul_succ]

theorem lanesNum_digit (w : Nat) (ls : List Nat) (i : Nat) : lanesNum w ls / 2 ^ (w * i) % 2 ^ w = ls.getD i 0 % 2 ^ w := by
  have hp := Nat.two_pow_pos w
  induction ls generalizing i with
  | nil => simp [lanesNum]
  | cons x t ih =>
    have hx : x % 2 ^ w < 2 ^ w := Nat.mod_lt _ hp
    have hc : lanesNum w (x :: t) = lanesNum w t * 2 ^ w + x % 2 ^ w := rfl
    rw [hc]
    cases i with
    | zero => simp
    | succ i =>
      have hd : (lanesNum w t * 2 ^ w + x % 2 ^ w) / 2 ^ w = lanesNum w t := by
        rw [Nat.mul_comm, Nat.mul_add_div hp, Nat.div_eq_of_lt hx, Nat.add_zero]
      rw [Nat.mul_succ, Nat.add_comm (w * i), pow_add, ← Nat.div_div_eq_div_mul, hd, ih i]
      rfl

/-- Lanes that fit a vector read back, and those beyond them read 0. -/
theorem laneN_ofLanes {w : Nat} {ls : List Nat} (h : w * ls.length ≤ 512) (i : Nat) : laneN (ofLanes w ls) w i = ls.getD i 0 % 2 ^ w := by
  have hlt : lanesNum w ls < 2 ^ 512 := (lanesNum_lt w ls).trans_le (Nat.pow_le_pow_right Nat.two_pos h)
  rw [laneN, ofLanes_eq, BitVec.toNat_ofNat, Nat.mod_eq_of_lt hlt, lanesNum_digit]

theorem lanePacking : Claims.LanePacking := by
  intro w ls i hw hlen hls
  have hfit : w * ls.length ≤ 512 := (Nat.mul_le_mul_left w hlen).trans (Nat.mul_div_le 512 w)
  rw [laneN_ofLanes hfit]
  split
  next hi =>
    rw [List.getD_eq_getElem _ _ hi]
    exact Nat.mod_eq_of_lt (hls _ (List.getElem_mem hi))
  next hi => rw [List.getD_eq_default _ _ (by omega), Nat.zero_mod]

/-! ### Vector sources (06 R148, 02 R48) -/

theorem popSel_popped {sel : BitVec 6} {s : State} {v : Vec} (h : findKey s.ctx.pops sel.toNat = some v) : popSel sel s = .ok (v, s) := by
  simp [popSel, h]

/-- What a pop answers is then remembered for its bundle. -/
theorem popSel_remembers {sel : BitVec 6} {s t : State} {v : Vec} (h : popSel sel s = .ok (v, t)) :
    findKey t.ctx.pops sel.toNat = some v := by
  unfold popSel at h
  split at h
  next u hu =>
    cases h
    exact hu
  next =>
    dsimp only at h
    split at h <;>
    · refine bothRead h fun ⟨u, r⟩ _ h => ?_
      cases h
      simp [findKey]

theorem vectorSources : Claims.VectorSources := by
  refine ⟨fun sel ty s w hb hw => ?broadcast, fun sel ty s v hb hp => ?popped, fun sel s t v h => popSel_popped (popSel_remembers h)⟩
  case broadcast => rw [srcVec, if_pos hb, hw]; rfl
  case popped => rw [srcVec, if_neg hb, popSel_popped hp]

/-! ### The stream ports (03 R101, 04 R119-R121) -/

theorem portReady_ok {k : Nat} {s : State} (hv : dfield (portDesc s k) 179 179 = 1)
    (he : dfield (portDesc s k) 239 224 ≠ dfield (portDesc s k) 79 64) : portReady k s = .ok (portDesc s k) := by
  have hn : (dfield (portDesc s k) 179 179 = 1 && dfield (portDesc s k) 239 224 != dfield (portDesc s k) 79 64) = true := by
    simp [hv, he]
  rw [portReady, hn]
  rfl

theorem portReady_fault {k : Nat} {s : State}
    (h : dfield (portDesc s k) 179 179 = 0 ∨ dfield (portDesc s k) 239 224 = dfield (portDesc s k) 79 64) :
    portReady k s = .error (.trap ⟨0x06, BitVec.ofNat 64 (if k < 6 then k else k + 10), some s.ctx.slot⟩) := by
  have hn : (dfield (portDesc s k) 179 179 = 1 && dfield (portDesc s k) 239 224 != dfield (portDesc s k) 79 64) = false := by
    rcases h with h | h <;> simp [h]
  rw [portReady, hn]
  rfl

/-- The bytes of a popped vector: those read, at their places, and 0 elsewhere. -/
theorem vecByte_assemble (pl : List (Nat × Byte)) {b : Nat} (hb : b < 64) :
    vecByte (assemble pl) b = ((pl.find? fun e => e.1 == b).map (·.2)).getD 0 := by
  rw [assemble, vecByte_vecOfBytes _ hb]
  simp [List.getD_eq_getElem?_getD, hb]

theorem portPops : Claims.PortPops := by
  intro k s _
  refine ⟨fun h => ?fault, fun bs t hv he hr => ⟨_, ?pop, fun b hb => vecByte_assemble _ hb⟩⟩
  case fault => rw [popPort, portReady_fault h]; rfl
  case pop => rw [popPort, portReady_ok hv he]; simp only [bind, Except.bind, hr]

/-! ### Fields of a descriptor -/

/-- A number whose bits from `lo` to `lo + w` are replaced: the bits below, the new ones, and those above. -/
theorem splice_eq (n lo w x : Nat) :
    n - n / 2 ^ lo % 2 ^ w * 2 ^ lo + x * 2 ^ lo = 2 ^ lo * (2 ^ w * (n / 2 ^ (lo + w)) + x) + n % 2 ^ lo := by
  have hn : n = 2 ^ lo * (2 ^ w * (n / 2 ^ (lo + w))) + n % 2 ^ lo + n / 2 ^ lo % 2 ^ w * 2 ^ lo := by
    conv_lhs => rw [← Nat.div_add_mod n (2 ^ lo), ← Nat.div_add_mod (n / 2 ^ lo) (2 ^ w), Nat.div_div_eq_div_mul, ← pow_add]
    ring
  rw [Nat.mul_add, Nat.mul_comm x]
  omega

/-- A field set has the bits of its value there, and the others as they were. -/
theorem setField_testBit (d : BitVec 256) {lo w : Nat} (v j : Nat) (h : lo + w ≤ 256) (hw : 0 < w) :
    (setField d lo w v).toNat.testBit j = if lo ≤ j ∧ j < lo + w then v.testBit (j - lo) else d.toNat.testBit j := by
  have hlow : d.toNat % 2 ^ lo < 2 ^ lo := Nat.mod_lt _ (Nat.two_pow_pos lo)
  have hv : v % 2 ^ w < 2 ^ w := Nat.mod_lt _ (Nat.two_pow_pos w)
  have hlen : lo + w - 1 + 1 - lo = w := by omega
  rw [setField, bits, hlen, splice_eq, BitVec.toNat_ofNat, Nat.testBit_mod_two_pow, Nat.testBit_two_pow_mul_add _ hlow,
    Nat.testBit_two_pow_mul_add _ hv, Nat.testBit_mod_two_pow, Nat.testBit_mod_two_pow, Nat.testBit_div_two_pow]
  by_cases hj : j < 256
  · by_cases h1 : j < lo
    · have : ¬ lo ≤ j := by omega
      simp [hj, h1, this]
    · by_cases h2 : j - lo < w
      · have : lo ≤ j ∧ j < lo + w := by omega
        simp [hj, h1, h2, this]
      · have h3 : ¬ (lo ≤ j ∧ j < lo + w) := by omega
        have h4 : j - lo - w + (lo + w) = j := by omega
        simp [hj, h1, h2, h3, h4]
  · have h3 : ¬ (lo ≤ j ∧ j < lo + w) := by omega
    have h4 : d.toNat.testBit j = false := Nat.testBit_lt_two_pow (d.isLt.trans_le (Nat.pow_le_pow_right Nat.two_pos (by omega)))
    simp [hj, h3, h4]

theorem dfield_testBit (d : BitVec 256) (hi lo j : Nat) :
    (dfield d hi lo).testBit j = (decide (j < hi + 1 - lo) && d.toNat.testBit (j + lo)) := by
  rw [dfield, bits, Nat.testBit_mod_two_pow, Nat.testBit_div_two_pow]

theorem dfield_lt (d : BitVec 256) (hi lo : Nat) : dfield d hi lo < 2 ^ (hi + 1 - lo) := Nat.mod_lt _ (Nat.two_pow_pos _)

theorem dfield_setField {d : BitVec 256} {lo w v hi : Nat} (h : lo + w ≤ 256) (hw : 0 < w) (hhi : hi + 1 = lo + w) (hv : v < 2 ^ w) :
    dfield (setField d lo w v) hi lo = v := by
  apply Nat.eq_of_testBit_eq
  intro j
  rw [dfield_testBit, setField_testBit d v _ h hw]
  by_cases hj : j < w
  · have h1 : j < hi + 1 - lo := by omega
    have h2 : lo ≤ j + lo ∧ j + lo < lo + w := by omega
    simp [h1, h2]
  · have h1 : ¬ j < hi + 1 - lo := by omega
    have h2 : v.testBit j = false := Nat.testBit_lt_two_pow (hv.trans_le (Nat.pow_le_pow_right Nat.two_pos (by omega)))
    simp [h1, h2]

theorem dfield_setField_of_disjoint {d : BitVec 256} {lo w v hi lo' : Nat} (h : lo + w ≤ 256) (hw : 0 < w)
    (hd : hi < lo ∨ lo + w ≤ lo') : dfield (setField d lo w v) hi lo' = dfield d hi lo' := by
  apply Nat.eq_of_testBit_eq
  intro j
  rw [dfield_testBit, dfield_testBit, setField_testBit d v _ h hw]
  by_cases hj : j < hi + 1 - lo'
  · rw [if_neg (by omega)]
  · simp [hj]

/-- The position after an access (04 R119), by which of its indices has more to come. -/
theorem portOrder : Claims.PortOrder := by
  intro d _ _ ho
  have hm := dfield_lt d 63 48
  have hi := dfield_lt d 47 32
  have hv := dfield_lt d 79 64
  have hcount : dfield (setField d 192 16 0) 63 48 = dfield d 63 48 := dfield_setField_of_disjoint (by omega) (by omega) (by omega)
  simp only [portNext, hcount]
  refine ⟨fun h => ?inner, fun h1 h2 => ?middle, fun h1 h2 => ?outer, ?low⟩
  case inner =>
    rw [if_pos h]
    simp (disch := omega) [dfield_setField, dfield_setField_of_disjoint]
  case middle =>
    rw [if_neg (by omega), if_pos h2]
    simp (disch := omega) [dfield_setField, dfield_setField_of_disjoint]
  case outer =>
    rw [if_neg (by omega), if_neg (by omega)]
    simp (disch := omega) [dfield_setField, dfield_setField_of_disjoint]
  case low =>
    (repeat' split) <;> simp (disch := omega) [dfield_setField_of_disjoint]

/-! ### Pushes (04 R119-R121, 06 R149) -/

theorem pushCheck_ok {k : Nat} {s : State} (h : pushCheck k s = .ok ()) : portReady k s = .ok (portDesc s k) ∧
    spadWriteCheck ((portBytes (portDesc s k)).map (·.2)) (dfield (portDesc s k) 177 176) (BitVec.ofInt 64 (portAddr (portDesc s k))) s =
      .ok () := by
  refine bothRead h fun d hd hc => ?_
  obtain rfl : portDesc s k = d := by
    refine bothRead hd fun _ _ e => ?_
    exact Except.ok.inj e
  exact ⟨hd, hc⟩

@[simp] theorem assumed_setPort (k : Nat) (d : BitVec 256) (s : State) (cls : Nat) : assumed (setPort k d s) cls = assumed s cls := rfl

/-- What a push leaves pending, in a landing with the cycle, clock and second stage given. -/
def pushedPend (k : Nat) (v : Vec) (cls : Nat) (fl : Flags) (s : State) (d : Option Nat) (ready : Nat) (nx : Option (Nat × Nat)) : Pend :=
  ⟨d, ready, nx, s.core.st.seq, .spad (some k) ((portBytes (portDesc s k)).map fun b => (b.2.toNat, vecByte v b.1))
    (fullBits (dfield (portDesc s k) 177 176) ((portBytes (portDesc s k)).map fun b => b.2.toNat)), fl, cls⟩

/-- A push with its pending result. -/
def pushed (k : Nat) (p : Pend) (s : State) : State :=
  addPend p.due p.ready p.next p.act p.flags p.cls (setPort k (portNext (portDesc s k)) s)

/-- A push to a ready port, by which of its two assumed latencies are 0 (06 R149). -/
theorem pushPort_eq {k : Nat} {v : Vec} {cls : Nat} {fl : Flags} {s : State} (h : pushCheck k s = .ok ()) : pushPort k v cls fl s =
    .ok (pushed k (if assumed s cls ≠ 0 ∧ assumed s 11 ≠ 0 then
        pushedPend k v cls fl s (some (s.core.st.cyc + assumed s cls + assumed s 11)) (s.now + real s cls + real s 11) none
      else if assumed s cls = 0 ∧ assumed s 11 = 0 then pushedPend k v cls fl s none (s.now + real s cls + real s 11) none
      else pushedPend k v cls fl s (dueAt s cls) (s.now + real s cls) (some (assumed s 11, real s 11))) s) := by
  obtain ⟨hd, hc⟩ := pushCheck_ok h
  simp only [pushPort, hd, bind, Except.bind, hc]
  by_cases ha : assumed s cls = 0 <;> by_cases hb : assumed s 11 = 0
  all_goals
    simp [ha, hb]
    rfl

theorem portDesc_setPort {k : Nat} (d : BitVec 256) (s : State) (h : k < 10) : portDesc (setPort k d s) k = d := by
  simp [portDesc, setPort, h]

theorem portDesc_setPort_of_ne {j k : Nat} (d : BitVec 256) (s : State) (h : j ≠ k) : portDesc (setPort k d s) j = portDesc s j := by
  simp [portDesc, setPort, Vector.getElem?_setIfInBounds_ne h.symm]

theorem pushed_eq {k : Nat} {p : Pend} {s : State} (hp : p.seq = s.core.st.seq) : pushed k p s = mapSt (fun x => { x with
    a := { x.a with ports := (pushed k p s).core.st.a.ports }, pend := s.core.st.pend ++ [p], seq := s.core.st.seq + 1 }) s := by
  have h : (⟨p.due, p.ready, p.next, s.core.st.seq, p.act, p.flags, p.cls⟩ : Pend) = p := by rw [← hp]
  rw [← h]
  rfl

theorem portPushes : Claims.PortPushes := by
  intro k v cls fl s hk h
  rw [pushPort_eq h]
  refine ⟨_, _, rfl, portDesc_setPort _ s hk, ?flags, ?seq, ?act, ?both, ?native, ?mixed, pushed_eq ?seq,
    fun j hj => portDesc_setPort_of_ne _ s hj⟩
  case flags | seq | act => (repeat' split) <;> rfl
  case both => exact fun ha hb => by rw [if_pos ⟨ha, hb⟩]; exact ⟨rfl, rfl, rfl⟩
  case native => exact fun ha hb => by rw [if_neg (fun h => h.1 ha), if_pos ⟨ha, hb⟩]; exact ⟨rfl, rfl, rfl⟩
  case mixed =>
    intro hab
    rw [if_neg (fun h => hab (by simp [h])), if_neg (fun h => hab (by simp [h]))]
    exact ⟨rfl, rfl, rfl⟩

/-- Settles O18, part by part. -/
theorem vectorSourcesAndPorts : Obligations.VectorSourcesAndPorts :=
  ⟨stochasticDraws, lanePacking, vectorSources, portPops, portOrder, portPushes⟩

end Sys2Proof.Machine
end

section
/-! SUPPORT. The canonical form of the machine's maps under every step (O57). Two kinds of lemma, one for each function of the model that
`step` reaches: `f_canonical` says that `f` keeps `Claims.canonical`, and `op_keepsMaps` that the state in an operation's answer has it. A
function that touches none of the maps has an equivalence; one that writes a map, evicts a line to an HBM stack or takes an id has an
implication. The lemmas stand in the order of the model's files; those about the model's own combinators, which take functions on states,
take the property of the functions as a hypothesis. -/

namespace Sys2Proof.Machine

/-! ### Writes to maps -/

/-- A map of bytes, of full/empty or lock bits, or of words, in its canonical form. -/
def BytesOk (m : SMap Byte) : Prop := SMap.wf 0 m = true
def BitsOk (m : SMap Bool) : Prop := SMap.wf false m = true
def WordsOk (m : SMap Word) : Prop := SMap.wf 0 m = true

@[simp] theorem bytesOk_nil : BytesOk [] := rfl
@[simp] theorem bitsOk_nil : BitsOk [] := rfl
@[simp] theorem wordsOk_nil : WordsOk [] := rfl
@[simp] theorem bytesOk_setAll {m : SMap Byte} (l : List (Nat × Byte)) (h : BytesOk m) : BytesOk (SMap.setAll 0#8 m l) := SMap.wf_setAll l h
@[simp] theorem bitsOk_setAll {m : SMap Bool} (l : List (Nat × Bool)) (h : BitsOk m) : BitsOk (SMap.setAll false m l) :=
  SMap.wf_setAll l h
@[simp] theorem wordsOk_set {m : SMap Word} (k : Nat) (v : Word) (h : WordsOk m) : WordsOk (SMap.set 0#64 m k v) := SMap.wf_set k v h
@[simp] theorem wordsOk_filter {m : SMap Word} (p : Nat × Word → Bool) (h : WordsOk m) : WordsOk (m.filter p) := SMap.wfFrom_filter p h

/-- Writes in the order of a list, each of a key and value that may depend on the map so far. -/
theorem SMap.wf_foldl {α β : Type} [DecidableEq α] {d : α} {f : SMap α → β → SMap α} {m : SMap α} (l : List β) (h : SMap.wf d m = true)
    (hf : ∀ m b, SMap.wf d m = true → SMap.wf d (f m b) = true) : SMap.wf d (l.foldl f m) = true := by
  induction l generalizing m with
  | nil => exact h
  | cons b t ih => exact ih (hf m b h)

/-- The keys after a write: the old ones, and perhaps the one written. -/
theorem SMap.mem_set {α : Type} [DecidableEq α] {d : α} {m : SMap α} {a : Nat} {v : α} {e : Nat × α} (h : e ∈ SMap.set d m a v) :
    e.1 = a ∨ e ∈ m := by
  induction m with
  | nil =>
    unfold SMap.set at h
    split at h
    · cases h
    · exact .inl (by rw [List.mem_singleton.1 h])
  | cons x t ih =>
    obtain ⟨k, w⟩ := x
    unfold SMap.set at h
    split at h
    · split at h
      · exact .inr h
      · obtain rfl | h := List.mem_cons.1 h
        · exact .inl rfl
        · exact .inr h
    · split at h
      · split at h
        · exact .inr (List.mem_cons_of_mem _ h)
        · obtain rfl | h := List.mem_cons.1 h
          · exact .inl rfl
          · exact .inr (List.mem_cons_of_mem _ h)
      · obtain rfl | h := List.mem_cons.1 h
        · exact .inr List.mem_cons_self
        · exact (ih h).imp_right (List.mem_cons_of_mem _)

/-- The keys of a map of counts are bins of a record (14 R320). -/
def BinsOk (m : SMap Nat) : Prop := ∀ e ∈ m, e.1 < 34

theorem binsOk_set {m : SMap Nat} {a v : Nat} (h : BinsOk m) (ha : a < 34) : BinsOk (SMap.set 0 m a v) := fun e he => by
  obtain hk | hm := SMap.mem_set he
  · exact hk ▸ ha
  · exact h e hm

/-- Every value has its bin (14 R318). -/
theorem binOf_lt (x : XV) (e : Int) (ty : Nat) : binOf x e ty < 34 := by
  unfold binOf
  split
  · dsimp only
    (repeat' split) <;> omega
  · omega

theorem countBins_binsOk {bs : List Nat} {m : SMap Nat} (h : BinsOk m) (hb : ∀ b ∈ bs, b < 34) : BinsOk (countBins bs m) := by
  unfold countBins
  induction bs generalizing m with
  | nil => exact h
  | cons b t ih =>
    obtain ⟨hb, ht⟩ := List.forall_mem_cons.1 hb
    exact ih (binsOk_set h hb) ht

theorem countAdd_wf {a b : SMap Nat} (h : SMap.wf 0 a = true) : SMap.wf 0 (countAdd a b) = true :=
  SMap.wf_foldl b h fun _ _ hm => SMap.wf_set _ _ hm

theorem countAdd_binsOk {a b : SMap Nat} (ha : BinsOk a) (hb : BinsOk b) : BinsOk (countAdd a b) := by
  unfold countAdd
  induction b generalizing a with
  | nil => exact ha
  | cons e t ih =>
    obtain ⟨he, ht⟩ := List.forall_mem_cons.1 hb
    exact ih (binsOk_set ha he) ht

/-! ### The canonical form, part by part -/

/-- The maps of a parked image are in their canonical form. -/
def ImageCanonical (i : Image) : Prop := BytesOk i.scratch ∧ BitsOk i.full ∧ WordsOk i.st.spill

/-- The maps of the parked images of a gang are in their canonical form. -/
def ImagesCanonical (is : List Image) : Prop := ∀ i ∈ is, ImageCanonical i

/-- The maps of the parked images of the gangs are in their canonical form. -/
def GangsCanonical (gs : List Gang) : Prop := ∀ g ∈ gs, ImagesCanonical g.images

/-- The maps of the parked images of the tasks are in their canonical form. -/
def TasksCanonical (ts : List Task) : Prop := ∀ x ∈ ts, GangsCanonical x.gangs

/-- The maps of the cores out of focus are in their canonical form. -/
def OthersCanonical (cs : List Core) : Prop := ∀ c ∈ cs, Claims.coreCanonical c

/-- The counts of a delta slot are in their canonical form, by bins of a record (14 R320). -/
def DeltaCanonical (d : Delta) : Prop := SMap.wf 0 d.counts = true ∧ SMap.wf 0 d.late = true ∧ ∀ e ∈ d.counts ++ d.late, e.1 < 34

/-- The counts of the delta slots are in their canonical form. -/
def DeltasCanonical (ds : List Delta) : Prop := ∀ d ∈ ds, DeltaCanonical d

/-- The held histogram pieces count in bins of a record. -/
def HeldBins (hs : List Held) : Prop := ∀ h ∈ hs, Claims.binsOk h = true

/-- The RES maps are in their canonical form. -/
def TablesCanonical (ts : List Table) : Prop := ∀ x ∈ ts, SMap.wf 0 x.res = true

/-- Running copies and bank loads have distinct ids, all below the next one. -/
def IdsDistinct (cs : List Cop) (ls : List BankLoad) (n : Nat) : Prop :=
  (cs.map (·.id) ++ ls.map (·.id)).Nodup ∧ ∀ k ∈ cs.map (·.id) ++ ls.map (·.id), k < n

theorem canonical_iff {s : State} :
    Claims.canonical s ↔ Claims.coreCanonical s.core ∧ OthersCanonical s.others ∧ TasksCanonical s.sched.tasks ∧
      BitsOk s.locks ∧ BytesOk s.hbm ∧ TablesCanonical s.tables ∧ IdsDistinct s.copies s.loads s.nextId := by
  simp only [Claims.canonical, allCores, List.forall_mem_cons, and_assoc]
  rfl

@[simp] theorem canonical_mk {now core others ctx turn wturn wcur agenda free nextId mem wm dir hc locks slices hbm sram waiters closes tmq
    dieTlb copies loads launchq stats segs mcs ports ptx snoops birsp clnEvcts dom gdown gout gseq gseen gacks rtimes rctrs cfOrs sched
    spawnq standby schedAt tables adders switches routes colls wglq wcount wstat waborts wsigs wchunks wvals host ctl invals lockreqs} :
    Claims.canonical (State.mk now core others ctx turn wturn wcur agenda free nextId mem wm dir hc locks slices hbm sram waiters closes tmq
      dieTlb copies loads launchq stats segs mcs ports ptx snoops birsp clnEvcts dom gdown gout gseq gseen gacks rtimes rctrs cfOrs sched
      spawnq standby schedAt tables adders switches routes colls wglq wcount wstat waborts wsigs wchunks wvals host ctl invals lockreqs) ↔
      Claims.coreCanonical core ∧ OthersCanonical others ∧ TasksCanonical sched.tasks ∧ BitsOk locks ∧ BytesOk hbm ∧
        TablesCanonical tables ∧ IdsDistinct copies loads nextId :=
  canonical_iff

@[simp] theorem coreCanonical_mk {id st split scratch full banks queues mq mBusy mOn sq sBusy sOn coef grad below above held l1 rvt pts lb
    commit pinTok pinReq lockWait tlb xlat stale delta mcw mskew lent slots sstep brken dstop dstopAt dead} :
    Claims.coreCanonical (Core.mk id st split scratch full banks queues mq mBusy mOn sq sBusy sOn coef grad below above held l1 rvt pts lb
      commit pinTok pinReq lockWait tlb xlat stale delta mcw mskew lent slots sstep brken dstop dstopAt dead) ↔
      BytesOk scratch ∧ BitsOk full ∧ WordsOk st.spill ∧ DeltasCanonical delta ∧ HeldBins held :=
  Iff.rfl

/-- The parts of one state are in their canonical form together when it is. -/
@[simp] theorem canonical_parts {s : State} :
    (Claims.coreCanonical s.core ∧ OthersCanonical s.others ∧ TasksCanonical s.sched.tasks ∧ BitsOk s.locks ∧
      BytesOk s.hbm ∧ TablesCanonical s.tables ∧ IdsDistinct s.copies s.loads s.nextId) ↔ Claims.canonical s :=
  canonical_iff.symm

@[simp] theorem coreCanonical_parts {c : Core} :
    (BytesOk c.scratch ∧ BitsOk c.full ∧ WordsOk c.st.spill ∧ DeltasCanonical c.delta ∧ HeldBins c.held) ↔
      Claims.coreCanonical c :=
  Iff.rfl

@[simp] theorem canonical_core {s : State} (h : Claims.canonical s) : Claims.coreCanonical s.core := (canonical_iff.1 h).1
@[simp] theorem canonical_others {s : State} (h : Claims.canonical s) : OthersCanonical s.others := (canonical_iff.1 h).2.1
@[simp] theorem canonical_tasks {s : State} (h : Claims.canonical s) : TasksCanonical s.sched.tasks := (canonical_iff.1 h).2.2.1
@[simp] theorem canonical_locks {s : State} (h : Claims.canonical s) : BitsOk s.locks := (canonical_iff.1 h).2.2.2.1
@[simp] theorem canonical_hbm {s : State} (h : Claims.canonical s) : BytesOk s.hbm := (canonical_iff.1 h).2.2.2.2.1
@[simp] theorem canonical_tables {s : State} (h : Claims.canonical s) : TablesCanonical s.tables := (canonical_iff.1 h).2.2.2.2.2.1
@[simp] theorem canonical_ids {s : State} (h : Claims.canonical s) : IdsDistinct s.copies s.loads s.nextId :=
  (canonical_iff.1 h).2.2.2.2.2.2

@[simp] theorem coreCanonical_scratch {c : Core} (h : Claims.coreCanonical c) : BytesOk c.scratch := h.1
@[simp] theorem coreCanonical_full {c : Core} (h : Claims.coreCanonical c) : BitsOk c.full := h.2.1
@[simp] theorem coreCanonical_spill {c : Core} (h : Claims.coreCanonical c) : WordsOk c.st.spill := h.2.2.1
@[simp] theorem coreCanonical_delta {c : Core} (h : Claims.coreCanonical c) : DeltasCanonical c.delta := h.2.2.2.1
@[simp] theorem coreCanonical_held {c : Core} (h : Claims.coreCanonical c) : HeldBins c.held := h.2.2.2.2

@[simp] theorem canonical_scratch {s : State} (h : Claims.canonical s) : BytesOk s.core.scratch := (canonical_core h).1
@[simp] theorem canonical_full {s : State} (h : Claims.canonical s) : BitsOk s.core.full := (canonical_core h).2.1
@[simp] theorem canonical_spill {s : State} (h : Claims.canonical s) : WordsOk s.core.st.spill := (canonical_core h).2.2.1
@[simp] theorem canonical_delta {s : State} (h : Claims.canonical s) : DeltasCanonical s.core.delta := (canonical_core h).2.2.2.1
@[simp] theorem canonical_held {s : State} (h : Claims.canonical s) : HeldBins s.core.held := (canonical_core h).2.2.2.2

@[simp] theorem heldBins_nil : HeldBins [] := fun _ h => nomatch h
@[simp] theorem heldBins_append {hs ks : List Held} : HeldBins (hs ++ ks) ↔ HeldBins hs ∧ HeldBins ks := List.forall_mem_append
@[simp] theorem heldBins_cons {x : Held} {hs : List Held} : HeldBins (x :: hs) ↔ Claims.binsOk x = true ∧ HeldBins hs :=
  List.forall_mem_cons

@[simp] theorem deltasCanonical_nil : DeltasCanonical [] := fun _ h => nomatch h
@[simp] theorem deltasCanonical_cons {d : Delta} {ds : List Delta} : DeltasCanonical (d :: ds) ↔ DeltaCanonical d ∧ DeltasCanonical ds :=
  List.forall_mem_cons
@[simp] theorem deltasCanonical_filter {p : Delta → Bool} {ds : List Delta} (h : DeltasCanonical ds) : DeltasCanonical (ds.filter p) :=
  fun d hd => h d (List.mem_of_mem_filter hd)

@[simp] theorem othersCanonical_nil : OthersCanonical [] := fun _ h => nomatch h
@[simp] theorem othersCanonical_cons {c : Core} {cs : List Core} :
    OthersCanonical (c :: cs) ↔ Claims.coreCanonical c ∧ OthersCanonical cs :=
  List.forall_mem_cons
@[simp] theorem othersCanonical_filter {p : Core → Bool} {cs : List Core} (h : OthersCanonical cs) : OthersCanonical (cs.filter p) :=
  fun c hc => h c (List.mem_of_mem_filter hc)
@[simp] theorem othersCanonical_map {f : Core → Core} {cs : List Core} (h : OthersCanonical cs)
    (hf : ∀ c, Claims.coreCanonical c → Claims.coreCanonical (f c)) : OthersCanonical (cs.map f) :=
  List.forall_mem_map.2 fun c hc => hf c (h c hc)

@[simp] theorem imagesCanonical_nil : ImagesCanonical [] := fun _ h => nomatch h
@[simp] theorem gangsCanonical_nil : GangsCanonical [] := fun _ h => nomatch h
@[simp] theorem tasksCanonical_nil : TasksCanonical [] := fun _ h => nomatch h
@[simp] theorem tasksCanonical_append {xs ys : List Task} : TasksCanonical (xs ++ ys) ↔ TasksCanonical xs ∧ TasksCanonical ys :=
  List.forall_mem_append
@[simp] theorem tasksCanonical_singleton {x : Task} : TasksCanonical [x] ↔ GangsCanonical x.gangs := List.forall_mem_singleton
@[simp] theorem tasksCanonical_map {f : Task → Task} {ts : List Task} (h : TasksCanonical ts)
    (hf : ∀ x, GangsCanonical x.gangs → GangsCanonical (f x).gangs) : TasksCanonical (ts.map f) :=
  List.forall_mem_map.2 fun x hx => hf x (h x hx)
/-- Tasks that change but for their gangs. -/
@[simp] theorem tasksCanonical_map_iff {f : Task → Task} {ts : List Task} (hf : ∀ x, (f x).gangs = x.gangs) :
    TasksCanonical (ts.map f) ↔ TasksCanonical ts :=
  List.forall_mem_map.trans (forall₂_congr fun x _ => by rw [hf x])
@[simp] theorem gangsCanonical_map {f : Gang → Gang} {gs : List Gang} (h : GangsCanonical gs)
    (hf : ∀ g, ImagesCanonical g.images → ImagesCanonical (f g).images) : GangsCanonical (gs.map f) :=
  List.forall_mem_map.2 fun g hg => hf g (h g hg)
@[simp] theorem imagesCanonical_map {f : Image → Image} {is : List Image} (h : ImagesCanonical is)
    (hf : ∀ i, ImageCanonical i → ImageCanonical (f i)) : ImagesCanonical (is.map f) :=
  List.forall_mem_map.2 fun i hi => hf i (h i hi)

@[simp] theorem tablesCanonical_nil : TablesCanonical [] := fun _ h => nomatch h
@[simp] theorem tablesCanonical_append {xs ys : List Table} : TablesCanonical (xs ++ ys) ↔ TablesCanonical xs ∧ TablesCanonical ys :=
  List.forall_mem_append
@[simp] theorem tablesCanonical_singleton {x : Table} : TablesCanonical [x] ↔ SMap.wf 0 x.res = true := List.forall_mem_singleton
@[simp] theorem tablesCanonical_filter {p : Table → Bool} {ts : List Table} (h : TablesCanonical ts) : TablesCanonical (ts.filter p) :=
  fun x hx => h x (List.mem_of_mem_filter hx)
/-- Tables that change but for their RES maps. -/
@[simp] theorem tablesCanonical_map_iff {f : Table → Table} {ts : List Table} (hf : ∀ x, (f x).res = x.res) :
    TablesCanonical (ts.map f) ↔ TablesCanonical ts :=
  List.forall_mem_map.trans (forall₂_congr fun x _ => by rw [hf x])
@[simp] theorem tablesCanonical_map_ite {p : Table → Prop} [DecidablePred p] {f : Table → Table} {ts : List Table}
    (hf : ∀ x, (f x).res = x.res) : TablesCanonical (ts.map fun x => if p x then f x else x) ↔ TablesCanonical ts :=
  tablesCanonical_map_iff fun x => by split <;> simp [hf]
theorem tablesCanonical_map {f : Table → Table} {ts : List Table} (h : TablesCanonical ts)
    (hf : ∀ x, SMap.wf 0 x.res = true → SMap.wf 0 (f x).res = true) : TablesCanonical (ts.map f) :=
  List.forall_mem_map.2 fun x hx => hf x (h x hx)

/-! ### Ids of copies and bank loads -/

@[simp] theorem idsDistinct_nil (n : Nat) : IdsDistinct [] [] n := ⟨List.nodup_nil, fun _ h => nomatch h⟩

/-- Fewer copies or loads, and more ids given out. -/
theorem IdsDistinct.sublist {cs ds : List Cop} {ls ms : List BankLoad} {n m : Nat} (h : IdsDistinct cs ls n) (hc : ds.Sublist cs)
    (hl : ms.Sublist ls) (hn : n ≤ m) : IdsDistinct ds ms m :=
  have hs := (hc.map (·.id)).append (hl.map (·.id))
  ⟨h.1.sublist hs, fun k hk => (h.2 k (hs.subset hk)).trans_le hn⟩

@[simp] theorem idsDistinct_succ {cs : List Cop} {ls : List BankLoad} {n : Nat} (h : IdsDistinct cs ls n) : IdsDistinct cs ls (n + 1) :=
  h.sublist (.refl _) (.refl _) (Nat.le_succ n)
@[simp] theorem idsDistinct_filter_copies {p : Cop → Bool} {cs : List Cop} {ls : List BankLoad} {n : Nat} (h : IdsDistinct cs ls n) :
    IdsDistinct (cs.filter p) ls n :=
  h.sublist List.filter_sublist (.refl _) le_rfl
@[simp] theorem idsDistinct_filter_loads {p : BankLoad → Bool} {cs : List Cop} {ls : List BankLoad} {n : Nat} (h : IdsDistinct cs ls n) :
    IdsDistinct cs (ls.filter p) n :=
  h.sublist (.refl _) List.filter_sublist le_rfl

/-- Copies that change but for their ids. -/
@[simp] theorem idsDistinct_map_copies {f : Cop → Cop} {cs : List Cop} {ls : List BankLoad} {n : Nat} (hf : ∀ x, (f x).id = x.id) :
    IdsDistinct (cs.map f) ls n ↔ IdsDistinct cs ls n := by
  have hm : (cs.map f).map (·.id) = cs.map (·.id) := (List.map_map ..).trans (List.map_congr_left fun x _ => hf x)
  rw [IdsDistinct, hm, IdsDistinct]
@[simp] theorem idsDistinct_map_copies_ite {p : Cop → Prop} [DecidablePred p] {f : Cop → Cop} {cs : List Cop} {ls : List BankLoad} {n : Nat}
    (hf : ∀ x, (f x).id = x.id) : IdsDistinct (cs.map fun x => if p x then f x else x) ls n ↔ IdsDistinct cs ls n :=
  idsDistinct_map_copies fun x => by split <;> simp [hf]
/-- A copy that takes the place of the one with its id. -/
@[simp] theorem idsDistinct_replace {o : Cop} {k : Nat} {cs : List Cop} {ls : List BankLoad} {n : Nat} (hk : o.id = k) :
    IdsDistinct (cs.map fun x => if x.id = k then o else x) ls n ↔ IdsDistinct cs ls n :=
  idsDistinct_map_copies fun x => by
    split
    next h => exact hk.trans h.symm
    next => rfl
/-- Loads that change but for their ids. -/
@[simp] theorem idsDistinct_map_loads {f : BankLoad → BankLoad} {cs : List Cop} {ls : List BankLoad} {n : Nat} (hf : ∀ x, (f x).id = x.id) :
    IdsDistinct cs (ls.map f) n ↔ IdsDistinct cs ls n := by
  have hm : (ls.map f).map (·.id) = ls.map (·.id) := (List.map_map ..).trans (List.map_congr_left fun x _ => hf x)
  rw [IdsDistinct, hm, IdsDistinct]

@[simp] theorem idsDistinct_map_loads_ite {p : BankLoad → Prop} [DecidablePred p] {f : BankLoad → BankLoad} {cs : List Cop}
    {ls : List BankLoad} {n : Nat} (hf : ∀ x, (f x).id = x.id) :
    IdsDistinct cs (ls.map fun x => if p x then f x else x) n ↔ IdsDistinct cs ls n :=
  idsDistinct_map_loads fun x => by split <;> simp [hf]

/-- A copy with a fresh id. -/
theorem idsDistinct_add_copy {o : Cop} {cs : List Cop} {ls : List BankLoad} {n : Nat} (h : IdsDistinct cs ls n) (ho : o.id = n) :
    IdsDistinct (cs ++ [o]) ls (n + 1) := by
  have hp : ((cs ++ [o]).map (·.id) ++ ls.map (·.id)).Perm (n :: (cs.map (·.id) ++ ls.map (·.id))) := by
    simp [ho]
  refine ⟨hp.nodup_iff.2 (List.nodup_cons.2 ⟨fun hm => lt_irrefl n (h.2 n hm), h.1⟩), fun k hk => ?_⟩
  obtain rfl | hk := List.mem_cons.1 (hp.mem_iff.1 hk)
  · exact Nat.lt_succ_self k
  · exact (h.2 k hk).trans (Nat.lt_succ_self n)
/-- A bank load with a fresh id. -/
theorem idsDistinct_add_load {l : BankLoad} {cs : List Cop} {ls : List BankLoad} {n : Nat} (h : IdsDistinct cs ls n) (hl : l.id = n) :
    IdsDistinct cs (ls ++ [l]) (n + 1) := by
  have hp : (cs.map (·.id) ++ (ls ++ [l]).map (·.id)).Perm (n :: (cs.map (·.id) ++ ls.map (·.id))) := by
    simpa [hl] using List.perm_append_singleton n (cs.map (·.id) ++ ls.map (·.id))
  refine ⟨hp.nodup_iff.2 (List.nodup_cons.2 ⟨fun hm => lt_irrefl n (h.2 n hm), h.1⟩), fun k hk => ?_⟩
  obtain rfl | hk := List.mem_cons.1 (hp.mem_iff.1 hk)
  · exact Nat.lt_succ_self k
  · exact (h.2 k hk).trans (Nat.lt_succ_self n)

/-! ### How the canonical form passes through the combinators -/

@[simp] theorem canonical_ite {p : Prop} [Decidable p] {a b : State} :
    Claims.canonical (if p then a else b) ↔ if p then Claims.canonical a else Claims.canonical b := by split <;> rfl

@[simp] theorem canonical_foldl {β : Type} {f : State → β → State} {l : List β} {s : State} (h : Claims.canonical s)
    (hf : ∀ s b, Claims.canonical s → Claims.canonical (f s b)) : Claims.canonical (l.foldl f s) := by
  induction l generalizing s with
  | nil => exact h
  | cons b t ih => exact ih (hf s b h)

@[simp] theorem canonical_foldl_iff {β : Type} {f : State → β → State} {l : List β} {s : State}
    (hf : ∀ s b, Claims.canonical (f s b) ↔ Claims.canonical s) : Claims.canonical (l.foldl f s) ↔ Claims.canonical s := by
  induction l generalizing s with
  | nil => exact Iff.rfl
  | cons b t ih => exact ih.trans (hf s b)

/-- What the canonical form reads of a core. -/
@[simp] abbrev sameMaps (c d : Core) : Prop :=
  d.scratch = c.scratch ∧ d.full = c.full ∧ d.st.spill = c.st.spill ∧ d.delta = c.delta ∧ d.held = c.held

theorem coreCanonical_congr {c d : Core} (h : sameMaps c d) : Claims.coreCanonical d ↔ Claims.coreCanonical c := by
  obtain ⟨hs, hf, hp, hd, hh⟩ := h
  simp only [Claims.coreCanonical, hs, hf, hp, hd, hh]

theorem mapCore_keepsMaps {f : Core → Core} {s : State} (h : Claims.canonical s) (hf : Claims.coreCanonical (f s.core)) :
    Claims.canonical (mapCore f s) :=
  canonical_iff.2 ⟨hf, (canonical_iff.1 h).2⟩

@[simp] theorem mapCore_canonical {f : Core → Core} {s : State} (hf : ∀ c, sameMaps c (f c)) :
    Claims.canonical (mapCore f s) ↔ Claims.canonical s := by
  rw [canonical_iff, canonical_iff, ← coreCanonical_congr (hf s.core)]
  rfl

theorem mapSt_keepsMaps {f : Strand → Strand} {s : State} (h : Claims.canonical s) (hf : WordsOk (f s.core.st).spill) :
    Claims.canonical (mapSt f s) :=
  have hc := canonical_core h
  mapCore_keepsMaps (f := fun c => { c with st := f c.st }) h ⟨hc.1, hc.2.1, hf, hc.2.2.2⟩

@[simp] theorem mapSt_canonical {f : Strand → Strand} {s : State} (hf : ∀ t, (f t).spill = t.spill) :
    Claims.canonical (mapSt f s) ↔ Claims.canonical s :=
  mapCore_canonical (f := fun c => { c with st := f c.st }) fun c => ⟨rfl, rfl, hf c.st, rfl, rfl⟩

@[simp] theorem mapArch_canonical {f : Arch → Arch} {s : State} : Claims.canonical (mapArch f s) ↔ Claims.canonical s :=
  mapSt_canonical (f := fun t => { t with a := f t.a }) fun _ => rfl

@[simp] theorem mapCtx_canonical {f : Ctx → Ctx} {s : State} : Claims.canonical (mapCtx f s) ↔ Claims.canonical s := Iff.rfl

@[simp] theorem coreInit_canonical (c : CoreId) : Claims.coreCanonical (Core.init c) := by simp [Core.init, Strand.init]

@[simp] theorem coreOf_canonical {s : State} (c : CoreId) (h : Claims.canonical s) : Claims.coreCanonical (coreOf s c) := by
  unfold coreOf
  split
  · exact canonical_core h
  · cases hk : s.others.find? fun k => k.id == c with
    | none => exact coreInit_canonical c
    | some k => exact canonical_others h k (List.mem_of_find?_eq_some hk)

@[simp] theorem focus_canonical {s : State} (c : CoreId) (h : Claims.canonical s) : Claims.canonical (focus c s) := by
  simp [focus, h]

theorem onCore_keepsMaps {f : Core → Core} {s : State} (c : CoreId) (h : Claims.canonical s)
    (hf : ∀ k, Claims.coreCanonical k → Claims.coreCanonical (f k)) : Claims.canonical (onCore c f s) := by
  unfold onCore
  split
  · exact mapCore_keepsMaps h (hf _ (canonical_core h))
  · simp [h, hf]

@[simp] theorem onCore_canonical {f : Core → Core} {s : State} (c : CoreId) (h : Claims.canonical s) (hf : ∀ k, sameMaps k (f k)) :
    Claims.canonical (onCore c f s) :=
  onCore_keepsMaps c h fun k hk => (coreCanonical_congr (hf k)).2 hk

/-- Whatever the computation answers, the maps of the state in its answer are in their canonical form. -/
def KeepsMaps {ε β : Type} (st : β → State) (r : Except ε β) : Prop := ∀ b, r = .ok b → Claims.canonical (st b)

@[simp] theorem keepsMaps_ok {ε β : Type} (st : β → State) (b : β) : KeepsMaps st (.ok b : Except ε β) ↔ Claims.canonical (st b) :=
  ⟨fun h => h b rfl, fun h _ e => Except.ok.inj e ▸ h⟩

@[simp] theorem keepsMaps_error {ε β : Type} (st : β → State) (e : ε) : KeepsMaps st (.error e : Except ε β) := fun _ h => nomatch h

/-- A step that carries no state. -/
@[simp] theorem keepsMaps_bind {ε α β : Type} {st : β → State} {x : Except ε α} {f : α → Except ε β} :
    KeepsMaps st (x >>= f) ↔ ∀ a, x = .ok a → KeepsMaps st (f a) := by
  cases x with
  | ok a => exact ⟨fun h b e => Except.ok.inj e ▸ h, fun h => h a rfl⟩
  | error e => exact ⟨fun _ _ h => (nomatch h), fun _ => keepsMaps_error st e⟩

/-- A step that hands on a state. -/
@[simp high] theorem keepsMaps_bind_state {ε α β : Type} {st : β → State} {x : Except ε (α × State)} {f : α × State → Except ε β}
    (hx : KeepsMaps Prod.snd x) : KeepsMaps st (x >>= f) ↔ ∀ a u, Claims.canonical u → x = .ok (a, u) → KeepsMaps st (f (a, u)) :=
  keepsMaps_bind.trans ⟨fun h a u _ e => h (a, u) e, fun h p e => h p.1 p.2 (hx p e) e⟩

/-- A step whose answer is the state. -/
@[simp high] theorem keepsMaps_bind_self {ε β : Type} {st : β → State} {x : Except ε State} {f : State → Except ε β}
    (hx : KeepsMaps id x) : KeepsMaps st (x >>= f) ↔ ∀ u, Claims.canonical u → x = .ok u → KeepsMaps st (f u) :=
  keepsMaps_bind.trans ⟨fun h u _ e => h u e, fun h u e => h u (hx u e) e⟩

@[simp] theorem keepsMaps_ite {ε β : Type} {st : β → State} {p : Prop} [Decidable p] {x y : Except ε β} :
    KeepsMaps st (if p then x else y) ↔ (p → KeepsMaps st x) ∧ (¬p → KeepsMaps st y) := by split <;> simp [*]

@[simp] theorem keepsMaps_gather {β : Type} {st : β → State} {r : Res β} {cs : List (Option Stop)} :
    KeepsMaps st (gather r cs) ↔ KeepsMaps st r := by simp only [KeepsMaps, gather_ok]

@[simp] theorem keepsMaps_liftMem {β : Type} {st : β → State} {s : State} {x : Except MemErr β} :
    KeepsMaps st (liftMem s x) ↔ KeepsMaps st x := by
  cases x with
  | ok a => simp [liftMem]
  | error e => exact ⟨fun _ => keepsMaps_error st e, fun _ b h => nomatch (liftMem_ok h)⟩

@[simp] theorem keepsMaps_raise {β : Type} (st : β → State) (s : State) (c : Nat) (w : Word) : KeepsMaps st (raise s c w : Res β) :=
  keepsMaps_error st _
@[simp] theorem keepsMaps_memStop {β : Type} (st : β → State) (s : State) (e : MemErr) : KeepsMaps st (memStop s e : Res β) :=
  fun _ h => nomatch liftMem_ok (x := .error e) h

/-! ### Cache slices and reads -/

@[simp] theorem askPool_canonical (tx : PoolTx) (s : State) : Claims.canonical (askPool tx s) ↔ Claims.canonical s := by
  simp [askPool]

@[simp] theorem setDir_canonical (l : Nat) (d : Dir) (s : State) : Claims.canonical (setDir l d s) ↔ Claims.canonical s := by
  simp [setDir]

@[simp] theorem dropSlice_canonical (line : Nat) (s : State) : Claims.canonical (dropSlice line s) ↔ Claims.canonical s := by
  simp [dropSlice]

@[simp] theorem setPst_canonical (line p : Nat) (s : State) : Claims.canonical (setPst line p s) ↔ Claims.canonical s := by
  unfold setPst
  split <;> simp

@[simp] theorem dropClean_canonical (line : Nat) (s : State) : Claims.canonical (dropClean line s) ↔ Claims.canonical s := by
  unfold dropClean
  dsimp only
  split <;> simp

/-- A modified HBM line that leaves its slice is written to its stack (11 R253). -/
@[simp] theorem evictLine_canonical (v : SliceLine) {s : State} (h : Claims.canonical s) : Claims.canonical (evictLine v s) := by
  unfold evictLine
  dsimp only
  split
  · split <;> simp [h]
  · split <;> simp [h]

@[simp] theorem touchLine_canonical (line : Nat) (wr : Bool) {s : State} (h : Claims.canonical s) :
    Claims.canonical (touchLine line wr s) := by
  unfold touchLine
  dsimp only
  split <;> simp [h]

@[simp] theorem touchAll_canonical (lines : List Nat) {s : State} (h : Claims.canonical s) : Claims.canonical (touchAll lines s) :=
  canonical_foldl h fun _ l hs => touchLine_canonical l false hs

@[simp] theorem keepDie_canonical (d : Nat) (t : Tlb) (s : State) : Claims.canonical (keepDie d t s) ↔ Claims.canonical s := by
  unfold keepDie
  dsimp only
  split <;> simp

@[simp] theorem lookupTlb_keepsMaps {va : Nat} {s : State} (h : Claims.canonical s) : KeepsMaps Prod.snd (lookupTlb s va) := by
  unfold lookupTlb
  dsimp only
  (repeat' split) <;> simp [h]

@[simp] theorem coreXlate_keepsMaps {acc : Acc} {va : Nat} {s : State} (h : Claims.canonical s) :
    KeepsMaps Prod.snd (coreXlate acc va s) := by
  simp +contextual [coreXlate, h]

@[simp] theorem xlateW_keepsMaps {acc : Acc} {va : Nat} {s : State} (h : Claims.canonical s) : KeepsMaps Prod.snd (xlateW acc va s) := by
  simp +contextual [xlateW, h]

@[simp] theorem xlateAll_canonical (acc : Acc) :
    ∀ (l : List (Nat × Nat)) (s : State), Claims.canonical s → Claims.canonical (xlateAll acc l s).2
  | [], _, h => h
  | (va, n) :: t, s, h => by
    unfold xlateAll
    split
    next he => exact xlateAll_canonical acc t _ (coreXlate_keepsMaps h _ he)
    next => exact xlateAll_canonical acc t s h

@[simp] theorem grantLease_canonical (line pts : Nat) (pinner : Option CoreId) (s : State) :
    Claims.canonical (grantLease line pts pinner s).2 ↔ Claims.canonical s := by
  unfold grantLease
  dsimp only
  (repeat' split) <;> simp

/-- An entry that enters the L1 or the read-victim table leaves the core's maps alone. -/
theorem l1Insert_canonical {l : L1Line} {c d : Core} (h : Claims.coreCanonical c) (e : l1Insert l c = some d) : Claims.coreCanonical d := by
  rw [l1Insert_core e]
  exact h
theorem rvtAdd_canonical {line lease : Nat} {c d : Core} (h : Claims.coreCanonical c) (e : rvtAdd line lease c = some d) :
    Claims.coreCanonical d := by
  rw [rvtAdd_core e]
  exact h

@[simp] theorem regionLine_keepsMaps (line : Nat) (rop : Bool) (s : State) (h : Claims.canonical s) :
    KeepsMaps Prod.snd (regionLine line rop s) := by
  unfold regionLine
  dsimp only
  split
  · simp [h]
  · refine keepsMaps_bind.2 fun _ _ => ?_
    have ht := touchLine_canonical line false h
    generalize touchLine line false s = s1 at ht ⊢
    split
    · split
      next c hc =>
        refine (keepsMaps_ok ..).2 (mapCore_keepsMaps (f := fun _ => c) ht ?_)
        split at hc
        · cases hc
          exact canonical_core ht
        · exact l1Insert_canonical (canonical_core ht) hc
      next => simp
    · split
      · simp
      · have hg := (grantLease_canonical line s.core.pts (if s.core.st.pin then some s.core.id else none) s1).2 ht
        generalize grantLease line s.core.pts (if s.core.st.pin then some s.core.id else none) s1 = g at hg ⊢
        obtain ⟨⟨w, e⟩, s2⟩ := g
        dsimp only at hg ⊢
        have hc2 : Claims.coreCanonical { s2.core with lb := Nat.max s2.core.lb w } := canonical_core hg
        split
        next c hc =>
          refine (keepsMaps_ok ..).2 (mapCore_keepsMaps (f := fun _ => c) hg ?_)
          split at hc
          · exact rvtAdd_canonical hc2 hc
          · exact l1Insert_canonical hc2 hc
        next => simp

@[simp] theorem readChunks_keepsMaps : ∀ (l : List (Nat × Nat × Bool)) (s : State), Claims.canonical s → KeepsMaps Prod.snd (readChunks l s)
  | [], s, h => by simp [readChunks, h]
  | _ :: t, s, h => by simp +contextual [readChunks, h, readChunks_keepsMaps t]

@[simp] theorem globalReadWith_keepsMaps {acc : Acc} {chk : Bool} {ex : List MemErr} {l : List (Nat × Nat)} {s : State}
    (h : Claims.canonical s) : KeepsMaps Prod.snd (globalReadWith acc chk ex l s) := by
  have hx := xlateAll_canonical acc l s h
  unfold globalReadWith
  generalize xlateAll acc l s = x at hx ⊢
  obtain ⟨⟨es, ps⟩, u⟩ := x
  dsimp only at hx ⊢
  (repeat' split) <;> simp [hx]

@[simp] theorem globalRead_keepsMaps {l : List (Nat × Nat)} {s : State} (h : Claims.canonical s) : KeepsMaps Prod.snd (globalRead l s) :=
  globalReadWith_keepsMaps h

@[simp] theorem globalRead1_keepsMaps {va n : Nat} {s : State} (h : Claims.canonical s) : KeepsMaps Prod.snd (globalRead1 va n s) := by
  simp +contextual [globalRead1, h]

/-! ### Held pieces -/

@[simp] theorem binsOk_store (pa : Nat) (va : Word) (data : Vec) (mask : BitVec 64) (wm : Option Nat) :
    Claims.binsOk (.store pa va data mask wm) = true := rfl
@[simp] theorem binsOk_cadd (pa : Nat) (va n : Word) : Claims.binsOk (.cadd pa va n) = true := rfl
@[simp] theorem binsOk_cflg (pa : Nat) (b : BitVec 32) : Claims.binsOk (.cflg pa b) = true := rfl
@[simp] theorem binsOk_cceil (pa : Nat) (va c : Word) : Claims.binsOk (.cceil pa va c) = true := rfl
@[simp] theorem binsOk_atomic (k : AtomKind) (pa : Nat) (w4 u : Bool) (x y : Word) (r : BitVec 5) (id : Nat) :
    Claims.binsOk (.atomic k pa w4 u x y r id) = true := rfl
@[simp] theorem binsOk_copy (l : Launch) : Claims.binsOk (.copy l) = true := rfl
@[simp] theorem binsOk_barr (seg : Nat) : Claims.binsOk (.barr seg) = true := rfl
@[simp] theorem binsOk_spawn (rcb desc : Word) : Claims.binsOk (.spawn rcb desc) = true := rfl
@[simp] theorem binsOk_route (tab src : Word) (key : BitVec 32) (e : Nat) (done : Word) (n : Nat) :
    Claims.binsOk (.route tab src key e done n) = true := rfl
@[simp] theorem binsOk_wgl (va : Word) : Claims.binsOk (.wgl va) = true := rfl
@[simp] theorem binsOk_wglk (tag : Nat) : Claims.binsOk (.wglk tag) = true := rfl
@[simp] theorem binsOk_hist (pa : Nat) (m : SMap Nat) : Claims.binsOk (.hist pa m) = true ↔ BinsOk m := by
  simp [Claims.binsOk, BinsOk]
@[simp] theorem binsOk_tm (pa : Nat) (ref : Word) (ctr : Option (Nat × Word)) (n : Nat) (k : TmKind) (m : SMap Nat) :
    Claims.binsOk (.tm pa ref ctr n k m) = true ↔ BinsOk m := by
  simp [Claims.binsOk, BinsOk]

@[simp] theorem storePiece_binsOk (pa va : Nat) (bs : List Byte) (wm : Option Nat) : Claims.binsOk (storePiece pa va bs wm) = true := rfl

@[simp] theorem holdAll_keepsMaps {ps : List Held} {s : State} (h : Claims.canonical s) (hp : HeldBins ps) :
    KeepsMaps id (holdAll ps s) :=
  keepsMaps_bind.2 fun _ _ => (keepsMaps_ok ..).2 (mapCtx_canonical.2 (mapCore_keepsMaps h (by simp [h, hp])))

/-! ### Shared operations -/

@[simp] theorem due_canonical (n : Nat) (i : Instr) (s : State) : Claims.canonical (due n i s) ↔ Claims.canonical s := by
  simp [due]

@[simp] theorem signal_canonical (v : Nat) (s : State) : Claims.canonical (signal v s) ↔ Claims.canonical s := by
  simp [signal]

@[simp] theorem record_canonical (d c : Nat) (i : Word) (s : State) : Claims.canonical (record d c i s) ↔ Claims.canonical s := by
  simp [record]

@[simp] theorem freshId_canonical {s : State} (h : Claims.canonical s) : Claims.canonical (freshId s).2 := by
  simp [freshId, h]

@[simp] theorem addPend_canonical (d : Option Nat) (r : Nat) (n : Option (Nat × Nat)) (a : PendAct) (f : Flags) (k : Nat)
    (s : State) : Claims.canonical (addPend d r n a f k s) ↔ Claims.canonical s := by
  simp [addPend]

@[simp] theorem addPendAt_canonical (q : Nat) (d : Option Nat) (r : Nat) (a : PendAct) (f : Flags) (k : Nat)
    (s : State) : Claims.canonical (addPendAt q d r a f k s) ↔ Claims.canonical s := by
  simp [addPendAt]

@[simp] theorem writeS_canonical (r : BitVec 6) (c : Nat) (v : Word) (f : Flags) (s : State) :
    Claims.canonical (writeS r c v f s) ↔ Claims.canonical s := by
  simp [writeS]

@[simp] theorem writeSpad_canonical (c : Nat) (b : List (Nat × Byte)) (g : List (Nat × Bool)) (f : Flags) (s : State) :
    Claims.canonical (writeSpad c b g f s) ↔ Claims.canonical s := by
  simp [writeSpad]

@[simp] theorem produceS_canonical (rd : BitVec 6) (val : Option Word) (first : Nat) (isDiv held : Bool) (s : State) (h : Claims.canonical s) :
    Claims.canonical (produceS rd val first isDiv held s).2 := by
  simp [produceS, h]

@[simp] theorem freeDelay_canonical (s : State) : Claims.canonical (freeDelay s).2 ↔ Claims.canonical s := by
  simp [freeDelay]

@[simp] theorem produceVal_canonical (rd : BitVec 6) (v : Word) (first : Nat) (isDiv : Bool) (s : State) (h : Claims.canonical s) :
    Claims.canonical (produceVal rd v first isDiv s) := by
  simp [produceVal, h]

@[simp] theorem endWait_spill (t : Strand) : (endWait t).spill = t.spill := rfl

@[simp] theorem orFlags_canonical (f : Flags) (s : State) : Claims.canonical (orFlags f s) ↔ Claims.canonical s := by
  simp [orFlags]

/-- A write to the scratchpad and its bits. -/
@[simp] theorem writeScratch_canonical (bs : List (Nat × Byte)) (fb : List (Nat × Bool)) {c : Core} (h : Claims.coreCanonical c) :
    Claims.coreCanonical (writeScratch bs fb c) := by
  simp [writeScratch, h]

@[simp] theorem landOne_canonical (p : Pend) {s : State} (h : Claims.canonical s) : Claims.canonical (landOne p s) := by
  unfold landOne
  extract_lets u v
  have hv : Claims.canonical v := by simp [v, u, h]
  clear_value v
  cases p.act with
  | spad port bs fb => exact mapCore_keepsMaps hv (writeScratch_canonical _ _ (canonical_core hv))
  | _ => simp [hv]

@[simp] theorem stageTwo_canonical (p : Pend) (b l : Nat) (s : State) : Claims.canonical (stageTwo p b l s) ↔ Claims.canonical s := by
  simp [stageTwo]

@[simp] theorem landLoop_canonical (force : Bool) :
    ∀ (n : Nat) {s : State}, Claims.canonical s → Claims.canonical (landLoop force n s)
  | 0, _, h => h
  | n + 1, s, h => by
    unfold landLoop
    (repeat' split)
    · exact h
    · exact landLoop_canonical force n (by simp [h])
    · exact landLoop_canonical force n (landOne_canonical _ h)

@[simp] theorem landOn_canonical : ∀ (n : Nat) {s : State}, Claims.canonical s → Claims.canonical (landOn n s)
  | 0, _, h => h
  | n + 1, _, h => landOn_canonical n ((mapSt_canonical (by simp)).2 (landLoop_canonical _ _ h))

@[simp] theorem landDue_canonical (force : Bool) (s : State) (h : Claims.canonical s) :
    Claims.canonical (landDue force s) := by
  simp [landDue, landTiles, h]

@[simp] theorem releaseCore_canonical (c : CoreId) (s : State) : Claims.canonical (releaseCore c s) ↔ Claims.canonical s := by
  simp [releaseCore]

@[simp] theorem releaseToken_canonical (s : State) : Claims.canonical (releaseToken s) ↔ Claims.canonical s := by
  simp [releaseToken]

@[simp] theorem requestToken_canonical (s : State) : Claims.canonical (requestToken s) ↔ Claims.canonical s := by
  simp [requestToken]

/-- A rollback lands the scratchpad writes that are pending, and the rows of tile images (01 R24). -/
@[simp] theorem flushSpad_canonical {s : State} (h : Claims.canonical s) : Claims.canonical (flushSpad s) := by
  unfold flushSpad
  extract_lets t u v
  have ht : Claims.canonical t := landOn_canonical _ ((mapCore_canonical (by simp)).2 h)
  have hu : Claims.canonical u := mapCore_keepsMaps h (by simp [h, ht])
  have hv : Claims.canonical v := mapCore_keepsMaps hu (writeScratch_canonical _ _ (canonical_core hu))
  exact (mapSt_canonical (by simp)).2 hv

/-- A rollback empties the store-hold buffer, and drops the core's bank loads (01 R24). -/
theorem rollback_canonical {f : State → State} {s : State} (hf : ∀ s, Claims.canonical s → Claims.canonical (f s)) (pc : BPc)
    (h : Claims.canonical s) : Claims.canonical (rollback f pc s) := by
  unfold rollback
  extract_lets u v w x
  have hu : Claims.canonical u := flushSpad_canonical (hf s h)
  have hv : Claims.canonical v := (releaseCore_canonical _ u).2 hu
  have hw : Claims.canonical w := by simp [w, hv]
  have hx : Claims.canonical x := mapCore_keepsMaps hw (by simp [clearEngines, hw])
  exact (mapSt_canonical (by simp)).2 hx

@[simp] theorem setTrapRegs_canonical (pc : BPc) (c : Cause) (s : State) : Claims.canonical (setTrapRegs pc c s) ↔ Claims.canonical s := by
  simp [setTrapRegs]

@[simp] theorem escalate_canonical (c : Cause) (s : State) : Claims.canonical (escalate c s) ↔ Claims.canonical s := by
  simp [escalate]

theorem trapNaming_canonical {f : State → State} {s : State} (hf : ∀ s, Claims.canonical s → Claims.canonical (f s)) (n : Nat) (c : Cause)
    (h : Claims.canonical s) : Claims.canonical (trapNaming n f c s) := by
  simp [trapNaming, rollback_canonical hf _ h]

@[simp] theorem returnFromHandler_canonical (s : State) : Claims.canonical (returnFromHandler s) ↔ Claims.canonical s :=
  mapSt_canonical fun _ => rfl

/-! ### Flags -/

@[simp] theorem draws_canonical (rnd n : Nat) (s : State) : Claims.canonical (draws rnd n s).2 ↔ Claims.canonical s := by
  unfold draws
  split <;> simp

/-! ### Engines -/

@[simp] theorem flagsAt_canonical (q r : Nat) (f : Flags) (s : State) : Claims.canonical (flagsAt q r f s) ↔ Claims.canonical s := by
  simp [flagsAt]

@[simp] theorem setBank_scratch (k : Nat) (b : Bank) (c : Core) : (setBank k b c).scratch = c.scratch := rfl
@[simp] theorem setBank_full (k : Nat) (b : Bank) (c : Core) : (setBank k b c).full = c.full := rfl
@[simp] theorem setBank_delta (k : Nat) (b : Bank) (c : Core) : (setBank k b c).delta = c.delta := rfl
@[simp] theorem setWords_scratch (k : Nat) (ws : List Nat) (c : Core) : (setWords k ws c).scratch = c.scratch := rfl
@[simp] theorem setWords_full (k : Nat) (ws : List Nat) (c : Core) : (setWords k ws c).full = c.full := rfl
@[simp] theorem setWords_delta (k : Nat) (ws : List Nat) (c : Core) : (setWords k ws c).delta = c.delta := rfl

/-- An engine operation changes banks, queues and what is pending (07 R179). -/
@[simp] theorem runEOp_canonical (o : MOp) (s : State) : Claims.canonical (runEOp o s) ↔ Claims.canonical s := by
  unfold runEOp
  cases o.op with
  | rank1 => exact (flagsAt_canonical ..).trans (mapCore_canonical fun _ => ⟨rfl, rfl, rfl, rfl, rfl⟩)
  | _ => simp

/-- A spline operation changes banks, the coefficient and gradient stores and what is pending (08 R199). -/
@[simp] theorem runSOp_canonical (o : SQOp) (s : State) : Claims.canonical (runSOp o s) ↔ Claims.canonical s := by
  unfold runSOp
  cases o.op with
  | cnt rd above clear d => cases above <;> simp
  | _ => simp

@[simp] theorem finishM_canonical (k : List MOp) : ∀ (l : List MOp) (s : State), Claims.canonical (finishM k l s) ↔ Claims.canonical s
  | [], _ => Iff.rfl
  | o :: t, s => by simp [finishM, finishM_canonical k t]

@[simp] theorem finishS_canonical : ∀ (l : List SQOp) (s : State), Claims.canonical (finishS l s) ↔ Claims.canonical s
  | [], _ => Iff.rfl
  | o :: t, s => by simp [finishS, finishS_canonical t]

@[simp] theorem finishSaves_canonical (s : State) : Claims.canonical (finishSaves s) ↔ Claims.canonical s := by
  simp [finishSaves]

@[simp] theorem engineStep_canonical (s : State) : Claims.canonical (engineStep s) ↔ Claims.canonical s := by
  unfold engineStep
  split <;> simp

@[simp] theorem splineStep_canonical (s : State) : Claims.canonical (splineStep s) ↔ Claims.canonical s := by
  unfold splineStep
  split <;> simp

@[simp] theorem enqueueM_canonical (b : Bool) (o : EOp) (s : State) : Claims.canonical (enqueueM b o s) ↔ Claims.canonical s := by
  simp [enqueueM]

@[simp] theorem enqueueS_canonical (o : SOp) (f : Flags) (s : State) : Claims.canonical (enqueueS o f s) ↔ Claims.canonical s := by
  simp [enqueueS]

@[simp] theorem noteBank_canonical (bk : Nat) (s : State) : Claims.canonical (noteBank bk s) ↔ Claims.canonical s := by
  simp [noteBank]

@[simp] theorem rollback_saves_canonical {s : State} (pc : BPc) (h : Claims.canonical s) : Claims.canonical (rollback finishSaves pc s) :=
  rollback_canonical (fun u => (finishSaves_canonical u).2) pc h

/-- A re-execution in pinned mode (12 R279). -/
@[simp] theorem rollbackPinned_canonical {s : State} (h : Claims.canonical s) : Claims.canonical (rollbackPinned s) := by
  simp [rollbackPinned, rollback_saves_canonical, h]

@[simp] theorem takeTrap_canonical {s : State} (c : Cause) (h : Claims.canonical s) : Claims.canonical (takeTrap finishSaves c s) :=
  trapNaming_canonical (fun u => (finishSaves_canonical u).2) _ c h

@[simp] theorem fetchTrap_canonical {s : State} (c : Cause) (h : Claims.canonical s) : Claims.canonical (fetchTrap finishSaves c s) :=
  trapNaming_canonical (fun u => (finishSaves_canonical u).2) _ c h

/-! ### Mem -/

@[simp] theorem wrByte_canonical (pa : Nat) (b : Byte) (s : State) : Claims.canonical (wrByte pa b s) ↔ Claims.canonical s := by
  simp [wrByte]

@[simp] theorem wrBytes_canonical : ∀ (bs : List Byte) (pa : Nat) (s : State), Claims.canonical (wrBytes pa bs s) ↔ Claims.canonical s
  | [], _, _ => Iff.rfl
  | b :: t, pa, s => by simp [wrBytes, wrBytes_canonical t]

@[simp] theorem wrN_canonical (pa n v : Nat) (s : State) : Claims.canonical (wrN pa n v s) ↔ Claims.canonical s := by
  simp [wrN]

@[simp] theorem engReads_canonical (lines : List Nat) (t : Nat) {s : State} (h : Claims.canonical s) :
    Claims.canonical (engReads lines t s).2 :=
  canonical_foldl h fun s _ hs => touchLine_canonical _ _ ((setDir_canonical _ _ s).2 hs)

@[simp] theorem engRead_canonical (line t : Nat) (s : State) (h : Claims.canonical s) :
    Claims.canonical (engRead line t s).2 := by
  simp [engRead, h]

/-! ### Operands -/

@[simp] theorem clearAtEnd_canonical (gs : List Nat) (s : State) : Claims.canonical (clearAtEnd gs s) ↔ Claims.canonical s := by
  simp [clearAtEnd]

@[simp] theorem spadRead_keepsMaps (offs : List Int) (fe : Nat) (info : Word) (s : State) (h : Claims.canonical s) :
    KeepsMaps Prod.snd (spadRead offs fe info s) := by
  simp +contextual [spadRead, h]

@[simp] theorem setPort_canonical (k : Nat) (d : BitVec 256) (s : State) : Claims.canonical (setPort k d s) ↔ Claims.canonical s := by
  simp [setPort]

@[simp] theorem popPort_keepsMaps (k : Nat) (s : State) (h : Claims.canonical s) : KeepsMaps Prod.snd (popPort k s) := by
  simp +contextual [popPort, h]

@[simp] theorem pushPort_keepsMaps (k : Nat) (data : Vec) (cls : Nat) (fl : Flags) (s : State) (h : Claims.canonical s) :
    KeepsMaps id (pushPort k data cls fl s) := by
  simp [pushPort, h]

@[simp] theorem popQueue_keepsMaps (n : Nat) (s : State) (h : Claims.canonical s) : KeepsMaps Prod.snd (popQueue n s) := by
  unfold popQueue
  dsimp only
  (repeat' split) <;> simp [h]

@[simp] theorem popSel_keepsMaps (sel : BitVec 6) (s : State) (h : Claims.canonical s) : KeepsMaps Prod.snd (popSel sel s) := by
  unfold popSel
  split <;> simp +contextual [h]

@[simp] theorem srcVec_keepsMaps (sel : BitVec 6) (ty : Nat) (s : State) (h : Claims.canonical s) :
    KeepsMaps Prod.snd (srcVec sel ty s) := by
  simp [srcVec, h]

@[simp] theorem putVec_keepsMaps (vd : BitVec 8) (v : Vec) (cls : Nat) (fl : Flags) (s : State) (h : Claims.canonical s) :
    KeepsMaps id (putVec vd v cls fl s) := by
  simp [putVec, h]

@[simp] theorem writeHField_canonical (h : BitVec 4) (lo w v : Nat) (s : State) : Claims.canonical (writeHField h lo w v s) ↔ Claims.canonical s := by
  simp [writeHField]

/-! ### Vector -/

@[simp] theorem putLanes_keepsMaps (f : VF) (w cls : Nat) (r : List Nat × Flags) (s : State) (h : Claims.canonical s) :
    KeepsMaps id (putLanes f w cls r s) := by
  simp [putLanes, h]

@[simp] theorem putRounded_keepsMaps (f : VF) (cls : Nat) (xs : List XV) (fl : Flags) (s : State) (h : Claims.canonical s) :
    KeepsMaps id (putRounded f cls xs fl s) := by
  simp [putRounded, h]

@[simp] theorem arith2_keepsMaps (cls : Nat) (fop : XV → XV → XV × Flags) (iop : Int → Int → Int) (f : VF) (s : State)
    (h : Claims.canonical s) : KeepsMaps id (arith2 cls fop iop f s) := by
  simp +contextual [arith2, h]

@[simp] theorem arith1_keepsMaps (fop : XV → XV) (iop : Int → Int) (f : VF) (s : State) (h : Claims.canonical s) :
    KeepsMaps id (arith1 fop iop f s) := by
  simp +contextual [arith1, h]

@[simp] theorem arith3_keepsMaps (minus : Bool) (f : VF) (s : State) (h : Claims.canonical s) : KeepsMaps id (arith3 minus f s) := by
  simp +contextual [arith3, h]

@[simp] theorem trans_keepsMaps (op : XV → BitVec 32 → Nat × Flags) (f : VF) (s : State) (h : Claims.canonical s) :
    KeepsMaps id (trans op f s) := by
  simp +contextual [trans, h]

@[simp] theorem bitOp_keepsMaps (op : Vec → Vec → Vec) (f : VF) (s : State) (h : Claims.canonical s) :
    KeepsMaps id (bitOp op f s) := by
  simp +contextual [bitOp, h]

@[simp] theorem shiftOp_keepsMaps (op : Nat → Nat → Nat → Nat) (f : VF) (s : State) (h : Claims.canonical s) :
    KeepsMaps id (shiftOp op f s) := by
  simp +contextual [shiftOp, h]

@[simp] theorem cmpOp_keepsMaps (fop : XV → XV → Bool) (iop : Int → Int → Bool) (f : VF) (s : State) (h : Claims.canonical s) :
    KeepsMaps id (cmpOp fop iop f s) := by
  simp +contextual [cmpOp, h]

@[simp] theorem vselOp_keepsMaps (f : VF) (s : State) (h : Claims.canonical s) : KeepsMaps id (vselOp f s) := by
  simp +contextual [vselOp, h]

@[simp] theorem vcvtOp_keepsMaps (f : VF) (s : State) (h : Claims.canonical s) : KeepsMaps id (vcvtOp f s) := by
  unfold vcvtOp
  dsimp only
  (repeat' split) <;> simp +contextual [h]

@[simp] theorem vsrndOp_keepsMaps (f : VF) (s : State) (h : Claims.canonical s) : KeepsMaps id (vsrndOp f s) := by
  simp +contextual [vsrndOp, h]

@[simp] theorem vscalOp_keepsMaps (f : VF) (s : State) (h : Claims.canonical s) : KeepsMaps id (vscalOp f s) := by
  simp +contextual [vscalOp, h]

@[simp] theorem redOp_keepsMaps (node : XV → XV → XV × Flags) (iop : Int → Int → Int) (f : VF) (s : State) (h : Claims.canonical s) :
    KeepsMaps id (redOp node iop f s) := by
  simp +contextual [redOp, h]

@[simp] theorem vbcastOp_keepsMaps (f : VF) (s : State) (h : Claims.canonical s) : KeepsMaps id (vbcastOp f s) := by
  simp +contextual [vbcastOp, h]

@[simp] theorem vextrOp_keepsMaps (f : VF) (s : State) (h : Claims.canonical s) : KeepsMaps id (vextrOp f s) := by
  simp +contextual [vextrOp, h]

@[simp] theorem vpermOp_keepsMaps (f : VF) (s : State) (h : Claims.canonical s) : KeepsMaps id (vpermOp f s) := by
  simp +contextual [vpermOp, h]

@[simp] theorem rowOp_keepsMaps (bk : Nat) (op : EOp) (s : State) (h : Claims.canonical s) : KeepsMaps id (rowOp bk op s) := by
  simp [rowOp, h]

@[simp] theorem vmovOp_keepsMaps (f : VF) (s : State) (h : Claims.canonical s) : KeepsMaps id (vmovOp f s) := by
  simp +contextual [vmovOp, h]

@[simp] theorem vzeroOp_keepsMaps (f : VF) (s : State) (h : Claims.canonical s) : KeepsMaps id (vzeroOp f s) := by
  simp [vzeroOp, h]

@[simp] theorem vaccOp_keepsMaps (wide : Bool) (f : VF) (s : State) (h : Claims.canonical s) : KeepsMaps id (vaccOp wide f s) := by
  simp +contextual [vaccOp, h]

@[simp] theorem vbfpnOp_keepsMaps (f : VF) (s : State) (h : Claims.canonical s) : KeepsMaps id (vbfpnOp f s) := by
  simp [vbfpnOp, h]

@[simp] theorem vadamOp_keepsMaps (f : VF) (s : State) (h : Claims.canonical s) : KeepsMaps id (vadamOp f s) := by
  simp +contextual [vadamOp, h]

@[simp] theorem vsgdmOp_keepsMaps (f : VF) (s : State) (h : Claims.canonical s) : KeepsMaps id (vsgdmOp f s) := by
  simp +contextual [vsgdmOp, h]

/-! ### Tmr -/

@[simp] theorem tmrPlace_keepsMaps (ref : Nat) (s : State) (h : Claims.canonical s) : KeepsMaps Prod.snd (tmrPlace ref s) := by
  simp +contextual [tmrPlace, h]

@[simp] theorem readRec_keepsMaps (ref : Nat) (s : State) (h : Claims.canonical s) : KeepsMaps Prod.snd (readRec ref s) := by
  simp +contextual [readRec, h]

@[simp] theorem checkRec_keepsMaps (ref : Nat) (s : State) (h : Claims.canonical s) : KeepsMaps Prod.snd (checkRec ref s) := by
  simp +contextual [checkRec, h]

@[simp] theorem setHeld_keepsMaps (hs : List Held) (s : State) (h : Claims.canonical s) (hb : HeldBins hs) :
    KeepsMaps id (setHeld hs s) :=
  keepsMaps_bind.2 fun _ _ => (keepsMaps_ok ..).2 (mapCtx_canonical.2 (mapCore_keepsMaps h (by simp [h, hb])))

@[simp] theorem popAll_keepsMaps (ty : Nat) : ∀ (l : List (BitVec 6)) (s : State), Claims.canonical s → KeepsMaps Prod.snd (popAll ty l s)
  | [], s, h => by simp [popAll, h]
  | v :: t, s, h => by simp +contextual [popAll, h, popAll_keepsMaps ty t]

theorem HeldBins.reverse {hs : List Held} (h : HeldBins hs) : HeldBins hs.reverse := fun x hx => h x (List.mem_reverse.1 hx)

/-- Counts that join the record's latest piece (06 R161). -/
theorem bumpPiece_bins (pa : Nat) {bs : List Nat} (hb : ∀ b ∈ bs, b < 34) : ∀ {hs : List Held}, HeldBins hs → HeldBins (bumpPiece pa bs hs)
  | [], h => h
  | x :: t, h => by
    obtain ⟨hx, ht⟩ := heldBins_cons.1 h
    have ih := bumpPiece_bins pa hb ht
    cases x with
    | hist p c =>
      have hc := (binsOk_hist p c).1 hx
      have hn := countBins_binsOk hc hb
      simp only [bumpPiece]
      split <;> simp [hc, hn, ht, ih]
    | tm p r x n k a =>
      have ha := (binsOk_tm p r x n k a).1 hx
      have hn := countBins_binsOk ha hb
      simp only [bumpPiece]
      split <;> simp [ha, hn, ht, ih]
    | _ => exact heldBins_cons.2 ⟨hx, ih⟩

theorem addHist_bins (pa : Nat) {bs : List Nat} {hs : List Held} (hb : ∀ b ∈ bs, b < 34) (h : HeldBins hs) : HeldBins (addHist pa bs hs) := by
  unfold addHist
  split
  · exact h
  split
  · exact (bumpPiece_bins pa hb h.reverse).reverse
  · simpa [h] using countBins_binsOk (m := []) (fun _ he => nomatch he) hb

@[simp] theorem vqntOp_keepsMaps (f : VF) (s : State) (h : Claims.canonical s) : KeepsMaps id (vqntOp f s) := by
  refine keepsMaps_gather.2 (keepsMaps_bind.2 fun hd _ => keepsMaps_bind.2 fun _ _ =>
    (keepsMaps_bind_state (keepsMaps_liftMem.2 (readRec_keepsMaps _ s h))).2 fun r u hu _ => keepsMaps_bind.2 fun _ _ =>
      keepsMaps_bind.2 fun _ _ => (keepsMaps_bind_state (popAll_keepsMaps _ _ u hu)).2 fun xs v hv _ => ?_)
  have hw := (draws_canonical f.rnd.toNat (vecElems (r.current.getD ⟨0, 0, 2⟩).f) v).2 hv
  exact (keepsMaps_bind_self (setHeld_keepsMaps _ _ hw (addHist_bins _ (List.forall_mem_map.2 fun x _ => binOf_lt x _ _)
    (canonical_held hw)))).2 fun w hw _ => putVec_keepsMaps _ _ _ _ w hw

@[simp] theorem vdqOp_keepsMaps (f : VF) (s : State) (h : Claims.canonical s) : KeepsMaps id (vdqOp f s) := by
  refine keepsMaps_gather.2 (keepsMaps_bind.2 fun hd _ => keepsMaps_bind.2 fun _ _ => keepsMaps_bind.2 fun w _ =>
    (keepsMaps_bind_state (keepsMaps_liftMem.2 (readRec_keepsMaps _ s h))).2 fun r u hu _ => ?_)
  dsimp only
  split
  · simp
  · simp +contextual [hu]

/-! ### Counters -/

@[simp] theorem askOpt_canonical (tx : Option PoolTx) (s : State) : Claims.canonical (askOpt tx s) ↔ Claims.canonical s := by
  unfold askOpt
  split <;> simp

@[simp] theorem raiseHc_canonical (home t : Nat) (s : State) : Claims.canonical (raiseHc home t s) ↔ Claims.canonical s := by
  simp [raiseHc]

@[simp] theorem readStamp_canonical (line t : Nat) (s : State) (h : Claims.canonical s) :
    Claims.canonical (readStamp line t s) := by
  simp [readStamp, h]

@[simp] theorem stampLine_canonical (line t : Nat) (full : Bool) (s : State) (h : Claims.canonical s) :
    Claims.canonical (stampLine line t full s) := by
  simp [stampLine, h]

@[simp] theorem modDir_canonical (line : Nat) (full : Bool) (s : State) (h : Claims.canonical s) :
    Claims.canonical (modDir line full s) := by
  simp [modDir, h]

@[simp] theorem again_canonical (i : Instr) (s : State) : Claims.canonical (again i s) ↔ Claims.canonical s := by
  simp [again]

@[simp] theorem whenReady_canonical {line : Nat} {full : Bool} {i : Instr} {bad ok : State → State} {s : State} (h : Claims.canonical s)
    (hb : ∀ s, Claims.canonical s → Claims.canonical (bad s)) (ho : ∀ s, Claims.canonical s → Claims.canonical (ok s)) :
    Claims.canonical (whenReady line full i bad ok s) := by
  unfold whenReady
  split <;> simp [h, hb, ho]

@[simp] theorem reportA_canonical (tser code : Nat) (info : Word) (s : State) : Claims.canonical (reportA tser code info s) ↔ Claims.canonical s := by
  simp [reportA]

@[simp] theorem reportSrc_canonical (src : Source) (code : Nat) (info hostInfo : Word) (s : State) :
    Claims.canonical (reportSrc src code info hostInfo s) ↔ Claims.canonical s := by
  unfold reportSrc
  split <;> simp

@[simp] theorem holdCtr_canonical (pa : Nat) (s : State) : Claims.canonical (holdCtr pa s) ↔ Claims.canonical s := by
  simp [holdCtr]

@[simp] theorem nameCtr_canonical (pa : Nat) (s : State) : Claims.canonical (nameCtr pa s) ↔ Claims.canonical s := by
  simp [nameCtr]

@[simp] theorem clearWatch_canonical (i : Nat) (s : State) : Claims.canonical (clearWatch i s) ↔ Claims.canonical s := by
  simp [clearWatch]

@[simp] theorem tableTime_canonical (tab t : Nat) (s : State) : Claims.canonical (tableTime tab t s) ↔ Claims.canonical s := by
  simp [tableTime]

@[simp] theorem startMerge_canonical (tab t : Nat) (s : State) : Claims.canonical (startMerge tab t s) ↔ Claims.canonical s := by
  simp [startMerge]

@[simp] theorem clearR0loss_canonical (tab e t : Nat) (s : State) (h : Claims.canonical s) :
    Claims.canonical (clearR0loss tab e t s) := by
  simp [clearR0loss, h]

@[simp] theorem wakeOne_canonical (delay t : Nat) (w : Waiter) (s : State) (h : Claims.canonical s) :
    Claims.canonical (wakeOne delay t w s) := by
  unfold wakeOne
  split <;> simp [apply_ite Task.gangs, h]

@[simp] theorem wakeCheck_canonical (pa t : Nat) (s : State) (h : Claims.canonical s) : Claims.canonical (wakeCheck pa t s) := by
  unfold wakeCheck
  extract_lets met hit
  split
  · exact h
  · exact canonical_foldl (canonical_iff.2 (canonical_iff.1 h)) fun u w hu => wakeOne_canonical _ t w u hu

@[simp] theorem overflowCheck_canonical (n : Nat) (s : State) : Claims.canonical (overflowCheck n s) ↔ Claims.canonical s := by
  simp [overflowCheck]

@[simp] theorem registerWaiter_canonical (w : Waiter) (s : State) : Claims.canonical (registerWaiter w s).2 ↔ Claims.canonical s := by
  unfold registerWaiter
  dsimp only
  split <;> simp

@[simp] theorem addCounter_canonical (pa : Nat) (va : Word) (n fl : Nat) (src : Source) (t : Nat) (s : State) (h : Claims.canonical s) :
    Claims.canonical (addCounter pa va n fl src t s) := by
  unfold addCounter
  cases src <;> simp [h]

@[simp] theorem flagCounter_canonical (pa b t : Nat) (s : State) (h : Claims.canonical s) : Claims.canonical (flagCounter pa b t s) := by
  simp [flagCounter, h]

@[simp] theorem ceilCounter_canonical (pa : Nat) (va : Word) (c : Nat) (src : Source) (t : Nat) (s : State) (h : Claims.canonical s) :
    Claims.canonical (ceilCounter pa va c src t s) := by
  simp [ceilCounter, h]

@[simp] theorem execApplyAdd_canonical (ctr : Nat) (va : Word) (n : Word) (fl : BitVec 32) (src : Source) (t : Nat) (s : State)
    (h : Claims.canonical s) : Ends Claims.canonical (execApplyAdd ctr va n fl src t s) := by
  simp +contextual [execApplyAdd, h]

@[simp] theorem execApplyCflg_canonical (ctr : Nat) (b : BitVec 32) (t : Nat) (s : State) (h : Claims.canonical s) :
    Ends Claims.canonical (execApplyCflg ctr b t s) := by
  simp +contextual [execApplyCflg, h]

@[simp] theorem execApplyCeil_canonical (ctr : Nat) (va : Word) (v : Word) (src : Source) (t : Nat) (s : State) (h : Claims.canonical s) :
    Ends Claims.canonical (execApplyCeil ctr va v src t s) := by
  simp +contextual [execApplyCeil, h]

@[simp] theorem engUse_canonical (parts : List (Nat × Nat)) {s : State} (h : Claims.canonical s) : Claims.canonical (engUse parts s) :=
  touchAll_canonical _ h

@[simp] theorem modLine_canonical (line : Nat) (full : Bool) {s : State} (h : Claims.canonical s) : Claims.canonical (modLine line full s) := by
  simp [modLine, h]

/-! ### Sync -/

@[simp] theorem ctrAddr_keepsMaps (acc : Acc) (va : Word) (s : State) (h : Claims.canonical s) :
    KeepsMaps Prod.snd (ctrAddr acc va s) := by
  simp [ctrAddr, h]

@[simp] theorem heldCtr_keepsMaps (f : YA) (mk : Nat → Word → Word → Held) (s : State) (h : Claims.canonical s)
    (hm : ∀ pa va n, Claims.binsOk (mk pa va n) = true) : KeepsMaps id (heldCtr f mk s) := by
  simp +contextual [heldCtr, h, hm]

@[simp] theorem caddiOp_keepsMaps (f : YA) (s : State) (h : Claims.canonical s) : KeepsMaps id (caddiOp f s) := by
  simp +contextual [caddiOp, h]

@[simp] theorem cceilOp_keepsMaps (f : YA) (s : State) (h : Claims.canonical s) : KeepsMaps id (cceilOp f s) :=
  keepsMaps_gather.2 (keepsMaps_bind.2 fun _ _ => keepsMaps_bind.2 fun _ _ => heldCtr_keepsMaps f _ s h fun _ _ _ => rfl)

@[simp] theorem crdOp_keepsMaps (f : YA) (s : State) (h : Claims.canonical s) : KeepsMaps id (crdOp f s) := by
  simp +contextual [crdOp, h]

@[simp] theorem cwaitDone_canonical (rd : BitVec 5) (flags : Nat) (t : Nat) (s : State) : Claims.canonical (cwaitDone rd flags t s) ↔ Claims.canonical s := by
  simp [cwaitDone]

@[simp] theorem cwaitOp_keepsMaps (f : YA) (s : State) (h : Claims.canonical s) : KeepsMaps id (cwaitOp f s) := by
  simp +contextual [cwaitOp, h]

@[simp] theorem execCwaitWake_canonical (c : CoreId) (flags : BitVec 32) (t : Nat) (s : State) (h : Claims.canonical s) :
    Ends Claims.canonical (execCwaitWake c flags t s) := by
  have hc := focus_canonical c h
  unfold execCwaitWake
  extract_lets k u
  split
  · exact ends_next.2 (focus_canonical k ((mapSt_canonical endWait_spill).2 ((cwaitDone_canonical ..).2 hc)))
  · exact ends_next.2 h

@[simp] theorem atomicOp_keepsMaps (k : AtomKind) (f : YA) (s : State) (h : Claims.canonical s) : KeepsMaps id (atomicOp k f s) := by
  simp +contextual [atomicOp, h]

/-! ### Cluster -/

@[simp] theorem releaseSeg_canonical (seg : Nat) (s : State) : Claims.canonical (releaseSeg seg s) ↔ Claims.canonical s := by
  unfold releaseSeg
  split
  · rfl
  · split
    · exact canonical_foldl_iff (by simp)
    · rfl

@[simp] theorem arrive_canonical (c : CoreId) (seg t : Nat) (s : State) : Claims.canonical (arrive c seg t s) ↔ Claims.canonical s := by
  unfold arrive
  (repeat' split) <;> simp

@[simp] theorem retireCore_canonical (c : CoreId) (s : State) : Claims.canonical (retireCore c s) ↔ Claims.canonical s := by
  simp [retireCore]

@[simp] theorem execBarrierArrival_canonical (c : CoreId) (seg : Nat) (t : Nat) (s : State) (h : Claims.canonical s) :
    Ends Claims.canonical (execBarrierArrival c seg t s) := by
  simp [execBarrierArrival, h]

@[simp] theorem barrOp_keepsMaps (f : YA) (s : State) (h : Claims.canonical s) : KeepsMaps id (barrOp f s) := by
  simp [barrOp, h]

@[simp] theorem bwaitDone_canonical (t : Nat) (s : State) : Claims.canonical (bwaitDone t s) ↔ Claims.canonical s := by
  simp [bwaitDone]

@[simp] theorem bwaitOp_keepsMaps (f : YA) (s : State) (h : Claims.canonical s) : KeepsMaps id (bwaitOp f s) := by
  simp [bwaitOp, h]

@[simp] theorem barqOp_keepsMaps (f : YA) (s : State) (h : Claims.canonical s) : KeepsMaps id (barqOp f s) := by
  simp [barqOp, h]

@[simp] theorem execBwaitReturn_canonical (c : CoreId) (s : State) (h : Claims.canonical s) : Ends Claims.canonical (execBwaitReturn c s) := by
  unfold execBwaitReturn
  split
  · split
    · simp [h]
    · simp [h]
  · simp [h]

@[simp] theorem landMc_canonical (m : Mc) (s : State) (h : Claims.canonical s) : Claims.canonical (landMc m s) :=
  canonical_foldl h fun _ c hs => onCore_keepsMaps c hs fun _ hk => writeScratch_canonical _ _ hk

@[simp] theorem landMcs_canonical (s : State) (h : Claims.canonical s) : Claims.canonical (landMcs s) := by
  simp +contextual [landMcs, h]

@[simp] theorem execMulticastLanding_canonical (k : Nat) (s : State) (h : Claims.canonical s) : Ends Claims.canonical (execMulticastLanding k s) := by
  simp [execMulticastLanding, h]

/-! ### Net -/

@[simp] theorem sendG_canonical (dst : BitVec 17) (body : GBody) (s : State) : Claims.canonical (sendG dst body s) ↔ Claims.canonical s := by
  simp [sendG, freeDelay]

@[simp] theorem ackMsg_canonical (m : GMsg) (s : State) : Claims.canonical (ackMsg m s) ↔ Claims.canonical s := by
  simp [ackMsg]

@[simp] theorem answerG_canonical (m : GMsg) (b : GBody) (s : State) : Claims.canonical (answerG m b s) ↔ Claims.canonical s := by
  simp [answerG]

@[simp] theorem abortAll_canonical (tag launch : Nat) (group : List (BitVec 17)) (poison : Bool) (s : State) :
    Claims.canonical (abortAll tag launch group poison s) ↔ Claims.canonical s := by
  simp [abortAll]

@[simp] theorem abortColls_canonical (p : Coll → Bool) (s : State) : Claims.canonical (abortColls p s) ↔ Claims.canonical s := by
  simp [abortColls]

/-! ### Copy -/

@[simp] theorem cpyOp_keepsMaps (kind : CopyKind) (dpad spad : Bool) (f : CE) (s : State) (h : Claims.canonical s) :
    KeepsMaps id (cpyOp kind dpad spad f s) := by
  simp [cpyOp, h]

@[simp] theorem cpy2Op_keepsMaps (f : CE) (s : State) (h : Claims.canonical s) : KeepsMaps id (cpy2Op f s) := by
  simp [cpy2Op, h]

@[simp] theorem cpyrOp_keepsMaps (f : CE) (s : State) (h : Claims.canonical s) : KeepsMaps id (cpyrOp f s) := by
  simp [cpyrOp, h]

@[simp] theorem cpyqOp_keepsMaps (f : CE) (s : State) (h : Claims.canonical s) : KeepsMaps id (cpyqOp f s) := by
  simp [cpyqOp, h]

@[simp] theorem loadWords_canonical (vas : List Nat) {s : State} (h : Claims.canonical s) : Claims.canonical (loadWords vas s).2 :=
  xlateAll_canonical _ _ s h

/-- A bank load under way has its id from the next one to be given out. -/
@[simp] theorem addLoad_canonical {s : State} {l : BankLoad} {n : Nat} (h : Claims.canonical s) (hl : l.id = s.nextId) :
    Claims.canonical { s with free := n, nextId := s.nextId + 1, loads := s.loads ++ [l] } := by
  simp [h, idsDistinct_add_load (canonical_ids h) hl]

@[simp] theorem cpykOp_keepsMaps (f : CE) (s : State) (h : Claims.canonical s) : KeepsMaps id (cpykOp f s) := by
  refine keepsMaps_gather.2 (keepsMaps_bind.2 fun b _ => keepsMaps_bind.2 fun c _ => ?_)
  extract_lets vas
  have hx := loadWords_canonical (vas.flatMap fun va => (List.range 16).map (va + 4 * ·)) h
  generalize loadWords (vas.flatMap fun va => (List.range 16).map (va + 4 * ·)) s = x at hx ⊢
  obtain ⟨⟨errs, pas⟩, u⟩ := x
  dsimp only at hx ⊢
  split
  · simp
  · exact keepsMaps_bind.2 fun _ _ => (keepsMaps_ok ..).2 ((due_canonical ..).2 (addLoad_canonical hx rfl))

@[simp] theorem bankRow_canonical (l : BankLoad) (s : State) (h : Claims.canonical s) : Claims.canonical (bankRow l s) := by
  unfold bankRow
  extract_lets rows u ws rest v img
  have hu : Claims.canonical u := touchAll_canonical _ h
  split
  · simp [h]
  · split
    · exact onCore_canonical _ (by simp [v, hu]) (by simp)
    · simp [freeDelay, hu]

@[simp] theorem setStat_canonical (op : Nat) (f : StatEnt → StatEnt) (s : State) : Claims.canonical (setStat op f s) ↔ Claims.canonical s := by
  simp [setStat]

@[simp] theorem switchTime_canonical (i t : Nat) (s : State) : Claims.canonical (switchTime i t s) ↔ Claims.canonical s := by
  unfold switchTime
  split <;> simp

@[simp] theorem endOp_canonical (o : Cop) (s : State) (h : Claims.canonical s) :
    Claims.canonical (endOp o s) := by
  simp [endOp, h]

@[simp] theorem stopOpn_canonical (o : Cop) (w : StopWhy) (s : State) (h : Claims.canonical s) :
    Claims.canonical (stopOpn o w s) := by
  unfold stopOpn
  (repeat' split) <;> simp [h]

@[simp] theorem completeOp_canonical (o : Cop) (s : State) (h : Claims.canonical s) :
    Claims.canonical (completeOp o s) := by
  unfold completeOp
  (repeat' split) <;> simp [h]

@[simp] theorem nextPiece_canonical (o : Cop) (s : State) (h : Claims.canonical s) :
    Claims.canonical (nextPiece o s) := by
  simp [nextPiece, freeDelay, h]

@[simp] theorem startOp_canonical (o : Cop) (q : LaunchQ) (s : State) (h : Claims.canonical s) : Claims.canonical (startOp o q s) := by
  unfold startOp
  extract_lets go
  have hgo (p : Cop) (u : State) (hu : Claims.canonical u) : Claims.canonical (go p u) := by
    unfold go
    split <;> simp [hu]
  clear_value go
  (repeat' split)
  · exact hgo o s h
  · simp [h]
  · simp [h]
  · simp [h]
  · refine hgo _ _ ?_
    simp [h]

theorem takeStat_canonical {cl : ClusterId} {ctr : Word} {op : Nat} {s u : State} (hb : Claims.canonical s)
    (h : takeStat cl ctr op s = some u) : Claims.canonical u := by
  unfold takeStat at h
  dsimp only at h
  (repeat' split at h) <;> cases h <;> simpa using hb

/-- A launch keeps the id that it was given when it takes a status entry. -/
theorem takeStat_ids {cl : ClusterId} {ctr : Word} {op : Nat} {s u : State} (h : takeStat cl ctr op s = some u) :
    u.copies = s.copies ∧ u.loads = s.loads ∧ u.nextId = s.nextId := by
  unfold takeStat at h
  dsimp only at h
  (repeat' split at h) <;> cases h <;> exact ⟨rfl, rfl, rfl⟩

/-- A copy that begins has its id from the ids that were not given out before. -/
theorem addCopy_canonical {s : State} {o : Cop} (h : Claims.canonical s) (hi : IdsDistinct (s.copies ++ [o]) s.loads s.nextId) :
    Claims.canonical { s with copies := s.copies ++ [o] } := by
  simp [h, hi]

@[simp] theorem execCopyLaunchAccept_canonical (cl : ClusterId) (s : State) (h : Claims.canonical s) :
    Ends Claims.canonical (execCopyLaunchAccept cl s) := by
  unfold execCopyLaunchAccept
  split
  · simp [h]
  · split
    · simp [h]
    · rw [← Prod.eta (freshId _)]
      dsimp -zeta only
      split
      · simp [h]
      · rename_i q _ _ u hu
        extract_lets v o w
        have hm : Claims.canonical u ∧ u.copies = s.copies ∧ u.loads = s.loads ∧ u.nextId = s.nextId + 1 := by
          split at hu
          · cases hu
            exact ⟨freshId_canonical h, rfl, rfl, rfl⟩
          · exact ⟨takeStat_canonical (freshId_canonical h) hu, takeStat_ids hu⟩
        obtain ⟨hu, hc, hl, hn⟩ := hm
        have hw : Claims.canonical w ∧ w.copies = s.copies ∧ w.loads = s.loads ∧ w.nextId = s.nextId + 1 := by
          unfold w v
          split <;> exact ⟨canonical_iff.2 (canonical_iff.1 hu), hc, hl, hn⟩
        obtain ⟨hw, hc, hl, hn⟩ := hw
        refine ends_next.2 (startOp_canonical _ _ _ (addCopy_canonical hw ?_))
        rw [hc, hl, hn]
        exact idsDistinct_add_copy (canonical_ids h) rfl

theorem pieceRead_canonical {o : Cop} {p : Piece} {s u : State} {bs : List Byte} {t : Nat} (hb : Claims.canonical s)
    (h : pieceRead o p s = .ok (bs, t, u)) : Claims.canonical u := by
  unfold pieceRead at h
  (repeat' split at h) <;> cases h
  · exact hb
  · exact engReads_canonical _ _ hb

@[simp] theorem copyTime_canonical (o : Cop) (t : Nat) (s : State) : Claims.canonical (copyTime o t s).2 ↔ Claims.canonical s := by
  simp [copyTime]

@[simp] theorem pieceMark_canonical (o : Cop) (p : Piece) (pa : Nat) (s : State) : Claims.canonical (pieceMark o p pa s) ↔ Claims.canonical s := by
  unfold pieceMark
  split <;> simp

@[simp] theorem pieceDone_canonical (o : Cop) (p : Piece) (t : Nat) (s : State) (h : Claims.canonical s) :
    Claims.canonical (pieceDone o p t s) :=
  nextPiece_canonical _ _ ((setStat_canonical ..).2 (by simp [h]))

@[simp] theorem pieceGlobal_canonical (o : Cop) (p : Piece) (pa : Nat) (bs : List Byte) (s : State) (h : Claims.canonical s) :
    Claims.canonical (pieceGlobal o p pa bs s) :=
  pieceDone_canonical _ _ _ _ ((pieceMark_canonical ..).2 (canonical_foldl (by simp [h]) (by simp +contextual)))

@[simp] theorem markOut_canonical (o : Cop) (k : Nat) (bs : List Byte) (s : State) : Claims.canonical (markOut o k bs s) ↔ Claims.canonical s := by
  simp [markOut]

@[simp] theorem pieceWrite_canonical (o : Cop) (p : Piece) (k : Nat) (bs : List Byte) (s : State) (h : Claims.canonical s) :
    Claims.canonical (pieceWrite o p k bs s) := by
  unfold pieceWrite
  split
  · exact pieceDone_canonical _ _ _ _ (onCore_keepsMaps _ (landMcs_canonical s h) fun _ hk => writeScratch_canonical _ _ hk)
  · (repeat' split) <;> simp [h]

@[simp] theorem runPiece_canonical (o : Cop) (p : Piece) (k : Nat) (s : State) (h : Claims.canonical s) : Claims.canonical (runPiece o p k s) := by
  unfold runPiece
  split
  · simp [h]
  · split
    · simp [h]
    · simp [h]
    · simp [h]
    · rename_i hr
      have hu := pieceRead_canonical h hr
      simp [hu]

@[simp] theorem execCopyPiece_canonical (op k : Nat) (s : State) (h : Claims.canonical s) : Ends Claims.canonical (execCopyPiece op k s) := by
  unfold execCopyPiece
  (repeat' split) <;> simp [h]

/-! ### Tensor -/

@[simp] theorem setCtl_canonical (pa lo w v : Nat) (s : State) : Claims.canonical (setCtl pa lo w v s) ↔ Claims.canonical s := by
  simp [setCtl]

@[simp] theorem setBin_canonical (pa k v : Nat) (s : State) : Claims.canonical (setBin pa k v s) ↔ Claims.canonical s := by
  simp [setBin]

@[simp] theorem halve_canonical (pa w : Nat) : ∀ (n : Nat) (s : State), Claims.canonical (halve pa w n s) ↔ Claims.canonical s
  | 0, _ => Iff.rfl
  | n + 1, s => by simp [halve, halve_canonical pa w n]

@[simp] theorem addLate_canonical (pa n : Nat) (s : State) : Claims.canonical (addLate pa n s) ↔ Claims.canonical s := by
  simp [addLate]

@[simp] theorem modRec_canonical (pa : Nat) (s : State) (h : Claims.canonical s) :
    Claims.canonical (modRec pa s) := by
  simp [modRec, h]

@[simp] theorem applyFlush_canonical (d : Delta) (s : State) (h : Claims.canonical s) :
    Claims.canonical (applyFlush d s) := by
  simp [applyFlush, h]

@[simp] theorem flushSlot_canonical (pa : Nat) (s : State) (h : Claims.canonical s) : Claims.canonical (flushSlot pa s) := by
  unfold flushSlot
  split
  · exact h
  · exact applyFlush_canonical _ _ (mapCore_keepsMaps h (by simp [h]))

@[simp] theorem flushDeltas_canonical (s : State) (h : Claims.canonical s) : Claims.canonical (flushDeltas s) :=
  canonical_foldl h fun u d hu => flushSlot_canonical d.pa u hu

/-- Counts that join a delta slot. -/
theorem DeltaCanonical.add {d : Delta} {counts : SMap Nat} (h : DeltaCanonical d) (hc : BinsOk counts) (tser : Nat) (late : Bool) :
    DeltaCanonical { d with tser := tser, counts := countAdd d.counts counts, late := if late then countAdd d.late counts else d.late } := by
  obtain ⟨hw, hl, hb⟩ := h
  obtain ⟨hbc, hbl⟩ := List.forall_mem_append.1 hb
  refine ⟨countAdd_wf hw, ?_, List.forall_mem_append.2 ⟨countAdd_binsOk hbc hc, ?_⟩⟩
  · dsimp only
    split
    · exact countAdd_wf hl
    · exact hl
  · dsimp only
    split
    · exact countAdd_binsOk hbl hc
    · exact hbl

theorem deltaCanonical_empty (pa tser : Nat) : DeltaCanonical ⟨pa, tser, [], []⟩ := ⟨rfl, rfl, fun _ h => nomatch h⟩

@[simp] theorem addDelta_canonical (pa : Nat) (counts : SMap Nat) (tser t : Nat) (s : State) (h : Claims.canonical s) (hc : BinsOk counts) :
    Claims.canonical (addDelta pa counts tser t s) := by
  unfold addDelta
  extract_lets u old st late new v
  have hu : Claims.canonical u := by
    unfold u
    (repeat' split) <;> simp [h]
  have ho : DeltaCanonical old := by
    unfold old
    cases hf : u.core.delta.find? fun d => d.pa == pa with
    | none => exact deltaCanonical_empty pa tser
    | some d => exact canonical_delta hu d (List.mem_of_find?_eq_some hf)
  have hn : DeltaCanonical new := ho.add hc tser late
  have hv : Claims.canonical v := mapCore_keepsMaps hu (by simp [hu, hn])
  split
  · exact flushSlot_canonical pa v hv
  · exact hv

@[simp] theorem execDeltaFlush_canonical (c : CoreId) (slot : Nat) (s : State) (h : Claims.canonical s) :
    Ends Claims.canonical (execDeltaFlush c slot s) := by
  unfold execDeltaFlush
  extract_lets k t
  split
  · exact ends_next.2 (focus_canonical k (flushSlot_canonical _ t (focus_canonical c h)))
  · exact ends_next.2 h

@[simp] theorem readPolicy_canonical (pa t : Nat) (s : State) (h : Claims.canonical s) :
    Claims.canonical (readPolicy pa t s).2 := by
  unfold readPolicy
  split <;> simp [h]

@[simp] theorem policyServes_keepsMaps (pa : Nat) (s : State) (h : Claims.canonical s) : KeepsMaps id (policyServes pa s) := by
  unfold policyServes
  split <;> simp [h]

@[simp] theorem shiftBins_canonical (pa : Nat) (sh : Int) (s : State) : Claims.canonical (shiftBins pa sh s) ↔ Claims.canonical s := by
  simp [shiftBins]

@[simp] theorem publish_canonical (pa t : Nat) (d : Decision) (st : Nat) (s : State) (h : Claims.canonical s) :
    Claims.canonical (publish pa t d st s) := by
  simp [publish, h]

@[simp] theorem tmCtr_canonical (op : TmOp) (n fl t : Nat) (s : State) : Claims.canonical (tmCtr op n fl t s) ↔ Claims.canonical s := by
  unfold tmCtr
  split <;> simp

@[simp] theorem tmDone_canonical (op : TmOp) (t : Nat) (s : State) : Claims.canonical (tmDone op t s) ↔ Claims.canonical s := by
  simp [tmDone]

@[simp] theorem tmRefuse_canonical (op : TmOp) (fl t : Nat) (s : State) : Claims.canonical (tmRefuse op fl t s) ↔ Claims.canonical s := by
  simp [tmRefuse]

@[simp] theorem govLand_canonical (c : CoreId) (id : Nat) (v : Word) (s : State) (h : Claims.canonical s) :
    Claims.canonical (govLand c id v s) := by
  simp [govLand, h]

@[simp] theorem beginClose_canonical (op : TmOp) (t : Nat) (s : State) (h : Claims.canonical s) :
    Claims.canonical (beginClose op t s) := by
  simp [beginClose, freeDelay, h]

@[simp] theorem tmField_canonical (op : TmOp) (fld : Nat) (v : Word) (t : Nat) (s : State) (h : Claims.canonical s) :
    Claims.canonical (tmField op fld v t s) := by
  unfold tmField
  split
  · simp [h]
  · simp [h]
  · simp [h]
  · extract_lets u w n x
    have hx : Claims.canonical x := by simp [x, w, u, h]
    exact stampLine_canonical _ _ _ _ (stampLine_canonical _ _ _ _ ((setCtl_canonical ..).2 hx))

/-- A read at the home moves a line of the L1 to the read-victim table (12 R273). -/
@[simp] theorem homeRead_keepsMaps (line : Nat) (s : State) (h : Claims.canonical s) : KeepsMaps id (homeRead line s) := by
  unfold homeRead
  extract_lets old u
  have hu : Claims.canonical u := by simp [u, h]
  clear_value u
  refine keepsMaps_bind.2 fun c hc => keepsMaps_bind.2 fun p hp => (keepsMaps_ok ..).2 (regionLine_keepsMaps line false _ ?_ p hp)
  have hk : Claims.coreCanonical c := by
    clear_value old
    cases old with
    | none =>
      cases hc
      exact canonical_core hu
    | some l =>
      dsimp only at hc
      split at hc
      · split at hc
        · rename_i hv
          cases hc
          rw [rvtAdd_core hv]
          simp [hu]
        · cases hc
      · cases hc
        exact canonical_core hu
  simp [hk, hu]

@[simp] theorem govWakes_canonical (c : CoreId) (id : Nat) (pc : BPc) (pa : Nat) (s : State) (h : Claims.canonical s) :
    Claims.canonical (govWakes c id pc pa s) := by
  unfold govWakes
  extract_lets k t
  have ht : Claims.canonical t := focus_canonical c h
  clear_value t
  split
  · exact h
  · split
    · exact focus_canonical k (takeTrap_canonical _ (by simp [ht]))
    · split
      · rename_i u hr
        have hu : Claims.canonical u :=
          (keepsMaps_bind_self (homeRead_keepsMaps _ t ht)).2 (fun v hv _ => policyServes_keepsMaps pa v hv) u hr
        simp [hu]
      · exact focus_canonical k (rollbackPinned_canonical ht)
      · exact focus_canonical k (by simp [ht])

@[simp] theorem applyTm_canonical (t : Nat) (op : TmOp) (s : State) (h : Claims.canonical s) : Claims.canonical (applyTm t op s) := by
  unfold applyTm
  (repeat' split) <;> simp [h]

@[simp] theorem execFlushRequest_canonical (c : CoreId) (rec : Nat) (s : State) (h : Claims.canonical s) :
    Ends Claims.canonical (execFlushRequest c rec s) := by
  have hf := focus_canonical s.core.id (flushSlot_canonical rec _ (focus_canonical c h))
  simp [execFlushRequest, h, hf]

@[simp] theorem drainTm_canonical (pa t : Nat) (s : State) (h : Claims.canonical s) : Claims.canonical (drainTm pa t s) := by
  unfold drainTm
  extract_lets step
  have hs (a : Nat × State) (o : TmOp) (ha : Claims.canonical a.2) : Claims.canonical (step a o).2 := by
    unfold step
    split <;> simp [ha]
  clear_value step
  suffices hf : ∀ (l : List TmOp) (a : Nat × State), Claims.canonical a.2 → Claims.canonical (l.foldl step a).2 from hf _ _ (by simp [h])
  intro l
  induction l with
  | nil => exact fun _ ha => ha
  | cons o l ih => exact fun a ha => ih _ (hs a o ha)

@[simp] theorem publishClose_canonical (x : Close) (s : State) (h : Claims.canonical s) : Claims.canonical (publishClose x s) := by
  unfold publishClose
  extract_lets pa
  have hu := readPolicy_canonical pa (Nat.max (afterLine s (pa / 64) x.op.t) (afterLine s (pa / 64 + 1) x.op.t)) s h
  generalize readPolicy pa (Nat.max (afterLine s (pa / 64) x.op.t) (afterLine s (pa / 64 + 1) x.op.t)) s = r at hu ⊢
  obtain ⟨t, u⟩ := r
  dsimp -zeta only
  extract_lets d v w y
  have hw : Claims.canonical w := publish_canonical _ _ _ _ _ (canonical_iff.2 (canonical_iff.1 hu))
  have hy : Claims.canonical y := by
    unfold y
    split <;> simp [hw]
  exact drainTm_canonical _ _ _ ((tmCtr_canonical ..).2 hy)

@[simp] theorem execClosePublication_canonical (rec : Nat) (s : State) (h : Claims.canonical s) :
    Ends Claims.canonical (execClosePublication rec s) := by
  unfold execClosePublication
  split
  · simp [h]
  · refine ends_next.2 ?_
    split
    · simp [h]
    · exact whenReady_canonical h (by simp) fun u hu => whenReady_canonical hu (by simp) (by simp +contextual)

@[simp] theorem tmChecks_keepsMaps (f : YA) (s : State) (h : Claims.canonical s) : KeepsMaps Prod.snd (tmChecks f s) := by
  simp +contextual [tmChecks, h]

@[simp] theorem binsOk_nil : BinsOk [] := fun _ h => nomatch h

@[simp] theorem tmHeld_keepsMaps (k : TmKind) (f : YA) (s : State) (h : Claims.canonical s) : KeepsMaps id (tmHeld k f s) := by
  simp +contextual [tmHeld, h]

@[simp] theorem tmsetOp_keepsMaps (f : YA) (s : State) (h : Claims.canonical s) : KeepsMaps id (tmsetOp f s) := by
  simp [tmsetOp, h]

@[simp] theorem tmgovOp_keepsMaps (f : YA) (s : State) (h : Claims.canonical s) : KeepsMaps id (tmgovOp f s) := by
  simp +contextual [tmgovOp, h]

/-! ### Commit -/

@[simp] theorem failRegion_canonical (lines : List Nat) (s : State) (h : Claims.canonical s) : Claims.canonical (failRegion lines s) := by
  unfold failRegion
  extract_lets t n u v w
  have hv : Claims.canonical v := by simp [v, u, h]
  have hw : Claims.canonical w := (mapSt_canonical (by simp)).2 hv
  clear_value w
  split <;> simp [hw]

@[simp] theorem captureCkpt_canonical (s : State) (h : Claims.canonical s) : Claims.canonical (captureCkpt s) := by
  unfold captureCkpt
  exact (mapCore_canonical (by simp [clearEngines])).2 ((mapSt_canonical (by simp)).2 h)

@[simp] theorem closeRegion_canonical (s : State) (h : Claims.canonical s) : Claims.canonical (closeRegion s) := by
  unfold closeRegion
  extract_lets u v
  have hu : Claims.canonical u := by simp [u, h]
  have hv : Claims.canonical v := mapCore_keepsMaps hu (by simp [hu])
  exact captureCkpt_canonical _ ((mapSt_canonical (by simp)).2 hv)

@[simp] theorem atomicLands_canonical (id : Nat) (r : BitVec 5) (v : Word) (f : Flags) (s : State) :
    Claims.canonical (atomicLands id r v f s) ↔ Claims.canonical s := by
  simp [atomicLands]

@[simp] theorem applyPiece_canonical (t : Nat) (s : State) (p : Held) (h : Claims.canonical s) (hp : Claims.binsOk p = true) :
    Claims.canonical (applyPiece t s p) := by
  unfold applyPiece
  split
  · extract_lets tser full u v
    have hv : Claims.canonical v := stampLine_canonical _ _ _ _ (canonical_iff.2 (canonical_iff.1 h))
    split
    · exact hv
    · exact canonical_foldl (canonical_iff.2 (canonical_iff.1 hv)) fun u l hu => stampLine_canonical _ _ _ _ hu
  · simp [h]
  · simp [h]
  · simp [h]
  · simp [h]
  · simp [h, (binsOk_tm ..).1 hp]
  · exact addDelta_canonical _ _ _ _ _ h ((binsOk_hist ..).1 hp)
  · exact h

@[simp] theorem healLines_canonical (c : Core) (home t : Nat) (s : State) (h : Claims.canonical s) :
    Claims.canonical (healLines c home t s) :=
  canonical_foldl h fun u l hu => stampLine_canonical l t true u hu

@[simp] theorem launchPiece_canonical (t : Nat) (s : State) (h : Held) (hc : Claims.canonical s) :
    Claims.canonical (launchPiece t s h) := by
  cases h <;> simp [launchPiece, hc]

@[simp] theorem refreshL1_canonical (ls : List Nat) (s : State) : Claims.canonical (refreshL1 ls s) ↔ Claims.canonical s := by
  simp [refreshL1]

@[simp] theorem finishCommit_canonical (t : Nat) (s : State) (h : Claims.canonical s) : Claims.canonical (finishCommit t s) := by
  unfold finishCommit
  extract_lets c u v w x
  have hv : Claims.canonical v := (releaseCore_canonical ..).2 (canonical_iff.2 (canonical_iff.1 h))
  have hw : Claims.canonical w := canonical_foldl hv fun a p ha => launchPiece_canonical t a p ha
  exact closeRegion_canonical _ ((mapCore_canonical (by simp)).2 ((refreshL1_canonical ..).2 hw))

@[simp] theorem commitNext_canonical (m : Commit) (s : State) (h : Claims.canonical s) : Claims.canonical (commitNext m s) := by
  unfold commitNext
  dsimp only
  split <;> simp [h]

@[simp] theorem beginCommit_canonical (s : State) (h : Claims.canonical s) : Claims.canonical (beginCommit s) := by
  simp [beginCommit, h]

@[simp] theorem reserveHome_canonical (home : Nat) (m : Commit) (s : State) (h : Claims.canonical s) :
    Claims.canonical (reserveHome home m s) := by
  unfold reserveHome
  extract_lets c ls rs evt gs r u
  have hu : Claims.canonical u := (canonical_foldl_iff (by simp)).2 h
  clear_value u
  split
  · simp [h]
  · split
    · simp [h]
    · split
      · simp [h]
      · split
        · refine (again_canonical ..).2 (canonical_foldl h fun v e hv => ?_)
          split <;> simp [hv]
        · simp [hu]

@[simp] theorem lockStep_canonical (home : Nat) (s : State) (h : Claims.canonical s) : Claims.canonical (lockStep home s) := by
  simp [lockStep, h]

@[simp] theorem atCore_canonical {c : CoreId} {f : State → State} {s : State} (h : Claims.canonical s) (hf : ∀ s, Claims.canonical s → Claims.canonical (f s)) :
    Claims.canonical (atCore c f s) := by
  exact focus_canonical _ (hf _ (focus_canonical c h))

@[simp] theorem execReserve_canonical (c : CoreId) (home : Nat) (s : State) (h : Claims.canonical s) :
    Ends Claims.canonical (execReserve c home s) := by
  refine ends_next.2 (atCore_canonical h fun u hu => ?_)
  (repeat' split) <;> simp [hu]

@[simp] theorem renewLine_canonical (line : Nat) (m : Commit) (s : State) (h : Claims.canonical s) : Claims.canonical (renewLine line m s) := by
  simp [renewLine, h]

@[simp] theorem execRenew_canonical (c : CoreId) (line : Nat) (s : State) (h : Claims.canonical s) : Ends Claims.canonical (execRenew c line s) := by
  refine ends_next.2 (atCore_canonical h fun u hu => ?_)
  (repeat' split) <;> simp [hu]

/-- A fold over things of a kind: held pieces, images or gangs. -/
theorem canonical_foldl_mem {β : Type} {p : β → Prop} {f : State → β → State} {l : List β} {s : State} (h : Claims.canonical s)
    (hl : ∀ b ∈ l, p b) (hf : ∀ s b, Claims.canonical s → p b → Claims.canonical (f s b)) : Claims.canonical (l.foldl f s) := by
  induction l generalizing s with
  | nil => exact h
  | cons b t ih =>
    obtain ⟨hb, ht⟩ := List.forall_mem_cons.1 hl
    exact ih (hf s b h hb) ht

@[simp] theorem applyHome_canonical (home : Nat) (m : Commit) (s : State) (h : Claims.canonical s) : Claims.canonical (applyHome home m s) :=
  commitNext_canonical _ _ (canonical_foldl_mem (healLines_canonical _ _ _ _ ((raiseHc_canonical ..).2 h))
    (fun p hp => canonical_held h p (List.mem_of_mem_filter hp)) fun u p hu hp => applyPiece_canonical _ u p hu hp)

@[simp] theorem execApply_canonical (c : CoreId) (home : Nat) (s : State) (h : Claims.canonical s) : Ends Claims.canonical (execApply c home s) := by
  refine ends_next.2 (atCore_canonical h fun u hu => ?_)
  (repeat' split) <;> simp [hu]

@[simp] theorem finishApplies_canonical : ∀ (n : Nat) (s : State), Claims.canonical s → Claims.canonical (finishApplies n s)
  | 0, _, h => h
  | n + 1, s, h => by
    unfold finishApplies
    (repeat' split) <;> simp [h, finishApplies_canonical n]

@[simp] theorem holdBack_canonical (s : State) : Claims.canonical (holdBack s) ↔ Claims.canonical s := by
  simp [holdBack]

@[simp] theorem execCheckpoint_canonical (s : State) (h : Claims.canonical s) : Ends Claims.canonical (execCheckpoint s) := by
  simp [execCheckpoint, h]

@[simp] theorem execOrderedBundle_canonical (s : State) (h : Claims.canonical s) : Ends Claims.canonical (execOrderedBundle s) := by
  simp [execOrderedBundle, h]

@[simp] theorem execBreakpoint_canonical (s : State) (h : Claims.canonical s) : Ends Claims.canonical (execBreakpoint s) := by
  simp [execBreakpoint, h]

@[simp] theorem grantLine_canonical (line : Nat) (s : State) (h : Claims.canonical s) : Claims.canonical (grantLine line s) := by
  unfold grantLine
  split
  · simp [h]
  · exact h
  · split
    · simp [h]
    · dsimp only
      generalize hg : grantLease _ _ _ _ = g
      have hu : Claims.canonical g.2 := by rw [← hg]; simp [h]
      split
      · simp [hu]
      · split
        · exact hu
        · split
          · rename_i hl
            rw [l1Insert_core hl]
            simp [hu]
          · exact hu

@[simp] theorem execGrant_canonical (c : CoreId) (line : Nat) (s : State) (h : Claims.canonical s) : Ends Claims.canonical (execGrant c line s) := by
  simp +contextual [execGrant, h]

@[simp] theorem execPinTokenGrant_canonical (s : State) (h : Claims.canonical s) : Ends Claims.canonical (execPinTokenGrant s) := by
  unfold execPinTokenGrant
  split <;> simp [h]

@[simp] theorem execStampRaise_canonical (home : Nat) (s : State) (h : Claims.canonical s) : Ends Claims.canonical (execStampRaise home s) := by
  simp [execStampRaise, h]

/-! ### Control -/

@[simp] theorem takeJump_canonical (t : BPc) (s : State) : Claims.canonical (takeJump t s) ↔ Claims.canonical s := by
  simp [takeJump]

@[simp] theorem branchIf_keepsMaps (zero : Bool) (f : SB) (s : State) (h : Claims.canonical s) : KeepsMaps id (branchIf zero f s) := by
  simp [branchIf, h]

@[simp] theorem callOp_canonical (f : SB) (s : State) : Claims.canonical (callOp f s) ↔ Claims.canonical s := by
  simp [callOp]

@[simp] theorem jrOp_keepsMaps (f : SX) (s : State) (h : Claims.canonical s) : KeepsMaps id (jrOp f s) := by
  simp [jrOp, h]

@[simp] theorem pushLoop_keepsMaps (count : Nat) (last : BitVec 20) (s : State) (h : Claims.canonical s) :
    KeepsMaps id (pushLoop count last s) := by
  unfold pushLoop
  split <;> simp [h]

@[simp] theorem loopOp_keepsMaps (f : SP) (s : State) (h : Claims.canonical s) : KeepsMaps id (loopOp f s) := by
  simp [loopOp, h]

@[simp] theorem lbrkOp_keepsMaps (s : State) (h : Claims.canonical s) : KeepsMaps id (lbrkOp s) := by
  unfold lbrkOp
  split <;> simp [h]

@[simp] theorem lidxOp_keepsMaps (f : SX) (s : State) (h : Claims.canonical s) : KeepsMaps id (lidxOp f s) := by
  unfold lidxOp
  split <;> simp [h]

@[simp] theorem eretOp_keepsMaps (s : State) (h : Claims.canonical s) : KeepsMaps id (eretOp s) := by
  simp [eretOp, h]

/-! ### System -/

@[simp] theorem spldOp_canonical (f : SX) (s : State) : Claims.canonical (spldOp f s) ↔ Claims.canonical s := by
  simp [spldOp]

/-- A write to spill memory (03 R95). -/
@[simp] theorem spstOp_keepsMaps (f : SX) (s : State) (h : Claims.canonical s) : KeepsMaps id (spstOp f s) :=
  keepsMaps_bind.2 fun _ _ => (keepsMaps_ok ..).2 (mapSt_keepsMaps h (wordsOk_set _ _ (canonical_spill h)))

@[simp] theorem sysrdOp_canonical (f : SX) (s : State) : Claims.canonical (sysrdOp f s) ↔ Claims.canonical s := by
  simp [sysrdOp]

@[simp] theorem syswrOp_keepsMaps (f : SX) (s : State) (h : Claims.canonical s) : KeepsMaps id (syswrOp f s) := by
  simp [syswrOp, h]

@[simp] theorem capqOp_canonical (f : SX) (s : State) : Claims.canonical (capqOp f s) ↔ Claims.canonical s := by
  simp [capqOp]

/-! ### Tasks -/

@[simp] theorem engTake_canonical (parts : List (Nat × Nat)) (t : Nat) (s : State) (h : Claims.canonical s) :
    Claims.canonical (engTake parts t s).2 := by
  simp [engTake, h]

@[simp] theorem setRegion_canonical (r : Region) (s : State) : Claims.canonical (setRegion r s) ↔ Claims.canonical s := by
  simp [setRegion]

/-- A scheduler with other tasks. -/
theorem withSched_canonical {s : State} {sc : Sched} (h : Claims.canonical s) (hs : TasksCanonical sc.tasks) :
    Claims.canonical { s with sched := sc } := by
  simp [h, hs]

/-- A task that replaces another brings its gangs' parked images. -/
theorem setTask_canonical {t : Task} {s : State} (h : Claims.canonical s) (ht : GangsCanonical t.gangs) : Claims.canonical (setTask t s) :=
  withSched_canonical h (tasksCanonical_map (canonical_tasks h) fun x hx => by split <;> assumption)

/-- A gang that replaces another brings its parked images. -/
theorem setGang_canonical {tser : Nat} {g : Gang} {s : State} (h : Claims.canonical s) (hg : ImagesCanonical g.images) :
    Claims.canonical (setGang tser g s) :=
  withSched_canonical h (tasksCanonical_map (canonical_tasks h) fun x hx => by
    split
    · exact gangsCanonical_map hx fun y hy => by split <;> assumption
    · exact hx)

theorem taskOf_canonical {s : State} {tser : Nat} {t : Task} (h : Claims.canonical s) (ht : taskOf s tser = some t) : GangsCanonical t.gangs :=
  canonical_tasks h t (List.mem_of_find?_eq_some ht)

theorem gangOf_canonical {s : State} {tser gix : Nat} {g : Gang} (h : Claims.canonical s) (hg : gangOf s tser gix = some g) :
    ImagesCanonical g.images := by
  obtain ⟨t, ht, hg⟩ := Option.bind_eq_some_iff.1 hg
  exact taskOf_canonical h ht g (List.mem_of_find?_eq_some hg)

theorem gangOf_images_canonical {s : State} (tser gix : Nat) (h : Claims.canonical s) :
    ImagesCanonical ((gangOf s tser gix).elim [] (·.images)) := by
  cases hg : gangOf s tser gix with
  | none => exact imagesCanonical_nil
  | some g => exact gangOf_canonical h hg

@[simp] theorem dropRecords_canonical (tser : Nat) (s : State) (h : Claims.canonical s) : Claims.canonical (dropRecords tser s) := by
  unfold dropRecords
  split
  next t ht =>
    split
    · exact setTask_canonical h (gangsCanonical_map (taskOf_canonical h ht) fun _ hg => hg)
    · exact h
  next => exact h

/-! ### Placement -/

@[simp] theorem takeSlots_canonical (tser gix lin : Nat) (cs : List CoreId) (s : State) (h : Claims.canonical s) :
    Claims.canonical (takeSlots tser gix lin cs s) := by
  refine canonical_foldl h fun u e hu => onCore_canonical _ hu fun k => ?_
  dsimp only
  split <;> simp

@[simp] theorem freeImage_canonical (tser gix lin : Nat) (cs : List CoreId) (s : State) (h : Claims.canonical s) :
    Claims.canonical (freeImage tser gix lin cs s) :=
  canonical_foldl h fun _ _ hu => onCore_canonical _ hu (by simp)

@[simp] theorem combPlace_canonical (n size : Nat) (s : State) : Claims.canonical (combPlace n size s).2 ↔ Claims.canonical s := by
  simp [combPlace]

@[simp] theorem putImage_canonical (i : Image) (s : State) (h : Claims.canonical s) : Claims.canonical (putImage i s).2 :=
  canonical_foldl (canonical_iff.2 (canonical_iff.1 h)) fun _ _ hu => modLine_canonical _ _ hu

/-- An image that leaves for memory keeps no map. -/
@[simp] theorem putImage_imageCanonical (i : Image) (s : State) : ImageCanonical (putImage i s).1 := ⟨rfl, rfl, rfl⟩

/-- An image that comes back from memory has its maps written anew. -/
@[simp] theorem getImage_imageCanonical {i : Image} (s : State) (h : ImageCanonical i) : ImageCanonical (getImage i s) := by
  unfold getImage
  extract_lets bs p spill scr full
  split
  · exact h
  · refine ⟨SMap.wf_setAll _ rfl, SMap.wf_setAll _ rfl, SMap.wf_foldl _ rfl fun m b hm => ?_⟩
    split
    · exact SMap.wf_set _ _ hm
    · exact hm

theorem imagesCanonical_append {is js : List Image} : ImagesCanonical (is ++ js) ↔ ImagesCanonical is ∧ ImagesCanonical js :=
  List.forall_mem_append

theorem imagesCanonical_set {is : List Image} {k : Nat} {j : Image} (h : ImagesCanonical is) (hj : ImageCanonical j) :
    ImagesCanonical (is.set k j) := fun i hi => by
  obtain hi | rfl := List.mem_or_eq_of_mem_set hi
  · exact h i hi
  · exact hj

/-! ### Gangs -/

@[simp] theorem askRound_canonical (at_ : Nat) (s : State) : Claims.canonical (askRound at_ s) ↔ Claims.canonical s := by
  unfold askRound
  split <;> simp

@[simp] theorem abortUnlaunched_canonical (s : State) : Claims.canonical (abortUnlaunched s) ↔ Claims.canonical s := by
  simp [abortUnlaunched]

@[simp] theorem setLstate_canonical (n : Nat) (s : State) : Claims.canonical (setLstate n s) ↔ Claims.canonical s := by
  simp [setLstate]

@[simp] theorem dropMcs_canonical (c : CoreId) (s : State) : Claims.canonical (dropMcs c s) ↔ Claims.canonical s := by
  simp [dropMcs]

@[simp] theorem moveImage_canonical (x : Slot) (k : Nat) (s : State) (h : Claims.canonical s) : Claims.canonical (moveImage x k s) := by
  unfold moveImage
  split
  next t g _ hg =>
    split
    next => exact h
    next i _ =>
      split
      · exact h
      · have hp := (combPlace_canonical (taskComb t) i.size s).2 h
        exact setGang_canonical (freeImage_canonical _ _ _ _ _ (putImage_canonical _ _ hp))
          (imagesCanonical_set (gangOf_canonical h hg) (putImage_imageCanonical _ s))
  next => exact h

@[simp] theorem moveImages_canonical (s : State) (x : Slot) (h : Claims.canonical s) : Claims.canonical (moveImages s x) :=
  canonical_foldl h fun u k hu => moveImage_canonical x k u hu

@[simp] theorem reclaimSlots_canonical (c : CoreId) (lent : Nat) (s : State) (h : Claims.canonical s) :
    Claims.canonical (reclaimSlots c lent s) :=
  canonical_foldl h moveImages_canonical

theorem bareCore_canonical (k : Core) : Claims.coreCanonical (bareCore k) := coreInit_canonical k.id

theorem configCore_canonical (t : Task) (park : Nat) (cores : List CoreId) (k : Core) : Claims.coreCanonical (configCore t park cores k) :=
  bareCore_canonical k

@[simp] theorem configGang_canonical (t : Task) (park : Nat) (sp : Spot) (s : State) (h : Claims.canonical s) :
    Claims.canonical (configGang t park sp s) :=
  canonical_foldl h fun u c hu =>
    (dropMcs_canonical c _).2 (onCore_keepsMaps c (reclaimSlots_canonical c _ u hu) fun k _ => configCore_canonical t park sp.cores k)

@[simp] theorem onSegs_canonical (s : State) (t : Task) (f : Seg → Seg) : Claims.canonical (onSegs s t f) ↔ Claims.canonical s := by
  simp [onSegs]

@[simp] theorem armSegs_canonical (t : Task) (cores : List CoreId) (s : State) : Claims.canonical (armSegs t cores s) ↔ Claims.canonical s := by
  simp [armSegs]

@[simp] theorem disarmSegs_canonical (t : Task) (s : State) : Claims.canonical (disarmSegs t s) ↔ Claims.canonical s := by
  simp [disarmSegs]

@[simp] theorem startQuantum_canonical (tser gix quant : Nat) (s : State) : Claims.canonical (startQuantum tser gix quant s) ↔ Claims.canonical s := by
  unfold startQuantum
  split <;> simp

theorem startPts_canonical (now : Nat) (k : Core) : Claims.coreCanonical (startPts now k) ↔ Claims.coreCanonical k := Iff.rfl

/-- A strand starts with an empty spill memory. -/
theorem startStrand_spill (t : Task) (gix lin : Nat) : (startStrand t gix lin).spill = [] := rfl

@[simp] theorem startGang_canonical (t : Task) (g : Gang) (sp : Spot) (s : State) (h : Claims.canonical s) (hg : ImagesCanonical g.images) :
    Claims.canonical (startGang t g sp s) := by
  have hc (park : Nat) : Claims.canonical (((List.range sp.cores.length).zip sp.cores).foldl (fun s e =>
      onCore e.2 (fun k => startPts s.now { k with st := startStrand t g.gix e.1 }) s) (configGang t park sp s)) :=
    canonical_foldl (configGang_canonical t park sp s h) fun u e hu =>
      onCore_keepsMaps e.2 hu fun _ hk => ⟨hk.1, hk.2.1, startStrand_spill t g.gix e.1 ▸ rfl, hk.2.2.2⟩
  unfold startGang
  extract_lets r u v w x
  have hw : Claims.canonical w := setGang_canonical (hc _) hg
  have hx : Claims.canonical x := by
    unfold x
    split <;> simp [hw]
  simpa using hx

theorem withhold_canonical (k : Core) (h : Claims.coreCanonical k) : Claims.coreCanonical (withhold k) := by
  unfold withhold
  split <;> exact h

@[simp] theorem beginEvict_canonical (tser gix : Nat) (s : State) (h : Claims.canonical s) : Claims.canonical (beginEvict tser gix s) := by
  unfold beginEvict
  split
  next => exact h
  next t ht =>
    extract_lets gs
    refine (askRound_canonical _ _).2 ?_
    have hgs : GangsCanonical gs := fun g hg => taskOf_canonical h ht g (List.mem_of_mem_filter hg)
    clear_value gs
    exact canonical_foldl_mem h hgs fun u g hu hg =>
      setGang_canonical (canonical_foldl hu fun v c hv => onCore_keepsMaps c hv withhold_canonical) hg

@[simp] theorem quit_canonical (s : State) (h : Claims.canonical s) : Claims.canonical (quit s) := by
  unfold quit
  extract_lets u v
  have hu : Claims.canonical u := finishApplies_canonical 128 s h
  clear_value u
  have hv : Claims.canonical v := by
    unfold v
    split
    · exact hu
    · exact rollback_canonical (fun _ => (finishSaves_canonical _).2) _ hu
  clear_value v
  simp [hv]

theorem parkStrand_canonical {t : Task} {g : Gang} {lin : Nat} {c : CoreId} {s u : State} {i : Image} (h : Claims.canonical s)
    (e : parkStrand t g lin c s = (u, i)) : Claims.canonical u ∧ ImageCanonical i := by
  unfold parkStrand at e
  extract_lets k0 v k size slots x y j at e
  have hv : Claims.canonical v := focus_canonical k0 (quit_canonical _ (focus_canonical c h))
  have hk : Claims.coreCanonical k := coreOf_canonical c hv
  have hj : ImageCanonical j := ⟨hk.1, hk.2.1, hk.2.2.1⟩
  clear_value v j slots
  cases slots with
  | some cs =>
    obtain ⟨rfl, rfl⟩ := Prod.mk.inj e
    exact ⟨takeSlots_canonical _ _ _ _ v hv, hj⟩
  | none =>
    obtain ⟨rfl, rfl⟩ := Prod.mk.inj e
    exact ⟨putImage_canonical _ _ ((combPlace_canonical (taskComb t) size v).2 hv), putImage_imageCanonical _ v⟩

@[simp] theorem clearCores_canonical (cores : List CoreId) (s : State) (h : Claims.canonical s) : Claims.canonical (clearCores cores s) :=
  canonical_foldl h fun _ c hu => onCore_keepsMaps c hu fun k _ => bareCore_canonical k

@[simp] theorem freeImages_canonical (tser : Nat) (g : Gang) (s : State) (h : Claims.canonical s) : Claims.canonical (freeImages tser g s) :=
  canonical_foldl (setGang_canonical h imagesCanonical_nil) fun u _ hu => freeImage_canonical _ _ _ _ u hu

theorem parkOne_canonical (t : Task) (g : Gang) (lin : Nat) (c : CoreId) (imgs : List Image) (s : State) (h : Claims.canonical s)
    (hi : ImagesCanonical imgs) : Claims.canonical (parkOne t g lin c imgs s) := by
  unfold parkOne
  extract_lets stay k0 u pts
  split
  · refine setGang_canonical (focus_canonical k0 (quit_canonical _ (focus_canonical c h))) (imagesCanonical_map hi fun i hs => ?_)
    split <;> exact hs
  · obtain ⟨hu, hs⟩ := parkStrand_canonical (t := t) (g := g) (lin := lin) (c := c) h rfl
    refine setGang_canonical hu (imagesCanonical_append.2 ⟨imagesCanonical_map hi fun j hj => ?_, ?_⟩)
    · split <;> exact hj
    · simpa [ImagesCanonical] using hs

@[simp] theorem evictGang_canonical (t : Task) (g : Gang) (s : State) (h : Claims.canonical s) : Claims.canonical (evictGang t g s) := by
  unfold evictGang
  extract_lets failed u imgs halted v mig
  have hu : Claims.canonical u := canonical_foldl h fun u e hu =>
    parkOne_canonical t g e.1 e.2 _ u hu (gangOf_images_canonical t.tser g.gix hu)
  have hv : Claims.canonical v := (onSegs_canonical u t _).2 hu
  exact setGang_canonical (clearCores_canonical g.cores v hv) (gangOf_images_canonical t.tser g.gix hu)

@[simp] theorem taskFault_canonical (tser rnum code : Nat) (info : Word) (s : State) : Claims.canonical (taskFault tser rnum code info s) ↔ Claims.canonical s := by
  simp [taskFault]

@[simp] theorem schedFault_canonical (tser rnum code : Nat) (s : State) : Claims.canonical (schedFault tser rnum code s) ↔ Claims.canonical s := by
  simp [schedFault]

theorem imageCore_canonical {i : Image} {k : Core} (hi : ImageCanonical i) (hk : Claims.coreCanonical k) :
    Claims.coreCanonical (imageCore i k) :=
  ⟨hi.1, hi.2.1, SMap.wfFrom_filter _ hi.2.2, hk.2.2.2⟩

theorem resumeImage_canonical (tser : Nat) (cores : List CoreId) (s : State) (i : Image) (h : Claims.canonical s)
    (hi : ImageCanonical i) : Claims.canonical (resumeImage tser cores s i) := by
  unfold resumeImage
  extract_lets c u j
  have hu : Claims.canonical u := touchAll_canonical _ h
  have hj : ImageCanonical j := getImage_imageCanonical u hi
  split
  · exact (taskFault_canonical _ _ _ _ _).2 (onCore_keepsMaps c hu fun k hk => ⟨hj.1, hj.2.1, hi.2.2, hk.2.2.2⟩)
  · exact onCore_keepsMaps c hu fun k hk => (startPts_canonical _ _).2 (imageCore_canonical hj hk)

theorem gangImages_canonical {s : State} {g : Gang} (tser : Nat) (h : Claims.canonical s) (hg : ImagesCanonical g.images) :
    ImagesCanonical (gangImages s tser g).images := by
  have hi : ImagesCanonical ((gangOf s tser g.gix).getD g).images := by
    cases hc : gangOf s tser g.gix with
    | none => exact hg
    | some g' => exact gangOf_canonical h hc
  refine imagesCanonical_map hi fun i hs => ?_
  split <;> exact hs

theorem resumeGang_canonical (t : Task) (g : Gang) (sp : Spot) (s : State) (h : Claims.canonical s) (hg : ImagesCanonical g.images) :
    Claims.canonical (resumeGang t g sp s) := by
  unfold resumeGang
  extract_lets r u g' now_ v w mig lost runs x y
  have hu : Claims.canonical u := configGang_canonical t _ sp s h
  have hg' : ImagesCanonical g'.images := gangImages_canonical t.tser hu hg
  have hv : Claims.canonical v := canonical_foldl_mem hu (fun i hi => hg' i (List.mem_of_mem_filter hi)) fun a i ha hi =>
    resumeImage_canonical t.tser sp.cores a i ha hi
  have hw : Claims.canonical w := (onSegs_canonical v t _).2 hv
  have hx : Claims.canonical x := setGang_canonical hw hg'
  have hy : Claims.canonical y := by
    unfold y
    split
    · split
      · exact freeImages_canonical t.tser _ x hx
      · exact hx
    · exact hx
  exact (startQuantum_canonical _ _ _ y).2 hy

@[simp] theorem firstBundle_canonical (s : State) (h : Claims.canonical s) : Claims.canonical (firstBundle s) := by
  unfold firstBundle
  split
  next g hg =>
    split
    · exact h
    · extract_lets first g' u
      have hu : Claims.canonical u := setGang_canonical (mapCore_keepsMaps h ((startPts_canonical _ _).2 (canonical_core h))) (gangOf_canonical (g := g) h hg)
      clear_value u
      split
      · exact freeImages_canonical _ _ u hu
      · exact hu
  next => exact h

@[simp] theorem strandEnds_canonical (s : State) (h : Claims.canonical s) : Claims.canonical (strandEnds s) := by
  unfold strandEnds
  extract_lets u v
  have hu : Claims.canonical u := flushDeltas_canonical _ ((mapSt_canonical (by simp)).2 h)
  have hv : Claims.canonical v := (retireCore_canonical ..).2 hu
  clear_value v
  split
  next t g ht hg =>
    extract_lets w x
    have hw : Claims.canonical w := setTask_canonical hv (taskOf_canonical (t := t) hv ht)
    have hx : Claims.canonical x := setGang_canonical hw (gangOf_canonical (g := g) hv hg)
    clear_value x w
    (repeat' split) <;> simp [hw, hx]
  next => exact hv

@[simp] theorem killTask_canonical (tser : Nat) (s : State) (h : Claims.canonical s) : Claims.canonical (killTask tser s) := by
  unfold killTask
  split
  next => exact h
  next t ht =>
    split
    · exact h
    · extract_lets cs k0 u v pts w x gs
      have hu : Claims.canonical u := canonical_foldl h fun u c hu => by simpa using quit_canonical _ (focus_canonical c hu)
      have hw : Claims.canonical w := canonical_foldl (focus_canonical k0 hu) fun u g hu => freeImages_canonical tser g u hu
      have hx : Claims.canonical x := canonical_iff.2 (canonical_iff.1 hw)
      have hgs : GangsCanonical gs := gangsCanonical_map (taskOf_canonical h ht) fun _ _ => imagesCanonical_nil
      exact (due_canonical _ _ _).2 ((disarmSegs_canonical _ _).2 (setTask_canonical hx hgs))

@[simp] theorem releaseGangs_canonical (t : Task) (s : State) (h : Claims.canonical s) (ht : GangsCanonical t.gangs) :
    Claims.canonical (releaseGangs t s) :=
  canonical_foldl_mem h (fun g hg => ht g (List.mem_of_mem_filter hg)) fun u g hu hg =>
    setGang_canonical (clearCores_canonical g.cores u hu) hg

/-! ### Tables -/

@[simp] theorem engTry_canonical {α : Type} {retry : State → State} {bad : MemErr → State → State} {r : Except MemErr α}
    {k : α → State → State} {s : State} (h : Claims.canonical s) (hr : ∀ s, Claims.canonical s → Claims.canonical (retry s))
    (hb : ∀ e s, Claims.canonical s → Claims.canonical (bad e s)) (hk : ∀ a s, Claims.canonical s → Claims.canonical (k a s)) :
    Claims.canonical (engTry retry bad r k s) := by
  unfold engTry
  split
  · exact hk _ s h
  · exact hr _ (by simpa using h)
  · exact hr s h
  · exact hb _ s h

@[simp] theorem putVia_canonical {xl : Nat → Except MemErr Nat} {retry : State → State} {bad : MemErr → State → State} {t : Nat}
    {parts : List (Nat × List Byte)} {k : Nat → State → State} {s : State} (h : Claims.canonical s) (hr : ∀ s, Claims.canonical s → Claims.canonical (retry s))
    (hb : ∀ e s, Claims.canonical s → Claims.canonical (bad e s)) (hk : ∀ t s, Claims.canonical s → Claims.canonical (k t s)) :
    Claims.canonical (putVia xl retry bad t parts k s) := by
  unfold putVia
  dsimp only
  split
  · exact hb _ s h
  · split
    · exact hb _ s h
    · split
      · refine hr _ (canonical_foldl h fun s e hs => ?_)
        split <;> simp [hs]
      · exact hk _ _ (by simp +contextual [h])

@[simp] theorem engPut_canonical {retry : State → State} {bad : MemErr → State → State} {acc : Acc} {t : Nat} {parts : List (Nat × List Byte)}
    {k : Nat → State → State} {s : State} (h : Claims.canonical s) (hr : ∀ s, Claims.canonical s → Claims.canonical (retry s))
    (hb : ∀ e s, Claims.canonical s → Claims.canonical (bad e s)) (hk : ∀ t s, Claims.canonical s → Claims.canonical (k t s)) :
    Claims.canonical (engPut retry bad acc t parts k s) :=
  putVia_canonical h hr hb hk

/-- Tables whose RES maps are in their canonical form. -/
theorem withTables_canonical {s : State} {ts : List Table} (h : Claims.canonical s) (ht : TablesCanonical ts) :
    Claims.canonical { s with tables := ts } := by
  simp [h, ht]

/-- A table that replaces another brings its RES map. -/
@[simp] theorem setTable_canonical {x : Table} {s : State} (h : Claims.canonical s) (hx : SMap.wf 0 x.res = true) :
    Claims.canonical (setTable x s) :=
  withTables_canonical h (tablesCanonical_map (canonical_tables h) fun y hy => by split <;> assumption)

theorem findTable_canonical {s : State} {tab : Nat} {x : Table} (h : Claims.canonical s) (hx : findTable s tab = some x) :
    SMap.wf 0 x.res = true :=
  canonical_tables h x (List.mem_of_find?_eq_some hx)

@[simp] theorem setRes_canonical (tab e r v : Nat) (s : State) (h : Claims.canonical s) : Claims.canonical (setRes tab e r v s) :=
  withTables_canonical h (tablesCanonical_map (canonical_tables h) fun y hy => by
    split
    · exact SMap.wf_set _ _ hy
    · exact hy)

@[simp] theorem armMerge_canonical (tab : Nat) (s : State) : Claims.canonical (armMerge tab s) ↔ Claims.canonical s := by
  unfold armMerge
  split
  · split
    · split
      · rfl
      · rw [← Prod.eta (registerWaiter _ _)]
        simp
    · rfl
  · rfl

/-- The RES map of a table that registers is written slot by slot. -/
theorem initRes_wf {s : State} {tab h : Nat} {m : SMap Nat} (hm : initRes s tab h = .ok m) : SMap.wf 0 m = true := by
  unfold initRes at hm
  generalize ((List.range (hdrNexp h)).flatMap fun e => (List.range (hdrMaxr h + 1)).map fun r => (e, r)) = l at hm
  suffices hw : ∀ m0 : SMap Nat, SMap.wf 0 m0 = true → l.foldlM (fun m (x : Nat × Nat) => do
      let w ← tabSlot s tab x.1 x.2
      let v ← engNat .ctrWr s (slotRctr w) 8
      .ok (SMap.set 0 m (8 * x.1 + x.2) v)) m0 = .ok m → SMap.wf 0 m = true from hw [] rfl hm
  clear hm
  induction l with
  | nil => exact fun m0 h0 e => Except.ok.inj e ▸ h0
  | cons x t ih =>
    intro m0 h0 e
    rw [List.foldlM_cons] at e
    obtain ⟨m1, h1, e⟩ := bind_eq_ok.1 e
    obtain ⟨w, _, h1⟩ := bind_eq_ok.1 h1
    obtain ⟨v, _, h1⟩ := bind_eq_ok.1 h1
    exact ih m1 (Except.ok.inj h1 ▸ SMap.wf_set _ _ h0) e

/-- A table that is added to those registered. -/
theorem addTable_canonical {s : State} {x : Table} (h : Claims.canonical s) (hx : SMap.wf 0 x.res = true) :
    Claims.canonical { s with tables := s.tables ++ [x] } :=
  withTables_canonical h (tablesCanonical_append.2 ⟨canonical_tables h, tablesCanonical_singleton.2 hx⟩)

@[simp] theorem registerTable_keepsMaps (tab : Nat) (s : State) (h : Claims.canonical s) : KeepsMaps id (registerTable tab s) := by
  unfold registerTable
  split
  · simp [h]
  · extract_lets bad
    have hbad : Claims.canonical bad := addTable_canonical h rfl
    clear_value bad
    split
    next => simp
    next => simp
    next hd res hr =>
      have hx : SMap.wf 0 res = true := by
        obtain ⟨ok, _, hr⟩ := bind_eq_ok.1 hr
        obtain ⟨hd', _, hr⟩ := bind_eq_ok.1 hr
        dsimp only at hr
        split at hr
        · obtain ⟨res', hi, hr⟩ := bind_eq_ok.1 hr
          cases hr
          exact initRes_wf hi
        · cases hr
          rfl
      split
      · simp [hbad]
      · extract_lets sper x u
        have hu : Claims.canonical u := engUse_canonical _ (addTable_canonical (x := x) h hx)
        clear_value u
        split <;> simp [hu]
    next => simp [hbad]

@[simp] theorem publishTable_canonical {evt : Instr} {tab e : Nat} {amask ent : Nat → Nat} {slots : List (Nat × (Nat → Nat → Nat))}
    {k : State → State} {s : State} (h : Claims.canonical s) (hk : ∀ s, Claims.canonical s → Claims.canonical (k s)) :
    Claims.canonical (publishTable evt tab e amask ent slots k s) := by
  unfold publishTable
  extract_lets parts wait
  clear_value parts
  exact engTry_canonical h (by simp) (by simp [wait]) fun ps u hu =>
    engPut_canonical hu (by simp) (by simp [wait]) fun t u hu => hk _ (by simpa using hu)

@[simp] theorem lossesOf_canonical (va : Nat) (s : State) : Claims.canonical (lossesOf va s) ↔ Claims.canonical s :=
  canonical_foldl_iff (by simp)

/-! ### Scheduler -/

@[simp] theorem dropRegs_canonical (s : State) : Claims.canonical (dropRegs s) ↔ Claims.canonical s := by
  simp [dropRegs]

@[simp] theorem jobFault_canonical (s : State) (h : Claims.canonical s) : Claims.canonical (jobFault s) := by
  unfold jobFault
  split
  · exact h
  · exact (dropRegs_canonical _).2 (canonical_foldl ((setLstate_canonical _ s).2 h) fun u k hu => killTask_canonical k u hu)

@[simp] theorem checkJobEnd_canonical (s : State) : Claims.canonical (checkJobEnd s) ↔ Claims.canonical s := by
  unfold checkJobEnd
  split <;> simp

@[simp] theorem readyTask_canonical (tser : Nat) (s : State) (h : Claims.canonical s) : Claims.canonical (readyTask tser s) := by
  unfold readyTask
  split
  next t ht =>
    split
    · exact (askRound_canonical _ _).2 (setTask_canonical h (taskOf_canonical (t := t) h ht))
    · exact h
  next => exact h

@[simp] theorem depMet_canonical (tser k at_ : Nat) (s : State) (h : Claims.canonical s) : Claims.canonical (depMet tser k at_ s) := by
  unfold depMet
  split
  next t ht => exact readyTask_canonical tser _ (setTask_canonical h (taskOf_canonical (t := t) h ht))
  next => exact h

@[simp] theorem registerDep_canonical (tser : Nat) (dwf : Bool) (e : Nat × Nat × Nat) (s : State) (h : Claims.canonical s) :
    Claims.canonical (registerDep tser dwf e s) := by
  unfold registerDep
  rw [← Prod.eta (registerWaiter _ _)]
  have hr : Claims.canonical (registerWaiter ⟨e.2.1, e.2.2, dwf, .dep tser e.1⟩ s).2 := (registerWaiter_canonical _ s).2 h
  split
  · exact (schedFault_canonical ..).2 h
  dsimp only
  (repeat' split) <;> simp [hr]

/-- A task that enters has no parked image (16 R354). -/
theorem mkTask_canonical {tser rnum va pa desc code t : Nat} {pred done : Option Nat} {unmet : List Nat} :
    GangsCanonical (mkTask tser rnum va pa desc code t pred done unmet).gangs :=
  List.forall_mem_map.2 fun _ _ => imagesCanonical_nil

/-- A task list that grows by one task. -/
theorem addTask_canonical {s : State} {x : Task} {n : Nat} (h : Claims.canonical s) (hx : GangsCanonical x.gangs) :
    Claims.canonical { s with sched := { s.sched with tasks := s.sched.tasks ++ [x], nextTser := n } } :=
  withSched_canonical h (tasksCanonical_append.2 ⟨canonical_tasks h, tasksCanonical_singleton.2 hx⟩)

@[simp] theorem enterTask_canonical (r : Region) (va t : Nat) (rd : Option (Nat × Nat) × Option Nat) (s : State) (h : Claims.canonical s) :
    Claims.canonical (enterTask r va t rd s) := by
  unfold enterTask
  extract_lets tser pred add
  have hadd {x : Task} (hx : GangsCanonical x.gangs) : Claims.canonical (add x s) := addTask_canonical h hx
  clear_value add
  split
  · exact (schedFault_canonical ..).2 (hadd mkTask_canonical)
  · split
    · exact (schedFault_canonical ..).2 (hadd mkTask_canonical)
    · extract_lets ok y u
      have hy : GangsCanonical y.gangs := mkTask_canonical
      have hu : Claims.canonical u := hadd hy
      clear_value u
      split
      · exact (schedFault_canonical ..).2 hu
      · exact readyTask_canonical _ _ (canonical_foldl hu fun v e hv => registerDep_canonical _ _ e v hv)

@[simp] theorem enterNext_canonical (r : Region) (va t : Nat) (rd : Option (Nat × Nat) × Option Nat) (s : State) (h : Claims.canonical s) :
    Claims.canonical (enterNext r va t rd s) := by
  unfold enterNext
  extract_lets ended tser sc u y x
  have hu : Claims.canonical u := h
  clear_value u
  split
  · exact addTask_canonical hu gangsCanonical_nil
  · exact enterTask_canonical r va t rd u hu

@[simp] theorem fetchNext_canonical (r : Region) (s : State) (h : Claims.canonical s) : Claims.canonical (fetchNext r s) := by
  unfold fetchNext
  dsimp only
  (repeat' split) <;> simp [h]

@[simp] theorem execDescriptorFetch_canonical (rnum : Nat) (s : State) (h : Claims.canonical s) :
    Ends Claims.canonical (execDescriptorFetch rnum s) := by
  unfold execDescriptorFetch
  dsimp only
  (repeat' split) <;> simp [h]

@[simp] theorem execDependencyMet_canonical (tser k : Nat) (flags : BitVec 32) (s : State) (h : Claims.canonical s) :
    Ends Claims.canonical (execDependencyMet tser k flags s) := by
  unfold execDependencyMet
  split <;> simp [h]

@[simp] theorem execLaunch_canonical (root : Word) (s : State) (h : Claims.canonical s) : Ends Claims.canonical (execLaunch root s) := by
  simp [execLaunch, h]

@[simp] theorem installTree_canonical (sc : Sched) (s : State) (h : Claims.canonical s) (hs : TasksCanonical sc.tasks) :
    Claims.canonical (installTree sc s) := by
  unfold installTree
  extract_lets u
  have hu : Claims.canonical u := withSched_canonical h hs
  clear_value u
  split
  · exact jobFault_canonical u hu
  · rw [← Prod.eta (registerWaiter _ _)]
    dsimp -zeta only
    extract_lets v w
    have hv : Claims.canonical (registerWaiter ⟨sc.jobctr, sc.jobthr, false, .job⟩ u).2 := (registerWaiter_canonical _ u).2 hu
    have hw : Claims.canonical w := by
      unfold w
      split
      · exact canonical_iff.2 (canonical_iff.1 hv)
      · exact hv
    clear_value w
    exact (checkJobEnd_canonical _).2 (canonical_foldl hw (by simp))

@[simp] theorem clearRecord_canonical (s : State) (r : Region) (h : Claims.canonical s) :
    Claims.canonical (clearRecord s r) := by
  simp [clearRecord, h]

@[simp] theorem treeReads_canonical (rs : List Region) (s : State) (h : Claims.canonical s) :
    Claims.canonical (treeReads rs s) := by
  simp [treeReads, h]

@[simp] theorem checkJob_canonical (s : State) (h : Claims.canonical s) : Claims.canonical (checkJob s) := by
  unfold checkJob
  split
  · simp [h]
  · split
    · simp [h]
    · simp [h]
    next sc hsc =>
      split
      · simp [h]
      · exact installTree_canonical _ _ (canonical_foldl (by simp [h]) (by simp +contextual)) (checkTree_tasks hsc ▸ tasksCanonical_nil)

@[simp] theorem noPlace_canonical (tser : Nat) (s : State) : Claims.canonical (noPlace tser s) ↔ Claims.canonical s := by
  unfold noPlace
  split <;> simp

@[simp] theorem placeGang_canonical (tser gix : Nat) (s : State) (h : Claims.canonical s) : Claims.canonical (placeGang tser gix s) := by
  unfold placeGang
  split
  next t g _ hg =>
    have hi := gangOf_canonical h hg
    dsimp only
    have hn : Claims.canonical (if placeable s t g then s else noPlace tser s) := by split <;> simp [h]
    split
    · split
      · exact resumeGang_canonical t g _ s h hi
      · exact hn
    · split
      · exact h
      · split
        · exact startGang_canonical t g _ s h hi
        · exact hn
    · exact h
  next => exact h

@[simp] theorem roundGangs_canonical (s : State) (h : Claims.canonical s) : Claims.canonical (roundGangs s) :=
  canonical_foldl h fun u e hu => placeGang_canonical e.1 e.2 u hu

theorem failStart_canonical (t : Task) (code : Nat) (s : State) (h : Claims.canonical s) (ht : GangsCanonical t.gangs) :
    Claims.canonical (failStart t code s) :=
  (schedFault_canonical ..).2 (setTask_canonical h ht)

theorem startGroup_canonical {t : Task} (ht : GangsCanonical t.gangs) : GangsCanonical (startGroup t) := fun g hg => by
  unfold startGroup at hg
  split at hg
  · exact ht g (List.mem_of_mem_take hg)
  · exact ht g hg

theorem startTask_canonical {t : Task} {s u : State} {b : Bool} (h : Claims.canonical s) (ht : GangsCanonical t.gangs)
    (e : startTask t s = some (b, u)) : Claims.canonical u := by
  unfold startTask at e
  dsimp only at e
  split at e
  · cases e
    exact failStart_canonical t _ s h ht
  split at e
  · cases e
    exact failStart_canonical t _ s h ht
  split at e
  · cases e
    exact failStart_canonical t _ s h ht
  split at e
  · cases e
  split at e
  · cases e
  next l hl =>
    cases e
    refine canonical_foldl_mem ?_ (fun e he => startGroup_canonical ht e.1 (spotsFor_mem hl e he)) fun v e hv he =>
      startGang_canonical _ e.1 e.2 v hv he
    rw [canonical_ite, armSegs_canonical, ite_self]
    exact setTask_canonical (canonical_iff.2 (canonical_iff.1 h)) ht

theorem presents_canonical {s : State} {r : Region} {t : Task} (h : Claims.canonical s) (e : presents s r = some t) : GangsCanonical t.gangs := by
  unfold presents at e
  split at e
  · cases e
  split at e
  · cases e
  next u hu =>
    split at e
    · cases e
    · cases e
      exact canonical_tasks h t (List.mem_of_find?_eq_some hu)

@[simp] theorem serveLeaf_canonical (p rnum : Nat) : ∀ (n : Nat) (s : State), Claims.canonical s → Claims.canonical (serveLeaf p rnum n s)
  | 0, _, h => h
  | n + 1, s, h => by
    unfold serveLeaf
    split
    next => exact h
    next r _ =>
      split
      next => exact (setRegion_canonical _ s).2 h
      next t ht =>
        have hg : GangsCanonical t.gangs := presents_canonical h (Option.eq_some_of_filter_eq_some ht)
        split
        · exact h
        · split
          next u hu =>
            have hb := startTask_canonical h hg hu
            exact serveLeaf_canonical p rnum n _ (canonical_iff.2 (canonical_iff.1 ((setRegion_canonical { r with deficit := r.deficit - needOf t } u).2 hb)))
          next u hu => exact serveLeaf_canonical p rnum n u (startTask_canonical h hg hu)
          next => exact h

@[simp] theorem roundStarts_canonical (s : State) (h : Claims.canonical s) : Claims.canonical (roundStarts s) := by
  unfold roundStarts
  split
  · exact h
  · have hs : ∀ t ∈ s.sched.tasks.filter fun t => t.handler.isSome && t.st == .ready, GangsCanonical t.gangs :=
      fun t ht => canonical_tasks h t (List.mem_of_mem_filter ht)
    refine canonical_foldl (canonical_foldl_mem h hs fun u t hu ht => ?_) fun u p hu => canonical_foldl hu fun v k hv => ?_
    · split
      next he => exact startTask_canonical hu ht he
      next => exact hu
    · split
      · exact serveLeaf_canonical p k _ _ ((setRegion_canonical _ v).2 hv)
      · exact hv

@[simp] theorem roundEvicts_canonical (s : State) (h : Claims.canonical s) : Claims.canonical (roundEvicts s) :=
  canonical_foldl h fun u e hu => by
    split
    · split <;> simp [hu]
    · exact hu

@[simp] theorem countRound_canonical (s : State) (h : Claims.canonical s) : Claims.canonical (countRound s) := by
  unfold countRound
  extract_lets g1 t1
  refine withSched_canonical h (tasksCanonical_map (canonical_tasks h) fun t ht => ?_)
  unfold t1
  split
  · refine gangsCanonical_map ht fun g hg => ?_
    unfold g1
    split <;> exact hg
  · exact ht

@[simp] theorem execSchedulerRound_canonical (s : State) (h : Claims.canonical s) : Ends Claims.canonical (execSchedulerRound s) := by
  unfold execSchedulerRound
  split
  · simp [h]
  · split
    · simp [h]
    · extract_lets u v
      have hu : Claims.canonical u :=
        (checkJobEnd_canonical _).2 (roundStarts_canonical _ (roundGangs_canonical _ (roundEvicts_canonical _ (countRound_canonical s h))))
      clear_value u
      refine ends_next.2 ?_
      change Claims.canonical v
      unfold v
      split <;> simp [hu]

@[simp] theorem execSchedulerTakeover_canonical (s : State) (h : Claims.canonical s) : Ends Claims.canonical (execSchedulerTakeover s) := by
  simp [execSchedulerTakeover, h]

@[simp] theorem quantumEnds_canonical (t : Task) (g : Gang) (s : State) (h : Claims.canonical s) (hg : ImagesCanonical g.images) :
    Claims.canonical (quantumEnds t g s) := by
  unfold quantumEnds
  split
  · exact beginEvict_canonical _ _ s h
  · exact (startQuantum_canonical ..).2 (setGang_canonical h hg)

@[simp] theorem execQuantumExpiry_canonical (tser gix : Nat) (s : State) (h : Claims.canonical s) :
    Ends Claims.canonical (execQuantumExpiry tser gix s) := by
  unfold execQuantumExpiry
  split
  next t g _ hg => simp [h, gangOf_canonical h hg]
  next => exact ends_next.2 h

@[simp] theorem strandYields_canonical (s : State) (h : Claims.canonical s) : Claims.canonical (strandYields s) := by
  unfold strandYields
  split
  next t g _ hg => simp [h, gangOf_canonical h hg]
  next => exact h

theorem noteMigrate_canonical {t : Task} (g : Gang) (k : Core) (now : Nat) (ht : GangsCanonical t.gangs) :
    GangsCanonical (noteMigrate t g k now).gangs := by
  refine gangsCanonical_map ht fun x hx => ?_
  (repeat' split) <;> exact hx

@[simp] theorem execMigrateTrapReceipt_canonical (c : CoreId) (s : State) (h : Claims.canonical s) :
    Ends Claims.canonical (execMigrateTrapReceipt c s) := by
  unfold execMigrateTrapReceipt
  extract_lets k tser gix
  split
  next t g ht _ =>
    have hm : Claims.canonical (setTask (noteMigrate t g k s.now) s) := setTask_canonical h (noteMigrate_canonical g k s.now (taskOf_canonical h ht))
    (repeat' split) <;> simp [h, hm]
  next => exact ends_next.2 h

@[simp] theorem evictOf_canonical (p : CoreId → Bool) (s : State) (h : Claims.canonical s) : Claims.canonical (evictOf p s) :=
  canonical_foldl h fun u e hu => beginEvict_canonical e.1 e.2 u hu

@[simp] theorem execDieFault_canonical (die : Nat) (s : State) (h : Claims.canonical s) : Ends Claims.canonical (execDieFault die s) := by
  simp [execDieFault, h]

@[simp] theorem execCoreWithdrawn_canonical (c : CoreId) (s : State) (h : Claims.canonical s) : Ends Claims.canonical (execCoreWithdrawn c s) := by
  simp [execCoreWithdrawn, h]

@[simp] theorem handlerDone_canonical (t : Task) (s : State) (h : Claims.canonical s) : Claims.canonical (handlerDone t s) := by
  unfold handlerDone
  split
  · exact h
  · extract_lets u v
    have hu : Claims.canonical u := by
      unfold u
      split <;> simp [h]
    have hv : Claims.canonical v := canonical_foldl hu fun a k ha => by split <;> simp [ha]
    clear_value v
    simp [hv]

theorem taskEnds_canonical (t : Task) (killed : Bool) (tt : Nat) (s : State) (h : Claims.canonical s) (ht : GangsCanonical t.gangs) :
    Claims.canonical (taskEnds t killed tt s) := by
  unfold taskEnds
  extract_lets u v w x
  have hu : Claims.canonical u := setTask_canonical h ht
  clear_value u
  have hv : Claims.canonical v := by
    unfold v
    split <;> simp [hu]
  have hx : Claims.canonical x := (due_canonical ..).2 (dropRecords_canonical _ _ ((checkJobEnd_canonical _).2 hv))
  clear_value x
  split <;> simp [hx]

theorem doneAdd_canonical (t : Task) (n fl : Nat) (killed : Bool) (s : State) (h : Claims.canonical s) (ht : GangsCanonical t.gangs) :
    Claims.canonical (doneAdd t n fl killed s) := by
  unfold doneAdd
  extract_lets evt go
  have hgo (u : State) (hu : Claims.canonical u) : Claims.canonical (go u) := by
    unfold go
    split
    · exact taskEnds_canonical t killed _ u hu ht
    · exact whenReady_canonical hu (fun v hv => taskEnds_canonical t killed _ _ (by simpa using hv) ht)
        fun v hv => taskEnds_canonical t killed _ _ (by simp [hv]) ht
  clear_value go
  split
  · exact whenReady_canonical h hgo hgo
  · exact hgo s h

@[simp] theorem execTaskComplete_canonical (tser : Nat) (s : State) (h : Claims.canonical s) : Ends Claims.canonical (execTaskComplete tser s) := by
  unfold execTaskComplete
  split
  next => exact ends_next.2 h
  next t ht =>
    have hg := taskOf_canonical h ht
    have hr : Claims.canonical (releaseGangs t s) := releaseGangs_canonical t s h hg
    (repeat' split) <;> simp [h, hr, doneAdd_canonical, hg]

@[simp] theorem spawnHandler_canonical (scope : Region) (level : Nat) (r : FaultReport) (holds : List Nat) (t : Nat)
    (rd : Option (Nat × Nat) × Option Nat) (s : State) (h : Claims.canonical s) :
    Claims.canonical (spawnHandler scope level r holds t rd s) := by
  unfold spawnHandler
  extract_lets tser par n pa n1 n2 ctrs code y x sc u
  have hy : GangsCanonical y.gangs := mkTask_canonical
  have hx : GangsCanonical x.gangs := hy
  have hu : Claims.canonical u := addTask_canonical h hx
  clear_value u x
  split
  · exact (schedFault_canonical ..).2 (setTask_canonical hu hx)
  split
  · exact (schedFault_canonical ..).2 (setTask_canonical hu hx)
  · exact (askRound_canonical ..).2 hu

@[simp] theorem killFor_canonical (tser : Nat) (s : State) (h : Claims.canonical s) : Claims.canonical (killFor tser s) := by
  unfold killFor
  split
  · exact h
  · split <;> simp [h]

theorem killScope_canonical (scope : Region) (level : Nat) (r : FaultReport) (s : State) (h : Claims.canonical s) :
    Claims.canonical (killScope scope level r s).1 := by
  unfold killScope
  split
  · exact h
  · extract_lets u own v ls
    have hu : Claims.canonical u := killFor_canonical _ s h
    have hv : Claims.canonical v := by
      unfold v
      split
      · exact hu
      · exact canonical_foldl hu fun w k hw => killFor_canonical k w hw
    clear_value v u
    exact canonical_foldl hv fun w k hw => by split <;> simp [hw]

theorem handlerOf_canonical {s : State} {rnum : Nat} {x : Task} (h : Claims.canonical s) (e : handlerOf s rnum = some x) :
    GangsCanonical x.gangs :=
  canonical_tasks h x (List.mem_of_find?_eq_some e)

@[simp] theorem landFault_canonical (leaf scope : Region) (level : Nat) (r : FaultReport) (rd : Option (Nat × Nat) × Option Nat) (s : State)
    (h : Claims.canonical s) : Claims.canonical (landFault leaf scope level r rd s) := by
  unfold landFault
  extract_lets u
  have hu : Claims.canonical u := by
    unfold u
    split <;> simp [h]
  clear_value u
  generalize hk : killScope _ _ _ _ = k
  have hv : Claims.canonical k.1 := hk ▸ killScope_canonical _ _ _ _ hu
  obtain ⟨v, holds⟩ := k
  dsimp -zeta only at hv ⊢
  extract_lets t old w x y
  have hx : Claims.canonical x := by
    have hw : Claims.canonical w := by simp [w, hv]
    clear_value w
    unfold x
    split
    next k hk => exact setTask_canonical hw (handlerOf_canonical (x := k) hw hk)
    next => exact hw
  clear_value x
  have hy : Claims.canonical y := by simp [y, hv]
  clear_value y
  (repeat' split) <;> simp [hx, hy]

@[simp] theorem execFaultReport_canonical (r : FaultReport) (s : State) (h : Claims.canonical s) : Ends Claims.canonical (execFaultReport r s) := by
  unfold execFaultReport
  dsimp only
  (repeat' split) <;> simp +contextual [h]

@[simp] theorem spawnOp_keepsMaps (f : YA) (s : State) (h : Claims.canonical s) : KeepsMaps id (spawnOp f s) := by
  simp [spawnOp, h]

@[simp] theorem put57_canonical (pa v : Nat) (s : State) : Claims.canonical (put57 pa v s) ↔ Claims.canonical s := by
  simp [put57]

@[simp] theorem appendDesc_canonical (r : Region) (dpa tpa : Nat) (desc : Nat) (tser t : Nat) (s : State) (h : Claims.canonical s) :
    Claims.canonical (appendDesc r dpa tpa desc tser t s) := by
  have hput (pa v l t : Nat) {u : State} (hu : Claims.canonical u) : Claims.canonical (stampLine l t false (put57 pa v u)) :=
    stampLine_canonical _ _ _ _ ((put57_canonical ..).2 hu)
  unfold appendDesc
  extract_lets t1 a t2 b q t3 c
  have hc : Claims.canonical c := hput _ _ _ _ (hput _ _ _ _ (hput _ _ _ _ h))
  clear_value c
  simp [hc]

@[simp] theorem execSpawnAppend_canonical (rcb desc : Word) (tser t : Nat) (s : State) (h : Claims.canonical s) :
    Ends Claims.canonical (execSpawnAppend rcb desc tser t s) := by
  unfold execSpawnAppend
  extract_lets evt done refuse
  have hr (u : State) (hu : Claims.canonical u) : Claims.canonical (refuse u) := by simp [refuse, done, hu]
  split
  · simp [h]
  · split
    · exact ends_next.2 (hr s h)
    · extract_lets tail
      split
      · exact ends_next.2 (whenReady_canonical h hr fun u hu => whenReady_canonical hu hr fun u hu => whenReady_canonical hu hr fun u hu =>
          whenReady_canonical hu (by simp +contextual [done]) (by simp +contextual [done]))
      · exact ends_next.2 (hr s h)

/-! ### Swarm -/

@[simp] theorem routeOp_keepsMaps (f : YA) (s : State) (h : Claims.canonical s) : KeepsMaps id (routeOp f s) := by
  simp [routeOp, h]

@[simp] theorem rtverTable_keepsMaps (va : Nat) (s : State) (h : Claims.canonical s) : KeepsMaps id (rtverTable va s) := by
  unfold rtverTable
  split
  · rename_i t e
    exact (keepsMaps_ok ..).2 (registerTable_keepsMaps va s h t e)
  · simp
  · simp

@[simp] theorem rtverOp_keepsMaps (f : YA) (s : State) (h : Claims.canonical s) : KeepsMaps id (rtverOp f s) := by
  simp +contextual [rtverOp, h]

@[simp] theorem rtverKeeps_canonical (f : YA) (s : State) (h : Claims.canonical s) :
    Claims.canonical (rtverKeeps f s) := by
  unfold rtverKeeps
  split
  next t ht =>
    have hk : Claims.canonical t := by
      refine (?_ : KeepsMaps id _) t ht
      simp +contextual [h]
    exact withTables_canonical h (tablesCanonical_append.2 ⟨canonical_tables h, tablesCanonical_filter (canonical_tables hk)⟩)
  next => exact h

@[simp] theorem setRoute_canonical (o : RouteOp) (s : State) : Claims.canonical (setRoute o s) ↔ Claims.canonical s := by
  simp [setRoute]

@[simp] theorem dropRoute_canonical (o : RouteOp) (s : State) : Claims.canonical (dropRoute o s) ↔ Claims.canonical s := by
  simp [dropRoute]

@[simp] theorem addDone_canonical (o : RouteOp) (n fl : Nat) (s : State) : Claims.canonical (addDone o n fl s) ↔ Claims.canonical s := by
  unfold addDone
  split <;> simp

@[simp] theorem reportStop_canonical (o : RouteOp) (cause : Nat) (info : Word) (s : State) : Claims.canonical (reportStop o cause info s) ↔ Claims.canonical s := by
  simp [reportStop]

@[simp] theorem stopRoute_canonical (o : RouteOp) (cause : Nat) (info : Word) (s : State) : Claims.canonical (stopRoute o cause info s) ↔ Claims.canonical s := by
  simp [stopRoute]

@[simp] theorem stopRouteMem_canonical (o : RouteOp) (e : MemErr) (s : State) : Claims.canonical (stopRouteMem o e s) ↔ Claims.canonical s := by
  simp [stopRouteMem]

@[simp] theorem reserveSlot_canonical (o : RouteOp) (h a : Nat) (s : State) (hc : Claims.canonical s) :
    Claims.canonical (reserveSlot o h a s) := by
  unfold reserveSlot
  rw [← Prod.eta (engTake _ _ _)]
  simp [hc]

@[simp] theorem chooseFrom_canonical (o : RouteOp) (bad : Option MemErr) (x : Table) (h : Nat) (s : State) (hc : Claims.canonical s) :
    Claims.canonical (chooseFrom o bad x h s) := by
  unfold chooseFrom
  rw [← Prod.eta (engTake _ _ _)]
  have hu : Claims.canonical (engTake [(o.tab, 64)] o.t s).2 := engTake_canonical _ _ s hc
  dsimp only
  split
  · simp [hu]
  · split
    · simp [hu]
    · refine engTry_canonical hu (by simp) (by simp) fun n v hv => ?_
      split
      · rw [← Prod.eta (engTake _ _ _)]
        simp [hv]
      · split <;> simp [hv]

@[simp] theorem routeChoose_canonical (o : RouteOp) (s : State) (h : Claims.canonical s) : Claims.canonical (routeChoose o s) := by
  unfold routeChoose
  dsimp only
  generalize (if o.doneVa = 0 then (o, none) else _ : RouteOp × Option MemErr) = p
  split
  · simp [h]
  next u hu =>
    have hb : Claims.canonical (setRoute p.1 u) := (setRoute_canonical ..).2 (registerTable_keepsMaps _ s h u hu)
    split
    · simpa using hb
    · exact engTry_canonical hb (by simp) (by simp) fun h v hv => chooseFrom_canonical _ _ _ h v hv

@[simp] theorem routeLoad_canonical (o : RouteOp) (h : Nat) (s : State) (hc : Claims.canonical s) : Claims.canonical (routeLoad o h s) := by
  unfold routeLoad
  split <;> simp +contextual [hc]

@[simp] theorem routeRoom_canonical (o : RouteOp) (s : State) (h : Claims.canonical s) : Claims.canonical (routeRoom o s) := by
  unfold routeRoom
  refine engTry_canonical h (by simp) (by simp) fun x u hu => ?_
  have hv := engUse_canonical [(o.tab, 128), (slotVa o.tab o.e o.r, 64), (slotCctr x.2.1, 8)] hu
  dsimp only
  split
  · simp [hv]
  · exact routeLoad_canonical _ _ _ (engTake_canonical _ _ _ hv)

@[simp] theorem execRouteChoice_canonical (k : Nat) (s : State) (h : Claims.canonical s) : Ends Claims.canonical (execRouteChoice k s) := by
  unfold execRouteChoice
  (repeat' split) <;> simp [h]

@[simp] theorem nextDelivery_canonical (o : RouteOp) (s : State) : Claims.canonical (nextDelivery o s) ↔ Claims.canonical s := by
  simp [nextDelivery]

@[simp] theorem deliverPiece_canonical (o : RouteOp) (h w : Nat) (s : State) (hc : Claims.canonical s) :
    Claims.canonical (deliverPiece o h w s) := by
  unfold deliverPiece
  extract_lets evt slot left go i u stop
  split
  · exact engPut_canonical hc (by simp [evt]) (by simp [go]) (by simp [go])
  · have hu : Claims.canonical u := canonical_iff.2 (canonical_iff.1 hc)
    exact engTry_canonical hu (by simp [evt]) (by simp [stop]) fun bs v hv =>
      engPut_canonical (engTake_canonical _ _ v hv) (by simp [evt]) (by simp [stop]) (by simp)

@[simp] theorem execRouteDelivery_canonical (k : Nat) (s : State) (h : Claims.canonical s) : Ends Claims.canonical (execRouteDelivery k s) := by
  unfold execRouteDelivery
  split
  · simp [h]
  · split
    · simp [h]
    · exact ends_next.2 (engTry_canonical h (by simp) (by simp) fun x u hu =>
        deliverPiece_canonical _ _ _ _ (engUse_canonical _ hu))

@[simp] theorem finishRoute_canonical (o : RouteOp) (s : State) : Claims.canonical (finishRoute o s) ↔ Claims.canonical s := by
  unfold finishRoute
  (repeat' split) <;> simp

@[simp] theorem execRoutedAdd_canonical (k : Nat) (s : State) (h : Claims.canonical s) : Ends Claims.canonical (execRoutedAdd k s) := by
  unfold execRoutedAdd
  split
  · simp [h]
  · split
    · simp [h]
    · refine ends_next.2 (engTry_canonical h (by simp) (by simp) fun w u hu => ?_)
      dsimp only
      split
      · simp [hu]
      · split
        · simp [hu]
        · exact whenReady_canonical (by simp [hu]) (by simp +contextual) (by simp +contextual)

@[simp] theorem setSwitch_canonical (w : Switch) (s : State) : Claims.canonical (setSwitch w s) ↔ Claims.canonical s := by
  simp [setSwitch]

@[simp] theorem dropSwitch_canonical (w : Switch) (s : State) : Claims.canonical (dropSwitch w s) ↔ Claims.canonical s := by
  simp [dropSwitch]

@[simp] theorem addSwitch_canonical (tab e r : Nat) (k : SwKind) (step : Nat) (s : State) (h : Claims.canonical s) :
    Claims.canonical (addSwitch tab e r k step s).2 := by
  simp [addSwitch, h]

@[simp] theorem statWrite_canonical (va n v : Nat) (s : State) (h : Claims.canonical s) :
    Claims.canonical (statWrite va n v s) := by
  unfold statWrite
  split <;> simp [h]

@[simp] theorem startReplica_canonical (tab e r h : Nat) (s : State) (hc : Claims.canonical s) : Claims.canonical (startReplica tab e r h s) := by
  unfold startReplica
  split
  · generalize ha : addSwitch _ _ _ _ _ _ = a
    have hu : Claims.canonical a.2 := by simp [← ha, hc]
    exact nextPiece_canonical _ _ (addCopy_canonical (freshId_canonical hu) (idsDistinct_add_copy (canonical_ids hu) rfl))
  · exact hc

@[simp] theorem startRetire_canonical (tab e r : Nat) (s : State) (h : Claims.canonical s) :
    Claims.canonical (startRetire tab e r s) := by
  simp [startRetire, h]

@[simp] theorem sampleExpert_canonical (tab h m : Nat) (x : Nat × Nat × Nat) (s : State) (hc : Claims.canonical s) :
    Claims.canonical (sampleExpert tab h m x s) := by
  unfold sampleExpert
  extract_lets
  split
  split
  · exact hc
  · extract_lets a k bleft gone hot cold crun busy free put
    have hp (n : Nat) {u : State} (hu : Claims.canonical u) : Claims.canonical (put n u) := by simp [put, hu]
    clear_value put free crun busy
    split
    · exact hp _ (startReplica_canonical _ _ _ _ _ hc)
    · split
      · exact hp _ (by simp [hc])
      · exact hp _ hc

@[simp] theorem sampleUses_canonical (tab h : Nat) (old s : State) (hc : Claims.canonical s) : Claims.canonical (sampleUses tab h old s) := by
  have he : Claims.canonical ((List.range (hdrNexp h)).foldl (fun s e => (engTake [(hdrLoad h e, 8)] (timeOf s tab) s).2) s) :=
    canonical_foldl hc fun u e hu => engTake_canonical _ _ u hu
  exact canonical_foldl (engUse_canonical _ he) fun u l hu => touchLine_canonical l true hu

@[simp] theorem sampleTable_canonical (tab h : Nat) (s : State) (hc : Claims.canonical s) : Claims.canonical (sampleTable tab h s) :=
  sampleUses_canonical _ _ _ _ (canonical_foldl hc fun u x hu => sampleExpert_canonical tab h _ x u hu)

@[simp] theorem execSwarmSample_canonical (tab : Nat) (s : State) (h : Claims.canonical s) : Ends Claims.canonical (execSwarmSample tab s) := by
  unfold execSwarmSample
  split
  next => simp [h]
  next x hx =>
    have hw : SMap.wf 0 x.res = true := findTable_canonical h (Option.eq_some_of_filter_eq_some hx)
    extract_lets evt
    split
    · simp [h]
    · refine ends_next.2 (engTry_canonical h (by simp) (by simp) fun w u hu => ?_)
      extract_lets next v
      have hv : Claims.canonical v := (due_canonical ..).2 (setTable_canonical hu hw)
      (repeat' split) <;> simp [hu, hv]

@[simp] theorem execReplicaCopyStop_canonical (sw : Nat) (s : State) (h : Claims.canonical s) : Ends Claims.canonical (execReplicaCopyStop sw s) := by
  unfold execReplicaCopyStop
  split
  · simp [h]
  · exact ends_next.2 (engTry_canonical h (by simp) (by simp) fun x u hu =>
      engPut_canonical (engUse_canonical _ hu) (by simp) (by simp) (by simp))

@[simp] theorem appendTask_canonical (k t : Nat) (s : State) : Claims.canonical (appendTask k t s) ↔ Claims.canonical s := by
  simp [appendTask]

@[simp] theorem replicaSteps_canonical (w : Switch) (h k : Nat) (s : State) (hc : Claims.canonical s) : Claims.canonical (replicaSteps w h k s) := by
  unfold replicaSteps
  extract_lets evt wait go
  split
  · refine engTry_canonical hc (by simp) (by simp [wait]) fun v u hu => ?_
    have ht := setRes_canonical w.tab w.e w.r v _
      ((tableTime_canonical w.tab (engTake [(slotRctr k, 8)] (timeOf u w.tab) u).1 _).2 (engTake_canonical [(slotRctr k, 8)] (timeOf u w.tab) u hu))
    simpa [go] using ht
  · split
    · simp [go, hc]
    · exact engPut_canonical hc (by simp) (by simp) fun t u hu => by simp [freeDelay, hu]
  · split
    · simp [hc]
    · simp [hc]

@[simp] theorem execReplicaCopyDone_canonical (sw : Nat) (s : State) (h : Claims.canonical s) : Ends Claims.canonical (execReplicaCopyDone sw s) := by
  unfold execReplicaCopyDone
  split
  · simp [h]
  · extract_lets evt w1 d u
    have hd : Claims.canonical d := (dropSwitch_canonical _ s).2 h
    have hu : Claims.canonical u := by
      unfold u
      split
      · exact canonical_iff.2 (canonical_iff.1 hd)
      · exact h
    split
    · simp [hu]
    · exact ends_next.2 (engTry_canonical hu (by simp) (by simp) fun x v hv => replicaSteps_canonical _ _ _ _ (engUse_canonical _ hv))

@[simp] theorem endQuietly_canonical (va : Nat) (s : State) (h : Claims.canonical s) : Claims.canonical (endQuietly va s) := by
  unfold endQuietly
  extract_lets sc u
  have hu : Claims.canonical u := h
  exact canonical_foldl_mem hu (fun t ht => canonical_tasks hu t (List.mem_of_mem_filter ht)) fun v t hv ht =>
    killTask_canonical _ _ (setTask_canonical (t := { t with done := none }) hv ht)

@[simp] theorem redirectSlot_canonical (w : Switch) (h k : Nat) (s : State) (hc : Claims.canonical s) :
    Claims.canonical (redirectSlot w h k s) := by
  unfold redirectSlot
  refine engTry_canonical hc (by simp) (by simp) fun ⟨g, n, r, k', c⟩ u hu => ?_
  have hf (ps : List (Nat × Nat)) (t j : Nat) :
      Claims.canonical (freshId (setRes w.tab w.e r j (tableTime w.tab (engTake ps t u).1 (engTake ps t u).2))).2 :=
    freshId_canonical (setRes_canonical _ _ _ _ _ ((tableTime_canonical ..).2 (engTake_canonical ps t u hu)))
  dsimp only
  split
  · simp [hu]
  · simp [hf]

@[simp] theorem voidSlot_canonical (w : Switch) (h k : Nat) (s : State) (hc : Claims.canonical s) : Claims.canonical (voidSlot w h k s) := by
  simp +contextual [voidSlot, hc]

@[simp] theorem closeInbox_canonical (w : Switch) (k : Nat) (s : State) (h : Claims.canonical s) : Claims.canonical (closeInbox w k s) := by
  unfold closeInbox
  split <;> simp +contextual [h]

@[simp] theorem redirectSteps_canonical (w : Switch) (h k : Nat) (s : State) (hc : Claims.canonical s) :
    Claims.canonical (redirectSteps w h k s) := by
  unfold redirectSteps
  extract_lets evt wait u rest fin
  split
  · split
    · simp [hc]
    · have hu : Claims.canonical u := by
        unfold u
        split <;> simp [hc]
      exact engTry_canonical hu (by simp) (by simp [wait]) fun x v hv => by simp [hv]
  · (repeat' split) <;> simp [hc]
  · simp [hc]
  · have hf (u : State) (hu : Claims.canonical u) : Claims.canonical (fin u) := by
      unfold fin
      split <;> simp [hu]
    split
    · exact hf s hc
    · exact engPut_canonical hc (by simp) (by simp [wait]) fun t u hu => hf _ ((tableTime_canonical ..).2 hu)

@[simp] theorem removeReplica_canonical (w : Switch) (s : State) (h : Claims.canonical s) : Claims.canonical (removeReplica w s) := by
  simp +contextual [removeReplica, h]

@[simp] theorem abandonExpert_canonical (w : Switch) (h n : Nat) (s : State) (hc : Claims.canonical s) : Claims.canonical (abandonExpert w h n s) := by
  simp [abandonExpert, hc]

@[simp] theorem watchConsumed_canonical (tab e k : Nat) (s : State) : Claims.canonical (watchConsumed tab e k s) ↔ Claims.canonical s := by
  unfold watchConsumed
  split <;> simp

@[simp] theorem restartSteps_canonical (w : Switch) (h n k : Nat) (s : State) (hc : Claims.canonical s) : Claims.canonical (restartSteps w h n k s) := by
  unfold restartSteps
  (repeat' split) <;> simp [hc]

@[simp] theorem clearLoss_canonical (w : Switch) (s : State) (h : Claims.canonical s) : Claims.canonical (clearLoss w s) := by
  simp +contextual [clearLoss, h]

@[simp] theorem execRedirection_canonical (sw : Nat) (s : State) (h : Claims.canonical s) : Ends Claims.canonical (execRedirection sw s) := by
  unfold execRedirection
  split
  next => simp [h]
  next w _ =>
    extract_lets evt
    split
    · simp [h]
    · split
      · simp [h]
      · refine ends_next.2 (engTry_canonical h (by simp) (by simp) fun x u hu => ?_)
        have hv := engUse_canonical [(w.tab, 128), (entVa w.tab w.e, 64), (slotVa w.tab w.e w.r, 64)] hu
        dsimp only
        (repeat' split) <;> simp [hv]

@[simp] theorem loseReplica_canonical (evt : Instr) (tab e r : Nat) (k : SwKind) (s : State) (h : Claims.canonical s) :
    Claims.canonical (loseReplica evt tab e r k s) := by
  unfold loseReplica
  split
  · exact h
  · rw [← Prod.eta (addSwitch _ _ _ _ _ _)]
    simp [h]

@[simp] theorem execReplicaLoss_canonical (tab e r : Nat) (s : State) (h : Claims.canonical s) : Ends Claims.canonical (execReplicaLoss tab e r s) := by
  simp [execReplicaLoss, h]

@[simp] theorem execReplica0Loss_canonical (tab e : Nat) (s : State) (h : Claims.canonical s) : Ends Claims.canonical (execReplica0Loss tab e s) := by
  simp [execReplica0Loss, h]

@[simp] theorem endMerge_canonical (x : Table) (s : State) (h : Claims.canonical s) (hx : SMap.wf 0 x.res = true) :
    Claims.canonical (endMerge x s) := by
  have hy : SMap.wf 0 ((findTable s x.va).getD x).res = true := by
    cases hf : findTable s x.va with
    | none => exact hx
    | some y => exact findTable_canonical h hf
  exact (armMerge_canonical ..).2 (setTable_canonical h hy)

@[simp] theorem addMdone_canonical (h n fl tser t : Nat) (s : State) : Claims.canonical (addMdone h n fl tser t s) ↔ Claims.canonical s := by
  unfold addMdone
  split <;> simp

@[simp] theorem stopMerge_canonical (x : Table) (h : Nat) (e : MemErr) (s : State) (hc : Claims.canonical s) (hx : SMap.wf 0 x.res = true) :
    Claims.canonical (stopMerge x h e s) := by
  unfold stopMerge
  extract_lets w k u
  have hu : Claims.canonical u := (addMdone_canonical ..).2 hc
  refine endMerge_canonical x _ ?_ hx
  split <;> simp [hu]

@[simp] theorem mergeElement_canonical (x : Table) (p : MergePos) (h w0 w : Nat) (s : State) (hc : Claims.canonical s)
    (hx : SMap.wf 0 x.res = true) : Claims.canonical (mergeElement x p h w0 w s) := by
  unfold mergeElement
  extract_lets evt a0 ar
  have hstop (e : MemErr) (u : State) (hu : Claims.canonical u) : Claims.canonical (stopMerge x h e u) := stopMerge_canonical x h e u hu hx
  refine engTry_canonical hc (by simp) hstop fun g u hu => engPut_canonical hu (by simp) hstop fun t v hv => ?_
  exact (due_canonical ..).2 ((freeDelay_canonical _).2 (setTable_canonical hv hx))

@[simp] theorem finishMerge_canonical (x : Table) (p : MergePos) (h : Nat) (s : State) (hc : Claims.canonical s)
    (hx : SMap.wf 0 x.res = true) : Claims.canonical (finishMerge x p h s) := by
  have hstop (e : MemErr) (u : State) (hu : Claims.canonical u) : Claims.canonical (stopMerge x h e u) := stopMerge_canonical x h e u hu hx
  unfold finishMerge
  refine engTry_canonical hc (by simp) hstop fun ss u hu => engPut_canonical hu (by simp) hstop fun t v hv => ?_
  exact (addMdone_canonical ..).2 (endMerge_canonical _ _ ((tableTime_canonical ..).2 hv) hx)

@[simp] theorem execGradientMerge_canonical (tab : Nat) (s : State) (h : Claims.canonical s) : Ends Claims.canonical (execGradientMerge tab s) := by
  unfold execGradientMerge
  split
  next => simp [h]
  next x hx =>
    have hw : SMap.wf 0 x.res = true := findTable_canonical h (Option.eq_some_of_filter_eq_some hx)
    have hstop (n : Nat) (e : MemErr) (u : State) (hu : Claims.canonical u) : Claims.canonical (stopMerge x n e u) :=
      stopMerge_canonical x n e u hu hw
    split
    next => simp [h]
    next p _ =>
      extract_lets evt
      split
      · simp [h]
      · refine ends_next.2 (engTry_canonical h (by simp) (hstop _) fun hd u hu => ?_)
        split
        · simp [hu]
        · refine engTry_canonical hu (by simp) (hstop _) fun y v hv => ?_
          split
          · exact finishMerge_canonical x p hd v hv hw
          · extract_lets z q
            have hz : Claims.canonical z := engUse_canonical _ hv
            split
            · exact (due_canonical ..).2 (setTable_canonical hz hw)
            · exact engTry_canonical hz (by simp) (hstop _) fun w0 a ha => mergeElement_canonical _ _ _ _ _ _ (engUse_canonical _ ha) hw

/-! ### Waggle -/

@[simp] theorem wglOp_keepsMaps (f : YA) (s : State) (h : Claims.canonical s) : KeepsMaps id (wglOp f s) := by
  simp [wglOp, h]

@[simp] theorem setStatus_canonical (tag v : Nat) (s : State) : Claims.canonical (setStatus tag v s) ↔ Claims.canonical s := by
  simp [setStatus]

@[simp] theorem wglqOp_keepsMaps (f : YA) (s : State) (h : Claims.canonical s) : KeepsMaps id (wglqOp f s) := by
  simp [wglqOp, h]

@[simp] theorem wglkOp_keepsMaps (f : YA) (s : State) (h : Claims.canonical s) : KeepsMaps id (wglkOp f s) := by
  simp [wglkOp, h]

@[simp] theorem setColl_canonical (c : Coll) (s : State) : Claims.canonical (setColl c s) ↔ Claims.canonical s := by
  simp [setColl]

@[simp] theorem dropColl_canonical (c : Coll) (s : State) : Claims.canonical (dropColl c s) ↔ Claims.canonical s := by
  simp [dropColl]

@[simp] theorem leaveStatus_canonical (c : Coll) (st : Nat) (s : State) : Claims.canonical (leaveStatus c st s) ↔ Claims.canonical s := by
  unfold leaveStatus
  split <;> simp

@[simp] theorem finishAbort_canonical (c : Coll) (fl : Nat) (s : State) : Claims.canonical (finishAbort c fl s) ↔ Claims.canonical s := by
  unfold finishAbort
  split <;> simp

@[simp] theorem execWaggleAbort_canonical (tag launch : Nat) (poison : Bool) (s : State) (h : Claims.canonical s) :
    Ends Claims.canonical (execWaggleAbort tag launch poison s) := by
  unfold execWaggleAbort
  (repeat' split) <;> simp [h]

@[simp] theorem failColl_canonical (c : Coll) (e : MemErr) (s : State) : Claims.canonical (failColl c e s) ↔ Claims.canonical s := by
  simp [failColl]

@[simp] theorem failPiece_canonical (c : Coll) (p : Nat × List Byte) (e : MemErr) (s : State) : Claims.canonical (failPiece c p e s) ↔ Claims.canonical s := by
  simp [failPiece]

@[simp] theorem writePiece_canonical (c : Coll) (p : Nat × List Byte) (s : State) (h : Claims.canonical s) : Claims.canonical (writePiece c p s) := by
  simp +contextual [writePiece, h]

@[simp] theorem refuseLaunch_canonical (q : WglQ) (n launch : Nat) (done : Option Nat) (group : List (BitVec 17)) (code : Nat) (info : Word)
    (s : State) : Claims.canonical (refuseLaunch q n launch done group code info s) ↔ Claims.canonical s := by
  unfold refuseLaunch
  split <;> simp

@[simp] theorem startColl_canonical (c : Coll) (s : State) : Claims.canonical (startColl c s) ↔ Claims.canonical s := by
  simp [startColl]

@[simp] theorem launchRead_canonical (q : WglQ) (n : Nat) (group : Bool × List (BitVec 17)) (prog : Except MemErr (List Word)) (s : State)
    (h : Claims.canonical s) : Claims.canonical (launchRead q n group prog s) := by
  unfold launchRead
  extract_lets tag launch running u done donePa no
  have hu : Claims.canonical u := h
  have hno (c : Nat) (i : Word) : Claims.canonical (no c i) := (refuseLaunch_canonical ..).2 hu
  clear_value no donePa done u
  (repeat' split) <;> simp [hno, hu]

@[simp] theorem killTag_canonical (tag : Nat) (s : State) : Claims.canonical (killTag tag s) ↔ Claims.canonical s := by
  unfold killTag
  split <;> simp

@[simp] theorem execWaggleLaunch_canonical (k : Nat) (s : State) (h : Claims.canonical s) : Ends Claims.canonical (execWaggleLaunch k s) := by
  unfold execWaggleLaunch
  split
  · exact ends_next.2 h
  · split
    · split <;> simp [h]
    · split
      · simp [h]
      · refine ends_next.2 (engTry_canonical h (by simp) (by simp +contextual) fun n u hu => ?_)
        dsimp only
        generalize (if bit n 83 = true then 0 else 4 * cdRanks n) = z
        split
        · simp [hu]
        · simp [hu]
        · simp [hu]
        · simp [hu]
        · rw [← Prod.eta (engTake _ _ _)]
          simp [hu]
        · rw [← Prod.eta (engTake _ _ _)]
          simp [hu]

@[simp] theorem execSignatureAgreement_canonical (k : Nat) (s : State) (h : Claims.canonical s) :
    Ends Claims.canonical (execSignatureAgreement k s) := by
  unfold execSignatureAgreement
  split
  · simp [h]
  · extract_lets mine u agreed all chunks vals v w
    have hu : Claims.canonical u := h
    clear_value u
    have hv : Claims.canonical v := by
      unfold v
      split <;> exact hu
    clear_value v
    have hw : Claims.canonical w := canonical_foldl hv (by simp)
    clear_value w
    split
    · simp [hu]
    · simp [hw]

@[simp] theorem readPieces_canonical {c : Coll} {va n : Nat} {k : List Byte → Coll → State → State} {s : State} (h : Claims.canonical s)
    (hk : ∀ bs c s, Claims.canonical s → Claims.canonical (k bs c s)) : Claims.canonical (readPieces c va n k s) := by
  simp +contextual [readPieces, h, hk]

@[simp] theorem whenPlaced_canonical {c : Coll} {va n : Nat} {k : State → State} {s : State} (h : Claims.canonical s)
    (hk : ∀ s, Claims.canonical s → Claims.canonical (k s)) : Claims.canonical (whenPlaced c va n k s) := by
  simp +contextual [whenPlaced, h, hk]

@[simp] theorem beginChunk_canonical (c : Coll) (va : Nat) (bs : List Byte) (s : State) : Claims.canonical (beginChunk c va bs s) ↔ Claims.canonical s := by
  simp [beginChunk]

@[simp] theorem writePieces_canonical {c : Coll} {k : Coll → State → State} {s : State} (h : Claims.canonical s)
    (hk : ∀ c s, Claims.canonical s → Claims.canonical (k c s)) : Claims.canonical (writePieces c k s) := by
  simp [writePieces, h, hk]

@[simp] theorem toStep_canonical (c : Coll) (pc : Nat) (s : State) : Claims.canonical (toStep c pc s) ↔ Claims.canonical s := by
  simp [toStep]

@[simp] theorem nextStep_canonical (c : Coll) (s : State) : Claims.canonical (nextStep c s) ↔ Claims.canonical s := by
  simp [nextStep]

@[simp] theorem onStep_canonical {f : Coll → State → State} {s : State} (h : Claims.canonical s) (hf : ∀ c s, Claims.canonical s → Claims.canonical (f c s)) :
    Ends Claims.canonical (onStep f s) := by
  unfold onStep
  split <;> simp [h, hf]

@[simp] theorem wsendStep_canonical (f : WP) (c : Coll) (s : State) (h : Claims.canonical s) : Claims.canonical (wsendStep f c s) := by
  unfold wsendStep
  extract_lets
  split
  · exact readPieces_canonical h (by simp +contextual)
  · split <;> simp [h]

@[simp] theorem execWsend_canonical (f : WP) (s : State) (h : Claims.canonical s) : Ends Claims.canonical (execWsend f s) := by
  simp +contextual [execWsend, h]

@[simp] theorem wrecvStep_canonical (f : WP) (c : Coll) (s : State) (h : Claims.canonical s) : Claims.canonical (wrecvStep f c s) := by
  unfold wrecvStep
  dsimp only
  (repeat' split) <;> simp +contextual [h]

@[simp] theorem execWrecv_canonical (f : WP) (s : State) (h : Claims.canonical s) : Ends Claims.canonical (execWrecv f s) := by
  simp +contextual [execWrecv, h]

@[simp] theorem copyRead_canonical (f : WC) (p : Nat × Nat) (bs : List Byte) (t : Nat) (c : Coll) (s : State) (h : Claims.canonical s) :
    Claims.canonical (copyRead f p bs t c s) := by
  unfold copyRead
  extract_lets
  split
  · simp [h]
  · exact whenPlaced_canonical h (by simp)

@[simp] theorem wcopyStep_canonical (f : WC) (c : Coll) (s : State) (h : Claims.canonical s) : Claims.canonical (wcopyStep f c s) := by
  unfold wcopyStep
  extract_lets i u
  have hu : Claims.canonical u := canonical_iff.2 (canonical_iff.1 h)
  clear_value u
  (repeat' split)
  · simp [h]
  · simp [h]
  · simp [h]
  · exact engTry_canonical hu (by simp) (by simp) fun bs v hv => copyRead_canonical _ _ _ _ _ _ (engTake_canonical _ _ v hv)
  · simp [hu]

@[simp] theorem execWcopy_canonical (f : WC) (s : State) (h : Claims.canonical s) : Ends Claims.canonical (execWcopy f s) := by
  simp +contextual [execWcopy, h]

@[simp] theorem wwaitStep_canonical (thr : Nat) (c : Coll) (s : State) : Claims.canonical (wwaitStep thr c s) ↔ Claims.canonical s := by
  unfold wwaitStep
  dsimp only
  (repeat' split) <;> simp

@[simp] theorem execWwait_canonical (thr : BitVec 48) (s : State) (h : Claims.canonical s) : Ends Claims.canonical (execWwait thr s) := by
  simp [execWwait, h]

@[simp] theorem collAdd_canonical {c : Coll} {pa : Nat} {va : Word} {n fl : Nat} {k : Coll → State → State} {s : State} (h : Claims.canonical s)
    (hk : ∀ c s, Claims.canonical s → Claims.canonical (k c s)) : Claims.canonical (collAdd c pa va n fl k s) := by
  unfold collAdd
  split <;> simp -implicitDefEqProofs [h, hk]

@[simp] theorem wsigStep_canonical (n : Nat) (c : Coll) (s : State) (h : Claims.canonical s) : Claims.canonical (wsigStep n c s) := by
  simp +contextual [wsigStep, h]

@[simp] theorem execWsig_canonical (n : BitVec 20) (s : State) (h : Claims.canonical s) : Ends Claims.canonical (execWsig n s) := by
  simp +contextual [execWsig, h]

@[simp] theorem execWloop_canonical (cnt : BitVec 32) (s : State) (h : Claims.canonical s) : Ends Claims.canonical (execWloop cnt s) := by
  simp [execWloop, h]

@[simp] theorem wendlStep_canonical (c : Coll) (s : State) : Claims.canonical (wendlStep c s) ↔ Claims.canonical s := by
  unfold wendlStep
  (repeat' split) <;> simp

@[simp] theorem execWendl_canonical (s : State) (h : Claims.canonical s) : Ends Claims.canonical (execWendl s) := by
  simp [execWendl, h]

@[simp] theorem enterVal_canonical (kind : Nat) (v : Word) (c : Coll) (s : State) : Claims.canonical (enterVal kind v c s) ↔ Claims.canonical s := by
  simp [enterVal]

@[simp] theorem wagreeStep_canonical (b off : Nat) (c : Coll) (s : State) (h : Claims.canonical s) : Claims.canonical (wagreeStep b off c s) := by
  unfold wagreeStep
  (repeat' split) <;> simp +contextual [h]

@[simp] theorem execWagree_canonical (buf : BitVec 2) (off : BitVec 32) (s : State) (h : Claims.canonical s) :
    Ends Claims.canonical (execWagree buf off s) := by
  simp +contextual [execWagree, h]

@[simp] theorem wflagsStep_canonical (c : Coll) (s : State) : Claims.canonical (wflagsStep c s) ↔ Claims.canonical s := by
  unfold wflagsStep
  (repeat' split) <;> simp

@[simp] theorem execWflags_canonical (s : State) (h : Claims.canonical s) : Ends Claims.canonical (execWflags s) := by
  simp [execWflags, h]

@[simp] theorem completeColl_canonical (c : Coll) (s : State) : Claims.canonical (completeColl c s) ↔ Claims.canonical s := by
  simp [completeColl]

@[simp] theorem wendStep_canonical (c : Coll) (s : State) (h : Claims.canonical s) : Claims.canonical (wendStep c s) := by
  unfold wendStep
  split <;> simp +contextual [h]

@[simp] theorem execWend_canonical (s : State) (h : Claims.canonical s) : Ends Claims.canonical (execWend s) := by
  simp +contextual [execWend, h]

@[simp] theorem enterRs_canonical (f : WR) (c : Coll) (s : State) : Claims.canonical (enterRs f c s) ↔ Claims.canonical s := by
  simp [enterRs]

@[simp] theorem reduceChunk_canonical (f : WR) (i : Nat) (own : List Byte) (c : Coll) (s : State) (h : Claims.canonical s) :
    Claims.canonical (reduceChunk f i own c s) := by
  unfold reduceChunk
  split
  refine whenPlaced_canonical h fun u hu => ?_
  extract_lets v
  have hv : Claims.canonical v := by
    unfold v
    split
    · exact canonical_foldl hu (by simp)
    · exact hu
  simp [hv]

@[simp] theorem rerunChunk_canonical (i : Nat) (c : Coll) (s : State) : Claims.canonical (rerunChunk i c s) ↔ Claims.canonical s := by
  unfold rerunChunk
  split <;> simp

@[simp] theorem refetch_canonical (i : Nat) (e : Nat × Nat × ChunkMsg) (c : Coll) (s : State) : Claims.canonical (refetch i e c s) ↔ Claims.canonical s := by
  unfold refetch
  dsimp only
  (repeat' split) <;> simp

@[simp] theorem rsStep_canonical (f : WR) (c : Coll) (s : State) (h : Claims.canonical s) : Claims.canonical (rsStep f c s) := by
  unfold rsStep
  dsimp only
  (repeat' split) <;> simp +contextual [h]

@[simp] theorem wrrsStep_canonical (f : WR) (c : Coll) (s : State) (h : Claims.canonical s) : Claims.canonical (wrrsStep f c s) := by
  simp +contextual [wrrsStep, h]

@[simp] theorem execWrrs_canonical (f : WR) (s : State) (h : Claims.canonical s) : Ends Claims.canonical (execWrrs f s) := by
  simp +contextual [execWrrs, h]

@[simp] theorem spillOne_canonical (io : Nat) (s : State) : Claims.canonical (spillOne io s) ↔ Claims.canonical s := by
  unfold spillOne
  split <;> simp

@[simp] theorem spillDown_canonical (io : Nat) : ∀ (n : Nat) (s : State), Claims.canonical s → Claims.canonical (spillDown io n s)
  | 0, _, h => h
  | n + 1, s, h => by
    unfold spillDown
    split
    · exact h
    · exact spillDown_canonical io n _ ((spillOne_canonical io s).2 h)

@[simp] theorem execChunkArrival_canonical (m : ChunkMsg) (s : State) (h : Claims.canonical s) : Ends Claims.canonical (execChunkArrival m s) := by
  unfold execChunkArrival
  split <;> simp [h]

@[simp] theorem execSwitchSlotLoss_canonical (k inst chunk : Nat) (s : State) (h : Claims.canonical s) :
    Ends Claims.canonical (execSwitchSlotLoss k inst chunk s) := by
  unfold execSwitchSlotLoss
  split
  · simp [h]
  · split
    · simp [h]
    · extract_lets open_ o buf d
      split
      · exact ends_next.2 (by split <;> simp [h])
      · split
        · simp [h]
        · exact ends_next.2 (engTry_canonical h (by simp) (by simp) fun bs u hu =>
            (sendG_canonical ..).2 ((setColl_canonical ..).2 (engTake_canonical _ _ u hu)))

@[simp] theorem abortTurn_canonical (c : Coll) (s : State) (h : Claims.canonical s) : Claims.canonical (abortTurn c s) := by
  simp +contextual [abortTurn, h]

/-! ### Pool -/

@[simp] theorem releaseWaiter_canonical (line : Nat) (w : Waiter) (s : State) (h : Claims.canonical s) : Claims.canonical (releaseWaiter line w s) := by
  unfold releaseWaiter
  cases w.who with
  | core c =>
    refine atCore_canonical h fun u hu => ?_
    split <;> simp [hu]
  | wag tag launch =>
    dsimp only
    split <;> simp [h]
  | dep | queue | job | watch | merge | consumed => simp [h]

@[simp] theorem releaseLine_canonical (line : Nat) (s : State) (h : Claims.canonical s) : Claims.canonical (releaseLine line s) := by
  simp +contextual [releaseLine, h]

@[simp] theorem releaseRecord_canonical (line : Nat) (s : State) (h : Claims.canonical s) : Claims.canonical (releaseRecord line s) := by
  unfold releaseRecord
  exact canonical_foldl (canonical_foldl h (by simp +contextual)) (by simp +contextual)

@[simp] theorem poisonLine_canonical (line : Nat) (s : State) (h : Claims.canonical s) : Claims.canonical (poisonLine line s) := by
  simp +contextual [poisonLine, h]

@[simp] theorem execLinePoisoned_canonical (line : Nat) (s : State) (h : Claims.canonical s) : Ends Claims.canonical (execLinePoisoned line s) := by
  simp [execLinePoisoned, h]

@[simp] theorem execCombSramError_canonical (home : Nat) (s : State) (h : Claims.canonical s) : Ends Claims.canonical (execCombSramError home s) := by
  simp [execCombSramError, h]

@[simp] theorem bumpLease_canonical (line : Nat) (s : State) : Claims.canonical (bumpLease line s) ↔ Claims.canonical s := by
  simp [bumpLease]

@[simp] theorem birsp_canonical (line p : Nat) (s : State) : Claims.canonical (birsp line p s) ↔ Claims.canonical s := by
  simp [birsp]

@[simp] theorem execMemrdCompletion_canonical (line : Nat) (r : PoolReply) (s : State) (h : Claims.canonical s) :
    Ends Claims.canonical (execMemrdCompletion line r s) := by
  unfold execMemrdCompletion
  split <;> simp [h]

@[simp] theorem execMeminvCompletion_canonical (line : Nat) (s : State) (h : Claims.canonical s) :
    Ends Claims.canonical (execMeminvCompletion line s) := by
  simp [execMeminvCompletion, h]

@[simp] theorem poolTakes_canonical (line n : Nat) (s : State) : Claims.canonical (poolTakes line n s) ↔ Claims.canonical s := by
  unfold poolTakes
  split <;> simp

@[simp] theorem copyWritten_canonical (op line : Nat) (refused : Bool) (s : State) (h : Claims.canonical s) :
    Claims.canonical (copyWritten op line refused s) := by
  unfold copyWritten
  (repeat' split) <;> simp +contextual [h]

@[simp] theorem remotePut_canonical (src : BitVec 17) (op pa : Nat) (bs : List Byte) (s : State) (h : Claims.canonical s) :
    Claims.canonical (remotePut src op pa bs s) := by
  simp [remotePut, h]

@[simp] theorem remoteWritten_canonical (m : GMsg) (line : Nat) (refused : Bool) (s : State) (h : Claims.canonical s) :
    Claims.canonical (remoteWritten m line refused s) := by
  unfold remoteWritten
  (repeat' split) <;> simp [h]

@[simp] theorem wrCompleted_canonical (line : Nat) (why : WrWhy) (refused : Bool) (s : State) (h : Claims.canonical s) :
    Claims.canonical (wrCompleted line why refused s) := by
  unfold wrCompleted
  split <;> simp +contextual [h]

@[simp] theorem execMemwrCompletion_canonical (line : Nat) (refused : Bool) (s : State) (h : Claims.canonical s) :
    Ends Claims.canonical (execMemwrCompletion line refused s) := by
  unfold execMemwrCompletion
  split <;> simp [h]

@[simp] theorem noteSnoop_canonical (kind line : Nat) (owned : Bool) (s : State) : Claims.canonical (noteSnoop kind line owned s) ↔ Claims.canonical s := by
  simp [noteSnoop]

@[simp] theorem snoopActs_canonical (evt : Instr) (kind line : Nat) (s : State) : Claims.canonical (snoopActs evt kind line s) ↔ Claims.canonical s := by
  unfold snoopActs
  dsimp only
  (repeat' split) <;> simp

@[simp] theorem pinSnoop_canonical (kind line : Nat) (s : State) : Claims.canonical (pinSnoop kind line s) ↔ Claims.canonical s := by
  simp [pinSnoop]

@[simp] theorem snoop_canonical (evt : Instr) (kind line : Nat) (s : State) : Claims.canonical (snoop evt kind line s) ↔ Claims.canonical s := by
  simp [snoop]

@[simp] theorem execBisnpinv_canonical (line : Nat) (s : State) (h : Claims.canonical s) : Ends Claims.canonical (execBisnpinv line s) := by
  simp [execBisnpinv, h]

@[simp] theorem execBisnpdata_canonical (line : Nat) (s : State) (h : Claims.canonical s) : Ends Claims.canonical (execBisnpdata line s) := by
  simp [execBisnpdata, h]

@[simp] theorem execBisnpcur_canonical (line : Nat) (s : State) (h : Claims.canonical s) : Ends Claims.canonical (execBisnpcur line s) := by
  simp [execBisnpcur, h]

@[simp] theorem execSnoopPinTimeout_canonical (line : Nat) (s : State) (h : Claims.canonical s) :
    Ends Claims.canonical (execSnoopPinTimeout line s) := by
  unfold execSnoopPinTimeout
  have hf (c : CoreId) : Claims.canonical (atCore c (failRegion [line]) s) := atCore_canonical h fun u hu => failRegion_canonical [line] u hu
  (repeat' split) <;> simp [h, hf]

@[simp] theorem lostWrite_canonical (t : PoolTx) (s : State) (h : Claims.canonical s) : Claims.canonical (lostWrite t s) := by
  unfold lostWrite
  (repeat' split) <;> simp +contextual [h]

@[simp] theorem loseLine_canonical (line : Nat) (s : State) (h : Claims.canonical s) : Claims.canonical (loseLine line s) := by
  simp +contextual [loseLine, h]

@[simp] theorem commitsLose_canonical (on : Nat → Bool) (s : State) (h : Claims.canonical s) : Claims.canonical (commitsLose on s) := by
  unfold commitsLose
  extract_lets one
  refine canonical_foldl h fun u c hu => ?_
  unfold one
  split
  · exact atCore_canonical hu fun v hv => by
      dsimp only
      split <;> simp [hv]
  · exact hu

@[simp] theorem execCxlPortDown_canonical (p : Nat) (s : State) (h : Claims.canonical s) : Ends Claims.canonical (execCxlPortDown p s) := by
  unfold execCxlPortDown
  split
  · simp [h]
  · split
    · simp [h]
    · extract_lets on u v txs w x
      have hu : Claims.canonical u := commitsLose_canonical on s h
      have hv : Claims.canonical v := by simpa [v] using hu
      have hx : Claims.canonical x := canonical_foldl hv (by simp +contextual)
      exact ends_next.2 (canonical_foldl hx (by simp +contextual))

@[simp] theorem execCxlPortReturnToService_canonical (p : Nat) (s : State) (h : Claims.canonical s) :
    Ends Claims.canonical (execCxlPortReturnToService p s) := by
  unfold execCxlPortReturnToService
  split <;> simp [h]

/-! ### Fabric -/

@[simp] theorem failWith_canonical (m : GMsg) (op piece : Nat) (e : MemErr) (s : State) : Claims.canonical (failWith m op piece e s) ↔ Claims.canonical s := by
  simp [failWith]

@[simp] theorem remoteWrite_canonical (m : GMsg) (op piece : Nat) (va : Word) (bs : List Byte) (s : State) (h : Claims.canonical s) :
    Claims.canonical (remoteWrite m op piece va bs s) := by
  unfold remoteWrite
  split <;> simp +contextual [h]

@[simp] theorem remoteRead_canonical (m : GMsg) (op piece : Nat) (va : Word) (n : Nat) (s : State) (h : Claims.canonical s) :
    Claims.canonical (remoteRead m op piece va n s) := by
  unfold remoteRead
  dsimp only
  (repeat' split) <;> simp [h]

@[simp] theorem remoteAdd_canonical (m : GMsg) (op : Nat) (va n : Word) (fl : BitVec 32) (s : State) (h : Claims.canonical s) :
    Claims.canonical (remoteAdd m op va n fl s) := by
  unfold remoteAdd
  split <;> simp +contextual [h]

@[simp] theorem gotData_canonical (op k : Nat) (bs : List Byte) (s : State) (h : Claims.canonical s) : Claims.canonical (gotData op k bs s) := by
  unfold gotData
  split
  next => exact h
  next o ho =>
    split
    next => exact h
    next p hp =>
      dsimp only
      generalize hq : (if o.l.module = ownModule s then copyTime o _ s else (o, s)) = q
      have hb : Claims.canonical q.2 := by
        rw [← hq]
        split
        · exact (copyTime_canonical ..).2 h
        · exact h
      have hm : Claims.canonical (markOut q.1 k bs q.2) := (markOut_canonical ..).2 hb
      split
      · exact hm
      · exact pieceWrite_canonical _ _ k bs _ hm

@[simp] theorem gotDone_canonical (op k : Nat) (s : State) (h : Claims.canonical s) :
    Claims.canonical (gotDone op k s) := by
  unfold gotDone
  (repeat' split) <;> simp [h]

@[simp] theorem remoteAdded_canonical (o : Cop) (s : State) (h : Claims.canonical s) :
    Claims.canonical (remoteAdded o s) := by
  simp [remoteAdded, h]

@[simp] theorem gotFail_canonical (op cause : Nat) (info : Word) (s : State) (h : Claims.canonical s) :
    Claims.canonical (gotFail op cause info s) := by
  unfold gotFail
  (repeat' split) <;> simp [h]

theorem findCop_id {s : State} {op : Nat} {o : Cop} (h : findCop s op = some o) : o.id = op := by
  simpa using List.find?_some h

@[simp] theorem gotChecked_canonical (op : Nat) (s : State) (h : Claims.canonical s) : Claims.canonical (gotChecked op s) := by
  unfold gotChecked
  split
  next => exact h
  next o ho =>
    split
    · exact h
    · exact nextPiece_canonical _ _ (by simp [h, idsDistinct_replace, findCop_id ho])

@[simp] theorem gotAdded_canonical (op : Nat) (refused : Bool) (s : State) (h : Claims.canonical s) :
    Claims.canonical (gotAdded op refused s) := by
  unfold gotAdded
  (repeat' split) <;> simp [h]

@[simp] theorem gotVal_canonical (kind tag launch inst rank : Nat) (v : Word) (s : State) :
    Claims.canonical (gotVal kind tag launch inst rank v s) ↔ Claims.canonical s := by
  unfold gotVal
  (repeat' split) <;> simp

@[simp] theorem gotSent_canonical (tag launch rank inst : Nat) (s : State) : Claims.canonical (gotSent tag launch rank inst s) ↔ Claims.canonical s := by
  unfold gotSent
  split <;> simp

@[simp] theorem applyMsg_canonical (m : GMsg) (s : State) (h : Claims.canonical s) : Claims.canonical (applyMsg m s) := by
  unfold applyMsg
  (repeat' split) <;> simp +contextual [h]

@[simp] theorem execGlodricMessage_canonical (m : GMsg) (s : State) (h : Claims.canonical s) : Ends Claims.canonical (execGlodricMessage m s) := by
  simp [execGlodricMessage, h]

@[simp] theorem resend_canonical (p : Nat) (s : State) : Claims.canonical (resend p s) ↔ Claims.canonical s := canonical_foldl_iff (by simp)

@[simp] theorem execGlodricPortWithdrawn_canonical (p : Nat) (s : State) (h : Claims.canonical s) :
    Ends Claims.canonical (execGlodricPortWithdrawn p s) := by
  simp [execGlodricPortWithdrawn, h]

@[simp] theorem execDestinationTimeout_canonical (m : BitVec 17) (s : State) (h : Claims.canonical s) :
    Ends Claims.canonical (execDestinationTimeout m s) := by
  unfold execDestinationTimeout
  split
  · simp [h]
  · exact ends_next.2 ((abortColls_canonical ..).2 (canonical_foldl h fun u o hu => stopOpn_canonical o _ u hu))

@[simp] theorem execDomainTableWrite_canonical (t : DomainTable) (s : State) (h : Claims.canonical s) :
    Ends Claims.canonical (execDomainTableWrite t s) := by
  simp [execDomainTableWrite, h]

@[simp] theorem execLinkWithdrawn_canonical (bit : Nat) (s : State) (h : Claims.canonical s) : Ends Claims.canonical (execLinkWithdrawn bit s) := by
  simp [execLinkWithdrawn, h]

/-! ### Handles -/

@[simp] theorem produceH_canonical (h : BitVec 4) (v : BitVec 256) (s : State) (hc : Claims.canonical s) :
    Claims.canonical (produceH h v s) := by
  simp [produceH, hc]

@[simp] theorem hldOp_keepsMaps (f : SH) (s : State) (h : Claims.canonical s) : KeepsMaps id (hldOp f s) := by
  simp +contextual [hldOp, h]

@[simp] theorem hstOp_keepsMaps (f : SH) (s : State) (h : Claims.canonical s) : KeepsMaps id (hstOp f s) := by
  simp +contextual [hstOp, h]

@[simp] theorem hsetOp_keepsMaps (f : SH) (s : State) (h : Claims.canonical s) : KeepsMaps id (hsetOp f s) := by
  simp [hsetOp, h]

@[simp] theorem hgetOp_keepsMaps (f : SH) (s : State) (h : Claims.canonical s) : KeepsMaps id (hgetOp f s) := by
  simp [hgetOp, h]

@[simp] theorem hmovOp_keepsMaps (f : SH) (s : State) (h : Claims.canonical s) : KeepsMaps id (hmovOp f s) := by
  simp [hmovOp, h]

@[simp] theorem pcfgOp_keepsMaps (f : SH) (s : State) (h : Claims.canonical s) : KeepsMaps id (pcfgOp f s) := by
  simp +contextual [pcfgOp, h]

@[simp] theorem psetOp_keepsMaps (f : SH) (s : State) (h : Claims.canonical s) : KeepsMaps id (psetOp f s) := by
  simp [psetOp, h]

@[simp] theorem pgetOp_canonical (f : SH) (s : State) : Claims.canonical (pgetOp f s) ↔ Claims.canonical s := by
  simp [pgetOp]

/-! ### Inbound -/

@[simp] theorem putInbound_canonical (pa : Nat) (data : List Byte) (s : State) (h : Claims.canonical s) : Claims.canonical (putInbound pa data s) := by
  refine canonical_foldl (canonical_foldl h fun u x hu => ?_) (by simp +contextual)
  split
  split
  · exact (wrByte_canonical _ _ u).2 hu
  · exact hu

theorem passRead_canonical (pa n : Nat) (s : State) (h : Claims.canonical s) : Claims.canonical (passRead pa n s).state := by
  unfold passRead
  split
  · exact h
  · extract_lets ls
    split <;> simp [Pass.state, h]

theorem passWrite_canonical (pa : Nat) (data : List Byte) (s : State) (h : Claims.canonical s) : Claims.canonical (passWrite pa data s).state := by
  unfold passWrite
  split
  · simp [Pass.state, h]
  · extract_lets sts
    split
    · refine canonical_foldl (s := s) h fun u r hu => ?_
      split <;> simp [hu]
    · exact putInbound_canonical _ _ s h

theorem passAdd_canonical (pa n fl : Nat) (s : State) (h : Claims.canonical s) : Claims.canonical (passAdd pa n fl s).state := by
  unfold passAdd
  (repeat' split) <;> simp [Pass.state, h]

theorem passReads_canonical : ∀ (l : List Inb) (ws : List Nat) (s : State), Claims.canonical s → Claims.canonical (passReads ws l s).2
  | [], _, _, h => h
  | e :: t, ws, s, h => by
    unfold passReads
    split
    next l pa n =>
      have hr := passRead_canonical pa n s h
      split
      · exact passReads_canonical t ws s h
      · split
        next u he =>
          rw [he] at hr
          exact passReads_canonical t ws u hr
        next u he =>
          rw [he] at hr
          exact passReads_canonical t ws u hr
    next => exact passReads_canonical t _ s h

theorem passWrites_canonical : ∀ (l : List Inb) (s : State), Claims.canonical s → Claims.canonical (passWrites l s).2
  | [], _, h => h
  | e :: t, s, h => by
    unfold passWrites
    extract_lets go
    have hgo (p : Pass) (hp : Claims.canonical p.state) : Claims.canonical (go p).2 := by
      unfold go
      cases p with
      | done u => exact passWrites_canonical t u hp
      | wait u => exact hp
    clear_value go
    split
    · exact hgo _ (passWrite_canonical _ _ s h)
    · exact hgo _ (passAdd_canonical _ _ _ s h)
    · exact passWrites_canonical t s h

@[simp] theorem pump_canonical (s : State) (h : Claims.canonical s) : Claims.canonical (pump s) := by
  unfold pump
  have hw := passReads_canonical (passWrites s.host.inq s).1 [] _ (passWrites_canonical s.host.inq s h)
  rw [← Prod.eta (passWrites _ _)]
  dsimp only
  rw [← Prod.eta (passReads _ _ _)]
  dsimp only
  split
  · exact canonical_iff.2 (canonical_iff.1 hw)
  · exact (again_canonical ..).2 (canonical_iff.2 (canonical_iff.1 hw))

@[simp] theorem enterInb_canonical (e : Inb) (s : State) (h : Claims.canonical s) : Claims.canonical (enterInb e s) := by
  simp +contextual [enterInb, h]

@[simp] theorem execInboundWrite_canonical (link : Nat) (off : BitVec 36) (data : List Byte) (s : State) (h : Claims.canonical s) :
    Ends Claims.canonical (execInboundWrite link off data s) := by
  simp [execInboundWrite, h]

@[simp] theorem execBar2Read_canonical (link : Nat) (off : BitVec 36) (n : Nat) (s : State) (h : Claims.canonical s) :
    Ends Claims.canonical (execBar2Read link off n s) := by
  simp [execBar2Read, h]

@[simp] theorem hostAdd_canonical (n fl : Nat) (s : State) (h : Claims.canonical s) : Claims.canonical (hostAdd n fl s) := by
  simp +contextual [hostAdd, h]

@[simp] theorem execHostCounterAdd_canonical (amt fl : BitVec 32) (s : State) (h : Claims.canonical s) :
    Ends Claims.canonical (execHostCounterAdd amt fl s) := by
  simp [execHostCounterAdd, h]

@[simp] theorem invalidate_canonical (d : Nat) (s : State) (h : Claims.canonical s) : Claims.canonical (invalidate d s) := by
  unfold invalidate
  extract_lets size b v
  split
  · simp [h]
  · have ho : OthersCanonical (s.others.map (dropTlb v)) := othersCanonical_map (canonical_others h) fun _ hc => hc
    have hc : Claims.coreCanonical (dropTlb v s.core) := canonical_core h
    simp [h, ho, hc]

@[simp] theorem execInvalidation_canonical (d : BitVec 256) (s : State) (h : Claims.canonical s) : Ends Claims.canonical (execInvalidation d s) := by
  simp [execInvalidation, h]

@[simp] theorem addCnt_canonical (ctr : Nat) (s : State) : Claims.canonical (addCnt ctr s) ↔ Claims.canonical s := by
  unfold addCnt
  split <;> simp

@[simp] theorem execInvalidationDone_canonical (ctr : Nat) (s : State) (h : Claims.canonical s) :
    Ends Claims.canonical (execInvalidationDone ctr s) := by
  unfold execInvalidationDone
  split <;> simp [h]

/-- The lock bits of a page are set or cleared one by one. -/
@[simp] theorem lockPage_canonical (d : Nat) (s : State) (h : Claims.canonical s) : Claims.canonical (lockPage d s) := by
  unfold lockPage
  split
  · simp [h]
  · have hl (b : Bool) (gs : List Nat) : BitsOk (gs.foldl (fun m g => SMap.set false m g b) s.locks) :=
      SMap.wf_foldl gs (canonical_locks h) fun m g hm => SMap.wf_set g b hm
    simp [h, hl]

@[simp] theorem execPageLock_canonical (d : BitVec 128) (s : State) (h : Claims.canonical s) : Ends Claims.canonical (execPageLock d s) := by
  simp [execPageLock, h]

@[simp] theorem execPageUnlock_canonical (d : BitVec 128) (s : State) (h : Claims.canonical s) : Ends Claims.canonical (execPageUnlock d s) := by
  simp [execPageUnlock, h]

@[simp] theorem execLockDone_canonical (ctr : Nat) (s : State) (h : Claims.canonical s) : Ends Claims.canonical (execLockDone ctr s) := by
  unfold execLockDone
  dsimp only
  (repeat' split) <;> simp [h]

@[simp] theorem setWatch_canonical (i : Nat) (w : Watch) (s : State) : Claims.canonical (setWatch i w s) ↔ Claims.canonical s := by
  simp [setWatch]

@[simp] theorem armWatch_canonical (i : Nat) (w : Watch) (s : State) : Claims.canonical (armWatch i w s) ↔ Claims.canonical s := by
  simp [armWatch]

@[simp] theorem watchWrite_canonical (i : Nat) (w : Word) (s : State) : Claims.canonical (watchWrite i w s) ↔ Claims.canonical s := by
  simp [watchWrite]

@[simp] theorem execCounterWatch_canonical (i : Nat) (w : Word) (s : State) (h : Claims.canonical s) :
    Ends Claims.canonical (execCounterWatch i w s) := by
  simp [execCounterWatch, h]

/-! ### Landings -/

@[simp] theorem landKind_canonical (spad : Bool) (s : State) (h : Claims.canonical s) : Claims.canonical (landKind spad s) := by
  unfold landKind
  dsimp only
  split
  · exact h
  · split <;> simp [h]

@[simp] theorem execResultLands_canonical (c : CoreId) (s : State) (h : Claims.canonical s) : Ends Claims.canonical (execResultLands c s) :=
  ends_next.2 (atCore_canonical h (landKind_canonical false))

@[simp] theorem execScratchpadWriteLands_canonical (c : CoreId) (s : State) (h : Claims.canonical s) :
    Ends Claims.canonical (execScratchpadWriteLands c s) :=
  ends_next.2 (atCore_canonical h (landKind_canonical true))

@[simp] theorem landV_canonical (v : VRes) (x : BitVec 256) (s : State) : Claims.canonical (landV v x s) ↔ Claims.canonical s := by
  refine mapSt_canonical fun t => ?_
  dsimp only
  split <;> split <;> simp

@[simp] theorem execVariableLatencyResult_canonical (c : CoreId) (k : Nat) (s : State) (h : Claims.canonical s) :
    Ends Claims.canonical (execVariableLatencyResult c k s) := by
  refine ends_next.2 (atCore_canonical h fun u hu => ?_)
  (repeat' split) <;> simp [hu]

@[simp] theorem landImg_canonical (i : Img) (s : State) (h : Claims.canonical s) : Claims.canonical (landImg i s) := by
  have hm := landMcs_canonical s h
  unfold landImg
  extract_lets u bits v
  have hv : Claims.canonical v := mapCore_keepsMaps hm (writeScratch_canonical _ _ (canonical_core hm))
  simp [hv]

@[simp] theorem execImageLanding_canonical (c : CoreId) (k : Nat) (s : State) (h : Claims.canonical s) :
    Ends Claims.canonical (execImageLanding c k s) := by
  refine ends_next.2 (atCore_canonical h fun u hu => ?_)
  split <;> simp [hu]

@[simp] theorem execMatrixEngineExecute_canonical (c : CoreId) (s : State) (h : Claims.canonical s) :
    Ends Claims.canonical (execMatrixEngineExecute c s) := by
  simp +contextual [execMatrixEngineExecute, h]

@[simp] theorem execSplineArrayExecute_canonical (c : CoreId) (s : State) (h : Claims.canonical s) :
    Ends Claims.canonical (execSplineArrayExecute c s) := by
  simp +contextual [execSplineArrayExecute, h]

@[simp] theorem wakePipes_canonical (s : State) : Claims.canonical (wakePipes s) ↔ Claims.canonical s := by
  simp [wakePipes]

@[simp] theorem debugGo_canonical (s : State) : Claims.canonical (debugGo s) ↔ Claims.canonical s := by
  unfold debugGo
  split <;> simp

@[simp] theorem execDebugRestart_canonical (c : CoreId) (s : State) (h : Claims.canonical s) : Ends Claims.canonical (execDebugRestart c s) := by
  simp [execDebugRestart, h]

@[simp] theorem execDbgctlWrite_canonical (c : CoreId) (w : Word) (s : State) (h : Claims.canonical s) :
    Ends Claims.canonical (execDbgctlWrite c w s) := by
  simp +contextual [execDbgctlWrite, h]

/-! ### Lifecycle -/

@[simp] theorem settleForReset_canonical (s : State) (h : Claims.canonical s) : Claims.canonical (settleForReset s) := by
  unfold settleForReset
  extract_lets k u
  have hu : Claims.canonical u := focus_canonical k (canonical_foldl h fun v c hv => finishApplies_canonical 128 _ (focus_canonical c hv))
  refine canonical_foldl hu fun v x hv => ?_
  split <;> simp [hv]

theorem resetCore_canonical (c : Core) : Claims.coreCanonical (resetCore c) := coreInit_canonical c.id

theorem othersReset_canonical (cs : List Core) : OthersCanonical (cs.map resetCore) :=
  List.forall_mem_map.2 fun c _ => resetCore_canonical c

@[simp] theorem warmReset_canonical (s : State) (h : Claims.canonical s) : Claims.canonical (warmReset s) := by
  unfold warmReset
  extract_lets u
  have hu : Claims.canonical u := by simp [u, h]
  clear_value u
  refine pump_canonical _ ?_
  simp [hu, resetCore_canonical, Sched.init]

@[simp] theorem execWarmReset_canonical (s : State) (h : Claims.canonical s) : Ends Claims.canonical (execWarmReset s) := by
  simp [execWarmReset, h]

@[simp] theorem execColdReset_canonical (s : State) : Ends Claims.canonical (execColdReset s) := by
  have hr := canonical_iff.1 reset_canonical
  have hu : Claims.canonical { State.reset with free := s.free + 1, nextId := s.nextId, agenda := s.agenda.filter fun d => fromOutside d.act } :=
    canonical_iff.2 ⟨hr.1, hr.2.1, hr.2.2.1, hr.2.2.2.1, hr.2.2.2.2.1, hr.2.2.2.2.2.1, idsDistinct_nil s.nextId⟩
  unfold execColdReset
  exact ends_next.2 (canonical_ite.2 (by
    split
    · exact hu
    · exact canonical_iff.2 (canonical_iff.1 hu)))

@[simp] theorem setPart_canonical (off : Nat) (w : Word) (s : State) : Claims.canonical (setPart off w s) ↔ Claims.canonical s := by
  simp [setPart]

@[simp] theorem msixWrite_canonical (k : Nat) (w : Word) (s : State) : Claims.canonical (msixWrite k w s) ↔ Claims.canonical s := by
  simp [msixWrite]

@[simp] theorem bar0Write_canonical (o : Nat) (w : Word) (s : State) (h : Claims.canonical s) : Ends Claims.canonical (bar0Write o w s) := by
  simp [bar0Write, h]

@[simp] theorem execRegisterWrite_canonical (off : BitVec 16) (w : Word) (s : State) (h : Claims.canonical s) :
    Ends Claims.canonical (execRegisterWrite off w s) := by
  simp [execRegisterWrite, h]

@[simp] theorem byAbavas_canonical {f : State → State} {s : State} (h : Claims.canonical s) (hf : ∀ s, Claims.canonical s → Claims.canonical (f s)) :
    Ends Claims.canonical (byAbavas f s) := by
  simp [byAbavas, h, hf]

@[simp] theorem execAbavasTakeover_canonical (s : State) (h : Claims.canonical s) : Ends Claims.canonical (execAbavasTakeover s) := by
  simp [execAbavasTakeover, h]

@[simp] theorem execThrottling_canonical (s : State) (h : Claims.canonical s) : Ends Claims.canonical (execThrottling s) := by
  simp +contextual [execThrottling, h]

@[simp] theorem execThrottlingEnd_canonical (s : State) (h : Claims.canonical s) : Ends Claims.canonical (execThrottlingEnd s) := by
  simp [execThrottlingEnd, h]

@[simp] theorem execAbavasMailboxMessage_canonical (m : Word) (s : State) (h : Claims.canonical s) :
    Ends Claims.canonical (execAbavasMailboxMessage m s) := by
  simp -implicitDefEqProofs [execAbavasMailboxMessage, h]

@[simp] theorem setOut_canonical (o : SpdmOut) (s : State) : Claims.canonical (setOut o s) ↔ Claims.canonical s := by
  simp [setOut]

@[simp] theorem freeBytes_canonical (n : Nat) (s : State) : Claims.canonical (freeBytes n s).2 ↔ Claims.canonical s := by
  simp [freeBytes]

@[simp] theorem respond_canonical (s : State) : Claims.canonical (respond s) ↔ Claims.canonical s := by
  simp [respond]

@[simp] theorem execGetVersion_canonical (s : State) (h : Claims.canonical s) : Ends Claims.canonical (execGetVersion s) := by
  simp [execGetVersion, h]

@[simp] theorem execGetCapabilities_canonical (s : State) (h : Claims.canonical s) : Ends Claims.canonical (execGetCapabilities s) := by
  simp [execGetCapabilities, h]

@[simp] theorem execNegotiateAlgorithms_canonical (algs : BitVec 64) (s : State) (h : Claims.canonical s) :
    Ends Claims.canonical (execNegotiateAlgorithms algs s) := by
  simp [execNegotiateAlgorithms, h]

@[simp] theorem execGetDigests_canonical (s : State) (h : Claims.canonical s) : Ends Claims.canonical (execGetDigests s) := by
  simp [execGetDigests, h]

@[simp] theorem execGetCertificate_canonical (slot : BitVec 8) (off len : BitVec 16) (s : State) (h : Claims.canonical s) :
    Ends Claims.canonical (execGetCertificate slot off len s) := by
  simp [execGetCertificate, h]

@[simp] theorem execChallenge_canonical (_slot : BitVec 8) (_nonce : BitVec 256) (s : State) (h : Claims.canonical s) :
    Ends Claims.canonical (execChallenge _slot _nonce s) := by
  simp [execChallenge, h]

@[simp] theorem execGetMeasurements_canonical (idx : BitVec 8) (s : State) (h : Claims.canonical s) :
    Ends Claims.canonical (execGetMeasurements idx s) := by
  simp [execGetMeasurements, h]

/-! ### LoadStore -/

@[simp] theorem ldOp_keepsMaps (f : LS) (s : State) (h : Claims.canonical s) : KeepsMaps id (ldOp f s) := by
  simp +contextual [ldOp, h]

@[simp] theorem stOp_keepsMaps (f : LS) (s : State) (h : Claims.canonical s) : KeepsMaps id (stOp f s) := by
  simp +contextual [stOp, h]

@[simp] theorem produceAt_canonical (rd : BitVec 6) (v : Word) (at_ : Nat) (s : State) (h : Claims.canonical s) :
    Claims.canonical (produceAt rd v at_ s) := by
  simp [produceAt, h]

@[simp] theorem sldOp_keepsMaps (f : LS) (s : State) (h : Claims.canonical s) : KeepsMaps id (sldOp f s) := by
  simp +contextual [sldOp, h]

@[simp] theorem sstOp_keepsMaps (f : LS) (s : State) (h : Claims.canonical s) : KeepsMaps id (sstOp f s) := by
  simp [sstOp, h]

@[simp] theorem sfeOp_keepsMaps (f : LS) (s : State) (h : Claims.canonical s) : KeepsMaps id (sfeOp f s) := by
  simp [sfeOp, h]

@[simp] theorem dpopOp_keepsMaps (f : LS) (s : State) (h : Claims.canonical s) : KeepsMaps id (dpopOp f s) := by
  simp +contextual [dpopOp, h]

@[simp] theorem tmrdOp_keepsMaps (f : LS) (s : State) (h : Claims.canonical s) : KeepsMaps id (tmrdOp f s) := by
  simp +contextual [tmrdOp, h]

@[simp] theorem wmrdOp_keepsMaps (f : LS) (s : State) (h : Claims.canonical s) : KeepsMaps id (wmrdOp f s) := by
  simp +contextual [wmrdOp, h]

@[simp] theorem prefOp_keepsMaps (f : LS) (s : State) (h : Claims.canonical s) : KeepsMaps id (prefOp f s) := by
  simp [prefOp, h]

@[simp] theorem wmcOp_keepsMaps (f : LS) (s : State) (h : Claims.canonical s) : KeepsMaps id (wmcOp f s) := by
  simp +contextual [wmcOp, h]

/-! ### Matrix -/

@[simp] theorem bankStatus_canonical (bk : Nat) (f : Bank → Bank) (s : State) : Claims.canonical (bankStatus bk f s) ↔ Claims.canonical s := by
  simp [bankStatus]

@[simp] theorem rankOp_keepsMaps (clear block : Bool) (f : MA) (s : State) (h : Claims.canonical s) :
    KeepsMaps id (rankOp clear block f s) := by
  simp +contextual [rankOp, h]

@[simp] theorem clearOp_keepsMaps (op : EOp) (block : Bool) (bk : Nat) (s : State) (h : Claims.canonical s) :
    KeepsMaps id (clearOp op block bk s) := by
  simp [clearOp, h]

@[simp] theorem mdrainOp_keepsMaps (f : MA) (s : State) (h : Claims.canonical s) : KeepsMaps id (mdrainOp f s) := by
  simp [mdrainOp, h]

@[simp] theorem mloadOp_keepsMaps (f : MA) (s : State) (h : Claims.canonical s) : KeepsMaps id (mloadOp f s) := by
  simp +contextual [mloadOp, h]

@[simp] theorem msaveOp_keepsMaps (f : MA) (s : State) (h : Claims.canonical s) : KeepsMaps id (msaveOp f s) := by
  simp [msaveOp, h]

@[simp] theorem mlendOp_keepsMaps (f : MA) (s : State) (h : Claims.canonical s) : KeepsMaps id (mlendOp f s) := by
  simp [mlendOp, h]

@[simp] theorem mreclOp_keepsMaps (f : MA) (s : State) (h : Claims.canonical s) : KeepsMaps id (mreclOp f s) := by
  simp [mreclOp, h]

@[simp] theorem mrealnOp_keepsMaps (f : MA) (s : State) (h : Claims.canonical s) : KeepsMaps id (mrealnOp f s) := by
  simp [mrealnOp, h]

/-! ### Scalar -/

@[simp] theorem alu2_keepsMaps (cls : Nat) (op : Word → Word → Word) (f : SR) (s : State) (h : Claims.canonical s) :
    KeepsMaps id (alu2 cls op f s) := by
  simp [alu2, h]

@[simp] theorem alu1_keepsMaps (op : Word → Word) (f : SR) (s : State) (h : Claims.canonical s) : KeepsMaps id (alu1 op f s) := by
  simp [alu1, h]

@[simp] theorem aluI_keepsMaps (op : Word → Word → Word) (f : SI) (s : State) (h : Claims.canonical s) :
    KeepsMaps id (aluI op f s) := by
  simp [aluI, h]

@[simp] theorem divide_keepsMaps (op : Word → Word → Word) (f : SR) (s : State) (h : Claims.canonical s) :
    KeepsMaps id (divide op f s) := by
  simp [divide, h]

@[simp] theorem selOp_keepsMaps (f : SR) (s : State) (h : Claims.canonical s) : KeepsMaps id (selOp f s) := by
  simp [selOp, h]

@[simp] theorem extOp_keepsMaps (f : SF) (s : State) (h : Claims.canonical s) : KeepsMaps id (extOp f s) := by
  simp [extOp, h]

@[simp] theorem insOp_keepsMaps (f : SF) (s : State) (h : Claims.canonical s) : KeepsMaps id (insOp f s) := by
  simp [insOp, h]

@[simp] theorem leaOp_keepsMaps (f : SL) (s : State) (h : Claims.canonical s) : KeepsMaps id (leaOp f s) := by
  simp [leaOp, h]

/-! ### Spline -/

@[simp] theorem knsetOp_keepsMaps (f : MA) (s : State) (h : Claims.canonical s) : KeepsMaps id (knsetOp f s) := by
  simp [knsetOp, h]

@[simp] theorem kngetOp_canonical (f : MA) (s : State) : Claims.canonical (kngetOp f s) ↔ Claims.canonical s := by
  simp [kngetOp]

@[simp] theorem splldOp_keepsMaps (f : MA) (s : State) (h : Claims.canonical s) : KeepsMaps id (splldOp f s) := by
  simp +contextual [splldOp, h]

@[simp] theorem splstOp_keepsMaps (op : Nat → Nat → Option Nat → SOp) (n : Nat) (f : MA) (s : State) (h : Claims.canonical s) :
    KeepsMaps id (splstOp op n f s) := by
  simp [splstOp, h]

@[simp] theorem src16_keepsMaps (sel : BitVec 6) (ty : Nat) (s : State) (h : Claims.canonical s) :
    KeepsMaps Prod.snd (src16 sel ty s) := by
  simp +contextual [src16, h]

@[simp] theorem splevOp_keepsMaps (f : MA) (s : State) (h : Claims.canonical s) : KeepsMaps id (splevOp f s) := by
  simp +contextual [splevOp, h]

@[simp] theorem splbwdOp_keepsMaps (f : MA) (s : State) (h : Claims.canonical s) : KeepsMaps id (splbwdOp f s) := by
  simp +contextual [splbwdOp, h]

@[simp] theorem splgsOp_keepsMaps (f : MA) (s : State) (h : Claims.canonical s) : KeepsMaps id (splgsOp f s) := by
  simp +contextual [splgsOp, h]

@[simp] theorem splgzOp_keepsMaps (s : State) (h : Claims.canonical s) : KeepsMaps id (splgzOp s) := by
  simp [splgzOp, h]

@[simp] theorem gridrefOp_keepsMaps (s : State) (h : Claims.canonical s) : KeepsMaps id (gridrefOp s) := by
  simp [gridrefOp, h]

@[simp] theorem splcntOp_keepsMaps (f : MA) (s : State) (h : Claims.canonical s) : KeepsMaps id (splcntOp f s) := by
  simp [splcntOp, h]

/-! ### Tiles -/

@[simp] theorem readTile_keepsMaps (t : TileArgs) (s : State) (h : Claims.canonical s) : KeepsMaps Prod.snd (readTile t s) := by
  simp +contextual [readTile, h]

@[simp] theorem issueImg_canonical (off : Nat) (full : Bool) (l : List (Vec × Flags)) (s : State) (h : Claims.canonical s) :
    Claims.canonical (issueImg off full l s) := by
  induction l generalizing off s with
  | nil => exact h
  | cons e t ih =>
    exact ih (off + 64) _ ((due_canonical ..).2 ((freeDelay_canonical _).2 ((mapSt_canonical (by simp)).2 (freshId_canonical h))))

@[simp] theorem gldOp_keepsMaps (f : LS) (s : State) (h : Claims.canonical s) : KeepsMaps id (gldOp f s) := by
  refine keepsMaps_gather.2 (keepsMaps_bind.2 fun t _ => keepsMaps_bind.2 fun o _ => keepsMaps_bind.2 fun _ _ => keepsMaps_bind.2 fun _ _ =>
    (keepsMaps_bind_state ?_).2 fun r u hu _ => ?_)
  · split
    · simp +contextual [h]
    · simp [h]
  · refine (keepsMaps_bind_state (keepsMaps_liftMem.2 (readTile_keepsMaps _ u hu))).2 fun b v hv _ => keepsMaps_bind.2 fun _ _ => ?_
    dsimp only
    split
    · simp
    · simp [hv]

@[simp] theorem gldrOp_keepsMaps (f : LS) (s : State) (h : Claims.canonical s) : KeepsMaps id (gldrOp f s) := by
  simp +contextual [gldrOp, h]

theorem blockPieces_canonical (wm : Option Nat) (bs : List Blk) (s : State) (h : Claims.canonical s) :
    Claims.canonical (blockPieces wm bs s).2 ∧ HeldBins (blockPieces wm bs s).1.2 := by
  induction bs generalizing s with
  | nil => exact ⟨h, heldBins_nil⟩
  | cons b t ih =>
    unfold blockPieces
    split
    next => exact ih s h
    next he =>
      obtain ⟨hu, hp⟩ := ih _ (coreXlate_keepsMaps h _ he)
      exact ⟨hu, heldBins_cons.2 ⟨rfl, hp⟩⟩

@[simp] theorem holdTile_keepsMaps (t : TileArgs) (wm : Option Nat) {hist : Option (Nat × List Nat)} (bs : List Blk)
    {s : State} (h : Claims.canonical s) (hb : ∀ pa ks, hist = some (pa, ks) → ∀ b ∈ ks, b < 34) :
    KeepsMaps id (holdTile t wm hist bs s) := by
  unfold holdTile
  extract_lets bs extra
  have hp := blockPieces_canonical wm bs s h
  generalize blockPieces wm bs s = x at hp ⊢
  obtain ⟨⟨es, ps⟩, u⟩ := x
  obtain ⟨hu, hp⟩ := hp
  dsimp only at hu hp ⊢
  split
  · simp
  · have hs : HeldBins (u.core.held ++ ps) := heldBins_append.2 ⟨canonical_held hu, hp⟩
    refine setHeld_keepsMaps _ u hu ?_
    split
    next pa ks => exact addHist_bins pa (hb pa ks rfl) hs
    next => exact hs

@[simp] theorem gstOp_keepsMaps (f : LS) (s : State) (h : Claims.canonical s) : KeepsMaps id (gstOp f s) := by
  refine keepsMaps_gather.2 (keepsMaps_bind.2 fun t _ => keepsMaps_bind.2 fun _ _ =>
    (keepsMaps_bind_state ?_).2 fun r u hu _ => keepsMaps_bind.2 fun _ _ => (keepsMaps_bind_state (srcVec_keepsMaps _ _ u hu)).2 fun v w hw _ => ?_)
  · split
    · simp +contextual [h]
    · simp [h]
  · dsimp only
    refine (keepsMaps_bind_self (holdTile_keepsMaps _ _ _ (by simp [hw]) fun pa ks hk b hb => ?_)).2 fun x hx _ => ?_
    · obtain ⟨q, _, hq⟩ := Option.map_eq_some_iff.1 hk
      cases hq
      obtain ⟨p, _, hp⟩ := List.mem_filterMap.1 hb
      split at hp
      · cases hp
        exact binOf_lt _ _ _
      · cases hp
    · simp [hx]

@[simp] theorem gstrOp_keepsMaps (f : LS) (s : State) (h : Claims.canonical s) : KeepsMaps id (gstrOp f s) := by
  refine keepsMaps_gather.2 (keepsMaps_bind.2 fun t _ => keepsMaps_bind.2 fun _ _ =>
    (keepsMaps_bind_state ?_).2 fun r u hu _ => keepsMaps_bind.2 fun _ _ => (keepsMaps_bind_state (srcVec_keepsMaps _ _ u hu)).2 fun v w hw _ =>
      holdTile_keepsMaps _ _ _ hw (by simp))
  split
  · simp +contextual [h]
  · simp [h]

/-! ### Bundle -/

@[simp] theorem doEnd_canonical (e : EndAct) {s : State} (h : Claims.canonical s) : Claims.canonical (doEnd s e) := by
  cases e with
  | syswr n v =>
    unfold doEnd
    dsimp only
    split
    case h_2 =>
      refine (mapSt_canonical fun t => ?_).2 h
      split <;> rfl
    all_goals simp [h]
  | produce v =>
    refine Iff.mpr (mapSt_canonical fun t => ?_) h
    rfl
  | clear gs => exact mapCore_keepsMaps h (writeScratch_canonical _ _ (canonical_core h))
  | pcfg | pset | knset | flags => simp [doEnd, h]

@[simp] theorem finishBundle_canonical (s : State) (h : Claims.canonical s) : Claims.canonical (finishBundle s) := by
  unfold finishBundle
  extract_lets c u v w x y
  have hu : Claims.canonical u := (orFlags_canonical ..).2 (canonical_foldl (firstBundle_canonical s h) fun _ e hs => doEnd_canonical e hs)
  have hv : Claims.canonical v := (mapSt_canonical fun t => by dsimp only; split <;> rfl).2 hu
  have hw : Claims.canonical w := (mapCore_canonical (by simp)).2 hv
  clear_value w
  have hx : Claims.canonical x := by
    unfold x
    split <;> simp [hw]
  clear_value x
  have hy : Claims.canonical y := by
    unfold y
    split <;> simp [hx]
  exact hy

@[simp] theorem fetchBundle_keepsMaps (s : State) (h : Claims.canonical s) : KeepsMaps Prod.snd (fetchBundle s) := by
  simp +contextual [fetchBundle, h]

@[simp] theorem idleTurn_canonical (s : State) (h : Claims.canonical s) : Claims.canonical (idleTurn s) := by
  simp +contextual [idleTurn, h]

/-! ### Instructions, events and steps -/

/-- An issue keeps the canonical form when its effect does: a wait marks the bundle only, and a trap rolls the region back. -/
theorem issue_keepsMaps {s : State} {r : Res State} (h : Claims.canonical s) (hr : KeepsMaps id r) : Ends Claims.canonical (issue s r) := by
  rw [issue_eq]
  rcases close_cases finishSaves s r with ⟨t, ht, e⟩ | ⟨-, e⟩ | ⟨_, -, e⟩ | ⟨-, e⟩ | ⟨c, -, e⟩ <;> rw [e, ends_next]
  · exact hr t ht
  · exact h
  · exact canonical_iff.2 (canonical_iff.1 h)
  · exact h
  · exact takeTrap_canonical c h

/-- Every slot instruction keeps the canonical form as it issues (01 R17, R23). -/
theorem exec_slot_canonical {i : Instr} {k : Nat} {s : State} (h : Claims.canonical s) (hi : i.slot = some k) :
    Ends Claims.canonical (exec i s) := by
  cases i with
  | add f | sub f | mul f | mulh f | mulhu f | and f | or f | xor f | shl f | shr f | sar f | min f | max f | minu f
  | maxu f | ceq f | cne f | clt f | cle f | cltu f | cleu f => exact issue_keepsMaps h (alu2_keepsMaps _ _ _ _ h)
  | div f | divu f | rem f | remu f => exact issue_keepsMaps h (divide_keepsMaps _ _ _ h)
  | clz f | popc f => exact issue_keepsMaps h (alu1_keepsMaps _ _ _ h)
  | sel f => exact issue_keepsMaps h (selOp_keepsMaps _ _ h)
  | addi f | andi f | ori f | xori f | shli f | shri f | sari f | movhi f | ceqi f | clti f => exact issue_keepsMaps h (aluI_keepsMaps _ _ _ h)
  | movi f => exact ends_next.2 ((writeS_canonical ..).2 h)
  | jmp f => exact ends_next.2 ((takeJump_canonical ..).2 h)
  | call f => exact ends_next.2 ((callOp_canonical ..).2 h)
  | halt => exact ends_next.2 ((mapCtx_canonical ..).2 h)
  | spld f => exact ends_next.2 ((spldOp_canonical ..).2 h)
  | sysrd f => exact ends_next.2 ((sysrdOp_canonical ..).2 h)
  | capq f => exact ends_next.2 ((capqOp_canonical ..).2 h)
  | pget f => exact ends_next.2 ((pgetOp_canonical ..).2 h)
  | knget f => exact ends_next.2 ((kngetOp_canonical ..).2 h)
  | yield => exact ends_next.2 ((mapCtx_canonical ..).2 h)
  | lea f => exact issue_keepsMaps h (leaOp_keepsMaps _ _ h)
  | ext f => exact issue_keepsMaps h (extOp_keepsMaps _ _ h)
  | ins f => exact issue_keepsMaps h (insOp_keepsMaps _ _ h)
  | br f | brZ f => exact issue_keepsMaps h (branchIf_keepsMaps _ _ _ h)
  | jr f => exact issue_keepsMaps h (jrOp_keepsMaps _ _ h)
  | loop f => exact issue_keepsMaps h (loopOp_keepsMaps _ _ h)
  | loopi f => exact issue_keepsMaps h (pushLoop_keepsMaps _ _ _ h)
  | lbrk => exact issue_keepsMaps h (lbrkOp_keepsMaps _ h)
  | lidx f => exact issue_keepsMaps h (lidxOp_keepsMaps _ _ h)
  | trap f => exact issue_keepsMaps h (keepsMaps_raise _ _ _ _)
  | eret => exact issue_keepsMaps h (eretOp_keepsMaps _ h)
  | spst f => exact issue_keepsMaps h (spstOp_keepsMaps _ _ h)
  | syswr f => exact issue_keepsMaps h (syswrOp_keepsMaps _ _ h)
  | hld f => exact issue_keepsMaps h (hldOp_keepsMaps _ _ h)
  | hst f => exact issue_keepsMaps h (hstOp_keepsMaps _ _ h)
  | hset f => exact issue_keepsMaps h (hsetOp_keepsMaps _ _ h)
  | hget f => exact issue_keepsMaps h (hgetOp_keepsMaps _ _ h)
  | hmov f => exact issue_keepsMaps h (hmovOp_keepsMaps _ _ h)
  | pcfg f => exact issue_keepsMaps h (pcfgOp_keepsMaps _ _ h)
  | pset f => exact issue_keepsMaps h (psetOp_keepsMaps _ _ h)
  | vadd f | vsub f | vmul f | vmax f | vmin f => exact issue_keepsMaps h (arith2_keepsMaps _ _ _ _ _ h)
  | vfma f | vfms f => exact issue_keepsMaps h (arith3_keepsMaps _ _ _ h)
  | vabs f | vneg f => exact issue_keepsMaps h (arith1_keepsMaps _ _ _ _ h)
  | vrcp f | vrsq f | vexp2 f | vlog2 f | vtanh f => exact issue_keepsMaps h (trans_keepsMaps _ _ _ h)
  | vand f | vor f | vxor f => exact issue_keepsMaps h (bitOp_keepsMaps _ _ _ h)
  | vshl f | vshr f | vsar f => exact issue_keepsMaps h (shiftOp_keepsMaps _ _ _ h)
  | vceq f | vclt f | vcle f => exact issue_keepsMaps h (cmpOp_keepsMaps _ _ _ _ h)
  | vsel f => exact issue_keepsMaps h (vselOp_keepsMaps _ _ h)
  | vcvt f => exact issue_keepsMaps h (vcvtOp_keepsMaps _ _ h)
  | vqnt f => exact issue_keepsMaps h (vqntOp_keepsMaps _ _ h)
  | vdq f => exact issue_keepsMaps h (vdqOp_keepsMaps _ _ h)
  | vsrnd f => exact issue_keepsMaps h (vsrndOp_keepsMaps _ _ h)
  | vscal f => exact issue_keepsMaps h (vscalOp_keepsMaps _ _ h)
  | vredsum f | vredmax f | vredmin f => exact issue_keepsMaps h (redOp_keepsMaps _ _ _ _ h)
  | vbcast f => exact issue_keepsMaps h (vbcastOp_keepsMaps _ _ h)
  | vextr f => exact issue_keepsMaps h (vextrOp_keepsMaps _ _ h)
  | vperm f => exact issue_keepsMaps h (vpermOp_keepsMaps _ _ h)
  | vmov f => exact issue_keepsMaps h (vmovOp_keepsMaps _ _ h)
  | vzero f => exact issue_keepsMaps h (vzeroOp_keepsMaps _ _ h)
  | vacc f | vaccw f => exact issue_keepsMaps h (vaccOp_keepsMaps _ _ _ h)
  | vadam f => exact issue_keepsMaps h (vadamOp_keepsMaps _ _ h)
  | vsgdm f => exact issue_keepsMaps h (vsgdmOp_keepsMaps _ _ h)
  | vbfpn f => exact issue_keepsMaps h (vbfpnOp_keepsMaps _ _ h)
  | mop f | mmac f | mbfp f => exact issue_keepsMaps h (rankOp_keepsMaps _ _ _ _ h)
  | mzero f | mcfg f => exact issue_keepsMaps h (clearOp_keepsMaps _ _ _ _ h)
  | mdrain f => exact issue_keepsMaps h (mdrainOp_keepsMaps _ _ h)
  | mload f => exact issue_keepsMaps h (mloadOp_keepsMaps _ _ h)
  | msave f => exact issue_keepsMaps h (msaveOp_keepsMaps _ _ h)
  | mlend f => exact issue_keepsMaps h (mlendOp_keepsMaps _ _ h)
  | mrecl f => exact issue_keepsMaps h (mreclOp_keepsMaps _ _ h)
  | mrealn f => exact issue_keepsMaps h (mrealnOp_keepsMaps _ _ h)
  | knset f => exact issue_keepsMaps h (knsetOp_keepsMaps _ _ h)
  | splld f => exact issue_keepsMaps h (splldOp_keepsMaps _ _ h)
  | splst f | splgx f => exact issue_keepsMaps h (splstOp_keepsMaps _ _ _ _ h)
  | splev f => exact issue_keepsMaps h (splevOp_keepsMaps _ _ h)
  | splbwd f => exact issue_keepsMaps h (splbwdOp_keepsMaps _ _ h)
  | splgs f => exact issue_keepsMaps h (splgsOp_keepsMaps _ _ h)
  | splgz => exact issue_keepsMaps h (splgzOp_keepsMaps _ h)
  | gridref => exact issue_keepsMaps h (gridrefOp_keepsMaps _ h)
  | splcnt f => exact issue_keepsMaps h (splcntOp_keepsMaps _ _ h)
  | ld f => exact issue_keepsMaps h (ldOp_keepsMaps _ _ h)
  | sld f => exact issue_keepsMaps h (sldOp_keepsMaps _ _ h)
  | gld f => exact issue_keepsMaps h (gldOp_keepsMaps _ _ h)
  | gldr f => exact issue_keepsMaps h (gldrOp_keepsMaps _ _ h)
  | tmrd f => exact issue_keepsMaps h (tmrdOp_keepsMaps _ _ h)
  | wmrd f => exact issue_keepsMaps h (wmrdOp_keepsMaps _ _ h)
  | pref f => exact issue_keepsMaps h (prefOp_keepsMaps _ _ h)
  | st f => exact issue_keepsMaps h (stOp_keepsMaps _ _ h)
  | sst f => exact issue_keepsMaps h (sstOp_keepsMaps _ _ h)
  | gst f => exact issue_keepsMaps h (gstOp_keepsMaps _ _ h)
  | gstr f => exact issue_keepsMaps h (gstrOp_keepsMaps _ _ h)
  | sfe f => exact issue_keepsMaps h (sfeOp_keepsMaps _ _ h)
  | wmc f => exact issue_keepsMaps h (wmcOp_keepsMaps _ _ h)
  | dpop f => exact issue_keepsMaps h (dpopOp_keepsMaps _ _ h)
  | cpy f | cpyg f | cpys f | cpyx f | cpyo f => exact issue_keepsMaps h (cpyOp_keepsMaps _ _ _ _ _ h)
  | cpy2 f => exact issue_keepsMaps h (cpy2Op_keepsMaps _ _ h)
  | cpyr f => exact issue_keepsMaps h (cpyrOp_keepsMaps _ _ h)
  | cpyq f => exact issue_keepsMaps h (cpyqOp_keepsMaps _ _ h)
  | cpyk f => exact issue_keepsMaps h (cpykOp_keepsMaps _ _ h)
  | cadd f | cflg f => exact issue_keepsMaps h (heldCtr_keepsMaps _ _ _ h fun _ _ _ => rfl)
  | caddi f => exact issue_keepsMaps h (caddiOp_keepsMaps _ _ h)
  | cwait f => exact issue_keepsMaps h (cwaitOp_keepsMaps _ _ h)
  | crd f => exact issue_keepsMaps h (crdOp_keepsMaps _ _ h)
  | cceil f => exact issue_keepsMaps h (cceilOp_keepsMaps _ _ h)
  | amadd f | amax f | amin f | aswp f | acas f | aand f | aor f | afadd f => exact issue_keepsMaps h (atomicOp_keepsMaps _ _ _ h)
  | barr f => exact issue_keepsMaps h (barrOp_keepsMaps _ _ h)
  | bwait f => exact issue_keepsMaps h (bwaitOp_keepsMaps _ _ h)
  | barq f => exact issue_keepsMaps h (barqOp_keepsMaps _ _ h)
  | tmopn f | tmcls f | tmflt f => exact issue_keepsMaps h (tmHeld_keepsMaps _ _ _ h)
  | tmgov f => exact issue_keepsMaps h (tmgovOp_keepsMaps _ _ h)
  | tmset f => exact issue_keepsMaps h (tmsetOp_keepsMaps _ _ h)
  | spawn f => exact issue_keepsMaps h (spawnOp_keepsMaps _ _ h)
  | route f => exact issue_keepsMaps h (routeOp_keepsMaps _ _ h)
  | rtver f => exact issue_keepsMaps (rtverKeeps_canonical f s h) (rtverOp_keepsMaps f s h)
  | wgl f => exact issue_keepsMaps h (wglOp_keepsMaps _ _ h)
  | wglq f => exact issue_keepsMaps h (wglqOp_keepsMaps _ _ h)
  | wglk f => exact issue_keepsMaps h (wglkOp_keepsMaps _ _ h)
  | _ => exact nomatch hi

/-- Every instruction, event and step of a collective keeps the canonical form. -/
theorem exec_canonical (i : Instr) (s : State) (h : Claims.canonical s) : Ends Claims.canonical (exec i s) := by
  cases hi : i.slot with
  | some k => exact exec_slot_canonical h hi
  | none =>
    cases i with
    | checkpoint => exact execCheckpoint_canonical s h
    | orderedBundle => exact execOrderedBundle_canonical s h
    | breakpoint => exact execBreakpoint_canonical s h
    | resultLands c => exact execResultLands_canonical c s h
    | variableLatencyResult c k => exact execVariableLatencyResult_canonical c k s h
    | scratchpadWriteLands c => exact execScratchpadWriteLands_canonical c s h
    | imageLanding c k => exact execImageLanding_canonical c k s h
    | multicastLanding k => exact execMulticastLanding_canonical k s h
    | matrixEngineExecute c => exact execMatrixEngineExecute_canonical c s h
    | splineArrayExecute c => exact execSplineArrayExecute_canonical c s h
    | debugRestart c => exact execDebugRestart_canonical c s h
    | grant c line => exact execGrant_canonical c line s h
    | reserve c home => exact execReserve_canonical c home s h
    | renew c line => exact execRenew_canonical c line s h
    | apply c home => exact execApply_canonical c home s h
    | pinTokenGrant => exact execPinTokenGrant_canonical s h
    | stampRaise home => exact execStampRaise_canonical home s h
    | applyAdd ctr va n fl src t => exact execApplyAdd_canonical ctr va n fl src t s h
    | applyCflg ctr b t => exact execApplyCflg_canonical ctr b t s h
    | applyCeil ctr va v src t => exact execApplyCeil_canonical ctr va v src t s h
    | cwaitWake c flags t => exact execCwaitWake_canonical c flags t s h
    | barrierArrival c seg t => exact execBarrierArrival_canonical c seg t s h
    | bwaitReturn c => exact execBwaitReturn_canonical c s h
    | copyLaunchAccept cl => exact execCopyLaunchAccept_canonical cl s h
    | copyPiece op k => exact execCopyPiece_canonical op k s h
    | deltaFlush c slot => exact execDeltaFlush_canonical c slot s h
    | flushRequest c rec => exact execFlushRequest_canonical c rec s h
    | closePublication rec => exact execClosePublication_canonical rec s h
    | launch root => exact execLaunch_canonical root s h
    | schedulerRound => exact execSchedulerRound_canonical s h
    | descriptorFetch rnum => exact execDescriptorFetch_canonical rnum s h
    | dependencyMet tser k flags => exact execDependencyMet_canonical tser k flags s h
    | quantumExpiry tser gix => exact execQuantumExpiry_canonical tser gix s h
    | taskComplete tser => exact execTaskComplete_canonical tser s h
    | faultReport r => exact execFaultReport_canonical r s h
    | migrateTrapReceipt c => exact execMigrateTrapReceipt_canonical c s h
    | spawnAppend rcb desc tser t => exact execSpawnAppend_canonical rcb desc tser t s h
    | schedulerTakeover => exact execSchedulerTakeover_canonical s h
    | dieFault die => exact execDieFault_canonical die s h
    | coreWithdrawn c => exact execCoreWithdrawn_canonical c s h
    | routeChoice k => exact execRouteChoice_canonical k s h
    | routeDelivery k => exact execRouteDelivery_canonical k s h
    | routedAdd k => exact execRoutedAdd_canonical k s h
    | swarmSample tab => exact execSwarmSample_canonical tab s h
    | replicaCopyDone sw => exact execReplicaCopyDone_canonical sw s h
    | replicaCopyStop sw => exact execReplicaCopyStop_canonical sw s h
    | redirection sw => exact execRedirection_canonical sw s h
    | replicaLoss tab e r => exact execReplicaLoss_canonical tab e r s h
    | replica0Loss tab e => exact execReplica0Loss_canonical tab e s h
    | gradientMerge tab => exact execGradientMerge_canonical tab s h
    | waggleLaunch k => exact execWaggleLaunch_canonical k s h
    | signatureAgreement k => exact execSignatureAgreement_canonical k s h
    | wsend f => exact execWsend_canonical f s h
    | wrecv f => exact execWrecv_canonical f s h
    | wrrs f => exact execWrrs_canonical f s h
    | wcopy f => exact execWcopy_canonical f s h
    | wwait thr => exact execWwait_canonical thr s h
    | wsig n => exact execWsig_canonical n s h
    | wloop cnt => exact execWloop_canonical cnt s h
    | wendl => exact execWendl_canonical s h
    | wagree buf off => exact execWagree_canonical buf off s h
    | wflags => exact execWflags_canonical s h
    | wend => exact execWend_canonical s h
    | chunkArrival m => exact execChunkArrival_canonical m s h
    | switchSlotLoss k inst chunk => exact execSwitchSlotLoss_canonical k inst chunk s h
    | waggleAbort tag launch poison => exact execWaggleAbort_canonical tag launch poison s h
    | glodricMessage m => exact execGlodricMessage_canonical m s h
    | glodricPortWithdrawn p => exact execGlodricPortWithdrawn_canonical p s h
    | destinationTimeout m => exact execDestinationTimeout_canonical m s h
    | linkWithdrawn bit => exact execLinkWithdrawn_canonical bit s h
    | bisnpinv line => exact execBisnpinv_canonical line s h
    | bisnpdata line => exact execBisnpdata_canonical line s h
    | bisnpcur line => exact execBisnpcur_canonical line s h
    | snoopPinTimeout line => exact execSnoopPinTimeout_canonical line s h
    | memrdCompletion line r => exact execMemrdCompletion_canonical line r s h
    | memwrCompletion line refused => exact execMemwrCompletion_canonical line refused s h
    | cxlPortDown p => exact execCxlPortDown_canonical p s h
    | linePoisoned line => exact execLinePoisoned_canonical line s h
    | combSramError home => exact execCombSramError_canonical home s h
    | inboundWrite link off data => exact execInboundWrite_canonical link off data s h
    | bar2Read link off n => exact execBar2Read_canonical link off n s h
    | hostCounterAdd amt fl => exact execHostCounterAdd_canonical amt fl s h
    | invalidation d => exact execInvalidation_canonical d s h
    | invalidationDone ctr => exact execInvalidationDone_canonical ctr s h
    | pageLock d => exact execPageLock_canonical d s h
    | pageUnlock d => exact execPageUnlock_canonical d s h
    | lockDone ctr => exact execLockDone_canonical ctr s h
    | counterWatch idx w => exact execCounterWatch_canonical idx w s h
    | registerWrite off w => exact execRegisterWrite_canonical off w s h
    | warmReset => exact execWarmReset_canonical s h
    | coldReset => exact execColdReset_canonical s
    | abavasTakeover => exact execAbavasTakeover_canonical s h
    | throttling => exact execThrottling_canonical s h
    | getVersion => exact execGetVersion_canonical s h
    | getCapabilities => exact execGetCapabilities_canonical s h
    | negotiateAlgorithms algs => exact execNegotiateAlgorithms_canonical algs s h
    | getDigests => exact execGetDigests_canonical s h
    | getCertificate slot off len => exact execGetCertificate_canonical slot off len s h
    | challenge slot nonce => exact execChallenge_canonical slot nonce s h
    | getMeasurements idx => exact execGetMeasurements_canonical idx s h
    | dbgctlWrite c w => exact execDbgctlWrite_canonical c w s h
    | domainTableWrite t => exact execDomainTableWrite_canonical t s h
    | cxlPortReturnToService p => exact execCxlPortReturnToService_canonical p s h
    | throttlingEnd => exact execThrottlingEnd_canonical s h
    | abavasMailboxMessage m => exact execAbavasMailboxMessage_canonical m s h
    | meminvCompletion line => exact execMeminvCompletion_canonical line s h
    | _ => exact nomatch hi

/-- A result of the issue of a bundle, a state handed on or the outcome that ends the issue, is in the canonical form. -/
def CanonicalOn {β : Type} (st : β → State) : Except (Host.Outcome State Fault Refusal) β → Prop
  | .ok b => Claims.canonical (st b)
  | .error o => Ends Claims.canonical o

theorem runSlot_canonical {r : SlotRun} (k : Nat) (w : Word) (i : Instr) (h : Claims.canonical r.cur) : CanonicalOn SlotRun.cur (runSlot r k w i) := by
  have he := exec_canonical i (mapCtx (fun c => { c with slot := k, syl := w }) r.cur) h
  unfold runSlot
  split
  next t ht =>
    rw [ht, ends_next] at he
    split
    · exact withTables_canonical h (canonical_tables he)
    split
    · exact h
    split
    · exact h
    · exact he
  next => exact he

theorem runSlots_canonical (b : Vec) (l : List (Nat × Instr)) {r : SlotRun} (h : Claims.canonical r.cur) :
    CanonicalOn SlotRun.cur (runSlots b l r) := by
  induction l generalizing r with
  | nil => exact h
  | cons e t ih =>
    have hr := runSlot_canonical e.1 (sylOf b e.1) e.2 h
    unfold runSlots
    split
    next u hu =>
      rw [hu] at hr
      exact ih hr
    next o ho =>
      rw [ho] at hr
      exact hr

theorem issueSlots_canonical (b : Vec) (slots : List (Nat × Instr)) {pre s : State} (hp : Claims.canonical pre) (h : Claims.canonical s) :
    Ends Claims.canonical (issueSlots b slots pre s) := by
  have hr := runSlots_canonical b slots (r := ⟨s, none, false, false, s.ptx⟩) h
  unfold issueSlots
  split
  next e =>
    rw [e] at hr
    exact hr
  next r e =>
    rw [e] at hr
    extract_lets done pre best
    have hp : Claims.canonical pre :=
      withTables_canonical hp (tablesCanonical_append.2 ⟨canonical_tables hp, tablesCanonical_filter (canonical_tables hr)⟩)
    clear_value pre best
    split
    · exact ends_next.2 (canonical_iff.2 (canonical_iff.1 hp))
    split
    · exact ends_next.2 (by simpa [done] using rollbackPinned_canonical hp)
    split
    · exact ends_next.2 (by simpa [done] using takeTrap_canonical _ hp)
    · exact ends_next.2 (finishBundle_canonical _ ((mapSt_canonical (by simp)).2 hr))

theorem flagRow_canonical (want : Bool) (i : Instr) {s : State} (h : Claims.canonical s) : CanonicalOn id (flagRow want i s) := by
  have he := exec_canonical i s h
  unfold flagRow
  split
  · exact h
  split
  next e =>
    rw [e, ends_next] at he
    split
    · exact ends_next.2 he
    · exact he
  next => exact he

theorem issueLegal_canonical (b : Vec) (flags : BitVec 4) (slots : List (Nat × Instr)) {s : State} (h : Claims.canonical s) :
    Ends Claims.canonical (issueLegal b flags slots s) := by
  unfold issueLegal
  extract_lets own
  have h1 := flagRow_canonical ((flags.getLsbD 3 || own) && !s.core.st.ckDone) .checkpoint h
  split
  next e =>
    rw [e] at h1
    exact h1
  next t e =>
    rw [e] at h1
    have h2 := flagRow_canonical (flags.getLsbD 2) .orderedBundle h1
    split
    next e =>
      rw [id, e] at h2
      exact h2
    next pre e =>
      rw [id, e] at h2
      have h3 := flagRow_canonical (flags.getLsbD 1) .breakpoint h2
      split
      next e =>
        rw [id, e] at h3
        exact h3
      next e =>
        rw [id, e] at h3
        exact issueSlots_canonical b slots h2 h3

theorem issueFetched_canonical (b : Vec) {s : State} (h : Claims.canonical s) : Ends Claims.canonical (issueFetched b s) := by
  unfold issueFetched
  extract_lets trapAt
  have ht (c : Cause) : Ends Claims.canonical (trapAt c) := ends_next.2 (by simpa using takeTrap_canonical c h)
  clear_value trapAt
  (repeat' split)
  · exact ht _
  · exact ht _
  · exact ht _
  · exact issueLegal_canonical b _ _ h

theorem issueBundle_canonical {s : State} (h : Claims.canonical s) : Ends Claims.canonical (issueBundle s) := by
  unfold issueBundle
  split
  · simp [h]
  · extract_lets c u
    have hu : Claims.canonical u := mapCtx_canonical.2 (landDue_canonical false s h)
    clear_value u
    split
    · simp [hu]
    · exact ends_next.2 (by simp [fetchTrap_canonical, hu])
    next e => exact issueFetched_canonical _ (fetchBundle_keepsMaps u hu _ e)

theorem runDue_canonical (d : Due) {s : State} (h : Claims.canonical s) : Ends Claims.canonical (runDue d s) :=
  ends_ite.2 ⟨fun _ => ends_next.2 h, fun _ => exec_canonical _ _ h⟩

theorem collTurn_canonical (tag : Nat) {s : State} (h : Claims.canonical s) : Ends Claims.canonical (collTurn tag s) := by
  unfold collTurn
  split
  · simp [h]
  split
  · simp [h]
  split
  · exact ends_ite.2 ⟨fun _ => exec_canonical _ _ h, fun _ => ends_next.2 h⟩
  · simp [h]

theorem step_canonical {s : State} (h : Claims.canonical s) : Ends Claims.canonical (step s) := by
  unfold step
  split
  · exact runDue_canonical _ h
  split
  · exact issueBundle_canonical (focus_canonical _ (canonical_iff.2 (canonical_iff.1 h)))
  split
  · exact collTurn_canonical _ h
  · exact ends_next.2 h

/-- Settles O57, by a lemma for each function that a step reaches: what writes a map writes it in its canonical form, and what takes an id takes
the next one. -/
theorem canonicalMapsKept : Obligations.CanonicalMapsKept :=
  fun _ t h e => step_canonical h t e

end Sys2Proof.Machine
end

section
/-! SUPPORT. The values and the issue of the scalar instructions (O3, O4, O5, O6). -/

namespace Sys2Proof.Machine

/-! ### Values of the integer operations (03 R79, R81) -/

theorem wMulh_eq (a b : Word) : wMulh a b = (a.signExtend 128 * b.signExtend 128).extractLsb' 64 64 := by
  have h : a.signExtend 128 * b.signExtend 128 = BitVec.ofInt 128 (a.toInt * b.toInt) := (BitVec.ofInt_mul ..).symm
  refine BitVec.eq_of_toNat_eq ?_
  rw [h, wMulh, BitVec.extractLsb'_toNat, BitVec.toNat_ofInt, BitVec.toNat_ofInt, Nat.shiftRight_eq_div_pow]
  generalize a.toInt * b.toInt = z
  omega

theorem wMulhu_eq (a b : Word) : wMulhu a b = (a.setWidth 128 * b.setWidth 128).extractLsb' 64 64 := by
  have hp : a.toNat * b.toNat < 2 ^ 128 := (Nat.mul_lt_mul'' a.isLt b.isLt).trans_eq (by norm_num)
  refine BitVec.eq_of_toNat_eq ?_
  rw [wMulhu, BitVec.extractLsb'_toNat, BitVec.toNat_mul, BitVec.toNat_setWidth, BitVec.toNat_setWidth, BitVec.toNat_ofNat,
    Nat.shiftRight_eq_div_pow, ← Nat.mul_mod, Nat.mod_eq_of_lt hp]

theorem lowSix_toNat (b : Word) : (b.extractLsb' 0 6).toNat = b.toNat % 64 := by simp

/-- Two values with equal keys are one, so it does not matter which of them a choice by their keys takes. -/
theorem ite_le_eq_ite_lt {β γ : Type} [LinearOrder β] {k : Word → β} (hk : Function.Injective k) (a b : Word) {x y : γ} (h : a = b → x = y) :
    (if k a ≤ k b then x else y) = if k a < k b then x else y := by
  rcases lt_trichotomy (k a) (k b) with hl | he | hg
  · rw [if_pos hl, if_pos hl.le]
  · rw [if_pos he.le, if_neg he.not_lt, h (hk he)]
  · rw [if_neg hg.not_ge, if_neg hg.not_gt]

theorem wMin_eq (a b : Word) : wMin a b = if a.slt b then a else b := by
  simpa only [wMin, BitVec.slt_iff_toInt_lt] using ite_le_eq_ite_lt (fun _ _ => BitVec.eq_of_toInt_eq) a b id

theorem wMax_eq (a b : Word) : wMax a b = if a.slt b then b else a := by
  simpa only [wMax, BitVec.slt_iff_toInt_lt] using ite_le_eq_ite_lt (fun _ _ => BitVec.eq_of_toInt_eq) a b Eq.symm

theorem wMinu_eq (a b : Word) : wMinu a b = if a.ult b then a else b := by
  simpa only [wMinu, BitVec.ult_iff_toNat_lt] using ite_le_eq_ite_lt (fun _ _ => BitVec.eq_of_toNat_eq) a b id

theorem wMaxu_eq (a b : Word) : wMaxu a b = if a.ult b then b else a := by
  simpa only [wMaxu, BitVec.ult_iff_toNat_lt] using ite_le_eq_ite_lt (fun _ _ => BitVec.eq_of_toNat_eq) a b Eq.symm

theorem wMovhi_eq (a i : Word) : wMovhi a i = (i.extractLsb' 0 32 : BitVec 32) ++ (a.extractLsb' 0 32 : BitVec 32) := by
  refine BitVec.eq_of_getLsbD_eq fun k hk => ?_
  have hm : (0xFFFFFFFF : Word).getLsbD k = decide (k < 32) := by
    interval_cases k <;> rfl
  simp only [wMovhi, BitVec.getLsbD_or, BitVec.getLsbD_shiftLeft, BitVec.getLsbD_and, hm, BitVec.getLsbD_append, BitVec.getLsbD_extractLsb']
  by_cases h : k < 32
  · simp [h]
  · simp [h, hk, show k - 32 < 32 by omega]

/-- A sign-extended immediate below 64 counts a shift (03 R81). -/
theorem shiftImm_toNat {i : BitVec 40} (h : i < 64) : (i.signExtend 64).toNat % 64 = (i.signExtend 64).toNat := by
  have hi : i.toNat < 64 := h
  have hm : i.msb = false := by
    rw [BitVec.msb_eq_decide]
    simpa using by omega
  have hs : (i.signExtend 64).toNat = i.toNat := by
    rw [BitVec.signExtend_eq_setWidth_of_msb_false hm]
    exact (BitVec.toNat_setWidth ..).trans (Nat.mod_eq_of_lt (by omega))
  omega

/-- A leading-zero count and what it says of the value (03 R79). -/
theorem wClz_spec (a : Word) : (wClz a).toNat ≤ 64 ∧ a.toNat < 2 ^ (64 - (wClz a).toNat) ∧ (a = 0 → wClz a = 64) ∧
    (a ≠ 0 → 2 ^ (63 - (wClz a).toNat) ≤ a.toNat) := by
  by_cases h : a = 0
  · subst h
    exact ⟨by decide, by decide, fun _ => rfl, fun h => absurd rfl h⟩
  · have h0 : a.toNat ≠ 0 := fun hn => h (BitVec.eq_of_toNat_eq hn)
    have hl : a.toNat.log2 < 64 := (Nat.log2_lt h0).2 a.isLt
    have hc : (wClz a).toNat = 63 - a.toNat.log2 := by
      rw [wClz, if_neg h]
      exact Nat.mod_eq_of_lt (by omega)
    rw [hc]
    refine ⟨by omega, ?_, fun hz => absurd hz h, fun _ => ?_⟩
    · rw [show 64 - (63 - a.toNat.log2) = a.toNat.log2 + 1 by omega]
      exact Nat.lt_log2_self
    · rw [show 63 - (63 - a.toNat.log2) = a.toNat.log2 by omega]
      exact Nat.log2_self_le h0

theorem wPopc_eq (a : Word) : wPopc a = BitVec.ofNat 64 ((List.range 64).filter fun i => a.getLsbD i).length := by
  have hb (i : Nat) : bit a.toNat i = a.getLsbD i := by
    rw [bit, BitVec.getLsbD, Nat.testBit_eq_decide_div_mod_eq]
    exact beq_eq_decide ..
  simp [wPopc, popcount, hb]

/-! ### Bit fields (03 R83) -/

theorem lowMask_getLsbD (len i : Nat) : (lowMask len).getLsbD i = (decide (i < 64) && decide (i < len)) := by
  simp [lowMask, BitVec.getLsbD_ofNat, Nat.testBit_two_pow_sub_one]

theorem wExt_getLsbD (pos len i : Nat) (a : Word) (hi : i < 64) :
    (wExt pos len a).getLsbD i = (decide (i < len) && a.getLsbD (pos + i)) := by
  simp only [wExt, BitVec.getLsbD_and, BitVec.getLsbD_ushiftRight, lowMask_getLsbD, hi, decide_true, Bool.true_and, Bool.and_comm]

theorem wIns_getLsbD (pos len i : Nat) (old a : Word) (hi : i < 64) :
    (wIns pos len old a).getLsbD i = if pos ≤ i ∧ i < pos + len then a.getLsbD (i - pos) else old.getLsbD i := by
  simp only [wIns, BitVec.getLsbD_or, BitVec.getLsbD_and, BitVec.getLsbD_not, BitVec.getLsbD_shiftLeft, lowMask_getLsbD, hi, decide_true,
    Bool.true_and]
  by_cases h1 : i < pos
  · simp [h1, Nat.not_le.2 h1]
  · by_cases h2 : i < pos + len
    · simp [h1, h2, Nat.not_lt.1 h1, show i - pos < len by omega, show i - pos < 64 by omega]
    · simp [h1, h2, show ¬ i - pos < len by omega]

/-! ### Division (03 R80) -/

theorem wDiv_eq (a b : Word) : wDiv a b = if b = 0 then BitVec.allOnes 64 else a.sdiv b := by
  unfold wDiv
  split
  · rfl
  · refine BitVec.eq_of_toInt_eq ?_
    rw [BitVec.toInt_ofInt, BitVec.toInt_sdiv]

theorem wRem_eq (a b : Word) : wRem a b = if b = 0 then a else a.srem b := by
  unfold wRem
  split
  · rfl
  · refine BitVec.eq_of_toInt_eq ?_
    rw [← BitVec.toInt_srem, BitVec.ofInt_toInt]

theorem wDivu_eq (a b : Word) : wDivu a b = if b = 0 then BitVec.allOnes 64 else a.udiv b := by
  unfold wDivu
  split
  · rfl
  · exact BitVec.udiv_def.symm

theorem wRemu_eq (a b : Word) : wRemu a b = if b = 0 then a else a.umod b := by
  unfold wRemu
  split
  · rfl
  · exact BitVec.umod_def.symm

theorem sdiv_mul_add_srem (a b : Word) : a.sdiv b * b + a.srem b = a := by
  have hq : BitVec.ofInt 64 (a.toInt.tdiv b.toInt) = a.sdiv b := BitVec.eq_of_toInt_eq (by rw [BitVec.toInt_ofInt, BitVec.toInt_sdiv])
  have hr : BitVec.ofInt 64 (a.toInt.tmod b.toInt) = a.srem b := by rw [← BitVec.toInt_srem, BitVec.ofInt_toInt]
  calc a.sdiv b * b + a.srem b
    _ = BitVec.ofInt 64 (a.toInt.tdiv b.toInt * b.toInt + a.toInt.tmod b.toInt) := by
      rw [BitVec.ofInt_add, BitVec.ofInt_mul, hq, hr, BitVec.ofInt_toInt]
    _ = a := by rw [mul_comm, Int.mul_tdiv_add_tmod, BitVec.ofInt_toInt]

theorem udiv_mul_add_umod (a b : Word) : a.udiv b * b + a.umod b = a := by
  refine BitVec.eq_of_toNat_eq ?_
  have h : a.toNat / b.toNat * b.toNat + a.toNat % b.toNat = a.toNat := Nat.div_add_mod' ..
  simp [BitVec.toNat_add, BitVec.toNat_mul, h, a.isLt]

/-! ### The issue of the scalar instructions (03 R78) -/

section
variable {s : State} {a b : Word}

theorem issue_alu2 {f : SR} (cls : Nat) {op : Word → Word → Word} {v : Word} (ha : readS f.ra s = .ok a) (hb : readS f.rb s = .ok b)
    (hv : op a b = v) : issue s (alu2 cls op f s) = .next (writeS f.rd cls v 0 s) := by
  rw [alu2, ha, hb, ← hv]
  rfl

theorem issue_alu1 {f : SR} (op : Word → Word) (ha : readS f.ra s = .ok a) : issue s (alu1 op f s) = .next (writeS f.rd 0 (op a) 0 s) := by
  rw [alu1, ha]
  rfl

theorem issue_aluI {f : SI} {op : Word → Word → Word} {v : Word} (ha : readS f.ra s = .ok a) (hv : op a (f.imm.signExtend 64) = v) :
    issue s (aluI op f s) = .next (writeS f.rd 0 v 0 s) := by
  rw [aluI, ha, ← hv]
  rfl

theorem issue_sel {f : SR} {c : Word} (ha : readS f.ra s = .ok a) (hb : readS f.rb s = .ok b) (hc : readS f.rc s = .ok c) :
    issue s (selOp f s) = .next (writeS f.rd 0 (if a = 0 then c else b) 0 s) := by
  rw [selOp, ha, hb, hc]
  rfl

theorem issue_ext {f : SF} (ha : readS f.ra s = .ok a) :
    issue s (extOp f s) = .next (writeS f.rd 0 (wExt f.pos.toNat f.len.toNat a) 0 s) := by
  rw [extOp, ha]
  rfl

theorem issue_ins {f : SF} {old : Word} (ha : readS f.ra s = .ok a) (ho : readS (f.rd &&& 31) s = .ok old) :
    issue s (insOp f s) = .next (writeS f.rd 0 (wIns f.pos.toNat f.len.toNat old a) 0 s) := by
  rw [insOp, ha, ho]
  rfl

theorem issue_lea {f : SL} (ha : readS f.ra s = .ok a) (hb : readS f.rb s = .ok b) :
    issue s (leaOp f s) = .next (writeS f.rd 0 (a + (b <<< f.sh.toNat) + sx f.disp) 0 s) := by
  rw [leaOp, ha, hb]
  rfl

theorem issue_divide {f : SR} {op : Word → Word → Word} {v : Word} (ha : readS f.ra s = .ok a) (hb : readS f.rb s = .ok b)
    (hd : s.core.st.vls.any (·.div) = false) (hv : op a b = v) : issue s (divide op f s) = .next (produceVal f.rd v s.now true s) := by
  rw [divide, divideFree, ha, hb, hd, ← hv]
  rfl

/-- A second divide waits (03 R80). -/
theorem issue_divide_busy {f : SR} (op : Word → Word → Word) (ha : readS f.ra s = .ok a) (hb : readS f.rb s = .ok b)
    (hd : s.core.st.vls.any (·.div) = true) :
    issue s (divide op f s) = .next { s with ctx := { s.ctx with stall := true } } := by
  rw [divide, divideFree, ha, hb, hd]
  rfl

end

/-! ### Integer operations, immediates and comparisons (03 R79, R81, R82) -/

theorem wShl_eq (a b : Word) : wShl a b = a <<< (b.extractLsb' 0 6).toNat := by rw [lowSix_toNat, wShl]
theorem wShr_eq (a b : Word) : wShr a b = a >>> (b.extractLsb' 0 6).toNat := by rw [lowSix_toNat, wShr]
theorem wSar_eq (a b : Word) : wSar a b = a.sshiftRight (b.extractLsb' 0 6).toNat := by rw [lowSix_toNat, wSar]

theorem integerTable : Claims.IntegerTable := List.forall_iff_forall_mem.1
  ⟨fun _ _ _ _ ha hb => issue_alu2 0 ha hb rfl, fun _ _ _ _ ha hb => issue_alu2 0 ha hb rfl, fun _ _ _ _ ha hb => issue_alu2 1 ha hb rfl,
    fun _ _ _ _ ha hb => issue_alu2 1 ha hb (wMulh_eq ..), fun _ _ _ _ ha hb => issue_alu2 1 ha hb (wMulhu_eq ..),
    fun _ _ _ _ ha hb => issue_alu2 0 ha hb rfl, fun _ _ _ _ ha hb => issue_alu2 0 ha hb rfl, fun _ _ _ _ ha hb => issue_alu2 0 ha hb rfl,
    fun _ _ _ _ ha hb => issue_alu2 0 ha hb (wShl_eq ..), fun _ _ _ _ ha hb => issue_alu2 0 ha hb (wShr_eq ..),
    fun _ _ _ _ ha hb => issue_alu2 0 ha hb (wSar_eq ..), fun _ _ _ _ ha hb => issue_alu2 0 ha hb (wMin_eq ..),
    fun _ _ _ _ ha hb => issue_alu2 0 ha hb (wMax_eq ..), fun _ _ _ _ ha hb => issue_alu2 0 ha hb (wMinu_eq ..),
    fun _ _ _ _ ha hb => issue_alu2 0 ha hb (wMaxu_eq ..)⟩

theorem oneSourceResults : Claims.OneSourceResults :=
  ⟨fun _ _ a ha => ⟨wClz a, issue_alu1 wClz ha, wClz_spec a⟩, fun _ _ a ha => wPopc_eq a ▸ issue_alu1 wPopc ha,
    fun _ _ _ _ _ ha hb hc => issue_sel ha hb hc, fun _ _ => rfl⟩

/-- An immediate of a well-formed shift is below 64 (03 R81). -/
theorem shift_wf {d : Bool} {i : BitVec 40} (h : (d && decide (i < 64)) = true) : i < 64 := of_decide_eq_true (Bool.and_eq_true_iff.1 h).2

theorem immediateResults : Claims.ImmediateResults := List.forall_iff_forall_mem.1
  ⟨fun _ _ _ _ ha => issue_aluI ha rfl, fun _ _ _ _ ha => issue_aluI ha rfl, fun _ _ _ _ ha => issue_aluI ha rfl,
    fun _ _ _ _ ha => issue_aluI ha rfl,
    fun _ _ _ hw ha => issue_aluI ha (by rw [wShl, shiftImm_toNat (shift_wf hw)]),
    fun _ _ _ hw ha => issue_aluI ha (by rw [wShr, shiftImm_toNat (shift_wf hw)]),
    fun _ _ _ hw ha => issue_aluI ha (by rw [wSar, shiftImm_toNat (shift_wf hw)]),
    fun _ _ _ _ ha => issue_aluI ha (wMovhi_eq ..), fun f _ a _ ha => issue_aluI ha (by simp [flagWord]),
    fun f _ a _ ha => issue_aluI ha rfl⟩

/-- Settles O3, row by row. -/
theorem integerResults : Obligations.IntegerResults := ⟨integerTable, oneSourceResults, immediateResults⟩

/-- Settles O4, row by row. -/
theorem comparisonResults : Obligations.ComparisonResults := List.forall_iff_forall_mem.1
  ⟨fun _ _ _ _ ha hb => issue_alu2 0 ha hb (by simp [flagWord]), fun _ _ _ _ ha hb => issue_alu2 0 ha hb (by simp [flagWord]),
    fun _ _ _ _ ha hb => issue_alu2 0 ha hb rfl, fun _ _ _ _ ha hb => issue_alu2 0 ha hb rfl,
    fun _ _ _ _ ha hb => issue_alu2 0 ha hb rfl, fun _ _ _ _ ha hb => issue_alu2 0 ha hb rfl⟩

/-! ### Bit fields and addresses (03 R83, R84) -/

/-- `ins` reads rd as a source of empty policy 0 (03 R83). -/
theorem rdSource_setWidth (r : BitVec 6) : (r &&& 31).setWidth 5 = (r.setWidth 5 : BitVec 5) := by
  refine BitVec.eq_of_getLsbD_eq fun i hi => ?_
  have h : (31 : BitVec 6).getLsbD i = true := by interval_cases i <;> rfl
  simp only [BitVec.getLsbD_setWidth, BitVec.getLsbD_and, h, Bool.and_true]

theorem rdSource_policy (r : BitVec 6) : (r &&& 31).getLsbD 5 = false := by
  rw [BitVec.getLsbD_and]
  exact Bool.and_false _

/-- An empty register whose policy bit is 0 holds its reader back (02 R49, 01 R32). -/
theorem readS_empty_stall {f : BitVec 6} {s : State} (h0 : f.setWidth 5 ≠ (0 : BitVec 5)) (ha : atomicHeld s (f.setWidth 5) = false)
    (he : s.core.st.a.empties[(f.setWidth 5 : BitVec 5).toNat] = true) (hp : f.getLsbD 5 = false) : readS f s = .error .stall := by
  obtain ⟨-, -, hempty⟩ := scalarReads
  rw [hempty f s h0 ha he, hp]
  rfl

theorem ins_stalls {f : SF} {s : State} {a : Word} (ha : readS f.ra s = .ok a) (h0 : f.rd.setWidth 5 ≠ (0 : BitVec 5))
    (hh : atomicHeld s (f.rd.setWidth 5) = false) (he : s.core.st.a.empties[(f.rd.setWidth 5 : BitVec 5).toNat] = true) :
    exec (.ins f) s = .next { s with ctx := { s.ctx with stall := true } } := by
  have ho : readS (f.rd &&& 31) s = .error .stall := by
    have hw := rdSource_setWidth f.rd
    refine readS_empty_stall (hw ▸ h0) (hw ▸ hh) ?_ (rdSource_policy f.rd)
    simpa only [hw] using he
  change issue s (insOp f s) = _
  rw [insOp, ha, ho]
  rfl

theorem bitField_illegal {f : SF} (h : 64 < f.pos.toNat + f.len.toNat ∨ f.len = 0) :
    (Instr.ext f).wf = false ∧ (Instr.ins f).wf = false := by
  have hw : (dstOk f.rd && f.len != 0 && decide (f.pos.toNat + f.len.toNat ≤ 64)) = false := by
    rcases h with h | h
    · rw [decide_eq_false (Nat.not_le.2 h), Bool.and_false]
    · simp [h]
  exact ⟨hw, hw⟩

theorem shiftLeft_eq_mul_pow (b : Word) (n : Nat) : b <<< n = b * BitVec.ofNat 64 (2 ^ n) := by
  rw [BitVec.shiftLeft_eq_mul_twoPow]
  exact congrArg (b * ·) (BitVec.eq_of_toNat_eq (by simp))

/-- Settles O5, part by part. -/
theorem bitFieldsAndAddresses : Obligations.BitFieldsAndAddresses := by
  refine ⟨fun f s a ha => ⟨_, issue_ext ha, fun i hi => wExt_getLsbD _ _ i a hi⟩,
    fun f s a old _ ha ho => ⟨_, issue_ins ha ho, fun i hi => wIns_getLsbD _ _ i old a hi⟩, fun f h => bitField_illegal h,
    fun f s a ha h0 hh he => ins_stalls ha h0 hh he, fun f s a b ha hb => ?_, fun f s a ha hb hs => ?_⟩
  · rw [← shiftLeft_eq_mul_pow]
    exact issue_lea ha hb
  · refine (issue_lea (b := 0) ha (readS_zero s ?_)).trans ?_
    · rw [hb]
      rfl
    · simp [sx]

/-! ### Division (03 R80) -/

/-- What a divide that issues leaves: rd to become empty at the end of the bundle, and its result on its way. -/
theorem divide_produces (rd : BitVec 6) (v : Word) (s : State) :
    ∃ at_, s.now + 18 ≤ at_ ∧ at_ ≤ s.now + 66 ∧ (produceVal rd v s.now true s).core = s.core ∧
      (produceVal rd v s.now true s).ctx.ends = s.ctx.ends ++
        [.produce ⟨s.nextId, .sreg (rd.setWidth 5), some (v.setWidth 256), s.now, true, false, true⟩] ∧
      (produceVal rd v s.now true s).ctx.cause = s.ctx.cause ∧
      (produceVal rd v s.now true s).agenda = s.agenda ++ [⟨at_, .variableLatencyResult s.core.id s.nextId⟩] :=
  ⟨s.now + 18 + Config.freeTime s.free % 49, by omega, by omega, rfl, rfl, rfl, rfl⟩

theorem divide_results {op : Word → Word → Word} {i : SR → Instr} (hi : ∀ f s, exec (i f) s = issue s (divide op f s)) {g : Word → Word → Word}
    (hg : ∀ a b, op a b = g a b) (f : SR) (s : State) (a b : Word) (ha : readS f.ra s = .ok a) (hb : readS f.rb s = .ok b) :
    (s.core.st.vls.any (·.div) = false →
      ∃ t at_, exec (i f) s = .next t ∧ s.now + 18 ≤ at_ ∧ at_ ≤ s.now + 66 ∧ t.core = s.core ∧
        t.ctx.ends = s.ctx.ends ++ [.produce ⟨s.nextId, .sreg (f.rd.setWidth 5), some ((g a b).setWidth 256), s.now, true, false, true⟩] ∧
        t.ctx.cause = s.ctx.cause ∧ t.agenda = s.agenda ++ [⟨at_, .variableLatencyResult s.core.id s.nextId⟩]) ∧
    (s.core.st.vls.any (·.div) = true → exec (i f) s = .next { s with ctx := { s.ctx with stall := true } }) := by
  rw [hi]
  refine ⟨fun hd => ?_, fun hd => issue_divide_busy op ha hb hd⟩
  obtain ⟨at_, h⟩ := divide_produces f.rd (g a b) s
  exact ⟨_, at_, issue_divide ha hb hd (hg a b), h⟩

theorem srem_zero_or_msb (a b : Word) : a.srem b = 0 ∨ (a.srem b).msb = a.msb := by
  by_cases h : a.srem b = 0
  · exact .inl h
  · exact .inr (by rw [BitVec.msb_srem, decide_eq_true h, Bool.and_true])

/-- At the end of its bundle a divide's rd is empty until its result lands (01 R32). -/
theorem doEnd_produce_empty {v : VRes} {r : BitVec 5} (s : State) (hv : v.dst = .sreg r) (hr : r ≠ 0) :
    (doEnd s (.produce v)).core.st.a.empties[r.toNat] = true ∧ v ∈ (doEnd s (.produce v)).core.st.vls := by
  simp [doEnd, mapSt, hv, show r ≠ 0#5 from hr]

/-- Settles O6, with the four rows by one lemma. -/
theorem divideResults : Obligations.DivideResults :=
  ⟨List.forall_iff_forall_mem.1 ⟨divide_results (fun _ _ => rfl) wDiv_eq, divide_results (fun _ _ => rfl) wDivu_eq,
      divide_results (fun _ _ => rfl) wRem_eq, divide_results (fun _ _ => rfl) wRemu_eq⟩,
    fun a b _ => ⟨(sdiv_mul_add_srem a b).symm, (udiv_mul_add_umod a b).symm, srem_zero_or_msb a b, fun h => BitVec.toInt_sdiv_of_ne_or_ne a b h⟩,
    ⟨by decide, by decide⟩, fun v r s hv hr => doEnd_produce_empty s hv hr⟩

end Sys2Proof.Machine
end

section
/-! SUPPORT. Transfers, loops and the next bundle address (O8, O9). -/

namespace Sys2Proof.Machine

/-! ### The loop test (03 R88) -/

section
variable {at_ next : BPc} {n : Nat} {a : Arch} {e : LoopEnt} {rest : List LoopEnt}

/-- No entry, or one that ends elsewhere: the test is over. -/
theorem loopTest_other (h : ∀ e ∈ a.loops.head?, e.last ≠ at_) : loopTest at_ next n a = (next, a) := by
  cases n with
  | zero => rfl
  | succ n =>
    unfold loopTest
    split
    next => rfl
    next e rest he => rw [if_neg (h e (by rw [he]; rfl))]

/-- The last iteration of a loop: its entry is popped and the next one tested. -/
theorem loopTest_pop (hl : a.loops = e :: rest) (he : e.last = at_) (hc : e.count.toNat ≤ 1) :
    loopTest at_ next (n + 1) a = loopTest at_ next n { a with loops := rest } := by
  have hc' : e.count ≤ 1 := hc
  rw [loopTest, hl]
  simp only [if_pos he, if_pos hc']

/-- Another iteration of a loop: back to its start. -/
theorem loopTest_back (hl : a.loops = e :: rest) (he : e.last = at_) (hc : 1 < e.count.toNat) :
    loopTest at_ next (n + 1) a = (e.start, { a with loops := { e with count := e.count - 1, index := e.index + 1 } :: rest }) := by
  have hc' : ¬ e.count ≤ 1 := Nat.not_le.2 hc
  rw [loopTest, hl]
  simp only [if_pos he, if_neg hc']

/-- A test that may look at every live entry needs no more steps. -/
theorem loopTest_fuel {m : Nat} (hn : a.loops.length ≤ n) (hm : a.loops.length ≤ m) : loopTest at_ next n a = loopTest at_ next m a := by
  induction n generalizing a m with
  | zero =>
    have h0 : a.loops = [] := List.length_eq_zero_iff.1 (Nat.le_zero.1 hn)
    rw [loopTest_other (by simp [h0]), loopTest_other (by simp [h0])]
  | succ n ih =>
    cases hl : a.loops with
    | nil => rw [loopTest_other (by simp [hl]), loopTest_other (by simp [hl])]
    | cons e rest =>
      rw [hl] at hn hm
      cases m with
      | zero => exact absurd hm (by simp)
      | succ m =>
        by_cases he : e.last = at_
        · by_cases hc : e.count.toNat ≤ 1
          · rw [loopTest_pop hl he hc, loopTest_pop hl he hc]
            exact ih (Nat.le_of_succ_le_succ hn) (Nat.le_of_succ_le_succ hm)
          · rw [loopTest_back hl he (Nat.not_le.1 hc), loopTest_back hl he (Nat.not_le.1 hc)]
        · rw [loopTest_other (by simpa [hl] using he), loopTest_other (by simpa [hl] using he)]

/-- The test reads and writes the loop stack only. -/
theorem loopTest_congr {b : Arch} (h : a.loops = b.loops) : (loopTest at_ next n a).1 = (loopTest at_ next n b).1 ∧
    (loopTest at_ next n a).2.loops = (loopTest at_ next n b).2.loops := by
  induction n generalizing a b with
  | zero => exact ⟨rfl, h⟩
  | succ n ih =>
    unfold loopTest
    rw [h]
    split
    next hb => exact ⟨rfl, h⟩
    next e rest hb =>
      split
      · split
        · exact ih rfl
        · exact ⟨rfl, rfl⟩
      · exact ⟨rfl, h⟩

end

theorem nextAddress : Claims.NextAddress := by
  refine ⟨fun _ _ => rfl, fun a h => loopTest_other h, fun a e rest hl he hc => loopTest_back hl he hc, fun a e rest hl h6 he hc => ?_,
    fun a last h => loopTest_other h, fun a last h => loopTest_other h⟩
  rw [hl] at h6
  have h5 : rest.length ≤ 5 := Nat.le_of_succ_le_succ h6
  exact (loopTest_pop hl he hc).trans (loopTest_fuel (a := { a with loops := rest }) (h5.trans (by decide)) (h5.trans (by decide)))

/-- A loop that `lbrk` has ended leads where its last iteration would have led from its END bundle (03 R89). -/
theorem nextPc_brk {a : Arch} {e : LoopEnt} {rest : List LoopEnt} (h : (e :: rest).length ≤ 6) :
    (nextPc (.brk e.last) { a with loops := rest }).1 = (nextPc .inSeq { a with pc := e.last, loops := { e with count := 1 } :: rest }).1 ∧
      (nextPc (.brk e.last) { a with loops := rest }).2.loops =
        (nextPc .inSeq { a with pc := e.last, loops := { e with count := 1 } :: rest }).2.loops := by
  have h5 : rest.length ≤ 5 := Nat.le_of_succ_le_succ h
  have hp : nextPc .inSeq { a with pc := e.last, loops := { e with count := 1 } :: rest } =
      loopTest e.last (e.last + 1) 7 { a with pc := e.last, loops := rest } :=
    (loopTest_pop (n := 6) (a := { a with pc := e.last, loops := { e with count := 1 } :: rest }) (e := { e with count := 1 }) rfl rfl
      le_rfl).trans (loopTest_fuel (a := { a with pc := e.last, loops := rest }) (h5.trans (by decide : 5 ≤ 6)) (h5.trans (by decide : 5 ≤ 7)))
  rw [hp]
  exact loopTest_congr rfl

/-! ### Transfers (03 R85) -/

/-- An address of which a bundle address has all bits (03 R85). -/
theorem highBits_zero_iff (a : Word) : a.extractLsb' 51 13 = (0 : BitVec 13) ↔ a.toNat < 2 ^ 51 := by
  have hd : (a.extractLsb' 51 13).toNat = a.toNat / 2 ^ 51 := by
    rw [BitVec.extractLsb'_toNat, Nat.shiftRight_eq_div_pow]
    exact Nat.mod_eq_of_lt (by omega)
  rw [← BitVec.toNat_inj, hd]
  exact Nat.div_eq_zero_iff_lt (by decide)

section
variable {s : State} {a : Word}

theorem issue_branchIf {f : SB} (zero : Bool) (ha : readS f.ra s = .ok a) :
    issue s (branchIf zero f s) = .next (if (a == 0) == zero then takeJump (relTarget f.off s) s else s) := by
  rw [branchIf, ha]
  rfl

theorem issue_jr {f : SX} (ha : readS f.reg s = .ok a) (h : a.toNat < 2 ^ 51) :
    issue s (jrOp f s) = .next (takeJump (a.setWidth 51) s) := by
  rw [jrOp, ha]
  simp only [bind, Except.bind, decide_eq_true h, need_true]
  rfl

theorem issue_jr_fault {f : SX} (ha : readS f.reg s = .ok a) (h : ¬ a.toNat < 2 ^ 51) :
    issue s (jrOp f s) = .next (Claims.trapped 0x21 a s) := by
  rw [jrOp, ha]
  simp only [bind, Except.bind, decide_eq_false h]
  rfl

end

theorem transferTargets : Claims.TransferTargets := by
  refine ⟨fun f s a ha => ⟨?_, ?_⟩, fun f s => rfl, fun f s => ⟨_, rfl, rfl, rfl⟩, fun f s a ha => ⟨fun h => ?_, fun h => ?_⟩⟩
  · refine (issue_branchIf false ha).trans ?_
    by_cases h : a = 0 <;> simp [h, takeJump, relTarget, mapCtx]
  · refine (issue_branchIf true ha).trans ?_
    by_cases h : a = 0 <;> simp [h, takeJump, relTarget, mapCtx]
  · exact issue_jr ha ((highBits_zero_iff a).1 h)
  · exact issue_jr_fault ha (mt (highBits_zero_iff a).2 h)

/-! ### Loop pushes (03 R87) -/

section
variable {s : State} {count : Nat} {last : BitVec 20}

theorem issue_pushLoop_skip : issue s (pushLoop 0 last s) =
    .next { s with ctx := { s.ctx with nxt := .skip (s.core.st.a.pc + last.setWidth 51) } } := rfl

theorem issue_pushLoop (hc : count ≠ 0) (hl : s.core.st.a.loops.length < 6) : issue s (pushLoop count last s) =
    .next (mapArch (fun a => { a with loops := ⟨BitVec.ofNat 32 count, 0, a.pc + 1, a.pc + last.setWidth 51⟩ :: a.loops }) s) := by
  simp only [pushLoop, if_neg hc, decide_eq_true hl, need_true]
  rfl

theorem issue_pushLoop_full (hc : count ≠ 0) (hl : 6 ≤ s.core.st.a.loops.length) :
    issue s (pushLoop count last s) = .next (Claims.trapped 0x0A 0 s) := by
  simp only [pushLoop, if_neg hc, decide_eq_false (Nat.not_lt.2 hl), need_false]
  rfl

theorem issue_loop {f : SP} {a : Word} (ha : readS f.ra s = .ok a) : issue s (loopOp f s) = issue s (pushLoop (loopCount a) f.last s) := by
  rw [loopOp, ha]
  rfl

end

theorem loopCount_nonpos {a : Word} (h : a.toInt ≤ 0) : loopCount a = 0 := if_pos h

/-- The count of a loop: its register's signed value, clamped (03 R87). -/
theorem loopCount_pos {a : Word} (h : 0 < a.toInt) : (loopCount a : Int) = min a.toInt 4294967295 := by
  have ha : (a.toNat : Int) = a.toInt := by
    rw [BitVec.toInt_eq_toNat_cond] at h ⊢
    split at h <;> omega
  rw [loopCount, if_neg (Int.not_le.2 h), ← ha]
  exact Nat.cast_min ..

theorem loopPush : Claims.LoopPush := by
  refine ⟨fun f s => ⟨fun h => ?_, fun h hl => ?_, fun h hl => ?_⟩, fun f s a ha => ⟨fun h => ?_, fun h hl => ?_, fun h hl => ?_⟩⟩
  · exact (congrArg (fun n => issue s (pushLoop n f.last s)) (congrArg BitVec.toNat h)).trans issue_pushLoop_skip
  · refine (issue_pushLoop (fun hn => h (BitVec.eq_of_toNat_eq hn)) hl).trans ?_
    simp only [BitVec.ofNat_toNat, BitVec.setWidth_eq]
  · exact issue_pushLoop_full (fun hn => h (BitVec.eq_of_toNat_eq hn)) hl
  · exact (issue_loop ha).trans (by rw [loopCount_nonpos h, issue_pushLoop_skip])
  · have hc := loopCount_pos h
    exact ⟨BitVec.ofNat 32 (loopCount a), by rw [BitVec.toNat_ofNat]; omega, (issue_loop ha).trans (issue_pushLoop (by omega) hl)⟩
  · have hc := loopCount_pos h
    exact (issue_loop ha).trans (issue_pushLoop_full (by omega) hl)

/-- Settles O8, part by part. -/
theorem transfersAndLoops : Obligations.TransfersAndLoops := ⟨transferTargets, loopPush, nextAddress⟩

/-! ### `lbrk` and `lidx` (03 R89) -/

section
variable {s : State}

theorem issue_lidx {f : SX} {e : LoopEnt} (h : s.core.st.a.loops[f.n.toNat]? = some e) :
    issue s (lidxOp f s) = .next (writeS f.reg 0 (e.index.setWidth 64) 0 s) := by
  rw [lidxOp, h]
  rfl

theorem issue_lidx_fault {f : SX} (h : s.core.st.a.loops.length ≤ f.n.toNat) : issue s (lidxOp f s) = .next (Claims.trapped 0x0A 1 s) := by
  rw [lidxOp, List.getElem?_eq_none h]
  rfl

theorem issue_lbrk {e : LoopEnt} {rest : List LoopEnt} (h : s.core.st.a.loops = e :: rest) : issue s (lbrkOp s) =
    .next (mapCtx (fun c => { c with nxt := .brk e.last }) (mapArch (fun a => { a with loops := rest }) s)) := by
  rw [lbrkOp, h]
  rfl

theorem issue_lbrk_fault (h : s.core.st.a.loops = []) : issue s (lbrkOp s) = .next (Claims.trapped 0x0A 1 s) := by
  rw [lbrkOp, h]
  rfl

end

theorem lidx_illegal {f : SX} (h : 5 < f.n) : (Instr.lidx f).wf = false := by
  have hn : ¬ f.n < 6 := fun hl => absurd (show f.n.toNat < 6 from hl) (Nat.not_lt.2 (show 5 < f.n.toNat from h))
  change (dstOk f.reg && decide (f.n < 6) && f.imm == 0) = false
  rw [decide_eq_false hn, Bool.and_false, Bool.false_and]

/-- Settles O9, part by part. -/
theorem loopStackReads : Obligations.LoopStackReads :=
  ⟨fun _ _ _ h => ⟨⟨_, issue_lbrk h, rfl, rfl⟩, nextPc_brk⟩, fun _ _ _ h => issue_lidx h,
    fun _ _ hc hl => ⟨_, _, issue_pushLoop (fun hn => hc (BitVec.eq_of_toNat_eq hn)) hl, rfl, rfl⟩,
    fun _ _ _ hl he hc => ⟨_, congrArg (fun x : BPc × Arch => x.2.loops) (loopTest_back hl he hc), rfl⟩,
    fun _ _ h => issue_lidx_fault h, fun _ h => issue_lbrk_fault h, fun _ h => lidx_illegal h⟩

end Sys2Proof.Machine
end

section
/-! SUPPORT. What the scalar instructions, loads, held stores and port configuration leave unchanged (O7). -/

namespace Sys2Proof.Machine

/-! ### One pending result and nothing else (03 R78) -/

/-- A wait for a register or a trap: what stops an instruction that asks for no line. -/
def Stop.plain : Stop → Bool
  | .trap _ | .stall => true
  | _ => false

/-- Whatever stops the computation is a wait for a register or a trap. -/
def StopsPlain {α : Type} (r : Res α) : Prop := ∀ e, r = .error e → e.plain = true

theorem stopsPlain_bind {α β : Type} {x : Res α} {f : α → Res β} (hx : StopsPlain x) (hf : ∀ a, StopsPlain (f a)) : StopsPlain (x >>= f) := by
  cases x with
  | ok a => exact hf a
  | error e => exact fun d hd => hx d (by cases hd; rfl)

theorem stopsPlain_ok {α : Type} (a : α) : StopsPlain (.ok a : Res α) := fun _ h => nomatch h
theorem stopsPlain_raise {α : Type} (s : State) (c : Nat) (w : Word) : StopsPlain (raise s c w : Res α) := fun _ h => by cases h; rfl
theorem stopsPlain_stall {α : Type} : StopsPlain (.error .stall : Res α) := fun _ h => by cases h; rfl

theorem stallUnless_plain (ok : Bool) : StopsPlain (stallUnless ok) := by
  cases ok
  · exact stopsPlain_stall
  · exact stopsPlain_ok ()

theorem readS_plain (f : BitVec 6) (s : State) : StopsPlain (readS f s) := by
  unfold readS
  dsimp only
  (repeat' split) <;> simp only [stopsPlain_ok, stopsPlain_raise, stopsPlain_stall]

theorem readH_plain (h : BitVec 4) (s : State) : StopsPlain (readH h s) :=
  stopsPlain_bind (stallUnless_plain _) fun _ => stopsPlain_bind (stallUnless_plain _) fun _ => stopsPlain_ok _

theorem Stop.best_plain {a b : Stop} (ha : a.plain = true) (hb : b.plain = true) : (a.best b).plain = true := by
  unfold Stop.best
  split
  · split <;> rfl
  · exact hb
  · exact ha

/-- The issue ends with one result pending, or stops for a register or a trap. -/
def OneResult (s : State) (r : Res State) : Prop :=
  StopsPlain r ∧ ∀ t, r = .ok t → ∃ rd cls v, t = writeS rd cls v 0 s

theorem oneResult_writeS (rd : BitVec 6) (cls : Nat) (v : Word) (s : State) : OneResult s (.ok (writeS rd cls v 0 s)) :=
  ⟨stopsPlain_ok _, fun _ h => ⟨rd, cls, v, (Except.ok.inj h).symm⟩⟩

theorem oneResult_bind {s : State} {α : Type} {x : Res α} {f : α → Res State} (hx : StopsPlain x) (hf : ∀ a, OneResult s (f a)) :
    OneResult s (x >>= f) :=
  ⟨stopsPlain_bind hx fun a => (hf a).1, fun t ht => by
    obtain ⟨a, -, h⟩ := bind_eq_ok.1 ht
    exact (hf a).2 t h⟩

/-- Checks that stop for a register or a trap alone choose such a stop. -/
theorem oneResult_gather {s : State} {r : Res State} {cs : List (Option Stop)} (h : OneResult s r)
    (hc : ∀ c ∈ cs, ∀ e, c = some e → e.plain = true) : OneResult s (gather r cs) := by
  refine ⟨fun e he => ?_, fun t ht => h.2 t (gather_ok.1 ht)⟩
  cases r with
  | ok t => cases he
  | error d =>
    cases he
    have hd : d.plain = true := h.1 d rfl
    clear h
    induction cs generalizing d with
    | nil => exact hd
    | cons c cs ih =>
      obtain ⟨hh, ht⟩ := List.forall_mem_cons.1 hc
      refine ih ht _ ?_
      cases c with
      | none => exact hd
      | some e => exact Stop.best_plain hd (hh e rfl)

theorem stopOf_plain {α : Type} {r : Res α} (h : StopsPlain r) : ∀ e, stopOf r = some e → e.plain = true := by
  cases r with
  | ok a => exact fun _ he => nomatch he
  | error d =>
    intro e he
    cases he
    exact h d rfl

/-- A second operand whose stop is gathered. -/
theorem readS_gathered {s : State} {r : Res State} (f : BitVec 6) (h : OneResult s r) : OneResult s (gather r [stopOf (readS f s)]) :=
  oneResult_gather h (List.forall_mem_singleton.2 (stopOf_plain (readS_plain f s)))

section
variable (s : State)

theorem alu2_one (cls : Nat) (op : Word → Word → Word) (f : SR) : OneResult s (alu2 cls op f s) :=
  readS_gathered _ (oneResult_bind (readS_plain _ _) fun _ => oneResult_bind (readS_plain _ _) fun _ => oneResult_writeS ..)

theorem alu1_one (op : Word → Word) (f : SR) : OneResult s (alu1 op f s) :=
  oneResult_bind (readS_plain _ _) fun _ => oneResult_writeS ..

theorem aluI_one (op : Word → Word → Word) (f : SI) : OneResult s (aluI op f s) :=
  oneResult_bind (readS_plain _ _) fun _ => oneResult_writeS ..

theorem selOp_one (f : SR) : OneResult s (selOp f s) :=
  oneResult_gather (oneResult_bind (readS_plain _ _) fun _ => oneResult_bind (readS_plain _ _) fun _ => oneResult_bind (readS_plain _ _) fun _ =>
    oneResult_writeS ..) (List.forall_mem_cons.2 ⟨stopOf_plain (readS_plain _ _), List.forall_mem_singleton.2 (stopOf_plain (readS_plain _ _))⟩)

theorem extOp_one (f : SF) : OneResult s (extOp f s) := oneResult_bind (readS_plain _ _) fun _ => oneResult_writeS ..

theorem insOp_one (f : SF) : OneResult s (insOp f s) :=
  readS_gathered _ (oneResult_bind (readS_plain _ _) fun _ => oneResult_bind (readS_plain _ _) fun _ => oneResult_writeS ..)

theorem leaOp_one (f : SL) : OneResult s (leaOp f s) :=
  readS_gathered _ (oneResult_bind (readS_plain _ _) fun _ => oneResult_bind (readS_plain _ _) fun _ => oneResult_writeS ..)

theorem lidxOp_one (f : SX) : OneResult s (lidxOp f s) := by
  unfold lidxOp
  split
  · exact ⟨stopsPlain_raise _ _ _, fun _ h => nomatch h⟩
  · exact oneResult_writeS ..

theorem hgetOp_one (f : SH) : OneResult s (hgetOp f s) := oneResult_bind (readH_plain _ _) fun _ => oneResult_writeS ..

end

/-- What the issue of such an instruction leaves, where it raises nothing: one more pending result, or the wait of its bundle. -/
theorem issue_oneResult {s t : State} {r : Res State} (hr : OneResult s r) (h : issue s r = .next t) (hc : t.ctx.cause = none) :
    (∃ rd cls v, t = writeS rd cls v 0 s) ∨ t = mapCtx (fun c => { c with stall := true }) s := by
  obtain ⟨hp, hw⟩ := hr
  rw [issue_eq] at h
  rcases close_cases finishSaves s r with ⟨u, hu, e⟩ | ⟨-, e⟩ | ⟨_, hf, e⟩ | ⟨hf, e⟩ | ⟨_, -, e⟩
  · rw [e] at h
    cases h
    exact .inl (hw _ hu)
  · rw [e] at h
    cases h
    exact .inr rfl
  · exact nomatch hp _ hf
  · exact nomatch hp _ hf
  · rw [e] at h
    cases h
    cases hc

theorem exec_oneResult {i : Instr} (s : State) (hi : Claims.scalarOnly i = true) : ∃ r, exec i s = issue s r ∧ OneResult s r := by
  cases i with
  | add f | sub f | mul f | mulh f | mulhu f | and f | or f | xor f | shl f | shr f | sar f | min f | max f | minu f | maxu f
  | ceq f | cne f | clt f | cle f | cltu f | cleu f => exact ⟨_, rfl, alu2_one s _ _ f⟩
  | clz f | popc f => exact ⟨_, rfl, alu1_one s _ f⟩
  | sel f => exact ⟨_, rfl, selOp_one s f⟩
  | addi f | andi f | ori f | xori f | shli f | shri f | sari f | movhi f | ceqi f | clti f => exact ⟨_, rfl, aluI_one s _ f⟩
  | movi f | spld f | sysrd f | capq f | pget f | knget f => exact ⟨_, rfl, oneResult_writeS ..⟩
  | lea f => exact ⟨_, rfl, leaOp_one s f⟩
  | ext f => exact ⟨_, rfl, extOp_one s f⟩
  | ins f => exact ⟨_, rfl, insOp_one s f⟩
  | lidx f => exact ⟨_, rfl, lidxOp_one s f⟩
  | hget f => exact ⟨_, rfl, hgetOp_one s f⟩
  | _ => exact nomatch hi

theorem scalarOnlyFrame : Claims.ScalarOnlyFrame := by
  intro i s t hi h hc
  obtain ⟨r, he, hr⟩ := exec_oneResult s hi
  rcases issue_oneResult hr (he ▸ h) hc with ⟨rd, cls, v, rfl⟩ | rfl
  · exact ⟨fun _ => rfl, fun _ => rfl, rfl, ⟨_, rfl, le_rfl⟩, rfl⟩
  · exact ⟨fun _ => rfl, fun _ => rfl, rfl, ⟨[], (List.append_nil _).symm, Nat.zero_le 1⟩, rfl⟩

/-! ### Accesses that store nothing at issue -/

/-- What those accesses leave as it is but for the store-hold buffer (09 R211-R215). -/
structure AccessFrame where
  a : Arch
  shadow : Arch
  trapPc : BPc
  trapCause : Word
  trapInfo : Word
  spill : SMap Word
  scratch : SMap Byte
  full : SMap Bool
  banks : Vector Bank 8
  coef : SMap Nat
  others : List Core

def accessFrame (s : State) : AccessFrame :=
  let t := s.core.st
  ⟨t.a, t.shadow, t.trapPc, t.trapCause, t.trapInfo, t.spill, s.core.scratch, s.core.full, s.core.banks, s.core.coef, s.others⟩

/-- The access frame of `s`, and its held pieces. -/
def KeepsAccess (s t : State) : Prop := accessFrame t = accessFrame s ∧ t.core.held = s.core.held

theorem ReadsOnly.keepsAccess {s t : State} (h : ReadsOnly s t) : KeepsAccess s t := by
  rw [h]
  exact ⟨rfl, rfl⟩

theorem tmrPlace_reads {ref : Nat} {s u : State} {p : Nat × Nat} (h : tmrPlace ref s = .ok (p, u)) : ReadsOnly s u := by
  unfold tmrPlace at h
  split at h
  · cases h
  · obtain ⟨⟨t, w⟩, hl, h⟩ := bind_eq_ok.1 h
    dsimp only at h
    split at h
    · cases h
    · obtain ⟨_, -, h⟩ := bind_eq_ok.1 h
      cases h
      exact lookupTlb_reads hl

theorem checkRec_reads {ref : Nat} {s u : State} {p : Nat} (h : checkRec ref s = .ok (p, u)) : ReadsOnly s u := by
  obtain ⟨⟨⟨_, pa⟩, w⟩, hp, h⟩ := bind_eq_ok.1 h
  dsimp only at h
  split at h
  · cases h
    exact tmrPlace_reads hp
  · cases h

theorem spadRead_keepsAccess {offs : List Int} {fe : Nat} {info : Word} {s u : State} {bs : List Byte}
    (h : spadRead offs fe info s = .ok (bs, u)) : KeepsAccess s u := by
  obtain ⟨_, -, h⟩ := bind_eq_ok.1 h
  obtain ⟨_, -, h⟩ := bind_eq_ok.1 h
  obtain ⟨_, -, h⟩ := bind_eq_ok.1 h
  cases h
  split <;> exact ⟨rfl, rfl⟩

section
variable {f : LS} {g : SH} {s t : State}

theorem ldOp_keepsAccess (h : ldOp f s = .ok t) : KeepsAccess s t := by
  obtain ⟨_, -, h⟩ := bind_eq_ok.1 (gather_ok.1 h)
  obtain ⟨_, -, h⟩ := bind_eq_ok.1 h
  obtain ⟨⟨v, u⟩, hu, h⟩ := bind_eq_ok.1 h
  cases h
  exact (globalRead1_reads (liftMem_ok hu)).keepsAccess

theorem sldOp_keepsAccess (h : sldOp f s = .ok t) : KeepsAccess s t := by
  obtain ⟨_, -, h⟩ := bind_eq_ok.1 h
  obtain ⟨⟨bs, u⟩, hu, h⟩ := bind_eq_ok.1 h
  cases h
  have hk : KeepsAccess s u := spadRead_keepsAccess hu
  split <;> exact hk

theorem sstOp_keepsAccess (h : sstOp f s = .ok t) : KeepsAccess s t := by
  obtain ⟨_, -, h⟩ := bind_eq_ok.1 (gather_ok.1 h)
  obtain ⟨_, -, h⟩ := bind_eq_ok.1 h
  obtain ⟨_, -, h⟩ := bind_eq_ok.1 h
  cases h
  exact ⟨rfl, rfl⟩

theorem sfeOp_keepsAccess (h : sfeOp f s = .ok t) : KeepsAccess s t := by
  obtain ⟨_, -, h⟩ := bind_eq_ok.1 (gather_ok.1 h)
  obtain ⟨n, -, h⟩ := bind_eq_ok.1 h
  split at h
  · cases h
    exact ⟨rfl, rfl⟩
  · obtain ⟨_, -, h⟩ := bind_eq_ok.1 h
    cases h
    exact ⟨rfl, rfl⟩

theorem tmrdOp_keepsAccess (h : tmrdOp f s = .ok t) : KeepsAccess s t := by
  obtain ⟨_, -, h⟩ := bind_eq_ok.1 h
  obtain ⟨⟨p, u⟩, hu, h⟩ := bind_eq_ok.1 h
  obtain ⟨⟨v, w⟩, hw, h⟩ := bind_eq_ok.1 h
  obtain ⟨_, -, h⟩ := bind_eq_ok.1 h
  cases h
  exact ((checkRec_reads (liftMem_ok hu)).trans (globalRead1_reads (liftMem_ok hw))).keepsAccess

theorem wmrdOp_keepsAccess (h : wmrdOp f s = .ok t) : KeepsAccess s t := by
  obtain ⟨_, -, h⟩ := bind_eq_ok.1 h
  obtain ⟨_, -, h⟩ := bind_eq_ok.1 h
  obtain ⟨_, -, h⟩ := bind_eq_ok.1 h
  obtain ⟨⟨_, u⟩, hu, h⟩ := bind_eq_ok.1 h
  cases h
  exact (globalReadWith_reads (liftMem_ok hu)).keepsAccess

theorem prefOp_keepsAccess (h : prefOp f s = .ok t) : KeepsAccess s t := by
  obtain ⟨_, -, h⟩ := bind_eq_ok.1 h
  cases h
  exact ⟨rfl, rfl⟩

theorem hldOp_keepsAccess (h : hldOp g s = .ok t) : KeepsAccess s t := by
  obtain ⟨_, -, h⟩ := bind_eq_ok.1 (gather_ok.1 h)
  obtain ⟨_, -, h⟩ := bind_eq_ok.1 h
  obtain ⟨_, -, h⟩ := bind_eq_ok.1 h
  obtain ⟨⟨v, u⟩, hu, h⟩ := bind_eq_ok.1 h
  obtain ⟨_, -, h⟩ := bind_eq_ok.1 h
  cases h
  exact (globalRead1_reads (liftMem_ok hu)).keepsAccess

theorem pcfgOp_keepsAccess (h : pcfgOp g s = .ok t) : KeepsAccess s t := by
  obtain ⟨_, -, h⟩ := bind_eq_ok.1 h
  obtain ⟨⟨bs, u⟩, hu, h⟩ := bind_eq_ok.1 h
  cases h
  have hk : KeepsAccess s u := spadRead_keepsAccess hu
  exact hk

theorem psetOp_keepsAccess (h : psetOp g s = .ok t) : KeepsAccess s t := by
  obtain ⟨_, -, h⟩ := bind_eq_ok.1 h
  obtain ⟨_, -, h⟩ := bind_eq_ok.1 h
  cases h
  exact ⟨rfl, rfl⟩

/-- A store's translation and its held piece (09 R212, 03 R98). -/
theorem xlateW_holdAll_frame {acc : Acc} {va pa : Nat} {u : State} {ps : List Held} (hx : xlateW acc va s = .ok (pa, u))
    (h : holdAll ps u = .ok t) : accessFrame t = accessFrame s := by
  obtain ⟨rfl, -⟩ := holdAll_ok h
  exact (xlateW_reads hx).keepsAccess.1

theorem stOp_frame (h : stOp f s = .ok t) : accessFrame t = accessFrame s := by
  obtain ⟨_, -, h⟩ := bind_eq_ok.1 (gather_ok.1 h)
  obtain ⟨_, -, h⟩ := bind_eq_ok.1 h
  obtain ⟨_, -, h⟩ := bind_eq_ok.1 h
  obtain ⟨⟨pa, u⟩, hu, h⟩ := bind_eq_ok.1 h
  exact xlateW_holdAll_frame hu h

theorem hstOp_frame (h : hstOp g s = .ok t) : accessFrame t = accessFrame s := by
  obtain ⟨_, -, h⟩ := bind_eq_ok.1 (gather_ok.1 h)
  obtain ⟨_, -, h⟩ := bind_eq_ok.1 h
  obtain ⟨_, -, h⟩ := bind_eq_ok.1 h
  obtain ⟨⟨pa, u⟩, hu, h⟩ := bind_eq_ok.1 h
  exact xlateW_holdAll_frame hu h

end

/-- A wait and a full read-victim table mark the bundle alone, or ask a pool for a line. -/
theorem issue_untrapped {s t : State} {r : Res State} {P : State → Prop} (hr : ∀ u, r = .ok u → P u)
    (hw : ∀ c tx, P { s with ctx := c, ptx := tx }) (h : issue s r = .next t) (hc : t.ctx.cause = none) : P t := by
  rw [issue_eq] at h
  rcases close_cases finishSaves s r with ⟨u, hu, e⟩ | ⟨-, e⟩ | ⟨_, -, e⟩ | ⟨-, e⟩ | ⟨_, -, e⟩ <;> rw [e] at h <;> cases h
  · exact hr _ hu
  · exact hw _ s.ptx
  · exact hw _ _
  · exact hw _ s.ptx
  · cases hc

theorem issue_keepsAccess {s t : State} {r : Res State} (hr : ∀ u, r = .ok u → KeepsAccess s u) (h : issue s r = .next t)
    (hc : t.ctx.cause = none) : KeepsAccess s t :=
  issue_untrapped hr (fun _ _ => ⟨rfl, rfl⟩) h hc

theorem issue_accessFrame {s t : State} {r : Res State} (hr : ∀ u, r = .ok u → accessFrame u = accessFrame s) (h : issue s r = .next t)
    (hc : t.ctx.cause = none) : accessFrame t = accessFrame s :=
  issue_untrapped hr (fun _ _ => rfl) h hc

/-- The accesses of the frame's statement. -/
def isAccess : Instr → Bool
  | .ld _ | .sld _ | .tmrd _ | .wmrd _ | .pref _ | .st _ | .sst _ | .sfe _ | .hld _ | .hst _ | .pcfg _ | .pset _ => true
  | _ => false

/-- All of them but those that hold a piece. -/
def keepsHeld : Instr → Bool
  | .st _ | .hst _ => false
  | _ => true

theorem isAccess_slot {i : Instr} (hi : isAccess i = true) : ∃ k, i.slot = some k := by
  cases i with
  | ld | sld | tmrd | wmrd | pref | st | sst | sfe | hld | hst | pcfg | pset => exact ⟨_, rfl⟩
  | _ => exact nomatch hi

theorem access_frame {i : Instr} {s t : State} (hi : isAccess i = true) (h : exec i s = .next t) (hc : t.ctx.cause = none) :
    accessFrame t = accessFrame s ∧ (keepsHeld i = true → t.core.held = s.core.held) := by
  have keep (hk : KeepsAccess s t) : accessFrame t = accessFrame s ∧ (keepsHeld i = true → t.core.held = s.core.held) :=
    ⟨hk.1, fun _ => hk.2⟩
  cases i with
  | ld => exact keep (issue_keepsAccess (fun _ => ldOp_keepsAccess) h hc)
  | sld => exact keep (issue_keepsAccess (fun _ => sldOp_keepsAccess) h hc)
  | tmrd => exact keep (issue_keepsAccess (fun _ => tmrdOp_keepsAccess) h hc)
  | wmrd => exact keep (issue_keepsAccess (fun _ => wmrdOp_keepsAccess) h hc)
  | pref => exact keep (issue_keepsAccess (fun _ => prefOp_keepsAccess) h hc)
  | sst => exact keep (issue_keepsAccess (fun _ => sstOp_keepsAccess) h hc)
  | sfe => exact keep (issue_keepsAccess (fun _ => sfeOp_keepsAccess) h hc)
  | hld => exact keep (issue_keepsAccess (fun _ => hldOp_keepsAccess) h hc)
  | pcfg => exact keep (issue_keepsAccess (fun _ => pcfgOp_keepsAccess) h hc)
  | pset => exact keep (issue_keepsAccess (fun _ => psetOp_keepsAccess) h hc)
  | st => exact ⟨issue_accessFrame (fun _ => stOp_frame) h hc, fun hn => nomatch hn⟩
  | hst => exact ⟨issue_accessFrame (fun _ => hstOp_frame) h hc, fun hn => nomatch hn⟩
  | _ => exact nomatch hi

theorem loadStoreFrame : Claims.LoadStoreFrame := by
  intro i s t hi h hc
  replace hi : isAccess i = true := hi
  obtain ⟨k, hk⟩ := isAccess_slot hi
  obtain ⟨hf, hh⟩ := access_frame hi h hc
  refine ⟨rdByte_of_mem (exec_slot_mem s hk t h), congrArg AccessFrame.scratch hf, congrArg AccessFrame.full hf, congrArg AccessFrame.a hf,
    congrArg AccessFrame.shadow hf, congrArg AccessFrame.trapPc hf, congrArg AccessFrame.trapCause hf, congrArg AccessFrame.trapInfo hf,
    congrArg AccessFrame.spill hf, congrArg AccessFrame.banks hf, congrArg AccessFrame.coef hf, congrArg AccessFrame.others hf, hh⟩

/-- Settles O7: the scalar instructions by the one result that they leave pending, the accesses by the state that each hands on. -/
theorem scalarAndAccessFrame : Obligations.ScalarAndAccessFrame := ⟨scalarOnlyFrame, loadStoreFrame⟩

end Sys2Proof.Machine
end

section
/-! SUPPORT. Handle fields, handle loads and stores, and port descriptors (O13). -/

namespace Sys2Proof.Machine

/-! ### Handle fields (03 R97-R99) -/

/-- A handle that can be read is the one of the register file. -/
theorem readH_eq {x : BitVec 4} {s : State} {h : BitVec 256} (hh : readH x s = .ok h) : s.core.st.a.handles[x.toNat] = h := by
  obtain ⟨_, -, hh⟩ := bind_eq_ok.1 hh
  obtain ⟨_, -, hh⟩ := bind_eq_ok.1 hh
  exact Except.ok.inj hh

theorem handleToCome_of_no_pend {x : BitVec 4} {s : State} (hp : s.core.st.pend = []) :
    handleToCome x s = s.core.st.a.handles[x.toNat] := by
  rw [handleToCome, hp, List.foldl_nil]

theorem hField_width_pos (fld : Nat) : 0 < (hField fld).2 := by
  unfold hField
  split <;> decide

theorem needLegal_false (s : State) : needLegal s false = .error (.trap ⟨0x01, s.ctx.syl, some s.ctx.slot⟩) := rfl

section
variable {f : SH} {s : State} {a : Word} {h : BitVec 256}

theorem issue_hset (ha : readS f.reg s = .ok a) (hh : readH f.x s = .ok h) (hw : a.toNat < 2 ^ (hField f.fld.toNat).2)
    (hv : handleValid (setField (handleToCome f.x s) (hField f.fld.toNat).1 (hField f.fld.toNat).2 a.toNat) = true) :
    issue s (hsetOp f s) = .next (writeHField f.x (hField f.fld.toNat).1 (hField f.fld.toNat).2 a.toNat s) := by
  rw [hsetOp, ha, hh]
  simp only [ok_bind, decide_eq_true hw, hv, Bool.and_true, needLegal_true]
  rfl

theorem issue_hset_illegal (ha : readS f.reg s = .ok a) (hh : readH f.x s = .ok h)
    (hv : 2 ^ (hField f.fld.toNat).2 ≤ a.toNat ∨
      handleValid (setField (handleToCome f.x s) (hField f.fld.toNat).1 (hField f.fld.toNat).2 a.toNat) = false) :
    issue s (hsetOp f s) = .next (Claims.trapped 0x01 s.ctx.syl s) := by
  have hno : (decide (a.toNat < 2 ^ (hField f.fld.toNat).2) &&
      handleValid (setField (handleToCome f.x s) (hField f.fld.toNat).1 (hField f.fld.toNat).2 a.toNat)) = false := by
    rcases hv with hv | hv
    · rw [decide_eq_false (Nat.not_lt.2 hv), Bool.false_and]
    · rw [hv, Bool.and_false]
  rw [hsetOp, ha, hh]
  simp only [ok_bind, hno, needLegal_false]
  rfl

theorem issue_hget (hh : readH f.y s = .ok h) : issue s (hgetOp f s) = .next (writeS f.reg 0
    (BitVec.ofNat 64 (h.toNat / 2 ^ (hField f.fld.toNat).1 % 2 ^ (hField f.fld.toNat).2)) 0 s) := by
  have hpos := hField_width_pos f.fld.toNat
  have hw : (hField f.fld.toNat).1 + (hField f.fld.toNat).2 - 1 + 1 - (hField f.fld.toNat).1 = (hField f.fld.toNat).2 := by omega
  rw [hgetOp, hh]
  simp only [ok_bind, dfield, bits, hw]
  rfl

theorem issue_hmov {g : BitVec 256} (hh : readH f.y s = .ok h) (hg : readH f.x s = .ok g) :
    issue s (hmovOp f s) = .next (writeHField f.x 0 256 h.toNat s) := by
  rw [hmovOp, hh, hg]
  rfl

end

theorem handleFields : Claims.HandleFields := by
  refine ⟨fun f s a h ha hh => ⟨issue_hset ha hh, issue_hset_illegal ha hh, fun hp => ?_⟩, fun f s h => issue_hget,
    fun f s h g => issue_hmov, fun h lo w v lo' w' hw hw' hlo hlo' hv => ⟨?_, fun hd => ?_⟩⟩
  · exact (handleToCome_of_no_pend hp).trans (readH_eq hh)
  · exact dfield_setField hlo hw (by omega) hv
  · exact dfield_setField_of_disjoint hlo hw (by omega)

/-! ### Handle loads and stores (03 R97, R98) -/

/-- A held atomic that meets a load has it wait, and nothing else. -/
theorem heldMeets_cases (va : Res Word) (n : Nat) (s : State) :
    heldMeets va n s = none ∨ ∃ w, heldMeets va n s = some (.trap ⟨cWaitHeld, w, some s.ctx.slot⟩) := by
  unfold heldMeets
  split
  · exact .inl rfl
  · dsimp only
    split
    · exact .inr ⟨_, rfl⟩
    · exact .inl rfl

/-- An illegal encoding comes before the wait for a held atomic (01 R34). -/
theorem illegal_best_waitHeld (i w : Word) (k l : Option Nat) : Stop.best (.trap ⟨cIllegal, i, k⟩) (.trap ⟨cWaitHeld, w, l⟩) =
    .trap ⟨cIllegal, i, k⟩ := rfl

theorem gather_illegal {α : Type} (s : State) (va : Res Word) (n : Nat) :
    gather (raiseIllegal s : Res α) [none, heldMeets va n s] = raiseIllegal s := by
  rcases heldMeets_cases va n s with h | ⟨w, h⟩
  · rw [h]
    rfl
  · rw [h]
    exact congrArg (fun e => (.error e : Res α)) (illegal_best_waitHeld s.ctx.syl w (some s.ctx.slot) (some s.ctx.slot))

theorem needAligned_ok {va n : Nat} (s : State) (h : va % n = 0) : needAligned va n s = .ok () := if_pos h

section
variable {f : SH} {s t0 : State} {a : Word} {h : BitVec 256}

/-- An `hld` after its read: the handle it makes, or the illegal-encoding trap. -/
theorem hldOp_eq {v : Nat} (ha : readS f.reg s = .ok a) (hh : readH f.x s = .ok h) (hal : (a + f.disp.signExtend 64).toNat % 32 = 0)
    (hr : globalRead1 (a + f.disp.signExtend 64).toNat 32 s = .ok (v, t0)) :
    hldOp f s = if handleValid (BitVec.ofNat 256 v) then .ok (produceH f.x (BitVec.ofNat 256 v) t0) else raiseIllegal s := by
  rw [hldOp, ha, hh]
  simp only [ok_bind, sx, needAligned_ok s hal, hr, liftMem_ok_eq, stopOf_ok]
  cases handleValid (BitVec.ofNat 256 v) with
  | true => rfl
  | false => exact gather_illegal ..

theorem hstOp_eq {pa : Nat} (ha : readS f.reg s = .ok a) (hh : readH f.y s = .ok h) (hal : (a + f.disp.signExtend 64).toNat % 32 = 0)
    (hx : xlateW .wr (a + f.disp.signExtend 64).toNat s = .ok (pa, t0)) (hr : t0.core.held.length < 128) :
    hstOp f s = .ok (Claims.holding (storePiece pa (a + f.disp.signExtend 64).toNat (natBytes 32 h.toNat) none) t0) := by
  rw [hstOp, ha, hh]
  simp only [ok_bind, sx, needAligned_ok s hal, hx, holdAll_one hr, gather_ok_eq]

end

theorem handleMemory : Claims.HandleMemory := by
  refine ⟨fun f s t0 a h v ha hh hal hr => ⟨fun hv => ?_, fun hv => ?_⟩, fun f s t0 a h pa ha hh hal hx hr => ?_⟩
  · have hop : hldOp f s = .ok (produceH f.x (BitVec.ofNat 256 v) t0) := by rw [hldOp_eq ha hh hal hr, if_pos hv]
    exact ⟨_, _, congrArg (issue s) hop, rfl, rfl, Nat.le_add_right .., rfl⟩
  · have hop : hldOp f s = raiseIllegal s := by rw [hldOp_eq ha hh hal hr, hv, if_neg Bool.false_ne_true]
    exact congrArg (issue s) hop
  · exact congrArg (issue s) (hstOp_eq ha hh hal hx hr)

/-! ### Port descriptors (03 R103-R105) -/

section
variable {f : SH} {s : State} {a : Word}

theorem issue_pcfg {t0 : State} {bs : List Byte} (ha : readS f.reg s = .ok a)
    (hr : spadRead ((offsFrom ((a + f.disp.signExtend 64) &&& ~~~31).toNat 32).map fun (n : Nat) => (n : Int)) 0
      ((a + f.disp.signExtend 64) &&& ~~~31) s = .ok (bs, t0)) : issue s (pcfgOp f s) =
    .next { t0 with ctx := { t0.ctx with ends := t0.ctx.ends ++ [.pcfg (portIx f.x) (BitVec.ofNat 256 (leNat bs))] } } := by
  rw [pcfgOp, ha]
  simp only [ok_bind, sx, hr]
  rfl

theorem issue_pset (ha : readS f.reg s = .ok a) (hv : psetOk f.fld.toNat a = true) : issue s (psetOp f s) =
    .next { s with ctx := { s.ctx with ends := s.ctx.ends ++ [.pset (portIx f.x) f.fld.toNat a] } } := by
  rw [psetOp, ha]
  simp only [ok_bind, hv, needLegal_true]
  rfl

theorem issue_pset_illegal (ha : readS f.reg s = .ok a) (hv : psetOk f.fld.toNat a = false) :
    issue s (psetOp f s) = .next (Claims.trapped 0x01 s.ctx.syl s) := by
  rw [psetOp, ha]
  simp only [ok_bind, hv, needLegal_false]
  rfl

end

/-- A field takes its value's low bits. -/
theorem setField_mod (d : BitVec 256) (lo w v : Nat) : setField d lo w (v % 2 ^ w) = setField d lo w v := by
  rw [setField, setField, Nat.mod_mod]

theorem sint_toNat (x : BitVec 32) : sint 32 x.toNat = x.toInt := by
  rw [sint, Nat.mod_eq_of_lt x.isLt, BitVec.toInt_eq_toNat_cond]
  grind

section
variable (d : BitVec 256) {v : Word} {lo w hi : Nat}

/-- An unsigned field of a descriptor reads back. -/
theorem word_dfield_setField (h : lo + w ≤ 256) (hw : 0 < w) (hhi : hi + 1 = lo + w) (hv : v.toNat < 2 ^ w) :
    word (dfield (setField d lo w v.toNat) hi lo) = v := by
  rw [dfield_setField h hw hhi hv, word, BitVec.ofNat_toNat, BitVec.setWidth_eq]

/-- A field that holds one less than its value reads back (03 R104). -/
theorem word_dfield_setField_pred (h : lo + w ≤ 256) (hw : 0 < w) (hhi : hi + 1 = lo + w) (h1 : 1 ≤ v.toNat) (hv : v.toNat ≤ 2 ^ w) :
    word (dfield (setField d lo w (v.toNat - 1)) hi lo + 1) = v := by
  rw [dfield_setField h hw hhi (by omega), Nat.sub_add_cancel h1, word, BitVec.ofNat_toNat, BitVec.setWidth_eq]

/-- A signed field of a descriptor reads back the value that fits it. -/
theorem dsfield_setField (h : lo + 32 ≤ 256) (hv : v = (v.setWidth 32).signExtend 64) :
    BitVec.ofInt 64 (dsfield (setField d lo 32 v.toNat) lo) = v := by
  have hd : dfield (setField d lo 32 v.toNat) (lo + 31) lo = (v.setWidth 32).toNat := by
    rw [← setField_mod, dfield_setField h (by decide) (by omega) (Nat.mod_lt _ (by decide)), BitVec.toNat_setWidth]
  rw [dsfield, hd, sint_toNat]
  exact hv.symm

/-- The range of a field, from the two tests that make it (03 R104). -/
theorem range_of_tests {m n k : Nat} (h : (decide (m ≤ n) && decide (n ≤ k)) = true) : m ≤ n ∧ n ≤ k :=
  (Bool.and_eq_true_iff.1 h).imp of_decide_eq_true of_decide_eq_true

/-- Each field of a descriptor reads back the value in its range that `pset` has given it. -/
theorem pgetVal_psetDesc (fld : Nat) (hv : psetOk fld v = true) : pgetVal (psetDesc d fld v) fld = v := by
  match fld, hv with
  | 0, hv => exact word_dfield_setField d (by decide) (by decide) rfl (of_decide_eq_true hv)
  | 1, hv | 2, hv | 3, hv =>
    exact word_dfield_setField d (by decide) (by decide) rfl (Nat.lt_succ_of_le (range_of_tests hv).2)
  | 4, hv | 5, hv | 6, hv => exact dsfield_setField d (by decide) (eq_of_beq hv)
  | 7, hv | 10, hv =>
    exact word_dfield_setField d (by decide) (by decide) rfl ((Nat.lt_succ_of_le (of_decide_eq_true hv)).trans (by decide : 3 < 4))
  | 8, hv | 9, hv | 13, hv | 14, hv | _ + 15, hv =>
    exact word_dfield_setField d (by decide) (by decide) rfl (Nat.lt_succ_of_le (of_decide_eq_true hv))
  | 11, hv | 12, hv =>
    exact word_dfield_setField_pred d (by decide) (by decide) rfl (range_of_tests hv).1 (range_of_tests hv).2

end

theorem portConfiguration : Claims.PortConfiguration :=
  ⟨fun _ _ _ _ _ => issue_pcfg, fun _ _ _ ha => ⟨issue_pset ha, issue_pset_illegal ha⟩, fun _ _ => rfl,
    fun s _ fld _ hp _ hv => (congrArg (pgetVal · fld) (portDesc_setPort _ s hp)).trans (pgetVal_psetDesc _ fld hv)⟩

/-- Settles O13, part by part. -/
theorem handlesAndPorts : Obligations.HandlesAndPorts := ⟨handleFields, handleMemory, portConfiguration⟩

end Sys2Proof.Machine
end

section
/-! SUPPORT. Scratchpad reads, writes and full/empty bits, and the other load-store instructions (O15). -/

namespace Sys2Proof.Machine

/-! ### Scratchpad reads (04 R108, R116) -/

theorem mem_granulesOf {g : Nat} {os : List Nat} : g ∈ granulesOf os ↔ ∃ o ∈ os, o / 16 = g := by
  simp [granulesOf, List.mem_eraseDups]

/-- The granules of some offsets are full when each offset lies in a full granule. -/
theorem all_granFull_iff {offs : List Int} {s : State} : (granulesOf (offs.map Int.toNat)).all (granFull s) = true ↔
    ∀ o ∈ offs, SMap.get false s.core.full (o.toNat / 16) = true := by
  simp [List.all_eq_true, mem_granulesOf, granFull]

/-- No access waits where nothing is outstanding for the scratchpad. -/
theorem spadBusy_of_none_outstanding {s : State} (os : List Nat) (hp : s.core.st.pend = []) (hi : s.core.st.imgs = []) (hm : s.core.mq = [])
    (hs : s.core.sq = []) : spadBusy s os = false := by
  simp [spadBusy, imgBusy, hp, hi, hm, hs]

section
variable {offs : List Int} {fe : Nat} {s : State} (info : Word)

theorem spadRead_outside (hw : inWindow s offs = false) : spadRead offs fe info s = .error (.trap ⟨0x05, info, some s.ctx.slot⟩) := by
  rw [spadRead, hw]
  rfl

theorem spadRead_empty (hw : inWindow s offs = true) (hfe : fe ≠ 0)
    (he : ∃ o ∈ offs, SMap.get false s.core.full (o.toNat / 16) = false) : spadRead offs fe info s = .error .stall := by
  have hq : (granulesOf (offs.map Int.toNat)).all (granFull s) = false := by
    rw [← Bool.not_eq_true, all_granFull_iff]
    obtain ⟨o, ho, hf⟩ := he
    exact fun h => absurd (h o ho) (by simp [hf])
  simp only [spadRead, hw, decide_eq_false hfe, hq]
  rfl

theorem spadRead_full (hw : inWindow s offs = true) (hq : fe ≠ 0 → ∀ o ∈ offs, SMap.get false s.core.full (o.toNat / 16) = true)
    (hb : spadBusy s (offs.map Int.toNat) = false) : spadRead offs fe info s = .ok (offs.map fun o => SMap.get 0 s.core.scratch o.toNat,
      if fe = 2 then clearAtEnd (granulesOf (offs.map Int.toNat)) s else s) := by
  have hg : (decide (fe = 0) || (granulesOf (offs.map Int.toNat)).all (granFull s)) = true := by
    rw [Bool.or_eq_true, decide_eq_true_eq, all_granFull_iff]
    exact Decidable.or_iff_not_imp_left.2 hq
  simp only [spadRead, hw, hg, hb, List.map_map]
  rfl

/-- A scratchpad read changes the bundle's context alone. -/
theorem spadRead_state {info : Word} {bs : List Byte} {u : State} (h : spadRead offs fe info s = .ok (bs, u)) :
    u = { s with ctx := u.ctx } := by
  obtain ⟨_, -, h⟩ := bind_eq_ok.1 h
  obtain ⟨_, -, h⟩ := bind_eq_ok.1 h
  obtain ⟨_, -, h⟩ := bind_eq_ok.1 h
  cases h
  split <;> rfl

end

theorem scratchpadReads : Claims.ScratchpadReads := by
  refine fun offs fe info s => ⟨spadRead_outside info, spadRead_empty info, fun hw hq hp hi hm hs =>
    ⟨_, spadRead_full info hw hq (spadBusy_of_none_outstanding _ hp hi hm hs), ?_, ?_⟩⟩
  · split <;> rfl
  · split
    · rfl
    · exact (List.append_nil _).symm

/-! ### sld, sst and sfe (09 R213-R215) -/

/-- Where the qualifier of a write is not 0, the granules of its bytes are set full (04 R117). -/
theorem fullBits_toNat (fe : BitVec 2) (os : List Nat) :
    fullBits fe.toNat os = if fe = 0 then [] else (os.map (· / 16)).eraseDups.map fun g => (g, true) := by
  have hz : fe.toNat = 0 ↔ fe = 0 := BitVec.toNat_inj (y := 0#2)
  simp only [fullBits, hz, granulesOf]

section
variable {f : LS} {s t0 : State} {a : Word}

theorem sldOp_eq {bs : List Byte} (ha : lsAddr f s = .ok a) (hr : spadRead (spadOffs a (lsSize f)) f.fe.toNat a s = .ok (bs, t0)) :
    sldOp f s = .ok (if f.fe = 0 then writeS (f0Reg f) 3 (lsExtend f (leNat bs)) 0 t0
      else produceAt (f0Reg f) (lsExtend f (leNat bs)) (s.now + real s 3) t0) := by
  have hnow : t0.now + real t0 3 = s.now + real s 3 := by
    rw [spadRead_state hr]
    rfl
  rw [sldOp, ha, ok_bind, hr, ← hnow]
  rfl

theorem sstOp_eq {v : Word} (ha : lsAddr f s = .ok a) (hv : readS (f0Reg f) s = .ok v)
    (hc : spadWriteCheck (spadOffs a (lsSize f)) f.fe.toNat a s = .ok ()) :
    sstOp f s = .ok (writeSpad 11 ((offsFrom a.toNat (lsSize f)).zip (natBytes (lsSize f) v.toNat))
      (fullBits f.fe.toNat (offsFrom a.toNat (lsSize f))) 0 s) := by
  rw [sstOp, ha, hv]
  simp only [ok_bind, hc, gather_ok_eq]

/-- The full/empty bits that an `sfe` of n granules from the offset o sets or empties (09 R215). -/
def sfeBits (o n : Nat) (full : Bool) : List (Nat × Bool) :=
  (List.range ((o + 16 * n - 1) / 16 + 1 - o / 16)).map fun i => (o / 16 + i, full)

theorem mem_sfeBits {o n : Nat} {full b : Bool} {g : Nat} (hn : n ≠ 0) :
    (g, b) ∈ sfeBits o n full ↔ b = full ∧ o / 16 ≤ g ∧ 16 * g < o + 16 * n := by
  simp only [sfeBits, List.mem_map, List.mem_range, Prod.mk.injEq]
  constructor
  · rintro ⟨i, hi, rfl, rfl⟩
    exact ⟨rfl, by omega, by omega⟩
  · rintro ⟨rfl, hlo, hhi⟩
    exact ⟨g - o / 16, by omega, by omega, rfl⟩

theorem sfeOp_zero (ha : lsAddr f s = .ok a) (hn : readS (f0Reg f) s = .ok 0) : sfeOp f s = .ok s := by
  rw [sfeOp, ha, hn]
  rfl

theorem sfeOp_eq {n : Word} (ha : lsAddr f s = .ok a) (hn : readS (f0Reg f) s = .ok n) (h0 : n ≠ 0)
    (hw : a.toNat + 16 * n.toNat ≤ splitBytes s.core.split) :
    sfeOp f s = .ok (writeSpad 11 [] (sfeBits a.toNat n.toNat (f.fe == 2)) 0 s) := by
  rw [sfeOp, ha, hn]
  simp only [ok_bind, if_neg h0, decide_eq_true hw, need_true, gather_ok_eq]
  rfl

end

/-- A result with a known clock leaves the core as it is, and makes its register a destination at the end of the bundle (01 R32). -/
theorem produceAt_effect (f : LS) (v : Word) (n : Nat) (s : State) : (produceAt (f0Reg f) v n s).core = s.core ∧
    (produceAt (f0Reg f) v n s).ctx.ends =
      s.ctx.ends ++ [.produce ⟨s.nextId, .sreg (f.f0.setWidth 5), some (v.setWidth 256), n, false, false, true⟩] := by
  rw [← f0Reg_reg]
  exact ⟨rfl, rfl⟩

theorem scratchpadInstructions : Claims.ScratchpadInstructions := by
  refine ⟨fun f s t0 a bs ha hr => ?load, fun f s a v ha hv hc => ?store, fun f s a n ha hn => ⟨?none, fun h0 hw => ?bits⟩⟩
  case load =>
    have hop := sldOp_eq ha hr
    refine ⟨fun h => ?_, fun h => ?_⟩
    · rw [if_pos h] at hop
      exact congrArg (issue s) hop
    · rw [if_neg h] at hop
      exact ⟨_, congrArg (issue s) hop, produceAt_effect ..⟩
  case store =>
    rw [← fullBits_toNat]
    exact congrArg (issue s) (sstOp_eq ha hv hc)
  case none =>
    rintro rfl
    exact congrArg (issue s) (sfeOp_zero ha hn)
  case bits =>
    have hn0 : n.toNat ≠ 0 := fun h => h0 (BitVec.eq_of_toNat_eq h)
    refine ⟨_, congrArg (issue s) (sfeOp_eq ha hn h0 hw), fun g => ?_, fun e he => ((mem_sfeBits hn0).1 he).1⟩
    simp [mem_sfeBits hn0]

/-! ### dpop, wmc, pref, tmrd and wmrd (09 R225-R229, 10 R232) -/

theorem popPort_id {k : Nat} {s t : State} {v : Vec} (h : popPort k s = .ok (v, t)) : t.core.id = s.core.id := by
  obtain ⟨_, -, h⟩ := bind_eq_ok.1 h
  obtain ⟨⟨_, u⟩, hu, h⟩ := bind_eq_ok.1 h
  cases h
  change u.core.id = s.core.id
  rw [spadRead_state hu]

theorem popQueue_id {n : Nat} {s t : State} {v : Vec} (h : popQueue n s = .ok (v, t)) : t.core.id = s.core.id := by
  unfold popQueue at h
  dsimp only at h
  split at h
  · cases h
  · obtain ⟨_, -, h⟩ := bind_eq_ok.1 h
    split at h
    · obtain ⟨_, -, h⟩ := bind_eq_ok.1 h
      cases h
      rfl
    · cases h

theorem popSel_id {sel : BitVec 6} {s t : State} {v : Vec} (h : popSel sel s = .ok (v, t)) : t.core.id = s.core.id := by
  unfold popSel at h
  split at h
  next =>
    cases h
    rfl
  next =>
    dsimp only at h
    split at h
    · obtain ⟨⟨_, u⟩, hu, h⟩ := bind_eq_ok.1 h
      cases h
      exact (popPort_id hu : u.core.id = s.core.id)
    · obtain ⟨⟨_, u⟩, hu, h⟩ := bind_eq_ok.1 h
      cases h
      exact (popQueue_id hu : u.core.id = s.core.id)

/-- A vector source changes ports, queues and the bundle's context, never which core it is. -/
theorem srcVec_id {sel : BitVec 6} {ty : Nat} {s t : State} {v : Vec} (h : srcVec sel ty s = .ok (v, t)) : t.core.id = s.core.id := by
  unfold srcVec at h
  split at h
  · obtain ⟨_, -, h⟩ := bind_eq_ok.1 h
    cases h
    rfl
  · exact popSel_id h

section
variable {f : LS} {s t0 : State} {a : Word}

theorem dpopOp_eq {v : Vec} (ha : lsAddr f s = .ok a)
    (hc : spadWriteCheck (spadOffs (a &&& ~~~63) 64) f.fe.toNat (a &&& ~~~63) s = .ok ()) (hv : popSel (f0Reg f) s = .ok (v, t0)) :
    dpopOp f s = .ok (writeSpad 11 ((offsFrom (a &&& ~~~63).toNat 64).zip (vecBytes v))
      (fullBits f.fe.toNat (offsFrom (a &&& ~~~63).toNat 64)) 0 t0) := by
  rw [dpopOp, ha]
  simp only [ok_bind, hc, hv, gather_ok_eq]

/-- The state that a `wmc` of the vector v to the offset off of the cores ts leaves: the landing is due 8 clocks later (10 R232). -/
def multicasting (ts : List CoreId) (off : Nat) (v : Vec) (full : Bool) (t : State) : State :=
  { t with nextId := t.nextId + 1, mcs := t.mcs ++ [⟨t.now + 8, t.core.id, t.nextId, ts, off, v, full⟩],
           agenda := t.agenda ++ [⟨t.now + 8, .multicastLanding t.nextId⟩] }

theorem wmcOp_eq {v : Vec} (ha : lsAddr f s = .ok a) (hm : mcV s.core.mcw = true) (hw : a.toNat / 64 * 64 + 64 ≤ mcLen s.core.mcw)
    (hv : srcVec (f0Reg f) 0 s = .ok (v, t0)) (ht : mcTargets s.core.id s.core.mcw ≠ []) :
    wmcOp f s = .ok (multicasting (mcTargets s.core.id s.core.mcw) (mcBase s.core.mcw + a.toNat / 64 * 64) v (f.fe == 2) t0) := by
  have hne : ¬(mcTargets s.core.id s.core.mcw).isEmpty = true := by rwa [List.isEmpty_iff]
  rw [wmcOp, ha]
  simp only [ok_bind, hm, decide_eq_true hw, Bool.and_true, need_true, hv, srcVec_id hv, if_neg hne, gather_ok_eq]
  rfl

theorem prefOp_eq (ha : lsAddr f s = .ok a) : prefOp f s = .ok s := by
  rw [prefOp, ha]
  rfl

/-- Words 3 to 12 of a record are read as they stand (14 R322); the check of the record changes no byte of them. -/
theorem tmrdOp_eq {s1 s2 s3 : State} {h : BitVec 256} {p w pa : Nat} {imm : Bool} (hh : readH f.h s = .ok h)
    (hc : checkRec (hTmr h) s = .ok (p, s1)) (hr : globalRead1 (tmrVa s (hTmr h) + 8 * f.disp.toNat) 8 s1 = .ok (w, s2))
    (hx : coreXlate .rd (tmrVa s (hTmr h) + 8 * f.disp.toNat) s1 = .ok ((pa, imm), s3)) :
    tmrdOp f s = .ok (produceVal (f0Reg f) (word (if 3 ≤ f.disp.toNat ∧ f.disp.toNat ≤ 12 then rdN s1 pa 8 else w)) s2.now false s2) := by
  rw [tmrdOp, hh]
  simp only [ok_bind, hc, hr, hx, liftMem_ok_eq, rdN_of_mem (checkRec_reads hc).mem, Bool.and_eq_true, decide_eq_true_eq]

/-- The watermark is the one that the region's read gives before the line is fetched (09 R226, 12 R271). -/
theorem wmrdOp_eq {s1 s2 : State} {pa : Nat} {imm : Bool} {bs : List (List Byte)} (ha : lsAddr f s = .ok a)
    (hx : coreXlate .rd a.toNat s = .ok ((pa, imm), s1)) (hp : isPool pa = false)
    (hr : globalReadWith .rd false [] [(a.toNat, 1)] s = .ok (bs, s2)) :
    wmrdOp f s = .ok (produceVal (f0Reg f) (word (regionMark s pa)) s2.now false s2) := by
  rw [wmrdOp, ha]
  simp only [ok_bind, hx, hp, hr, liftMem_ok_eq, Bool.not_false, need_true]

end

/-- A variable-latency result leaves the core as it is, and makes its register a destination at the end of the bundle (01 R32). -/
theorem produceVal_effect (f : LS) (v : Word) (s : State) : (produceVal (f0Reg f) v s.now false s).core = s.core ∧
    (produceVal (f0Reg f) v s.now false s).ctx.ends =
      s.ctx.ends ++ [.produce ⟨s.nextId, .sreg (f.f0.setWidth 5), some (v.setWidth 256), s.now, false, false, true⟩] := by
  rw [produceVal_ends, f0Reg_reg]
  exact ⟨rfl, rfl⟩

theorem otherLoadStore : Claims.OtherLoadStore := by
  refine ⟨fun f s t0 a v ha hc hv => ?pop, fun f s t0 a v ha hm hw hv ht => ?multicast,
    fun f s a ha => congrArg (issue s) (prefOp_eq ha), fun f s s1 s2 h p w v pa imm s3 hh hc hr hx hv => ?record,
    fun f s s1 s2 a pa imm bs ha hx hp hr => ?watermark⟩
  case pop =>
    rw [← fullBits_toNat]
    exact congrArg (issue s) (dpopOp_eq ha hc hv)
  case multicast => exact ⟨_, congrArg (issue s) (wmcOp_eq ha hm hw hv ht), rfl, rfl, rfl⟩
  case record =>
    subst hv
    exact ⟨_, congrArg (issue s) (tmrdOp_eq hh hc hr hx), produceVal_effect ..⟩
  case watermark => exact ⟨_, congrArg (issue s) (wmrdOp_eq ha hx hp hr), produceVal_effect ..⟩

/-- Settles O15, part by part. -/
theorem scratchpadAccess : Obligations.ScratchpadAccess := ⟨scratchpadInstructions, scratchpadReads, otherLoadStore⟩

end Sys2Proof.Machine
end

section
/-! SUPPORT. The stochastic generator (O17). -/
namespace Sys2Proof.Machine

/-! ### The generator's step (05 R135) -/

/-- A shift to the left moves the lowest 1 bit, so it gives back no word but 0. -/
theorem eq_zero_of_xor_shiftLeft {w k : Nat} {x : BitVec w} (hk : 0 < k) (h : x ^^^ x <<< k = 0) : x = 0 := by
  have hx : x = x <<< k := BitVec.xor_eq_zero_iff.1 h
  have hbit : ∀ i, x.getLsbD i = false := fun i => by
    induction i using Nat.strong_induction_on with
    | _ i ih =>
      rw [hx, BitVec.getLsbD_shiftLeft]
      by_cases hi : i < k
      · simp [hi]
      · simp [ih (i - k) (by omega)]
  exact BitVec.eq_of_getLsbD_eq fun i _ => (hbit i).trans (by simp)

/-- A shift to the right makes every number but 0 smaller. -/
theorem eq_zero_of_xor_shiftRight {w k : Nat} {x : BitVec w} (hk : 0 < k) (h : x ^^^ x >>> k = 0) : x = 0 := by
  have hx : x.toNat = x.toNat / 2 ^ k := by
    conv_lhs => rw [BitVec.xor_eq_zero_iff.1 h, BitVec.toNat_ushiftRight, Nat.shiftRight_eq_div_pow]
  by_contra hne
  have hpos : 0 < x.toNat := Nat.pos_of_ne_zero fun h0 => hne (BitVec.eq_of_toNat_eq h0)
  exact absurd hx (Nat.div_lt_self hpos (Nat.one_lt_two_pow (by omega))).ne'

theorem rngNext_ne_zero {x : Word} (h : x ≠ 0) : rngNext x ≠ 0 := fun h0 =>
  h (eq_zero_of_xor_shiftLeft (by decide) (eq_zero_of_xor_shiftRight (by decide) (eq_zero_of_xor_shiftLeft (by decide) h0)))

theorem draw_eq (x : Word) : (x >>> 48).toNat = (x.extractLsb' 48 16 : BitVec 16).toNat := by
  have h : x.toNat >>> 48 < 2 ^ 16 := by
    rw [Nat.shiftRight_eq_div_pow]
    have := x.isLt
    omega
  rw [BitVec.toNat_ushiftRight, BitVec.extractLsb'_toNat, Nat.mod_eq_of_lt h]

/-- Settles O17: each of the three steps of the generator gives 0 for 0 alone. -/
theorem generatorSteps : Obligations.GeneratorSteps :=
  ⟨fun _ => rfl, fun _ s => ⟨_, rfl, draw_eq (rngNext s.core.st.a.seed), rfl⟩, fun _ => rngNext_ne_zero, by decide, by decide⟩

end Sys2Proof.Machine
end

section
/-! SUPPORT. Exact values as rationals, their binades, and the magnitude that a rounding keeps (O16). -/
namespace Sys2Proof.Machine

/-! ### Exact values as rationals -/

theorem scaled_den_ne (n k : Int) : (Q.scaled n k).den ≠ 0 := by
  unfold Q.scaled
  split
  · exact one_ne_zero
  · exact (Nat.two_pow_pos _).ne'

theorem rat_scaled (n k : Int) : Claims.rat (.scaled n k) = n * (2 : ℚ) ^ k := by
  unfold Claims.rat Q.scaled
  split
  next h =>
    lift k to ℕ using h
    simp
  next h =>
    obtain ⟨j, rfl⟩ : ∃ j : ℕ, k = -j := ⟨(-k).toNat, by omega⟩
    simp [div_eq_mul_inv]

theorem rat_abs_natAbs (q : Q) : |Claims.rat q| = (q.num.natAbs : ℚ) / q.den := by
  rw [Claims.rat, abs_div, Nat.abs_cast, Nat.cast_natAbs, Int.cast_abs]

theorem lt_iff_rat {a b : Q} (ha : a.den ≠ 0) (hb : b.den ≠ 0) : a.lt b = true ↔ Claims.rat a < Claims.rat b := by
  have ha' : (0 : ℚ) < a.den := by positivity
  have hb' : (0 : ℚ) < b.den := by positivity
  rw [Q.lt, decide_eq_true_iff, Claims.rat, Claims.rat, div_lt_div_iff₀ ha' hb']
  norm_cast

theorem eq_iff_rat {a b : Q} (ha : a.den ≠ 0) (hb : b.den ≠ 0) : a.eq b = true ↔ Claims.rat a = Claims.rat b := by
  have ha' : (a.den : ℚ) ≠ 0 := by positivity
  have hb' : (b.den : ℚ) ≠ 0 := by positivity
  rw [Q.eq, beq_iff_eq, Claims.rat, Claims.rat, div_eq_div_iff ha' hb']
  norm_cast

/-! ### The exponent of a value (05 R134) -/

theorem two_zpow_le_iff {a d : Nat} (hd : d ≠ 0) (k : Int) :
    (if 0 ≤ k then d * 2 ^ k.toNat ≤ a else d ≤ a * 2 ^ (-k).toNat) ↔ (2 : ℚ) ^ k ≤ a / d := by
  have hd' : (0 : ℚ) < d := by positivity
  rw [le_div_iff₀ hd']
  split
  next h =>
    lift k to ℕ using h
    rw [Int.toNat_natCast, zpow_natCast, mul_comm]
    norm_cast
  next h =>
    obtain ⟨j, rfl⟩ : ∃ j : ℕ, k = -j := ⟨(-k).toNat, by omega⟩
    rw [neg_neg, Int.toNat_natCast, zpow_neg, zpow_natCast, inv_mul_le_iff₀ (by positivity), mul_comm]
    norm_cast

theorem log2_bounds {n : Nat} (h : n ≠ 0) : (2 : ℚ) ^ (n.log2 : Int) ≤ n ∧ (n : ℚ) < 2 ^ ((n.log2 : Int) + 1) := by
  have h1 := Nat.log2_self_le h
  have h2 : n < 2 ^ (n.log2 + 1) := Nat.lt_log2_self
  exact ⟨by exact_mod_cast h1, by exact_mod_cast h2⟩

theorem floorLog2_eq_ite {a d : Nat} (hd : d ≠ 0) : floorLog2 a d =
    if (2 : ℚ) ^ ((a.log2 : Int) - d.log2) ≤ a / d then (a.log2 : Int) - d.log2 else a.log2 - d.log2 - 1 :=
  if_congr (two_zpow_le_iff hd _) rfl rfl

theorem floorLog2_bounds {a d : Nat} (ha : a ≠ 0) (hd : d ≠ 0) :
    (2 : ℚ) ^ floorLog2 a d ≤ a / d ∧ (a : ℚ) / d < 2 ^ (floorLog2 a d + 1) := by
  have hd' : (0 : ℚ) < d := by positivity
  obtain ⟨ha1, ha2⟩ := log2_bounds ha
  obtain ⟨hd1, hd2⟩ := log2_bounds hd
  have hlow : (2 : ℚ) ^ ((a.log2 : Int) - d.log2 - 1) ≤ a / d := by
    rw [le_div_iff₀ hd']
    calc (2 : ℚ) ^ ((a.log2 : Int) - d.log2 - 1) * d ≤ 2 ^ ((a.log2 : Int) - d.log2 - 1) * 2 ^ ((d.log2 : Int) + 1) := by gcongr
      _ = 2 ^ (a.log2 : Int) := by rw [← zpow_add₀ two_ne_zero]; congr 1; ring
      _ ≤ a := ha1
  have hhigh : (a : ℚ) / d < 2 ^ ((a.log2 : Int) - d.log2 + 1) := by
    rw [div_lt_iff₀ hd']
    calc (a : ℚ) < 2 ^ ((a.log2 : Int) + 1) := ha2
      _ = 2 ^ ((a.log2 : Int) - d.log2 + 1) * 2 ^ (d.log2 : Int) := by rw [← zpow_add₀ two_ne_zero]; congr 1; ring
      _ ≤ 2 ^ ((a.log2 : Int) - d.log2 + 1) * d := by gcongr
  rw [floorLog2_eq_ite hd]
  split
  next h => exact ⟨h, hhigh⟩
  next h => exact ⟨hlow, by rw [sub_add_cancel]; exact lt_of_not_ge h⟩

theorem zpow_bounds_unique {x : ℚ} {e e' : Int} (h1 : (2 : ℚ) ^ e ≤ x) (h2 : x < 2 ^ (e + 1)) (h1' : (2 : ℚ) ^ e' ≤ x)
    (h2' : x < 2 ^ (e' + 1)) : e = e' := by
  have ha := (zpow_lt_zpow_iff_right₀ (one_lt_two (α := ℚ))).1 (h1.trans_lt h2')
  have hb := (zpow_lt_zpow_iff_right₀ (one_lt_two (α := ℚ))).1 (h1'.trans_lt h2)
  omega

theorem floorLog2_eq {a d : Nat} {e : Int} (ha : a ≠ 0) (hd : d ≠ 0) (h1 : (2 : ℚ) ^ e ≤ a / d) (h2 : (a : ℚ) / d < 2 ^ (e + 1)) :
    floorLog2 a d = e :=
  zpow_bounds_unique (floorLog2_bounds ha hd).1 (floorLog2_bounds ha hd).2 h1 h2

/-! ### The kept magnitude (05 R134) -/

theorem keeps_unique {mode r : Nat} {x u : ℚ} {m n : ℤ} (hm : Claims.keeps mode r x u m) (hn : Claims.keeps mode r x u n) : m = n := by
  rcases hm with ⟨rfl, hm⟩ | ⟨rfl, hm⟩ <;> rcases hn with ⟨rfl, hn⟩ | ⟨rfl, hn⟩
  · rfl
  · exact absurd hm hn
  · exact absurd hn hm
  · rfl

/-- A value in whole units keeps all of them. -/
theorem keeps_of_units {mode r : Nat} {x u : ℚ} {m : ℤ} (hr : r < 65536) (hu : u ≠ 0) (h : |x| = m * u) : Claims.keeps mode r x u m := by
  have hq : |x| / u = m := by rw [h, mul_div_assoc, div_self hu, mul_one]
  refine .inr ⟨by rw [hq, Int.floor_intCast], ?_⟩
  rw [hq, Int.floor_intCast, sub_self, Claims.roundsUp, zero_mul, Int.floor_zero]
  rintro (⟨-, h | ⟨h, -⟩⟩ | ⟨-, h⟩)
  · norm_num at h
  · norm_num at h
  · omega

theorem floor_natDiv (a b : Nat) : ⌊(a : ℚ) / b⌋ = ((a / b : Nat) : ℤ) := Rat.floor_natCast_div_natCast a b

theorem fract_natDiv {a b : Nat} (hb : b ≠ 0) : (a : ℚ) / b - ((a / b : Nat) : ℤ) = ((a % b : Nat) : ℚ) / b := by
  have hb' : (b : ℚ) ≠ 0 := by positivity
  have h : ((b * (a / b) + a % b : Nat) : ℚ) = a := congrArg _ (Nat.div_add_mod a b)
  rw [Nat.cast_add, Nat.cast_mul] at h
  rw [Int.cast_natCast, eq_div_iff hb', sub_mul, div_mul_cancel₀ _ hb']
  linarith

/-- The numerator and the denominator of a / d in units of 2^k. -/
def unitsNum (a : Nat) (k : Int) : Nat := if 0 ≤ k then a else a * 2 ^ (-k).toNat
def unitsDen (d : Nat) (k : Int) : Nat := if 0 ≤ k then d * 2 ^ k.toNat else d

theorem unitsDen_ne {d : Nat} (hd : d ≠ 0) (k : Int) : unitsDen d k ≠ 0 := by unfold unitsDen; split <;> positivity

theorem units_eq (a d : Nat) (k : Int) : (unitsNum a k : ℚ) / unitsDen d k = a / d / 2 ^ k := by
  unfold unitsNum unitsDen
  split
  next h =>
    lift k to ℕ using h
    simp [div_div]
  next h =>
    obtain ⟨j, rfl⟩ : ∃ j : ℕ, k = -j := ⟨(-k).toNat, by omega⟩
    simp
    ring

/-- Whether the quotient n / d is rounded up. -/
def upBit (mode r n d : Nat) : Bool :=
  match mode with
  | 0 => 2 * (n % d) > d || (2 * (n % d) == d && n / d % 2 == 1)
  | 1 => false
  | _ => n % d * 65536 / d + r ≥ 65536

theorem roundUnits_eq (a d : Nat) (k : Int) (mode r : Nat) : roundUnits a d k mode r =
    if upBit mode r (unitsNum a k) (unitsDen d k) = true then unitsNum a k / unitsDen d k + 1 else unitsNum a k / unitsDen d k := rfl

/-- The model's choice to round up is the spec's. -/
theorem roundsUp_iff {n d mode r : Nat} (hd : d ≠ 0) (hm : mode ≤ 2) :
    Claims.roundsUp mode r ((n / d : Nat) : ℤ) (((n % d : Nat) : ℚ) / d) ↔ upBit mode r n d = true := by
  have hd' : (0 : ℚ) < d := by positivity
  have hhalf : (1 : ℚ) / 2 < ((n % d : Nat) : ℚ) / d ↔ d < 2 * (n % d) := by
    rw [div_lt_div_iff₀ two_pos hd', one_mul, mul_comm]
    norm_cast
  have htie : ((n % d : Nat) : ℚ) / d = 1 / 2 ↔ 2 * (n % d) = d := by
    rw [div_eq_div_iff hd'.ne' two_ne_zero, one_mul, mul_comm]
    norm_cast
  have hfl : ⌊((n % d : Nat) : ℚ) / d * 65536⌋ = ((n % d * 65536 / d : Nat) : ℤ) := by
    rw [← floor_natDiv, div_mul_eq_mul_div, Nat.cast_mul, Nat.cast_ofNat]
  rw [Claims.roundsUp, hhalf, htie, hfl]
  obtain rfl | rfl | rfl : mode = 0 ∨ mode = 1 ∨ mode = 2 := by omega
  · simp [upBit]
    omega
  · simp [upBit]
  · simp [upBit]
    norm_cast

theorem keeps_roundUnits {a d mode r : Nat} {k : Int} {x : ℚ} (hd : d ≠ 0) (hm : mode ≤ 2) (hx : |x| = a / d) :
    Claims.keeps mode r x (2 ^ k) (roundUnits a d k mode r) := by
  rw [Claims.keeps, hx, ← units_eq a d k, floor_natDiv, fract_natDiv (unitsDen_ne hd k), roundsUp_iff (unitsDen_ne hd k) hm, roundUnits_eq]
  split
  next h => exact .inl ⟨by push_cast; rfl, h⟩
  next h => exact .inr ⟨rfl, h⟩

theorem roundUnits_of_keeps {a d mode r : Nat} {k m : Int} {x : ℚ} (hd : d ≠ 0) (hm : mode ≤ 2) (hx : |x| = a / d)
    (h : Claims.keeps mode r x (2 ^ k) m) : (roundUnits a d k mode r : ℤ) = m :=
  keeps_unique (keeps_roundUnits hd hm hx) h

end Sys2Proof.Machine
end

section
/-! SUPPORT. The codes of the floating formats, and how a value on the grid is encoded (O16). -/
namespace Sys2Proof.Machine

/-! ### The codes of the floating formats (05 R127, R128) -/

/-- What f32, bf16, e4m3 and e5m2 have in common: `f` is the format of `ty`, and its finite codes are those whose exponent field and mantissa
field, as one number, are at most those of the largest finite value, `eT` and `mT`. -/
structure Laid (ty : Nat) (f : FFmt) (eT mT : Nat) : Prop where
  fmt : ffmt ty = some f
  ne4 : ty ≠ 4
  width : widthOf ty = f.eb + f.mb + 1
  prec : f.p = f.mb + 1
  emin : f.emin = 1 - f.bias
  maxN : f.maxN = 2 ^ f.mb + mT
  maxK : f.maxK = eT - f.bias - f.mb
  mT_lt : mT < 2 ^ f.mb
  eT_pos : 0 < eT
  eT_lt : eT < 2 ^ f.eb
  special_iff : ∀ E < 2 ^ f.eb, ∀ M < 2 ^ f.mb,
    (ty ≠ 2 ∧ E = 2 ^ f.eb - 1 ∨ ty = 2 ∧ E = 15 ∧ M = 7) ↔ eT * 2 ^ f.mb + mT < E * 2 ^ f.mb + M

theorem laid_f32 : Laid 0 ⟨24, -126, 8, 23, 127, 16777215, 104⟩ 254 8388607 where
  fmt := rfl
  ne4 := by decide
  width := rfl
  prec := rfl
  emin := rfl
  maxN := rfl
  maxK := rfl
  mT_lt := by decide
  eT_pos := by decide
  eT_lt := by decide
  special_iff := fun E hE M hM => by
    change (0 ≠ 2 ∧ E = 255 ∨ 0 = 2 ∧ E = 15 ∧ M = 7) ↔ 254 * 8388608 + 8388607 < E * 8388608 + M
    change E < 256 at hE
    change M < 8388608 at hM
    omega

theorem laid_bf16 : Laid 1 ⟨8, -126, 8, 7, 127, 255, 120⟩ 254 127 where
  fmt := rfl
  ne4 := by decide
  width := rfl
  prec := rfl
  emin := rfl
  maxN := rfl
  maxK := rfl
  mT_lt := by decide
  eT_pos := by decide
  eT_lt := by decide
  special_iff := fun E hE M hM => by
    change (1 ≠ 2 ∧ E = 255 ∨ 1 = 2 ∧ E = 15 ∧ M = 7) ↔ 254 * 128 + 127 < E * 128 + M
    change E < 256 at hE
    change M < 128 at hM
    omega

theorem laid_e4m3 : Laid 2 ⟨4, -6, 4, 3, 7, 14, 5⟩ 15 6 where
  fmt := rfl
  ne4 := by decide
  width := rfl
  prec := rfl
  emin := rfl
  maxN := rfl
  maxK := rfl
  mT_lt := by decide
  eT_pos := by decide
  eT_lt := by decide
  special_iff := fun E hE M hM => by
    change (2 ≠ 2 ∧ E = 15 ∨ 2 = 2 ∧ E = 15 ∧ M = 7) ↔ 15 * 8 + 6 < E * 8 + M
    change E < 16 at hE
    change M < 8 at hM
    omega

theorem laid_e5m2 : Laid 3 ⟨3, -14, 5, 2, 15, 7, 13⟩ 30 3 where
  fmt := rfl
  ne4 := by decide
  width := rfl
  prec := rfl
  emin := rfl
  maxN := rfl
  maxK := rfl
  mT_lt := by decide
  eT_pos := by decide
  eT_lt := by decide
  special_iff := fun E hE M hM => by
    change (3 ≠ 2 ∧ E = 31 ∨ 3 = 2 ∧ E = 15 ∧ M = 7) ↔ 30 * 4 + 3 < E * 4 + M
    change E < 32 at hE
    change M < 4 at hM
    omega

theorem exists_laid {ty : Nat} (h : ty ≤ 3) : ∃ f eT mT, Laid ty f eT mT := by
  obtain rfl | rfl | rfl | rfl : ty = 0 ∨ ty = 1 ∨ ty = 2 ∨ ty = 3 := by omega
  exacts [⟨_, _, _, laid_f32⟩, ⟨_, _, _, laid_bf16⟩, ⟨_, _, _, laid_e4m3⟩, ⟨_, _, _, laid_e5m2⟩]

/-- The code of a sign, an exponent field and a mantissa field. -/
def FFmt.code (f : FFmt) (neg : Bool) (E M : Nat) : Nat := (if neg then 2 ^ (f.eb + f.mb) else 0) + (E * 2 ^ f.mb + M)

/-- The magnitude of a finite code is `sig` in units of 2^`unit`: without the leading 1 in the lowest binade (05 R127). -/
def FFmt.sig (f : FFmt) (E M : Nat) : Nat := if E = 0 then M else 2 ^ f.mb + M
def FFmt.unit (f : FFmt) (E : Nat) : Int := (max E 1 : Nat) - f.bias - f.mb

theorem FFmt.sig_zero (f : FFmt) (M : Nat) : f.sig 0 M = M := if_pos rfl
theorem FFmt.sig_pos (f : FFmt) {E : Nat} (h : E ≠ 0) (M : Nat) : f.sig E M = 2 ^ f.mb + M := if_neg h
theorem FFmt.unit_zero (f : FFmt) : f.unit 0 = 1 - f.bias - f.mb := rfl
theorem FFmt.unit_pos (f : FFmt) {E : Nat} (h : E ≠ 0) : f.unit E = (E : Int) - f.bias - f.mb := by
  rw [FFmt.unit, max_eq_left (Nat.pos_of_ne_zero h)]

/-- An integer with a sign. -/
def signed (neg : Bool) (n : Nat) : Int := if neg then -(n : Int) else n

section
variable {ty : Nat} {f : FFmt} {eT mT : Nat} {neg : Bool} {E M : Nat}

theorem expMan_lt (hE : E < 2 ^ f.eb) (hM : M < 2 ^ f.mb) : E * 2 ^ f.mb + M < 2 ^ (f.eb + f.mb) := by
  calc E * 2 ^ f.mb + M < (E + 1) * 2 ^ f.mb := by rw [add_mul]; omega
    _ ≤ 2 ^ f.eb * 2 ^ f.mb := Nat.mul_le_mul_right _ hE
    _ = 2 ^ (f.eb + f.mb) := (pow_add ..).symm

theorem code_lt (hE : E < 2 ^ f.eb) (hM : M < 2 ^ f.mb) : f.code neg E M < 2 ^ (f.eb + f.mb + 1) := by
  have h := expMan_lt hE hM
  rw [pow_succ, FFmt.code]
  split <;> omega

theorem code_sign (hE : E < 2 ^ f.eb) (hM : M < 2 ^ f.mb) : (f.code neg E M / 2 ^ (f.eb + f.mb) == 1) = neg := by
  have h := expMan_lt hE hM
  rw [FFmt.code]
  cases neg
  · simp [Nat.div_eq_of_lt h]
  · simp [Nat.div_eq_of_lt h, Nat.add_div_left _ (Nat.two_pow_pos _)]

theorem code_exp (hE : E < 2 ^ f.eb) (hM : M < 2 ^ f.mb) : f.code neg E M / 2 ^ f.mb % 2 ^ f.eb = E := by
  have hd : (E * 2 ^ f.mb + M) / 2 ^ f.mb = E := by
    rw [mul_comm, Nat.mul_add_div (Nat.two_pow_pos _), Nat.div_eq_of_lt hM, Nat.add_zero]
  rw [FFmt.code]
  cases neg
  · simp [hd, Nat.mod_eq_of_lt hE]
  · simp only [if_true]
    rw [pow_add, Nat.add_comm, Nat.add_mul_div_right _ _ (Nat.two_pow_pos _), hd, Nat.add_mod_right, Nat.mod_eq_of_lt hE]

theorem code_man (hM : M < 2 ^ f.mb) : f.code neg E M % 2 ^ f.mb = M := by
  rw [FFmt.code]
  cases neg
  · simp [Nat.mod_eq_of_lt hM]
  · simp only [if_true]
    rw [pow_add, ← Nat.add_assoc, ← add_mul, Nat.mul_add_mod_self_right, Nat.mod_eq_of_lt hM]

theorem exists_code {c : Nat} (h : c < 2 ^ (f.eb + f.mb + 1)) : ∃ neg, ∃ E < 2 ^ f.eb, ∃ M < 2 ^ f.mb, c = f.code neg E M := by
  refine ⟨decide (2 ^ (f.eb + f.mb) ≤ c), c / 2 ^ f.mb % 2 ^ f.eb, Nat.mod_lt _ (Nat.two_pow_pos _), c % 2 ^ f.mb,
    Nat.mod_lt _ (Nat.two_pow_pos _), ?_⟩
  have hlow : c / 2 ^ f.mb % 2 ^ f.eb * 2 ^ f.mb + c % 2 ^ f.mb = c % 2 ^ (f.eb + f.mb) := by
    rw [add_comm f.eb, pow_add, Nat.mod_mul, mul_comm]
    omega
  rw [FFmt.code, hlow]
  rw [pow_succ] at h
  generalize 2 ^ (f.eb + f.mb) = p at h
  by_cases hc : p ≤ c
  · simp [hc]
    rw [Nat.mod_eq_sub_mod hc, Nat.mod_eq_of_lt (by omega)]
    omega
  · simp [hc, Nat.mod_eq_of_lt (Nat.lt_of_not_le hc)]

/-- The fields of a finite code fit. -/
theorem Laid.exp_lt (L : Laid ty f eT mT) (h : E * 2 ^ f.mb + M ≤ eT * 2 ^ f.mb + mT) : E < 2 ^ f.eb := by
  by_contra hE
  have h1 : (eT + 1) * 2 ^ f.mb ≤ E * 2 ^ f.mb := Nat.mul_le_mul_right _ (by have := L.eT_lt; omega)
  have h2 := L.mT_lt
  rw [add_mul] at h1
  omega

theorem scaled_sig (neg : Bool) (E M : Nat) : Q.scaled (signed neg (f.sig E M)) (f.unit E) =
    if E = 0 then .scaled (if neg then -(M : Int) else M) (1 - f.bias - f.mb)
    else .scaled (if neg then -(2 ^ f.mb + (M : Int)) else 2 ^ f.mb + M) (E - f.bias - f.mb) := by
  unfold signed
  by_cases h : E = 0
  · simp [h, f.sig_zero, f.unit_zero]
  · simp [h, f.sig_pos h, f.unit_pos h]

theorem valueOf_code_eq (L : Laid ty f eT mT) (hE : E < 2 ^ f.eb) (hM : M < 2 ^ f.mb) : valueOf ty (f.code neg E M) =
    if ty ≠ 2 ∧ E = 2 ^ f.eb - 1 then (if M = 0 then .inf neg else .nan neg)
    else if ty = 2 ∧ E = 15 ∧ M = 7 then .nan neg
    else .fin neg (.scaled (signed neg (f.sig E M)) (f.unit E)) := by
  have h4 := L.ne4
  have hw : f.code neg E M % 2 ^ widthOf ty = f.code neg E M := Nat.mod_eq_of_lt (by rw [L.width]; exact code_lt hE hM)
  unfold valueOf
  rw [L.fmt]
  simp only [hw, code_sign hE hM, code_exp hE hM, code_man hM, scaled_sig]
  simp [h4, and_assoc, apply_ite (XV.fin neg)]

theorem valueOf_code (L : Laid ty f eT mT) (hM : M < 2 ^ f.mb) (h : E * 2 ^ f.mb + M ≤ eT * 2 ^ f.mb + mT) :
    valueOf ty (f.code neg E M) = .fin neg (.scaled (signed neg (f.sig E M)) (f.unit E)) := by
  have hE := L.exp_lt h
  have hn := not_or.1 ((not_congr (L.special_iff E hE M hM)).2 (Nat.not_lt.2 h))
  rw [valueOf_code_eq L hE hM, if_neg hn.1, if_neg hn.2]

/-- The finite values of a format are those of the codes up to the largest one. -/
theorem code_of_finite (L : Laid ty f eT mT) {c : Nat} (hc : c < 2 ^ widthOf ty) {s : Bool} {q : Q} (hv : valueOf ty c = .fin s q) :
    ∃ E M, M < 2 ^ f.mb ∧ E * 2 ^ f.mb + M ≤ eT * 2 ^ f.mb + mT ∧ c = f.code s E M := by
  rw [L.width] at hc
  obtain ⟨neg, E, hE, M, hM, rfl⟩ := exists_code hc
  rw [valueOf_code_eq L hE hM] at hv
  have hfin : ¬ (ty ≠ 2 ∧ E = 2 ^ f.eb - 1 ∨ ty = 2 ∧ E = 15 ∧ M = 7) := by
    rintro (h | h)
    · rw [if_pos h] at hv
      split at hv <;> cases hv
    · rw [if_neg (fun g => g.1 h.1), if_pos h] at hv
      cases hv
  obtain ⟨h1, h2⟩ := not_or.1 hfin
  rw [if_neg h1, if_neg h2] at hv
  cases hv
  exact ⟨E, M, hM, Nat.not_lt.1 ((not_congr (L.special_iff E hE M hM)).1 hfin), rfl⟩

/-! ### Encoding a value on the grid (05 R137) -/

/-- The mantissa of n with its leading 1 at the place of the format's hidden bit. -/
def FFmt.man (f : FFmt) (n : Nat) : Nat :=
  if 0 ≤ (f.mb : Int) - n.log2 then n * 2 ^ ((f.mb : Int) - n.log2).toNat else n / 2 ^ (-((f.mb : Int) - n.log2)).toNat

theorem encodeGrid_zero (neg : Bool) (k : Int) : encodeGrid f neg 0 k = f.code neg 0 0 := by simp [encodeGrid, FFmt.code]

theorem encodeGrid_subnormal {n : Nat} {k : Int} (h : (n.log2 : Int) + k < f.emin) : encodeGrid f neg n k = f.code neg 0 n := by
  by_cases hn : n = 0
  · rw [hn, encodeGrid_zero]
  · simp [encodeGrid, FFmt.code, hn, h]

theorem encodeGrid_normal {n : Nat} {k : Int} (hn : n ≠ 0) (h : f.emin ≤ (n.log2 : Int) + k) :
    encodeGrid f neg n k = f.code neg ((n.log2 : Int) + k + f.bias).toNat (f.man n - 2 ^ f.mb) := by
  simp [encodeGrid, FFmt.code, FFmt.man, hn, Int.not_lt.2 h, Nat.add_assoc]

theorem man_shl {n j : Nat} (h : f.mb = n.log2 + j) : f.man n = n * 2 ^ j := by
  have hs : (f.mb : Int) - n.log2 = j := by omega
  rw [FFmt.man, hs, if_pos (Int.natCast_nonneg j), Int.toNat_natCast]

theorem man_shr {n j : Nat} (h : n.log2 = f.mb + j) : f.man n = n / 2 ^ j := by
  have hs : (f.mb : Int) - n.log2 = -j := by omega
  cases j with
  | zero => rw [man_shl (j := 0) (by omega), pow_zero, Nat.mul_one, Nat.div_one]
  | succ j => rw [FFmt.man, hs, if_neg (by omega), neg_neg, Int.toNat_natCast]

theorem man_bounds {n : Nat} (hn : n ≠ 0) : 2 ^ f.mb ≤ f.man n ∧ f.man n < 2 ^ (f.mb + 1) := by
  have h1 := Nat.log2_self_le hn
  have h2 : n < 2 ^ (n.log2 + 1) := Nat.lt_log2_self
  rcases Nat.le_total n.log2 f.mb with h | h <;> obtain ⟨j, hj⟩ := Nat.exists_eq_add_of_le h
  · rw [man_shl hj, hj, Nat.add_right_comm, pow_add, pow_add]
    exact ⟨Nat.mul_le_mul_right _ h1, Nat.mul_lt_mul_of_pos_right h2 (Nat.two_pow_pos j)⟩
  · rw [man_shr hj]
    rw [hj, pow_add] at h1
    rw [hj, Nat.add_right_comm, pow_add, mul_comm] at h2
    exact ⟨(Nat.le_div_iff_mul_le (Nat.two_pow_pos j)).2 h1, Nat.div_lt_of_lt_mul h2⟩

/-- Its value is n where n has no more bits than the format has places, the carry of a rounding included, and never more. -/
theorem man_eq {n : Nat} (hn : n ≤ 2 ^ (f.mb + 1)) : (f.man n : ℚ) * 2 ^ ((n.log2 : Int) - f.mb) = n := by
  rcases Nat.lt_or_ge f.mb n.log2 with h | h
  · obtain rfl : n = 2 ^ (f.mb + 1) := by
      have h0 : n ≠ 0 := by rintro rfl; simp at h
      exact le_antisymm hn ((Nat.le_log2 h0).1 h)
    have hs : ((f.mb + 1 : Nat) : Int) - f.mb = 1 := by omega
    rw [man_shr Nat.log2_two_pow, Nat.log2_two_pow, hs, zpow_one, pow_one, pow_succ, Nat.mul_div_cancel _ two_pos, Nat.cast_mul, Nat.cast_ofNat]
  · obtain ⟨j, hj⟩ := Nat.exists_eq_add_of_le h
    have hs : (n.log2 : Int) - f.mb = -j := by omega
    rw [man_shl hj, hs, zpow_neg, zpow_natCast, Nat.cast_mul, Nat.cast_pow, Nat.cast_ofNat, mul_inv_cancel_right₀ (by positivity)]

theorem man_le (n : Nat) : (f.man n : ℚ) * 2 ^ ((n.log2 : Int) - f.mb) ≤ n := by
  rcases Nat.le_total n.log2 f.mb with h | h
  · have hlt : n < 2 ^ (n.log2 + 1) := Nat.lt_log2_self
    exact (man_eq (hlt.le.trans (Nat.pow_le_pow_right two_pos (by omega)))).le
  · obtain ⟨j, hj⟩ := Nat.exists_eq_add_of_le h
    have hs : (n.log2 : Int) - f.mb = j := by omega
    rw [man_shr hj, hs, zpow_natCast]
    exact_mod_cast Nat.div_mul_le_self n (2 ^ j)

/-- Two significands with a leading 1, the first at most the second as values: so are their codes. -/
theorem code_le_of_value_le {b x y E F : Nat} (hx : 2 ^ b ≤ x) (hx' : x < 2 ^ (b + 1)) (hy : y < 2 ^ (b + 1)) (h : x * 2 ^ E ≤ y * 2 ^ F) :
    E * 2 ^ b + (x - 2 ^ b) ≤ F * 2 ^ b + (y - 2 ^ b) := by
  rw [pow_succ] at hx' hy
  rcases Nat.lt_trichotomy E F with hlt | rfl | hgt
  · have : (E + 1) * 2 ^ b ≤ F * 2 ^ b := Nat.mul_le_mul_right _ hlt
    rw [add_mul] at this
    omega
  · have := Nat.le_of_mul_le_mul_right h (Nat.two_pow_pos E)
    omega
  · have h1 : y * 2 ^ F < 2 ^ b * 2 * 2 ^ F := Nat.mul_lt_mul_of_pos_right hy (Nat.two_pow_pos F)
    have h2 : 2 ^ b * 2 * 2 ^ F ≤ x * 2 ^ E := calc
      2 ^ b * 2 * 2 ^ F = 2 ^ b * 2 ^ (F + 1) := by ring
      _ ≤ x * 2 ^ E := Nat.mul_le_mul hx (Nat.pow_le_pow_right two_pos hgt)
    omega

/-- A magnitude in a normal binade that is at most the largest finite value, compared as significand and exponent. -/
theorem man_le_top (L : Laid ty f eT mT) {n : Nat} {k : Int} (hE : (n.log2 : Int) + k + f.bias = E)
    (hle : (n : ℚ) * 2 ^ k ≤ f.maxN * 2 ^ f.maxK) : f.man n * 2 ^ E ≤ (2 ^ f.mb + mT) * 2 ^ eT := by
  have hexp : (n.log2 : Int) - f.mb + k = E - (f.bias + f.mb) := by omega
  have h : (f.man n : ℚ) * 2 ^ ((E : Int) - (f.bias + f.mb)) ≤ (2 ^ f.mb + mT) * 2 ^ ((eT : Int) - (f.bias + f.mb)) := calc
    (f.man n : ℚ) * 2 ^ ((E : Int) - (f.bias + f.mb)) = f.man n * 2 ^ ((n.log2 : Int) - f.mb) * 2 ^ k := by
      rw [← hexp, zpow_add₀ two_ne_zero, mul_assoc]
    _ ≤ n * 2 ^ k := by gcongr; exact man_le n
    _ ≤ f.maxN * 2 ^ f.maxK := hle
    _ = _ := by rw [L.maxN, L.maxK, sub_sub]; push_cast; rfl
  rw [zpow_sub₀ two_ne_zero, zpow_sub₀ two_ne_zero, ← mul_div_assoc, ← mul_div_assoc, div_le_div_iff_of_pos_right (by positivity),
    zpow_natCast, zpow_natCast] at h
  exact_mod_cast h

/-- A magnitude n × 2^k that is at most the largest finite value has a finite code, whose value is n × 2^k if it lies on the grid. -/
theorem encodeGrid_code (L : Laid ty f eT mT) (neg : Bool) {n : Nat} {k : Int} (hk : f.emin - f.mb ≤ k)
    (hle : (n : ℚ) * 2 ^ k ≤ f.maxN * 2 ^ f.maxK) : ∃ E M, M < 2 ^ f.mb ∧ E * 2 ^ f.mb + M ≤ eT * 2 ^ f.mb + mT ∧
      encodeGrid f neg n k = f.code neg E M ∧
      (n ≤ 2 ^ (f.mb + 1) → k = f.emin - f.mb ∨ 2 ^ f.mb ≤ n → (f.sig E M : ℚ) * 2 ^ f.unit E = n * 2 ^ k) := by
  have hbias := L.emin
  by_cases hn : n = 0
  · subst hn
    exact ⟨0, 0, Nat.two_pow_pos _, by omega, encodeGrid_zero neg k, by simp [f.sig_zero]⟩
  by_cases h : (n.log2 : Int) + k < f.emin
  · have hlt : n < 2 ^ f.mb := (Nat.log2_lt hn).1 (by omega)
    have hpos : 1 * 2 ^ f.mb ≤ eT * 2 ^ f.mb := Nat.mul_le_mul_right _ L.eT_pos
    refine ⟨0, n, hlt, by omega, encodeGrid_subnormal h, fun _ hor => ?_⟩
    rw [f.sig_zero, f.unit_zero, hor.resolve_right (Nat.not_le.2 hlt), hbias]
  · obtain ⟨hm1, hm2⟩ := man_bounds (f := f) hn
    obtain ⟨E, hE⟩ : ∃ E : ℕ, (n.log2 : Int) + k + f.bias = E := ⟨_, (Int.toNat_of_nonneg (by omega)).symm⟩
    have hE0 : E ≠ 0 := by omega
    have htop : 2 ^ f.mb + mT < 2 ^ (f.mb + 1) := by have := L.mT_lt; rw [pow_succ]; omega
    have hle' := code_le_of_value_le hm1 hm2 htop (man_le_top L hE hle)
    refine ⟨E, f.man n - 2 ^ f.mb, by rw [pow_succ] at hm2; omega, by omega, ?_, fun hn' _ => ?_⟩
    · rw [encodeGrid_normal hn (Int.not_lt.1 h), hE, Int.toNat_natCast]
    · have hexp : (E : Int) - f.bias - f.mb = (n.log2 : Int) - f.mb + k := by omega
      rw [f.sig_pos hE0, Nat.add_sub_cancel' hm1, f.unit_pos hE0, hexp, zpow_add₀ two_ne_zero, ← mul_assoc, man_eq hn']

/-- The grid's significand and unit of a finite code encode as that code. -/
theorem encodeGrid_sig (L : Laid ty f eT mT) (neg : Bool) (hM : M < 2 ^ f.mb) : encodeGrid f neg (f.sig E M) (f.unit E) = f.code neg E M := by
  have hbias := L.emin
  by_cases hE : E = 0
  · subst hE
    rw [f.sig_zero, f.unit_zero]
    by_cases h0 : M = 0
    · rw [h0, encodeGrid_zero]
    · have hlog : M.log2 < f.mb := (Nat.log2_lt h0).2 hM
      exact encodeGrid_subnormal (by omega)
  · have hne : 2 ^ f.mb + M ≠ 0 := by have := Nat.two_pow_pos f.mb; omega
    have hlog : (2 ^ f.mb + M).log2 = f.mb := (Nat.log2_eq_iff hne).2 ⟨by omega, by rw [pow_succ]; omega⟩
    have hexp : ((f.mb : Int) + ((E : Int) - f.bias - f.mb) + f.bias).toNat = E := by omega
    rw [f.sig_pos hE, f.unit_pos hE, encodeGrid_normal hne (by omega), hlog, hexp, man_shl (j := 0) (by omega), pow_zero, Nat.mul_one,
      Nat.add_sub_cancel_left]

end

end Sys2Proof.Machine
end

section
/-! SUPPORT. What a conversion to a format answers (O16). -/
namespace Sys2Proof.Machine

/-! ### Rounding to a format (05 R134, R137) -/

section
variable {ty : Nat} {f : FFmt} {eT mT : Nat} {nz : Bool} {q : Q} {mode r : Nat} {e m : Int} {x u : ℚ}

theorem keeps_bounds (hk : Claims.keeps mode r x u m) : ⌊|x| / u⌋ ≤ m ∧ m ≤ ⌊|x| / u⌋ + 1 := by
  rcases hk with ⟨rfl, -⟩ | ⟨rfl, -⟩ <;> omega

theorem keeps_le {N : ℤ} (hu : 0 < u) (hx : |x| < N * u) (hk : Claims.keeps mode r x u m) : m ≤ N := by
  have h : ⌊|x| / u⌋ < N := Int.floor_lt.2 ((div_lt_iff₀ hu).2 hx)
  have := (keeps_bounds hk).2
  omega

theorem le_of_keeps {N : ℤ} (hu : 0 < u) (hx : N * u ≤ |x|) (hk : Claims.keeps mode r x u m) : N ≤ m :=
  (Int.le_floor.2 ((le_div_iff₀ hu).2 hx)).trans (keeps_bounds hk).1

/-- A finite value other than 0 is rounded in the unit of its binade, and then saturated or encoded. -/
theorem convertSat_of_keeps (L : Laid ty f eT mT) (hn : q.num ≠ 0) (hd : q.den ≠ 0) (hmode : mode ≤ 2) (hx : x = Claims.rat q)
    (h1 : (2 : ℚ) ^ e ≤ |x|) (h2 : |x| < (2 : ℚ) ^ (e + 1)) (hu : u = (2 : ℚ) ^ (max e f.emin - f.p + 1)) (hk : Claims.keeps mode r x u m) :
    convertSat (.fin nz q) ty mode r =
      if f.maxN * (2 : ℚ) ^ f.maxK < m * u then
        (if (ty = 0 ∨ ty = 1) ∧ mode ≠ 1 then infBits ty (decide (q.num < 0)) else maxBits ty (decide (q.num < 0)), 2)
      else (encodeGrid f (decide (q.num < 0)) m.toNat (max e f.emin - f.p + 1),
        if |x| < (2 : ℚ) ^ f.emin ∧ m * u ≠ |x| then 4 else 0) := by
  subst hx hu
  have hq := rat_abs_natAbs q
  have hfl : floorLog2 q.num.natAbs q.den = e := floorLog2_eq (Int.natAbs_ne_zero.2 hn) hd (hq ▸ h1) (hq ▸ h2)
  obtain ⟨n, hround⟩ : ∃ n, roundUnits q.num.natAbs q.den (max e f.emin - f.p + 1) mode r = n := ⟨_, rfl⟩
  obtain rfl : (n : ℤ) = m := hround ▸ roundUnits_of_keeps hd hmode hq hk
  have hover : (Q.scaled f.maxN f.maxK).lt (.scaled n (max e f.emin - f.p + 1)) = true ↔
      f.maxN * (2 : ℚ) ^ f.maxK < n * (2 : ℚ) ^ (max e f.emin - f.p + 1) := by
    rw [lt_iff_rat (scaled_den_ne _ _) (scaled_den_ne _ _), rat_scaled, rat_scaled, Int.cast_natCast]
  have hexact : Q.eq ⟨q.num.natAbs, q.den⟩ (.scaled n (max e f.emin - f.p + 1)) =
      decide (n * (2 : ℚ) ^ (max e f.emin - f.p + 1) = |Claims.rat q|) := by
    rw [Bool.eq_iff_iff, decide_eq_true_iff, eq_iff_rat (a := ⟨q.num.natAbs, q.den⟩) hd (scaled_den_ne _ _), rat_scaled, hq, eq_comm,
      Claims.rat, Int.cast_natCast, Int.cast_natCast]
  have hsub : e < f.emin ↔ |Claims.rat q| < (2 : ℚ) ^ f.emin :=
    ⟨fun h => h2.trans_le (zpow_le_zpow_right₀ one_le_two h), fun h => (zpow_lt_zpow_iff_right₀ one_lt_two).1 (h1.trans_lt h)⟩
  simp only [convertSat, if_neg hn, L.fmt, hfl, hround, hover, hexact, Int.cast_natCast, Int.toNat_natCast]
  simp only [bne_iff_ne.2 L.ne4, Bool.true_and, Bool.and_eq_true, Bool.or_eq_true, decide_eq_true_iff, beq_iff_eq,
    bne_iff_ne, hsub, Bool.not_eq_true', decide_eq_false_iff_not]
  congr 1
  split <;> rfl

theorem rat_signed (neg : Bool) (n : Nat) (k : Int) :
    Claims.rat (.scaled (signed neg n) k) = if neg then -((n : ℚ) * 2 ^ k) else n * 2 ^ k := by
  rw [rat_scaled, signed]
  cases neg <;> simp

/-- The unit of a value's binade is that of the format's lowest binade, or puts the value's leading bit at the place of the hidden one. -/
theorem binade (L : Laid ty f eT mT) :
    max e f.emin - f.p + 1 = f.emin - f.mb ∧ e ≤ f.emin ∨ max e f.emin - f.p + 1 = e - f.mb ∧ f.emin ≤ e := by
  have := L.prec
  omega

theorem keeps_range (L : Laid ty f eT mT) (h1 : (2 : ℚ) ^ e ≤ |x|) (h2 : |x| < (2 : ℚ) ^ (e + 1))
    (hk : Claims.keeps mode r x (2 ^ (max e f.emin - f.p + 1)) m) :
    0 ≤ m ∧ m ≤ 2 ^ (f.mb + 1) ∧ (max e f.emin - f.p + 1 = f.emin - f.mb ∨ 2 ^ f.mb ≤ m) := by
  have hu : (0 : ℚ) < 2 ^ (max e f.emin - f.p + 1) := by positivity
  refine ⟨le_of_keeps hu (by simp) hk, keeps_le hu ?_ hk, ?_⟩
  · refine h2.trans_le ?_
    rw [Int.cast_pow, Int.cast_ofNat, ← zpow_natCast, ← zpow_add₀ two_ne_zero]
    exact zpow_le_zpow_right₀ one_le_two (by have := L.prec; omega)
  · rcases binade (e := e) L with ⟨h, -⟩ | ⟨h, -⟩
    · exact .inl h
    · refine .inr (le_of_keeps hu (le_trans (le_of_eq ?_) h1) hk)
      rw [h, Int.cast_pow, Int.cast_ofNat, ← zpow_natCast, ← zpow_add₀ two_ne_zero, add_sub_cancel]

/-- A rounded value that does not exceed the largest finite one is the value of the code. -/
theorem convertSat_value (L : Laid ty f eT mT) (hn : q.num ≠ 0) (hd : q.den ≠ 0) (hmode : mode ≤ 2) (hx : x = Claims.rat q)
    (h1 : (2 : ℚ) ^ e ≤ |x|) (h2 : |x| < (2 : ℚ) ^ (e + 1)) (hu : u = (2 : ℚ) ^ (max e f.emin - f.p + 1)) (hk : Claims.keeps mode r x u m)
    (hle : m * u ≤ f.maxN * (2 : ℚ) ^ f.maxK) : ∃ p, valueOf ty (convertSat (.fin nz q) ty mode r).1 = .fin (decide (q.num < 0)) p ∧
      p.den ≠ 0 ∧ Claims.rat p = if q.num < 0 then -(m * u) else m * u := by
  rw [convertSat_of_keeps L hn hd hmode hx h1 h2 hu hk, if_neg (not_lt.2 hle)]
  subst hu
  obtain ⟨h0, hmax, hor⟩ := keeps_range L h1 h2 hk
  lift m to ℕ using h0
  rw [Int.cast_natCast] at hle ⊢
  obtain ⟨E, M, hM, htop, hcode, hval⟩ := encodeGrid_code L (decide (q.num < 0)) (by have := L.prec; omega) hle
  refine ⟨_, (congrArg (valueOf ty) hcode).trans (valueOf_code L hM htop), scaled_den_ne _ _, ?_⟩
  rw [rat_signed, hval (by exact_mod_cast hmax) (by exact_mod_cast hor)]
  simp

/-! ### Values that a format holds (05 R137) -/

/-- A finite code's value is at most the largest finite one. -/
theorem sig_le_top (L : Laid ty f eT mT) {E M : Nat} (hM : M < 2 ^ f.mb) (h : E * 2 ^ f.mb + M ≤ eT * 2 ^ f.mb + mT) :
    (f.sig E M : ℚ) * 2 ^ f.unit E ≤ f.maxN * 2 ^ f.maxK := by
  have hmT := L.mT_lt
  have hnat : f.sig E M * 2 ^ max E 1 ≤ (2 ^ f.mb + mT) * 2 ^ eT := by
    rcases Nat.lt_trichotomy E eT with hlt | rfl | hgt
    · by_cases h0 : E = 0
      · have h1 : f.sig E M ≤ 2 ^ f.mb + mT := by rw [h0, f.sig_zero]; omega
        exact Nat.mul_le_mul h1 (Nat.pow_le_pow_right two_pos (by omega))
      · have h1 : f.sig E M ≤ 2 ^ f.mb * 2 := by rw [f.sig_pos h0]; omega
        have h2 : max E 1 + 1 ≤ eT := by omega
        calc f.sig E M * 2 ^ max E 1 ≤ 2 ^ f.mb * 2 * 2 ^ max E 1 := Nat.mul_le_mul_right _ h1
          _ = 2 ^ f.mb * 2 ^ (max E 1 + 1) := by ring
          _ ≤ (2 ^ f.mb + mT) * 2 ^ eT := Nat.mul_le_mul (by omega) (Nat.pow_le_pow_right two_pos h2)
    · have hE := L.eT_pos
      rw [f.sig_pos hE.ne', max_eq_left hE]
      exact Nat.mul_le_mul_right _ (by omega)
    · have : (eT + 1) * 2 ^ f.mb ≤ E * 2 ^ f.mb := Nat.mul_le_mul_right _ hgt
      rw [add_mul] at this
      omega
  have hq : (f.sig E M : ℚ) * 2 ^ max E 1 ≤ (2 ^ f.mb + mT) * 2 ^ eT := by exact_mod_cast hnat
  rw [L.maxN, L.maxK, FFmt.unit, sub_sub, sub_sub, zpow_sub₀ two_ne_zero, zpow_sub₀ two_ne_zero, ← mul_div_assoc, ← mul_div_assoc,
    div_le_div_iff_of_pos_right (by positivity), zpow_natCast, zpow_natCast]
  exact_mod_cast hq

theorem scaled_num (n k : Int) : ∃ c : ℤ, 0 < c ∧ (Q.scaled n k).num = n * c := by
  unfold Q.scaled
  split
  · exact ⟨_, by positivity, rfl⟩
  · exact ⟨1, one_pos, (mul_one n).symm⟩

theorem signed_neg_iff {n : Nat} (hn : n ≠ 0) (neg : Bool) (k : Int) : decide ((Q.scaled (signed neg n) k).num < 0) = neg := by
  obtain ⟨c, hc, h⟩ := scaled_num (signed neg n) k
  rw [h, signed]
  have hpos : 0 < (n : ℤ) := by omega
  have : 0 < (n : ℤ) * c := by positivity
  cases neg
  · simp
    omega
  · simp
    omega

theorem signed_num_ne {n : Nat} (hn : n ≠ 0) (neg : Bool) (k : Int) : (Q.scaled (signed neg n) k).num ≠ 0 := by
  obtain ⟨c, hc, h⟩ := scaled_num (signed neg n) k
  rw [h, signed]
  cases neg <;> simp <;> omega

/-- A code's value lies below the format's normal values, or in the binade of its exponent field. -/
theorem sig_binade {E M : Nat} (hM : M < 2 ^ f.mb) :
    (E = 0 → (f.sig E M : ℚ) * 2 ^ f.unit E < 2 ^ (f.unit E + f.mb)) ∧
    (E ≠ 0 → (2 : ℚ) ^ (f.unit E + f.mb) ≤ f.sig E M * 2 ^ f.unit E) ∧
    (f.sig E M : ℚ) * 2 ^ f.unit E < 2 ^ (f.unit E + f.mb + 1) := by
  have hu : (0 : ℚ) < 2 ^ f.unit E := by positivity
  have hexp : (2 : ℚ) ^ (f.unit E + f.mb) = 2 ^ f.mb * 2 ^ f.unit E := by rw [add_comm, zpow_add₀ two_ne_zero, zpow_natCast]
  refine ⟨fun h => ?_, fun h => ?_, ?_⟩
  · rw [hexp, h, f.sig_zero]
    gcongr
    exact_mod_cast hM
  · rw [hexp, f.sig_pos h]
    gcongr
    exact_mod_cast Nat.le_add_right ..
  · have hlt : f.sig E M < 2 ^ f.mb * 2 := by unfold FFmt.sig; split <;> omega
    rw [zpow_add_one₀ two_ne_zero, hexp, mul_right_comm]
    gcongr
    exact_mod_cast hlt

/-- The unit of a finite code is that of its value's binade. -/
theorem unit_eq (L : Laid ty f eT mT) {E M : Nat} (hM : M < 2 ^ f.mb) (h1 : (2 : ℚ) ^ e ≤ f.sig E M * 2 ^ f.unit E)
    (h2 : (f.sig E M : ℚ) * 2 ^ f.unit E < 2 ^ (e + 1)) : max e f.emin - f.p + 1 = f.unit E := by
  have hbias := L.emin
  have hprec := L.prec
  obtain ⟨hsub, hlow, hhigh⟩ := sig_binade (f := f) (E := E) hM
  by_cases hE : E = 0
  · have hlt := (zpow_lt_zpow_iff_right₀ (one_lt_two (α := ℚ))).1 (h1.trans_lt (hsub hE))
    rw [hE, f.unit_zero] at hlt ⊢
    omega
  · have heq := zpow_bounds_unique h1 h2 (hlow hE) hhigh
    rw [f.unit_pos hE] at heq ⊢
    omega

/-- The significand of a finite value is kept as it is. -/
theorem convertSat_code (L : Laid ty f eT mT) {s : Bool} {E M : Nat} (hM : M < 2 ^ f.mb) (h : E * 2 ^ f.mb + M ≤ eT * 2 ^ f.mb + mT)
    (hmode : mode ≤ 2) (hr : r < 65536) : convertSat (.fin s (.scaled (signed s (f.sig E M)) (f.unit E))) ty mode r = (f.code s E M, 0) := by
  by_cases h0 : f.sig E M = 0
  · obtain ⟨rfl, rfl⟩ : E = 0 ∧ M = 0 := by
      unfold FFmt.sig at h0
      have := Nat.two_pow_pos f.mb
      split at h0 <;> omega
    have hz : (Q.scaled (signed s (f.sig 0 0)) (f.unit 0)).num = 0 := by
      obtain ⟨c, -, hc⟩ := scaled_num (signed s (f.sig 0 0)) (f.unit 0)
      rw [hc, h0, signed]
      cases s <;> simp
    simp only [convertSat, hz, if_true, L.fmt, encodeGrid_zero]
  · have habs : |Claims.rat (.scaled (signed s (f.sig E M)) (f.unit E))| = f.sig E M * 2 ^ f.unit E := by
      have hpos : (0 : ℚ) ≤ f.sig E M * 2 ^ f.unit E := by positivity
      rw [rat_signed]
      cases s
      · exact abs_of_nonneg hpos
      · exact (abs_neg _).trans (abs_of_nonneg hpos)
    have hn := signed_num_ne h0 s (f.unit E)
    have hb := floorLog2_bounds (Int.natAbs_ne_zero.2 hn) (scaled_den_ne (signed s (f.sig E M)) (f.unit E))
    rw [← rat_abs_natAbs] at hb
    have hunit := unit_eq L hM (habs ▸ hb.1) (habs ▸ hb.2)
    have hk : Claims.keeps mode r (Claims.rat (.scaled (signed s (f.sig E M)) (f.unit E))) (2 ^ f.unit E) (f.sig E M) :=
      keeps_of_units hr (by positivity) (by rw [habs, Int.cast_natCast])
    rw [convertSat_of_keeps L hn (scaled_den_ne _ _) hmode rfl hb.1 hb.2 (by rw [hunit]) hk, Int.cast_natCast,
      if_neg (not_lt.2 (sig_le_top L hM h)), if_neg (fun h => h.2 habs.symm), signed_neg_iff h0, hunit, Int.toNat_natCast, encodeGrid_sig L s hM]

theorem exactValuesKept : Claims.ExactValuesKept := by
  intro ty c mode r hty hc ⟨s, q, hv⟩ hmode hr
  obtain ⟨f, eT, mT, L⟩ := exists_laid hty
  obtain ⟨E, M, hM, htop, rfl⟩ := code_of_finite L hc hv
  rw [valueOf_code L hM htop, convertSat_code L hM htop hmode hr]

/-! ### Every conversion gives a code of its format -/

theorem encodeGrid_lt (L : Laid ty f eT mT) (neg : Bool) {n : Nat} {k : Int} (hk : f.emin - f.mb ≤ k)
    (hle : (n : ℚ) * 2 ^ k ≤ f.maxN * 2 ^ f.maxK) : encodeGrid f neg n k < 2 ^ widthOf ty := by
  obtain ⟨E, M, hM, htop, hcode, -⟩ := encodeGrid_code L neg hk hle
  rw [hcode, L.width]
  exact code_lt (L.exp_lt htop) hM

theorem special_lt (hty : ty ≤ 3) (neg : Bool) : canonNaN ty neg < 2 ^ widthOf ty ∧ maxBits ty neg < 2 ^ widthOf ty ∧
    (ty ≠ 2 → infBits ty neg < 2 ^ widthOf ty) := by
  obtain rfl | rfl | rfl | rfl : ty = 0 ∨ ty = 1 ∨ ty = 2 ∨ ty = 3 := by omega
  all_goals cases neg <;> decide

theorem convertSat_lt (hty : ty ≤ 3) (x : XV) (mode r : Nat) : (convertSat x ty mode r).1 < 2 ^ widthOf ty := by
  obtain ⟨f, eT, mT, L⟩ := exists_laid hty
  have hbias := L.emin
  have hprec := L.prec
  cases x with
  | nan s =>
    have h5 : ¬ (ty == 5 || ty == 6) = true := by simp; omega
    rw [convertSat, if_neg h5]
    exact (special_lt hty s).1
  | inf s =>
    rw [convertSat]
    split
    next h => exact (special_lt hty s).2.2 (by rintro rfl; cases h)
    next => exact (special_lt hty s).2.1
  | fin nz q =>
    simp only [convertSat, L.fmt]
    generalize roundUnits q.num.natAbs q.den (max (floorLog2 q.num.natAbs q.den) f.emin - f.p + 1) mode r = n
    split
    next =>
      rw [encodeGrid_zero, L.width]
      exact code_lt (Nat.two_pow_pos _) (Nat.two_pow_pos _)
    next =>
      split
      next =>
        split
        next h => exact (special_lt hty _).2.2 (by rintro rfl; cases h)
        next => exact (special_lt hty _).2.1
      next h =>
        rw [lt_iff_rat (scaled_den_ne _ _) (scaled_den_ne _ _), rat_scaled, rat_scaled, Int.cast_natCast] at h
        exact encodeGrid_lt L _ (by omega) (not_lt.1 h)

/-! ### NaN and infinity (05 R139, R140) -/

theorem specialConversions : Claims.SpecialConversions := by
  intro neg mode r
  refine ⟨fun ty h => ?nan, fun ty h => ?inf, ?e4m3, fun ty h => ?int⟩
  case nan =>
    obtain rfl | rfl | rfl | rfl : ty = 0 ∨ ty = 1 ∨ ty = 2 ∨ ty = 3 := by omega
    all_goals rfl
  case inf => rcases h with rfl | rfl | rfl <;> rfl
  case e4m3 => cases neg <;> rfl
  case int => rcases h with rfl | rfl <;> rfl

end

/-! ### Rounding off the grid (05 R134, R137) -/

theorem ubits_lt (w : Nat) (z : Int) : ubits w z < 2 ^ w := by
  have h0 : (0 : ℤ) < 2 ^ w := by positivity
  have h := Int.emod_lt_of_pos z h0
  have := Int.emod_nonneg z h0.ne'
  rw [ubits]
  zify
  omega

/-- The two's complement of an integer reads as it modulo 2^w, in the signed range (05 R132). -/
theorem sint_ubits {w : Nat} (hw : 0 < w) (z : Int) : sint w (ubits w z) = z.bmod (2 ^ w) := by
  obtain ⟨v, rfl⟩ : ∃ v, w = v + 1 := ⟨w - 1, by omega⟩
  have hz : ((ubits (v + 1) z : Nat) : ℤ) = z % 2 ^ (v + 1) := Int.toNat_of_nonneg (Int.emod_nonneg z (by positivity))
  have hhalf : ((2 : ℤ) ^ (v + 1) + 1) / 2 = 2 ^ v := by rw [pow_succ]; omega
  have hlt : ubits (v + 1) z < 2 ^ v ↔ z % 2 ^ (v + 1) < (2 ^ (v + 1) + 1) / 2 := by
    rw [hhalf, ← hz]
    norm_cast
  rw [sint, Nat.mod_eq_of_lt (ubits_lt _ z), Nat.add_sub_cancel, Int.bmod]
  push_cast
  rw [hz]
  exact if_congr hlt rfl rfl

theorem sint_ubits_self {w : Nat} (hw : 0 < w) {z : Int} (h1 : -2 ^ (w - 1) ≤ z) (h2 : z < 2 ^ (w - 1)) : sint w (ubits w z) = z := by
  obtain ⟨v, rfl⟩ : ∃ v, w = v + 1 := ⟨w - 1, by omega⟩
  rw [Nat.add_sub_cancel] at h1 h2
  rw [sint_ubits hw, Int.bmod_eq_of_le]
  all_goals
    push_cast
    rw [pow_succ]
    omega

theorem sint_of_lt {w n : Nat} (h : n < 2 ^ (w - 1)) : sint w n = n := by
  have hw : n < 2 ^ w := h.trans_le (Nat.pow_le_pow_right two_pos (Nat.sub_le ..))
  rw [sint, Nat.mod_eq_of_lt hw, if_pos h]

/-- The integer formats (05 R132, R137): a value in the range is its rounding, without a flag; others saturate with OF. -/
theorem offGrid_of_int {ty w : Nat} (ht : ffmt ty = none) (hw : widthOf ty = w) (hw0 : 0 < w)
    (hmax : ∀ neg, maxBits ty neg = if neg then 2 ^ (w - 1) else 2 ^ (w - 1) - 1) {nz : Bool} {q : Q} {mode r : Nat} {m : ℤ}
    {x : ℚ} (hn : q.num ≠ 0) (hd : q.den ≠ 0) (hmode : mode ≤ 2) (hx : x = Claims.rat q) (hk : Claims.keeps mode r x 1 m) :
    (0 < q.num → m < 2 ^ (w - 1) → sint w (convertSat (.fin nz q) ty mode r).1 = m ∧ (convertSat (.fin nz q) ty mode r).2 = 0) ∧
    (q.num < 0 → m ≤ 2 ^ (w - 1) → sint w (convertSat (.fin nz q) ty mode r).1 = -m ∧ (convertSat (.fin nz q) ty mode r).2 = 0) ∧
    (0 < q.num → 2 ^ (w - 1) ≤ m → convertSat (.fin nz q) ty mode r = (2 ^ (w - 1) - 1, 2)) ∧
    (q.num < 0 → 2 ^ (w - 1) < m → convertSat (.fin nz q) ty mode r = (2 ^ (w - 1), 2)) := by
  subst hx
  have hround := roundUnits_of_keeps (k := 0) hd hmode (rat_abs_natAbs q) (by rwa [zpow_zero])
  generalize hc : convertSat (.fin nz q) ty mode r = c
  simp only [convertSat, if_neg hn, ht, hw, hmax] at hc
  generalize roundUnits q.num.natAbs q.den 0 mode r = n at hround hc
  subst hround
  have hcast : ((2 ^ (w - 1) : Nat) : ℤ) = 2 ^ (w - 1) := by norm_cast
  have hpos : 0 < 2 ^ (w - 1) := Nat.two_pow_pos _
  rw [← hcast]
  refine ⟨fun hp hm => ?_, fun hp hm => ?_, fun hp hm => ?_, fun hp hm => ?_⟩
  · rw [if_neg (by simp; omega), if_neg (by omega)] at hc
    subst hc
    exact ⟨sint_of_lt (by omega), rfl⟩
  · rw [if_pos (by simpa using hp), if_neg (by omega)] at hc
    subst hc
    exact ⟨sint_ubits_self hw0 (by omega) (by omega), rfl⟩
  · rw [if_neg (by simp; omega), if_pos (by omega)] at hc
    exact hc.symm
  · rw [if_pos (by simpa using hp), if_pos (by omega)] at hc
    exact hc.symm

theorem offGrid_of_laid {ty : Nat} {f : FFmt} {eT mT : Nat} (L : Laid ty f eT mT) {nz : Bool} {q : Q} {mode r : Nat} {e m : ℤ} {x u top : ℚ}
    (ht : f.maxN * (2 : ℚ) ^ f.maxK = top) (hn : q.num ≠ 0) (hd : q.den ≠ 0) (hmode : mode ≤ 2) (hx : x = Claims.rat q)
    (h1 : (2 : ℚ) ^ e ≤ |x|) (h2 : |x| < (2 : ℚ) ^ (e + 1)) (hu : u = (2 : ℚ) ^ (max e f.emin - f.p + 1)) (hk : Claims.keeps mode r x u m) :
    (m * u ≤ top → ∃ p, valueOf ty (convertSat (.fin nz q) ty mode r).1 = .fin (decide (q.num < 0)) p ∧
      Claims.rat p = (if q.num < 0 then -(m * u) else m * u) ∧
      (|x| < (2 : ℚ) ^ f.emin ∧ m * u ≠ |x| → (convertSat (.fin nz q) ty mode r).2 = 4) ∧
      (¬ (|x| < (2 : ℚ) ^ f.emin ∧ m * u ≠ |x|) → (convertSat (.fin nz q) ty mode r).2 = 0)) ∧
    (top < m * u → convertSat (.fin nz q) ty mode r =
      (if (ty = 0 ∨ ty = 1) ∧ mode ≠ 1 then infBits ty (decide (q.num < 0)) else maxBits ty (decide (q.num < 0)), 2)) := by
  subst ht
  have hc := convertSat_of_keeps (nz := nz) L hn hd hmode hx h1 h2 hu hk
  refine ⟨fun hle => ?_, fun hlt => hc.trans (if_pos hlt)⟩
  obtain ⟨p, hv, -, hp⟩ := convertSat_value (nz := nz) L hn hd hmode hx h1 h2 hu hk hle
  refine ⟨p, hv, hp, fun h => ?_, fun h => ?_⟩
  all_goals rw [hc, if_neg (not_lt.2 hle)]
  · exact if_pos h
  · exact if_neg h

theorem offGridRounding : Claims.OffGridRounding := by
  refine ⟨List.forall_iff_forall_mem.1 ⟨?f32, ?bf16, ?e4m3, ?e5m2⟩, List.forall_iff_forall_mem.1 ⟨?i8, ?i32⟩⟩
  case f32 => exact fun _ _ _ _ _ _ _ _ hn hd hm _ hx h1 h2 hu hk => offGrid_of_laid laid_f32 (by norm_num) hn hd hm hx h1 h2 hu hk
  case bf16 => exact fun _ _ _ _ _ _ _ _ hn hd hm _ hx h1 h2 hu hk => offGrid_of_laid laid_bf16 (by norm_num) hn hd hm hx h1 h2 hu hk
  case e4m3 => exact fun _ _ _ _ _ _ _ _ hn hd hm _ hx h1 h2 hu hk => offGrid_of_laid laid_e4m3 (by norm_num) hn hd hm hx h1 h2 hu hk
  case e5m2 => exact fun _ _ _ _ _ _ _ _ hn hd hm _ hx h1 h2 hu hk => offGrid_of_laid laid_e5m2 (by norm_num) hn hd hm hx h1 h2 hu hk
  case i8 =>
    exact fun _ _ _ _ _ _ hn hd hm _ hx hk =>
      offGrid_of_int (ty := 5) (w := 8) rfl rfl (by decide) (Bool.forall_bool.2 ⟨rfl, rfl⟩) hn hd hm hx hk
  case i32 =>
    exact fun _ _ _ _ _ _ hn hd hm _ hx hk =>
      offGrid_of_int (ty := 6) (w := 32) rfl rfl (by decide) (Bool.forall_bool.2 ⟨rfl, rfl⟩) hn hd hm hx hk

/-- Settles O16, part by part. -/
theorem conversions : Obligations.Conversions := ⟨exactValuesKept, offGridRounding, specialConversions⟩

end Sys2Proof.Machine
end

section
/-! SUPPORT. Lanes, the conversions of a vector, and what a vector instruction with a write port answers (O19, O21, O22, O23). -/
namespace Sys2Proof.Machine

/-! ### Flags of many lanes (05 R140) -/

theorem unionFlags_cons (x : Flags) (l : List Flags) : unionFlags (x :: l) = x ||| unionFlags l := calc
  unionFlags (x :: l) = l.foldl (· ||| ·) (0 ||| x) := rfl
  _ = l.foldl (· ||| ·) (x ||| 0) := by rw [BitVec.or_comm]
  _ = x ||| unionFlags l := List.foldl_assoc

theorem zero_or_flags (x : Flags) : 0 ||| x = x := BitVec.zero_or

theorem unionFlags_or {α : Type} (l : List α) (g h : α → Flags) :
    unionFlags (l.map fun k => g k ||| h k) = unionFlags (l.map g) ||| unionFlags (l.map h) := by
  induction l with
  | nil => exact (BitVec.or_zero (x := 0)).symm
  | cons x t ih =>
    simp only [List.map_cons, unionFlags_cons, ih]
    ac_rfl

theorem unionFlags_zero {α : Type} (l : List α) : unionFlags (l.map fun _ => 0) = 0 := by
  induction l with
  | nil => rfl
  | cons x t ih =>
    rw [List.map_cons, unionFlags_cons, ih]
    exact BitVec.or_zero

/-! ### Lanes (06 R147) -/

theorem laneN_lt (v : Vec) (w i : Nat) : laneN v w i < 2 ^ w := Nat.mod_lt _ (Nat.two_pow_pos w)

/-- Lanes given by a function read back. -/
theorem laneN_ofLanes_range {w : Nat} {g : Nat → Nat} (hg : ∀ k, g k < 2 ^ w) {i : Nat} (hi : i < 512 / w) :
    laneN (ofLanes w ((List.range (512 / w)).map g)) w i = g i := by
  rw [laneN_ofLanes (by rw [List.length_map, List.length_range]; exact Nat.mul_div_le 512 w)]
  simp [hi, Nat.mod_eq_of_lt (hg i)]

/-- Beyond the lanes of a vector both the list and the vector read 0. -/
theorem lanesOf_getD {w : Nat} (hw : w ∣ 512) (v : Vec) (k : Nat) : (lanesOf w v).getD k 0 = laneN v w k := by
  by_cases hk : k < 512 / w
  · simp [lanesOf, hk]
  · have h512 : 512 ≤ w * k := by
      obtain ⟨c, hc⟩ := hw
      rcases Nat.eq_zero_or_pos w with rfl | hw0
      · omega
      · rw [hc, Nat.mul_div_cancel_left _ hw0] at hk
        rw [hc]
        exact Nat.mul_le_mul_left w (Nat.not_lt.1 hk)
    have hv : v.toNat < 2 ^ (w * k) := v.isLt.trans_le (Nat.pow_le_pow_right two_pos h512)
    rw [List.getD_eq_default _ _ (by simpa [lanesOf] using hk), laneN, Nat.div_eq_of_lt hv, Nat.zero_mod]

theorem zip2_lanesOf (op : Nat → Nat → Nat × Flags) (w : Nat) (a b : Vec) : zip2 op (lanesOf w a) (lanesOf w b) =
    ((List.range (512 / w)).map (fun k => (op (laneN a w k) (laneN b w k)).1),
      unionFlags ((List.range (512 / w)).map fun k => (op (laneN a w k) (laneN b w k)).2)) := by
  simp [zip2, lanesOf, List.zip_map', Function.comp_def]

theorem zip3_lanesOf (op : Nat → Nat → Nat → Nat × Flags) (w : Nat) (a b c : Vec) : zip3 op (lanesOf w a) (lanesOf w b) (lanesOf w c) =
    ((List.range (512 / w)).map (fun k => (op (laneN a w k) (laneN b w k) (laneN c w k)).1),
      unionFlags ((List.range (512 / w)).map fun k => (op (laneN a w k) (laneN b w k) (laneN c w k)).2)) := by
  simp [zip3, lanesOf, List.zip_map', Function.comp_def]

/-- The elements of a vector but for the two block types are the values of its lanes. -/
theorem elemsOf_eq {ty : Nat} (h4 : ty ≠ 4) (h7 : ty ≠ 7) (v : Vec) :
    elemsOf ty v = (List.range (512 / widthOf ty)).map fun k => valueOf ty (laneN v (widthOf ty) k) := by
  unfold elemsOf
  split
  · exact absurd rfl h4
  · exact absurd rfl h7
  · rfl

/-- Draws beyond those made read 0. -/
theorem getD_padded (rs : List Nat) (n k : Nat) : (rs ++ List.replicate n 0).getD k 0 = rs.getD k 0 := by
  rcases Nat.lt_or_ge k rs.length with h | h
  · simp [List.getD_eq_getElem?_getD, List.getElem?_append_left h]
  · simp [List.getD_eq_getElem?_getD, List.getElem?_append_right h, List.getElem?_eq_none h, List.getElem?_replicate]
    split <;> rfl

theorem convLanes_range (g : Nat → XV) (n ty mode : Nat) (rs : List Nat) : convLanes ((List.range n).map g) ty mode rs =
    ((List.range n).map (fun k => (convertSat (g k) ty mode (rs.getD k 0)).1),
      unionFlags ((List.range n).map fun k => (convertSat (g k) ty mode (rs.getD k 0)).2)) := by
  have hzip : ((List.range n).map g).zip (rs ++ List.replicate n 0) = (List.range n).map fun k => (g k, rs.getD k 0) := by
    refine List.ext_getElem (by simp) fun k h1 h2 => ?_
    have hk : k < n := by simpa using h2
    have := getD_padded rs n k
    rw [List.getD_eq_getElem _ _ (by simp; omega)] at this
    simp [this]
  rw [convLanes, List.length_map, List.length_range, hzip]
  simp only [List.map_map, unionFlags, List.foldl_map]
  rfl

/-! ### The answer of an instruction with a write port (06 R149) -/

section
variable {i : Instr} {f : VF} {s t : State} {cls w : Nat} {m : Res State} {cs : List (Option Stop)}

/-- An instruction whose effect is a push, with its checks, answers the push. -/
theorem pushes_of_issue {v : Vec} {fl : Flags} (hi : exec i s = issue s m) (hm : m = putVec f.vd v cls fl t) (hr : Claims.room f t) :
    Claims.pushes i s f cls v fl t := by
  have hp := pushPort_eq (v := v) (cls := cls) (fl := fl) hr
  exact ⟨_, hp, by rw [hi, hm, putVec, hp, issue_ok]⟩

theorem pushes_of_gather {v : Vec} {fl : Flags} (hi : exec i s = issue s (gather m cs)) (hm : m = putVec f.vd v cls fl t)
    (hr : Claims.room f t) : Claims.pushes i s f cls v fl t := by
  have hp := pushPort_eq (v := v) (cls := cls) (fl := fl) hr
  exact ⟨_, hp, by rw [hi, hm, putVec, hp, gather_ok_eq, issue_ok]⟩

/-- The same with the result given by its lanes. -/
theorem pushesLanes_of_gather {g : Nat → Nat × Flags} (hi : exec i s = issue s (gather m cs))
    (hm : m = putLanes f w cls ((List.range (512 / w)).map (fun k => (g k).1), unionFlags ((List.range (512 / w)).map fun k => (g k).2)) t)
    (hr : Claims.room f t) (hg : ∀ k, (g k).1 < 2 ^ w) : Claims.pushesLanes i s f w cls g t :=
  ⟨_, pushes_of_gather hi hm hr, fun _ hk => laneN_ofLanes_range hg hk⟩

/-- The same without flags. -/
theorem pushes_of_lanes {g : Nat → Nat} (hi : exec i s = issue s (gather m cs))
    (hm : m = putLanes f w cls ((List.range (512 / w)).map g, 0) t) (hr : Claims.room f t) (hg : ∀ k, g k < 2 ^ w) :
    ∃ v, Claims.pushes i s f cls v 0 t ∧ ∀ k < 512 / w, laneN v w k = g k :=
  ⟨_, pushes_of_gather hi hm hr, fun _ hk => laneN_ofLanes_range hg hk⟩

/-- Exact results, each with the flags of its operation, are rounded once (06 R152). -/
theorem putRounded_eq {xs : Nat → XV × Flags} {rs : List Nat} (h : draws f.rnd.toNat (512 / widthOf f.ty.toNat) s = (rs, t)) :
    putRounded f cls ((List.range (512 / widthOf f.ty.toNat)).map fun k => (xs k).1)
      (unionFlags ((List.range (512 / widthOf f.ty.toNat)).map fun k => (xs k).2)) s =
    putLanes f (widthOf f.ty.toNat) cls ((List.range (512 / widthOf f.ty.toNat)).map (fun k => (Claims.once f rs k (xs k)).1),
      unionFlags ((List.range (512 / widthOf f.ty.toNat)).map fun k => (Claims.once f rs k (xs k)).2)) t := by
  simp only [putRounded, List.length_map, List.length_range, h, convLanes_range, Claims.once, unionFlags_or]

end

end Sys2Proof.Machine
end

section
/-! SUPPORT. Bitwise operations, shifts, comparisons and selection (O21). -/
namespace Sys2Proof.Machine

section
variable {i : Instr} {f : VF} {s s1 s2 s3 : State} {a b c : Vec}

/-! ### Bitwise operations and shifts (06 R155) -/

theorem bitOp_pushes {op : Vec → Vec → Vec} (hi : exec i s = issue s (bitOp op f s)) (ha : srcVec f.va f.ty.toNat s = .ok (a, s1))
    (hb : srcVec f.vb f.ty.toNat s1 = .ok (b, s2)) (hr : Claims.room f s2) : Claims.pushes i s f 4 (op a b) 0 s2 :=
  pushes_of_gather hi (by simp only [ha, hb, ok_bind]) hr

/-- A shift whose results fit their lanes, by the count of its instruction. -/
theorem shiftOp_immediate {op : Nat → Nat → Nat → Nat} (hop : ∀ w x n, x < 2 ^ w → op w x n < 2 ^ w)
    (hi : exec i s = issue s (shiftOp op f s)) (ha : srcVec f.va f.ty.toNat s = .ok (a, s1)) (hc : f.ctl.getLsbD 11 = true)
    (hr : Claims.room f s1) : ∃ v, Claims.pushes i s f 4 v 0 s1 ∧ ∀ k < 512 / widthOf f.ty.toNat,
      laneN v (widthOf f.ty.toNat) k = op (widthOf f.ty.toNat) (laneN a (widthOf f.ty.toNat) k) (f.ctl.extractLsb' 0 5).toNat :=
  pushes_of_lanes hi (by simp only [ha, hc, ok_bind, if_true, lanesOf, List.map_map]; rfl) hr fun k => hop _ _ _ (laneN_lt a _ k)

theorem shiftOp_lanes {op : Nat → Nat → Nat → Nat} (hop : ∀ w x n, x < 2 ^ w → op w x n < 2 ^ w)
    (hi : exec i s = issue s (shiftOp op f s)) (ha : srcVec f.va f.ty.toNat s = .ok (a, s1)) (hc : f.ctl.getLsbD 11 = false)
    (hb : srcVec f.vb f.ty.toNat s1 = .ok (b, s2)) (hr : Claims.room f s2) :
    ∃ v, Claims.pushes i s f 4 v 0 s2 ∧ ∀ k < 512 / widthOf f.ty.toNat, laneN v (widthOf f.ty.toNat) k =
      op (widthOf f.ty.toNat) (laneN a (widthOf f.ty.toNat) k) (laneN b (widthOf f.ty.toNat) k) :=
  pushes_of_lanes hi (by simp only [ha, hb, hc, ok_bind, zip2_lanesOf, unionFlags_zero]; rfl) hr fun k => hop _ _ _ (laneN_lt a _ k)

theorem laneShl_lt (w x n : Nat) (_ : x < 2 ^ w) : laneShl w x n < 2 ^ w := by
  unfold laneShl
  split
  · exact Nat.two_pow_pos w
  · exact Nat.mod_lt _ (Nat.two_pow_pos w)

theorem laneShr_lt (w x n : Nat) (h : x < 2 ^ w) : laneShr w x n < 2 ^ w := by
  unfold laneShr
  split
  · exact Nat.two_pow_pos w
  · exact (Nat.div_le_self ..).trans_lt h

theorem laneSar_lt (w x n : Nat) (_ : x < 2 ^ w) : laneSar w x n < 2 ^ w := ubits_lt ..

/-! ### Comparison and selection (06 R156, R157) -/

theorem ite_ones_lt (w : Nat) (p : Prop) [Decidable p] : (if p then 2 ^ w - 1 else 0) < 2 ^ w := by
  have := Nat.two_pow_pos w
  split <;> omega

theorem tyInt_iff (ty : BitVec 4) : tyInt ty = true ↔ ty = 5 ∨ ty = 6 := by simp [tyInt]

/-- One lane of a comparison: of integers, of values that are no NaN, and of a NaN. -/
def cmpLane (fop : XV → XV → Bool) (iop : Int → Int → Bool) (f : VF) (x y : Nat) : Nat × Flags :=
  if f.ty = 5 ∨ f.ty = 6 then
    (if iop (if f.ctl.getLsbD 0 then x else sint (widthOf f.ty.toNat) x) (if f.ctl.getLsbD 0 then y else sint (widthOf f.ty.toNat) y)
      then 2 ^ widthOf f.ty.toNat - 1 else 0, 0)
  else if (valueOf f.ty.toNat x).isNaN || (valueOf f.ty.toNat y).isNaN then (0, flagNV)
  else (if fop (valueOf f.ty.toNat x) (valueOf f.ty.toNat y) then 2 ^ widthOf f.ty.toNat - 1 else 0, 0)

theorem cmpLane_lt (fop : XV → XV → Bool) (iop : Int → Int → Bool) (f : VF) (x y : Nat) :
    (cmpLane fop iop f x y).1 < 2 ^ widthOf f.ty.toNat := by
  unfold cmpLane
  split
  · exact ite_ones_lt _ _
  · split
    · exact Nat.two_pow_pos _
    · exact ite_ones_lt _ _

theorem cmpLane_eq (fop : XV → XV → Bool) (iop : Int → Int → Bool) (f : VF) (x y : Nat) : cmpLane fop iop f x y =
    (if (if f.ty = 5 ∨ f.ty = 6 then
        (if f.ctl.getLsbD 0 then iop x y else iop (sint (widthOf f.ty.toNat) x) (sint (widthOf f.ty.toNat) y))
      else !(valueOf f.ty.toNat x).isNaN && !(valueOf f.ty.toNat y).isNaN && fop (valueOf f.ty.toNat x) (valueOf f.ty.toNat y))
      then 2 ^ widthOf f.ty.toNat - 1 else 0,
     if f.ty ≠ 5 ∧ f.ty ≠ 6 ∧ ((valueOf f.ty.toNat x).isNaN = true ∨ (valueOf f.ty.toNat y).isNaN = true) then 1 else 0) := by
  unfold cmpLane
  by_cases h : f.ty = 5 ∨ f.ty = 6
  · have hn : ¬ (f.ty ≠ 5 ∧ f.ty ≠ 6 ∧ ((valueOf f.ty.toNat x).isNaN = true ∨ (valueOf f.ty.toNat y).isNaN = true)) :=
      fun g => h.elim g.1 g.2.1
    rw [if_pos h, if_pos h, if_neg hn]
    cases f.ctl.getLsbD 0 <;> rfl
  · obtain ⟨h5, h6⟩ := not_or.1 h
    have hn (p : Prop) : (f.ty ≠ 5 ∧ f.ty ≠ 6 ∧ p) ↔ p := ⟨fun g => g.2.2, fun g => ⟨h5, h6, g⟩⟩
    simp only [if_neg h, hn]
    cases (valueOf f.ty.toNat x).isNaN <;> cases (valueOf f.ty.toNat y).isNaN <;> rfl

theorem cmpOp_pushes {fop : XV → XV → Bool} {iop : Int → Int → Bool} (hi : exec i s = issue s (cmpOp fop iop f s))
    (ha : srcVec f.va f.ty.toNat s = .ok (a, s1)) (hb : srcVec f.vb f.ty.toNat s1 = .ok (b, s2)) (hr : Claims.room f s2) :
    Claims.pushesLanes i s f (widthOf f.ty.toNat) 4 (fun k =>
      let x := laneN a (widthOf f.ty.toNat) k; let y := laneN b (widthOf f.ty.toNat) k
      (if (if f.ty = 5 ∨ f.ty = 6 then
          (if f.ctl.getLsbD 0 then iop x y else iop (sint (widthOf f.ty.toNat) x) (sint (widthOf f.ty.toNat) y))
        else !(valueOf f.ty.toNat x).isNaN && !(valueOf f.ty.toNat y).isNaN && fop (valueOf f.ty.toNat x) (valueOf f.ty.toNat y))
        then 2 ^ widthOf f.ty.toNat - 1 else 0,
       if f.ty ≠ 5 ∧ f.ty ≠ 6 ∧ ((valueOf f.ty.toNat x).isNaN = true ∨ (valueOf f.ty.toNat y).isNaN = true) then 1 else 0)) s2 := by
  have h : Claims.pushesLanes i s f (widthOf f.ty.toNat) 4
      (fun k => cmpLane fop iop f (laneN a (widthOf f.ty.toNat) k) (laneN b (widthOf f.ty.toNat) k)) s2 :=
    pushesLanes_of_gather hi (by simp only [ha, hb, ok_bind, zip2_lanesOf, tyInt_iff]; rfl) hr fun _ => cmpLane_lt ..
  simpa only [cmpLane_eq] using h

theorem vselOp_pushes (ha : srcVec f.va f.ty.toNat s = .ok (a, s1)) (hb : srcVec f.vb f.ty.toNat s1 = .ok (b, s2))
    (hc : srcVec f.vc f.ty.toNat s2 = .ok (c, s3)) (hr : Claims.room f s3) :
    ∃ v, Claims.pushes (.vsel f) s f 4 v 0 s3 ∧ ∀ k < 512 / widthOf f.ty.toNat, laneN v (widthOf f.ty.toNat) k =
      if laneN a (widthOf f.ty.toNat) k = 0 then laneN c (widthOf f.ty.toNat) k else laneN b (widthOf f.ty.toNat) k := by
  refine pushes_of_lanes (m := _) (cs := _) rfl (by simp only [ha, hb, hc, ok_bind, zip3_lanesOf, unionFlags_zero]) hr fun k => ?_
  split
  · exact laneN_lt ..
  · exact laneN_lt ..

end

theorem vectorBits : Claims.VectorBits := by
  refine ⟨List.forall_iff_forall_mem.1 ⟨?and, ?or, ?xor⟩, List.forall_iff_forall_mem.1 ⟨?shl, ?shr, ?sar⟩,
    List.forall_iff_forall_mem.1 ⟨?eq, ?lt, ?le⟩, fun f s s1 s2 s3 a b c _ ha hb hc hr => vselOp_pushes ha hb hc hr⟩
  case and | or | xor => exact fun _ _ _ _ _ _ ha hb hr => bitOp_pushes rfl ha hb hr
  case shl =>
    exact fun _ _ _ _ _ ha => ⟨shiftOp_immediate laneShl_lt rfl ha, fun hc _ _ => shiftOp_lanes laneShl_lt rfl ha hc⟩
  case shr =>
    exact fun _ _ _ _ _ ha => ⟨shiftOp_immediate laneShr_lt rfl ha, fun hc _ _ => shiftOp_lanes laneShr_lt rfl ha hc⟩
  case sar =>
    exact fun _ _ _ _ _ ha => ⟨shiftOp_immediate laneSar_lt rfl ha, fun hc _ _ => shiftOp_lanes laneSar_lt rfl ha hc⟩
  case eq | lt | le => exact fun _ _ _ _ _ _ _ ha hb hr => cmpOp_pushes rfl ha hb hr

/-- Settles O21. -/
theorem vectorBitsAndComparisons : Obligations.VectorBitsAndComparisons := vectorBits

end Sys2Proof.Machine
end

section
/-! SUPPORT. Reductions, broadcast, extract, permutations and moves (O23). -/
namespace Sys2Proof.Machine

section
variable {i : Instr} {f : VF} {s s1 s2 : State} {a b : Vec} {rs : List Nat}

theorem not_tyInt_of_float {ty : BitVec 4} (h : ty = 0 ∨ ty = 1) : tyInt ty = false := by rcases h with rfl | rfl <;> rfl

/-! ### Reductions (06 R163) -/

/-- The lanes of an integer vector under an operation, from lane 0 on. -/
def redInt (iop : Int → Int → Int) (w : Nat) (a : Vec) : Int :=
  ((List.range (512 / w - 1)).map fun i => sint w (laneN a w (i + 1))).foldl iop (sint w (laneN a w 0))

theorem redInt_eq (iop : Int → Int → Int) {w : Nat} (hw : 0 < 512 / w) (a : Vec) :
    ((lanesOf w a).map (sint w)).tail.foldl iop (((lanesOf w a).map (sint w)).headD 0) = redInt iop w a := by
  obtain ⟨n, hn⟩ : ∃ n, 512 / w = n + 1 := ⟨512 / w - 1, by omega⟩
  simp [redInt, lanesOf, hn, List.range_succ_eq_map, Function.comp_def]

theorem intLanes_pos {ty : BitVec 4} (h : ty = 5 ∨ ty = 6) : 0 < 512 / widthOf ty.toNat := by rcases h with rfl | rfl <;> decide

variable {node : XV → XV → XV × Flags} {iop : Int → Int → Int}

theorem redOp_int_scalar (hi : exec i s = issue s (redOp node iop f s)) (hty : f.ty = 5 ∨ f.ty = 6) (hd : scalDst f.vd = true)
    (ha : srcVec f.va f.ty.toNat s = .ok (a, s1)) : exec i s = .next (writeS ((f.vd.setWidth 5 : BitVec 5).setWidth 6) 5
      (BitVec.ofInt 64 (redInt iop (widthOf f.ty.toNat) a)) 0 s1) := by
  rw [hi, redOp]
  simp only [ha, ok_bind, (tyInt_iff f.ty).2 hty, hd, if_true, redInt_eq iop (intLanes_pos hty), gather_ok_eq, issue_ok]

theorem redOp_int_port (hi : exec i s = issue s (redOp node iop f s)) (hty : f.ty = 5 ∨ f.ty = 6) (hd : scalDst f.vd = false)
    (ha : srcVec f.va f.ty.toNat s = .ok (a, s1)) (hrs : draws f.rnd.toNat (elems f.tyd) s1 = (rs, s2)) (hr : Claims.room f s2) :
    Claims.pushes i s f 5
      (ofLanes (widthOf f.tyd.toNat)
        [(convertSat (XV.ofInt (redInt iop (widthOf f.ty.toNat) a)) f.tyd.toNat f.rnd.toNat (rs.headD 0)).1])
      (convertSat (XV.ofInt (redInt iop (widthOf f.ty.toNat) a)) f.tyd.toNat f.rnd.toNat (rs.headD 0)).2 s2 :=
  pushes_of_gather hi (by
    simp only [ha, ok_bind, (tyInt_iff f.ty).2 hty, hd, if_true, redInt_eq iop (intLanes_pos hty), hrs, zero_or_flags]
    rfl) hr

theorem redOp_float_scalar (hi : exec i s = issue s (redOp node iop f s)) (hty : f.ty = 0 ∨ f.ty = 1)
    (ha : srcVec f.va f.ty.toNat s = .ok (a, s1)) (hd : scalDst f.vd = true) (hrs : draws f.rnd.toNat 1 s1 = (rs, s2)) :
    exec i s = .next (writeS ((f.vd.setWidth 5 : BitVec 5).setWidth 6) 5
      (BitVec.ofNat 64 (convertSat (treeRed node 7 (elemsOf f.ty.toNat a)).1 f.tyd.toNat f.rnd.toNat (rs.headD 0)).1)
      (Claims.redFlags f node a rs) s2) := by
  rw [hi, redOp]
  simp only [ha, ok_bind, not_tyInt_of_float hty, hd, hrs, if_true]
  rfl

theorem redOp_float_port (hi : exec i s = issue s (redOp node iop f s)) (hty : f.ty = 0 ∨ f.ty = 1)
    (ha : srcVec f.va f.ty.toNat s = .ok (a, s1)) (hd : scalDst f.vd = false) (hrs : draws f.rnd.toNat (elems f.tyd) s1 = (rs, s2))
    (hr : Claims.room f s2) : Claims.pushes i s f 5 (ofLanes (widthOf f.tyd.toNat)
      [(convertSat (treeRed node 7 (elemsOf f.ty.toNat a)).1 f.tyd.toNat f.rnd.toNat (rs.headD 0)).1]) (Claims.redFlags f node a rs) s2 :=
  pushes_of_gather hi (by
    simp only [ha, ok_bind, not_tyInt_of_float hty, hd, hrs]
    rfl) hr

/-! ### Movement (06 R164-R166) -/

theorem vextrOp_answers (ha : srcVec f.va f.ty.toNat s = .ok (a, s1)) :
    exec (.vextr f) s = .next (writeS ((f.vd.setWidth 5 : BitVec 5).setWidth 6) 4
      (if f.ty = 5 ∨ f.ty = 6 then BitVec.ofInt 64 (sint (widthOf f.ty.toNat) (laneN a (widthOf f.ty.toNat) f.ctl.toNat))
        else BitVec.ofNat 64 (laneN a (widthOf f.ty.toNat) f.ctl.toNat)) 0 s1) := by
  change issue s (vextrOp f s) = _
  rw [vextrOp]
  simp only [ha, ok_bind, tyInt_iff, gather_ok_eq, issue_ok]
  rfl

theorem vbcastOp_pushes (ha : srcVec f.va f.ty.toNat s = .ok (a, s1)) (hr : Claims.room f s1) :
    ∃ v, Claims.pushes (.vbcast f) s f 4 v 0 s1 ∧
      ∀ k < 512 / widthOf f.ty.toNat, laneN v (widthOf f.ty.toNat) k = laneN a (widthOf f.ty.toNat) f.ctl.toNat :=
  pushes_of_lanes (m := _) (cs := _) rfl (by simp [ha, List.map_const']) hr fun _ => laneN_lt ..

/-- The lane widths divide a vector. -/
theorem width_dvd (ty : Nat) : widthOf ty ∣ 512 := by
  unfold widthOf
  split <;> decide

theorem permLane_lt {w : Nat} (hw : w ∣ 512) (kind par n k : Nat) (a b : Vec) : permLane kind par n k (lanesOf w a) (lanesOf w b) < 2 ^ w := by
  have ha (j : Nat) : (lanesOf w a).getD j 0 < 2 ^ w := by rw [lanesOf_getD hw]; exact laneN_lt ..
  have hb (j : Nat) : (lanesOf w b).getD j 0 < 2 ^ w := by rw [lanesOf_getD hw]; exact laneN_lt ..
  unfold permLane
  dsimp only
  split
  · exact ha _
  · exact ha _
  · split <;> simp only [ha, hb]
  · split <;> simp only [ha, hb]
  · split <;> simp only [ha, hb]
  · split <;> simp only [ha, hb]
  · exact ha _

/-- The lanes of a `vperm` of two sources. -/
theorem vpermOp_pushes_two (hk : ¬ (f.ctl.extractLsb' 8 4).toNat < 2) (ha : srcVec f.va f.ty.toNat s = .ok (a, s1))
    (hb : srcVec f.vb f.ty.toNat s1 = .ok (b, s2)) (hr : Claims.room f s2) :
    ∃ v, Claims.pushes (.vperm f) s f 4 v 0 s2 ∧ ∀ k < 512 / widthOf f.ty.toNat, laneN v (widthOf f.ty.toNat) k =
      permLane (f.ctl.extractLsb' 8 4).toNat (f.ctl.extractLsb' 0 8).toNat (512 / widthOf f.ty.toNat) k (lanesOf (widthOf f.ty.toNat) a)
        (lanesOf (widthOf f.ty.toNat) b) :=
  pushes_of_lanes (m := _) (cs := _) rfl (by simp only [ha, hb, hk, ok_bind, if_false]) hr fun _ => permLane_lt (width_dvd _) ..

/-- Those of one that reads va alone. -/
theorem vpermOp_pushes_one (hk : (f.ctl.extractLsb' 8 4).toNat < 2) (ha : srcVec f.va f.ty.toNat s = .ok (a, s1)) (hr : Claims.room f s1) :
    ∃ v, Claims.pushes (.vperm f) s f 4 v 0 s1 ∧ ∀ k < 512 / widthOf f.ty.toNat, laneN v (widthOf f.ty.toNat) k =
      permLane (f.ctl.extractLsb' 8 4).toNat (f.ctl.extractLsb' 0 8).toNat (512 / widthOf f.ty.toNat) k (lanesOf (widthOf f.ty.toNat) a)
        (lanesOf (widthOf f.ty.toNat) 0) :=
  pushes_of_lanes (m := _) (cs := _) rfl (by simp only [ha, hk, ok_bind, if_true]) hr fun _ => permLane_lt (width_dvd _) ..

theorem vmovOp_pushes (hd : f.vd < 0x80) (ha : srcVec f.va f.ty.toNat s = .ok (a, s1)) (hr : Claims.room f s1) :
    Claims.pushes (.vmov f) s f 4 a 0 s1 :=
  pushes_of_gather (m := _) (cs := _) rfl (by rw [if_pos hd]; simp only [ha, ok_bind]) hr

theorem vzeroOp_pushes (hd : f.vd < 0x80) (hr : Claims.room f s) : Claims.pushes (.vzero f) s f 4 0 0 s :=
  pushes_of_issue rfl (if_pos hd) hr

end

theorem vectorReductions : Claims.VectorReductions := by
  refine ⟨List.forall_iff_forall_mem.1 ⟨?sum, ?max, ?min⟩, List.forall_iff_forall_mem.1 ⟨?fsum, ?fmax, ?fmin⟩,
    List.forall_iff_forall_mem.1 ⟨?psum, ?pmax, ?pmin⟩⟩
  case sum | max | min => exact fun _ _ _ _ hty hd ha => ⟨_, redOp_int_scalar rfl hty hd ha, rfl⟩
  case fsum | fmax | fmin =>
    exact fun _ _ _ _ _ _ hty ha =>
      ⟨fun hd hrs => redOp_float_scalar rfl hty ha hd hrs, fun hd hrs hr => redOp_float_port rfl hty ha hd hrs hr⟩
  case psum | pmax | pmin => exact fun _ _ _ _ _ _ hty hd ha hrs hr => ⟨_, rfl, redOp_int_port rfl hty hd ha hrs hr⟩

theorem vectorMovement : Claims.VectorMovement := by
  refine ⟨fun f s s1 a _ ha hr => vbcastOp_pushes ha hr, fun f s s1 a ha => vextrOp_answers ha,
    fun f s s1 s2 a b _ hk _ ha hb hr => ?two, fun f s s1 a _ hk ha hr => ?one,
    fun f s s1 a hd ha hr => vmovOp_pushes hd ha hr, fun f s hd hr => vzeroOp_pushes hd hr⟩
  case two =>
    obtain ⟨v, hv, hlane⟩ := vpermOp_pushes_two (Nat.not_lt.2 (BitVec.le_def.1 hk)) ha hb hr
    refine ⟨v, hv, fun k hk => ⟨fun h => ?_, fun h => ?_, fun h => ?_, fun h => ?_, fun h => ?_⟩⟩
    all_goals
      simp only [hlane k hk, h, ← lanesOf_getD (width_dvd f.ty.toNat)]
      rfl
  case one =>
    obtain ⟨v, hv, hlane⟩ := vpermOp_pushes_one (BitVec.lt_def.1 hk) ha hr
    refine ⟨v, hv, fun k hk' => ?_⟩
    simp only [hlane k hk', ← lanesOf_getD (width_dvd f.ty.toNat)]
    by_cases h : f.ctl.extractLsb' 8 4 = 0
    · rw [if_pos h, h]
      rfl
    · have below : ∀ x : BitVec 4, x < 2 → x ≠ 0 → x = 1 := by decide
      have h1 := below _ hk h
      rw [if_neg h, h1]
      rfl

/-- Settles O23, part by part. -/
theorem vectorReductionsAndMovement : Obligations.VectorReductionsAndMovement := ⟨vectorReductions, vectorMovement⟩

end Sys2Proof.Machine
end

section
/-! SUPPORT. The conversions of vectors (O22). -/
namespace Sys2Proof.Machine

section
variable {i : Instr} {f : VF} {s s1 s2 s3 s4 : State} {a : Vec} {rs : List Nat}

/-! ### Floating lanes -/

/-- The elements of an f32 or a bf16 vector. -/
theorem elemsOf_float (h : f.ty = 0 ∨ f.ty = 1) (a : Vec) :
    elemsOf f.ty.toNat a = (List.range (512 / widthOf f.ty.toNat)).map (Claims.val f a) := by
  rcases h with h | h
  · exact elemsOf_eq (by rw [h]; decide) (by rw [h]; decide) a
  · exact elemsOf_eq (by rw [h]; decide) (by rw [h]; decide) a

/-- A lane that is rounded to the type of its instruction fits it. -/
theorem float_lt (h : f.ty = 0 ∨ f.ty = 1) (x : XV) (mode r : Nat) : (convertSat x f.ty.toNat mode r).1 < 2 ^ widthOf f.ty.toNat :=
  convertSat_lt (by rcases h with h | h <;> rw [h] <;> decide) x mode r

/-- Results without flags of their own. -/
theorem putRounded_clean {cls : Nat} {x : Nat → XV} {t : State} (h : draws f.rnd.toNat (512 / widthOf f.ty.toNat) s = (rs, t)) :
    putRounded f cls ((List.range (512 / widthOf f.ty.toNat)).map x) 0 s =
    putLanes f (widthOf f.ty.toNat) cls ((List.range (512 / widthOf f.ty.toNat)).map (fun k => (Claims.once f rs k (x k, 0)).1),
      unionFlags ((List.range (512 / widthOf f.ty.toNat)).map fun k => (Claims.once f rs k (x k, 0)).2)) t := by
  rw [← putRounded_eq h, unionFlags_zero]

theorem vsrndOp_pushes (hty : f.ty = 0 ∨ f.ty = 1) (ha : srcVec f.va f.ty.toNat s = .ok (a, s1))
    (hrs : draws f.rnd.toNat (512 / widthOf f.ty.toNat) s1 = (rs, s2)) (hr : Claims.room f s2) :
    Claims.pushesLanes (.vsrnd f) s f (widthOf f.ty.toNat) 5 (fun k =>
      let c := convertSat (Claims.val f a k) f.tyd.toNat f.rnd.toNat (rs.getD k 0)
      ((convertSat (valueOf f.tyd.toNat c.1) f.ty.toNat 0 0).1, c.2)) s2 := by
  refine pushesLanes_of_gather (m := _) (cs := _) rfl ?_ hr fun _ => float_lt hty ..
  simp only [ha, ok_bind, elemsOf_float hty, List.length_map, List.length_range, hrs, convLanes_range, List.map_map]
  rfl

/-- The exponent of a `vscal` is its immediate, or the clamped value of a register (06 R160). -/
theorem vscalOp_pushes {k : Int} (hty : f.ty = 0 ∨ f.ty = 1) (ha : srcVec f.va f.ty.toNat s = .ok (a, s1))
    (hk : f.ctl.getLsbD 11 = true ∧ k = (f.ctl.extractLsb' 0 9).toInt ∨
      f.ctl.getLsbD 11 = false ∧ ∃ w, readS (f.vb &&& 31) s1 = .ok w ∧ k = clampExp w)
    (hrs : draws f.rnd.toNat (512 / widthOf f.ty.toNat) s1 = (rs, s2)) (hr : Claims.room f s2) :
    Claims.pushesLanes (.vscal f) s f (widthOf f.ty.toNat) 5 (fun j => Claims.once f rs j ((Claims.val f a j).scale k, 0)) s2 := by
  refine pushesLanes_of_gather (m := _) (cs := _) rfl ?_ hr fun _ => float_lt hty ..
  rcases hk with ⟨hc, rfl⟩ | ⟨hc, w, hw, rfl⟩
  · simp only [ha, hc, ok_bind, if_true, elemsOf_float hty, List.map_map]
    exact putRounded_clean hrs
  · simp only [ha, hc, hw, ok_bind, elemsOf_float hty, List.map_map]
    exact putRounded_clean hrs

/-! ### vcvt (06 R158) -/

theorem popAll_nil_ok {ty : Nat} {xs : List XV} (h : popAll ty [] s = .ok (xs, s1)) : xs = [] ∧ s1 = s := by
  cases h
  exact ⟨rfl, rfl⟩

theorem popAll_cons_ok {ty : Nat} {v : BitVec 6} {vs : List (BitVec 6)} {xs : List XV} (h : popAll ty (v :: vs) s = .ok (xs, s2)) :
    ∃ a u ys, srcVec v ty s = .ok (a, u) ∧ popAll ty vs u = .ok (ys, s2) ∧ xs = elemsOf ty a ++ ys := by
  obtain ⟨⟨a, u⟩, ha, h⟩ := bind_eq_ok.1 h
  obtain ⟨⟨ys, t⟩, ht, h⟩ := bind_eq_ok.1 h
  cases h
  exact ⟨a, u, ys, ha, ht, rfl⟩

theorem elemsOf_length {ty : BitVec 4} (h : tyAny ty = true) (a : Vec) : (elemsOf ty.toNat a).length = elems ty := by
  have types : ∀ t : BitVec 4, tyAny t = true → t = 0 ∨ t = 1 ∨ t = 2 ∨ t = 3 ∨ t = 4 ∨ t = 5 ∨ t = 6 ∨ t = 7 := by decide
  rcases types ty h with rfl | rfl | rfl | rfl | rfl | rfl | rfl | rfl <;> simp [elemsOf, elems, widthOf]

/-- With as many elements in a result as in a source, the part is 0. -/
theorem wfVcvt_ctl (hw : (Instr.vcvt f).wf = true) (h : elems f.tyd = elems f.ty) : tyAny f.ty = true ∧ f.ctl = 0 := by
  simp only [Instr.wf, wfVcvt, h, if_true, Bool.and_eq_true, beq_iff_eq] at hw
  tauto

theorem vcvtOp_pushes {all xs : List XV} (hw : (Instr.vcvt f).wf = true) (hne : f.tyd ≠ f.ty)
    (hall : popAll f.ty.toNat (Claims.cvtSels f) s = .ok (all, s1))
    (hxs : xs = (if elems f.tyd < elems f.ty then (all.drop ((f.ctl.extractLsb' 6 2).toNat * elems f.tyd)).take (elems f.tyd) else all))
    (hrs : draws f.rnd.toNat (elems f.tyd) s1 = (rs, s2)) (hr : Claims.room f s2) :
    Claims.pushes (.vcvt f) s f 5 (encodeAll xs f.tyd.toNat f.rnd.toNat rs).1
      ((encodeAll xs f.tyd.toNat f.rnd.toNat rs).2 ||| nanFlag xs) s2 := by
  have hty : ¬ f.ty.toNat = f.tyd.toNat := fun h => hne (BitVec.eq_of_toNat_eq h.symm)
  refine pushes_of_gather (m := _) (cs := _) rfl ?_ hr
  unfold Claims.cvtSels at hall
  split at hall
  next hle =>
    obtain ⟨a, u, ys, ha, hy, rfl⟩ := popAll_cons_ok hall
    obtain ⟨rfl, rfl⟩ := popAll_nil_ok hy
    have hpart : ((elemsOf f.ty.toNat a).drop ((f.ctl.extractLsb' 6 2).toNat * elems f.tyd)).take (elems f.tyd) = xs := by
      rw [hxs, List.append_nil]
      split
      next => rfl
      next hge =>
        have heq : elems f.tyd = elems f.ty := by omega
        obtain ⟨hany, hctl⟩ := wfVcvt_ctl hw heq
        rw [hctl, heq]
        simp [elemsOf_length hany]
    simp only [ha, ok_bind, hty, if_false, hle, if_true, hpart, hrs]
  next hgt =>
    obtain rfl : xs = all := by rw [hxs, if_neg (by omega)]
    split at hall
    next htwo =>
      obtain ⟨a, u, ys, ha, hy, rfl⟩ := popAll_cons_ok hall
      obtain ⟨b, t, zs, hb, hz, rfl⟩ := popAll_cons_ok hy
      obtain ⟨rfl, rfl⟩ := popAll_nil_ok hz
      simp only [ha, ok_bind, if_neg hty, if_neg hgt]
      rw [if_pos htwo]
      simp only [hb, ok_bind, hrs, List.append_nil]
    next hfour =>
      obtain ⟨a, u, ys, ha, hy, rfl⟩ := popAll_cons_ok hall
      obtain ⟨b, t, zs, hb, hz, rfl⟩ := popAll_cons_ok hy
      obtain ⟨c, t1, zs1, hc, hz1, rfl⟩ := popAll_cons_ok hz
      obtain ⟨d, t2, zs2, hd, hz2, rfl⟩ := popAll_cons_ok hz1
      obtain ⟨rfl, rfl⟩ := popAll_nil_ok hz2
      simp only [ha, hb, hc, hd, ok_bind, if_neg hty, if_neg hgt, if_neg hfour, hrs, List.append_nil, List.append_assoc]

theorem vcvtOp_same (heq : f.tyd = f.ty) (ha : srcVec f.va f.ty.toNat s = .ok (a, s1)) (hrs : draws f.rnd.toNat (elems f.tyd) s1 = (rs, s2))
    (hr : Claims.room f s2) : Claims.pushes (.vcvt f) s f 5 (sameCopy f.ty.toNat a).1 (sameCopy f.ty.toNat a).2 s2 :=
  pushes_of_gather (m := _) (cs := _) rfl (by simp only [ha, ok_bind, heq, if_true, heq ▸ hrs]) hr

/-! ### vqnt and vdq (06 R161, R162) -/

theorem vqntOp_pushes {h : BitVec 256} {r : Rec} {e : Ent} {xs ys : List XV} (hh : readH (f.ctl.extractLsb' 0 4) s = .ok h)
    (hg : hGov h = true) (hrec : readRec (hTmr h) s = .ok (r, s1)) (hcur : r.current = some e) (hfmt : needFmt s1 e.f = .ok ())
    (hpool : noPoolData h s1 = .ok ()) (hys : popAll f.ty.toNat (vqntSels f (vecElems e.f)) s1 = .ok (ys, s2)) (hxs : xs = ys.take (vecElems e.f))
    (hrs : draws f.rnd.toNat (vecElems e.f) s2 = (rs, s3))
    (hheld : setHeld (addHist r.pa (xs.map fun x => binOf x e.e e.f) s3.core.held) s3 = .ok s4) (hr : Claims.room f s4) :
    Claims.pushes (.vqnt f) s f 5 (encodeAll (xs.map (XV.scale (-e.e))) e.f f.rnd.toNat rs).1
      ((encodeAll (xs.map (XV.scale (-e.e))) e.f f.rnd.toNat rs).2 ||| nanFlag xs) s4 := by
  subst hxs
  refine pushes_of_gather (m := _) (cs := _) rfl ?_ hr
  simp only [hh, hg, hrec, hcur, hfmt, hpool, hys, hrs, hheld, ok_bind, needLegal_true, liftMem_ok_eq, Option.getD_some]

theorem vdqOp_pushes {h : BitVec 256} {w : Word} {r : Rec} {e : Ent} {n : Nat} (hn : n = (if f.tyd = 0 then 16 else 32))
    (hpart : (f.ctl.extractLsb' 8 2).toNat < vecElems e.f / n) (hh : readH (f.ctl.extractLsb' 0 4) s = .ok h) (hg : hGov h = true)
    (hw : readS (f.vb &&& 31) s = .ok w) (hrec : readRec (hTmr h) s = .ok (r, s1)) (he : vdqEntry h w r = some e)
    (hfmt : needFmt s1 e.f = .ok ()) (hpool : noPoolData h s1 = .ok ()) (ha : srcVec f.va e.f s1 = .ok (a, s2))
    (hrs : draws f.rnd.toNat n s2 = (rs, s3)) (hr : Claims.room f s3) :
    ∃ xs, xs = ((elemsOf e.f a).drop ((f.ctl.extractLsb' 8 2).toNat * n)).take n ∧
      Claims.pushes (.vdq f) s f 5 (encodeAll (xs.map (XV.scale e.e)) f.tyd.toNat f.rnd.toNat rs).1
        ((encodeAll (xs.map (XV.scale e.e)) f.tyd.toNat f.rnd.toNat rs).2 ||| nanFlag xs) s3 := by
  have htyd : (if f.tyd.toNat = 0 then 16 else 32) = n := by
    rw [hn]
    exact if_congr (BitVec.toNat_inj (y := 0)) rfl rfl
  refine ⟨_, rfl, pushes_of_gather (m := _) (cs := _) rfl ?_ hr⟩
  simp only [htyd, hh, hg, hw, hrec, he, hfmt, hpool, ha, hrs, ok_bind, needLegal_true, liftMem_ok_eq, hpart, decide_true]

end

theorem vectorConvert : Claims.VectorConvert := by
  refine ⟨fun f s s1 s2 all xs rs hw hne hall hxs hrs hr => vcvtOp_pushes hw hne hall hxs hrs hr,
    fun f s s1 s2 a rs heq ha hrs hr => vcvtOp_same heq ha hrs hr,
    fun f s s1 s2 a rs hty _ ha hrs hr => vsrndOp_pushes hty ha hrs hr,
    fun f s s1 s2 a rs hty hc ha hrs hr => vscalOp_pushes hty ha (.inl ⟨hc, rfl⟩) hrs hr,
    fun f s s1 s2 a w rs hty hc _ ha hw hrs hr => vscalOp_pushes hty ha (.inr ⟨hc, w, hw, rfl⟩) hrs hr,
    fun f s s1 s2 s3 s4 h r e xs ys rs hh hg hrec hcur hfmt hpool hys hxs hrs hheld hr =>
      vqntOp_pushes hh hg hrec hcur hfmt hpool hys hxs hrs hheld hr,
    fun f s s1 s2 s3 h w r e a rs n hn hpart hh hg hw hrec he hfmt hpool ha hrs hr =>
      vdqOp_pushes hn hpart hh hg hw hrec he hfmt hpool ha hrs hr⟩

/-- Settles O22. -/
theorem vectorConversions : Obligations.VectorConversions := vectorConvert

end Sys2Proof.Machine
end

section
/-! SUPPORT. Vector arithmetic, the fused operations and the transcendental instructions (O19). -/
namespace Sys2Proof.Machine

section
variable {i : Instr} {f : VF} {s s1 s2 s3 s4 : State} {a b c : Vec} {rs : List Nat}

/-! ### Integer and floating lanes (06 R151-R153) -/

theorem widthOf_pos (ty : Nat) : 0 < widthOf ty := by
  unfold widthOf
  split <;> decide

/-- Lanes that hold the low bits of integers read as those integers modulo 2^w. -/
theorem pushes_wrapped {cls w : Nat} {m : Res State} {cs : List (Option Stop)} {t : State} {z : Nat → Int} (hw : 0 < w)
    (hi : exec i s = issue s (gather m cs)) (hm : m = putLanes f w cls ((List.range (512 / w)).map (fun k => ubits w (z k)), 0) t)
    (hr : Claims.room f t) : ∃ v, Claims.pushes i s f cls v 0 t ∧ ∀ k < 512 / w, sint w (laneN v w k) = (z k).bmod (2 ^ w) := by
  obtain ⟨v, hv, hlane⟩ := pushes_of_lanes hi hm hr fun k => ubits_lt w (z k)
  exact ⟨v, hv, fun k hk => by rw [hlane k hk, sint_ubits hw]⟩

theorem arith2_int {cls : Nat} {fop : XV → XV → XV × Flags} {iop : Int → Int → Int} (hi : exec i s = issue s (arith2 cls fop iop f s))
    (ha : srcVec f.va f.ty.toNat s = .ok (a, s1)) (hb : srcVec f.vb f.ty.toNat s1 = .ok (b, s2)) (hty : f.ty = 5 ∨ f.ty = 6)
    (hr : Claims.room f s2) : ∃ v, Claims.pushes i s f cls v 0 s2 ∧ ∀ k < 512 / widthOf f.ty.toNat,
      sint (widthOf f.ty.toNat) (laneN v (widthOf f.ty.toNat) k) =
        (iop (sint (widthOf f.ty.toNat) (laneN a (widthOf f.ty.toNat) k)) (sint (widthOf f.ty.toNat) (laneN b (widthOf f.ty.toNat) k))).bmod
          (2 ^ widthOf f.ty.toNat) :=
  pushes_wrapped (widthOf_pos _) hi
    (by simp only [ha, hb, ok_bind, (tyInt_iff f.ty).2 hty, if_true, zip2_lanesOf, unionFlags_zero]) hr

theorem arith2_float {cls : Nat} {fop : XV → XV → XV × Flags} {iop : Int → Int → Int} (hi : exec i s = issue s (arith2 cls fop iop f s))
    (ha : srcVec f.va f.ty.toNat s = .ok (a, s1)) (hb : srcVec f.vb f.ty.toNat s1 = .ok (b, s2)) (hty : f.ty = 0 ∨ f.ty = 1)
    (hrs : draws f.rnd.toNat (512 / widthOf f.ty.toNat) s2 = (rs, s3)) (hr : Claims.room f s3) :
    Claims.pushesLanes i s f (widthOf f.ty.toNat) cls (fun k => Claims.once f rs k (fop (Claims.val f a k) (Claims.val f b k))) s3 := by
  refine pushesLanes_of_gather hi ?_ hr fun _ => float_lt hty ..
  simp only [ha, hb, ok_bind, not_tyInt_of_float hty, elemsOf_float hty, List.zip_map', List.map_map]
  exact putRounded_eq (xs := fun k => fop (Claims.val f a k) (Claims.val f b k)) hrs

theorem arith1_int {fop : XV → XV} {iop : Int → Int} (hi : exec i s = issue s (arith1 fop iop f s))
    (ha : srcVec f.va f.ty.toNat s = .ok (a, s1)) (hty : f.ty = 5 ∨ f.ty = 6) (hr : Claims.room f s1) :
    ∃ v, Claims.pushes i s f 4 v 0 s1 ∧ ∀ k < 512 / widthOf f.ty.toNat, sint (widthOf f.ty.toNat) (laneN v (widthOf f.ty.toNat) k) =
      (iop (sint (widthOf f.ty.toNat) (laneN a (widthOf f.ty.toNat) k))).bmod (2 ^ widthOf f.ty.toNat) :=
  pushes_wrapped (widthOf_pos _) hi
    (by simp only [ha, ok_bind, (tyInt_iff f.ty).2 hty, if_true, lanesOf, List.map_map]; rfl) hr

theorem arith1_float {fop : XV → XV} {iop : Int → Int} (hi : exec i s = issue s (arith1 fop iop f s))
    (ha : srcVec f.va f.ty.toNat s = .ok (a, s1)) (hty : f.ty = 0 ∨ f.ty = 1)
    (hrs : draws f.rnd.toNat (512 / widthOf f.ty.toNat) s1 = (rs, s2)) (hr : Claims.room f s2) :
    Claims.pushesLanes i s f (widthOf f.ty.toNat) 4 (fun k => Claims.once f rs k (fop (Claims.val f a k), 0)) s2 := by
  refine pushesLanes_of_gather hi ?_ hr fun _ => float_lt hty ..
  simp only [ha, ok_bind, not_tyInt_of_float hty, elemsOf_float hty, List.map_map]
  exact putRounded_clean hrs

theorem arithRows_exec : ∀ r ∈ Claims.arithRows, ∀ (f : VF) (s : State),
    exec (r.1 f) s = issue s (arith2 r.2.1 r.2.2.1 r.2.2.2 f s) :=
  List.forall_iff_forall_mem.1 ⟨fun _ _ => rfl, fun _ _ => rfl, fun _ _ => rfl, fun _ _ => rfl, fun _ _ => rfl⟩

theorem vectorTwoSource : Claims.VectorTwoSource := fun r hr f s _ _ _ _ ha hb =>
  ⟨arith2_int (arithRows_exec r hr f s) ha hb, fun hty _ _ => arith2_float (arithRows_exec r hr f s) ha hb hty⟩

theorem vectorAbsNeg : Claims.VectorAbsNeg := List.forall_iff_forall_mem.1
  ⟨fun _ _ _ _ ha => ⟨arith1_int rfl ha, fun hty _ _ => arith1_float rfl ha hty⟩,
    fun _ _ _ _ ha => ⟨arith1_int rfl ha, fun hty _ _ => arith1_float rfl ha hty⟩⟩

/-! ### Fused operations and transcendentals (06 R152, R154) -/

theorem arith3_pushes {minus : Bool} (hi : exec i s = issue s (arith3 minus f s)) (hty : f.ty = 0 ∨ f.ty = 1)
    (ha : srcVec f.va f.ty.toNat s = .ok (a, s1)) (hb : srcVec f.vb f.ty.toNat s1 = .ok (b, s2))
    (hc : srcVec f.vc f.ty.toNat s2 = .ok (c, s3)) (hrs : draws f.rnd.toNat (512 / widthOf f.ty.toNat) s3 = (rs, s4))
    (hr : Claims.room f s4) : Claims.pushesLanes i s f (widthOf f.ty.toNat) 5
      (fun k => Claims.once f rs k (fmaX minus (Claims.val f a k) (Claims.val f b k) (Claims.val f c k))) s4 := by
  refine pushesLanes_of_gather hi ?_ hr fun _ => float_lt hty ..
  simp only [ha, hb, hc, ok_bind, elemsOf_float hty, List.zip_map', List.map_map]
  exact putRounded_eq (xs := fun k => fmaX minus (Claims.val f a k) (Claims.val f b k) (Claims.val f c k)) hrs

theorem trans_pushes {op : XV → BitVec 32 → Nat × Flags} (hi : exec i s = issue s (trans op f s)) (hty : f.ty = 0 ∨ f.ty = 1)
    (ha : srcVec f.va f.ty.toNat s = .ok (a, s1)) (hrs : draws f.rnd.toNat (512 / widthOf f.ty.toNat) s1 = (rs, s2))
    (hr : Claims.room f s2) : Claims.pushesLanes i s f (widthOf f.ty.toNat) 6 (fun k =>
      let t := op (Claims.val f a k) (BitVec.ofNat 32 (convertSat (Claims.val f a k) 0 0 0).1)
      Claims.once f rs k (valueOf 0 t.1, t.2)) s2 := by
  refine pushesLanes_of_gather hi ?_ hr fun _ => float_lt hty ..
  simp only [ha, ok_bind, elemsOf_float hty, List.map_map]
  exact putRounded_eq (xs := fun k => (valueOf 0 (op (Claims.val f a k) (BitVec.ofNat 32 (convertSat (Claims.val f a k) 0 0 0).1)).1,
    (op (Claims.val f a k) (BitVec.ofNat 32 (convertSat (Claims.val f a k) 0 0 0).1)).2)) hrs

end

theorem vectorFusedTranscendental : Claims.VectorFusedTranscendental := by
  refine ⟨List.forall_iff_forall_mem.1 ⟨?fma, ?fms⟩, List.forall_iff_forall_mem.1 ⟨?rcp, ?rsq, ?exp2, ?log2, ?tanh⟩⟩
  case fma | fms => exact fun _ _ _ _ _ _ _ _ _ _ hty ha hb hc hrs hr => arith3_pushes rfl hty ha hb hc hrs hr
  case rcp | rsq | exp2 | log2 | tanh => exact fun _ _ _ _ _ _ hty ha hrs hr => trans_pushes rfl hty ha hrs hr

end Sys2Proof.Machine
end

section
/-! SUPPORT. The special inputs and the exact cases of the transcendental functions (O19). -/
namespace Sys2Proof.Machine

/-! ### Values that f32 holds (05 R137, 06 R154) -/

theorem num_neg_iff {q : Q} (hd : q.den ≠ 0) : q.num < 0 ↔ Claims.rat q < 0 := by
  have : (0 : ℚ) < q.den := by positivity
  rw [Claims.rat, div_lt_iff₀ this, zero_mul, Int.cast_lt_zero]

theorem num_ne_of_rat {q : Q} (h : Claims.rat q ≠ 0) : q.num ≠ 0 := fun h0 => h (by rw [Claims.rat, h0, Int.cast_zero, zero_div])

/-- A value that is a whole number of the units of its binade converts to itself, without a flag. -/
theorem convertSat_exact {ty : Nat} {f : FFmt} {eT mT : Nat} (L : Laid ty f eT mT) {nz : Bool} {q : Q} {mode r : Nat} {e z : Int}
    (hn : q.num ≠ 0) (hd : q.den ≠ 0) (hmode : mode ≤ 2) (hr : r < 65536) (h1 : (2 : ℚ) ^ e ≤ |Claims.rat q|)
    (h2 : |Claims.rat q| < (2 : ℚ) ^ (e + 1)) (hz : |Claims.rat q| = z * (2 : ℚ) ^ (max e f.emin - f.p + 1))
    (hle : |Claims.rat q| ≤ f.maxN * (2 : ℚ) ^ f.maxK) :
    (∃ p, valueOf ty (convertSat (.fin nz q) ty mode r).1 = .fin (decide (q.num < 0)) p ∧ p.den ≠ 0 ∧ Claims.rat p = Claims.rat q) ∧
      (convertSat (.fin nz q) ty mode r).2 = 0 := by
  have hk := keeps_of_units (mode := mode) hr (by positivity) hz
  obtain ⟨p, hv, hp, hrat⟩ := convertSat_value (nz := nz) L hn hd hmode rfl h1 h2 rfl hk (hz ▸ hle)
  refine ⟨⟨p, hv, hp, ?_⟩, ?_⟩
  · rw [hrat, ← hz]
    split
    next h => rw [abs_of_neg ((num_neg_iff hd).1 h), neg_neg]
    next h => exact abs_of_nonneg (not_lt.1 (mt (num_neg_iff hd).2 h))
  · rw [convertSat_of_keeps L hn hd hmode rfl h1 h2 rfl hk, if_neg (not_lt.2 (hz ▸ hle)), if_neg (fun h => h.2 hz.symm)]

/-- A power of two times an integer, in the range of f32. -/
theorem convertSat_f32_exact {nz : Bool} {q : Q} {mode r : Nat} {e z k : Int} (hd : q.den ≠ 0) (hmode : mode ≤ 2) (hr : r < 65536)
    (h1 : (2 : ℚ) ^ e ≤ |Claims.rat q|) (h2 : |Claims.rat q| < (2 : ℚ) ^ (e + 1)) (hz : |Claims.rat q| = z * (2 : ℚ) ^ k)
    (hk : max e (-126) - 23 ≤ k) (hle : |Claims.rat q| ≤ 2 ^ (127 : ℤ)) :
    (∃ p, valueOf 0 (convertSat (.fin nz q) 0 mode r).1 = .fin (decide (q.num < 0)) p ∧ p.den ≠ 0 ∧ Claims.rat p = Claims.rat q) ∧
      (convertSat (.fin nz q) 0 mode r).2 = 0 := by
  have hpos : (0 : ℚ) < 2 ^ e := by positivity
  have hn : q.num ≠ 0 := num_ne_of_rat (abs_pos.1 (hpos.trans_le h1))
  obtain ⟨j, hj⟩ : ∃ j : ℕ, k = max e (-126) - 23 + j := ⟨(k - (max e (-126) - 23)).toNat, by omega⟩
  refine convertSat_exact laid_f32 (z := z * 2 ^ j) hn hd hmode hr h1 h2 ?_ (hle.trans (by norm_num))
  have hexp : max e (-126) - 24 + 1 = max e (-126) - 23 := by ring
  rw [hz, hj, zpow_add₀ two_ne_zero, zpow_natCast]
  change _ = ((z * 2 ^ j : ℤ) : ℚ) * 2 ^ (max e (-126) - 24 + 1)
  rw [hexp]
  push_cast
  ring

theorem convertSat_f32_pow2 {nz : Bool} {q : Q} {mode r : Nat} {k : Int} (hd : q.den ≠ 0) (hmode : mode ≤ 2) (hr : r < 65536)
    (h : |Claims.rat q| = 2 ^ k) (hlow : -149 ≤ k) (hhigh : k ≤ 127) :
    (∃ p, valueOf 0 (convertSat (.fin nz q) 0 mode r).1 = .fin (decide (q.num < 0)) p ∧ p.den ≠ 0 ∧ Claims.rat p = Claims.rat q) ∧
      (convertSat (.fin nz q) 0 mode r).2 = 0 := by
  have hlt : (2 : ℚ) ^ k < 2 ^ (k + 1) := zpow_lt_zpow_right₀ one_lt_two (by omega)
  exact convertSat_f32_exact (e := k) (z := 1) (k := k) hd hmode hr h.ge (h ▸ hlt) (by rw [h]; simp) (by omega)
    (h ▸ zpow_le_zpow_right₀ one_le_two hhigh)

/-- A power of two above the range of f32 becomes an infinity under RNE. -/
theorem convertSat_f32_over {nz : Bool} {q : Q} {k : Int} (hd : q.den ≠ 0) (h : |Claims.rat q| = 2 ^ k) (hk : 128 ≤ k) :
    convertSat (.fin nz q) 0 0 0 = (infBits 0 (decide (q.num < 0)), 2) := by
  have hpos : (0 : ℚ) < 2 ^ k := by positivity
  have hn : q.num ≠ 0 := num_ne_of_rat (abs_pos.1 (h ▸ hpos))
  have hlt : (2 : ℚ) ^ k < 2 ^ (k + 1) := zpow_lt_zpow_right₀ one_lt_two (by omega)
  have hz : |Claims.rat q| = ((2 ^ 23 : ℤ) : ℚ) * 2 ^ (max k (-126) - 24 + 1) := by
    have hexp : k = 23 + (max k (-126) - 24 + 1) := by omega
    rw [h]
    conv_lhs => rw [hexp, zpow_add₀ two_ne_zero]
    norm_num
  have hover : ((16777215 : ℤ) : ℚ) * 2 ^ (104 : ℤ) < ((2 ^ 23 : ℤ) : ℚ) * 2 ^ (max k (-126) - 24 + 1) := by
    rw [← hz, h]
    exact lt_of_lt_of_le (by norm_num) (zpow_le_zpow_right₀ one_le_two hk)
  rw [convertSat_of_keeps laid_f32 hn hd (by omega) rfl h.ge (h ▸ hlt) rfl (keeps_of_units (by omega) (by positivity) hz), if_pos hover]
  rfl

/-- A value equal to n × 2^k. -/
theorem eq_scaled_of_rat {p : Q} {n k : Int} (hp : p.den ≠ 0) (h : Claims.rat p = n * 2 ^ k) : p.eq (.scaled n k) = true :=
  (eq_iff_rat hp (scaled_den_ne n k)).2 (h.trans (rat_scaled n k).symm)

/-! ### The reciprocal (06 R154) -/

theorem recip_den_ne {q : Q} (h : q.num ≠ 0) : ((Q.ofInt 1).div q).den ≠ 0 := by simpa [Q.div, Q.ofInt] using h

theorem recip_mul (q : Q) : ((Q.ofInt 1).div q).num * q.num = ((Q.ofInt 1).div q).den * q.den := by
  have h : q.num.sign * q.num = q.num.natAbs := Int.sign_mul_self q.num
  simp only [Q.div, Q.ofInt, one_mul, mul_assoc, h]
  ring

theorem rat_recip {q : Q} (hn : q.num ≠ 0) (hd : q.den ≠ 0) : Claims.rat ((Q.ofInt 1).div q) = (Claims.rat q)⁻¹ := by
  have hp := recip_den_ne hn
  have hmul : (((Q.ofInt 1).div q).num : ℚ) * q.num = ((Q.ofInt 1).div q).den * q.den := by exact_mod_cast recip_mul q
  refine eq_inv_of_mul_eq_one_left ?_
  rw [Claims.rat, Claims.rat, div_mul_div_comm, hmul, div_self]
  positivity

theorem rcpT_fin {nz : Bool} {q : Q} (h : q.num ≠ 0) : rcpT (.fin nz q) = convertSat (.fin false ((Q.ofInt 1).div q)) 0 0 0 := if_neg h

/-- The reciprocal of a power of two with a sign. -/
theorem rat_recip_scaled {n : Int} (k : Int) (hn : n = 1 ∨ n = -1) : (Q.scaled n k).num ≠ 0 ∧
    Claims.rat ((Q.ofInt 1).div (.scaled n k)) = n * 2 ^ (-k) ∧ |Claims.rat ((Q.ofInt 1).div (.scaled n k))| = 2 ^ (-k) := by
  have hne : Claims.rat (.scaled n k) ≠ 0 := by
    rw [rat_scaled]
    have : (2 : ℚ) ^ k ≠ 0 := by positivity
    rcases hn with rfl | rfl <;> simpa
  have hpos : (0 : ℚ) ≤ 2 ^ (-k) := by positivity
  have hrat : Claims.rat ((Q.ofInt 1).div (.scaled n k)) = n * 2 ^ (-k) := by
    rw [rat_recip (num_ne_of_rat hne) (scaled_den_ne n k), rat_scaled, mul_inv, zpow_neg]
    rcases hn with rfl | rfl <;> norm_num
  refine ⟨num_ne_of_rat hne, hrat, ?_⟩
  rw [hrat, abs_mul, abs_of_nonneg hpos]
  rcases hn with rfl | rfl <;> norm_num

/-! ### vrsq at even powers of two (06 R154) -/

theorem isqrt_two_pow_46 : isqrt (2 ^ 46) = 2 ^ 23 := by decide +kernel

/-- The numerator and denominator of a power of two. -/
theorem scaled_natAbs_div (k : Int) : ((Q.scaled 1 k).num.natAbs : ℚ) / (Q.scaled 1 k).den = 2 ^ k := by
  rw [← rat_abs_natAbs, rat_scaled, Int.cast_one, one_mul, abs_of_pos (by positivity)]

theorem scaled_one_num_pos (k : Int) : 0 < (Q.scaled 1 k).num := by
  obtain ⟨c, hc, h⟩ := scaled_num 1 k
  rw [h, one_mul]
  exact hc

theorem floorLog2_two_zpow {a d : Nat} {k : Int} (ha : a ≠ 0) (hd : d ≠ 0) (h : (a : ℚ) / d = 2 ^ k) : floorLog2 a d = k :=
  floorLog2_eq ha hd h.ge (h ▸ zpow_lt_zpow_right₀ one_lt_two (by omega))

theorem unitsNum_double (d : Nat) (k : Int) : unitsNum d (2 * k) = if 0 ≤ k then d else d * 2 ^ (2 * (-k).toNat) := by
  have hs : (-(2 * k)).toNat = 2 * (-k).toNat := by omega
  rw [unitsNum, hs]
  exact if_congr (by omega) rfl rfl

theorem unitsDen_double (a : Nat) (k : Int) : unitsDen a (2 * k) = if 0 ≤ k then a * 2 ^ (2 * k.toNat) else a := by
  have hs : (2 * k).toNat = 2 * k.toNat := by omega
  rw [unitsDen, hs]
  exact if_congr (by omega) rfl rfl

/-- At an even power of two the square root is whole, so the fixed function has no choice. -/
theorem rsqT_square (nz : Bool) (k : Int) (b : BitVec 32) :
    rsqT (.fin nz (.scaled 1 (2 * k))) b = convertSat (.fin false (.scaled (2 ^ 23 : Nat) (-k - 23))) 0 1 0 := by
  have hpos := scaled_one_num_pos (2 * k)
  have ha : (Q.scaled 1 (2 * k)).num.natAbs ≠ 0 := by omega
  have hd := scaled_den_ne 1 (2 * k)
  have hrat := scaled_natAbs_div (2 * k)
  generalize Q.scaled 1 (2 * k) = q at *
  have hinv : (q.den : ℚ) / q.num.natAbs = 2 ^ (-(2 * k)) := by rw [zpow_neg, ← hrat, inv_div]
  have hlog : floorLog2 q.den q.num.natAbs / 2 - 23 = -k - 23 := by
    rw [floorLog2_two_zpow hd ha hinv]
    omega
  obtain ⟨j, hj⟩ : ∃ j, -k - 23 = j := ⟨_, rfl⟩
  have hden := unitsDen_ne ha (2 * j)
  have hunits : unitsNum q.den (2 * j) = 2 ^ 46 * unitsDen q.num.natAbs (2 * j) := by
    have hexp : -(2 * k) - 2 * j = 46 := by omega
    have h := units_eq q.den q.num.natAbs (2 * j)
    rw [hinv, ← zpow_sub₀ two_ne_zero, hexp, div_eq_iff (by positivity)] at h
    exact_mod_cast h
  have hsq : (2 ^ 23 * 2 ^ 23 * unitsDen q.num.natAbs (2 * j) == 2 ^ 46 * unitsDen q.num.natAbs (2 * j)) = true :=
    beq_iff_eq.2 (by rw [← pow_add])
  simp only [rsqT, if_neg hpos.ne', if_neg hpos.not_gt, hlog, hj, ← unitsNum_double, ← unitsDen_double, hunits,
    Nat.mul_div_cancel _ (Nat.pos_of_ne_zero hden), isqrt_two_pow_46, hsq, if_true]

/-! ### vexp2 at integers and vlog2 at powers of two (06 R154) -/

theorem rat_ofInt (n : Int) : Claims.rat (.ofInt n) = n := by simp [Claims.rat, Q.ofInt]

theorem exp2T_int (nz : Bool) (b : BitVec 32) {n : Int} (h1 : -149 ≤ n) (h2 : n ≤ 127) :
    exp2T (.fin nz (.ofInt n)) b = ((convertSat (.fin false (.scaled 1 n)) 0 1 0).1, 0) := by
  have hfl : (Q.ofInt n).floor = n := Int.ediv_one n
  have heq : (Q.ofInt n).eq (.ofInt n) = true := (eq_iff_rat one_ne_zero one_ne_zero).2 rfl
  have hn : ¬ n ≥ 128 := by omega
  simp only [exp2T, hfl, if_neg hn, heq, Bool.true_and, decide_eq_true h1, if_true, pow2Bits]

theorem log2T_pow2 (nz : Bool) (b : BitVec 32) (k : Int) :
    log2T (.fin nz (.scaled 1 k)) b = ((convertSat (XV.ofInt k) 0 0 0).1, 0) := by
  have hpos := scaled_one_num_pos k
  have ha : (Q.scaled 1 k).num.natAbs ≠ 0 := by omega
  have hlog := floorLog2_two_zpow ha (scaled_den_ne 1 k) (scaled_natAbs_div k)
  have heq : (Q.scaled 1 k).eq (.scaled 1 k) = true := (eq_iff_rat (scaled_den_ne 1 k) (scaled_den_ne 1 k)).2 rfl
  simp only [log2T, if_neg hpos.ne', if_neg hpos.not_gt, hlog, heq, if_true]

/-- An integer below 2^8 in magnitude is exact in f32. -/
theorem convertSat_f32_int {n : Int} (h : |n| < 256) :
    ∃ p, valueOf 0 (convertSat (XV.ofInt n) 0 0 0).1 = .fin (decide (n < 0)) p ∧ p.den ≠ 0 ∧ Claims.rat p = n := by
  by_cases h0 : n = 0
  · subst h0
    exact ⟨.scaled 0 (-149), rfl, scaled_den_ne _ _, by rw [rat_scaled, Int.cast_zero, zero_mul]⟩
  · have habs : |Claims.rat (.ofInt n)| = (|n| : ℤ) * 2 ^ (0 : ℤ) := by rw [rat_ofInt]; simp
    have hb := floorLog2_bounds (d := 1) (Int.natAbs_ne_zero.2 h0) one_ne_zero
    rw [← show |Claims.rat (.ofInt n)| = (n.natAbs : ℚ) / (1 : Nat) from rat_abs_natAbs (.ofInt n)] at hb
    have hlt : |Claims.rat (.ofInt n)| < 2 ^ (8 : ℤ) := by
      rw [rat_ofInt]
      exact_mod_cast h
    have he := (zpow_lt_zpow_iff_right₀ (one_lt_two (α := ℚ))).1 (hb.1.trans_lt hlt)
    obtain ⟨⟨p, hv, hp, hrat⟩, -⟩ := convertSat_f32_exact (nz := false) (q := .ofInt n) (mode := 0) (r := 0) one_ne_zero (by omega)
      (by omega) hb.1 hb.2 habs (by omega) (hlt.le.trans (zpow_le_zpow_right₀ one_le_two (by omega)))
    exact ⟨p, hv, hp, hrat.trans (rat_ofInt n)⟩

/-! ### The special inputs (06 R154) -/

theorem specialNaN : ∀ g ∈ ([rsqT, exp2T, log2T, tanhT] : List (XV → BitVec 32 → Nat × Flags)), ∀ (neg : Bool) (b : BitVec 32),
    g (.nan neg) b = (canonNaN 0 neg, 1) :=
  List.forall_iff_forall_mem.1 ⟨fun _ _ => rfl, fun _ _ => rfl, fun _ _ => rfl, fun _ _ => rfl⟩

section
variable {nz : Bool} {q : Q} (b : BitVec 32)

theorem zero_inputs (h : q.num = 0) : rsqT (.fin nz q) b = (infBits 0 nz, 0) ∧ log2T (.fin nz q) b = (infBits 0 true, 0) ∧
    tanhT (.fin nz q) b = (if nz then 0x80000000 else 0, 0) :=
  ⟨if_pos h, if_pos h, by simp only [tanhT, XV.isNeg, if_pos h]⟩

theorem negative_inputs (h : q.num < 0) : rsqT (.fin nz q) b = (canonNaN 0 false, 1) ∧ log2T (.fin nz q) b = (canonNaN 0 false, 1) :=
  ⟨by simp only [rsqT, if_neg h.ne, if_pos h]; rfl, by simp only [log2T, if_neg h.ne, if_pos h]; rfl⟩

theorem exp2T_over (h : 128 ≤ q.floor) : exp2T (.fin nz q) b = (infBits 0 false, 2) := if_pos h

theorem exp2T_under (h : q.floor < -126) (hne : q.eq (.ofInt q.floor) = false) : (exp2T (.fin nz q) b).2 = 4 := by
  have hn : ¬ q.floor ≥ 128 := by omega
  simp only [exp2T, if_neg hn, hne, Bool.false_and, if_pos h]
  rfl

/-- From |x| = 9.011 on the result is one of the two greatest values up to 1, with the sign of x. -/
theorem tanhT_large (hn : q.num ≠ 0) (h : 9011 * (q.den : ℤ) ≤ 1000 * q.num.natAbs) : (tanhT (.fin nz q) b).2 = 0 ∧
    ((tanhT (.fin nz q) b).1 = (if q.num < 0 then 0x80000000 else 0) + 0x3F7FFFFF ∨
      (tanhT (.fin nz q) b).1 = (if q.num < 0 then 0x80000000 else 0) + 0x3F800000) := by
  have hle : Q.le ⟨9011, 1000⟩ q.abs = true := decide_eq_true (by simp only [Q.abs]; omega)
  have hc : Config.vtanh b % 2 = 0 ∨ Config.vtanh b % 2 = 1 := by omega
  simp only [tanhT, XV.isNeg, if_neg hn, hle, if_true, decide_eq_true_iff, true_and]
  rcases hc with hc | hc <;> rw [hc]
  · exact .inl rfl
  · exact .inr rfl

end

theorem transcendentalCases : Claims.TranscendentalCases := by
  refine ⟨fun neg => ⟨rfl, rfl⟩, fun nz q hd => ⟨fun h => if_pos h, fun h => ⟨_, recip_den_ne h, recip_mul q, rcpT_fin h⟩⟩,
    fun nz n k hn => ⟨fun h1 h2 => ?rcp, fun h1 h2 => ?rcpOver⟩, specialNaN,
    fun b nz q hd => ⟨zero_inputs b, negative_inputs b, exp2T_over b, exp2T_under b, fun h => ?large, fun h => ?small⟩,
    fun b => ⟨rfl, rfl, rfl, rfl, rfl, rfl, rfl, rfl⟩, fun b nz k h1 h2 => ?rsq, fun b nz n h1 h2 => ?exp2, fun b nz k h1 h2 => ?log2⟩
  case rcp =>
    obtain ⟨hne, hrat, habs⟩ := rat_recip_scaled k hn
    obtain ⟨⟨p, hv, hp, hval⟩, hfl⟩ := convertSat_f32_pow2 (nz := false) (mode := 0) (r := 0) (recip_den_ne hne) (by omega) (by omega) habs
      (by omega) (by omega)
    rw [rcpT_fin hne]
    exact ⟨_, p, hv, eq_scaled_of_rat hp (hval.trans hrat), hfl⟩
  case rcpOver =>
    obtain ⟨hne, hrat, habs⟩ := rat_recip_scaled k hn
    have hpos : (0 : ℚ) < 2 ^ (-k) := by positivity
    have hneg : ((Q.ofInt 1).div (.scaled n k)).num < 0 ↔ n < 0 := by
      rw [num_neg_iff (recip_den_ne hne), hrat, ← Int.cast_lt_zero (R := ℚ)]
      exact ⟨fun h => lt_of_not_ge fun h0 => (mul_nonneg h0 hpos.le).not_gt h, fun h => mul_neg_of_neg_of_pos h hpos⟩
    rw [rcpT_fin hne, convertSat_f32_over (recip_den_ne hne) habs (by omega), decide_eq_decide.2 hneg]
  case large =>
    have hpos : 0 < q.num := by omega
    have := tanhT_large (nz := nz) b hpos.ne' (by omega)
    simpa only [if_neg hpos.not_gt] using this
  case small =>
    have hneg : q.num < 0 := by omega
    have := tanhT_large (nz := nz) b hneg.ne (by omega)
    simpa only [if_pos hneg] using this
  case rsq =>
    have hrat : Claims.rat (.scaled (2 ^ 23 : Nat) (-k - 23)) = 2 ^ (-k) := by
      have hexp : -k = 23 + (-k - 23) := by ring
      rw [rat_scaled]
      conv_rhs => rw [hexp, zpow_add₀ two_ne_zero]
      norm_num
    obtain ⟨⟨p, hv, hp, hval⟩, -⟩ := convertSat_f32_pow2 (nz := false) (mode := 1) (r := 0) (scaled_den_ne (2 ^ 23 : Nat) (-k - 23))
      (by omega) (by omega) (by rw [hrat, abs_of_pos (by positivity)]) (by omega) (by omega)
    rw [rsqT_square, rsqT_square]
    exact ⟨_, p, rfl, hv, eq_scaled_of_rat hp (by rw [hval, hrat, Int.cast_one, one_mul])⟩
  case exp2 =>
    have hrat : Claims.rat (.scaled 1 n) = 2 ^ n := by rw [rat_scaled, Int.cast_one, one_mul]
    obtain ⟨⟨p, hv, hp, hval⟩, -⟩ := convertSat_f32_pow2 (nz := false) (mode := 1) (r := 0) (scaled_den_ne 1 n) (by omega) (by omega)
      (by rw [hrat, abs_of_pos (by positivity)]) h1 h2
    rw [exp2T_int nz b h1 h2]
    exact ⟨_, p, hv, eq_scaled_of_rat hp (hval.trans (rat_scaled 1 n)), rfl⟩
  case log2 =>
    obtain ⟨p, hv, hp, hval⟩ := convertSat_f32_int (n := k) (abs_lt.2 ⟨by omega, by omega⟩)
    rw [log2T_pow2]
    refine ⟨_, p, hv, (eq_iff_rat hp one_ne_zero).2 (hval.trans (rat_ofInt k).symm), rfl, fun h0 => ?_⟩
    subst h0
    rfl

/-- Settles O19, part by part. -/
theorem vectorArithmetic : Obligations.VectorArithmetic :=
  ⟨vectorTwoSource, vectorAbsNeg, vectorFusedTranscendental, transcendentalCases⟩

end Sys2Proof.Machine
end

section
/-! SUPPORT. The accumulator rows and the optimiser steps (O24). -/
namespace Sys2Proof.Machine

/-! ### What a vector source leaves of the bundle's context -/

theorem spadRead_slot {offs : List Int} {fe : Nat} {info : Word} {s t : State} {bs : List Byte}
    (h : spadRead offs fe info s = .ok (bs, t)) : t.ctx.slot = s.ctx.slot := by
  obtain ⟨_, -, h⟩ := bind_eq_ok.1 h
  obtain ⟨_, -, h⟩ := bind_eq_ok.1 h
  obtain ⟨_, -, h⟩ := bind_eq_ok.1 h
  cases h
  split <;> rfl

theorem popPort_slot {k : Nat} {s t : State} {v : Vec} (h : popPort k s = .ok (v, t)) : t.ctx.slot = s.ctx.slot := by
  obtain ⟨_, -, h⟩ := bind_eq_ok.1 h
  obtain ⟨⟨_, u⟩, hu, h⟩ := bind_eq_ok.1 h
  cases h
  exact (spadRead_slot hu : u.ctx.slot = s.ctx.slot)

theorem popQueue_slot {n : Nat} {s t : State} {v : Vec} (h : popQueue n s = .ok (v, t)) : t.ctx.slot = s.ctx.slot := by
  unfold popQueue at h
  dsimp only at h
  split at h
  · cases h
  · obtain ⟨_, -, h⟩ := bind_eq_ok.1 h
    split at h
    · obtain ⟨_, -, h⟩ := bind_eq_ok.1 h
      cases h
      rfl
    · cases h

theorem popSel_slot {sel : BitVec 6} {s t : State} {v : Vec} (h : popSel sel s = .ok (v, t)) : t.ctx.slot = s.ctx.slot := by
  unfold popSel at h
  split at h
  next =>
    cases h
    rfl
  next =>
    dsimp only at h
    split at h
    · obtain ⟨⟨_, u⟩, hu, h⟩ := bind_eq_ok.1 h
      cases h
      exact (popPort_slot hu : u.ctx.slot = s.ctx.slot)
    · obtain ⟨⟨_, u⟩, hu, h⟩ := bind_eq_ok.1 h
      cases h
      exact (popQueue_slot hu : u.ctx.slot = s.ctx.slot)

/-- A vector source leaves which slot is in execution. -/
theorem srcVec_slot {sel : BitVec 6} {ty : Nat} {s t : State} {v : Vec} (h : srcVec sel ty s = .ok (v, t)) : t.ctx.slot = s.ctx.slot := by
  unfold srcVec at h
  split at h
  · obtain ⟨_, -, h⟩ := bind_eq_ok.1 h
    cases h
    rfl
  · exact popSel_slot h

/-! ### Row operations (06 R167-R169) -/

section
variable {f : VF} {s s1 : State} {a : Vec}

/-- A row operation on a bank that is not lent. -/
theorem rowOp_owned {bk : Nat} (op : EOp) (h : (bankOf s.core bk).lent = false) :
    rowOp bk op s = .ok (enqueueM false op (mapCore (setBank bk { bankOf s.core bk with live := true }) s)) := by
  simp only [rowOp, h, Bool.not_false, need_true, ok_bind]

/-- A row operation on a lent bank raises the ownership fault. -/
theorem rowOp_lent {bk : Nat} (op : EOp) (h : (bankOf s.core bk).lent = true) :
    rowOp bk op s = .error (.trap ⟨0x07, BitVec.ofNat 64 bk, some s.ctx.slot⟩) := by
  simp only [rowOp, h, Bool.not_true, need_false]
  rfl

/-- The checks of an instruction with one vector source and an accumulator row find nothing where its source reads. -/
theorem vecChecks_row (hd : 0x80 ≤ f.vd) (ha : srcVec f.va f.ty.toNat s = .ok (a, s1)) : vecChecks f.ty.toNat [f.va] f.vd s = [none] := by
  have hv : ¬ f.vd < 0x14 := fun h => BitVec.not_lt.2 hd (BitVec.lt_trans h (by decide))
  simp only [vecChecks, List.map_cons, List.map_nil, ha, stopOf_ok, decide_eq_false hv, Bool.and_false]
  rfl

theorem issue_gather_trap {m : Res State} {code : Nat} {info : Word} (h : m = .error (.trap ⟨code, info, some s.ctx.slot⟩)) :
    issue s (gather m [none]) = .next (Claims.trapped code info s) := by
  rw [h, gather_error _ (by simp)]
  rfl

theorem vacc_owned {wide : Bool} (ha : srcVec f.va f.ty.toNat s = .ok (a, s1))
    (h : (bankOf s1.core (rowBank f)).lent = false) : issue s (vaccOp wide f s) = .next (enqueueM false
      (.rowAdd (rowBank f) (bankOf s1.core (rowBank f)).block (rowNum f)
        (if wide then elemsOf f.ty.toNat a else (elemsOf f.ty.toNat a).take 16))
      (mapCore (setBank (rowBank f) { bankOf s1.core (rowBank f) with live := true }) s1)) := by
  simp only [vaccOp, ha, ok_bind, rowOp_owned _ h, gather_ok_eq, issue_ok]

theorem vacc_lent {wide : Bool} (hd : 0x80 ≤ f.vd) (ha : srcVec f.va f.ty.toNat s = .ok (a, s1))
    (h : (bankOf s1.core (rowBank f)).lent = true) :
    issue s (vaccOp wide f s) = .next (Claims.trapped 0x07 (BitVec.ofNat 64 (rowBank f)) s) := by
  rw [vaccOp, vecChecks_row hd ha]
  exact issue_gather_trap (by simp only [ha, ok_bind, rowOp_lent _ h, srcVec_slot ha])

/-- A `vmov` to a row after its form has been found legal. -/
theorem vmovOp_row (hd : 0x80 ≤ f.vd) (ha : srcVec f.va f.ty.toNat s = .ok (a, s1)) :
    vmovOp f s = gather (do
      needLegal s (f.ty == (if (bankOf s.core (rowBank f)).block then 7 else 0))
      rowOp (rowBank f) (.rowMov (rowBank f) (bankOf s.core (rowBank f)).block (rowNum f) a) s1) [none] := by
  rw [vmovOp, if_neg (BitVec.not_lt.2 hd), vecChecks_row hd ha, ha]
  rfl

theorem vmov_owned (hd : 0x80 ≤ f.vd) (ha : srcVec f.va f.ty.toNat s = .ok (a, s1)) (h : (bankOf s1.core (rowBank f)).lent = false)
    (hty : f.ty = (if (bankOf s.core (rowBank f)).block then 7 else 0)) : issue s (vmovOp f s) = .next (enqueueM false
      (.rowMov (rowBank f) (bankOf s.core (rowBank f)).block (rowNum f) a)
      (mapCore (setBank (rowBank f) { bankOf s1.core (rowBank f) with live := true }) s1)) := by
  rw [vmovOp_row hd ha, rowOp_owned _ h, beq_iff_eq.2 hty]
  rfl

theorem vmov_lent (hd : 0x80 ≤ f.vd) (ha : srcVec f.va f.ty.toNat s = .ok (a, s1)) (h : (bankOf s1.core (rowBank f)).lent = true)
    (hty : f.ty = (if (bankOf s.core (rowBank f)).block then 7 else 0)) :
    issue s (vmovOp f s) = .next (Claims.trapped 0x07 (BitVec.ofNat 64 (rowBank f)) s) := by
  rw [vmovOp_row hd ha]
  exact issue_gather_trap (by rw [beq_iff_eq.2 hty, rowOp_lent _ h, srcVec_slot ha]; rfl)

theorem vmov_illegal (hd : 0x80 ≤ f.vd) (ha : srcVec f.va f.ty.toNat s = .ok (a, s1))
    (hty : f.ty ≠ (if (bankOf s.core (rowBank f)).block then 7 else 0)) :
    issue s (vmovOp f s) = .next (Claims.trapped 0x01 s.ctx.syl s) := by
  rw [vmovOp_row hd ha]
  exact issue_gather_trap (by rw [beq_eq_false_iff_ne.2 hty]; rfl)

theorem vbfpn_owned (hb : (bankOf s.core (rowBank f)).block = true) (h : (bankOf s.core (rowBank f)).lent = false) :
    issue s (vbfpnOp f s) = .next (enqueueM false (.rowNorm (rowBank f) (rowNum f))
      (mapCore (setBank (rowBank f) { bankOf s.core (rowBank f) with live := true }) s)) := by
  rw [vbfpnOp, hb, rowOp_owned _ h]
  rfl

theorem vbfpn_lent (hb : (bankOf s.core (rowBank f)).block = true) (h : (bankOf s.core (rowBank f)).lent = true) :
    issue s (vbfpnOp f s) = .next (Claims.trapped 0x07 (BitVec.ofNat 64 (rowBank f)) s) := by
  rw [vbfpnOp, hb, rowOp_lent _ h]
  rfl

theorem vbfpn_illegal (hb : (bankOf s.core (rowBank f)).block = false) :
    issue s (vbfpnOp f s) = .next (Claims.trapped 0x01 s.ctx.syl s) := by
  rw [vbfpnOp, hb]
  rfl

theorem vzero_owned (hd : 0x80 ≤ f.vd) (h : (bankOf s.core (rowBank f)).lent = false) :
    issue s (vzeroOp f s) = .next (enqueueM false (.rowZero (rowBank f) (bankOf s.core (rowBank f)).block (rowNum f))
      (mapCore (setBank (rowBank f) { bankOf s.core (rowBank f) with live := true }) s)) := by
  rw [vzeroOp, if_neg (BitVec.not_lt.2 hd), rowOp_owned _ h, issue_ok]

theorem vzero_lent (hd : 0x80 ≤ f.vd) (h : (bankOf s.core (rowBank f)).lent = true) :
    issue s (vzeroOp f s) = .next (Claims.trapped 0x07 (BitVec.ofNat 64 (rowBank f)) s) := by
  rw [vzeroOp, if_neg (BitVec.not_lt.2 hd), rowOp_lent _ h]
  rfl

end

theorem accumulatorRows : Claims.AccumulatorRows :=
  ⟨fun _ _ _ _ hd ha => ⟨fun h => ⟨vacc_owned (wide := false) ha h, vacc_owned (wide := true) ha h, vmov_owned hd ha h⟩,
      fun h => ⟨vacc_lent hd ha h, vacc_lent hd ha h, vmov_lent hd ha h⟩, vmov_illegal hd ha⟩,
    fun _ _ => ⟨vbfpn_illegal, fun h => ⟨fun hb => vbfpn_lent hb h, fun hd => vzero_lent hd h⟩⟩,
    fun _ _ => vbfpn_owned, fun _ _ => vzero_owned⟩

/-! ### The optimiser steps (06 R170, R171) -/

theorem canonNaN_f32_lt (n : Bool) : canonNaN 0 n < 2 ^ 32 := by cases n <;> decide

theorem infBits_f32_lt (n : Bool) : infBits 0 n < 2 ^ 32 := by cases n <;> decide

theorem ite_sign_lt (p : Prop) [Decidable p] : (if p then 0x80000000 else 0) < 2 ^ 32 := by split <;> decide

theorem step32_lt (ins : List XV) (e : XV × Flags) : (step32 ins e).1 < 2 ^ 32 := by
  unfold step32
  split
  · exact canonNaN_f32_lt _
  · exact convertSat_lt (ty := 0) (by omega) ..

theorem adamLane_lt (out : Nat) (b1 b2 eta eps g m v : XV) : (adamLane out b1 b2 eta eps g m v).1 < 2 ^ 32 := by
  unfold adamLane
  dsimp only
  split
  · exact canonNaN_f32_lt _
  split
  · exact step32_lt ..
  split
  · exact step32_lt ..
  split
  · exact canonNaN_f32_lt _
  split
  · exact canonNaN_f32_lt _
  split
  · exact infBits_f32_lt _
  split
  · exact canonNaN_f32_lt _
  · exact canonNaN_f32_lt _
  · exact canonNaN_f32_lt _
  · exact infBits_f32_lt _
  · exact ite_sign_lt _
  · exact convertSat_lt (ty := 0) (by omega) ..

theorem sgdmLane_lt (out : Nat) (mu eta g u w : XV) : (sgdmLane out mu eta g u w).1 < 2 ^ 32 := by
  unfold sgdmLane
  dsimp only
  split
  · exact step32_lt ..
  · exact step32_lt ..

/-- The halves of a register (06 R170). -/
theorem halfF32_low (w : Word) : halfF32 w false = valueOf 0 (w.extractLsb' 0 32 : BitVec 32).toNat := by
  simp [halfF32, bits, BitVec.extractLsb'_toNat]

theorem halfF32_high (w : Word) : halfF32 w true = valueOf 0 (w.extractLsb' 32 32 : BitVec 32).toNat := by
  simp [halfF32, bits, BitVec.extractLsb'_toNat, Nat.shiftRight_eq_div_pow]

theorem optimiserSteps : Claims.OptimiserSteps := by
  refine ⟨fun f s s1 s2 s3 g m v x y hg hm hv hx hy hr => ?adam, fun f s s1 s2 s3 g u w x hg hu hw hx hr => ?sgdm⟩
  case adam =>
    refine pushesLanes_of_gather (m := _) (cs := _) rfl ?_ hr fun _ => adamLane_lt ..
    simp only [hg, hm, hv, hx, hy, ok_bind, zip3_lanesOf, halfF32_low, halfF32_high]
  case sgdm =>
    refine pushesLanes_of_gather (m := _) (cs := _) rfl ?_ hr fun _ => sgdmLane_lt ..
    simp only [hg, hu, hw, hx, ok_bind, zip3_lanesOf, halfF32_low, halfF32_high]

/-- Settles O24. -/
theorem accumulatorRowsAndOptimiser : Obligations.AccumulatorRowsAndOptimiser := ⟨accumulatorRows, optimiserSteps⟩

end Sys2Proof.Machine
end

section
/-! SUPPORT. Tile stores (O37): the bytes that a store's blocks hold, their pieces, and what `gst` and `gstr` answer. -/
namespace Sys2Proof.Machine

/-! ### The bytes of a store's blocks -/

/-- A byte of a vector in which one byte is written anew. -/
theorem vecByte_set (d : Vec) (v : Nat) {o i : Nat} (ho : o < 64) (hi : i < 64) :
    vecByte ((d &&& ~~~(BitVec.ofNat 512 (255 * 2 ^ (8 * o)))) ||| BitVec.ofNat 512 (v % 256 * 2 ^ (8 * o))) i =
      if i = o then BitVec.ofNat 8 v else vecByte d i := by
  have h255 (k : Nat) : Nat.testBit 255 k = decide (k < 8) := Nat.testBit_two_pow_sub_one 8 k
  have hmod (k : Nat) : (v % 256).testBit k = (decide (k < 8) && v.testBit k) := Nat.testBit_mod_two_pow v 8 k
  refine BitVec.eq_of_getLsbD_eq fun j hj => ?_
  have hw : 8 * i + j < 512 := by omega
  simp only [vecByte, BitVec.getLsbD_extractLsb', BitVec.getLsbD_or, BitVec.getLsbD_and, BitVec.getLsbD_not, BitVec.getLsbD_ofNat,
    Nat.testBit_mul_two_pow, h255, hmod, hw, hj, decide_true, Bool.true_and]
  by_cases hio : i = o
  · subst hio
    simp only [Nat.add_sub_cancel_left, Nat.le_add_right, hj, decide_true, Bool.true_and, Bool.not_true, Bool.and_false, Bool.false_or,
      if_true, BitVec.getLsbD_ofNat]
  · have hout : (decide (8 * o ≤ 8 * i + j) && decide (8 * i + j - 8 * o < 8)) = false := by
      rw [Bool.and_eq_false_iff, decide_eq_false_iff_not, decide_eq_false_iff_not]
      omega
    simp only [← Bool.and_assoc, hout, Bool.not_false, Bool.and_true, Bool.false_and, Bool.or_false, if_neg hio, BitVec.getLsbD_extractLsb', hj,
      decide_true, Bool.true_and]

theorem mask_set (m : BitVec 64) {o i : Nat} (hi : i < 64) :
    (m ||| BitVec.ofNat 64 (2 ^ o)).getLsbD i = (m.getLsbD i || decide (o = i)) := by
  simp only [BitVec.getLsbD_or, BitVec.getLsbD_ofNat, Nat.testBit_two_pow, hi, decide_true, Bool.true_and]

theorem blockByte_cons (b : Blk) (bs : List Blk) (a : Nat) : Claims.blockByte (b :: bs) a =
    if b.va = a / 64 * 64 then (if b.mask.getLsbD (a % 64) then some (vecByte b.data (a % 64)) else none) else Claims.blockByte bs a := by
  unfold Claims.blockByte
  by_cases h : b.va = a / 64 * 64
  · rw [if_pos h, List.find?_cons_of_pos (p := fun b : Blk => b.va == a / 64 * 64) (beq_iff_eq.2 h), Option.bind_some]
  · rw [if_neg h, List.find?_cons_of_neg (p := fun b : Blk => b.va == a / 64 * 64) (mt beq_iff_eq.1 h)]

/-- A byte written into its block. -/
theorem blockByte_written {va : Nat} {b : Blk} (hb : b.va = va / 64 * 64) (t : List Blk) (v a : Nat) :
    Claims.blockByte ({ b with
        data := (b.data &&& ~~~(BitVec.ofNat 512 (255 * 2 ^ (8 * (va % 64))))) ||| BitVec.ofNat 512 (v % 256 * 2 ^ (8 * (va % 64)))
        mask := b.mask ||| BitVec.ofNat 64 (2 ^ (va % 64)) } :: t) a =
      if a = va then some (BitVec.ofNat 8 v) else Claims.blockByte (b :: t) a := by
  have hmod (n : Nat) : n % 64 < 64 := Nat.mod_lt n (by decide)
  rw [blockByte_cons, blockByte_cons, vecByte_set _ _ (hmod va) (hmod a), mask_set _ (hmod a)]
  by_cases hblk : b.va = a / 64 * 64
  · rw [if_pos hblk, if_pos hblk]
    by_cases ha : a = va
    · subst ha
      simp
    · have hoff : a % 64 ≠ va % 64 := by omega
      simp [ha, hoff, hoff.symm]
  · have ha : a ≠ va := fun h => hblk (h ▸ hb)
    rw [if_neg hblk, if_neg hblk, if_neg ha]

/-- The byte that a write to blocks leaves at each address. -/
theorem blockByte_putByte (va v a : Nat) : ∀ bs : List Blk,
    Claims.blockByte (putByte va v bs) a = if a = va then some (BitVec.ofNat 8 v) else Claims.blockByte bs a
  | [] => by
    have hempty : Claims.blockByte [⟨va / 64 * 64, 0, 0⟩] a = Claims.blockByte [] a := by
      have hmask : (0 : BitVec 64).getLsbD (a % 64) = false := BitVec.getLsbD_zero
      rw [blockByte_cons]
      simp only [hmask, Bool.false_eq_true, if_false]
      exact ite_self _
    have h := blockByte_written (b := ⟨va / 64 * 64, 0, 0⟩) rfl [] v a
    rw [hempty] at h
    rw [← h, putByte]
    dsimp only
    rw [show (0 : Vec) = 0#512 from rfl, show (0 : BitVec 64) = 0#64 from rfl, BitVec.zero_and, BitVec.zero_or, BitVec.zero_or]
  | b :: t => by
    unfold putByte
    split
    next hb => exact blockByte_written hb t v a
    next hb =>
      rw [blockByte_cons, blockByte_cons, blockByte_putByte va v a t]
      by_cases ha : a = va
      · subst ha
        rw [if_neg hb, if_pos rfl, if_pos rfl]
      · rw [if_neg ha, if_neg ha]

/-- The bytes of a list, written one after the other. -/
def putAll (l : List (Nat × Nat)) (bs : List Blk) : List Blk := l.foldl (fun bs e => putByte e.1 e.2 bs) bs

theorem lastByte_cons (e : Nat × Nat) (l : List (Nat × Nat)) (a : Nat) :
    Claims.lastByte (e :: l) a = (Claims.lastByte l a).or (if a = e.1 then some (BitVec.ofNat 8 e.2) else none) := by
  unfold Claims.lastByte
  rw [List.reverse_cons, List.find?_append, Option.map_or]
  congr 1
  by_cases h : a = e.1
  · subst h
    simp
  · simp [h, Ne.symm h]

theorem blockByte_putAll (a : Nat) : ∀ (l : List (Nat × Nat)) (bs : List Blk),
    Claims.blockByte (putAll l bs) a = (Claims.lastByte l a).or (Claims.blockByte bs a)
  | [], _ => rfl
  | e :: l, bs => by
    rw [show putAll (e :: l) bs = putAll l (putByte e.1 e.2 bs) from rfl, blockByte_putAll a l, blockByte_putByte, lastByte_cons, Option.or_assoc]
    split <;> rfl

/-- Bytes written into no block yet. -/
theorem blockByte_putAll_nil (l : List (Nat × Nat)) (a : Nat) : Claims.blockByte (putAll l []) a = Claims.lastByte l a := by
  rw [blockByte_putAll]
  exact Option.or_none

theorem putNum_eq (va n v : Nat) (bs : List Blk) : putNum va n v bs = putAll ((List.range n).map fun k => (va + k, v / 2 ^ (8 * k))) bs :=
  (List.foldl_map (f := fun k => (va + k, v / 2 ^ (8 * k))) (g := fun bs e => putByte e.1 e.2 bs)).symm

theorem elemBlocks_eq (t : TileArgs) (ty : Nat) (ps : List (Nat × Nat)) (cs : List Nat) : elemBlocks t ty ps cs =
    putAll ((ps.zip cs).flatMap fun x => if inTensor t.h x.1 then
      (List.range (elemBytes ty)).map fun k => (codeVa t.h ty x.1 + k, x.2 / 2 ^ (8 * k)) else []) [] := by
  unfold putAll
  rw [List.foldl_flatMap]
  unfold elemBlocks
  congr 1
  funext bs x
  cases h : inTensor t.h x.1
  · simp [h]
  · simp [h, putNum_eq, putAll]

theorem mxBlocks_eq (t : TileArgs) (rows : List (Nat × List Nat)) : mxBlocks t rows =
    putAll (((List.range rows.length).zip rows).flatMap fun x => if inTensor t.h (t.r0 + x.1, t.c0) then
      (List.range 16).map (fun i => (codeVa t.h 4 (t.r0 + x.1, t.c0) + i, x.2.2.getD (2 * i) 0 + 16 * x.2.2.getD (2 * i + 1) 0)) ++
        [(scaleVa t.h (t.r0 + x.1, t.c0), x.2.1)] else []) [] := by
  unfold putAll
  rw [List.foldl_flatMap]
  unfold mxBlocks
  congr 1
  funext bs x
  cases h : inTensor t.h (t.r0 + x.1, t.c0)
  · simp [h]
  · have hpacked (p : Nat → Nat) : (List.range 16).zip ((List.range 16).map p) = (List.range 16).map fun i => (i, p i) := List.zip_map_right ..
    simp [h, List.foldl_append, hpacked, List.foldl_map]

/-! ### Blocks in order -/

theorem sortBlks_put (b : Blk) : ∀ l : List Blk, sortBlks.put b l = l.orderedInsert (fun x y => x.va ≤ y.va) b
  | [] => rfl
  | c :: r => by
    rw [sortBlks.put, List.orderedInsert_cons, sortBlks_put b r]

theorem sortBlks_eq : ∀ l : List Blk, sortBlks l = l.insertionSort (fun x y => x.va ≤ y.va)
  | [] => rfl
  | b :: t => by rw [sortBlks, sortBlks_put, sortBlks_eq t]; rfl

theorem sortBlks_perm (bs : List Blk) : (sortBlks bs).Perm bs := sortBlks_eq bs ▸ List.perm_insertionSort _ bs

theorem sortBlks_rising (bs : List Blk) : (sortBlks bs).Pairwise fun x y => x.va ≤ y.va := by
  have : Std.Total fun x y : Blk => x.va ≤ y.va := ⟨fun x y => Nat.le_total x.va y.va⟩
  have : IsTrans Blk fun x y => x.va ≤ y.va := ⟨fun _ _ _ => Nat.le_trans⟩
  exact sortBlks_eq bs ▸ List.pairwise_insertionSort _ bs

/-! ### The pieces of a store -/

theorem eq_nil_of_worstErr {es : List MemErr} (h : worstErr es = none) : es = [] := by
  induction es using List.reverseRecOn with
  | nil => rfl
  | append_singleton es e _ =>
    unfold worstErr at h
    rw [List.foldl_append, List.foldl_cons, List.foldl_nil] at h
    split at h
    · cases h
    · split at h
      · cases h
      · cases h

theorem blockPieces_reads (wm : Option Nat) : ∀ (bs : List Blk) (s : State), ReadsOnly s (blockPieces wm bs s).2
  | [], s => ReadsOnly.refl s
  | b :: t, s => by
    unfold blockPieces
    split
    · exact blockPieces_reads wm t s
    · rename_i he
      exact (coreXlate_reads he).trans (blockPieces_reads wm t _)

/-- Where every block translates, the pieces are those of the blocks. -/
theorem piecesOf_of_blockPieces (wm : Option Nat) : ∀ {bs : List Blk} {s t : State} {ps : List Held},
    blockPieces wm bs s = (([], ps), t) → Claims.piecesOf wm bs s ps t
  | [], s, t, ps, h => by
    cases h
    exact ⟨rfl, rfl⟩
  | b :: bs, s, t, ps, h => by
    unfold blockPieces at h
    split at h
    next => simp at h
    next pa imm s1 he =>
      simp only [Prod.mk.injEq] at h
      obtain ⟨⟨hes, rfl⟩, rfl⟩ := h
      exact ⟨pa, imm, s1, _, he, piecesOf_of_blockPieces wm (Prod.ext (Prod.ext hes rfl) rfl), rfl⟩

theorem memStop_ne_ok {α : Type} (s : State) (e : MemErr) (a : α) : memStop s e ≠ .ok a := by
  cases e <;> exact fun h => nomatch h

/-- What a tile store holds: the pieces of its blocks in rising order, and its counts. -/
theorem holdTile_result {t : TileArgs} {wm : Option Nat} {hist : Option (Nat × List Nat)} {bs : List Blk} {s u : State} :
    holdTile t wm hist bs s = .ok u → (∀ a, rdByte u a = rdByte s a) ∧ u.core.st = s.core.st ∧ u.core.held.length ≤ 128 ∧
      ∃ more s1, Claims.piecesOf wm (sortBlks bs) s more s1 ∧
        u.core.held = match hist with | none => s.core.held ++ more | some (pa, ks) => addHist pa ks (s.core.held ++ more) := by
  intro h
  have hr := blockPieces_reads wm (sortBlks bs) s
  unfold holdTile at h
  extract_lets l extra at h
  split at h
  next e ps s' hb =>
  rw [hb] at hr
  split at h
  next => exact absurd h (memStop_ne_ok _ _ _)
  next hw =>
    obtain ⟨-, rfl⟩ := List.append_eq_nil_iff.1 (eq_nil_of_worstErr hw)
    obtain ⟨_, hlen, h⟩ := bind_eq_ok.1 h
    cases h
    exact ⟨fun a => congrArg (SMap.get 0 · a) hr.mem, hr.st, of_decide_eq_true (need_eq_ok.1 hlen), ps, s', piecesOf_of_blockPieces wm hb, by
      rw [← hr.held]
      cases hist with
      | none => rfl
      | some x => rfl⟩

/-! ### gst and gstr (09 R221, R222) -/

section
variable {f : LS} {s s1 s2 s3 s4 : State} {t : TileArgs} {r : Option Rec} {en : Ent} {v : Vec} {rs : List Nat}

/-- The entry that a store encodes under: the record's current one, or the format of a tensor that is not governed. -/
def StoreEntry (t : TileArgs) (en : Ent) : Option Rec → Prop
  | none => en = ⟨0, 0, hFmt t.h⟩
  | some q => q.current = some en

/-- The counts of a governed store: the bins of the vector's elements inside the tensor. -/
def storeCounts (f : LS) (t : TileArgs) (en : Ent) (v : Vec) : List Nat :=
  ((elemsOf f.ty.toNat v).zip (carried t (vecElems f.ty.toNat))).filterMap fun x =>
    if inTensor t.h x.2 then some (binOf x.1 en.e en.f) else none

/-- The codes of a stored vector's elements, with the flags of their conversions. -/
def storeCodes (f : LS) (t : TileArgs) (en : Ent) (v : Vec) (rs : List Nat) : List (Nat × Flags) :=
  (((elemsOf f.ty.toNat v).map (XV.scale (-en.e))).zip (rs ++ List.replicate (vecElems f.ty.toNat) 0)).map
    fun x => convertSat x.1 en.f (hRnd t.h) x.2

/-- Block j of a stored vector under an mx4 entry. -/
def storeBlock (f : LS) (t : TileArgs) (en : Ent) (v : Vec) (rs : List Nat) (j : Nat) : Nat × List Nat × Flags :=
  if f.ty.toNat = 4 ∧ en.e = 0 then mxSame v j
  else mx4Encode ((((elemsOf f.ty.toNat v).map (XV.scale (-en.e))).drop (32 * j)).take 32) (hRnd t.h) ((rs.drop (32 * j)).take 32)

theorem gst_elems (ht : tileArgs f s = .ok t) (hl : tileLegal t.h t.blk = true) (hb : t.blk = false) (hr : Claims.tileRec t s s1 r)
    (hen : StoreEntry t en r) (hf : en.f ≠ 4) (hv : srcVec (f0Reg f) f.ty.toNat s1 = .ok (v, s2))
    (hd : draws (hRnd t.h) (vecElems f.ty.toNat) s2 = (rs, s3))
    (hh : holdTile t (r.map fun q => q.ver % 16) (r.map fun q => (q.pa, storeCounts f t en v))
      (elemBlocks t en.f (carried t (vecElems f.ty.toNat)) ((storeCodes f t en v rs).map (·.1))) s3 = .ok s4) :
    issue s (gstOp f s) = .next (mapCtx (fun k => { k with ends := k.ends ++ [.flags (unionFlags
      (((storeCodes f t en v rs).zip (carried t (vecElems f.ty.toNat))).map fun c => if inTensor t.h c.2 then c.1.2 else 0))] }) s4) := by
  have hf' : (en.f == 4) = false := beq_eq_false_iff_ne.2 hf
  refine congrArg (issue s) (?_ : gstOp f s = .ok _)
  rcases hr with ⟨hg, rfl, rfl⟩ | ⟨hg, q, rfl, hq⟩
  · subst hen
    simp only [gstOp, ht, hl, hg, ok_bind, needLegal_true, Bool.false_eq_true, if_false, hf', hv, hd]
    simp only [hb, ok_bind, needLegal_true, Bool.false_eq_true, if_false, BEq.rfl]
    exact gather_ok.2 (bind_eq_ok.2 ⟨s4, hh, rfl⟩)
  · have hen' : q.current = some en := hen
    simp only [gstOp, ht, hl, hg, ok_bind, needLegal_true, if_true, hf', hv, hd, hq, liftMem_ok_eq, hen', Option.getD_some]
    simp only [hb, ok_bind, needLegal_true, Bool.false_eq_true, if_false, BEq.rfl]
    exact gather_ok.2 (bind_eq_ok.2 ⟨s4, hh, rfl⟩)

theorem unionFlags_pair (x y : Flags) : unionFlags [x, y] = x ||| y := by
  rw [unionFlags_cons, unionFlags_cons]
  exact congrArg (x ||| ·) BitVec.or_zero

/-- The flags of two blocks whose rows may lie outside the tensor. -/
theorem unionFlags_rows {h : BitVec 256} {r0 c0 : Nat} (a b : Nat × List Nat × Flags) :
    unionFlags (([a, b].zip ((List.range 2).map fun j => inTensor h (r0 + j, c0))).map fun x => if x.2 then x.1.2.2 else 0) =
      (if inTensor h (r0, c0) then a.2.2 else 0) ||| (if inTensor h (r0 + 1, c0) then b.2.2 else 0) :=
  unionFlags_pair ..

theorem gst_blocks (ht : tileArgs f s = .ok t) (hl : tileLegal t.h t.blk = true) (hb : t.blk = true) (hr : Claims.tileRec t s s1 r)
    (hen : StoreEntry t en r) (hf : en.f = 4) (hv : srcVec (f0Reg f) f.ty.toNat s1 = .ok (v, s2))
    (hd : draws (hRnd t.h) (vecElems f.ty.toNat) s2 = (rs, s3))
    (hh : holdTile t (r.map fun q => q.ver % 16) (r.map fun q => (q.pa, storeCounts f t en v))
      (mxBlocks t [((storeBlock f t en v rs 0).1, (storeBlock f t en v rs 0).2.1), ((storeBlock f t en v rs 1).1, (storeBlock f t en v rs 1).2.1)])
      s3 = .ok s4) :
    issue s (gstOp f s) = .next (mapCtx (fun k => { k with ends := k.ends ++ [.flags
      ((if inTensor t.h (t.r0, t.c0) then (storeBlock f t en v rs 0).2.2 else 0) |||
        (if inTensor t.h (t.r0 + 1, t.c0) then (storeBlock f t en v rs 1).2.2 else 0))] }) s4) := by
  have hf' : (en.f == 4) = true := beq_iff_eq.2 hf
  refine congrArg (issue s) (?_ : gstOp f s = .ok _)
  rcases hr with ⟨hg, rfl, rfl⟩ | ⟨hg, q, rfl, hq⟩
  · subst hen
    simp only [gstOp, ht, hl, hg, ok_bind, needLegal_true, Bool.false_eq_true, if_false, hf', hv, hd]
    simp only [hb, ok_bind, needLegal_true, if_true, BEq.rfl, unionFlags_rows, List.map_cons, List.map_nil]
    simp only [storeBlock, storeCounts] at hh ⊢
    exact gather_ok.2 (bind_eq_ok.2 ⟨s4, hh, rfl⟩)
  · have hen' : q.current = some en := hen
    simp only [gstOp, ht, hl, hg, ok_bind, needLegal_true, if_true, hf', hv, hd, hq, liftMem_ok_eq, hen', Option.getD_some]
    simp only [hb, ok_bind, needLegal_true, if_true, BEq.rfl, unionFlags_rows, List.map_cons, List.map_nil]
    simp only [storeBlock, storeCounts] at hh ⊢
    exact gather_ok.2 (bind_eq_ok.2 ⟨s4, hh, rfl⟩)

/-- The blocks of a raw store. -/
def rawBlocks (t : TileArgs) (v : Vec) : List Blk :=
  if t.blk then mxBlocks t ((List.range 2).map fun b => (laneN v 8 (32 + b), (List.range 32).map fun i => laneN v 4 (32 * b + i)))
  else elemBlocks t (rawCarry t.h t.blk) (carried t (vecElems (rawCarry t.h t.blk)))
    ((List.range (vecElems (rawCarry t.h t.blk))).map (laneN v (8 * elemBytes (rawCarry t.h t.blk))))

theorem gstr_raw (ht : tileArgs f s = .ok t) (hl : tileLegal t.h t.blk = true) (hty : f.ty.toNat = (if hGov t.h then 15 else hFmt t.h))
    (hr : Claims.tileRec t s s1 r) (hcls : ∀ q, r = some q → ((q.current.map (·.f)).getD 2 == 4) = t.blk)
    (hv : srcVec (f0Reg f) (rawCarry t.h t.blk) s1 = .ok (v, s2))
    (hh : holdTile t (r.map fun q => q.ver % 16) none (rawBlocks t v) s2 = .ok s3) : issue s (gstrOp f s) = .next s3 := by
  have hraw : rawTyOk f t.h = true := beq_iff_eq.2 hty
  refine congrArg (issue s) (?_ : gstrOp f s = .ok _)
  rcases hr with ⟨hg, rfl, rfl⟩ | ⟨hg, q, rfl, hq⟩
  · simp only [gstrOp, ht, hl, hraw, hg, Bool.and_self, ok_bind, needLegal_true, Bool.false_eq_true, if_false, hv]
    exact gather_ok.2 hh
  · simp only [gstrOp, ht, hl, hraw, hg, Bool.and_self, ok_bind, needLegal_true, if_true, hv, hq, liftMem_ok_eq, hcls q rfl, BEq.rfl]
    exact gather_ok.2 hh

end

theorem tileStoreResults : Claims.TileStoreResults := by
  refine ⟨fun f s s1 s2 s3 s4 t r en v rs cs ht hl hb hr hen hf hv hd hcs hh => ?elems,
    fun f s s1 s2 s3 s4 t r en v rs a b ht hl hb hr hen hf hv hd ha hb' hh => ?blocks,
    fun f s s1 s2 s3 t r v ht hl hty hr hcls hv hh => gstr_raw ht hl hty hr hcls hv hh,
    fun va v a bs => blockByte_putByte va v a bs, fun t wm hist bs s u => holdTile_result,
    fun bs => ⟨sortBlks_perm bs, sortBlks_rising bs⟩, fun t ty ps cs a => by rw [elemBlocks_eq, blockByte_putAll_nil],
    fun t rows a => by rw [mxBlocks_eq, blockByte_putAll_nil]⟩
  case elems =>
    subst hcs
    exact gst_elems ht hl hb hr (by cases r <;> exact hen) hf hv hd hh
  case blocks =>
    have hty : f.ty = 4 ↔ f.ty.toNat = 4 := BitVec.toNat_inj.symm
    have ha' : a = storeBlock f t en v rs 0 := by rw [ha, storeBlock, if_congr (and_congr_left' hty) rfl rfl]; rfl
    have hb' : b = storeBlock f t en v rs 1 := by rw [hb', storeBlock, if_congr (and_congr_left' hty) rfl rfl]; rfl
    subst ha' hb'
    exact gst_blocks ht hl hb hr (by cases r <;> exact hen) hf hv hd hh

/-- Settles O37, part by part. -/
theorem tileStores : Obligations.TileStores := tileStoreResults

end Sys2Proof.Machine
end

section
/-! SUPPORT. A choice among the values of the f32 grid beside an exact result lies within its bound (O20). -/
namespace Sys2Proof.Machine

/-! ### Exact values as reals -/

/-- The real number that an exact value is. -/
noncomputable def realOf (q : Q) : ℝ := (q.num : ℝ) / q.den

theorem realOf_eq_rat (q : Q) : realOf q = (Claims.rat q : ℚ) := by simp [realOf, Claims.rat]

theorem realOf_scaled (n k : Int) : realOf (.scaled n k) = n * (2 : ℝ) ^ k := by
  rw [realOf_eq_rat, rat_scaled]
  push_cast
  rfl

theorem abs_rat_scaled (m k : Int) : |Claims.rat (.scaled m k)| = (|m| : ℤ) * (2 : ℚ) ^ k := by
  rw [rat_scaled, abs_mul, abs_of_pos (by positivity : (0 : ℚ) < 2 ^ k), Int.cast_abs]

/-! ### Truncation to f32 (05 R134, R137) -/

/-- The greatest whole number of units 2^k, of those up to 2^24, that f32 holds. -/
def topUnits (k : Int) : Int := if k = 104 then 2 ^ 24 - 1 else 2 ^ 24

/-- A number of units, cut to those that f32 holds. -/
def cutUnits (k m : Int) : Int := max (-topUnits k) (min (topUnits k) m)

theorem cutUnits_of_lt {k m : Int} (h : |m| < 2 ^ 24) : cutUnits k m = m := by
  rw [abs_lt] at h
  unfold cutUnits topUnits
  split <;> omega

theorem cutUnits_of_ge {k m : Int} (h : 2 ^ 24 ≤ |m|) : cutUnits k m = if m < 0 then -topUnits k else topUnits k := by
  unfold cutUnits topUnits
  rcases abs_cases m with ⟨h', -⟩ | ⟨h', -⟩ <;> rw [h'] at h <;> split <;> split <;> omega

/-- Under RTZ the units that fit are kept. -/
theorem keeps_truncated {x u : ℚ} {m : ℤ} (h : ⌊|x| / u⌋ = m) : Claims.keeps 1 0 x u m :=
  .inr ⟨h.symm, by simp [Claims.roundsUp]⟩

theorem convertSat_truncated_below {nz : Bool} {m k : Int} (hk : -149 ≤ k) (hk' : k ≤ 104) (hm : |m| < 2 ^ 24) :
    ∃ z p, valueOf 0 (convertSat (.fin nz (.scaled m k)) 0 1 0).1 = .fin z p ∧ Claims.rat p = m * (2 : ℚ) ^ k := by
  by_cases h0 : m = 0
  · subst h0
    have hz : (Q.scaled 0 k).num = 0 := by
      obtain ⟨c, -, hc⟩ := scaled_num 0 k
      rw [hc, zero_mul]
    have hc : (convertSat (.fin nz (.scaled 0 k)) 0 1 0).1 = FFmt.code ⟨24, -126, 8, 23, 127, 16777215, 104⟩ nz 0 0 := by
      simp only [convertSat, hz, if_true, ffmt, encodeGrid_zero]
    refine ⟨_, _, by rw [hc, valueOf_code laid_f32 (by decide) (by decide)], ?_⟩
    rw [rat_signed]
    cases nz <;> simp [FFmt.sig]
  · have habs := abs_rat_scaled m k
    have hne : Claims.rat (.scaled m k) ≠ 0 := by rw [← abs_pos, habs]; positivity
    have hn := num_ne_of_rat hne
    have hb := floorLog2_bounds (Int.natAbs_ne_zero.2 hn) (scaled_den_ne m k)
    rw [← rat_abs_natAbs] at hb
    have hlt : |Claims.rat (.scaled m k)| < (2 : ℚ) ^ (24 + k) := by
      rw [habs, zpow_add₀ two_ne_zero]
      gcongr
      exact_mod_cast hm
    have he := (zpow_lt_zpow_iff_right₀ (one_lt_two (α := ℚ))).1 (hb.1.trans_lt hlt)
    obtain ⟨j, hj⟩ : ∃ j : ℕ, k = max (floorLog2 (Q.scaled m k).num.natAbs (Q.scaled m k).den) (-126) - 24 + 1 + j :=
      ⟨(k - (max (floorLog2 (Q.scaled m k).num.natAbs (Q.scaled m k).den) (-126) - 24 + 1)).toNat, by omega⟩
    have hz : |Claims.rat (.scaled m k)| = ((|m| * 2 ^ j : ℤ) : ℚ) *
        2 ^ (max (floorLog2 (Q.scaled m k).num.natAbs (Q.scaled m k).den) (-126) - 24 + 1) := by
      rw [habs]
      conv_lhs => rw [hj, zpow_add₀ two_ne_zero, zpow_natCast]
      push_cast
      ring
    have hle : |Claims.rat (.scaled m k)| ≤ ((16777215 : ℤ) : ℚ) * 2 ^ (104 : ℤ) := by
      rw [habs]
      gcongr
      · exact Int.le_of_lt_add_one hm
      · exact one_le_two
    obtain ⟨⟨p, hv, -, hp⟩, -⟩ := convertSat_exact (nz := nz) (mode := 1) (r := 0) laid_f32 hn (scaled_den_ne m k) (by omega) (by omega)
      hb.1 hb.2 hz hle
    exact ⟨_, p, hv, hp.trans (rat_scaled m k)⟩

theorem convertSat_truncated_above {nz : Bool} {m k : Int} (hk : -149 ≤ k) (hk' : k ≤ 104) (hm : 2 ^ 24 ≤ |m|) (hm' : |m| ≤ 2 ^ 24 + 1) :
    ∃ z p, valueOf 0 (convertSat (.fin nz (.scaled m k)) 0 1 0).1 = .fin z p ∧
      Claims.rat p = ((if m < 0 then -topUnits k else topUnits k : ℤ) : ℚ) * 2 ^ k := by
  have habs := abs_rat_scaled m k
  have hunit : (0 : ℚ) < 2 ^ k := by positivity
  have hlow : ((2 ^ 24 : ℤ) : ℚ) ≤ (|m| : ℤ) := by exact_mod_cast hm
  have hhigh : ((|m| : ℤ) : ℚ) ≤ (2 ^ 24 + 1 : ℤ) := by exact_mod_cast hm'
  push_cast at hlow hhigh
  have h1 : (2 : ℚ) ^ (24 + k) ≤ |Claims.rat (.scaled m k)| := by
    rw [habs, zpow_add₀ two_ne_zero]
    refine mul_le_mul_of_nonneg_right ?_ hunit.le
    push_cast
    exact (by norm_num : (2 : ℚ) ^ (24 : ℤ) ≤ 16777216).trans hlow
  have h2 : |Claims.rat (.scaled m k)| < (2 : ℚ) ^ (24 + k + 1) := by
    rw [habs, add_right_comm, zpow_add₀ two_ne_zero]
    refine mul_lt_mul_of_pos_right ?_ hunit
    push_cast
    linarith
  have hn : (Q.scaled m k).num ≠ 0 := num_ne_of_rat (abs_pos.1 (lt_of_lt_of_le (by positivity) h1))
  have hneg : (Q.scaled m k).num < 0 ↔ m < 0 := by
    obtain ⟨c, hc, h⟩ := scaled_num m k
    rw [h]
    exact ⟨fun h => by_contra fun h0 => (mul_nonneg (not_lt.1 h0) hc.le).not_gt h, fun h => mul_neg_of_neg_of_pos h hc⟩
  have hexp : max (24 + k) (-126) - 24 + 1 = k + 1 := by omega
  have hfl : ⌊|Claims.rat (.scaled m k)| / 2 ^ (k + 1)⌋ = 2 ^ 23 := by
    rw [Int.floor_eq_iff, habs, zpow_add_one₀ two_ne_zero, mul_comm ((2 : ℚ) ^ k), mul_div_mul_right _ _ hunit.ne']
    push_cast
    constructor <;> linarith
  have hkeep := keeps_truncated hfl
  have htop : ((2 ^ 23 : ℤ) : ℚ) * 2 ^ (k + 1) = ((2 ^ 24 : ℤ) : ℚ) * 2 ^ k := by
    rw [zpow_add_one₀ two_ne_zero]
    push_cast
    ring
  by_cases h104 : k = 104
  · subst h104
    have hc := convertSat_of_keeps (nz := nz) (mode := 1) laid_f32 hn (scaled_den_ne m 104) (by omega) rfl h1 h2 rfl hkeep
    have hsign : decide ((Q.scaled m 104).num < 0) = decide (m < 0) := decide_eq_decide.2 hneg
    rw [if_pos (by norm_num), if_neg (by simp), hsign] at hc
    rw [hc]
    refine ⟨decide (m < 0), .scaled (if m < 0 then -16777215 else 16777215) 104, ?_, ?_⟩
    · by_cases h : m < 0
      · simp only [h, decide_true, if_true]
        rfl
      · simp only [h, decide_false, if_false]
        rfl
    · rw [rat_scaled]
      rfl
  · obtain ⟨p, hv, -, hp⟩ := convertSat_value (nz := nz) (mode := 1) (u := 2 ^ (k + 1)) laid_f32 hn (scaled_den_ne m k) (by omega) rfl h1 h2
      (by rw [← hexp]) hkeep (by
        rw [htop]
        calc ((2 ^ 24 : ℤ) : ℚ) * 2 ^ k ≤ ((2 ^ 24 : ℤ) : ℚ) * 2 ^ (103 : ℤ) := by
              gcongr
              · exact one_le_two
              · omega
          _ ≤ _ := by norm_num)
    refine ⟨_, p, hv, ?_⟩
    rw [hp, htop, topUnits, if_neg h104, if_congr hneg rfl rfl]
    split <;> push_cast <;> ring

/-- A whole number of units, truncated to f32. -/
theorem convertSat_truncated (nz : Bool) {m k : Int} (hk : -149 ≤ k) (hk' : k ≤ 104) (hm : |m| ≤ 2 ^ 24 + 1) :
    ∃ z p, valueOf 0 (convertSat (.fin nz (.scaled m k)) 0 1 0).1 = .fin z p ∧ realOf p = cutUnits k m * (2 : ℝ) ^ k := by
  have h : ∃ z p, valueOf 0 (convertSat (.fin nz (.scaled m k)) 0 1 0).1 = .fin z p ∧ Claims.rat p = cutUnits k m * (2 : ℚ) ^ k := by
    rcases lt_or_ge |m| (2 ^ 24) with h | h
    · rw [cutUnits_of_lt h]
      exact convertSat_truncated_below hk hk' h
    · rw [cutUnits_of_ge h]
      exact convertSat_truncated_above hk hk' h hm
  obtain ⟨z, p, hv, hp⟩ := h
  refine ⟨z, p, hv, ?_⟩
  rw [realOf_eq_rat, hp]
  push_cast
  rfl

/-- Cutting a number of units keeps it within n ≥ 1 of what is less than one unit above the greatest that f32 holds. -/
theorem abs_cutUnits_sub_lt {k m : Int} {t n : ℝ} (hn : 1 ≤ n) (ht : |t| < topUnits k + 1) (h : |m - t| < n) : |cutUnits k m - t| < n := by
  rw [abs_lt] at ht h ⊢
  rw [cutUnits]
  push_cast
  have htop : (0 : ℝ) ≤ topUnits k := by
    have : 0 ≤ topUnits k := by unfold topUnits; split <;> norm_num
    exact_mod_cast this
  constructor
  · rcases max_cases (-(topUnits k : ℝ)) (min (topUnits k : ℝ) m) with ⟨h1, _⟩ | ⟨h1, _⟩ <;>
      rcases min_cases (topUnits k : ℝ) (m : ℝ) with ⟨h2, _⟩ | ⟨h2, _⟩ <;> rw [h1] <;> linarith
  · rcases max_cases (-(topUnits k : ℝ)) (min (topUnits k : ℝ) m) with ⟨h1, _⟩ | ⟨h1, _⟩ <;>
      rcases min_cases (topUnits k : ℝ) (m : ℝ) with ⟨h2, _⟩ | ⟨h2, _⟩ <;> rw [h1] <;> linarith

/-! ### The bound of a code near an exact result (06 R154) -/

/-- A value less than n units from an exact result whose own unit is no smaller. -/
theorem within_of_units {n r v : ℝ} {code : Nat} {k : Int} {z : Bool} {p : Q} (hv : valueOf 0 code = .fin z p) (hp : realOf p = v * 2 ^ k)
    (hk : k = -149 ∨ (2 : ℝ) ^ (k + 23) ≤ |r|) (h : |v - r / 2 ^ k| < n) : Claims.within n code r := by
  refine ⟨z, p, hv, fun e he _ hlt => ?_⟩
  have hunit : (0 : ℝ) < 2 ^ k := by positivity
  have hke : k ≤ e - 23 := by
    rcases hk with rfl | hk
    · omega
    · have := (zpow_lt_zpow_iff_right₀ (one_lt_two (α := ℝ))).1 (hk.trans_lt hlt)
      omega
  have hn : 0 ≤ n := (abs_nonneg _).trans h.le
  have hdist : realOf p - r = (v - r / 2 ^ k) * 2 ^ k := by
    rw [hp]
    field_simp
  calc |(p.num : ℝ) / p.den - r| = |v - r / 2 ^ k| * 2 ^ k := by
        rw [← abs_of_pos hunit, ← abs_mul, abs_of_pos hunit, ← hdist]
        rfl
    _ < n * 2 ^ k := by gcongr
    _ ≤ n * 2 ^ (e - 23) := by
        gcongr
        exact one_le_two

/-- A truncated number of units within n of an exact result. -/
theorem within_truncated (nz : Bool) {n r : ℝ} {k m : Int} (hk : -149 ≤ k) (hk' : k ≤ 104) (hm : |m| ≤ 2 ^ 24 + 1) (hn : 1 ≤ n)
    (hr : k = -149 ∨ (2 : ℝ) ^ (k + 23) ≤ |r|) (htop : |r / 2 ^ k| < topUnits k + 1) (h : |m - r / 2 ^ k| < n) :
    Claims.within n (convertSat (.fin nz (.scaled m k)) 0 1 0).1 r := by
  obtain ⟨z, p, hv, hp⟩ := convertSat_truncated nz hk hk' hm
  exact within_of_units hv hp hr (abs_cutUnits_sub_lt hn htop h)

/-! ### The choice of the fixed function (06 R154) -/

theorem pickUnits_bounds {lo hi b : Nat} (c : Nat) (h1 : lo ≤ hi) (h2 : hi ≤ lo + 1) :
    (hi : Int) - b ≤ pickUnits lo hi b (b + 1) c ∧ pickUnits lo hi b (b + 1) c ≤ lo + b + 1 := by
  have hpos : (0 : Int) < lo + b + (b + 1 : Nat) + 1 - hi := by omega
  have h0 := Int.emod_nonneg (c : Int) hpos.ne'
  have hlt := Int.emod_lt_of_pos (c : Int) hpos
  unfold pickUnits
  omega

/-- A choice from b units below the greatest of two neighbouring bounds to b + 1 units above the least lies less than b + 1 units from what
the bounds enclose. -/
theorem within_pickUnits (nz neg : Bool) {r : ℝ} {k : Int} {lo hi b : Nat} (c : Nat) (hk : -149 ≤ k) (hk' : k ≤ 104) (hb : b ≤ 1)
    (hr : k = -149 ∨ (2 : ℝ) ^ (k + 23) ≤ r) (h1 : lo ≤ hi) (h2 : hi ≤ lo + 1) (htop : lo < 2 ^ 24) (hr' : k = 104 → r < 2 ^ (128 : ℤ))
    (hlo : (lo : ℝ) < r / 2 ^ k) (hhi : r / 2 ^ k < hi + 1) :
    Claims.within (b + 1) (convertSat (.fin nz (.scaled (if neg then -pickUnits lo hi b (b + 1) c else pickUnits lo hi b (b + 1) c) k)) 0 1 0).1
      (if neg then -r else r) := by
  obtain ⟨hp1, hp2⟩ := pickUnits_bounds (b := b) c h1 h2
  generalize pickUnits lo hi b (b + 1) c = m at hp1 hp2
  have ht : 0 < r / 2 ^ k := (Nat.cast_nonneg lo).trans_lt hlo
  have hrpos : 0 < r := by
    by_contra h
    exact ht.not_ge (div_nonpos_of_nonpos_of_nonneg (not_lt.1 h) (by positivity))
  have hm : |m| ≤ 2 ^ 24 + 1 := abs_le.2 (by omega)
  have hnear : |(m : ℝ) - r / 2 ^ k| < b + 1 := by
    have hp1' : (hi : ℝ) - b ≤ m := by exact_mod_cast hp1
    have hp2' : (m : ℝ) ≤ lo + b + 1 := by exact_mod_cast hp2
    rw [abs_lt]
    constructor <;> linarith
  have hcap : r / 2 ^ k < topUnits k + 1 := by
    unfold topUnits
    split
    next h =>
      rw [h, div_lt_iff₀ (by positivity)]
      refine (hr' h).trans_le ?_
      norm_num
    next h =>
      have h2' : (hi : ℝ) ≤ lo + 1 := by exact_mod_cast h2
      have htop' : (lo : ℝ) + 1 ≤ 2 ^ 24 := by exact_mod_cast htop
      push_cast
      linarith
  have hn : (1 : ℝ) ≤ b + 1 := by simp
  cases neg
  · refine within_truncated nz hk hk' hm hn ?_ ?_ hnear
    · rwa [if_neg Bool.false_ne_true, abs_of_pos hrpos]
    · rwa [if_neg Bool.false_ne_true, abs_of_pos ht]
  · refine within_truncated nz hk hk' (by simpa using hm) hn ?_ ?_ ?_
    · rwa [if_pos rfl, abs_neg, abs_of_pos hrpos]
    · rwa [if_pos rfl, neg_div, abs_neg, abs_of_pos ht]
    · rw [if_pos rfl, if_pos rfl, neg_div, Int.cast_neg, ← neg_sub', abs_neg]
      exact hnear

end Sys2Proof.Machine
end

section
/-! SUPPORT. The square root in integers, the grid exponent and the units of a value, and the inputs of f32 (O20). -/
namespace Sys2Proof.Machine

/-! ### The integer square root (06 R154) -/

section
variable {n s x : Nat}

theorem newton_ge (hs : s * s ≤ n) (hx : 0 < x) : s ≤ (x + n / x) / 2 := by
  have h : 2 * s - x ≤ n / x := by
    refine (Nat.le_div_iff_mul_le hx).2 (le_trans ?_ hs)
    rcases Nat.le_total x (2 * s) with h | h
    · zify [h]
      nlinarith [sq_nonneg ((s : ℤ) - x)]
    · simp [Nat.sub_eq_zero_of_le h]
  omega

theorem newton_lt (hs : n < (s + 1) * (s + 1)) (hx : s < x) : (x + n / x) / 2 < x := by
  have h : n / x < x := (Nat.div_lt_iff_lt_mul (by omega)).2 (hs.trans_le (Nat.mul_le_mul hx hx))
  omega

/-- One step squares the distance from s + 1 relative to twice of it. -/
theorem newton_sq (hs : n < (s + 1) * (s + 1)) (hx : s < x) :
    ((x + n / x) / 2 - (s + 1)) * (2 * (s + 1)) ≤ (x - (s + 1)) * (x - (s + 1)) := by
  obtain ⟨d, rfl⟩ := Nat.exists_eq_add_of_lt hx
  have hd : s + d + 1 - (s + 1) = d := by omega
  rw [hd]
  rcases Nat.le_total ((s + d + 1 + n / (s + d + 1)) / 2) (s + 1) with h | h
  · simp [Nat.sub_eq_zero_of_le h]
  · obtain ⟨c, hc⟩ := Nat.exists_eq_add_of_le h
    have hdiv := Nat.div_mul_le_self n (s + d + 1)
    have h2 : 2 * (s + 1 + c) ≤ s + d + 1 + n / (s + d + 1) := by omega
    rw [hc, Nat.add_sub_cancel_left]
    nlinarith

theorem isqrtFrom_stays (hs : s * s ≤ n) (h0 : 0 < s) (fuel : Nat) : isqrtFrom n fuel s = s := by
  cases fuel with
  | zero => rfl
  | succ fuel =>
    have := newton_ge hs h0
    simp only [isqrtFrom]
    rw [if_neg (by omega)]

/-- From above, with enough steps left for the distance, the iteration ends in the root. -/
theorem isqrtFrom_eq (hs : s * s ≤ n) (hs' : n < (s + 1) * (s + 1)) (h0 : 0 < s) {E : Nat} (hE : 2 * (s + 1) < 2 ^ E) :
    ∀ (fuel j x : Nat), s ≤ x → (x - (s + 1)) * 2 ^ 2 ^ j ≤ 2 * (s + 1) → E ≤ 2 ^ (j + fuel) → isqrtFrom n (fuel + 1) x = s := by
  intro fuel
  induction fuel with
  | zero =>
    intro j x hx hd hj
    have hx' : x ≤ s + 1 := by
      by_contra h
      have h1 : 2 ^ E ≤ 2 ^ 2 ^ j := Nat.pow_le_pow_right two_pos hj
      have h2 : 1 * 2 ^ 2 ^ j ≤ (x - (s + 1)) * 2 ^ 2 ^ j := Nat.mul_le_mul_right _ (by omega)
      omega
    rcases Nat.eq_or_lt_of_le hx with rfl | hlt
    · exact isqrtFrom_stays hs h0 1
    · have hge := newton_ge hs (by omega : 0 < x)
      have hlt' := newton_lt hs' hlt
      simp only [isqrtFrom]
      rw [if_pos hlt']
      omega
  | succ fuel ih =>
    intro j x hx hd hj
    rcases Nat.eq_or_lt_of_le hx with rfl | hlt
    · exact isqrtFrom_stays hs h0 _
    · rw [isqrtFrom, if_pos (newton_lt hs' hlt)]
      refine ih (j + 1) _ (newton_ge hs (by omega)) ?_ (by rwa [Nat.add_right_comm])
      have hsq := newton_sq hs' hlt
      generalize (x + n / x) / 2 - (s + 1) = c at hsq ⊢
      generalize x - (s + 1) = d at hsq hd
      rw [pow_succ, mul_comm (2 ^ j), pow_mul']
      generalize 2 ^ 2 ^ j = p at hd ⊢
      have h1 : c * (2 * (s + 1)) * (p * p) ≤ (d * p) * (d * p) := by nlinarith
      have h2 := Nat.mul_le_mul hd hd
      have h3 : (c * p ^ 2) * (2 * (s + 1)) ≤ (2 * (s + 1)) * (2 * (s + 1)) := by nlinarith
      exact Nat.le_of_mul_le_mul_right h3 (by omega)

theorem isqrt_eq_sqrt {E : Nat} (hE : E ≤ 2 ^ 20) (h : n < 2 ^ E) : isqrt n = Nat.sqrt n := by
  unfold isqrt
  split
  next h0 => rw [h0, Nat.sqrt_zero]
  next h0 =>
    have hlow : 2 ^ (n.log2 / 2) ≤ Nat.sqrt n := by
      rw [Nat.le_sqrt, ← pow_add]
      exact (Nat.pow_le_pow_right two_pos (by omega)).trans (Nat.log2_self_le h0)
    have hhigh : Nat.sqrt n < 2 ^ (n.log2 / 2 + 1) := by
      rw [Nat.sqrt_lt, ← pow_add]
      exact (Nat.lt_log2_self (n := n)).trans_le (Nat.pow_le_pow_right two_pos (by omega))
    have hn : Nat.sqrt n ≤ n := Nat.sqrt_le_self n
    have hpos := Nat.two_pow_pos (n.log2 / 2)
    refine isqrtFrom_eq (E := E + 2) (Nat.sqrt_le n) (Nat.sqrt_lt.1 (Nat.lt_succ_self _)) (by omega) ?_ 63 0 _ hhigh.le ?_ (by omega)
    · rw [pow_add]
      omega
    · rw [pow_succ] at *
      omega

end

/-! ### Units of a value (05 R134) -/

theorem floor_eq (q : Q) : q.floor = ⌊realOf q⌋ := by
  rw [realOf_eq_rat, Rat.floor_cast]
  exact (Rat.floor_intCast_div_natCast q.num q.den).symm

theorem realOf_scale (q : Q) (k : Int) : realOf (q.scale k) = realOf q * 2 ^ k := by
  unfold realOf Q.scale
  split
  next h =>
    lift k to ℕ using h
    simp [mul_div_right_comm]
  next h =>
    obtain ⟨j, rfl⟩ : ∃ j : ℕ, k = -j := ⟨(-k).toNat, by omega⟩
    simp [div_eq_mul_inv]
    ring

theorem inUnits_eq (q : Q) (k : Int) : inUnits q k = ⌊realOf q / 2 ^ k⌋₊ := by
  rw [inUnits, floor_eq, realOf_scale, zpow_neg, ← div_eq_mul_inv, Int.floor_toNat]

/-- A value that is a whole number of units. -/
theorem inUnits_exact {q : Q} {k : Int} {n : Nat} (h : realOf q = n * 2 ^ k) : inUnits q k = n := by
  rw [inUnits_eq, h, mul_div_cancel_right₀ _ (by positivity), Nat.floor_natCast]

/-- The binade of a positive value. -/
theorem floorLog2_realOf {q : Q} (h : 0 < realOf q) : (2 : ℝ) ^ floorLog2 q.num.natAbs q.den ≤ realOf q ∧
    realOf q < 2 ^ (floorLog2 q.num.natAbs q.den + 1) := by
  have hd : q.den ≠ 0 := by
    rintro h0
    simp [realOf, h0] at h
  have hrat : 0 < Claims.rat q := by
    rw [realOf_eq_rat] at h
    exact_mod_cast h
  have hb := floorLog2_bounds (Int.natAbs_ne_zero.2 (num_ne_of_rat hrat.ne')) hd
  rw [← rat_abs_natAbs, abs_of_pos hrat] at hb
  rw [realOf_eq_rat]
  have h1 := (Rat.cast_le (K := ℝ)).2 hb.1
  have h2 := (Rat.cast_lt (K := ℝ)).2 hb.2
  rw [Rat.cast_zpow, Rat.cast_ofNat] at h1 h2
  exact ⟨h1, h2⟩

/-- The f32 grid at a positive value (05 R134). -/
theorem gridExp_bounds {q : Q} (h : 0 < realOf q) : -149 ≤ gridExp q ∧ (gridExp q = -149 ∨ (2 : ℝ) ^ (gridExp q + 23) ≤ realOf q) ∧
    realOf q < 2 ^ (gridExp q + 24) := by
  obtain ⟨h1, h2⟩ := floorLog2_realOf h
  unfold gridExp
  refine ⟨by omega, ?_, h2.trans_le (zpow_le_zpow_right₀ one_le_two (by omega))⟩
  rcases le_total (-126) (floorLog2 q.num.natAbs q.den) with hle | hle
  · rw [max_eq_left hle, sub_add_cancel]
    exact .inr h1
  · rw [max_eq_right hle]
    exact .inl (by norm_num)

/-- A choice beside what two bounds less than a unit apart enclose. -/
theorem within_pick_between (nz neg : Bool) {vlo vhi : Q} {r : ℝ} {k : Int} {b : Nat} (c : Nat) (hk : -149 ≤ k) (hk' : k ≤ 104) (hb : b ≤ 1)
    (hr : k = -149 ∨ (2 : ℝ) ^ (k + 23) ≤ r) (h0 : 0 ≤ realOf vlo) (hlo : realOf vlo ≤ r) (hhi : r ≤ realOf vhi)
    (hclose : realOf vhi ≤ realOf vlo + 2 ^ k) (htop : realOf vlo < 2 ^ (k + 24)) (hr' : k = 104 → r < 2 ^ (128 : ℤ))
    (hne : (inUnits vlo k : ℝ) * 2 ^ k ≠ r) :
    Claims.within (b + 1) (convertSat (.fin nz (.scaled (if neg then -pickUnits (inUnits vlo k) (inUnits vhi k) b (b + 1) c
      else pickUnits (inUnits vlo k) (inUnits vhi k) b (b + 1) c) k)) 0 1 0).1 (if neg then -r else r) := by
  have hu : (0 : ℝ) < 2 ^ k := by positivity
  have hlo' : realOf vlo / 2 ^ k ≤ r / 2 ^ k := by gcongr
  have hhi' : r / 2 ^ k ≤ realOf vhi / 2 ^ k := by gcongr
  have hfloor : (⌊realOf vlo / 2 ^ k⌋₊ : ℝ) ≤ realOf vlo / 2 ^ k := Nat.floor_le (by positivity)
  simp only [inUnits_eq] at hne ⊢
  refine within_pickUnits nz neg c hk hk' hb hr (Nat.floor_mono (hlo'.trans hhi')) ?_ ?_ hr' (lt_of_le_of_ne (hfloor.trans hlo') ?_)
    (hhi'.trans_lt (Nat.lt_floor_add_one _))
  · rw [← Nat.floor_add_one (by positivity)]
    refine Nat.floor_mono ?_
    rw [div_le_iff₀ hu, add_mul, div_mul_cancel₀ _ hu.ne', one_mul]
    exact hclose
  · refine (Nat.floor_lt (by positivity)).2 ?_
    rw [div_lt_iff₀ hu]
    refine htop.trans_eq ?_
    rw [add_comm, zpow_add₀ two_ne_zero]
    norm_num
  · exact fun h => hne ((eq_div_iff hu.ne').1 h)

/-! ### The finite values of f32 (05 R127) -/

/-- A finite f32 value: at most 24 bits in units of a power of two. -/
structure F32 (q : Q) (M : Nat) (K : Int) : Prop where
  lt : M < 2 ^ 24
  low : -149 ≤ K
  high : K ≤ 104
  abs : |realOf q| = M * 2 ^ K
  den : ∃ j ≤ 149, q.den = 2 ^ j

theorem scaled_den_pow (n : Int) {k : Int} (hk : -149 ≤ k) : ∃ j ≤ 149, (Q.scaled n k).den = 2 ^ j := by
  unfold Q.scaled
  split
  · exact ⟨0, by omega, rfl⟩
  · exact ⟨(-k).toNat, by omega, rfl⟩

theorem f32_of_valueOf {c : Nat} {nz : Bool} {q : Q} (hc : c < 2 ^ 32) (hv : valueOf 0 c = .fin nz q) : ∃ M K, F32 q M K := by
  obtain ⟨E, M, hM, htop, rfl⟩ := code_of_finite laid_f32 hc hv
  rw [valueOf_code laid_f32 hM htop] at hv
  cases hv
  have hE : E ≤ 254 := by
    simp only at htop
    omega
  have hlow : -149 ≤ FFmt.unit ⟨24, -126, 8, 23, 127, 16777215, 104⟩ E := by
    simp only [FFmt.unit]
    omega
  simp only at hM
  refine ⟨FFmt.sig ⟨24, -126, 8, 23, 127, 16777215, 104⟩ E M, FFmt.unit ⟨24, -126, 8, 23, 127, 16777215, 104⟩ E, ?_, hlow, ?_, ?_,
    scaled_den_pow _ hlow⟩
  · unfold FFmt.sig
    split
    · omega
    · change 2 ^ 23 + M < 2 ^ 24
      omega
  · simp only [FFmt.unit]
    omega
  · have hpos : (0 : ℚ) ≤ FFmt.sig ⟨24, -126, 8, 23, 127, 16777215, 104⟩ E M * 2 ^ FFmt.unit ⟨24, -126, 8, 23, 127, 16777215, 104⟩ E := by positivity
    rw [realOf_eq_rat, rat_signed]
    cases nz
    · rw [if_neg Bool.false_ne_true, ← Rat.cast_abs, abs_of_nonneg hpos]
      push_cast
      rfl
    · rw [if_pos rfl, ← Rat.cast_abs, abs_neg, abs_of_nonneg hpos]
      push_cast
      rfl

theorem realOf_pos {q : Q} (hd : q.den ≠ 0) : 0 < realOf q ↔ 0 < q.num := by
  have : (0 : ℝ) < q.den := by positivity
  rw [realOf, lt_div_iff₀ this, zero_mul, Int.cast_pos]

section
variable {q : Q} {M : Nat} {K : Int}

theorem F32.den_ne (h : F32 q M K) : q.den ≠ 0 := by
  obtain ⟨j, -, hj⟩ := h.den
  rw [hj]
  positivity

theorem F32.M_pos (h : F32 q M K) (h0 : realOf q ≠ 0) : 1 ≤ M := by
  have h1 := abs_pos.2 h0
  rw [h.abs] at h1
  by_contra h2
  rw [Nat.lt_one_iff.1 (not_le.1 h2)] at h1
  simp at h1

theorem F32.bounds (h : F32 q M K) (h0 : realOf q ≠ 0) : (2 : ℝ) ^ (-149 : ℤ) ≤ |realOf q| ∧ |realOf q| < 2 ^ (128 : ℤ) := by
  have hM := h.M_pos h0
  have hlt := h.lt
  have hlow := h.low
  have hhigh := h.high
  rw [h.abs]
  constructor
  · calc (2 : ℝ) ^ (-149 : ℤ) ≤ 1 * 2 ^ K := by
          rw [one_mul]
          exact zpow_le_zpow_right₀ one_le_two hlow
      _ ≤ M * 2 ^ K := by gcongr; exact_mod_cast hM
  · calc (M : ℝ) * 2 ^ K < 2 ^ 24 * 2 ^ K := by gcongr; exact_mod_cast hlt
      _ ≤ 2 ^ 24 * 2 ^ (104 : ℤ) := by gcongr; exact one_le_two
      _ = 2 ^ (128 : ℤ) := by norm_num

end

/-! ### vrsq (06 R154) -/

/-- The whole square root of a quotient of positive integers, and whether the quotient is its square. -/
theorem sqrt_div_bounds {a d : Nat} {t : ℝ} (hd : d ≠ 0) (ht : 0 ≤ t) (h : t ^ 2 = a / d) :
    (Nat.sqrt (a / d) : ℝ) ≤ t ∧ t < Nat.sqrt (a / d) + 1 ∧ (t = Nat.sqrt (a / d) ↔ Nat.sqrt (a / d) * Nat.sqrt (a / d) * d = a) := by
  have hd' : (0 : ℝ) < d := by positivity
  have hlow : Nat.sqrt (a / d) * Nat.sqrt (a / d) * d ≤ a := (Nat.mul_le_mul_right d (Nat.sqrt_le _)).trans (Nat.div_mul_le_self a d)
  have hhigh : a < (Nat.sqrt (a / d) + 1) * (Nat.sqrt (a / d) + 1) * d :=
    (Nat.div_lt_iff_lt_mul (Nat.pos_of_ne_zero hd)).1 (Nat.sqrt_lt.1 (Nat.lt_succ_self _))
  generalize Nat.sqrt (a / d) = n at hlow hhigh ⊢
  rw [eq_div_iff hd'.ne'] at h
  have hlow' : (n : ℝ) * n * d ≤ t ^ 2 * d := by rw [h]; exact_mod_cast hlow
  have hhigh' : t ^ 2 * d < ((n : ℝ) + 1) * (n + 1) * d := by rw [h]; exact_mod_cast hhigh
  have hn := le_of_mul_le_mul_right hlow' hd'
  have hn' := lt_of_mul_lt_mul_right hhigh' hd'.le
  have hn0 : (0 : ℝ) ≤ n := Nat.cast_nonneg n
  refine ⟨by nlinarith, by nlinarith, fun he => ?_, fun he => ?_⟩
  · rw [he, sq] at h
    exact_mod_cast h
  · have he' : (n : ℝ) * n * d = t ^ 2 * d := by rw [h]; exact_mod_cast he
    have := mul_right_cancel₀ hd'.ne' he'
    nlinarith

/-- The number of units that `vrsq` chooses. -/
def rsqUnits (nu de : Nat) (b : BitVec 32) : Nat :=
  if Nat.sqrt (nu / de) * Nat.sqrt (nu / de) * de = nu then Nat.sqrt (nu / de)
  else if Config.vrsqUp b then Nat.sqrt (nu / de) + 1 else Nat.sqrt (nu / de)

theorem rsqUnits_near {nu de : Nat} {t : ℝ} (b : BitVec 32) (hd : de ≠ 0) (ht : 0 ≤ t) (h : t ^ 2 = nu / de) :
    |(rsqUnits nu de b : ℝ) - t| < 1 ∧ (rsqUnits nu de b : ℝ) ≤ t + 1 := by
  obtain ⟨hlow, hhigh, hexact⟩ := sqrt_div_bounds hd ht h
  unfold rsqUnits
  rw [abs_lt]
  split
  next => constructor <;> [constructor; skip] <;> linarith
  next hne =>
    have hlt : (Nat.sqrt (nu / de) : ℝ) < t := lt_of_le_of_ne hlow fun he => hne (hexact.1 he.symm)
    split
    · push_cast
      constructor <;> [constructor; skip] <;> linarith
    · constructor <;> [constructor; skip] <;> linarith

/-- The exponent of the units in which `vrsq` takes the root. -/
def rsqExp (q : Q) : Int := floorLog2 q.den q.num.natAbs / 2 - 23

theorem rsqT_pos {q : Q} (nz : Bool) (b : BitVec 32) (h : 0 < q.num)
    (hlt : unitsNum q.den (2 * rsqExp q) / unitsDen q.num.natAbs (2 * rsqExp q) < 2 ^ 64) : rsqT (.fin nz q) b =
      convertSat (.fin false (.scaled (rsqUnits (unitsNum q.den (2 * rsqExp q)) (unitsDen q.num.natAbs (2 * rsqExp q)) b) (rsqExp q))) 0 1 0 := by
  rw [rsqUnits, ← isqrt_eq_sqrt (by omega) hlt]
  simp only [rsqT, if_neg h.ne', if_neg h.not_gt, ← unitsNum_double, ← unitsDen_double, beq_iff_eq]
  rfl

theorem rsqT_within {q : Q} {M : Nat} {K : Int} (nz : Bool) (b : BitVec 32) (hf : F32 q M K) (h : 0 < q.num) :
    Claims.within 1 (rsqT (.fin nz q) b).1 (1 / Real.sqrt (realOf q)) := by
  have hq := (realOf_pos hf.den_ne).2 h
  obtain ⟨hmin, hmax⟩ := hf.bounds hq.ne'
  rw [abs_of_pos hq] at hmin hmax
  have hinv : (((q.den : ℚ) / q.num.natAbs : ℚ) : ℝ) = (realOf q)⁻¹ := by
    have habs : (q.num.natAbs : ℝ) = q.num := by rw [Nat.cast_natAbs, abs_of_pos h]
    rw [realOf, inv_div, Rat.cast_div, Rat.cast_natCast, Rat.cast_natCast, habs]
  have hr2 : (1 / Real.sqrt (realOf q)) ^ 2 = (realOf q)⁻¹ := by rw [div_pow, Real.sq_sqrt hq.le, one_pow, one_div]
  have hr : 0 < 1 / Real.sqrt (realOf q) := by positivity
  generalize 1 / Real.sqrt (realOf q) = r at hr2 hr ⊢
  have hb := floorLog2_bounds hf.den_ne (Int.natAbs_ne_zero.2 h.ne')
  have hb1 := (Rat.cast_le (K := ℝ)).2 hb.1
  have hb2 := (Rat.cast_lt (K := ℝ)).2 hb.2
  rw [hinv, ← hr2, Rat.cast_zpow, Rat.cast_ofNat] at hb1 hb2
  have hmin' : r ^ 2 ≤ 2 ^ (149 : ℤ) := by
    rw [hr2, inv_le_comm₀ hq (by positivity), ← zpow_neg]
    exact hmin
  have hmax' : (2 : ℝ) ^ (-128 : ℤ) < r ^ 2 := by
    rw [hr2, lt_inv_comm₀ (by positivity) hq, ← zpow_neg]
    exact hmax
  have hE1 := (zpow_lt_zpow_iff_right₀ (one_lt_two (α := ℝ))).1 (hmax'.trans hb2)
  have hE2 := (zpow_le_zpow_iff_right₀ (one_lt_two (α := ℝ))).1 (hb1.trans hmin')
  obtain ⟨k, hk⟩ : ∃ k, rsqExp q = k := ⟨_, rfl⟩
  have hkE : 2 * (k + 23) ≤ floorLog2 q.den q.num.natAbs ∧ floorLog2 q.den q.num.natAbs + 1 ≤ 2 * (k + 24) := by
    rw [← hk, rsqExp]
    omega
  have hu : (0 : ℝ) < 2 ^ k := by positivity
  have hdouble (j : ℤ) : ((2 : ℝ) ^ j) ^ 2 = 2 ^ (2 * j) := by rw [mul_comm, zpow_mul]; rfl
  have hlow : (2 : ℝ) ^ (k + 23) ≤ r := by
    refine le_of_sq_le_sq ?_ hr.le
    rw [hdouble]
    exact (zpow_le_zpow_right₀ one_le_two hkE.1).trans hb1
  have hhigh : r < (2 : ℝ) ^ (k + 24) := by
    refine lt_of_pow_lt_pow_left₀ 2 (by positivity) ?_
    rw [hdouble]
    exact hb2.trans_le (zpow_le_zpow_right₀ one_le_two hkE.2)
  have ht : r / 2 ^ k < 2 ^ 24 := by
    rw [div_lt_iff₀ hu]
    refine hhigh.trans_eq ?_
    rw [add_comm, zpow_add₀ two_ne_zero]
    norm_num
  have ht0 : 0 ≤ r / 2 ^ k := by positivity
  have hsq : (r / 2 ^ k) ^ 2 = (unitsNum q.den (2 * k) : ℝ) / unitsDen q.num.natAbs (2 * k) := by
    have hun := congrArg (fun x : ℚ => (x : ℝ)) (units_eq q.den q.num.natAbs (2 * k))
    simp only [Rat.cast_div, Rat.cast_natCast] at hun
    rw [hun, div_pow, hdouble, hr2, ← hinv]
    push_cast
    rfl
  have hden := unitsDen_ne (Int.natAbs_ne_zero.2 h.ne') (2 * k)
  have hsize : unitsNum q.den (2 * k) / unitsDen q.num.natAbs (2 * k) < 2 ^ 64 := by
    rw [Nat.div_lt_iff_lt_mul (Nat.pos_of_ne_zero hden)]
    have hden' : (0 : ℝ) < unitsDen q.num.natAbs (2 * k) := by positivity
    have : (unitsNum q.den (2 * k) : ℝ) / unitsDen q.num.natAbs (2 * k) < 2 ^ 64 := by
      rw [← hsq]
      nlinarith
    rw [div_lt_iff₀ hden'] at this
    exact_mod_cast this
  rw [rsqT_pos nz b h (hk ▸ hsize), hk]
  obtain ⟨hnear, hle⟩ := rsqUnits_near b hden ht0 hsq
  generalize rsqUnits _ _ b = m at hnear hle
  have hm : m ≤ 2 ^ 24 := by
    have : (m : ℝ) < 2 ^ 24 + 1 := by linarith
    have : m < 2 ^ 24 + 1 := by exact_mod_cast this
    omega
  have htop : |r / 2 ^ k| < topUnits k + 1 := by
    have hne : k ≠ 104 := by omega
    rw [topUnits, if_neg hne, abs_of_nonneg ht0]
    push_cast
    linarith
  exact within_truncated false (by omega) (by omega) (by rw [abs_of_nonneg] <;> omega) le_rfl (.inr (by rwa [abs_of_pos hr])) htop
    (by rwa [Int.cast_natCast])

end Sys2Proof.Machine
end

section
/-! SUPPORT. The error of vexp2 (O20). -/
namespace Sys2Proof.Machine

/-- A code whose value is the exact result. -/
theorem within_exact {n r : ℝ} {code : Nat} {z : Bool} {p : Q} (hn : 0 < n) (hv : valueOf 0 code = .fin z p) (hp : realOf p = r) :
    Claims.within n code r := by
  refine ⟨z, p, hv, fun e _ _ _ => ?_⟩
  have h0 : (p.num : ℝ) / p.den - r = 0 := sub_eq_zero.2 hp
  rw [h0, abs_zero]
  positivity

/-- Small relative errors add up. -/
theorem one_add_pow_le {y : ℝ} (hy : 0 ≤ y) : ∀ n : ℕ, 2 * n * y ≤ 1 → (1 + y) ^ n ≤ 1 + 2 * n * y
  | 0, _ => by simp
  | n + 1, h => by
    push_cast at h ⊢
    have h1 : 2 * n * y ≤ 1 := by nlinarith
    calc (1 + y) ^ (n + 1) = (1 + y) ^ n * (1 + y) := pow_succ ..
      _ ≤ (1 + 2 * n * y) * (1 + y) := by gcongr; exact one_add_pow_le hy n h1
      _ ≤ _ := by nlinarith [mul_nonneg hy (sub_nonneg.2 h1)]

/-! ### Logarithms of dyadic values -/

/-- A whole number whose power of two is a power of two is one itself. -/
theorem eq_two_pow_of_pow {A j : ℕ} {C : ℤ} (h : ((A : ℝ) ^ 2 ^ j) = 2 ^ C) : ∃ i : ℕ, A = 2 ^ i := by
  have hA : A ≠ 0 := by
    rintro rfl
    rw [Nat.cast_zero, zero_pow (by positivity)] at h
    exact (zpow_pos (zero_lt_two (α := ℝ)) C).ne h
  have hC : 0 ≤ C := by
    have h1 : (1 : ℝ) ≤ (A : ℝ) ^ 2 ^ j := one_le_pow₀ (by exact_mod_cast Nat.one_le_iff_ne_zero.2 hA)
    rw [h, ← zpow_zero (2 : ℝ)] at h1
    exact (zpow_le_zpow_iff_right₀ one_lt_two).1 h1
  lift C to ℕ using hC
  have hnat : A ^ 2 ^ j = 2 ^ C := by exact_mod_cast h
  obtain ⟨i, -, hi⟩ := (Nat.dvd_prime_pow Nat.prime_two).1 ((dvd_pow_self A (by positivity)).trans hnat.dvd)
  exact ⟨i, hi⟩

/-- A dyadic value with a dyadic logarithm is a power of two, of a whole exponent. -/
theorem eq_two_zpow_of_rpow {A : ℕ} {B K k : ℤ} (h : (2 : ℝ) ^ ((B : ℝ) * 2 ^ k) = A * 2 ^ K) : ∃ i : ℤ, (A : ℝ) * 2 ^ K = 2 ^ i := by
  obtain ⟨C, hC⟩ : ∃ C : ℤ, (B : ℝ) * 2 ^ k * ((2 ^ k.natAbs : ℕ) : ℝ) = C := by
    rcases le_total 0 k with hk | hk
    · lift k to ℕ using hk
      exact ⟨B * 2 ^ k * (2 ^ (k : ℤ).natAbs : ℕ), by push_cast; rfl⟩
    · refine ⟨B, ?_⟩
      obtain ⟨j, rfl⟩ : ∃ j : ℕ, k = -j := ⟨(-k).toNat, by omega⟩
      rw [Int.natAbs_neg, Int.natAbs_natCast, zpow_neg, zpow_natCast]
      push_cast
      field_simp
  have hpow : ((A : ℝ) ^ 2 ^ k.natAbs) = 2 ^ (C - K * (2 ^ k.natAbs : ℕ)) := by
    have h1 : ((A : ℝ) * 2 ^ K) ^ 2 ^ k.natAbs = 2 ^ C := by
      rw [← h, ← Real.rpow_natCast, ← Real.rpow_mul zero_le_two, hC, Real.rpow_intCast]
    rw [mul_pow, ← zpow_natCast ((2 : ℝ) ^ K), ← zpow_mul] at h1
    rw [zpow_sub₀ two_ne_zero, eq_div_iff (by positivity), h1]
  obtain ⟨i, rfl⟩ := eq_two_pow_of_pow hpow
  exact ⟨i + K, by rw [zpow_add₀ two_ne_zero]; push_cast; rfl⟩

/-! ### Powers of two in fixed point (06 R154) -/

theorem fixOne_eq : (fixOne : ℝ) = 2 ^ 640 := by rw [fixOne, Nat.cast_pow, Nat.cast_ofNat]

section
variable {F : ℕ}

/-- A number in fixed point at most two units below ρ. -/
structure RootNear (F root : ℕ) (ρ : ℝ) : Prop where
  ge : F ≤ root
  low : (root : ℝ) ≤ ρ * F
  high : ρ * F ≤ root + 2

/-- A number in fixed point at most a factor c below α. -/
structure PowerNear (F acc : ℕ) (α c : ℝ) : Prop where
  ge : F ≤ acc
  low : (acc : ℝ) ≤ α * F
  high : α * F ≤ acc * c

theorem isqrt_root {root E : ℕ} {ρ : ℝ} (hF0 : 0 < F) (hE : E ≤ 2 ^ 20) (hlt : root * F < 2 ^ E) (h : RootNear F root ρ) :
    RootNear F (isqrt (root * F)) (√ρ) := by
  obtain ⟨hroot, h1, h2⟩ := h
  rw [isqrt_eq_sqrt hE hlt]
  have hge : F ≤ Nat.sqrt (root * F) := Nat.le_sqrt.2 (Nat.mul_le_mul_right _ hroot)
  have hlow := Nat.sqrt_le (root * F)
  have hhigh := Nat.sqrt_lt.1 (Nat.lt_succ_self (Nat.sqrt (root * F)))
  generalize Nat.sqrt (root * F) = r at hge hlow hhigh ⊢
  have hge' : (F : ℝ) ≤ r := by exact_mod_cast hge
  have hroot' : (F : ℝ) ≤ root := by exact_mod_cast hroot
  have hlow' : (r : ℝ) * r ≤ root * F := by exact_mod_cast hlow
  have hhigh' : (root : ℝ) * F < (r + 1) * (r + 1) := by exact_mod_cast hhigh
  have hF : (0 : ℝ) < F := by exact_mod_cast hF0
  have hρ0 : 0 ≤ ρ := by
    by_contra h
    nlinarith
  have hsq : (√ρ * F) ^ 2 = ρ * F * F := by rw [mul_pow, Real.sq_sqrt hρ0]; ring
  refine ⟨hge, ?_, ?_⟩
  · refine le_of_sq_le_sq ?_ (by positivity)
    rw [hsq, sq]
    nlinarith
  · refine le_of_sq_le_sq ?_ (by positivity)
    rw [hsq]
    nlinarith

/-- The relative error of one factor, of its root and of its product: w. -/
def ExpErr (F : ℕ) (w : ℝ) : Prop := w = (1 + 2 / F) * (1 + 1 / F)

/-- One product in fixed point. -/
theorem mul_fixed {acc r : ℕ} {α σ c w : ℝ} (hF : 0 < F) (hw : ExpErr F w) (hc : 0 ≤ c) (ha : PowerNear F acc α c) (hs : RootNear F r σ) :
    PowerNear F (acc * r / F) (α * σ) (c * w) := by
  obtain ⟨hacc, h1, h2⟩ := ha
  obtain ⟨hr, h3, h4⟩ := hs
  have hF' : (0 : ℝ) < F := by exact_mod_cast hF
  have hge : F ≤ acc * r / F := (Nat.le_div_iff_mul_le hF).2 (Nat.mul_le_mul hacc hr)
  have hlow := Nat.div_mul_le_self (acc * r) F
  have hhigh := (Nat.div_lt_iff_lt_mul hF).1 (Nat.lt_succ_self (acc * r / F))
  generalize acc * r / F = p at hge hlow hhigh ⊢
  have hge' : (F : ℝ) ≤ p := by exact_mod_cast hge
  have hr' : (F : ℝ) ≤ r := by exact_mod_cast hr
  have hacc' : (F : ℝ) ≤ acc := by exact_mod_cast hacc
  have hlow' : (p : ℝ) * F ≤ acc * r := by exact_mod_cast hlow
  have hhigh' : (acc : ℝ) * r ≤ (p + 1) * F := by exact_mod_cast hhigh.le
  have hα : 0 ≤ α * F := by linarith
  have hσ : 0 ≤ σ * F := by linarith
  refine ⟨hge, le_of_mul_le_mul_right ?_ hF', le_of_mul_le_mul_right ?_ hF'⟩
  · calc (p : ℝ) * F ≤ acc * r := hlow'
      _ ≤ (α * F) * (σ * F) := by gcongr
      _ = _ := by ring
  · have hroot : σ * F ≤ r * (1 + 2 / F) := by
      have : 2 ≤ r * (2 / F : ℝ) := by
        rw [← mul_div_assoc, le_div_iff₀ hF']
        linarith
      linarith
    have hprod : (acc : ℝ) * r ≤ p * (1 + 1 / F) * F := by
      have : 1 ≤ p * (1 / F : ℝ) := by
        rw [← mul_div_assoc, le_div_iff₀ hF']
        linarith
      refine hhigh'.trans ?_
      gcongr
      linarith
    calc α * σ * F * F = (α * F) * (σ * F) := by ring
      _ ≤ (acc * c) * (r * (1 + 2 / F)) := by gcongr
      _ = (acc * r) * (c * (1 + 2 / F)) := by ring
      _ ≤ (p * (1 + 1 / F) * F) * (c * (1 + 2 / F)) := by gcongr
      _ = _ := by rw [hw]; ring

theorem exp2Bits_succ (a N root acc : ℕ) : exp2Bits a (N + 1) root acc =
    exp2Bits a N (isqrt (root * fixOne)) (if a / 2 ^ N % 2 = 1 then acc * isqrt (root * fixOne) / fixOne else acc) := rfl

/-- The exponent that the bits of a up to N stand for, split at the highest one. -/
theorem rpow_bits {ρ : ℝ} (hρ : 0 < ρ) (a N : ℕ) : ρ ^ (((a % 2 ^ (N + 1) : ℕ) : ℝ) / 2 ^ (N + 1)) =
    √ρ ^ (a / 2 ^ N % 2) * √ρ ^ (((a % 2 ^ N : ℕ) : ℝ) / 2 ^ N) := by
  have hexp : ((a % 2 ^ (N + 1) : ℕ) : ℝ) / 2 ^ (N + 1) = 1 / 2 * ((a / 2 ^ N % 2 : ℕ) + ((a % 2 ^ N : ℕ) : ℝ) / 2 ^ N) := by
    rw [Nat.mod_pow_succ, pow_succ]
    push_cast
    field_simp
    ring
  rw [hexp, Real.rpow_mul hρ.le, ← Real.sqrt_eq_rpow, Real.rpow_add (Real.sqrt_pos.2 hρ), Real.rpow_natCast]

/-- The power in fixed point is at most the exact one, and less by at most the relative errors of its factors. -/
theorem exp2Bits_bounds (hF : F = fixOne) {w : ℝ} (hw : ExpErr F w) (hw1 : 1 ≤ w) {E : ℕ} (hE : E ≤ 2 ^ 20) (a : ℕ) :
    ∀ (N root acc : ℕ) (ρ α c : ℝ), root * F < 2 ^ E → 0 < ρ → 0 ≤ c → RootNear F root ρ → PowerNear F acc α c →
    (exp2Bits a N root acc : ℝ) ≤ α * ρ ^ (((a % 2 ^ N : ℕ) : ℝ) / 2 ^ N) * F ∧
      α * ρ ^ (((a % 2 ^ N : ℕ) : ℝ) / 2 ^ N) * F ≤ exp2Bits a N root acc * (c * w ^ N) := by
  intro N
  induction N with
  | zero =>
    intro root acc ρ α c _ _ _ _ hacc
    simpa only [exp2Bits, pow_zero, Nat.mod_one, Nat.cast_zero, zero_div, Real.rpow_zero, mul_one] using ⟨hacc.low, hacc.high⟩
  | succ N ih =>
    intro root acc ρ α c hlt hρ hc hroot hacc
    have hF0 : 0 < F := by rw [hF, fixOne]; positivity
    have hnear := isqrt_root hF0 hE hlt hroot
    have hslt : isqrt (root * F) * F < 2 ^ E := by
      refine (Nat.mul_le_mul_right F ?_).trans_lt hlt
      rw [isqrt_eq_sqrt hE hlt]
      exact (Nat.sqrt_le_sqrt (Nat.mul_le_mul_left root hroot.ge)).trans_eq (Nat.sqrt_eq root)
    have hσ := Real.sqrt_pos.2 hρ
    rw [exp2Bits_succ, ← hF, rpow_bits hρ]
    generalize isqrt (root * F) = r at hnear hslt
    split
    next hbit =>
      have := ih r (acc * r / F) (√ρ) (α * √ρ) (c * w) hslt hσ (by positivity) hnear (mul_fixed hF0 hw hc hacc hnear)
      rwa [hbit, pow_one, ← mul_assoc α, pow_succ', ← mul_assoc c]
    next hbit =>
      have hbit0 : a / 2 ^ N % 2 = 0 := by omega
      obtain ⟨hlow, hhigh⟩ := ih r acc (√ρ) α c hslt hσ hc hnear hacc
      rw [hbit0, pow_zero, one_mul]
      refine ⟨hlow, hhigh.trans ?_⟩
      exact mul_le_mul_of_nonneg_left (mul_le_mul_of_nonneg_left (pow_le_pow_right₀ hw1 (Nat.le_succ N)) hc) (Nat.cast_nonneg _)

end

end Sys2Proof.Machine
end

section
/-! SUPPORT. The choice of vexp2 between two close bounds (O20). -/
namespace Sys2Proof.Machine

/-- Up to 149 factors of relative error w leave a number below 2F at most 2^32 units too small. -/
theorem expErr_total {F j : ℕ} {w R : ℝ} (hF : (2 : ℝ) ^ 20 ≤ F) (hw : ExpErr F w) (hj : j ≤ 149) (h0 : 0 ≤ R) (hR : R ≤ 2 * F) :
    1 ≤ w ∧ R * w ^ j ≤ R + 2 ^ 32 := by
  have hF0 : (0 : ℝ) < F := by linarith
  have hy : (0 : ℝ) < 1 / F := by positivity
  have hy' : (1 : ℝ) / F ≤ 1 / 2 ^ 20 := by gcongr
  have hw' : w = (1 + 2 * (1 / F)) * (1 + 1 / F) := by rw [hw]; ring
  have hRy : R * (1 / F) ≤ 2 := by
    rw [mul_one_div, div_le_iff₀ hF0]
    exact hR
  generalize (1 : ℝ) / F = y at hy hy' hw' hRy
  have hw4 : w ≤ 1 + 4 * y := by nlinarith
  have hw1 : 1 ≤ w := by nlinarith
  have hj' : (j : ℝ) ≤ 149 := by exact_mod_cast hj
  have hj0 : (0 : ℝ) ≤ j := Nat.cast_nonneg j
  have hsmall : 2 * (j : ℝ) * (4 * y) ≤ 1 := by nlinarith
  refine ⟨hw1, ?_⟩
  calc R * w ^ j ≤ R * (1 + 2 * j * (4 * y)) := by
        gcongr
        exact (pow_le_pow_left₀ (by linarith) hw4 j).trans (one_add_pow_le (by linarith) j hsmall)
    _ = R + 8 * j * (R * y) := by ring
    _ ≤ R + 8 * 149 * 2 := by gcongr
    _ ≤ R + 2 ^ 32 := by norm_num

/-- Two to a fraction of j bits, in fixed point from below. -/
theorem exp2Bits_fraction {F a j : ℕ} (hF : F = fixOne) (ha : a < 2 ^ j) (hj : j ≤ 149) :
    (exp2Bits a j (2 * F) F : ℝ) ≤ (2 : ℝ) ^ ((a : ℝ) / 2 ^ j) * F ∧ (2 : ℝ) ^ ((a : ℝ) / 2 ^ j) * F ≤ exp2Bits a j (2 * F) F + 2 ^ 32 := by
  obtain ⟨e, he, hpow⟩ : ∃ e, e = 640 ∧ F = 2 ^ e := ⟨640, rfl, by rw [hF, fixOne]⟩
  have hbig : (2 : ℝ) ^ 20 ≤ F := by
    rw [hpow, Nat.cast_pow, Nat.cast_ofNat]
    exact pow_le_pow_right₀ one_le_two (by omega)
  have hroot : 2 * F * F < 2 ^ (1 + e + e + 1) := by
    rw [hpow, pow_succ, pow_add, pow_add, pow_one]
    have := Nat.two_pow_pos e
    exact lt_mul_of_one_lt_right (by positivity) one_lt_two
  have hrec := fun w (hw : ExpErr F w) (hw1 : 1 ≤ w) => exp2Bits_bounds hF hw hw1 (E := 1 + e + e + 1) (by omega) a j (2 * F) F 2 1 1
  clear hpow hF
  have hexp : (2 : ℝ) ^ ((a : ℝ) / 2 ^ j) ≤ 2 := by
    have h1 : (a : ℝ) / 2 ^ j ≤ 1 := (div_le_one (by positivity)).2 (by exact_mod_cast ha.le)
    simpa using Real.rpow_le_rpow_of_exponent_le one_le_two h1
  obtain ⟨w, hw⟩ : ∃ w, ExpErr F w := ⟨_, rfl⟩
  have hw1 := (expErr_total hbig hw hj le_rfl (by positivity)).1
  obtain ⟨h1, h2⟩ := hrec w hw hw1 hroot two_pos zero_le_one
    ⟨Nat.le_mul_of_pos_left F two_pos, by push_cast; exact le_rfl, by push_cast; linarith⟩ ⟨le_rfl, by rw [one_mul], by rw [one_mul, mul_one]⟩
  clear hrec hroot
  rw [Nat.mod_eq_of_lt ha, one_mul] at h1 h2
  rw [one_mul] at h2
  exact ⟨h1, h2.trans (expErr_total hbig hw hj (Nat.cast_nonneg _) (h1.trans (by gcongr))).2⟩

/-- A finite value as its floor and a fraction of its denominator. -/
theorem realOf_floor_add {q : Q} (hd : q.den ≠ 0) : realOf q = q.floor + ((q.num - q.floor * q.den).toNat : ℝ) / q.den ∧
    (q.num - q.floor * q.den).toNat < q.den := by
  have hd' : (0 : ℤ) < q.den := by omega
  have h0 : 0 ≤ q.num - q.floor * q.den := by
    have := Int.ediv_mul_le q.num hd'.ne'
    rw [Q.floor]
    omega
  have hlt : q.num - q.floor * q.den < q.den := by
    have := Int.lt_ediv_add_one_mul_self q.num hd'
    rw [Q.floor]
    nlinarith
  have hcast : (((q.num - q.floor * q.den).toNat : ℤ) : ℝ) = q.num - q.floor * q.den := by
    rw [Int.toNat_of_nonneg h0]
    push_cast
    rfl
  refine ⟨?_, by omega⟩
  have hd2 : (q.den : ℝ) ≠ 0 := by positivity
  rw [Int.cast_natCast] at hcast
  rw [hcast, realOf]
  field_simp
  ring

theorem fixOne_pos : (0 : ℝ) < fixOne := by
  rw [fixOne_eq]
  exact pow_pos two_pos 640

theorem two_zpow_div_fixOne (a : ℤ) : (2 : ℝ) ^ a / fixOne = 2 ^ (a - 640) := by
  rw [fixOne_eq, zpow_sub₀ two_ne_zero]
  exact congrArg (2 ^ a / ·) (zpow_natCast (2 : ℝ) 640).symm

theorem rpow_floor_bounds (q : Q) : (2 : ℝ) ^ q.floor ≤ 2 ^ realOf q ∧ (2 : ℝ) ^ realOf q < 2 ^ (q.floor + 1) := by
  rw [floor_eq, ← Real.rpow_intCast, ← Real.rpow_intCast]
  exact ⟨Real.rpow_le_rpow_of_exponent_le one_le_two (Int.floor_le _),
    Real.rpow_lt_rpow_of_exponent_lt one_lt_two (by push_cast; exact Int.lt_floor_add_one _)⟩

section
variable {q : Q} {M : Nat} {K : Int} (nz : Bool) (b : BitVec 32)

/-- `vexp2` at a whole exponent in the range. -/
theorem exp2T_within_int (hd : q.den ≠ 0) (h : q.floor < 128) (hint : realOf q = q.floor) (hlow : -149 ≤ q.floor) :
    Claims.within 1 (exp2T (.fin nz q) b).1 ((2 : ℝ) ^ realOf q) := by
  have heq : q.eq (.ofInt q.floor) = true := by
    rw [eq_iff_rat hd one_ne_zero, rat_ofInt]
    rw [realOf_eq_rat] at hint
    exact_mod_cast hint
  have hT : exp2T (.fin nz q) b = (pow2Bits q.floor, 0) := by
    have hn : ¬ q.floor ≥ 128 := by omega
    simp only [exp2T, if_neg hn, heq, Bool.true_and, decide_eq_true hlow, if_true]
  have hrat : Claims.rat (.scaled 1 q.floor) = 2 ^ q.floor := by rw [rat_scaled, Int.cast_one, one_mul]
  obtain ⟨⟨p, hv, -, hp⟩, -⟩ := convertSat_f32_pow2 (nz := false) (mode := 1) (r := 0) (scaled_den_ne 1 q.floor) (by omega) (by omega)
    (by rw [hrat, abs_of_pos (by positivity)]) hlow (by omega)
  rw [hT]
  refine within_exact one_pos hv ?_
  rw [realOf_eq_rat, hp, hrat, hint, Real.rpow_intCast]
  push_cast
  rfl

theorem exp2T_within_tiny (h : q.floor < -150) : Claims.within 1 (exp2T (.fin nz q) b).1 ((2 : ℝ) ^ realOf q) := by
  have hT : (exp2T (.fin nz q) b).1 = (convertSat (.fin false (.scaled (pickUnits 0 0 0 1 (Config.vexp2 b)) (-149))) 0 1 0).1 := by
    have hn : ¬ q.floor ≥ 128 := by omega
    have hn' : ¬ q.floor ≥ -149 := by omega
    have hk : max q.floor (-126) - 23 = -149 := by omega
    have hz : inUnits .zero (-149) = 0 := rfl
    simp only [exp2T, if_neg hn, decide_eq_false hn', Bool.and_false, Bool.false_eq_true, if_false, if_pos h, hk, hz]
  have hlt : realOf q < ((-150 : ℤ) : ℝ) := by
    refine (Int.lt_floor_add_one (realOf q)).trans_le ?_
    rw [← floor_eq]
    exact_mod_cast (by omega : q.floor + 1 ≤ -150)
  have hr : (2 : ℝ) ^ realOf q < 2 ^ (-150 : ℤ) := by
    rw [← Real.rpow_intCast]
    exact Real.rpow_lt_rpow_of_exponent_lt one_lt_two hlt
  have hr0 : (0 : ℝ) < 2 ^ realOf q := Real.rpow_pos_of_pos two_pos _
  rw [hT]
  have h := within_pickUnits false false (r := 2 ^ realOf q) (k := -149) (lo := 0) (hi := 0) (b := 0) (Config.vexp2 b) le_rfl (by omega)
    (by omega) (.inl rfl) le_rfl (by omega) (by norm_num) (by omega) (by rw [Nat.cast_zero]; positivity) (by
      rw [div_lt_iff₀ (by positivity)]
      refine hr.trans ?_
      norm_num)
  simpa using h

/-- What `vexp2` chooses between at other exponents. -/
theorem exp2T_between (h : q.floor < 128) (hlow : -150 ≤ q.floor) (hint : realOf q = q.floor → q.floor = -150) (hf : F32 q M K) :
    ∃ f : ℕ, (f : ℝ) ≤ (2 : ℝ) ^ (realOf q - q.floor) * fixOne ∧ (2 : ℝ) ^ (realOf q - q.floor) * fixOne ≤ f + 2 ^ 32 ∧
      (exp2T (.fin nz q) b).1 = (convertSat (.fin false (.scaled (pickUnits (inUnits (Q.scale ⟨f, fixOne⟩ q.floor) (max q.floor (-126) - 23))
        (inUnits (Q.scale ⟨(f + 2 ^ 32 : ℕ), fixOne⟩ q.floor) (max q.floor (-126) - 23)) 0 1 (Config.vexp2 b)) (max q.floor (-126) - 23))) 0 1 0).1 := by
  obtain ⟨j, hj, hden⟩ := hf.den
  obtain ⟨hsum, hlt⟩ := realOf_floor_add hf.den_ne
  have hfrac : realOf q - q.floor = ((q.num - q.floor * q.den).toNat : ℝ) / 2 ^ j := by
    rw [hsum, hden]
    push_cast
    ring
  rw [hfrac]
  have hlt' : (q.num - q.floor * q.den).toNat < 2 ^ j := hlt.trans_eq hden
  obtain ⟨h1, h2⟩ := exp2Bits_fraction (F := fixOne) rfl hlt' hj
  have hn : ¬ q.floor ≥ 128 := by omega
  have hn' : ¬ q.floor < -150 := by omega
  have hcond : (q.eq (.ofInt q.floor) && decide (q.floor ≥ -149)) = false := by
    rw [Bool.and_eq_false_iff, decide_eq_false_iff_not, or_iff_not_imp_left, Bool.not_eq_false]
    intro heq
    rw [eq_iff_rat hf.den_ne one_ne_zero, rat_ofInt] at heq
    have := hint (by rw [realOf_eq_rat, heq]; push_cast; rfl)
    omega
  have hlog : q.den.log2 = j := by rw [hden, Nat.log2_two_pow]
  refine ⟨_, h1, h2, ?_⟩
  simp only [exp2T, if_neg hn, if_neg hn', hcond, Bool.false_eq_true, if_false, hlog]

/-- The power is no whole number of units, but at whole exponents above −150. -/
theorem exp2_off_grid (hf : F32 q M K) (hint : realOf q = q.floor → q.floor = -150) (lo : ℕ) :
    (lo : ℝ) * 2 ^ (max q.floor (-126) - 23) ≠ 2 ^ realOf q := by
  intro h
  obtain ⟨j, -, hden⟩ := hf.den
  have hdyadic : realOf q = (q.num : ℝ) * 2 ^ (-(j : ℤ)) := by
    rw [realOf, hden, zpow_neg, zpow_natCast, Nat.cast_pow, Nat.cast_ofNat, div_eq_mul_inv]
  obtain ⟨i, hi⟩ := eq_two_zpow_of_rpow (hdyadic ▸ h.symm)
  have hq : realOf q = i := by
    refine (Real.strictMono_rpow_of_base_gt_one one_lt_two).injective ?_
    change (2 : ℝ) ^ realOf q = 2 ^ (i : ℝ)
    rw [Real.rpow_intCast, ← hi, h]
  have hfl : q.floor = i := by rw [floor_eq, hq, Int.floor_intCast]
  obtain rfl : i = -150 := by rw [← hfl]; exact hint (by rw [hq, hfl])
  have hexp : max q.floor (-126) - 23 = -149 := by omega
  rw [hexp] at hi
  rcases Nat.eq_zero_or_pos lo with rfl | h1
  · norm_num at hi
  · have h1' : (1 : ℝ) ≤ lo := by exact_mod_cast h1
    have : (2 : ℝ) ^ (-150 : ℤ) < 2 ^ (-149 : ℤ) := zpow_lt_zpow_right₀ one_lt_two (by decide)
    have hpos : (0 : ℝ) < 2 ^ (-149 : ℤ) := by positivity
    nlinarith

theorem exp2T_within (h : q.floor < 128) (hf : F32 q M K) : Claims.within 1 (exp2T (.fin nz q) b).1 ((2 : ℝ) ^ realOf q) := by
  by_cases hint : realOf q = q.floor ∧ -149 ≤ q.floor
  · exact exp2T_within_int nz b hf.den_ne h hint.1 hint.2
  by_cases hlow : q.floor < -150
  · exact exp2T_within_tiny nz b hlow
  have hint' : realOf q = q.floor → q.floor = -150 := fun h0 => by
    by_contra h1
    exact hint ⟨h0, by omega⟩
  obtain ⟨f, h1, h2, hT⟩ := exp2T_between nz b h (by omega) hint' hf
  rw [hT]
  have hsplit : (2 : ℝ) ^ realOf q = 2 ^ (realOf q - q.floor) * 2 ^ q.floor := by
    rw [← Real.rpow_intCast, ← Real.rpow_add two_pos, sub_add_cancel]
  have hval (x : ℕ) : realOf (Q.scale ⟨x, fixOne⟩ q.floor) = x / fixOne * 2 ^ q.floor := by
    rw [realOf_scale, realOf, Int.cast_natCast]
  have hF0 : (0 : ℝ) < fixOne := fixOne_pos
  have hgap : (2 : ℝ) ^ 32 / fixOne ≤ 2 ^ (-23 : ℤ) :=
    (two_zpow_div_fixOne 32).le.trans (zpow_le_zpow_right₀ one_le_two (by decide))
  have hr : (0 : ℝ) < 2 ^ realOf q := Real.rpow_pos_of_pos two_pos _
  have hrange := rpow_floor_bounds q
  have hnot := exp2_off_grid hf hint'
  generalize fixOne = F at *
  generalize hk : max q.floor (-126) - 23 = k at *
  generalize q.floor = n at *
  have hn : (0 : ℝ) < 2 ^ n := by positivity
  have hu : (2 : ℝ) ^ n * 2 ^ (-23 : ℤ) ≤ 2 ^ k := by
    rw [← zpow_add₀ two_ne_zero]
    exact zpow_le_zpow_right₀ one_le_two (by omega)
  have hlo : realOf (Q.scale ⟨f, F⟩ n) ≤ 2 ^ realOf q := by
    rw [hval, hsplit]
    gcongr
    exact (div_le_iff₀ hF0).2 h1
  have hhi : 2 ^ realOf q ≤ realOf (Q.scale ⟨(f + 2 ^ 32 : ℕ), F⟩ n) := by
    rw [hval, hsplit]
    gcongr
    rw [le_div_iff₀ hF0]
    exact_mod_cast h2
  have hclose : realOf (Q.scale ⟨(f + 2 ^ 32 : ℕ), F⟩ n) ≤ realOf (Q.scale ⟨f, F⟩ n) + 2 ^ k := by
    rw [hval, hval]
    have hstep : (2 : ℝ) ^ 32 / F * 2 ^ n ≤ 2 ^ k := calc
      (2 : ℝ) ^ 32 / F * 2 ^ n ≤ 2 ^ (-23 : ℤ) * 2 ^ n := by gcongr
      _ ≤ 2 ^ k := (mul_comm _ _).trans_le hu
    rw [Nat.cast_add, Nat.cast_pow, Nat.cast_ofNat, add_div, add_mul]
    gcongr
  have htop : realOf (Q.scale ⟨f, F⟩ n) < 2 ^ (k + 24) :=
    (hlo.trans_lt hrange.2).trans_le (zpow_le_zpow_right₀ one_le_two (by omega))
  have hw := within_pick_between false false (vhi := Q.scale ⟨(f + 2 ^ 32 : ℕ), F⟩ n) (b := 0) (Config.vexp2 b) (by omega : -149 ≤ k)
    (by omega) (by omega) (by
      rcases le_total (-126) n with hle | hle
      · exact .inr (le_trans (zpow_le_zpow_right₀ one_le_two (by omega)) hrange.1)
      · exact .inl (by omega))
    (by rw [hval]; positivity) hlo hhi hclose htop
    (fun h0 => hrange.2.trans_le (zpow_le_zpow_right₀ one_le_two (by omega))) (hnot _)
  simpa using hw

end

end Sys2Proof.Machine
end

section
/-! SUPPORT. The error of vlog2 (O20). -/
namespace Sys2Proof.Machine

/-! ### Binary logarithms near 1 -/

/-- A relative error of at most 4x changes a binary logarithm by at most 16x. -/
theorem abs_logb_le {t x : ℝ} (hx : x ≤ 1 / 8) (ht : |t - 1| ≤ 4 * x) : |Real.logb 2 t| ≤ 16 * x := by
  rw [abs_le] at ht
  have ht0 : 0 < t := by linarith
  have hln := Real.log_two_gt_d9
  have hlow : -(8 * x) ≤ Real.log t := by
    refine le_trans ?_ (Real.one_sub_inv_le_log_of_pos ht0)
    have : t⁻¹ ≤ 1 + 8 * x := by
      rw [inv_le_iff_one_le_mul₀ ht0]
      nlinarith
    linarith
  have hhigh : Real.log t ≤ 8 * x := by linarith [Real.log_le_sub_one_of_pos ht0]
  rw [Real.logb, abs_div, abs_of_pos (by linarith : 0 < Real.log 2), div_le_iff₀ (by linarith)]
  refine (abs_le.2 ⟨hlow, hhigh⟩).trans ?_
  nlinarith

/-- The logarithm of 1 + t is at least t / 2. -/
theorem half_le_logb {t : ℝ} (h0 : 0 ≤ t) (h1 : t ≤ 1) : t / 2 ≤ Real.logb 2 (1 + t) := by
  have hln : Real.log 2 ≤ 1 := by linarith [Real.log_two_lt_d9]
  have hln0 : 0 < Real.log 2 := by linarith [Real.log_two_gt_d9]
  have hlog : t / 2 ≤ Real.log (1 + t) := by
    refine le_trans ?_ (Real.one_sub_inv_le_log_of_pos (by linarith))
    rw [le_sub_iff_add_le, ← le_sub_iff_add_le', inv_le_iff_one_le_mul₀ (by linarith)]
    nlinarith
  rw [Real.logb, le_div_iff₀ hln0]
  nlinarith

/-! ### Bits of a logarithm by squaring (06 R154) -/

section
variable {F : ℕ}

/-- The next number of the squaring, for z = the square rounded, and its bit. -/
def logNext (F u z : ℕ) : ℕ := if 2 * F ≤ z then (z + u) / 2 else z
def logBit (F z : ℕ) : ℕ := if 2 * F ≤ z then 1 else 0

theorem log2Bits_succ (u n y acc : ℕ) : log2Bits u (n + 1) y acc =
    log2Bits u n (logNext fixOne u (y * y / fixOne + u)) (2 * acc + logBit fixOne (y * y / fixOne + u)) := by
  rw [log2Bits, logNext, logBit]
  split <;> rfl

/-- A step keeps the number between F and 2F, rounded down for u = 0 and up for u = 1. -/
theorem logNext_bounds {u y : ℕ} (hF : 1 < F) (hu : u ≤ 1) (h1 : F ≤ y) (h2 : y < 2 * F) :
    F ≤ logNext F u (y * y / F + u) ∧ logNext F u (y * y / F + u) < 2 * F ∧
      (logNext F u (y * y / F + u) : ℝ) - u ≤ (y : ℝ) * y / F / 2 ^ logBit F (y * y / F + u) ∧
      (y : ℝ) * y / F / 2 ^ logBit F (y * y / F + u) ≤ logNext F u (y * y / F + u) + 1 - u := by
  have hF' : (0 : ℝ) < F := by exact_mod_cast (by omega : 0 < F)
  have hge : F ≤ y * y / F := (Nat.le_div_iff_mul_le (by omega)).2 (Nat.mul_le_mul h1 h1)
  have hle : y * y / F < 4 * F - 3 := by
    rw [Nat.div_lt_iff_lt_mul (by omega)]
    zify [(by omega : 3 ≤ 4 * F)]
    nlinarith
  have hlow : ((y * y / F : ℕ) : ℝ) ≤ (y : ℝ) * y / F := by exact_mod_cast Nat.cast_div_le (m := y * y) (n := F) (α := ℝ)
  have hhigh : (y : ℝ) * y / F < ((y * y / F : ℕ) : ℝ) + 1 := by
    rw [div_lt_iff₀ hF']
    exact_mod_cast (Nat.div_lt_iff_lt_mul (by omega)).1 (Nat.lt_succ_self (y * y / F))
  generalize y * y / F = d at hge hle hlow hhigh ⊢
  generalize (y : ℝ) * y / F = x at hlow hhigh ⊢
  unfold logNext logBit
  split
  next hz =>
    obtain ⟨n, hn⟩ : ∃ n, (d + u + u) / 2 = n := ⟨_, rfl⟩
    have hn1 : 2 * n ≤ d + u + u := by omega
    have hn2 : d + u + u ≤ 2 * n + 1 := by omega
    have hn1' : 2 * (n : ℝ) ≤ d + u + u := by exact_mod_cast hn1
    have hn2' : (d : ℝ) + u + u ≤ 2 * n + 1 := by exact_mod_cast hn2
    rw [hn, pow_one]
    refine ⟨by omega, by omega, by linarith, by linarith⟩
  next hz =>
    rw [pow_zero, div_one]
    push_cast
    refine ⟨by omega, by omega, by linarith, by linarith⟩

/-- The logarithm of a step's number is twice the one before but for its bit, up to the error of the rounding. -/
theorem logb_logNext {u y : ℕ} (hF : 8 ≤ F) (hu : u ≤ 1) (h1 : F ≤ y) (h2 : y < 2 * F) :
    2 * Real.logb 2 (y / F) - logBit F (y * y / F + u) - (1 - u) * (16 * (1 / F)) ≤ Real.logb 2 (logNext F u (y * y / F + u) / F) ∧
      Real.logb 2 (logNext F u (y * y / F + u) / F) ≤ 2 * Real.logb 2 (y / F) - logBit F (y * y / F + u) + u * (16 * (1 / F)) := by
  have hF' : (8 : ℝ) ≤ F := by exact_mod_cast hF
  obtain ⟨hb1, hb2, hlow, hhigh⟩ := logNext_bounds (by omega) hu h1 h2
  generalize logNext F u (y * y / F + u) = n at hb1 hb2 hlow hhigh ⊢
  generalize logBit F (y * y / F + u) = c at hlow hhigh ⊢
  have hn : (F : ℝ) ≤ n := by exact_mod_cast hb1
  have hy : (F : ℝ) ≤ y := by exact_mod_cast h1
  have hu' : (u : ℝ) ≤ 1 := by exact_mod_cast hu
  have hu0 : (0 : ℝ) ≤ u := Nat.cast_nonneg u
  have hF0 : (0 : ℝ) < F := by linarith
  have hy0 : (0 : ℝ) < y := by linarith
  have hexact : Real.logb 2 ((y : ℝ) * y / F / 2 ^ c / F) = 2 * Real.logb 2 (y / F) - c := by
    have hsq : (y : ℝ) * y / F / 2 ^ c / F = (y / F) ^ 2 / 2 ^ c := by
      field_simp
    rw [hsq, Real.logb_div (by positivity) (by positivity), Real.logb_pow, Real.logb_pow, Real.logb_self_eq_one one_lt_two]
    push_cast
    ring
  rw [← hexact]
  generalize (y : ℝ) * y / F / 2 ^ c = x at hlow hhigh ⊢
  have hx : (F : ℝ) / 2 ≤ x := by linarith
  have hx0 : 0 < x := by linarith
  have hn0 : (0 : ℝ) < n := by linarith
  have hratio : Real.logb 2 (n / F) = Real.logb 2 (x / F) + Real.logb 2 (n / x) := by
    rw [← Real.logb_mul (by positivity) (by positivity)]
    congr 1
    field_simp
  have hnear : |(n : ℝ) / x - 1| ≤ 4 * (1 / F) := by
    have : (n : ℝ) / x - 1 = (n - x) / x := by field_simp
    rw [this, abs_div, abs_of_pos hx0, div_le_iff₀ hx0, mul_one_div, div_mul_eq_mul_div, le_div_iff₀ hF0]
    have : |(n : ℝ) - x| ≤ 1 := abs_le.2 ⟨by linarith, by linarith⟩
    nlinarith
  have hbound := abs_le.1 (abs_logb_le (by rw [one_div_le_one_div hF0 (by norm_num)]; exact hF') hnear)
  obtain rfl | rfl : u = 0 ∨ u = 1 := by omega
  · have hle : Real.logb 2 (n / x) ≤ 0 := by
      refine (Real.logb_nonpos_iff one_lt_two (by positivity)).2 ((div_le_one hx0).2 ?_)
      simpa using hlow
    rw [hratio]
    push_cast
    constructor <;> linarith
  · have hge : 0 ≤ Real.logb 2 (n / x) := by
      refine Real.logb_nonneg one_lt_two ((one_le_div hx0).2 ?_)
      simpa using hhigh
    rw [hratio]
    push_cast
    constructor <;> linarith

/-- The bits enclose the logarithm: from below for u = 0, from above for u = 1. -/
theorem log2Bits_bounds (hF : F = fixOne) (h8 : 8 ≤ F) {u : ℕ} (hu : u ≤ 1) : ∀ (N y acc : ℕ), F ≤ y → y < 2 * F →
    (log2Bits u N y acc : ℝ) ≤ 2 ^ N * (acc + Real.logb 2 (y / F)) + u * (16 * (1 / F)) * (2 ^ N - 1) ∧
      2 ^ N * (acc + Real.logb 2 (y / F)) < log2Bits u N y acc + 1 + (1 - u) * (16 * (1 / F)) * (2 ^ N - 1) := by
  intro N
  induction N with
  | zero =>
    intro y acc h1 h2
    clear hF
    have hF0 : (0 : ℝ) < F := by exact_mod_cast (by omega : 0 < F)
    have h1' : 1 ≤ (y : ℝ) / F := by rw [one_le_div hF0]; exact_mod_cast h1
    have h2' : (y : ℝ) / F < 2 := by rw [div_lt_iff₀ hF0]; exact_mod_cast h2
    have hlow := Real.logb_nonneg one_lt_two h1'
    have hhigh := Real.logb_lt_logb one_lt_two (by linarith) h2'
    rw [Real.logb_self_eq_one one_lt_two] at hhigh
    rw [log2Bits, pow_zero, sub_self, mul_zero, mul_zero, one_mul]
    constructor <;> linarith
  | succ N ih =>
    intro y acc h1 h2
    rw [log2Bits_succ, ← hF]
    clear hF
    obtain ⟨hb1, hb2, -, -⟩ := logNext_bounds (by omega) hu h1 h2
    obtain ⟨hl1, hl2⟩ := logb_logNext h8 hu h1 h2
    obtain ⟨ih1, ih2⟩ := ih _ (2 * acc + logBit F (y * y / F + u)) hb1 hb2
    push_cast at ih1 ih2
    have hp : (0 : ℝ) < 2 ^ N := by positivity
    rw [pow_succ]
    generalize log2Bits u N _ _ = R at ih1 ih2 ⊢
    generalize Real.logb 2 (logNext F u (y * y / F + u) / F) = l' at *
    generalize (logBit F (y * y / F + u) : ℝ) = c at *
    generalize Real.logb 2 ((y : ℝ) / F) = l at *
    generalize 16 * (1 / (F : ℝ)) = η at *
    generalize (2 : ℝ) ^ N = p at *
    constructor <;> nlinarith

end

/-- Two hundred bits of a logarithm enclose it within three units of the last. -/
theorem log2Bits_enclose {y : ℕ} (h1 : fixOne ≤ y) (h2 : y < 2 * fixOne) :
    (log2Bits 0 200 y 0 : ℝ) / 2 ^ 200 ≤ Real.logb 2 (y / fixOne) ∧
      Real.logb 2 (y / fixOne) ≤ ((log2Bits 1 200 y 0 + 1 : ℕ) : ℝ) / 2 ^ 200 ∧
      ((log2Bits 1 200 y 0 + 1 : ℕ) : ℝ) / 2 ^ 200 ≤ (log2Bits 0 200 y 0 : ℝ) / 2 ^ 200 + 3 / 2 ^ 200 := by
  have hsmall : (1 : ℝ) / fixOne ≤ 1 / 2 ^ 210 := by
    rw [fixOne_eq]
    exact one_div_le_one_div_of_le (by positivity) (pow_le_pow_right₀ one_le_two (by decide))
  have hpos := fixOne_pos
  obtain ⟨F, hF⟩ : ∃ F, F = fixOne := ⟨_, rfl⟩
  have h8 : 8 ≤ F := by
    obtain ⟨e, he, hpow⟩ : ∃ e, e = 640 ∧ fixOne = 2 ^ e := ⟨640, rfl, by rw [fixOne]⟩
    rw [hF, hpow]
    exact Nat.pow_le_pow_right two_pos (by omega : 3 ≤ e)
  obtain ⟨hl1, hl2⟩ := log2Bits_bounds hF h8 zero_le_one 200 y 0 (hF ▸ h1) (hF ▸ h2)
  obtain ⟨hh1, hh2⟩ := log2Bits_bounds hF h8 le_rfl 200 y 0 (hF ▸ h1) (hF ▸ h2)
  rw [← hF] at hsmall hpos ⊢
  clear hF h1 h2
  have hη : (0 : ℝ) ≤ 1 / F := by positivity
  push_cast at hl1 hl2 hh1 hh2 ⊢
  generalize (log2Bits 0 200 y 0 : ℝ) = R0 at *
  generalize (log2Bits 1 200 y 0 : ℝ) = R1 at *
  generalize Real.logb 2 ((y : ℝ) / F) = l at *
  generalize (1 : ℝ) / F = η at *
  have hp : (0 : ℝ) < 2 ^ 200 := by positivity
  have hη' : 16 * η * (2 ^ 200 - 1) ≤ 1 / 4 := by
    have h1 : (2 : ℝ) ^ 210 = 2 ^ 10 * 2 ^ 200 := by rw [← pow_add]
    rw [h1, le_div_iff₀ (by positivity)] at hsmall
    nlinarith
  rw [div_le_iff₀ hp, le_div_iff₀ hp, ← add_div, div_le_div_iff_of_pos_right hp]
  refine ⟨by linarith, by linarith, by linarith⟩

/-! ### Sums of exact values -/

theorem realOf_add {a b : Q} (ha : a.den ≠ 0) (hb : b.den ≠ 0) : realOf (a.add b) = realOf a + realOf b ∧ (a.add b).den ≠ 0 := by
  have ha' : (a.den : ℝ) ≠ 0 := by exact_mod_cast ha
  have hb' : (b.den : ℝ) ≠ 0 := by exact_mod_cast hb
  unfold realOf Q.add
  split
  next h =>
    refine ⟨?_, ha⟩
    rw [h]
    push_cast
    rw [add_div]
  next h =>
    refine ⟨?_, Nat.mul_ne_zero ha hb⟩
    push_cast
    field_simp

theorem realOf_sub {a b : Q} (ha : a.den ≠ 0) (hb : b.den ≠ 0) : realOf (a.sub b) = realOf a - realOf b := by
  have hneg : realOf b.neg = -realOf b := by
    rw [realOf, realOf, Q.neg]
    push_cast
    exact neg_div _ _
  rw [Q.sub, (realOf_add (b := b.neg) ha hb).1, hneg, sub_eq_add_neg]

theorem realOf_ofInt (n : Int) : realOf (.ofInt n) = n := by simp [realOf, Q.ofInt]

/-- A value compared with a power of two. -/
theorem eq_pow2_iff {q : Q} (hd : q.den ≠ 0) (e : Int) : q.eq (.scaled 1 e) = true ↔ realOf q = 2 ^ e := by
  rw [eq_iff_rat hd (scaled_den_ne _ _), rat_scaled, Int.cast_one, one_mul, realOf_eq_rat, ← Rat.cast_inj (α := ℝ), Rat.cast_zpow, Rat.cast_ofNat]

theorem lt_iff_realOf {a b : Q} (ha : a.den ≠ 0) (hb : b.den ≠ 0) : a.lt b = true ↔ realOf a < realOf b := by
  rw [lt_iff_rat ha hb, realOf_eq_rat, realOf_eq_rat, Rat.cast_lt]

/-! ### vlog2 (06 R154) -/

section
variable {q : Q} {M : Nat} {K e : Int} (nz : Bool) (b : BitVec 32)

theorem F32.eq_of_pos (hf : F32 q M K) (h0 : 0 < realOf q) : realOf q = M * 2 ^ K := by rw [← hf.abs, abs_of_pos h0]

/-- The units are at least those of 24 bits in the binade. -/
theorem F32.unit_ge (hf : F32 q M K) (h0 : 0 < realOf q) (h1 : (2 : ℝ) ^ e ≤ realOf q) : e - 23 ≤ K := by
  have hlt : realOf q < 2 ^ (24 + K) := by
    rw [hf.eq_of_pos h0, zpow_add₀ two_ne_zero]
    gcongr
    exact_mod_cast hf.lt
  have := (zpow_lt_zpow_iff_right₀ (one_lt_two (α := ℝ))).1 (h1.trans_lt hlt)
  omega

/-- A value that is no power of two, in its binade: its significand of 24 bits. -/
theorem F32.significand (hf : F32 q M K) (h0 : 0 < realOf q) (h1 : (2 : ℝ) ^ e ≤ realOf q) (h2 : realOf q < 2 ^ (e + 1)) (hne : realOf q ≠ 2 ^ e) :
    ∃ A : ℕ, 2 ^ 23 < A ∧ A < 2 ^ 24 ∧ realOf q = A * 2 ^ (e - 23) := by
  have hval := hf.eq_of_pos h0
  have hK := hf.unit_ge h0 h1
  obtain ⟨j, hj⟩ : ∃ j : ℕ, K = e - 23 + j := ⟨(K - (e - 23)).toNat, by omega⟩
  have hA : realOf q = ((M * 2 ^ j : ℕ) : ℝ) * 2 ^ (e - 23) := by
    rw [hval, hj, zpow_add₀ two_ne_zero, zpow_natCast]
    push_cast
    ring
  have hu : (0 : ℝ) < 2 ^ (e - 23) := by positivity
  have he : (2 : ℝ) ^ e = (2 ^ 23 : ℕ) * 2 ^ (e - 23) := by
    rw [Nat.cast_pow, Nat.cast_ofNat, ← zpow_natCast, ← zpow_add₀ two_ne_zero]
    congr 1
    push_cast
    ring
  have he' : (2 : ℝ) ^ (e + 1) = (2 ^ 24 : ℕ) * 2 ^ (e - 23) := by
    rw [Nat.cast_pow, Nat.cast_ofNat, ← zpow_natCast, ← zpow_add₀ two_ne_zero]
    congr 1
    push_cast
    ring
  refine ⟨_, ?_, ?_, hA⟩
  · have hlt := lt_of_le_of_ne h1 (Ne.symm hne)
    rw [hA, he] at hlt
    exact_mod_cast lt_of_mul_lt_mul_right hlt hu.le
  · rw [hA, he'] at h2
    exact_mod_cast lt_of_mul_lt_mul_right h2 hu.le

/-- A number of 24 bits, in fixed point exact. -/
theorem inUnits_fixOne {x : Q} {A : ℕ} (h : realOf x = A * 2 ^ (-23 : ℤ)) : (inUnits x (-640) : ℝ) / fixOne = A * 2 ^ (-23 : ℤ) := by
  obtain ⟨t, ht⟩ : ∃ t : ℕ, t = 617 := ⟨_, rfl⟩
  have hx : realOf x = (A * 2 ^ t : ℕ) * 2 ^ (-640 : ℤ) := by
    rw [h, Nat.cast_mul, Nat.cast_pow, Nat.cast_ofNat, mul_assoc, ← zpow_natCast, ← zpow_add₀ two_ne_zero]
    congr 2
    omega
  rw [inUnits_exact hx, Nat.cast_mul, Nat.cast_pow, Nat.cast_ofNat, mul_div_assoc, ← zpow_natCast, two_zpow_div_fixOne]
  congr 2
  omega

/-- What `vlog2` encloses the fraction of the logarithm in. -/
theorem log2_fraction (hf : F32 q M K) (h0 : 0 < realOf q) (h1 : (2 : ℝ) ^ e ≤ realOf q) (h2 : realOf q < 2 ^ (e + 1)) (hne : realOf q ≠ 2 ^ e) :
    ∃ L : ℝ, Real.logb 2 (realOf q) = e + L ∧ 1 / 2 ^ 25 ≤ L ∧ L ≤ 1 - 1 / 2 ^ 25 ∧
      realOf ⟨log2Bits 0 200 (inUnits (q.scale (-e)) (-640)) 0, 2 ^ 200⟩ ≤ L ∧
      L ≤ realOf ⟨log2Bits 1 200 (inUnits (q.scale (-e)) (-640)) 0 + 1, 2 ^ 200⟩ ∧
      realOf ⟨log2Bits 1 200 (inUnits (q.scale (-e)) (-640)) 0 + 1, 2 ^ 200⟩ ≤
        realOf ⟨log2Bits 0 200 (inUnits (q.scale (-e)) (-640)) 0, 2 ^ 200⟩ + 3 / 2 ^ 200 := by
  obtain ⟨A, hA1, hA2, hA⟩ := hf.significand h0 h1 h2 hne
  have hscale : realOf (q.scale (-e)) = A * 2 ^ (-23 : ℤ) := by
    rw [realOf_scale, hA, mul_assoc, ← zpow_add₀ two_ne_zero]
    congr 2
    ring
  have hA1' : (2 : ℝ) ^ 23 + 1 ≤ A := by exact_mod_cast hA1
  have hA2' : (A : ℝ) + 1 ≤ 2 ^ 24 := by exact_mod_cast hA2
  have hy := inUnits_fixOne hscale
  have hu : (2 : ℝ) ^ (-23 : ℤ) = 1 / 2 ^ 23 := by norm_num
  rw [hu, mul_one_div] at hy
  have hF0 := fixOne_pos
  have hlow : fixOne ≤ inUnits (q.scale (-e)) (-640) := by
    have : 1 ≤ (inUnits (q.scale (-e)) (-640) : ℝ) / fixOne := by
      rw [hy, one_le_div (by positivity)]
      linarith
    rw [one_le_div hF0] at this
    exact_mod_cast this
  have hhigh : inUnits (q.scale (-e)) (-640) < 2 * fixOne := by
    have : (inUnits (q.scale (-e)) (-640) : ℝ) / fixOne < 2 := by
      rw [hy, div_lt_iff₀ (by positivity)]
      linarith
    rw [div_lt_iff₀ hF0] at this
    exact_mod_cast this
  obtain ⟨he1, he2, he3⟩ := log2Bits_enclose hlow hhigh
  rw [hy] at he1 he2
  generalize log2Bits 0 200 _ 0 = R0 at *
  generalize log2Bits 1 200 _ 0 = R1 at *
  have hA0 : (0 : ℝ) < A := by linarith
  have hv0 : realOf ⟨R0, 2 ^ 200⟩ = (R0 : ℝ) / 2 ^ 200 := by rw [realOf, Int.cast_natCast, Nat.cast_pow, Nat.cast_ofNat]
  have hv1 : realOf ⟨R1 + 1, 2 ^ 200⟩ = ((R1 + 1 : ℕ) : ℝ) / 2 ^ 200 := by
    rw [realOf, Int.cast_add, Int.cast_natCast, Int.cast_one, Nat.cast_add, Nat.cast_one, Nat.cast_pow, Nat.cast_ofNat]
  have hfrac : (A : ℝ) / 2 ^ 23 = 1 + (A - 2 ^ 23) / 2 ^ 23 := by field_simp; ring
  have hcomp : (2 : ℝ) = A / 2 ^ 23 * (1 + (2 ^ 24 - A) / A) := by field_simp; ring
  have hinv : (1 : ℝ) / 2 ^ 24 ≤ (2 ^ 24 - A) / A := by
    rw [div_le_div_iff₀ (by positivity) hA0]
    linarith
  have hinv' : (2 ^ 24 - A) / A ≤ (1 : ℝ) := by
    rw [div_le_one hA0]
    linarith
  have hlogc : Real.logb 2 (A / 2 ^ 23) + Real.logb 2 (1 + (2 ^ 24 - A) / A) = 1 := by
    rw [← Real.logb_mul (by positivity) (by linarith), ← hcomp, Real.logb_self_eq_one one_lt_two]
  have hb1 := half_le_logb (t := (A - 2 ^ 23) / 2 ^ 23) (div_nonneg (by linarith) (by positivity)) (by rw [div_le_one (by positivity)]; linarith)
  have hb2 := half_le_logb (t := (2 ^ 24 - A) / A) (by linarith) hinv'
  rw [← hfrac] at hb1
  refine ⟨Real.logb 2 (A / 2 ^ 23), ?_, ?_, ?_, hv0.trans_le he1, he2.trans_eq hv1.symm, by rwa [hv0, hv1]⟩
  · have hsplit : realOf q = A / 2 ^ 23 * 2 ^ e := by
      rw [hA, zpow_sub₀ two_ne_zero]
      norm_num
      ring
    rw [hsplit, Real.logb_mul (by positivity) (by positivity), ← Real.rpow_intCast, Real.logb_rpow two_pos (by norm_num), add_comm]
  · refine le_trans ?_ hb1
    rw [div_div, div_le_div_iff₀ (by positivity) (by positivity)]
    linarith
  · linarith

/-- The choice of `vlog2` between two close bounds of a logarithm off the grid. -/
theorem log2_pick (neg : Bool) {lo hi : Q} {r : ℝ} (c : ℕ) (h0 : 0 < realOf lo) (hlo : realOf lo ≤ r) (hhi : r ≤ realOf hi)
    (hclose : realOf hi ≤ realOf lo + 3 / 2 ^ 200) (hr : r < 256) (hne : ∀ (N : ℕ) (k : ℤ), (N : ℝ) * 2 ^ k ≠ r) :
    Claims.within 1 (convertSat (.fin false (.scaled (if neg then -pickUnits (inUnits lo (gridExp lo)) (inUnits hi (gridExp lo)) 0 1 c
      else pickUnits (inUnits lo (gridExp lo)) (inUnits hi (gridExp lo)) 0 1 c) (gridExp lo))) 0 1 0).1 (if neg then -r else r) := by
  obtain ⟨h1, h2, h3⟩ := gridExp_bounds h0
  have hk : gridExp lo ≤ 103 := by
    rcases h2 with h2 | h2
    · omega
    · have := (zpow_lt_zpow_iff_right₀ (one_lt_two (α := ℝ))).1 ((h2.trans hlo).trans_lt (hr.trans_eq (by norm_num : (256 : ℝ) = 2 ^ (8 : ℤ))))
      omega
  have hunit : (3 : ℝ) / 2 ^ 200 ≤ 2 ^ gridExp lo := by
    refine le_trans ?_ (zpow_le_zpow_right₀ one_le_two h1)
    norm_num
  have h := within_pick_between false neg (vhi := hi) (b := 0) c h1 (by omega) (by omega) (h2.imp_right (·.trans hlo)) h0.le hlo hhi
    (hclose.trans (by linarith)) h3 (by omega) (hne _ _)
  simpa using h

/-- `vlog2` at a power of two. -/
theorem log2T_within_pow2 (hf : F32 q M K) (h : 0 < q.num) (he : floorLog2 q.num.natAbs q.den = e) (heq : realOf q = 2 ^ e) :
    Claims.within 1 (log2T (.fin nz q) b).1 (Real.logb 2 (realOf q)) := by
  have hq := (realOf_pos hf.den_ne).2 h
  have hbnd := hf.bounds hq.ne'
  rw [abs_of_pos hq, heq] at hbnd
  have he1 := (zpow_le_zpow_iff_right₀ (one_lt_two (α := ℝ))).1 hbnd.1
  have he2 := (zpow_lt_zpow_iff_right₀ (one_lt_two (α := ℝ))).1 hbnd.2
  have heq' := (eq_pow2_iff hf.den_ne e).2 heq
  have hT : (log2T (.fin nz q) b).1 = (convertSat (.ofInt e) 0 0 0).1 := by
    simp only [log2T, if_neg h.ne', if_neg h.not_gt, he, heq', if_true]
  obtain ⟨p, hv, -, hp⟩ := convertSat_f32_int (n := e) (abs_lt.2 ⟨by omega, by omega⟩)
  rw [hT, heq, ← Real.rpow_intCast, Real.logb_rpow two_pos (by norm_num)]
  refine within_exact one_pos hv ?_
  rw [realOf_eq_rat, hp]
  push_cast
  rfl

/-- The logarithm of a value off the powers of two is not dyadic. -/
theorem logb_ne_dyadic (hf : F32 q M K) (h0 : 0 < realOf q) (h1 : (2 : ℝ) ^ e ≤ realOf q) (h2 : realOf q < 2 ^ (e + 1)) (hne : realOf q ≠ 2 ^ e)
    (B k : ℤ) : (B : ℝ) * 2 ^ k ≠ Real.logb 2 (realOf q) := by
  intro h
  have hval := hf.eq_of_pos h0
  have hpow : (2 : ℝ) ^ ((B : ℝ) * 2 ^ k) = M * 2 ^ K := by
    rw [h, Real.rpow_logb two_pos (by norm_num) h0, hval]
  obtain ⟨i, hi⟩ := eq_two_zpow_of_rpow hpow
  rw [hval, hi] at h1 h2 hne
  have h1' := (zpow_le_zpow_iff_right₀ (one_lt_two (α := ℝ))).1 h1
  have h2' := (zpow_lt_zpow_iff_right₀ (one_lt_two (α := ℝ))).1 h2
  exact hne (by rw [(by omega : i = e)])

theorem log2T_within (hf : F32 q M K) (h : 0 < q.num) : Claims.within 1 (log2T (.fin nz q) b).1 (Real.logb 2 (realOf q)) := by
  have hq := (realOf_pos hf.den_ne).2 h
  obtain ⟨h1, h2⟩ := floorLog2_realOf hq
  obtain ⟨e, he⟩ : ∃ e, floorLog2 q.num.natAbs q.den = e := ⟨_, rfl⟩
  rw [he] at h1 h2
  by_cases heq : realOf q = 2 ^ e
  · exact log2T_within_pow2 nz b hf h he heq
  have hbnd := hf.bounds hq.ne'
  rw [abs_of_pos hq] at hbnd
  have he1 := (zpow_lt_zpow_iff_right₀ (one_lt_two (α := ℝ))).1 (hbnd.1.trans_lt h2)
  have he2 := (zpow_lt_zpow_iff_right₀ (one_lt_two (α := ℝ))).1 (h1.trans_lt hbnd.2)
  have heq' := mt (eq_pow2_iff hf.den_ne e).1 heq
  obtain ⟨L, hL, hL1, hL2, hf0, hf1, hgap⟩ := log2_fraction hf hq h1 h2 heq
  have hdyadic := logb_ne_dyadic hf hq h1 h2 heq
  have hT : (log2T (.fin nz q) b).1 = (let y := inUnits (q.scale (-e)) (-640)
      let f0 : Q := ⟨log2Bits 0 200 y 0, 2 ^ 200⟩
      let f1 : Q := ⟨log2Bits 1 200 y 0 + 1, 2 ^ 200⟩
      let lo := if e < 0 then (Q.ofInt (-e)).sub f1 else (Q.ofInt e).add f0
      let hi := if e < 0 then (Q.ofInt (-e)).sub f0 else (Q.ofInt e).add f1
      let m := pickUnits (inUnits lo (gridExp lo)) (inUnits hi (gridExp lo)) 0 1 (Config.vlog2 b)
      (convertSat (.fin false (.scaled (if e < 0 then -m else m) (gridExp lo))) 0 1 0).1) := by
    simp only [log2T, if_neg h.ne', if_neg h.not_gt, he, if_neg heq']
  rw [hT, hL]
  rw [hL] at hdyadic
  dsimp only
  generalize hF0 : Q.mk (log2Bits 0 200 _ 0) _ = f0 at hf0 hgap ⊢
  generalize hF1 : Q.mk (log2Bits 1 200 _ 0 + 1) _ = f1 at hf1 hgap ⊢
  have hd0 : f0.den ≠ 0 := by rw [← hF0]; positivity
  have hd1 : f1.den ≠ 0 := by rw [← hF1]; positivity
  clear hF0 hF1 hT
  have htiny : (3 : ℝ) / 2 ^ 200 < 1 / 2 ^ 25 := by norm_num
  have hup : (e : ℝ) ≤ 127 := by exact_mod_cast (by omega : e ≤ 127)
  have hdown : (-150 : ℝ) ≤ e := by exact_mod_cast (by omega : -150 ≤ e)
  by_cases hneg : e < 0
  · have hneg' : (e : ℝ) ≤ -1 := by exact_mod_cast (by omega : e ≤ -1)
    have hlo : realOf ((Q.ofInt (-e)).sub f1) = -e - realOf f1 := by rw [realOf_sub one_ne_zero hd1, realOf_ofInt, Int.cast_neg]
    have hhi : realOf ((Q.ofInt (-e)).sub f0) = -e - realOf f0 := by rw [realOf_sub one_ne_zero hd0, realOf_ofInt, Int.cast_neg]
    have hp := log2_pick true (lo := (Q.ofInt (-e)).sub f1) (hi := (Q.ofInt (-e)).sub f0) (r := -(e + L)) (Config.vlog2 b) (by linarith)
      (by linarith) (by linarith) (by linarith) (by linarith) (fun N k h => hdyadic (-N) k (by push_cast; linarith))
    simpa only [if_pos hneg, if_true, neg_neg] using hp
  · have hneg' : (0 : ℝ) ≤ e := by exact_mod_cast not_lt.1 hneg
    have hlo : realOf ((Q.ofInt e).add f0) = e + realOf f0 := by rw [(realOf_add one_ne_zero hd0).1, realOf_ofInt]
    have hhi : realOf ((Q.ofInt e).add f1) = e + realOf f1 := by rw [(realOf_add one_ne_zero hd1).1, realOf_ofInt]
    have hp := log2_pick false (lo := (Q.ofInt e).add f0) (hi := (Q.ofInt e).add f1) (r := e + L) (Config.vlog2 b) (by linarith)
      (by linarith) (by linarith) (by linarith) (by linarith) (fun N k => hdyadic N k)
    simpa only [if_neg hneg, Bool.false_eq_true, if_false] using hp

end

end Sys2Proof.Machine
end

section
/-! SUPPORT. The error of vtanh (O20). -/
namespace Sys2Proof.Machine

/-! ### The hyperbolic tangent of small and of large values -/

theorem tanh_lt_self {a : ℝ} (h : 0 < a) : Real.tanh a < a := by
  obtain ⟨c, ⟨hc0, hc⟩, hslope⟩ := exists_deriv_eq_slope Real.sinh h Real.continuous_sinh.continuousOn Real.differentiable_sinh.differentiableOn
  rw [Real.deriv_sinh, Real.sinh_zero, sub_zero, sub_zero, eq_div_iff h.ne'] at hslope
  have hcosh : Real.cosh c < Real.cosh a := Real.cosh_lt_cosh.2 (by rwa [abs_of_pos hc0, abs_of_pos h])
  rw [Real.tanh_eq_sinh_div_cosh, div_lt_iff₀ (Real.cosh_pos a)]
  nlinarith

theorem sub_tanh_lt {a : ℝ} (h : 0 < a) : a - Real.tanh a < a ^ 3 := by
  have hsinh := Real.self_lt_sinh_iff.2 h
  have hcosh : (1 - a ^ 2) * Real.cosh a ≤ 1 := by
    rcases le_or_gt (1 - a ^ 2) 0 with h0 | h0
    · nlinarith [Real.cosh_pos a]
    calc (1 - a ^ 2) * Real.cosh a ≤ Real.exp (-a ^ 2) * Real.exp (a ^ 2 / 2) :=
          mul_le_mul (Real.one_sub_le_exp_neg _) (Real.cosh_le_exp_half_sq a) (Real.cosh_pos a).le (Real.exp_pos _).le
      _ = Real.exp (-(a ^ 2 / 2)) := by rw [← Real.exp_add]; ring_nf
      _ ≤ 1 := Real.exp_le_one_iff.2 (by linarith [sq_nonneg a])
  rw [sub_lt_comm, Real.tanh_eq_sinh_div_cosh, lt_div_iff₀ (Real.cosh_pos a)]
  nlinarith

/-- The tangent as a quotient that grows with e^(2a). -/
theorem tanh_eq_div (a : ℝ) : Real.tanh a = (Real.exp (2 * a) - 1) / (Real.exp (2 * a) + 1) := by
  have h : Real.exp (2 * a) = Real.exp a * Real.exp a := by rw [two_mul, Real.exp_add]
  have hi : Real.exp (-a) * Real.exp a = 1 := by rw [← Real.exp_add, neg_add_cancel, Real.exp_zero]
  have hp := Real.exp_pos a
  have hn := Real.exp_pos (-a)
  rw [Real.tanh_eq, h, div_eq_div_iff (by positivity) (by positivity)]
  linear_combination (-2 * Real.exp a) * hi

/-! ### e^(2a) in fixed point (06 R154) -/

section
variable {F : ℕ}

/-- The terms from term i on, each less than two units below its exact value. -/
theorem expTerms_bounds (hF : F = fixOne) {r : ℕ} {ρ : ℝ} (hr : (r : ℝ) = ρ * F) (hρ : ρ ≤ 1 / 2) :
    ∀ (n i t : ℕ), (t : ℝ) ≤ F * (ρ ^ i / i.factorial) → F * (ρ ^ i / i.factorial) ≤ t + 2 →
      (expTerms r n i t : ℝ) ≤ F * ∑ m ∈ Finset.Ico i (i + n), ρ ^ m / m.factorial ∧
        F * ∑ m ∈ Finset.Ico i (i + n), ρ ^ m / m.factorial ≤ expTerms r n i t + 2 * n := by
  intro n
  induction n with
  | zero => intro i t _ _; simp [expTerms]
  | succ n ih =>
    intro i t h1 h2
    have hF0 : 0 < F := by rw [hF, fixOne]; positivity
    rw [expTerms, ← hF, Nat.div_div_eq_div_mul]
    clear hF
    have hF' : (0 : ℝ) < F := by exact_mod_cast hF0
    have hρ0 : 0 ≤ ρ := by
      by_contra h
      nlinarith [Nat.cast_nonneg (α := ℝ) r]
    have hi : (1 : ℝ) ≤ i + 1 := by linarith [Nat.cast_nonneg (α := ℝ) i]
    have hexact : ((t * r : ℕ) : ℝ) / (F * (i + 1) : ℕ) = t * ρ / (i + 1) := by
      push_cast
      rw [hr]
      field_simp
    have hterm : F * (ρ ^ (i + 1) / (i + 1).factorial) = F * (ρ ^ i / i.factorial) * ρ / (i + 1) := by
      rw [Nat.factorial_succ, pow_succ]
      push_cast
      field_simp
    have hlow : ((t * r / (F * (i + 1)) : ℕ) : ℝ) ≤ t * ρ / (i + 1) := Nat.cast_div_le.trans_eq hexact
    have hhigh : t * ρ / (i + 1) ≤ ((t * r / (F * (i + 1)) : ℕ) : ℝ) + 1 := by
      rw [← hexact, div_le_iff₀ (by positivity)]
      exact_mod_cast ((Nat.div_lt_iff_lt_mul (by positivity)).1 (Nat.lt_succ_self (t * r / (F * (i + 1))))).le
    obtain ⟨ih1, ih2⟩ := ih (i + 1) (t * r / (F * (i + 1)))
      (hlow.trans (by rw [hterm]; gcongr))
      (by
        rw [hterm]
        calc F * (ρ ^ i / i.factorial) * ρ / (i + 1) ≤ (t + 2) * ρ / (i + 1) := by gcongr
          _ = t * ρ / (i + 1) + 2 * ρ / (i + 1) := by ring
          _ ≤ t * ρ / (i + 1) + 1 := by
              gcongr
              rw [div_le_one (by linarith)]
              linarith
          _ ≤ _ := by linarith)
    rw [Finset.sum_eq_sum_Ico_succ_bot (by omega), mul_add (F : ℝ), (by omega : i + (n + 1) = i + 1 + n)]
    generalize expTerms r n (i + 1) _ = R at ih1 ih2 ⊢
    push_cast
    constructor <;> linarith

/-- Sixty terms give the exponential of a small value but for 2^32 units. -/
theorem expTerms_exp (hF : F = fixOne) {r : ℕ} {ρ : ℝ} (hr : (r : ℝ) = ρ * F) (h0 : 0 < ρ) (hρ : ρ ≤ 1 / 50) :
    (expTerms r 60 0 F : ℝ) < Real.exp ρ * F ∧ Real.exp ρ * F ≤ expTerms r 60 0 F + 2 ^ 32 := by
  obtain ⟨h1, h2⟩ := expTerms_bounds hF hr (by linarith) 60 0 F (by simp) (by simp)
  have hF0 : (0 : ℝ) < F := hF ▸ fixOne_pos
  have hunit : (F : ℝ) * (1 / (2 ^ 209 * 2 ^ 200 * 2 ^ 200)) = 2 ^ 31 := by
    rw [hF, fixOne_eq, ← pow_add, ← pow_add, (by omega : 640 = 31 + (209 + 200 + 200)), pow_add, mul_one_div]
    exact mul_div_cancel_right₀ _ (by positivity)
  clear hF
  have htail : ρ ^ 60 * ((60 : ℕ) + 1) / ((Nat.factorial 60 : ℕ) * (60 : ℕ)) ≤ 1 / (2 ^ 209 * 2 ^ 200 * 2 ^ 200) := calc
    _ ≤ (1 / 50 : ℝ) ^ 60 * ((60 : ℕ) + 1) / ((Nat.factorial 60 : ℕ) * (60 : ℕ)) := by gcongr
    _ ≤ _ := by norm_num [Nat.factorial]
  have hlow := Real.sum_le_exp_of_nonneg h0.le 61
  have hhigh := Real.exp_bound' h0.le (by linarith) (n := 60) (by omega)
  rw [zero_add, ← Finset.range_eq_Ico] at h1 h2
  rw [Finset.sum_range_succ] at hlow
  have hterm : 0 < ρ ^ 60 / (Nat.factorial 60 : ℕ) := by positivity
  generalize ∑ m ∈ Finset.range 60, ρ ^ m / (m.factorial : ℝ) = S at *
  generalize expTerms r 60 0 F = X at *
  generalize ρ ^ 60 * ((60 : ℕ) + 1) / ((Nat.factorial 60 : ℕ) * (60 : ℕ)) = τ at *
  have hF1 := mul_lt_mul_of_pos_left (lt_add_of_pos_right S hterm) hF0
  have hF2 := mul_le_mul_of_nonneg_left hlow hF0.le
  have hF3 := mul_le_mul_of_nonneg_left hhigh hF0.le
  have hF4 := (mul_le_mul_of_nonneg_left htail hF0.le).trans_eq hunit
  rw [mul_comm]
  push_cast at h2
  constructor <;> linarith

/-! ### Powers by squaring -/

/-- Squaring keeps a relative error below an exact power, with 1 + 1/F for each product. -/
theorem squares_bounds (hF : F = fixOne) (hF0 : (0 : ℝ) < F) : ∀ (n x : ℕ) (E c : ℝ), F ≤ x → (x : ℝ) < E * F → E * F ≤ x * c → 0 ≤ c →
    F ≤ squares n x ∧ (squares n x : ℝ) < E ^ 2 ^ n * F ∧ E ^ 2 ^ n * F ≤ squares n x * (c ^ 2 ^ n * (1 + 1 / F) ^ (2 ^ n - 1)) := by
  intro n
  induction n with
  | zero =>
    intro x E c h0 h1 h2 _
    simpa [squares] using ⟨h0, h1, h2⟩
  | succ n ih =>
    intro x E c h0 h1 h2 hc
    rw [squares, ← hF]
    clear hF
    have hF' : 0 < F := by exact_mod_cast hF0
    have hge : F ≤ x * x / F := (Nat.le_div_iff_mul_le hF').2 (Nat.mul_le_mul h0 h0)
    have hlow : ((x * x / F : ℕ) : ℝ) * F ≤ x * x := by exact_mod_cast Nat.div_mul_le_self (x * x) F
    have hhigh : (x : ℝ) * x ≤ ((x * x / F : ℕ) + 1) * F := by
      exact_mod_cast ((Nat.div_lt_iff_lt_mul hF').1 (Nat.lt_succ_self (x * x / F))).le
    have hx : (F : ℝ) ≤ x := by exact_mod_cast h0
    have hge' : (F : ℝ) ≤ (x * x / F : ℕ) := by exact_mod_cast hge
    generalize x * x / F = z at *
    have hEF : 0 < E * F := by linarith
    have hnext := ih z (E ^ 2) (c ^ 2 * (1 + 1 / F)) hge ?_ ?_ (by positivity)
    · have hexp : 2 ^ (n + 1) - 1 = 2 ^ n + (2 ^ n - 1) := by
        have := Nat.two_pow_pos n
        omega
      rw [hexp, pow_add _ (2 ^ n), pow_succ' 2 n, pow_mul, pow_mul, ← mul_assoc (_ ^ _), ← mul_pow (c ^ 2)]
      exact hnext
    · refine lt_of_mul_lt_mul_right ?_ hF0.le
      calc (z : ℝ) * F ≤ x * x := hlow
        _ < (E * F) * (E * F) := by nlinarith
        _ = _ := by ring
    · refine le_of_mul_le_mul_right ?_ hF0
      have hz : 1 ≤ z * (1 / F : ℝ) := by
        rw [mul_one_div, le_div_iff₀ hF0]
        linarith
      calc E ^ 2 * F * F = (E * F) * (E * F) := by ring
        _ ≤ (x * c) * (x * c) := mul_le_mul h2 h2 hEF.le (by positivity)
        _ = (x * x) * c ^ 2 := by ring
        _ ≤ ((z + 1) * F) * c ^ 2 := by gcongr
        _ ≤ ((z + z * (1 / F)) * F) * c ^ 2 := by gcongr
        _ = _ := by ring

theorem exp_two_mul_le {a : ℝ} (h : a ≤ 19 / 2) : Real.exp (2 * a) ≤ 2 ^ 31 := calc
  Real.exp (2 * a) ≤ Real.exp ((19 : ℕ) * 1) := Real.exp_le_exp.2 (by push_cast; linarith)
  _ = Real.exp 1 ^ 19 := Real.exp_nat_mul 1 19
  _ ≤ 3 ^ 19 := pow_le_pow_left₀ (Real.exp_pos 1).le (by linarith [Real.exp_one_lt_d9]) 19
  _ ≤ 2 ^ 31 := by norm_num

/-- e^(2a) from e^(a / 512) by ten squarings. -/
theorem squares_expTerms (hF : F = fixOne) {r : ℕ} {a : ℝ} (hr : (r : ℝ) = a / 512 * F) (h0 : 0 < a) (h9 : a ≤ 19 / 2) :
    F ≤ squares 10 (expTerms r 60 0 F) ∧ (squares 10 (expTerms r 60 0 F) : ℝ) < Real.exp (2 * a) * F ∧
      Real.exp (2 * a) * F ≤ squares 10 (expTerms r 60 0 F) + 2 ^ 100 := by
  have hF0 : (0 : ℝ) < F := hF ▸ fixOne_pos
  have hy : (1 : ℝ) / F ≤ 1 / 2 ^ 100 := by
    rw [hF, fixOne_eq]
    exact one_div_le_one_div_of_le (by positivity) (pow_le_pow_right₀ one_le_two (by decide))
  obtain ⟨h1, h2⟩ := expTerms_exp hF hr (by linarith) (by linarith)
  have hX : F ≤ expTerms r 60 0 F := by
    rw [expTerms]
    exact Nat.le_add_right _ _
  have hsq := squares_bounds hF hF0 10 (expTerms r 60 0 F) (Real.exp (a / 512)) (1 + 2 ^ 32 * (1 / F)) hX h1
  clear hF
  have hX' : (F : ℝ) ≤ expTerms r 60 0 F := by exact_mod_cast hX
  generalize expTerms r 60 0 F = X at *
  obtain ⟨hge, hlow, hhigh⟩ := hsq (by
    have hle : 1 ≤ X * (1 / F : ℝ) := by
      rw [mul_one_div, le_div_iff₀ hF0]
      linarith
    refine h2.trans ?_
    rw [mul_add, mul_one, mul_left_comm]
    linarith) (by positivity)
  have hexp : Real.exp (a / 512) ^ 2 ^ 10 = Real.exp (2 * a) := by
    rw [← Real.exp_nat_mul]
    congr 1
    push_cast
    ring
  rw [hexp] at hlow hhigh
  generalize squares 10 X = x at *
  have hbig := exp_two_mul_le h9
  have hxy : x * (1 / F : ℝ) ≤ 2 ^ 31 := by
    rw [mul_one_div, div_le_iff₀ hF0]
    exact hlow.le.trans (by gcongr)
  have hy0 : (0 : ℝ) ≤ 1 / F := by positivity
  generalize (1 : ℝ) / F = y at *
  have herr : (1 + 2 ^ 32 * y) ^ 2 ^ 10 * (1 + y) ^ (2 ^ 10 - 1) ≤ 1 + 2 ^ 44 * y := calc
    _ ≤ (1 + 2 ^ 32 * y) ^ 2 ^ 10 * (1 + 2 ^ 32 * y) ^ (2 ^ 10 - 1) := by
        gcongr
        linarith
    _ = (1 + 2 ^ 32 * y) ^ 2047 := by rw [← pow_add, (by norm_num : 2 ^ 10 + (2 ^ 10 - 1) = 2047)]
    _ ≤ 1 + 2 * (2047 : ℕ) * (2 ^ 32 * y) := one_add_pow_le (by positivity) 2047 (by push_cast; linarith)
    _ ≤ _ := by push_cast; linarith
  refine ⟨hge, hlow, hhigh.trans ((mul_le_mul_of_nonneg_left herr (Nat.cast_nonneg x)).trans ?_)⟩
  rw [mul_add, mul_one, mul_left_comm]
  linarith

end

/-! ### vtanh (06 R154) -/

section
variable {q : Q} {M : Nat} {K : Int}

theorem realOf_abs (q : Q) : realOf q.abs = |realOf q| := by
  rw [realOf, realOf, Q.abs, abs_div, Nat.abs_cast, Int.cast_natCast, Nat.cast_natAbs, Int.cast_abs]

theorem F32.absQ (hf : F32 q M K) : F32 q.abs M K :=
  ⟨hf.lt, hf.low, hf.high, by rw [realOf_abs, abs_abs, hf.abs], hf.den⟩

theorem le_iff_realOf {a b : Q} (ha : a.den ≠ 0) (hb : b.den ≠ 0) : a.le b = true ↔ realOf a ≤ realOf b := by
  have ha' : (0 : ℝ) < a.den := by positivity
  have hb' : (0 : ℝ) < b.den := by positivity
  rw [Q.le, decide_eq_true_iff, realOf, realOf, div_le_div_iff₀ ha' hb']
  exact_mod_cast Iff.rfl

/-- A choice near the units of an exact result, within two of the last place. -/
theorem within_tanh_units {a : ℝ} {lo hi : Nat} {k : Int} (neg : Bool) (c : Nat) (hk : -149 ≤ k) (hk' : k ≤ 103) (hr : k = -149 ∨ (2 : ℝ) ^ (k + 23) ≤ a)
    (h1 : lo ≤ hi) (h2 : hi ≤ lo + 1) (htop : lo < 2 ^ 24) (hlo : (lo : ℝ) < a / 2 ^ k) (hhi : a / 2 ^ k < hi + 1) :
    Claims.within 2 (convertSat (.fin neg (.scaled (if neg then -pickUnits lo hi 1 2 c else pickUnits lo hi 1 2 c) k)) 0 1 0).1
      (if neg then -a else a) := by
  have h := within_pickUnits neg neg (b := 1) c hk (by omega) le_rfl hr h1 h2 htop (by omega) hlo hhi
  norm_num at h ⊢
  exact h

/-- Near zero the choice is among the units beside the value itself. -/
theorem tanhUnits_small (hf : F32 q M K) (h0 : 0 < realOf q) (hsmall : realOf q < 2 ^ (-12 : ℤ)) :
    ∃ (A : ℕ) (k : ℤ), tanhUnits q = (A - 1, A - 1, k) ∧ realOf q = A * 2 ^ k ∧ A ≤ 2 ^ 24 ∧ -149 ≤ k ∧ k ≤ 103 ∧
      (k = -149 ∨ 2 ^ 23 < A) ∧ realOf q ^ 3 < 2 ^ k := by
  obtain ⟨h1, h2⟩ := floorLog2_realOf h0
  have hlt : q.lt (.scaled 1 (-12)) = true := by
    rw [lt_iff_realOf hf.den_ne (scaled_den_ne _ _), realOf_scaled, Int.cast_one, one_mul]
    exact hsmall
  rw [tanhUnits, if_pos hlt]
  generalize floorLog2 q.num.natAbs q.den = e at *
  have hval := hf.eq_of_pos h0
  have hlow := hf.low
  have hK := hf.unit_ge h0 h1
  have he : e ≤ -13 := by
    have := (zpow_lt_zpow_iff_right₀ (one_lt_two (α := ℝ))).1 (h1.trans_lt hsmall)
    omega
  have hcube (x : ℝ) (n : ℤ) (h : x = 2 ^ n) : x ^ 3 = 2 ^ (3 * n) := by rw [h, mul_comm, zpow_mul]; rfl
  obtain ⟨k, hk, hkK, hk149, hk103, hlarge, hcut, hsize⟩ : ∃ k, k = max (if q.eq (.scaled 1 e) = true then e - 1 else e) (-126) - 23 ∧ k ≤ K ∧
      -149 ≤ k ∧ k ≤ 103 ∧ (k = -149 ∨ (2 : ℝ) ^ (k + 23) < realOf q) ∧ realOf q ≤ 2 ^ (k + 24) ∧ realOf q ^ 3 < 2 ^ k := by
    refine ⟨_, rfl, ?_⟩
    by_cases heq : realOf q = 2 ^ e
    · rw [if_pos ((eq_pow2_iff hf.den_ne e).2 heq), hcube _ _ heq, heq]
      refine ⟨by omega, by omega, by omega, ?_, zpow_le_zpow_right₀ one_le_two (by omega), zpow_lt_zpow_right₀ one_lt_two (by omega)⟩
      rw [zpow_lt_zpow_iff_right₀ one_lt_two]
      omega
    · rw [if_neg (mt (eq_pow2_iff hf.den_ne e).1 heq)]
      refine ⟨by omega, by omega, by omega, ?_, h2.le.trans (zpow_le_zpow_right₀ one_le_two (by omega)), ?_⟩
      · rcases le_total (-126) e with hle | hle
        · rw [max_eq_left hle, sub_add_cancel]
          exact .inr (lt_of_le_of_ne h1 (Ne.symm heq))
        · exact .inl (by omega)
      · calc realOf q ^ 3 = realOf q * realOf q ^ 2 := by ring
          _ < 2 ^ (e + 1) * (2 ^ (-12 : ℤ)) ^ 2 := by gcongr
          _ = 2 ^ (e + 1 + -24) := by rw [zpow_add₀ two_ne_zero (e + 1)]; norm_num
          _ ≤ _ := zpow_le_zpow_right₀ one_le_two (by omega)
  have hu : (0 : ℝ) < 2 ^ k := by positivity
  have hA : realOf q = (M * 2 ^ (K - k).toNat : ℕ) * 2 ^ k := by
    rw [hval, Nat.cast_mul, Nat.cast_pow, Nat.cast_ofNat, mul_assoc, ← zpow_natCast, ← zpow_add₀ two_ne_zero, Int.toNat_of_nonneg (by omega),
      sub_add_cancel]
  have hpow (n : ℕ) : (2 : ℝ) ^ (k + n) = (2 ^ n : ℕ) * 2 ^ k := by
    rw [add_comm, zpow_add₀ two_ne_zero, zpow_natCast, Nat.cast_pow, Nat.cast_ofNat]
  dsimp only
  refine ⟨M * 2 ^ (K - k).toNat, k, ?_, hA, ?_, hk149, hk103, hlarge.imp_right fun h => ?_, hsize⟩
  · rw [← hk, inUnits_exact hA]
  · rw [hA] at hcut
    have := le_of_mul_le_mul_right (hcut.trans_eq (hpow 24)) hu
    exact_mod_cast this
  · rw [hA] at h
    have := lt_of_mul_lt_mul_right ((hpow 23).symm.trans_lt h) hu.le
    exact_mod_cast this

/-- A choice of `vtanh` for the absolute value, with the sign it gets. -/
def TanhChoice (q : Q) : Prop := ∀ (neg : Bool) (c : Nat), Claims.within 2 (convertSat (.fin neg (.scaled
    (if neg then -pickUnits (tanhUnits q).1 (tanhUnits q).2.1 1 2 c else pickUnits (tanhUnits q).1 (tanhUnits q).2.1 1 2 c) (tanhUnits q).2.2)) 0 1 0).1
  (if neg then -Real.tanh (realOf q) else Real.tanh (realOf q))

theorem tanhChoice_small (hf : F32 q M K) (h0 : 0 < realOf q) (hsmall : realOf q < 2 ^ (-12 : ℤ)) : TanhChoice q := by
  obtain ⟨A, k, hT, hA, htop, hk, hk', hlarge, hcube⟩ := tanhUnits_small hf h0 hsmall
  have hlt := tanh_lt_self h0
  have hgt := (sub_tanh_lt h0).trans hcube
  have hu : (0 : ℝ) < 2 ^ k := by positivity
  have hA0 : 1 ≤ A := by
    by_contra h
    rw [hA, Nat.lt_one_iff.1 (not_le.1 h), Nat.cast_zero, zero_mul] at h0
    exact h0.false
  intro neg c
  rw [hT]
  dsimp only
  generalize Real.tanh (realOf q) = r at *
  rw [hA] at hlt hgt
  have hlo : ((A - 1 : ℕ) : ℝ) < r / 2 ^ k := by
    rw [lt_div_iff₀ hu, Nat.cast_sub hA0, Nat.cast_one]
    linarith
  refine within_tanh_units neg c hk hk' (hlarge.imp_right fun h => ?_) le_rfl (by omega) (by omega) hlo ?_
  · have h23 : (2 : ℝ) ^ (k + 23) = (2 ^ 23 : ℕ) * 2 ^ k := by
      rw [add_comm, zpow_add₀ two_ne_zero]
      norm_num
    rw [h23]
    refine le_trans ?_ ((lt_div_iff₀ hu).1 hlo).le
    gcongr
    omega
  · rw [div_lt_iff₀ hu, Nat.cast_sub hA0, Nat.cast_one, sub_add_cancel]
    exact hlt

/-- A value in fixed point for the exponential is exact. -/
theorem inUnits_scale_fixOne (hf : F32 q M K) (h0 : 0 < realOf q) : (inUnits (q.scale (-9)) (-640) : ℝ) = realOf q / 512 * fixOne := by
  obtain ⟨j, hj, hden⟩ := hf.den
  have hnum : ((q.num.toNat : ℤ) : ℝ) = q.num := by rw [Int.toNat_of_nonneg ((realOf_pos hf.den_ne).1 h0).le]
  have hscale : realOf (q.scale (-9)) = realOf q / 512 := by
    rw [realOf_scale, div_eq_mul_inv]
    norm_num
  have hunits : realOf (q.scale (-9)) = (q.num.toNat * 2 ^ (631 - j) : ℕ) * 2 ^ (-640 : ℤ) := by
    rw [hscale, realOf, hden, ← hnum, (by norm_num : (512 : ℝ) = 2 ^ (9 : ℤ))]
    push_cast
    rw [← zpow_natCast, ← zpow_natCast, div_div, ← zpow_add₀ two_ne_zero, div_eq_mul_inv, ← zpow_neg, mul_assoc, ← zpow_add₀ two_ne_zero]
    congr 2
    omega
  rw [inUnits_exact hunits, ← hscale, hunits, fixOne_eq]
  generalize q.num.toNat * 2 ^ (631 - j) = n
  rw [mul_assoc, ← zpow_natCast, ← zpow_add₀ two_ne_zero]
  norm_num

/-- The tangent that a value of e^(2a) in fixed point stands for. -/
def tanhOf (x : Nat) : Q := ⟨(x : Int) - fixOne, x + fixOne⟩

theorem realOf_tanhOf (x : ℕ) : realOf (tanhOf x) = ((x : ℝ) - fixOne) / (x + fixOne) := by
  rw [realOf, tanhOf, Int.cast_sub, Int.cast_natCast, Int.cast_natCast, Nat.cast_add]

/-- The quotient of the tangent grows with e^(2a), by at most half of what that grows relative to one. -/
theorem tanh_quotient {F x E d : ℝ} (hF : 0 < F) (hx : F < x) (h1 : x < E * F) (h2 : E * F ≤ x + d) :
    0 < (x - F) / (x + F) ∧ (x - F) / (x + F) < (E - 1) / (E + 1) ∧ (E - 1) / (E + 1) ≤ (x + d - F) / (x + d + F) ∧
      (x + d - F) / (x + d + F) ≤ (x - F) / (x + F) + d / F ∧ (E - 1) / (E + 1) < 1 := by
  have hE : 0 < E := by
    by_contra h
    nlinarith
  have hd : 0 < d := by linarith
  have hx0 : 0 < x := by linarith
  refine ⟨div_pos (by linarith) (by linarith), ?_, ?_, ?_, ?_⟩
  · rw [div_lt_div_iff₀ (by linarith) (by linarith)]
    nlinarith
  · rw [div_le_div_iff₀ (by linarith) (by linarith)]
    nlinarith
  · rw [div_add_div _ _ (by linarith) hF.ne', div_le_div_iff₀ (by linarith) (by positivity)]
    nlinarith [mul_pos hd hF, mul_pos hd hx0, mul_pos (mul_pos hd hF) hx0, mul_pos (mul_pos hd hF) hF,
      mul_pos (mul_pos hd hd) hF, mul_pos (mul_pos hd hd) hx0, mul_pos (mul_pos hd hx0) hx0]
  · rw [div_lt_one (by linarith)]
    linarith

/-- The choice of `vtanh` between two close bounds of a tangent, the lower one strict. -/
theorem tanh_pick (neg : Bool) {lo hi : Q} {r : ℝ} (c : ℕ) (h0 : 0 < realOf lo) (hlo : realOf lo < r) (hhi : r ≤ realOf hi)
    (hclose : realOf hi ≤ realOf lo + 2 ^ (-149 : ℤ)) (hr : r < 1) :
    Claims.within 2 (convertSat (.fin neg (.scaled (if neg then -pickUnits (inUnits lo (gridExp lo)) (inUnits hi (gridExp lo)) 1 2 c
      else pickUnits (inUnits lo (gridExp lo)) (inUnits hi (gridExp lo)) 1 2 c) (gridExp lo))) 0 1 0).1 (if neg then -r else r) := by
  obtain ⟨h1, h2, h3⟩ := gridExp_bounds h0
  have hk : gridExp lo ≤ 103 := by
    rcases h2 with h2 | h2
    · omega
    · have := (zpow_lt_zpow_iff_right₀ (one_lt_two (α := ℝ))).1 (((h2.trans hlo.le).trans_lt hr).trans_eq (zpow_zero (2 : ℝ)).symm)
      omega
  have hu : (0 : ℝ) < 2 ^ gridExp lo := by positivity
  have hunder : (inUnits lo (gridExp lo) : ℝ) * 2 ^ gridExp lo ≤ realOf lo := by
    rw [inUnits_eq, ← le_div_iff₀ hu]
    exact Nat.floor_le (by positivity)
  have h := within_pick_between neg neg (vhi := hi) (b := 1) c h1 (by omega) le_rfl (h2.imp_right (·.trans hlo.le)) h0.le hlo.le hhi
    (hclose.trans (by gcongr; exact one_le_two)) h3 (by omega) (hunder.trans_lt hlo).ne
  norm_num at h ⊢
  exact h

theorem tanhChoice_large (hf : F32 q M K) (hlarge : (2 : ℝ) ^ (-12 : ℤ) ≤ realOf q) (h9 : realOf q < 9011 / 1000) : TanhChoice q := by
  have h0 : 0 < realOf q := lt_of_lt_of_le (by positivity) hlarge
  have hnlt : ¬ q.lt (.scaled 1 (-12)) = true := by
    rw [lt_iff_realOf hf.den_ne (scaled_den_ne _ _), realOf_scaled, Int.cast_one, one_mul]
    exact hlarge.not_gt
  obtain ⟨r, hr, hT⟩ : ∃ r : ℕ, (r : ℝ) = realOf q / 512 * fixOne ∧ tanhUnits q = (let x := squares 10 (expTerms r 60 0 fixOne)
      (inUnits (tanhOf x) (gridExp (tanhOf x)), inUnits (tanhOf (x + 2 ^ 100)) (gridExp (tanhOf x)), gridExp (tanhOf x))) :=
    ⟨inUnits (q.scale (-9)) (-640), inUnits_scale_fixOne hf h0, by rw [tanhUnits, if_neg hnlt]; rfl⟩
  obtain ⟨hge, hlow, hhigh⟩ := squares_expTerms rfl hr h0 (by linarith)
  have hgap : (2 : ℝ) ^ 100 / fixOne ≤ 2 ^ (-149 : ℤ) := (two_zpow_div_fixOne 100).le.trans (zpow_le_zpow_right₀ one_le_two (by decide))
  have hone : (2 : ℝ) ^ 100 ≤ fixOne * 2 ^ (-12 : ℤ) := by
    rw [div_le_iff₀ fixOne_pos, mul_comm] at hgap
    exact hgap.trans (mul_le_mul_of_nonneg_left (zpow_le_zpow_right₀ one_le_two (by decide)) fixOne_pos.le)
  have hF0 := fixOne_pos
  intro neg c
  rw [hT]
  dsimp only
  generalize squares 10 (expTerms r 60 0 fixOne) = x at *
  have hE : 1 + 2 * realOf q < Real.exp (2 * realOf q) := by linarith [Real.add_one_lt_exp (by positivity : 2 * realOf q ≠ 0)]
  have hv := realOf_tanhOf x
  have hv' := realOf_tanhOf (x + 2 ^ 100)
  rw [Nat.cast_add, Nat.cast_pow, Nat.cast_ofNat] at hv'
  clear hge hr hT
  generalize (fixOne : ℝ) = F at *
  have hx : F < x := by nlinarith
  obtain ⟨ht0, ht1, ht2, ht3, ht4⟩ := tanh_quotient hF0 hx hlow hhigh
  rw [← tanh_eq_div] at ht1 ht2 ht4
  rw [← hv] at ht0 ht1 ht3
  rw [← hv'] at ht2 ht3
  exact tanh_pick neg c ht0 ht1 ht2 (ht3.trans (by linarith)) ht4

theorem tanhT_within_zero (nz : Bool) (b : BitVec 32) (h : q.num = 0) : Claims.within 2 (tanhT (.fin nz q) b).1 (Real.tanh (realOf q)) := by
  have hq : realOf q = 0 := by rw [realOf, h, Int.cast_zero, zero_div]
  have hT : (tanhT (.fin nz q) b).1 = if nz then 0x80000000 else 0 := by simp only [tanhT, XV.isNeg, if_pos h]
  have hv : ∃ z, valueOf 0 (if nz then 0x80000000 else 0) = .fin z (.scaled 0 (-149)) := by cases nz <;> exact ⟨_, rfl⟩
  obtain ⟨z, hv⟩ := hv
  rw [hT, hq, Real.tanh_zero]
  exact within_exact two_pos hv (by rw [realOf_scaled, Int.cast_zero, zero_mul])

theorem tanhT_within (nz : Bool) (b : BitVec 32) (hf : F32 q M K) (h9 : q.abs.lt ⟨9011, 1000⟩ = true) :
    Claims.within 2 (tanhT (.fin nz q) b).1 (Real.tanh (realOf q)) := by
  by_cases h0 : q.num = 0
  · exact tanhT_within_zero nz b h0
  rw [lt_iff_realOf hf.absQ.den_ne (by decide)] at h9
  have hbound : realOf ⟨9011, 1000⟩ = 9011 / 1000 := by norm_num [realOf]
  rw [hbound] at h9
  have hne : realOf q ≠ 0 := div_ne_zero (by exact_mod_cast h0) (by exact_mod_cast hf.den_ne)
  have hpos : 0 < realOf q.abs := by rw [realOf_abs]; exact abs_pos.2 hne
  have hchoice : TanhChoice q.abs := by
    rcases lt_or_ge (realOf q.abs) (2 ^ (-12 : ℤ)) with h | h
    · exact tanhChoice_small hf.absQ hpos h
    · exact tanhChoice_large hf.absQ h h9
  have hle : ¬ Q.le ⟨9011, 1000⟩ q.abs = true := by
    rw [le_iff_realOf (by decide) hf.absQ.den_ne, hbound]
    exact h9.not_ge
  have hT : (tanhT (.fin nz q) b).1 = (convertSat (.fin (decide (q.num < 0)) (.scaled (if decide (q.num < 0) = true then
      -pickUnits (tanhUnits q.abs).1 (tanhUnits q.abs).2.1 1 2 (Config.vtanh b) else
      pickUnits (tanhUnits q.abs).1 (tanhUnits q.abs).2.1 1 2 (Config.vtanh b)) (tanhUnits q.abs).2.2)) 0 1 0).1 := by
    simp only [tanhT, XV.isNeg, if_neg h0, if_neg hle]
  have hsign : Real.tanh (realOf q) = if decide (q.num < 0) = true then -Real.tanh (realOf q.abs) else Real.tanh (realOf q.abs) := by
    have hd : (0 : ℝ) < q.den := by exact_mod_cast Nat.pos_of_ne_zero hf.den_ne
    rw [realOf_abs]
    split
    next h =>
      have : realOf q < 0 := div_neg_of_neg_of_pos (by exact_mod_cast of_decide_eq_true h) hd
      rw [abs_of_neg this, Real.tanh_neg, neg_neg]
    next h =>
      have : 0 ≤ realOf q := div_nonneg (by exact_mod_cast not_lt.1 fun h' => h (decide_eq_true h')) hd.le
      rw [abs_of_nonneg this]
  rw [hT, hsign]
  exact hchoice _ _

end

/-- Settles O20: each function takes a choice between two bounds of its exact result that lie less than one unit of the f32 grid apart. -/
theorem transcendentalBounds : Obligations.TranscendentalBounds := by
  intro c nz q b hc hv
  obtain ⟨M, K, hf⟩ := f32_of_valueOf hc hv
  exact ⟨rsqT_within nz b hf, fun h => exp2T_within nz b h hf, log2T_within nz b hf, tanhT_within nz b hf⟩

end Sys2Proof.Machine
end
